-- ==== Sys2Proof/Word.lean ====
section
/-! DEFINITION. The word types of the LX1180 (R3: registers and host structures are little-endian words of bytes). -/

namespace Sys2Proof

/-- One byte of a memory, a descriptor or a frame. -/
abbrev Byte := BitVec 8

/-- A register of BAR0 (R593: every register is 32 bits wide). -/
abbrev Word := BitVec 32

/-- A run of bytes, the lowest address first. -/
abbrev Bytes := List Byte

end Sys2Proof
end

