-- ==== Sys2Proof/Syntax.lean ====
section
/-! DEFINITION. The commands of the block, one constructor per row of the opcode table (210 rows), with the operands
that the event carries: an index of a register set, the value written or received, and what the judging island
measured. A timer row is the judgement that the timer has expired. -/

namespace Sys2Proof

/-- The supervised rails (R33). -/
inductive Rail where
  | vcore | vdd18 | vser
deriving DecidableEq, Repr

/-- The reference clocks (R58). -/
inductive Ref where
  | xin | cref | peref
deriving DecidableEq, Repr

/-- The two safety channels (R331). -/
inductive Chan where
  | a | b
deriving DecidableEq, Repr

/-- The two pairs of safety inputs (R333). -/
inductive Pair where
  | hatch | estop
deriving DecidableEq, Repr

/-- Completion status of a host read (R76, R79): successful, poisoned, Unsupported Request, Completer Abort. -/
inductive RdStatus where
  | ok | poisoned | unsupported | abort
deriving DecidableEq, Repr

/-- What SECDED ECC finds in the SRAM words that a step reads (R11): the number of single-bit errors corrected, and the items
whose words hold a double-bit error, by the number that the step gives its items. -/
structure EccSeen where
  corrected : Nat := 0
  bad : List Nat := []
deriving DecidableEq, Repr

/-- What a strip returned during one shift (R233): its header word and duty cells as read back, and the check that followed. -/
structure StripRet where
  header : BitVec 64
  cells : List (BitVec 16)
  check : Nat
deriving DecidableEq, Repr

/-- What one Frond saw in a latch gap (R230, R231, R243, R244): the local strips that refused the latch (`TALTn_N` is low if there
is one), the `SD` pins of the chip (by strip index) that read wrong in both patterns, and the `SREF` pins whose voltage moved by
more than 100 mV. -/
structure LatchSeen where
  refused : List Nat
  sdBad : List Nat
  srefMoved : List Nat
deriving DecidableEq, Repr

/-- The certificate bytes and tile data that one identity step has read (R269 to R273): the headers of the two ledger copies, then
the copies, with what the words of the retained ledger showed, by block (R280). -/
inductive IdStep where
  | curve (bytes : Bytes)
  | heads (headA headB : Bytes)
  | ledger (copyA copyB : Bytes) (ecc : EccSeen)
  | cert (bytes : Bytes)
  | map (bytes : Bytes)
deriving DecidableEq, Repr

/-- The operation that needs a tile-bus transaction (R261): the identity step that waits, the commit, the `STATUS` of an alert
(R262), the tile temperature (R263), the map of a takeover (R317). -/
inductive BusOp where
  | identity | commit | status | temp | mapReread
deriving DecidableEq, Repr

/-- A time as seconds and nanoseconds. -/
structure Stamp where
  sec : Nat
  ns : Nat
  frac : Nat := 0
deriving DecidableEq, Repr, Inhabited

/-- What a safety channel finds at the end of its power-up self-test (R345): steps 1 to 3 and 5 to 7 passed, and the
levels of its inputs and its feedback. Step 4 follows from the NVM. -/
structure SelftestResult where
  ok : Bool
  hatchHigh : Bool
  estopHigh : Bool
  fbHigh : Bool
deriving DecidableEq, Repr

/-- What a fetch stall takes its limit for (R176 R177). -/
inductive StallTarget where
  | group (gid : Nat)
  | layer (l : Fin 63)
deriving DecidableEq, Repr

/-- A quarantined Frond's write that is discarded (R320). -/
inductive StaleWrite where
  | check | readback
deriving DecidableEq, Repr

/-- The echo of an input test pulse (R338 R339): the own input fell in time, it was high again 100 µs after the rise,
and the other channel's input fell during the pulse. -/
structure EchoSeen where
  fell : Bool
  returned : Bool
  otherFell : Bool
deriving DecidableEq, Repr

/-- One sensor's raw value (R418 R420): 1/16 °C of a die or tile sensor, ohms of an NTC; none if the conversion or read
did not complete. -/
structure SensorSeen where
  sensor : Fin 22
  raw : Option Int
deriving DecidableEq, Repr

/-- A Sync copy at the servo (R510): port, sequence number, ingress timestamp in local time, origin timestamp plus
corrections, in 2^-16 ns. -/
structure SyncSeen where
  port : Fin 2
  seq : Nat
  ingress : Int
  origin : Int
deriving DecidableEq, Repr

/-- A Delay_Resp at the servo (R510): sequence number, the Delay_Req's egress timestamp in local time, the master's
receive timestamp less corrections, in 2^-16 ns. -/
structure DelaySeen where
  seq : Nat
  egress : Int
  received : Int
deriving DecidableEq, Repr

/-- `VHOLD` as Lichen sees it (R61 R63 R68): the reading in 1 mV, and the `VHOLD_READY` comparator: `VHOLD` lies above it. -/
structure VholdSeen where
  mv : BitVec 16
  above : Bool
deriving DecidableEq, Repr

/-- What the boot check reads (R533 R538): pages with an uncorrectable error. -/
structure BootSeen where
  unreadable : List Nat
deriving DecidableEq, Repr

/-- A write of configuration space (R70 R71 R73 R74 R600): the controls, the base address registers, and the status words of
Advanced Error Reporting, whose bits are cleared by writing 1. -/
inductive CfgWrite where
  | busMaster (b : Bool)
  | memorySpace (b : Bool)
  | d3hot (b : Bool)
  | extendedTag (b : Bool)
  | tenBitTag (b : Bool)
  | timeoutValue (v : Fin 16)
  | timeoutDisable (b : Bool)
  | maxRead (c : Fin 6)
  | maxPayload (c : Fin 6)
  | msixEnable (b : Bool)
  | functionMask (b : Bool)
  | bar (two high : Bool) (value : BitVec 32)
  | aerUncorrectable (value : BitVec 32)
  | aerCorrectable (value : BitVec 32)
deriving DecidableEq, Repr

/-- The commands of the block. -/
inductive Instr where
  /-- `VIN_RISE_POR` (R34): VIN rises through VPOR_RISE and Lichen applies the power-on reset. -/
  | vinRisePor
  /-- `POR_RELEASE` (R34): VIN has stayed above VPOR_RISE for 1 ms, so Lichen releases the power-on reset and the charge pump
  starts. -/
  | porRelease (svcEnN : Bool) (resetNHigh : Bool)
  /-- `RESET_N_RELEASE` (R36): Lichen sees RESET_N high, which fixes the reset release instant if the power-on reset has already
  been released. -/
  | resetNRelease (svcEnN : Bool)
  /-- `RESET_N_LOW` (R54): A RESET_N low lasts the filter time t_RSTF, and the chip resets with cause PIN once any NVM record in
  progress completes. -/
  | resetNLow
  /-- `RESET_N_STUCK` (R55): RESET_N stays low for the stuck limit; Lichen latches RSTSTUCK, releases the reset with cause STUCK
  and ignores the pin. -/
  | resetNStuck (svcEnN : Bool)
  /-- `RESET_N_HONOURED` (R55): The ignored RESET_N has been high continuously for 100 ms, so Lichen honours it again. -/
  | resetNHonoured
  /-- `VIN_SLOW` (R42): VIN falls below VSAG_SLOW, and Lichen halves the clocks of the compositor and ring engine. -/
  | vinSlow
  /-- `SAG_DWELL` (R42): VIN has stayed below VSAG_SLOW for SAG_DWELL, and Lichen quarters the compositor and ring-engine clocks. -/
  | sagDwell
  /-- `VIN_SLOW_RELEASE` (R43): VIN has stayed above the VSAG_SLOW release threshold for 1 ms, and Lichen restores full clocks. -/
  | vinSlowRelease
  /-- `SAVE_SEQUENCE` (R45): VIN falls below VSAG_SAVE; Lichen feeds VCORE from VHOLD, stops four islands, raises VIN_SAVE and
  starts forming the save records. -/
  | saveSequence
  /-- `SAG_RELEASE` (R49): After a save, VIN has stayed above the VSAG_SLOW release threshold for 100 ms, and Lichen releases the
  reset with cause SAG. -/
  | sagRelease (svcEnN : Bool)
  /-- `VIN_STOP` (R48): VIN falls below VSTOP, which stops every island that takes no part in a save, and the light goes Off. -/
  | vinStop
  /-- `VIN_REMOVAL` (R35): VIN stays below VSTOP for 100 ms, or the always-on domain loses supply, and every Lichen latch clears. -/
  | vinRemoval
  /-- `RAIL_UNDERVOLTAGE` (R33): A rail stays more than 10 % low for 5 µs, and Lichen resets the chip with cause RAIL. -/
  | railUndervoltage (rail : Rail)
  /-- `VHOLD_READY` (R38): VHOLD reaches VHOLD_READY, which satisfies one condition of first light. -/
  | vholdReady
  /-- `VHOLD_READY_TIMEOUT` (R40): VHOLD has not reached VHOLD_READY within 2 s of reset release, so VHOLD_LOW is raised and first
  light no longer waits for VHOLD. -/
  | vholdReadyTimeout
  /-- `VHOLD_FALL` (R40): VHOLD stays below VHOLD_READY for 10 ms while the chip runs, and VHOLD_LOW is raised. -/
  | vholdFall
  /-- `BUCK_PHASE` (R32): A buck phase shows no current for 64 cycles, so Lichen drops it and raises BUCK_PHASE. -/
  | buckPhase (phase : Fin 4)
  /-- `CLOCK_REFERENCE_FAIL` (R59): A reference clock is missing or off by more than 1 %; Lichen switches to backup or takes the
  link down and raises the clock source. -/
  | clockReferenceFail (ref : Ref)
  /-- `CLOCK_REFERENCE_RETURN` (R59): A failed reference has been good for 10 ms, and Lichen returns to it. -/
  | clockReferenceReturn (ref : Ref)
  /-- `PWR_MON_UPDATE` (R63): Lichen updates the VIN and VHOLD readings every 1 ms. -/
  | pwrMonUpdate (vinMv : BitVec 16) (vhold : VholdSeen)
  /-- `SWRST_KEY` (R57): A level-0 write of 0xA5C3 to PWR_RST_CTRL resets the chip with cause SOFT. -/
  | swrstKey (level0 : Bool) (value : BitVec 32)
  /-- `SAFETY_SELFTEST` (R345): Each safety channel completes its power-up self-test after reset release, which permits the
  outputs or raises SAF_SELFTEST. -/
  | safetySelftest (ch : Chan) (result : SelftestResult)
  /-- `NVM_INHIBIT_TRIP` (R432): The write-inhibit comparator trips; new NVM records are refused and THM_NVM_INHIBIT is raised. -/
  | nvmInhibitTrip
  /-- `NVM_INHIBIT_RELEASE` (R432): The write-inhibit comparator releases, and THM_NVM_INHIBIT is raised. -/
  | nvmInhibitRelease
  /-- `THERMAL_SHUTDOWN` (R433): The shutdown comparator trips; Lichen forces SLO and TENn low, writes the shutdown record and
  holds the chip in reset with cause THERM. -/
  | thermalShutdown
  /-- `PERST_N_ASSERT` (R73): Assertion of PERST_N resets the host island only. -/
  | perstNAssert
  /-- `HOT_RESET` (R73): A hot reset resets the host island only. -/
  | hotReset
  /-- `LINK_DISABLE` (R73): The host takes the link down with Link Disable, which resets the host island. -/
  | linkDisable
  /-- `SURPRISE_LINK_DOWN` (R73): The link goes down uncommanded; the host island resets and HOST_LINK_DOWN is raised. -/
  | surpriseLinkDown
  /-- `DMA_RESUME` (R75): The link is up, Bus Master Enable is set and the function is in D0, so the ring engine resumes and posts
  held completions. -/
  | dmaResume
  /-- `UNSUPPORTED_REQUEST` (R601): A BAR0 or BAR2 request outside D0 or with Memory Space Enable clear completes as Unsupported
  Request without effect. -/
  | unsupportedRequest (write : Bool) (bar2 : Bool) (off : Nat) (value : BitVec 32)
  /-- `HOST_READ_COMPLETION` (R76): A completion for a host read request arrives at the host island and its data is passed to the
  requesting item. -/
  | hostReadCompletion (tag : Nat) (status : RdStatus) (data : Bytes)
  /-- `HOST_CPL_TMO` (R77): A host read request is not completed within the completion timeout; its tag is abandoned and the item
  that needed the data fails. -/
  | hostCplTmo (tag : Nat)
  /-- `REGISTER_WRITE` (R5): A BAR0 write to a register field without behaviour of its own sets or clears it according to its
  access code. The write is one of 32 bits with its byte enables, or of 64 with its upper word (R593). -/
  | registerWrite (off : Nat) (value : BitVec 32) (enables : BitVec 4 := 15) (high : Option (BitVec 32 × BitVec 4) := none)
  /-- `FRM_NUM_CAPTURE` (R208): A read of FRM_NUM_LO captures the whole 64-bit frame number for the later high-word read. -/
  | frmNumCapture
  /-- `TIM_NOW_CAPTURE` (R524): A read of TIM_NOW_SEC_LO captures the whole output time for the later reads. -/
  | timNowCapture
  /-- `APPLY` (R84): A level-0 write of 1 to HIF_PROT_CTRL.APPLY stores the carried fields and copies the shadow protection table
  into the active table. -/
  | apply (level0 : Bool) (value : BitVec 32)
  /-- `PROT_SET` (R119): The descriptor writes one protection-table entry into the active table and the shadow. -/
  | protSet (id : Nat)
  /-- `SQ_TAIL_DOORBELL` (R106): A write to an SQ tail doorbell makes descriptors available, or is ignored and recorded as a
  doorbell error. -/
  | sqTailDoorbell (n : Fin 32) (value : BitVec 32) (proper : Bool)
  /-- `FENCE_KICK` (R169): A FENCE_KICK doorbell causes the fence polls of every held commit that the SQ submitted. -/
  | fenceKick (n : Fin 32) (value : BitVec 32) (proper : Bool)
  /-- `CQ_HEAD_DOORBELL` (R127): A write to a CQ head doorbell releases entries and re-arms the CQ, signalling at once if newer
  entries wait. -/
  | cqHeadDoorbell (n : Fin 32) (value : BitVec 32) (proper : Bool)
  /-- `SQ_ENABLE` (R130): A write of 1 to HIF_SQn_CFG.ENABLE enables a disabled SQ bound to an enabled CQ. -/
  | sqEnable (n : Fin 32) (level0 : Bool) (value : BitVec 32)
  /-- `SQ_DRAIN` (R131): A write of 0 to HIF_SQn_CFG.ENABLE starts draining, and consumed descriptors that have not begun complete
  FLUSHED. -/
  | sqDrain (n : Fin 32) (level0 : Bool) (value : BitVec 32)
  /-- `CQ_ENABLE` (R123): A write of 1 to HIF_CQn_CFG.ENABLE enables the CQ with head and tail 0 and phase 1. -/
  | cqEnable (n : Fin 32) (level0 : Bool) (value : BitVec 32)
  /-- `CQ_DISABLE` (R133): A write of 0 to HIF_CQn_CFG.ENABLE disables the CQ when no SQ binds it and no entries are reserved. -/
  | cqDisable (n : Fin 32) (level0 : Bool) (value : BitVec 32)
  /-- `IRQ_EN_WRITE` (R127): A write of IRQ_EN arms or disarms an enabled CQ, and signals at once if entries wait. -/
  | irqEnWrite (n : Fin 32) (level0 : Bool) (value : BitVec 32)
  /-- `DESCRIPTOR_FETCH` (R110): The ring engine starts a round-robin turn that reserves CQ entries and reads up to 8 descriptors
  of one SQ. -/
  | descriptorFetch (n : Fin 32)
  /-- `DESCRIPTOR_CONSUMED` (R108): Descriptor data arrives; each descriptor is consumed, format- and privilege-checked, and
  queued for dispatch or completed with a failure. -/
  | descriptorConsumed (n : Fin 32) (ecc : EccSeen := {})
  /-- `DISPATCH` (R111): A consumed descriptor whose ORD or LAYER_COMMIT conditions have cleared is dispatched to its executing
  island. -/
  | dispatch (id : Nat)
  /-- `COMPLETION_POST` (R124): An operation completes, and the ring engine writes its completion entry and signals the CQ's
  vector if armed. -/
  | completionPost
  /-- `EVENT_POST` (R128): An unsolicited event is posted as an event entry on CQ31, or discarded and counted if no entry is free.
  -/
  | eventPost
  /-- `HOST_SILENT` (R134): The host-silence timer reaches HIF_SILENT, so the host-silence Lanternmoss condition holds and
  HOST_SILENT is raised. -/
  | hostSilent
  /-- `NOP` (R116): The descriptor completes OK and serves as a barrier with ORD. -/
  | nop (id : Nat)
  /-- `LAYER_SET` (R146): The descriptor reads context bytes from host memory into a layer's staged context, all or nothing. -/
  | layerSet (id : Nat)
  /-- `LAYER_COMMIT` (R165): The compositor takes a commit group, copying the named staged contexts, or rejects it with BUSY or
  LINEBUF. -/
  | layerCommit (id : Nat)
  /-- `CACHE_LOAD` (R162): The descriptor loads host data into the resident cache and makes its lines valid, unless the range is
  in use. -/
  | cacheLoad (id : Nat)
  /-- `CACHE_EVICT` (R162): The descriptor makes a cache range invalid, unless the range is in use. -/
  | cacheEvict (id : Nat)
  /-- `FENCE_POLL_TICK` (R169): The common poll period expires, and every unsatisfied fence of every held group is polled. -/
  | fencePollTick
  /-- `FENCE_POLL_RESULT` (R168): A fence poll result reaches the compositor, and the fence is recorded as satisfied if the value
  meets its threshold. -/
  | fencePollResult (gid : Nat) (entry : Fin 8)
  /-- `FRAME_BOUNDARY` (R191): The time island places the next frame boundary on the grid, possibly ending a bridge frame. -/
  | frameBoundary
  /-- `LATCH_GAP_START` (R190): The time island places the latch-gap start at T_F − 48 µs into the frame. -/
  | latchGapStart
  /-- `CUT_POINT` (R23): The latch-gap-start handshake completes in the compositor, which closes commit taking for the next
  boundary and releases groups whose composition has ended. -/
  | cutPoint
  /-- `BOUNDARY_FLIP` (R194): At a boundary in the compositor, eligible groups and flip-gate items pass, the stores swap,
  composition of the new frame begins and the governor scale is computed. -/
  | boundaryFlip (ecc : EccSeen := {})
  /-- `COMPOSITION_END` (R157): The composition of a frame ends, which confirms provisional flips and lets group releases follow. -/
  | compositionEnd
  /-- `FENCE_TMO` (R170): A group's fence timeout expires with a fence unsatisfied; it completes FENCE_TMO and an event is posted.
  -/
  | fenceTmo (gid : Nat)
  /-- `FETCH_TMO` (R176): The consecutive-stall count reaches FETCH_TMO; the group completes STALL or the layer enters its stall
  policy. -/
  | fetchTmo (target : StallTarget)
  /-- `STATIC_PICTURE_ENTRY` (R202): The count of unchanged boundaries reaches STATIC_HOLD, and the compositor enters
  static-picture mode. -/
  | staticPictureEntry
  /-- `FRAME_CTRL` (R205): The descriptor sets RATE, EPOCH, STATIC or EXTEND, which takes effect at the next boundary after its
  cut point. -/
  | frameCtrl (id : Nat)
  /-- `SHIFT` (R200): At a boundary each Frond decides whether to shift, computes duty, clamp and probes, and shifts the strip
  streams. -/
  | shift (f : Fin 9) (ecc : EccSeen := {})
  /-- `SHIFT_END` (R234): A shift ends; the Frond compares the readback CRC with the previous check and applies returned verdicts.
  -/
  | shiftEnd (f : Fin 9) (rets : List StripRet)
  /-- `LATCH` (R232): At the latch-gap start, the Frond pulses TLATn, samples TALTn_N, applies analog settings and runs the
  latch-gap tests and calibration step. -/
  | latch (f : Fin 9) (seen : LatchSeen)
  /-- `SLICE_START` (R223): At each slice start the Frond pulses TSYNCn with its width code and sends its heartbeat token. -/
  | sliceStart (f : Fin 9) (slice : Fin 16) (telem : List (Nat × Nat × Nat))
  /-- `STRIP_SET` (R241): The descriptor sets a strip item, which passes in a duty-side step and an analog step at two boundaries.
  -/
  | stripSet (id : Nat)
  /-- `TILE_INSERTION` (R264): TPRSn_N low for 50 ms is an insertion, and the Frond starts reading the tile. -/
  | tileInsertion (n : Fin 8)
  /-- `TILE_REMOVAL` (R264): TPRSn_N high for 10 µs is a removal; TENn goes low, the tile pins stop and an orphan is made if the
  tile was not released. -/
  | tileRemoval (n : Fin 8)
  /-- `TILE_ALERT` (R262): TALTn_N low for 20 µs outside the latch window; the Frond reads STATUS and raises TILE_ALERT. -/
  | tileAlert (n : Fin 8) (status : Byte)
  /-- `TILE_BUS_RETRY` (R261): An unacknowledged tile-bus transaction is retried after 1 ms, and fails the operation after the
  fourth attempt. -/
  | tileBusRetry (n : Fin 8) (ack : Bool) (op : BusOp := .identity)
  /-- `TILE_HEADER_CHECK` (R269): Step 1 reads and checks the tile header, which enables the tile or raises TILE_ID_BAD. -/
  | tileHeaderCheck (n : Fin 8) (header : Bytes)
  /-- `TILE_IDENTITY_STEP` (R269): A step of the curve, ledger, certificate or map read ends and is checked, and the tile becomes
  ready when all steps end. -/
  | tileIdentityStep (n : Fin 8) (data : IdStep)
  /-- `CHALLENGE_POLL` (R263): Every 5 ms the Frond polls AUTH and reads RESPONSE once DONE is set. -/
  | challengePoll (n : Fin 8) (auth : Byte) (response : Bytes)
  /-- `CHALLENGE_TIMEOUT` (R271): The signature has not arrived within 100 ms, and the certificate step fails. -/
  | challengeTimeout (n : Fin 8)
  /-- `GAIN_RECOMPUTE` (R274): The GAIN_S interval expires, and every gain of every ready tile is recomputed and passes the flip
  gate. -/
  | gainRecompute
  /-- `LEDGER_TAP` (R276): At the latch-gap start the management processor adds each block's charge to P_b and takes pending
  commit snapshots. -/
  | ledgerTap (f : Fin 9) (ecc : EccSeen := {})
  /-- `PERIODIC_LEDGER_COMMIT` (R279): Trigger channel 9 fires, and every ready tile is committed. -/
  | periodicLedgerCommit
  /-- `COMMIT_READBACK` (R278): A ledger copy write ends and its read-back is checked, updating T_b and P_b, repeating once, or
  raising LDG_COMMIT_FAIL. -/
  | commitReadback (n : Fin 8) (bytes : Bytes)
  /-- `STATUS` (R285): TILE_CMD STATUS writes the tile's status record to host memory. -/
  | status (id : Nat)
  /-- `RELEASE` (R286): TILE_CMD RELEASE drives TENn low at the next latch gap, commits the tile and marks it released. -/
  | release (id : Nat)
  /-- `RESCAN` (R269): TILE_CMD RESCAN reads the tile again as at insertion. -/
  | rescan (id : Nat)
  /-- `ID_READ` (R284): TILE_CMD ID_READ writes the tile header to host memory. -/
  | idRead (id : Nat)
  /-- `ORPHAN_INFO` (R284): TILE_CMD ORPHAN_INFO writes the list of orphan sets to host memory. -/
  | orphanInfo (id : Nat)
  /-- `ORPHAN_CLEAR` (R284): TILE_CMD ORPHAN_CLEAR deletes one orphan set. -/
  | orphanClear (id : Nat)
  /-- `RETURN` (R284): TILE_CMD RETURN ends the release of a present tile and rescans it. -/
  | returnTile (id : Nat)
  /-- `LEDGER_READ` (R287): The descriptor writes T_b + P_b for a range of blocks to host memory. -/
  | ledgerRead (id : Nat)
  /-- `LEDGER_COMMIT` (R288): The descriptor requests commits of the named tiles and completes when they end. -/
  | ledgerCommit (id : Nat)
  /-- `DIAG_READ` (R314): The descriptor writes a range of the verdict map to host memory. -/
  | diagRead (id : Nat)
  /-- `PROBE_PERIOD` (R308): Trigger channel 10 ends a probe period; untested pixels become due and tested bits clear. -/
  | probePeriod
  /-- `HEARTBEAT_CHECK` (R316): At 1.0 µs after a slice start the supervisor judges each token and passes TSYNCn or declares a
  Frond suspect or dead. -/
  | heartbeatCheck (f : Fin 9) (token pulseSeen : Bool) (slice : Fin 16 := 0)
  /-- `TAKEOVER_COMPLETE` (R318): The spare drives the tile pins, restarting the shift if there is time, and starts re-reading the
  uniformity map. -/
  | takeoverComplete (n : Fin 8)
  /-- `MAP_REREAD_COMPLETE` (R317): The spare's re-read of the uniformity map ends, and the map passes the flip gate at the next
  boundary. -/
  | mapRereadComplete (n : Fin 8) (map : Bytes)
  /-- `FROND_STALE` (R320): A quarantined Frond's write is discarded and counted, and FROND_STALE is raised at the first. -/
  | frondStale (f : Fin 9) (write : StaleWrite)
  /-- `FROND_REINSTATE` (R321): The descriptor starts the self-test of a quarantined Frond. -/
  | frondReinstate (id : Nat)
  /-- `FROND_SELFTEST_END` (R321): The Frond self-test ends; the Frond becomes spare or owner, or stays quarantined. -/
  | frondSelftestEnd (f : Fin 9) (code : Nat)
  /-- `SAFETY_INPUT_DEMAND` (R335): An input has been low for T_FILT; the channel drives its output low and signals the other
  channel. -/
  | safetyInputDemand (ch : Chan) (pair : Pair)
  /-- `DEMAND_SIGNAL` (R335): The other channel receives a demand signal and drives its own output low. -/
  | demandSignal (ch : Chan) (pair : Pair)
  /-- `SAF_DISC` (R336): The other input of a pair has not followed within T_DISC, so a discrepancy is latched. -/
  | safDisc (ch : Chan) (pair : Pair)
  /-- `DISCREPANCY_CLEAR` (R336): Both inputs have been low together for T_FILT, which clears the discrepancy latch. -/
  | discrepancyClear (ch : Chan) (pair : Pair)
  /-- `DEMAND_END` (R337): Both inputs have been high for T_FILT with the restart condition met, so the demand ends. -/
  | demandEnd (ch : Chan) (pair : Pair)
  /-- `CROSS_LINK_EXCHANGE` (R332): The channels exchange state every 50 µs, and outputs rise when every permit condition holds.
  `agree`: the states exchanged differ in nothing that the exchange itself does not explain. -/
  | crossLinkExchange (agree : Bool := true)
  /-- `CROSS_LINK_LOSS` (R332): No cross-link message for 500 µs; the channel drives its output low and raises SAF_XCMP. -/
  | crossLinkLoss (ch : Chan)
  /-- `CROSS_LINK_DISAGREE` (R332): An unexplained difference lasts 2 ms; the channel drives its output low and raises SAF_XCMP. -/
  | crossLinkDisagree (ch : Chan)
  /-- `INPUT_TEST_PULSE` (R338): A channel sends its TPI_WIDTH low pulse on TPx once per TP_PERIOD. -/
  | inputTestPulse (ch : Chan)
  /-- `SAF_TPI` (R338): The echo window of an input test ends and a failed verdict raises SAF_TPI. -/
  | safTpi (ch : Chan) (echo : EchoSeen)
  /-- `OUTPUT_TEST_PULSE` (R341): A channel pulses its SLO output low for TP_WIDTH once per TP_PERIOD. -/
  | outputTestPulse (ch : Chan)
  /-- `OUTPUT_TEST_VERDICT` (R341): SLOFB is checked at FB_DLY after the pulse edges, and a failure raises SAF_SLO. -/
  | outputTestVerdict (ch : Chan) (lowOk highOk : Bool)
  /-- `FEEDBACK_CHECK` (R340): Two consecutive SLOFB samples contrary to SLO raise SAF_SLO. -/
  | feedbackCheck (ch : Chan) (level : Bool)
  /-- `EG_DIVERSE` (R352): A channel completes its diverse radiance check of a returned stream and drives its output low on a
  trip. -/
  | egDiverse (ch : Chan) (n : Fin 8) (streams : List StripRet)
  /-- `SAFE_WRITE` (R358): The descriptor stages a validated safety parameter set, or records why it was refused. -/
  | safeWrite (id : Nat)
  /-- `SAFE_READ` (R359): The descriptor writes a safety set and its check value to host memory. -/
  | safeRead (id : Nat)
  /-- `SAFE_CONFIRM` (R360): The descriptor writes the staged set as the new confirmed copy when the check value matches. -/
  | safeConfirm (id : Nat)
  /-- `SAFETY_SET_IN_FORCE` (R361): The confirmed record carries its marker, so both channels take the new set into force at one
  exchange. -/
  | safetySetInForce
  /-- `SAFE_LOCK` (R363): A level-0 write setting SAFE_LOCK locks every RWL field until chip reset. -/
  | safeLock (level0 : Bool) (value : BitVec 32)
  /-- `REF_RREF` (R402): The base current stays outside 95 µA to 105 µA for 100 µs, and REF_RREF is raised. -/
  | refRref (base : Nat)
  /-- `FAULT_SOURCE_EVENT` (R374): Channel A accepts a change from good to fault on a slot's line, receipts it and counts the
  event in the slot's window. -/
  | faultSourceEvent (slots : List (Fin 512))
  /-- `FLT_WIRE` (R374): A slot shows a broken-wire code for 48 samples; WIRE is set, FLT_WIRE is raised and the slot counts one
  event. -/
  | fltWire (slot : Fin 512) (code : Bool)
  /-- `WINDOW_EXPIRY` (R375): A slot's counting window expires and WCOUNT returns to 0. -/
  | windowExpiry (slot : Fin 512)
  /-- `FAULT_ACK` (R380): The descriptor acknowledges the named slots whose lines show good. -/
  | faultAck (id : Nat)
  /-- `FAULT_INJECT` (R385): The descriptor arms a checker to invert its next COUNT checks. -/
  | faultInject (id : Nat)
  /-- `INJECTION_TIMEOUT` (R386): Fewer than COUNT injected checks have been made 10 s after arming; the rest are cancelled and
  the descriptor completes UNTESTED. -/
  | injectionTimeout
  /-- `REARM` (R387): A write of 1 to FLT_CTRL.REARM rearms vector 32, signalling at once if a promotion occurred meanwhile. -/
  | rearm (value : BitVec 32)
  /-- `LOG_COPY` (R390): The management processor copies new fault-log entries into the journal. -/
  | logCopy
  /-- `CAL_RUN` (R416): The descriptor calibrates one channel or starts a full run. -/
  | calRun (id : Nat)
  /-- `CAL_RESULT` (R413): The management processor computes a channel's new trim and drift from the measured ratios, raising
  CAL_RANGE if out of range. -/
  | calResult (channel : Fin 192) (ratios : List Nat)
  /-- `THERMAL_DEMAND` (R419): Trigger channel 8 fires, and a temperature measurement is made. -/
  | thermalDemand
  /-- `THERM_MEASURE` (R421): The descriptor measures the named sensors and returns the highest reading. -/
  | thermMeasure (id : Nat)
  /-- `SENSOR_READING` (R423): The management processor receives readings and judges failures, rates, breaches, throttle rises,
  trims and calibration triggers. -/
  | sensorReading (readings : List SensorSeen)
  /-- `THROTTLE_RELEASE` (R424): REL_S has passed without a breach, and the domain falls one level. -/
  | throttleRelease (domain : Fin 9)
  /-- `UNFREEZE` (R429): A level-0 write of 1 to THM_UNFREEZE ends the domain's freeze floor. -/
  | unfreeze (level0 : Bool) (value : BitVec 32)
  /-- `PORT_ENABLE` (R457): A write of 1 to a port's EN starts training in Lock at step 0. -/
  | portEnable (p : Fin 2) (level0 : Bool) (value : BitVec 32)
  /-- `PORT_DISABLE` (R459): A write of 0 to a port's EN sends DOWN for 10 µs and enters Disabled. -/
  | portDisable (p : Fin 2) (level0 : Bool) (value : BitVec 32)
  /-- `RETRAIN` (R459): A write of 1 to RETRAIN restarts training at step 0. -/
  | retrain (p : Fin 2) (level0 : Bool) (value : BitVec 32)
  /-- `BLOCK_LOCK` (R454): A receiver sees 64 consecutive valid sync headers and gains block lock. -/
  | blockLock (p : Fin 2)
  /-- `BLOCK_LOCK_LOSS` (R454): 16 invalid headers in 64 blocks lose block lock, which takes the port to Lock. -/
  | blockLockLoss (p : Fin 2)
  /-- `LOSS_OF_SIGNAL` (R454): No signal energy for 100 µs is a loss of signal, which takes an awake port down. -/
  | lossOfSignal (p : Fin 2)
  /-- `SIGNAL_DETECT` (R464): The signal detector reports energy, which wakes a sleeping receiver or ends Back-off. -/
  | signalDetect (p : Fin 2)
  /-- `CAP` (R457): A CAP ordered set is received and drives Lock and Capability progress and step limits. -/
  | cap (p : Fin 2) (payload : BitVec 24)
  /-- `CREDIT_INIT` (R472): A CREDIT_INIT ordered set is received and initializes a priority's credits. -/
  | creditInit (p : Fin 2) (payload : BitVec 24)
  /-- `CREDIT` (R472): A CREDIT ordered set updates returned credits, or takes the port down on a credit violation. -/
  | credit (p : Fin 2) (payload : BitVec 24)
  /-- `STEP_REQUEST` (R461): An East port receives a STEP request and accepts or refuses it. -/
  | stepRequest (p : Fin 2) (payload : BitVec 24)
  /-- `STEP_ACCEPT` (R461): A STEP accept is received, and both sides switch rate after 16 idle blocks. -/
  | stepAccept (p : Fin 2) (payload : BitVec 24)
  /-- `STEP_REFUSE` (R461): A STEP refusal is received, and the West port stays Up at the current step. -/
  | stepRefuse (p : Fin 2) (payload : BitVec 24)
  /-- `STEP_RESULT` (R461): A STEP result is received, which keeps the new step or enters Fallback. -/
  | stepResult (p : Fin 2) (payload : BitVec 24)
  /-- `STEP_UP_START` (R461): A West port in Up below the highest step stops starting frames and sends a STEP request. -/
  | stepUpStart (p : Fin 2)
  /-- `STEP_ACCEPT_TIMEOUT` (R461): No answer to a STEP request within 1 ms, so the West port resumes Up without stepping. -/
  | stepAcceptTimeout (p : Fin 2)
  /-- `STEP_SWITCH_TIMEOUT` (R457): Lock and a valid CAP are not reached within 2 ms of a switch or fallback, leading to Fallback
  or Lock. -/
  | stepSwitchTimeout (p : Fin 2)
  /-- `STEP_TRIAL_END` (R461): A 10 ms step trial ends without error, and the side sends STEP result good. -/
  | stepTrialEnd (p : Fin 2)
  /-- `SLEEP` (R463): A SLEEP ordered set is received, and the receive direction sleeps. -/
  | sleep (p : Fin 2) (payload : BitVec 24)
  /-- `WAKE` (R464): A WAKE ordered set is received while the receiver wakes. -/
  | wake (p : Fin 2) (payload : BitVec 24)
  /-- `DOWN` (R459): A DOWN ordered set is received, and the port enters Lock at step 0. -/
  | down (p : Fin 2) (payload : BitVec 24)
  /-- `CHN_TRAIN` (R458): The port has not reached Up within 200 ms of Lock, so it enters Back-off. -/
  | chnTrain (p : Fin 2)
  /-- `BACKOFF_END` (R458): The back-off time ends, and the port enters Lock. -/
  | backoffEnd (p : Fin 2)
  /-- `SLEEP_ENTRY` (R463): The idle time reaches SLEEP_IDLE, so the transmit direction sends SLEEP and enters electrical idle. -/
  | sleepEntry (p : Fin 2)
  /-- `WAKE_START` (R464): Traffic becomes due on a sleeping direction, which wakes and sends WAKE for 20 µs. -/
  | wakeStart (p : Fin 2)
  /-- `WAKE_LOCK_TIMEOUT` (R464): A woken receiver has no block lock 1 ms after energy, and the port leaves Up. -/
  | wakeLockTimeout (p : Fin 2)
  /-- `FRAME_HEADER_PARSED` (R467): A received frame's first 64 bytes are parsed, so it is classified and forwarded cut-through or
  stored. -/
  | frameHeaderParsed (p : Fin 2) (bytes : Bytes)
  /-- `FRAME_RECEIVED` (R466): A frame ends at its terminate block, and it is queued or delivered to its consumers or discarded if
  bad. -/
  | frameReceived (p : Fin 2) (bytes : Bytes) (err : Bool) (poison : Bool)
  /-- `FRAME_CUT` (R469): Reception stops before the terminate block, so the frame is discarded and its cells freed. -/
  | frameCut (p : Fin 2) (len : Nat)
  /-- `EGRESS_START` (R468): A port starts sending the highest-priority queued frame that its credits cover. -/
  | egressStart (p : Fin 2)
  /-- `FRAME_SENT` (R471): A frame has been sent; its cells are freed or released to other consumers. -/
  | frameSent (p : Fin 2)
  /-- `CHN_POOL_AUDIT` (R479): Every 1 ms the free and queued cells are compared with 16 384, and a mismatch is recorded. -/
  | chnPoolAudit
  /-- `CHN_STALE` (R478): A non-empty queue has not been read for STALE_US, so it is marked stale. -/
  | chnStale (q : Fin 64)
  /-- `NET_TX` (R480): The descriptor reads a host frame into shared cells and queues it on the named ports. -/
  | netTx (id : Nat)
  /-- `NET_RX_POST` (R481): The descriptor posts a host receive buffer, which completes when a frame fills it. -/
  | netRxPost (id : Nat)
  /-- `SERVICE_MESSAGE` (R484): The management processor receives a chain service message, checks it, processes it and relays it
  if required. -/
  | serviceMessage (svc : Option Bytes)
  /-- `HELLO_TRANSMIT` (R486): Every HELLO_S seconds a node sends HELLO on each port in Up. -/
  | helloTransmit
  /-- `CHN_NEIGH` (R486): No HELLO arrives for 3 × HELLO_S, so CHN_NEIGH is raised and NEIGH_OK clears. -/
  | chnNeigh (p : Fin 2)
  /-- `FW_REQUEST_TIMER` (R544): 1 s after the last block stored, a node lacking blocks sends FW_REQUEST for its first missing
  range. -/
  | fwRequestTimer
  /-- `BOOT_FAIL_STATUS_TIMER` (R539): Chrysalis with no nameable image sends FW_STATUS state 5 every 1 s until an offer arrives. -/
  | bootFailStatusTimer
  /-- `PTP_SYNC` (R510): A Sync copy reaches the slave servo, which sends its Delay_Req. -/
  | ptpSync (d : Fin 2) (m : SyncSeen)
  /-- `DELAY_RESP` (R510): A Delay_Resp gives the offset, and the servo steps or steers the domain and judges lock. -/
  | delayResp (d : Fin 2) (m : DelaySeen)
  /-- `SYNC_LOSS` (R511): No Sync for LOSS_T; the domain loses lock and enters holdover, possibly switching domains. -/
  | syncLoss (d : Fin 2)
  /-- `REVERT` (R514): The preferred domain has been locked for REVERT_S, and the node switches back to it. -/
  | revert
  /-- `DOMAIN_SWITCH` (R513): The time island applies a domain switch with a slew term, or as a step above 1 ms. -/
  | domainSwitch
  /-- `SLEW_COMPLETE` (R513): The slew term reaches 0, and the output time equals the active domain. -/
  | slewComplete
  /-- `STEP` (R516): TIME_ADJ mode Step adds VALUE to a disabled domain's time. -/
  | step (id : Nat)
  /-- `FREQUENCY` (R516): TIME_ADJ mode Frequency sets a disabled domain's rate ratio. -/
  | frequency (id : Nat)
  /-- `SLEW` (R516): TIME_ADJ mode Slew moves a disabled domain's time at the SLEW rate without a step. -/
  | slew (id : Nat)
  /-- `SELECT` (R516): TIME_ADJ mode Select switches the output time to the named domain. -/
  | select (id : Nat)
  /-- `TEV_ARM` (R519): The descriptor arms or disarms a timed event channel. -/
  | tevArm (id : Nat)
  /-- `TEV_EDGE` (R521): The output time reaches a channel's edge, and the pin pulses or the internal trigger fires. -/
  | tevEdge (ch : Fin 16)
  /-- `TRIGGER_SETTING_WRITE` (R518): A write of COMMIT_MIN or PROBE_AFTER re-arms trigger channel 9 or 10 one period after the
  write. -/
  | triggerSettingWrite (ch9 : Bool) (level0 : Bool) (value : BitVec 32)
  /-- `NVM_WRITE` (R536): The descriptor writes host data into an NVM partition as consecutive records. -/
  | nvmWrite (id : Nat)
  /-- `NVM_READ` (R535): The descriptor reads an NVM partition range into host memory. -/
  | nvmRead (id : Nat)
  /-- `NVM_RECORD_COMPLETE` (R531): The NVM controller writes a record's marker word, which commits the page. -/
  | nvmRecordComplete (vhold : VholdSeen := { mv := 0, above := false })
  /-- `CRC_RUN` (R548): The descriptor computes a check over host data on a general check unit and optionally compares it. -/
  | crcRun (id : Nat)
  /-- `DISARM` (R545): FW_MARK mode 0 cancels a scheduled boot and returns an armed state to writing. -/
  | disarm (id : Nat)
  /-- `ARM` (R545): FW_MARK mode 1 arms the received image to boot at the next chip reset. -/
  | arm (id : Nat)
  /-- `ARM_SCHEDULE` (R545): FW_MARK mode 2 arms the image and schedules a SOFT reset through channel 11. -/
  | armSchedule (id : Nat)
  /-- `ARM_RESET` (R545): FW_MARK mode 3 arms the image and resets at once with cause SOFT. -/
  | armReset (id : Nat)
  /-- `SCHEDULED_BOOT` (R546): Trigger channel 11 fires, and the chip resets with cause SOFT unless a save is in progress. -/
  | scheduledBoot
  /-- `BOOT_CHECK` (R538): Chrysalis checks the firmware image, then starts it or stays resident and raises FW_BOOT_FAIL. -/
  | bootCheck (b : BootSeen)
  /-- `LINK_UP` (R73): The PCI Express link trains to L0 after PERST_N release or a link loss, and the host island serves
  configuration requests again. -/
  | linkUp (width speed : Nat)
  /-- `CONFIGURATION_WRITE` (R600): A host configuration write clears Bus Master Enable or Memory Space Enable, moves the function
  to D3hot, or sets the tag and completion-timeout controls. -/
  | configurationWrite (w : CfgWrite)
  /-- `MSIX_UNMASK` (R127): A BAR2 write clears an MSI-X mask bit whose pending bit is set, and the vector's message is sent. The
  write lies at offset 16 `slot` + 4 `word` of BAR2. -/
  | msixUnmask (slot : Fin 4096) (word : Fin 4) (value : BitVec 32)
  /-- `DOMAIN_EN_WRITE` (R510): A write of TIM_DOMx_CFG.EN stops the servo and clears LOCKED and HOLDOVER, or starts the servo
  afresh. -/
  | domainEnWrite (d : Fin 2) (level0 : Bool) (value : BitVec 32)
  /-- `INVALID_SYNC_HEADER` (R461): A received block with an invalid sync header, or an ordered set failing CRC-4, is counted in
  BLOCK_ERR and, in Step trial, makes the side send STEP result bad. -/
  | invalidSyncHeader (p : Fin 2) (ordered : Bool)
  /-- `ORDERED_SET_TRANSMIT` (R457): Every 10 µs a port sends CAP in Lock and Back-off, CAP with ACK and CREDIT_INIT in
  Capability, and CREDIT while awake in Up. -/
  | orderedSetTransmit (p : Fin 2)
  /-- `SEVERE_LINE_BROKEN` (R379): Channel B sees a broken code on the dedicated SEVERE line for 1.0 µs and treats it as an active
  SEVERE fault, holding SLO_B low. `broken`: what the line shows from then on; false, it shows a whole code again and the fault
  ends. -/
  | severeLineBroken (broken : Bool := true)
  /-- `TEV_PULSE_END` (R520): A timed output's pulse width has elapsed; the pin returns to its idle level and any arming deferred
  behind the pulse takes effect. -/
  | tevPulseEnd (ch : Fin 8)
  /-- `FAULT_COLLECTOR_START` (R568): After reset release, channel A's clock runs and the fault collector starts, so ALERT_N
  leaves its reset low. -/
  | faultCollectorStart
deriving DecidableEq, Repr

end Sys2Proof
end

