-- ==== Sys2Proof/Decode.lean ====
section
/-! DEFINITION. The word decoder of the block: no row of the opcode table gives a command any bits, so no word spells one. -/

namespace Sys2Proof

/-- The command that a word of `nbits` bits spells by the table: none, since every row has no bits. -/
def decodeTableWord (_nbits _w : Nat) : Option Instr := none

end Sys2Proof
end

