-- ==== Sys2Proof/Config.lean ====
section
/-! DEFINITION. What an implementation fixes, and the free values: constants with no body, so that nothing can be
proved about their values (fuses, external cryptographic standards, values the spec leaves open). -/

namespace Sys2Proof

/-- Boot values of the configuration partition (R5 `cfg`): the number in parentheses in the field maps is the value
of a part as delivered. The layout of the partition is not in the spec (notes/assumptions/6). -/
structure BootCfg where
  /-- Subsystem Vendor ID and Subsystem ID (R70: `cfg`, no number given; notes/assumptions/7). -/
  subsystem : Nat × Nat := (0, 0)
  /-- `SAG_DWELL` (R62). -/
  sagDwell : Nat := 3
  /-- `VSAG_SAVE` (R62). -/
  vsagSave : Nat := 2
  /-- `VSAG_SLOW` (R62). -/
  vsagSlow : Nat := 4
  /-- `RATE` (R206). -/
  rate : Nat := 240
  /-- `FRAME_EPOCH` seconds (R207). -/
  epochSec : Nat := 0
  /-- `FRAME_EPOCH` nanoseconds (R207). -/
  epochNs : Nat := 0
  /-- `STATIC_HOLD` (R206). -/
  staticHold : Nat := 8
  /-- `KEEPALIVE` (R206). -/
  keepalive : Nat := 60
  /-- `EXTEND_EN` (R206). -/
  extendEn : Bool := true
  /-- `SRT_DLY` (R245). -/
  srtDly : Nat := 2
  /-- strip `EN` (R251). -/
  stripEn : Bool := true
  /-- `CH_IREF` (R251). -/
  chIref : Nat := 1023
  /-- `GLOBAL_IREF` (R254). -/
  globalIref : Nat := 255
  /-- `GOV_BUDGET` (R255). -/
  govBudget : Nat := 0
  /-- `GAIN_S` (R296). -/
  gainS : Nat := 60
  /-- `COMMIT_MIN` (R296). -/
  commitMin : Nat := 60
  /-- `PROBE_EN` (R322). -/
  probeEn : Bool := true
  /-- `PROBE_AFTER` (R322). -/
  probeAfter : Nat := 60
  /-- `DIAG_EVERY` (R322). -/
  diagEvery : Nat := 240
  /-- `CAL_DT` (R436). -/
  calDt : Nat := 8
  /-- `AUTO_EN` (R436). -/
  autoEn : Bool := true
  /-- `RISE_LIM` of die sensors, tile sensors and NTCs (R445). -/
  riseLim : Nat × Nat × Nat := (50, 30, 20)
  /-- `T_ARM` of die sensors, tile sensors and NTCs (R445). -/
  tArm : Int × Int × Int := (1360, 1120, 960)
  /-- `REL_S` (R446). -/
  relS : Nat := 30
  /-- `NTC0_DOM` (R446). -/
  ntc0Dom : Nat := 10
  /-- `NTC1_DOM` (R446). -/
  ntc1Dom : Nat := 10
  /-- `HELLO_S` (R488). -/
  helloS : Nat := 1
  /-- `PTP_TO_HOST` (R488). -/
  ptpToHost : Bool := false
  /-- `SVC_TO_HOST` (R488). -/
  svcToHost : Bool := false
  /-- `DEF_PRIO` (R488). -/
  defPrio : Nat := 0
  /-- node address, octet 0 in the low byte (R489: reset `cfg`, no number given; notes/assumptions/7). -/
  mac : Nat := 0
  /-- `STALE_US` (R490). -/
  staleUs : Nat := 1000
  /-- head-end list (R494). -/
  heads : List Nat := [0, 0, 0, 0]
  /-- `CHN_RXQr_CFG`.`EN` (R495). -/
  rxqEn : Bool := true
  /-- `LIMIT` (R495). -/
  rxqLimit : Nat := 512
  /-- port `SLEEP_IDLE` (R497). -/
  sleepIdle : Nat := 100
  /-- port `SLEEP_EN` (R497). -/
  sleepEn : Bool := false
  /-- port `MAX_STEP` (R497). -/
  maxStep : Nat := 3
  /-- port `EN` (R497). -/
  portEn : Bool := true
  /-- `ADV` (R500). -/
  adv : Nat := 256
  /-- `SLEW` (R522). -/
  slew : Nat := 10
  /-- `REVERT_S` (R522). -/
  revertS : Nat := 60
  /-- `HOST_TS` (R522). -/
  hostTs : Nat := 0
  /-- `AUTO_SW` (R522). -/
  autoSw : Bool := true
  /-- `PREFER` (R522). -/
  prefer : Nat := 0
  /-- `LOSS_T` (R525). -/
  lossT : Nat := 3
  /-- domain `EN` (R525). -/
  domEn : Bool := true
  /-- `PTP_DOMAIN` of A and B (R525). -/
  ptpDomain : Nat × Nat := (0, 1)
  /-- `TX_ADJ`, `RX_ADJ` (R526). -/
  txAdj : Int := 0
  /-- `RX_ADJ` (R526). -/
  rxAdj : Int := 0
  /-- `SVC_BAUD` (R554). -/
  svcBaud : Nat := 4
  /-- `CHAIN_EN` (R554). -/
  chainEn : Bool := true
  /-- the configured customer key hash, if one is held (R538). -/
  customerHash : Option Nat := none
  /-- the second tile root hash (R271). -/
  tileRoot2 : Option Nat := none
deriving DecidableEq, Repr, Inhabited

namespace Config

/-- The boot values that a written configuration partition gives: its layout is not in the spec, so they are free. -/
opaque bootCfg : List (Nat × Bytes) → BootCfg

/-- A fresh open value, by a counter of the state. -/
opaque freeValue : Nat → BitVec 64

/-- The factory calibration set k of a part as delivered (R404: its contents are the part's own). -/
opaque factoryCal : Nat → Bytes
/-- The Chrysalis partition of a part as delivered (R530: write-protected at test), by byte offset. -/
opaque chrysalis : Nat → Byte
/-- Which 64-bit words of a page the record in progress has written so far (R531: word-atomic; how far is not observable). -/
opaque wordWritten : (instant : Nat) → (word : Nat) → Bool
/-- Bytes of the journal whose layout the spec does not give (save records, fault-log copies). -/
opaque journalByte : Nat → Nat → Byte

/-- `GLB_REV`.`MAJOR` (R92, fuse). -/
opaque fuseRevMajor : BitVec 8
/-- `GLB_REV`.`MINOR` (R92, fuse). -/
opaque fuseRevMinor : BitVec 8
/-- The die identity (R94, fuse). -/
opaque dieId : BitVec 64
/-- SHA-256 of the Varoz key (R538 step 5, fuse). -/
opaque fuseVarozHash : Nat
/-- The fused tile root hash (R271). -/
opaque fuseTileRoot : Nat

/-- SHA-256 (an external standard, uninterpreted: notes/assumptions/8). -/
opaque sha256 : Bytes → Nat
/-- ECDSA P-256 verification of a signature over a digest under a key (uninterpreted). -/
opaque ecdsaVerify : (key : Bytes) → (digest : Nat) → (signature : Bytes) → Bool
/-- X.509: the certificate verifies under an issuer key of this hash (R271 step 1, uninterpreted). -/
opaque certIssuedUnder : (cert : Bytes) → (rootHash : Nat) → Bool
/-- X.509: the characters of the subject serialNumber (R271 step 2, uninterpreted). -/
opaque certSubjectSerial : (cert : Bytes) → Bytes
/-- X.509: the SHA-256 carried by the Varoz extension (R271 step 3, uninterpreted). -/
opaque certHeaderHash : (cert : Bytes) → Nat
/-- X.509: the certified public key (R271 step 4, uninterpreted). -/
opaque certKey : (cert : Bytes) → Bytes
/-- The fresh nonce of the n-th challenge (R271 step 4: its value is not given). -/
opaque nonce : Nat → Bytes
/-- The clock identity of the node's own PTP clock (R510; IEEE 1588-2019 leaves its value to the node). -/
opaque clockIdentity : BitVec 64
/-- Fused latency of port, direction and rate step in 2^-16 ns (R506, fused). -/
opaque fusedLatency : (port : Nat) → (tx : Bool) → (step : Nat) → Int

end Config

end Sys2Proof
end

