-- ==== Sys2Proof/Machine/Bits.lean ====
section
/-! DEFINITION. Bit fields, byte order (R3: little-endian), saturating counters, sparse tables and the canonical byte memory. -/

namespace Sys2Proof.Machine

/-- Bits `lo` to `lo + len - 1` of a word. -/
def bits (v lo len : Nat) : Nat := v / 2 ^ lo % 2 ^ len

/-- Replace bits `lo` to `lo + len - 1` of a word. -/
def setBits (v lo len x : Nat) : Nat := v % 2 ^ lo + (x % 2 ^ len) * 2 ^ lo + v / 2 ^ (lo + len) * 2 ^ (lo + len)

/-- Set or clear bit `i`. -/
def putBit (v i : Nat) (b : Bool) : Nat := setBits v i 1 b.toNat

/-- A bit as a number at its place in a word. -/
def at_ (lo x : Nat) : Nat := x * 2 ^ lo

/-- A Bool at its bit place. -/
def flag (lo : Nat) (b : Bool) : Nat := if b then 2 ^ lo else 0

/-- A counter that saturates at `max` (R5). -/
def satAdd (max v k : Nat) : Nat := min max (v + k)

/-- A W1C field: the ones of `w` clear (R5). -/
def w1c (width v w : Nat) : Nat := v &&& (2 ^ width - 1 - w % 2 ^ width)

/-- Two's complement reading of `len` bits. -/
def signed (len v : Nat) : Int := if v % 2 ^ len < 2 ^ (len - 1) then ((v % 2 ^ len : Nat) : Int) else ((v % 2 ^ len : Nat) : Int) - 2 ^ len

/-- Two's complement writing into `len` bits. -/
def unsigned (len : Nat) (v : Int) : Nat := (v % (2 ^ len : Nat)).toNat

/-- Little-endian value of bytes (R3). -/
def leNat : Bytes → Nat
  | [] => 0
  | b :: r => b.toNat + 256 * leNat r

/-- Little-endian bytes of a value (R3). -/
def toLe : Nat → Nat → Bytes
  | 0, _ => []
  | n + 1, v => BitVec.ofNat 8 v :: toLe n (v / 256)

/-- Bytes `off` to `off + len - 1` of a run. -/
def sub (b : Bytes) (off len : Nat) : Bytes := (b.drop off).take len

/-- A little-endian field of a run of bytes. -/
def le (b : Bytes) (off len : Nat) : Nat := leNat (sub b off len)

/-- A big-endian field of a run of bytes (frames on the wire). -/
def be (b : Bytes) (off len : Nat) : Nat := leNat (sub b off len).reverse

/-- Big-endian bytes of a value. -/
def toBe (n v : Nat) : Bytes := (toLe n v).reverse

/-- Pad or cut a run of bytes to `n`. -/
def fit (n : Nat) (b : Bytes) : Bytes := (b ++ List.replicate (n - b.length) 0#8).take n

/-- Write bytes into a run at an offset. -/
def patch (b : Bytes) (off : Nat) (x : Bytes) : Bytes := b.take off ++ x ++ b.drop (off + x.length)

/-- `[0, 1, …, n-1]` filtered. -/
def selects (n : Nat) (p : Nat → Bool) : List Nat := (List.range n).filter p

/-- A number whose bit i is `p i`, for i below n. -/
def maskOf (p : Nat → Bool) : Nat → Nat
  | 0 => 0
  | n + 1 => maskOf p n + flag n (p n)

/-- Number of ones among the low `n` bits. -/
def popcount (v : Nat) : Nat → Nat
  | 0 => 0
  | n + 1 => popcount v n + (v.testBit n).toNat

/-- Clamp to a range. -/
def clampI (lo hi v : Int) : Int := max lo (min hi v)

/-- A sparse table by index. -/
abbrev Tab (α : Type) := List (Nat × α)

/-- The entry of an index, or the default of the table. -/
def Tab.get {α : Type} (d : α) : Tab α → Nat → α
  | [], _ => d
  | (k, v) :: r, i => if k = i then v else Tab.get d r i

/-- Set the entry of an index. -/
def Tab.put {α : Type} : Tab α → Nat → α → Tab α
  | [], i, v => [(i, v)]
  | (k, w) :: r, i, v =>
    if i < k then (i, v) :: (k, w) :: r
    else if i = k then (i, v) :: r
    else (k, w) :: Tab.put r i v

/-- The entry of an index if there is one. -/
def Tab.find {α : Type} : Tab α → Nat → Option α
  | [], _ => none
  | (k, v) :: r, i => if k = i then some v else Tab.find r i

/-- Remove the entry of an index. -/
def Tab.del {α : Type} (t : Tab α) (i : Nat) : Tab α := t.filter (fun e => e.1 != i)

/-- A byte memory in canonical form: rising addresses, no entry equal to what an unlisted address reads as. -/
abbrev Mem := List Host.Cell

/-- Read one byte; an unlisted address reads as `d`. -/
def Mem.read (d : Byte) : Mem → Nat → Byte
  | [], _ => d
  | (k, v) :: r, a => if k = a then v else Mem.read d r a

/-- Write one byte, keeping the canonical form. -/
def Mem.write (d : Byte) : Mem → Nat → Byte → Mem
  | [], a, v => if v = d then [] else [(a, v)]
  | (k, w) :: r, a, v =>
    if a < k then (if v = d then (k, w) :: r else (a, v) :: (k, w) :: r)
    else if a = k then (if v = d then r else (a, v) :: r)
    else (k, w) :: Mem.write d r a v

/-- Write a run of bytes from an address on. -/
def Mem.writeAll (d : Byte) (m : Mem) : Nat → Bytes → Mem
  | _, [] => m
  | a, b :: r => Mem.writeAll d (Mem.write d m a b) (a + 1) r

/-- Read a run of bytes. -/
def Mem.readAll (d : Byte) (m : Mem) (a n : Nat) : Bytes := (List.range n).map fun i => Mem.read d m (a + i)

/-- All listed addresses lie above `lo` (exclusive bound given by the previous key) and rise. -/
def Mem.wfFrom (d : Byte) : Option Nat → Mem → Bool
  | _, [] => true
  | lo, (k, v) :: r => (match lo with | none => true | some l => decide (l < k)) && decide (v ≠ d) && Mem.wfFrom d (some k) r

/-- The canonical form holds. -/
def Mem.wf (d : Byte) (m : Mem) : Bool := Mem.wfFrom d none m

/-- A list of disjoint half-open ranges as a set of numbers: add `[a, b)`. -/
def ranges.remove (l : List (Nat × Nat)) (a b : Nat) : List (Nat × Nat) :=
  l.flatMap fun e =>
    (if e.1 < min e.2 a then [(e.1, min e.2 a)] else []) ++ (if max e.1 b < e.2 then [(max e.1 b, e.2)] else [])

/-- Add `[a, b)` to a set of ranges. -/
def ranges.add (l : List (Nat × Nat)) (a b : Nat) : List (Nat × Nat) :=
  if a < b then (a, b) :: ranges.remove l a b else l

/-- The count of members. -/
def ranges.count (l : List (Nat × Nat)) : Nat := (l.map fun e => e.2 - e.1).sum

/-- `[a, b)` lies wholly in the set. -/
def ranges.covers (l : List (Nat × Nat)) (a b : Nat) : Bool :=
  decide ((l.map fun e => min e.2 b - max e.1 a).sum = b - a)

end Sys2Proof.Machine
end

