-- ==== Sys2Proof/Machine/State.lean ====
section
/-! DEFINITION. The state of the LX1180 as plain data, island by island, every field at its reset value; the faults and
refusals of a step. The value after each field is its reset value (R5: `cfg` values as delivered). -/

namespace Sys2Proof.Machine

/-- Why a step stops with a fault: no command of the block does, so there is no reason to list. -/
inductive Fault where
deriving DecidableEq, Repr

/-- Why a step refuses. -/
inductive Refusal where
  /-- Raised by the arm of a command that has no meaning yet. Safe: nothing can be proved of a next state. -/
  | notModelled (mnemonic : String)
deriving DecidableEq, Repr

/-- What leaves the chip: the model's own trace of host-memory requests, messages, pins and the buses. -/
inductive Output where
  | hostRead (tag addr len : Nat)
  | hostWrite (addr : Nat) (bytes : Bytes)
  | msix (vector addr data : Nat)
  | regRead (off value : Nat)
  | unsupportedRequest (write : Bool)
  | tlat (tile seq : Nat)
  | tsync (tile code : Nat)
  | heartbeat (frond token : Nat)
  | tileBusWrite (tile device addr : Nat) (bytes : Bytes)
  | tileBusRead (tile device addr len : Nat)
  | testPulse (b : Bool) (tpx : Bool)
  | orderedSet (port code payload : Nat)
  | electricalIdle (port : Nat)
  | frameOut (port : Nat) (bytes : Bytes) (poison : Bool)
  | tevPin (ch : Nat) (active : Bool)
  | nvmPage (part page : Nat) (bytes : Bytes)
  | svcOut (bytes : Bytes)
deriving DecidableEq, Repr

/-- The transmit lane of a port (R453): the scrambler, the last 58 bits sent with the newest in bit 0, and the 66-bit blocks that
have left, newest first, bit 0 of each the first on the line. -/
structure Lane where
  scr : BitVec 58 := 0
  sent : List (BitVec 66) := []
deriving DecidableEq, Repr, Inhabited

/-! ### Lichen (02) -/

/-- The causes of a chip reset (R53). -/
inductive Cause where
  | por | pin | stuck | sag | therm | rail | soft
deriving DecidableEq, Repr

/-- What a save takes of a tile when it begins (R283). -/
structure SaveHead where
  pos : Nat
  serial : Nat
  gen : Nat
  commitTime : Option Nat
deriving DecidableEq, Repr

/-- Lichen: rails, thresholds, sag handling, reset and clocks (02). Survives every chip reset (R52). -/
structure Power where
  /-- POR is applied and not yet released (R34). -/
  por : Bool := true
  /-- the chip is held in reset (R36 R49). -/
  held : Bool := true
  /-- `RESET_N` is seen low (R54). -/
  pinLow : Bool := false
  /-- the charge pump runs (R36). -/
  pump : Bool := false
  /-- chip resets that wait for the NVM record in progress (R54 R57). -/
  rstPend : List Cause := []
  /-- `PWR_STATUS.PHASES_ON` (R61). -/
  phases : Nat := 15
  /-- `PWR_STATUS.CLK_BACKUP` (R61). -/
  clkBackup : Bool := false
  /-- `PWR_STATUS.VHOLD_RDY` (R61). -/
  vholdRdy : Bool := false
  /-- first light no longer waits for VHOLD (R40). -/
  vholdWaived : Bool := false
  /-- `PWR_STATUS.VSER_OK` (R61). -/
  vserOk : Bool := false
  /-- `PWR_STATUS.VDD18_OK` (R61). -/
  vdd18Ok : Bool := false
  /-- `PWR_STATUS.VCORE_OK` (R61). -/
  vcoreOk : Bool := false
  /-- `PWR_STATUS.PIN_IGNORED` (R55 R61). -/
  pinIgnored : Bool := false
  /-- `PWR_STATUS.SAG_STAGE` (R61). -/
  sagStage : Nat := 0
  /-- `PWR_SAG_CFG.SAG_DWELL` (R62). -/
  sagDwell : Nat := 3
  /-- `PWR_SAG_CFG.VSAG_SAVE` (R62). -/
  vsagSave : Nat := 2
  /-- `PWR_SAG_CFG.VSAG_SLOW` (R62). -/
  vsagSlow : Nat := 4
  /-- `PWR_MON.VHOLD_MV` (R63). -/
  vholdMv : Nat := 0
  /-- `PWR_MON.VIN_MV` (R63). -/
  vinMv : Nat := 0
  /-- `PWR_RST_CAUSE.RSTSTUCK` (R64). -/
  rstStuck : Bool := false
  /-- `PWR_RST_CAUSE` bits [6:0]: SOFT RAIL THERM SAG STUCK PIN POR (R64). -/
  causes : Nat := 1
  /-- `PWR_BUCK_CTRL.SHED_EN` (R66). -/
  shedEn : Bool := true
  /-- `PWR_SAG_COUNT.SAVES` (R67). -/
  saves : Nat := 0
  /-- `PWR_SAG_COUNT.SLOWS` (R67). -/
  slows : Nat := 0
  /-- `PWR_SAVE_LAST.COMPLETE` (R68). -/
  saveComplete : Bool := false
  /-- `PWR_SAVE_LAST.RECORDS` (R68). -/
  saveRecords : Nat := 0
  /-- `PWR_SAVE_LAST.VHOLD_END` (R68). -/
  vholdEnd : Nat := 0
  /-- `PWR_SAVE_LAST.DURATION` (R68). -/
  saveDuration : Nat := 0
  /-- `PWR_CLK_STATUS.PEREF_OK` (R69). -/
  perefOk : Bool := false
  /-- `PWR_CLK_STATUS.CREF_OK` (R69). -/
  crefOk : Bool := false
  /-- `PWR_CLK_STATUS.XIN_OK` (R69). -/
  xinOk : Bool := false
  /-- references that have failed and not returned (R59): bit 0 `XIN`, 1 `CREFCLK`, 2 `PE_REFCLK`. -/
  clkFailed : Nat := 0
  /-- a save sequence runs (R45 R48). -/
  saving : Bool := false
  /-- VHOLD has reached VHOLD_READY since the reset release (R38). -/
  vholdSeen : Bool := false
  /-- `CLKREQ_N` is driven low (R72). -/
  clkreqLow : Bool := false
  /-- VHOLD was below VHOLD_READY when the save started (R51). -/
  saveShort : Bool := false
  /-- local time at the start of the save (R68). -/
  saveStart : Int := 0
  /-- the tiles enabled when the save began: position, serial, `GEN`, and the `TIME` of a commit in progress (R283). -/
  saveTiles : List SaveHead := []
  /-- a save has ended and VIN is awaited (R49). -/
  awaitVin : Bool := false
  /-- VIN below VSTOP has stopped every island outside the save (R48). -/
  vstop : Bool := false
  /-- VIN was removed after a save (R49: both POR and SAG are reported). -/
  sagOwed : Bool := false
  /-- the thermal shutdown latch (R52 R433). -/
  thermLatch : Bool := false
  /-- the write-inhibit comparator is tripped (R432). -/
  inhibit : Bool := false
  /-- `THM_LICHEN.INHIBIT_SEEN` (R449). -/
  inhibitSeen : Bool := false
  /-- `SVC_EN_N` as sampled at reset release: the service port is enabled (R569). -/
  svcEn : Bool := false
deriving DecidableEq, Repr, Inhabited

/-! ### Host island (03) -/

/-- Who asked for a host read (R76 R77). -/
inductive Requester where
  | desc (id : Nat)
  | fenceTable (id : Nat)
  | fetch (sq first count : Nat)
  | layer (l : Nat)
  | fence (gid entry : Nat)
  | stallProbe (l : Nat)
deriving DecidableEq, Repr

/-- One read request of an item: at most Max Read Request Size bytes (R600). -/
structure Chunk where
  addr : Nat
  len : Nat
  /-- slot and epoch while outstanding (R76). -/
  tag : Option (Nat × Nat) := none
  data : Option Bytes := none
deriving DecidableEq, Repr

/-- An item that reads host memory, in its requests (R77). -/
structure ReadItem where
  id : Nat
  who : Requester
  chunks : List Chunk
  /-- the requests of one turn of descriptor fetches share the number of the first (R77 R110). -/
  turn : Nat
  /-- the one repeat has been used (R114 R146 R162). -/
  repeated : Bool := false
  failed : Bool := false
deriving DecidableEq, Repr

/-- An MSI-X table entry (R70 R71). -/
structure MsixEnt where
  addr : Nat := 0
  data : Nat := 0
  mask : Bool := true
deriving DecidableEq, Repr, Inhabited

/-- The host island: link, configuration space controls, tags, MSI-X (R70 to R79, R600 to R602). -/
structure Link where
  /-- `HIF_LINK.UP` (R100). -/
  up : Bool := false
  /-- `HIF_LINK.WIDTH` (R100). -/
  width : Nat := 0
  /-- `HIF_LINK.SPEED` (R100). -/
  speed : Nat := 0
  /-- `HIF_LINK.RESETS` (R100). -/
  resets : Nat := 0
  /-- Bus Master Enable (R74). -/
  bme : Bool := false
  /-- Memory Space Enable (R601). -/
  mse : Bool := false
  /-- the function is in D3hot (R74). -/
  d3hot : Bool := false
  /-- Extended Tag Field Enable (R600). -/
  extTag : Bool := true
  /-- 10-Bit Tag Requester Enable (R600). -/
  tenBit : Bool := false
  /-- Completion Timeout Value (R600). -/
  cplTmo : Nat := 0
  /-- Completion Timeout Disable (R600). -/
  cplTmoDis : Bool := false
  /-- Max Read Request Size in bytes (R600). -/
  mrrs : Nat := 512
  /-- Max Payload Size in bytes (R600). -/
  mps : Nat := 128
  /-- MSI-X table (R71). -/
  msix : Tab MsixEnt := []
  /-- MSI-X pending-bit array (R71 R127). -/
  pba : Nat := 0
  /-- MSI-X Enable (R70). -/
  msixEn : Bool := false
  /-- MSI-X Function Mask (R70 R127). -/
  fnMask : Bool := false
  /-- base addresses assigned to BAR0 and BAR2 (R70 R73). -/
  bar0 : Nat := 0
  bar2 : Nat := 0
  /-- Uncorrectable and Correctable Error Status of Advanced Error Reporting (R70 R73). -/
  aerUncor : Nat := 0
  aerCor : Nat := 0
  /-- abandoned tags as slot and epoch (R77 R78). -/
  abandoned : List (Nat × Nat) := []
  /-- read items, oldest first (R76 R602). -/
  reads : List ReadItem := []
  /-- number of the next read item. -/
  nextItem : Nat := 0
  /-- `HIF_LATE_CPL.COUNT` (R101). -/
  lateCpl : Nat := 0
deriving DecidableEq, Repr, Inhabited

/-- A DMA window (R97). -/
structure Win where
  base : Nat := 0
  pages : Nat := 0
  attr : Nat := 0
deriving DecidableEq, Repr, Inhabited

/-- One copy of the protection table (R84). -/
structure ProtTable where
  /-- `HIF_SQn_CFG.LEVEL` (R95): reset 0 for SQ0, 3 otherwise. -/
  level : Tab Nat := []
  /-- `HIF_SQn_OWN` (R95). -/
  own : Tab Nat := []
  /-- `HIF_PROT_WINk` (R97). -/
  win : Tab Win := []
  /-- `HIF_PROT_OPC` words, index 4 L + w (R98): reset per R90. -/
  opc : Tab Nat := []
  /-- `HIF_PROT_CTRL.WIN_L0` (R99). -/
  winL0 : Bool := false
deriving DecidableEq, Repr, Inhabited

/-- The protection table (R84 to R90). -/
structure Prot where
  shadow : ProtTable := {}
  active : ProtTable := {}
  /-- `HIF_PROT_CTRL.GEN` (R99). -/
  gen : Nat := 0
  /-- `HIF_PROT_CTRL.REFUSED` (R99). -/
  refused : Bool := false
deriving DecidableEq, Repr, Inhabited

/-! ### Ring engine (04) -/

/-- `HIF_SQn_STATE.STATE` (R135). -/
inductive SqState where
  | disabled | running | draining
deriving DecidableEq, Repr, Inhabited

/-- One submission ring (R95 R135). -/
structure Sq where
  base : Nat := 0
  cq : Nat := 0
  /-- the CQ bound when the ring was enabled (R130). -/
  bound : Nat := 0
  size : Nat := 4
  state : SqState := .disabled
  head : Nat := 0
  tail : Nat := 0
deriving DecidableEq, Repr, Inhabited

/-- One completion ring (R96 R136). -/
structure Cq where
  base : Nat := 0
  irqEn : Bool := false
  size : Nat := 4
  enable : Bool := false
  phase : Bool := true
  armed : Bool := false
  tail : Nat := 0
  head : Nat := 0
deriving DecidableEq, Repr, Inhabited

/-- Where a consumed descriptor stands (R108 R111 R131). -/
inductive Phase where
  /-- its fence table is being read (R118). -/
  | table
  /-- checked, waiting in the ring engine for dispatch (R111). -/
  | queued
  /-- dispatched: its operation has begun (R131). -/
  | running
deriving DecidableEq, Repr

/-- A descriptor consumed and not completed (R109). -/
structure Desc where
  id : Nat
  sq : Nat
  slot : Nat
  bytes : Bytes
  phase : Phase
  /-- fence table of a commit: address, threshold (R118). -/
  fences : List (Nat × Nat) := []
  /-- bytes read from host memory for the operation. -/
  data : Option Bytes := none
  /-- the operation's read has failed twice (R146). -/
  failed : Bool := false
  /-- the executing unit has taken the descriptor and will complete it later. -/
  taken : Bool := false
deriving DecidableEq, Repr

/-- A completion on its way to its CQ (R121 R124). -/
structure Done where
  sq : Nat
  /-- number of its descriptor: ring order within an SQ (R124). -/
  id : Nat := 0
  tag : Nat := 0
  user : Nat := 0
  opcode : Nat := 0
  noirq : Bool := false
  status : Nat
  result : Bytes := []
  /-- slot of a lost descriptor (R114). -/
  lost : Option Nat := none
deriving DecidableEq, Repr

/-- An unsolicited event (R128). -/
structure Event where
  typ : Nat
  sec : Nat
  ns : Nat
  arg0 : Nat := 0
  arg1 : Nat := 0
  arg2 : Nat := 0
deriving DecidableEq, Repr

/-- `HIF_DB_ERR` (R139). -/
structure DbErr where
  valid : Bool := false
  kick : Bool := false
  cq : Bool := false
  ring : Nat := 0
  cause : Nat := 0
  value : Nat := 0
deriving DecidableEq, Repr, Inhabited

/-- The ring engine (R103 to R141). -/
structure Rings where
  sqs : Tab Sq := []
  cqs : Tab Cq := []
  /-- consumed descriptors, oldest first (R109). -/
  inflight : List Desc := []
  /-- number of the next consumed descriptor. -/
  nextId : Nat := 0
  /-- completions in the order in which their operations completed (R124). -/
  done : List Done := []
  /-- events on their way to the ring engine (R128). -/
  events : List Event := []
  /-- events held while DMA is blocked (R129). -/
  heldEvents : List Event := []
  /-- `HIF_EVT_LOST.COUNT` (R137). -/
  evtLost : Nat := 0
  /-- events lost since the last `EVT_LOST` entry (R128). -/
  lostSince : Nat := 0
  /-- last SQ served, for the round robin (R110). -/
  lastTurn : Nat := 31
  /-- `HIF_SILENT.SILENT` (R138). -/
  silent : Nat := 100
  /-- the host-silence condition (R134). -/
  silence : Bool := false
  /-- `HIF_DB_ERR` (R139). -/
  dbErr : DbErr := {}
deriving DecidableEq, Repr, Inhabited

/-! ### Compositor (05, 06) -/

/-- A 256-byte layer context (R147). -/
abbrev Ctx := BitVec 2048

/-- A staged context and the SQ that last set it (R89 R145). -/
structure Staged where
  ctx : Ctx := 0#2048
  owner : Nat := 0
deriving DecidableEq, Repr, Inhabited

/-- An active layer (R145 R177). -/
structure Layer where
  ctx : Ctx := 0#2048
  owner : Nat := 0
  /-- flips as disabled because its context is invalid (R149). -/
  bad : Bool := false
  /-- `PROT_VIOL` has been raised for it (R89). -/
  revoked : Bool := false
  /-- consecutive frames in which it stalled (R177). -/
  stalls : Nat := 0
  /-- the limit its running stall count began with (R178). -/
  limit : Nat := 2
  /-- it is under its stall policy (R177). -/
  policy : Bool := false
deriving DecidableEq, Repr, Inhabited

/-- A fence of a group (R118 R168). -/
structure Fence where
  addr : Nat
  threshold : Nat
  satisfied : Bool := false
  /-- a kick arrived while a poll was outstanding (R169). -/
  again : Bool := false
deriving DecidableEq, Repr

/-- Where a group stands (R165 R171 R172). -/
inductive GroupState where
  | held | provisional | confirmed
deriving DecidableEq, Repr

/-- A commit group (R165 to R176). -/
structure Group where
  /-- number of its `LAYER_COMMIT` descriptor. -/
  gid : Nat
  sq : Nat
  tag : Nat
  /-- copied contexts: layer, context, owner, invalid (R149 R165). -/
  layers : List (Nat × Ctx × Nat × Bool)
  fences : List Fence
  /-- `TARGET_FRAME` with `TARGET` 1 (R118). -/
  target : Option Nat
  st : GroupState := .held
  /-- taken at or after the cut point of the next boundary (R167). -/
  afterCut : Bool
  /-- the group was taken in a latch gap, before its boundary (R195). -/
  gapTaken : Bool := false
  /-- it has missed its B* with every other condition met (R195). -/
  late : Bool := false
  /-- boundaries since B_e, once B_e has passed, with the limit it began with (R170). -/
  age : Option (Nat × Nat) := none
  /-- consecutive stalled frames and their limit (R176 R178). -/
  stalls : Nat := 0
  stallLimit : Nat := 2
  /-- returned from a provisional flip: no new fence check (R176). -/
  returned : Bool := false
  /-- frame number of the boundary at which it flipped (R172). -/
  flipNum : Int := 0
  /-- contexts its flip replaced (R163). -/
  replaced : List Ctx := []
  /-- a cut point has passed since the flip (R172). -/
  cutSeen : Bool := false
  /-- the composition of its frame has ended (R172). -/
  compEnded : Bool := false
deriving DecidableEq, Repr

/-- How a layer takes part in a composed frame (R89 R177). -/
inductive Mode where
  | normal | absent | dark
deriving DecidableEq, Repr

/-- A layer of a composed frame with the bytes it was composed from. -/
structure FLayer where
  l : Nat
  ctx : Ctx
  mode : Mode := .normal
  /-- source bytes as runs from an offset of the source range (R148). -/
  src : List (Nat × Bytes) := []
  /-- transfer table (R150). -/
  tt : Bytes := []
  /-- coefficient set (R159); empty for the built-in set. -/
  coef : Bytes := []
  /-- poisoned byte ranges of the source range, the transfer table and the coefficient set, as offset and length (R164). -/
  poison : List (Nat × Nat) := []
  ttPoison : List (Nat × Nat) := []
  coefPoison : List (Nat × Nat) := []
deriving DecidableEq, Repr

/-- A frame in a frame store, by what it was composed from; `pixelAt` gives its L16 values (R142 R152). -/
structure FrameRec where
  num : Int := 0
  layers : List FLayer := []
  /-- L16 values of words read with an uncorrectable error, by pixel 1 536 y + x (R11). -/
  lost : Tab Nat := []
deriving DecidableEq, Repr, Inhabited

/-- The composition in progress (R157 R175 R197). -/
structure Comp where
  frame : FrameRec
  ended : Bool := false
  extended : Bool := false
  /-- host-memory layers with a failed read (R175). -/
  failed : List Nat := []
  /-- layers whose stall probe completed (R177). -/
  probed : List Nat := []
  /-- host-memory layers still to be completed (R175). -/
  waiting : List Nat := []
  /-- layers of groups that completed `STALL` at the boundary that ends this frame (R176 R177). -/
  stalledOut : List Nat := []
  /-- a guard with `GUARD_ACT` did not match (R198). -/
  guardDrop : Bool := false
deriving DecidableEq, Repr

/-- What passes the flip gate besides groups (R14 R196 R199). -/
inductive GateItem where
  | frameCtrl (id : Nat) (item value : Nat) (late : Bool)
  | tileMap (value : Nat)
  | stripSet (id : Nat) (late : Bool)
  | gains (tile : Nat) (g : List Nat)
  | map (tile : Nat) (m : Bytes)
  | trim (channel value : Nat)
  | mapOff (tile : Nat)
deriving DecidableEq, Repr

/-- `CMP_GUARD_ERR` fields (R185). -/
structure GuardErr where
  valid : Bool := false
  layer : Nat := 0
  frame : Nat := 0
deriving DecidableEq, Repr, Inhabited

/-- The compositor (R142 to R212). -/
structure Cmp where
  staged : Tab Staged := []
  active : Tab Layer := []
  /-- the active layers before the flips of the frame in composition (R171). -/
  before : Tab Layer := []
  groups : List Group := []
  /-- resident cache content (R161): 12 MiB, reads 0 where nothing was written. -/
  cache : Mem := []
  /-- valid lines, as ranges of line numbers (R161). -/
  valid : List (Nat × Nat) := []
  /-- poisoned lines (R164). -/
  poisoned : List Nat := []
  /-- the layer number with which `CMP_CTX_BAD` was last raised (R149). -/
  badLayer : Nat := 0
  /-- the frame in composition; once ended it awaits the swap in the back store (R194). -/
  comp : Option Comp := none
  /-- the frame in the front store (R194). -/
  front : FrameRec := {}
  /-- items waiting for the flip gate, each with: ready to pass (R196). -/
  gate : List (Bool × GateItem) := []
  /-- `CMP_CTRL` (R178). -/
  guardUnit : Nat := 3
  fetchTmo : Nat := 2
  fenceTmo : Nat := 4
  /-- the limits that counts beginning now take (R178). -/
  fetchLim : Nat := 2
  fenceLim : Nat := 4
  /-- `CMP_FENCE_POLL.POLL_US` (R179). -/
  pollUs : Nat := 100
  /-- `CMP_TILE_MAP` register (R180). -/
  tileMap : Nat := 0x76543210
  /-- `CMP_TILE_MAP` as passed through the flip gate (R144). -/
  tileMapEff : Nat := 0x76543210
  /-- `CMP_LOAD.LPIX` (R182). -/
  load : Nat := 0
  /-- `CMP_STALL_COUNT` (R184). -/
  stallCount : Nat := 0
  /-- `CMP_GUARD_ERR` (R185). -/
  guardErr : GuardErr := {}
deriving DecidableEq, Repr, Inhabited

/-- Frame timing (R188 to R212). -/
structure Frm where
  /-- `FRM_CFG.RATE` (R206). -/
  rate : Nat := 240
  /-- `FRM_EPOCH_SEC` (R207). -/
  epochSec : Nat := 0
  /-- `FRM_EPOCH_NS` (R207). -/
  epochNs : Nat := 0
  /-- `FRM_CFG.STATIC_HOLD` (R206). -/
  staticHold : Nat := 8
  /-- `FRM_CFG.KEEPALIVE` (R206). -/
  keepalive : Nat := 60
  /-- `FRM_CFG.EXTEND_EN` (R206). -/
  extendEn : Bool := true
  /-- `FRM_NUM` (R208). -/
  num : Int := 0
  /-- `FRM_NUM_HI` as captured (R208). -/
  numCap : Nat := 0
  /-- `FRM_STATUS.SHIFTED` (R209). -/
  shifted : Nat := 0
  /-- `FRM_STATUS.HOLD_CNT` (R209), counted without the saturation of its field. -/
  holdCnt : Nat := 0
  /-- `FRM_STATUS.STATIC` (R209). -/
  static : Bool := false
  /-- `FRM_DROPS.EXTENDED` (R210). -/
  cntExtended : Nat := 0
  /-- `FRM_DROPS.OVERRUN` (R210). -/
  cntOverrun : Nat := 0
  /-- `FRM_EVENTS.BRIDGE` (R211). -/
  cntBridge : Nat := 0
  /-- `FRM_EVENTS.LATE` (R211). -/
  cntLate : Nat := 0
  /-- a boundary has fallen since the chip reset (notes/assumptions/76). -/
  started : Bool := false
  /-- output time at the last boundary, in 2^-16 ns (R191). -/
  start : Int := 0
  /-- steps of the output time since the last boundary (R191). -/
  steps : Int := 0
  /-- those of them made before G was fixed, at an elapsed time of T_F − 2^-16 ns (R191). -/
  stepsG : Int := 0
  /-- the boundary that has fallen and is yet to be taken, when a step came with it or after it: its output time, the steps until
  then, and whether it fell at a step (R191 R192). -/
  fell : Option (Int × Int × Bool) := none
  /-- a condition of R383 held at the last boundary: the Fronds' duty source is Lanternmoss (R200 R215). -/
  lmCond : Bool := false
  /-- the latch gap of the current frame has begun (R190). -/
  inGap : Bool := false
  /-- the latch-gap-start handshake is on its way to the compositor (R23). -/
  cutPending : Bool := false
  /-- the cut point of the next boundary has passed in the compositor (R23). -/
  cutPassed : Bool := false
  /-- a boundary awaits its clock in the compositor (R194). -/
  flipPending : Bool := false
  /-- a commit or `FRAME_CTRL` was taken during the period (R202). -/
  takenInPeriod : Bool := false
  /-- a layer entered or left a stall policy during the period (R202). -/
  policyChange : Bool := false
  /-- the stores swapped at the last boundary (R200). -/
  swapped : Bool := false
  /-- the flip gate stayed closed at the last boundary (R199). -/
  gateClosed : Bool := false
  /-- the flip just made was an unchanged boundary (R202). -/
  unchanged : Bool := false
deriving DecidableEq, Repr, Inhabited

/-! ### Fronds, strips, governor (07) -/

/-- A probe carried by a stream (R227 R311): row within the strip, column. -/
structure ProbeSel where
  row : Nat
  col : Nat
  win : Nat
deriving DecidableEq, Repr

/-- The inputs of one shift (R215), from which the duty words of the tile follow (R214 R216). -/
structure ShiftRec where
  tile : Nat
  seq : Nat
  lmoss : Bool
  frame : FrameRec
  /-- cell and rotation of the tile (R144). -/
  place : Nat
  /-- gains by block, 32 768 where not listed (R273). -/
  gains : Tab Nat
  /-- uniformity map; empty means 128 everywhere (R269). -/
  map : Bytes
  s : Nat
  lm : Nat
  kt : Nat
  egLimit : Nat
  /-- per local strip: enable and I_ref as numerator over the denominator of R237. -/
  strips : List (Bool × Nat)
  diag : Bool
  diagWin : Nat
  probes : Tab ProbeSel
  /-- repayment by pixel index 384 r + c, in duty units (R311). -/
  repay : Tab Nat
deriving DecidableEq, Repr

/-- A strip channel (R237 R251 R252 R253). -/
structure Strip where
  /-- `STRs_CFG.EN` (R251). -/
  en : Bool := true
  /-- `STRs_CFG.CH_IREF` (R251). -/
  chIref : Nat := 1023
  /-- trim code in force on the duty side (R237 R240). -/
  trim : Nat := 64
  /-- values the sink carries (R240). -/
  aEn : Bool := true
  aChIref : Nat := 1023
  aTrim : Nat := 64
  /-- `STRs_TELEM.STALE` (R252). -/
  stale : Bool := true
  /-- `STRs_TELEM.V_SREF` (R252). -/
  vSref : Nat := 0
  /-- `STRs_TELEM.I_MEAS` (R252). -/
  iMeas : Nat := 0
  /-- consecutive frames outside compliance (R239). -/
  badFrames : Nat := 0
  /-- `STRs_CRC_SENT` (R253). -/
  crcSent : Nat := 0
  /-- `STRs_CRC_RET` (R253). -/
  crcRet : Nat := 0
  /-- `STRs_RET_HDR` (R253). -/
  retHdr : Nat := 0
  /-- the readback comparison of the next shift is made (R235). -/
  held : Bool := false
deriving DecidableEq, Repr, Inhabited

/-- `FRDf_ROLE.ROLE` (R326). -/
inductive Role where
  | active | spare | suspect | quarantined | selftest
deriving DecidableEq, Repr, Inhabited

/-- A Frond (R225 R245 to R250, R325 to R328). -/
structure Frond where
  /-- `FRDf_CTRL.SHORT_EN` (R245). -/
  shortEn : Bool := true
  /-- `FRDf_CTRL.SRT_DLY` (R245). -/
  srtDly : Nat := 2
  /-- `FRDf_STATUS.CLAMPING` (R246). -/
  clamping : Bool := false
  /-- `FRDf_STATUS.LMOSS` (R246). -/
  lmoss : Bool := false
  /-- the shift in progress (R246 SHIFTING). -/
  shifting : Option ShiftRec := none
  /-- `FRDf_SEQ.SEQ_SENT` (R247). -/
  seqSent : Nat := 0
  /-- `FRDf_RB_ERR` (R248): VALID, LOCAL, RET_STRIP, RET_SEQ. -/
  rbValid : Bool := false
  rbLocal : Nat := 0
  rbStrip : Nat := 0
  rbSeq : Nat := 0
  /-- `FRDf_RB_CNT` (R249). -/
  rbCnt : Nat := 0
  /-- `FRDf_NAK_CNT` (R249). -/
  nakCnt : Nat := 0
  /-- `FRDf_CLAMP.F_MIN` (R250). -/
  fMin : Nat := 0x8000
  /-- `FRDf_CLAMP.WINDOWS` (R250). -/
  windows : Nat := 0
  /-- the decision of R200 for this period has yet to be taken (R215). -/
  decide : Bool := false
  /-- it shifted in this period (R200 R232). -/
  shiftedNow : Bool := false
  /-- boundaries since its last shift (R200). -/
  since : Nat := 0
  /-- a flip-gate item for its tile passed at the boundary (R200). -/
  item : Bool := false
  /-- force-gate inputs of the last shift: Lanternmoss, S, LM_LEVEL, EG_LIMIT, tile (R200 R220). -/
  lastForce : Option (Bool × Nat × Nat × Nat × Nat) := none
  /-- the latch-gap work of this gap is done (R232 R243). -/
  gapDone : Bool := false
  /-- `FRDf_PROBE_CNT.CANCELLED` (R325). -/
  cancelled : Nat := 0
  /-- `FRDf_PROBE_CNT.PROBES` (R325). -/
  probes : Nat := 0
  /-- `FRDf_ROLE.EPOCH` (R326). -/
  epoch : Nat := 1
  /-- `FRDf_ROLE.ROLE` (R326). -/
  role : Role := .active
  /-- `FRDf_HB_MISS` (R327). -/
  hbMiss : Nat := 0
  /-- `FRDf_STALE_CNT` (R327). -/
  staleCnt : Nat := 0
  /-- `FRDf_SELFTEST` (R328). -/
  selftest : Nat := 0
  /-- consecutive missing tokens (R316). -/
  misses : Nat := 0
  /-- `FROND_STALE` has been raised in this quarantine (R320). -/
  staleSeen : Bool := false
  /-- the descriptor of a self-test in progress (R321). -/
  reinstate : Option Nat := none
deriving DecidableEq, Repr, Inhabited

/-- Strip drive as a whole (R225 R244 R254 to R258). -/
structure Strips where
  strips : Tab Strip := []
  fronds : Tab Frond := []
  /-- `STR_GLOBAL.GLOBAL_IREF` (R254) and what the sinks carry (R240). -/
  globalIref : Nat := 255
  aGlobalIref : Nat := 255
  /-- `STR_GOV_CFG.GOV_BUDGET` (R255). -/
  govBudget : Nat := 0
  /-- `STR_GOV_STATUS.SCALE` (R256). -/
  scale : Nat := 0x8000
  /-- `STR_GOV_LOAD.LOAD` (R257). -/
  load : Nat := 0
  /-- `STR_SHORT` (R258): VALID, KIND, PIN_B, PIN_A. -/
  shortValid : Bool := false
  shortKind : Bool := false
  shortB : Nat := 0
  shortA : Nat := 0
  /-- the channel p tested next in the latch gap (R244; start value not given: notes/assumptions/9). -/
  srefP : Nat := 0
  /-- `STRIP_SET` descriptors whose duty-side step has passed, with LATE (R242). -/
  analogPend : List (Nat × Bool) := []
  /-- a trim has passed its duty-side step at the last boundary (R202 R240). -/
  trimPend : Bool := false
  /-- the `SREF` step of this latch gap has been made (R244). -/
  srefDone : Bool := false
  /-- a save has stopped the Fronds at its off instant (R46). -/
  stopped : Bool := false
deriving DecidableEq, Repr, Inhabited

/-! ### Carqua tiles and the ledger (08) -/

/-- The header of a tile (R268). -/
structure Header where
  format : Nat
  typ : Nat
  serial : Nat
  kT : Nat
  ratedQ : Nat
  certLen : Nat
  mapCrc : Nat
  curveCrc : Nat
  /-- bytes 0x00 to 0xFF as read (R284). -/
  bytes : Bytes
deriving DecidableEq, Repr

/-- How far the identity steps of R269 have come. -/
inductive IdPhase where
  | none | header | curve | heads | ledger | cert | challenge | map | ready | stuck
deriving DecidableEq, Repr

/-- A ledger copy as the tile holds it (R277): entries in 1/256 nC. -/
structure Copy where
  gen : Nat
  time : Nat
  entries : Tab Nat
deriving DecidableEq, Repr

/-- A commit in progress (R278). -/
structure Commit where
  /-- the serial under which the copy is written. -/
  serial : Nat
  /-- what the copy carries of Σ_b, per block in 2^-32 nC: whole 1/256 nC (R280). -/
  snap : Tab Nat
  /-- the entries of the copy: T_b + Σ_b in 1/256 nC. -/
  entries : Tab Nat
  toA : Bool
  gen : Nat
  time : Nat
  /-- the final commit of a `RELEASE` (R286). -/
  final : Bool := false
  repeated : Bool := false
deriving DecidableEq, Repr

/-- Live certificate state (R290). -/
inductive Cert where
  | pending | verified | failed
deriving DecidableEq, Repr

/-- A latch as pixel diagnosis keeps it (R306). -/
structure LatchRec where
  seq : Nat
  diag : Bool
  probes : Tab ProbeSel
  nak : Bool
deriving DecidableEq, Repr

/-- Pixel diagnosis of a tile position (R301 to R313). Bit 384 r + c of a map stands for pixel (r, c). -/
structure Diag where
  /-- bit 0 and bit 1 of each verdict (R301). -/
  vLo : Nat := 0
  vHi : Nat := 0
  /-- tested bits (R308); all 1 after the map is reset. -/
  tested : Nat := 2 ^ 147456 - 1
  /-- due bits (R308). -/
  due : Nat := 0
  /-- repayment entries: owed units by pixel (R311). -/
  repay : Tab Nat := []
  /-- probe pointer by local strip, as k of R228 (R309). -/
  ptr : Tab Nat := []
  /-- boundaries since the last shift that carried `DIAG` (R305). -/
  count : Nat := 0
  /-- a diagnostic frame is due (R305). -/
  diagDue : Bool := false
  /-- the latches of the last two edges (R306). -/
  last : Option LatchRec := none
  prev : Option LatchRec := none
  /-- an entry changed since the last shift was decided (R312). -/
  changed : Bool := false
  /-- local strips whose table has been reported full (R313). -/
  full : Nat := 0
  /-- `FRDf_DIAG_STATUS.LAST_SEQ` (R323). -/
  lastSeq : Nat := 0
  /-- `DIAG_WIN` as computed at the last boundary (R302 R323). -/
  win : Nat := 0
deriving DecidableEq, Repr, Inhabited

/-- A tile position (R260 to R295, R317). -/
structure Tile where
  /-- `PRESENT` (R290). -/
  present : Bool := false
  /-- `ENABLED`: `TENn` high (R290). -/
  enabled : Bool := false
  /-- identity step awaited (R269). -/
  phase : IdPhase := .none
  /-- the read was started by `RESCAN` or `RETURN`: no kind 5 (R264). -/
  rescan : Bool := false
  /-- the header that passed step 1 (R268). -/
  header : Option Header := none
  /-- the header as last read, whether or not it passed (R284 R289). -/
  headerBytes : Bytes := []
  /-- the serial to which the pending charge belongs (R276). -/
  ledSerial : Option Nat := none
  /-- `RELEASED` (R290). -/
  released : Bool := false
  /-- a `RELEASE` waits for its latch-gap start (R286). -/
  releaseTaken : Bool := false
  /-- the final commit of a release runs (R286). -/
  releasing : Bool := false
  /-- `MAP_OK` (R290). -/
  mapOk : Bool := false
  /-- `CURVE_OK` (R290). -/
  curveOk : Bool := false
  /-- `ORPHAN` (R290). -/
  orphan : Bool := false
  /-- `CERT` (R290). -/
  cert : Cert := .pending
  /-- certificate bytes as read (R271). -/
  certBytes : Bytes := []
  /-- number of the nonce of the running challenge (R271). -/
  nonceNo : Nat := 0
  /-- ageing curve points: Q_k, L_k (R272). -/
  curve : List (Nat × Nat) := []
  /-- map as read, awaiting readiness (R272). -/
  mapRead : Bytes := []
  /-- map in force; empty means 128 everywhere (R269). -/
  map : Bytes := []
  /-- gains in force by block; 32 768 where not listed (R273). -/
  gains : Tab Nat := []
  /-- the map and gains have passed the flip gate: composed duty (R266). -/
  composed : Bool := false
  /-- T_b in 1/256 nC (R273). -/
  t : Tab Nat := []
  /-- P_b in 2^-32 nC (R276). -/
  p : Tab Nat := []
  /-- the tile's two copies as last read or written (R277). -/
  copyA : Option Copy := none
  copyB : Option Copy := none
  /-- step 3 has ended for this tile: its base is known (R269). -/
  baseKnown : Bool := false
  /-- `LDG_TILEn_GEN` (R298). -/
  gen : Nat := 0
  /-- `LDG_TILEn_TIME` (R298). -/
  time : Nat := 0
  commit : Option Commit := none
  /-- a commit is requested (R278 R279). -/
  commitReq : Bool := false
  /-- a commit failed twice and its charge stays pending (R281). -/
  commitFailed : Bool := false
  /-- `TILn_EOL` (R294). -/
  eolBlocks : Nat := 0
  ratedBlocks : Nat := 0
  /-- `TILn_GAIN` (R295). -/
  gMin : Nat := 0x8000
  gMax : Nat := 0x8000
  /-- `TILn_ALERT` (R292). -/
  busErr : Nat := 0
  cause : Nat := 0
  /-- failed attempts of the current tile-bus transaction (R261). -/
  attempts : Nat := 0
  /-- slice shown now, slices of this frame that were skipped or dark (R19 R28). -/
  slice : Nat := 0
  skipSlices : Nat := 0
  darkSlices : Nat := 0
  /-- tick at which the light went off, by slice of this frame (R28). -/
  offs : Tab Nat := []
  /-- `N` of R225 and its slice counter. -/
  skipN : Nat := 0
  skipCnt : Nat := 0
  /-- the stream shifted and not yet latched; by local strip, the one latched last and the one shown in this frame (R230). -/
  sent : Option ShiftRec := none
  latched : Tab ShiftRec := []
  shown : Tab ShiftRec := []
  /-- local strips that latched since the last boundary, and those that latched before it: their frame is the first (R303). -/
  latchedNow : Nat := 0
  fresh : Nat := 0
  /-- slices started in this frame (R225 R304). -/
  started : Nat := 0
  /-- the ledger tap of this latch-gap start is awaited (R276). -/
  tapPend : Bool := false
  /-- crossbar epoch and owner of the position (R317 R329); owner 15 = none. -/
  epoch : Nat := 1
  owner : Option Nat := none
  noOwner : Bool := false
  /-- the Frond that drives `TSYNCn` in place of the owner (R316). -/
  tsyncBy : Option Nat := none
  /-- the uniformity map is read again after a takeover (R317). -/
  mapPending : Bool := false
  /-- a takeover has been granted and not completed (R317). -/
  takeover : Bool := false
  diag : Diag := {}
deriving DecidableEq, Repr

/-- What the management processor keeps of a position through `PIN`, `STUCK` and `SOFT` (R280). -/
structure Retained where
  /-- its tile position. -/
  pos : Nat
  serial : Nat
  gen : Nat
  p : Tab Nat
  commitTime : Option Nat
deriving DecidableEq, Repr

/-- An orphan set of the journal (R281 R282 R604). -/
structure Orphan where
  serial : Nat
  gen : Nat
  commitTime : Option Nat
  /-- the commit record belongs to the group-form part (R604). -/
  commitGroup : Bool := false
  /-- block form: P_b in 1/256 nC. -/
  block : Option (Tab Nat) := none
  /-- its place in the journal, 0 to 7 (R604). -/
  place : Nat := 0
  /-- group form: whole nC per group. -/
  group : Option (Tab Nat) := none
deriving DecidableEq, Repr

/-- A group sum of a save record (R283). -/
structure SavedTile where
  pos : Nat
  serial : Nat
  gen : Nat
  commitTime : Option Nat
  group : Tab Nat
  /-- groups named as poisoned (R50). -/
  poisoned : List Nat := []
  /-- of a save before the last (R299). -/
  old : Bool := false
deriving DecidableEq, Repr

/-- A requested set of commits with its descriptor (R288). -/
structure CommitWait where
  id : Nat
  /-- tiles whose commit is still awaited. -/
  tiles : Nat
  /-- those of them whose commit has started since the request. -/
  armed : Nat := 0
  ok : Bool := true
deriving DecidableEq, Repr

/-- Tiles and the ledger as a whole (08). -/
structure Tiles where
  tiles : Tab Tile := []
  /-- `LDG_CTRL.GAIN_S` (R296). -/
  gainS : Nat := 60
  /-- `LDG_CTRL.COMMIT_MIN` (R296). -/
  commitMin : Nat := 60
  /-- `LDG_STATUS.SAVE_POISON` (R297). -/
  savePoison : Bool := false
  /-- `LDG_STATUS.SAVE_APPLIED` (R297). -/
  saveApplied : Bool := false
  /-- `LDG_STATUS.FAILED` (R297). -/
  failed : Nat := 0
  /-- `LDG_DISCARD` (R299). -/
  discard : Nat := 0
  /-- `LDG_SAVE_GROUPS` (R299). -/
  saveGroups : Nat := 0
  /-- the tile whose commit runs (R278). -/
  committing : Option Nat := none
  /-- a periodic ledger commit runs (R279 R487). -/
  periodic : Bool := false
  /-- waiting `LEDGER_COMMIT` descriptors (R288). -/
  waits : List CommitWait := []
  /-- number of the next nonce (R271). -/
  nextNonce : Nat := 0
  /-- serial and reason of each `LEDGER_EOL` event posted (R275). -/
  eolPosted : List (Nat × Nat) := []
deriving DecidableEq, Repr, Inhabited

/-- A record of poisoned ledger blocks in the journal (R30 R280 R281). -/
structure PoisonRec where
  serial : Nat
  gen : Nat
  blocks : List Nat
deriving DecidableEq, Repr

/-- What outlives a chip reset outside Lichen: the journal and the retained ledger (R280 R282). -/
structure Journal where
  /-- orphan sets, oldest first (R282). -/
  orphans : List Orphan := []
  /-- pending charge kept across chip resets, oldest first (R280). -/
  retained : List Retained := []
  /-- tiles saved by save sequences, to be applied at their step 3 (R283). -/
  saved : List SavedTile := []
  /-- what is recorded as poisoned (R30). -/
  poison : List PoisonRec := []
deriving DecidableEq, Repr, Inhabited

/-! ### Safety channels (10) -/

/-- One safety channel (R331 to R345). -/
structure Channel where
  /-- the power-up self-test has ended (R345). -/
  selftestDone : Bool := false
  /-- it has passed (R345). -/
  selftestOk : Bool := false
  /-- level of `HATCH_x` (R362). -/
  hatch : Bool := false
  /-- level of `ESTOP_x` (R362). -/
  estop : Bool := false
  /-- the channel knows the hatch pair in demand (R335). -/
  demHatch : Bool := false
  /-- the channel knows the emergency-stop pair in demand (R335). -/
  demEstop : Bool := false
  /-- the other channel's demand signal is on its way here: hatch, emergency stop (R335). -/
  sigHatch : Bool := false
  sigEstop : Bool := false
  /-- a discrepancy is latched (R336). -/
  discHatch : Bool := false
  discEstop : Bool := false
  /-- the emergency-stop pair is released, its restart condition awaited (R337). -/
  released : Bool := false
  /-- the output is permitted high: `SLO_x` but for an output test pulse (R333 R343). -/
  slo : Bool := false
  /-- level of `SLOFB_x` (R340 R362). -/
  fb : Bool := false
  /-- the feedback check passes (R340 R344). -/
  fbOk : Bool := false
  /-- level of `TPx` (R338). -/
  tp : Bool := false
  /-- low because the cross-link is lost (R332). -/
  xcmp : Bool := false
  /-- low because a difference has lasted for 2 ms, and lasts (R332). -/
  differs : Bool := false
  /-- an input test pulse is in progress (R338). -/
  inTest : Bool := false
  /-- an output test pulse is in progress (R341 R342). -/
  outTest : Bool := false
  /-- its verdict will be discarded (R342). -/
  outDiscard : Bool := false
  /-- channel B: the dedicated SEVERE line is broken (R379). -/
  severeLine : Bool := false
deriving DecidableEq, Repr, Inhabited

/-- The safety island (10). -/
structure Safety where
  a : Channel := {}
  b : Channel := {}
  /-- the set in force, 512 bytes; empty if none (R333 R357). -/
  inForce : Bytes := []
  /-- `SAF_STATUS.SET_SRC` (R362). -/
  src : Nat := 0
  /-- the confirmed copy in force: 0 none, 1 first, 2 second (R356). -/
  copy : Nat := 0
  /-- the factory set as step 4 of the self-test read it; empty before (R345 R364). -/
  factory : Bytes := []
  /-- the staged set; empty if none (R358). -/
  staged : Bytes := []
  /-- a `SAFE_CONFIRM` waits for its record or its exchange: descriptor, record committed (R360). -/
  confirm : Option (Nat × Bool) := none
  /-- `SAF_CTRL.SAFE_LOCK` (R363). -/
  safeLock : Bool := false
  /-- `SAF_CTRL.CONFIRM_EN` (R363). -/
  confirmEn : Bool := true
  /-- `SAF_STAGE_ERR` (R365): VALID, CAUSE, OFFSET. -/
  errValid : Bool := false
  errCause : Nat := 0
  errOffset : Nat := 0
  /-- `SAF_TP_CNT.DISCARDED` (R366). -/
  tpDiscarded : Nat := 0
  /-- `SAF_TP_CNT.FAILED` (R366). -/
  tpFailed : Nat := 0
  /-- `SAF_DEMAND_CNT.ESTOP` (R367). -/
  cntEstop : Nat := 0
  /-- `SAF_DEMAND_CNT.HATCH` (R367). -/
  cntHatch : Nat := 0
  /-- `SAF_EG_MAX` (R368): RATIO, TILE, WIN_I, WIN_J. -/
  egRatio : Nat := 0
  egTile : Nat := 0
  egI : Nat := 0
  egJ : Nat := 0
  /-- `SAF_EG_TRIP` (R369): VALID, RATIO, CHANNEL, TILE, WIN_I, WIN_J. -/
  tripValid : Bool := false
  tripRatio : Nat := 0
  tripB : Bool := false
  tripTile : Nat := 0
  tripI : Nat := 0
  tripJ : Nat := 0
  /-- a hatch demand has begun since the emergency stop was released (R337). -/
  hatchSince : Bool := false
  /-- the restart code awaited since the release; none while none is awaited (R337 R361). -/
  awaited : Option Nat := none
  /-- `EG_LIMIT` and `LM_LEVEL` as the Fronds took them at the last boundary (R361). -/
  egTaken : Nat := 0
  lmTaken : Nat := 0
  /-- `SEQ` and `EG_LIMIT` of the last 512 boundaries, newest first (R350). -/
  egHist : List (Nat × Nat) := []
deriving DecidableEq, Repr, Inhabited

/-! ### The fault collector (11) -/

/-- One slot of the collector (R375 R391 R392 R393). -/
structure Slot where
  /-- `FLTs_CFG` CLASS, N, W_MS; the reset class is that of the owning chapter. -/
  cls : Nat
  n : Nat := 1
  wMs : Nat := 1000
  /-- the class and `N` with which the open window began (R382). -/
  winCls : Nat := 0
  winN : Nat := 1
  /-- `FLTs_STATE`: broken code 0 or 3 while `WIRE`, EFF, ESC, INJ, WIRE, WCOUNT. -/
  code : Bool := false
  eff : Nat := 0
  esc : Bool := false
  inj : Bool := false
  wire : Bool := false
  wcount : Nat := 0
  /-- effective classes of its unacknowledged faults, one bit a class (R377). -/
  unack : Nat := 0
  /-- `FLTs_COUNT`. -/
  promotions : Nat := 0
  events : Nat := 0
  /-- `FLTs_TIME`. -/
  sec : Nat := 0
  ms : Nat := 0
deriving DecidableEq, Repr, Inhabited

/-- An entry of the fault log (R389). -/
structure LogEnt where
  word : Nat := 0
  frame : Nat := 0
  sec : Nat := 0
  ns : Nat := 0
deriving DecidableEq, Repr, Inhabited

/-- An armed injection (R385). -/
structure Inject where
  id : Nat
  slot : Nat
  checker : Nat
  left : Nat
deriving DecidableEq, Repr, Inhabited

/-- The fault collector (11). -/
structure Faults where
  /-- channel A's clock runs and the collector has started (R568). -/
  started : Bool := false
  slots : Tab Slot := []
  /-- sources that drive fault, one bit a slot (R374). -/
  drive : Nat := 0
  /-- one pending event of a source (R374). -/
  pend : Nat := 0
  /-- sources whose condition persists (R374). -/
  cond : Nat := 0
  /-- persisting conditions whose event has been accepted (R374). -/
  accepted : Nat := 0
  /-- the driven event comes from an injected verdict (R386). -/
  injected : Nat := 0
  /-- `FLT_LM.FIRST`: the first-light condition (R27 R398). -/
  lmFirst : Bool := true
  /-- `FLT_SUMMARY.IRQ_ARMED` (R395). -/
  irqArmed : Bool := true
  /-- a promotion occurred while vector 32 was disarmed (R387). -/
  irqMissed : Bool := false
  /-- log entries by index (R389). -/
  log : Tab LogEnt := []
  /-- `FLT_LOG_HEAD.HEAD` (R397). -/
  head : Nat := 0
  /-- `FLT_LOG_HEAD.LOST` (R397). -/
  lost : Nat := 0
  /-- newest entries not yet copied (R390). -/
  uncopied : Nat := 0
  /-- entries of the log at the overwrite that began `FLT_LOG_LOST`, still to be copied (R390). -/
  lostLeft : Nat := 0
  /-- the armed injection (R385 R399). -/
  inj : Option Inject := none
  /-- `FLT_WIRE_SLOT` (R400). -/
  wireValid : Bool := false
  wireSlot : Nat := 0
  /-- `FLT_ECC_CNT` (R400). -/
  eccCorr : Nat := 0
  eccUncorr : Nat := 0
deriving DecidableEq, Repr, Inhabited

/-! ### Calibration and thermal management (12) -/

/-- A request that a calibration run serves (R410 R416): a descriptor and the channels it waits for. -/
structure CalWait where
  id : Nat
  /-- the channel named, or none for a full run. -/
  channel : Option Nat
  /-- it waits for the fresh full run that is queued (R410). -/
  queued : Bool := false
  /-- one of its channels raised `CAL_RANGE`, or was finally skipped. -/
  range : Bool := false
  skip : Bool := false
deriving DecidableEq, Repr, Inhabited

/-- Calibration of one channel (R407 R413 R442). -/
structure CalCh where
  err : Int := 0
  delta : Int := 0
  trim : Nat := 64
  /-- telemetry hold (R414): 0 none, 1 until the boundary, 2 until the sink carries the new trim. -/
  hold : Nat := 0
deriving DecidableEq, Repr, Inhabited

/-- Calibration (R401 to R416, R436 to R442). -/
structure Cal where
  /-- `CAL_CTRL.CAL_DT` (R436). -/
  calDt : Nat := 8
  /-- `CAL_CTRL.AUTO_EN` (R436). -/
  autoEn : Bool := true
  /-- `CAL_STATUS.RUNNING`: a full run is in progress (R437). -/
  running : Bool := false
  /-- `CAL_STATUS.QUEUED` (R437). -/
  queued : Bool := false
  /-- `CAL_STATUS.CHANNEL` (R437). -/
  channel : Nat := 0
  /-- `CAL_STATUS.SKIPPED` (R437). -/
  skipped : Nat := 0
  /-- channels still to be measured in the full run, in order (R410). -/
  todo : List Nat := []
  /-- channels skipped in the first pass, to be retried once (R411). -/
  retry : List Nat := []
  /-- the full run is in its second pass (R411). -/
  second : Bool := false
  /-- single channels to be inserted (R410). -/
  singles : List Nat := []
  /-- the channel in calibration in this latch gap, whether for a single `CAL_RUN`, and whether its ratios are awaited (R412). -/
  now : Option (Nat × Bool × Bool) := none
  /-- `CAL_RUN` descriptors in progress (R416). -/
  waits : List CalWait := []
  /-- the full run at boot has been started (R409). -/
  bootRun : Bool := false
  /-- a learned write is owed (R415). -/
  owed : Bool := false
  /-- `CAL_TEMP.T_CAL` and `T_C` (R438), as numerators over 840 of 1/16 °C. -/
  tCal : Int := 0
  tC : Int := 0
  /-- `CAL_COUNT` (R439). -/
  runs : Nat := 0
  ranges : Nat := 0
  /-- `CAL_REF.RREF_OK` (R440). -/
  rrefOk : Bool := false
  /-- `CAL_REF.I_BASE` (R440). -/
  iBase : Nat := 0
  /-- valid factory sets: number, temperature, trim codes (R406). -/
  factory : List (Nat × Int × List Nat) := []
  /-- `CAL_SETS.LEARN_GEN` and `LEARN_SRC` (R441). -/
  learnGen : Nat := 0
  learnSrc : Nat := 0
  /-- the channels (R442). -/
  chans : Tab CalCh := []
  /-- `FRDf_DIAG_CFG.PROBE_EN` (R322). -/
  probeEn : Bool := true
  /-- `FRDf_DIAG_CFG.PROBE_AFTER` (R322). -/
  probeAfter : Nat := 60
  /-- `FRDf_DIAG_CFG.DIAG_EVERY` (R322), as written and as in force from the last boundary. -/
  diagEvery : Nat := 240
  diagCfg : Bool × Nat × Nat := (true, 60, 240)
deriving DecidableEq, Repr, Inhabited

/-- One temperature sensor (R417 to R428, R443 to R450). -/
structure Sensor where
  /-- `VALID`, `SUBST`, `FAILED`, `READING` (R443). -/
  valid : Bool := false
  subst : Bool := false
  failed : Bool := false
  reading : Int := 0
  /-- `RATE_OK`, `RATE` (R444). -/
  rateOk : Bool := false
  rate : Int := 0
  /-- `THM_LIMi` (R445). -/
  riseLim : Nat
  tArm : Int
  /-- it has given a valid reading since the last failure (R420). -/
  everValid : Bool := false
  /-- consecutive valid readings while failed (R420). -/
  good : Nat := 0
  /-- valid or substituted readings with their local times, newest first (R422). -/
  hist : List (Int × Int) := []
  /-- the last 64 differences of R428, newest first. -/
  diffs : List Int := []
  /-- `THM_OFFi.OFFSET` (R450). -/
  offset : Nat := 0
  /-- its later readings are replaced (R427). -/
  substituted : Bool := false
deriving DecidableEq, Repr, Inhabited

/-- A throttle domain (R423 to R427, R447 R448): 0 chip, 1 + n tile n. -/
structure Domain where
  level : Nat := 0
  /-- the failed sensors that freeze it, each with the level that is its floor (R427). -/
  frozen : List (Nat × Nat) := []
deriving DecidableEq, Repr, Inhabited

/-- A measurement demand (R419): sensors named, and its descriptor if it is a `THERM_MEASURE`. -/
structure Demand where
  mask : Nat
  id : Option Nat := none
deriving DecidableEq, Repr, Inhabited

/-- Thermal management (R417 to R435). -/
structure Therm where
  sensors : Tab Sensor := []
  domains : Tab Domain := []
  /-- demands awaiting their readings, oldest first (R419). -/
  demands : List Demand := []
  /-- `THM_CTRL` (R446). -/
  relS : Nat := 30
  ntc0Dom : Nat := 10
  ntc1Dom : Nat := 10
  /-- the chip level in force in the compositor, from the last boundary (R425). -/
  chipInForce : Nat := 0
deriving DecidableEq, Repr, Inhabited

/-! ### Chain ports (13) -/

/-- States of a port (R457 R498). -/
inductive PortState where
  | disabled | lock | capability | up | stepSwitch | stepTrial | fallback | backoff
deriving DecidableEq, Repr, Inhabited

/-- Credits of one priority of a port (R470 R472 R500). -/
structure Cred where
  /-- `ADV` as written, and as advertised in this link-up period (R470). -/
  adv : Nat
  advUsed : Nat
  /-- transmitter side: init, sent, returned, seen (R472). -/
  init : Nat := 0
  sent : Nat := 0
  returned : Nat := 0
  seen : Nat := 0
  /-- receiver side: cumulative cells freed (R472). -/
  freed : Nat := 0
  /-- last `CREDIT_INIT` and how often in a row (R457). -/
  lastInit : Option Nat := none
  initOk : Bool := false
deriving DecidableEq, Repr, Inhabited

/-- A timestamp in local time and, through the mappings in force at the capture, in the output time and both domains, with
`EVER_SET` of the domains (R506 R507). -/
structure Stamps where
  loc : Int := 0
  out : Int := 0
  a : Int := 0
  b : Int := 0
  setA : Bool := false
  setB : Bool := false
deriving DecidableEq, Repr, Inhabited

/-- A frame in reception (R466 R467 R469). -/
structure RxFrame where
  cells : Nat
  prio : Nat
  /-- forwarded cut-through: number of the frame on the other port. -/
  cut : Option Nat := none
  /-- ingress timestamp (R506). -/
  ts : Stamps
deriving DecidableEq, Repr, Inhabited

/-- Who still needs a frame of the pool (R474 R475). -/
inductive Consumer where
  | egress (port : Nat) | host (rxq : Nat) | mgmt
deriving DecidableEq, Repr

/-- Where a pool frame came from (R473 R474). -/
inductive Origin where
  | ingress (port : Nat) | host (desc : Nat) | mgmt
deriving DecidableEq, Repr

/-- A frame in the cell pool (R474 R475). -/
structure PoolFrame where
  id : Nat
  bytes : Bytes
  cells : Nat
  prio : Nat
  origin : Origin
  /-- its cells have been recharged to the shared part (R473). -/
  shared : Bool
  wants : List Consumer
  poison : Bool := false
  /-- ingress timestamp, where received on a port. -/
  ts : Stamps := {}
  /-- link-up period of its ingress in which it was received (R472). -/
  period : Nat := 0
  /-- ended with `/E/` by its ingress (R468). -/
  bad : Bool := false
  /-- reception has ended (R467 R468). -/
  whole : Bool := true
deriving DecidableEq, Repr

/-- A transmission in progress (R468 R471). -/
structure TxFrame where
  frame : Nat
  ts : Stamps
deriving DecidableEq, Repr, Inhabited

/-- A Umio port (R452 to R464, R497 to R501). -/
structure Port where
  /-- `CHN_PORTp_CTRL` (R497). -/
  sleepIdle : Nat := 100
  sleepEn : Bool := false
  maxStep : Nat := 3
  en : Bool := true
  /-- `CHN_PORTp_STATUS` (R498). -/
  st : PortState := .disabled
  step : Nat := 0
  partnerMax : Nat := 0
  lock : Bool := false
  signal : Bool := false
  txSleep : Bool := false
  rxSleep : Bool := false
  neighOk : Bool := false
  partnerFw : Bool := false
  backoff : Nat := 0
  /-- `CHN_PORTp_PARTNER` (R499). -/
  partner : Nat := 0
  /-- number of the link-up period, counted by the model. -/
  period : Nat := 0
  /-- the port has started since the chip reset (R457). -/
  started : Bool := false
  /-- a `CAP` with `ACK` has been received; any valid `CAP` has (R457). -/
  ackSeen : Bool := false
  capSeen : Bool := false
  /-- the partner reports this role: West (R460). -/
  partnerWest : Bool := false
  /-- the partner's `CAP` shows `SLEEP_OK` (R463). -/
  partnerSleep : Bool := false
  /-- a trial failed or a step was refused in this link-up period (R461). -/
  noStep : Bool := false
  /-- an accept is awaited; frames are not started (R461). -/
  asking : Bool := false
  /-- an East port has answered and finishes its frame (R461). -/
  target : Nat := 0
  /-- the step to which a fallback returns (R457). -/
  oldStep : Nat := 0
  /-- result good sent, received (R461). -/
  goodSent : Bool := false
  goodSeen : Bool := false
  /-- the receive direction wakes and awaits block lock (R464). -/
  waking : Bool := false
  cred : Tab Cred := []
  /-- the frame in reception (R469). -/
  rx : Option RxFrame := none
  tx : Option TxFrame := none
  /-- frames in Egress queues, in the order queued (R468): frame numbers. -/
  queue : List Nat := []
  /-- `CHN_PORTp_ERR` (R501). -/
  blockErr : Nat := 0
  fcsErr : Nat := 0
  /-- `CHN_PORTp_RX_FRAMES`, `CHN_PORTp_TX_FRAMES` (R501). -/
  rxFrames : Nat := 0
  txFrames : Nat := 0
  /-- `CHN_PORTp_DROPS` (R501). -/
  cutCnt : Nat := 0
  discard : Nat := 0
deriving DecidableEq, Repr, Inhabited

/-- A posted host receive buffer (R481). -/
structure RxBuf where
  id : Nat
  rxq : Nat
  len : Nat
  addr : Nat
deriving DecidableEq, Repr, Inhabited

/-- A `NET_TX` in progress (R480). -/
structure TxWait where
  id : Nat
  /-- ports that have not sent it and have stayed up, ports that have sent it with their timestamps. -/
  left : List Nat
  sent : List (Nat × Stamps) := []
deriving DecidableEq, Repr, Inhabited

/-- `CHN_RXQr_CFG` (R495). -/
structure Rxq where
  drops : Nat := 0
  en : Bool := true
  limit : Nat := 512
deriving DecidableEq, Repr, Inhabited

/-- The chain island (13). -/
structure Chain where
  ports : Tab Port := []
  /-- `CHN_CTRL` (R488). -/
  helloS : Nat := 1
  ptpToHost : Bool := false
  svcToHost : Bool := false
  defPrio : Nat := 0
  /-- `CHN_MAC` (R489). -/
  mac : Nat := 0
  /-- `CHN_STALE.STALE_US` (R490). -/
  staleUs : Nat := 1000
  /-- `CHN_AUDIT` (R491). -/
  auditValid : Bool := false
  auditQueued : Nat := 0
  auditFree : Nat := 0
  /-- the free list's length (R474 R491). -/
  free : Nat := 16384
  /-- `CHN_SVC_CNT` (R492). -/
  svcBad : Nat := 0
  svcRelayed : Nat := 0
  /-- `CHN_MCASTk`: address and `EN` (R493). -/
  mcast : Tab (Nat × Bool) := []
  /-- `CHN_HEADk` (R494). -/
  heads : List Nat := [0, 0, 0, 0]
  rxqs : Tab Rxq := []
  /-- stale queues, one bit a queue (R496). -/
  stale : Nat := 0
  frames : List PoolFrame := []
  nextFrame : Nat := 0
  /-- posted host receive buffers (R481). -/
  rxBufs : List RxBuf := []
  /-- host receive queues: queue and frame number, in order (R475 R482). -/
  hostQ : List (Nat × Nat) := []
  /-- management receive queue (R475). -/
  mgmtQ : List Nat := []
  txWaits : List TxWait := []
  /-- (`ORIGIN`, `SEQ`) of the last 64 service messages, newest first (R484). -/
  seen : List (Nat × Nat) := []
  /-- own `SEQ` of originated messages (R483). -/
  seq : Nat := 0
  /-- `LEDGER_REPORT`s that are due (R487). -/
  report : Nat := 0
deriving DecidableEq, Repr, Inhabited

/-! ### The time island (14) -/

/-- A time domain (R503 R510 R511 R525). Times in 2^-16 ns. -/
structure Dom where
  /-- domain time at local time `at_` (R503). -/
  base : Int := 0
  /-- local time at which the mapping was last set. -/
  at_ : Int := 0
  /-- rate ratio − 1 in 2^-16 ppb (R503 R516). -/
  ratio : Int := 0
  /-- `TIM_DOMx_CFG` (R525). -/
  lossT : Nat := 3
  ptpDomain : Nat := 0
  en : Bool := true
  /-- `TIM_DOMx_STATUS` (R525). -/
  locked : Bool := false
  everSet : Bool := false
  holdover : Bool := false
  port : Nat := 0
  /-- the last offset, in 2^-16 ns; `TIM_DOMx_OFFSET` shows it in ns (R525). -/
  offset : Int := 0
  /-- consecutive offsets within ±100 ns (R511). -/
  good : Nat := 0
  /-- what remains of a `TIME_ADJ` slew (R516). -/
  slewLeft : Int := 0
  /-- the Sync in use: sequence number, ingress time in the domain by the mapping at its capture, corrected master time
  (R506 R510). -/
  sync : Option (Nat × Int × Int) := none
  /-- the domain has locked since chip reset or since `EN` became 1 (R514). -/
  everLocked : Bool := false
deriving DecidableEq, Repr, Inhabited

/-- A timed event channel (R518 to R521, R528). -/
structure Tev where
  /-- `MODE` in force. -/
  mode : Nat := 0
  /-- next edge in the output time. -/
  next : Int := 0
  /-- first edge of the arming in force: the grid of a periodic channel (R521). -/
  start : Int := 0
  /-- a one-shot that has fired (R521). -/
  fired : Bool := false
  period : Int := 0
  width : Int := 0
  /-- a pulse is in progress (R520). -/
  pulse : Bool := false
  /-- the pin's level (R520). -/
  level : Bool := false
  /-- armings that wait for the end of the pulse: mode, start, period, width, descriptor (R520). -/
  wait : List (Nat × Int × Int × Int × Nat) := []
deriving DecidableEq, Repr, Inhabited

/-- The time island (14). -/
structure TimeI where
  /-- local time in 2^-16 ns (R503). -/
  now : Int := 0
  doms : Tab Dom := []
  /-- `TIM_STATUS.ACTIVE` (R523). -/
  active : Nat := 0
  /-- s of R513. -/
  slewTerm : Int := 0
  /-- `TIM_CTRL` (R522). -/
  slew : Nat := 10
  revertS : Nat := 60
  hostTs : Nat := 0
  autoSw : Bool := true
  prefer : Nat := 0
  /-- `TIM_STATUS.HOLDOVER` (R523). -/
  holdover : Bool := false
  /-- the captured output time (R524). -/
  cap : Int := 0
  /-- switches on their way to the time island: domain, and descriptor of a select (R514 R517). -/
  switchTo : List (Nat × Option Nat) := []
  /-- `TIM_PORTp_LAT`: `TX_ADJ` and `RX_ADJ` in 0.1 ns (R526). -/
  lat : Tab (Int × Int) := []
  /-- `TIM_COUNT` (R527). -/
  switches : Nat := 0
  steps : Nat := 0
  /-- `TIM_TC_CNT`, `TIM_TEV_MISS` (R527). -/
  skipped : Nat := 0
  tevMiss : Nat := 0
  tevs : Tab Tev := []
deriving DecidableEq, Repr, Inhabited

/-! ### Non-volatile memory, firmware, check units (15) -/

/-- A 512-byte page of the NVM (R531). -/
structure Page where
  bytes : Bytes
  /-- write sequence number of its marker; 0 = uncommitted (R531). -/
  seq : Nat
deriving DecidableEq, Repr, Inhabited

/-- What a record is written for (R47 R360 R390 R415 R434 R536 R540 R541). -/
inductive Purpose where
  /-- the last record of an `NVM_WRITE`, or one before it; bytes written so far with it -/
  | write (id : Nat) (last : Bool) (done : Nat)
  | confirm (id : Nat)
  | learned
  | xferRecord
  | block (i : Nat) (last : Bool)
  /-- half h of the ledger part of tile n -/
  | saveTile (n h : Nat)
  | saveLog (k : Nat) (last : Bool)
  | shutdown
  | logCopy (count : Nat)
deriving DecidableEq, Repr

/-- A record to be written (R531). -/
structure Rec where
  /-- absolute page number. -/
  page : Nat
  bytes : Bytes
  why : Purpose
deriving DecidableEq, Repr

/-- A general check unit (R547 R555). -/
structure Gcu where
  poly : Nat := 0
  run : Nat := 0
  last : Nat := 0
deriving DecidableEq, Repr, Inhabited

/-- A firmware transfer (R540 R541 R553). -/
structure Xfer where
  /-- blocks received. -/
  got : List Nat := []
  /-- pages of blocks written by `NVM_WRITE`. -/
  pages : List Nat := []
  /-- `NVM_FW_XFER.BAD`. -/
  bad : Nat := 0
  /-- the image accepted: identity, blocks, originator's port (R543). -/
  image : Option (Nat × Nat) := none
  /-- blocks stored since the last rewrite of the transfer record (R541). -/
  sinceRecord : Nat := 0
deriving DecidableEq, Repr, Inhabited

/-- The shutdown record as the management processor applies it (R434 R435). -/
structure Shutdown where
  /-- position, serial and generation of each enabled tile, and the first block not saved. -/
  tiles : List (Nat × Nat × Nat)
  firstUnsaved : Nat
  logLost : Nat
  bytes : Bytes
deriving DecidableEq, Repr

/-- NVM, firmware and check units (15). -/
structure Nvm where
  /-- pages of all partitions but Chrysalis by absolute page number (R530 R531). -/
  pages : Tab Page := []
  /-- write sequence number of the last record (R531). -/
  seq : Nat := 0
  /-- the record in progress, then those queued (R532). -/
  queue : List Rec := []
  /-- `NVM_FW_STATUS.RESULT` (R551). -/
  result : Nat := 0
  /-- `NVM_FW_STATUS.SOURCE` (R551). -/
  source : Nat := 0
  /-- `NVM_FW_STATUS.RUNNING` (R551). -/
  running : Bool := false
  /-- `NVM_FW_STATUS.SCHEDULED`: the time of the scheduled boot (R551). -/
  scheduled : Bool := false
  /-- `NVM_FW_STATUS.STATE`: 0 clean, 1 writing, 2 armed (R551). -/
  fwState : Nat := 0
  /-- `NVM_FW_VERSION` (R552). -/
  version : Nat := 0
  xfer : Xfer := {}
  /-- the transfer record in the configuration partition (R541). -/
  record : Xfer := {}
  /-- `NVM_FW_CTRL` (R554). -/
  svcBaud : Nat := 4
  chainEn : Bool := true
  gcu : Tab Gcu := []
  /-- the firmware condition of R383 (R539). -/
  noFw : Bool := false
  /-- the boot check of this boot has been made (R538). -/
  checked : Bool := false
  /-- fault-log copies in the journal, record by record, oldest first (R390 R534). -/
  logCopies : List (List LogEnt) := []
  /-- the image body that Chrysalis has loaded into management processor memory (R538 R540). -/
  loaded : Bytes := []
  /-- the shutdown record in the journal (R434). -/
  shutdown : Option Shutdown := none
  /-- pages found with an uncorrectable error and not rewritten (R533). -/
  badPages : List Nat := []
  /-- a save record was left without its marker (R51). -/
  saveCut : Bool := false
  /-- an `FW_OFFER` has arrived since the reset (R539). -/
  offerSeen : Bool := false
deriving DecidableEq, Repr, Inhabited

/-! ### The whole machine -/

/-- The state of the block: every island, the queue of waiting commands, and the model's own trace and counter. -/
structure State where
  /-- commands that wait, first in first out (the model's own field). -/
  pending : List Instr := []
  /-- what has left the chip, newest first (the model's own field). -/
  outputs : List Output := []
  /-- the transmit lanes of the two ports: what has left the chip there, block by block (R453). -/
  lanes : Tab Lane := []
  /-- counter of the free values drawn (the model's own field). -/
  freeCtr : Nat := 0
  /-- boot values in force (R5). -/
  boot : BootCfg := {}
  power : Power := {}
  link : Link := {}
  prot : Prot := {}
  rings : Rings := {}
  cmp : Cmp := {}
  frm : Frm := {}
  strip : Strips := {}
  tiles : Tiles := {}
  journal : Journal := {}
  safety : Safety := {}
  faults : Faults := {}
  cal : Cal := {}
  therm : Therm := {}
  chain : Chain := {}
  time : TimeI := {}
  nvm : Nvm := {}
deriving DecidableEq, Repr

/-- Every island at its reset values under boot values `b` (R5 R52). -/
def State.ofBoot (b : BootCfg) : State where
  boot := b
  power := { sagDwell := b.sagDwell, vsagSave := b.vsagSave, vsagSlow := b.vsagSlow }
  frm := { rate := b.rate, epochSec := b.epochSec, epochNs := b.epochNs, staticHold := b.staticHold
           keepalive := b.keepalive, extendEn := b.extendEn }
  strip := { globalIref := b.globalIref, aGlobalIref := b.globalIref, govBudget := b.govBudget }
  tiles := { gainS := b.gainS, commitMin := b.commitMin }
  cal := { calDt := b.calDt, autoEn := b.autoEn, probeEn := b.probeEn, probeAfter := b.probeAfter, diagEvery := b.diagEvery
           diagCfg := (b.probeEn, b.probeAfter, b.diagEvery) }
  therm := { relS := b.relS, ntc0Dom := b.ntc0Dom, ntc1Dom := b.ntc1Dom }
  chain := { helloS := b.helloS, ptpToHost := b.ptpToHost, svcToHost := b.svcToHost, defPrio := b.defPrio, mac := b.mac
             staleUs := b.staleUs, heads := b.heads }
  time := { slew := b.slew, revertS := b.revertS, hostTs := b.hostTs, autoSw := b.autoSw, prefer := b.prefer, active := b.prefer }
  nvm := { svcBaud := b.svcBaud, chainEn := b.chainEn }

/-- The factory safety set of R354, with its `CHECK`. -/
def factorySet : Bytes :=
  toLe 4 0x54455353 ++ toLe 2 1 ++ toLe 2 0 ++ toLe 2 20 ++ toLe 2 100 ++ toLe 2 500 ++ toLe 2 120 ++ toLe 2 60 ++ toLe 2 1000
    ++ toLe 4 0x00640000 ++ toLe 2 4096 ++ toLe 1 3 ++ toLe 1 1 ++ toLe 1 3 ++ List.replicate 479 0#8 ++ toLe 4 0xB3E0576C

/-- The pages that stand in the NVM of a part as delivered: the factory safety set (R354 R356) and the five factory
calibration sets (R404), whose contents the spec does not give (notes/assumptions/14). -/
def deliveredPages : Tab Page :=
  [(7296, { bytes := factorySet, seq := 1 })]
    ++ (List.range 5).map fun k => (7328 + k, { bytes := fit 512 (Config.factoryCal k), seq := 1 })

/-- The machine at power-on: `VIN` has risen and the power-on reset holds the chip (R34). -/
def State.reset : State :=
  { State.ofBoot {} with nvm := { pages := deliveredPages, seq := 1 } }

end Sys2Proof.Machine
end

