-- ==== Sys2Proof/Machine/Ops.lean ====
section
/-! DEFINITION. The named operations that the meanings share: the tables of the state, time, fault lines, events,
completions, host reads and writes, and the chip reset. -/

namespace Sys2Proof.Machine

/-- What a meaning answers. -/
abbrev Out := Host.Outcome State Fault Refusal

/-! ### Which islands run (R7 R45 R46 R48 R52 R59) -/

/-- The islands that a condition can stop. Lichen and the NVM controller always run. -/
inductive Isl where
  | host | ring | comp | frond | chain | time | safety | mp
deriving DecidableEq, Repr

/-- An island runs: a chip reset holds every one (R52); a save stops four at its start (R45), the Fronds with the off instant
(R46), and VSTOP the others but the management processor (R48); without a save VSTOP stops all. The chain island has no clock
but `CREFCLK` (R58 R59). -/
def runs (i : Isl) (s : State) : Bool :=
  !s.power.held && match i with
  | .host | .ring | .comp => !s.power.saving && !s.power.vstop
  | .chain => !s.power.saving && !s.power.vstop && !s.power.clkFailed.testBit 1
  | .frond => !s.strip.stopped && !s.power.vstop
  | .time | .safety => !s.power.vstop
  | .mp => s.power.saving || !s.power.vstop

/-- An event that is judged in an island has no effect while the island stands still. -/
def ifRuns (s : State) (i : Isl) (o : Out) : Out := if runs i s then o else .next s

/-! ### On-chip memory (R10) -/

/-- The regions of the on-chip SRAM (R10). What each holds stands in the state under the names of the spec: the composed frames of
the two stores (`l16At` gives each pixel), the bytes of the resident cache, the frames of the cell pool (`poolWords` gives their
words), the charge of every ledger block, what the management processor keeps (the running image's body, tiles, calibration,
sensors, transfers), and the items in the blocks' buffers (descriptors, completions, streams, the staged safety set). -/
inductive Region where
  | frameStores | layerCache | cellPool | ledger | mpMemory | blockBuffers
deriving DecidableEq, Repr

/-- Size of a region in bytes (R10). -/
def Region.bytes : Region → Nat
  | .frameStores => 2 * (1536 * 768 * 2)
  | .layerCache => 12 * 1024 * 1024
  | .cellPool => 16384 * 64
  | .ledger => 73728 * 48 / 8
  | .mpMemory => 768 * 1024
  | .blockBuffers => 1360 * 1024

/-- The one island that reads and writes a region (R10); the buffers are each block's own. -/
def Region.owner : Region → Option Isl
  | .frameStores | .layerCache => some .comp
  | .cellPool => some .chain
  | .ledger | .mpMemory => some .mp
  | .blockBuffers => none

/-- Words of a region (R11): 64 data bits each, under SECDED ECC, or parity in the cell pool. -/
def Region.words (r : Region) : Nat := r.bytes / 8

/-! ### The tables of the state -/

/-- SQ n, with its reset value (R95: `CQ` resets to n). -/
def sqOf (s : State) (n : Nat) : Sq := Tab.get { cq := n } s.rings.sqs n

/-- Replace SQ n. -/
def putSq (s : State) (n : Nat) (q : Sq) : State := { s with rings := { s.rings with sqs := Tab.put s.rings.sqs n q } }

/-- CQ n (R96 R136). -/
def cqOf (s : State) (n : Nat) : Cq := Tab.get {} s.rings.cqs n

/-- Replace CQ n. -/
def putCq (s : State) (n : Nat) (q : Cq) : State := { s with rings := { s.rings with cqs := Tab.put s.rings.cqs n q } }

/-- Frond f (R245). -/
def frondOf (s : State) (f : Nat) : Frond :=
  Tab.get { srtDly := s.boot.srtDly, role := if f = 8 then .spare else .active, epoch := if f = 8 then 0 else 1 } s.strip.fronds f

/-- Replace Frond f. -/
def putFrond (s : State) (f : Nat) (x : Frond) : State := { s with strip := { s.strip with fronds := Tab.put s.strip.fronds f x } }

/-- Strip s (R251). -/
def stripOf (s : State) (i : Nat) : Strip :=
  Tab.get { en := s.boot.stripEn, chIref := s.boot.chIref, aEn := s.boot.stripEn, aChIref := s.boot.chIref }
    s.strip.strips i

/-- Replace strip s. -/
def putStrip (s : State) (i : Nat) (x : Strip) : State := { s with strip := { s.strip with strips := Tab.put s.strip.strips i x } }

/-- Tile position n (R290). -/
def tileOf (s : State) (n : Nat) : Tile := Tab.get {} s.tiles.tiles n

/-- Replace tile position n. -/
def putTile (s : State) (n : Nat) (x : Tile) : State := { s with tiles := { s.tiles with tiles := Tab.put s.tiles.tiles n x } }

/-- Calibration of channel c (R442). -/
def calOf (s : State) (c : Nat) : CalCh := Tab.get {} s.cal.chans c

/-- Replace the calibration of channel c. -/
def putCal (s : State) (c : Nat) (x : CalCh) : State := { s with cal := { s.cal with chans := Tab.put s.cal.chans c x } }

/-- Temperature sensor i, with the limits of R445. -/
def sensorOf (s : State) (i : Nat) : Sensor :=
  let r := s.boot.riseLim
  let t := s.boot.tArm
  Tab.get (if i < 12 then { riseLim := r.1, tArm := t.1 } else if i < 20 then { riseLim := r.2.1, tArm := t.2.1 }
    else { riseLim := r.2.2, tArm := t.2.2 }) s.therm.sensors i

/-- Replace sensor i. -/
def putSensor (s : State) (i : Nat) (x : Sensor) : State := { s with therm := { s.therm with sensors := Tab.put s.therm.sensors i x } }

/-- Throttle domain d (R423). -/
def domainOf (s : State) (d : Nat) : Domain := Tab.get {} s.therm.domains d

/-- Replace throttle domain d. -/
def putDomain (s : State) (d : Nat) (x : Domain) : State := { s with therm := { s.therm with domains := Tab.put s.therm.domains d x } }

/-- Chain port p (R497). -/
def portOf (s : State) (p : Nat) : Port :=
  Tab.get { sleepIdle := s.boot.sleepIdle, sleepEn := s.boot.sleepEn, maxStep := s.boot.maxStep, en := s.boot.portEn } s.chain.ports p

/-- Replace chain port p. -/
def putPort (s : State) (p : Nat) (x : Port) : State := { s with chain := { s.chain with ports := Tab.put s.chain.ports p x } }

/-- Credits of priority k of port p (R500). -/
def credOf (s : State) (p k : Nat) : Cred := Tab.get { adv := s.boot.adv, advUsed := s.boot.adv } (portOf s p).cred k

/-- Replace the credits of priority k of port p. -/
def putCred (s : State) (p k : Nat) (x : Cred) : State := putPort s p { portOf s p with cred := Tab.put (portOf s p).cred k x }

/-- Host receive queue r (R495). -/
def rxqOf (s : State) (r : Nat) : Rxq := Tab.get { en := s.boot.rxqEn, limit := s.boot.rxqLimit } s.chain.rxqs r

/-- Replace host receive queue r. -/
def putRxq (s : State) (r : Nat) (x : Rxq) : State := { s with chain := { s.chain with rxqs := Tab.put s.chain.rxqs r x } }

/-- Time domain d (R525). -/
def domOf (s : State) (d : Nat) : Dom :=
  Tab.get { lossT := s.boot.lossT, ptpDomain := if d = 0 then s.boot.ptpDomain.1 else s.boot.ptpDomain.2, en := s.boot.domEn }
    s.time.doms d

/-- Replace time domain d. -/
def putDom (s : State) (d : Nat) (x : Dom) : State := { s with time := { s.time with doms := Tab.put s.time.doms d x } }

/-- Timed event channel k (R528). -/
def tevOf (s : State) (k : Nat) : Tev := Tab.get {} s.time.tevs k

/-- Replace timed event channel k. -/
def putTev (s : State) (k : Nat) (x : Tev) : State := { s with time := { s.time with tevs := Tab.put s.time.tevs k x } }

/-- General check unit u (R555). -/
def gcuOf (s : State) (u : Nat) : Gcu := Tab.get {} s.nvm.gcu u

/-- Replace general check unit u. -/
def putGcu (s : State) (u : Nat) (x : Gcu) : State := { s with nvm := { s.nvm with gcu := Tab.put s.nvm.gcu u x } }

/-- A safety channel (R331). -/
def chanOf (s : State) (c : Chan) : Channel := match c with | .a => s.safety.a | .b => s.safety.b

/-- Replace a safety channel. -/
def putChan (s : State) (c : Chan) (x : Channel) : State :=
  match c with
  | .a => { s with safety := { s.safety with a := x } }
  | .b => { s with safety := { s.safety with b := x } }

/-- The channel that is not c. -/
def otherChan : Chan → Chan
  | .a => .b
  | .b => .a

/-- An active layer (R145). -/
def layerOf (s : State) (l : Nat) : Layer := Tab.get {} s.cmp.active l

/-- Send something out of the chip. -/
def emit (o : Output) (s : State) : State := { s with outputs := o :: s.outputs }

/-! ### Time (R504 to R513) -/

/-- 2^-16 ns per second. -/
def tuSec : Int := 1000000000 * 65536

/-- Time of domain d (R503): local time scaled by its rate ratio, from the point at which the ratio was last set. -/
def domTime (s : State) (d : Nat) : Int :=
  let x := domOf s d
  x.base + (s.time.now - x.at_) + (s.time.now - x.at_) * x.ratio / 65536000000000

/-- The output time (R513): the active domain plus the slew term. -/
def outTime (s : State) : Int := domTime s s.time.active + s.time.slewTerm

/-- Seconds, nanoseconds and fraction of a time. -/
def stampOf (t : Int) : Stamp :=
  { sec := (t / tuSec).toNat % 2 ^ 48, ns := (t % tuSec / 65536).toNat, frac := (t % 65536).toNat }

/-- A time from seconds and nanoseconds. -/
def timeOf (sec ns : Nat) : Int := (sec : Int) * tuSec + (ns : Int) * 65536

/-- A slew term after local time has run on by `d` at a rate of `slew` 0.1 µs/s (R513 R516). -/
def slewDown (slew : Nat) (d t : Int) : Int :=
  let k := d * slew / 10000000
  if 0 < t then max 0 (t - k) else min 0 (t + k)

/-- A domain after local time has run on by `d`: what remains of a `TIME_ADJ` slew moves into its time (R516). -/
def runDom (slew : Nat) (d : Int) (x : Dom) : Dom :=
  let left := slewDown slew d x.slewLeft
  { x with base := x.base + (x.slewLeft - left), slewLeft := left }

/-- Let local time run on by `d`; slews go on at the rate `SLEW` (R513 R516). -/
def runLocal (d : Int) (s : State) : State :=
  { s with time := { s.time with
      now := s.time.now + d
      slewTerm := slewDown s.time.slew d s.time.slewTerm
      doms := s.time.doms.map fun e => (e.1, runDom s.time.slew d e.2) } }

/-- One clock of the time island, 4 ns at 250 MHz, while the island runs (R503; notes/assumptions/2). -/
def idle (s : State) : State := if runs .time s then runLocal (4 * 65536) s else s

/-- Bring the output time forward to `t`, if it has not been reached: the named instant is the time of the event. -/
def advanceTo (t : Int) (s : State) : State :=
  let d := t - outTime s
  if d ≤ 0 then s
  else
    let s := runLocal d s
    -- the active domain stands exactly at the named instant
    let e := t - outTime s
    let x := domOf s s.time.active
    putDom s s.time.active { x with base := x.base + e }

/-! ### Fault lines (R371 R374) -/

/-- A source drives fault; one further event is kept while its line passes through a cycle (R374). -/
def raise (slot : Nat) (s : State) : State :=
  if s.faults.drive.testBit slot then { s with faults := { s.faults with pend := s.faults.pend ||| 2 ^ slot } }
  else { s with faults := { s.faults with drive := s.faults.drive ||| 2 ^ slot } }

/-- The condition of a source begins: it drives fault for as long as it lasts, one event only (R374). -/
def condOn (slot : Nat) (s : State) : State :=
  if s.faults.cond.testBit slot then s
  else raise slot { s with faults := { s.faults with cond := s.faults.cond ||| 2 ^ slot } }

/-- The condition of a source ends (R374). -/
def condOff (slot : Nat) (s : State) : State :=
  if s.faults.cond.testBit slot then
    let acc := s.faults.accepted.testBit slot
    { s with faults := { s.faults with
        cond := putBit s.faults.cond slot false
        accepted := putBit s.faults.accepted slot false
        drive := if acc then putBit s.faults.drive slot (s.faults.pend.testBit slot) else s.faults.drive
        pend := if acc then putBit s.faults.pend slot false else s.faults.pend } }
  else s

/-! ### Events and completions -/

/-- An unsolicited event sets out for CQ31, stamped with the active domain (R128). -/
def postEvent (typ a0 a1 a2 : Nat) (s : State) : State :=
  let t := stampOf (outTime s)
  { s with rings := { s.rings with
      events := s.rings.events ++ [{ typ, sec := t.sec % 2 ^ 32, ns := t.ns, arg0 := a0, arg1 := a1, arg2 := a2 }] } }

/-- A free value (92: never a value picked): the opaque constant applied to a counter that advances. -/
def freshFree (s : State) : BitVec 64 × State := (Config.freeValue s.freeCtr, { s with freeCtr := s.freeCtr + 1 })

/-- The in-flight descriptor of a number. -/
def descOf (s : State) (id : Nat) : Option Desc := s.rings.inflight.find? (fun d => d.id == id)

/-- Change an in-flight descriptor. -/
def updDesc (id : Nat) (f : Desc → Desc) (s : State) : State :=
  { s with rings := { s.rings with inflight := s.rings.inflight.map fun d => if d.id = id then f d else d } }

/-- The completion that a descriptor yields (R121). -/
def doneOf (d : Desc) (status : Nat) (result : Bytes) : Done :=
  { sq := d.sq, id := d.id, tag := le d.bytes 2 2, user := le d.bytes 8 8, opcode := le d.bytes 0 1,
    noirq := (le d.bytes 1 1).testBit 1, status, result := fit 12 result }

/-- A descriptor's operation completes: it leaves the in-flight set and yields exactly one completion (R29 R124). -/
def complete (id status : Nat) (result : Bytes) (s : State) : State :=
  match descOf s id with
  | none => s
  | some d => { s with rings := { s.rings with
      inflight := s.rings.inflight.filter (fun x => x.id != id)
      done := s.rings.done ++ [doneOf d status result] } }

/-- The unit that executes an opcode (R111 R116), as a number: the ring engine, the compositor, the management processor, the
Fronds, the safety channels, the collector, the chain, the time island, the check units. DEDUCED from the owning chapters
(notes/assumptions/75). -/
def unitOf (op : Nat) : Nat :=
  if op < 0x10 ∨ op = 0x68 ∨ op = 0x70 then 0
  else if op < 0x20 then 1
  else if op = 0x23 ∨ op = 0x28 then 3
  else if op < 0x30 then 2
  else if op < 0x38 then 4
  else if op < 0x40 then 5
  else if op < 0x48 then 2
  else if op < 0x50 then 6
  else if op = 0x51 then 7
  else if op < 0x60 then 2
  else 8

/-- A descriptor that must be taken before `d`: an earlier one of its SQ for the same unit, not yet taken (R111). -/
def ahead (d e : Desc) : Bool :=
  decide (e.sq = d.sq) && decide (e.id < d.id) && !e.taken && decide (unitOf (le e.bytes 0 1) = unitOf (le d.bytes 0 1))

/-- A dispatched descriptor of an opcode can run: it is its turn in its unit, and the ring engine runs (R45 R111 R131). -/
def canRun (s : State) (op : Nat) (d : Desc) : Bool :=
  runs .ring s && decide (d.phase = .running) && decide (le d.bytes 0 1 = op) && !d.taken && !s.rings.inflight.any (ahead d)

/-- A dispatched descriptor of an opcode runs (R111 R131). -/
def runOp (s : State) (id op : Nat) (f : Desc → State) : Out :=
  match descOf s id with
  | none => .next s
  | some d => .next (if canRun s op d then f d else s)

/-- Whether a completion goes before another of the same clock: order of SQ number, within one SQ ring order (R124). -/
def doneBefore (a b : Done) : Bool := decide (a.sq < b.sq) || (decide (a.sq = b.sq) && decide (a.id ≤ b.id))

/-- A completion put in its place among others of the same clock. -/
def insertDone (d : Done) : List Done → List Done
  | [] => [d]
  | e :: r => if doneBefore d e then d :: e :: r else e :: insertDone d r

/-- The completions that an event yields come in the same ring-engine clock, in the order of R124. -/
def sameClock (f : State → State) (s : State) : State :=
  let t := f s
  let n := s.rings.done.length
  { t with rings := { t.rings with done := t.rings.done.take n ++ (t.rings.done.drop n).foldr insertDone [] } }

/-- Status codes (R126). -/
def stOK : Nat := 0x00
def stLATE : Nat := 0x01
def stFENCE_TMO : Nat := 0x02
def stLINEBUF : Nat := 0x03
def stPRIV : Nat := 0x04
def stSTALL : Nat := 0x05
def stFLUSHED : Nat := 0x06
def stPOISON : Nat := 0x07
def stBADDESC : Nat := 0x08
def stBUSY : Nat := 0x09
def stCHECK : Nat := 0x0A
def stUNTESTED : Nat := 0x0B
def stQUARANTINE : Nat := 0x0C

/-- A dispatched descriptor of an opcode runs on the bytes that its host read has brought; a read that has failed twice
completes `POISON` (R30 R114 R146). -/
def runRead (s : State) (id op : Nat) (f : Desc → Bytes → State) : Out :=
  runOp s id op fun d =>
    if d.failed then complete id stPOISON [] s
    else match d.data with
      | none => s
      | some b => f d b

/-! ### Fault injection (R385 R386) -/

/-- A check of a checker that feeds a slot is made: is it injected? Then one fewer is left, and the descriptor completes
with the last (R386). -/
def takeInj (slot checker : Nat) (s : State) : Bool × State :=
  match s.faults.inj with
  | some j =>
    if j.slot = slot ∧ j.checker = checker then
      if j.left ≤ 1 then (true, complete j.id stOK [] { s with faults := { s.faults with inj := none } })
      else (true, { s with faults := { s.faults with inj := some { j with left := j.left - 1 } } })
    else (false, s)
  | none => (false, s)

/-- As `takeInj` where a step makes several checks at once: how many of them are injected (R385 R386). -/
def takeInjs (slot checker words : Nat) (s : State) : Nat × State :=
  match s.faults.inj with
  | some j =>
    if j.slot = slot ∧ j.checker = checker ∧ 0 < words then
      if j.left ≤ words then (j.left, complete j.id stOK [] { s with faults := { s.faults with inj := none } })
      else (words, { s with faults := { s.faults with inj := some { j with left := j.left - words } } })
    else (0, s)
  | none => (0, s)

/-- A source has several occurrences in one step: its line goes through one cycle, and one further event stays pending (R374). -/
def raiseN (n slot : Nat) (s : State) : State :=
  match n with
  | 0 => s
  | 1 => raise slot s
  | _ => raise slot (raise slot s)

/-- Raise a slot for a verdict, marked where it was injected (R386). -/
def raiseInj (slot : Nat) (inj : Bool) (s : State) : State :=
  let s := raise slot s
  if inj then { s with faults := { s.faults with injected := s.faults.injected ||| 2 ^ slot } } else s

/-! ### SECDED ECC of the on-chip SRAM (R11 R30) -/

/-- Each corrected error counts in `FLT_ECC_CNT` and raises `ECC_CORR` (R11 R372 R374 R400). -/
def eccCorrected (n : Nat) (s : State) : State :=
  raiseN n 499 { s with faults := { s.faults with eccCorr := min 65535 (s.faults.eccCorr + n) } }

/-- A step reads words of an SRAM region that names no source of its own, with `bad` uncorrected errors: each one, and each
injected verdict, counts and raises `ECC_UNCORR` (R11 R372 R374 R386 R400). -/
def eccUncorrected (words bad : Nat) (s : State) : State :=
  let x := takeInjs 500 1 words s
  let s := raiseN bad 500 { x.2 with faults := { x.2.faults with eccUncorr := min 65535 (x.2.faults.eccUncorr + bad + x.1) } }
  if x.1 = 0 then s else raiseInj 500 true s

/-- Reset class of a slot and whether it is fixed; none for a slot that no chapter assigns (R371 and the fault tables
R60 R102 R141 R187 R212 R259 R300 R330 R370 R372 R451 R502 R529 R556). -/
def slotInfo (n : Nat) : Option (Nat × Bool) :=
  if n < 209 then some (1, false)
  else if n = 209 then some (2, false)
  else if n < 213 then some (0, false)
  else if n < 221 then some ([1, 1, 3, 0, 0, 1, 0, 1].getD (n - 213) 0, false)
  else if n < 256 then none
  else if n < 269 then some ([1, 1, 0, 0, 0, 0, 1, 1, 1, 1, 1, 1, 1].getD (n - 256) 0, false)
  else if n < 320 then none
  else if n < 326 then some ([0, 0, 0, 1, 0, 0].getD (n - 320) 0, false)
  else if n < 352 then none
  else if n < 357 then some ([0, 1, 1, 0, 0].getD (n - 352) 0, false)
  else if n < 416 then none
  else if n < 424 then some (2, false)
  else if n < 448 then some (1, false)
  else if n < 473 then
    some ([1, 0, 1, 1, 0, 0, 0, 1, 2, 1, 2, 0, 0, 1, 2, 0, 1, 1, 1, 0, 0, 0, 1, 1, 1].getD (n - 448) 0, false)
  else if n < 480 then none
  else if n < 502 then
    some ([3, 2, 1, 2, 1, 1, 0, 0, 0, 0, 2, 2, 3, 3, 3, 3, 2, 3, 2, 0, 1, 1].getD (n - 480) 0, [480, 494, 495, 497, 498].contains n)
  else none

/-- The checkers through which a slot can be injected, one bit a code of R120 (R599). -/
def injMask (n : Nat) : Nat :=
  if (slotInfo n).isNone then 0
  else 8 + (if n < 192 ∨ n = 355 ∨ n = 356 ∨ n = 450 then 4
    else if 200 ≤ n ∧ n ≤ 208 then 16
    else if n = 264 then 1
    else if n = 353 ∨ n = 451 ∨ n = 500 then 2
    else 0)

/-- Slot n of the collector with its reset values (R391). -/
def slotOf (s : State) (n : Nat) : Slot :=
  Tab.get { cls := match slotInfo n with | some i => i.1 | none => 0 } s.faults.slots n

/-- Replace slot n. -/
def putSlot (s : State) (n : Nat) (x : Slot) : State := { s with faults := { s.faults with slots := Tab.put s.faults.slots n x } }

/-- A fault of effective class at least c is unacknowledged (R379). -/
def unackFrom (s : State) (c : Nat) : Bool := s.faults.slots.any fun e => decide (2 ^ c ≤ e.2.unack)

/-! ### DMA (R73 to R79, R600 to R602) -/

/-- DMA is allowed (R74): the link is up, Bus Master Enable is set, the function is in D0; a save stops the host island (R45). -/
def dmaOk (s : State) : Bool := runs .host s && s.link.up && s.link.bme && !s.link.d3hot

/-- BAR0 and BAR2 accept memory requests (R601). -/
def barOpen (s : State) : Bool := runs .host s && s.link.up && s.link.mse && !s.link.d3hot

/-- Slots of the tags in force (R70 R76 R600). -/
def tagSlots (l : Link) : Nat := if l.tenBit then 256 else if l.extTag then 64 else 8

/-- The tag of a slot and epoch (R76 R600). -/
def tagOf (l : Link) (t : Nat × Nat) : Nat := t.2 * tagSlots l + t.1

/-- Outstanding slots and epochs (R76). -/
def outsOf (l : Link) : List (Nat × Nat) := l.reads.flatMap fun r => r.chunks.filterMap Chunk.tag

/-- The tag that the next request takes: the lowest free slot, under its lowest epoch that is not abandoned (R78). -/
def freeTag (l : Link) (outs : List (Nat × Nat)) : Option (Nat × Nat) :=
  ((List.range (tagSlots l)).filter fun k => !outs.any (fun o => o.1 == k)).findSome? fun k =>
    ([1, 2, 3].find? fun e => !l.abandoned.contains (k, e)).map fun e => (k, e)

/-- Issue the requests of one item while tags last (R76). -/
def issueChunks (l : Link) : List Chunk → List (Nat × Nat) → List Chunk × List (Nat × Nat) × List Output
  | [], outs => ([], outs, [])
  | c :: r, outs =>
    match c.tag, c.data, freeTag l outs with
    | none, none, some t =>
      let x := issueChunks l r (t :: outs)
      ({ c with tag := some t } :: x.1, x.2.1, .hostRead (tagOf l t) c.addr c.len :: x.2.2)
    | _, _, _ => let x := issueChunks l r outs; (c :: x.1, x.2.1, x.2.2)

/-- Issue the requests of every item in order. -/
def issueItems (l : Link) : List ReadItem → List (Nat × Nat) → List ReadItem × List Output
  | [], _ => ([], [])
  | r :: rs, outs =>
    if r.failed then let y := issueItems l rs outs; (r :: y.1, y.2)
    else
      let x := issueChunks l r.chunks outs
      let y := issueItems l rs x.2.1
      ({ r with chunks := x.1 } :: y.1, x.2.2 ++ y.2)

/-- Issue every waiting read request that DMA and the tags allow (R602). -/
def pump (s : State) : State :=
  if dmaOk s then
    let x := issueItems s.link s.link.reads (outsOf s.link)
    { s with link := { s.link with reads := x.1 }, outputs := x.2.reverse ++ s.outputs }
  else s

/-- Cut a range into requests of at most Max Read Request Size bytes (R110 R600). -/
def cutRange (mrrs : Nat) (addr len : Nat) : List Chunk :=
  (List.range ((len + mrrs - 1) / mrrs)).map fun i => { addr := addr + i * mrrs, len := min mrrs (len - i * mrrs) }

/-- Put a read item in the queue of the host island without issuing it. -/
def queueRead (who : Requester) (ranges : List (Nat × Nat)) (s : State) : State :=
  { s with link := { s.link with
      nextItem := s.link.nextItem + 1
      reads := s.link.reads ++ [{ id := s.link.nextItem, who, turn := s.link.nextItem, chunks := ranges.flatMap fun r => cutRange s.link.mrrs r.1 r.2 }] } }

/-- Start a read item (R76): its requests go out as DMA and tags allow. -/
def startRead (who : Requester) (ranges : List (Nat × Nat)) (s : State) : State := pump (queueRead who ranges s)

/-- The write requests that carry bytes to host memory: at most Max Payload Size each (R70 R600). -/
def writePieces (mps addr : Nat) (b : Bytes) : List Output :=
  (cutRange mps addr b.length).map fun c => .hostWrite c.addr (sub b (c.addr - addr) c.len)

/-- A write to host memory (R600). -/
def hostWrite (addr : Nat) (b : Bytes) (s : State) : State :=
  { s with outputs := (writePieces s.link.mps addr b).reverse ++ s.outputs }

/-- The message of vector v can be sent: DMA is allowed, MSI-X is enabled, neither the function nor the vector is masked
(R71 R74 R127). -/
def canSignal (s : State) (v : Nat) : Bool :=
  dmaOk s && s.link.msixEn && !s.link.fnMask && !(Tab.get {} s.link.msix v).mask

/-- Signal MSI-X vector v (R71 R127). DESIGN CHOICE (notes/assumptions/75): a vector that cannot be sent sets its pending bit,
also while MSI-X is disabled or DMA is blocked (R74). -/
def signal (v : Nat) (s : State) : State :=
  let e := Tab.get {} s.link.msix v
  if canSignal s v then emit (.msix v e.addr e.data) s
  else { s with link := { s.link with pba := s.link.pba ||| 2 ^ v } }

/-- Pending vectors that can be sent are sent, the lowest number first (R71 R127). -/
def sendPending (s : State) : State :=
  let vs := (List.range 64).filter fun v => s.link.pba.testBit v && canSignal s v
  { s with
    link := { s.link with pba := vs.foldl (fun p v => putBit p v false) s.link.pba }
    outputs := (vs.map fun v => let e := Tab.get {} s.link.msix v; Output.msix v e.addr e.data).reverse ++ s.outputs }

/-! ### Conditions that several islands read -/

/-- Level of an SQ in the active table (R83). -/
def levelOf (p : ProtTable) (n : Nat) : Nat := Tab.get (if n = 0 then 0 else 3) p.level n

/-- Descriptors consumed and not completed (R109 R140): in flight, or completed and not yet posted. -/
def inflightCount (s : State) : Nat := s.rings.inflight.length + s.rings.done.length

/-- An event whose condition does not hold has no effect. -/
def when_ (c : Bool) (f : State → State) (s : State) : Out := .next (if c then f s else s)

end Sys2Proof.Machine
end

