-- ==== Sys2Proof/Machine/LightOps.lean ====
section
/-! DEFINITION. What several islands read of the light: who serves a tile, the safety set in force, the light states (01, 09, 10). -/

namespace Sys2Proof.Machine

/-- The Frond that serves tile position n: its owner, if the epochs agree (R317). -/
def serving (s : State) (n : Nat) : Option Nat :=
  let t := tileOf s n
  if t.noOwner then none else some (t.owner.getD n)

/-- The tile position that Frond f serves, if it is active or suspect (R316 R317). -/
def servedBy (s : State) (f : Nat) : Option Nat :=
  if (frondOf s f).role = .active ∨ (frondOf s f).role = .suspect then
    (List.range 8).find? fun n => serving s n == some f && !(tileOf s n).takeover
  else none

/-- Fields of a safety set (R354). -/
def setTFilt (b : Bytes) : Nat := le b 8 2
def setTDisc (b : Bytes) : Nat := le b 10 2
def setTpiWidth (b : Bytes) : Nat := le b 12 2
def setTpWidth (b : Bytes) : Nat := le b 14 2
def setFbDly (b : Bytes) : Nat := le b 16 2
def setTpPeriod (b : Bytes) : Nat := le b 18 2
def setEgLimit (b : Bytes) : Nat := le b 20 4
def setLmLevel (b : Bytes) : Nat := le b 24 2
def setInputEn (b : Bytes) : Nat := le b 26 1
def setRestart (b : Bytes) : Nat := le b 27 1
def setFbEn (b : Bytes) : Nat := le b 28 1
def setCheck (b : Bytes) : Nat := le b 508 4

/-- An input pair is enabled by the set in force (R335). -/
def pairOn (s : State) (p : Pair) : Bool :=
  (setInputEn s.safety.inForce).testBit (match p with | .hatch => 0 | .estop => 1)

/-- Feedback of a channel is checked (R340). -/
def fbOn (s : State) (c : Chan) : Bool :=
  (setFbEn s.safety.inForce).testBit (match c with | .a => 0 | .b => 1)

/-- The LED supply is on: both outputs are permitted (R331 R343). -/
def sloOn (s : State) : Bool := s.safety.a.slo && s.safety.b.slo

/-- A condition of R383 calls for Lanternmoss now; the Fronds take it at the next boundary (R25 R215). -/
def lmHolds (s : State) : Bool := unackFrom s 2 || s.nvm.noFw || s.rings.silence

/-- The levels that the Fronds took at the last boundary (R361). -/
def lmLevel (s : State) : Nat := s.safety.lmTaken
def egLimit (s : State) : Nat := s.safety.egTaken

/-- Strip channel i is under calibration or its telemetry is held (R412 R414). -/
def calibrating (s : State) (i : Nat) : Bool :=
  decide ((s.cal.now.map fun x => x.1) = some i) || decide (0 < (calOf s i).hold)

/-- NVM record in progress (R532 R550). -/
def nvmBusy (s : State) : Bool := !s.nvm.queue.isEmpty

/-- Absolute page numbers of the partitions (R530): first page and count. -/
def partPages : Nat → Nat × Nat
  | 0 => (0, 128)
  | 1 => (128, 6144)
  | 2 => (6272, 1024)
  | 3 => (7296, 32)
  | 4 => (7328, 128)
  | 5 => (7456, 2048)
  | _ => (9504, 0)

/-! ### The frame grid (R188 R191) -/

/-- Grid instant n (R188): exact, truncated to 2^-16 ns. -/
def gridAt (s : State) (n : Int) : Int := timeOf s.frm.epochSec s.frm.epochNs + n * tuSec / (s.frm.rate : Int)

/-- The frame number of G (R191): the smallest grid instant at or after the output time at an elapsed time of T_F − 2^-16 ns;
before the first boundary after a chip reset, at or after the output time itself (DESIGN CHOICE, notes/assumptions/76). -/
def nextNum (s : State) : Int :=
  let r : Int := s.frm.rate
  let t := if s.frm.started then s.frm.start + s.frm.stepsG - 1 - (0 - tuSec) / r else outTime s
  0 - ((0 - (t - timeOf s.frm.epochSec s.frm.epochNs) * r) / tuSec)

end Sys2Proof.Machine
end

