-- ==== Sys2Proof/Machine/Operands.lean ====
section
/-! DEFINITION. The operands of descriptors: the format check, the layers and host ranges that they name, the opcode
bitmaps (03, 04). -/

namespace Sys2Proof.Machine

/-- Byte i of a descriptor is listed for its opcode (R117). -/
def inRanges (l : List (Nat × Nat)) (i : Nat) : Bool := l.any fun r => decide (r.1 ≤ i) && decide (i < r.1 + r.2)

/-- The argument bytes of each opcode; none for a code outside the table (R116 R117). -/
def argBytes : Nat → Option (List (Nat × Nat))
  | 0x01 => some []
  | 0x10 => some [(16, 1), (18, 2), (20, 4), (24, 8)]
  | 0x11 => some [(16, 8), (24, 1), (25, 1), (28, 4), (32, 8)]
  | 0x12 => some [(16, 4), (20, 4), (24, 8)]
  | 0x13 => some [(16, 4), (20, 4)]
  | 0x18 => some [(16, 2), (24, 8)]
  | 0x20 => some [(16, 1), (17, 1), (20, 4), (24, 8)]
  | 0x21 => some [(16, 1), (20, 4), (24, 4), (32, 8)]
  | 0x22 => some [(16, 1)]
  | 0x23 => some [(16, 1), (20, 4), (24, 4), (32, 8)]
  | 0x28 => some [(16, 2), (18, 2), (20, 4)]
  | 0x30 => some [(16, 1), (20, 4), (32, 8)]
  | 0x31 => some [(20, 4), (32, 8)]
  | 0x32 => some [(16, 4)]
  | 0x38 => some [(16, 2)]
  | 0x39 => some [(16, 2), (18, 1), (19, 1)]
  | 0x40 => some [(16, 2)]
  | 0x41 => some [(16, 4)]
  | 0x48 => some [(16, 1), (17, 1), (18, 1), (20, 4), (32, 8)]
  | 0x49 => some [(16, 1), (20, 4), (32, 8)]
  | 0x50 => some [(16, 1), (17, 1), (24, 8)]
  | 0x51 => some [(16, 1), (17, 1), (24, 8), (32, 4), (36, 4), (40, 8)]
  | 0x58 => some [(16, 1), (20, 4), (24, 4), (32, 8)]
  | 0x59 => some [(16, 1), (20, 4), (24, 4), (32, 8)]
  | 0x5A => some [(16, 1), (24, 8), (32, 4)]
  | 0x60 => some [(16, 1), (17, 1), (18, 1), (20, 4), (24, 4), (28, 4), (32, 8)]
  | 0x68 => some [(16, 1), (17, 1), (24, 16)]
  | 0x70 => some [(16, 1)]
  | _ => none

/-- An address range that does not wrap past 2^64 (R113). -/
def noWrap (a n : Nat) : Bool := decide (a + n ≤ 2 ^ 64)

/-- A multiple of `n` between `lo` and `hi`. -/
def multIn (n lo hi v : Nat) : Bool := decide (v % n = 0) && decide (lo ≤ v) && decide (v ≤ hi)

/-- The `LEN` of each `TILE_CMD` (R284). -/
def tileCmdLen : Nat → Option Nat
  | 0 => some 64
  | 1 | 2 | 5 | 6 => some 0
  | 3 | 4 => some 256
  | _ => none

/-- `FRAME_CTRL` items in range (R205). -/
def frameItemOk (item v : Nat) : Bool :=
  match item with
  | 1 => decide (50 ≤ v) && decide (v ≤ 240)
  | 2 => decide (v % 2 ^ 30 < 1000000000)
  | 3 => decide (v < 65536) && decide (1 ≤ v / 256)
  | 4 => decide (v ≤ 1)
  | _ => false

/-- `STRIP_SET` items in range (R241). -/
def stripItemOk (strip item v : Nat) : Bool :=
  (decide (strip < 192) || decide (strip = 0xFFFF)) &&
  match item with
  | 1 => decide (v ≤ 1023)
  | 2 => decide (v ≤ 1)
  | 3 => decide (v ≤ 255) && decide (strip = 0xFFFF)
  | 4 => decide (v ≤ 65535) && decide (strip = 0xFFFF)
  | _ => false

/-- `TIME_ADJ` values in range (R516). -/
def timeAdjOk (mode : Nat) (v : Int) : Bool :=
  match mode with
  | 0 => decide (v.natAbs ≤ 10 ^ 15)
  | 1 => decide (v.natAbs ≤ 500000 * 65536)
  | 2 => decide (v.natAbs ≤ 10 ^ 9)
  | 3 => decide (v = 0)
  | _ => false

/-- Round down to a multiple of 4 ns (R519). -/
def down4 (v : Nat) : Nat := v / 4 * 4

/-- `TEV_ARM` fields in range (R518 R519). -/
def tevOk (b : Bytes) : Bool :=
  let ch := le b 16 1
  let m := le b 17 1
  let width := down4 (le b 36 4)
  let period := down4 (le b 40 8)
  decide (ch ≤ 8) && decide (m < 8) && decide (m % 4 ≠ 3) &&
    (decide (m % 4 = 0) ||
      (decide (le b 24 8 < 2 ^ 48) && decide (le b 32 4 < 1000000000)
        && (decide (ch = 8) || (decide (8 ≤ width) && decide (width ≤ 1000000000)))
        && (decide (m % 4 ≠ 2) || (decide (period ≤ 2 ^ 40) && (if ch = 8 then decide (8 ≤ period) else decide (width < period))))))

/-- Sizes of the partitions in bytes (R530). -/
def partSize (p : Nat) : Nat := (partPages p).2 * 512

/-- `PROT_SET` values in range (R119). -/
def protSetOk (b : Bytes) : Bool :=
  let i := le b 17 1
  let v := le b 24 16
  match le b 16 1 with
  | 0 => decide (i ≤ 31) && decide (v < 4)
  | 1 => decide (i ≤ 31) && decide (v < 2 ^ 63)
  | 2 => decide (i ≤ 15) && decide (le b 24 8 % 4096 = 0) && decide (bits (le b 36 4) 8 23 = 0) && noWrap (le b 24 8) (le b 32 4 * 4096)
  | 3 => decide (i ≤ 15) && decide (v < 2 ^ 32)
  | 4 => decide (i = 0) && decide (v < 2)
  | _ => false

/-- The fields of each opcode in range (R113 R117 and the owning chapters). -/
def argsOk (b : Bytes) : Bool :=
  let a := fun o n => le b o n
  match a 0 1 with
  | 0x10 => decide (a 16 1 ≤ 62) && multIn 8 0 248 (a 18 2) && multIn 8 8 256 (a 20 4) && decide (a 18 2 + a 20 4 ≤ 256)
      && decide (a 24 8 % 8 = 0) && noWrap (a 24 8) (a 20 4)
  | 0x11 => decide (a 16 8 < 2 ^ 63) && decide (a 24 1 ≤ 8) && decide (a 25 1 ≤ 1)
      && (decide (a 24 1 = 0) || (decide (a 32 8 % 16 = 0) && noWrap (a 32 8) (16 * a 24 1)))
  | 0x12 => decide (a 16 4 % 64 = 0) && multIn 64 64 (12 * 2 ^ 20) (a 20 4) && decide (a 16 4 + a 20 4 ≤ 12 * 2 ^ 20)
      && decide (a 24 8 % 64 = 0) && noWrap (a 24 8) (a 20 4)
  | 0x13 => decide (a 16 4 % 64 = 0) && multIn 64 64 (12 * 2 ^ 20) (a 20 4) && decide (a 16 4 + a 20 4 ≤ 12 * 2 ^ 20)
  | 0x18 => frameItemOk (a 16 2) (a 24 8)
  | 0x20 => decide (a 16 1 ≤ 7) && decide (tileCmdLen (a 17 1) = some (a 20 4))
      && (decide (a 20 4 = 0) || (decide (a 24 8 % 8 = 0) && noWrap (a 24 8) (a 20 4)))
  | 0x21 => decide (a 16 1 ≤ 7) && decide (a 20 4 ≤ 9215) && decide (1 ≤ a 24 4) && decide (a 20 4 + a 24 4 ≤ 9216)
      && decide (a 32 8 % 8 = 0) && noWrap (a 32 8) (8 * a 24 4)
  | 0x22 => decide (a 16 1 ≠ 0)
  | 0x23 => decide (a 16 1 ≤ 7) && decide (a 20 4 ≤ 383) && decide (1 ≤ a 24 4) && decide (a 20 4 + a 24 4 ≤ 384)
      && decide (a 32 8 % 8 = 0) && noWrap (a 32 8) (96 * a 24 4)
  | 0x28 => stripItemOk (a 16 2) (a 18 2) (a 20 4)
  | 0x30 => decide (a 16 1 ≤ 2) && multIn 4 4 16384 (a 20 4) && decide (a 32 8 % 4 = 0) && noWrap (a 32 8) (min (a 20 4) 512)
  | 0x31 => multIn 4 4 16384 (a 20 4) && decide (a 32 8 % 4 = 0) && noWrap (a 32 8) (min (a 20 4) 512)
  | 0x38 => decide (a 16 2 = 0xFFFF) || (slotInfo (a 16 2)).isSome
  | 0x39 => decide (a 18 1 ≤ 4) && (injMask (a 16 2)).testBit (a 18 1) && decide (1 ≤ a 19 1)
  | 0x40 => decide (a 16 2 < 192) || decide (a 16 2 = 0xFFFF)
  | 0x41 => decide (a 16 4 < 2 ^ 22)
  | 0x48 => decide (a 16 1 ≤ 2) && decide (a 17 1 ≤ 7) && decide (a 18 1 ≤ 1) && decide (60 ≤ a 20 4) && decide (a 20 4 ≤ 2048)
      && noWrap (a 32 8) (a 20 4)
  | 0x49 => decide (a 16 1 ≤ 7) && multIn 64 64 2048 (a 20 4) && decide (a 32 8 % 64 = 0) && noWrap (a 32 8) (a 20 4)
  | 0x50 => decide (a 16 1 ≤ 1) && timeAdjOk (a 17 1) (signed 64 (a 24 8))
  | 0x51 => tevOk b
  | 0x58 => (decide (a 16 1 = 1) || decide (a 16 1 = 2)) && decide (a 20 4 % 512 = 0) && multIn 512 512 (2 ^ 32) (a 24 4)
      && decide (a 20 4 + a 24 4 ≤ partSize (a 16 1)) && decide (a 32 8 % 8 = 0) && noWrap (a 32 8) (a 24 4)
  | 0x59 => decide (a 16 1 ≤ 5) && decide (a 20 4 % 512 = 0) && multIn 512 512 (2 ^ 32) (a 24 4)
      && decide (a 20 4 + a 24 4 ≤ partSize (a 16 1)) && decide (a 32 8 % 8 = 0) && noWrap (a 32 8) (a 24 4)
  | 0x5A => decide (a 16 1 ≤ 3) && (decide (a 16 1 ≠ 2) || (decide (a 24 8 < 2 ^ 48) && decide (a 32 4 < 1000000000)))
  | 0x60 => decide (a 16 1 ≤ 3) && decide (a 17 1 ≤ 3) && decide (a 18 1 < 8) && decide (1 ≤ a 20 4) && decide (a 20 4 ≤ 2 ^ 24)
      && noWrap (a 32 8) (a 20 4)
  | 0x68 => protSetOk b
  | 0x70 => decide (a 16 1 ≤ 8)
  | _ => true

/-- The format check of a descriptor (R113 R115). -/
def formatOk (b : Bytes) : Bool :=
  match argBytes (le b 0 1) with
  | none => false
  | some rs =>
    decide (le b 1 1 < 4) && decide (le b 4 4 = 0)
      && ((List.range 48).all fun i => inRanges rs (16 + i) || decide (le b (16 + i) 1 = 0)) && argsOk b

/-- The layers that a descriptor names (R88). -/
def descLayers (b : Bytes) : Nat :=
  match le b 0 1 with
  | 0x10 => 2 ^ le b 16 1
  | 0x11 => le b 16 8
  | _ => 0

/-- The host ranges that a descriptor names: address, length, written (R88 and the owning chapters). -/
def descRanges (b : Bytes) : List (Nat × Nat × Bool) :=
  match le b 0 1 with
  | 0x10 => [(le b 24 8, le b 20 4, false)]
  | 0x11 => if le b 24 1 = 0 then [] else [(le b 32 8, 16 * le b 24 1, false)]
  | 0x12 => [(le b 24 8, le b 20 4, false)]
  | 0x20 => if le b 20 4 = 0 then [] else [(le b 24 8, le b 20 4, true)]
  | 0x21 => [(le b 32 8, 8 * le b 24 4, true)]
  | 0x23 => [(le b 32 8, 96 * le b 24 4, true)]
  | 0x30 => [(le b 32 8, min (le b 20 4) 512, true)]
  | 0x31 => [(le b 32 8, min (le b 20 4) 512, false)]
  | 0x48 => [(le b 32 8, le b 20 4, false)]
  | 0x49 => [(le b 32 8, le b 20 4, true)]
  | 0x58 => [(le b 32 8, le b 24 4, false)]
  | 0x59 => [(le b 32 8, le b 24 4, true)]
  | 0x60 => [(le b 32 8, le b 20 4, false)]
  | _ => []

/-- The host range that a dispatched descriptor reads at once. `NET_TX` waits for its unit (R480). -/
def descReads (b : Bytes) : Option (Nat × Nat) :=
  match le b 0 1 with
  | 0x10 | 0x12 => some (le b 24 8, le b 20 4)
  | 0x31 => if 512 < le b 20 4 then none else some (le b 32 8, le b 20 4)
  | 0x58 => some (le b 32 8, le b 24 4)
  | 0x60 => some (le b 32 8, le b 20 4)
  | _ => none

/-- The highest level to which each opcode can be granted (R90). -/
def opcTop : Nat → Option Nat
  | 0x01 | 0x21 | 0x23 | 0x30 | 0x59 => some 3
  | 0x10 | 0x11 | 0x12 | 0x13 | 0x60 => some 2
  | 0x18 | 0x20 | 0x22 | 0x28 | 0x31 | 0x32 | 0x38 | 0x40 | 0x41 | 0x48 | 0x49 | 0x51 | 0x58 => some 1
  | 0x39 | 0x50 | 0x5A | 0x68 | 0x70 => some 0
  | _ => none

/-- The bits that word w of level L can hold (R90 R98). -/
def opcAllowed (l w : Nat) : Nat :=
  maskOf (fun b => match opcTop (32 * w + b) with | some t => decide (l ≤ t) | none => false) 32

/-- Word w of the opcode bitmap of level L, with the reset value of R90. -/
def opcWord (p : ProtTable) (l w : Nat) : Nat := Tab.get (opcAllowed l w) p.opc (4 * l + w)

end Sys2Proof.Machine
end

