-- ==== Sys2Proof/Machine/Crc.lean ====
section
/-! DEFINITION. Cyclic checks: the forms of the general check units (R547), the stream check of the strips (R229), the CRC-4
of the ordered sets (R455), the frame check sequence (R465). -/

namespace Sys2Proof.Machine

/-- One bit of a reflected check. -/
def crcStepR (poly c : Nat) : Nat := if c % 2 = 1 then (c / 2) ^^^ poly else c / 2

/-- Eight bits of a reflected check. -/
def crcByteR (poly c : Nat) : Nat :=
  crcStepR poly (crcStepR poly (crcStepR poly (crcStepR poly (crcStepR poly (crcStepR poly (crcStepR poly (crcStepR poly c)))))))

/-- A reflected check over bytes, from a running value. -/
def crcR (poly : Nat) : Bytes → Nat → Nat
  | [], c => c
  | b :: r, c => crcR poly r (crcByteR poly (c ^^^ b.toNat))

/-- One bit of an unreflected check of width w. -/
def crcStepL (w poly c : Nat) : Nat := if c.testBit (w - 1) then (c * 2 % 2 ^ w) ^^^ poly else c * 2 % 2 ^ w

/-- Some bits of an unreflected check. -/
def crcBitsL (w poly : Nat) : Nat → Nat → Nat
  | 0, c => c
  | n + 1, c => crcBitsL w poly n (crcStepL w poly c)

/-- An unreflected check over bytes, from a running value. -/
def crcL (w poly : Nat) : Bytes → Nat → Nat
  | [], c => c
  | b :: r, c => crcL w poly r (crcBitsL w poly 8 (c ^^^ (b.toNat * 2 ^ (w - 8))))

/-- Initial value of check `POLY` (R547). -/
def gcuInit : Nat → Nat
  | 0 | 1 => 0xFFFFFFFF
  | 2 => 0xFFFF
  | _ => 0

/-- The running value of check `POLY` after bytes (R547). -/
def gcuRun (poly : Nat) (b : Bytes) (c : Nat) : Nat :=
  match poly with
  | 0 => crcR 0xEDB88320 b c
  | 1 => crcR 0x82F63B78 b c
  | 2 => crcL 16 0x1021 b c
  | _ => crcL 8 0x07 b c

/-- The final value of check `POLY` (R547). -/
def gcuFinal (poly c : Nat) : Nat := if poly < 2 then c ^^^ 0xFFFFFFFF else c

/-- A whole check. -/
def gcuCheck (poly : Nat) (b : Bytes) : Nat := gcuFinal poly (gcuRun poly b (gcuInit poly))

/-- CRC-32C in the form of the general check units (R547). -/
def crc32c (b : Bytes) : Nat := gcuCheck 1 b

/-- The stream check of the strips: CRC-32C, most significant bit first, unreflected (R229). -/
def crcStream (b : Bytes) : Nat := crcL 32 0x1EDC6F41 b 0xFFFFFFFF ^^^ 0xFFFFFFFF

/-- CRC-4 of an ordered set over P[23:4] (R455). -/
def crc4 (p : Nat) : Nat :=
  (List.range 20).foldl (fun c i =>
    let b := (p.testBit (23 - i)).toNat
    let top := c / 8 % 2
    ((c * 2 % 16) ^^^ (if (b + top) % 2 = 1 then 3 else 0))) 0

/-- The IEEE 802.3 frame check sequence (R465). -/
def fcs (b : Bytes) : Bytes := toLe 4 (gcuCheck 0 b)

end Sys2Proof.Machine
end

