-- ==== Sys2Proof/Machine/Pixel.lean ====
section
/-! DEFINITION. The arithmetic of layer composition: contexts, sampling, blending, culling, scalers (R142 to R159, R603). -/

namespace Sys2Proof.Machine

/-- A field of a context: word at byte offset `off`, bits `lo` to `lo + len - 1` (R147). -/
def cf (c : Ctx) (off lo len : Nat) : Nat := bits c.toNat (8 * off + lo) len

def cAlpha (c : Ctx) : Nat := cf c 0 24 8
def cGuardAct (c : Ctx) : Bool := cf c 0 22 1 == 1
def cStallPol (c : Ctx) : Nat := cf c 0 20 2
def cFormat (c : Ctx) : Nat := cf c 0 16 4
def cBlend (c : Ctx) : Nat := cf c 0 10 3
def cTtEn (c : Ctx) : Bool := cf c 0 5 1 == 1
def cSrcCache (c : Ctx) : Bool := cf c 0 4 1 == 1
def cGuardEn (c : Ctx) : Bool := cf c 0 3 1 == 1
def cDarkCrit (c : Ctx) : Bool := cf c 0 2 1 == 1
def cOpaque (c : Ctx) : Bool := cf c 0 1 1 == 1
def cEn (c : Ctx) : Bool := cf c 0 0 1 == 1
def cZ (c : Ctx) : Nat := cf c 4 0 8
def cSrc (c : Ctx) : Nat := cf c 8 0 64
def cStride (c : Ctx) : Nat := cf c 0x10 0 24
def cSrcH (c : Ctx) : Nat := cf c 0x14 16 12
def cSrcW (c : Ctx) : Nat := cf c 0x14 0 12
def cDstY (c : Ctx) : Int := signed 16 (cf c 0x18 16 16)
def cDstX (c : Ctx) : Int := signed 16 (cf c 0x18 0 16)
def cDstH (c : Ctx) : Nat := cf c 0x1C 16 12
def cDstW (c : Ctx) : Nat := cf c 0x1C 0 12
def cFill (c : Ctx) : Nat := cf c 0x20 0 16
def cGuardCrc (c : Ctx) : Nat := cf c 0x24 0 32
def cGuardFold (c : Ctx) : Nat := cf c 0x28 0 32
def cCoefCache (c : Ctx) : Bool := cf c 0x2C 0 1 == 1
def cTtOff (c : Ctx) : Nat := cf c 0x30 0 32
def cCoefOff (c : Ctx) : Nat := cf c 0x34 0 32

/-- Bytes per pixel of a format (R147). -/
def bpp (f : Nat) : Nat := if f = 0 ∨ f = 2 then 1 else 2

/-- A video layer (R143). -/
def isVideo (l : Nat) : Bool := decide (l < 4)

/-- Destination width and height (R147). -/
def dstW (l : Nat) (c : Ctx) : Nat := if isVideo l then cDstW c else cSrcW c
def dstH (l : Nat) (c : Ctx) : Nat := if isVideo l then cDstH c else cSrcH c

/-- Length of the source range (R148). -/
def srcLen (c : Ctx) : Nat := cStride c * (cSrcH c - 1) + cSrcW c * bpp (cFormat c)

/-- Cache ranges that a context reads: source, transfer table, coefficient set (R148 R163). -/
def cacheRanges (c : Ctx) : List (Nat × Nat) :=
  (if cSrcCache c then [(cSrc c, cSrc c + srcLen c)] else [])
    ++ (if cTtEn c then [(cTtOff c, cTtOff c + 512)] else [])
    ++ (if cCoefCache c then [(cCoefOff c, cCoefOff c + 1536)] else [])

/-- The source byte at an offset of the source range. -/
def srcByte (f : FLayer) (o : Nat) : Nat :=
  match f.src.find? (fun r => decide (r.1 ≤ o) && decide (o < r.1 + r.2.length)) with
  | some r => ((r.2.drop (o - r.1)).headD 0#8).toNat
  | none => 0

/-- An entry of the transfer table (R150). -/
def ttAt (f : FLayer) (i : Nat) : Nat := le f.tt (2 * i) 2

/-- Luminance and alpha of source pixel (x, y) (R150). -/
def sourcePixel (f : FLayer) (x y : Nat) : Nat × Nat :=
  let c := f.ctx
  let o := y * cStride c + x * bpp (cFormat c)
  let b0 := srcByte f o
  let w := b0 + 256 * srcByte f (o + 1)
  match cFormat c with
  | 0 => (if cTtEn c then ttAt f b0 else b0 * 257, 255)
  | 1 => (w, 255)
  | 2 => (cFill c, b0)
  | 3 => (b0 * 257, srcByte f (o + 1))
  | _ =>
    let v := w % 1024
    if cTtEn c then
      let i := v / 4
      let t0 : Int := ttAt f i
      let t1 : Int := ttAt f (min (i + 1) 255)
      ((t0 + ((t1 - t0) * (v % 4 : Nat) + 2) / 4).toNat, 255)
    else (v * 64 + v / 16, 255)

/-- A byte range meets a poisoned one (R164). -/
def hitsPoison (l : List (Nat × Nat)) (o n : Nat) : Bool := l.any fun p => decide (o < p.1 + p.2) && decide (p.1 < o + n)

/-- Entries of the transfer table from which source pixel (x, y) takes its luminance (R150). -/
def ttEntries (f : FLayer) (x y : Nat) : List Nat :=
  let o := y * cStride f.ctx + x * bpp (cFormat f.ctx)
  if !cTtEn f.ctx then []
  else match cFormat f.ctx with
    | 0 => [srcByte f o]
    | 4 => let i := (srcByte f o + 256 * srcByte f (o + 1)) % 1024 / 4; [i, min (i + 1) 255]
    | _ => []

/-- Source pixel (x, y) lies in a poisoned line, or takes its luminance from one of the transfer table (R164). -/
def pixelPoisoned (f : FLayer) (x y : Nat) : Bool :=
  hitsPoison f.poison (y * cStride f.ctx + x * bpp (cFormat f.ctx)) (bpp (cFormat f.ctx))
    || (ttEntries f x y).any fun i => hitsPoison f.ttPoison (2 * i) 2

/-- Position of output index i of a scaler: tap centre n and phase (R158). -/
def scalePos (src dst i : Nat) : Int × Nat :=
  let p : Int := ((2 * i + 1 : Nat) * (src * 65536 / dst : Nat) : Int) / 2 - 32768
  (p / 65536, (p % 65536).toNat / 1024)

/-- A source coordinate, held within the source (R158). -/
def clampCoord (size : Nat) (n : Int) : Nat := (clampI 0 ((size : Int) - 1) n).toNat

/-- Horizontal coefficient C_H[phase][t] (R159 R603). -/
def coefH (f : FLayer) (p t : Nat) : Int :=
  if f.coef.isEmpty then (lanczosH.getD (8 * p + t) 0) else signed 10 (le f.coef (16 * p + 2 * t) 2)

/-- Vertical coefficient C_V[phase][t] (R159 R603). -/
def coefV (f : FLayer) (p t : Nat) : Int :=
  if f.coef.isEmpty then (lanczosV.getD (4 * p + t) 0) else signed 10 (le f.coef (1024 + 8 * p + 2 * t) 2)

/-- `clamp((sum + 128) >> 8, 0, 65 535)` (R158). -/
def scaleOut (sum : Int) : Int := clampI 0 65535 ((sum + 128) / 256)

/-- The vertical filter at source column x and output row j (R158). -/
def filterV (f : FLayer) (x j : Nat) : Int :=
  let p := scalePos (cSrcH f.ctx) (cDstH f.ctx) j
  scaleOut (((List.range 4).map fun t =>
    coefV f p.2 t * ((sourcePixel f x (clampCoord (cSrcH f.ctx) (p.1 - 1 + t))).1 : Int)).sum)

/-- The scaler's output at column i and row j: vertical first, then horizontal (R158). -/
def scaled (f : FLayer) (i j : Nat) : Nat :=
  let p := scalePos (cSrcW f.ctx) (cDstW f.ctx) i
  (scaleOut (((List.range 8).map fun t =>
    coefH f p.2 t * filterV f (clampCoord (cSrcW f.ctx) (p.1 - 3 + t)) j).sum)).toNat

/-- Source columns, and rows, that an output pixel of a scaler reads (R157 R158). -/
def tapCols (c : Ctx) (i : Nat) : List Nat :=
  (List.range 8).map fun (t : Nat) => clampCoord (cSrcW c) ((scalePos (cSrcW c) (cDstW c) i).1 - 3 + (t : Nat))
def tapRows (c : Ctx) (j : Nat) : List Nat :=
  (List.range 4).map fun (t : Nat) => clampCoord (cSrcH c) ((scalePos (cSrcH c) (cDstH c) j).1 - 1 + (t : Nat))

/-- The filters of output pixel (i, j) take coefficients from a poisoned line (R159 R164). -/
def coefPoisoned (f : FLayer) (i j : Nat) : Bool :=
  hitsPoison f.coefPoison (16 * (scalePos (cSrcW f.ctx) (cDstW f.ctx) i).2) 16
    || hitsPoison f.coefPoison (1024 + 8 * (scalePos (cSrcH f.ctx) (cDstH f.ctx) j).2) 8

/-- A canvas point in the destination of a layer, as destination coordinates (R151). -/
def destPos (l : Nat) (c : Ctx) (x y : Nat) : Option (Nat × Nat) :=
  let i := (x : Int) - cDstX c
  let j := (y : Int) - cDstY c
  if 0 ≤ i ∧ i < dstW l c ∧ 0 ≤ j ∧ j < dstH l c then some (i.toNat, j.toNat) else none

/-- The sample of a layer at a canvas pixel: none where it does not cover or is poisoned (R150 R151 R164). -/
def sampleAt (f : FLayer) (x y : Nat) : Option (Nat × Nat) :=
  match destPos f.l f.ctx x y with
  | none => none
  | some (i, j) =>
    match f.mode with
    | .absent => none
    | .dark => some (0, 255)
    | .normal =>
      if isVideo f.l then
        if coefPoisoned f i j || ((tapRows f.ctx j).any fun r => (tapCols f.ctx i).any fun k => pixelPoisoned f k r) then none
        else some (scaled f i j, 255)
      else if pixelPoisoned f i j then none
      else some (sourcePixel f i j)

/-- The effective alpha of a sample (R152). -/
def effAlpha (f : FLayer) (a : Nat) : Nat :=
  if f.mode = .dark then 255 else if cOpaque f.ctx then 255 else (a * cAlpha f.ctx + 127) / 255

/-- One blend step (R152 R177). -/
def blend (f : FLayer) (acc : Nat) (sa : Nat × Nat) : Nat :=
  let s := sa.1
  let a := effAlpha f sa.2
  let op := if f.mode = .dark ∨ cOpaque f.ctx then 0 else cBlend f.ctx
  let r := match op with
    | 0 => s
    | 1 => max acc s
    | 2 => min acc s
    | 3 => (acc * s + 32767) / 65535
    | _ => min (acc + s) 65535
  (r * a + acc * (255 - a) + 127) / 255

/-- Layers in stack order: ascending Z, the lower number lower (R151). -/
def stackInsert (f : FLayer) : List FLayer → List FLayer
  | [] => [f]
  | g :: r => if cZ f.ctx < cZ g.ctx ∨ (cZ f.ctx = cZ g.ctx ∧ f.l < g.l) then f :: g :: r else g :: stackInsert f r

/-- Sort into stack order (R151). -/
def stackSort : List FLayer → List FLayer
  | [] => []
  | f :: r => stackInsert f (stackSort r)

/-- Dark-critical bit of a canvas pixel (R154). -/
def darkCritAt (fr : FrameRec) (x y : Nat) : Bool :=
  fr.layers.any fun f => cDarkCrit f.ctx &&
    (match sampleAt f x y with | some sa => decide (0 < effAlpha f sa.2) | none => false)

/-- The canvas rectangle that a layer covers, clipped: x0, x1, y0, y1 (half open) (R151). -/
def clipRect (l : Nat) (c : Ctx) : Nat × Nat × Nat × Nat :=
  ((clampI 0 1536 (cDstX c)).toNat, (clampI 0 1536 (cDstX c + dstW l c)).toNat,
   (clampI 0 768 (cDstY c)).toNat, (clampI 0 768 (cDstY c + dstH l c)).toNat)

/-- A layer is opaque in region (i, j) (R155 R177). -/
def opaqueIn (f : FLayer) (i j : Nat) : Bool :=
  let r := clipRect f.l f.ctx
  f.mode != .absent
    && decide (r.1 ≤ 32 * i ∧ 32 * i + 32 ≤ r.2.1 ∧ r.2.2.1 ≤ 32 * j ∧ 32 * j + 32 ≤ r.2.2.2)
    && (f.mode == .dark || cOpaque f.ctx
        || (cBlend f.ctx == 0 && [0, 1, 4].contains (cFormat f.ctx) && cAlpha f.ctx == 255))

/-- A layer is fetched and blended in region (i, j): no layer above it in the stack is opaque there (R155 R156). -/
def liveIn (stack : List FLayer) (f : FLayer) (i j : Nat) : Bool :=
  f.mode != .absent &&
    (cDarkCrit f.ctx || cGuardEn f.ctx ||
      !((stack.dropWhile fun g => g.l != f.l).drop 1).any fun g => opaqueIn g i j)

/-- L16 of a canvas pixel: the layers live in its region, blended in stack order (R152 R155 R156). -/
def l16At (fr : FrameRec) (x y : Nat) : Nat :=
  match Tab.find fr.lost (1536 * y + x) with
  | some v => v
  | none => (fr.layers.filter fun f => liveIn fr.layers f (x / 32) (y / 32)).foldl
      (fun acc f => match sampleAt f x y with | some sa => blend f acc sa | none => acc) 0

/-- The part of `[a, b)` that lies in region index i of 32. -/
def inRegion (a b i : Nat) : Nat × Nat := (max a (32 * i), min b (32 * i + 32))

/-- Source columns and rows that the taps of a video layer read in each region in which it is live (R155 R157 R158). -/
def videoTaps (stack : List FLayer) (f : FLayer) : List (List Nat × List Nat) :=
  let r := clipRect f.l f.ctx
  (List.range 24).flatMap fun j => (List.range 48).filterMap fun i =>
    let x := inRegion r.1 r.2.1 i
    let y := inRegion r.2.2.1 r.2.2.2 j
    if x.1 < x.2 ∧ y.1 < y.2 ∧ liveIn stack f i j then
      some (((List.range (x.2 - x.1)).flatMap fun k => tapCols f.ctx (((x.1 + k : Nat) : Int) - cDstX f.ctx).toNat).eraseDups,
        ((List.range (y.2 - y.1)).flatMap fun k => tapRows f.ctx (((y.1 + k : Nat) : Int) - cDstY f.ctx).toNat).eraseDups)
    else none

/-- Source columns of row y that the taps of a video layer read. -/
def tapsOfRow (f : FLayer) (taps : List (List Nat × List Nat)) (y : Nat) : List Nat :=
  (List.range (cSrcW f.ctx)).filter fun x => taps.any fun t => t.1.contains x && t.2.contains y

/-- Ascending numbers as runs: first and count. -/
def runsOf : List Nat → List (Nat × Nat)
  | [] => []
  | x :: r => match runsOf r with
    | (a, n) :: t => if x + 1 = a then (x, n + 1) :: t else (x, 1) :: (a, n) :: t
    | [] => [(x, 1)]

/-- Source bytes that a host layer fetches, as offset and length of its source range, row by row: the pixels of the regions in
which it is live, or for a video layer those that its filter taps read there; a guarded layer is fetched whole (R155 R156). -/
def fetchRuns (stack : List FLayer) (f : FLayer) : List (Nat × Nat) :=
  let c := f.ctx
  let r := clipRect f.l c
  let b := bpp (cFormat c)
  if cGuardEn c then (List.range (cSrcH c)).map fun y => (y * cStride c, cSrcW c * b)
  else if isVideo f.l then
    let taps := videoTaps stack f
    (List.range (cSrcH c)).flatMap fun y => (runsOf (tapsOfRow f taps y)).map fun k => (y * cStride c + k.1 * b, k.2 * b)
  else (List.range (r.2.2.2 - r.2.2.1)).flatMap fun k =>
    let y := r.2.2.1 + k
    (List.range 48).filterMap fun i =>
      let s := inRegion r.1 r.2.1 i
      if s.1 < s.2 ∧ liveIn stack f i (y / 32) then
        some (((y : Int) - cDstY c).toNat * cStride c + ((s.1 : Int) - cDstX c).toNat * b, (s.2 - s.1) * b)
      else none

/-- Destination pixels of a layer blended after culling, as the canvas pixels of each live region (R157). -/
def blendedPixels (stack : List FLayer) (f : FLayer) : Nat :=
  let r := clipRect f.l f.ctx
  ((List.range 24).map fun j => ((List.range 48).map fun i =>
    let x := inRegion r.1 r.2.1 i
    let y := inRegion r.2.2.1 r.2.2.2 j
    if liveIn stack f i j then (x.2 - x.1) * (y.2 - y.1) else 0).sum).sum

/-- Distinct source pixels that the taps of a video layer read for the destination pixels blended (R157). -/
def fetchedPixels (stack : List FLayer) (f : FLayer) : Nat :=
  let taps := videoTaps stack f
  ((List.range (cSrcH f.ctx)).map fun y => (tapsOfRow f taps y).length).sum

/-- The layer-pixel count of a frame (R157). -/
def layerPixels (fr : FrameRec) : Nat :=
  (fr.layers.map fun f =>
    let d := blendedPixels fr.layers f
    if isVideo f.l && f.mode == .normal then max d (fetchedPixels fr.layers f) else d).sum

/-- The source bytes that a guard covers: rows 0 to SRC_H − 1 without stride padding (R174). -/
def guardBytes (f : FLayer) : Bytes :=
  (List.range (cSrcH f.ctx)).flatMap fun y => (List.range (cSrcW f.ctx * bpp (cFormat f.ctx))).map fun i =>
    BitVec.ofNat 8 (srcByte f (y * cStride f.ctx + i))

end Sys2Proof.Machine
end

