-- ==== Sys2Proof/Machine/StripOps.lean ====
section
/-! DEFINITION. The arithmetic and the operations of strip drive: sink current, duty pipeline, clamp, governor, slices,
streams, verdicts (07, 09). -/

namespace Sys2Proof.Machine

/-- Change one tile. -/
def updTile (n : Nat) (f : Tile → Tile) (s : State) : State := putTile s n (f (tileOf s n))

/-! ### Sink currents (R237) -/

/-- Denominator of the I_ref numerators: I_ref = 2 048 µA × numerator / this. -/
def irefDen : Nat := 255 * 1023 * 1000

/-- Numerator of I_ref: GLOBAL_IREF × CH_IREF × (936 + TRIM), limited to 2 048 µA (R237). -/
def irefNum (g ch trim : Nat) : Nat := min irefDen (g * ch * (936 + trim))

/-- I_ref numerator of strip i as the duty pipeline uses it; 0 with `EN` 0 (R218 R240). -/
def irefOf (s : State) (i : Nat) : Nat :=
  let x := stripOf s i
  if x.en then irefNum s.strip.globalIref x.chIref x.trim else 0

/-- I_ref numerator of the current that the sink carries (R240). -/
def irefAnalog (s : State) (i : Nat) : Nat :=
  let x := stripOf s i
  if x.aEn then irefNum s.strip.aGlobalIref x.aChIref x.aTrim else 0

/-! ### The duty pipeline (R213 to R217) -/

/-- The canvas pixel of a tile pixel (R213): cell in bits [2:0], `ROT180` in bit 3. -/
def canvasPos (place r c : Nat) : Nat × Nat :=
  let k := place % 8
  let x0 := 384 * (k % 4)
  let y0 := 384 * (k / 4)
  if place.testBit 3 then (x0 + 383 - c, y0 + 383 - r) else (x0 + c, y0 + r)

/-- Block of a tile pixel (R213). -/
def blockOf (r c : Nat) : Nat := r / 4 * 96 + c / 4

/-- Uniformity code of a pixel; 128 without a map (R269 R272). -/
def uniformity (m : Bytes) (r c : Nat) : Nat := if m.isEmpty then 128 else ((m.drop (384 * r + c)).headD 128#8).toNat

/-- The pixel's value after the governor: c of R214. -/
def dutyC (x : ShiftRec) (r c : Nat) : Nat :=
  let b :=
    if x.lmoss then 4 * x.lm
    else
      let p := canvasPos x.place r c
      let a := (l16At x.frame p.1 p.2 * Tab.get 32768 x.gains (blockOf r c) + 16384) / 2 ^ 15
      (a * (384 + uniformity x.map r c) + 256) / 2 ^ 9
  (b * x.s + 16384) / 2 ^ 15

/-- I_ref numerator of a tile row's strip in a shift. -/
def rowIref (x : ShiftRec) (r : Nat) : Nat := (x.strips.getD (r / 16) (false, 0)).2

/-- Numerator of the radiance of a clamp window over a pixel value v: R_w = K_T Σ (v / 65 536) I_pix, as 128 K_T Σ v iref
over 65 536 irefDen, in Q16.16 (R216 R349). -/
def windowNum (x : ShiftRec) (v : Nat → Nat → Nat) (i j size step : Nat) : Nat :=
  x.kt * 128 * ((List.range size).map fun a => rowIref x (step * i + a) * ((List.range size).map fun b =>
    v (step * i + a) (step * j + b)).sum).sum

/-- f_w of window (i, j) (R216). -/
def clampWindow (x : ShiftRec) (i j : Nat) : Nat :=
  let n := windowNum x (dutyC x) i j 8 4
  if n ≤ x.egLimit * (65536 * irefDen) then 32768 else 32768 * (x.egLimit * (65536 * irefDen)) / n

/-- Window indices along one axis that contain a coordinate (R216). -/
def windowsOf (r : Nat) : List Nat := (List.range 95).filter fun i => decide (4 * i ≤ r) && decide (r ≤ 4 * i + 7)

/-- f_p of a pixel (R216). -/
def clampFactor (x : ShiftRec) (r c : Nat) : Nat :=
  ((windowsOf r).flatMap fun i => (windowsOf c).map fun j => clampWindow x i j).foldl min 32768

/-- The duty word of a pixel before repayment (R214). -/
def dutyBase (x : ShiftRec) (r c : Nat) : Nat :=
  if (x.strips.getD (r / 16) (false, 0)).1 then min ((dutyC x r c * clampFactor x r c / 2 ^ 15) / 4) 16383 else 0

/-- The duty word sent (R214 R312). -/
def dutyAt (x : ShiftRec) (r c : Nat) : Nat :=
  let d := dutyBase x r c
  d - min d (Tab.get 0 x.repay (384 * r + c))

/-! ### Spread-plane modulation (R221 R222) -/

/-- The four bits of i reversed (R221). -/
def rev4 (i : Nat) : Nat := i % 2 * 8 + i / 2 % 2 * 4 + i / 4 % 2 * 2 + i / 8 % 2

/-- On-time of slice i in units (R221). -/
def onTime (d i : Nat) : Nat := d / 16 + (if rev4 i < d % 16 then 1 else 0)

/-- Phase index of a strip (R222). -/
def phaseIndex (strip : Nat) : Nat := 8 * (strip % 24) + strip / 24

/-- Units of an on-time that have elapsed before tick `off` of the slice (R28 R222). -/
def elapsedUnits (strip on off : Nat) : Nat :=
  ((List.range on).filter fun u => (List.range 3).all fun k =>
    decide ((16 * phaseIndex strip + 3 * u + k) % 3072 + 1 ≤ off)).length

/-! ### The governor (R218 to R220) -/

/-- The duty source of a tile from this boundary is Lanternmoss (R24 R27 R215 R266). -/
def tileLmoss (s : State) (n : Nat) : Bool := s.frm.lmCond || s.faults.lmFirst || !(tileOf s n).composed

/-- Largest uniformity code of block b (R218). -/
def umax (m : Bytes) (b : Nat) : Nat :=
  ((List.range 16).map fun k => uniformity m (b / 96 * 4 + k / 4) (b % 96 * 4 + k % 4)).foldl max 0

/-- V of one tile times 2^24, in numerators of I_ref (R218): Ipx × W × LSUM / 4 summed over the blocks. -/
def govTile (s : State) (n : Nat) : Nat :=
  let t := tileOf s n
  let place := bits s.cmp.tileMapEff (4 * n) 4
  ((List.range 9216).map fun b =>
    let r0 := b / 96 * 4
    let c0 := b % 96 * 4
    let ir := irefOf s (24 * n + r0 / 16)
    if tileLmoss s n then ir * (16 * 4 * lmLevel s) * 2 ^ 24
    else
      let lsum := ((List.range 16).map fun k =>
        let p := canvasPos place (r0 + k / 4) (c0 + k % 4)
        l16At s.cmp.front p.1 p.2).sum
      ir * (Tab.get 32768 t.gains b * (384 + umax t.map b)) * lsum).sum

/-- F of one tile in numerators of I_ref (R218): 16 × 32 per block and the probe allowance per strip. -/
def govFixed (s : State) (n : Nat) : Nat :=
  ((List.range 24).map fun k => irefOf s (24 * n + k) * (384 * 512 + 16 * 63)).sum

/-- V and F over the enabled tiles. -/
def govSums (s : State) : Nat × Nat :=
  let on := (List.range 8).filter fun n => (tileOf s n).enabled
  ((on.map (govTile s)).sum, (on.map (govFixed s)).sum)

/-- V = 128 v / (irefDen 4 2^24 16 384 1 000) mA and F = 128 f / (irefDen 16 384 1 000) mA, over one denominator (R218). -/
def govDen : Nat := irefDen * 2 ^ 26 * 16384 * 1000

/-- The common scale S and the load V + F in mA (R218 R257). -/
def govScale (s : State) : Nat × Nat :=
  let x := govSums s
  let v := 128 * x.1
  let f := 128 * x.2 * 2 ^ 26
  let b := s.strip.govBudget * govDen
  (if s.strip.govBudget = 0 ∨ v + f ≤ b then 32768
   else if b ≤ f then 0
   else 32768 * (b - f) / v,
   min 0xFFFFFF ((v + f) / govDen))

/-- The governor recomputes S at every boundary (R218 R220). -/
def governor (s : State) : State :=
  let g := govScale s
  let s' := { s with strip := { s.strip with scale := g.1, load := g.2 } }
  if s.strip.scale = 32768 ∧ g.1 < 32768 then raise 459 s' else s'

/-! ### Flip-gate items of the strips (R240 R242) -/

/-- Mark Fronds of the tiles of a mask: an item for the tile has passed (R200). -/
def markItemsN (m : Nat) : Nat → State → State
  | 0, s => s
  | n + 1, s =>
    let s := markItemsN m n s
    if m.testBit n then
      (match serving s n with | some f => putFrond s f { frondOf s f with item := true } | none => s)
    else s

/-- Mark Fronds of the tiles of a mask (R200). -/
def markItems (m : Nat) (s : State) : State := markItemsN m 8 s

/-- Set one strip item (R241). -/
def setStripItem (item v i : Nat) (s : State) : State :=
  let x := stripOf s i
  putStrip s i (if item = 1 then { x with chIref := bits v 0 10 } else { x with en := v.testBit 0 })

/-- Set an item for several strips. -/
def setStrips (item v : Nat) : List Nat → State → State
  | [], s => s
  | i :: r, s => setStrips item v r (setStripItem item v i s)

/-- The duty-side step of a `STRIP_SET` (R240 R241 R242). -/
def stripDuty (id : Nat) (late : Bool) (s : State) : State :=
  match descOf s id with
  | none => s
  | some d =>
    let st := le d.bytes 16 2
    let item := le d.bytes 18 2
    let v := le d.bytes 20 4
    let s := match item with
      | 3 => { s with strip := { s.strip with globalIref := bits v 0 8 } }
      | 4 => { s with strip := { s.strip with govBudget := bits v 0 16 } }
      | _ => setStrips item v (if st = 0xFFFF then List.range 192 else [st]) s
    markItems (if st = 0xFFFF then 255 else 2 ^ (st / 24)) { s with strip := { s.strip with analogPend := s.strip.analogPend ++ [(id, late)] } }

/-- The analog step has passed: `STRIP_SET` descriptors complete at B_(j+1), whether or not the gate opens (R199 R242). -/
def finishStrips : List (Nat × Bool) → State → State
  | [], s => s
  | (id, late) :: r, s => finishStrips r (complete id (if late then stLATE else stOK) [] s)

/-- Complete the `STRIP_SET`s whose duty-side step passed at the boundary before. -/
def stripAnalogDone (s : State) : State :=
  finishStrips s.strip.analogPend { s with strip := { s.strip with analogPend := [], trimPend := false } }

/-- The trim code of a channel passes its duty-side step (R240). -/
def trimInForce (ch v : Nat) (s : State) : State :=
  markItems (2 ^ (ch / 24)) (putStrip { s with strip := { s.strip with trimPend := true } } ch { stripOf s ch with trim := v })

/-- An analog step is to pass at this boundary (R202 R240). -/
def analogDue (s : State) : Bool := !s.strip.analogPend.isEmpty || s.strip.trimPend

/-- A gain set comes into force (R274 R295). -/
def gainsInForce (n : Nat) (g : List Nat) (s : State) : State :=
  let t := tileOf s n
  let tab := (g.mapIdx fun i v => (i, v)).filter fun e => e.2 != 32768
  markItems (2 ^ n) (putTile s n { t with gains := tab, composed := t.composed || t.phase == .ready
                                          gMin := g.foldl min 65535, gMax := g.foldl max 0 })

/-- A uniformity map comes into force (R270 R317). -/
def mapInForce (n : Nat) (m : Bytes) (s : State) : State := markItems (2 ^ n) (putTile s n { tileOf s n with map := m })

/-! ### Streams (R226 to R229) -/

/-- The header word of strip i of a shift (R227). -/
def headerOf (x : ShiftRec) (i : Nat) : Nat :=
  let p := Tab.find x.probes i
  at_ 56 (24 * x.tile + i) + at_ 40 x.seq + flag 39 x.diag + flag 38 p.isSome + flag 37 x.lmoss + at_ 26 x.diagWin
    + (match p with | some q => at_ 22 q.row + at_ 13 q.col | none => 0)

/-- Tile pixel of cell k of local strip i (R228). -/
def cellPixel (i k : Nat) : Nat × Nat := (16 * i + 15 - k / 384, 383 - k % 384)

/-- k of a tile pixel (R228). -/
def cellIndex (r c : Nat) : Nat := (15 - r % 16) * 384 + (383 - c)

/-- The cells of strip i of a shift (R226). -/
def cellsOf (x : ShiftRec) (i : Nat) : List (BitVec 16) :=
  (List.range 6144).map fun k => let p := cellPixel i k; BitVec.ofNat 16 (4 * dutyAt x p.1 p.2)

/-- The check of a stream, diagnostic bits taken as 0 (R229 R234). -/
def streamCheck (header : Nat) (cells : List (BitVec 16)) : Nat :=
  crcStream (toBe 8 header ++ cells.flatMap fun w => toBe 2 (w.toNat / 4 * 4))

/-! ### Diagnosis (R301 to R313) -/

/-- Units of one frame in numerator and denominator: t_unit = (10^6 − 48 RATE) / (RATE 10^6 16 384) s (R6). -/
def unitNum (s : State) : Nat := 1000000 - 48 * s.frm.rate
def unitDen (s : State) : Nat := s.frm.rate * 1000000 * 16384

/-- `DIAG_WIN` = ceil(1.0 µs / t_unit) (R302). -/
def diagWin (s : State) : Nat := (unitDen s + 1000000 * unitNum s - 1) / (1000000 * unitNum s)

/-- Slice 0 of the next frame will be skipped (R225 R304). -/
def nextSliceZeroSkipped (t : Tile) : Bool :=
  decide (t.skipN ≠ 0) && decide ((t.skipCnt + (16 - t.started)) % t.skipN = t.skipN - 1)

/-- The clamp windows that contain a pixel, with probed pixels stretched, stay within `EG_LIMIT` (R309). -/
def probeFits (x : ShiftRec) (chosen : List (Nat × Nat)) (r c e : Nat) : Bool :=
  let v := fun a b => 4 * (dutyAt x a b + (if a = r ∧ b = c then e else 0) + Tab.get 0 chosen (384 * a + b))
  (windowsOf r).all fun i => (windowsOf c).all fun j => decide (windowNum x v i j 8 4 ≤ x.egLimit * (65536 * irefDen))

/-- The stretch of a pixel (R311). -/
def stretch (d win : Nat) : Nat := win - onTime d 0

/-- The probed pixel of local strip i (R309): the first due pixel from the pointer on that meets every item. -/
def chooseProbe (x : ShiftRec) (g : Diag) (chosen : List (Nat × Nat)) (i : Nat) : Option (Nat × Nat) :=
  let ptr := Tab.get 0 g.ptr i
  let used := (g.repay.filter fun e => e.1 / 384 / 16 == i).length
  if x.lmoss || !(x.strips.getD i (false, 0)).1 || decide (8 ≤ used) then none
  else
    (((List.range 6144).map fun j => (ptr + j) % 6144).map (cellPixel i)).find? fun p =>
      let ix := 384 * p.1 + p.2
      let d := dutyAt x p.1 p.2
      let q := canvasPos x.place p.1 p.2
      g.due.testBit ix && (!darkCritAt x.frame q.1 q.2 || decide (0 < d)) && (Tab.find g.repay ix).isNone
        && probeFits x chosen p.1 p.2 (stretch d x.diagWin)

/-- The probes of a shift in ascending local strip index: local strip, pixel, stretch (R309). -/
def chooseProbes (x : ShiftRec) (g : Diag) : Nat → List (Nat × Nat × Nat × Nat)
  | 0 => []
  | n + 1 =>
    let l := chooseProbes x g n
    match chooseProbe x g (l.map fun e => (384 * e.2.1 + e.2.2.1, e.2.2.2)) n with
    | none => l
    | some p => l ++ [(n, p.1, p.2, stretch (dutyAt x p.1 p.2) x.diagWin)]

/-- Every repayment entry of a tile is cancelled without repayment, counted in its Frond (R313). -/
def cancelRepay (n : Nat) (s : State) : State :=
  let t := tileOf s n
  let k := t.diag.repay.length
  if k = 0 then s
  else
    let s := putTile s n { t with diag := { t.diag with repay := [], changed := true } }
    match serving s n with
    | none => s
    | some f => let x := frondOf s f; putFrond s f { x with cancelled := satAdd 65535 x.cancelled k }

/-- A map starts afresh (R307 R308). -/
def freshMap (g : Diag) : Diag := { g with vLo := 0, vHi := 0, tested := 2 ^ 147456 - 1, due := 0 }

/-- Record one verdict (R301 R307 R308): the diagnosis and whether a fault newly appeared. -/
def record (ix v : Nat) (g : Diag) : Diag × Bool :=
  let old := (g.vLo.testBit ix).toNat + 2 * (g.vHi.testBit ix).toNat
  let g' := { g with vLo := putBit g.vLo ix (v.testBit 0), vHi := putBit g.vHi ix (v.testBit 1) }
  if v = 0 then (g', false)
  else ({ g' with tested := putBit g'.tested ix true, due := putBit g'.due ix false }, decide (2 ≤ v) && decide (old < 2))

/-- Record the verdicts of several pixels. -/
def recordAll : List (Nat × Nat) → Diag × Bool → Diag × Bool
  | [], x => x
  | (ix, v) :: r, x => let y := record ix v x.1; recordAll r (y.1, x.2 || y.2)

/-- The verdicts that a shift returned, by the streams latched at the edge before the last (R306). -/
def applyVerdicts (rets : List StripRet) (g : Diag) : Diag × Bool :=
  match g.prev with
  | none => (g, false)
  | some l =>
    if l.nak then (g, false)
    else if l.diag then
      let vs := (List.range 24).flatMap fun i => ((rets.getD i { header := 0, cells := [], check := 0 }).cells.mapIdx fun k w =>
        let p := cellPixel i k; (384 * p.1 + p.2, w.toNat % 4))
      let y := recordAll vs (g, false)
      ({ y.1 with lastSeq := l.seq }, y.2)
    else
      let vs := l.probes.map fun e =>
        let ix := 384 * (16 * e.1 + e.2.row) + e.2.col
        (ix, ((rets.getD e.1 { header := 0, cells := [], check := 0 }).cells.getD (cellIndex (16 * e.1 + e.2.row) e.2.col) 0#16).toNat % 4)
      let y := recordAll vs (g, false)
      (if vs.isEmpty then y.1 else { y.1 with lastSeq := l.seq }, y.2)

/-- Probes that were not lit lose their entries; the removal of one is a change of a force-gate input (R303 R312 R313). -/
def dropEntries (ps : Tab ProbeSel) (g : Diag) : Diag :=
  let mine := fun (e : Nat × Nat) => ps.any fun p => e.1 == 384 * (16 * p.1 + p.2.row) + p.2.col
  { g with repay := g.repay.filter fun e => !mine e, changed := g.changed || g.repay.any mine }

/-- Probes of a refused latch: their entries go, and each strip's pointer returns to the pixel it probed (R306). -/
def undoProbes (ps : Tab ProbeSel) (g : Diag) : Diag :=
  { dropEntries ps g with ptr := ps.foldl (fun t p => Tab.put t p.1 (cellIndex (16 * p.1 + p.2.row) p.2.col)) g.ptr }

/-- The instant of a slice start (R6 R190). -/
def sliceAt (s : State) (i : Nat) : Int :=
  s.frm.start + s.frm.steps + (i : Int) * (1000000 - 48 * (s.frm.rate : Int)) * 65536000 / (16 * (s.frm.rate : Int))

/-- The instant of slice k has come, if frames run (R190). -/
def atSlice (k : Nat) (after : Int) (s : State) : State :=
  if s.frm.inGap || !s.frm.started then s else advanceTo (sliceAt s k + after) s

/-- Slices of this frame whose start time has come (R190). -/
def slicesDue (s : State) : Nat := ((List.range 16).filter fun i => decide (sliceAt s i ≤ outTime s)).length

/-- Whole ticks of the current slice of tile n that have ended by now (R28 R222). -/
def offTick (s : State) (n : Nat) : Nat :=
  let r : Int := s.frm.rate
  min 3072 (((outTime s - sliceAt s (tileOf s n).slice) * 3072 * 16 * r) / ((1000000 - 48 * r) * 65536000)).toNat

/-- The light of tile n goes off: the off instant of a slice that was lit until now (R28). -/
def lightEnds (n : Nat) (s : State) : State :=
  let t := tileOf s n
  if 0 < t.started ∧ t.enabled ∧ ¬ t.darkSlices.testBit t.slice ∧ (Tab.find t.offs t.slice).isNone then
    putTile s n { t with offs := Tab.put t.offs t.slice (offTick s n) }
  else s

/-- `TENn` goes low at once: the tile's light ends, its repayments are cancelled (R28 R264 R313). -/
def darken (n : Nat) (s : State) : State :=
  let s := cancelRepay n (lightEnds n s)
  putTile s n { tileOf s n with enabled := false }

/-- The tile whose `TSYNCn` Frond f drives: that of the position it serves, or of a suspect Frond's in its place (R223 R316). -/
def drives (s : State) (f : Nat) : Option Nat :=
  (List.range 8).find? fun n => match (tileOf s n).tsyncBy with | some g => g == f | none => servedBy s f == some n

/-- The probes that the tile takes in slice 0 of this frame (R303). -/
def litProbes (t : Tile) : Tab ProbeSel :=
  (t.shown.filter fun e => t.fresh.testBit e.1).filterMap fun e => (Tab.find e.2.probes e.1).map fun p => (e.1, p)

/-- Slice k of tile n begins with its start pulse and width code (R223 R224 R225): skipped by the ratio, dark without the LED
supply, as are the slices before it whose pulse was never sent; a probe of slice 0 that is not lit loses its entry (R303 R313). -/
def startSlice (n k : Nat) (s : State) : State :=
  let t := tileOf s n
  let again := decide (k < t.started)
  let skip := if again then t.skipSlices.testBit k
    else decide (t.skipN ≠ 0) && decide ((t.skipCnt + (k - t.started)) % t.skipN = t.skipN - 1)
  let s := if t.enabled then emit (.tsync n ((if k = 0 then 1 else 0) + (if skip then 2 else 0))) s else s
  if again then s
  else
    let dark := !sloOn s || !t.enabled
    let missed := 2 ^ k - 2 ^ t.started
    let first := decide (t.started = 0)
    let t := { t with
      slice := k, started := k + 1, skipCnt := t.skipCnt + (k + 1 - t.started)
      skipSlices := t.skipSlices ||| (if skip then 2 ^ k else 0)
      darkSlices := t.darkSlices ||| missed ||| (if dark then 2 ^ k else 0) }
    putTile s n (if first && (decide (0 < k) || skip || dark) then { t with diag := dropEntries (litProbes t) t.diag } else t)

/-- The cells of a stream as read back, as many as a stream has (R226). -/
def fitCells (c : List (BitVec 16)) : List (BitVec 16) := (c ++ List.replicate (6144 - c.length) 0#16).take 6144

end Sys2Proof.Machine
end

