-- ==== Sys2Proof/Machine/TileOps.lean ====
section
/-! DEFINITION. Operations on tiles and the ledger: enable, identity areas, gains, copies, commits, orphan sets (08). -/

namespace Sys2Proof.Machine

/-- Change tiles and the ledger. -/
def onTiles (f : Tiles → Tiles) (s : State) : State := { s with tiles := f s.tiles }

/-- The ledger taps of a latch-gap start, or of an off instant in a save, are due of every tile that a Frond serves (R46 R276). -/
def markTaps : State → State := fun s =>
  { s with tiles := { s.tiles with tiles := s.tiles.tiles.map fun e => (e.1, { e.2 with tapPend := e.2.present && !e.2.noOwner }) } }

/-- `TILn_STATUS` (R290). -/
def tilStatus (committing : Bool) (t : Tile) : Nat :=
  flag 0 t.present + flag 1 t.enabled + flag 2 (t.phase == .ready) + flag 3 t.released + flag 4 t.mapOk + flag 5 t.curveOk
    + flag 6 t.orphan + flag 7 committing + flag 8 (decide (0 < t.eolBlocks)) + flag 9 (decide (0 < t.ratedBlocks))
    + at_ 10 (match t.cert with | .pending => 0 | .verified => 1 | .failed => 2)

/-- Blocks of a tile (R213). -/
def blocks_ : Nat := 9216

/-- Bytes 4 to 47 of the status record, each field in a byte order (R285). -/
def statusFields (put : Nat → Nat → Bytes) (s : State) (n : Nat) : Bytes :=
  let t := tileOf s n
  let serial := match t.header with | some h => h.serial | none => 0
  put 16 serial ++ put 4 t.gen
    ++ put 8 (((List.range blocks_).map fun b => Tab.get 0 t.t b).sum / 256)
    ++ put 8 ((t.p.map fun e => e.2).sum / 2 ^ 32)
    ++ put 2 t.gMin ++ put 2 t.gMax ++ put 2 t.eolBlocks ++ put 2 t.ratedBlocks

/-- The status record in host memory (R3 R285). -/
def statusRecord (s : State) (n : Nat) : Bytes :=
  toLe 4 (tilStatus (decide (s.tiles.committing = some n)) (tileOf s n)) ++ statusFields toLe s n ++ toLe 16 0

/-- The readback comparison of a tile's next shift is not made (R235). -/
def dropChecks (n : Nat) : Nat → State → State
  | 0, s => s
  | k + 1, s => let s := dropChecks n k s; putStrip s (24 * n + k) { stripOf s (24 * n + k) with held := false }

/-- The conditions of R38 that are not of one tile: self-tests completed, VHOLD ready or no longer awaited. -/
def firstLightOk (s : State) : Bool :=
  !s.power.held && !s.power.vstop && s.safety.a.selftestDone && s.safety.b.selftestDone && (s.power.vholdSeen || s.power.vholdWaived)

/-- `TENn` may be high (R265 R319). -/
def tenAllowed (s : State) (n : Nat) : Bool :=
  let t := tileOf s n
  t.present && t.header.isSome && !t.released && !t.releasing && !t.noOwner && firstLightOk s

/-- `TENn` is judged at a boundary (R265): a rise starts the tile with an uncompared shift (R235). -/
def enableTile (n : Nat) (s : State) : State :=
  let t := tileOf s n
  if tenAllowed s n then
    if t.enabled then s
    else
      let s := dropChecks n 24 (putTile s n { t with
        enabled := true, started := 0, shown := [], latched := [], latchedNow := 0, fresh := 0, sent := none
        diag := { t.diag with last := none, prev := none } })
      match serving s n with
      | some f => putFrond s f { frondOf s f with lastForce := none }
      | none => s
  else if t.enabled then darken n s
  else s

/-! ### Identity areas (R267 to R272) -/

/-- The header of R268, if it passes step 1 of R269. -/
def parseHeader (b : Bytes) : Option Header :=
  if b.length = 256 ∧ le b 0 4 = 0x38335143 ∧ le b 4 2 = 1 ∧ le b 6 2 = 0x0384 ∧ crc32c (b.take 252) = le b 252 4 then
    some { format := le b 4 2, typ := le b 6 2, serial := le b 8 16, kT := le b 24 4, ratedQ := le b 32 8,
           certLen := le b 40 4, mapCrc := le b 44 4, curveCrc := le b 48 4, bytes := b }
  else none

/-- Points of the ageing curve: Q_k in bits [63:16], L_k in bits [15:0] (R272). -/
def parseCurve (b : Bytes) : List (Nat × Nat) := (List.range 16).map fun k => (le b (8 * k) 8 / 65536, le b (8 * k) 2)

/-- Consecutive points obey R272. -/
def curveRises : List (Nat × Nat) → Bool
  | p :: q :: r => decide (p.1 < q.1) && decide (q.2 ≤ p.2) && curveRises (q :: r)
  | _ => true

/-- The curve passes step 2 of R269. -/
def curveOk (h : Header) (b : Bytes) : Bool :=
  let c := parseCurve b
  decide (128 ≤ b.length) && decide (crc32c (b.take 128) = h.curveCrc) && decide (c.head? = some (0, 65535)) && curveRises c

/-- A serial number as 32 upper-case hexadecimal digits (R271). -/
def hex32 (n : Nat) : Bytes :=
  (List.range 32).map fun i => let d := n / 16 ^ (31 - i) % 16; BitVec.ofNat 8 (if d < 10 then 48 + d else 55 + d)

/-- The subject serialNumber, its Varoz extension and its issuer hold (R271 steps 1 to 3). -/
def certOk (s : State) (h : Header) (b : Bytes) : Bool :=
  (Config.certIssuedUnder b Config.fuseTileRoot
    || (match s.boot.tileRoot2 with | some k => Config.certIssuedUnder b k | none => false))
    && decide (Config.certSubjectSerial b = hex32 h.serial)
    && decide (Config.certHeaderHash b = Config.sha256 h.bytes)

/-- A ledger copy as read (R277): valid when its `MAGIC`, `SERIAL` and `CRC` hold. -/
def parseCopy (serial : Nat) (b : Bytes) : Option Copy :=
  let h := b.drop 73728
  if b.length = 73792 ∧ le h 0 4 = 0x4547444C ∧ le h 8 16 = serial ∧ crc32c (b.take 73788) = le h 60 4 then
    some { gen := le h 4 4, time := le h 24 8
           entries := (List.range blocks_).filterMap fun k => let v := le b (8 * k) 8; if v = 0 then none else some (k, v) }
  else none

/-- The bytes of a ledger copy (R277). -/
def copyBytes (serial : Nat) (c : Copy) : Bytes :=
  let body := (List.range blocks_).flatMap fun k => toLe 8 (Tab.get 0 c.entries k)
  let h := toLe 4 0x4547444C ++ toLe 4 c.gen ++ toLe 16 serial ++ toLe 8 c.time ++ toLe 28 0
  body ++ h ++ toLe 4 (crc32c (body ++ h))

/-- The newest valid copy (R277). -/
def newest (t : Tile) : Option Copy :=
  match t.copyA, t.copyB with
  | some a, some b => if b.gen < a.gen then some a else some b
  | some a, none => some a
  | none, b => b

/-- The other valid copy. -/
def other (t : Tile) : Option Copy :=
  match t.copyA, t.copyB with
  | some a, some b => if b.gen < a.gen then some b else some a
  | _, _ => none

/-! ### Charge (R273 R276) -/

/-- Q_b in 2^-32 nC: T_b + P_b (R273). -/
def charge (t : Tile) (b : Nat) : Nat := Tab.get 0 t.t b * 2 ^ 24 + Tab.get 0 t.p b

/-- T_b + P_b in the format of R277. -/
def chargeEntry (t : Tile) (b : Nat) : Nat := charge t b / 2 ^ 24

/-- Gain and end of life of a total in whole nC (R273). -/
def gainOf (curve : List (Nat × Nat)) (q : Nat) : Nat × Bool :=
  let pt := fun k => curve.getD k (0, 0)
  let k := if (pt 15).1 ≤ q then 14 else ((List.range 15).filter fun k => decide ((pt k).1 ≤ q)).getLastD 0
  let a := pt k
  let b := pt (k + 1)
  let l : Int := (a.2 : Int) + (((b.2 : Int) - a.2) * ((q : Int) - a.1)) / ((b.1 : Int) - a.1)
  let l := (max l 1).toNat
  let need := (32768 * (pt 0).2 + l / 2) / l
  (min need 65535, decide (65535 < need))

/-- Post one `LEDGER_EOL` event with `LDG_EOL`, once per tile and reason (R275); a `LEDGER_REPORT` is due (R487). -/
def postEol (n serial reason block : Nat) (s : State) : State :=
  if s.tiles.eolPosted.contains (serial, reason) then s
  else
    let s := onTiles (fun t => { t with eolPosted := (serial, reason) :: t.eolPosted }) s
    let s := { s with chain := { s.chain with report := s.chain.report + 1 } }
    raise 463 (postEvent 5 (reason * 256 + n) block (serial % 2 ^ 32) s)

/-- The gains of a tile are computed and wait for the flip gate; end of life is judged (R273 R274 R275). -/
def computeGains (n : Nat) (s : State) : State :=
  let t := tileOf s n
  match t.header with
  | none => s
  | some h =>
    let q := fun b => charge t b / 2 ^ 32
    let gs := if t.curveOk then (List.range blocks_).map fun b => gainOf t.curve (q b) else List.replicate blocks_ (32768, false)
    let eol := (List.range blocks_).filter fun b => (gs.getD b (0, false)).2
    let rated := (List.range blocks_).filter fun b => decide (h.ratedQ < q b)
    let s := putTile s n { t with eolBlocks := eol.length, ratedBlocks := rated.length }
    let s := match eol.head? with | some b => postEol n h.serial 1 b s | none => s
    let s := match rated.head? with | some b => postEol n h.serial 2 b s | none => s
    { s with cmp := { s.cmp with gate := s.cmp.gate ++ [(true, .gains n (gs.map fun g => g.1))] } }

/-! ### Orphan sets (R281 R282 R604) -/

/-- Add two sparse tables. -/
def addTab (a b : Tab Nat) : Tab Nat := b.foldl (fun t e => Tab.put t e.1 (Tab.get 0 t e.1 + e.2)) a

/-- Add parts of the same form. -/
def addPart : Option (Tab Nat) → Option (Tab Nat) → Option (Tab Nat)
  | some a, some b => some (addTab a b)
  | some a, none => some a
  | none, b => b

/-- An orphan set joins the journal (R282): merged into the set of its serial, or as a new one; a ninth replaces the oldest. -/
def addOrphan (o : Orphan) (j : Journal) : Journal × Bool :=
  if j.orphans.any fun x => x.serial == o.serial then
    ({ j with orphans := j.orphans.map fun x =>
        if x.serial = o.serial then
          { x with block := addPart x.block o.block, group := addPart x.group o.group }
        else x }, false)
  else
    let left := if 8 ≤ j.orphans.length then j.orphans.drop 1 else j.orphans
    let place := ((List.range 8).find? fun k => !left.any fun x => x.place == k).getD 0
    ({ j with orphans := left ++ [{ o with place }] }, decide (8 ≤ j.orphans.length))

/-- The journal offset of an orphan set: eight places of 148 records (R604; notes/assumptions/13). -/
def orphanOffset (o : Orphan) : Nat := 148 * 512 * o.place

/-- Records of an orphan set (R604). -/
def orphanRecs (o : Orphan) : Nat := 1 + (if o.block.isSome then 144 else 0) + (if o.group.isSome then 3 else 0)

/-- Journal records that nothing overwrites until they are applied or cleared (R534): orphan sets, the two records of each saved
tile, the shutdown record. -/
def keptRecs (s : State) : Nat :=
  (s.journal.orphans.map orphanRecs).sum + 2 * s.journal.saved.length + (if s.nvm.shutdown.isSome then 1 else 0)

/-- A full journal overwrites its oldest fault-log copies (R530 R534): 2 048 records in all. -/
def trimCopies (s : State) : State :=
  { s with nvm := { s.nvm with logCopies := s.nvm.logCopies.drop (s.nvm.logCopies.length + keptRecs s - 2048) } }

/-- An orphan set joins the journal (R534); `LDG_ORPHAN_LOST` if one is replaced (R282). -/
def makeOrphan (o : Orphan) (s : State) : State :=
  let x := addOrphan o s.journal
  let s := trimCopies { s with journal := x.1 }
  if x.2 then raise 462 s else s

/-- P_b of a tile in the format of R277, by block, where not 0. -/
def pendingEntries (p : Tab Nat) : Tab Nat := (p.map fun e => (e.1, e.2 / 2 ^ 24)).filter fun e => e.2 != 0

/-- Group of a block: 8 × 8 blocks (R283). -/
def groupOfBlock (b : Nat) : Nat := b / 96 / 8 * 12 + b % 96 / 8

/-- Blocks of a group (R283). -/
def groupBlocks (g : Nat) : List Nat :=
  (List.range 64).map fun i => (g / 12 * 8 + i / 8) * 96 + g % 12 * 8 + i % 8

/-- What the `GEN` rule of R281 decides. -/
inductive GenRule where
  | nothing | subtract | poison
deriving DecidableEq, Repr

/-- The `GEN` rule (R281). -/
def genRule (gen : Nat) (commit : Option Nat) (t : Tile) : GenRule :=
  match commit with
  | none => .nothing
  | some time =>
    let hit := fun c : Option Copy => match c with | some c => decide (c.gen = gen + 1) && decide (c.time = time) | none => false
    match newest t with
    | none => .poison
    | some c =>
      if decide (gen ≤ c.gen) && decide (c.gen ≤ gen + 2) && !hit t.copyA && !hit t.copyB then .nothing
      else if hit (some c) then
        (match other t with | some o => if o.gen = gen then .subtract else .poison | none => .poison)
      else .poison

/-- The increase of a block between the two copies, in 1/256 nC (R281 R283). -/
def increase (t : Tile) (b : Nat) : Nat :=
  match newest t, other t with
  | some c, some o => Tab.get 0 c.entries b - Tab.get 0 o.entries b
  | _, _ => 0

/-- Largest remainders (R283): divide `total` over weights so that the parts sum to it; the lower index wins a tie. -/
def divide (total : Nat) (ws : List Nat) : List Nat :=
  let ws := if ws.sum = 0 then ws.map (fun _ => 1) else ws
  let sum := ws.sum
  let base := ws.map fun w => total * w / sum
  let rem := ws.map fun w => total * w % sum
  let left := total - base.sum
  base.mapIdx fun i v =>
    let r := rem.getD i 0
    let before := ((rem.mapIdx fun j x => (j, x)).filter fun e => decide (r < e.2) || (decide (e.2 = r) && decide (e.1 < i))).length
    if before < left then v + 1 else v

/-- Add charge to P_b of a tile. -/
def addPending (t : Tile) (b v : Nat) : Tile := if v = 0 then t else { t with p := Tab.put t.p b (Tab.get 0 t.p b + v) }

/-- Every block of a tile. -/
def allBlocks : List Nat := List.range blocks_

/-- Blocks are recorded as poisoned in the journal, under a serial and its `GEN` (R30). -/
def poisonBlocks (serial gen : Nat) (bs : List Nat) (s : State) : State :=
  if bs.isEmpty then s else { s with journal := { s.journal with poison := s.journal.poison ++ [{ serial, gen, blocks := bs }] } }

/-- Apply a block-form part, in 2^-32 nC, less what of it reached the tile by `sub` (R281). -/
def applyBlocks (sub : Bool) (p : Tab Nat) (t : Tile) : Tile :=
  p.foldl (fun t e => addPending t e.1 (e.2 - (if sub then increase t e.1 * 2 ^ 24 else 0))) t

/-- Apply one group sum in whole nC (R281 R283). -/
def applyGroupSum (sub : Bool) (t : Tile) (e : Nat × Nat) : Tile :=
  let bs := groupBlocks e.1
  let inc := bs.map (increase t)
  let total := e.2 * 256 - (if sub then inc.sum else 0)
  (bs.zip (divide total inc)).foldl (fun t x => addPending t x.1 (x.2 * 2 ^ 24)) t

/-- Apply group sums (R283). -/
def applyGroups (sub : Bool) (g : Tab Nat) (t : Tile) : Tile := g.foldl (applyGroupSum sub) t

/-- Retained words read with an uncorrectable error: what they hold is open (R280). -/
def loseRetained : List Nat → Tab Nat → State → Tab Nat × State
  | [], p, s => (p, s)
  | b :: r, p, s => let x := freshFree s; loseRetained r (Tab.put p b x.1.toNat) x.2

/-- Apply one retained charge of a position (R280 R281), or make it an orphan set of its serial. -/
def applyRetained1 (n : Nat) (bad : List Nat) (r : Retained) (s : State) : State :=
  let s := poisonBlocks r.serial r.gen bad s
  let y := loseRetained bad r.p s
  let s := y.2
  let t := tileOf s n
  if t.present ∧ (t.header.map fun h => h.serial) = some r.serial then
    let rule := genRule r.gen r.commitTime t
    let s := if rule = .poison then poisonBlocks r.serial r.gen allBlocks s else s
    putTile s n { applyBlocks (decide (rule = .subtract)) y.1 t with orphan := true, commitReq := true }
  else if y.1.isEmpty then s
  else makeOrphan { serial := r.serial, gen := r.gen, commitTime := r.commitTime, block := some (pendingEntries y.1) } s

/-- Apply several retained charges of a position; the words in error are those of the last. -/
def applyRetaineds (n : Nat) (bad : List Nat) : List Retained → State → State
  | [], s => s
  | r :: rs, s => applyRetaineds n bad rs (applyRetained1 n (if rs.isEmpty then bad else []) r s)

/-- Apply the retained charge of a position at its step 3, or settle it where no tile is present (R280). -/
def applyRetained (n : Nat) (bad : List Nat) (s : State) : State :=
  applyRetaineds n bad (s.journal.retained.filter fun r => r.pos == n)
    { s with journal := { s.journal with retained := s.journal.retained.filter fun r => r.pos != n } }

/-- The retained charge of positions found without a tile when firmware starts becomes orphan sets (R280). DESIGN CHOICE
(notes/assumptions/77): the start of firmware is the instant at which a position counts as empty. -/
def settleRetained : Nat → State → State
  | 0, s => s
  | n + 1, s => let s := settleRetained n s; if (tileOf s n).present then s else applyRetained n [] s

/-- Apply one save's group sums for a position (R283), or make them an orphan set of the saved serial. -/
def applySaved1 (n : Nat) (v : SavedTile) (s : State) : State :=
  let t := tileOf s n
  let s := poisonBlocks v.serial v.gen (v.poisoned.flatMap groupBlocks) s
  let s := onTiles (fun k => { k with savePoison := k.savePoison || !v.poisoned.isEmpty }) s
  if t.present ∧ (t.header.map fun h => h.serial) = some v.serial then
    let rule := genRule v.gen v.commitTime t
    let s := if rule = .poison then poisonBlocks v.serial v.gen (v.group.flatMap fun g => groupBlocks g.1) s else s
    onTiles (fun k => { k with
        saveApplied := true, saveGroups := if v.old then k.saveGroups else min 2047 (k.saveGroups + v.group.length) })
      (putTile s n { applyGroups (decide (rule = .subtract)) v.group t with commitReq := true })
  else makeOrphan { serial := v.serial, gen := v.gen, commitTime := v.commitTime, commitGroup := v.commitTime.isSome,
                    group := some v.group } s

/-- Apply several saves of a position. -/
def applySaveds (n : Nat) : List SavedTile → State → State
  | [], s => s
  | v :: r, s => applySaveds n r (applySaved1 n v s)

/-- Apply the group sums that saves left for this position (R283). -/
def applySaved (n : Nat) (s : State) : State :=
  applySaveds n (s.journal.saved.filter fun x => x.pos == n)
    { s with journal := { s.journal with saved := s.journal.saved.filter fun x => x.pos != n } }

/-- Apply the orphan set of the tile's serial (R281): the commit record holds of the part it belongs to. -/
def applyOrphan (n : Nat) (s : State) : State :=
  let t := tileOf s n
  match t.header with
  | none => s
  | some h =>
    match s.journal.orphans.find? (fun o => o.serial == h.serial) with
    | none => s
    | some o =>
      let s := { s with journal := { s.journal with orphans := s.journal.orphans.filter fun x => x.serial != h.serial } }
      let rule := genRule o.gen o.commitTime t
      let ofGroup := o.commitGroup || o.block.isNone
      let sub := decide (rule = .subtract)
      let t' := match o.block with | some b => applyBlocks (sub && !ofGroup) (b.map fun e => (e.1, e.2 * 2 ^ 24)) t | none => t
      let t' := match o.group with | some g => applyGroups (sub && ofGroup) g t' | none => t'
      let s := if rule = .poison then
          poisonBlocks o.serial o.gen (if o.block.isSome then allBlocks else (o.group.getD []).flatMap fun g => groupBlocks g.1) s
        else s
      putTile s n { t' with orphan := true, commitReq := true }

/-- The ledger across a chip reset, by its cause (R280): kept, poisoned, or given up. What a save carried of retained charge is
given up with it (R283). -/
def ledgerAtReset (c : Cause) (s : State) : Journal :=
  let j := s.journal
  match c with
  | .pin | .stuck | .soft =>
    { j with retained := j.retained ++ (List.range 8).filterMap fun n =>
        let t := tileOf s n
        match t.ledSerial with
        | some serial =>
          if t.p.isEmpty then none else some { pos := n, serial, gen := t.gen, p := t.p, commitTime := t.commit.map fun k => k.time }
        | none => none }
  | .rail =>
    { j with
      retained := []
      poison := j.poison ++ (j.retained.map fun r => { serial := r.serial, gen := r.gen, blocks := allBlocks })
        ++ (List.range 8).filterMap fun n =>
          let t := tileOf s n
          match t.header with
          | some h => if t.present ∧ ¬ t.released then some { serial := h.serial, gen := t.gen, blocks := allBlocks } else none
          | none => none }
  | _ => { j with retained := [] }

/-! ### Commits (R278 R279) -/

/-- A copy is written to the tile: 0x10_0000 copy A, 0x12_0000 copy B, of the identity element (R261 R267 R278). -/
def writeCopy (n : Nat) (c : Commit) (s : State) : State :=
  emit (.tileBusWrite n 0x52 (if c.toA then 0x100000 else 0x120000)
    (copyBytes c.serial { gen := c.gen, time := c.time, entries := c.entries })) s

/-- The commit of a tile starts with its snapshot (R278 R280). -/
def startCommit (n : Nat) (s : State) : State :=
  let t := tileOf s n
  match t.header with
  | none => s
  | some h =>
    let toA := match t.copyA, t.copyB with
      | none, _ => true
      | some _, none => false
      | some a, some b => decide (a.gen ≤ b.gen)
    let gen := match newest t with | some c => c.gen + 1 | none => 1
    let entries := allBlocks.filterMap fun b => let v := chargeEntry t b; if v = 0 then none else some (b, v)
    let snap := (t.p.map fun e => (e.1, e.2 / 2 ^ 24 * 2 ^ 24)).filter fun e => e.2 != 0
    let c : Commit := { serial := h.serial, snap, entries, toA, gen, time := (stampOf (outTime s)).sec, final := t.releasing }
    let s := putTile s n { t with commit := some c, commitReq := false }
    let s := onTiles (fun k => { k with
      committing := some n
      waits := k.waits.map fun w => if w.tiles.testBit n then { w with armed := w.armed ||| 2 ^ n } else w }) s
    writeCopy n c s

/-- Start the commit of the lowest position that wants one, if none runs and its tap is in (R278); a save starts none (R47). -/
def nextCommit (s : State) : State :=
  if s.tiles.committing.isSome || s.power.saving then s
  else match (List.range 8).find? (fun n => let t := tileOf s n; t.commitReq && t.present && t.baseKnown) with
    | none => s
    | some n => if (tileOf s n).tapPend then s else startCommit n s

/-- `LEDGER_COMMIT` descriptors whose last commit has ended complete (R288). -/
def finishWaits : List CommitWait → State → State
  | [], s => s
  | w :: r, s =>
    finishWaits r (if w.tiles = 0 then
      complete w.id (if w.ok then stOK else stCHECK) [] (onTiles (fun k => { k with waits := k.waits.filter fun x => x.id != w.id }) s)
    else s)

/-- A requested commit of a tile has ended, or will never be made (R288). -/
def endWaits (n : Nat) (ok all : Bool) (s : State) : State :=
  let s := onTiles (fun k => { k with waits := k.waits.map fun w =>
    if (all && w.tiles.testBit n) || w.armed.testBit n then
      { w with tiles := putBit w.tiles n false, armed := putBit w.armed n false, ok := w.ok && ok }
    else w }) s
  finishWaits s.tiles.waits s

/-- In-flight `TILE_CMD` descriptors of a command that wait at a position (R284). -/
def tileWaits (s : State) (n cmd : Nat) : List Nat :=
  (s.rings.inflight.filter fun d => d.taken && le d.bytes 0 1 == 0x20 && le d.bytes 16 1 == n && le d.bytes 17 1 == cmd).map fun d => d.id

/-- Complete several descriptors with one status. -/
def completeAll (st : Nat) : List Nat → State → State
  | [], s => s
  | id :: r, s => completeAll st r (complete id st [] s)

/-- The `RELEASE` commands that wait at a position end, with the tile released if it still is to be (R286). -/
def endRelease (n : Nat) (ok : Bool) (s : State) : State :=
  completeAll (if ok then stOK else stCHECK) (tileWaits s n 1)
    (updTile n (fun t => { t with released := t.released || t.releasing, releasing := false }) s)

/-- The commit of a tile ends (R278 R286): the final one of a release ends that too. -/
def endCommit (n : Nat) (ok : Bool) (s : State) : State :=
  let t := tileOf s n
  let final := match t.commit with | some c => c.final | none => false
  let s := onTiles (fun k => { k with committing := none, failed := putBit k.failed n (!ok) })
    (putTile s n { t with commit := none, commitFailed := !ok })
  let s := if ok then s else raise 461 s
  let s := endWaits n ok false s
  if final then endRelease n ok s else s

/-- The read-back of a commit (R278): T_b becomes what the copy holds and the snapshot leaves P_b, or the commit is repeated once,
or it fails. -/
def judgeCommit (n : Nat) (good : Bool) (s : State) : State :=
  let t := tileOf s n
  match t.commit with
  | some c =>
    if good then
      let copy : Copy := { gen := c.gen, time := c.time, entries := c.entries }
      endCommit n true (putTile s n { t with
        t := c.entries, p := (t.p.map fun e => (e.1, e.2 - Tab.get 0 c.snap e.1)).filter fun e => e.2 != 0
        gen := c.gen, time := c.time
        copyA := if c.toA then some copy else t.copyA, copyB := if c.toA then t.copyB else some copy })
    else if c.repeated then endCommit n false s
    else writeCopy n c (putTile s n { t with commit := some { c with repeated := true } })
  | none => s

/-! ### Presence and the identity steps (R264 R269 R270) -/

/-- A `TILE_PRESENCE` event (R289). -/
def postPresence (n kind serial : Nat) (s : State) : State :=
  postEvent 4 (kind * 256 + n) (serial % 2 ^ 32) (serial / 2 ^ 32 % 2 ^ 32) s

/-- The serial number in a header as read; 0 if none was read (R289). -/
def readSerial (t : Tile) : Nat := le t.headerBytes 8 16

/-- The tile is read again from step 1 (R269); `ORPHAN` goes on telling of the last insertion (R290). -/
def startRead1 (n : Nat) (rescan : Bool) (s : State) : State :=
  emit (.tileBusRead n 0x52 0 256) (updTile n (fun t => { t with
    phase := .header, rescan, mapOk := false, curveOk := false, cert := .pending, orphan := rescan && t.orphan, composed := false
    baseKnown := false, attempts := 0 }) s)

/-- Step 1 has failed (R264 R265 R269): the tile stays disabled, and what waited for its readiness completes. -/
def headerBad (n : Nat) (s : State) : State :=
  let s := raise (424 + n) (updTile n (fun t => { t with header := none, phase := .none }) (darken n s))
  let s := postPresence n 4 (readSerial (tileOf s n)) s
  completeAll stCHECK (tileWaits s n 2 ++ tileWaits s n 6) s

/-- Step 2 begins, once firmware runs: the curve is read (R267 R269). -/
def readCurve (n : Nat) (s : State) : State :=
  if s.nvm.running && (tileOf s n).phase == .curve then emit (.tileBusRead n 0x52 0x100 132) s else s

/-- Firmware has started: step 2 begins at the positions that wait for it (R269). -/
def readCurves : Nat → State → State
  | 0, s => s
  | n + 1, s => readCurve n (readCurves n s)

/-- Step 3 begins: the headers of both ledger copies are read (R267 R269). -/
def readHeads (n : Nat) (s : State) : State :=
  emit (.tileBusRead n 0x52 0x132000 64) (emit (.tileBusRead n 0x52 0x112000 64) (updTile n (fun t => { t with phase := .heads }) s))

/-- A copy's header names it as one of the tile's, and its `GEN` (R277). -/
def headGen (serial : Nat) (b : Bytes) : Option Nat :=
  if le b 0 4 = 0x4547444C ∧ le b 8 16 = serial then some (le b 4 4) else none

/-- The copies are read in full, the newer by its header first. DESIGN CHOICE (notes/assumptions/77): the other is read as well,
since R281 and R283 judge by both. -/
def readCopies (n serial : Nat) (a b : Bytes) (s : State) : State :=
  let ra := Output.tileBusRead n 0x52 0x100000 73792
  let rb := Output.tileBusRead n 0x52 0x120000 73792
  let bFirst := match headGen serial a, headGen serial b with
    | some x, some y => decide (x < y)
    | none, some _ => true
    | _, _ => false
  let s := updTile n (fun t => { t with phase := .ledger }) s
  if bFirst then emit ra (emit rb s) else emit rb (emit ra s)

/-- Step 4 begins: the certificate is read (R267 R271). -/
def readCert (n : Nat) (h : Header) (s : State) : State :=
  emit (.tileBusRead n 0x52 0x400 h.certLen) (updTile n (fun t => { t with phase := .cert }) s)

/-- The tile becomes ready (R270): gains and map go to the flip gate, the event is posted, waiting commands complete. -/
def tileReady (n : Nat) (s : State) : State :=
  let t := tileOf s n
  let serial := match t.header with | some h => h.serial | none => 0
  let s := putTile s n { t with phase := .ready }
  let s := { s with cmp := { s.cmp with gate := s.cmp.gate ++ [(true, if t.mapOk then .map n t.mapRead else .mapOff n)] } }
  let s := postPresence n 1 serial (computeGains n s)
  completeAll stOK (tileWaits s n 2 ++ tileWaits s n 6) s

/-- Step 4 of R269 ends (R271), and step 5 reads the map. -/
def endCert (n : Nat) (ok : Bool) (s : State) : State :=
  let s := updTile n (fun t => { t with cert := if ok then .verified else .failed, phase := .map }) s
  let s := emit (.tileBusRead n 0x52 0x1000 147456) s
  if ok then s else raise (416 + n) s

/-- An identity step fails on the tile bus (R261 R269). -/
def busFail (n : Nat) (s : State) : State :=
  match (tileOf s n).phase with
  | .header => headerBad n (updTile n (fun t => { t with headerBytes := [] }) s)
  | .curve => readHeads n (raise (424 + n) (updTile n (fun t => { t with curveOk := false, curve := [] }) s))
  | .heads | .ledger => raise (424 + n) (updTile n (fun t => { t with phase := .stuck }) s)
  | .cert | .challenge => endCert n false s
  | .map => tileReady n (raise (424 + n) (updTile n (fun t => { t with mapOk := false, mapRead := [] }) s))
  | _ => s

/-- A write of a quarantined Frond is discarded; the first in each quarantine raises `FROND_STALE` (R320). -/
def fencedWrite (f : Nat) (s : State) : State :=
  if (frondOf s f).staleSeen then s else raise 210 (putFrond s f { frondOf s f with staleSeen := true })

end Sys2Proof.Machine
end

