-- ==== Sys2Proof/Machine/Reset.lean ====
section
/-! DEFINITION. The chip reset (R52 to R57) and the host-island reset (R73 to R75). -/

namespace Sys2Proof.Machine

/-- The bit of a cause in `PWR_RST_CAUSE` (R64). -/
def causeBit : Cause → Nat
  | .por => 0 | .pin => 1 | .stuck => 2 | .sag => 3 | .therm => 4 | .rail => 5 | .soft => 6

/-- Boot values in force after a reset (R5 R554): as delivered, or those of the written configuration partition. -/
def loadBoot (s : State) : BootCfg :=
  let m := s.nvm.pages.filter fun e => decide (6272 ≤ e.1) && decide (e.1 < 7295)
  if m.isEmpty then {} else Config.bootCfg (m.map fun e => (e.1, e.2.bytes))

/-- What holds the chip in reset (R36 R48 R49 R54 R55 R433): the power-on reset, a low `RESET_N` that is honoured, the thermal
latch, a save, and the wait for `VIN` after it. -/
def holds (p : Power) : Bool := p.por || (p.pinLow && !p.pinIgnored) || p.thermLatch || p.saving || p.awaitVin

/-- The bits of several causes in `PWR_RST_CAUSE` (R64). -/
def causeBits (l : List Cause) (v : Nat) : Nat := l.foldl (fun v c => v ||| 2 ^ causeBit c) v

/-- A chip reset of a cause (R52 R53): every island except Lichen returns to its reset state. The journal and the NVM
partitions stay, and so does a shutdown record that the NVM controller has yet to write (R434); the caller lets a record in progress
complete first (R532). The ledger is kept, orphaned or poisoned by the cause (R280); a nonce is never
used again (R271). Resets that were waiting take effect with it. The
chip restarts at once unless something holds it. -/
def chipReset (c : Cause) (s : State) : State :=
  let b := loadBoot s
  let r := State.ofBoot b
  { r with
    pending := s.pending
    outputs := s.outputs
    lanes := s.lanes
    freeCtr := s.freeCtr
    nvm := { r.nvm with
      pages := s.nvm.pages, seq := s.nvm.seq, record := s.nvm.record, logCopies := s.nvm.logCopies
      shutdown := s.nvm.shutdown, saveCut := s.nvm.saveCut, badPages := s.nvm.badPages
      queue := s.nvm.queue.filter fun q => q.why == .shutdown }
    journal := ledgerAtReset c s
    tiles := { r.tiles with nextNonce := s.tiles.nextNonce }
    cmp := { r.cmp with cache := s.cmp.cache }
    power := { s.power with
      held := holds s.power, rstPend := []
      causes := causeBits (c :: s.power.rstPend) s.power.causes
      shedEn := true, vholdWaived := false, vholdSeen := s.power.vholdRdy } }

/-- A reset that lets an NVM record in progress end first (R54 R57). -/
def requestReset (c : Cause) (s : State) : State :=
  if nvmBusy s then { s with power := { s.power with rstPend := s.power.rstPend ++ [c] } } else chipReset c s

/-- The reset release instant (R36 R49 R55): nothing holds the chip any more. -/
def release_ (svcEnN : Bool) (s : State) : State :=
  if s.power.held && !holds s.power then
    { s with power := { s.power with held := false, svcEn := !svcEnN, clkreqLow := true, vholdSeen := s.power.vholdRdy } }
  else s

/-- Every outstanding and unissued request of a layer fetch fails while DMA is blocked (R74 R602). -/
def layersOfReads (rs : List ReadItem) : List Nat :=
  rs.filterMap fun r => match r.who with | .layer l => some l | _ => none

/-- An item's read fails for good or is repeated (R77 R79 R114 R146 R162); its other requests are abandoned by the caller. A
fetch whose data is to be discarded is not made again (R131). -/
def failItem (r : ReadItem) (s : State) : State :=
  let again := { r with repeated := true, chunks := r.chunks.map fun c => { c with tag := none, data := none } }
  let put (x : ReadItem) : State := { s with link := { s.link with reads := s.link.reads.map fun y => if y.id = r.id then x else y } }
  let drop : State := { s with link := { s.link with reads := s.link.reads.filter fun y => y.id != r.id } }
  match r.who with
  | .fetch _ _ 0 => drop
  | .desc id => if r.repeated then updDesc id (fun d => { d with failed := true }) drop else put again
  | .fenceTable id => if r.repeated then complete id stPOISON [] drop else put again
  | .fetch _ _ _ => if r.repeated then raise 470 (put { again with failed := true }) else put again
  | .layer l =>
    match drop.cmp.comp with
    | none => drop
    | some c => if l = 63 then drop else { drop with cmp := { drop.cmp with comp := some { c with failed := l :: c.failed } } }
  | .fence _ _ => put { again with failed := true }
  | .stallProbe _ => drop

/-- Fail every item of a list, in order. -/
def failItems : List ReadItem → State → State
  | [], s => s
  | r :: rs, s => failItems rs (failItem r s)

/-- A host-island reset (R73 R78): link and configuration space return to reset, every request outstanding counts as
failed (R602), every abandoned mark clears; an uncommanded one raises `HOST_LINK_DOWN` (R102). -/
def hostReset (commanded : Bool) (s : State) : State :=
  let bad := s.link.reads.filter fun r =>
    (r.chunks.any fun c => c.tag.isSome) || (match r.who with | .layer _ => true | .fence _ _ => true | .stallProbe _ => true | _ => false)
  let l : Link := { resets := min 7 (s.link.resets + 1), reads := s.link.reads, nextItem := s.link.nextItem, lateCpl := s.link.lateCpl }
  let s := failItems bad { s with link := l }
  if commanded then s else raise 464 s

end Sys2Proof.Machine
end

