-- ==== Sys2Proof/Machine/SafetyOps.lean ====
section
/-! DEFINITION. Operations of the safety channels: the LED supply off, permits, the exchange, demands, the safety set, the
diverse radiance (10). -/

namespace Sys2Proof.Machine

/-- Change the safety island. -/
def onSaf (f : Safety → Safety) (s : State) : State := { s with safety := f s.safety }

/-- Change one channel. -/
def updChan (c : Chan) (f : Channel → Channel) (s : State) : State := putChan s c (f (chanOf s c))

/-! ### The LED supply goes off (R28 R46 R313) -/

/-- The supply of the tiles goes off: the off instant of the slice shown, and every repayment cancelled (R28 R313). -/
def supplyGone : Nat → State → State
  | 0, s => s
  | n + 1, s => cancelRepay n (lightEnds n (supplyGone n s))

/-- In a save the off instant is the latch-gap start of the current frame: its taps are due, then the Fronds stop (R46). -/
def stopFronds (s : State) : State :=
  if s.strip.stopped then s
  else
    let s := if s.frm.inGap then s else markTaps s
    { s with strip := { s.strip with stopped := true } }

/-- Channel c holds its output low: an output test in progress loses its verdict (R342); the supply goes off with the first
of the two, and in a save that instant stops the Fronds (R46). -/
def sloOff (c : Chan) (s : State) : State :=
  let was := sloOn s
  let s := updChan c (fun x => { x with slo := false, outDiscard := x.outDiscard || x.outTest }) s
  if was then (if s.power.saving then stopFronds (supplyGone 8 s) else supplyGone 8 s) else s

/-- Both outputs low. -/
def lightOff (s : State) : State := sloOff .b (sloOff .a s)

/-- Every `TENn` low at once (R24: the light is Off). -/
def tensOff : Nat → State → State
  | 0, s => s
  | n + 1, s =>
    darken n (tensOff n s)

/-! ### Permits and demands (R332 R333 R335 R337) -/

/-- A channel knows a demand or holds a discrepancy. -/
def chanBlocked (x : Channel) : Bool := x.demHatch || x.demEstop || x.discHatch || x.discEstop

/-- The conditions of R333 that lie in one channel. -/
def ownPermit (s : State) (c : Chan) : Bool :=
  let x := chanOf s c
  x.selftestOk && decide (s.safety.src ≠ 0) && !chanBlocked x && !unackFrom s 3 && !x.xcmp && !x.differs && !x.severeLine
    && !s.power.held && !s.power.vstop && !s.power.thermLatch

/-- A discrepancy of a pair is latched in either channel (R336). -/
def pairDisc (s : State) (p : Pair) : Bool :=
  match p with
  | .hatch => s.safety.a.discHatch || s.safety.b.discHatch
  | .estop => s.safety.a.discEstop || s.safety.b.discEstop

/-- A pair is in demand from the first judgement in either channel (R335), and while a discrepancy is latched (R336). -/
def pairDemand (s : State) (p : Pair) : Bool :=
  pairDisc s p || (match p with
  | .hatch => s.safety.a.demHatch || s.safety.b.demHatch
  | .estop => s.safety.a.demEstop || s.safety.b.demEstop)

/-- Fault slot of a pair (R370). -/
def pairSlot : Pair → Nat
  | .hatch => 488
  | .estop => 489

/-- A pair's demand begins: it is counted and raised once; a hatch demand counts for the restart (R335 R337 R367). -/
def demandBegins (p : Pair) (s : State) : State :=
  if pairDemand s p then s
  else
    condOn (pairSlot p) (onSaf (fun f => match p with
      | .hatch => { f with cntHatch := satAdd 65535 f.cntHatch 1, hatchSince := f.hatchSince || f.a.released || f.b.released }
      | .estop => { f with cntEstop := satAdd 65535 f.cntEstop 1 }) s)

/-- A stop pressed, also again while its restart is awaited: what was awaited starts anew with the next release (R337). -/
def stopAgain (p : Pair) (s : State) : State :=
  match p with
  | .hatch => s
  | .estop => onSaf (fun f => { f with hatchSince := false, awaited := none }) s

/-- Channel c knows a pair in demand and drives its output low (R335). -/
def setDemand (c : Chan) (p : Pair) (s : State) : State :=
  sloOff c (updChan c (fun x => match p with
    | .hatch => { x with demHatch := true }
    | .estop => { x with demEstop := true, released := false }) (stopAgain p (demandBegins p s)))

/-- The demand signal to a channel (R335). -/
def sendSignal (c : Chan) (p : Pair) (s : State) : State :=
  updChan c (fun x => match p with | .hatch => { x with sigHatch := true } | .estop => { x with sigEstop := true }) s

/-- Every channel that knows the emergency stop in demand has seen its release (R337). -/
def estopReleased (s : State) : Bool :=
  (!s.safety.a.demEstop || s.safety.a.released) && (!s.safety.b.demEstop || s.safety.b.released)

/-- The restart code that the set in force gives: code 1 without an enabled hatch pair is code 2 (R337). -/
def setCode (s : State) : Nat :=
  let r := setRestart s.safety.inForce
  if r = 1 ∧ pairOn s .hatch = false then 2 else r

/-- The restart code that applies: the one awaited, which a new set carries over unchanged (R361), else the set's.
DEDUCED (notes/assumptions/78): a condition is carried over once it is awaited. -/
def restartCode (s : State) : Nat := s.safety.awaited.getD (setCode s)

/-- The emergency-stop demand ends in both channels (R337). -/
def endEstop (s : State) : State :=
  let f := fun (x : Channel) => { x with demEstop := false, released := false }
  condOff 489 (onSaf (fun k => { k with a := f k.a, b := f k.b, hatchSince := false, awaited := none }) s)

/-- `SAF_STATUS.RESTART_WAIT` (R337): released, and the restart condition awaited. -/
def restartWait (s : State) : Bool := pairDemand s .estop && !pairDisc s .estop && estopReleased s

/-- A channel receives a message: the link is healthy; a difference holds until an exchange shows none (R332). -/
def linkSeen (agree : Bool) (x : Channel) : Channel := { x with xcmp := false, differs := x.differs && !agree }

/-- A cross-link exchange (R332 R333): the outputs rise together when both channels permit. -/
def exchange (agree : Bool) (s : State) : State :=
  let s := onSaf (fun f => { f with a := linkSeen agree f.a, b := linkSeen agree f.b }) s
  if ownPermit s .a && ownPermit s .b then
    onSaf (fun f => { f with a := { f.a with slo := true }, b := { f.b with slo := true } }) s
  else lightOff s

/-! ### The safety set (R354 R355) -/

/-- Range check of a field: cause 2 and its offset. -/
def fieldIn (b : Bytes) (off len lo hi : Nat) : Option (Nat × Nat) :=
  if lo ≤ le b off len ∧ le b off len ≤ hi then none else some (2, off)

/-- The first failing field of an image with its cause, in byte order (R355 R365). -/
def setError (b : Bytes) : Option (Nat × Nat) :=
  ((((((((((((((((if le b 0 4 = 0x54455353 then none else some (0, 0))
    <|> (if le b 4 2 = 1 then none else some (0, 4)))
    <|> (if le b 6 1 = 0 then none else some (1, 6)))
    <|> (if le b 7 1 = 0 then none else some (1, 7)))
    <|> fieldIn b 8 2 10 40)
    <|> fieldIn b 10 2 5 500)
    <|> fieldIn b 12 2 200 1000)
    <|> (if setTpiWidth b + 500 ≤ 100 * setTFilt b then none else some (3, 12)))
    <|> fieldIn b 14 2 50 400)
    <|> fieldIn b 16 2 10 300)
    <|> (if setFbDly b + 20 ≤ setTpWidth b then none else some (3, 16)))
    <|> fieldIn b 18 2 100 10000)
    <|> fieldIn b 20 4 1 0xFFFFFFFF)
    <|> fieldIn b 24 2 0 16383)
    <|> (if setInputEn b < 4 then none else some (1, 26)))
    <|> fieldIn b 27 1 0 2)
    <|> (if setFbEn b < 4 then none else some (1, 28))
    <|> (((List.range 479).find? fun i => decide (le b (29 + i) 1 ≠ 0)).map fun i => (1, 29 + i))

/-- A whole set is valid (R355). -/
def setValid (b : Bytes) : Bool := decide (b.length = 512) && (setError b).isNone && decide (crc32c (b.take 508) = setCheck b)

/-- An image with its `CHECK` computed (R355). -/
def withCheck (b : Bytes) : Bytes := fit 508 b ++ toLe 4 (crc32c (fit 508 b))

/-- A committed page of the NVM, if it is one (R531). -/
def pageOf (s : State) (p : Nat) : Option Page :=
  match Tab.find s.nvm.pages p with
  | some x => if x.seq = 0 then none else some x
  | none => none

/-- A valid set on a page, with its sequence number. -/
def setOn (s : State) (p : Nat) : Option (Nat × Bytes) :=
  match pageOf s p with
  | some x => if setValid x.bytes then some (x.seq, x.bytes) else none
  | none => none

/-- The factory set of the safety partition, page 7296 (R356). -/
def factoryOf (s : State) : Bytes := match pageOf s 7296 with | some p => p.bytes | none => []

/-- Step 4 of R345: the newer valid confirmed copy, else the factory set with `SAF_SET_BAD` (R357). -/
def loadSet (s : State) : State :=
  if s.safety.src ≠ 0 then s
  else
    let s := onSaf (fun f => { f with factory := factoryOf s }) s
    let put := fun (b : Bytes) (src copy : Nat) => onSaf (fun f => { f with inForce := b, src, copy }) s
    match setOn s 7297, setOn s 7298 with
    | some a, some b => if b.1 < a.1 then put a.2 1 1 else put b.2 1 2
    | some a, none => put a.2 1 1
    | none, some b => put b.2 1 2
    | none, none =>
      match setOn s 7296 with
      | some f => raise 496 (put f.2 2 0)
      | none => s

/-- Record the first refusal (R365). -/
def stageError (cause off : Nat) (s : State) : State :=
  if s.safety.errValid then s else onSaf (fun f => { f with errValid := true, errCause := cause, errOffset := off }) s

/-! ### The diverse check (R350 R351) -/

/-- Pixel current numerator of strip k over 16 irefDen µA: measured, or the larger of the held and the commanded value
where the telemetry is stale (R350). -/
def divCurrent (s : State) (k : Nat) : Nat :=
  let x := stripOf s k
  if x.stale then max (x.iMeas * irefDen) (2048 * irefOf s k) else x.iMeas * irefDen

/-- A returned stream takes part (R351). -/
def divUsed (n i : Nat) (r : StripRet) : Bool :=
  decide (r.check = streamCheck r.header.toNat (fitCells r.cells)) && decide (bits r.header.toNat 56 8 = 24 * n + i)

/-- `EG_LIMIT` of the boundary at which a stream was shifted (R350). -/
def divLimit (s : State) (seq : Nat) : Nat :=
  match s.safety.egHist.find? (fun e => e.1 == seq) with
  | some e => e.2
  | none => s.safety.egTaken

/-- R_v of window (i, j) times 16 384 × 64 × irefDen, in Q16.16, and the smallest limit of its streams; a skipped stream
gives neither (R350 R351). -/
def divWindow (s : State) (n : Nat) (st : List StripRet) (i j : Nat) : Nat × Nat :=
  let kt := match (tileOf s n).header with | some h => h.kT | none => 0
  let rows := (List.range 16).map fun a =>
    let r := 8 * i + a
    let x := st.getD (r / 16) { header := 0, cells := [], check := 0 }
    if divUsed n (r / 16) x then
      divCurrent s (24 * n + r / 16) * ((List.range 16).map fun b => (x.cells.getD (cellIndex r (8 * j + b)) 0#16).toNat / 4).sum
    else 0
  let ret := fun k => st.getD k { header := 0, cells := [], check := 0 }
  let seqs := ([8 * i / 16, (8 * i + 15) / 16].filter fun k => divUsed n k (ret k)).map fun k =>
    divLimit s (bits (ret k).header.toNat 40 16)
  (kt * rows.sum, seqs.foldl min 0xFFFFFFFF)

/-- Denominator of `divWindow`. -/
def divDen : Nat := 16384 * 64 * irefDen

/-- The ratio of a window in 1/4 096 (R368). -/
def divRatio (w : Nat × Nat) : Nat := if w.2 = 0 then 0 else 4096 * w.1 / (divDen * w.2)

/-- A window trips: R_v > 1.125 EG_LIMIT (R350). -/
def divTrips (w : Nat × Nat) : Bool := decide (9 * (w.2 * divDen) < 8 * w.1)

/-- The windows of a tile with their radiances. -/
def divWindows (s : State) (n : Nat) (st : List StripRet) : List (Nat × Nat × Nat × Nat) :=
  (List.range 47).flatMap fun i => (List.range 47).map fun j => let w := divWindow s n st i j; (i, j, w.1, w.2)

/-- The window of the largest ratio, the first of equals. -/
def divMax (ws : List (Nat × Nat × Nat × Nat)) : Nat × Nat × Nat :=
  ws.foldl (fun m w => if m.1 < divRatio (w.2.2.1, w.2.2.2) then (divRatio (w.2.2.1, w.2.2.2), w.1, w.2.1) else m) (0, 0, 0)

end Sys2Proof.Machine
end

