-- ==== Sys2Proof/Machine/NvmOps.lean ====
section
/-! DEFINITION. Operations of the NVM: records and their order, refusals, pages and partitions, the save, the shutdown record,
the firmware image and its transfer (02, 12, 15). -/

namespace Sys2Proof.Machine

/-- Change NVM and firmware. -/
def onNvm (f : Nvm → Nvm) (s : State) : State := { s with nvm := f s.nvm }

/-- Change a firmware transfer. -/
def onXfer (f : Xfer → Xfer) (s : State) : State := onNvm (fun n => { n with xfer := f n.xfer }) s

/-! ### The record queue (R432 R532) -/

/-- Records that the write inhibit does not refuse (R432). -/
def exemptRec (r : Rec) : Bool :=
  match r.why with
  | .saveTile _ _ | .saveLog _ _ | .shutdown => true
  | _ => false

/-- A record is refused (R432): its requester hears of it as its owning chapter defines (R360 R390 R415 R536). -/
def refuseRec (r : Rec) (s : State) : State :=
  match r.why with
  | .write id _ done => complete id stBUSY (toLe 4 (done - 512)) s
  | .confirm id => complete id stBUSY [] (onSaf (fun f => { f with confirm := none }) s)
  | .learned => { s with cal := { s.cal with owed := true } }
  | .xferRecord => onXfer (fun x => { x with sinceRecord := 64 }) s
  | _ => s

/-- Several records are refused, in order. -/
def refuseAll : List Rec → State → State
  | [], s => s
  | r :: rs, s => refuseAll rs (refuseRec r s)

/-- Records join the queue, or are refused while the inhibit comparator is tripped (R432 R532). -/
def queueRecs (l : List Rec) (s : State) : State :=
  if s.power.inhibit then refuseAll l s else onNvm (fun n => { n with queue := n.queue ++ l }) s

/-- Save records and the shutdown record go before every queued record; one in progress completes first (R532). -/
def urgentRecs (l : List Rec) (s : State) : State :=
  onNvm (fun n => { n with queue := n.queue.take 1 ++ l ++ n.queue.drop 1 }) s

/-- The inhibit comparator trips: every queued record that has not begun and is not exempt is refused (R432). -/
def inhibitQueue (s : State) : State :=
  let waiting := s.nvm.queue.drop 1
  refuseAll (waiting.filter fun r => !exemptRec r) (onNvm (fun n => { n with queue := n.queue.take 1 ++ waiting.filter exemptRec }) s)

/-! ### Pages and partitions (R530 R531 R604) -/

/-- The bytes of an orphan set (R604). -/
def orphanBytes (o : Orphan) : Bytes :=
  fit 512 (toLe 4 0x4E414850 ++ toLe 16 o.serial ++ toLe 4 o.gen
      ++ toLe 1 (flag 0 o.commitTime.isSome + flag 1 o.block.isSome + flag 2 o.group.isSome + flag 3 o.commitGroup) ++ toLe 7 0
      ++ toLe 8 (o.commitTime.getD 0))
    ++ (match o.block with | some b => (List.range blocks_).flatMap fun k => toLe 8 (Tab.get 0 b k) | none => [])
    ++ (match o.group with | some g => fit 1536 ((List.range 144).flatMap fun k => toLe 8 (Tab.get 0 g k * 256)) | none => [])

/-- The orphan set that holds page i of the journal (R604 and `orphanOffset`). -/
def orphanAt (s : State) (i : Nat) : Option Orphan :=
  s.journal.orphans.find? fun o => decide (148 * o.place ≤ i) && decide (i < 148 * o.place + orphanRecs o)

/-- The page that the record in progress writes (R531): its marker is clear. -/
def pageWritten (s : State) (page : Nat) : Option Rec :=
  match s.nvm.queue with
  | r :: _ => if r.page = page ∧ 128 ≤ page then some r else none
  | [] => none

/-- What a page holds while a record writes it (R531): each 64-bit word still as it was, or written; how far is open. -/
def halfWritten (s : State) (old new : Bytes) : Bytes :=
  (List.range 64).flatMap fun w => if Config.wordWritten s.freeCtr w then sub (fit 512 new) (8 * w) 8 else sub (fit 512 old) (8 * w) 8

/-- Page i of a partition: its bytes, and whether it is committed (R531). Bytes of the Chrysalis partition and of journal
records other than orphan sets are open (R530 R534). -/
def partPage (s : State) (part i : Nat) : Bytes × Option Bool :=
  match part with
  | 0 => ((List.range 512).map fun k => Config.chrysalis (512 * i + k), some true)
  | 5 =>
    match orphanAt s i with
    | some o => (sub (orphanBytes o) (512 * (i - 148 * o.place)) 512, some true)
    | none => ((List.range 512).map fun k => Config.journalByte s.nvm.seq (512 * i + k), none)
  | _ =>
    let old := Tab.get { bytes := List.replicate 512 0#8, seq := 0 } s.nvm.pages ((partPages part).1 + i)
    match pageWritten s ((partPages part).1 + i) with
    | some r => (halfWritten s old.bytes r.bytes, some false)
    | none => (old.bytes, some (decide (old.seq ≠ 0)))

/-- A page is written and committed (R531). -/
def commitPage (page : Nat) (b : Bytes) (s : State) : State :=
  onNvm (fun n => { n with
    pages := Tab.put n.pages page { bytes := fit 512 b, seq := n.seq }
    badPages := n.badPages.filter fun p => p != page }) s

/-- A record is interrupted (R531): its page stays uncommitted, each word as it was or written. A save record is reported at the
next boot (R51); DESIGN CHOICE (notes/assumptions/74): so is a shutdown record. -/
def cutRecord (s : State) : State :=
  match s.nvm.queue with
  | [] => s
  | r :: _ =>
    if exemptRec r then onNvm (fun n => { n with queue := [], saveCut := true }) s
    else
      let old := (Tab.get { bytes := List.replicate 512 0#8, seq := 0 } s.nvm.pages r.page).bytes
      onNvm (fun n => { n with queue := [], pages := Tab.put n.pages r.page { bytes := halfWritten s old r.bytes, seq := 0 } })
        { s with freeCtr := s.freeCtr + 1 }

/-! ### The save and the shutdown record (R47 R50 R283 R433 R434) -/

/-- Fault-log entries that one journal record carries: a 4-byte kind and entries of 16 bytes (R389 R534). -/
def logPerRec : Nat := 31

/-- The records of a save (R47): two for each enabled tile, then the fault log and journal tail, at most eight. DESIGN CHOICE
(notes/assumptions/74): at least one log record is written, with which the save ends. -/
def saveRecs (s : State) : List Rec :=
  let tiles := ((List.range 8).filter fun n => (tileOf s n).enabled && (tileOf s n).header.isSome).flatMap fun n =>
    [({ page := 0, bytes := [], why := .saveTile n 0 } : Rec), { page := 0, bytes := [], why := .saveTile n 1 }]
  let k := max 1 (min 8 ((s.faults.uncopied + logPerRec - 1) / logPerRec))
  tiles ++ (List.range k).map fun i => { page := 0, bytes := [], why := .saveLog i (i + 1 == k) }

/-- What a save takes of the enabled tiles when it begins (R283). -/
def saveHeads (s : State) : List SaveHead :=
  (List.range 8).filterMap fun n =>
    let t := tileOf s n
    match t.header with
    | some h => if t.enabled then some { pos := n, serial := h.serial, gen := t.gen, commitTime := t.commit.map fun c => c.time } else none
    | none => none

/-- The save starts (R45 R46 R47 R283 R532): its records go before every queued one; what an earlier save left unapplied is no
longer of the last save (R299); where the supply is already off, its instant was the latch-gap start. -/
def startSave (s : State) : State :=
  let s := urgentRecs (saveRecs s) { s with
    power := { s.power with saveTiles := saveHeads s }
    journal := { s.journal with saved := s.journal.saved.map fun x => { x with old := true } } }
  if sloOn s then s else stopFronds s

/-- A save record can be written: the tap of the partial frame has been handed over, or the Fronds stand still (R46 R48). -/
def saveReady (s : State) : Bool :=
  s.power.vstop || (!sloOn s && !((List.range 8).any fun n => (tileOf s n).tapPend && (tileOf s n).enabled))

/-- The record in progress can be written: a save record once its sums are formed (R46 R48). -/
def recordReady (r : Rec) (s : State) : Bool :=
  match r.why with
  | .saveTile _ _ | .saveLog _ _ => saveReady s
  | _ => true

/-- Records that have begun: the head of the queue, unless its sums are not yet formed (R46 R47 R50). -/
def begun (s : State) : Nat := match s.nvm.queue with | [] => 0 | r :: _ => if recordReady r s then 1 else 0

/-- The first ledger block that a save has not written (R434): the first of the records that will not be written. -/
def firstUnsaved (s : State) : Nat :=
  if s.power.saving then
    match (s.nvm.queue.drop (begun s)).findSome? (fun r => match r.why with | .saveTile n h => some (9216 * n + 4608 * h) | _ => none) with
    | some b => b
    | none => 9216 * 8
  else 0xFFFFFFFF

/-- A tile whose save has not been written: it was enabled when the save began, though `VSTOP` may have darkened it since (R48
R50). -/
def unsavedTile (s : State) (n : Nat) : Bool :=
  s.nvm.queue.any fun r => match r.why with | .saveTile k _ => k == n | _ => false

/-- The shutdown record (R434). -/
def shutdownBytes (s : State) : Bytes :=
  let t := stampOf (outTime s)
  let levels := ((List.range 8).map fun n => at_ (3 * n) ((domainOf s (1 + n)).level % 8)).sum
  let body := toLe 4 0x54444853 ++ toLe 4 (unsigned 32 s.frm.num) ++ toLe 4 t.sec ++ toLe 4 t.ns
    ++ ((List.range 12).flatMap fun i => toLe 2 (unsigned 16 (sensorOf s i).reading))
    ++ toLe 1 ((domainOf s 0).level % 8) ++ toLe 3 levels
    ++ toLe 1 (flag 0 s.power.saving + flag 1 (nvmBusy s)) ++ toLe 3 0
    ++ toLe 4 (firstUnsaved s) ++ toLe 2 s.faults.uncopied ++ toLe 2 0
    ++ ((List.range 8).flatMap fun n =>
        let x := tileOf s n
        match x.header with
        | some h => if x.enabled || unsavedTile s n then toLe 16 h.serial ++ toLe 4 x.gen else toLe 20 0
        | none => toLe 20 0)
  fit 508 body ++ toLe 4 (crc32c (fit 508 body))

/-- What the management processor takes from a shutdown record (R435). -/
def parseShutdown (b : Bytes) : Shutdown :=
  { tiles := (List.range 8).filterMap fun n =>
      if le b (56 + 20 * n) 20 = 0 then none else some (n, le b (56 + 20 * n) 16, le b (72 + 20 * n) 4)
    firstUnsaved := le b 48 4, logLost := le b 52 2, bytes := b }

/-- Half h of the ledger part of tile n is saved (R283): groups 72 h to 72 h + 71 of its pending charge, retained charge of the tile
among it, beside what the save took when it began. -/
def saveHalf (n h : Nat) (s : State) : State :=
  match s.power.saveTiles.find? fun x => x.pos == n with
  | none => s
  | some v =>
    let kept := (s.journal.retained.filter fun r => r.pos == n && r.serial == v.serial).map fun r => r.p
    let p := fun b => Tab.get 0 (tileOf s n).p b + (kept.map fun t => Tab.get 0 t b).sum
    let sums : Tab Nat := (List.range 72).map fun k => (72 * h + k, ((groupBlocks (72 * h + k)).map p).sum / 2 ^ 32)
    let mine := fun (x : SavedTile) => x.pos == n && !x.old
    let saved := s.journal.saved
    let new := if saved.any mine then saved.map (fun x => if mine x then { x with group := x.group ++ sums } else x)
      else saved ++ [{ pos := n, serial := v.serial, gen := v.gen, commitTime := v.commitTime, group := sums }]
    { s with journal := { s.journal with saved := new } }

/-- The oldest uncopied entries of the fault log are copied to the journal, in one record (R390 R534). -/
def copyLog (n : Nat) (s : State) : State :=
  let k := min n s.faults.uncopied
  let f := s.faults
  let es := (List.range k).map fun i => Tab.get {} f.log ((f.head + 256 - f.uncopied + i) % 256)
  let s := { s with
    faults := { f with uncopied := f.uncopied - k, lostLeft := f.lostLeft - k }
    nvm := { s.nvm with logCopies := s.nvm.logCopies ++ [es] } }
  let s := trimCopies s
  if 0 < f.lostLeft ∧ f.lostLeft ≤ k then condOff 501 s else s

/-- The last save record has been written (R48 R49 R68): Lichen holds the chip in reset until `VIN` recovers. -/
def endSave (s : State) : State :=
  let s := { s with power := { s.power with
    saving := false
    awaitVin := true
    saveComplete := true
    saveDuration := min 4095 ((s.time.now - s.power.saveStart) / 65536000).toNat } }
  let causes := causeBits s.power.rstPend s.power.causes
  let s := chipReset .sag s
  { s with power := { s.power with causes } }

/-! ### The firmware image and its transfer (R537 to R543) -/

/-- The header page of the image in the firmware partition; an uncommitted page holds none. -/
def imageHeader (s : State) : Bytes :=
  match partPage s 1 0 with
  | (b, some true) => b
  | _ => []

/-- Steps 2 and 3 of R538 hold of a header. -/
def headerOk (b : Bytes) : Bool :=
  decide (le b 0 4 = 0x5746584C) && decide (le b 4 2 = 1) && multIn 512 512 3145216 (le b 12 4)

/-- `IMAGE_ID` of a header as a number, byte 0 lowest (R537). -/
def imageId (b : Bytes) : Nat := le b 16 8

/-- Blocks of an image (R540). -/
def imageBlocks (bodyLen : Nat) : Nat := (512 + bodyLen + 1023) / 1024

/-- Blocks of the image in the partition, by its header. -/
def partBlocks (s : State) : Nat := imageBlocks (le (imageHeader s) 12 4)

/-- Every block of the image has been received and its header passes steps 2 and 3 (R545). -/
def imageHeld (s : State) : Bool :=
  headerOk (imageHeader s) && (List.range (partBlocks s)).all fun i => s.nvm.xfer.got.contains i

/-- Words of 64 bits of the NVM are read: an injected check raises `NVM_UNCORR` and changes nothing else (R385 R386 R533). -/
def readNvmWords (words : Nat) (s : State) : State :=
  let x := takeInjs 353 1 words s
  if x.1 = 0 then x.2 else raiseInj 353 true x.2

/-- The number of blocks that the transfer needs: by the accepted offer, or by the header in the partition (R540 R543). -/
def neededBlocks (s : State) : Nat :=
  match s.nvm.xfer.image with
  | some x => x.2
  | none => if headerOk (imageHeader s) then partBlocks s else 3072

/-- The first missing block (R544 R553). -/
def firstMissing (s : State) : Nat :=
  ((List.range (neededBlocks s)).find? fun i => !s.nvm.xfer.got.contains i).getD (neededBlocks s)

/-- The first write of a block after clean or armed fixes the source and cancels a schedule (R541 R546). A transfer that
follows an armed image starts with no block received. -/
def beginWriting (src : Nat) (s : State) : State :=
  if s.nvm.fwState = 1 then s
  else
    let s := putTev s 11 { tevOf s 11 with mode := 0 }
    onNvm (fun n => { n with
      fwState := 1, source := src, scheduled := false
      xfer := if n.fwState = 2 then { n.xfer with got := [], pages := [], sinceRecord := 0 } else n.xfer }) s

/-- 512 open bytes. -/
def openPage (s : State) : Bytes × State :=
  ((List.range 512).map fun k => BitVec.ofNat 8 (Config.freeValue (s.freeCtr + k)).toNat, { s with freeCtr := s.freeCtr + 512 })

/-- A block counts as received (R540 R541): the transfer record is rewritten after every 64 further blocks and at
completion; Chrysalis with every block of a named image resets the chip (R539). -/
def gotBlock (i : Nat) (s : State) : State :=
  if s.nvm.xfer.got.contains i then s
  else
    let s := onXfer (fun x => { x with got := i :: x.got, sinceRecord := x.sinceRecord + 1 }) s
    let all := imageHeld s
    let s := if 64 ≤ s.nvm.xfer.sinceRecord ∨ all then
        let x := openPage (onXfer (fun x => { x with sinceRecord := 0 }) s)
        queueRecs [{ page := 7295, bytes := x.1, why := .xferRecord }] x.2
      else s
    if all ∧ s.nvm.running = false then requestReset .soft s else s

/-- A page of the firmware partition has been written by `NVM_WRITE` (R540). -/
def gotPage (p : Nat) (s : State) : State :=
  let s := onXfer (fun x => { x with pages := if x.pages.contains p then x.pages else p :: x.pages }) s
  if s.nvm.xfer.pages.contains (p / 2 * 2) ∧ s.nvm.xfer.pages.contains (p / 2 * 2 + 1) then gotBlock (p / 2) s else s

/-- What the marker of a record brings about (R48 R283 R360 R390 R415 R434 R531 R536 R540 R541). A block counts only after the
boot check has restored the received set. -/
def recordEffect (r : Rec) (s : State) : State :=
  match r.why with
  | .write id last done =>
    let s := commitPage r.page r.bytes s
    let s := if s.nvm.checked && decide (128 ≤ r.page) && decide (r.page < 6272) then gotPage (r.page - 128) s else s
    if last then complete id stOK (toLe 4 done) s else s
  | .confirm id =>
    let s := commitPage r.page r.bytes s
    if s.safety.confirm = some (id, false) then onSaf (fun f => { f with confirm := some (id, true) }) s else s
  | .learned =>
    let s := commitPage r.page r.bytes s
    { s with cal := { s.cal with learnGen := le r.bytes 10 4, learnSrc := r.page - 7335 } }
  | .xferRecord =>
    commitPage r.page r.bytes (onNvm (fun n => { n with record := n.xfer }) s)
  | .block i last =>
    let s := commitPage r.page r.bytes s
    if last && s.nvm.checked then gotBlock i s else s
  | .saveTile n h => let s := saveHalf n h s; { s with power := { s.power with saveRecords := min 31 (s.power.saveRecords + 1) } }
  | .saveLog _ last =>
    let s := copyLog logPerRec s
    let s := { s with power := { s.power with saveRecords := min 31 (s.power.saveRecords + 1) } }
    if last && !s.power.thermLatch then endSave s else s
  | .shutdown => chipReset .therm (onNvm (fun n => { n with shutdown := some (parseShutdown r.bytes) })
      { s with power := { s.power with saving := false } })
  | .logCopy count => copyLog count s

/-- The record in progress ends with its marker (R531), under the next write sequence number. -/
def recordDone (s : State) : State :=
  match s.nvm.queue with
  | [] => s
  | r :: q =>
    if recordReady r s then recordEffect r (onNvm (fun n => { n with queue := q, seq := n.seq + 1 }) s) else s

end Sys2Proof.Machine
end

