-- ==== Sys2Proof/Machine/CalOps.lean ====
section
/-! DEFINITION. Operations of calibration: the calibration sets, trims, the order of a run, the learned copies (12). -/

namespace Sys2Proof.Machine

/-- Change calibration. -/
def onCal (f : Cal → Cal) (s : State) : State := { s with cal := f s.cal }

/-- Round a quotient half away from zero (R407). -/
def roundAway (n d : Int) : Int := if 0 ≤ n then (2 * n + d) / (2 * d) else - ((2 * (-n) + d) / (2 * d))

/-! ### Calibration sets (R404 R405 R406) -/

/-- Set temperature of factory slot k in 1/16 °C (R404). -/
def slotTemp (k : Nat) : Int := [(-640 : Int), 0, 400, 960, 1600].getD k 0

/-- `MAGIC`, `FORMAT`, `KIND` and `CRC` of a calibration record hold (R406). -/
def calRecordOk (kind : Nat) (b : Bytes) : Bool :=
  decide (le b 0 4 = 0x4C414343) && decide (le b 4 2 = 1) && decide (le b 6 2 = kind) && decide (crc32c (b.take 508) = le b 508 4)

/-- Factory set k, if it is valid: number, temperature, trim codes (R405 R406). -/
def factorySetAt (s : State) (k : Nat) : Option (Nat × Int × List Nat) :=
  match pageOf s (7328 + k) with
  | none => none
  | some p =>
    if calRecordOk 0 p.bytes && decide (signed 16 (le p.bytes 8 2) = slotTemp k) then
      some (k, slotTemp k, (List.range 192).map fun c => bits (le p.bytes (16 + 2 * c) 2) 0 7)
    else none

/-- A learned copy, if it is valid: `GEN` and the drift offsets (R405 R406). -/
def learnedAt (s : State) (page : Nat) : Option (Nat × List Int) :=
  match pageOf s page with
  | none => none
  | some p =>
    if calRecordOk 1 p.bytes then
      some (le p.bytes 10 4, (List.range 192).map fun c => signed 8 (le p.bytes (16 + 2 * c) 1))
    else none

/-- `CAL_SET_BAD`, n times (R406). -/
def raiseSetBad : Nat → State → State
  | 0, s => s
  | n + 1, s => raiseSetBad n (raise 214 s)

/-- The drift offsets of a learned copy come into force. -/
def putDeltas (d : List Int) (s : State) : State :=
  onCal (fun c => { c with chans := (List.range 192).foldl (fun t i => Tab.put t i { calOf s i with delta := d.getD i 0 }) c.chans }) s

/-- The sets are loaded when firmware starts (R406). -/
def loadCal (s : State) : State :=
  let fs := (List.range 5).filterMap (factorySetAt s)
  let s := raiseSetBad (5 - fs.length) (onCal (fun c => { c with factory := fs }) s)
  let use := fun (x : Nat × List Int) (src : Nat) => putDeltas x.2 (onCal (fun c => { c with learnGen := x.1, learnSrc := src }) s)
  match learnedAt s 7336, learnedAt s 7337 with
  | some a, some b => if a.1 < b.1 then use b 2 else use a 1
  | some a, none => use a 1
  | none, some b => use b 2
  | none, none => raise 214 s

/-! ### Trims (R407 R408) -/

/-- The segment of R407 among sets in ascending temperature: its lower and upper set. -/
def segment (t : Int) : List (Nat × Int × List Nat) → Option ((Nat × Int × List Nat) × (Nat × Int × List Nat))
  | [a, b] => some (a, b)
  | a :: b :: r => if t < 840 * b.2.1 then some (a, b) else segment t (b :: r)
  | _ => none

/-- T_interp(c) at the calibration temperature (R406 R407). -/
def tInterp (s : State) (c : Nat) : Int :=
  match s.cal.factory with
  | [] => 64
  | [f] => ((f.2.2.getD c 0 : Nat) : Int)
  | fs =>
    match segment s.cal.tC fs with
    | none => 64
    | some (f, g) =>
      let a : Int := f.2.2.getD c 0
      let b : Int := g.2.2.getD c 0
      let d := 840 * (g.2.1 - f.2.1)
      roundAway (a * d + (b - a) * (s.cal.tC - 840 * f.2.1)) d

/-- TRIM(c) by R407. -/
def trimOf (s : State) (c : Nat) : Nat := (clampI 0 127 (tInterp s c + (calOf s c).delta)).toNat

/-- A channel takes a trim; a change goes to the flip gate, ready from the next cut point on (R240 R408 R414). -/
def setTrim (c v : Nat) (s : State) : State :=
  if (calOf s c).trim = v then s
  else
    let s := putCal s c { calOf s c with trim := v }
    { s with cmp := { s.cmp with gate := s.cmp.gate ++ [(false, .trim c v)] } }

/-- Every trim is recomputed (R408). -/
def retrim : Nat → State → State
  | 0, s => s
  | n + 1, s => let s := retrim n s; setTrim n (trimOf s n) s

/-! ### The learned copies (R415) -/

/-- The bytes of a learned copy (R405). -/
def learnedBytes (s : State) (gen : Nat) : Bytes :=
  let b := fit 508 (toLe 4 0x4C414343 ++ toLe 2 1 ++ toLe 2 1 ++ toLe 2 0 ++ toLe 4 gen ++ toLe 2 0
    ++ (List.range 192).flatMap fun c => toLe 2 (unsigned 8 (calOf s c).delta))
  b ++ toLe 4 (crc32c b)

/-- Learned records that wait or are in progress. -/
def learnedQueued (s : State) : Nat := (s.nvm.queue.filter fun r => r.why == .learned).length

/-- The learned copy that is newer once the queued writes are made: 0 none, 1 A, 2 B. -/
def newerCopy (src : Nat) : Nat → Nat
  | 0 => src
  | n + 1 => if newerCopy src n = 1 then 2 else 1

/-- The δ values are written into the older learned copy, `GEN` one above the newer copy's (R406 R415). -/
def writeLearned (s : State) : State :=
  let k := learnedQueued s
  let page := if newerCopy s.cal.learnSrc k = 1 then 7337 else 7336
  let gen := if s.cal.learnSrc = 0 then 1 + k else s.cal.learnGen + 1 + k
  queueRecs [{ page, bytes := learnedBytes s (gen % 2 ^ 32), why := .learned }] (onCal (fun c => { c with owed := false }) s)

/-! ### Runs (R409 R410 R411 R416) -/

/-- A channel is skipped: its position has no owner, or its serving Frond is suspect (R411). -/
def calSkipped (s : State) (c : Nat) : Bool :=
  match serving s (c / 24) with
  | none => true
  | some f => (frondOf s f).role == .suspect

/-- The calibration sequencer demands sensors 0 to 3 (R419). -/
def demandCal (s : State) : State := { s with therm := { s.therm with demands := s.therm.demands ++ [{ mask := 15 }] } }

/-- A full run starts (R409 R410 R437). -/
def startFull (s : State) : State :=
  demandCal (onCal (fun c => { c with
    running := true, queued := false, skipped := 0, todo := List.range 192, retry := [], second := false, tCal := c.tC
    waits := c.waits.map fun w => if w.queued then { w with queued := false } else w }) s)

/-- Mark the oldest waiting `CAL_RUN` of channel c: the measurement, or the skip, is its own (R416). -/
def markSingle (c : Nat) (f : CalWait → CalWait) : List CalWait → List CalWait
  | [] => []
  | w :: r => if w.channel = some c then f w :: r else w :: markSingle c f r

/-- Complete a `CAL_RUN` by the first condition of R416. -/
def endCalWait (w : CalWait) (s : State) : State :=
  complete w.id (if w.range then stCHECK else if w.skip then stQUARANTINE else stOK) []
    (onCal (fun c => { c with waits := c.waits.filter fun x => x.id != w.id }) s)

/-- Complete several. -/
def endCalWaits : List CalWait → State → State
  | [], s => s
  | w :: r, s => endCalWaits r (endCalWait w s)

/-- The temperature has moved by more than `CAL_DT` since the last full run (R409). -/
def calTempMoved (s : State) : Bool :=
  s.cal.autoEn && decide (840 * 16 * s.cal.calDt < (s.cal.tC - s.cal.tCal).natAbs)

/-- A full run whose last channel has been measured or finally skipped ends (R410 R415 R416 R439): the queued run or a
temperature trigger starts the next. -/
def calEnd (s : State) : State :=
  let open_ := match s.cal.now with | some (_, single, awaited) => awaited && !single | none => false
  if s.cal.running && s.cal.todo.isEmpty && (s.cal.second || s.cal.retry.isEmpty) && !open_ then
    let s := onCal (fun c => { c with running := false, runs := satAdd 65535 c.runs 1 }) s
    let s := endCalWaits (s.cal.waits.filter fun w => w.channel.isNone && !w.queued) s
    let s := writeLearned s
    if s.cal.queued ∨ calTempMoved s then startFull s else s
  else s

/-- A single `CAL_RUN` of a channel ends (R410 R415 R416). -/
def singleEnd (c : Nat) (s : State) : State :=
  match s.cal.waits.find? fun w => w.channel == some c with
  | none => s
  | some w => writeLearned (endCalWait w s)

/-- The front channel in the order of R410 is skipped if R411 says so: a single one at once for good, one of a full run
for a second try. Up to n channels. -/
def calSkips : Nat → State → State
  | 0, s => s
  | n + 1, s =>
    match s.cal.singles with
    | c :: r =>
      if calSkipped s c then
        calSkips n (singleEnd c (onCal (fun k => { k with
          singles := r, skipped := if k.running then k.skipped else 1
          waits := markSingle c (fun w => { w with skip := true }) k.waits }) s))
      else s
    | [] =>
      match s.cal.todo with
      | c :: r =>
        if calSkipped s c then
          calSkips n (onCal (fun k => if k.second then
              { k with todo := r, skipped := k.skipped + 1
                       waits := k.waits.map fun w => if w.channel = none ∧ ¬ w.queued then { w with skip := true } else w }
            else { k with todo := r, retry := k.retry ++ [c] }) s)
        else s
      | [] => if s.cal.running && !s.cal.second && !s.cal.retry.isEmpty then
          calSkips n (onCal (fun k => { k with todo := k.retry, retry := [], second := true }) s)
        else s

/-- Skip what is to be skipped, and end a run that has nothing left. -/
def calAdvance (s : State) : State := calEnd (calSkips 400 s)

/-- A channel's turn begins at the latch-gap start: its telemetry is held, with `STALE` set (R412 R414). -/
def calBegin (c : Nat) (single : Bool) (s : State) : State :=
  putStrip (onCal (fun k => { k with now := some (c, single, true), channel := c }) s) c { stripOf s c with stale := true }

/-- The calibration step of a latch gap in the Frond of tile n (R410 R411 R412): the channel whose turn it is, at most one
in the chip. -/
def calGap (n : Nat) (s : State) : State :=
  if s.cal.now.isSome then s
  else
    let s := calAdvance s
    match s.cal.singles, s.cal.todo with
    | c :: r, _ =>
      if c / 24 = n then calBegin c true (onCal (fun k => { k with singles := r, skipped := if k.running then k.skipped else 0 }) s)
      else s
    | [], c :: r =>
      if c / 24 = n then calBegin c false (onCal (fun k => { k with todo := r }) s) else s
    | [], [] => s

/-- The boundary that ends a calibration gap (R412 R414): holds that have run out end. -/
def calBoundary (s : State) : State :=
  let s := onCal (fun k => { k with now := match k.now with | some (c, x, true) => some (c, x, true) | _ => none }) s
  onCal (fun k => { k with chans := k.chans.map fun e =>
    if e.2.hold = 1 ∨ (e.2.hold = 2 ∧ (stripOf s e.1).aTrim = e.2.trim) then (e.1, { e.2 with hold := 0 }) else e }) s

end Sys2Proof.Machine
end

