-- ==== Sys2Proof/Machine/Calib.lean ====
section
/-! DEFINITION. Calibration: `CAL_RUN`, the result of a channel, the current reference (12). -/

namespace Sys2Proof.Machine

/-- REF_RREF (R402 R440): the base current in 10 nA, judged out of range or in range again. -/
def execRefRref (base : Nat) (s : State) : Out := ifRuns s .frond <|
  let ok := decide (9500 ≤ base) && decide (base ≤ 10500)
  let s := onCal (fun c => { c with rrefOk := ok, iBase := min 65535 base }) s
  .next (if ok then condOff 215 s else condOn 215 s)

/-- CAL_RUN (R409 R410 R416): one channel before the next of a run, or a full run, at once or after the one in progress. -/
def execCalRun (id : Nat) (s : State) : Out :=
  runOp s id 0x40 fun d =>
    let c := le d.bytes 16 2
    let s := updDesc id (fun d => { d with taken := true }) s
    if c = 0xFFFF then
      if s.cal.running then onCal (fun k => { k with queued := true, waits := k.waits ++ [{ id, channel := none, queued := true }] }) s
      else let s := startFull s; onCal (fun k => { k with waits := k.waits ++ [{ id, channel := none }] }) s
    else
      let s := onCal (fun k => { k with singles := k.singles ++ [c], waits := k.waits ++ [{ id, channel := some c }] }) s
      if s.cal.running then s else demandCal s

/-- `CAL_RANGE` of a channel (R413 R416 R439). -/
def calRange (c : Nat) (single : Bool) (s : State) : State :=
  raise 213 (onCal (fun k => { k with
    ranges := satAdd 65535 k.ranges 1
    waits := if single then markSingle c (fun w => { w with range := true }) k.waits
      else k.waits.map fun w => if w.channel.isNone && !w.queued then { w with range := true } else w }) s)

/-- `ERR` from ρ_hi in 10^-6 (R442): in 0.01 %; the rounding of what lies between is open. -/
def calErr (hi : Nat) (s : State) : Int × State :=
  let v : Int := (hi : Int) - 1000000
  let x := freshFree s
  (clampI (-32768) 32767 (if v % 100 = 0 then v / 100 else v / 100 + (x.1.toNat % 2 : Nat)), x.2)

/-- The trim and the drift of a measured channel (R413). -/
def judgeRatios (c : Nat) (single : Bool) (hi lo : Nat) (s : State) : State :=
  let e := calErr hi s
  let s := putCal e.2 c { calOf e.2 c with err := e.1 }
  if hi < 900000 ∨ 1100000 < hi ∨ 5000 < max hi lo - min hi lo then calRange c single s
  else
    let x := calOf s c
    let t := 64 + roundAway ((936 + (x.trim : Int)) * 1000000 - 1000 * hi) hi
    let s := if t < 0 ∨ 127 < t then calRange c single s else s
    let d := clampI 0 127 t - tInterp s c
    let s := if 24 < d.natAbs then calRange c single s else s
    let s := putCal s c { calOf s c with delta := clampI (-24) 24 d }
    setTrim c (trimOf s c) s

/-- CAL_RESULT (R412 R413 R414 R415 R416): the ratios ρ_hi and ρ_lo of the channel in calibration, in 10^-6. -/
def execCalResult (channel : Fin 192) (ratios : List Nat) (s : State) : Out := ifRuns s .mp <|
  match s.cal.now, ratios with
  | some (c, single, true), [hi, lo] =>
    if c ≠ channel.val then .next s
    else
      let old := (calOf s c).trim
      let s := judgeRatios c single hi lo s
      let x := calOf s c
      let s := putCal s c { x with hold := if x.trim ≠ old then 2 else if s.frm.inGap then 1 else 0 }
      let s := onCal (fun k => { k with now := if s.frm.inGap then some (c, single, false) else none }) s
      .next (if single then singleEnd c s else calEnd s)
  | _, _ => .next s

end Sys2Proof.Machine
end

