-- ==== Sys2Proof/Machine/FaultOps.lean ====
section
/-! DEFINITION. Operations of the fault collector: the log, promotions, lines (11). -/

namespace Sys2Proof.Machine

/-- Change the collector. -/
def onFlt (f : Faults → Faults) (s : State) : State := { s with faults := f s.faults }

/-- `ARG0` bits [15:0] of R388 for a slot, from its last promotion. -/
def slotWord (n : Nat) (x : Slot) (p : Nat) (wire : Bool) : Nat :=
  n + flag 9 x.esc + at_ 10 p + at_ 12 x.eff + flag 14 wire + flag 15 x.inj

/-- Write a log entry (R389); an entry overwritten before it is copied is lost, and `FLT_LOG_LOST` holds from the first such
on (R390). -/
def logEntry (kind word : Nat) (s : State) : State :=
  let t := stampOf (outTime s)
  let f := s.faults
  let full := decide (256 ≤ f.uncopied)
  let e : LogEnt := { word := at_ 30 kind + word, frame := unsigned 32 s.frm.num, sec := t.sec % 2 ^ 32, ns := t.ns }
  let held := f.cond.testBit 501
  let s := onFlt (fun f => { f with
    log := Tab.put f.log f.head e, head := (f.head + 1) % 256
    uncopied := if full then 256 else f.uncopied + 1
    lost := if full then satAdd 65535 f.lost 1 else f.lost
    lostLeft := if !full then f.lostLeft else if held then max 1 (f.lostLeft - 1) else 256 }) s
  if full then condOn 501 s else s

/-- Vector 32 at a promotion (R387). -/
def faultIrq (s : State) : State :=
  if s.faults.irqArmed then signal 32 (onFlt (fun f => { f with irqArmed := false }) s)
  else onFlt (fun f => { f with irqMissed := true }) s

/-- Effective class of a promotion of programmed class p (R377). -/
def effClass (s : State) (p : Nat) : Nat :=
  if (p = 1 ∨ p = 2) ∧ s.faults.slots.any (fun e => e.2.unack.testBit p) then p + 1 else p

/-- A slot is promoted (R375 R377 R379 R388 R389 R393). -/
def promote (n p : Nat) (wire inj : Bool) (s : State) : State :=
  let e := effClass s p
  let x := slotOf s n
  let t := outTime s
  let x := { x with
    eff := e, esc := decide (e ≠ p), inj, promotions := satAdd 65535 x.promotions 1
    unack := if e = 0 then x.unack else x.unack ||| 2 ^ e
    sec := (stampOf t).sec % 2 ^ 22, ms := (stampOf t).ns / 1000000 }
  let w := slotWord n x p wire
  let s := logEntry 0 w (putSlot s n x)
  let s := if 1 ≤ e then faultIrq (postEvent 1 w (unsigned 32 s.frm.num) (at_ 16 x.promotions + x.events) s) else s
  if 3 ≤ e then lightOff s else s

/-- A slot counts one event in its window (R375 R376 R382). -/
def countEvent (n : Nat) (wire inj : Bool) (s : State) : State :=
  let x := slotOf s n
  let fixed := match slotInfo n with | some i => i.2 | none => false
  let x := { x with events := satAdd 65535 x.events 1 }
  let x := if x.wcount = 0 then { x with winCls := x.cls, winN := if fixed then 1 else x.n, wcount := 1 } else { x with wcount := x.wcount + 1 }
  if x.winN ≤ x.wcount then promote n x.winCls wire inj (putSlot s n { x with wcount := 0 })
  else putSlot s n x

/-- Channel A accepts what the line of a slot shows (R374): a broken line that shows good again; a change to fault, receipted
and counted. A persisting condition goes on driving fault; any other source goes good, with a pending event behind it. -/
def acceptLine (n : Nat) (s : State) : State :=
  let f := s.faults
  if (slotOf s n).wire then putSlot s n { slotOf s n with wire := false }
  else if (slotInfo n).isNone || !f.drive.testBit n || f.accepted.testBit n then s
  else
    let inj := f.injected.testBit n
    countEvent n false inj (onFlt (fun f =>
      let f := { f with injected := putBit f.injected n false }
      if f.cond.testBit n then { f with accepted := putBit f.accepted n true }
      else { f with drive := putBit f.drive n (f.pend.testBit n), pend := putBit f.pend n false }) s)

/-- Several lines in ascending slot order (R378). -/
def acceptLines : List Nat → State → State
  | [], s => s
  | n :: r, s => acceptLines r (acceptLine n s)

/-- The line of a slot shows good (R380). -/
def lineGood (s : State) (n : Nat) : Bool := !s.faults.drive.testBit n && !(slotOf s n).wire

/-- Acknowledge the named slots whose lines show good (R380 R381): whether any was left. -/
def ackSlots : List Nat → State → Bool × State
  | [], s => (false, s)
  | n :: r, s =>
    let x := slotOf s n
    if x.unack = 0 then ackSlots r s
    else if lineGood s n then ackSlots r (logEntry 1 (slotWord n x x.cls x.wire) (putSlot s n { x with unack := 0 }))
    else let y := ackSlots r s; (true, y.2)

end Sys2Proof.Machine
end

