-- ==== Sys2Proof/Machine/ChainOps.lean ====
section
/-! DEFINITION. Operations of the chain island on frames: timestamps, classification, the cell pool and its queues, host copies,
the transparent clock, service messages (13, 14). -/

namespace Sys2Proof.Machine

/-- Change the chain island. -/
def onChain (f : Chain → Chain) (s : State) : State := { s with chain := f s.chain }

/-- Change one port. -/
def updPort (p : Nat) (f : Port → Port) (s : State) : State := putPort s p (f (portOf s p))

/-- The other port. -/
def otherPort (p : Nat) : Nat := 1 - p

/-! ### Timestamps (R503 R506 R507) -/

/-- Time of domain d at a local time (R503). -/
def domAt (s : State) (d : Nat) (t : Int) : Int :=
  let x := domOf s d
  x.base + (t - x.at_) + (t - x.at_) * x.ratio / 65536000000000

/-- A timestamp through the mappings in force now (R506). -/
def stampAt (s : State) (t : Int) : Stamps :=
  { loc := t, out := domAt s s.time.active t + s.time.slewTerm, a := domAt s 0 t, b := domAt s 1 t
    setA := (domOf s 0).everSet, setB := (domOf s 1).everSet }

/-- Latency of a port and direction: fused, plus the adjustment in 0.1 ns (R506 R526). -/
def latency (s : State) (p : Nat) (tx : Bool) : Int :=
  let a := Tab.get (s.boot.txAdj, s.boot.rxAdj) s.time.lat p
  Config.fusedLatency p tx (portOf s p).step + (if tx then a.1 else a.2) * 65536 / 10

/-- The ingress timestamp of a frame whose reference block is seen now: at the ball, before the latency (R506). -/
def rxStamp (s : State) (p : Nat) : Stamps := stampAt s (s.time.now - latency s p false)

/-- The egress timestamp of a frame that starts now: at the ball, after the latency (R506). -/
def txStamp (s : State) (p : Nat) : Stamps := stampAt s (s.time.now + latency s p true)

/-- A timestamp in the scale of `TIM_CTRL.HOST_TS`, and whether it is valid (R507). -/
def hostStamp (s : State) (t : Stamps) : Int × Bool :=
  match s.time.hostTs with
  | 0 => (t.out, true)
  | 1 => (t.a, t.setA)
  | 2 => (t.b, t.setB)
  | _ => (t.loc, true)

/-! ### Frames (R465 R466 R471) -/

/-- Cells of a frame of B bytes, FCS included (R471). -/
def cellsOf_ (b : Nat) : Nat := (b + 16 + 63) / 64

/-- One IEEE 802.1Q tag is present (R465). -/
def tagged (b : Bytes) : Bool := decide (be b 12 2 = 0x8100)

/-- Offset of the payload after the EtherType. -/
def payOff (b : Bytes) : Nat := if tagged b then 18 else 14

/-- EtherType behind one tag (R465). -/
def etherType (b : Bytes) : Nat := be b (payOff b - 2) 2

/-- Priority of a frame (R465). -/
def framePrio (s : State) (b : Bytes) : Nat :=
  if tagged b then be b 14 2 / 8192
  else if etherType b = 0x88F7 then 7
  else if etherType b = 0x88B5 then 6
  else s.chain.defPrio

/-- Group addresses with octet 0 in the low byte (R466). -/
def svcGroup : Nat := 0x801100000003
def linkGroup : Nat := 0x0E0000C28001
def ptpGroup : Nat := 0x000000191B01

/-- Destination address of a frame, octet 0 in the low byte. -/
def destOf (b : Bytes) : Nat := le b 0 6

/-- How a received frame is handled (R466): forwarded, taken by the host, taken by the management processor. -/
def classify (s : State) (b : Bytes) : Bool × Bool × Bool :=
  let e := etherType b
  let svc := decide (e = 0x88B5)
  let ptp := decide (e = 0x88F7)
  let d := destOf b
  let svcHost := svc && s.chain.svcToHost
  if svc ∧ d = svcGroup then (false, svcHost, true)
  else if d = linkGroup then (false, (s.chain.ptpToHost && ptp) || svcHost, true)
  else if d = s.chain.mac then (false, !svc || svcHost, svc)
  else if ptp ∧ d = ptpGroup then (true, s.chain.ptpToHost, true)
  else if d = 2 ^ 48 - 1 ∨ (s.chain.mcast.any fun m => m.2.2 && m.2.1 == d) then (true, true, false)
  else (true, svcHost, false)

/-! ### The pool (R470 to R479) -/

/-- Cells reserved for ingress (R470 R474). -/
def reservedCells (s : State) : Nat :=
  ((List.range 2).map fun p => ((List.range 8).map fun k => (credOf s p k).advUsed).sum).sum

/-- Free cells of the shared part (R474). -/
def sharedFree (s : State) : Nat :=
  16384 - reservedCells s - ((s.chain.frames.filter fun f => f.shared).map fun f => f.cells).sum

/-- Queued cells (R474 R491): of every frame of the pool, and of the frames in reception. -/
def queuedCells (s : State) : Nat :=
  (s.chain.frames.map fun f => f.cells).sum
    + ((List.range 2).map fun p => match (portOf s p).rx with | some r => r.cells | none => 0).sum

/-- A frame of the pool. -/
def frameOf (s : State) (id : Nat) : Option PoolFrame := s.chain.frames.find? fun f => f.id == id

/-- Change a frame of the pool. -/
def updFrame (id : Nat) (f : PoolFrame → PoolFrame) (s : State) : State :=
  onChain (fun c => { c with frames := c.frames.map fun x => if x.id = id then f x else x }) s

/-- A queue is read, or may have become empty: its stale bit clears (R478). -/
def readQueue (q : Nat) (s : State) : State := onChain (fun c => { c with stale := putBit c.stale q false }) s

/-- Cells freed at a priority of a port count for its credits, within the link-up period (R472 R473). -/
def countFreed (f : PoolFrame) (s : State) : State :=
  match f.origin with
  | .ingress p =>
    if f.period = (portOf s p).period then
      let c := credOf s p f.prio
      putCred s p f.prio { c with freed := (c.freed + f.cells) % 8192 }
    else s
  | _ => s

/-- A frame leaves the pool; its cells return to the free list (R474). -/
def dropFrame (f : PoolFrame) (s : State) : State :=
  let s := if f.shared then s else countFreed f s
  onChain (fun c => { c with
    frames := c.frames.filter fun x => x.id != f.id
    free := c.free + f.cells
    hostQ := c.hostQ.filter fun e => e.2 != f.id
    mgmtQ := c.mgmtQ.filter fun e => e != f.id }) s

/-- A consumer is an egress. -/
def isEgress : Consumer → Bool
  | .egress _ => true
  | _ => false

/-- A host copy is dropped and counted (R473 R482). -/
def countDrop (r : Nat) (s : State) : State :=
  let x := rxqOf s r
  putRxq s r { x with drops := satAdd 65535 x.drops 1 }

/-- After a change of a frame's consumers (R473 R474): with none left its cells are freed; when only host or management
waits for it in the reservation of its ingress, it is recharged to the shared part, or its copies are dropped. -/
def settle (id : Nat) (s : State) : State :=
  match frameOf s id with
  | none => s
  | some f =>
    if !f.whole then s
    else if f.wants.isEmpty then dropFrame f s
    else if f.shared || f.wants.any isEgress then s
    else if f.cells ≤ sharedFree s then updFrame id (fun f => { f with shared := true }) (countFreed f s)
    else dropFrame f (countDrop f.prio s)

/-- A consumer is done with a frame. -/
def doneWith (id : Nat) (c : Consumer) (s : State) : State :=
  settle id (updFrame id (fun f => { f with wants := f.wants.filter fun w => w != c }) s)

/-- A new frame joins the pool, taking its cells from the free list. -/
def addFrame (f : PoolFrame) (s : State) : State :=
  onChain (fun c => { c with frames := c.frames ++ [f], nextFrame := f.id + 1, free := c.free - f.cells }) s

/-- A frame is queued on a port's egress in arrival order (R467 R468). -/
def enqueue (p id : Nat) (s : State) : State := updPort p (fun x => { x with queue := x.queue ++ [id] }) s

/-- Cells of the frames that wait in host receive queue r (R482). -/
def hostCells (s : State) (r : Nat) : Nat :=
  ((s.chain.hostQ.filter fun e => e.1 == r).map fun e => match frameOf s e.2 with | some f => f.cells | none => 0).sum

/-- Host receive queue r takes a copy (R482). -/
def hostTakes (s : State) (r : Nat) : Bool := (rxqOf s r).en && decide (hostCells s r ≤ (rxqOf s r).limit)

/-- The 64-bit words of a frame in its cells, 8 a cell, first byte in the low bits (R474). -/
def poolWords (f : PoolFrame) : List (BitVec 64) :=
  (List.range ((f.bytes.length + 7) / 8)).map fun i => BitVec.ofNat 64 (le f.bytes (8 * i) 8)

/-- Parity is checked on a read of each word of a frame (R477): poison is delivered, an injected verdict is not (R385 R386). -/
def readParity (f : PoolFrame) (s : State) : State :=
  let x := takeInjs 264 0 (poolWords f).length s
  let s := if f.poison then raise 264 x.2 else x.2
  if x.1 = 0 then s else raiseInj 264 true s

/-- `RESULT` of a `NET_RX_POST` (R125 R481 R507). -/
def rxResult (s : State) (f : PoolFrame) (len : Nat) : Bytes :=
  let t := hostStamp s f.ts
  let k := stampOf t.1
  let n := f.bytes.length - 4
  toLe 2 n ++ toLe 1 (flag 0 f.poison + flag 1 t.2 + flag 2 (decide (len < n))) ++ toLe 1 0 ++ toLe 4 k.sec ++ toLe 4 k.ns

/-- Priority of a frame of the pool; 0 if it has left. -/
def prioOf (s : State) (id : Nat) : Nat := match frameOf s id with | some f => f.prio | none => 0

/-- Cells of some frames. -/
def cellsIn (s : State) (ids : List Nat) : Nat := (ids.map fun id => match frameOf s id with | some f => f.cells | none => 0).sum

/-- Cells that a queue's frames hold (R475 R496). -/
def queueCells (s : State) (q : Nat) : Nat :=
  if q < 16 then cellsIn s ((portOf s (q / 8)).queue.filter fun id => prioOf s id == q % 8)
  else if q < 24 then hostCells s (q - 16)
  else if q = 24 then cellsIn s s.chain.mgmtQ
  else if q = 32 ∨ q = 33 then (match (portOf s (q - 32)).rx with | some r => r.cells | none => 0)
  else if q = 34 then ((s.chain.frames.filter fun f => (match f.origin with | .host _ => true | _ => false) && !f.whole).map fun f => f.cells).sum
  else 0

/-- The stale bit of a queue that has become empty clears (R478). -/
def clearStale (s : State) : State := onChain (fun c => { c with stale := c.stale &&& maskOf (fun q => decide (0 < queueCells s q)) 64 }) s

/-- The front frame of host receive queue r fills the front buffer, one frame a buffer (R481). -/
def fillHost1 (r : Nat) (s : State) : State :=
  match s.chain.hostQ.find? (fun e => e.1 == r), s.chain.rxBufs.find? (fun b => b.rxq == r) with
  | some e, some b =>
    match frameOf s e.2 with
    | none => s
    | some f =>
      if dmaOk s then
        let s := readParity f (readQueue (16 + r) s)
        let res := rxResult s f b.len
        let s := hostWrite b.addr ((f.bytes.take (f.bytes.length - 4)).take b.len) s
        let s := onChain (fun c => { c with hostQ := c.hostQ.filter (fun x => x != e), rxBufs := c.rxBufs.filter fun x => x.id != b.id }) s
        complete b.id (if f.poison then stPOISON else stOK) res (doneWith f.id (.host r) s)
      else s
  | _, _ => s

/-- Fill the buffers of host receive queue r. -/
def fillHost (r : Nat) : Nat → State → State
  | 0, s => s
  | n + 1, s => fillHost r n (fillHost1 r s)

/-- Fill the buffers of the first n host receive queues, when DMA resumes. -/
def fillAllHost : Nat → State → State
  | 0, s => s
  | n + 1, s => let s := fillAllHost n s; fillHost n s.chain.hostQ.length s

/-- `NET_TX` descriptors whose last port has sent the frame or gone down complete (R125 R480). -/
def finishTx : List TxWait → State → State
  | [], s => s
  | w :: r, s =>
    finishTx r (if w.left.isEmpty then
      let s := onChain (fun c => { c with txWaits := c.txWaits.filter fun x => x.id != w.id }) s
      match descOf s w.id, w.sent.head? with
      | some d, some e =>
        let t := hostStamp s ((w.sent.find? fun x => x.1 == 0).getD e).2
        let k := stampOf t.1
        complete w.id stOK (if (le d.bytes 18 1).testBit 0 ∧ t.2 then toLe 6 k.sec ++ toLe 4 k.ns ++ toLe 2 k.frac else []) s
      | _, _ => complete w.id stBUSY [] s
    else s)

/-- A port has sent, or will not send, the frame of a `NET_TX` (R480). -/
def txEnds (f : PoolFrame) (p : Nat) (sent : Option Stamps) (s : State) : State :=
  match f.origin with
  | .host id =>
    let s := onChain (fun c => { c with txWaits := c.txWaits.map fun w =>
      if w.id = id then { w with left := w.left.filter (fun x => x != p)
                                 sent := w.sent ++ (match sent with | some t => [(p, t)] | none => []) }
      else w }) s
    finishTx s.chain.txWaits s
  | _ => s

/-! ### The transparent clock (R508 R509) -/

/-- A frame that the transparent clock corrects (R508). -/
def isEventMsg (b : Bytes) : Bool :=
  let o := payOff b
  decide (etherType b = 0x88F7) && decide (destOf b = ptpGroup) && decide (le b (o + 1) 1 % 16 = 2) && decide (le b o 1 % 16 ≤ 3)

/-- PTP over UDP, or PTP of another version: forwarded uncorrected and counted (R509). -/
def isSkipped (b : Bytes) : Bool :=
  let o := payOff b
  (decide (etherType b = 0x88F7) && decide (le b (o + 1) 1 % 16 ≠ 2))
    || (decide (etherType b = 0x0800) && decide (le b (o + 9) 1 = 17)
        && (let u := o + 4 * (le b o 1 % 16); decide (be b (u + 2) 2 = 319) || decide (be b (u + 2) 2 = 320)))
    || (decide (etherType b = 0x86DD) && decide (le b (o + 6) 1 = 17) && (decide (be b (o + 42) 2 = 319) || decide (be b (o + 42) 2 = 320)))

/-- The residence time in the domain that a message names, or in local time (R508). -/
def residence (s : State) (b : Bytes) (i e : Stamps) : Int :=
  let n := le b (payOff b + 4) 1
  if n = (domOf s 0).ptpDomain then e.a - i.a else if n = (domOf s 1).ptpDomain then e.b - i.b else e.loc - i.loc

/-- The bytes that an egress sends: a forwarded event message carries its residence time, with a new FCS (R508). -/
def correctedBytes (s : State) (f : PoolFrame) (e : Stamps) : Bytes :=
  match f.origin with
  | .ingress _ =>
    if isEventMsg f.bytes && !f.bad then
      let o := payOff f.bytes + 8
      let v := signed 64 (be f.bytes o 8) + residence s f.bytes f.ts e
      let body := (patch f.bytes o (toBe 8 (unsigned 64 v))).take (f.bytes.length - 4)
      body ++ fcs body
    else f.bytes
  | _ => f.bytes

/-- A forwarded frame that starts on an egress uncorrected is counted (R509). -/
def countSkipped (f : PoolFrame) (s : State) : State :=
  match f.origin with
  | .ingress _ => if isSkipped f.bytes then { s with time := { s.time with skipped := satAdd (2 ^ 32 - 1) s.time.skipped 1 } } else s
  | _ => s

/-! ### Service messages (R483 R486 R487) -/

/-- The 64-bit die identity of the node. -/
def dieNo : Nat := Config.dieId.toNat

/-- A service message from `VERSION` to `SCRC`, multi-byte fields in network order (R483). -/
def svcBytes (typ hops flags seq origin : Nat) (pay : Bytes) : Bytes :=
  let b := toBe 1 1 ++ toBe 1 typ ++ toBe 1 hops ++ toBe 1 flags ++ toBe 4 seq ++ toBe 8 origin ++ toBe 2 pay.length ++ toBe 2 0 ++ pay
  b ++ toBe 4 (crc32c b)

/-- The frame of a service message to the chain service group (R465 R466 R483). -/
def svcFrame (s : State) (m : Bytes) : Bytes :=
  let b := toLe 6 svcGroup ++ toLe 6 s.chain.mac ++ toBe 2 0x88B5 ++ m
  let b := b ++ List.replicate (60 - b.length) 0#8
  b ++ fcs b

/-- The management processor sends a frame on a port in Up, from shared cells (R474). -/
def sendMgmt (p prio : Nat) (b : Bytes) (s : State) : State :=
  let n := cellsOf_ b.length
  if ((portOf s p).st = .up ∨ (portOf s p).st = .stepTrial) ∧ n ≤ sharedFree s then
    let id := s.chain.nextFrame
    enqueue p id (addFrame { id, bytes := b, cells := n, prio, origin := .mgmt, shared := true, wants := [.egress p] } s)
  else s

/-- The management processor sends a service message at priority 6 (R465 R484). -/
def sendSvc (p : Nat) (m : Bytes) (s : State) : State := sendMgmt p 6 (svcFrame s m) s

/-- A `Delay_Req` of the node's own clock (R465 R510; the layout is that of IEEE 1588-2019, PRESUMED, notes/assumptions/79). -/
def delayReqFrame (s : State) (domain port seq : Nat) : Bytes :=
  let b := toLe 6 ptpGroup ++ toLe 6 s.chain.mac ++ toBe 2 0x88F7
    ++ toBe 1 1 ++ toBe 1 0x12 ++ toBe 2 44 ++ toBe 1 domain ++ toBe 1 0 ++ toBe 2 0 ++ toBe 8 0 ++ toBe 4 0
    ++ toBe 8 Config.clockIdentity.toNat ++ toBe 2 (port + 1) ++ toBe 2 seq ++ toBe 1 1 ++ toBe 1 0x7F ++ toBe 10 0
  let b := b ++ List.replicate (60 - b.length) 0#8
  b ++ fcs b

/-- Originate a message on both ports (R484). -/
def sendBoth (typ hops flags : Nat) (pay : Bytes) (s : State) : State :=
  let m := svcBytes typ hops flags (s.chain.seq % 2 ^ 32) dieNo pay
  sendSvc 1 m (sendSvc 0 m (onChain (fun c => { c with seq := c.seq + 1 }) s))

/-- Originate a message on one port. -/
def sendOne (p typ hops flags : Nat) (pay : Bytes) (s : State) : State :=
  sendSvc p (svcBytes typ hops flags (s.chain.seq % 2 ^ 32) dieNo pay) (onChain (fun c => { c with seq := c.seq + 1 }) s)

end Sys2Proof.Machine
end

