-- ==== Sys2Proof/Machine/Pcs.lean ====
section
/-! DEFINITION. The line coding of a Umio lane (R453 R455): 66-bit blocks with their sync headers, the self-synchronizing scrambler,
the block types of IEEE 802.3 Clause 49. The rule names that standard and does not repeat its tables: the codes below are PRESUMED
from it (notes/assumptions/79). Bit 0 of a block is the first on the line. -/

namespace Sys2Proof.Machine

/-- A bit reaches the lane: the scrambler keeps the last 58, the newest in bit 0 (R453). -/
def scrPush (st : BitVec 58) (b : Bool) : BitVec 58 := st <<< 1 ||| BitVec.ofNat 58 b.toNat

/-- What x^58 + x^39 + 1 adds to the next bit (R453). -/
def scrTap (st : BitVec 58) : Bool := st.getLsbD 38 ^^ st.getLsbD 57

/-- Scramble n bits, bit 0 first: the bits on the lane and the scrambler after them (R453). -/
def scramble : Nat → BitVec 58 → Nat → Nat × BitVec 58
  | 0, st, _ => (0, st)
  | n + 1, st, v =>
    let b := v.testBit 0 ^^ scrTap st
    let r := scramble n (scrPush st b) (v / 2)
    (b.toNat + 2 * r.1, r.2)

/-- The receiver's side: the bits sent, from the bits on the lane (R453). -/
def descramble : Nat → BitVec 58 → Nat → Nat × BitVec 58
  | 0, st, _ => (0, st)
  | n + 1, st, v =>
    let r := descramble n (scrPush st (v.testBit 0)) (v / 2)
    ((v.testBit 0 ^^ scrTap st).toNat + 2 * r.1, r.2)

/-- A block before the scrambler: control or data, and its 64 payload bits. -/
structure Block where
  ctrl : Bool
  payload : Nat
deriving DecidableEq, Repr

/-- Sync header (R454): 01 of a data block, 10 of a control block, the left bit first on the line. -/
def syncHeader (ctrl : Bool) : Nat := if ctrl then 1 else 2

/-- Eight control characters of 7 bits, from the i-th on: idle, or `/E/`. -/
def controlChars (i : Nat) (err : Bool) : Nat :=
  if err then ((List.range 8).map fun k => if i ≤ k then at_ (8 + 7 * k) 0x1E else 0).sum else 0

/-- A block of idle characters. -/
def idleBlock : Block := { ctrl := true, payload := 0x1E }

/-- An Umio ordered set (R455): block type 0x4B, O code 0xF, P in D1 to D3, idle characters behind. -/
def orderedBlock (p : Nat) : Block :=
  { ctrl := true, payload := 0x4B + at_ 8 (bits p 16 8) + at_ 16 (bits p 8 8) + at_ 24 (bits p 0 8) + at_ 32 0xF }

/-- The start block: `/S/` and the preamble. -/
def startBlock : Block := { ctrl := true, payload := leNat [0x78, 0x55, 0x55, 0x55, 0x55, 0x55, 0x55, 0xD5] }

/-- Block type of a terminate block behind n data bytes. -/
def termType (n : Nat) : Nat := [0x87, 0x99, 0xAA, 0xB4, 0xCC, 0xD2, 0xE1, 0xFF].getD n 0x87

/-- The terminate block behind the last 0 to 7 bytes; of a bad frame its control characters are `/E/` (R468). A block of seven data
bytes has room for none: the last of them is then not sent (DESIGN CHOICE: notes/assumptions/79). -/
def termBlock (rest : Bytes) (bad : Bool) : Block :=
  let rest := if bad then rest.take 6 else rest
  { ctrl := true, payload := termType rest.length + 256 * leNat rest + controlChars (rest.length + 1) bad }

/-- Data blocks of 8 bytes, n of them. -/
def dataBlocks : Nat → Bytes → List Block
  | 0, _ => []
  | n + 1, b => { ctrl := false, payload := leNat (b.take 8) } :: dataBlocks n (b.drop 8)

/-- The blocks of a frame: start, data, terminate. -/
def frameBlocks (b : Bytes) (bad : Bool) : List Block :=
  startBlock :: dataBlocks (b.length / 8) b ++ [termBlock (b.drop (b.length / 8 * 8)) bad]

/-- A block on the lane: the sync header is not scrambled (R453). -/
def laneBlock (x : Block) (l : Lane) : Lane :=
  let y := scramble 64 l.scr x.payload
  { scr := y.2, sent := BitVec.ofNat 66 (syncHeader x.ctrl + 4 * y.1) :: l.sent }

/-- Blocks on the lane, one after another. -/
def laneBlocks : List Block → Lane → Lane
  | [], l => l
  | x :: r, l => laneBlocks r (laneBlock x l)

/-- The transmit lane of port p. -/
def laneOf (s : State) (p : Nat) : Lane := Tab.get {} s.lanes p

/-- Port p sends blocks. The idle blocks between what the commands send are as many as the time between them holds, which the model
leaves out (notes/assumptions/79). -/
def laneSend (p : Nat) (bs : List Block) (s : State) : State := { s with lanes := Tab.put s.lanes p (laneBlocks bs (laneOf s p)) }

end Sys2Proof.Machine
end

