-- ==== Sys2Proof/Machine/PortOps.lean ====
section
/-! DEFINITION. Operations of the Umio ports: states, ordered sets, frames cut, a port that goes down, steps (13). -/

namespace Sys2Proof.Machine

/-- The link-up period (R457). -/
def linkUp (x : Port) : Bool := x.st == .up || x.st == .stepSwitch || x.st == .stepTrial || x.st == .fallback

/-- Frames and `CREDIT` flow (R457). -/
def flows (x : Port) : Bool := x.st == .up || x.st == .stepTrial

/-! ### Ordered sets (R455 R456) -/

/-- The payload of an ordered set from its kind and fields [19:4] (R455). -/
def osPayload (kind fields : Nat) : Nat := let p := at_ 20 kind + fields; p + crc4 p

/-- Send an ordered set, in place of an idle block (R455). -/
def sendOs (p kind fields : Nat) (s : State) : State :=
  laneSend p [orderedBlock (osPayload kind fields)] (emit (.orderedSet p kind (osPayload kind fields)) s)

/-- The 16 idle blocks before a switch of the rate (R457 R461). -/
def sendIdles (p : Nat) (s : State) : State := laneSend p (List.replicate 16 idleBlock) s

/-- Send an ordered set n times. -/
def sendOsN (p kind fields : Nat) : Nat → State → State
  | 0, s => s
  | n + 1, s => sendOsN p kind fields n (sendOs p kind fields s)

/-- Its CRC-4 holds (R455). -/
def osGood (v : BitVec 24) : Bool := decide (crc4 v.toNat = v.toNat % 16)

/-- Its kind (R456). -/
def osKind (v : BitVec 24) : Nat := bits v.toNat 20 4

/-- The fields of the `CAP` that a port sends (R456 R460). -/
def capFields (p : Nat) (x : Port) (ack : Bool) : Nat :=
  at_ 18 x.maxStep + at_ 16 x.step + at_ 12 1 + at_ 11 p + flag 10 ack + flag 9 true

/-! ### Frames cut and discarded (R462 R468 R469) -/

/-- The reception of a frame stops before its end: its cells return to the free list, its egress ends it as bad (R469). -/
def cutRx (p n : Nat) (s : State) : State :=
  match (portOf s p).rx with
  | none => s
  | some r =>
    let c := credOf s p r.prio
    let s := putCred s p r.prio { c with freed := (c.freed + n) % 8192 }
    let s := updPort p (fun x => { x with rx := none, cutCnt := satAdd 65535 x.cutCnt 1 }) s
    let s := clearStale (onChain (fun c => { c with free := c.free + r.cells }) s)
    match r.cut with
    | some id => settle id (updFrame id (fun f => { f with bad := true, whole := true }) s)
    | none => s

/-- The frame being sent is cut (R462 R469 R471): it counts as far as it went, 2 cells up to all of its own; how far is open. -/
def cutTx (p : Nat) (s : State) : State :=
  match (portOf s p).tx with
  | none => s
  | some t =>
    let s := updPort p (fun x => { x with tx := none, cutCnt := satAdd 65535 x.cutCnt 1 }) s
    match frameOf s t.frame with
    | some f =>
      let x := freshFree s
      let c := credOf x.2 p f.prio
      let s := putCred x.2 p f.prio { c with sent := c.sent + 2 + x.1.toNat % ((if f.whole then max 2 f.cells else 33) - 1) }
      txEnds f p none (doneWith t.frame (.egress p) s)
    | none => s

/-- Every frame queued for a port is discarded and counted (R469 R501). -/
def discardQueue (p : Nat) : List Nat → State → State
  | [], s => s
  | id :: r, s =>
    let s := updPort p (fun x => { x with queue := x.queue.filter (fun y => y != id), discard := satAdd 65535 x.discard 1 }) s
    discardQueue p r (match frameOf s id with
      | some f => txEnds f p none (doneWith id (.egress p) s)
      | none => s)

/-! ### States (R457 R458 R459) -/

/-- Training starts afresh in Lock at step 0 (R457). -/
def enterLock (p : Nat) (s : State) : State :=
  updPort p (fun x => { x with
    st := .lock, step := 0, lock := false, capSeen := false, ackSeen := false, txSleep := false, rxSleep := false
    waking := false, asking := false, target := 0, goodSent := false, goodSeen := false, noStep := false, started := true }) s

/-- A port leaves its link-up period (R459 R462 R469): frames in flight are cut, frames queued are discarded. -/
def leaveLink (p : Nat) (report : Bool) (s : State) : State :=
  if linkUp (portOf s p) then
    let s := cutTx p (cutRx p (match (portOf s p).rx with | some r => r.cells | none => 0) s)
    let s := discardQueue p (portOf s p).queue s
    let s := clearStale (updPort p (fun x => { x with period := x.period + 1 }) s)
    if report then raise (256 + p) s else s
  else s

/-- A port goes down to Lock from its link-up period (R459); `CHN_DOWN` unless commanded. -/
def portDown (p : Nat) (report : Bool) (s : State) : State :=
  if linkUp (portOf s p) then enterLock p (leaveLink p report s) else s

/-- `CREFCLK` has failed (R59): a port in its link-up period goes down, any other that runs waits in Lock. -/
def portLose (p : Nat) (s : State) : State :=
  let x := portOf s p
  if linkUp x then portDown p true s else if x.st = .disabled then s else enterLock p s

/-- An enabled port that has not started since the chip reset enters Lock (R457 R497). -/
def startPort (p : Nat) (s : State) : State :=
  let x := portOf s p
  if x.en ∧ ¬ x.started ∧ x.st = .disabled ∧ s.power.crefOk then enterLock p s else s

/-- Start both ports, when `CREFCLK` is good. -/
def portsRestart (s : State) : State := startPort 1 (startPort 0 s)

/-- A port enters Capability (R457 R460 R470): it advertises `ADV`, and both ends of one role raise `CHN_ROLE`. -/
def enterCapability (p : Nat) (s : State) : State :=
  let x := portOf s p
  let cred := (List.range 8).foldl (fun t k =>
    let c := credOf s p k
    Tab.put t k { c with advUsed := c.adv, freed := 0, lastInit := none, initOk := false }) x.cred
  let s := putPort s p { x with st := .capability, cred }
  if x.partnerWest = (p == 1) then raise 267 s else s

/-- Capability ends in Up (R457 R458): a link-up period begins, the back-off returns to 1 s. -/
def tryUp (p : Nat) (s : State) : State :=
  let x := portOf s p
  if x.st = .capability ∧ x.ackSeen ∧ (List.range 8).all (fun k => (credOf s p k).initOk) then
    putPort s p { x with st := .up, backoff := 0, period := x.period + 1 }
  else s

/-! ### Steps (R461) -/

/-- Both sides switch to a step after the accept (R461 R462). -/
def enterSwitch (p t : Nat) (s : State) : State :=
  updPort p (fun x => { x with
    st := .stepSwitch, oldStep := x.step, step := t, lock := false, capSeen := false, asking := false, target := 0
    goodSent := false, goodSeen := false }) (sendIdles p (cutTx p s))

/-- A failed step: back to the old step, `CHN_STEP`, and no further step in the link-up period (R461). -/
def enterFallback (p : Nat) (s : State) : State :=
  raise (260 + p) (updPort p (fun x => { x with
    st := .fallback, step := x.oldStep, lock := false, capSeen := false, noStep := true, goodSent := false, goodSeen := false })
    (sendIdles p (cutTx p s)))

/-- An error seen in Step trial: the side sends result bad at once and falls back (R461). -/
def trialError (p : Nat) (s : State) : State :=
  if (portOf s p).st = .stepTrial then enterFallback p (sendOs p 4 (at_ 18 (portOf s p).step + at_ 16 3) s) else s

/-- The step is kept when each side has both sent and received good (R461). -/
def keepStep (p : Nat) (s : State) : State :=
  let x := portOf s p
  if x.st = .stepTrial ∧ x.goodSent ∧ x.goodSeen then putPort s p { x with st := .up } else s

/-- An East port answers an accepted request and switches (R461). -/
def acceptStep (p t : Nat) (s : State) : State := enterSwitch p t (sendOs p 4 (at_ 18 t + at_ 16 1) s)

/-- An invalid block or ordered set is counted (R455 R501); in Step trial it is an error (R461). -/
def badBlock (p : Nat) (s : State) : State :=
  let x := portOf s p
  if x.st = .disabled ∨ x.rxSleep then s
  else trialError p (updPort p (fun x => { x with blockErr := satAdd 65535 x.blockErr 1 }) s)

/-- An ordered set of a kind reaches a port (R455): a failed CRC-4 is counted, another kind is not this command's. -/
def onOs (p kind : Nat) (v : BitVec 24) (f : State → State) (s : State) : Out :=
  if (portOf s p).st = .disabled then .next s
  else if !osGood v then .next (badBlock p s)
  else if osKind v ≠ kind then .next s
  else .next (f s)

end Sys2Proof.Machine
end

