-- ==== Sys2Proof/Machine/Collector.lean ====
section
/-! DEFINITION. The fault collector: lines, windows, acknowledgement, injection, vector 32, the log, its start (11). -/

namespace Sys2Proof.Machine

/-- FAULT_SOURCE_EVENT (R374 R378): the slots whose lines channel A accepts in one clock, in ascending order. -/
def execFaultSourceEvent (slots : List (Fin 512)) (s : State) : Out := ifRuns s .safety <|
  when_ s.faults.started (acceptLines ((List.range 512).filter fun n => slots.any fun k => k.val == n)) s

/-- FLT_WIRE (R374 R385 R389 R400): a broken code for 1.0 µs; `FLT_WIRE` is raised and the slot counts one event. The break of
an armed dual-rail injection ends with its 1.0 µs. -/
def execFltWire (slot : Fin 512) (code : Bool) (s : State) : Out := ifRuns s .safety <|
  let n := slot.val
  when_ (s.faults.started && (slotInfo n).isSome && !(slotOf s n).wire)
    (fun s =>
      let inj := takeInj n 3 s
      let s := inj.2
      let s := putSlot s n { slotOf s n with wire := true, code }
      let s := if s.faults.wireValid then s else onFlt (fun f => { f with wireValid := true, wireSlot := n }) s
      let s := logEntry 2 (slotWord n { slotOf s n with inj := inj.1 } (slotOf s n).cls true) (raiseInj 498 inj.1 s)
      let s := countEvent n true inj.1 s
      if inj.1 then putSlot s n { slotOf s n with wire := false } else s) s

/-- WINDOW_EXPIRY (R375): the window closes. -/
def execWindowExpiry (slot : Fin 512) (s : State) : Out := ifRuns s .safety <|
  when_ (decide (0 < (slotOf s slot.val).wcount)) (fun s => putSlot s slot.val { slotOf s slot.val with wcount := 0 }) s

/-- FAULT_ACK (R337 R380 R381): also serves the restart condition of code 2 when it names slot 489 or all. -/
def execFaultAck (id : Nat) (s : State) : Out :=
  runOp s id 0x38 fun d =>
    let n := le d.bytes 16 2
    let x := ackSlots (if n = 0xFFFF then List.range 512 else [n]) s
    let s := complete id (if x.1 then stBUSY else stOK) [] x.2
    if (n = 0xFFFF ∨ n = 489) ∧ restartCode s = 2 ∧ restartWait s then endEstop s else s

/-- FAULT_INJECT (R385): one injection in the chip at a time. -/
def execFaultInject (id : Nat) (s : State) : Out :=
  runOp s id 0x39 fun d =>
    if s.faults.inj.isSome then complete id stBUSY [] s
    else onFlt (fun f => { f with inj := some { id, slot := le d.bytes 16 2, checker := le d.bytes 18 1, left := le d.bytes 19 1 } })
      (updDesc id (fun d => { d with taken := true }) s)

/-- INJECTION_TIMEOUT (R386): 10 s after the arming. -/
def execInjectionTimeout (s : State) : Out := ifRuns s .ring <|
  match s.faults.inj with
  | none => .next s
  | some j => .next (complete j.id stUNTESTED [] (onFlt (fun f => { f with inj := none }) s))

/-- REARM (R387 R394): a promotion missed meanwhile is signalled at once. -/
def execRearm (value : BitVec 32) (s : State) : Out :=
  when_ (barOpen s && value.toNat.testBit 0)
    (fun s =>
      if s.faults.irqMissed then signal 32 (onFlt (fun f => { f with irqMissed := false, irqArmed := false }) s)
      else onFlt (fun f => { f with irqArmed := true }) s) s

/-- LOG_COPY (R390): the oldest uncopied entries go to the journal in one record, unless one is on its way. -/
def execLogCopy (s : State) : Out := ifRuns s .mp <|
  let busy := s.nvm.queue.any fun r => match r.why with | .logCopy _ => true | _ => false
  when_ (decide (0 < s.faults.uncopied) && !busy)
    (queueRecs [{ page := 0, bytes := [], why := .logCopy (min logPerRec s.faults.uncopied) }]) s

/-- Raise the conditions of the references that have failed (R59). -/
def clockConds (s : State) : State :=
  let c := s.power.clkFailed
  let s := if c.testBit 0 then condOn 483 s else s
  let s := if c.testBit 1 then condOn 484 s else s
  if c.testBit 2 then condOn 485 s else s

/-- FAULT_COLLECTOR_START (R39 R457 R568): rails and clocks are up; the collector starts, enabled ports enter Lock. -/
def execFaultCollectorStart (s : State) : Out := ifRuns s .safety <|
  when_ (!s.power.held && !s.faults.started)
    (fun s =>
      let c := s.power.clkFailed
      let s := { s with power := { s.power with
        vcoreOk := true, vdd18Ok := true, vserOk := true
        xinOk := !c.testBit 0, crefOk := !c.testBit 1, perefOk := !c.testBit 2, clkBackup := c.testBit 0 } }
      clockConds (portsRestart (onFlt (fun f => { f with started := true }) s))) s

end Sys2Proof.Machine
end

