-- ==== Sys2Proof/Machine/RingOps.lean ====
section
/-! DEFINITION. Operations of the ring engine: the protection check, posting of completion and event entries,
consumption, flushing (03, 04). -/

namespace Sys2Proof.Machine

/-- The window grants an access of a level to `[addr, addr + len)` (R88 R97). -/
def winGrants (w : Win) (level addr len : Nat) (write : Bool) : Bool :=
  w.attr.testBit 31 && w.attr.testBit (if write then 4 + level else level)
    && decide (w.base ≤ addr) && decide (addr + len ≤ w.base + w.pages * 4096)

/-- The privilege check of R88 for a descriptor of SQ n, with its fence table; `NVM_WRITE` acts from level 0 only (R535). DEDUCED
(notes/assumptions/75): the source range of a host layer (R148) lies in context bytes that no descriptor carries, so its check
against the windows is the one of R89, at every boundary. -/
def privOk (p : ProtTable) (n : Nat) (b : Bytes) (fences : List (Nat × Nat)) : Bool :=
  let lvl := levelOf p n
  let op := le b 0 1
  (opcWord p lvl (op / 32)).testBit (op % 32) && (decide (op ≠ 0x58) || decide (lvl = 0))
    && (decide (lvl = 0) || decide (descLayers b &&& (2 ^ 63 - 1 - Tab.get 0 p.own n % 2 ^ 63) = 0))
    && ((decide (lvl = 0) && !p.winL0)
        || (descRanges b ++ fences.map fun (f : Nat × Nat) => (f.1, 8, false)).all fun r =>
            (List.range 16).any fun k => winGrants (Tab.get {} p.win k) lvl r.1 r.2.1 r.2.2)

/-- The fence table as address and threshold (R118). -/
def parseFences (b : Bytes) : Nat → List (Nat × Nat)
  | 0 => []
  | n + 1 => parseFences b n ++ [(le b (16 * n) 8, le b (16 * n + 8) 8)]

/-- An entry of a fence table that fails the format check (R118). -/
def badFence (f : Nat × Nat) : Bool := decide (f.1 % 8 ≠ 0) || decide (2 ^ 64 < f.1 + 8)

/-- After the format check: the privilege check, then the wait for dispatch (R88 R113). DESIGN CHOICE (notes/assumptions/75):
an `NVM_WRITE` that R535 refuses with `PRIV` raises `PROT_VIOL` like any other refusal. -/
def passChecks (id : Nat) (s : State) : State :=
  match descOf s id with
  | none => s
  | some d =>
    if privOk s.prot.active d.sq d.bytes d.fences then updDesc id (fun d => { d with phase := .queued }) s
    else raise 468 (complete id stPRIV [] s)

/-- The fence table has arrived (R118): its format, then the privilege check. -/
def finishTable (id : Nat) (data : Bytes) (s : State) : State :=
  match descOf s id with
  | none => s
  | some d =>
    let fs := parseFences data (le d.bytes 24 1)
    if fs.any badFence then complete id stBADDESC [] s
    else passChecks id (updDesc id (fun d => { d with fences := fs }) s)

/-- One descriptor is consumed (R108): the head passes it, the format check is made, a commit's fence table is read. -/
def consume1 (n : Nat) (b : Bytes) (s : State) : State :=
  let q := sqOf s n
  let id := s.rings.nextId
  let d : Desc := { id, sq := n, slot := q.head, bytes := b, phase := .table }
  let s := putSq s n { q with head := (q.head + 1) % 2 ^ q.size }
  let s := { s with rings := { s.rings with nextId := id + 1, inflight := s.rings.inflight ++ [d] } }
  if !formatOk b then complete id stBADDESC [] s
  else if le b 0 1 = 0x11 ∧ 0 < le b 24 1 then
    startRead (.fenceTable id) [(le b 32 8, 16 * le b 24 1)] s
  else passChecks id s

/-- A descriptor that is lost, its read having failed twice or its copy holding a double-bit error: consumed, completed `POISON`
with `DESC_LOST` (R30 R114). -/
def consumeLost (n : Nat) : Nat → State → State
  | 0, s => s
  | k + 1, s =>
    let q := sqOf s n
    let s := putSq s n { q with head := (q.head + 1) % 2 ^ q.size }
    consumeLost n k { s with rings := { s.rings with done := s.rings.done ++ [{ sq := n, status := stPOISON, lost := some q.head }] } }

/-- The descriptors of one request, in order; those whose on-chip copy has an uncorrected error are lost (R30 R114). -/
def consumeAll (n : Nat) (bad : List Nat) : List Bytes → Nat → State → State
  | [], _, s => s
  | b :: r, i, s => consumeAll n bad r (i + 1) (if bad.contains i then consumeLost n 1 s else consume1 n b s)

/-- Cut a run of bytes into descriptors of 64 bytes. -/
def cut64 (b : Bytes) : Nat → List Bytes
  | 0 => []
  | n + 1 => cut64 b n ++ [sub b (64 * n) 64]

/-- Slots of SQ n that are being fetched (R110). -/
def fetching (s : State) (n : Nat) : Nat :=
  (s.link.reads.map fun r => match r.who with | .fetch k _ c => if k = n then c else 0 | _ => 0).sum

/-- Entries reserved in CQ n (R108 R133). -/
def reserved (s : State) (n : Nat) : Nat :=
  ((List.range 32).map fun k =>
    let q := sqOf s k
    if q.state = .disabled ∨ q.bound ≠ n then 0
    else (s.rings.inflight.filter fun d => d.sq == k).length + (s.rings.done.filter fun d => d.sq == k).length + fetching s k).sum

/-- Entries posted to CQ n and not yet released (R108). -/
def posted (c : Cq) : Nat := (c.tail + 2 ^ c.size - c.head) % 2 ^ c.size

/-- Entries of CQ n that are neither posted nor reserved (R108). -/
def cqFree (s : State) (n : Nat) : Nat :=
  let c := cqOf s n
  2 ^ c.size - 1 - posted c - reserved s n

/-- Write one entry at the tail of CQ n and signal its vector if armed (R122 R123 R127). -/
def postEntry (n : Nat) (head : Bytes) (irq evt lost : Bool) (s : State) : State :=
  let c := cqOf s n
  let s := hostWrite (c.base + 32 * c.tail) (fit 28 head ++ toLe 4 (flag 0 c.phase + flag 1 evt + flag 2 lost)) s
  let t := (c.tail + 1) % 2 ^ c.size
  let sig := irq && c.armed
  let s := putCq s n { c with tail := t, phase := if t = 0 then !c.phase else c.phase, armed := c.armed && !sig }
  if sig then signal n s else s

/-- A draining SQ whose last completion has been posted becomes disabled (R131). -/
def drainEnd (n : Nat) (s : State) : State :=
  let q := sqOf s n
  if q.state = .draining ∧ ¬ (s.rings.inflight.any fun d => d.sq == n) ∧ ¬ (s.rings.done.any fun d => d.sq == n) then
    putSq s n { q with state := .disabled, head := 0, tail := 0 }
  else s

/-- The completion entry of R121, without its last word. -/
def entryOf (s : State) (d : Done) : Bytes :=
  let h := match d.lost with | some k => k | none => (sqOf s d.sq).head
  toLe 8 d.user ++ toLe 2 d.tag ++ toLe 1 d.opcode ++ toLe 1 d.status ++ toLe 2 h ++ toLe 1 d.sq ++ [0#8] ++ fit 12 d.result

/-- Post the front completion, if DMA is allowed (R124). -/
def postDone (s : State) : State :=
  match s.rings.done with
  | [] => s
  | d :: r =>
    if dmaOk s then
      let e := entryOf s d
      let s := { s with rings := { s.rings with done := r } }
      drainEnd d.sq (postEntry (sqOf s d.sq).bound e (!d.noirq) false d.lost.isSome s)
    else s

/-- Post every completion held (R75). -/
def postAllDone : Nat → State → State
  | 0, s => s
  | n + 1, s => postAllDone n (postDone s)

/-- CQ31 can take an event entry (R129). -/
def eventRoom (s : State) : Bool := (cqOf s 31).enable && decide (0 < cqFree s 31)

/-- The event entry of R121 and R128, without its last word. -/
def eventEntry (e : Event) : Bytes :=
  toLe 4 e.sec ++ toLe 4 e.ns ++ [0#8, 0#8, 0#8] ++ toLe 1 e.typ ++ [0#8, 0#8, 0#8, 0#8] ++ toLe 4 e.arg0 ++ toLe 4 e.arg1 ++ toLe 4 e.arg2

/-- An event is lost (R129): counted, and the `EVT_LOST` condition begins with the first. -/
def loseEvent (s : State) : State :=
  condOn 471 { s with rings := { s.rings with evtLost := satAdd (2 ^ 32 - 1) s.rings.evtLost 1, lostSince := s.rings.lostSince + 1 } }

/-- Post or discard one event (R128 R129). -/
def postOrLose (e : Event) (s : State) : State :=
  if eventRoom s then postEntry 31 (eventEntry e) true true false s else loseEvent s

/-- An `EVT_LOST` entry is posted as soon as CQ31 can take it (R128 R129 R504). -/
def postLost (s : State) : State :=
  if dmaOk s && decide (0 < s.rings.lostSince) && eventRoom s then
    let t := stampOf (outTime s)
    condOff 471 (postEntry 31 (eventEntry { typ := 7, sec := t.sec % 2 ^ 32, ns := t.ns, arg0 := s.rings.lostSince }) true true false
      { s with rings := { s.rings with lostSince := 0 } })
  else s

/-- One turn of event posting (R129): `EVT_LOST` first, then held events, then new ones; while DMA is blocked up to 64
events are held and further ones are lost. -/
def eventTurn (s : State) : State :=
  if dmaOk s then
    if 0 < s.rings.lostSince ∧ eventRoom s then postLost s
    else match s.rings.heldEvents with
      | e :: r => postOrLose e { s with rings := { s.rings with heldEvents := r } }
      | [] => match s.rings.events with
        | e :: r => postOrLose e { s with rings := { s.rings with events := r } }
        | [] => s
  else match s.rings.events with
    | [] => s
    | e :: r =>
      if s.rings.heldEvents.length < 64 then
        { s with rings := { s.rings with events := r, heldEvents := s.rings.heldEvents ++ [e] } }
      else loseEvent { s with rings := { s.rings with events := r } }

/-- Post the held events when DMA resumes (R129). -/
def postHeldEvents : Nat → State → State
  | 0, s => s
  | n + 1, s => postHeldEvents n (if dmaOk s then eventTurn s else s)

/-- Record a doorbell error (R106 R139). -/
def doorbellError (kick cq : Bool) (ring cause value : Nat) (s : State) : State :=
  raise 469 (if s.rings.dbErr.valid then s
    else { s with rings := { s.rings with dbErr := { valid := true, kick, cq, ring, cause, value := value % 4096 } } })

/-- The host-silence timer restarts (R134). -/
def hostHeard (s : State) : State :=
  condOff 472 { s with rings := { s.rings with silence := false } }

/-- Consumed descriptors of a draining SQ that have not begun complete `FLUSHED` (R131 R132). -/
def flushOne (d : Desc) (s : State) : State :=
  if le d.bytes 0 1 = 0x11 then s
  else if d.phase ≠ .running then complete d.id stFLUSHED [] s
  else if le d.bytes 0 1 = 0x49 then
    complete d.id stFLUSHED [] { s with chain := { s.chain with rxBufs := s.chain.rxBufs.filter fun b => b.id != d.id } }
  else s

/-- Flush a list of descriptors in ring order. -/
def flushAll : List Desc → State → State
  | [], s => s
  | d :: r, s => flushAll r (flushOne d s)

/-- A read item is still wanted while SQ n drains: what is not issued is dropped (R131). -/
def keepFetch (n : Nat) (r : ReadItem) : Bool :=
  match r.who with
  | .fetch k _ _ => k != n || r.chunks.any (fun c => c.tag.isSome)
  | _ => true

/-- The data of a fetch in flight for SQ n will be discarded (R131). -/
def voidFetch (n : Nat) (r : ReadItem) : ReadItem :=
  match r.who with
  | .fetch k f _ => if k = n then { r with who := .fetch k f 0 } else r
  | _ => r

/-- Fetches of a draining SQ: what is not issued is dropped, what is in flight will be discarded (R131). -/
def dropFetches (n : Nat) (s : State) : State :=
  { s with link := { s.link with reads := (s.link.reads.filter (keepFetch n)).map (voidFetch n) } }

/-- Enabled SQs at level 0 under a table (R87). -/
def levelZeroRings (s : State) (p : ProtTable) : Nat :=
  ((List.range 32).filter fun n => (sqOf s n).state == .running && levelOf p n == 0).length

/-- A change of the active table is refused (R87). -/
def tableRefused (s : State) (p : ProtTable) : Bool :=
  decide (0 < levelZeroRings s s.prot.active) && decide (levelZeroRings s p = 0)

end Sys2Proof.Machine
end

