-- ==== Sys2Proof/Machine/CmpOps.lean ====
section
/-! DEFINITION. Operations of the compositor: fences, validity, the cache, the composition of a frame, flip and release (05, 06). -/

namespace Sys2Proof.Machine

/-- Change the compositor. -/
def onCmp (f : Cmp → Cmp) (s : State) : State := { s with cmp := f s.cmp }

/-- Change frame timing. -/
def onFrm (f : Frm → Frm) (s : State) : State := { s with frm := f s.frm }

/-- Change one group. -/
def updGroup (gid : Nat) (f : Group → Group) (s : State) : State :=
  onCmp (fun c => { c with groups := c.groups.map fun g => if g.gid = gid then f g else g }) s

/-- A group by its commit. -/
def groupOf (s : State) (gid : Nat) : Option Group := s.cmp.groups.find? (fun g => g.gid == gid)

/-- Remove a group. -/
def dropGroup (gid : Nat) (s : State) : State :=
  onCmp (fun c => { c with groups := c.groups.filter fun g => g.gid != gid }) s

/-- F is at or after T modulo 2^32 (R193). -/
def atOrAfter (f t : Int) : Bool := decide ((f - t) % 2 ^ 32 < 2 ^ 31)

/-! ### Fences (R168 R169) -/

/-- Poll one fence, if DMA is allowed (R169 R602). -/
def pollFence (gid i : Nat) (addr : Nat) (s : State) : State :=
  if dmaOk s then startRead (.fence gid i) [(addr, 8)] s else s

/-- Poll the unsatisfied fences of a group from index i on. -/
def pollFences (gid : Nat) : List Fence → Nat → State → State
  | [], _, s => s
  | f :: r, i, s => pollFences gid r (i + 1) (if f.satisfied then s else pollFence gid i f.addr s)

/-- Poll the fences of several groups. -/
def pollGroups : List Group → State → State
  | [], s => s
  | g :: r, s => pollGroups r (pollFences g.gid g.fences 0 s)

/-- Held groups (R166): taken, neither flipped nor completed with a failure. -/
def heldGroups (s : State) : List Group := s.cmp.groups.filter fun g => g.st == .held

/-- A poll of fence i of a group is outstanding. -/
def pollOut (s : State) (gid i : Nat) : Bool := s.link.reads.any fun r => r.who == .fence gid i

/-- One kick of a group (R169): poll at once, or once more when the outstanding poll returns. -/
def kickFences (gid : Nat) : List Fence → Nat → State → State
  | [], _, s => s
  | f :: r, i, s =>
    let s' := if f.satisfied then s
      else if pollOut s gid i then
        updGroup gid (fun g => { g with fences := g.fences.mapIdx fun j x => if j = i then { x with again := true } else x }) s
      else pollFence gid i f.addr s
    kickFences gid r (i + 1) s'

/-- Kick several groups. -/
def kickAll : List Group → State → State
  | [], s => s
  | g :: r, s => kickAll r (kickFences g.gid g.fences 0 s)

/-- A `FENCE_KICK` of SQ n (R105 R169). -/
def kickGroups (n : Nat) (s : State) : State := kickAll ((heldGroups s).filter fun g => g.sq == n) s

/-! ### Validity and the cache (R149 R160 to R164) -/

/-- Cache size (R161). -/
def cacheSize : Nat := 12 * 2 ^ 20

/-- A cache byte range is wholly valid (R149 R161). -/
def cacheValid (s : State) (r : Nat × Nat) : Bool :=
  decide (r.2 ≤ cacheSize) && ranges.covers s.cmp.valid (r.1 / 64) ((r.2 + 63) / 64)

/-- The conditions of R149 but for the guard count. -/
def ctxBad (s : State) (l : Nat) (c : Ctx) : Bool :=
  let fm := cFormat c
  (decide (4 < fm) || decide (4 < cBlend c) || (if isVideo l then !(fm == 0 || fm == 4) else fm == 4))
    || cStallPol c == 3
    || cSrcW c == 0 || cSrcH c == 0
    || cSrc c % 8 != 0 || cStride c % 8 != 0 || decide (cStride c < cSrcW c * bpp fm)
    || (cSrcCache c && !cacheValid s (cSrc c, cSrc c + srcLen c))
    || (cTtEn c && (!isVideo l || !cacheValid s (cTtOff c, cTtOff c + 512)))
    || (cCoefCache c && !cacheValid s (cCoefOff c, cCoefOff c + 1536))
    || (isVideo l && (decide (4 * cDstW c < cSrcW c) || decide (8 * cSrcW c < cDstW c)
          || decide (4 * cDstH c < cSrcH c) || decide (8 * cSrcH c < cDstH c)))
    || (cDarkCrit c && !(fm == 2 && cBlend c == 3 && !cOpaque c))

/-- The invalid layers of a resulting state, in ascending number, with the guard row of R149: a fifth guarded layer is invalid. -/
def badLayers (s : State) (ctxOf : Nat → Ctx) : Nat → List Nat × Nat
  | 0 => ([], 0)
  | n + 1 =>
    let r := badLayers s ctxOf n
    let c := ctxOf n
    if !cEn c then r
    else if ctxBad s n c then (n :: r.1, r.2)
    else if cGuardEn c then (if 4 ≤ r.2 then (n :: r.1, r.2) else (r.1, r.2 + 1))
    else r

/-- Cache ranges in use: from the taking of a group until the release of the group that replaces its state (R163). -/
def inUse (s : State) : List (Nat × Nat) :=
  (s.cmp.active.flatMap fun e => if cEn e.2.ctx && !e.2.bad then cacheRanges e.2.ctx else [])
    ++ (s.cmp.groups.flatMap fun g =>
        (g.layers.flatMap fun l => if cEn l.2.1 && !l.2.2.2 then cacheRanges l.2.1 else []) ++ g.replaced.flatMap cacheRanges)

/-- A byte range overlaps one in use (R163). -/
def overlapsUse (s : State) (a b : Nat) : Bool := (inUse s).any fun r => decide (a < r.2) && decide (r.1 < b)

/-- Read the cache (R161). -/
def cacheRead (s : State) (a n : Nat) : Bytes := Mem.readAll 0#8 s.cmp.cache a n

/-! ### The frame in composition (R155 R171 R175) -/

/-- The mode in which an active layer is composed under its stall policy (R177). -/
def policyMode (x : Layer) : Mode :=
  if x.policy then (match cStallPol x.ctx with | 1 => .absent | 2 => .dark | _ => .normal) else .normal

/-- The source range of a host layer is permitted to its owner (R89). DEDUCED (notes/assumptions/75): the SQ that last set the
layer is the one whose `LAYER_SET` last wrote the context in force; a later one of a context not yet committed does not count. -/
def srcAllowed (s : State) (x : Layer) : Bool :=
  cSrcCache x.ctx ||
    (decide (levelOf s.prot.active x.owner = 0) && !s.prot.active.winL0) ||
    (List.range 16).any fun k =>
      winGrants (Tab.get {} s.prot.active.win k) (levelOf s.prot.active x.owner) (cSrc x.ctx) (srcLen x.ctx) false

/-- Poisoned parts of a cache range, as offset and length (R164). -/
def poisonOf (s : State) (o n : Nat) : List (Nat × Nat) :=
  s.cmp.poisoned.filterMap fun line =>
    let a := max (line * 64) o
    let b := min (line * 64 + 64) (o + n)
    if a < b then some (a - o, b - a) else none

/-- One active layer as it takes part in a new frame. -/
def frameLayer (s : State) (l : Nat) (x : Layer) : FLayer :=
  let c := x.ctx
  { l, ctx := c
    mode := if !srcAllowed s x then .absent else policyMode x
    src := if cSrcCache c then [(0, cacheRead s (cSrc c) (srcLen c))] else []
    tt := if cTtEn c then cacheRead s (cTtOff c) 512 else []
    coef := if cCoefCache c then cacheRead s (cCoefOff c) 1536 else []
    poison := if cSrcCache c then poisonOf s (cSrc c) (srcLen c) else []
    ttPoison := if cTtEn c then poisonOf s (cTtOff c) 512 else []
    coefPoison := if cCoefCache c then poisonOf s (cCoefOff c) 1536 else [] }

/-- Start the reads of one layer of a new frame: its source, or the probe row of a policy (R175 R177). A layer whose source is
not permitted is not fetched at all (R89). -/
def startLayer (stack : List FLayer) (f : FLayer) (policy : Bool) (s : State) : State :=
  if cSrcCache f.ctx then s
  else if f.mode = .normal then
    let runs := (fetchRuns stack f).map fun r => (cSrc f.ctx + r.1, r.2)
    if runs.isEmpty then s
    else
      let s := onCmp (fun c => { c with comp := c.comp.map fun k => { k with waiting := f.l :: k.waiting } }) s
      if dmaOk s then startRead (.layer f.l) runs s
      else onCmp (fun c => { c with comp := c.comp.map fun k => { k with failed := f.l :: k.failed } }) s
  else if policy && dmaOk s then
    startRead (.stallProbe f.l) [(cSrc f.ctx, cSrcW f.ctx * bpp (cFormat f.ctx))] s
  else s

/-- Start the reads of the layers of a new frame. -/
def startLayers (stack : List FLayer) : List FLayer → State → State
  | [], s => s
  | f :: r, s => startLayers stack r (startLayer stack f ((layerOf s f.l).policy && srcAllowed s (layerOf s f.l)) s)

/-- Mark and report the layers whose source is no longer permitted (R89). -/
def reportRevoked : List Nat → State → State
  | [], s => s
  | l :: r, s =>
    let x := layerOf s l
    let s' := if cEn x.ctx && !x.bad && !srcAllowed s x && !x.revoked then
        raise 468 (onCmp (fun c => { c with active := Tab.put c.active l { x with revoked := true } }) s)
      else s
    reportRevoked r s'

/-- An enabled, valid active layer reads cache line p (R164). -/
def readsLine (s : State) (p : Nat) : Bool :=
  s.cmp.active.any fun e => cEn e.2.ctx && !e.2.bad &&
    (cacheRanges e.2.ctx).any fun r => decide (r.1 < p * 64 + 64) && decide (p * 64 < r.2)

/-- Words of the resident cache that the frame reads (R385). -/
def cacheWords (s : State) : Nat :=
  (s.cmp.active.map fun e => if cEn e.2.ctx && !e.2.bad then ((cacheRanges e.2.ctx).map fun r => (r.2 - r.1 + 7) / 8).sum else 0).sum

/-- The frame reads the resident cache: each line found with an uncorrected error is poisoned and raises `CMP_CACHE_ECC` once; an
injected verdict is reported alike and poisons nothing (R11 R164 R386). -/
def reportPoison (ecc : EccSeen) (s : State) : State :=
  let x := takeInjs 451 1 (cacheWords s) s
  let s := if x.1 = 0 then x.2 else raiseInj 451 true x.2
  let lines := ecc.bad.eraseDups.filter fun p => readsLine s p && !s.cmp.poisoned.contains p
  raiseN lines.length 451 (eccCorrected ecc.corrected (onCmp (fun c => { c with poisoned := lines ++ c.poisoned }) s))

/-- Composition of the frame of a boundary begins from the active contexts (R145 R194). -/
def beginComp (num : Int) (ecc : EccSeen) (s : State) : State :=
  let s := reportPoison ecc (reportRevoked (List.range 63) s)
  let on := s.cmp.active.filter fun e => decide (e.1 < 63) && cEn e.2.ctx && !e.2.bad
  let stack := stackSort (on.map fun e => frameLayer s e.1 e.2)
  startLayers stack stack (onCmp (fun c => { c with comp := some { frame := { num, layers := stack } } }) s)

/-- Data of a layer fetch reaches the frame (R175). -/
def layerData (l : Nat) (runs : List (Nat × Bytes)) (s : State) : State :=
  onCmp (fun c => { c with comp := c.comp.map fun k =>
    { k with
      waiting := k.waiting.filter (fun x => x != l)
      frame := { k.frame with layers := k.frame.layers.map fun f =>
        if f.l = l then { f with src := f.src ++ runs.map fun r => (r.1 - cSrc f.ctx, r.2) } else f } } }) s

/-- The stall probe of a layer has completed (R177). -/
def probeDone (l : Nat) (s : State) : State :=
  onCmp (fun c => { c with comp := c.comp.map fun k => { k with probed := l :: k.probed } }) s

/-! ### Release (R172 R195) -/

/-- A confirmed group completes at its release instant (R172). -/
def releaseGroup (g : Group) (s : State) : State :=
  let s := dropGroup g.gid s
  let s := if g.late then onFrm (fun f => { f with cntLate := satAdd 65535 f.cntLate 1 }) s else s
  complete g.gid (if g.late then stLATE else stOK) (toLe 4 (unsigned 32 g.flipNum)) s

/-- Release every group whose cut point has passed and whose frame has ended (R172). -/
def releaseAll : List Group → State → State
  | [], s => s
  | g :: r, s => releaseAll r (if g.st = .confirmed ∧ g.cutSeen ∧ g.compEnded then releaseGroup g s else s)

/-- Release what can be released; completions of one clock in the order of R124. -/
def releaseReady (s : State) : State := sameClock (releaseAll s.cmp.groups) s

/-- Provisional flips are confirmed and their frame's composition has ended (R171 R172). -/
def confirmAll (s : State) : State :=
  onCmp (fun c => { c with groups := c.groups.map fun g =>
    if g.st = .provisional then { g with st := .confirmed, compEnded := true } else g }) s

/-! ### The flip (R167 R171 R195) -/

/-- Apply a group to the active contexts (R145 R167). -/
def applyGroup (g : Group) (t : Tab Layer) (lim : Nat) : Tab Layer :=
  g.layers.foldl (fun t x => Tab.put t x.1 { ctx := x.2.1, owner := x.2.2.1, bad := x.2.2.2, limit := lim }) t

/-- Condition 3 of R167. -/
def targetMet (num : Int) (g : Group) : Bool := match g.target with | none => true | some t => atOrAfter num t

/-- The groups that pass conditions 1, 3 and 4 of R167 at a boundary, in the order of taking; `open_` are the SQs with an
earlier group that does not flip here. -/
def judge (num : Int) : List Group → List Nat → List (Group × Bool × Bool)
  | [], _ => []
  | g :: r, blocked =>
    if g.st ≠ .held then judge num r blocked
    else
      let order := !blocked.contains g.sq
      let c134 := !g.afterCut && targetMet num g && order
      let el := c134 && (g.returned || g.fences.all fun f => f.satisfied)
      (g, c134, el) :: judge num r (if el then blocked else g.sq :: blocked)

/-- Condition 4 and the fences of a group taken in the latch gap, for `LATE` (R195): every other condition held. -/
def lateAt (num : Int) (eligibleSqBlocked : Bool) (g : Group) : Bool :=
  match g.target with
  | none => g.gapTaken && !eligibleSqBlocked && g.fences.all fun f => f.satisfied
  | some t => g.afterCut && atOrAfter num t

/-- The marks of a held group at a boundary: its age, its lateness, the passing of its latch gap (R170 R195). -/
def markGroup (num : Int) (lim : Nat) (js : List (Group × Bool × Bool)) (g : Group) : Group :=
  if g.st ≠ .held then g
  else
    let c134 := js.any fun j => j.1.gid == g.gid && j.2.1
    let blocked := js.any fun j => j.1.gid < g.gid && j.1.sq == g.sq && !j.2.2
    { g with
      age := match g.age with | none => if c134 then some (0, lim) else none | some (a, l) => some (a + 1, l)
      late := g.late || lateAt num blocked g
      afterCut := false
      gapTaken := false }

/-- The flips of a boundary, one group after another (R167 R171). -/
def flipGroups (num : Int) : List Group → State → State
  | [], s => s
  | g :: r, s =>
    let old := g.layers.filterMap fun x => let y := layerOf s x.1; if cEn y.ctx && !y.bad then some y.ctx else none
    let s := onCmp (fun c => { c with active := applyGroup g c.active c.fetchLim }) s
    flipGroups num r (updGroup g.gid (fun g => { g with
      st := .provisional, flipNum := num, replaced := old, cutSeen := false, compEnded := false }) s)

end Sys2Proof.Machine
end

