-- ==== Sys2Proof/Machine/Compose.lean ====
section
/-! DEFINITION. Layer composition: contexts, commit groups, the cache, fences, the flip, stalls (05). -/

namespace Sys2Proof.Machine

/-- Replace `n` bytes of a context from byte `off` on (R146). -/
def ctxPatch (c : Ctx) (off : Nat) (b : Bytes) : Ctx :=
  BitVec.ofNat 2048 (setBits c.toNat (8 * off) (8 * b.length) (leNat b))

/-- LAYER_SET (R146): all or nothing into the staged context. -/
def execLayerSet (id : Nat) (s : State) : Out :=
  runRead s id 0x10 fun d data =>
    let l := le d.bytes 16 1
    let x := Tab.get {} s.cmp.staged l
    complete id stOK [] (onCmp (fun c => { c with
      staged := Tab.put c.staged l { ctx := ctxPatch x.ctx (le d.bytes 18 2) data, owner := d.sq } }) s)

/-- Layers named by a bitmap, ascending (R143). -/
def layersOf (m : Nat) : List Nat := (List.range 63).filter fun l => m.testBit l

/-- The layers that invalidity turns off when the group flips: judged at the taking, on the state that results (R149). -/
def badOfGroup (s : State) (ls : List Nat) : List Nat :=
  let ctxOf := fun l => if ls.contains l then (Tab.get {} s.cmp.staged l).ctx else
    (let x := layerOf s l; if x.bad then 0#2048 else x.ctx)
  (badLayers s ctxOf 63).1.filter fun l => ls.contains l

/-- Raise `CMP_CTX_BAD` with the number of each layer (R149). -/
def raiseBad : List Nat → State → State
  | [], s => s
  | l :: r, s => raiseBad r (raise 449 (onCmp (fun c => { c with badLayer := l }) s))

/-- LAYER_COMMIT (R160 R165 R166 R169 R195): taken, or rejected with `BUSY` or `LINEBUF`. -/
def execLayerCommit (id : Nat) (s : State) : Out :=
  runOp s id 0x11 fun d =>
    let ls := layersOf (le d.bytes 16 8)
    let wide := ls.any fun l => isVideo l && cEn (Tab.get {} s.cmp.staged l).ctx && decide (2048 < cSrcW (Tab.get {} s.cmp.staged l).ctx)
    if 16 ≤ (heldGroups s).length then complete id stBUSY [] s
    else if wide then complete id stLINEBUF [] s
    else
      let bad := badOfGroup s ls
      let target := if le d.bytes 25 1 = 1 then some (le d.bytes 28 4) else none
      let g : Group := {
        gid := id, sq := d.sq, tag := le d.bytes 2 2
        layers := ls.map fun l => let x := Tab.get {} s.cmp.staged l; (l, x.ctx, x.owner, bad.contains l)
        fences := d.fences.map fun f => { addr := f.1, threshold := f.2 }
        target
        afterCut := s.frm.cutPassed
        gapTaken := s.frm.cutPassed && target.isNone
        late := match target with | some t => atOrAfter s.frm.num t | none => false }
      let s := raiseBad bad.reverse s
      let s := updDesc id (fun d => { d with taken := true }) s
      let s := onFrm (fun f => { f with takenInPeriod := true }) (onCmp (fun c => { c with groups := c.groups ++ [g] }) s)
      pollFences id g.fences 0 s

/-- CACHE_LOAD (R162 R163 R164): a line that is rewritten is no longer poisoned. -/
def execCacheLoad (id : Nat) (s : State) : Out :=
  runOp s id 0x12 fun d =>
    let a := le d.bytes 16 4
    let n := le d.bytes 20 4
    if overlapsUse s a (a + n) ∧ (d.failed ∨ d.data.isSome) then complete id stBUSY [] s
    else if d.failed then
      complete id stPOISON [] (onCmp (fun c => { c with valid := ranges.remove c.valid (a / 64) ((a + n) / 64) }) s)
    else match d.data with
      | none => s
      | some b =>
        complete id stOK [] (onCmp (fun c => { c with
          cache := Mem.writeAll 0#8 c.cache a b
          valid := ranges.add c.valid (a / 64) ((a + n) / 64)
          poisoned := c.poisoned.filter fun p => !(decide (a ≤ p * 64) && decide (p * 64 < a + n)) }) s)

/-- CACHE_EVICT (R162 R163). -/
def execCacheEvict (id : Nat) (s : State) : Out :=
  runOp s id 0x13 fun d =>
    let a := le d.bytes 16 4
    let n := le d.bytes 20 4
    if overlapsUse s a (a + n) then complete id stBUSY [] s
    else complete id stOK [] (onCmp (fun c => { c with valid := ranges.remove c.valid (a / 64) ((a + n) / 64) }) s)

/-- FENCE_POLL_TICK (R169): every unsatisfied fence of every held group is polled. -/
def execFencePollTick (s : State) : Out := ifRuns s .ring <| .next (pollGroups (heldGroups s) s)

/-- FENCE_POLL_RESULT (R168 R169 R170): a returned poll is judged in the compositor; a kick during it polls once more. -/
def execFencePollResult (gid : Nat) (entry : Fin 8) (s : State) : Out := ifRuns s .comp <|
  match s.link.reads.find? (fun r => r.who == .fence gid entry.val && (r.failed || r.chunks.all fun c => c.data.isSome)) with
  | none => .next s
  | some r =>
    let s1 := { s with link := { s.link with reads := s.link.reads.filter fun y => y.id != r.id } }
    let v := leNat (r.chunks.flatMap fun c => c.data.getD [])
    match groupOf s1 gid with
    | none => .next s1
    | some g =>
      match g.fences[entry.val]? with
      | none => .next s1
      | some f =>
        let sat := f.satisfied || (!r.failed && decide (f.threshold ≤ v))
        let s2 := updGroup gid (fun g => { g with fences := g.fences.mapIdx fun j x =>
          if j = entry.val then { x with satisfied := sat, again := false } else x }) s1
        .next (if !sat && f.again then pollFence gid entry.val f.addr s2 else s2)

/-- The frame in composition will be dropped at this boundary because a layer stalls (R175 R197 R198). -/
def stallDrop (s : State) : Bool :=
  match s.cmp.comp with
  | none => false
  | some c => !c.ended && (!c.failed.isEmpty || (!c.waiting.isEmpty && (c.extended || !s.frm.extendEn)))

/-- The layers that stall in the frame in composition (R175). -/
def stalling (s : State) : List Nat :=
  match s.cmp.comp with | none => [] | some c => c.failed ++ c.waiting

/-- Layers of groups that completed `STALL` at this boundary: the frame counts to the group alone (R176 R177). -/
def stalledOut (s : State) : List Nat := match s.cmp.comp with | none => [] | some c => c.stalledOut

/-- A provisional group names a stalling layer (R171). -/
def groupStalls (s : State) (g : Group) : Bool := g.st == .provisional && g.layers.any fun x => (stalling s).contains x.1

/-- The active contexts without the provisional flips of the groups that return or fail (R171 R176). -/
def rebuildActive (keep : Group → Bool) (s : State) : State :=
  let num := match s.cmp.comp with | some k => k.frame.num | none => 0
  let gs := s.cmp.groups.filter fun g => g.st != .held && g.flipNum == num && keep g && !g.compEnded
  let t := gs.foldl (fun t g => applyGroup g t s.cmp.fetchLim) s.cmp.before
  onCmp (fun c => { c with active := t.map fun e =>
    let o := Tab.get {} c.active e.1
    if o.ctx = e.2.ctx ∧ o.owner = e.2.owner then (e.1, { e.2 with revoked := o.revoked }) else e }) s

/-- FENCE_TMO (R170): at the boundary that ends its count a group with a fence unsatisfied completes `FENCE_TMO`. -/
def execFenceTmo (gid : Nat) (s : State) : Out := ifRuns s .comp <|
  match groupOf s gid with
  | none => .next s
  | some g =>
    let due := match g.age with | some (a, l) => decide (l ≤ a + 1) | none => false
    if s.frm.flipPending && g.st == .held && due && !g.returned && g.fences.any (fun f => !f.satisfied) then
      let m := maskOf (fun i => match g.fences[i]? with | some f => !f.satisfied | none => false) 8
      .next (raise 452 (postEvent 2 (g.tag * 65536 + g.sq) m (unsigned 32 s.frm.num)
        (complete gid stFENCE_TMO [] (dropGroup gid s))))
    else .next s

/-- FETCH_TMO (R176 R177): a group completes `STALL`, or a layer enters its stall policy. -/
def execFetchTmo (target : StallTarget) (s : State) : Out := ifRuns s .comp <|
  match target with
  | .group gid =>
    match groupOf s gid with
    | none => .next s
    | some g =>
      let lim := if g.stalls = 0 then s.cmp.fetchLim else g.stallLimit
      if s.frm.flipPending && stallDrop s && groupStalls s g && decide (lim ≤ g.stalls + 1) then
        .next (raise 448 (complete gid stSTALL [] (rebuildActive (fun _ => true) (dropGroup gid
          (onCmp (fun c => { c with comp := c.comp.map fun k => { k with stalledOut := g.layers.map (fun x => x.1) ++ k.stalledOut } }) s)))))
      else .next s
  | .layer l =>
    let x := layerOf s l.val
    let lim := if x.stalls = 0 then s.cmp.fetchLim else x.limit
    let named := (s.cmp.groups.any fun g => g.st == .provisional && g.layers.any fun y => y.1 == l.val) || (stalledOut s).contains l.val
    if s.frm.flipPending && stallDrop s && (stalling s).contains l.val && !named && !x.policy && decide (lim ≤ x.stalls + 1) then
      .next (raise 448 (onFrm (fun f => { f with policyChange := true })
        (onCmp (fun c => { c with active := Tab.put c.active l.val { x with policy := true }, before := Tab.put c.before l.val { x with policy := true } }) s)))
    else .next s

/-- The general check unit of the layer guards computes the guard of a layer (R174 R547 R555). -/
def runGuard (f : FLayer) (s : State) : State :=
  let run := gcuRun 1 (toLe 4 (cGuardFold f.ctx) ++ guardBytes f) (gcuInit 1)
  putGcu s s.cmp.guardUnit { poly := 1, run, last := gcuFinal 1 run }

/-- Compare the guards of a composed frame, layer by layer (R174): each mismatch raises `CMP_GUARD` and the first is recorded. An
injected comparison gives the wrong verdict: it raises the source and has no other effect on the frame (R385 R386). Answers the
layers whose guard does not match. -/
def checkGuards (num : Int) : List FLayer → State → List FLayer × State
  | [], s => ([], s)
  | f :: r, s =>
    if cGuardEn f.ctx && f.mode == .normal then
      let x := takeInj 450 2 (runGuard f s)
      let crc := crc32c (toLe 4 (cGuardFold f.ctx) ++ guardBytes f)
      if crc ≠ (if x.1 then cGuardCrc f.ctx ^^^ 0xFFFFFFFF else cGuardCrc f.ctx) then
        let s := if x.2.cmp.guardErr.valid then x.2
          else onCmp (fun c => { c with guardErr := { valid := true, layer := f.l, frame := unsigned 16 num } }) x.2
        let y := checkGuards num r (raiseInj 450 x.1 s)
        (if crc = cGuardCrc f.ctx then y.1 else f :: y.1, y.2)
      else checkGuards num r x.2
    else checkGuards num r s

/-- COMPOSITION_END (R157 R171 R172 R174 R182): guards are compared, provisional flips confirmed, releases follow. -/
def execCompositionEnd (s : State) : Out := ifRuns s .comp <|
  match s.cmp.comp with
  | none => .next s
  | some c =>
    if c.ended ∨ ¬ c.waiting.isEmpty ∨ ¬ c.failed.isEmpty then .next s
    else
      let x := checkGuards c.frame.num c.frame.layers s
      let miss := x.1
      let s := x.2
      let s := onCmp (fun k => { k with
        load := min (2 ^ 28 - 1) (layerPixels c.frame)
        comp := some { c with ended := true, guardDrop := miss.any fun f => cGuardAct f.ctx } }) s
      .next (releaseReady (confirmAll s))

/-- Stall counts of the layers after a dropped frame (R177): layers that stall and that no provisional group names. -/
def countStalls (ls : List Nat) (s : State) : State :=
  onCmp (fun c => { c with
    active := c.active.map fun e =>
    let x := e.2
    if ls.contains e.1 then (e.1, { x with stalls := x.stalls + 1, limit := if x.stalls = 0 then c.fetchLim else x.limit })
    else (e.1, x) }) s

/-- A dropped frame with a stall (R171 R176 R198 R184): the groups that stall return to being held, the others are confirmed. -/
def dropStalled (s : State) : State :=
  let st := stalling s
  let back := (s.cmp.groups.filter fun g => groupStalls s g).map Group.gid
  let named := stalledOut s ++ s.cmp.groups.flatMap fun g => if back.contains g.gid then g.layers.map (fun x => x.1) else []
  let s := rebuildActive (fun g => !back.contains g.gid) s
  let s := onCmp (fun c => { c with
    stallCount := satAdd (2 ^ 32 - 1) c.stallCount 1
    groups := c.groups.map fun g =>
      if back.contains g.gid then
        { g with st := .held, returned := true, stalls := g.stalls + 1, stallLimit := if g.stalls = 0 then c.fetchLim else g.stallLimit }
      else g }) s
  countStalls (st.filter fun l => !named.contains l) (confirmAll s)

/-- Layers whose stall policy ends after the frame just ended (R177). -/
def endPolicies (c : Comp) (s : State) : State :=
  let ends := fun (l : Nat) (x : Layer) => x.policy &&
    (c.probed.contains l || (policyMode x == .normal && !c.failed.contains l && !c.waiting.contains l))
  let any := s.cmp.active.any fun e => ends e.1 e.2
  let s := onCmp (fun k => { k with
    active := k.active.map fun e =>
    if ends e.1 e.2 then (e.1, { e.2 with policy := false, stalls := 0 })
    else if !(c.failed.contains e.1 || c.waiting.contains e.1) && !e.2.policy then (e.1, { e.2 with stalls := 0 })
    else e }) s
  if any then onFrm (fun f => { f with policyChange := true }) s else s

/-- Reads of a frame whose work ends are no longer wanted: what is outstanding is still received and discarded (R198). -/
def dropLayerReads (s : State) : State :=
  { s with link := { s.link with reads := (s.link.reads.filter fun r =>
      (match r.who with | .layer _ => false | .stallProbe _ => false | _ => true) || r.chunks.any (fun c => c.tag.isSome)).map fun r =>
      match r.who with
      | .layer _ => { r with who := .layer 63 }
      | .stallProbe _ => { r with who := .layer 63 }
      | _ => r } }

/-- The boundary ends the frame in composition (R194 R198): swap, or drop. -/
def endFrame (s : State) : State :=
  match s.cmp.comp with
  | none => onFrm (fun f => { f with swapped := false }) s
  | some c =>
    let s' :=
      if c.ended && !c.guardDrop then
        onFrm (fun f => { f with swapped := true }) (onCmp (fun k => { k with front := c.frame }) s)
      else if c.ended then onFrm (fun f => { f with swapped := false }) s
      else if stallDrop s then onFrm (fun f => { f with swapped := false }) (dropStalled s)
      else raise 453 (onFrm (fun f => { f with swapped := false, cntOverrun := satAdd 65535 f.cntOverrun 1 }) (confirmAll s))
    releaseReady (endPolicies c (dropLayerReads (onCmp (fun k => { k with comp := none }) s')))

/-- One item passes the flip gate (R14 R196 R199). -/
def passItem (it : GateItem) (s : State) : State :=
  match it with
  | .frameCtrl id item v late =>
    let s := onFrm (fun f => match item with
      | 1 => { f with rate := bits v 0 8 }
      | 2 => { f with epochSec := bits v 30 34, epochNs := bits v 0 30 }
      | 3 => { f with staticHold := bits v 0 8, keepalive := bits v 8 8 }
      | _ => { f with extendEn := v.testBit 0 }) s
    let s := if late then onFrm (fun f => { f with cntLate := satAdd 65535 f.cntLate 1 }) s else s
    complete id (if late then stLATE else stOK) [] s
  | .tileMap v => markItems 255 (onCmp (fun c => { c with tileMapEff := v }) s)
  | .stripSet id late => stripDuty id late s
  | .gains n g => gainsInForce n g s
  | .map n m => mapInForce n m s
  | .mapOff n => mapInForce n [] s
  | .trim ch v => trimInForce ch v s

/-- Items pass in order. -/
def passItems : List GateItem → State → State
  | [], s => s
  | it :: r, s => passItems r (passItem it s)

/-- The marks and counts of every group at a boundary, before the flips (R170 R195 R199). -/
def markAll (num : Int) (js : List (Group × Bool × Bool)) (s : State) : State :=
  onCmp (fun c => { c with groups := c.groups.map (markGroup num c.fenceLim js) }) s

/-- A layer is under `HOLD` (R202). -/
def anyHold (s : State) : Bool := s.cmp.active.any fun e => e.2.policy && cStallPol e.2.ctx == 0

/-- The frame period ended by this boundary, and what passed at it, leave the boundary unchanged (R202). -/
def isUnchanged (dropped : Bool) (flips items : Nat) (s : State) : Bool :=
  !dropped && decide (flips = 0) && decide (items = 0) && !s.frm.takenInPeriod && !s.frm.policyChange && !anyHold s
    && (heldGroups s).isEmpty && !(s.cmp.gate.any fun g => match g.2 with | .frameCtrl _ _ _ _ => true | _ => false)

/-- The count of unchanged boundaries reaches `STATIC_HOLD` at this boundary (R202). -/
def staticDue (same : Bool) (f : Frm) : Bool := same && decide (0 < f.staticHold) && decide (f.staticHold ≤ f.holdCnt)

/-- A boundary at which the gate opens (R167 R194 R198 R202 R203 R204): no composition begins in static-picture mode, nor at the
boundary that enters it; `analog` says that an analog step passes too. -/
def openGate (ecc : EccSeen) (analog : Bool) (s : State) : State :=
  let num := s.frm.num
  let was := s.cmp.comp
  let wasStatic := s.frm.static
  let s := endFrame s
  let dropped := match was with | some c => c.extended || !s.frm.swapped | none => false
  let ready := (s.cmp.gate.filter fun g => g.1).map fun g => g.2
  let js := judge num s.cmp.groups []
  let flips := (js.filter fun j => j.2.2).map fun j => j.1
  let same := isUnchanged dropped flips.length (ready.length + if analog then 1 else 0) s
  let s := passItems ready (onCmp (fun c => { c with gate := c.gate.filter fun g => !g.1, before := c.active }) (markAll num js s))
  let s := flipGroups num flips s
  let s := if flips.isEmpty then s else { s with faults := { s.faults with lmFirst := false } }
  let s := onFrm (fun f => { f with
    holdCnt := if same then f.holdCnt + 1 else 0
    unchanged := same, gateClosed := false, static := wasStatic && same }) s
  let s := if wasStatic && same || staticDue same s.frm then s else beginComp num ecc s
  onCmp (fun c => { c with fetchLim := c.fetchTmo, fenceLim := c.fenceTmo }) s

/-- A boundary at which a frame is extended (R197 R199): the gate stays closed, every frame count goes on. -/
def extendFrame (c : Comp) (s : State) : State :=
  let num := s.frm.num
  let js := judge num s.cmp.groups []
  let s := markAll num js (onCmp (fun k => { k with comp := some { c with extended := true } }) s)
  let s := onCmp (fun k => { k with fetchLim := k.fetchTmo, fenceLim := k.fenceTmo }) s
  onFrm (fun f => { f with
    cntExtended := satAdd 65535 f.cntExtended 1, swapped := false, gateClosed := true, holdCnt := 0, unchanged := false }) s

/-- What a boundary does in the compositor (R167 R171 R176 R194 R197 R198 R218 R242). -/
def flipNow (ecc : EccSeen) (s : State) : State :=
  let s := onFrm (fun f => { f with flipPending := false, cutPending := false, cutPassed := false }) s
  let analog := analogDue s
  let s := stripAnalogDone s
  let s := match s.cmp.comp with
    | some c => if !c.ended && c.failed.isEmpty && s.frm.extendEn && !c.extended then extendFrame c s else openGate ecc analog s
    | none => openGate ecc analog s
  let s := { s with therm := { s.therm with chipInForce := (domainOf s 0).level } }
  governor (onFrm (fun f => { f with takenInPeriod := false, policyChange := false }) s)

/-- BOUNDARY_FLIP (R194): the boundary is judged in the compositor; the reads of the frame whose composition begins show the memory
errors of the resident cache, by line number (R11 R164). -/
def execBoundaryFlip (s : State) (ecc : EccSeen := {}) : Out := ifRuns s .comp <|
  when_ s.frm.flipPending (sameClock (flipNow ecc)) s

/-- CUT_POINT (R23 R172 R196): commit taking closes for the next boundary; groups whose composition has ended are released. -/
def execCutPoint (s : State) : Out := ifRuns s .comp <|
  when_ s.frm.cutPending
    (fun s =>
      let s := onFrm (fun f => { f with cutPending := false, cutPassed := true }) s
      let s := onCmp (fun c => { c with
        gate := c.gate.map fun g => (true, g.2)
        groups := c.groups.map fun g => if g.st = .held then g else { g with cutSeen := true } }) s
      releaseReady s) s

/-- STATIC_PICTURE_ENTRY (R202 R203): the count has reached `STATIC_HOLD`, so no composition was begun at this boundary. -/
def execStaticPictureEntry (s : State) : Out := ifRuns s .comp <|
  when_ (staticDue s.frm.unchanged s.frm && !s.frm.static) (onFrm fun f => { f with static := true }) s

end Sys2Proof.Machine
end

