-- ==== Sys2Proof/Machine/Diag.lean ====
section
/-! DEFINITION. Pixel diagnosis on request and the spare Fronds: probe periods, `DIAG_READ`, heartbeats, takeover,
reinstatement (09). -/

namespace Sys2Proof.Machine

/-! ### Verdict maps (R301 R308 R314) -/

/-- Pixels of a tile. -/
def pixels_ : Nat := 147456

/-- Every pixel of a map. -/
def allPixels : Nat := 2 ^ 147456 - 1

/-- The verdict of a pixel in a map (R301). -/
def verdictOf (g : Diag) (ix : Nat) : Nat := (g.vLo.testBit ix).toNat + 2 * (g.vHi.testBit ix).toNat

/-- The end of a probe period in one map (R308): untested pixels whose tested bit is 0 become due, tested bits clear. -/
def probeEnd (g : Diag) : Diag :=
  { g with due := g.due ||| ((allPixels ^^^ g.tested) &&& (allPixels ^^^ (g.vLo ||| g.vHi))), tested := 0 }

/-- The end of a probe period at the first n positions. -/
def probeEnds : Nat → State → State
  | 0, s => s
  | n + 1, s => updTile n (fun t => { t with diag := probeEnd t.diag }) (probeEnds n s)

/-- PROBE_PERIOD (R308 R518): trigger channel 10; no probe period ends while firmware does not run. -/
def execProbePeriod (s : State) : Out := ifRuns s .frond <| when_ s.nvm.running (probeEnds 8) s

/-- The bytes of rows of a map (R314). -/
def diagRows (g : Diag) (first count : Nat) : Bytes :=
  (List.range (96 * count)).map fun k =>
    let ix := 384 * first + 4 * k
    BitVec.ofNat 8 (verdictOf g ix + 4 * verdictOf g (ix + 1) + 16 * verdictOf g (ix + 2) + 64 * verdictOf g (ix + 3))

/-- Pixels of a range of rows with a verdict. -/
def countVerdict (g : Diag) (first count v : Nat) : Nat :=
  ((List.range (384 * count)).filter fun k => verdictOf g (384 * first + k) == v).length

/-- DIAG_READ (R125 R314). -/
def execDiagRead (id : Nat) (s : State) : Out :=
  runOp s id 0x23 fun d =>
    let n := le d.bytes 16 1
    let first := le d.bytes 20 4
    let count := le d.bytes 24 4
    let t := tileOf s n
    if t.noOwner then complete id stQUARANTINE [] s
    else if dmaOk s then
      let g := if t.present then t.diag else {}
      let untested := countVerdict g first count 0
      complete id (if untested = 0 then stOK else stUNTESTED)
        (toLe 4 (countVerdict g first count 2) ++ toLe 4 (countVerdict g first count 3) ++ toLe 4 untested)
        (hostWrite (le d.bytes 32 8) (diagRows g first count) s)
    else s

/-! ### Heartbeats (R316) -/

/-- The position whose pins a Frond holds, takeover in progress or not (R317). -/
def heldBy (s : State) (f : Nat) : Option Nat := (List.range 8).find? fun n => serving s n == some f

/-- The spare Frond, if there is one. -/
def spareOf (s : State) : Option Nat := (List.range 9).find? fun f => (frondOf s f).role == .spare

/-- The Frond g takes over position n (R306 R315 R317): it is granted the position's epoch and holds the mirrored state of
Frond f, but no latch of its own; the verdict map starts afresh (R307); u = 128 until the map has been read again. -/
def takeOver (n g : Nat) (old : Frond) (s : State) : State :=
  let t := tileOf s n
  let x := frondOf s g
  let s := putFrond s g { x with
    role := .active, epoch := t.epoch, misses := 0
    shortEn := old.shortEn, srtDly := old.srtDly, shifting := old.shifting, decide := old.decide, shiftedNow := old.shiftedNow
    since := old.since, item := old.item, lastForce := old.lastForce, gapDone := old.gapDone }
  putTile s n { t with
    owner := some g, noOwner := false, takeover := true, mapPending := true, map := []
    diag := { freshMap t.diag with last := none, prev := none } }

/-- A position is left without an owner (R319): its pins idle, `TENn` low, the tile dark. -/
def noOwner (n : Nat) (s : State) : State :=
  raise 209 (updTile n (fun t => { t with
    noOwner := true, tsyncBy := none, takeover := false, sent := none, tapPend := false, diag := freshMap t.diag }) (darken n s))

/-- A Frond that is dead drives no `TSYNCn` in another's place (R316). -/
def returnSync (f : Nat) : Nat → State → State
  | 0, s => s
  | n + 1, s => updTile n (fun t => { t with tsyncBy := if t.tsyncBy = some f then none else t.tsyncBy }) (returnSync f n s)

/-- A Frond is declared dead (R316 R317 R319): quarantined, its position's epoch one higher; the spare takes over. -/
def declareDead (f : Nat) (inj : Bool) (s : State) : State :=
  let old := frondOf s f
  let held := heldBy s f
  let s := putFrond s f { old with
    role := .quarantined, misses := 0, staleSeen := false, shifting := none, decide := false, shiftedNow := false, item := false }
  let s := returnSync f 8 (raiseInj (200 + f) inj s)
  match held with
  | none => s
  | some n =>
    let s := updTile n (fun t => { t with epoch := (t.epoch + 1) % 65536 }) s
    match spareOf s with
    | some g => takeOver n g old s
    | none => noOwner n s

/-- A missing token of Frond f is counted and reported (R316 R327 R599). -/
def tokenMissed (f : Nat) (inj : Bool) (s : State) : State :=
  let x := frondOf s f
  raiseInj 211 inj (putFrond s f { x with hbMiss := satAdd (2 ^ 32 - 1) x.hbMiss 1 })

/-- The first missing token of an active Frond (R316): suspect; `TSYNCn` passes to the spare, which makes up for a pulse
that the crossbar has not seen. -/
def suspect (f k : Nat) (pulseSeen : Bool) (s : State) : State :=
  let s := putFrond s f { frondOf s f with role := .suspect, misses := 1 }
  match heldBy s f, spareOf s with
  | some n, some g =>
    let s := updTile n (fun t => { t with tsyncBy := some g }) s
    if !pulseSeen then startSlice n k s else s
  | _, _ => s

/-- A token has arrived (R316): a suspect Frond is active again, `TSYNCn` returns at the next slice start. -/
def tokenSeen (f : Nat) (s : State) : State :=
  let x := frondOf s f
  let s := putFrond s f { x with misses := 0, role := if x.role = .suspect then .active else x.role }
  match heldBy s f with
  | some n => updTile n (fun t => { t with tsyncBy := none }) s
  | none => s

/-- HEARTBEAT_CHECK (R316 R320 R385): the supervisor judges the token of a slice 1.0 µs after its start; an injected check
suppresses it. -/
def execHeartbeatCheck (f : Fin 9) (token pulseSeen : Bool) (s : State) (slice : Fin 16 := 0) : Out := ifRuns s .ring <|
  let r := (frondOf s f.val).role
  if r = .quarantined ∨ r = .selftest then .next s
  else
    let x := takeInj (200 + f.val) 4 (atSlice slice.val 65536000 s)
    if token && !x.1 then .next (tokenSeen f.val x.2)
    else
      let s := tokenMissed f.val x.1 x.2
      match r with
      | .active => .next (suspect f.val slice.val pulseSeen s)
      | .suspect => .next (declareDead f.val x.1 s)
      | _ => .next (if 1 ≤ (frondOf s f.val).misses then declareDead f.val x.1 s
          else putFrond s f.val { frondOf s f.val with misses := 1 })

/-! ### Takeover and reinstatement (R317 to R321) -/

/-- A start pulse whose time fell while no Frond drove `TSYNCn` is sent at once (R224). -/
def latePulse (n : Nat) (s : State) : State :=
  let k := slicesDue s
  if s.frm.inGap || !s.frm.started || decide (k ≤ (tileOf s n).started) then s else startSlice n (k - 1) s

/-- TAKEOVER_COMPLETE (R224 R317 R318): the new owner drives the pins; an interrupted shift starts again from bit 0 with u = 128
if there is time, and the shift after a broken one is not compared. -/
def execTakeoverComplete (n : Fin 8) (s : State) : Out := ifRuns s .frond <|
  let t := tileOf s n.val
  match t.takeover, t.owner with
  | true, some g =>
    let s := latePulse n.val (emit (.tileBusRead n.val 0x52 0x1000 147456) (putTile s n.val { t with takeover := false, tsyncBy := none }))
    let x := frondOf s g
    match x.shifting with
    | none => .next s
    | some r =>
      let s := dropChecks n.val 24 s
      let inTime := decide (outTime s ≤ s.frm.start + s.frm.steps + tuSec / (s.frm.rate : Int) - 3338000 * 65536)
      .next (putFrond s g (if inTime then { x with shifting := some { r with map := [] } }
        else { x with shifting := none, shiftedNow := false, since := x.since + 1, lastForce := none }))
  | _, _ => .next s

/-- MAP_REREAD_COMPLETE (R272 R317): a map that passes `MAP_CRC` goes to the flip gate. -/
def execMapRereadComplete (n : Fin 8) (map : Bytes) (s : State) : Out := ifRuns s .frond <|
  let t := tileOf s n.val
  if !t.mapPending then .next s
  else
    let s := putTile s n.val { t with mapPending := false }
    match t.header with
    | some h =>
      .next (if map.length = 147456 ∧ crc32c map = h.mapCrc then
          { s with cmp := { s.cmp with gate := s.cmp.gate ++ [(true, .map n.val map)] } }
        else s)
    | none => .next s

/-- FROND_STALE (R320): a write of a check or a readback result of a quarantined Frond is discarded and counted. -/
def execFrondStale (f : Fin 9) (write : StaleWrite) (s : State) : Out := ifRuns s .ring <|
  let _ := write
  let x := frondOf s f.val
  when_ (decide (x.role = .quarantined))
    (fun s => fencedWrite f.val (putFrond s f.val { x with staleCnt := satAdd (2 ^ 32 - 1) x.staleCnt 1 })) s

/-- FROND_REINSTATE (R321): the self-test of a quarantined Frond starts. -/
def execFrondReinstate (id : Nat) (s : State) : Out :=
  runOp s id 0x70 fun d =>
    let f := le d.bytes 16 1
    let x := frondOf s f
    if x.role = .quarantined then
      updDesc id (fun d => { d with taken := true }) (putFrond s f { x with role := .selftest, reinstate := some id })
    else complete id stOK (toLe 4 0) s

/-- The descriptor of a self-test completes (R321). -/
def endSelftest (f code st : Nat) (role : Role) (s : State) : State :=
  let x := frondOf s f
  let s := putFrond s f { x with role, reinstate := none, selftest := code, misses := 0 }
  match x.reinstate with
  | some id => complete id st (toLe 4 code) s
  | none => s

/-- FROND_SELFTEST_END (R321 R330): passed, the Frond takes over a position without an owner or becomes the spare; failed, it
stays quarantined. -/
def execFrondSelftestEnd (f : Fin 9) (code : Nat) (s : State) : Out := ifRuns s .frond <|
  if (frondOf s f.val).role ≠ .selftest ∨ code = 0 ∨ 5 < code then .next s
  else if code = 1 then
    let s := endSelftest f.val code stOK .spare s
    let s := putFrond s f.val { frondOf s f.val with epoch := 0 }
    match (List.range 8).find? (fun n => (tileOf s n).noOwner) with
    | some n => .next (takeOver n f.val { frondOf s f.val with shifting := none, lastForce := none } s)
    | none => .next s
  else .next (raise (200 + f.val) (endSelftest f.val code stQUARANTINE .quarantined s))

end Sys2Proof.Machine
end

