-- ==== Sys2Proof/Machine/ReportOps.lean ====
section
/-! DEFINITION. The `LEDGER_REPORT` of a node (13). -/

namespace Sys2Proof.Machine

/-- The payload of `LEDGER_REPORT`: bytes 4 to 47 of each position's status record, zero for an absent tile (R487); on the wire its
fields, the serial as one of them, are in network byte order (R3 R483). -/
def reportPay (s : State) : Bytes :=
  (List.range 8).flatMap fun n => if (tileOf s n).present then statusFields toBe s n else List.replicate 44 0#8

/-- A `LEDGER_REPORT` on both ports, `HOPS` 64 and `RELAY` 1 (R484 R487). -/
def sendReport (s : State) : State := sendBoth 0x06 64 1 (reportPay s) s

/-- Several reports. -/
def sendReports : Nat → State → State
  | 0, s => s
  | n + 1, s => sendReports n (sendReport s)

/-- The reports that are due go out: one for each `LEDGER_EOL` event, one when the last commit of a periodic ledger commit
has ended (R487). -/
def flushReport (s : State) : State :=
  let open_ := s.tiles.committing.isSome || (List.range 8).any fun n => let t := tileOf s n; t.commitReq && t.present && t.baseKnown
  let s := if s.tiles.periodic && !open_ then
      onTiles (fun k => { k with periodic := false }) (onChain (fun c => { c with report := c.report + 1 }) s)
    else s
  sendReports s.chain.report (onChain (fun c => { c with report := 0 }) s)

end Sys2Proof.Machine
end

