-- ==== Sys2Proof/Machine/FwOps.lean ====
section
/-! DEFINITION. Firmware transfers over the chain and the service port: offers, blocks, requests, status (15). -/

namespace Sys2Proof.Machine

/-- SLIP framing of a packet (R542, RFC 1055; PRESUMED, notes/assumptions/79): END at both ends, END and ESC escaped within. -/
def slip (m : Bytes) : Bytes :=
  [0xC0] ++ m.flatMap (fun b => if b = 0xC0 then [0xDB, 0xDC] else if b = 0xDB then [0xDB, 0xDD] else [b]) ++ [0xC0]

/-- The bytes of a SLIP packet: ends dropped, escapes taken back (R542, RFC 1055). -/
def unslip : Bytes → Bytes
  | [] => []
  | 0xC0 :: r => unslip r
  | 0xDB :: 0xDC :: r => 0xC0 :: unslip r
  | 0xDB :: 0xDD :: r => 0xDB :: unslip r
  | b :: r => b :: unslip r

/-- Send a service message where one came from: a port, or the service port in SLIP framing (R542). -/
def sendVia (via : Option Nat) (typ hops flags : Nat) (pay : Bytes) (s : State) : State :=
  match via with
  | some p => sendOne p typ hops flags pay s
  | none => emit (.svcOut (slip (svcBytes typ hops flags (s.chain.seq % 2 ^ 32) dieNo pay))) (onChain (fun c => { c with seq := c.seq + 1 }) s)

/-- The source of a transfer by its way in (R541): 2 chain, 3 service port. -/
def srcOf (via : Option Nat) : Nat := if via.isSome then 2 else 3

/-- The image that the node takes blocks of (R539 R543): by the accepted offer, or, in Chrysalis, by the header in the partition. -/
def namedImage (s : State) : Option Nat :=
  match s.nvm.xfer.image with
  | some x => some x.1
  | none => if s.nvm.noFw && headerOk (imageHeader s) then some (imageId (imageHeader s)) else none

/-- The payload of `FW_STATUS` (R542). -/
def fwStatusPay (image state : Nat) (s : State) : Bytes :=
  toLe 8 image ++ toBe 1 state ++ toBe 3 0 ++ toBe 4 s.nvm.xfer.got.length ++ toBe 4 (firstMissing s)

/-- The check of a block (R542): CRC-32C of the data with the index folded in (R547). -/
def blockCrc (i : Nat) (data : Bytes) : Nat := crc32c (toLe 4 i ++ data)

/-- FW_OFFER (R541 R543): accepted from an open way in, for an image other than that in the partition; refused with state 4
while another source writes. -/
def fwOffer (via : Option Nat) (pay : Bytes) (s : State) : State :=
  let s := onNvm (fun n => { n with offerSeen := true }) s
  let id := le pay 0 8
  let held := headerOk (imageHeader s) && imageId (imageHeader s) == id
  if pay.length < 20 ∨ (via.isSome ∧ !s.nvm.chainEn) then s
  else if s.nvm.fwState = 1 ∧ s.nvm.source ≠ srcOf via then sendVia via 0x05 64 1 (fwStatusPay id 4 s) s
  else if held then s
  else onXfer (fun x =>
    if x.image.map (fun y => y.1) = some id then x
    else { x with got := [], pages := [], sinceRecord := 0, image := some (id, be pay 16 4) }) s

/-- The records of a block (R531 R540): pages 2 i and 2 i + 1 of the partition. What the rest of a page that the data ends
within holds is open. -/
def blockRecs (i : Nat) (data rest : Bytes) : List Rec :=
  let p := fun k => (data ++ rest.drop (data.length % 512)).drop (512 * k) |>.take 512
  if data.length ≤ 512 then [{ page := 128 + 2 * i, bytes := p 0, why := .block i true }]
  else [{ page := 128 + 2 * i, bytes := p 0, why := .block i false }, { page := 129 + 2 * i, bytes := p 1, why := .block i true }]

/-- Blocks whose last record waits or is in progress. -/
def blocksQueued (s : State) : Nat :=
  (s.nvm.queue.filter fun r => match r.why with | .block i l => l && !s.nvm.xfer.got.contains i | _ => false).length

/-- A block is stored (R540 R541 R543); every 64th is answered with `FW_STATUS` toward the originator. -/
def storeBlock (via : Option Nat) (image i : Nat) (data : Bytes) (s : State) : State :=
  if s.power.inhibit then s
  else
    let s := beginWriting (srcOf via) s
    let fresh := !s.nvm.xfer.got.contains i
    let x := openPage s
    let s := queueRecs (blockRecs i data (if data.length % 512 = 0 then [] else x.1)) (if data.length % 512 = 0 then s else x.2)
    let n := s.nvm.xfer.got.length + blocksQueued s
    if fresh ∧ n % 64 = 0 then sendVia via 0x05 64 1 (fwStatusPay image (if neededBlocks s ≤ n then 2 else 1) s) s else s

/-- FW_BLOCK (R541 R543): a block of the image that the node is receiving; an injected comparison gives the verdict alone, the
block is stored or refused as it stands (R385 R386). -/
def fwBlock (via : Option Nat) (pay : Bytes) (s : State) : State :=
  let id := le pay 0 8
  let i := be pay 8 4
  let n := be pay 12 2
  if namedImage s ≠ some id ∨ ¬ (1 ≤ n ∧ n ≤ 1024) ∨ pay.length < 20 + n ∨ neededBlocks s ≤ i ∨ 3072 < i
      ∨ firstMissing s = neededBlocks s ∨ (s.nvm.fwState = 1 ∧ s.nvm.source ≠ srcOf via) then s
  else
    let x := takeInj 355 2 s
    let data := sub pay 16 n
    let got := be pay (16 + n) 4
    let want := blockCrc i data
    let s := if got = (if x.1 then want ^^^ 0xFFFFFFFF else want) then x.2 else raiseInj 355 x.1 x.2
    if got = want then storeBlock via id i data s
    else onXfer (fun y => { y with bad := satAdd 15 y.bad 1 }) s

/-- The data of block i of the image in the partition (R540). -/
def blockData (s : State) (i : Nat) : Bytes :=
  let size := 512 + le (imageHeader s) 12 4
  ((partPage s 1 (2 * i)).1 ++ (partPage s 1 (2 * i + 1)).1).take (size - 1024 * i)

/-- The payload of `FW_BLOCK` (R542). -/
def fwBlockPay (s : State) (image i : Nat) : Bytes :=
  let b := blockData s i
  toLe 8 image ++ toBe 4 i ++ toBe 2 b.length ++ toBe 2 0 ++ b ++ toBe 4 (blockCrc i b)

/-- Send blocks from the first on. -/
def sendBlocks (via : Option Nat) (image hops first : Nat) : Nat → State → State
  | 0, s => s
  | n + 1, s => sendVia via 0x03 hops 1 (fwBlockPay s image (first + n)) (sendBlocks via image hops first n s)

/-- FW_REQUEST (R544): a node that holds the image in the clean state answers with the blocks, and does not relay. -/
def fwRequest (via : Option Nat) (hops : Nat) (pay : Bytes) (s : State) : Bool × State :=
  let first := be pay 8 4
  let count := be pay 12 4
  if s.nvm.running ∧ s.nvm.fwState = 0 ∧ headerOk (imageHeader s) ∧ imageId (imageHeader s) = le pay 0 8
      ∧ 16 ≤ pay.length ∧ 1 ≤ count ∧ count ≤ 64 ∧ first < partBlocks s then
    let n := min count (partBlocks s - first)
    (true, sendBlocks via (le pay 0 8) (65 - hops) first n (readNvmWords (128 * n) s))
  else (false, s)

/-- Blocks of the first missing range, at most 64 (R542 R544). -/
def missingRun (s : State) (i : Nat) : Nat → Nat
  | 0 => 0
  | n + 1 => if i < neededBlocks s ∧ !s.nvm.xfer.got.contains i then 1 + missingRun s (i + 1) n else 0

/-- FW_REQUEST_TIMER (R539 R544): 1 s after the last block stored, and every 1 s while no further block arrives. -/
def execFwRequestTimer (s : State) : Out := ifRuns s .mp <|
  match namedImage s with
  | none => .next s
  | some id =>
    when_ (decide (firstMissing s < neededBlocks s) && (s.nvm.noFw || (s.nvm.running && s.nvm.fwState == 1 && s.nvm.source != 1)))
      (fun s => sendBoth 0x04 64 1 (toLe 8 id ++ toBe 4 (firstMissing s) ++ toBe 4 (missingRun s (firstMissing s) 64)) s) s

/-- BOOT_FAIL_STATUS_TIMER (R539): Chrysalis that cannot name an image sends `FW_STATUS` state 5 until an offer arrives; the
`IMAGE_ID` of no image is open. -/
def execBootFailStatusTimer (s : State) : Out := ifRuns s .mp <|
  when_ (s.nvm.noFw && !headerOk (imageHeader s) && !s.nvm.offerSeen)
    (fun s => let x := freshFree s; sendBoth 0x05 64 1 (fwStatusPay x.1.toNat 5 x.2) x.2) s

end Sys2Proof.Machine
end

