-- ==== Sys2Proof/Machine/Forward.lean ====
section
/-! DEFINITION. Frames between the ports, the host and the management processor: reception, forwarding, egress, the pool,
`NET_TX`, `NET_RX_POST`, service messages (13). -/

namespace Sys2Proof.Machine

/-! ### Reception (R465 to R469) -/

/-- Credits available to the transmitter of priority k of port p (R472). -/
def availOf (s : State) (p k : Nat) : Nat := let c := credOf s p k; c.init + c.returned - c.sent

/-- A frame that comes in on port p at priority k can be sent cut-through on the other port (R467). -/
def cutThrough (s : State) (p k : Nat) : Bool :=
  let x := portOf s p
  let y := portOf s (otherPort p)
  y.st == .up && y.tx.isNone && !y.asking && !y.txSleep && !(y.queue.any fun id => decide (k ≤ prioOf s id))
    && decide (33 ≤ availOf s (otherPort p) k) && decide (y.step ≤ x.step)

/-- FRAME_HEADER_PARSED (R465 R466 R467 R506): the first 64 bytes of a frame. -/
def execFrameHeaderParsed (p : Fin 2) (bytes : Bytes) (s : State) : Out := ifRuns s .chain <|
  let x := portOf s p.val
  when_ (flows x && x.lock && !x.rxSleep && x.rx.isNone && decide (2 ≤ s.chain.free))
    (fun s =>
      let k := framePrio s bytes
      let ts := rxStamp s p.val
      let s := onChain (fun c => { c with free := c.free - 2 }) s
      if (classify s bytes).1 && cutThrough s p.val k then
        let id := s.chain.nextFrame
        let q := otherPort p.val
        let f : PoolFrame := { id, bytes, cells := 0, prio := k, origin := .ingress p.val, shared := false, wants := [.egress q]
                               ts, period := x.period, whole := false }
        let s := countSkipped f (addFrame f (updPort p.val (fun x => { x with rx := some { cells := 2, prio := k, cut := some id, ts } }) s))
        updPort q (fun y => { y with tx := some { frame := id, ts := txStamp s q } }) s
      else updPort p.val (fun x => { x with rx := some { cells := 2, prio := k, ts } }) s) s

/-- The FCS of a frame holds (R465). -/
def fcsGood (b : Bytes) : Bool := decide (4 ≤ b.length) && b.drop (b.length - 4) == fcs (b.take (b.length - 4))

/-- A frame that was discarded at its end (R468 R472): its cells are freed, or, if it is being sent, its egress ends it. -/
def frameBad (p : Nat) (r : RxFrame) (bytes : Bytes) (s : State) : State :=
  let n := cellsOf_ bytes.length
  match r.cut with
  | some id => settle id (updFrame id (fun f => { f with bytes, cells := n, bad := true, whole := true })
      (onChain (fun c => { c with free := c.free - n }) s))
  | none => let c := credOf s p r.prio; putCred s p r.prio { c with freed := (c.freed + n) % 8192 }

/-- A frame that ended without error goes to its consumers (R466 R467 R482). -/
def frameGood (p : Nat) (r : RxFrame) (bytes : Bytes) (poison : Bool) (s : State) : State :=
  let n := cellsOf_ bytes.length
  let w := classify s bytes
  let host := w.2.1 && hostTakes s r.prio
  let more : List Consumer := (if host then [.host r.prio] else []) ++ (if w.2.2 then [.mgmt] else [])
  let s := if w.2.1 && !host then countDrop r.prio s else s
  let q := otherPort p
  let x : Nat × State := match r.cut with
    | some id => (id, updFrame id (fun f => { f with bytes, cells := n, whole := true, poison, wants := f.wants ++ more })
        (onChain (fun c => { c with free := c.free - n }) s))
    | none =>
      let id := s.chain.nextFrame
      let s := addFrame { id, bytes, cells := n, prio := r.prio, origin := .ingress p, shared := false
                          wants := (if w.1 then [.egress q] else []) ++ more, poison, ts := r.ts, period := (portOf s p).period } s
      (id, if w.1 then enqueue q id s else s)
  let s := onChain (fun c => { c with
    hostQ := if host then c.hostQ ++ [(r.prio, x.1)] else c.hostQ
    mgmtQ := if w.2.2 then c.mgmtQ ++ [x.1] else c.mgmtQ }) x.2
  fillHost r.prio 1 (settle x.1 s)

/-- FRAME_RECEIVED (R462 R465 R466 R468 R469 R501): the terminate block; `err` is an `/E/` from upstream. A frame that a rate switch
overtook is cut. -/
def execFrameReceived (p : Fin 2) (bytes : Bytes) (err poison : Bool) (s : State) : Out := ifRuns s .chain <|
  match (portOf s p.val).rx with
  | none => .next s
  | some r =>
    if !flows (portOf s p.val) then .next (cutRx p.val (cellsOf_ bytes.length) s) else
    let crc := err || !fcsGood bytes
    let s := onChain (fun c => { c with free := c.free + r.cells }) (updPort p.val (fun x => { x with rx := none }) s)
    let s := clearStale s
    if crc then
      .next (trialError p.val (frameBad p.val r bytes (updPort p.val (fun x => { x with fcsErr := satAdd 65535 x.fcsErr 1 }) s)))
    else if bytes.length < 64 ∨ 2052 < bytes.length then .next (frameBad p.val r bytes s)
    else .next (frameGood p.val r bytes poison
      (updPort p.val (fun x => { x with rxFrames := satAdd (2 ^ 32 - 1) x.rxFrames 1 }) s))

/-- FRAME_CUT (R469 R471): reception stops after `len` bytes. -/
def execFrameCut (p : Fin 2) (len : Nat) (s : State) : Out := ifRuns s .chain <| .next (cutRx p.val (cellsOf_ len) s)

/-! ### Egress (R468 R471 R477) -/

/-- The frame that a port sends next, among priorities below n: the first of the highest priority whose first frame the credits
cover (R468 R471). -/
def nextFrame (s : State) (p : Nat) : Nat → Option PoolFrame
  | 0 => none
  | n + 1 =>
    match ((portOf s p).queue.filterMap (frameOf s)).find? (fun f => f.prio == n) with
    | some f => if f.cells ≤ availOf s p f.prio then some f else nextFrame s p n
    | none => nextFrame s p n

/-- EGRESS_START (R468 R471 R506). -/
def execEgressStart (p : Fin 2) (s : State) : Out := ifRuns s .chain <|
  let x := portOf s p.val
  if !flows x || x.asking || x.tx.isSome || x.txSleep then .next s
  else match nextFrame s p.val 8 with
    | none => .next s
    | some f =>
      let s := countSkipped f (readParity f (readQueue (8 * p.val + f.prio) s))
      .next (updPort p.val (fun x => { x with
        queue := x.queue.filter (fun y => y != f.id), tx := some { frame := f.id, ts := txStamp s p.val } }) s)

/-- FRAME_SENT (R461 R468 R471 R472 R477 R480 R508): the terminate block of a frame has left; a bad or poisoned frame ends with
`/E/`. An East port that was asked to step answers now. -/
def execFrameSent (p : Fin 2) (s : State) : Out := ifRuns s .chain <|
  match (portOf s p.val).tx with
  | none => .next s
  | some t =>
    match frameOf s t.frame with
    | none => .next (updPort p.val (fun x => { x with tx := none }) s)
    | some f =>
      if !f.whole then .next s
      else
        let c := credOf s p.val f.prio
        let s := putCred s p.val f.prio { c with sent := c.sent + cellsOf_ f.bytes.length }
        let s := updPort p.val (fun x => { x with
          tx := none, txFrames := satAdd (2 ^ 32 - 1) x.txFrames 1, discard := if f.poison then satAdd 65535 x.discard 1 else x.discard }) s
        let b := correctedBytes s f t.ts
        let s := laneSend p.val (frameBlocks b (f.poison || f.bad)) (emit (.frameOut p.val b (f.poison || f.bad)) s)
        let s := txEnds f p.val (some t.ts) (doneWith f.id (.egress p.val) s)
        let x := portOf s p.val
        .next (if p.val = 0 ∧ x.asking then acceptStep 0 x.target s else s)

/-! ### The pool (R474 to R479) -/

/-- CHN_POOL_AUDIT (R479 R491). -/
def execChnPoolAudit (s : State) : Out := ifRuns s .chain <|
  let q := queuedCells s
  when_ (decide (s.chain.free + q ≠ 16384))
    (fun s => raise 265 (if s.chain.auditValid then s
      else onChain (fun c => { c with auditValid := true, auditQueued := q, auditFree := c.free }) s)) s

/-- CHN_STALE (R478): once while the queue stays unread. -/
def execChnStale (q : Fin 64) (s : State) : Out := ifRuns s .chain <|
  when_ (decide (0 < queueCells s q.val) && !s.chain.stale.testBit q.val)
    (fun s => raise 266 (onChain (fun c => { c with stale := putBit c.stale q.val true }) s)) s

/-! ### Host transmit and receive (R480 R481) -/

/-- The ports that `EGRESS` names (R480). -/
def egressPorts (e : Nat) : List Nat := if e = 2 then [0, 1] else [e]

/-- The frame that a `NET_TX` assembles (R475). -/
def assembly (s : State) (id : Nat) : Option PoolFrame := s.chain.frames.find? fun f => f.origin == .host id && !f.whole

/-- Queue a frame on several ports. -/
def enqueueAll (id : Nat) : List Nat → State → State
  | [], s => s
  | p :: r, s => enqueueAll id r (enqueue p id s)

/-- NET_TX (R480): the fetch waits for shared cells; then the frame is read, completed with its FCS and queued. -/
def execNetTx (id : Nat) (s : State) : Out :=
  runOp s id 0x48 fun d =>
    let up := (egressPorts (le d.bytes 16 1)).filter fun p => linkUp (portOf s p)
    match assembly s id with
    | none =>
      let n := cellsOf_ (le d.bytes 20 4 + 4)
      if up.isEmpty then complete id stBUSY [] s
      else if sharedFree s < n then s
      else startRead (.desc id) [(le d.bytes 32 8, le d.bytes 20 4)]
        (addFrame { id := s.chain.nextFrame, bytes := [], cells := n, prio := le d.bytes 17 1, origin := .host id, shared := true
                    wants := [], whole := false } s)
    | some f =>
      if d.failed then complete id stPOISON [] (dropFrame f s)
      else match d.data with
        | none => s
        | some b =>
          if up.isEmpty then complete id stBUSY [] (dropFrame f s)
          else
            let s := updFrame f.id (fun f => { f with bytes := b ++ fcs b, whole := true, wants := up.map Consumer.egress }) s
            let s := onChain (fun c => { c with txWaits := c.txWaits ++ [{ id, left := up }] }) (enqueueAll f.id up s)
            clearStale (updDesc id (fun d => { d with taken := true }) s)

/-- NET_RX_POST (R481): at most 256 unfilled buffers a queue. -/
def execNetRxPost (id : Nat) (s : State) : Out :=
  runOp s id 0x49 fun d =>
    let r := le d.bytes 16 1
    if 256 ≤ (s.chain.rxBufs.filter fun b => b.rxq == r).length then complete id stBUSY [] s
    else fillHost r 1 (onChain (fun c => { c with rxBufs := c.rxBufs ++ [{ id, rxq := r, len := le d.bytes 20 4, addr := le d.bytes 32 8 }] })
      (updDesc id (fun d => { d with taken := true }) s))

/-! ### Service messages (R483 to R487) -/

/-- A message with `VERSION` 1 whose `SCRC` holds (R483 R484). -/
def svcGood (m : Bytes) : Bool :=
  let n := be m 16 2
  decide (24 ≤ m.length) && decide (le m 0 1 = 1) && decide (n ≤ 2000) && decide (24 + n ≤ m.length)
    && decide (be m (20 + n) 4 = crc32c (m.take (20 + n)))

/-- A node counts as a head-end (R487). -/
def isHead (s : State) (origin : Nat) : Bool := s.chain.heads.all (fun h => h == 0) || (origin != 0 && s.chain.heads.contains origin)

/-- HELLO (R486 R498 R499). -/
def hello (p origin : Nat) (pay : Bytes) (s : State) : State :=
  updPort p (fun x => { x with neighOk := true, partner := origin, partnerFw := (le pay 2 1).testBit 0 }) s

/-- Process a message of a known type (R485): whether it is not to be relayed, and the state. -/
def processSvc (via : Option Nat) (m : Bytes) (s : State) : Bool × State :=
  let pay := sub m 20 (be m 16 2)
  let origin := be m 8 8
  match le m 1 1 with
  | 0x01 => (false, match via with | some p => hello p origin pay s | none => s)
  | 0x02 => (false, fwOffer via pay s)
  | 0x03 => (false, fwBlock via pay s)
  | 0x04 => fwRequest via (le m 2 1) pay s
  | 0x07 => (false, if isHead s origin ∧ s.nvm.running then sendReport s else s)
  | _ => (false, s)

/-- Relay on the opposite port with `HOPS` one lower (R484): counted where it goes out. -/
def relay (p : Nat) (m : Bytes) (s : State) : State :=
  let n := be m 16 2
  let s' := sendSvc (otherPort p) (svcBytes (le m 1 1) (le m 2 1 - 1) (le m 3 1) (be m 4 4) (be m 8 8) (sub m 20 n)) s
  if s'.chain.nextFrame = s.chain.nextFrame then s'
  else onChain (fun c => { c with svcRelayed := satAdd 65535 c.svcRelayed 1 }) s'

/-- Count a message that is discarded as bad (R477 R484 R492). -/
def svcBadMsg (s : State) : State := onChain (fun c => { c with svcBad := satAdd 65535 c.svcBad 1 }) s

/-- A service message is handled (R484). -/
def handleSvc (via : Option Nat) (m : Bytes) (s : State) : State :=
  let key := (be m 8 8, be m 4 4)
  if !svcGood m then svcBadMsg s
  else if key.1 = dieNo ∨ s.chain.seen.contains key then s
  else
    let x := processSvc via m (onChain (fun c => { c with seen := (key :: c.seen).take 64 }) s)
    match via with
    | some p => if (le m 3 1).testBit 0 ∧ 1 < le m 2 1 ∧ x.1 = false then relay p m x.2 else x.2
    | none => x.2

/-- SERVICE_MESSAGE (R475 R477 R484 R542): the next frame of the management receive queue, or a SLIP packet of the service port.
A frame that is no service message (PTP) has served its servo row and leaves the queue. -/
def execServiceMessage (svc : Option Bytes) (s : State) : Out := ifRuns s .mp <|
  if s.power.held then .next s
  else match svc with
    | some m => .next (if s.power.svcEn then handleSvc none (unslip m) s else s)
    | none =>
      match s.chain.mgmtQ with
      | [] => .next s
      | id :: _ =>
        match frameOf s id with
        | none => .next (onChain (fun c => { c with mgmtQ := c.mgmtQ.drop 1 }) s)
        | some f =>
          let s := readParity f (readQueue 24 s)
          let s := doneWith id .mgmt (onChain (fun c => { c with mgmtQ := c.mgmtQ.drop 1 }) s)
          if etherType f.bytes ≠ 0x88B5 then .next s
          else if f.poison then .next (svcBadMsg s)
          else
            let via := match f.origin with | .ingress p => some p | _ => none
            .next (handleSvc via ((f.bytes.take (f.bytes.length - 4)).drop (payOff f.bytes)) s)

end Sys2Proof.Machine
end

