-- ==== Sys2Proof/Machine/Frame.lean ====
section
/-! DEFINITION. Frame timing: the grid, the boundary, the latch gap, `FRAME_CTRL` (06). -/

namespace Sys2Proof.Machine

/-- The latch-gap start of the current frame (R190 R191). -/
def latchGapAt (s : State) : Int := s.frm.start + s.frm.steps + tuSec / (s.frm.rate : Int) - 48000 * 65536

/-- The current frame is a bridge frame, as far as is known (R192 R209). -/
def bridgeNow (s : State) : Bool :=
  s.frm.started && (decide (nextNum s ≠ s.frm.num + 1) || (match s.frm.fell with | some x => x.2.2 | none => false))

/-- What a boundary does in one Frond (R200 R209 R215). -/
def frondBoundary (f : Frond) : Frond := { f with decide := true, shiftedNow := false, gapDone := false, since := f.since + 1 }

/-- The skip ratio of a tile level (R426). -/
def skipOfLevel (l : Nat) : Nat := [0, 16, 12, 8, 6, 4, 3, 2].getD l 2

/-- What a boundary does at one tile (R19 R225 R230 R302 R303 R305 R426): the latched streams are shown, the frame's slices start
afresh, the skip ratio of the tile's level takes effect, the boundary counts toward the diagnostic frame. -/
def tileBoundary (every n win : Nat) (t : Tile) : Tile :=
  let g := t.diag
  { t with shown := t.latched, fresh := t.latchedNow, latchedNow := 0
           slice := 0, started := 0, skipSlices := 0, darkSlices := 0, offs := []
           skipN := n, skipCnt := if n = t.skipN then t.skipCnt + (16 - t.started) else 0
           diag := { g with win, count := g.count + 1
                            diagDue := decide (0 < every) && (g.diagDue || decide (every ≤ g.count + 1)) } }

/-- Tiles whose Frond shifted in the period that ends (R209). -/
def shiftedTiles (s : State) : Nat := maskOf (fun n => match serving s n with | some f => (frondOf s f).shiftedNow | none => false) 8

/-- Each Frond and tile sees the boundary; `TENn` is judged (R38 R265). -/
def boundaryAll : Nat → State → State
  | 0, s => s
  | n + 1, s =>
    let s := boundaryAll n s
    let s := putFrond s n (frondBoundary (frondOf s n))
    if n < 8 then enableTile n (putTile s n (tileBoundary s.cal.diagCfg.2.2 (skipOfLevel (domainOf s (1 + n)).level) (diagWin s) (tileOf s n))) else s

/-- The Fronds take the diagnosis settings, and `EG_LIMIT` and `LM_LEVEL` of the safety set in force (R322 R350 R361). -/
def takeSettings (s : State) : State :=
  let eg := setEgLimit s.safety.inForce
  { s with
    cal := { s.cal with diagCfg := (s.cal.probeEn, s.cal.probeAfter, s.cal.diagEvery) }
    safety := { s.safety with
      egTaken := eg, lmTaken := setLmLevel s.safety.inForce
      egHist := ((unsigned 16 s.frm.num, eg) :: s.safety.egHist).take 512 } }

/-- FRAME_BOUNDARY (R188 R191 R192 R193 R215): the boundary falls at G, or at the step that passes G; the first after a chip reset
ends no frame. The duty source of the coming period is judged here. -/
def execFrameBoundary (s : State) : Out := ifRuns s .time <|
  if s.frm.started && !s.frm.inGap then .next s
  else
    let n := nextNum s
    let g := gridAt s n
    let b := s.frm.fell.getD (g, s.frm.steps, false)
    let bridge := s.frm.started && (decide (n ≠ s.frm.num + 1) || b.2.2)
    let rewind := s.frm.started && !atOrAfter n s.frm.num
    let s := advanceTo g s
    let s := if bridge then raise 454 { s with frm := { s.frm with cntBridge := satAdd 65535 s.frm.cntBridge 1 } } else s
    let s := if rewind then raise 455 s else s
    let s := { s with frm := { s.frm with
      num := n, started := true, start := b.1, steps := s.frm.steps - b.2.1, stepsG := s.frm.steps - b.2.1, fell := none
      inGap := false, flipPending := true, shifted := shiftedTiles s, lmCond := lmHolds s } }
    .next (if s.strip.stopped then s else boundaryAll 9 (calBoundary (takeSettings s)))

/-- Tiles whose `RELEASE` waits for this latch-gap start go dark, and their final commit is requested (R286); no commit can be
made of a tile whose header is not known or whose step 3 has failed, so its release ends with `CHECK` (R269). -/
def releaseTiles : Nat → State → State
  | 0, s => s
  | n + 1, s =>
    let s := releaseTiles n s
    let t := tileOf s n
    if t.releaseTaken then
      let s := updTile n (fun t => { t with releaseTaken := false, releasing := true, commitReq := true }) (darken n s)
      if t.phase = .none ∨ t.phase = .stuck then endRelease n false (updTile n (fun t => { t with commitReq := false, commitFailed := true }) s)
      else s
    else s

/-- LATCH_GAP_START (R190 R191 R276 R278 R286 R411): the taps are due, a `RELEASE` takes the tile dark, a calibration run passes
what it skips, a commit that waits for no tap begins; Fronds that a save has stopped have had their last tap (R46). -/
def execLatchGapStart (s : State) : Out := ifRuns s .time <|
  when_ (s.frm.started && !s.frm.inGap)
    (fun s =>
      let s := advanceTo (latchGapAt s) s
      let s := { s with frm := { s.frm with inGap := true, cutPending := true }, strip := { s.strip with srefDone := false } }
      if s.strip.stopped then s else nextCommit (calAdvance (releaseTiles 8 (markTaps s)))) s

/-- FRAME_CTRL (R196 R205): taken now, in effect at the first boundary whose cut point comes after. -/
def execFrameCtrl (id : Nat) (s : State) : Out :=
  runOp s id 0x18 fun d =>
    onFrm (fun f => { f with takenInPeriod := true })
      (onCmp (fun c => { c with gate := c.gate ++ [(false, .frameCtrl id (le d.bytes 16 2) (le d.bytes 24 8) s.frm.cutPassed)] })
        (updDesc id (fun d => { d with taken := true }) s))

/-- FRM_NUM_CAPTURE (R208): a read of `FRM_NUM_LO` captures the whole value. -/
def execFrmNumCapture (s : State) : Out :=
  when_ (barOpen s)
    (fun s => emit (.regRead 0x18010 (unsigned 32 s.frm.num))
      { s with frm := { s.frm with numCap := unsigned 32 (s.frm.num / 2 ^ 32) } }) s

end Sys2Proof.Machine
end

