-- ==== Sys2Proof/Machine/HostLink.lean ====
section
/-! DEFINITION. The host link: resets, DMA, tags, completions, configuration space and the MSI-X table (03). -/

namespace Sys2Proof.Machine

/-- PERST_N_ASSERT (R73): a commanded host-island reset. -/
def execPerstNAssert (s : State) : Out := ifRuns s .host <| .next (hostReset true s)

/-- HOT_RESET (R73): a commanded host-island reset. -/
def execHotReset (s : State) : Out := ifRuns s .host <| .next (hostReset true s)

/-- LINK_DISABLE (R73): a commanded host-island reset. -/
def execLinkDisable (s : State) : Out := ifRuns s .host <| .next (hostReset true s)

/-- SURPRISE_LINK_DOWN (R73): an uncommanded host-island reset raises `HOST_LINK_DOWN`. -/
def execSurpriseLinkDown (s : State) : Out := ifRuns s .host <| when_ s.link.up (hostReset false) s

/-- DMA_RESUME (R75 R602): Bus Master Enable is set in D0 with the link up; waiting requests and messages go out, held
completions and events are posted, `EVT_LOST` before any event (R129). -/
def execDmaResume (s : State) : Out := ifRuns s .ring <|
  when_ s.link.up
    (fun s =>
      let s := sendPending (pump { s with link := { s.link with bme := true, d3hot := false } })
      postHeldEvents s.rings.heldEvents.length (postLost (postAllDone s.rings.done.length (fillAllHost 8 s)))) s

/-- UNSUPPORTED_REQUEST (R601): no effect, nothing recorded; the requester sees Unsupported Request. -/
def execUnsupportedRequest (write bar2 : Bool) (off : Nat) (value : BitVec 32) (s : State) : Out := ifRuns s .host <|
  let _ := (bar2, off, value)
  when_ (s.link.up && !barOpen s)
    (fun s => emit (.unsupportedRequest write) { s with link := { s.link with aerUncor := s.link.aerUncor ||| 2 ^ 20 } }) s

/-- The chunk of an item that carries a tag. -/
def hasTag (l : Link) (tag : Nat) (r : ReadItem) : Bool :=
  r.chunks.any fun c => match c.tag with | some t => tagOf l t == tag | none => false

/-- Put the data of one completion in its chunk. -/
def fillChunk (l : Link) (tag : Nat) (data : Bytes) (r : ReadItem) : ReadItem :=
  { r with chunks := r.chunks.map fun c =>
      match c.tag with
      | some t => if tagOf l t = tag ∧ data.length = c.len then { c with tag := none, data := some data } else c
      | none => c }

/-- Every chunk of an item has its data. -/
def itemDone (r : ReadItem) : Bool := r.chunks.all fun c => c.data.isSome

/-- The data of an item, in address order of its requests. -/
def itemData (r : ReadItem) : Bytes := r.chunks.flatMap fun c => c.data.getD []

/-- Remove an item. -/
def dropItem (r : ReadItem) (s : State) : State :=
  { s with link := { s.link with reads := s.link.reads.filter fun y => y.id != r.id } }

/-- The data of a finished item passes to the item that asked for it (R76). A fetch and a fence poll wait for their own
judgements (R108 R169). -/
def deliver (r : ReadItem) (s : State) : State :=
  match r.who with
  | .desc id => updDesc id (fun d => { d with data := some (itemData r) }) (dropItem r s)
  | .fenceTable id => finishTable id (itemData r) (dropItem r s)
  | .fetch _ _ 0 => dropItem r s
  | .fetch _ _ _ => s
  | .fence _ _ => s
  | .layer l => layerData l (r.chunks.map fun c => (c.addr, c.data.getD [])) (dropItem r s)
  | .stallProbe l => probeDone l (dropItem r s)

/-- Tags of an item that are still outstanding, but for one. -/
def otherTags (l : Link) (tag : Nat) (r : ReadItem) : List (Nat × Nat) :=
  (r.chunks.filterMap Chunk.tag).filter fun t => tagOf l t != tag

/-- HOST_READ_COMPLETION (R76 R78 R79): data to its item; poison or an error status fails the item; a completion for an abandoned
tag is discarded and counted. A completion that names no outstanding tag has no effect but for its status bit in Advanced Error
Reporting. DESIGN CHOICE (notes/assumptions/75): where an item's other requests are outstanding when one ends so, they are
abandoned as under R77 and the item is repeated whole. -/
def execHostReadCompletion (tag : Nat) (status : RdStatus) (data : Bytes) (s : State) : Out := ifRuns s .host <|
  if s.link.abandoned.any (fun t => tagOf s.link t == tag) then
    .next (pump (raise 467 { s with link := { s.link with
      abandoned := s.link.abandoned.filter (fun t => tagOf s.link t != tag)
      lateCpl := satAdd (2 ^ 32 - 1) s.link.lateCpl 1 } }))
  else match s.link.reads.find? (hasTag s.link tag) with
    | none => .next { s with link := { s.link with aerUncor := s.link.aerUncor ||| 2 ^ 16 } }
    | some r =>
      if status = .ok then
        let r' := fillChunk s.link tag data r
        let s1 := { s with link := { s.link with reads := s.link.reads.map fun y => if y.id = r.id then r' else y } }
        .next (pump (if itemDone r' then deliver r' s1 else s1))
      else
        let s1 := { s with link := { s.link with
          abandoned := otherTags s.link tag r ++ s.link.abandoned
          aerUncor := if status = .poisoned then s.link.aerUncor ||| 2 ^ 12 else s.link.aerUncor } }
        .next (pump (raise 466 (failItem r s1)))

/-- Another request of the same turn of descriptor fetches (R77 R110). -/
def sameTurn (r y : ReadItem) : Bool := y.turn == r.turn && y.id != r.id && !y.failed

/-- A request starts again from nothing: its tags are given up and its data discarded (R77). -/
def restartItem (y : ReadItem) : ReadItem := { y with chunks := y.chunks.map fun c => { c with tag := none, data := none } }

/-- HOST_CPL_TMO (R77): the tag is abandoned, and the item fails as a whole: its other outstanding requests are abandoned, its
data discarded. Of a turn of descriptor fetches the request that timed out fails, and R114 repeats it once; the others are made
again as their own requests. DEDUCED (notes/assumptions/75): R114 handles "descriptors of the same turn carried by other requests
... as their own requests give", so a mate's restart is not its one repeat. -/
def execHostCplTmo (tag : Nat) (s : State) : Out := ifRuns s .host <|
  match s.link.reads.find? (hasTag s.link tag) with
  | none => .next s
  | some r =>
    if s.link.cplTmoDis then .next s
    else
      let turn := r :: s.link.reads.filter (sameTurn r)
      let s1 := { s with link := { s.link with
        abandoned := (turn.flatMap fun y => y.chunks.filterMap Chunk.tag) ++ s.link.abandoned
        reads := s.link.reads.map fun y => if sameTurn r y then restartItem y else y
        aerUncor := s.link.aerUncor ||| 2 ^ 14 } }
      .next (pump (raise 465 (failItem r s1)))

/-- LINK_UP (R73 R100). -/
def execLinkUp (width speed : Nat) (s : State) : Out := ifRuns s .host <|
  when_ (!s.link.up) (fun s => { s with link := { s.link with up := true, width := width % 4, speed := speed % 4 } }) s

/-- Layer fetches that cannot be issued become fetch stalls when DMA is blocked (R74 R602). -/
def blockLayers (s : State) : State :=
  if dmaOk s then s
  else failItems (s.link.reads.filter fun r =>
    (match r.who with | .layer _ => true | .stallProbe _ => true | .fence _ _ => true | _ => false)
      && r.chunks.any fun c => c.tag.isNone && c.data.isNone) s

/-- CONFIGURATION_WRITE (R70 R71 R73 R74 R600): the controls that the host writes in configuration space, the base addresses of
BAR0 (1 MiB) and BAR2 (64 KiB), the status words of Advanced Error Reporting. -/
def execConfigurationWrite (w : CfgWrite) (s : State) : Out := ifRuns s .host <|
  let l := s.link
  let l' : Link := match w with
    | .busMaster b => { l with bme := b }
    | .memorySpace b => { l with mse := b }
    | .d3hot b => { l with d3hot := b }
    | .extendedTag b => { l with extTag := b }
    | .tenBitTag b => { l with tenBit := b }
    | .timeoutValue v => { l with cplTmo := v.val }
    | .timeoutDisable b => { l with cplTmoDis := b }
    | .maxRead c => { l with mrrs := min 512 (128 * 2 ^ c.val) }
    | .maxPayload c => { l with mps := min 256 (128 * 2 ^ c.val) }
    | .msixEnable b => { l with msixEn := b }
    | .functionMask b => { l with fnMask := b }
    | .bar false high v => { l with bar0 := setBits l.bar0 (if high then 32 else 0) 32 v.toNat / 2 ^ 20 * 2 ^ 20 }
    | .bar true high v => { l with bar2 := setBits l.bar2 (if high then 32 else 0) 32 v.toNat / 2 ^ 16 * 2 ^ 16 }
    | .aerUncorrectable v => { l with aerUncor := l.aerUncor &&& (2 ^ 32 - 1 - v.toNat) }
    | .aerCorrectable v => { l with aerCor := l.aerCor &&& (2 ^ 32 - 1 - v.toNat) }
  when_ l.up (fun s => sendPending (pump (blockLayers { s with link := l' }))) s

/-- An MSI-X table entry with one word written (R71). -/
def msixWord (e : MsixEnt) (word value : Nat) : MsixEnt :=
  match word with
  | 0 => { e with addr := setBits e.addr 0 32 value }
  | 1 => { e with addr := setBits e.addr 32 32 value }
  | 2 => { e with data := value }
  | _ => { e with mask := value.testBit 0 }

/-- MSIX_UNMASK (R70 R71 R105 R127 R598): a BAR2 write that is no doorbell. A word of the MSI-X table is stored, and a pending
vector that is no longer masked sends its message. The table lies at 0x1000, in slots 256 to 319; the pending-bit array and every
reserved offset take no write, record nothing and raise nothing. -/
def execMsixUnmask (slot : Fin 4096) (word : Fin 4) (value : BitVec 32) (s : State) : Out := ifRuns s .host <|
  let v := slot.val - 256
  when_ (barOpen s && decide (256 ≤ slot.val) && decide (slot.val < 320))
    (fun s => sendPending { s with link := { s.link with
      msix := Tab.put s.link.msix v (msixWord (Tab.get {} s.link.msix v) word.val value.toNat) } }) s

end Sys2Proof.Machine
end

