-- ==== Sys2Proof/Machine/Tiles.lean ====
section
/-! DEFINITION. Carqua tiles: presence, the tile bus, identity, the commands of `TILE_CMD` (08). -/

namespace Sys2Proof.Machine

/-- TILE_INSERTION (R264 R269): the Frond starts reading the tile. -/
def execTileInsertion (n : Fin 8) (s : State) : Out := ifRuns s .frond <|
  when_ (!(tileOf s n.val).present)
    (fun s => startRead1 n.val false (updTile n.val (fun t => { t with present := true, diag := freshMap t.diag }) (dropChecks n.val 24 s))) s

/-- The Frond that serves a position stops what it does there: no shift, no latch (R264). -/
def stopShift (n : Nat) (s : State) : State :=
  match serving s n with
  | none => s
  | some f => putFrond s f { frondOf s f with shifting := none, decide := false, shiftedNow := false, item := false, lastForce := none }

/-- Items of a tile that wait at the flip gate go with the tile (R295). -/
def dropTileItems (n : Nat) (s : State) : State :=
  { s with cmp := { s.cmp with gate := s.cmp.gate.filter fun g => match g.2 with
      | .gains k _ => k != n
      | .map k _ => k != n
      | .mapOff k => k != n
      | _ => true } }

/-- The pending charge of a removed tile becomes an orphan set (R281 R286). DESIGN CHOICE (notes/assumptions/77): so does what a
failed final commit has left on a released tile. -/
def orphanRemoved (t : Tile) (s : State) : State :=
  match t.ledSerial with
  | some serial =>
    if t.p.isEmpty ∨ (t.released ∧ ¬ t.commitFailed) then s
    else makeOrphan { serial, gen := t.gen, commitTime := t.commit.map fun c => c.time, block := some (pendingEntries t.p) } s
  | none => s

/-- TILE_REMOVAL (R264 R281 R286 R307): `TENn` low, pins stopped, an orphan set without `RELEASE`. -/
def execTileRemoval (n : Fin 8) (s : State) : Out := ifRuns s .frond <|
  when_ (tileOf s n.val).present
    (fun s =>
      let s := dropTileItems n.val (stopShift n.val (cancelRepay n.val s))
      let t := tileOf s n.val
      let clean : Tile := {
        present := false, busErr := t.busErr, cause := t.cause, skipN := t.skipN, skipCnt := t.skipCnt
        epoch := t.epoch, owner := t.owner, noOwner := t.noOwner, tsyncBy := t.tsyncBy, takeover := t.takeover
        diag := { freshMap t.diag with last := none, prev := none } }
      let s := dropChecks n.val 24 (putTile s n.val clean)
      let s := onTiles (fun k => { k with committing := if k.committing = some n.val then none else k.committing }) s
      let s := orphanRemoved t s
      let s := if t.released then postPresence n.val 2 (readSerial t) s
        else postPresence n.val 3 (readSerial t) (raise (440 + n.val) s)
      let s := endWaits n.val false true s
      flushReport (completeAll stCHECK (tileWaits s n.val 1 ++ tileWaits s n.val 2 ++ tileWaits s n.val 6) s)) s

/-- TILE_ALERT (R262): the cause bits of the live `STATUS`. -/
def execTileAlert (n : Fin 8) (status : Byte) (s : State) : Out := ifRuns s .frond <|
  when_ (tileOf s n.val).present
    (fun s => raise (432 + n.val) (updTile n.val (fun t => { t with cause := status.toNat }) s)) s

/-- The operation that needed a tile-bus transaction fails (R261 R269 R278 R317). -/
def opFails (n : Nat) : BusOp → State → State
  | .identity, s => busFail n s
  | .commit, s => judgeCommit n false s
  | .mapReread, s => updTile n (fun t => { t with mapPending := false }) s
  | .status, s => s
  | .temp, s => s

/-- TILE_BUS_RETRY (R261): every failed attempt counts; the fourth fails the operation that needed it and raises `TILE_ALERT`. -/
def execTileBusRetry (n : Fin 8) (ack : Bool) (s : State) (op : BusOp := .identity) : Out := ifRuns s .frond <|
  if ack then .next (updTile n.val (fun t => { t with attempts := 0 }) s)
  else
    let t := tileOf s n.val
    let s := putTile s n.val { t with busErr := satAdd 65535 t.busErr 1, attempts := t.attempts + 1 }
    if t.attempts + 1 < 4 then .next s
    else .next (flushReport (opFails n.val op (raise (432 + n.val) (updTile n.val (fun t => { t with attempts := 0 }) s))))

/-- TILE_HEADER_CHECK (R264 R268 R269): step 1, in hardware. -/
def execTileHeaderCheck (n : Fin 8) (header : Bytes) (s : State) : Out := ifRuns s .frond <|
  let t := tileOf s n.val
  if t.phase ≠ .header then .next s
  else
    let s := updTile n.val (fun t => { t with headerBytes := header }) s
    match parseHeader header with
    | some h =>
      let s := readCurve n.val (updTile n.val (fun t => { t with header := some h, ledSerial := some h.serial, phase := .curve }) s)
      .next (if t.rescan then s else postPresence n.val 5 h.serial s)
    | none => .next (headerBad n.val s)

/-- Step 3 ends: the base of the tile's charge is known, and what was kept for the tile is applied (R277 R280 R281 R283). -/
def endLedger (n : Nat) (h : Header) (a b : Bytes) (ecc : EccSeen) (s : State) : State :=
  let t := { tileOf s n with copyA := parseCopy h.serial a, copyB := parseCopy h.serial b, baseKnown := true }
  let s := match newest t with
    | some c => putTile s n { t with t := c.entries, gen := c.gen, time := c.time }
    | none => raise (424 + n) (putTile s n { t with t := [], gen := 0, time := 0 })
  let s := eccUncorrected blocks_ ecc.bad.length (eccCorrected ecc.corrected s)
  readCert n h (applyOrphan n (applySaved n (applyRetained n ecc.bad s)))

/-- TILE_IDENTITY_STEP (R269 R270 R271 R272 R277 R281): steps 2 to 5, once firmware runs. -/
def execTileIdentityStep (n : Fin 8) (data : IdStep) (s : State) : Out := ifRuns s .frond <|
  let t := tileOf s n.val
  match s.nvm.running, t.header with
  | true, some h =>
    match t.phase, data with
    | .curve, .curve b =>
      .next (readHeads n.val (if curveOk h b then updTile n.val (fun t => { t with curveOk := true, curve := parseCurve b }) s
        else raise (424 + n.val) (updTile n.val (fun t => { t with curveOk := false, curve := [] }) s)))
    | .heads, .heads a b => .next (readCopies n.val h.serial a b s)
    | .ledger, .ledger a b ecc => .next (endLedger n.val h a b ecc s)
    | .cert, .cert b =>
      let s := updTile n.val (fun t => { t with certBytes := b }) s
      if certOk s h b then
        let k := s.tiles.nextNonce
        .next (emit (.tileBusRead n.val 0x5A 0x30 1) (emit (.tileBusWrite n.val 0x5A 0x10 (Config.nonce k))
          (onTiles (fun x => { x with nextNonce := k + 1 }) (updTile n.val (fun t => { t with phase := .challenge, nonceNo := k }) s))))
      else .next (endCert n.val false s)
    | .map, .map b =>
      let ok := decide (b.length = 147456) && decide (crc32c b = h.mapCrc)
      let s := updTile n.val (fun t => { t with mapOk := ok, mapRead := if ok then b else [] }) s
      .next (flushReport (tileReady n.val (if ok then s else raise (424 + n.val) s)))
    | _, _ => .next s
  | _, _ => .next s

/-- CHALLENGE_POLL (R263 R271): `AUTH`, and `RESPONSE` once `DONE` is 1. -/
def execChallengePoll (n : Fin 8) (auth : Byte) (response : Bytes) (s : State) : Out := ifRuns s .frond <|
  let t := tileOf s n.val
  match t.phase, t.header with
  | .challenge, some h =>
    if auth.toNat.testBit 2 then .next (endCert n.val false s)
    else if auth.toNat.testBit 1 then
      let digest := Config.sha256 (Config.nonce t.nonceNo ++ toLe 16 h.serial)
      .next (endCert n.val (Config.ecdsaVerify (Config.certKey t.certBytes) digest response) (emit (.tileBusRead n.val 0x5A 0x40 64) s))
    else .next (emit (.tileBusRead n.val 0x5A 0x30 1) s)
  | _, _ => .next s

/-- CHALLENGE_TIMEOUT (R263 R271). -/
def execChallengeTimeout (n : Fin 8) (s : State) : Out := ifRuns s .frond <|
  when_ (decide ((tileOf s n.val).phase = .challenge)) (endCert n.val false) s

/-- The position that a `TILE_CMD` or read names. -/
def descTile (d : Desc) : Nat := le d.bytes 16 1 % 8

/-- A `TILE_CMD` of one command runs (R284). -/
def runTile (s : State) (id cmd : Nat) (f : Desc → Nat → State) : Out :=
  runOp s id 0x20 fun d => if le d.bytes 17 1 = cmd then f d (descTile d) else s

/-- STATUS (R284 R285). -/
def execStatus (id : Nat) (s : State) : Out :=
  runTile s id 0 fun d n => if dmaOk s then complete id stOK [] (hostWrite (le d.bytes 24 8) (statusRecord s n) s) else s

/-- RELEASE (R286): absent or already released completes at once. -/
def execRelease (id : Nat) (s : State) : Out :=
  runTile s id 1 fun _ n =>
    let t := tileOf s n
    if !t.present || t.released then complete id stOK [] s
    else updTile n (fun t => { t with releaseTaken := !t.releasing }) (updDesc id (fun d => { d with taken := true }) s)

/-- RESCAN (R269 R284). -/
def execRescan (id : Nat) (s : State) : Out :=
  runTile s id 2 fun _ n =>
    if (tileOf s n).present then startRead1 n true (updDesc id (fun d => { d with taken := true }) s)
    else complete id stCHECK [] s

/-- ID_READ (R284): the header as read. -/
def execIdRead (id : Nat) (s : State) : Out :=
  runTile s id 3 fun d n =>
    let b := (tileOf s n).headerBytes
    if b.isEmpty then complete id stCHECK [] s
    else if dmaOk s then complete id stOK [] (hostWrite (le d.bytes 24 8) b s) else s

/-- Size of an orphan set's records (R604). -/
def orphanSize (o : Orphan) : Nat := 512 + (if o.block.isSome then 73728 else 0) + (if o.group.isSome then 1536 else 0)

/-- One entry of `ORPHAN_INFO` (R284). -/
def orphanEntry (o : Orphan) : Bytes :=
  toLe 16 o.serial ++ toLe 4 o.gen ++ toLe 1 ((if o.block.isSome then 1 else 0) + (if o.group.isSome then 2 else 0))
    ++ toLe 3 0 ++ toLe 4 (orphanOffset o) ++ toLe 4 (orphanSize o)

/-- ORPHAN_INFO (R284 R604). -/
def execOrphanInfo (id : Nat) (s : State) : Out :=
  runTile s id 4 fun d _ =>
    if dmaOk s then complete id stOK [] (hostWrite (le d.bytes 24 8) (fit 256 (s.journal.orphans.flatMap orphanEntry)) s) else s

/-- ORPHAN_CLEAR (R284): orphan set number `TILE` is deleted. -/
def execOrphanClear (id : Nat) (s : State) : Out :=
  runTile s id 5 fun _ n =>
    complete id stOK [] { s with journal := { s.journal with orphans := s.journal.orphans.eraseIdx n } }

/-- The release of a tile ends: a `RELEASE` whose final commit runs still completes with it. DESIGN CHOICE (notes/assumptions/77):
one whose final commit has not begun completes `CHECK`. -/
def endsRelease (n : Nat) (s : State) : State :=
  let t := tileOf s n
  let runs := match t.commit with | some c => c.final | none => false
  let s := putTile s n { t with released := false, releasing := false, releaseTaken := false }
  if runs then s else completeAll stCHECK (tileWaits s n 1) s

/-- RETURN (R284): ends the release of a present tile and rescans it. -/
def execReturnTile (id : Nat) (s : State) : Out :=
  runTile s id 6 fun _ n =>
    if (tileOf s n).present then startRead1 n true (endsRelease n (updDesc id (fun d => { d with taken := true }) s))
    else complete id stCHECK [] s

end Sys2Proof.Machine
end

