-- ==== Sys2Proof/Machine/Ledger.lean ====
section
/-! DEFINITION. The charge ledger: gains, taps, commits, `LEDGER_READ` and `LEDGER_COMMIT` (08). -/

namespace Sys2Proof.Machine

/-- Compute the gains of the ready tiles among the first n positions. -/
def gainsAll : Nat → State → State
  | 0, s => s
  | n + 1, s =>
    let s := gainsAll n s
    if (tileOf s n).phase = .ready then computeGains n s else s

/-- GAIN_RECOMPUTE (R274): every gain of every ready tile; no recomputation while firmware does not run. -/
def execGainRecompute (s : State) : Out := ifRuns s .mp <| when_ s.nvm.running (fun s => flushReport (gainsAll 8 s)) s

/-- Units of one pixel that a frame has delivered (R19 R28 R230 R276 R303 R311): the stream its strip latched, in the slices that
were lit; the stretch of a probe only in the first frame after the latch. -/
def pixelUnits (t : Tile) (x : ShiftRec) (r c : Nat) : Nat :=
  let d := dutyAt x r c
  let strip := 24 * x.tile + r / 16
  ((List.range 16).map fun i =>
    if t.skipSlices.testBit i || t.darkSlices.testBit i || decide (t.started ≤ i) then 0
    else
      let on := match Tab.find x.probes (r / 16) with
        | some p => if t.fresh.testBit (r / 16) ∧ i = 0 ∧ p.row = r % 16 ∧ p.col = c then max (onTime d i) p.win else onTime d i
        | none => onTime d i
      match Tab.find t.offs i with
      | some tick => elapsedUnits strip on tick
      | none => on).sum

/-- S_b of a block (R276). -/
def blockUnits (t : Tile) (x : ShiftRec) (b : Nat) : Nat :=
  ((List.range 16).map fun k => pixelUnits t x (b / 96 * 4 + k / 4) (b % 96 * 4 + k % 4)).sum

/-- W_s of a strip's I_ref numerator (R276): round(t_unit × I_ref / 16 × 2^32 / 1 nC), round half up. -/
def ledgerWeight (s : State) (iref : Nat) : Nat :=
  let num := 2 ^ 32 * unitNum s * 128 * iref * 1000
  let den := unitDen s * irefDen
  (2 * num + den) / (2 * den)

/-- One tap of a tile is added to P_b (R276). -/
def addTap (s : State) (t : Tile) : Tile :=
  (List.range blocks_).foldl (fun t' b =>
    let i := b / 96 * 4 / 16
    match Tab.find t.shown i with
    | some x => addPending t' b (blockUnits t x b * ledgerWeight s (x.strips.getD i (false, 0)).2)
    | none => t') t

/-- Words of P_b read with an uncorrectable error: what they hold is open, and their blocks are recorded as poisoned (R11 R30). -/
def losePending (n : Nat) (bad : List Nat) (s : State) : State :=
  let t := tileOf s n
  let y := loseRetained bad t.p s
  poisonBlocks (t.ledSerial.getD 0) t.gen bad (putTile y.2 n { t with p := y.1 })

/-- LEDGER_TAP (R11 R276 R278): the charge of the frame whose slices have just ended, added to the ledger words of the tile; a tap
of a Frond that does not hold the position's epoch is discarded and counted (R320). Then the commit that waits takes its snapshot.
-/
def execLedgerTap (f : Fin 9) (s : State) (ecc : EccSeen := {}) : Out := ifRuns s .mp <|
  match servedBy s f.val with
  | none =>
    when_ (decide ((frondOf s f.val).role = .quarantined))
      (fun s => fencedWrite f.val (onTiles (fun k => { k with discard := satAdd (2 ^ 32 - 1) k.discard 1 }) s)) s
  | some n =>
    if !(tileOf s n).tapPend then .next s
    else
      let s := losePending n ecc.bad (eccUncorrected blocks_ ecc.bad.length (eccCorrected ecc.corrected s))
      .next (nextCommit (putTile s n { addTap s (tileOf s n) with tapPend := false }))

/-- Request the commit of the ready tiles of a mask; the mask of those requested (R279 R288). -/
def requestCommits (m : Nat) : Nat → State → State × Nat
  | 0, s => (s, 0)
  | n + 1, s =>
    let x := requestCommits m n s
    if m.testBit n ∧ (tileOf x.1 n).present ∧ (tileOf x.1 n).phase = .ready then
      (updTile n (fun t => { t with commitReq := true }) x.1, x.2 ||| 2 ^ n)
    else x

/-- PERIODIC_LEDGER_COMMIT (R279): every ready tile is committed. -/
def execPeriodicLedgerCommit (s : State) : Out := ifRuns s .mp <|
  when_ s.nvm.running (fun s => flushReport (onTiles (fun k => { k with periodic := true }) (requestCommits 255 8 s).1)) s

/-- COMMIT_READBACK (R278): the whole copy as read back. DESIGN CHOICE (notes/assumptions/77): a commit in progress when a save
begins does not end in it. -/
def execCommitReadback (n : Fin 8) (bytes : Bytes) (s : State) : Out := ifRuns s .mp <|
  let good := match (tileOf s n.val).commit with
    | some c => (parseCopy c.serial bytes).isSome
    | none => false
  when_ (!s.power.saving) (fun s => flushReport (judgeCommit n.val good s)) s

/-- LEDGER_READ (R287). -/
def execLedgerRead (id : Nat) (s : State) : Out :=
  runOp s id 0x21 fun d =>
    let t := tileOf s (descTile d)
    let first := le d.bytes 20 4
    let count := le d.bytes 24 4
    if !t.present then complete id stOK (toLe 4 0) s
    else if !t.baseKnown then complete id stBUSY [] s
    else if dmaOk s then
      complete id stOK (toLe 4 (8 * count)) (hostWrite (le d.bytes 32 8)
        ((List.range count).flatMap fun k => toLe 8 (chargeEntry t (first + k))) s)
    else s

/-- LEDGER_COMMIT (R279 R288). -/
def execLedgerCommit (id : Nat) (s : State) : Out :=
  runOp s id 0x22 fun d =>
    let x := requestCommits (le d.bytes 16 1) 8 s
    if x.2 = 0 then complete id stOK [] s
    else onTiles (fun k => { k with waits := k.waits ++ [{ id, tiles := x.2 }] }) (updDesc id (fun d => { d with taken := true }) x.1)

end Sys2Proof.Machine
end

