-- ==== Sys2Proof/Machine/Power.lean ====
section
/-! DEFINITION. Power, sag handling, reset and clocks: the meanings of the Lichen commands (02). -/

namespace Sys2Proof.Machine

/-- VIN_RISE_POR (R34 R35 R48 R49): the power-on reset is applied, unless a save holds the chip for VIN. -/
def execVinRisePor (s : State) : Out :=
  when_ (!s.power.saving && !s.power.awaitVin)
    (fun s =>
      let sag := s.power.sagOwed
      let s := chipReset .por { s with power := { s.power with por := true, pump := false, vstop := false, sagOwed := false } }
      { s with power := { s.power with
          vholdSeen := false
          causes := if sag then s.power.causes ||| 2 ^ causeBit .sag else s.power.causes } }) s

/-- POR_RELEASE (R34 R36): the charge pump starts; the chip is released if `RESET_N` is seen high. -/
def execPorRelease (svcEnN resetNHigh : Bool) (s : State) : Out :=
  when_ s.power.por
    (fun s => release_ svcEnN { s with power := { s.power with por := false, pump := true, pinLow := !resetNHigh } }) s

/-- RESET_N_RELEASE (R36). -/
def execResetNRelease (svcEnN : Bool) (s : State) : Out :=
  .next (release_ svcEnN { s with power := { s.power with pinLow := false } })

/-- RESET_N_LOW (R48 R54): the low has lasted t_RSTF; an ignored pin and a save leave it without effect. DESIGN CHOICE
(notes/assumptions/74): a low that begins while the power-on reset, the wait after a save or the thermal latch already holds the
chip is no reset of its own and sets no cause bit. -/
def execResetNLow (s : State) : Out :=
  if s.power.pinIgnored then .next s
  else
    let s := { s with power := { s.power with pinLow := true } }
    when_ (!s.power.saving && !s.power.awaitVin && !s.power.thermLatch && !s.power.por) (requestReset .pin) s

/-- RESET_N_STUCK (R55): `RSTSTUCK` latches, the reset is released with cause `STUCK`, the pin is ignored. DESIGN CHOICE
(notes/assumptions/74): the latch and the cause bit are set at the stuck limit also while the thermal latch, a save or the wait for
`VIN` goes on holding the chip. -/
def execResetNStuck (svcEnN : Bool) (s : State) : Out :=
  when_ (s.power.pinLow && !s.power.pinIgnored && !s.power.por)
    (fun s => release_ svcEnN { s with power := { s.power with
        rstStuck := true, pinIgnored := true, causes := s.power.causes ||| 2 ^ causeBit .stuck } }) s

/-- RESET_N_HONOURED (R55): the ignored pin has been high for 100 ms. -/
def execResetNHonoured (s : State) : Out :=
  when_ s.power.pinIgnored (fun s => { s with power := { s.power with pinIgnored := false, pinLow := false } }) s

/-- VIN_SLOW (R42 R60 R67): half clocks for the compositor and the ring engine. DESIGN CHOICE (notes/assumptions/74): during a save,
which has stopped both, a fall below `VSAG_SLOW` is no entry into slowing. -/
def execVinSlow (s : State) : Out :=
  when_ (decide (s.power.sagStage = 0) && !s.power.saving)
    (fun s => raise 487 { s with power := { s.power with sagStage := 1, slows := satAdd 65535 s.power.slows 1 } }) s

/-- SAG_DWELL (R42): quarter clocks. -/
def execSagDwell (s : State) : Out :=
  when_ (decide (s.power.sagStage = 1)) (fun s => { s with power := { s.power with sagStage := 2 } }) s

/-- VIN_SLOW_RELEASE (R43): full clocks in one step. -/
def execVinSlowRelease (s : State) : Out :=
  .next { s with power := { s.power with sagStage := 0 } }

/-- SAVE_SEQUENCE (R45 R47 R51 R67): four islands stop, `VIN_SAVE` is raised, the records are formed and written. A chip that is
held in reset saves too. DESIGN CHOICE (notes/assumptions/74): while the chip waits for `VIN` after a save, another fall starts
none. -/
def execSaveSequence (s : State) : Out :=
  when_ (!s.power.saving && !s.power.awaitVin)
    (fun s => startSave (raise 480 { s with power := { s.power with
        saving := true, saves := satAdd 65535 s.power.saves 1, saveShort := !s.power.vholdRdy
        saveStart := s.time.now, saveComplete := false, saveRecords := 0, vholdEnd := 0, saveDuration := 0 } })) s

/-- SAG_RELEASE (R49): the reset ends with cause `SAG`. -/
def execSagRelease (svcEnN : Bool) (s : State) : Out :=
  when_ s.power.awaitVin
    (fun s => release_ svcEnN { s with power := { s.power with
        awaitVin := false, sagStage := 0, vstop := false, causes := s.power.causes ||| 2 ^ causeBit .sag } }) s

/-- VIN_STOP (R48 R24): every island outside a save stops; the light is Off. -/
def execVinStop (s : State) : Out :=
  .next (tensOff 8 (lightOff { s with power := { s.power with vstop := true } }))

/-- VIN_REMOVAL (R35 R49 R51 R52 R531): a record in progress is interrupted; every Lichen latch clears; the next rise of VIN gives
a power-on reset. DESIGN CHOICE (notes/assumptions/74): a removal that cuts a save short, before its end, owes no `SAG`. -/
def execVinRemoval (s : State) : Out :=
  let owed := s.power.awaitVin || s.power.sagOwed
  let s := chipReset .por (cutRecord s)
  .next { s with
    power := { ({} : Power) with
      causes := 0, sagOwed := owed, inhibit := s.power.inhibit
      sagDwell := s.boot.sagDwell, vsagSave := s.boot.vsagSave, vsagSlow := s.boot.vsagSlow }
    journal := { s.journal with retained := [] } }

/-- RAIL_UNDERVOLTAGE (R33 R48 R532): chip reset with cause `RAIL`, also of a chip that is held; an NVM record in progress
completes. A save, which always runs to completion and ends in a reset of its own, is not reset. -/
def execRailUndervoltage (rail : Rail) (s : State) : Out :=
  let s := if s.power.saving then s else chipReset .rail (recordDone s)
  .next { s with power := { s.power with
    vcoreOk := s.power.vcoreOk && rail != .vcore
    vdd18Ok := s.power.vdd18Ok && rail != .vdd18
    vserOk := s.power.vserOk && rail != .vser } }

/-- `VHOLD` stands above or below `VHOLD_READY` (R38 R40 R61): with it the condition of `VHOLD_LOW` ends, and first light has what
it waits for. -/
def vholdLevel (above : Bool) (s : State) : State :=
  if above then condOff 481 { s with power := { s.power with vholdRdy := true, vholdSeen := true } }
  else { s with power := { s.power with vholdRdy := false } }

/-- VHOLD_READY (R38 R61). -/
def execVholdReady (s : State) : Out := .next (vholdLevel true s)

/-- VHOLD_READY_TIMEOUT (R40): `VHOLD_LOW` is raised, until `VHOLD` is ready, and first light no longer waits. -/
def execVholdReadyTimeout (s : State) : Out :=
  when_ (!s.power.held && !s.power.vholdSeen && !s.power.vholdWaived)
    (fun s => condOn 481 { s with power := { s.power with vholdWaived := true } }) s

/-- VHOLD_FALL (R40): below `VHOLD_READY` for 10 ms while the chip runs, once it has been reached; `VHOLD_LOW` is raised until it is
reached again. -/
def execVholdFall (s : State) : Out :=
  when_ (!s.power.held && s.power.vholdSeen) (fun s => condOn 481 (vholdLevel false s)) s

/-- BUCK_PHASE (R32): the phase is dropped. -/
def execBuckPhase (phase : Fin 4) (s : State) : Out :=
  when_ (s.power.phases.testBit phase.val)
    (fun s => raise 482 { s with power := { s.power with phases := putBit s.power.phases phase.val false } }) s

/-- Set or clear the mark of a failed reference. -/
def markRef (i : Nat) (b : Bool) (s : State) : State := { s with power := { s.power with clkFailed := putBit s.power.clkFailed i b } }

/-- CLOCK_REFERENCE_FAIL (R59 R73): backup oscillator, ports down or link down, and the clock source. -/
def execClockReferenceFail (ref : Ref) (s : State) : Out :=
  match ref with
  | .xin => .next (condOn 483 (markRef 0 true { s with power := { s.power with xinOk := false, clkBackup := true } }))
  | .cref => .next (condOn 484 (portLose 1 (portLose 0 (markRef 1 true { s with power := { s.power with crefOk := false } }))))
  | .peref =>
    let s := condOn 485 (markRef 2 true { s with power := { s.power with perefOk := false } })
    .next (if s.link.up then hostReset false s else s)

/-- CLOCK_REFERENCE_RETURN (R59): good for 10 ms. -/
def execClockReferenceReturn (ref : Ref) (s : State) : Out :=
  match ref with
  | .xin => .next (condOff 483 (markRef 0 false { s with power := { s.power with xinOk := true, clkBackup := false } }))
  | .cref => .next (condOff 484 (portsRestart (markRef 1 false { s with power := { s.power with crefOk := true } })))
  | .peref => .next (condOff 485 (markRef 2 false { s with power := { s.power with perefOk := true } }))

/-- PWR_MON_UPDATE (R61 R63): the readings, and with them the level of the `VHOLD_READY` comparator. -/
def execPwrMonUpdate (vinMv : BitVec 16) (vhold : VholdSeen) (s : State) : Out :=
  .next (vholdLevel vhold.above { s with power := { s.power with vinMv := vinMv.toNat, vholdMv := vhold.mv.toNat } })

/-- SWRST_KEY (R57 R65): 0xA5C3 from level 0 resets the chip with cause `SOFT`; any other value is ignored. -/
def execSwrstKey (level0 : Bool) (value : BitVec 32) (s : State) : Out :=
  when_ (barOpen s && level0 && decide (bits value.toNat 0 16 = 0xA5C3)) (requestReset .soft) s

end Sys2Proof.Machine
end

