-- ==== Sys2Proof/Machine/ThermOps.lean ====
section
/-! DEFINITION. Operations of thermal management: sensors and their domains, readings, rates, throttle levels, failed sensors,
the events (12). -/

namespace Sys2Proof.Machine

/-- Change thermal management. -/
def onTherm (f : Therm → Therm) (s : State) : State := { s with therm := f s.therm }

/-- Change one sensor. -/
def updSensor (i : Nat) (f : Sensor → Sensor) (s : State) : State := putSensor s i (f (sensorOf s i))

/-! ### Sensors (R417) -/

/-- Domains of a code of `THM_CTRL` (R446): 0 chip, 1 + n tile n. -/
def codeDomains (c : Nat) : List Nat := if c < 9 then [c] else if c = 9 then [1, 2, 3, 4, 5, 6, 7, 8] else []

/-- Domains of a sensor (R417). -/
def sensorDomains (s : State) (i : Nat) : List Nat :=
  if i < 12 then [0] else if i < 20 then [i - 11] else codeDomains (if i = 20 then s.therm.ntc0Dom else s.therm.ntc1Dom)

/-- A sensor is disabled (R417). -/
def sensorDisabled (s : State) (i : Nat) : Bool :=
  if i < 12 then false else if i < 20 then !(tileOf s (i - 12)).present else (sensorDomains s i).isEmpty

/-- Neighbours of a sensor (R417). -/
def neighbours (i : Nat) : List Nat :=
  if i < 12 then
    [[1, 4], [0, 2, 5], [1, 3, 6], [2, 7], [0, 5, 8], [1, 4, 6, 9], [2, 5, 7, 10], [3, 6, 11], [4, 9], [5, 8, 10], [6, 9, 11],
      [7, 10]].getD i []
  else if i < 20 then
    let n := i - 12
    (if n % 4 = 0 then [] else [i - 1]) ++ (if n % 4 = 3 then [] else [i + 1]) ++ [if n < 4 then i + 4 else i - 4]
  else List.range 12

/-- The enabled members of a domain. -/
def members (s : State) (d : Nat) : List Nat :=
  (List.range 22).filter fun i => !sensorDisabled s i && (sensorDomains s i).contains d

/-- The reading of a sensor is valid, and not substituted. -/
def ownValid (x : Sensor) : Bool := x.valid && !x.subst

/-- The largest of a list of readings. -/
def maxOf : List Int → Option Int
  | [] => none
  | v :: r => match maxOf r with | none => some v | some w => some (max v w)

/-- The maximum valid reading of the neighbours of a sensor (R427). -/
def neighbourMax (s : State) (i : Nat) : Option Int :=
  maxOf ((neighbours i).filterMap fun k => let x := sensorOf s k; if ownValid x && !sensorDisabled s k then some x.reading else none)

/-! ### Conversion of an NTC (R418) -/

/-- 2^60. -/
def lnOne : Int := 1152921504606846976

/-- Scale a quotient near 1, counting powers of two. -/
def lnScale : Nat → Int → Int → Int → Int × Int × Int
  | 0, n, d, k => (n, d, k)
  | f + 1, n, d, k => if 3 * d < 2 * n then lnScale f n (2 * d) (k + 1) else if 4 * n < 3 * d then lnScale f (2 * n) d (k - 1) else (n, d, k)

/-- The series of the inverse hyperbolic tangent, f terms from the i-th on. -/
def lnTerms (y2 : Int) : Nat → Int → Int → Int
  | 0, _, _ => 0
  | f + 1, t, i => t / (2 * i + 1) + lnTerms y2 f (t * y2 / lnOne) (i + 1)

/-- ln(n / d) in 2^-60. -/
def lnFix (n d : Int) : Int :=
  let x := lnScale 16 n d 0
  let y := (x.1 - x.2.1) * lnOne / (x.1 + x.2.1)
  2 * lnTerms (y * y / lnOne) 14 y 0 + x.2.2 * 799144290325165979

/-- 1/T = 1/298.15 K + ln(R / 10 kΩ) / 3 435 K, in 1/16 °C rounded down, and whether that is exact (R418). -/
def ntcReading (ohms : Int) : Int × Bool :=
  let n := 16 * 29815 * 3435 * lnOne
  let d := 343500 * lnOne + 29815 * lnFix ohms 10000
  let x := 10 * n - 43704 * d
  (x / (10 * d), decide (x % (10 * d) = 0))

/-- A raw value as a reading in 1/16 °C, or a failure (R418 R420). The rounding of an NTC's is open. -/
def convert (i : Nat) (raw : Option Int) (s : State) : Option Int × State :=
  match raw with
  | none => (none, s)
  | some v =>
    if i < 20 then (if -880 ≤ v ∧ v ≤ 2400 then some v else none, s)
    else if 50 ≤ v ∧ v ≤ 2000000 then
      let q := ntcReading v
      if q.2 then (some q.1, s)
      else let x := freshFree s; (some (q.1 + (x.1.toNat % 2 : Nat)), x.2)
    else (none, s)

/-! ### Events (R430) -/

/-- A `THERMAL` event; what no rule states for an event without a sensor or a domain is free (R430). -/
def thermEvent (kind : Nat) (dom sensor : Option Nat) (s : State) : State :=
  let x := freshFree s
  let y := freshFree x.2
  let a1 := match sensor with
    | some i => let v := sensorOf s i
                at_ 16 (if v.rateOk then unsigned 16 v.rate else bits x.1.toNat 0 16) + unsigned 16 v.reading
    | none => bits x.1.toNat 0 32
  let a2 := match dom with
    | some d => let v := domainOf s d; flag 8 (!v.frozen.isEmpty) + v.level % 8
    | none => flag 8 (y.1.toNat.testBit 8) + bits y.1.toNat 0 3
  postEvent 3 (at_ 16 kind + at_ 8 (dom.getD 0xFF) + sensor.getD 0xFF) a1 a2 y.2

/-- The domain that an event of a sensor names: none where it has several. -/
def eventDomain (s : State) (i : Nat) : Option Nat := match sensorDomains s i with | [d] => some d | _ => none

/-! ### Rates (R422) -/

/-- The most recent earlier reading taken at least 0.25 s and at most 60 s before (R422). -/
def earlier (now : Int) (h : List (Int × Int)) : Option (Int × Int) :=
  h.find? fun e => decide (tuSec ≤ 4 * (now - e.2)) && decide (now - e.2 ≤ 60 * tuSec)

/-- The rate in 0.01 °C/s, rounded toward zero (R422). -/
def rateOf (now v : Int) (e : Int × Int) : Int := Int.tdiv ((v - e.1) * 100 * tuSec) (16 * (now - e.2))

/-- A sensor takes a valid or substituted reading at an instant (R422 R443 R444). -/
def takeValue (now v : Int) (sub : Bool) (x : Sensor) : Sensor :=
  let r := earlier now x.hist
  { x with
    valid := true, subst := sub, reading := v
    rateOk := r.isSome, rate := match r with | some e => clampI (-32768) 32767 (rateOf now v e) | none => x.rate
    hist := (v, now) :: x.hist.filter fun e => decide (now - e.2 ≤ 60 * tuSec) }

/-- Its reading breaches (R423). -/
def breaches (x : Sensor) : Bool :=
  x.valid && x.rateOk && decide (x.tArm ≤ x.reading) && decide ((x.riseLim : Int) < x.rate)

/-! ### Levels (R423 R427) -/

/-- The floor of a frozen domain (R427 R447). -/
def floorOf (d : Domain) : Nat := d.frozen.foldl (fun m e => max m e.2) 0

/-- A domain rises to a level, with `THM_THROTTLE` and its event (R423 R430). -/
def riseTo (d l i : Nat) (s : State) : State :=
  if l ≤ (domainOf s d).level then s
  else thermEvent 1 (some d) (some i) (raise 216 (putDomain s d { domainOf s d with level := l }))

/-- The domains of a breach rise one level, up to the highest (R423). -/
def riseDomains (measured : List Nat) : Nat → State → State
  | 0, s => s
  | d + 1, s =>
    let s := riseDomains measured d s
    match (members s d).find? fun i => measured.contains i && breaches (sensorOf s i) with
    | some i => riseTo d (min 7 ((domainOf s d).level + 1)) i s
    | none => s

/-! ### Failed sensors (R420 R427 R428) -/

/-- A sensor was the hottest of a domain (R427). -/
def hottest (s : State) (d i : Nat) : Bool :=
  let x := sensorOf s i
  x.valid && (members s d).all fun k => let y := sensorOf s k; !y.valid || decide (y.reading ≤ x.reading)

/-- No neighbour of a substituted sensor has a valid reading: its domains rise to their highest level and stay there (R427). -/
def noNeighbour (i : Nat) : List Nat → State → State
  | [], s => s
  | d :: r, s =>
    let s := riseTo d 7 i s
    noNeighbour i r (putDomain s d { domainOf s d with frozen := (i, 7) :: (domainOf s d).frozen.filter fun e => e.1 != i })

/-- The hottest sensor of throttled domains fails: they freeze at their level, its later readings are replaced (R427). -/
def freezeDomains (i : Nat) : List Nat → State → State
  | [], s => s
  | d :: r, s =>
    let x := domainOf s d
    let s := raise 218 (putDomain s d { x with frozen := (i, x.level) :: x.frozen.filter fun e => e.1 != i })
    freezeDomains i r (thermEvent 4 (some d) (some i) (updSensor i (fun x => { x with substituted := true }) s))

/-- A reading fails (R420 R427): `THM_SENS_LOST` at the first after a valid one, counted or not; `was` is the state before the
measurement. -/
def failReading (was : State) (i : Nat) (s : State) : State :=
  let x := sensorOf s i
  if x.failed then
    let s := putSensor s i { x with good := 0 }
    if 0 < x.good then raise 217 s else s
  else
    let s := putSensor s i { x with failed := true, good := 0, everValid := false, valid := false, rateOk := false }
    let s := thermEvent 3 (eventDomain s i) (some i) (if x.everValid then raise 217 s else s)
    let ds := (sensorDomains s i).filter fun d => decide (0 < (domainOf s d).level) && hottest was d i
    let s := freezeDomains i ds s
    if ds.isEmpty then s else if (neighbourMax s i).isNone then noNeighbour i ds s else s

/-- A failed sensor returns: substitution and the freezes of its failure end (R420 R427 R429). -/
def returnSensor (i : Nat) (s : State) : State :=
  let s := onTherm (fun t => { t with domains := t.domains.map fun e => (e.1, { e.2 with frozen := e.2.frozen.filter fun f => f.1 != i }) })
    (updSensor i (fun x => { x with failed := false, substituted := false, good := 0, everValid := true }) s)
  thermEvent 5 (eventDomain s i) (some i) s

/-- A valid reading arrives (R420): a failed sensor returns with its third in a row. -/
def validReading (i : Nat) (v : Int) (s : State) : State :=
  let x := sensorOf s i
  if x.failed && decide (x.good + 1 < 3) then putSensor s i { x with good := x.good + 1 }
  else
    let now := s.time.now
    let s := updSensor i (fun x => { takeValue now v false x with everValid := true }) s
    if x.failed then returnSensor i s else s

/-- The later reading of a failed sensor is replaced (R427). -/
def substitute (was : State) (i : Nat) (s : State) : State :=
  let x := sensorOf s i
  if x.failed && x.substituted && (sensorOf was i).failed then
    match neighbourMax s i with
    | some v => updSensor i (takeValue s.time.now (v + x.offset) true) s
    | none => noNeighbour i ((sensorDomains s i).filter fun d => (domainOf s d).frozen.any fun e => e.1 == i) s
  else s

/-- `SUBST_OFFSET` is learned from a valid reading (R428): the mean over the last 64, rounded up, never below 0. -/
def learnOffset (measured : List Nat) (i : Nat) (s : State) : State :=
  let x := sensorOf s i
  if x.failed || !ownValid x then s
  else match maxOf ((neighbours i).filterMap fun k =>
      let y := sensorOf s k; if measured.contains k && ownValid y && !y.failed then some y.reading else none) with
    | none => s
    | some v =>
      let ds := ((x.reading - v) :: x.diffs).take 64
      putSensor s i { x with diffs := ds, offset := (max 0 (- ((- ds.sum) / (ds.length : Int)))).toNat }

/-- The readings of a measurement are judged one sensor after another. -/
def forEach (f : Nat → State → State) : List Nat → State → State
  | [], s => s
  | i :: r, s => forEach f r (f i s)

/-- The raw values of a measurement are converted (R418 R420). -/
def convertAll (seen : List SensorSeen) : List Nat → State → List (Nat × Option Int) × State
  | [], s => ([], s)
  | i :: r, s =>
    let x := convert i (match seen.find? fun e => e.sensor.val == i with | some e => e.raw | none => none) s
    let y := convertAll seen r x.2
    ((i, x.1) :: y.1, y.2)

/-- One measurement (R420 R422 R423 R427 R428): readings, failures, substitutes, offsets, breaches. -/
def measure (vals : List (Nat × Option Int)) (s : State) : State :=
  let was := s
  let all := vals.map fun e => e.1
  let s := vals.foldl (fun s e => match e.2 with | some v => validReading e.1 v s | none => s) s
  let s := vals.foldl (fun s e => match e.2 with | none => failReading was e.1 s | some _ => s) s
  let s := forEach (substitute was) all s
  let s := forEach (learnOffset all) all s
  riseDomains all 9 s

/-- A `THERM_MEASURE` completes (R125 R421): the highest valid reading and its sensor, `CHECK` if a sensor measured is failed. Which
of several equal readings is named is open. -/
def endMeasure (id : Nat) (vals : List (Nat × Option Int)) (s : State) : State :=
  let st := if vals.any fun e => (sensorOf s e.1).failed then stCHECK else stOK
  match maxOf (vals.filterMap fun e => e.2) with
  | none => complete id st (toLe 2 0x8000 ++ toLe 1 0xFF) s
  | some v =>
    let top := (vals.filter fun e => e.2 == some v).map fun e => e.1
    let x := freshFree s
    complete id st (toLe 2 (unsigned 16 v) ++ toLe 1 (top.getD (x.1.toNat % top.length) 0)) x.2

/-! ### The calibration temperature (R407 R408 R409) -/

/-- T_c in 1/840 of 1/16 °C: the mean of the valid readings of die sensors 0 to 3, else of all valid die sensors (R407). -/
def calTemp (s : State) : Option Int :=
  let vs := fun (l : List Nat) => l.filterMap fun i => let x := sensorOf s i; if ownValid x && !x.failed then some x.reading else none
  let a := vs [0, 1, 2, 3]
  let v := if a.isEmpty then vs (List.range 12) else a
  if v.isEmpty then none else some (840 * v.sum / (v.length : Int))

/-- After a measurement of die sensors 0 to 3: the trims, and the triggers of a full run (R408 R409 R410). -/
def calMeasured (s : State) : State :=
  match calTemp s with
  | none => s
  | some t =>
    let s := retrim 192 (onCal (fun c => { c with tC := t }) s)
    if !s.cal.bootRun then
      let s := onCal (fun c => { c with bootRun := true }) s
      if s.cal.running then onCal (fun c => { c with queued := true }) s else startFull s
    else if !s.cal.running && calTempMoved s then startFull s
    else s

end Sys2Proof.Machine
end

