-- ==== Sys2Proof/Machine/TimeOps.lean ====
section
/-! DEFINITION. Operations of the time island: steps, switches, holdover, lock, timed event channels (14). -/

namespace Sys2Proof.Machine

/-- Change the time island. -/
def onTim (f : TimeI → TimeI) (s : State) : State := { s with time := f s.time }

/-- Nanoseconds in 2^-16 ns. -/
def nsTu (n : Int) : Int := n * 65536

/-! ### Timed event channels (R518 to R521) -/

/-- A channel is armed and has an edge to come (R519 R521). -/
def tevLive (t : Tev) : Bool := decide (t.mode % 4 ≠ 0) && !t.fired

/-- The idle level of an output: high if `MODE`[2] is 1 (R519). -/
def tevIdle (t : Tev) : Bool := t.mode.testBit 2

/-- Drive the pin of channels 0 to 7 (R518). -/
def setTevPin (k : Nat) (b : Bool) (s : State) : State :=
  let t := tevOf s k
  if 8 ≤ k ∨ t.level = b then s else emit (.tevPin k b) (putTev s k { t with level := b })

/-- A channel fires: an output begins its pulse, unless one is in progress, which nothing stretches (R520); what an internal
trigger causes is a command of its own. -/
def tevFire (k : Nat) (s : State) : State :=
  let t := tevOf s k
  if 8 ≤ k ∨ t.pulse then s else setTevPin k (!tevIdle t) (putTev s k { t with pulse := true })

/-- The first edge of a grid at or after an instant (R521). -/
def gridFrom (start period t : Int) : Int := if t ≤ start then start else start + (0 - ((start - t) / period)) * period

/-- An arming takes effect (R519 R521). -/
def tevArmNow (k mode : Nat) (start period width : Int) (s : State) : State :=
  let now := outTime s
  let t := tevOf s k
  let past := decide (start < now)
  let next := if mode % 4 = 2 ∧ past then gridFrom start period (now + nsTu 1000) else start
  if mode % 4 = 0 then
    let s := putTev s k { t with mode, fired := false }
    setTevPin k (tevIdle (tevOf s k)) s
  else
    let fires := decide (mode % 4 = 1) && past
    let s := putTev s k { t with mode, start, period, width, next, fired := fires }
    let s := setTevPin k (tevIdle (tevOf s k)) s
    if fires then tevFire k s else s

/-- A channel of the management processor is armed as a periodic one, first edge one period from now (R518). -/
def armTrigger (k : Nat) (period : Int) (s : State) : State := tevArmNow k 2 (outTime s + period) period 0 s

/-- One channel at a step of the output time (R521): edges passed by a forward step give one pulse and are otherwise
skipped; after a backward step edges follow their grid from the new time. -/
def tevAtStep (forward : Bool) (k : Nat) (s : State) : State :=
  let t := tevOf s k
  let now := outTime s
  if !tevLive t then s
  else if forward then
    if now < t.next then s
    else if t.mode % 4 = 1 then tevFire k (putTev s k { t with fired := true })
    else
      let m := ((now - t.next) / t.period).toNat
      let s := tevFire k (putTev s k { t with next := t.next + ((m : Int) + 1) * t.period })
      if m = 0 then s else raise 325 (onTim (fun x => { x with tevMiss := satAdd (2 ^ 32 - 1) x.tevMiss m }) s)
  else if t.mode % 4 = 2 then putTev s k { t with next := gridFrom t.start t.period now }
  else s

/-- The first n channels at a step. -/
def tevsAtStep (forward : Bool) : Nat → State → State
  | 0, s => s
  | n + 1, s => tevAtStep forward n (tevsAtStep forward n s)

/-! ### Steps and switches (R191 R512 R513 R514) -/

/-- A step of d in the frame grid (R191): G moves with the steps made until it is fixed; a later step that passes it places the
boundary there, and one made after the boundary has fallen belongs to the next frame. -/
def frameStepped (d : Int) (s : State) : State :=
  let f := s.frm
  let old := outTime s - d
  let fixed := decide (0 - (0 - tuSec) / (f.rate : Int) - 1 ≤ old - f.start - f.steps)
  let g := gridAt s (nextNum s)
  let fell := if !f.started || !fixed || f.fell.isSome then f.fell
    else if g ≤ old then some (g, f.steps, false)
    else if g ≤ outTime s then some (outTime s, f.steps + d, true)
    else none
  { s with frm := { f with steps := f.steps + d, stepsG := if fixed then f.stepsG else f.stepsG + d, fell } }

/-- The output time has been stepped by d (R512): counted and reported; the frame counter does not step. -/
def outputStepped (d : Int) (s : State) : State :=
  let s := onTim (fun x => { x with steps := satAdd 65535 x.steps 1 }) s
  tevsAtStep (decide (0 < d)) 16 (raise 324 (frameStepped d s))

/-- Set the mapping of a domain afresh at this instant. -/
def remap (d : Nat) (f : Dom → Dom) (s : State) : State :=
  putDom s d (f { domOf s d with base := domTime s d, at_ := s.time.now })

/-- A domain is stepped (R511 R512). -/
def stepDomain (d : Nat) (v : Int) (s : State) : State :=
  let s := remap d (fun x => { x with base := x.base + v, everSet := true }) s
  if d = s.time.active ∧ v ≠ 0 then outputStepped v s else s

/-- The node is in holdover while the active domain is and the other is not locked; `TIM_HOLDOVER` each time it begins (R514). -/
def judgeHoldover (s : State) : State :=
  let h := (domOf s s.time.active).holdover && !(domOf s (1 - s.time.active)).locked
  let s' := onTim (fun x => { x with holdover := h }) s
  if h && !s.time.holdover then raise 323 s' else s'

/-- A switch is sent to the time island (R514). -/
def sendSwitch (d : Nat) (id : Option Nat) (s : State) : State := onTim (fun x => { x with switchTo := x.switchTo ++ [(d, id)] }) s

/-- A domain loses lock (R511): `TIM_LOSS`, holdover, and the switch on loss of R514. -/
def loseLock (d : Nat) (s : State) : State :=
  let x := domOf s d
  let s := putDom s d { x with locked := false, good := 0, holdover := x.holdover || x.locked }
  if x.locked then
    let s := raise (320 + d) s
    let s := if s.time.autoSw && decide (d = s.time.active) && (domOf s (1 - d)).locked then sendSwitch (1 - d) none s else s
    judgeHoldover s
  else s

/-- The switch to a domain (R513): through a slew term, or as a step above 1 ms; a switch to the active domain changes nothing. -/
def applySwitch (d : Nat) (s : State) : State :=
  if d = s.time.active then s
  else
    let t := outTime s - domTime s d
    let s := raise 322 (onTim (fun x => { x with active := d, switches := satAdd 65535 x.switches 1 }) s)
    let s := if nsTu 1000000 < (t.natAbs : Int) then outputStepped (0 - t) (onTim (fun x => { x with slewTerm := 0 }) s)
      else onTim (fun x => { x with slewTerm := t }) s
    judgeHoldover s

end Sys2Proof.Machine
end

