-- ==== Sys2Proof/Machine/TimeNet.lean ====
section
/-! DEFINITION. Network time and timed events: the servos, switching, `TIME_ADJ`, `TEV_ARM` and the triggers (14). -/

namespace Sys2Proof.Machine

/-- TIM_NOW_CAPTURE (R524): a read of `TIM_NOW_SEC_LO` captures the whole output time. -/
def execTimNowCapture (s : State) : Out :=
  when_ (barOpen s)
    (fun s =>
      let t := outTime s
      emit (.regRead 0x58008 ((t / tuSec).toNat % 2 ^ 32)) (onTim (fun x => { x with cap := t }) s)) s

/-- The servo of a domain runs (R510). -/
def servoRuns (d : Nat) (s : State) : Bool := (domOf s d).en && s.nvm.running

/-- PTP_SYNC (R506 R510): the Sync is kept, its ingress converted by the mapping in force, and a Delay_Req for the PTP domain goes
out on its port under its number, at priority 7. -/
def execPtpSync (d : Fin 2) (m : SyncSeen) (s : State) : Out := ifRuns s .mp <|
  when_ (servoRuns d.val s)
    (fun s =>
      let x := domOf s d.val
      sendMgmt m.port.val 7 (delayReqFrame s x.ptpDomain m.port.val m.seq)
        (putDom s d.val { x with port := m.port.val, sync := some (m.seq, domAt s d.val m.ingress, m.origin) })) s

/-- The offset from the master by the delay request-response mechanism (R506 R510): ((t2 − t1) − (t4 − t3)) / 2, with t2 and t3 in
the domain. -/
def ptpOffset (s : State) (d : Nat) (ingress origin : Int) (m : DelaySeen) : Int :=
  ((ingress - origin) - (m.received - domAt s d m.egress)) / 2

/-- The servo steers the rate; by how much the spec does not say (R510 and notes/assumptions/16). -/
def steer (d : Nat) (s : State) : State :=
  let x := freshFree s
  remap d (fun y => { y with ratio := signed 64 x.1.toNat }) x.2

/-- The domain locks after 16 consecutive offsets within ±100 ns (R511). -/
def judgeLock (d : Nat) (s : State) : State :=
  let x := domOf s d
  if 16 ≤ x.good ∧ ¬ x.locked then
    judgeHoldover (putDom s d { x with locked := true, everSet := true, everLocked := true, holdover := false })
  else s

/-- DELAY_RESP (R510 R511 R512): the offset steps or steers the domain, and lock is judged. -/
def execDelayResp (d : Fin 2) (m : DelaySeen) (s : State) : Out := ifRuns s .mp <|
  let x := domOf s d.val
  match x.sync with
  | none => .next s
  | some y =>
    if !servoRuns d.val s || decide (y.1 ≠ m.seq) then .next s
    else
      let o := ptpOffset s d.val y.2.1 y.2.2 m
      let good := if o.natAbs ≤ 100 * 65536 then x.good + 1 else 0
      let s := putDom s d.val { x with sync := none, offset := o, good }
      if 100000 * 65536 < o.natAbs then .next (loseLock d.val (stepDomain d.val (0 - o) s))
      else if 1000 * 65536 ≤ o.natAbs then .next (loseLock d.val (steer d.val s))
      else .next (judgeLock d.val (steer d.val s))

/-- SYNC_LOSS (R511 R514): no Sync for `LOSS_T`. -/
def execSyncLoss (d : Fin 2) (s : State) : Out := ifRuns s .mp <|
  when_ (servoRuns d.val s) (fun s => loseLock d.val (putDom s d.val { domOf s d.val with sync := none })) s

/-- REVERT (R514): the preferred domain has been locked for `REVERT_S`. -/
def execRevert (s : State) : Out := ifRuns s .mp <|
  let t := s.time
  when_ (t.autoSw && decide (t.active ≠ t.prefer) && decide (t.revertS ≠ 0) && (domOf s t.prefer).locked && s.nvm.running)
    (sendSwitch t.prefer none) s

/-- DOMAIN_SWITCH (R513 R514 R517): the handshake of the oldest switch has completed; a select completes. -/
def execDomainSwitch (s : State) : Out := ifRuns s .time <|
  match s.time.switchTo with
  | [] => .next s
  | (d, id) :: r =>
    let s := applySwitch d (onTim (fun x => { x with switchTo := r }) s)
    .next (match id with | some id => complete id stOK [] s | none => s)

/-- SLEW_COMPLETE (R513): local time runs on until s is 0. -/
def execSlewComplete (s : State) : Out := ifRuns s .time <|
  let k : Int := s.time.slew
  when_ (decide (s.time.slewTerm ≠ 0) && decide (0 < k))
    (runLocal (0 - ((0 - (s.time.slewTerm.natAbs : Int) * 10000000) / k))) s

/-- DOMAIN_EN_WRITE (R510 R514 R525): a level-0 write of `TIM_DOMx_CFG`. -/
def execDomainEnWrite (d : Fin 2) (level0 : Bool) (value : BitVec 32) (s : State) : Out :=
  let v := value.toNat
  when_ (barOpen s && level0)
    (fun s =>
      let x := domOf s d.val
      let x := { x with lossT := if bits v 24 8 = 0 then x.lossT else bits v 24 8, ptpDomain := bits v 8 8 }
      let fresh : Dom := { x with en := v.testBit 0, locked := false, holdover := false, everLocked := false, good := 0, sync := none }
      judgeHoldover (putDom s d.val (if v.testBit 0 ∧ x.en then x else fresh))) s

/-- A `TIME_ADJ` of a mode runs (R516 R517): modes 0 to 2 complete `BUSY` while the domain's `EN` is 1. -/
def runTimeAdj (id mode : Nat) (f : Nat → Int → State → State) (s : State) : Out :=
  runOp s id 0x50 fun d =>
    let x := le d.bytes 16 1
    if le d.bytes 17 1 ≠ mode then s
    else if mode < 3 ∧ (domOf s x).en then complete id stBUSY [] s
    else f x (signed 64 (le d.bytes 24 8)) s

/-- STEP (R516 R517). -/
def execStep (id : Nat) (s : State) : Out :=
  runTimeAdj id 0 (fun d v s => complete id stOK [] (stepDomain d (nsTu v) s)) s

/-- FREQUENCY (R516 R517). -/
def execFrequency (id : Nat) (s : State) : Out :=
  runTimeAdj id 1 (fun d v s => complete id stOK [] (remap d (fun x => { x with ratio := v }) s)) s

/-- SLEW (R516 R517): it replaces what remains of an earlier slew of the domain. -/
def execSlew (id : Nat) (s : State) : Out :=
  runTimeAdj id 2 (fun d v s => complete id stOK [] (putDom s d { domOf s d with slewLeft := nsTu v, everSet := true })) s

/-- SELECT (R513 R516 R517): it completes when the time island applies it. -/
def execSelect (id : Nat) (s : State) : Out :=
  runTimeAdj id 3 (fun d _ s => sendSwitch d (some id) (updDesc id (fun x => { x with taken := true }) s)) s

/-- A start time of a descriptor: its upper 16 bits of seconds come from the output time (R505), nanoseconds rounded down to
a multiple of 4 (R519). -/
def startOf (s : State) (sec ns : Nat) : Int :=
  timeOf ((outTime s / tuSec).toNat / 2 ^ 48 * 2 ^ 48 + sec) (down4 ns)

/-- TEV_ARM (R519 R520 R521): during a pulse the arming waits for its end. -/
def execTevArm (id : Nat) (s : State) : Out :=
  runOp s id 0x51 fun d =>
    let k := le d.bytes 16 1
    let mode := le d.bytes 17 1
    let start := startOf s (le d.bytes 24 8) (le d.bytes 32 4)
    let width := nsTu (down4 (le d.bytes 36 4))
    let period := nsTu (down4 (le d.bytes 40 8))
    let t := tevOf s k
    if t.pulse then
      putTev (updDesc id (fun x => { x with taken := true }) s) k { t with wait := t.wait ++ [(mode, start, period, width, id)] }
    else complete id stOK [] (tevArmNow k mode start period width s)

/-- TEV_EDGE (R520 R521): the output time reaches the next edge of an armed channel. -/
def execTevEdge (ch : Fin 16) (s : State) : Out := ifRuns s .time <|
  when_ (tevLive (tevOf s ch.val))
    (fun s =>
      let s := advanceTo (tevOf s ch.val).next s
      let t := tevOf s ch.val
      tevFire ch.val (putTev s ch.val (if t.mode % 4 = 2 then { t with next := t.next + t.period } else { t with fired := true }))) s

/-- Armings that waited for the end of a pulse take effect in order; one that starts a pulse at once makes the rest wait (R520). -/
def tevWaiting (k : Nat) : List (Nat × Int × Int × Int × Nat) → State → State
  | [], s => s
  | a :: r, s =>
    if (tevOf s k).pulse then putTev s k { tevOf s k with wait := a :: r }
    else tevWaiting k r (complete a.2.2.2.2 stOK [] (tevArmNow k a.1 a.2.1 a.2.2.1 a.2.2.2.1 s))

/-- TEV_PULSE_END (R520). -/
def execTevPulseEnd (ch : Fin 8) (s : State) : Out := ifRuns s .time <|
  let t := tevOf s ch.val
  when_ t.pulse
    (fun s => tevWaiting ch.val t.wait (setTevPin ch.val (tevIdle t) (putTev s ch.val { t with pulse := false, wait := [] }))) s

/-- `LDG_CTRL` is written (R296): `GAIN_S` 10 s to 255 s, `COMMIT_MIN` 1 to 1 440 minutes. Channel 9 is armed again while
firmware runs (R518). -/
def writeLdgCtrl (v : Nat) (s : State) : State :=
  let c := bits v 0 11
  let g := bits v 16 8
  let s := { s with tiles := { s.tiles with
    gainS := if 10 ≤ g then g else s.tiles.gainS, commitMin := if 1 ≤ c ∧ c ≤ 1440 then c else s.tiles.commitMin } }
  if s.nvm.running ∧ 1 ≤ c ∧ c ≤ 1440 then armTrigger 9 (s.tiles.commitMin * 60 * tuSec) s else s

/-- `FRDf_DIAG_CFG` is written (R322). Channel 10 is armed again while firmware runs (R518). -/
def writeDiagCfg (v : Nat) (s : State) : State :=
  let a := bits v 16 12
  let s := { s with cal := { s.cal with
    probeEn := v.testBit 28, probeAfter := if 1 ≤ a ∧ a ≤ 3600 then a else s.cal.probeAfter, diagEvery := bits v 0 16 } }
  if s.nvm.running ∧ 1 ≤ a ∧ a ≤ 3600 then armTrigger 10 (s.cal.probeAfter * tuSec) s else s

/-- TRIGGER_SETTING_WRITE (R518): a level-0 write of `LDG_CTRL` or `FRDf_DIAG_CFG`. -/
def execTriggerSettingWrite (ch9 level0 : Bool) (value : BitVec 32) (s : State) : Out :=
  when_ (barOpen s && level0) (if ch9 then writeLdgCtrl value.toNat else writeDiagCfg value.toNat) s

end Sys2Proof.Machine
end

