-- ==== Sys2Proof/Machine/NvmFw.lean ====
section
/-! DEFINITION. NVM records, `NVM_WRITE`, `NVM_READ`, `CRC_RUN`, `FW_MARK`, the boot check (15). -/

namespace Sys2Proof.Machine

/-- NVM_RECORD_COMPLETE (R49 R54 R57 R68 R531 R532 R546): the record in progress ends with its marker; a chip reset that has waited
for it then takes effect, unless a save runs on. At the end of a save `VHOLD` is read. -/
def execNvmRecordComplete (s : State) (vhold : VholdSeen := { mv := 0, above := false }) : Out :=
  match s.nvm.queue with
  | [] => .next s
  | r :: _ =>
    if !recordReady r s then .next s
    else
      let t := recordDone s
      if s.power.saving && t.power.awaitVin then
        .next (vholdLevel vhold.above { t with power := { t.power with vholdEnd := min 16383 vhold.mv.toNat } })
      else if t.power.saving then .next t
      else match t.power.rstPend with
        | c :: _ => .next (chipReset c { t with power := { t.power with rstPend := t.power.rstPend.drop 1 } })
        | [] => .next t

/-- The records of an `NVM_WRITE` (R531 R536). -/
def writeRecs (id page : Nat) (b : Bytes) : List Rec :=
  let n := b.length / 512
  (List.range n).map fun i => { page := page + i, bytes := sub b (512 * i) 512, why := .write id (i + 1 == n) (512 * (i + 1)) }

/-- NVM_WRITE (R432 R535 R536 R540 R541 R546): consecutive records; a transfer from another source, or the write inhibit, refuses.
-/
def execNvmWrite (id : Nat) (s : State) : Out :=
  runRead s id 0x58 fun d b =>
    let part := le d.bytes 16 1
    let page := (partPages part).1 + le d.bytes 20 4 / 512
    if s.power.inhibit ∨ (part = 1 ∧ s.nvm.fwState = 1 ∧ s.nvm.source ≠ 1) then complete id stBUSY (toLe 4 0) s
    else
      let s := if part = 1 then beginWriting 1 s else s
      queueRecs (writeRecs id page b) (updDesc id (fun d => { d with taken := true }) s)

/-- The status of an `NVM_READ` over pages (R533 R536); whether journal records of open contents are committed is open. -/
def readStatus (bad : Bool) (cs : List (Option Bool)) (s : State) : Nat × State :=
  if bad then (stPOISON, s)
  else if cs.contains (some false) then (stCHECK, s)
  else if cs.contains none then let x := freshFree s; (if x.1.toNat.testBit 0 then stCHECK else stOK, x.2)
  else (stOK, s)

/-- NVM_READ (R531 R533 R535 R536): every byte is transferred, whatever the status; a page under a record reads uncommitted. An
injected verdict raises `NVM_UNCORR` alone (R386). -/
def execNvmRead (id : Nat) (s : State) : Out :=
  runOp s id 0x59 fun d =>
    if dmaOk s then
      let part := le d.bytes 16 1
      let first := le d.bytes 20 4 / 512
      let n := le d.bytes 24 4 / 512
      let s := { s with freeCtr := s.freeCtr + 1 }
      let pages := (List.range n).map fun i => partPage s part (first + i)
      let hit := (List.range n).any fun i => s.nvm.badPages.contains ((partPages part).1 + first + i)
      let s := readNvmWords (64 * n) s
      let s := if hit then raise 353 s else s
      let st := readStatus hit (pages.map fun p => p.2) s
      complete id st.1 (toLe 4 (512 * n)) (hostWrite (le d.bytes 32 8) (pages.flatMap fun p => p.1) st.2)
    else s

/-- The general check unit of the layer guards is in their use (R548). -/
def guardUnitBusy (s : State) (u : Nat) : Bool :=
  decide (u = s.cmp.guardUnit) && s.cmp.active.any fun e => cGuardEn e.2.ctx

/-- A `CRC_RUN` taken earlier holds the same unit (R548). -/
def crcAhead (s : State) (id u : Nat) : Bool :=
  s.rings.inflight.any fun d => decide (d.id < id) && d.phase == .running && le d.bytes 0 1 == 0x60 && le d.bytes 16 1 == u

/-- The bits that a check compares (R547 R548). -/
def crcWidth (poly : Nat) : Nat := match poly with | 0 | 1 => 32 | 2 => 16 | _ => 8

/-- CRC_RUN (R385 R547 R548). DEDUCED (notes/assumptions/78): its status reports the verdict, an injected one as well. -/
def execCrcRun (id : Nat) (s : State) : Out :=
  match descOf s id with
  | none => .next s
  | some e =>
    let u := le e.bytes 16 1
    if crcAhead s id u then .next s
    else if guardUnitBusy s u then runOp s id 0x60 fun _ => complete id stBUSY [] s
    else runRead s id 0x60 fun d b =>
      let poly := le d.bytes 17 1
      let mode := le d.bytes 18 1
      let start := if mode.testBit 2 then (gcuOf s u).run
        else if mode.testBit 0 then gcuRun poly (sub d.bytes 24 4) (gcuInit poly) else gcuInit poly
      let run := gcuRun poly b start
      let last := gcuFinal poly run
      let s := putGcu s u { poly, run, last }
      if mode.testBit 1 then
        let x := takeInj 356 2 s
        let want := le d.bytes 28 4 % 2 ^ crcWidth poly
        let want := if x.1 then want ^^^ (2 ^ crcWidth poly - 1) else want
        if last = want then complete id stOK (toLe 4 last) x.2
        else complete id stCHECK (toLe 4 last) (raiseInj 356 x.1 x.2)
      else complete id stOK (toLe 4 last) s

/-! ### `FW_MARK` (R545 R546) -/

/-- An `FW_MARK` of a mode runs. -/
def runMark (id mode : Nat) (f : Desc → State → State) (s : State) : Out :=
  runOp s id 0x5A fun d => if le d.bytes 16 1 = mode then f d s else s

/-- Modes 1 to 3 (R545): without every block of an image with a good header, `CHECK`. -/
def runArm (id mode : Nat) (f : Desc → State → State) (s : State) : Out :=
  runMark id mode (fun d s =>
    if imageHeld s then f d (onNvm (fun n => { n with fwState := 2 }) s) else complete id stCHECK [] s) s

/-- DISARM (R545). -/
def execDisarm (id : Nat) (s : State) : Out :=
  runMark id 0 (fun _ s => complete id stOK [] (putTev
    (onNvm (fun n => { n with scheduled := false, fwState := if n.fwState = 2 then 1 else n.fwState }) s) 11 { tevOf s 11 with mode := 0 })) s

/-- ARM (R545). -/
def execArm (id : Nat) (s : State) : Out := runArm id 1 (fun _ s => complete id stOK [] s) s

/-- ARM_SCHEDULE (R518 R545): channel 11 at `BOOT_SEC` and `BOOT_NS` of the output time. -/
def execArmSchedule (id : Nat) (s : State) : Out :=
  runArm id 2 (fun d s => complete id stOK [] (tevArmNow 11 1 (startOf s (le d.bytes 24 8) (le d.bytes 32 4)) 0 0
    (onNvm (fun n => { n with scheduled := true }) s))) s

/-- ARM_RESET (R57 R545). -/
def execArmReset (id : Nat) (s : State) : Out := runArm id 3 (fun _ s => requestReset .soft (complete id stOK [] s)) s

/-- SCHEDULED_BOOT (R545 R546): channel 11 has fired; during a save no reset is made. -/
def execScheduledBoot (s : State) : Out := ifRuns s .mp <|
  when_ (s.nvm.scheduled && !s.power.saving && !s.power.awaitVin && !s.power.thermLatch) (requestReset .soft) s

/-! ### The boot check (R533 R538 R539) -/

/-- The result code of R538. -/
def bootResult (s : State) : Nat :=
  let p0 := partPage s 1 0
  let h := p0.1
  let n := if headerOk h then 1 + le h 12 4 / 512 else 1
  let good := fun i => (partPage s 1 i).2 == some true && !s.nvm.badPages.contains (128 + i)
  let body := ((List.range (n - 1)).flatMap fun i => (partPage s 1 (1 + i)).1)
  let digest := Config.sha256 (h.take 64)
  if !(List.range n).all good then 0x09
  else if le h 0 4 ≠ 0x5746584C ∨ le h 4 2 ≠ 1 then 0x01
  else if !multIn 512 512 3145216 (le h 12 4) then 0x02
  else if Config.sha256 body ≠ be h 0x10 32 then 0x03
  else if Config.sha256 (sub h 0x40 64) ≠ Config.fuseVarozHash then 0x04
  else if !Config.ecdsaVerify (sub h 0x40 64) digest (sub h 0x80 64) then 0x05
  else match s.boot.customerHash with
    | none => 0
    | some k =>
      if !(le h 6 2).testBit 0 then 0x06
      else if Config.sha256 (sub h 0xC0 64) ≠ k then 0x07
      else if !Config.ecdsaVerify (sub h 0xC0 64) digest (sub h 0x100 64) then 0x08
      else 0

/-- One uncorrectable word is reported for each page found (R533). -/
def raiseUncorr : Nat → State → State
  | 0, s => s
  | n + 1, s => raise 353 (raiseUncorr n s)

/-- Uncommitted pages of the configuration partition, which no chapter's rule handles, are discarded: `NVM_REC_BAD` once (R533). -/
def discardPages (s : State) : State :=
  let bad := fun (e : Nat × Page) => decide (6272 ≤ e.1) && decide (e.1 < 7296) && decide (e.2.seq = 0)
  if s.nvm.pages.any bad then raise 352 (onNvm (fun n => { n with pages := n.pages.filter fun e => !bad e }) s) else s

/-- What a shutdown record leaves of one tile (R435): nothing to do below the first unsaved block, groups of a half, or all. -/
def shutdownTile (first : Nat) (t : Nat × Nat × Nat) (j : Journal) : Journal :=
  let lo := 9216 * t.1
  if first = 0xFFFFFFFF ∨ first ≤ lo then
    { j with poison := j.poison ++ [{ serial := t.2.1, gen := t.2.2, blocks := allBlocks }] }
  else if first < lo + 9216 then
    { j with saved := j.saved.map fun v => if v.pos = t.1 ∧ ¬ v.old then { v with poisoned := v.poisoned ++ (List.range 72).map fun g => 72 + g } else v }
  else j

/-- The shutdown record is applied and deleted (R435). -/
def applyShutdown (s : State) : State :=
  match s.nvm.shutdown with
  | none => s
  | some x =>
    let s := onNvm (fun n => { n with shutdown := none }) s
    let s := { s with
      journal := x.tiles.foldl (fun j t => shutdownTile x.firstUnsaved t j) s.journal
      faults := { s.faults with lost := satAdd 65535 s.faults.lost x.logLost } }
    let s := thermEvent 8 none none (raise 220 s)
    if 0 < x.logLost then raise 501 s else s

/-- A boot after a stuck `RESET_N` (R56): the arguments of the event are stated nowhere. -/
def reportStuck (s : State) : State :=
  if s.power.rstStuck then
    let x := freshFree s
    let y := freshFree x.2
    let z := freshFree y.2
    raise 486 (postEvent 6 (bits x.1.toNat 0 32) (bits y.1.toNat 0 32) (bits z.1.toNat 0 32) z.2)
  else s

/-- A record of a save was left without its marker (R51). -/
def reportCut (s : State) : State :=
  if s.nvm.saveCut then raise 481 (onNvm (fun n => { n with saveCut := false }) s) else s

/-- The body of the image in the partition (R537). -/
def imageBody (s : State) : Bytes :=
  (List.range (le (imageHeader s) 12 4 / 512)).flatMap fun i => (partPage s 1 (1 + i)).1

/-- The firmware starts (R269 R280 R406 R518 R538 R552): triggers armed, pending records applied, identity steps begun, calibration
sets loaded. It runs from memory, undisturbed by what the partition takes later (R540). -/
def startFirmware (s : State) : State :=
  let s := onNvm (fun n => { n with
    running := true, noFw := false, version := le (imageHeader s) 8 4, loaded := imageBody s, xfer := {}, record := {} }) s
  let s := armTrigger 8 tuSec s
  let s := armTrigger 9 (s.tiles.commitMin * 60 * tuSec) s
  let s := armTrigger 10 (s.cal.probeAfter * tuSec) s
  loadCal (readCurves 8 (settleRetained 8 (reportStuck s)))

/-- BOOT_CHECK (R51 R56 R435 R533 R538 R539 R541): Chrysalis checks the image and starts it, or stays. -/
def execBootCheck (b : BootSeen) (s : State) : Out := ifRuns s .mp <|
  when_ (!s.power.held && !s.nvm.checked)
    (fun s =>
      let bad := b.unreadable.filter fun p => decide (p < 9504) && !s.nvm.badPages.contains p
      let s := raiseUncorr bad.length (onNvm (fun n => { n with checked := true, badPages := n.badPages ++ bad }) s)
      let s := applyShutdown (reportCut (discardPages s))
      let r := bootResult s
      let s := onNvm (fun n => { n with result := r }) s
      if r = 0 then startFirmware s
      else raise 354 (onNvm (fun n => { n with noFw := true, xfer := n.record }) s)) s

end Sys2Proof.Machine
end

