-- ==== Sys2Proof/Machine/Ports.lean ====
section
/-! DEFINITION. The Umio ports: enabling, training, ordered sets, steps, sleep: the meanings (13). -/

namespace Sys2Proof.Machine

/-- Plain fields of a level-0 write to `CHN_PORTp_CTRL` (R497). -/
def storePortCtrl (p v : Nat) (s : State) : State :=
  updPort p (fun x => { x with
    sleepIdle := if bits v 8 8 = 0 then x.sleepIdle else bits v 8 8
    sleepEn := v.testBit 4, maxStep := bits v 2 2 }) s

/-- `EN` becomes 1 (R457): a disabled port enters Lock. -/
def enablePort (p : Nat) (s : State) : State :=
  let s := updPort p (fun x => { x with en := true }) s
  if (portOf s p).st = .disabled ∧ s.power.crefOk then enterLock p s else s

/-- `EN` becomes 0 (R457 R459): `DOWN`, then Disabled, in electrical idle. -/
def disablePort (p : Nat) (s : State) : State :=
  let x := portOf s p
  if x.st = .disabled then updPort p (fun x => { x with en := false }) s
  else updPort p (fun x => { x with en := false, st := .disabled }) (enterLock p (leaveLink p false (emit (.electricalIdle p) (sendOs p 7 0 s))))

/-- A write of 1 to `RETRAIN` (R459): training restarts at step 0. -/
def retrainPort (p : Nat) (s : State) : State :=
  if (portOf s p).st = .disabled then s else enterLock p (leaveLink p false s)

/-- PORT_ENABLE (R457 R497). -/
def execPortEnable (p : Fin 2) (level0 : Bool) (value : BitVec 32) (s : State) : Out :=
  when_ (barOpen s && level0 && value.toNat.testBit 0) (fun s => enablePort p.val (storePortCtrl p.val value.toNat s)) s

/-- PORT_DISABLE (R459 R497). -/
def execPortDisable (p : Fin 2) (level0 : Bool) (value : BitVec 32) (s : State) : Out :=
  when_ (barOpen s && level0 && !value.toNat.testBit 0) (fun s => disablePort p.val (storePortCtrl p.val value.toNat s)) s

/-- RETRAIN (R459 R497): the write carries `EN` and the plain fields too. -/
def execRetrain (p : Fin 2) (level0 : Bool) (value : BitVec 32) (s : State) : Out :=
  when_ (barOpen s && level0 && value.toNat.testBit 16)
    (fun s =>
      let s := storePortCtrl p.val value.toNat s
      if value.toNat.testBit 0 then
        if (portOf s p.val).st = .disabled then enablePort p.val s else retrainPort p.val s
      else disablePort p.val s) s

/-- BLOCK_LOCK (R454 R464): a receiver that wakes resumes checking. -/
def execBlockLock (p : Fin 2) (s : State) : Out := ifRuns s .chain <|
  when_ (decide ((portOf s p.val).st ≠ .disabled))
    (updPort p.val fun x => { x with lock := true, signal := true, rxSleep := x.rxSleep && !x.waking, waking := false }) s

/-- BLOCK_LOCK_LOSS (R454 R459 R461 R463): ignored while the receive direction sleeps; a link-up period ends. -/
def execBlockLockLoss (p : Fin 2) (s : State) : Out := ifRuns s .chain <|
  let x := portOf s p.val
  if x.rxSleep then .next s
  else
    let s := updPort p.val (fun x => { x with lock := false }) s
    let s := if x.st = .stepTrial then raise (260 + p.val) (sendOs p.val 4 (at_ 18 x.step + at_ 16 3) s) else s
    .next (portDown p.val true s)

/-- LOSS_OF_SIGNAL (R454 R459 R463). -/
def execLossOfSignal (p : Fin 2) (s : State) : Out := ifRuns s .chain <|
  let x := portOf s p.val
  let s := updPort p.val (fun x => { x with signal := false }) s
  if x.rxSleep then .next (updPort p.val (fun x => { x with waking := false }) s)
  else .next (portDown p.val true (updPort p.val (fun x => { x with lock := false }) s))

/-- SIGNAL_DETECT (R457 R458 R464): it ends Back-off, and a sleeping receiver wakes. -/
def execSignalDetect (p : Fin 2) (s : State) : Out := ifRuns s .chain <|
  let s := updPort p.val (fun x => { x with signal := true, waking := x.waking || x.rxSleep }) s
  .next (if (portOf s p.val).st = .backoff then enterLock p.val s else s)

/-- CAP (R456 R457 R460). -/
def execCap (p : Fin 2) (payload : BitVec 24) (s : State) : Out := ifRuns s .chain <|
  onOs p.val 1 payload (fun s =>
    let v := payload.toNat
    if bits v 12 4 ≠ 1 then s
    else
      let s := updPort p.val (fun x => { x with
        partnerMax := bits v 18 2, partnerWest := v.testBit 11, partnerSleep := v.testBit 9
        capSeen := true, ackSeen := x.ackSeen || v.testBit 10 }) s
      let x := portOf s p.val
      if !x.lock then s
      else match x.st with
        | .lock => tryUp p.val (enterCapability p.val s)
        | .capability => tryUp p.val s
        | .stepSwitch => if bits v 16 2 = x.step then putPort s p.val { x with st := .stepTrial } else s
        | .fallback => putPort s p.val { x with st := .up }
        | _ => s) s

/-- CREDIT_INIT (R457 R472): in Capability the same value twice in a row sets the credits of a priority. -/
def execCreditInit (p : Fin 2) (payload : BitVec 24) (s : State) : Out := ifRuns s .chain <|
  onOs p.val 2 payload (fun s =>
    let k := bits payload.toNat 17 3
    let n := bits payload.toNat 4 11
    let c := credOf s p.val k
    if (portOf s p.val).st ≠ .capability ∨ ¬ (n = 0 ∨ (33 ≤ n ∧ n ≤ 1024)) then s
    else tryUp p.val (putCred s p.val k { c with
      init := n, sent := 0, returned := 0, seen := 0, lastInit := some n, initOk := c.lastInit == some n })) s

/-- CREDIT (R472): cumulative cells freed; more than was sent is a credit violation. -/
def execCredit (p : Fin 2) (payload : BitVec 24) (s : State) : Out := ifRuns s .chain <|
  onOs p.val 3 payload (fun s =>
    let k := bits payload.toNat 17 3
    let r := bits payload.toNat 4 13
    let c := credOf s p.val k
    let d := (r + 8192 - c.seen) % 8192
    if !flows (portOf s p.val) then s
    else if c.sent - c.returned < d then portDown p.val true (raise 268 s)
    else putCred s p.val k { c with returned := c.returned + d, seen := r }) s

/-- The code of a `STEP` (R456). -/
def stepCode (v : BitVec 24) : Nat := bits v.toNat 16 2

/-- STEP_REQUEST (R460 R461): an East port in Up, facing a West port, refuses a step above its own highest, else accepts once its
frame has ended. -/
def execStepRequest (p : Fin 2) (payload : BitVec 24) (s : State) : Out := ifRuns s .chain <|
  onOs p.val 4 payload (fun s =>
    let t := bits payload.toNat 18 2
    let x := portOf s p.val
    if p.val ≠ 0 ∨ x.st ≠ .up ∨ stepCode payload ≠ 0 ∨ ¬ x.partnerWest then s
    else if x.maxStep < t then sendOs p.val 4 (at_ 18 t + at_ 16 2) s
    else if x.tx.isSome then putPort s p.val { x with asking := true, target := t }
    else acceptStep p.val t s) s

/-- STEP_ACCEPT (R461): the West port that asked switches. -/
def execStepAccept (p : Fin 2) (payload : BitVec 24) (s : State) : Out := ifRuns s .chain <|
  onOs p.val 4 payload (fun s =>
    let x := portOf s p.val
    if p.val = 1 ∧ x.st = .up ∧ x.asking ∧ stepCode payload = 1 ∧ bits payload.toNat 18 2 = x.target then enterSwitch p.val x.target s
    else s) s

/-- The West port stays in Up at the present step (R461). -/
def giveUpStep (p : Nat) (s : State) : State := updPort p (fun x => { x with asking := false, target := 0, noStep := true }) s

/-- STEP_REFUSE (R461). -/
def execStepRefuse (p : Fin 2) (payload : BitVec 24) (s : State) : Out := ifRuns s .chain <|
  onOs p.val 4 payload (fun s =>
    if p.val = 1 ∧ (portOf s p.val).st = .up ∧ (portOf s p.val).asking ∧ stepCode payload = 2 then giveUpStep p.val s else s) s

/-- STEP_RESULT (R461). -/
def execStepResult (p : Fin 2) (payload : BitVec 24) (s : State) : Out := ifRuns s .chain <|
  onOs p.val 4 payload (fun s =>
    if (portOf s p.val).st ≠ .stepTrial ∨ stepCode payload ≠ 3 then s
    else if payload.toNat.testBit 15 then keepStep p.val (updPort p.val (fun x => { x with goodSeen := true }) s)
    else enterFallback p.val s) s

/-- STEP_UP_START (R460 R461): a West port in Up below the highest step asks for the next one. -/
def execStepUpStart (p : Fin 2) (s : State) : Out := ifRuns s .chain <|
  let x := portOf s p.val
  when_ (decide (p.val = 1) && x.st == .up && !x.asking && !x.noStep && !x.partnerWest && x.tx.isNone && !x.txSleep
      && decide (x.step < min x.maxStep x.partnerMax))
    (fun s => sendOs p.val 4 (at_ 18 (x.step + 1)) (putPort s p.val { x with asking := true, target := x.step + 1 })) s

/-- STEP_ACCEPT_TIMEOUT (R461). -/
def execStepAcceptTimeout (p : Fin 2) (s : State) : Out := ifRuns s .chain <|
  let x := portOf s p.val
  when_ (decide (p.val = 1) && x.st == .up && x.asking) (giveUpStep p.val) s

/-- STEP_SWITCH_TIMEOUT (R457): 2 ms after a switch or a fallback. -/
def execStepSwitchTimeout (p : Fin 2) (s : State) : Out := ifRuns s .chain <|
  match (portOf s p.val).st with
  | .stepSwitch => .next (enterFallback p.val s)
  | .fallback => .next (portDown p.val true s)
  | _ => .next s

/-- STEP_TRIAL_END (R461): 10 ms without error. -/
def execStepTrialEnd (p : Fin 2) (s : State) : Out := ifRuns s .chain <|
  let x := portOf s p.val
  when_ (x.st == .stepTrial && !x.goodSent)
    (fun s => keepStep p.val (sendOs p.val 4 (at_ 18 x.step + at_ 16 3 + at_ 15 1) (putPort s p.val { x with goodSent := true }))) s

/-- SLEEP (R463): the receive direction sleeps. -/
def execSleep (p : Fin 2) (payload : BitVec 24) (s : State) : Out := ifRuns s .chain <|
  onOs p.val 5 payload (fun s =>
    if flows (portOf s p.val) then updPort p.val (fun x => { x with rxSleep := true, waking := false }) s else s) s

/-- WAKE (R464): a waking receiver that holds block lock is awake; otherwise nothing changes. -/
def execWake (p : Fin 2) (payload : BitVec 24) (s : State) : Out := ifRuns s .chain <|
  onOs p.val 6 payload (fun s =>
    let x := portOf s p.val
    if x.rxSleep ∧ x.waking ∧ x.lock then putPort s p.val { x with rxSleep := false, waking := false } else s) s

/-- DOWN (R459). -/
def execDown (p : Fin 2) (payload : BitVec 24) (s : State) : Out := ifRuns s .chain <| onOs p.val 7 payload (portDown p.val true) s

/-- CHN_TRAIN (R458): 200 ms in training; the back-off doubles at each consecutive timeout up to 64 s. -/
def execChnTrain (p : Fin 2) (s : State) : Out := ifRuns s .chain <|
  let x := portOf s p.val
  when_ (x.st == .lock || x.st == .capability)
    (fun s => raise (258 + p.val) (putPort s p.val { x with st := .backoff, backoff := min 6 (x.backoff + 1) })) s

/-- BACKOFF_END (R458). -/
def execBackoffEnd (p : Fin 2) (s : State) : Out := ifRuns s .chain <| when_ ((portOf s p.val).st == .backoff) (enterLock p.val) s

/-- SLEEP_ENTRY (R463): nothing has been due for `SLEEP_IDLE`. -/
def execSleepEntry (p : Fin 2) (s : State) : Out := ifRuns s .chain <|
  let x := portOf s p.val
  when_ (x.sleepEn && x.partnerSleep && x.st == .up && !x.asking && x.queue.isEmpty && x.tx.isNone && !x.txSleep)
    (fun s => emit (.electricalIdle p.val) (sendOsN p.val 5 0 4 (putPort s p.val { x with txSleep := true }))) s

/-- WAKE_START (R464): `WAKE` every 1 µs for 20 µs. -/
def execWakeStart (p : Fin 2) (s : State) : Out := ifRuns s .chain <|
  let x := portOf s p.val
  when_ x.txSleep (fun s => sendOsN p.val 6 0 20 (putPort s p.val { x with txSleep := false })) s

/-- WAKE_LOCK_TIMEOUT (R464): no block lock 1 ms after the energy. -/
def execWakeLockTimeout (p : Fin 2) (s : State) : Out := ifRuns s .chain <|
  when_ ((portOf s p.val).rxSleep && (portOf s p.val).waking) (portDown p.val true) s

/-- INVALID_SYNC_HEADER (R455 R461 R501). -/
def execInvalidSyncHeader (p : Fin 2) (ordered : Bool) (s : State) : Out := ifRuns s .chain <|
  let _ := ordered
  .next (badBlock p.val s)

/-- The `CREDIT_INIT`s of a port, for k priorities (R470). -/
def sendInits (p : Nat) : Nat → State → State
  | 0, s => s
  | k + 1, s => let s := sendInits p k s; sendOs p 2 (at_ 17 k + at_ 4 (credOf s p k).advUsed) s

/-- The `CREDIT`s of a port, for k priorities (R472). -/
def sendCredits (p : Nat) : Nat → State → State
  | 0, s => s
  | k + 1, s => let s := sendCredits p k s; sendOs p 3 (at_ 17 k + at_ 4 (credOf s p k).freed) s

/-- ORDERED_SET_TRANSMIT (R457 R472): what a port sends every 10 µs in its state. -/
def execOrderedSetTransmit (p : Fin 2) (s : State) : Out := ifRuns s .chain <|
  let x := portOf s p.val
  let cap := sendOs p.val 1 (capFields p.val x x.capSeen) s
  match x.st with
  | .disabled => .next s
  | .lock | .backoff | .stepSwitch | .fallback => .next cap
  | .capability => .next (sendInits p.val 8 cap)
  | .up | .stepTrial => .next (if x.txSleep then s else sendCredits p.val 8 s)

/-- CHN_NEIGH (R486): no `HELLO` for 3 × `HELLO_S`; a sleeping receive direction takes the port down. -/
def execChnNeigh (p : Fin 2) (s : State) : Out := ifRuns s .mp <|
  let x := portOf s p.val
  when_ (x.st == .up)
    (fun s =>
      let s := raise (262 + p.val) (putPort s p.val { x with neighOk := false })
      if x.rxSleep then portDown p.val true s else s) s

/-- Seconds since reset (R486): local time starts at 0 at the chip reset (R503). -/
def uptime (s : State) : Nat := (s.time.now / tuSec).toNat

/-- The payload of `HELLO` on a port (R486). -/
def helloPay (p : Nat) (s : State) : Bytes :=
  toBe 1 p ++ toBe 1 (portOf s p).step ++ toBe 1 s.nvm.running.toNat ++ toBe 1 0 ++ toBe 4 s.nvm.version ++ toBe 4 (uptime s)

/-- `HELLO` on one port in Up (R486). -/
def helloOn (p : Nat) (s : State) : State :=
  if (portOf s p).st = .up then sendOne p 1 1 0 (helloPay p s) s else s

/-- HELLO_TRANSMIT (R486): on each port in Up, also under Chrysalis. -/
def execHelloTransmit (s : State) : Out := ifRuns s .mp <| when_ (!s.power.held) (fun s => helloOn 1 (helloOn 0 s)) s

end Sys2Proof.Machine
end

