-- ==== Sys2Proof/Machine/Flags.lean ====
section
/-! DEFINITION. The status and flag words that software reads, as computed from the state: islands, power, the rings, the light,
the safety outputs, faults, throttling, ports, time, check units. -/

namespace Sys2Proof.Machine

/-- `PWR_STATUS` (R61). DESIGN CHOICE (notes/assumptions/74): a phase that the buck sheds under `SHED_EN` (R66) stays active in
`PHASES_ON`; only a dropped one (R32) shows 0. -/
def pwrStatus (p : Power) : Nat :=
  p.sagStage + flag 2 p.pinIgnored + flag 3 p.vcoreOk + flag 4 p.vdd18Ok + flag 5 p.vserOk + flag 6 p.vholdRdy + flag 7 p.clkBackup
    + at_ 8 p.phases

/-- `PWR_RST_CAUSE` (R64). -/
def pwrRstCause (p : Power) : Nat := p.causes + flag 8 p.rstStuck

/-- `PWR_CLK_STATUS` (R69). -/
def pwrClkStatus (p : Power) : Nat := flag 0 p.xinOk + flag 1 p.crefOk + flag 2 p.perefOk

/-- `GLB_ISLAND` (R93): a bit is 1 while its island is out of reset and clocked: by `XIN` or its backup, by `CREFCLK`, by
`PE_REFCLK`, or by channel B's own oscillator (R58 R59). -/
def glbIsland (s : State) : Nat :=
  let xin := s.power.xinOk || s.power.clkBackup
  flag 2 (runs .host s && s.power.perefOk) + flag 3 (runs .ring s && xin) + flag 4 (runs .comp s && xin) + flag 5 (runs .frond s && xin)
    + flag 6 (runs .chain s && s.power.crefOk) + flag 7 (runs .time s && xin) + flag 8 (runs .safety s && xin) + flag 9 (runs .safety s)
    + flag 10 (runs .mp s && xin) + at_ 11 (if runs .frond s && xin then 0x1FF else 0)

/-- `HIF_LINK` (R100). -/
def hifLink (l : Link) : Nat := l.speed % 4 + at_ 2 (l.width % 4) + flag 4 l.up + at_ 5 l.resets

/-- `HIF_SQn_STATE` (R135). -/
def sqStateWord (q : Sq) : Nat :=
  q.tail + at_ 16 q.head + at_ 30 (match q.state with | .disabled => 0 | .running => 1 | .draining => 2)

/-- `HIF_CQn_STATE` (R136). -/
def cqStateWord (c : Cq) : Nat := c.head + at_ 16 c.tail + flag 30 c.armed + flag 31 c.phase

/-- `HIF_DB_ERR` (R139). -/
def dbErrWord (e : DbErr) : Nat :=
  e.value + at_ 12 e.cause + at_ 16 e.ring + flag 21 e.cq + flag 22 e.kick + flag 31 e.valid

/-- Layers under their stall policy (R177 R183). -/
def stalledLayers (s : State) : Nat := maskOf (fun l => (layerOf s l).policy) 63

/-- `CMP_STATUS` (R181). -/
def cmpStatus (s : State) : Nat := (heldGroups s).length + flag 16 (decide (stalledLayers s ≠ 0))

/-- `FRM_STATUS` (R209). -/
def frmStatus (s : State) : Nat :=
  flag 0 s.frm.static + flag 1 (match s.cmp.comp with | some c => c.extended | none => false) + flag 2 (bridgeNow s)
    + at_ 8 (min 255 s.frm.holdCnt) + at_ 16 s.frm.shifted

/-- The tile position that a Frond serves; 15 for none (R246 R317). -/
def frondTile (s : State) (f : Nat) : Nat := ((List.range 8).find? fun n => serving s n == some f).getD 15

/-- `FRDf_STATUS` (R246). -/
def frdStatus (s : State) (f : Nat) : Nat :=
  let x := frondOf s f
  let n := frondTile s f
  n + flag 4 x.shifting.isSome + flag 5 x.lmoss + at_ 8 (if n < 8 then (tileOf s n).skipN - 1 else 0) + flag 12 x.clamping

/-- Code of a role (R326). -/
def roleCode : Role → Nat
  | .active => 0
  | .spare => 1
  | .suspect => 2
  | .quarantined => 3
  | .selftest => 4

/-- `FRDf_XBAR` (R329). -/
def xbarWord (s : State) (f : Nat) : Nat :=
  if f < 8 then at_ 16 (tileOf s f).epoch + ((serving s f).getD 15) else 0

/-- Both outputs are high and both feedback checks pass (R344). -/
def safeOkPin (s : State) : Bool :=
  s.safety.a.slo && s.safety.b.slo && !s.safety.a.outTest && !s.safety.b.outTest && s.safety.a.fbOk && s.safety.b.fbOk

/-- `SAF_STATUS` (R362). -/
def safStatus (s : State) : Nat :=
  let a := s.safety.a
  let b := s.safety.b
  flag 0 (a.slo && !a.outTest) + flag 1 (b.slo && !b.outTest) + flag 4 a.fb + flag 5 b.fb
    + flag 8 a.hatch + flag 9 b.hatch + flag 10 a.estop + flag 11 b.estop
    + flag 17 (restartWait s) + flag 18 (pairDemand s .hatch) + flag 19 (pairDemand s .estop)
    + flag 20 (pairDisc s .hatch) + flag 21 (pairDisc s .estop) + flag 24 (a.xcmp || b.xcmp || a.differs || b.differs)
    + flag 25 (!s.safety.staged.isEmpty) + at_ 26 s.safety.src + flag 28 (a.selftestOk && b.selftestOk) + flag 31 (safeOkPin s)

/-- `FLTs_STATE` (R392). -/
def fltState (s : State) (n : Nat) : Nat :=
  let x := slotOf s n
  let line := if x.wire then (if x.code then 3 else 0) else if s.faults.accepted.testBit n then 2 else 1
  at_ 16 x.wcount + flag 24 x.wire + flag 25 x.inj + flag 26 x.esc + flag 27 (decide (x.unack ≠ 0)) + at_ 28 x.eff + at_ 30 line

/-- Slots with unacknowledged faults of class c (R395). -/
def unackCount (s : State) (c : Nat) : Nat := min 255 (s.faults.slots.filter fun e => e.2.unack.testBit c).length

/-- `FLT_SUMMARY` (R395). -/
def fltSummary (s : State) : Nat :=
  unackCount s 1 + at_ 8 (unackCount s 2) + at_ 16 (unackCount s 3) + flag 24 (decide (0 < unackCount s 2))
    + flag 25 (decide (0 < unackCount s 3)) + flag 26 s.faults.irqArmed + flag 27 s.faults.inj.isSome

/-- `FLT_PENDw` (R396). -/
def fltPend (s : State) (w : Nat) : Nat := maskOf (fun b => decide ((slotOf s (32 * w + b)).unack ≠ 0)) 32

/-- `FLT_LM` (R398). -/
def fltLm (s : State) : Nat :=
  flag 0 (unackFrom s 2) + flag 1 s.nvm.noFw + flag 2 s.rings.silence + flag 3 s.faults.lmFirst + flag 4 (s.frm.started && (s.frm.lmCond || s.faults.lmFirst))

/-- `FLT_INJ` (R399). -/
def fltInj (s : State) : Nat :=
  match s.faults.inj with
  | some j => j.slot + at_ 16 j.checker + at_ 24 j.left
  | none => 0

/-- A run is in progress (R410 R437). -/
def calRunning (c : Cal) : Bool := c.running || !c.singles.isEmpty || (match c.now with | some x => x.2.2 | none => false)

/-- `CAL_STATUS` (R437). -/
def calStatus (c : Cal) : Nat := c.skipped + at_ 16 c.channel + flag 30 c.queued + flag 31 (calRunning c)

/-- A temperature held as a numerator over 840 of 1/16 °C, rounded to nearest with ties away from 0, as a field of 16 bits
(R407 R438). -/
def tempField (n : Int) : Nat :=
  let k := (2 * n.natAbs + 840) / 1680
  unsigned 16 (if n < 0 then 0 - (k : Int) else k)

/-- `THM_SENSi_VAL` (R443). -/
def sensVal (s : State) (i : Nat) : Nat :=
  let x := sensorOf s i
  unsigned 16 x.reading + flag 28 (sensorDisabled s i) + flag 29 x.failed + flag 30 x.subst + flag 31 x.valid

/-- `THM_LEVEL` and `THM_FLOOR` (R447): a value of each domain in its field. -/
def thmFields (s : State) (f : Domain → Nat) : Nat :=
  at_ 24 (f (domainOf s 0) % 8) + ((List.range 8).map fun n => at_ (3 * n) (f (domainOf s (1 + n)) % 8)).sum

/-- `THM_FROZEN` (R448). -/
def thmFrozen (s : State) : Nat := maskOf (fun d => !(domainOf s d).frozen.isEmpty) 9

/-- Code of a port state (R498). -/
def portCode : PortState → Nat
  | .disabled => 0
  | .lock => 1
  | .capability => 2
  | .up => 3
  | .stepSwitch => 4
  | .stepTrial => 5
  | .fallback => 6
  | .backoff => 7

/-- `CHN_PORTp_STATUS` (R498). -/
def portStatus (x : Port) : Nat :=
  at_ 15 x.backoff + flag 18 x.partnerFw + flag 19 x.neighOk + flag 20 x.rxSleep + flag 21 x.txSleep + flag 22 x.signal + flag 23 x.lock
    + at_ 24 x.partnerMax + at_ 26 x.step + at_ 28 (portCode x.st)

/-- A signed field of 32 bits that saturates. -/
def satSigned (v : Int) : Nat := unsigned 32 (clampI (0 - 2 ^ 31) (2 ^ 31 - 1) v)

/-- `TIM_STATUS` (R523). -/
def timStatus (t : TimeI) : Nat := t.active + flag 1 (decide (t.slewTerm ≠ 0)) + flag 2 t.holdover

/-- `TIM_DOMx_STATUS` (R525). -/
def domStatus (x : Dom) : Nat := at_ 28 x.port + flag 29 x.holdover + flag 30 x.everSet + flag 31 x.locked

/-- `NVM_STATUS` (R550). -/
def nvmStatus (s : State) : Nat := flag 0 (nvmBusy s) + flag 1 s.power.inhibit

/-- `NVM_FW_STATUS` (R551). -/
def fwStatus (n : Nvm) : Nat := n.fwState + flag 2 n.scheduled + flag 3 n.running + at_ 4 n.source + at_ 8 n.result

/-- `USER` of a general check unit (R548 R555). -/
def gcuUser (s : State) (u : Nat) : Nat :=
  if s.rings.inflight.any fun d => d.phase == .running && le d.bytes 0 1 == 0x60 && le d.bytes 16 1 == u then 1
  else if guardUnitBusy s u then 2 else 0

end Sys2Proof.Machine
end

