-- ==== Sys2Proof/Machine/SafetyCh.lean ====
section
/-! DEFINITION. Safe Light Off and the exposure guard: the meanings of the safety channels' commands (10). -/

namespace Sys2Proof.Machine

/-- Step 5 of the self-test: one pulse on `TPx`, if the emergency-stop pair is enabled (R345). -/
def selftestPulse (ch : Chan) (s : State) : State := if pairOn s .estop then emit (.testPulse (ch == .b) true) s else s

/-- SAFETY_SELFTEST (R345 R357): the set is loaded; the outputs are permitted, or `SAF_SELFTEST` is raised. -/
def execSafetySelftest (ch : Chan) (result : SelftestResult) (s : State) : Out := ifRuns s .safety <|
  when_ (!s.power.held && !(chanOf s ch).selftestDone)
    (fun s =>
      let s := selftestPulse ch (loadSet s)
      let ok := result.ok && decide (s.safety.src ≠ 0) && !(fbOn s ch && result.fbHigh)
      let s := updChan ch (fun x => { x with
        selftestDone := true, selftestOk := ok, hatch := result.hatchHigh, estop := result.estopHigh, fb := result.fbHigh
        fbOk := ok, tp := pairOn s .estop }) s
      if ok then s else raise 497 s) s

/-- SAFETY_INPUT_DEMAND (R335): the input has been low for T_FILT; the own output goes low and the other channel is told. -/
def execSafetyInputDemand (ch : Chan) (pair : Pair) (s : State) : Out := ifRuns s .safety <|
  let s := updChan ch (fun x => match pair with | .hatch => { x with hatch := false } | .estop => { x with estop := false }) s
  when_ (pairOn s pair) (fun s => sendSignal (otherChan ch) pair (setDemand ch pair s)) s

/-- DEMAND_SIGNAL (R335): the other channel's signal arrives. -/
def execDemandSignal (ch : Chan) (pair : Pair) (s : State) : Out := ifRuns s .safety <|
  let x := chanOf s ch
  when_ (match pair with | .hatch => x.sigHatch | .estop => x.sigEstop)
    (fun s => setDemand ch pair (updChan ch (fun x => match pair with
      | .hatch => { x with sigHatch := false } | .estop => { x with sigEstop := false }) s)) s

/-- SAF_DISC (R336): the channel's input differs from the level that the other reports, for T_DISC: the latch is set and the pair
is in demand. DEDUCED (notes/assumptions/78): that demand is like any other, so it is counted if it begins with the latch, the
other channel is told, and it lasts beyond the latch until a matched return. -/
def execSafDisc (ch : Chan) (pair : Pair) (s : State) : Out := ifRuns s .safety <|
  let o := chanOf s (otherChan ch)
  when_ (pairOn s pair)
    (fun s => condOn 490 (updChan ch (fun x => match pair with
      | .hatch => { x with discHatch := true, hatch := !o.hatch }
      | .estop => { x with discEstop := true, estop := !o.estop }) (sendSignal (otherChan ch) pair (setDemand ch pair s)))) s

/-- No discrepancy is latched in either channel. -/
def noDisc (s : State) : Bool := !(pairDisc s .hatch || pairDisc s .estop)

/-- The restart condition is awaited from the release on, under the code of that moment (R337 R361). -/
def awaitRestart (s : State) : State := onSaf (fun f => { f with awaited := some (restartCode s) }) s

/-- DISCREPANCY_CLEAR (R336): both inputs have been low together for T_FILT. -/
def execDiscrepancyClear (ch : Chan) (pair : Pair) (s : State) : Out := ifRuns s .safety <|
  let s := onSaf (fun f => match pair with
    | .hatch => { f with a := { f.a with hatch := false }, b := { f.b with hatch := false } }
    | .estop => { f with a := { f.a with estop := false }, b := { f.b with estop := false } }) s
  let s := updChan ch (fun x => match pair with | .hatch => { x with discHatch := false } | .estop => { x with discEstop := false }) s
  .next (if noDisc s then condOff 490 s else s)

/-- DEMAND_END (R337): both inputs have been high for T_FILT, risen within T_DISC; the demand ends in this channel, or the
restart condition is awaited. The end of a hatch demand can be that condition. -/
def execDemandEnd (ch : Chan) (pair : Pair) (s : State) : Out := ifRuns s .safety <|
  let s := onSaf (fun f => match pair with
    | .hatch => { f with a := { f.a with hatch := true }, b := { f.b with hatch := true } }
    | .estop => { f with a := { f.a with estop := true }, b := { f.b with estop := true } }) s
  let x := chanOf s ch
  match pair with
  | .hatch =>
    if pairDisc s .hatch || !x.demHatch then .next s
    else
      let s := updChan ch (fun x => { x with demHatch := false }) s
      if pairDemand s .hatch then .next s
      else
        let s := condOff 488 s
        .next (if restartCode s = 1 ∧ s.safety.hatchSince ∧ restartWait s then endEstop s else s)
  | .estop =>
    if pairDisc s .estop || !x.demEstop then .next s
    else
      let s := updChan ch (fun x => { x with released := true }) s
      .next (if estopReleased s then (if restartCode s = 0 then endEstop s else awaitRestart s) else s)

/-- CROSS_LINK_EXCHANGE (R332 R333). -/
def execCrossLinkExchange (s : State) (agree : Bool := true) : Out := ifRuns s .safety <| .next (exchange agree s)

/-- CROSS_LINK_LOSS (R332). -/
def execCrossLinkLoss (ch : Chan) (s : State) : Out := ifRuns s .safety <|
  .next (raise 494 (sloOff ch (updChan ch (fun x => { x with xcmp := true }) s)))

/-- CROSS_LINK_DISAGREE (R332). -/
def execCrossLinkDisagree (ch : Chan) (s : State) : Out := ifRuns s .safety <|
  .next (raise 494 (sloOff ch (updChan ch (fun x => { x with differs := true }) s)))

/-- INPUT_TEST_PULSE (R338): one low pulse on `TPx`, while the emergency-stop pair is enabled. -/
def execInputTestPulse (ch : Chan) (s : State) : Out := ifRuns s .safety <|
  when_ (pairOn s .estop && (chanOf s ch).selftestOk && !(chanOf s ch).inTest)
    (fun s => emit (.testPulse (ch == .b) true) (updChan ch (fun x => { x with inTest := true, tp := false }) s)) s

/-- SAF_TPI (R338 R339): the verdict on the echo; an input still low discards it and reads low. `TPx` follows the enable. -/
def execSafTpi (ch : Chan) (echo : EchoSeen) (s : State) : Out := ifRuns s .safety <|
  when_ (chanOf s ch).inTest
    (fun s =>
      let s := updChan ch (fun x => { x with inTest := false, tp := pairOn s .estop, estop := x.estop && echo.returned }) s
      if !echo.returned then onSaf (fun f => { f with tpDiscarded := satAdd 65535 f.tpDiscarded 1 }) s
      else if echo.otherFell || !echo.fell then raise 491 (onSaf (fun f => { f with tpFailed := satAdd 65535 f.tpFailed 1 }) s)
      else s) s

/-- OUTPUT_TEST_PULSE (R341): one low pulse on an output that is high and whose feedback is checked. -/
def execOutputTestPulse (ch : Chan) (s : State) : Out := ifRuns s .safety <|
  when_ (fbOn s ch && (chanOf s ch).slo && !(chanOf s ch).outTest)
    (fun s => emit (.testPulse (ch == .b) false) (updChan ch (fun x => { x with outTest := true, outDiscard := false }) s)) s

/-- Fault slot of a channel's output (R370). -/
def sloSlot : Chan → Nat
  | .a => 492
  | .b => 493

/-- OUTPUT_TEST_VERDICT (R341 R342): at `FB_DLY` after the end of the pulse. -/
def execOutputTestVerdict (ch : Chan) (lowOk highOk : Bool) (s : State) : Out := ifRuns s .safety <|
  let x := chanOf s ch
  when_ x.outTest
    (fun s =>
      let s := updChan ch (fun x => { x with outTest := false, outDiscard := false }) s
      if x.outDiscard then onSaf (fun f => { f with tpDiscarded := satAdd 65535 f.tpDiscarded 1 }) s
      else if lowOk && highOk then updChan ch (fun x => { x with fbOk := true, fb := true }) s
      else raise (sloSlot ch) (onSaf (fun f => { f with tpFailed := satAdd 65535 f.tpFailed 1 })
        (updChan ch (fun x => { x with fbOk := false, fb := highOk }) s))) s

/-- FEEDBACK_CHECK (R340): two consecutive samples at `level`; suspended during an output test. -/
def execFeedbackCheck (ch : Chan) (level : Bool) (s : State) : Out := ifRuns s .safety <|
  let x := chanOf s ch
  if x.outTest then .next s
  else
    let s := updChan ch (fun x => { x with fb := level, fbOk := !fbOn s ch || level == x.slo }) s
    .next (if fbOn s ch then (if level == x.slo then condOff (sloSlot ch) s else condOn (sloSlot ch) s) else s)

/-- Channel A keeps the largest ratio of the last check (R368). -/
def egKeep (ch : Chan) (n : Nat) (m : Nat × Nat × Nat) (s : State) : State :=
  match ch with
  | .a => onSaf (fun f => { f with egRatio := min 65535 m.1, egTile := n, egI := m.2.1, egJ := m.2.2 }) s
  | .b => s

/-- The first trip is recorded (R369). -/
def egRecord (ch : Chan) (n : Nat) (w : Nat × Nat × Nat × Nat) (s : State) : State :=
  if s.safety.tripValid then s
  else onSaf (fun f => { f with tripValid := true, tripRatio := min 0x7FFF (divRatio (w.2.2.1, w.2.2.2)), tripB := ch == .b,
                                tripTile := n, tripI := w.1, tripJ := w.2.1 }) s

/-- A channel that finds a window above the limit drives its output low and raises `EG_DIVERSE` (R350). -/
def egTrip (ch : Chan) (n : Nat) (w : Option (Nat × Nat × Nat × Nat)) (s : State) : State :=
  match w with
  | none => s
  | some w => raise 495 (sloOff ch (egRecord ch n w s))

/-- The first window that trips (R350). -/
def egFirst (ws : List (Nat × Nat × Nat × Nat)) : Option (Nat × Nat × Nat × Nat) :=
  ws.find? fun w => divTrips (w.2.2.1, w.2.2.2)

/-- EG_DIVERSE (R350 R351 R352 R368 R369): the check of the streams that a shift of tile n returned. -/
def execEgDiverse (ch : Chan) (n : Fin 8) (streams : List StripRet) (s : State) : Out := ifRuns s .safety <|
  .next (egTrip ch n.val (egFirst (divWindows s n.val streams)) (egKeep ch n.val (divMax (divWindows s n.val streams)) s))

/-- SAFE_WRITE (R355 R358 R365). -/
def execSafeWrite (id : Nat) (s : State) : Out :=
  runOp s id 0x31 fun d =>
    let len := le d.bytes 20 4
    if 512 < len then complete id stCHECK [] (stageError 4 0 s)
    else if d.failed then complete id stPOISON [] s
    else match d.data with
      | none => s
      | some b =>
        let image := withCheck (b ++ s.safety.inForce.drop len)
        match setError image with
        | some e => complete id stCHECK [] (stageError e.1 e.2 s)
        | none => complete id stOK [] (onSaf (fun f => { f with staged := image }) s)

/-- A set by its number: in force, staged, factory (R359). -/
def setByNo (s : State) : Nat → Bytes
  | 0 => s.safety.inForce
  | 1 => s.safety.staged
  | _ => s.safety.factory

/-- SAFE_READ (R125 R359). -/
def execSafeRead (id : Nat) (s : State) : Out :=
  runOp s id 0x30 fun d =>
    let b := (setByNo s (le d.bytes 16 1)).take (min (le d.bytes 20 4) 512)
    if b.isEmpty then complete id stOK (toLe 4 0 ++ toLe 4 0) s
    else if dmaOk s then
      complete id stOK (toLe 4 b.length ++ toLe 4 (setCheck (setByNo s (le d.bytes 16 1)))) (hostWrite (le d.bytes 32 8) b s)
    else s

/-- SAFE_CONFIRM (R360): the copy that does not hold the set in force is written. -/
def execSafeConfirm (id : Nat) (s : State) : Out :=
  runOp s id 0x32 fun d =>
    if s.safety.confirm.isSome then s
    else if !s.safety.confirmEn then complete id stCHECK [] (stageError 7 0 s)
    else if s.safety.staged.isEmpty then complete id stCHECK [] (stageError 5 0 s)
    else if le d.bytes 16 4 ≠ setCheck s.safety.staged then complete id stCHECK [] (stageError 6 0 s)
    else if s.power.inhibit then complete id stBUSY [] s
    else
      let page := if s.safety.copy = 1 then 7298 else 7297
      queueRecs [{ page, bytes := s.safety.staged, why := .confirm id }]
        (onSaf (fun f => { f with confirm := some (id, false) }) (updDesc id (fun d => { d with taken := true }) s))

/-- `TPx` follows the enable of the emergency-stop pair; a pulse in progress ends as it began (R338 R361). -/
def tpFollows (s : State) : State :=
  let f := fun (x : Channel) => { x with tp := pairOn s .estop && !x.inTest && x.selftestDone }
  onSaf (fun k => { k with a := f k.a, b := f k.b }) s

/-- SAFETY_SET_IN_FORCE (R360 R361): both channels take the confirmed set at one exchange. -/
def execSafetySetInForce (s : State) : Out := ifRuns s .safety <|
  match s.safety.confirm with
  | some (id, true) =>
    let copy := if s.safety.copy = 1 then 2 else 1
    match pageOf s (if copy = 2 then 7298 else 7297) with
    | none => .next s
    | some p => .next (complete id stOK [] (tpFollows (onSaf (fun f => { f with
        inForce := p.bytes, src := 1, copy, staged := [], confirm := none }) s)))
  | _ => .next s

/-- SAFE_LOCK (R5 R363): a level-0 write sets the lock once; `CONFIRM_EN` is RWL: it follows any write until it is locked. -/
def execSafeLock (level0 : Bool) (value : BitVec 32) (s : State) : Out :=
  when_ (barOpen s)
    (onSaf fun f => { f with
      confirmEn := if f.safeLock then f.confirmEn else value.toNat.testBit 0
      safeLock := f.safeLock || (level0 && value.toNat.testBit 31) }) s

/-- SEVERE_LINE_BROKEN (R379): channel B treats the broken line as an active SEVERE fault, until the line is whole again. -/
def execSevereLineBroken (s : State) (broken : Bool := true) : Out := ifRuns s .safety <|
  let s := updChan .b (fun x => { x with severeLine := broken }) s
  .next (if broken then sloOff .b s else s)

end Sys2Proof.Machine
end

