-- ==== Sys2Proof/Machine/Registers.lean ====
section
/-! DEFINITION. What a read of each BAR0 register returns, window by window (18 and the register chapters). An offset that the
index does not name reads 0 (R594), as does a write-only field (R5). -/

namespace Sys2Proof.Machine

/-- Bits [31:0] and [63:32] of a value. -/
def lo32 (v : Nat) : Nat := v % 2 ^ 32
def hi32 (v : Nat) : Nat := v / 2 ^ 32 % 2 ^ 32

/-- Vendor ID, Device ID, class code, Subsystem Vendor ID and Subsystem ID in configuration space (R70). -/
def configIds (s : State) : Nat × Nat × Nat × Nat × Nat := (0x1F3B, 0x1180, 0x0B4000, s.boot.subsystem.1, s.boot.subsystem.2)

/-- A word of an MSI-X table entry (R71). -/
def msixRead (e : MsixEnt) (word : Nat) : Nat :=
  match word with
  | 0 => lo32 e.addr
  | 1 => hi32 e.addr
  | 2 => e.data
  | _ => flag 0 e.mask

/-- What a read of BAR2 returns (R70 R71 R105 R598): the MSI-X table, the pending-bit array; 0 at doorbells and reserved offsets. -/
def readBar2 (s : State) (off : Nat) : Nat :=
  if 0x1000 ≤ off ∧ off < 0x1400 then msixRead (Tab.get {} s.link.msix ((off - 0x1000) / 16)) (off % 16 / 4)
  else if 0x1800 ≤ off ∧ off < 0x1808 then (if off < 0x1804 then lo32 s.link.pba else hi32 s.link.pba)
  else 0

/-- GLB (R91 to R94). -/
def readGlb (s : State) (o : Nat) : Nat :=
  match o with
  | 0x00 => 0x4C581180
  | 0x04 => Config.fuseRevMinor.toNat + at_ 8 Config.fuseRevMajor.toNat
  | 0x08 => glbIsland s
  | 0x10 => lo32 Config.dieId.toNat
  | 0x14 => hi32 Config.dieId.toNat
  | _ => 0

/-- PWR (R61 to R69). -/
def readPwr (s : State) (o : Nat) : Nat :=
  let p := s.power
  match o with
  | 0x00 => pwrStatus p
  | 0x04 => p.vsagSlow + at_ 8 p.vsagSave + at_ 16 p.sagDwell
  | 0x08 => p.vinMv + at_ 16 p.vholdMv
  | 0x0C => pwrRstCause p
  | 0x14 => flag 0 p.shedEn
  | 0x18 => p.slows + at_ 16 p.saves
  | 0x1C => p.saveDuration + at_ 12 p.vholdEnd + at_ 26 p.saveRecords + flag 31 p.saveComplete
  | 0x20 => pwrClkStatus p
  | _ => 0

/-- A word of one SQ block (R95 R135). -/
def readSq (s : State) (n r : Nat) : Nat :=
  let q := sqOf s n
  match r with
  | 0x00 => lo32 q.base
  | 0x04 => hi32 q.base
  | 0x08 => flag 0 (q.state == .running) + at_ 4 q.size + at_ 8 q.cq + at_ 16 (levelOf s.prot.shadow n)
  | 0x0C => lo32 (Tab.get 0 s.prot.shadow.own n)
  | 0x10 => hi32 (Tab.get 0 s.prot.shadow.own n)
  | 0x14 => sqStateWord q
  | _ => 0

/-- A word of one CQ block (R96 R136). -/
def readCq (s : State) (n r : Nat) : Nat :=
  let c := cqOf s n
  match r with
  | 0x00 => lo32 c.base
  | 0x04 => hi32 c.base
  | 0x08 => flag 0 c.enable + at_ 4 c.size + flag 8 c.irqEn
  | 0x0C => cqStateWord c
  | _ => 0

/-- A word of one DMA window of the shadow (R84 R97). -/
def readWin (s : State) (k r : Nat) : Nat :=
  let w := Tab.get {} s.prot.shadow.win k
  match r with
  | 0x00 => lo32 w.base
  | 0x04 => hi32 w.base
  | 0x08 => w.pages
  | 0x0C => w.attr
  | _ => 0

/-- HIF (R95 to R101, R135 to R140). -/
def readHif (s : State) (o : Nat) : Nat :=
  if 0x100 ≤ o ∧ o < 0x500 then readSq s ((o - 0x100) / 32) (o % 32)
  else if 0x600 ≤ o ∧ o < 0x800 then readCq s ((o - 0x600) / 16) (o % 16)
  else if 0x800 ≤ o ∧ o < 0x900 then readWin s ((o - 0x800) / 16) (o % 16)
  else if 0x900 ≤ o ∧ o < 0x940 then opcWord s.prot.shadow ((o - 0x900) / 16) (o % 16 / 4)
  else match o with
  | 0x940 => flag 1 s.prot.shadow.winL0 + flag 2 s.prot.refused + at_ 16 s.prot.gen
  | 0x944 => hifLink s.link
  | 0x948 => s.link.lateCpl
  | 0x94C => s.rings.evtLost
  | 0x950 => s.rings.silent
  | 0x954 => dbErrWord s.rings.dbErr
  | 0x958 => inflightCount s
  | _ => 0

/-- A word of a layer context (R147). -/
def ctxWord (c : Ctx) (r : Nat) : Nat := bits c.toNat (8 * r) 32

/-- CMP (R178 to R186). -/
def readCmp (s : State) (o : Nat) : Nat :=
  let c := s.cmp
  if o < 0x3F00 then ctxWord (layerOf s (o / 256)).ctx (o % 256)
  else if 0x4000 ≤ o ∧ o < 0x7F00 then ctxWord (Tab.get {} c.staged ((o - 0x4000) / 256)).ctx (o % 256)
  else match o with
  | 0x3F00 => c.fenceTmo + at_ 4 c.fetchTmo + at_ 8 c.guardUnit
  | 0x3F04 => c.pollUs
  | 0x3F08 => c.tileMap
  | 0x3F0C => cmpStatus s
  | 0x3F10 => min (2 ^ 28 - 1) c.load
  | 0x3F14 => lo32 (stalledLayers s)
  | 0x3F18 => hi32 (stalledLayers s)
  | 0x3F1C => c.stallCount
  | 0x3F20 => c.guardErr.frame + at_ 16 c.guardErr.layer + flag 31 c.guardErr.valid
  | 0x3F24 => ranges.count c.valid
  | _ => 0

/-- FRM (R206 to R211). -/
def readFrm (s : State) (o : Nat) : Nat :=
  let f := s.frm
  match o with
  | 0x00 => f.rate + at_ 8 f.staticHold + at_ 16 f.keepalive + flag 24 f.extendEn
  | 0x04 => lo32 f.epochSec
  | 0x08 => f.epochSec / 2 ^ 32 % 4
  | 0x0C => f.epochNs
  | 0x10 => unsigned 32 f.num
  | 0x14 => f.numCap
  | 0x18 => frmStatus s
  | 0x1C => f.cntOverrun + at_ 16 f.cntExtended
  | 0x20 => f.cntLate + at_ 16 f.cntBridge
  | _ => 0

/-- The diagnosis of the tile that a Frond serves, if one is present: where none is, its registers read 0 (R323 R324). -/
def servedDiag (s : State) (f : Nat) : Option Diag :=
  if frondTile s f < 8 ∧ (tileOf s (frondTile s f)).present then some (tileOf s (frondTile s f)).diag else none

/-- FRD (R245 to R250, R322 to R329). -/
def readFrd (s : State) (f r : Nat) : Nat :=
  let x := frondOf s f
  let g := fun (v : Diag → Nat) => match servedDiag s f with | some g => v g | none => 0
  match r with
  | 0x000 => x.srtDly + flag 8 x.shortEn
  | 0x004 => frdStatus s f
  | 0x008 => x.seqSent
  | 0x00C => x.rbSeq + at_ 16 x.rbStrip + at_ 24 x.rbLocal + flag 31 x.rbValid
  | 0x010 => x.rbCnt
  | 0x014 => x.nakCnt
  | 0x018 => x.windows + at_ 16 x.fMin
  | 0x400 => s.cal.diagEvery + at_ 16 s.cal.probeAfter + flag 28 s.cal.probeEn
  | 0x404 => g fun g => g.lastSeq + at_ 16 g.win + at_ 24 g.repay.length
  | 0x408 => g fun g => countVerdict g 0 384 2
  | 0x40C => g fun g => countVerdict g 0 384 3
  | 0x410 => g fun g => countVerdict g 0 384 0
  | 0x414 => g fun g => popcount g.due pixels_
  | 0x418 => x.probes + at_ 16 x.cancelled
  | 0x420 => roleCode x.role + at_ 16 x.epoch
  | 0x424 => x.hbMiss
  | 0x428 => x.staleCnt
  | 0x42C => x.selftest
  | 0x430 => xbarWord s f
  | _ => 0

/-- STR (R251 to R258). -/
def readStr (s : State) (o : Nat) : Nat :=
  if o < 0x3000 then
    let x := stripOf s (o / 0x40)
    match o % 0x40 with
    | 0x00 => x.chIref + flag 16 x.en
    | 0x04 => x.iMeas + at_ 16 x.vSref + flag 31 x.stale
    | 0x08 => x.crcSent
    | 0x0C => x.crcRet
    | 0x10 => x.retHdr
    | _ => 0
  else match o with
  | 0x3000 => s.strip.globalIref
  | 0x3004 => s.strip.govBudget
  | 0x3008 => s.strip.scale + flag 31 (decide (s.strip.scale < 32768))
  | 0x300C => s.strip.load
  | 0x3010 => s.strip.shortA + at_ 8 s.strip.shortB + flag 16 s.strip.shortKind + flag 31 s.strip.shortValid
  | _ => 0

/-- TIL (R290 to R295). -/
def readTil (s : State) (n r : Nat) : Nat :=
  let t := tileOf s n
  let h := fun (f : Header → Nat) => match t.header with | some h => f h | none => 0
  match r with
  | 0x00 => tilStatus (decide (s.tiles.committing = some n)) t
  | 0x04 => h fun h => h.typ + at_ 16 h.format
  | 0x08 => h fun h => h.kT
  | 0x0C => t.cause + at_ 16 t.busErr
  | 0x10 => h fun h => lo32 h.serial
  | 0x14 => h fun h => hi32 h.serial
  | 0x18 => h fun h => lo32 (h.serial / 2 ^ 64)
  | 0x1C => h fun h => hi32 (h.serial / 2 ^ 64)
  | 0x20 => t.eolBlocks + at_ 16 t.ratedBlocks
  | 0x24 => t.gMax + at_ 16 t.gMin
  | _ => 0

/-- LDG (R296 to R299). -/
def readLdg (s : State) (o : Nat) : Nat :=
  let k := s.tiles
  if 0x10 ≤ o ∧ o < 0x50 then
    let t := tileOf s ((o - 0x10) / 8)
    if o % 8 = 0 then t.gen else lo32 t.time
  else match o with
  | 0x00 => k.commitMin + at_ 16 k.gainS
  | 0x04 => k.failed + at_ 8 s.journal.orphans.length + flag 16 k.saveApplied + flag 17 k.savePoison
  | 0x50 => k.discard
  | 0x54 => k.saveGroups
  | _ => 0

/-- SAF (R362 to R369, and the three views of sets). -/
def readSaf (s : State) (o : Nat) : Nat :=
  let x := s.safety
  if 0x200 ≤ o ∧ o < 0x400 then le (setByNo s 0) (o - 0x200) 4
  else if 0x400 ≤ o ∧ o < 0x600 then le (setByNo s 1) (o - 0x400) 4
  else if 0x600 ≤ o ∧ o < 0x800 then le (setByNo s 2) (o - 0x600) 4
  else match o with
  | 0x00 => safStatus s
  | 0x04 => flag 0 x.confirmEn + flag 31 x.safeLock
  | 0x08 => setCheck (setByNo s 0)
  | 0x0C => setCheck (setByNo s 1)
  | 0x10 => setCheck (setByNo s 2)
  | 0x14 => x.errOffset + at_ 16 x.errCause + flag 31 x.errValid
  | 0x18 => x.tpFailed + at_ 16 x.tpDiscarded
  | 0x1C => x.cntHatch + at_ 16 x.cntEstop
  | 0x20 => x.egJ + at_ 6 x.egI + at_ 12 x.egTile + at_ 16 (min 65535 x.egRatio)
  | 0x24 => x.tripJ + at_ 6 x.tripI + at_ 12 x.tripTile + flag 15 x.tripB + at_ 16 (min 0x7FFF x.tripRatio) + flag 31 x.tripValid
  | _ => 0

/-- A word of one slot of the collector (R391 R392 R393); the registers of an unassigned slot read 0 (R371). -/
def readSlot (s : State) (n r : Nat) : Nat :=
  let x := slotOf s n
  if (slotInfo n).isNone then 0
  else match r with
  | 0x0 => x.wMs + at_ 16 x.n + at_ 24 x.cls + at_ 26 (injMask n) + flag 31 (match slotInfo n with | some i => i.2 | none => false)
  | 0x4 => fltState s n
  | 0x8 => x.events + at_ 16 x.promotions
  | 0xC => x.ms + at_ 10 x.sec
  | _ => 0

/-- FLT (R391 to R400). -/
def readFlt (s : State) (o : Nat) : Nat :=
  let f := s.faults
  if o < 0x2000 then readSlot s (o / 16) (o % 16)
  else if 0x2010 ≤ o ∧ o < 0x2050 then fltPend s ((o - 0x2010) / 4)
  else if 0x3000 ≤ o then
    let e := Tab.get {} f.log ((o - 0x3000) / 16)
    match o % 16 with
    | 0x0 => e.word
    | 0x4 => e.frame
    | 0x8 => e.sec
    | 0xC => e.ns
    | _ => 0
  else match o with
  | 0x2004 => fltSummary s
  | 0x2050 => f.head + at_ 16 f.lost
  | 0x2054 => fltLm s
  | 0x2058 => fltInj s
  | 0x205C => f.wireSlot + flag 31 f.wireValid
  | 0x2060 => f.eccUncorr + at_ 16 f.eccCorr
  | _ => 0

/-- CAL (R436 to R442). -/
def readCal (s : State) (o : Nat) : Nat :=
  let c := s.cal
  if 0x100 ≤ o ∧ o < 0x400 then
    let x := calOf s ((o - 0x100) / 4)
    x.trim + at_ 8 (unsigned 8 x.delta) + at_ 16 (unsigned 16 (clampI (0 - 32768) 32767 x.err))
  else match o with
  | 0x00 => flag 0 c.autoEn + at_ 8 c.calDt
  | 0x04 => calStatus c
  | 0x08 => tempField c.tC + at_ 16 (tempField c.tCal)
  | 0x0C => c.ranges + at_ 16 c.runs
  | 0x10 => c.iBase + flag 31 c.rrefOk
  | 0x14 => maskOf (fun k => c.factory.any fun e => e.1 == k) 5 + at_ 5 c.learnSrc + at_ 16 (c.learnGen % 65536)
  | _ => 0

/-- THM (R443 to R450). -/
def readThm (s : State) (o : Nat) : Nat :=
  if o < 0xB0 then
    let x := sensorOf s (o / 8)
    if o % 8 = 0 then sensVal s (o / 8) else unsigned 16 (clampI (0 - 32768) 32767 x.rate) + flag 31 x.rateOk
  else if 0x100 ≤ o ∧ o < 0x158 then
    let x := sensorOf s ((o - 0x100) / 4)
    unsigned 16 x.tArm + at_ 16 x.riseLim
  else if 0x300 ≤ o ∧ o < 0x358 then (sensorOf s ((o - 0x300) / 4)).offset
  else match o with
  | 0x200 => at_ 8 s.therm.ntc0Dom + at_ 12 s.therm.ntc1Dom + at_ 16 s.therm.relS
  | 0x204 => thmFields s fun d => d.level
  | 0x208 => thmFields s floorOf
  | 0x20C => thmFrozen s
  | 0x214 => flag 0 s.power.inhibit + flag 1 s.power.inhibitSeen
  | _ => 0

/-- A word of one port block of CHN (R497 to R501). -/
def readPort (s : State) (p r : Nat) : Nat :=
  let x := portOf s p
  if 0x10 ≤ r ∧ r < 0x30 then
    let k := (r - 0x10) / 4
    (credOf s p k).adv + at_ 16 (min 2047 (availOf s p k))
  else match r with
  | 0x00 => flag 0 x.en + at_ 2 x.maxStep + flag 4 x.sleepEn + at_ 8 x.sleepIdle
  | 0x04 => portStatus x
  | 0x08 => lo32 x.partner
  | 0x0C => hi32 x.partner
  | 0x30 => x.fcsErr + at_ 16 x.blockErr
  | 0x34 => x.rxFrames
  | 0x38 => x.txFrames
  | 0x3C => x.discard + at_ 16 x.cutCnt
  | _ => 0

/-- CHN (R488 to R501). -/
def readChn (s : State) (o : Nat) : Nat :=
  let c := s.chain
  if 0x1000 ≤ o ∧ o < 0x1800 then readPort s ((o - 0x1000) / 0x400) (o % 0x400)
  else if 0x20 ≤ o ∧ o < 0x40 then
    let m := Tab.get (0, false) c.mcast ((o - 0x20) / 8)
    if o % 8 = 0 then lo32 m.1 else m.1 / 2 ^ 32 % 65536 + flag 31 m.2
  else if 0x40 ≤ o ∧ o < 0x60 then
    let h := c.heads.getD ((o - 0x40) / 8) 0
    if o % 8 = 0 then lo32 h else hi32 h
  else if 0x80 ≤ o ∧ o < 0xA0 then
    let x := rxqOf s ((o - 0x80) / 4)
    x.limit + flag 15 x.en + at_ 16 x.drops
  else if 0x100 ≤ o ∧ o < 0x200 then
    let q := (o - 0x100) / 4
    queueCells s q + flag 31 (c.stale.testBit q)
  else match o with
  | 0x00 => c.defPrio + flag 4 c.svcToHost + flag 5 c.ptpToHost + at_ 16 c.helloS
  | 0x04 => lo32 c.mac
  | 0x08 => c.mac / 2 ^ 32 % 65536
  | 0x0C => c.staleUs
  | 0x10 => c.free + at_ 16 (queuedCells s)
  | 0x14 => c.auditFree + at_ 16 c.auditQueued + flag 31 c.auditValid
  | 0x18 => c.svcRelayed + at_ 16 c.svcBad
  | _ => 0

/-- TIM (R522 to R528). -/
def readTim (s : State) (o : Nat) : Nat :=
  let t := s.time
  if 0x20 ≤ o ∧ o < 0x40 then
    let x := domOf s ((o - 0x20) / 16)
    match o % 16 with
    | 0x0 => flag 0 x.en + at_ 8 x.ptpDomain + at_ 24 x.lossT
    | 0x4 => domStatus x
    | 0x8 => satSigned (x.offset / 65536)
    | _ => unsigned 32 (x.ratio / 256)
  else if o = 0x40 ∨ o = 0x48 then
    let a := Tab.get (s.boot.txAdj, s.boot.rxAdj) t.lat ((o - 0x40) / 8)
    unsigned 16 a.2 + at_ 16 (unsigned 16 a.1)
  else if 0x80 ≤ o ∧ o < 0x180 then
    let x := tevOf s ((o - 0x80) / 16)
    match o % 16 with
    | 0x0 => x.mode
    | 0x4 => (stampOf x.next).sec % 2 ^ 32
    | 0x8 => (stampOf x.next).ns
    | _ => 0
  else match o with
  | 0x00 => at_ 3 t.prefer + flag 4 t.autoSw + at_ 5 t.hostTs + at_ 8 t.revertS + at_ 16 t.slew
  | 0x04 => timStatus t
  | 0x08 => (outTime s / tuSec).toNat % 2 ^ 32
  | 0x0C => (t.cap / tuSec).toNat / 2 ^ 32 % 2 ^ 32
  | 0x10 => (t.cap % tuSec / 65536).toNat
  | 0x14 => (t.cap % 65536).toNat
  | 0x18 => satSigned (t.slewTerm / 65536)
  | 0x60 => t.steps + at_ 16 t.switches
  | 0x64 => t.skipped
  | 0x68 => t.tevMiss
  | _ => 0

/-- NVM (R550 to R554). -/
def readNvm (s : State) (o : Nat) : Nat :=
  let n := s.nvm
  match o with
  | 0x00 => nvmStatus s
  | 0x04 => fwStatus n
  | 0x08 => n.version
  | 0x0C => n.xfer.got.length + at_ 12 (firstMissing s) + at_ 28 n.xfer.bad
  | 0x10 => flag 0 n.chainEn + at_ 1 n.svcBaud
  | _ => 0

/-- CRC (R555). -/
def readCrc (s : State) (o : Nat) : Nat :=
  if o < 0x40 then
    let u := o / 16
    match o % 16 with
    | 0x0 => (gcuOf s u).poly + at_ 2 (gcuUser s u)
    | 0x4 => (gcuOf s u).run
    | 0x8 => (gcuOf s u).last
    | _ => 0
  else 0

/-- What a read of the 32-bit register at a BAR0 offset returns; both halves read alike (R80 R594). -/
def readReg (s : State) (off : Nat) : Nat :=
  let o := off % 0x80000
  if o < 0x4000 then readGlb s o
  else if o < 0x8000 then readHif s (o - 0x4000)
  else if o < 0x10000 then 0
  else if o < 0x18000 then readCmp s (o - 0x10000)
  else if o < 0x20000 then readFrm s (o - 0x18000)
  else if o < 0x29000 then readFrd s ((o - 0x20000) / 0x1000) (o % 0x1000)
  else if o < 0x30000 then 0
  else if o < 0x34000 then readStr s (o - 0x30000)
  else if o < 0x36000 then readTil s ((o - 0x34000) / 0x400) (o % 0x400)
  else if o < 0x38000 then 0
  else if o < 0x40000 then readLdg s (o - 0x38000)
  else if o < 0x44000 then readSaf s (o - 0x40000)
  else if o < 0x48000 then readFlt s (o - 0x44000)
  else if o < 0x4C000 then readCal s (o - 0x48000)
  else if o < 0x50000 then readThm s (o - 0x4C000)
  else if o < 0x58000 then readChn s (o - 0x50000)
  else if o < 0x60000 then readTim s (o - 0x58000)
  else if o < 0x68000 then readNvm s (o - 0x60000)
  else if o < 0x70000 then readCrc s (o - 0x68000)
  else if o < 0x74000 then readPwr s (o - 0x70000)
  else 0

/-- A read of BAR0 with byte enables returns the enabled bytes of the word (R593); the others as 0. -/
def readEnabled (s : State) (off : Nat) (enables : BitVec 4) : Bytes :=
  (toLe 4 (readReg s off)).zipIdx.map fun e => if enables.getLsbD e.2 then e.1 else 0

end Sys2Proof.Machine
end

