-- ==== Sys2Proof/Machine/Rings.lean ====
section
/-! DEFINITION. The Jivinu rings: doorbells, enabling and draining, fetch, consumption, dispatch, posting, the
protection table (03, 04). -/

namespace Sys2Proof.Machine

/-- Plain fields of a write to `HIF_SQn_CFG` (R95 R130): `LEVEL` of the shadow, and `CQ` and `SIZE` while disabled. DESIGN CHOICE
(notes/assumptions/75): a `SIZE` code outside 4 to 12 leaves the field unchanged. -/
def storeSqCfg (n v : Nat) (s : State) : State :=
  let q := sqOf s n
  let s := { s with prot := { s.prot with shadow := { s.prot.shadow with level := Tab.put s.prot.shadow.level n (bits v 16 2) } } }
  if q.state = .running then s
  else putSq s n { q with cq := bits v 8 5, size := if 4 ≤ bits v 4 4 ∧ bits v 4 4 ≤ 12 then bits v 4 4 else q.size }

/-- Plain fields of a write to `HIF_CQn_CFG` (R96): `SIZE` while disabled. DESIGN CHOICE (notes/assumptions/75): a `SIZE` code
outside 4 to 12 leaves the field unchanged. -/
def storeCqCfg (n v : Nat) (s : State) : State :=
  let c := cqOf s n
  if c.enable then s
  else putCq s n { c with size := if 4 ≤ bits v 4 4 ∧ bits v 4 4 ≤ 12 then bits v 4 4 else c.size }

/-- `IRQ_EN` of a write to `HIF_CQn_CFG` (R127): setting arms, or signals at once if entries wait; clearing disarms. -/
def storeIrqEn (n v : Nat) (s : State) : State :=
  let c := cqOf s n
  let e := v.testBit 8
  if !c.enable then putCq s n { c with irqEn := e }
  else if e && decide (c.tail ≠ c.head) then signal n (putCq s n { c with irqEn := true, armed := false })
  else putCq s n { c with irqEn := e, armed := e }

/-- APPLY (R84 R87 R99): the fields carried by the write are stored, then the shadow becomes the active table. -/
def execApply (level0 : Bool) (value : BitVec 32) (s : State) : Out :=
  let v := value.toNat
  if barOpen s then
    let s := if v.testBit 2 then { s with prot := { s.prot with refused := false } } else s
    if level0 then
      let s := { s with prot := { s.prot with shadow := { s.prot.shadow with winL0 := v.testBit 1 } } }
      if v.testBit 0 then
        if tableRefused s s.prot.shadow then .next { s with prot := { s.prot with refused := true } }
        else .next { s with prot := { s.prot with active := s.prot.shadow, gen := (s.prot.gen + 1) % 65536 } }
      else .next s
    else .next s
  else .next s

/-- The table with one entry of a `PROT_SET` written (R119). -/
def protEntry (b : Bytes) (p : ProtTable) : ProtTable :=
  let i := le b 17 1
  match le b 16 1 with
  | 0 => { p with level := Tab.put p.level i (bits (le b 24 1) 0 2) }
  | 1 => { p with own := Tab.put p.own i (bits (le b 24 8) 0 63) }
  | 2 => { p with win := Tab.put p.win i { base := le b 24 8, pages := le b 32 4, attr := le b 36 4 &&& 0x800000FF } }
  | 3 => { p with opc := Tab.put p.opc i (le b 24 4 &&& opcAllowed (i / 4) (i % 4)) }
  | _ => { p with winL0 := (le b 24 1).testBit 0 }

/-- PROT_SET (R85 R87 R119): one entry into the active table and the shadow. -/
def execProtSet (id : Nat) (s : State) : Out :=
  runOp s id 0x68 fun d =>
    let a := protEntry d.bytes s.prot.active
    if tableRefused s a then complete id stBADDESC [] s
    else complete id stOK [] { s with prot := { s.prot with
      active := a, shadow := protEntry d.bytes s.prot.shadow, gen := (s.prot.gen + 1) % 65536 } }

/-- SQ_TAIL_DOORBELL (R105 R106 R134). -/
def execSqTailDoorbell (n : Fin 32) (value : BitVec 32) (proper : Bool) (s : State) : Out :=
  let v := bits value.toNat 0 12
  let q := sqOf s n.val
  if !barOpen s then .next s
  else if !proper then .next (doorbellError false false n.val 3 v s)
  else if q.state ≠ .running then .next (doorbellError false false n.val 1 v s)
  else if 2 ^ q.size ≤ v then .next (doorbellError false false n.val 0 v s)
  else
    let s' := putSq s n.val { q with tail := v }
    .next (if v = q.tail then s' else hostHeard s')

/-- FENCE_KICK (R105 R106 R169): the fences of every held commit of the SQ are polled. -/
def execFenceKick (n : Fin 32) (value : BitVec 32) (proper : Bool) (s : State) : Out :=
  if !barOpen s then .next s
  else if !proper then .next (doorbellError true false n.val 3 value.toNat s)
  else .next (kickGroups n.val s)

/-- CQ_HEAD_DOORBELL (R105 R106 R127 R134); an entry that becomes free in CQ31 takes a waiting `EVT_LOST` (R129). -/
def execCqHeadDoorbell (n : Fin 32) (value : BitVec 32) (proper : Bool) (s : State) : Out :=
  let v := bits value.toNat 0 12
  let c := cqOf s n.val
  let size := 2 ^ c.size
  if !barOpen s then .next s
  else if !proper then .next (doorbellError false true n.val 3 v s)
  else if !c.enable then .next (doorbellError false true n.val 1 v s)
  else if size ≤ v then .next (doorbellError false true n.val 0 v s)
  else if posted c < (v + size - c.head) % size then .next (doorbellError false true n.val 2 v s)
  else
    let more := decide (c.tail ≠ v)
    let s' := putCq s n.val { c with head := v, armed := c.irqEn && !more }
    let s' := if v = c.head then s' else hostHeard s'
    let s' := if c.irqEn && more then signal n.val s' else s'
    .next (if n.val = 31 then postLost s' else s')

/-- SQ_ENABLE (R95 R130). -/
def execSqEnable (n : Fin 32) (level0 : Bool) (value : BitVec 32) (s : State) : Out :=
  when_ (barOpen s && level0)
    (fun s =>
      let s := storeSqCfg n.val value.toNat s
      let q := sqOf s n.val
      if value.toNat.testBit 0 ∧ q.state = .disabled ∧ q.cq ≠ 31 ∧ (cqOf s q.cq).enable then
        putSq s n.val { q with state := .running, bound := q.cq, head := 0, tail := 0 }
      else s) s

/-- SQ_DRAIN (R131 R132): descriptors that have not begun are flushed; the SQ ends when its last completion is posted. -/
def execSqDrain (n : Fin 32) (level0 : Bool) (value : BitVec 32) (s : State) : Out :=
  when_ (barOpen s && level0 && !value.toNat.testBit 0)
    (fun s =>
      let s := storeSqCfg n.val value.toNat s
      let q := sqOf s n.val
      if q.state = .running then
        let s := dropFetches n.val (putSq s n.val { q with state := .draining })
        drainEnd n.val (flushAll (s.rings.inflight.filter fun d => d.sq == n.val) s)
      else s) s

/-- CQ_ENABLE (R96 R123 R127). -/
def execCqEnable (n : Fin 32) (level0 : Bool) (value : BitVec 32) (s : State) : Out :=
  when_ (barOpen s && level0)
    (fun s =>
      let s := storeCqCfg n.val value.toNat s
      let c := cqOf s n.val
      if value.toNat.testBit 0 && !c.enable then
        putCq s n.val { c with
          enable := true, irqEn := value.toNat.testBit 8, armed := value.toNat.testBit 8
          head := 0, tail := 0, phase := true }
      else storeIrqEn n.val value.toNat s) s

/-- CQ_DISABLE (R133): only while no SQ binds it and nothing is reserved; CQ31 always. -/
def execCqDisable (n : Fin 32) (level0 : Bool) (value : BitVec 32) (s : State) : Out :=
  when_ (barOpen s && level0 && !value.toNat.testBit 0)
    (fun s =>
      let c := cqOf s n.val
      let busy := (List.range 32).any fun k => (sqOf s k).state != .disabled && (sqOf s k).bound == n.val
      if c.enable && (decide (n.val = 31) || (!busy && decide (reserved s n.val = 0))) then
        putCq s n.val { c with enable := false, armed := false, irqEn := value.toNat.testBit 8 }
      else storeIrqEn n.val value.toNat (storeCqCfg n.val value.toNat s)) s

/-- IRQ_EN_WRITE (R127). -/
def execIrqEnWrite (n : Fin 32) (level0 : Bool) (value : BitVec 32) (s : State) : Out :=
  when_ (barOpen s && level0) (fun s => storeIrqEn n.val value.toNat (storeCqCfg n.val value.toNat s)) s

/-- Descriptors of SQ n that are available and not yet being fetched, up to the ring's end (R110). -/
def fetchable (s : State) (n : Nat) : Nat :=
  let q := sqOf s n
  let p := (q.head + fetching s n) % 2 ^ q.size
  if q.state = .running then
    min (min 8 (if p ≤ q.tail then q.tail - p else 2 ^ q.size - p))
      (min (cqFree s q.bound) (1024 - inflightCount s - ((List.range 32).map (fetching s)).sum))
  else 0

/-- The SQ whose turn it is: the first after the last one served that holds descriptors (R110). -/
def nextTurn (s : State) : Option Nat :=
  ((List.range 32).map fun i => (s.rings.lastTurn + 1 + i) % 32).find? fun n => decide (0 < fetchable s n)

/-- Put one request of a turn of descriptor fetches in the queue of the host island (R77 R110). -/
def queueFetch (turn n first count base : Nat) (s : State) : State :=
  { s with link := { s.link with
      nextItem := s.link.nextItem + 1
      reads := s.link.reads ++ [{ id := s.link.nextItem, who := .fetch n first count, turn, chunks := cutRange s.link.mrrs (base + 64 * first) (64 * count) }] } }

/-- The requests of one turn: whole descriptors, at most Max Read Request Size each (R110). -/
def fetchRequests (turn n size first count per base : Nat) : Nat → State → State
  | 0, s => s
  | k + 1, s =>
    if count = 0 then s
    else
      let c := min per count
      fetchRequests turn n size ((first + c) % size) (count - c) per base k (queueFetch turn n first c base s)

/-- DESCRIPTOR_FETCH (R108 R109 R110): a turn of SQ n. -/
def execDescriptorFetch (n : Fin 32) (s : State) : Out :=
  when_ (dmaOk s && decide (nextTurn s = some n.val))
    (fun s =>
      let q := sqOf s n.val
      let c := fetchable s n.val
      let s' := { s with rings := { s.rings with lastTurn := n.val } }
      pump (fetchRequests s.link.nextItem n.val (2 ^ q.size) ((q.head + fetching s n.val) % 2 ^ q.size) c (max 1 (s.link.mrrs / 64)) q.base c s')) s

/-- DESCRIPTOR_CONSUMED (R108 R113 R114): the front request of SQ n has ended, with data or lost. Reading its descriptors' on-chip
copies, of 8 words each, may show memory errors (R11 R30). -/
def execDescriptorConsumed (n : Fin 32) (s : State) (ecc : EccSeen := {}) : Out := ifRuns s .ring <|
  match s.link.reads.find? (fun r => match r.who with | .fetch k _ c => k == n.val && c != 0 | _ => false) with
  | none => .next s
  | some r =>
    let c := match r.who with | .fetch _ _ c => c | _ => 0
    let s1 := { s with link := { s.link with reads := s.link.reads.filter fun y => y.id != r.id } }
    if r.failed then .next (consumeLost n.val c s1)
    else if r.chunks.all (fun k => k.data.isSome) then
      let bad := (List.range c).filter ecc.bad.contains
      .next (consumeAll n.val bad (cut64 (r.chunks.flatMap fun k => k.data.getD []) c) 0
        (eccUncorrected (8 * c) bad.length (eccCorrected ecc.corrected s1)))
    else .next s

/-- A descriptor that dispatch must wait for (R111 R112). -/
def blocks (d e : Desc) : Bool :=
  decide (e.sq = d.sq) && decide (e.id < d.id) &&
    (e.phase != .running || (le d.bytes 1 1).testBit 0
      || (decide (le d.bytes 0 1 = 0x11) && [0x10, 0x12, 0x13].contains (le e.bytes 0 1)))

/-- DISPATCH (R111 R112 R131 R539 R602): the operation begins; its host read waits for DMA if need be. While Chrysalis
runs, only five opcodes are executed. -/
def execDispatch (id : Nat) (s : State) : Out := ifRuns s .ring <|
  match descOf s id with
  | none => .next s
  | some d =>
    when_ (decide (d.phase = .queued) && !s.rings.inflight.any (blocks d))
      (fun s =>
        let s := updDesc id (fun d => { d with phase := .running }) s
        if !s.nvm.running && !([0x01, 0x58, 0x59, 0x5A, 0x60].contains (le d.bytes 0 1)) then complete id stBUSY [] s
        else match descReads d.bytes with
        | none => s
        | some r => startRead (.desc id) [r] s) s

/-- COMPLETION_POST (R124). -/
def execCompletionPost (s : State) : Out := ifRuns s .ring <| .next (postDone s)

/-- EVENT_POST (R128 R129). -/
def execEventPost (s : State) : Out := ifRuns s .ring <| .next (eventTurn s)

/-- HOST_SILENT (R134): the condition of R24 holds and `HOST_SILENT` is raised. -/
def execHostSilent (s : State) : Out := ifRuns s .ring <|
  .next (condOn 472 { s with rings := { s.rings with silence := true } })

/-- NOP (R116): completes `OK`. -/
def execNop (id : Nat) (s : State) : Out := runOp s id 0x01 fun _ => complete id stOK [] s

end Sys2Proof.Machine
end

