-- ==== Sys2Proof/Machine/Thermal.lean ====
section
/-! DEFINITION. Thermal management: measurements, throttling, freezes, write inhibit and shutdown (12). -/

namespace Sys2Proof.Machine

/-- The live registers of the tiles that a demand names are read (R419). -/
def readTiles (mask : Nat) : Nat → State → State
  | 0, s => s
  | n + 1, s =>
    let s := readTiles mask n s
    if mask.testBit (12 + n) && !sensorDisabled s (12 + n) then emit (.tileBusRead n 0x5A 4 2) s else s

/-- A demand joins those that wait (R419). -/
def demand (mask : Nat) (id : Option Nat) (s : State) : State :=
  readTiles mask 8 (onTherm (fun t => { t with demands := t.demands ++ [{ mask, id }] }) s)

/-- THERMAL_DEMAND (R419): trigger channel 8, every enabled sensor. -/
def execThermalDemand (s : State) : Out := ifRuns s .mp <| when_ s.nvm.running (demand (2 ^ 22 - 1) none) s

/-- THERM_MEASURE (R419 R421): the sensors named, or all for 0. -/
def execThermMeasure (id : Nat) (s : State) : Out :=
  runOp s id 0x41 fun d =>
    let m := le d.bytes 16 4
    demand (if m = 0 then 2 ^ 22 - 1 else m) (some id) (updDesc id (fun d => { d with taken := true }) s)

/-- SENSOR_READING (R419 to R428 R407 to R409 R415): the readings of the oldest demand are judged. -/
def execSensorReading (readings : List SensorSeen) (s : State) : Out := ifRuns s .mp <|
  match s.therm.demands with
  | [] => .next s
  | d :: r =>
    if !s.nvm.running then .next s
    else
      let s := onTherm (fun t => { t with demands := r }) s
      let all := (List.range 22).filter fun i => d.mask.testBit i && !sensorDisabled s i
      let x := convertAll readings all s
      let s := measure x.1 x.2
      let s := match d.id with | some id => endMeasure id x.1 s | none => s
      let s := if all.any fun i => decide (i < 4) then calMeasured s else s
      .next (if s.cal.owed && !s.power.inhibit then writeLearned s else s)

/-- THROTTLE_RELEASE (R424 R427): one level down, unless a member at or above `T_ARM` still rises or the floor is reached. -/
def execThrottleRelease (domain : Fin 9) (s : State) : Out := ifRuns s .mp <|
  let d := domainOf s domain.val
  let calm := (members s domain.val).all fun i =>
    let x := sensorOf s i
    !x.valid || decide (x.reading < x.tArm) || (x.rateOk && decide (x.rate ≤ 0))
  when_ (s.nvm.running && decide (floorOf d < d.level) && calm)
    (fun s => thermEvent 2 (some domain.val) none (putDomain s domain.val { d with level := d.level - 1 })) s

/-- The freezes of the domains of a mask end (R429). -/
def unfreezeAll (m : Nat) : Nat → State → State
  | 0, s => s
  | d + 1, s => let s := unfreezeAll m d s; if m.testBit d then putDomain s d { domainOf s d with frozen := [] } else s

/-- UNFREEZE (R429 R448): ends the floor only. -/
def execUnfreeze (level0 : Bool) (value : BitVec 32) (s : State) : Out :=
  when_ (barOpen s && level0) (unfreezeAll value.toNat 9) s

/-- The management processor posts the event of the inhibit comparator (R430 R432); in chip reset there is none to post it. -/
def inhibitEvent (kind : Nat) (s : State) : State := if runs .mp s then thermEvent kind none none s else s

/-- NVM_INHIBIT_TRIP (R432 R449). -/
def execNvmInhibitTrip (s : State) : Out :=
  when_ (!s.power.inhibit)
    (fun s =>
      let s := inhibitQueue { s with power := { s.power with inhibit := true, inhibitSeen := true } }
      inhibitEvent 6 (raise 219 s)) s

/-- NVM_INHIBIT_RELEASE (R432). -/
def execNvmInhibitRelease (s : State) : Out :=
  when_ s.power.inhibit
    (fun s => inhibitEvent 7 (raise 219 { s with power := { s.power with inhibit := false } })) s

/-- THERMAL_SHUTDOWN (R50 R433 R434): the light and every `TENn` go off, the record in progress completes, the shutdown record
follows, no other; its marker ends in the reset. -/
def execThermalShutdown (s : State) : Out :=
  when_ (!s.power.thermLatch)
    (fun s =>
      let b := shutdownBytes s
      let s := onNvm (fun n => { n with queue := n.queue.take (begun s) ++ [{ page := 0, bytes := b, why := .shutdown }] }) s
      tensOff 8 (lightOff { s with power := { s.power with thermLatch := true } })) s

end Sys2Proof.Machine
end

