-- ==== Sys2Proof/Machine/RegWrite.lean ====
section
/-! DEFINITION. What a write of a BAR0 register does, window by window, by the access codes of R5 and the level-0 aperture of
R80 (18 and the register chapters). In every function `l` says that the write comes from level 0. -/

namespace Sys2Proof.Machine

/-- A field that a level-0 write sets where a condition on its value holds (R5). -/
def rw0 (l : Bool) (ok : Bool) (old new : Nat) : Nat := if l && ok then new else old

/-- A flag that a level-0 write sets (R5). -/
def rw0b (l : Bool) (old new : Bool) : Bool := if l then new else old

/-- A value lies in a range. -/
def within (lo hi v : Nat) : Bool := decide (lo ≤ v) && decide (v ≤ hi)

/-- PWR (R62 R64 R65 R66). -/
def writePwr (l : Bool) (o v : Nat) (s : State) : Out :=
  let p := s.power
  match o with
  | 0x04 => .next { s with power := { p with
      sagDwell := rw0 l true p.sagDwell (bits v 16 5)
      vsagSave := rw0 l (within 0 6 (bits v 8 3)) p.vsagSave (bits v 8 3)
      vsagSlow := rw0 l (within 0 98 (bits v 0 7)) p.vsagSlow (bits v 0 7) } }
  | 0x0C => .next { s with power := { p with causes := w1c 7 p.causes v, rstStuck := p.rstStuck && !v.testBit 8 } }
  | 0x10 => execSwrstKey l (BitVec.ofNat 32 v) s
  | 0x14 => .next { s with power := { p with shedEn := rw0b l p.shedEn (v.testBit 0) } }
  | _ => .next s

/-- Change the shadow of the protection table (R84). -/
def onShadow (f : ProtTable → ProtTable) (s : State) : State := { s with prot := { s.prot with shadow := f s.prot.shadow } }

/-- A word of one SQ block (R95 R130 R131): `BASE` is fixed while the ring is enabled. -/
def writeSq (l : Bool) (n : Fin 32) (r v : Nat) (s : State) : Out :=
  let q := sqOf s n.val
  match r with
  | 0x00 => .next (if l && q.state != .running then putSq s n.val { q with base := setBits q.base 12 20 (bits v 12 20) } else s)
  | 0x04 => .next (if l && q.state != .running then putSq s n.val { q with base := setBits q.base 32 32 v } else s)
  | 0x08 => if v.testBit 0 then execSqEnable n l (BitVec.ofNat 32 v) s else execSqDrain n l (BitVec.ofNat 32 v) s
  | 0x0C => .next (if l then onShadow (fun t => { t with own := Tab.put t.own n.val (setBits (Tab.get 0 t.own n.val) 0 32 v) }) s else s)
  | 0x10 => .next (if l then
      onShadow (fun t => { t with own := Tab.put t.own n.val (setBits (Tab.get 0 t.own n.val) 32 31 (bits v 0 31)) }) s else s)
  | _ => .next s

/-- A word of one CQ block (R96 R123 R127 R133). -/
def writeCq (l : Bool) (n : Fin 32) (r v : Nat) (s : State) : Out :=
  let c := cqOf s n.val
  match r with
  | 0x00 => .next (if l && !c.enable then putCq s n.val { c with base := setBits c.base 12 20 (bits v 12 20) } else s)
  | 0x04 => .next (if l && !c.enable then putCq s n.val { c with base := setBits c.base 32 32 v } else s)
  | 0x08 => if v.testBit 0 then execCqEnable n l (BitVec.ofNat 32 v) s else execCqDisable n l (BitVec.ofNat 32 v) s
  | _ => .next s

/-- A DMA window of the shadow with one of its words written (R97). -/
def winWord (r v : Nat) (w : Win) : Win :=
  match r with
  | 0x00 => { w with base := setBits w.base 12 20 (bits v 12 20) }
  | 0x04 => { w with base := setBits w.base 32 32 v }
  | 0x08 => { w with pages := v }
  | 0x0C => { w with attr := v &&& 0x800000FF }
  | _ => w

/-- HIF (R95 to R101, R137 to R139). -/
def writeHif (l : Bool) (o v : Nat) (s : State) : Out :=
  if 0x100 ≤ o ∧ o < 0x500 then writeSq l (Fin.ofNat 32 ((o - 0x100) / 32)) (o % 32) v s
  else if 0x600 ≤ o ∧ o < 0x800 then writeCq l (Fin.ofNat 32 ((o - 0x600) / 16)) (o % 16) v s
  else if 0x800 ≤ o ∧ o < 0x900 then
    let k := (o - 0x800) / 16
    .next (if l then onShadow (fun t => { t with win := Tab.put t.win k (winWord (o % 16) v (Tab.get {} t.win k)) }) s else s)
  else if 0x900 ≤ o ∧ o < 0x940 then
    let i := (o - 0x900) / 4
    .next (if l then onShadow (fun t => { t with opc := Tab.put t.opc i (v &&& opcAllowed (i / 4) (i % 4)) }) s else s)
  else match o with
  | 0x940 => execApply l (BitVec.ofNat 32 v) s
  | 0x948 => .next { s with link := { s.link with lateCpl := w1c 32 s.link.lateCpl v } }
  | 0x94C => .next { s with rings := { s.rings with evtLost := w1c 32 s.rings.evtLost v } }
  | 0x950 => .next { s with rings := { s.rings with silent := rw0 l (within 10 6000 (bits v 0 16)) s.rings.silent (bits v 0 16) } }
  | 0x954 => .next (if v.testBit 31 then { s with rings := { s.rings with dbErr := { s.rings.dbErr with valid := false } } } else s)
  | _ => .next s

/-- CMP (R144 R178 R179 R180 R184 R185): a new tile map goes to the flip gate. -/
def writeCmp (l : Bool) (o v : Nat) (s : State) : Out :=
  let c := s.cmp
  match o with
  | 0x3F00 => .next { s with cmp := { c with
      guardUnit := rw0 l true c.guardUnit (bits v 8 2)
      fetchTmo := rw0 l (within 1 15 (bits v 4 4)) c.fetchTmo (bits v 4 4)
      fenceTmo := rw0 l (within 1 15 (bits v 0 4)) c.fenceTmo (bits v 0 4) } }
  | 0x3F04 => .next { s with cmp := { c with pollUs := rw0 l (within 10 10000 (bits v 0 16)) c.pollUs (bits v 0 16) } }
  | 0x3F08 => .next (if l then { s with cmp := { c with tileMap := v, gate := c.gate ++ [(true, .tileMap v)] } } else s)
  | 0x3F1C => .next { s with cmp := { c with stallCount := w1c 32 c.stallCount v } }
  | 0x3F20 => .next (if v.testBit 31 then { s with cmp := { c with guardErr := { c.guardErr with valid := false } } } else s)
  | _ => .next s

/-- FRM (R210 R211). -/
def writeFrm (o v : Nat) (s : State) : Out :=
  let f := s.frm
  match o with
  | 0x1C => .next { s with frm := { f with cntOverrun := w1c 16 f.cntOverrun v, cntExtended := w1c 16 f.cntExtended (bits v 16 16) } }
  | 0x20 => .next { s with frm := { f with cntLate := w1c 16 f.cntLate v, cntBridge := w1c 16 f.cntBridge (bits v 16 16) } }
  | _ => .next s

/-- FRD (R245 R248 R249, R322 R325 R327). -/
def writeFrd (l : Bool) (f r v : Nat) (s : State) : Out :=
  let x := frondOf s f
  match r with
  | 0x000 => .next (if l then putFrond s f { x with
      shortEn := v.testBit 8, srtDly := if bits v 0 3 = 7 then x.srtDly else bits v 0 3 } else s)
  | 0x00C => .next (if v.testBit 31 then putFrond s f { x with rbValid := false } else s)
  | 0x010 => .next (putFrond s f { x with rbCnt := w1c 32 x.rbCnt v })
  | 0x014 => .next (putFrond s f { x with nakCnt := w1c 32 x.nakCnt v })
  | 0x400 => .next (if l then writeDiagCfg v s else s)
  | 0x418 => .next (putFrond s f { x with probes := w1c 16 x.probes v, cancelled := w1c 16 x.cancelled (bits v 16 16) })
  | 0x424 => .next (putFrond s f { x with hbMiss := w1c 32 x.hbMiss v })
  | 0x428 => .next (putFrond s f { x with staleCnt := w1c 32 x.staleCnt v })
  | _ => .next s

/-- STR (R258). -/
def writeStr (o v : Nat) (s : State) : Out :=
  .next (if o = 0x3010 ∧ v.testBit 31 then { s with strip := { s.strip with shortValid := false } } else s)

/-- TIL (R292). -/
def writeTil (n r v : Nat) (s : State) : Out :=
  .next (if r = 0x0C then updTile n (fun t => { t with cause := w1c 8 t.cause v, busErr := w1c 16 t.busErr (bits v 16 16) }) s else s)

/-- LDG (R296 R297 R299). -/
def writeLdg (l : Bool) (o v : Nat) (s : State) : Out :=
  match o with
  | 0x00 => .next (if l then writeLdgCtrl v s else s)
  | 0x04 => .next (onTiles (fun k => { k with
      failed := w1c 8 k.failed v, saveApplied := k.saveApplied && !v.testBit 16, savePoison := k.savePoison && !v.testBit 17 }) s)
  | 0x50 => .next (onTiles (fun k => { k with discard := w1c 32 k.discard v }) s)
  | _ => .next s

/-- SAF (R363 R365 R366 R367 R369). -/
def writeSaf (l : Bool) (o v : Nat) (s : State) : Out :=
  match o with
  | 0x04 => execSafeLock l (BitVec.ofNat 32 v) s
  | 0x14 => .next (onSaf (fun f => { f with errValid := f.errValid && !v.testBit 31 }) s)
  | 0x18 => .next (onSaf (fun f => { f with tpFailed := w1c 16 f.tpFailed v, tpDiscarded := w1c 16 f.tpDiscarded (bits v 16 16) }) s)
  | 0x1C => .next (onSaf (fun f => { f with cntHatch := w1c 16 f.cntHatch v, cntEstop := w1c 16 f.cntEstop (bits v 16 16) }) s)
  | 0x24 => .next (onSaf (fun f => { f with tripValid := f.tripValid && !v.testBit 31 }) s)
  | _ => .next s

/-- A slot with `FLTs_CFG` written (R391). -/
def slotCfg (v : Nat) (x : Slot) : Slot :=
  { x with
    cls := bits v 24 2
    n := if bits v 16 8 = 0 then x.n else bits v 16 8
    wMs := if within 1 60000 (bits v 0 16) then bits v 0 16 else x.wMs }

/-- `FLTs_CFG` of a slot is open to a level-0 write: `SAFE_LOCK` is clear and the class is not fixed (R391). -/
def slotOpen (s : State) (n : Nat) : Bool := !s.safety.safeLock && !(match slotInfo n with | some i => i.2 | none => false)

/-- FLT (R371 R391 R393 R394 R397 R400). -/
def writeFlt (l : Bool) (o v : Nat) (s : State) : Out :=
  if o < 0x2000 then
    let n := o / 16
    let x := slotOf s n
    if (slotInfo n).isNone then .next s
    else match o % 16 with
    | 0x0 => .next (if l && slotOpen s n then putSlot s n (slotCfg v x) else s)
    | 0x8 => .next (putSlot s n { x with events := w1c 16 x.events v, promotions := w1c 16 x.promotions (bits v 16 16) })
    | _ => .next s
  else match o with
  | 0x2000 => execRearm (BitVec.ofNat 32 v) s
  | 0x2050 => .next (onFlt (fun f => { f with lost := w1c 16 f.lost (bits v 16 16) }) s)
  | 0x205C => .next (onFlt (fun f => { f with wireValid := f.wireValid && !v.testBit 31 }) s)
  | 0x2060 => .next (onFlt (fun f => { f with eccUncorr := w1c 16 f.eccUncorr v, eccCorr := w1c 16 f.eccCorr (bits v 16 16) }) s)
  | _ => .next s

/-- CAL (R436 R439). -/
def writeCal (l : Bool) (o v : Nat) (s : State) : Out :=
  let c := s.cal
  match o with
  | 0x00 => .next { s with cal := { c with
      autoEn := rw0b l c.autoEn (v.testBit 0), calDt := rw0 l (within 2 31 (bits v 8 5)) c.calDt (bits v 8 5) } }
  | 0x0C => .next { s with cal := { c with ranges := w1c 16 c.ranges v, runs := w1c 16 c.runs (bits v 16 16) } }
  | _ => .next s

/-- THM (R445 R446 R448 R449). -/
def writeThm (l : Bool) (o v : Nat) (s : State) : Out :=
  if 0x100 ≤ o ∧ o < 0x158 then
    .next (if l then updSensor ((o - 0x100) / 4) (fun x => { x with riseLim := bits v 16 16, tArm := signed 16 v }) s else s)
  else match o with
  | 0x200 => .next (onTherm (fun t => { t with
      relS := rw0 l (within 1 255 (bits v 16 8)) t.relS (bits v 16 8)
      ntc1Dom := rw0 l (within 0 10 (bits v 12 4)) t.ntc1Dom (bits v 12 4)
      ntc0Dom := rw0 l (within 0 10 (bits v 8 4)) t.ntc0Dom (bits v 8 4) }) s)
  | 0x210 => execUnfreeze l (BitVec.ofNat 32 v) s
  | 0x214 => .next { s with power := { s.power with inhibitSeen := s.power.inhibitSeen && !v.testBit 1 } }
  | _ => .next s

/-- The sum of the reservations over both ports with `ADV` of priority k of port p at a value (R474). -/
def advSum (s : State) (p k v : Nat) : Nat :=
  ((List.range 2).map fun q => ((List.range 8).map fun j => if q = p ∧ j = k then v else (credOf s q j).adv).sum).sum

/-- A value of `ADV` that a write may give (R474 R500). -/
def advOk (s : State) (p k v : Nat) : Bool := (decide (v = 0) || within 33 1024 v) && decide (advSum s p k v ≤ 12288)

/-- A word of one port block of CHN (R497 R500 R501). -/
def writePort (l : Bool) (p : Fin 2) (r v : Nat) (s : State) : Out :=
  let x := portOf s p.val
  if 0x10 ≤ r ∧ r < 0x30 then
    let k := (r - 0x10) / 4
    let a := bits v 0 11
    .next (if l && advOk s p.val k a then putCred s p.val k { credOf s p.val k with adv := a } else s)
  else match r with
  | 0x00 =>
    let w := BitVec.ofNat 32 v
    if v.testBit 16 then execRetrain p l w s else if v.testBit 0 then execPortEnable p l w s else execPortDisable p l w s
  | 0x30 => .next (putPort s p.val { x with fcsErr := w1c 16 x.fcsErr v, blockErr := w1c 16 x.blockErr (bits v 16 16) })
  | 0x34 => .next (putPort s p.val { x with rxFrames := w1c 32 x.rxFrames v })
  | 0x38 => .next (putPort s p.val { x with txFrames := w1c 32 x.txFrames v })
  | 0x3C => .next (putPort s p.val { x with discard := w1c 16 x.discard v, cutCnt := w1c 16 x.cutCnt (bits v 16 16) })
  | _ => .next s

/-- CHN (R488 to R495). -/
def writeChn (l : Bool) (o v : Nat) (s : State) : Out :=
  let c := s.chain
  if 0x1000 ≤ o ∧ o < 0x1800 then writePort l (Fin.ofNat 2 ((o - 0x1000) / 0x400)) (o % 0x400) v s
  else if 0x20 ≤ o ∧ o < 0x40 then
    let k := (o - 0x20) / 8
    let m := Tab.get (0, false) c.mcast k
    let m' := if o % 8 = 0 then (setBits m.1 0 32 v, m.2) else (setBits m.1 32 16 v, v.testBit 31)
    .next (if l then onChain (fun c => { c with mcast := Tab.put c.mcast k m' }) s else s)
  else if 0x40 ≤ o ∧ o < 0x60 then
    let h := fun (x : Nat) => if o % 8 = 0 then setBits x 0 32 v else setBits x 32 32 v
    .next (if l then onChain (fun c => { c with heads := c.heads.mapIdx fun i x => if i = (o - 0x40) / 8 then h x else x }) s else s)
  else if 0x80 ≤ o ∧ o < 0xA0 then
    let r := (o - 0x80) / 4
    let x := rxqOf s r
    .next (putRxq s r { x with
      drops := w1c 16 x.drops (bits v 16 16)
      en := rw0b l x.en (v.testBit 15), limit := rw0 l (within 0 4096 (bits v 0 13)) x.limit (bits v 0 13) })
  else match o with
  | 0x00 => .next (onChain (fun c => { c with
      helloS := rw0 l (within 1 60 (bits v 16 8)) c.helloS (bits v 16 8)
      ptpToHost := rw0b l c.ptpToHost (v.testBit 5), svcToHost := rw0b l c.svcToHost (v.testBit 4)
      defPrio := rw0 l true c.defPrio (bits v 0 3) }) s)
  | 0x04 => .next (if l && !v.testBit 0 then onChain (fun c => { c with mac := setBits c.mac 0 32 v }) s else s)
  | 0x08 => .next (if l then onChain (fun c => { c with mac := setBits c.mac 32 16 v }) s else s)
  | 0x0C => .next (onChain (fun c => { c with staleUs := rw0 l (within 10 10000000 (bits v 0 24)) c.staleUs (bits v 0 24) }) s)
  | 0x14 => .next (onChain (fun c => { c with auditValid := c.auditValid && !v.testBit 31 }) s)
  | 0x18 => .next (onChain (fun c => { c with svcRelayed := w1c 16 c.svcRelayed v, svcBad := w1c 16 c.svcBad (bits v 16 16) }) s)
  | _ => .next s

/-- TIM (R522 R525 R526 R527). -/
def writeTim (l : Bool) (o v : Nat) (s : State) : Out :=
  match o with
  | 0x00 => .next (if l then onTim (fun t => { t with
      slew := if bits v 16 8 = 0 then t.slew else bits v 16 8
      revertS := bits v 8 8, hostTs := bits v 5 2, autoSw := v.testBit 4, prefer := bits v 3 1 }) s else s)
  | 0x20 => execDomainEnWrite 0 l (BitVec.ofNat 32 v) s
  | 0x30 => execDomainEnWrite 1 l (BitVec.ofNat 32 v) s
  | 0x40 => .next (if l then onTim (fun t => { t with lat := Tab.put t.lat 0 (signed 16 (bits v 16 16), signed 16 v) }) s else s)
  | 0x48 => .next (if l then onTim (fun t => { t with lat := Tab.put t.lat 1 (signed 16 (bits v 16 16), signed 16 v) }) s else s)
  | 0x60 => .next (onTim (fun t => { t with steps := w1c 16 t.steps v, switches := w1c 16 t.switches (bits v 16 16) }) s)
  | 0x64 => .next (onTim (fun t => { t with skipped := w1c 32 t.skipped v }) s)
  | 0x68 => .next (onTim (fun t => { t with tevMiss := w1c 32 t.tevMiss v }) s)
  | _ => .next s

/-- NVM (R553 R554). -/
def writeNvm (l : Bool) (o v : Nat) (s : State) : Out :=
  match o with
  | 0x0C => .next (onXfer (fun x => { x with bad := w1c 4 x.bad (bits v 28 4) }) s)
  | 0x10 => .next (onNvm (fun n => { n with
      svcBaud := rw0 l (within 0 4 (bits v 1 3)) n.svcBaud (bits v 1 3), chainEn := rw0b l n.chainEn (v.testBit 0) }) s)
  | _ => .next s

/-- CRC (R555): `RUN` is writable while the unit is idle. -/
def writeCrc (l : Bool) (o v : Nat) (s : State) : Out :=
  let u := o / 16
  .next (if o < 0x40 ∧ o % 16 = 4 ∧ l ∧ gcuUser s u = 0 then putGcu s u { gcuOf s u with run := v } else s)

/-- A write of a 32-bit register, by its offset within a half of BAR0 (R80 R594): an offset that the index does not name, and a
field that is read only, are left unchanged. -/
def writeReg (l : Bool) (o v : Nat) (s : State) : Out :=
  if o < 0x4000 then .next s
  else if o < 0x8000 then writeHif l (o - 0x4000) v s
  else if o < 0x10000 then .next s
  else if o < 0x18000 then writeCmp l (o - 0x10000) v s
  else if o < 0x20000 then writeFrm (o - 0x18000) v s
  else if o < 0x29000 then writeFrd l ((o - 0x20000) / 0x1000) (o % 0x1000) v s
  else if o < 0x30000 then .next s
  else if o < 0x34000 then writeStr (o - 0x30000) v s
  else if o < 0x36000 then writeTil ((o - 0x34000) / 0x400) (o % 0x400) v s
  else if o < 0x38000 then .next s
  else if o < 0x40000 then writeLdg l (o - 0x38000) v s
  else if o < 0x44000 then writeSaf l (o - 0x40000) v s
  else if o < 0x48000 then writeFlt l (o - 0x44000) v s
  else if o < 0x4C000 then writeCal l (o - 0x48000) v s
  else if o < 0x50000 then writeThm l (o - 0x4C000) v s
  else if o < 0x58000 then writeChn l (o - 0x50000) v s
  else if o < 0x60000 then writeTim l (o - 0x58000) v s
  else if o < 0x68000 then writeNvm l (o - 0x60000) v s
  else if o < 0x70000 then writeCrc l (o - 0x68000) v s
  else if o < 0x74000 then writePwr l (o - 0x70000) v s
  else .next s

/-- One 32-bit access (R80 R593): ignored unless its byte enables cover the word; one through the upper half comes from level 0. -/
def writeWord (off : Nat) (value : BitVec 32) (enables : BitVec 4) (s : State) : Out :=
  if enables = 15 then writeReg (decide (0x80000 ≤ off)) (off % 0x80000) value.toNat s else .next s

/-- REGISTER_WRITE (R5 R80 R593 R594 R601): an aligned write to BAR0 of 32 bits, or of 64 as two accesses, the lower offset first.
-/
def execRegisterWrite (off : Nat) (value : BitVec 32) (s : State) (enables : BitVec 4 := 15)
    (high : Option (BitVec 32 × BitVec 4) := none) : Out :=
  ifRuns s .host <|
  if barOpen s && decide (off % (if high.isSome then 8 else 4) = 0) && decide (off < 0x100000) then
    match writeWord off value enables s, high with
    | .next t, some (v, e) => writeWord (off + 4) v e t
    | o, _ => o
  else .next s

end Sys2Proof.Machine
end

