-- ==== Sys2Proof/Machine/Strip.lean ====
section
/-! DEFINITION. Strip drive: the shift, the readback, the latch, the slices, `STRIP_SET`; pixel diagnosis rides on them (07, 09). -/

namespace Sys2Proof.Machine

/-- The inputs of a shift of tile n at this boundary, without diagnosis (R215). -/
def shiftInputs (s : State) (n : Nat) : ShiftRec :=
  let t := tileOf s n
  { tile := n, seq := unsigned 16 s.frm.num, lmoss := tileLmoss s n, frame := s.cmp.front
    place := bits s.cmp.tileMapEff (4 * n) 4, gains := t.gains, map := t.map, s := s.strip.scale
    lm := lmLevel s, kt := (match t.header with | some h => h.kT | none => 0), egLimit := egLimit s
    strips := (List.range 24).map fun k => ((stripOf s (24 * n + k)).en, irefOf s (24 * n + k))
    diag := false, diagWin := t.diag.win, probes := [], repay := [] }

/-- Force-gate inputs of a shift (R200 R220). -/
def forceOf (x : ShiftRec) : Bool × Nat × Nat × Nat × Nat := (x.lmoss, x.s, x.lm, x.egLimit, x.tile)

/-- Frond f shifts at this boundary (R200). -/
def shiftDue (s : State) (f n : Nat) (x : ShiftRec) : Bool :=
  let fr := frondOf s f
  s.frm.swapped || fr.item || decide (s.frm.keepalive ≤ fr.since) || decide (fr.lastForce ≠ some (forceOf x))
    || (tileOf s n).diag.changed

/-- The diagnosis of one shift (R304 R305 R309 R311 R312): flags, probes and repayments. -/
def planShift (s : State) (t : Tile) (x : ShiftRec) : ShiftRec × Diag × Nat × Bool :=
  let g := t.diag
  let withheld := nextSliceZeroSkipped t
  let diag := g.diagDue && !withheld
  let x := { x with diag }
  let paid := g.repay.map fun e => (e.1, e.2, min (dutyBase x (e.1 / 384) (e.1 % 384)) e.2)
  let x := { x with repay := paid.map fun e => (e.1, e.2.2) }
  let left := (paid.filter fun e => decide (e.2.2 < e.2.1)).map fun e => (e.1, e.2.1 - e.2.2)
  let ps := if s.cal.diagCfg.1 && !withheld then chooseProbes x g 24 else []
  let x := { x with probes := ps.map fun p => (p.1, { row := p.2.1 % 16, col := p.2.2.1, win := x.diagWin }) }
  let new := (ps.filter fun p => decide (0 < p.2.2.2)).map fun p => (384 * p.2.1 + p.2.2.1, p.2.2.2)
  let repay := new.foldl (fun t e => Tab.put t e.1 e.2) left
  let fullNow := maskOf (fun i => decide (8 ≤ (repay.filter fun e => e.1 / 384 / 16 == i).length)) 24
  let g := { g with
    repay, changed := !new.isEmpty || paid.any fun e => decide (e.2.2 ≠ 0)
    ptr := ps.foldl (fun p e => Tab.put p e.1 ((cellIndex e.2.1 e.2.2.1 + 1) % 6144)) g.ptr
    full := fullNow, diagDue := g.diagDue && !diag, count := if diag then 0 else g.count }
  (x, g, ps.length, decide (t.diag.full ||| fullNow ≠ t.diag.full))

/-- Words of the front store read with an uncorrectable error: word w holds the pixels 4 w to 4 w + 3 of the canvas in row order,
and what they read as is open (R11). -/
def loseWords : List Nat → FrameRec → State → FrameRec × State
  | [], fr, s => (fr, s)
  | w :: r, fr, s =>
    let x := freshFree s
    loseWords r { fr with lost := (List.range 4).foldl (fun t k => Tab.put t (4 * w + k) (bits x.1.toNat (16 * k) 16)) fr.lost } x.2

/-- SHIFT (R200 R214 R215 R305 R309 R312): the Frond waits for the boundary's S, takes its decision and, if it shifts, computes its
streams. -/
def execShift (f : Fin 9) (s : State) (ecc : EccSeen := {}) : Out := ifRuns s .frond <|
  match servedBy s f.val with
  | none => .next s
  | some n =>
    let fr := frondOf s f.val
    let t := tileOf s n
    if !fr.decide || fr.shifting.isSome || s.frm.flipPending then .next s
    else
      let s := putFrond s f.val { fr with decide := false, item := false }
      let x := shiftInputs s n
      if !t.enabled || !shiftDue (putFrond s f.val fr) f.val n x then .next s
      else
        let s := eccUncorrected 36864 ecc.bad.length (eccCorrected ecc.corrected s)
        let y := loseWords ecc.bad x.frame s
        let x := { x with frame := y.1 }
        let s := if x.lmoss then cancelRepay n y.2 else y.2
        let p := planShift s (tileOf s n) x
        let x := p.1
        let ws := (List.range 95).flatMap fun i => (List.range 95).map fun j => clampWindow x i j
        let low := (ws.filter fun w => decide (w < 32768)).length
        let s := putTile s n { tileOf s n with diag := p.2.1 }
        let s := putFrond s f.val { frondOf s f.val with
          decide := false, item := false, shifting := some x, seqSent := x.seq, lmoss := x.lmoss
          clamping := decide (0 < low), windows := low, fMin := ws.foldl min 32768
          since := 0, shiftedNow := true, lastForce := some (forceOf x)
          probes := satAdd 65535 (frondOf s f.val).probes p.2.2.1 }
        let s := if 0 < low then raise 460 s else s
        .next (if p.2.2.2 then raise 212 s else s)

/-- The readback of local strip i ends (R234 R235): the check is compared with that of the streams sent; an injected
comparison inverts the expected value (R385). -/
def readback (f n i : Nat) (x : ShiftRec) (r : StripRet) (s : State) : State :=
  let k := 24 * n + i
  let st := stripOf s k
  let crc := streamCheck r.header.toNat (fitCells r.cells)
  let inj := if st.held then takeInj k 2 s else (false, s)
  let s := inj.2
  let bad := st.held && decide (crc ≠ if inj.1 then st.crcSent ^^^ 0xFFFFFFFF else st.crcSent)
  let hdr := bits r.header.toNat 32 32
  let s := putStrip s k { st with
    crcRet := crc, retHdr := hdr, held := true, crcSent := streamCheck (headerOf x i) (cellsOf x i) }
  if bad then
    let fr := frondOf s f
    let fr := { fr with rbCnt := satAdd (2 ^ 32 - 1) fr.rbCnt 1 }
    raiseInj k inj.1 (putFrond s f (if fr.rbValid then fr else
      { fr with rbValid := true, rbLocal := i, rbStrip := bits r.header.toNat 56 8, rbSeq := bits r.header.toNat 40 16 }))
  else s

/-- The readback of every strip of a tile. -/
def readbacks (f n : Nat) (x : ShiftRec) (rets : List StripRet) : Nat → State → State
  | 0, s => s
  | i + 1, s => readback f n i x (rets.getD i { header := 0, cells := [], check := 0 }) (readbacks f n x rets i s)

/-- SHIFT_END (R234 R306 R307): checks are compared, verdicts applied; an open chain returns zeros. -/
def execShiftEnd (f : Fin 9) (rets : List StripRet) (s : State) : Out := ifRuns s .frond <|
  match servedBy s f.val, (frondOf s f.val).shifting with
  | some n, some x =>
    let s := readbacks f.val n x rets 24 s
    let t := tileOf s n
    let y := applyVerdicts rets t.diag
    let s := putTile s n { t with sent := some x, diag := y.1 }
    let s := putFrond s f.val { frondOf s f.val with shifting := none }
    .next (if y.2 then raise (192 + n) s else s)
  | _, _ => .next s

/-- Record a pin short or a stuck pin (R243 R244 R258). -/
def pinShort (kind : Bool) (a b : Nat) (s : State) : State :=
  raise 456 (if s.strip.shortValid then s
    else { s with strip := { s.strip with shortValid := true, shortKind := kind, shortA := a, shortB := b } })

/-- The pins of a Frond's tile that read wrong in both patterns: with a wrong index neighbour a short, that of the tile before
being the other Frond's to record; alone a stuck pin (R243). -/
def pinShorts (bad : List Nat) : List Nat → State → State
  | [], s => s
  | p :: r, s =>
    let s' :=
      if bad.contains (p + 1) then pinShort false p (p + 1) s
      else if p ≠ 0 ∧ bad.contains (p - 1) then s
      else pinShort false p p s
    pinShorts bad r s'

/-- The `SREF` step test of channel p, one in each latch gap (R244). -/
def srefTest (n : Nat) (moved : List Nat) (s : State) : State :=
  let p := s.strip.srefP
  if p / 24 ≠ n ∨ s.strip.srefDone then s
  else if calibrating s p || calibrating s (p + 1) || (decide (p ≠ 0) && calibrating s (p - 1)) then s
  else
    let s1 := { s with strip := { s.strip with srefP := (p + 1) % 192, srefDone := true } }
    let s1 := if p ≠ 0 ∧ moved.contains (p - 1) then pinShort true (p - 1) p s1 else s1
    if p + 1 < 192 ∧ moved.contains (p + 1) then pinShort true p (p + 1) s1 else s1

/-- The strips of tile n that do not refuse it latch the stream sent; a refusal keeps what a strip holds (R230 R231 R303 R306). -/
def latchTile (f n : Nat) (refused : List Nat) (x : ShiftRec) (s : State) : State :=
  let t := tileOf s n
  let nak := !refused.isEmpty
  let took := (List.range 24).filter fun i => !refused.contains i
  let g := { t.diag with prev := t.diag.last, last := some { seq := x.seq, diag := x.diag, probes := x.probes, nak } }
  let g := if nak then { undoProbes x.probes g with diagDue := g.diagDue || x.diag } else g
  let s := emit (.tlat n x.seq) (putTile s n { t with
    sent := none, diag := g, latched := took.foldl (fun l i => Tab.put l i x) t.latched
    latchedNow := t.latchedNow ||| maskOf (fun i => took.contains i) 24 })
  if nak then
    let fr := frondOf s f
    raise 457 (putFrond s f { fr with nakCnt := satAdd (2 ^ 32 - 1) fr.nakCnt 1 })
  else s

/-- The sinks of a tile take the settings whose analog step passes at the next boundary (R232 R240). -/
def applyAnalog (n : Nat) : Nat → State → State
  | 0, s => { s with strip := { s.strip with aGlobalIref := s.strip.globalIref } }
  | k + 1, s =>
    let s := applyAnalog n k s
    let x := stripOf s (24 * n + k)
    putStrip s (24 * n + k) { x with aEn := x.en, aChIref := x.chIref, aTrim := x.trim }

/-- LATCH (R230 R231 R232 R240 R243 R244 R306): `TLATn` pulses in a period with a shift; then the analog settings, the
pin tests and the calibration step of the gap. -/
def execLatch (f : Fin 9) (seen : LatchSeen) (s : State) : Out := ifRuns s .frond <|
  match servedBy s f.val with
  | none => .next s
  | some n =>
    let fr := frondOf s f.val
    if !s.frm.inGap || fr.gapDone || fr.shifting.isSome then .next s
    else
      let s := putFrond s f.val { fr with gapDone := true }
      let s := match fr.shiftedNow, (tileOf s n).sent with
        | true, some x => latchTile f.val n seen.refused x s
        | _, _ => s
      let s := applyAnalog n 24 s
      let bad := seen.sdBad.filter fun p => decide (p / 24 = n)
      let s := if fr.shortEn then pinShorts seen.sdBad bad s else s
      .next (calGap n (srefTest n seen.srefMoved s))

/-- One strip's telemetry of a frame (R239 R252): held while the channel is under calibration; a sink out of its limits in two
consecutive frames is reported, for every such pair. -/
def strip1 (s : State) (i v cur : Nat) : State :=
  if calibrating s i then putStrip s i { stripOf s i with stale := true, badFrames := 0 }
  else
    let x := stripOf s i
    let on := x.aEn
    let iref := 2048 * irefAnalog s i
    let bad := on && (decide (v < 600) || decide (6000 < v)
      || decide (105 * iref < 100 * cur * irefDen) || decide (100 * cur * irefDen < 95 * iref))
    let s' := putStrip s i { x with
      stale := false, vSref := min 8191 v, iMeas := min 4095 cur, badFrames := if bad then x.badFrames + 1 else 0 }
    if bad && decide (0 < x.badFrames) then raise 458 s' else s'

/-- The telemetry of several strips: local strip, pin voltage in mV, current in µA (R239). -/
def telemetry (n : Nat) : List (Nat × Nat × Nat) → State → State
  | [], s => s
  | (i, v, cur) :: r, s => telemetry n r (if i < 24 then strip1 s (24 * n + i) v cur else s)

/-- SLICE_START (R190 R223 R225 R239 R316): the heartbeat token, the start pulse with its width code where this Frond drives it, the
frame's telemetry of the tile it serves. -/
def execSliceStart (f : Fin 9) (slice : Fin 16) (telem : List (Nat × Nat × Nat)) (s : State) : Out := ifRuns s .frond <|
  let s := atSlice slice.val 0 (emit (.heartbeat f.val slice.val) s)
  let s := match drives s f.val with
    | some n => startSlice n slice.val s
    | none => s
  .next (match servedBy s f.val with
    | some n => telemetry n telem s
    | none => s)

/-- STRIP_SET (R241 R242): taken now; its two steps pass at B_j and B_(j+1). -/
def execStripSet (id : Nat) (s : State) : Out :=
  runOp s id 0x28 fun _ =>
    { updDesc id (fun d => { d with taken := true }) s with
      cmp := { s.cmp with gate := s.cmp.gate ++ [(false, .stripSet id s.frm.cutPassed)] } }

end Sys2Proof.Machine
end

