-- ==== Sys2Proof/Machine/Dispatch.lean ====
section
/-! DEFINITION. The dispatch of the commands: one arm per command, each one direct call of its meaning. -/

namespace Sys2Proof.Machine

open Sys2Proof

def exec (i : Instr) (s : State) : Host.Outcome State Fault Refusal :=
  match i with
  | .vinRisePor => Sys2Proof.Machine.execVinRisePor s
  | .porRelease svcEnN resetNHigh => Sys2Proof.Machine.execPorRelease svcEnN resetNHigh s
  | .resetNRelease svcEnN => Sys2Proof.Machine.execResetNRelease svcEnN s
  | .resetNLow => Sys2Proof.Machine.execResetNLow s
  | .resetNStuck svcEnN => Sys2Proof.Machine.execResetNStuck svcEnN s
  | .resetNHonoured => Sys2Proof.Machine.execResetNHonoured s
  | .vinSlow => Sys2Proof.Machine.execVinSlow s
  | .sagDwell => Sys2Proof.Machine.execSagDwell s
  | .vinSlowRelease => Sys2Proof.Machine.execVinSlowRelease s
  | .saveSequence => Sys2Proof.Machine.execSaveSequence s
  | .sagRelease svcEnN => Sys2Proof.Machine.execSagRelease svcEnN s
  | .vinStop => Sys2Proof.Machine.execVinStop s
  | .vinRemoval => Sys2Proof.Machine.execVinRemoval s
  | .railUndervoltage rail => Sys2Proof.Machine.execRailUndervoltage rail s
  | .vholdReady => Sys2Proof.Machine.execVholdReady s
  | .vholdReadyTimeout => Sys2Proof.Machine.execVholdReadyTimeout s
  | .vholdFall => Sys2Proof.Machine.execVholdFall s
  | .buckPhase phase => Sys2Proof.Machine.execBuckPhase phase s
  | .clockReferenceFail ref => Sys2Proof.Machine.execClockReferenceFail ref s
  | .clockReferenceReturn ref => Sys2Proof.Machine.execClockReferenceReturn ref s
  | .pwrMonUpdate vinMv vhold => Sys2Proof.Machine.execPwrMonUpdate vinMv vhold s
  | .swrstKey level0 value => Sys2Proof.Machine.execSwrstKey level0 value s
  | .safetySelftest ch result => Sys2Proof.Machine.execSafetySelftest ch result s
  | .nvmInhibitTrip => Sys2Proof.Machine.execNvmInhibitTrip s
  | .nvmInhibitRelease => Sys2Proof.Machine.execNvmInhibitRelease s
  | .thermalShutdown => Sys2Proof.Machine.execThermalShutdown s
  | .perstNAssert => Sys2Proof.Machine.execPerstNAssert s
  | .hotReset => Sys2Proof.Machine.execHotReset s
  | .linkDisable => Sys2Proof.Machine.execLinkDisable s
  | .surpriseLinkDown => Sys2Proof.Machine.execSurpriseLinkDown s
  | .dmaResume => Sys2Proof.Machine.execDmaResume s
  | .unsupportedRequest write bar2 off value => Sys2Proof.Machine.execUnsupportedRequest write bar2 off value s
  | .hostReadCompletion tag status data => Sys2Proof.Machine.execHostReadCompletion tag status data s
  | .hostCplTmo tag => Sys2Proof.Machine.execHostCplTmo tag s
  | .registerWrite off value enables high => Sys2Proof.Machine.execRegisterWrite off value s enables high
  | .frmNumCapture => Sys2Proof.Machine.execFrmNumCapture s
  | .timNowCapture => Sys2Proof.Machine.execTimNowCapture s
  | .apply level0 value => Sys2Proof.Machine.execApply level0 value s
  | .protSet id => Sys2Proof.Machine.execProtSet id s
  | .sqTailDoorbell n value proper => Sys2Proof.Machine.execSqTailDoorbell n value proper s
  | .fenceKick n value proper => Sys2Proof.Machine.execFenceKick n value proper s
  | .cqHeadDoorbell n value proper => Sys2Proof.Machine.execCqHeadDoorbell n value proper s
  | .sqEnable n level0 value => Sys2Proof.Machine.execSqEnable n level0 value s
  | .sqDrain n level0 value => Sys2Proof.Machine.execSqDrain n level0 value s
  | .cqEnable n level0 value => Sys2Proof.Machine.execCqEnable n level0 value s
  | .cqDisable n level0 value => Sys2Proof.Machine.execCqDisable n level0 value s
  | .irqEnWrite n level0 value => Sys2Proof.Machine.execIrqEnWrite n level0 value s
  | .descriptorFetch n => Sys2Proof.Machine.execDescriptorFetch n s
  | .descriptorConsumed n ecc => Sys2Proof.Machine.execDescriptorConsumed n s ecc
  | .dispatch id => Sys2Proof.Machine.execDispatch id s
  | .completionPost => Sys2Proof.Machine.execCompletionPost s
  | .eventPost => Sys2Proof.Machine.execEventPost s
  | .hostSilent => Sys2Proof.Machine.execHostSilent s
  | .nop id => Sys2Proof.Machine.execNop id s
  | .layerSet id => Sys2Proof.Machine.execLayerSet id s
  | .layerCommit id => Sys2Proof.Machine.execLayerCommit id s
  | .cacheLoad id => Sys2Proof.Machine.execCacheLoad id s
  | .cacheEvict id => Sys2Proof.Machine.execCacheEvict id s
  | .fencePollTick => Sys2Proof.Machine.execFencePollTick s
  | .fencePollResult gid entry => Sys2Proof.Machine.execFencePollResult gid entry s
  | .frameBoundary => Sys2Proof.Machine.execFrameBoundary s
  | .latchGapStart => Sys2Proof.Machine.execLatchGapStart s
  | .cutPoint => Sys2Proof.Machine.execCutPoint s
  | .boundaryFlip ecc => Sys2Proof.Machine.execBoundaryFlip s ecc
  | .compositionEnd => Sys2Proof.Machine.execCompositionEnd s
  | .fenceTmo gid => Sys2Proof.Machine.execFenceTmo gid s
  | .fetchTmo target => Sys2Proof.Machine.execFetchTmo target s
  | .staticPictureEntry => Sys2Proof.Machine.execStaticPictureEntry s
  | .frameCtrl id => Sys2Proof.Machine.execFrameCtrl id s
  | .shift f ecc => Sys2Proof.Machine.execShift f s ecc
  | .shiftEnd f rets => Sys2Proof.Machine.execShiftEnd f rets s
  | .latch f seen => Sys2Proof.Machine.execLatch f seen s
  | .sliceStart f slice telem => Sys2Proof.Machine.execSliceStart f slice telem s
  | .stripSet id => Sys2Proof.Machine.execStripSet id s
  | .tileInsertion n => Sys2Proof.Machine.execTileInsertion n s
  | .tileRemoval n => Sys2Proof.Machine.execTileRemoval n s
  | .tileAlert n status => Sys2Proof.Machine.execTileAlert n status s
  | .tileBusRetry n ack op => Sys2Proof.Machine.execTileBusRetry n ack s op
  | .tileHeaderCheck n header => Sys2Proof.Machine.execTileHeaderCheck n header s
  | .tileIdentityStep n data => Sys2Proof.Machine.execTileIdentityStep n data s
  | .challengePoll n auth response => Sys2Proof.Machine.execChallengePoll n auth response s
  | .challengeTimeout n => Sys2Proof.Machine.execChallengeTimeout n s
  | .gainRecompute => Sys2Proof.Machine.execGainRecompute s
  | .ledgerTap f ecc => Sys2Proof.Machine.execLedgerTap f s ecc
  | .periodicLedgerCommit => Sys2Proof.Machine.execPeriodicLedgerCommit s
  | .commitReadback n bytes => Sys2Proof.Machine.execCommitReadback n bytes s
  | .status id => Sys2Proof.Machine.execStatus id s
  | .release id => Sys2Proof.Machine.execRelease id s
  | .rescan id => Sys2Proof.Machine.execRescan id s
  | .idRead id => Sys2Proof.Machine.execIdRead id s
  | .orphanInfo id => Sys2Proof.Machine.execOrphanInfo id s
  | .orphanClear id => Sys2Proof.Machine.execOrphanClear id s
  | .returnTile id => Sys2Proof.Machine.execReturnTile id s
  | .ledgerRead id => Sys2Proof.Machine.execLedgerRead id s
  | .ledgerCommit id => Sys2Proof.Machine.execLedgerCommit id s
  | .diagRead id => Sys2Proof.Machine.execDiagRead id s
  | .probePeriod => Sys2Proof.Machine.execProbePeriod s
  | .heartbeatCheck f token pulseSeen slice => Sys2Proof.Machine.execHeartbeatCheck f token pulseSeen s slice
  | .takeoverComplete n => Sys2Proof.Machine.execTakeoverComplete n s
  | .mapRereadComplete n map => Sys2Proof.Machine.execMapRereadComplete n map s
  | .frondStale f write => Sys2Proof.Machine.execFrondStale f write s
  | .frondReinstate id => Sys2Proof.Machine.execFrondReinstate id s
  | .frondSelftestEnd f code => Sys2Proof.Machine.execFrondSelftestEnd f code s
  | .safetyInputDemand ch pair => Sys2Proof.Machine.execSafetyInputDemand ch pair s
  | .demandSignal ch pair => Sys2Proof.Machine.execDemandSignal ch pair s
  | .safDisc ch pair => Sys2Proof.Machine.execSafDisc ch pair s
  | .discrepancyClear ch pair => Sys2Proof.Machine.execDiscrepancyClear ch pair s
  | .demandEnd ch pair => Sys2Proof.Machine.execDemandEnd ch pair s
  | .crossLinkExchange agree => Sys2Proof.Machine.execCrossLinkExchange s agree
  | .crossLinkLoss ch => Sys2Proof.Machine.execCrossLinkLoss ch s
  | .crossLinkDisagree ch => Sys2Proof.Machine.execCrossLinkDisagree ch s
  | .inputTestPulse ch => Sys2Proof.Machine.execInputTestPulse ch s
  | .safTpi ch echo => Sys2Proof.Machine.execSafTpi ch echo s
  | .outputTestPulse ch => Sys2Proof.Machine.execOutputTestPulse ch s
  | .outputTestVerdict ch lowOk highOk => Sys2Proof.Machine.execOutputTestVerdict ch lowOk highOk s
  | .feedbackCheck ch level => Sys2Proof.Machine.execFeedbackCheck ch level s
  | .egDiverse ch n streams => Sys2Proof.Machine.execEgDiverse ch n streams s
  | .safeWrite id => Sys2Proof.Machine.execSafeWrite id s
  | .safeRead id => Sys2Proof.Machine.execSafeRead id s
  | .safeConfirm id => Sys2Proof.Machine.execSafeConfirm id s
  | .safetySetInForce => Sys2Proof.Machine.execSafetySetInForce s
  | .safeLock level0 value => Sys2Proof.Machine.execSafeLock level0 value s
  | .refRref base => Sys2Proof.Machine.execRefRref base s
  | .faultSourceEvent slots => Sys2Proof.Machine.execFaultSourceEvent slots s
  | .fltWire slot code => Sys2Proof.Machine.execFltWire slot code s
  | .windowExpiry slot => Sys2Proof.Machine.execWindowExpiry slot s
  | .faultAck id => Sys2Proof.Machine.execFaultAck id s
  | .faultInject id => Sys2Proof.Machine.execFaultInject id s
  | .injectionTimeout => Sys2Proof.Machine.execInjectionTimeout s
  | .rearm value => Sys2Proof.Machine.execRearm value s
  | .logCopy => Sys2Proof.Machine.execLogCopy s
  | .calRun id => Sys2Proof.Machine.execCalRun id s
  | .calResult channel ratios => Sys2Proof.Machine.execCalResult channel ratios s
  | .thermalDemand => Sys2Proof.Machine.execThermalDemand s
  | .thermMeasure id => Sys2Proof.Machine.execThermMeasure id s
  | .sensorReading readings => Sys2Proof.Machine.execSensorReading readings s
  | .throttleRelease domain => Sys2Proof.Machine.execThrottleRelease domain s
  | .unfreeze level0 value => Sys2Proof.Machine.execUnfreeze level0 value s
  | .portEnable p level0 value => Sys2Proof.Machine.execPortEnable p level0 value s
  | .portDisable p level0 value => Sys2Proof.Machine.execPortDisable p level0 value s
  | .retrain p level0 value => Sys2Proof.Machine.execRetrain p level0 value s
  | .blockLock p => Sys2Proof.Machine.execBlockLock p s
  | .blockLockLoss p => Sys2Proof.Machine.execBlockLockLoss p s
  | .lossOfSignal p => Sys2Proof.Machine.execLossOfSignal p s
  | .signalDetect p => Sys2Proof.Machine.execSignalDetect p s
  | .cap p payload => Sys2Proof.Machine.execCap p payload s
  | .creditInit p payload => Sys2Proof.Machine.execCreditInit p payload s
  | .credit p payload => Sys2Proof.Machine.execCredit p payload s
  | .stepRequest p payload => Sys2Proof.Machine.execStepRequest p payload s
  | .stepAccept p payload => Sys2Proof.Machine.execStepAccept p payload s
  | .stepRefuse p payload => Sys2Proof.Machine.execStepRefuse p payload s
  | .stepResult p payload => Sys2Proof.Machine.execStepResult p payload s
  | .stepUpStart p => Sys2Proof.Machine.execStepUpStart p s
  | .stepAcceptTimeout p => Sys2Proof.Machine.execStepAcceptTimeout p s
  | .stepSwitchTimeout p => Sys2Proof.Machine.execStepSwitchTimeout p s
  | .stepTrialEnd p => Sys2Proof.Machine.execStepTrialEnd p s
  | .sleep p payload => Sys2Proof.Machine.execSleep p payload s
  | .wake p payload => Sys2Proof.Machine.execWake p payload s
  | .down p payload => Sys2Proof.Machine.execDown p payload s
  | .chnTrain p => Sys2Proof.Machine.execChnTrain p s
  | .backoffEnd p => Sys2Proof.Machine.execBackoffEnd p s
  | .sleepEntry p => Sys2Proof.Machine.execSleepEntry p s
  | .wakeStart p => Sys2Proof.Machine.execWakeStart p s
  | .wakeLockTimeout p => Sys2Proof.Machine.execWakeLockTimeout p s
  | .frameHeaderParsed p bytes => Sys2Proof.Machine.execFrameHeaderParsed p bytes s
  | .frameReceived p bytes err poison => Sys2Proof.Machine.execFrameReceived p bytes err poison s
  | .frameCut p len => Sys2Proof.Machine.execFrameCut p len s
  | .egressStart p => Sys2Proof.Machine.execEgressStart p s
  | .frameSent p => Sys2Proof.Machine.execFrameSent p s
  | .chnPoolAudit => Sys2Proof.Machine.execChnPoolAudit s
  | .chnStale q => Sys2Proof.Machine.execChnStale q s
  | .netTx id => Sys2Proof.Machine.execNetTx id s
  | .netRxPost id => Sys2Proof.Machine.execNetRxPost id s
  | .serviceMessage svc => Sys2Proof.Machine.execServiceMessage svc s
  | .helloTransmit => Sys2Proof.Machine.execHelloTransmit s
  | .chnNeigh p => Sys2Proof.Machine.execChnNeigh p s
  | .fwRequestTimer => Sys2Proof.Machine.execFwRequestTimer s
  | .bootFailStatusTimer => Sys2Proof.Machine.execBootFailStatusTimer s
  | .ptpSync d m => Sys2Proof.Machine.execPtpSync d m s
  | .delayResp d m => Sys2Proof.Machine.execDelayResp d m s
  | .syncLoss d => Sys2Proof.Machine.execSyncLoss d s
  | .revert => Sys2Proof.Machine.execRevert s
  | .domainSwitch => Sys2Proof.Machine.execDomainSwitch s
  | .slewComplete => Sys2Proof.Machine.execSlewComplete s
  | .step id => Sys2Proof.Machine.execStep id s
  | .frequency id => Sys2Proof.Machine.execFrequency id s
  | .slew id => Sys2Proof.Machine.execSlew id s
  | .select id => Sys2Proof.Machine.execSelect id s
  | .tevArm id => Sys2Proof.Machine.execTevArm id s
  | .tevEdge ch => Sys2Proof.Machine.execTevEdge ch s
  | .triggerSettingWrite ch9 level0 value => Sys2Proof.Machine.execTriggerSettingWrite ch9 level0 value s
  | .nvmWrite id => Sys2Proof.Machine.execNvmWrite id s
  | .nvmRead id => Sys2Proof.Machine.execNvmRead id s
  | .nvmRecordComplete vhold => Sys2Proof.Machine.execNvmRecordComplete s vhold
  | .crcRun id => Sys2Proof.Machine.execCrcRun id s
  | .disarm id => Sys2Proof.Machine.execDisarm id s
  | .arm id => Sys2Proof.Machine.execArm id s
  | .armSchedule id => Sys2Proof.Machine.execArmSchedule id s
  | .armReset id => Sys2Proof.Machine.execArmReset id s
  | .scheduledBoot => Sys2Proof.Machine.execScheduledBoot s
  | .bootCheck b => Sys2Proof.Machine.execBootCheck b s
  | .linkUp width speed => Sys2Proof.Machine.execLinkUp width speed s
  | .configurationWrite w => Sys2Proof.Machine.execConfigurationWrite w s
  | .msixUnmask slot word value => Sys2Proof.Machine.execMsixUnmask slot word value s
  | .domainEnWrite d level0 value => Sys2Proof.Machine.execDomainEnWrite d level0 value s
  | .invalidSyncHeader p ordered => Sys2Proof.Machine.execInvalidSyncHeader p ordered s
  | .orderedSetTransmit p => Sys2Proof.Machine.execOrderedSetTransmit p s
  | .severeLineBroken broken => Sys2Proof.Machine.execSevereLineBroken s broken
  | .tevPulseEnd ch => Sys2Proof.Machine.execTevPulseEnd ch s
  | .faultCollectorStart => Sys2Proof.Machine.execFaultCollectorStart s

end Sys2Proof.Machine
end

