-- ==== Sys2Proof/Safety.lean ====
section
/-! DEFINITION. What a safe run is, in the terms that statements use: the parts of the state and frames over them, the light
invariant of the two safety channels, the canonical cache, and the accounting of descriptors. -/

namespace Sys2Proof.Machine

/-- The parts of the state that a frame names. The commands that wait are no part: `exec` has no effect on them. -/
inductive Part where
  | outputs | freeCtr | boot | power | link | prot | rings
  /-- the resident cache's bytes (R161); `cmp` is the compositor without them. -/
  | cache | cmp
  | frm | strip | tiles | journal
  /-- the two safety channels; `safeSet` is the set in force with its source and copy; `safety` is the rest of the island. -/
  | chans | safeSet | safety
  /-- the slots of the fault collector; `faults` is the rest of it. -/
  | slots | faults
  | cal | therm | chain | time
  /-- the pages of the NVM with the last sequence number (R531); `nvm` is the rest of chapter 15. -/
  | pages | nvm
deriving DecidableEq, Repr

/-- A part is the same in two states. -/
def Part.same (s t : State) : Part → Prop
  | .outputs => t.outputs = s.outputs ∧ t.lanes = s.lanes
  | .freeCtr => t.freeCtr = s.freeCtr
  | .boot => t.boot = s.boot
  | .power => t.power = s.power
  | .link => t.link = s.link
  | .prot => t.prot = s.prot
  | .rings => t.rings = s.rings
  | .cache => t.cmp.cache = s.cmp.cache
  | .cmp => { t.cmp with cache := [] } = { s.cmp with cache := [] }
  | .frm => t.frm = s.frm
  | .strip => t.strip = s.strip
  | .tiles => t.tiles = s.tiles
  | .journal => t.journal = s.journal
  | .chans => t.safety.a = s.safety.a ∧ t.safety.b = s.safety.b
  | .safeSet => t.safety.inForce = s.safety.inForce ∧ t.safety.src = s.safety.src ∧ t.safety.copy = s.safety.copy
  | .safety =>
    { t.safety with a := {}, b := {}, inForce := [], src := 0, copy := 0 } = { s.safety with a := {}, b := {}, inForce := [], src := 0, copy := 0 }
  | .slots => t.faults.slots = s.faults.slots
  | .faults => { t.faults with slots := [] } = { s.faults with slots := [] }
  | .cal => t.cal = s.cal
  | .therm => t.therm = s.therm
  | .chain => t.chain = s.chain
  | .time => t.time = s.time
  | .pages => t.nvm.pages = s.nvm.pages ∧ t.nvm.seq = s.nvm.seq
  | .nvm => { t.nvm with pages := [], seq := 0 } = { s.nvm with pages := [], seq := 0 }

/-- Nothing changed between two states but the parts listed; the queue of waiting commands is the same. -/
structure SameBut (l : List Part) (s t : State) : Prop where
  queue : t.pending = s.pending
  parts : ∀ p : Part, p ∉ l → p.same s t

/-- A meaning completes: it answers a next state, and nothing but the parts listed changed. -/
def Goes (l : List Part) (s : State) (o : Host.Outcome State Fault Refusal) : Prop := ∃ t, o = .next t ∧ SameBut l s t

/-- A command completes in a next state of which a property holds. -/
def Yields (c : Instr) (s : State) (P : State → Prop) : Prop := ∃ t, exec c s = .next t ∧ P t

/-- The light invariant (R331 R333 R345): an output that is permitted high belongs to a channel that permits it, and no
channel has passed its power-up self-test before the test has ended. -/
def LightInv (s : State) : Prop :=
  ∀ c, ((chanOf s c).slo = true → ownPermit s c = true) ∧ ((chanOf s c).selftestOk = true → (chanOf s c).selftestDone = true)

/-- The resident cache is in canonical form: rising line addresses, no listed byte equal to what an unlisted one reads as. -/
def CacheInv (s : State) : Prop := Mem.wf 0#8 s.cmp.cache = true

/-- What a chip reset leaves (R52 R5 R280): every island but Lichen at its reset values under the boot values in force, the cached
bytes, the NVM's pages, the count of used nonces and what has left the chip as they were, the journal as the ledger's rule has it;
of the records that wait for the NVM only a shutdown record stays (R434). -/
structure Restarted (c : Cause) (s t : State) : Prop where
  boot : t.boot = loadBoot s
  host : t.link = {} ∧ t.prot = {} ∧ t.rings = {} ∧ t.cmp = { cache := s.cmp.cache }
  light : t.frm = (State.ofBoot (loadBoot s)).frm ∧ t.strip = (State.ofBoot (loadBoot s)).strip
    ∧ t.tiles = { (State.ofBoot (loadBoot s)).tiles with nextNonce := s.tiles.nextNonce }
  watch : t.safety = {} ∧ t.faults = {} ∧ t.cal = (State.ofBoot (loadBoot s)).cal ∧ t.therm = (State.ofBoot (loadBoot s)).therm
  net : t.chain = (State.ofBoot (loadBoot s)).chain ∧ t.time = (State.ofBoot (loadBoot s)).time
  journal : t.journal = ledgerAtReset c s
  kept : t.nvm.pages = s.nvm.pages ∧ t.nvm.seq = s.nvm.seq ∧ t.outputs = s.outputs ∧ t.lanes = s.lanes
    ∧ t.freeCtr = s.freeCtr ∧ t.pending = s.pending
  queue : t.nvm.queue = s.nvm.queue.filter (fun q => q.why == .shutdown)

/-- A source drives fault on its line (R371 R374). -/
def Drives (n : Nat) (t : State) : Prop := t.faults.drive.testBit n = true

/-- A dispatched descriptor of an opcode that no unit has taken yet, in a ring island that runs, with no earlier descriptor of its
submission queue waiting for the same island (R7 R111 R116 R131). -/
def Runs (s : State) (id op : Nat) (d : Desc) : Prop :=
  descOf s id = some d ∧ d.phase = .running ∧ d.taken = false ∧ le d.bytes 0 1 = op
    ∧ runs .ring s = true ∧ (∀ e ∈ s.rings.inflight, ahead d e = false)

/-- A descriptor completes (R29 R124): it leaves the consumed set, and its one completion stands behind those to be posted. -/
def Completed (id : Nat) (d : Desc) (status : Nat) (result : Bytes) (s t : State) : Prop :=
  t.rings.done = s.rings.done ++ [doneOf d status result] ∧ t.rings.inflight = s.rings.inflight.filter (fun x => x.id != id)

/-- The parts of the state that a command may write; whatever is not listed it leaves as it was. -/
def touches : Instr → List Part
  | .vinRisePor .. | .resetNLow .. | .swrstKey .. | .armReset .. | .scheduledBoot .. =>
    [.boot, .power, .link, .prot, .rings, .cmp, .frm, .strip, .tiles, .journal, .chans, .safeSet, .safety, .slots, .faults, .cal, .therm, .chain, .time, .nvm]
  | .porRelease .. | .resetNRelease .. | .resetNStuck .. | .resetNHonoured .. | .sagDwell .. | .vinSlowRelease .. | .sagRelease .. =>
    [.power]
  | .vinSlow .. | .vholdReady .. | .vholdReadyTimeout .. | .vholdFall .. | .buckPhase .. | .pwrMonUpdate .. => [.power, .faults]
  | .saveSequence .. => [.power, .strip, .tiles, .journal, .faults, .nvm]
  | .vinStop .. => [.power, .strip, .tiles, .chans]
  | .vinRemoval .. | .railUndervoltage .. | .nvmRecordComplete .. =>
    [.freeCtr, .boot, .power, .link, .prot, .rings, .cmp, .frm, .strip, .tiles, .journal, .chans, .safeSet, .safety, .slots, .faults, .cal, .therm, .chain, .time, .pages, .nvm]
  | .clockReferenceFail .. => [.freeCtr, .power, .link, .rings, .cmp, .faults, .chain]
  | .clockReferenceReturn .. | .faultCollectorStart .. => [.power, .faults, .chain]
  | .safetySelftest .. => [.outputs, .chans, .safeSet, .safety, .faults]
  | .nvmInhibitTrip .. => [.freeCtr, .power, .rings, .safety, .faults, .cal, .nvm]
  | .nvmInhibitRelease .. => [.freeCtr, .power, .rings, .faults]
  | .thermalShutdown .. => [.power, .strip, .tiles, .chans, .nvm]
  | .perstNAssert .. | .hotReset .. | .linkDisable .. | .surpriseLinkDown .. => [.link, .rings, .cmp, .faults]
  | .dmaResume .. => [.outputs, .link, .rings, .faults, .chain]
  | .unsupportedRequest .. | .fencePollTick .. | .msixUnmask .. => [.outputs, .link]
  | .hostReadCompletion .. | .hostCplTmo .. | .fenceKick .. | .configurationWrite .. => [.outputs, .link, .rings, .cmp, .faults]
  | .registerWrite .. =>
    [.outputs, .freeCtr, .boot, .power, .link, .prot, .rings, .cmp, .frm, .strip, .tiles, .journal, .chans, .safeSet, .safety, .slots, .faults, .cal, .therm, .chain, .time, .nvm]
  | .frmNumCapture .. => [.outputs, .frm]
  | .timNowCapture .. | .tevEdge .. => [.outputs, .time]
  | .apply .. => [.prot]
  | .protSet .. | .sqEnable .. => [.prot, .rings]
  | .sqTailDoorbell .. | .hostSilent .. | .faultInject .. | .injectionTimeout .. => [.rings, .faults]
  | .cqHeadDoorbell .. | .descriptorConsumed .. | .eventPost .. => [.outputs, .link, .rings, .faults]
  | .sqDrain .. => [.link, .prot, .rings, .chain]
  | .cqEnable .. | .cqDisable .. | .irqEnWrite .. | .descriptorFetch .. | .dispatch .. | .completionPost .. => [.outputs, .link, .rings]
  | .nop .. => [.rings]
  | .layerSet .. | .cacheEvict .. | .stripSet .. => [.rings, .cmp]
  | .layerCommit .. => [.outputs, .link, .rings, .cmp, .frm, .faults]
  | .cacheLoad .. => [.rings, .cmp, .cache]
  | .fencePollResult .. => [.outputs, .link, .cmp]
  | .frameBoundary .. => [.frm, .strip, .tiles, .safety, .faults, .cal, .time]
  | .latchGapStart .. => [.outputs, .rings, .frm, .strip, .tiles, .safety, .cal, .therm, .time, .nvm]
  | .cutPoint .. | .frameCtrl .. => [.rings, .cmp, .frm]
  | .boundaryFlip .. => [.outputs, .link, .rings, .cmp, .frm, .strip, .tiles, .faults, .therm]
  | .compositionEnd .. => [.rings, .cmp, .frm, .faults, .nvm]
  | .fenceTmo .. => [.rings, .cmp, .faults]
  | .fetchTmo .. => [.rings, .cmp, .frm, .faults]
  | .staticPictureEntry .. => [.frm]
  | .shift .. => [.freeCtr, .rings, .strip, .tiles, .faults]
  | .shiftEnd .. | .frondSelftestEnd .. => [.rings, .strip, .tiles, .faults]
  | .latch .. => [.outputs, .rings, .strip, .tiles, .safety, .faults, .cal, .therm, .nvm]
  | .sliceStart .. => [.outputs, .strip, .tiles, .faults, .time]
  | .tileInsertion .. | .takeoverComplete .. => [.outputs, .strip, .tiles]
  | .tileRemoval .. => [.rings, .cmp, .strip, .tiles, .journal, .faults, .chain, .nvm]
  | .tileAlert .. => [.tiles, .faults]
  | .tileBusRetry .. => [.outputs, .rings, .cmp, .strip, .tiles, .faults, .chain]
  | .tileHeaderCheck .. => [.outputs, .rings, .strip, .tiles, .faults]
  | .tileIdentityStep .. => [.outputs, .freeCtr, .rings, .cmp, .tiles, .journal, .faults, .chain, .nvm]
  | .challengePoll .. | .challengeTimeout .. => [.outputs, .tiles, .faults]
  | .gainRecompute .. => [.rings, .cmp, .tiles, .faults, .chain]
  | .ledgerTap .. => [.outputs, .freeCtr, .rings, .strip, .tiles, .journal, .faults]
  | .periodicLedgerCommit .. => [.tiles, .chain]
  | .commitReadback .. => [.outputs, .rings, .tiles, .faults, .chain]
  | .status .. | .idRead .. | .orphanInfo .. | .ledgerRead .. | .diagRead .. | .safeRead .. => [.outputs, .rings]
  | .release .. | .ledgerCommit .. => [.rings, .tiles]
  | .rescan .. | .returnTile .. => [.outputs, .rings, .tiles]
  | .orphanClear .. => [.rings, .journal]
  | .probePeriod .. => [.tiles]
  | .heartbeatCheck .. => [.outputs, .rings, .strip, .tiles, .faults, .time]
  | .mapRereadComplete .. => [.cmp, .tiles]
  | .frondStale .. => [.strip, .faults]
  | .frondReinstate .. => [.rings, .strip]
  | .safetyInputDemand .. | .demandSignal .. | .safDisc .. | .egDiverse .. => [.strip, .tiles, .chans, .safety, .faults]
  | .discrepancyClear .. | .feedbackCheck .. => [.chans, .faults]
  | .demandEnd .. | .safTpi .. | .outputTestVerdict .. => [.chans, .safety, .faults]
  | .crossLinkExchange .. | .severeLineBroken .. => [.strip, .tiles, .chans]
  | .crossLinkLoss .. | .crossLinkDisagree .. => [.strip, .tiles, .chans, .faults]
  | .inputTestPulse .. | .outputTestPulse .. => [.outputs, .chans]
  | .safeWrite .. => [.rings, .safety]
  | .safeConfirm .. | .logCopy .. => [.rings, .safety, .cal, .nvm]
  | .safetySetInForce .. => [.rings, .chans, .safeSet, .safety]
  | .safeLock .. => [.safety]
  | .refRref .. => [.faults, .cal]
  | .faultSourceEvent .. | .fltWire .. => [.outputs, .link, .rings, .strip, .tiles, .chans, .slots, .faults]
  | .windowExpiry .. => [.slots]
  | .faultAck .. => [.rings, .chans, .safety, .slots, .faults]
  | .rearm .. => [.outputs, .link, .faults]
  | .calRun .. => [.rings, .cal, .therm]
  | .calResult .. | .sensorReading .. => [.freeCtr, .rings, .cmp, .safety, .faults, .cal, .therm, .nvm]
  | .thermalDemand .. => [.outputs, .therm]
  | .thermMeasure .. => [.outputs, .rings, .therm]
  | .throttleRelease .. => [.freeCtr, .rings, .therm]
  | .unfreeze .. => [.therm]
  | .portEnable .. | .blockLock .. | .signalDetect .. | .stepAcceptTimeout .. | .backoffEnd .. | .frameCut .. | .helloTransmit ..
  | .fwRequestTimer .. => [.chain]
  | .portDisable .. | .retrain .. | .blockLockLoss .. | .cap .. | .creditInit .. | .credit .. | .stepRequest .. | .stepAccept ..
  | .stepRefuse .. | .stepResult .. | .stepSwitchTimeout .. | .sleep .. | .wake .. | .down .. | .frameReceived .. | .invalidSyncHeader .. =>
    [.outputs, .freeCtr, .rings, .faults, .chain]
  | .lossOfSignal .. | .wakeLockTimeout .. | .chnNeigh .. => [.freeCtr, .rings, .faults, .chain]
  | .stepUpStart .. | .stepTrialEnd .. | .sleepEntry .. | .wakeStart .. => [.outputs, .chain]
  | .chnTrain .. | .chnPoolAudit .. | .chnStale .. => [.faults, .chain]
  | .frameHeaderParsed .. | .ptpSync .. => [.chain, .time]
  | .egressStart .. => [.rings, .faults, .chain, .time]
  | .frameSent .. => [.outputs, .freeCtr, .rings, .chain]
  | .netTx .. => [.outputs, .link, .rings, .chain]
  | .netRxPost .. => [.outputs, .rings, .faults, .chain]
  | .serviceMessage .. => [.outputs, .freeCtr, .rings, .safety, .faults, .cal, .chain, .time, .nvm]
  | .bootFailStatusTimer .. => [.freeCtr, .chain]
  | .delayResp .. => [.outputs, .freeCtr, .frm, .faults, .time]
  | .syncLoss .. | .domainEnWrite .. => [.faults, .time]
  | .revert .. | .slewComplete .. => [.time]
  | .domainSwitch .. | .step .. => [.outputs, .rings, .frm, .faults, .time]
  | .frequency .. | .slew .. | .select .. => [.rings, .time]
  | .tevArm .. | .tevPulseEnd .. => [.outputs, .rings, .time]
  | .triggerSettingWrite .. => [.outputs, .tiles, .cal, .time]
  | .nvmWrite .. => [.rings, .safety, .cal, .time, .nvm]
  | .nvmRead .. => [.outputs, .freeCtr, .rings, .faults]
  | .crcRun .. => [.rings, .faults, .nvm]
  | .disarm .. => [.rings, .time, .nvm]
  | .arm .. => [.rings, .nvm]
  | .armSchedule .. => [.outputs, .rings, .time, .nvm]
  | .bootCheck .. => [.outputs, .freeCtr, .rings, .tiles, .journal, .faults, .cal, .time, .pages, .nvm]
  | .linkUp .. => [.link]
  | .orderedSetTransmit .. => [.outputs]

/-- The island in which a command is judged: while it stands still the command has no effect (R45 R46 R48 R52). The other commands
are the supply's, the pins', the reset's and the NVM's own, and the descriptor fetch, which DMA gates (R74). -/
def judgedIn : Instr → Option Isl
  | .swrstKey .. | .perstNAssert .. | .hotReset .. | .linkDisable .. | .surpriseLinkDown .. | .unsupportedRequest .. | .hostReadCompletion ..
  | .hostCplTmo .. | .registerWrite .. | .frmNumCapture .. | .timNowCapture .. | .apply .. | .sqTailDoorbell .. | .fenceKick .. | .cqHeadDoorbell ..
  | .sqEnable .. | .sqDrain .. | .cqEnable .. | .cqDisable .. | .irqEnWrite .. | .safeLock .. | .rearm .. | .unfreeze .. | .portEnable ..
  | .portDisable .. | .retrain .. | .triggerSettingWrite .. | .linkUp .. | .configurationWrite .. | .msixUnmask .. | .domainEnWrite .. => some .host
  | .dmaResume .. | .protSet .. | .descriptorConsumed .. | .dispatch .. | .completionPost .. | .eventPost .. | .hostSilent .. | .nop ..
  | .layerSet .. | .layerCommit .. | .cacheLoad .. | .cacheEvict .. | .fencePollTick .. | .frameCtrl .. | .stripSet .. | .status .. | .release ..
  | .rescan .. | .idRead .. | .orphanInfo .. | .orphanClear .. | .returnTile .. | .ledgerRead .. | .ledgerCommit .. | .diagRead ..
  | .heartbeatCheck .. | .frondStale .. | .frondReinstate .. | .safeWrite .. | .safeRead .. | .safeConfirm .. | .faultAck .. | .faultInject ..
  | .injectionTimeout .. | .calRun .. | .thermMeasure .. | .netTx .. | .netRxPost .. | .step .. | .frequency .. | .slew .. | .select .. | .tevArm ..
  | .nvmWrite .. | .nvmRead .. | .crcRun .. | .disarm .. | .arm .. | .armSchedule .. | .armReset .. => some .ring
  | .fencePollResult .. | .cutPoint .. | .boundaryFlip .. | .compositionEnd .. | .fenceTmo .. | .fetchTmo .. | .staticPictureEntry .. => some .comp
  | .shift .. | .shiftEnd .. | .latch .. | .sliceStart .. | .tileInsertion .. | .tileRemoval .. | .tileAlert .. | .tileBusRetry ..
  | .tileHeaderCheck .. | .tileIdentityStep .. | .challengePoll .. | .challengeTimeout .. | .probePeriod .. | .takeoverComplete ..
  | .mapRereadComplete .. | .frondSelftestEnd .. | .refRref .. => some .frond
  | .blockLock .. | .blockLockLoss .. | .lossOfSignal .. | .signalDetect .. | .cap .. | .creditInit .. | .credit .. | .stepRequest ..
  | .stepAccept .. | .stepRefuse .. | .stepResult .. | .stepUpStart .. | .stepAcceptTimeout .. | .stepSwitchTimeout .. | .stepTrialEnd ..
  | .sleep .. | .wake .. | .down .. | .chnTrain .. | .backoffEnd .. | .sleepEntry .. | .wakeStart .. | .wakeLockTimeout .. | .frameHeaderParsed ..
  | .frameReceived .. | .frameCut .. | .egressStart .. | .frameSent .. | .chnPoolAudit .. | .chnStale .. | .invalidSyncHeader ..
  | .orderedSetTransmit .. => some .chain
  | .frameBoundary .. | .latchGapStart .. | .domainSwitch .. | .slewComplete .. | .tevEdge .. | .tevPulseEnd .. => some .time
  | .safetySelftest .. | .safetyInputDemand .. | .demandSignal .. | .safDisc .. | .discrepancyClear .. | .demandEnd .. | .crossLinkExchange ..
  | .crossLinkLoss .. | .crossLinkDisagree .. | .inputTestPulse .. | .safTpi .. | .outputTestPulse .. | .outputTestVerdict .. | .feedbackCheck ..
  | .egDiverse .. | .safetySetInForce .. | .faultSourceEvent .. | .fltWire .. | .windowExpiry .. | .severeLineBroken .. | .faultCollectorStart .. => some .safety
  | .gainRecompute .. | .ledgerTap .. | .periodicLedgerCommit .. | .commitReadback .. | .logCopy .. | .calResult .. | .thermalDemand ..
  | .sensorReading .. | .throttleRelease .. | .serviceMessage .. | .helloTransmit .. | .chnNeigh .. | .fwRequestTimer .. | .bootFailStatusTimer ..
  | .ptpSync .. | .delayResp .. | .syncLoss .. | .revert .. | .scheduledBoot .. | .bootCheck .. => some .mp
  | .vinRisePor .. | .porRelease .. | .resetNRelease .. | .resetNLow .. | .resetNStuck .. | .resetNHonoured .. | .vinSlow .. | .sagDwell ..
  | .vinSlowRelease .. | .saveSequence .. | .sagRelease .. | .vinStop .. | .vinRemoval .. | .railUndervoltage .. | .vholdReady ..
  | .vholdReadyTimeout .. | .vholdFall .. | .buckPhase .. | .clockReferenceFail .. | .clockReferenceReturn .. | .pwrMonUpdate ..
  | .nvmInhibitTrip .. | .nvmInhibitRelease .. | .thermalShutdown .. | .descriptorFetch .. | .nvmRecordComplete .. => none

/-- A channel knows a pair in demand (R335). -/
def demandKnown (x : Channel) (p : Pair) : Bool := match p with | .hatch => x.demHatch | .estop => x.demEstop

/-- A channel holds a pair's discrepancy (R336). -/
def discHeld (x : Channel) (p : Pair) : Bool := match p with | .hatch => x.discHatch | .estop => x.discEstop

/-- The other channel's demand signal of a pair is on its way to a channel (R335). -/
def signalled (x : Channel) (p : Pair) : Bool := match p with | .hatch => x.sigHatch | .estop => x.sigEstop

/-- The condition of a fault source lasts (R374). -/
def Lasts (n : Nat) (t : State) : Prop := t.faults.cond.testBit n = true

/-- An ordered set of a kind reaches a running port with a good CRC-4 (R455 R456). -/
def Hears (s : State) (p kind : Nat) (v : BitVec 24) : Prop :=
  runs .chain s = true ∧ (portOf s p).st ≠ .disabled ∧ osGood v = true ∧ osKind v = kind

/-- A port has gone to Lock and trains afresh at step 0 (R457). -/
def Restarts (p : Nat) (t : State) : Prop :=
  (portOf t p).st = .lock ∧ (portOf t p).step = 0 ∧ (portOf t p).lock = false ∧ (portOf t p).ackSeen = false
    ∧ (portOf t p).txSleep = false ∧ (portOf t p).rxSleep = false ∧ (portOf t p).noStep = false

/-- A port's link-up period has ended: no frame of it is received, sent or queued any more (R459 R469). -/
def LinkEnds (p : Nat) (s t : State) : Prop :=
  (portOf t p).rx = none ∧ (portOf t p).tx = none ∧ (portOf t p).queue = [] ∧ (portOf t p).period = (portOf s p).period + 1

/-- Every port but one keeps its state, its frames and its queue. -/
def OthersStay (p : Nat) (s t : State) : Prop := ∀ q, q ≠ p →
  (portOf t q).st = (portOf s q).st ∧ (portOf t q).step = (portOf s q).step ∧ (portOf t q).rx = (portOf s q).rx
    ∧ (portOf t q).tx = (portOf s q).tx ∧ (portOf t q).queue = (portOf s q).queue ∧ (portOf t q).period = (portOf s q).period

/-- Every port but one is as it was. -/
def OtherPorts (p : Nat) (s t : State) : Prop := ∀ q, q ≠ p → portOf t q = portOf s q

/-- The pool invariant of the model's numbering: every frame of the pool has a number that has been given out. -/
def PoolInv (s : State) : Prop := ∀ f ∈ s.chain.frames, f.id < s.chain.nextFrame

end Sys2Proof.Machine
end

