-- ==== Sys2Proof/Certificates/Slice0/Obligations.lean ====
section
/-! DEFINITION. The statements for the provers: what the commands and the machine do, from the numbered rules of the spec. A command's
statement says that it completes, what its next state holds and which parts of the state it leaves as they were (`SameBut`). -/

set_option autoImplicit false

open Sys2Proof Sys2Proof.Machine

/-- The queue of commands (the model's own, notes/assumptions/1 and 2): a step takes the command at the front and runs it on the state with the
queue's rest; on an empty queue one clock of 4 ns of the time island passes,
  unless the island stands still: the chip is held in reset (R52) or stopped (R48). -/
def Obligations.QueueSteps : Prop :=
  (∀ (c : Instr) (r : List Instr) (s : State), s.pending = c :: r → step s = exec c { s with pending := r })
  ∧ (∀ s : State, s.pending = [] → ∃ t, step s = .next t ∧ SameBut [.time] s t ∧ (runs .time s = false → t = s)
    ∧ (runs .time s = true → t.time.now = s.time.now + 4 * 65536))

/-- Right after reset the three invariants hold, nothing waits and nothing has left the chip, both outputs are low (R333), and registers read
as the spec's reset values say (R137 R182 R254 R255 R295 R490 R552; boot values as the part is delivered, notes/assumptions/6). -/
def Obligations.ResetState : Prop :=
  LightInv State.reset ∧ CacheInv State.reset ∧ PoolInv State.reset ∧ State.reset.pending = [] ∧ State.reset.outputs = []
    ∧ State.reset.safety.a.slo = false ∧ State.reset.safety.b.slo = false
    ∧ [0x00000, 0x0494C, 0x33000, 0x33004, 0x34024, 0x5000C, 0x60008].map (readReg State.reset)
        = [0x4C581180, 0, 255, 0, 0x80008000, 1000, 0]

/-- R91. -/
def Obligations.GlbId : Prop := ∀ s : State, readReg s 0x0000 = 0x4C581180 ∧ readReg s 0x80000 = 0x4C581180

/-- Power-on and the ends of a reset (R34 R36 R49 R55 R64). -/
def Obligations.PowerOnAndRelease : Prop :=
  (∀ s : State, s.power.saving = false → s.power.awaitVin = false →
    Yields .vinRisePor s fun t => Restarted .por s t ∧ t.power = { s.power with
      held := true, por := true, pump := false, rstPend := [], vstop := false, shedEn := true, vholdWaived := false
      vholdSeen := false, sagOwed := false
      causes := if s.power.sagOwed then causeBits (.por :: s.power.rstPend) s.power.causes ||| 8
        else causeBits (.por :: s.power.rstPend) s.power.causes })
  ∧ (∀ (s : State) (svcEnN high : Bool), s.power.por = true →
      Yields (.porRelease svcEnN high) s fun t => t.power.por = false ∧ t.power.pump = true ∧ t.power.pinLow = !high
        ∧ (s.power.held = true → s.power.pinIgnored = false → s.power.thermLatch = false → s.power.awaitVin = false →
            s.power.saving = false →
            t.power.held = !high ∧ (high = true → t.power.svcEn = !svcEnN ∧ t.power.clkreqLow = true))
        ∧ t.power.causes = s.power.causes ∧ SameBut [.power] s t)
  ∧ (∀ (s : State) (svcEnN : Bool), s.power.held = true → s.power.por = false → s.power.thermLatch = false →
      s.power.awaitVin = false → s.power.saving = false →
      Yields (.resetNRelease svcEnN) s fun t => t.power = { s.power with
        pinLow := false, held := false, svcEn := !svcEnN, clkreqLow := true, vholdSeen := s.power.vholdRdy } ∧ SameBut [.power] s t)
  ∧ (∀ (s : State) (svcEnN : Bool), s.power.pinLow = true → s.power.pinIgnored = false → s.power.por = false →
      s.power.saving = false → s.power.held = true → s.power.thermLatch = false → s.power.awaitVin = false →
      Yields (.resetNStuck svcEnN) s fun t => t.power = { s.power with
        rstStuck := true, pinIgnored := true, causes := s.power.causes ||| 4, held := false, svcEn := !svcEnN, clkreqLow := true
        vholdSeen := s.power.vholdRdy } ∧ SameBut [.power] s t)
  ∧ (∀ s : State, s.power.pinIgnored = true →
      Yields .resetNHonoured s fun t => t.power = { s.power with pinIgnored := false, pinLow := false } ∧ SameBut [.power] s t)
  ∧ (∀ (s : State) (svcEnN : Bool), s.power.awaitVin = true → s.power.held = true → s.power.por = false →
      (s.power.pinLow = false ∨ s.power.pinIgnored = true) → s.power.thermLatch = false → s.power.saving = false →
      Yields (.sagRelease svcEnN) s fun t => t.power = { s.power with
        awaitVin := false, sagStage := 0, vstop := false, causes := s.power.causes ||| 8, held := false, svcEn := !svcEnN
        clkreqLow := true, vholdSeen := s.power.vholdRdy } ∧ SameBut [.power] s t)

/-- Chip resets that are asked for: the pin, the key, a rail, the removal of `VIN` (R33 R35 R54 R57). A reset asked for while a
record of the NVM is written waits for it (R54 R57), beside any other that waits. The chip stays held while anything holds it
(`holds`), and a save is not reset (R48). -/
def Obligations.ResetsAskedFor : Prop :=
  (∀ s : State, s.power.pinIgnored = false → s.power.saving = false → s.power.awaitVin = false → s.power.thermLatch = false →
      s.power.por = false →
      (s.nvm.queue = [] → Yields .resetNLow s fun t => Restarted .pin s t ∧ t.power.held = true ∧ t.power.pinLow = true
          ∧ t.power.rstPend = [] ∧ t.power.causes = causeBits (.pin :: s.power.rstPend) s.power.causes)
      ∧ (s.nvm.queue ≠ [] → Yields .resetNLow s fun t =>
          t.power = { s.power with pinLow := true, rstPend := s.power.rstPend ++ [.pin] } ∧ SameBut [.power] s t))
  ∧ (∀ (s : State) (value : BitVec 32), barOpen s = true → value.toNat % 65536 = 0xA5C3 →
      (s.nvm.queue = [] → Yields (.swrstKey true value) s fun t => Restarted .soft s t ∧ t.power.held = holds s.power
          ∧ t.power.rstPend = [] ∧ t.power.causes = causeBits (.soft :: s.power.rstPend) s.power.causes)
      ∧ (s.nvm.queue ≠ [] → Yields (.swrstKey true value) s fun t =>
          t.power = { s.power with rstPend := s.power.rstPend ++ [.soft] } ∧ SameBut [.power] s t))
  ∧ (∀ (s : State) (level0 : Bool) (value : BitVec 32), level0 = false ∨ value.toNat % 65536 ≠ 0xA5C3 →
      Yields (.swrstKey level0 value) s fun t => t = s)
  ∧ (∀ (s : State) (r : Rail), s.power.saving = true → Yields (.railUndervoltage r) s fun t => t.power = { s.power with
        vcoreOk := s.power.vcoreOk && r != .vcore, vdd18Ok := s.power.vdd18Ok && r != .vdd18, vserOk := s.power.vserOk && r != .vser }
      ∧ SameBut [.power] s t)
  ∧ (∀ (s : State) (r : Rail), s.power.saving = false → s.nvm.queue = [] →
      Yields (.railUndervoltage r) s fun t => Restarted .rail s t ∧ t.power.held = holds s.power
        ∧ t.power.causes = causeBits (.rail :: s.power.rstPend) s.power.causes
        ∧ t.power.vcoreOk = (s.power.vcoreOk && r != .vcore) ∧ t.power.vdd18Ok = (s.power.vdd18Ok && r != .vdd18)
        ∧ t.power.vserOk = (s.power.vserOk && r != .vser))
  ∧ (∀ s : State, s.nvm.queue = [] →
      Yields .vinRemoval s fun t => t.power = { ({} : Power) with
          causes := 0, sagOwed := s.power.awaitVin || s.power.sagOwed, inhibit := s.power.inhibit
          sagDwell := t.boot.sagDwell, vsagSave := t.boot.vsagSave, vsagSlow := t.boot.vsagSlow }
        ∧ t.boot = loadBoot s ∧ t.journal.retained = [] ∧ t.rings = {} ∧ t.safety = {} ∧ t.nvm.pages = s.nvm.pages)

/-- The stages of a sag, the save and the stop (R42 R43 R45 R46 R48 R67): a save stops the compositor, the ring engine, the chain and
the host link at its start, `VSTOP` every island but the management processor that saves. -/
def Obligations.SagStages : Prop :=
  (∀ s : State, s.power.sagStage = 0 → s.power.saving = false →
      Yields .vinSlow s fun t => t.power = { s.power with sagStage := 1, slows := min 65535 (s.power.slows + 1) } ∧ Drives 487 t
        ∧ SameBut [.power, .faults] s t)
  ∧ (∀ s : State, s.power.sagStage = 1 →
      Yields .sagDwell s fun t => t.power = { s.power with sagStage := 2 } ∧ SameBut [.power] s t)
  ∧ (∀ s : State, Yields .vinSlowRelease s fun t => t.power = { s.power with sagStage := 0 } ∧ SameBut [.power] s t)
  ∧ (∀ s : State, s.power.saving = false → s.power.awaitVin = false →
      Yields .saveSequence s fun t => t.power = { s.power with
          saving := true, saves := min 65535 (s.power.saves + 1), saveShort := !s.power.vholdRdy, saveStart := s.time.now
          saveComplete := false, saveRecords := 0, vholdEnd := 0, saveDuration := 0
          saveTiles := t.power.saveTiles }
        ∧ Drives 480 t ∧ (∀ i, i = .host ∨ i = .ring ∨ i = .comp ∨ i = .chain → runs i t = false)
        ∧ SameBut [.power, .strip, .tiles, .journal, .faults, .nvm] s t)
  ∧ (∀ s : State, Yields .vinStop s fun t => t.power = { s.power with vstop := true } ∧ t.safety.a.slo = false ∧ t.safety.b.slo = false
        ∧ (∀ n < 8, (tileOf t n).enabled = false) ∧ (∀ i, i ≠ .mp → runs i t = false) ∧ (s.power.saving = false → runs .mp t = false)
        ∧ SameBut [.power, .strip, .tiles, .chans] s t)

/-- The hold-up supply, the converter phases, the references and the measurements (R32 R38 R40 R59 R61 R63). -/
def Obligations.SuppliesAndClocks : Prop :=
  (∀ s : State, Yields .vholdReady s fun t => t.power = { s.power with vholdRdy := true, vholdSeen := true } ∧ ¬ Lasts 481 t
      ∧ SameBut [.power, .faults] s t)
  ∧ (∀ s : State, s.power.held = false → s.power.vholdSeen = false → s.power.vholdWaived = false →
      Yields .vholdReadyTimeout s fun t => t.power = { s.power with vholdWaived := true } ∧ Lasts 481 t ∧ (¬ Lasts 481 s → Drives 481 t)
        ∧ SameBut [.power, .faults] s t)
  ∧ (∀ s : State, s.power.held = false → s.power.vholdSeen = true →
      Yields .vholdFall s fun t => t.power = { s.power with vholdRdy := false } ∧ Lasts 481 t ∧ (¬ Lasts 481 s → Drives 481 t)
        ∧ SameBut [.power, .faults] s t)
  ∧ (∀ (s : State) (k : Fin 4), s.power.phases.testBit k.val = true →
      Yields (.buckPhase k) s fun t => t.power = { s.power with phases := t.power.phases }
        ∧ (∀ i, t.power.phases.testBit i = (s.power.phases.testBit i && decide (i ≠ k.val))) ∧ Drives 482 t ∧ SameBut [.power, .faults] s t)
  ∧ (∀ s : State, Yields (.clockReferenceFail .xin) s fun t =>
      t.power = { s.power with xinOk := false, clkBackup := true, clkFailed := t.power.clkFailed } ∧ t.power.clkFailed.testBit 0 = true
        ∧ t.faults.cond.testBit 483 = true ∧ SameBut [.power, .faults] s t)
  ∧ (∀ s : State, Yields (.clockReferenceFail .cref) s fun t =>
      t.power = { s.power with crefOk := false, clkFailed := t.power.clkFailed } ∧ t.power.clkFailed.testBit 1 = true
        ∧ t.faults.cond.testBit 484 = true ∧ (∀ p < 2, linkUp (portOf t p) = false)
        ∧ runs .chain t = false ∧ SameBut [.freeCtr, .power, .rings, .faults, .chain] s t)
  ∧ (∀ s : State, s.link.up = true → Yields (.clockReferenceFail .peref) s fun t =>
      t.power = { s.power with perefOk := false, clkFailed := t.power.clkFailed } ∧ t.power.clkFailed.testBit 2 = true
        ∧ t.faults.cond.testBit 485 = true ∧ t.link.up = false ∧ Drives 464 t ∧ SameBut [.power, .link, .rings, .cmp, .faults] s t)
  ∧ (∀ s : State, Yields (.clockReferenceReturn .xin) s fun t =>
      t.power = { s.power with xinOk := true, clkBackup := false, clkFailed := t.power.clkFailed } ∧ t.power.clkFailed.testBit 0 = false
        ∧ t.faults.cond.testBit 483 = false ∧ SameBut [.power, .faults] s t)
  ∧ (∀ s : State, Yields (.clockReferenceReturn .cref) s fun t =>
      t.power = { s.power with crefOk := true, clkFailed := t.power.clkFailed } ∧ t.power.clkFailed.testBit 1 = false
        ∧ t.faults.cond.testBit 484 = false ∧ SameBut [.power, .faults, .chain] s t)
  ∧ (∀ s : State, Yields (.clockReferenceReturn .peref) s fun t =>
      t.power = { s.power with perefOk := true, clkFailed := t.power.clkFailed } ∧ t.power.clkFailed.testBit 2 = false
        ∧ t.faults.cond.testBit 485 = false ∧ SameBut [.power, .faults] s t)
  ∧ (∀ (s : State) (vin : BitVec 16) (vhold : VholdSeen), Yields (.pwrMonUpdate vin vhold) s fun t =>
      t.power = { s.power with vinMv := vin.toNat, vholdMv := vhold.mv.toNat, vholdRdy := vhold.above
                               vholdSeen := s.power.vholdSeen || vhold.above }
        ∧ (vhold.above = true → ¬ Lasts 481 t) ∧ SameBut [.power, .faults] s t)

/-- The host-island resets (R73 R78 R102): the link and its configuration return to their reset values, abandoned marks clear,
the reset counter counts; only an uncommanded one raises `HOST_LINK_DOWN`. -/
def Obligations.HostIslandResets : Prop :=
  (∀ (s : State) (c : Instr), runs .host s = true → c = .perstNAssert ∨ c = .hotReset ∨ c = .linkDisable →
    Yields c s fun t => t.link = { resets := min 7 (s.link.resets + 1), reads := t.link.reads, nextItem := s.link.nextItem
                                   lateCpl := s.link.lateCpl } ∧ SameBut [.link, .rings, .cmp, .faults] s t)
  ∧ (∀ s : State, runs .host s = true → s.link.up = true →
    Yields .surpriseLinkDown s fun t => t.link = { resets := min 7 (s.link.resets + 1), reads := t.link.reads
                                                   nextItem := s.link.nextItem, lateCpl := s.link.lateCpl }
      ∧ Drives 464 t ∧ SameBut [.link, .rings, .cmp, .faults] s t)

/-- Link training, configuration writes, DMA and requests to a closed window (R70 R74 R75 R100 R600 R601). -/
def Obligations.HostConfiguration : Prop :=
  (∀ (s : State) (w v : Nat), runs .host s = true → s.link.up = false →
    Yields (.linkUp w v) s fun t => t.link = { s.link with up := true, width := w % 4, speed := v % 4 } ∧ SameBut [.link] s t)
  ∧ (∀ (s : State) (w : CfgWrite), runs .host s = true → s.link.up = true →
    Yields (.configurationWrite w) s fun t =>
      t.link = { (match w with
        | .busMaster b => { s.link with bme := b }
        | .memorySpace b => { s.link with mse := b }
        | .d3hot b => { s.link with d3hot := b }
        | .extendedTag b => { s.link with extTag := b }
        | .tenBitTag b => { s.link with tenBit := b }
        | .timeoutValue v => { s.link with cplTmo := v.val }
        | .timeoutDisable b => { s.link with cplTmoDis := b }
        | .maxRead c => { s.link with mrrs := min 512 (128 * 2 ^ c.val) }
        | .maxPayload c => { s.link with mps := min 256 (128 * 2 ^ c.val) }
        | .msixEnable b => { s.link with msixEn := b }
        | .functionMask b => { s.link with fnMask := b }
        | .bar false high v => { s.link with bar0 := setBits s.link.bar0 (if high then 32 else 0) 32 v.toNat / 2 ^ 20 * 2 ^ 20 }
        | .bar true high v => { s.link with bar2 := setBits s.link.bar2 (if high then 32 else 0) 32 v.toNat / 2 ^ 16 * 2 ^ 16 }
        | .aerUncorrectable v => { s.link with aerUncor := s.link.aerUncor &&& (2 ^ 32 - 1 - v.toNat) }
        | .aerCorrectable v => { s.link with aerCor := s.link.aerCor &&& (2 ^ 32 - 1 - v.toNat) } : Link) with
          reads := t.link.reads, pba := t.link.pba }
      ∧ SameBut [.outputs, .link, .rings, .cmp, .faults] s t)
  ∧ (∀ s : State, runs .ring s = true → s.link.up = true →
    Yields .dmaResume s fun t => t.link.bme = true ∧ t.link.d3hot = false ∧ (s.chain.rxBufs = [] → t.rings.done = [])
      ∧ SameBut [.outputs, .link, .rings, .faults, .chain] s t)
  ∧ (∀ (s : State) (write bar2 : Bool) (off : Nat) (value : BitVec 32), runs .host s = true → s.link.up = true →
    barOpen s = false →
    Yields (.unsupportedRequest write bar2 off value) s fun t => t = { s with
      outputs := .unsupportedRequest write :: s.outputs, link := { s.link with aerUncor := s.link.aerUncor ||| 2 ^ 20 } })

/-- The MSI-X table (R71 R127): a write of the vector control that clears the mask sends a pending message, where MSI-X is enabled and
DMA is possible; a write of another word goes to that word alone; other vectors stay. -/
def Obligations.MsixTableWrites : Prop :=
  (∀ (s : State) (v : Fin 64) (value : BitVec 32), barOpen s = true → dmaOk s = true → s.link.msixEn = true → s.link.fnMask = false →
    value.toNat.testBit 0 = false → s.link.pba.testBit v.val = true →
    (∀ u < 64, u ≠ v.val → s.link.pba.testBit u = true → (Tab.get {} s.link.msix u).mask = true) →
    Yields (.msixUnmask (Fin.ofNat 4096 (256 + v.val)) 3 value) s fun t =>
      t.outputs = .msix v.val (Tab.get {} s.link.msix v.val).addr (Tab.get {} s.link.msix v.val).data :: s.outputs
        ∧ (∀ i, t.link.pba.testBit i = (s.link.pba.testBit i && decide (i ≠ v.val)))
        ∧ Tab.get {} t.link.msix v.val = { Tab.get {} s.link.msix v.val with mask := false }
        ∧ (∀ u, u ≠ v.val → Tab.get {} t.link.msix u = Tab.get {} s.link.msix u) ∧ SameBut [.outputs, .link] s t)
  ∧ (∀ (s : State) (v : Fin 64) (word : Fin 3) (value : BitVec 32), barOpen s = true →
    (∀ u < 64, s.link.pba.testBit u = true → (Tab.get {} s.link.msix u).mask = true) →
    Yields (.msixUnmask (Fin.ofNat 4096 (256 + v.val)) (Fin.ofNat 4 word.val) value) s fun t =>
      Tab.get {} t.link.msix v.val = (match word with
        | 0 => { Tab.get {} s.link.msix v.val with addr := setBits (Tab.get {} s.link.msix v.val).addr 0 32 value.toNat }
        | 1 => { Tab.get {} s.link.msix v.val with addr := setBits (Tab.get {} s.link.msix v.val).addr 32 32 value.toNat }
        | 2 => { Tab.get {} s.link.msix v.val with data := value.toNat } : MsixEnt)
        ∧ (∀ u, u ≠ v.val → Tab.get {} t.link.msix u = Tab.get {} s.link.msix u) ∧ t.link.pba = s.link.pba ∧ SameBut [.link] s t)

/-- Reads of host memory end (R76 R77 R78 R79): data reach the descriptor that waits for them; a failed completion abandons the
other requests of the item (notes/assumptions/75), a timeout those of the whole turn of fetches; a completion of an abandoned request is
counted and discarded, one of no request is unexpected. -/
def Obligations.HostReadsEnd : Prop :=
  (∀ (s : State) (tag : Nat) (st : RdStatus) (data : Bytes), runs .host s = true → (s.link.abandoned.any fun a => tagOf s.link a == tag) = true →
    Yields (.hostReadCompletion tag st data) s fun t =>
      t.link = { s.link with reads := t.link.reads, lateCpl := min (2 ^ 32 - 1) (s.link.lateCpl + 1)
                             abandoned := s.link.abandoned.filter fun a => tagOf s.link a != tag }
        ∧ Drives 467 t ∧ SameBut [.outputs, .link, .faults] s t)
  ∧ (∀ (s : State) (tag : Nat) (st : RdStatus) (data : Bytes), runs .host s = true →
    (s.link.abandoned.any fun a => tagOf s.link a == tag) = false → s.link.reads.find? (hasTag s.link tag) = none →
    Yields (.hostReadCompletion tag st data) s fun t => t = { s with link := { s.link with aerUncor := s.link.aerUncor ||| 2 ^ 16 } })
  ∧ (∀ (s : State) (tag : Nat) (st : RdStatus) (data : Bytes) (r : ReadItem), runs .host s = true → st ≠ .ok →
    (s.link.abandoned.any fun a => tagOf s.link a == tag) = false → s.link.reads.find? (hasTag s.link tag) = some r →
    Yields (.hostReadCompletion tag st data) s fun t =>
      t.link = { s.link with reads := t.link.reads, abandoned := otherTags s.link tag r ++ s.link.abandoned
                             aerUncor := if st = .poisoned then s.link.aerUncor ||| 2 ^ 12 else s.link.aerUncor }
        ∧ Drives 466 t ∧ SameBut [.outputs, .link, .rings, .cmp, .faults] s t)
  ∧ (∀ (s : State) (tag id : Nat) (data : Bytes) (r : ReadItem) (d : Desc) (k : Nat × Nat) (addr : Nat),
    runs .host s = true → (s.link.abandoned.any fun a => tagOf s.link a == tag) = false →
    s.link.reads.find? (hasTag s.link tag) = some r → r.who = .desc id → r.chunks = [{ addr, len := data.length, tag := some k }] →
      tagOf s.link k = tag → descOf s id = some d →
    d.id = id →
    Yields (.hostReadCompletion tag .ok data) s fun t => descOf t id = some { d with data := some data }
        ∧ (∀ e, e ≠ id → descOf t e = descOf s e) ∧ SameBut [.outputs, .link, .rings] s t)
  ∧ (∀ (s : State) (tag : Nat) (r : ReadItem), runs .host s = true → s.link.reads.find? (hasTag s.link tag) = some r →
    s.link.cplTmoDis = false →
    Yields (.hostCplTmo tag) s fun t =>
      t.link = { s.link with
        reads := t.link.reads, aerUncor := s.link.aerUncor ||| 2 ^ 14
        abandoned := ((r :: s.link.reads.filter (sameTurn r)).flatMap fun y => y.chunks.filterMap Chunk.tag) ++ s.link.abandoned }
        ∧ Drives 465 t ∧ SameBut [.outputs, .link, .rings, .cmp, .faults] s t)

/-- The protection table (R84 R85 R87 R119): it changes as a whole or by one entry, and never leaves running rings without one at
level 0. -/
def Obligations.ProtectionTable : Prop :=
  (∀ (s : State) (value : BitVec 32), barOpen s = true → value.toNat.testBit 0 = true →
    tableRefused s { s.prot.shadow with winL0 := value.toNat.testBit 1 } = false →
    Yields (.apply true value) s fun t => t.prot.active = { s.prot.shadow with winL0 := value.toNat.testBit 1 }
      ∧ t.prot.shadow = t.prot.active ∧ t.prot.gen = (s.prot.gen + 1) % 65536 ∧ SameBut [.prot] s t)
  ∧ (∀ (s : State) (value : BitVec 32), barOpen s = true → value.toNat.testBit 0 = true →
    tableRefused s { s.prot.shadow with winL0 := value.toNat.testBit 1 } = true →
    Yields (.apply true value) s fun t => t.prot.active = s.prot.active ∧ t.prot.refused = true ∧ t.prot.gen = s.prot.gen
      ∧ SameBut [.prot] s t)
  ∧ (∀ (s : State) (value : BitVec 32), Yields (.apply false value) s fun t => t.prot.active = s.prot.active
      ∧ t.prot.shadow = s.prot.shadow ∧ t.prot.gen = s.prot.gen ∧ SameBut [.prot] s t)
  ∧ (∀ (s : State) (id : Nat) (d : Desc), Runs s id 0x68 d → tableRefused s (protEntry d.bytes s.prot.active) = false →
    Yields (.protSet id) s fun t => t.prot = { s.prot with
        active := protEntry d.bytes s.prot.active, shadow := protEntry d.bytes s.prot.shadow, gen := (s.prot.gen + 1) % 65536 }
      ∧ Completed id d stOK [] s t ∧ SameBut [.prot, .rings] s t)
  ∧ (∀ (s : State) (id : Nat) (d : Desc), Runs s id 0x68 d → tableRefused s (protEntry d.bytes s.prot.active) = true →
    Yields (.protSet id) s fun t => Completed id d stBADDESC [] s t ∧ SameBut [.rings] s t)

/-- Doorbells and host silence (R105 R106 R127 R134 R139): a good doorbell moves its index and ends the silence; a bad one is
recorded once and leaves the ring alone. -/
def Obligations.Doorbells : Prop :=
  (∀ (s : State) (n : Fin 32) (value : BitVec 32), barOpen s = true → (sqOf s n.val).state = .running →
    value.toNat % 4096 < 2 ^ (sqOf s n.val).size → value.toNat % 4096 ≠ (sqOf s n.val).tail →
    Yields (.sqTailDoorbell n value true) s fun t =>
      sqOf t n.val = { sqOf s n.val with tail := value.toNat % 4096 } ∧ (∀ k, k ≠ n.val → sqOf t k = sqOf s k)
        ∧ t.rings.cqs = s.rings.cqs ∧ t.rings.silence = false ∧ SameBut [.rings, .faults] s t)
  ∧ (∀ (s : State) (n : Fin 32) (value : BitVec 32) (proper : Bool), barOpen s = true → s.rings.dbErr.valid = false →
    (proper = false ∨ (sqOf s n.val).state ≠ .running ∨ 2 ^ (sqOf s n.val).size ≤ value.toNat % 4096) →
    Yields (.sqTailDoorbell n value proper) s fun t => t.rings = { s.rings with dbErr := {
        valid := true, kick := false, cq := false, ring := n.val, value := value.toNat % 4096
        cause := if proper = false then 3 else if (sqOf s n.val).state ≠ .running then 1 else 0 } }
      ∧ Drives 469 t ∧ SameBut [.rings, .faults] s t)
  ∧ (∀ (s : State) (n : Fin 32) (value : BitVec 32), barOpen s = true → (cqOf s n.val).enable = true →
    value.toNat % 4096 < 2 ^ (cqOf s n.val).size → value.toNat % 4096 = (cqOf s n.val).tail →
    (value.toNat % 4096 + 2 ^ (cqOf s n.val).size - (cqOf s n.val).head) % 2 ^ (cqOf s n.val).size ≤ posted (cqOf s n.val) →
    (n.val = 31 → s.rings.lostSince = 0) →
    Yields (.cqHeadDoorbell n value true) s fun t =>
      cqOf t n.val = { cqOf s n.val with head := value.toNat % 4096, armed := (cqOf s n.val).irqEn }
        ∧ (∀ k, k ≠ n.val → cqOf t k = cqOf s k) ∧ t.rings.sqs = s.rings.sqs ∧ SameBut [.rings, .faults] s t)
  ∧ (∀ s : State, runs .ring s = true → Yields .hostSilent s fun t => t.rings = { s.rings with silence := true } ∧ t.faults.cond.testBit 472 = true
      ∧ SameBut [.rings, .faults] s t)

/-- Rings are enabled, drained and disabled (R95 R96 R123 R127 R130 R131 R133). -/
def Obligations.RingsEnabled : Prop :=
  (∀ (s : State) (n : Fin 32) (value : BitVec 32), barOpen s = true → value.toNat.testBit 0 = true →
    (sqOf s n.val).state = .disabled → value.toNat / 256 % 32 ≠ 31 → (cqOf s (value.toNat / 256 % 32)).enable = true →
    Yields (.sqEnable n true value) s fun t =>
      (sqOf t n.val).state = .running ∧ (sqOf t n.val).bound = value.toNat / 256 % 32 ∧ (sqOf t n.val).head = 0 ∧ (sqOf t n.val).tail = 0
        ∧ (4 ≤ value.toNat / 16 % 16 → value.toNat / 16 % 16 ≤ 12 → (sqOf t n.val).size = value.toNat / 16 % 16)
        ∧ Tab.get 0 t.prot.shadow.level n.val = value.toNat / 65536 % 4 ∧ t.prot.active = s.prot.active
        ∧ (∀ k, k ≠ n.val → sqOf t k = sqOf s k) ∧ t.rings.cqs = s.rings.cqs ∧ SameBut [.prot, .rings] s t)
  ∧ (∀ (s : State) (n : Fin 32) (value : BitVec 32), barOpen s = true → value.toNat.testBit 0 = false →
    (sqOf s n.val).state = .running → (s.rings.inflight.any fun d => d.sq == n.val) = false →
    (s.rings.done.any fun d => d.sq == n.val) = false →
    Yields (.sqDrain n true value) s fun t =>
      (sqOf t n.val).state = .disabled ∧ (sqOf t n.val).head = 0 ∧ (sqOf t n.val).tail = 0 ∧ t.rings.inflight = s.rings.inflight
        ∧ t.rings.done = s.rings.done ∧ (∀ k, k ≠ n.val → sqOf t k = sqOf s k) ∧ t.chain = s.chain
        ∧ SameBut [.link, .prot, .rings, .chain] s t)
  ∧ (∀ (s : State) (n : Fin 32) (value : BitVec 32), barOpen s = true → value.toNat.testBit 0 = true → (cqOf s n.val).enable = false →
    Yields (.cqEnable n true value) s fun t =>
      (cqOf t n.val).enable = true ∧ (cqOf t n.val).head = 0 ∧ (cqOf t n.val).tail = 0 ∧ (cqOf t n.val).phase = true
        ∧ (cqOf t n.val).irqEn = value.toNat.testBit 8 ∧ (cqOf t n.val).armed = value.toNat.testBit 8
        ∧ (∀ k, k ≠ n.val → cqOf t k = cqOf s k) ∧ t.rings.sqs = s.rings.sqs ∧ SameBut [.rings] s t)
  ∧ (∀ (s : State) (n : Fin 32) (value : BitVec 32), barOpen s = true → value.toNat.testBit 0 = false → (cqOf s n.val).enable = true →
    n.val = 31 ∨ (reserved s n.val = 0 ∧ ∀ k < 32, (sqOf s k).state = .disabled ∨ (sqOf s k).bound ≠ n.val) →
    Yields (.cqDisable n true value) s fun t =>
      cqOf t n.val = { cqOf s n.val with enable := false, armed := false, irqEn := value.toNat.testBit 8 }
        ∧ (∀ k, k ≠ n.val → cqOf t k = cqOf s k) ∧ t.rings.sqs = s.rings.sqs ∧ SameBut [.rings] s t)
  ∧ (∀ (s : State) (n : Fin 32) (value : BitVec 32), barOpen s = true → (cqOf s n.val).enable = true →
    (cqOf s n.val).tail = (cqOf s n.val).head →
    Yields (.irqEnWrite n true value) s fun t =>
      cqOf t n.val = { cqOf s n.val with irqEn := value.toNat.testBit 8, armed := value.toNat.testBit 8 }
        ∧ (∀ k, k ≠ n.val → cqOf t k = cqOf s k) ∧ t.rings.sqs = s.rings.sqs ∧ SameBut [.rings] s t)

/-- Descriptors are fetched, consumed, dispatched, and their completions and events posted (R108 R110 R111 R116 R121 R123 R124
R128 R129). -/
def Obligations.DescriptorFlow : Prop :=
  (∀ (s : State) (n : Fin 32), dmaOk s = true → nextTurn s = some n.val →
    Yields (.descriptorFetch n) s fun t => t.rings = { s.rings with lastTurn := n.val } ∧ fetching t n.val = fetching s n.val + fetchable s n.val
      ∧ SameBut [.outputs, .link, .rings] s t)
  ∧ (∀ (s : State) (n : Fin 32) (r : ReadItem) (f : Nat) (k : Chunk) (data : Bytes),
    s.link.reads.find? (fun r => match r.who with | .fetch k _ c => k == n.val && c != 0 | _ => false) = some r →
    r.who = .fetch n.val f 1 → r.failed = false → r.chunks = [k] → k.data = some data → data.length = 64 →
    formatOk data = true → le data 0 1 ≠ 0x11 → privOk s.prot.active n.val data [] = true → (∀ d ∈ s.rings.inflight, d.id ≠ s.rings.nextId) →
    runs .ring s = true → s.faults.inj = none →
    Yields (.descriptorConsumed n {}) s fun t =>
      (sqOf t n.val).head = ((sqOf s n.val).head + 1) % 2 ^ (sqOf s n.val).size
        ∧ descOf t s.rings.nextId = some { id := s.rings.nextId, sq := n.val, slot := (sqOf s n.val).head, bytes := data, phase := .queued }
        ∧ t.rings.done = s.rings.done ∧ (∀ k, k ≠ n.val → sqOf t k = sqOf s k) ∧ SameBut [.link, .rings, .faults] s t)
  ∧ (∀ (s : State) (n : Fin 32) (r : ReadItem) (f : Nat) (k : Chunk) (data : Bytes),
    s.link.reads.find? (fun r => match r.who with | .fetch k _ c => k == n.val && c != 0 | _ => false) = some r →
    r.who = .fetch n.val f 1 → r.failed = false → r.chunks = [k] → k.data = some data → runs .ring s = true → s.faults.inj = none →
    Yields (.descriptorConsumed n { bad := [0] }) s fun t =>
      (sqOf t n.val).head = ((sqOf s n.val).head + 1) % 2 ^ (sqOf s n.val).size ∧ t.rings.inflight = s.rings.inflight
        ∧ t.rings.done = s.rings.done ++ [{ sq := n.val, status := stPOISON, lost := some (sqOf s n.val).head }]
        ∧ Drives 500 t ∧ t.faults.eccUncorr = min 65535 (s.faults.eccUncorr + 1) ∧ SameBut [.link, .rings, .faults] s t)
  ∧ (∀ (s : State) (id : Nat) (d : Desc), runs .ring s = true → descOf s id = some d → d.id = id → d.phase = .queued →
      (s.rings.inflight.any (blocks d)) = false →
    s.nvm.running = true → descReads d.bytes = none →
    Yields (.dispatch id) s fun t => descOf t id = some { d with phase := .running } ∧ (∀ e, e ≠ id → descOf t e = descOf s e)
      ∧ t.rings.done = s.rings.done ∧ SameBut [.rings] s t)
  ∧ (∀ (s : State) (d : Done) (r : List Done), s.rings.done = d :: r → dmaOk s = true →
    Yields .completionPost s fun t => t.rings.done = r ∧ t.rings.inflight = s.rings.inflight
      ∧ (∃ last, (∀ o ∈ writePieces s.link.mps ((cqOf s (sqOf s d.sq).bound).base + 32 * (cqOf s (sqOf s d.sq).bound).tail)
          (fit 28 (entryOf s d) ++ toLe 4 last), o ∈ t.outputs) ∧ last % 2 = if (cqOf s (sqOf s d.sq).bound).phase then 1 else 0)
      ∧ SameBut [.outputs, .link, .rings] s t)
  ∧ (∀ (s : State) (e : Event) (r : List Event), dmaOk s = true → s.rings.lostSince = 0 → s.rings.heldEvents = [] →
    s.rings.events = e :: r → eventRoom s = true →
    Yields .eventPost s fun t => t.rings.events = r ∧ t.rings.evtLost = s.rings.evtLost
      ∧ (∃ last, (∀ o ∈ writePieces s.link.mps ((cqOf s 31).base + 32 * (cqOf s 31).tail) (fit 28 (eventEntry e) ++ toLe 4 last), o ∈ t.outputs)
          ∧ last / 2 % 2 = 1) ∧ SameBut [.outputs, .link, .rings] s t)
  ∧ (∀ (s : State) (id : Nat) (d : Desc), Runs s id 0x01 d →
    Yields (.nop id) s fun t => Completed id d stOK [] s t ∧ SameBut [.rings] s t)

/-- Staging and committing layers (R145 R146 R165 R166): a set goes into the staged context only; a commit is taken as one held
group of copies; a seventeenth held group is rejected. -/
def Obligations.LayersStagedAndCommitted : Prop :=
  (∀ (s : State) (id : Nat) (d : Desc) (data : Bytes), Runs s id 0x10 d → d.failed = false → d.data = some data →
    Yields (.layerSet id) s fun t =>
      Tab.get {} t.cmp.staged (le d.bytes 16 1) =
          { ctx := ctxPatch (Tab.get {} s.cmp.staged (le d.bytes 16 1)).ctx (le d.bytes 18 2) data, owner := d.sq }
        ∧ (∀ l, l ≠ le d.bytes 16 1 → Tab.get {} t.cmp.staged l = Tab.get {} s.cmp.staged l)
        ∧ t.cmp = { s.cmp with staged := t.cmp.staged } ∧ Completed id d stOK [] s t ∧ SameBut [.rings, .cmp] s t)
  ∧ (∀ (s : State) (id : Nat) (d : Desc), Runs s id 0x11 d → (heldGroups s).length < 16 →
    ((layersOf (le d.bytes 16 8)).any fun l => isVideo l && cEn (Tab.get {} s.cmp.staged l).ctx
      && decide (2048 < cSrcW (Tab.get {} s.cmp.staged l).ctx)) = false →
    Yields (.layerCommit id) s fun t => ∃ g : Group,
        t.cmp = { s.cmp with groups := s.cmp.groups ++ [g], badLayer := t.cmp.badLayer }
        ∧ (∀ x ∈ g.layers, x.2.2.2 = true → Drives 449 t)
        ∧ g.gid = id ∧ g.sq = d.sq ∧ g.st = .held ∧ g.tag = le d.bytes 2 2
        ∧ g.layers.map (fun x => (x.1, x.2.1, x.2.2.1)) = (layersOf (le d.bytes 16 8)).map (fun l =>
            (l, (Tab.get {} s.cmp.staged l).ctx, (Tab.get {} s.cmp.staged l).owner))
        ∧ g.fences = d.fences.map (fun f => { addr := f.1, threshold := f.2 })
        ∧ g.target = (if le d.bytes 25 1 = 1 then some (le d.bytes 28 4) else none)
        ∧ t.rings.done = s.rings.done ∧ SameBut [.outputs, .link, .rings, .cmp, .frm, .faults] s t)
  ∧ (∀ (s : State) (id : Nat) (d : Desc), Runs s id 0x11 d → 16 ≤ (heldGroups s).length →
    Yields (.layerCommit id) s fun t => Completed id d stBUSY [] s t ∧ SameBut [.rings] s t)

/-- The resident cache (R161 R162 R163): a load stores its bytes and makes its lines valid, an eviction makes them invalid; a
range in use is not touched. -/
def Obligations.ResidentCache : Prop :=
  (∀ (s : State) (id : Nat) (d : Desc) (data : Bytes), CacheInv s → Runs s id 0x12 d → d.failed = false → d.data = some data →
    overlapsUse s (le d.bytes 16 4) (le d.bytes 16 4 + le d.bytes 20 4) = false →
    Yields (.cacheLoad id) s fun t =>
      (∀ i, ∀ h : i < data.length, Mem.read 0#8 t.cmp.cache (le d.bytes 16 4 + i) = data[i])
        ∧ (∀ a, a < le d.bytes 16 4 ∨ le d.bytes 16 4 + data.length ≤ a → Mem.read 0#8 t.cmp.cache a = Mem.read 0#8 s.cmp.cache a)
        ∧ t.cmp.valid = ranges.add s.cmp.valid (le d.bytes 16 4 / 64) ((le d.bytes 16 4 + le d.bytes 20 4) / 64)
        ∧ CacheInv t ∧ Completed id d stOK [] s t ∧ SameBut [.rings, .cmp, .cache] s t)
  ∧ (∀ (s : State) (id : Nat) (d : Desc), Runs s id 0x13 d →
    overlapsUse s (le d.bytes 16 4) (le d.bytes 16 4 + le d.bytes 20 4) = false →
    Yields (.cacheEvict id) s fun t =>
      t.cmp = { s.cmp with valid := ranges.remove s.cmp.valid (le d.bytes 16 4 / 64) ((le d.bytes 16 4 + le d.bytes 20 4) / 64) }
        ∧ Completed id d stOK [] s t ∧ SameBut [.rings, .cmp] s t)
  ∧ (∀ (s : State) (id : Nat) (d : Desc), Runs s id 0x13 d →
    overlapsUse s (le d.bytes 16 4) (le d.bytes 16 4 + le d.bytes 20 4) = true →
    Yields (.cacheEvict id) s fun t => Completed id d stBUSY [] s t ∧ SameBut [.rings] s t)

/-- Fences (R168 R169 R170): they are polled on a tick and on a kick, satisfied by a value at or past the threshold, and a group
that waits too long completes `FENCE_TMO`. -/
def Obligations.Fences : Prop :=
  (∀ s : State, dmaOk s = true →
    Yields .fencePollTick s fun t => (∀ g ∈ heldGroups s, ∀ (i : Nat) (f : Fence), g.fences[i]? = some f → f.satisfied = false →
      pollOut t g.gid i = true) ∧ SameBut [.outputs, .link] s t)
  ∧ (∀ (s : State) (n : Fin 32) (value : BitVec 32), barOpen s = true → dmaOk s = true →
    Yields (.fenceKick n value true) s fun t => (∀ g ∈ heldGroups s, g.sq = n.val → ∀ (i : Nat) (f : Fence), g.fences[i]? = some f →
      f.satisfied = false → pollOut t g.gid i = true) ∧ SameBut [.outputs, .link, .cmp] s t)
  ∧ (∀ (s : State) (gid : Nat) (e : Fin 8) (r : ReadItem) (g : Group) (f : Fence),
    s.link.reads.find? (fun r => r.who == .fence gid e.val && (r.failed || r.chunks.all fun c => c.data.isSome)) = some r →
    runs .comp s = true → r.failed = false → groupOf s gid = some g → g.fences[e.val]? = some f →
    f.threshold ≤ leNat (r.chunks.flatMap fun c => c.data.getD []) →
    Yields (.fencePollResult gid e) s fun t => (∃ h, groupOf t gid = some h ∧ h.gid = gid
        ∧ h.fences[e.val]? = some { f with satisfied := true, again := false } ∧ h.fences.length = g.fences.length
        ∧ ∀ j, j ≠ e.val → h.fences[j]? = g.fences[j]?) ∧ SameBut [.link, .cmp] s t)
  ∧ (∀ (s : State) (gid : Nat) (g : Group) (d : Desc) (a lim : Nat), groupOf s gid = some g → descOf s gid = some d →
    runs .comp s = true → s.frm.flipPending = true → g.st = .held → g.returned = false → (g.fences.any fun f => !f.satisfied) = true →
    g.age = some (a, lim) → lim ≤ a + 1 →
    Yields (.fenceTmo gid) s fun t => groupOf t gid = none ∧ t.cmp.active = s.cmp.active ∧ Completed gid d stFENCE_TMO [] s t
      ∧ Drives 452 t ∧ SameBut [.rings, .cmp, .faults] s t)

/-- The frame grid (R188 R190 R191 R196 R205 R208 R361): boundary, latch gap, cut point, `FRAME_CTRL` and the frame number. -/
def Obligations.FrameGrid : Prop :=
  (∀ s : State, runs .time s = true → s.frm.started = true → s.frm.inGap = true → s.frm.fell = none → nextNum s = s.frm.num + 1 →
    s.strip.stopped = false →
    Yields .frameBoundary s fun t => t.frm = { s.frm with
        num := s.frm.num + 1, start := gridAt s (nextNum s), steps := 0, stepsG := 0, inGap := false, flipPending := true
        shifted := t.frm.shifted, lmCond := t.frm.lmCond }
      ∧ t.safety.egTaken = setEgLimit s.safety.inForce ∧ t.safety.lmTaken = setLmLevel s.safety.inForce
      ∧ (∀ n < 8, (tileOf s n).enabled = true → (tileOf t n).shown = (tileOf s n).latched ∧ (tileOf t n).slice = 0)
      ∧ SameBut [.frm, .strip, .tiles, .safety, .faults, .cal, .time] s t)
  ∧ (∀ s : State, runs .time s = true → s.frm.started = false ∨ s.frm.inGap = true → s.frm.fell = none →
    Yields .frameBoundary s fun t => t.frm.num = nextNum s ∧ t.frm.start = gridAt s (nextNum s) ∧ t.frm.started = true
      ∧ t.frm.inGap = false ∧ t.frm.flipPending = true
      ∧ (s.frm.started = true → nextNum s ≠ s.frm.num + 1 → Drives 454 t ∧ t.frm.cntBridge = min 65535 (s.frm.cntBridge + 1))
      ∧ (s.frm.started = true → atOrAfter (nextNum s) s.frm.num = false → Drives 455 t))
  ∧ (∀ s : State, runs .time s = true → s.frm.started = true → s.frm.inGap = false → s.strip.stopped = false →
    Yields .latchGapStart s fun t => t.frm = { s.frm with inGap := true, cutPending := true }
      ∧ (∀ n < 8, (tileOf s n).releaseTaken = true → (tileOf t n).enabled = false
          ∧ ((tileOf s n).phase ≠ .none → (tileOf s n).phase ≠ .stuck → (tileOf t n).releasing = true))
      ∧ SameBut [.outputs, .rings, .frm, .strip, .tiles, .safety, .cal, .therm, .time, .nvm] s t)
  ∧ (∀ s : State, runs .comp s = true → s.frm.cutPending = true →
    Yields .cutPoint s fun t => t.frm = { s.frm with cutPending := false, cutPassed := true, cntLate := t.frm.cntLate }
      ∧ t.cmp.gate = s.cmp.gate.map (fun g => (true, g.2)) ∧ t.cmp.active = s.cmp.active ∧ SameBut [.rings, .cmp, .frm] s t)
  ∧ (∀ (s : State) (id : Nat) (d : Desc), Runs s id 0x18 d →
    Yields (.frameCtrl id) s fun t => t.frm = { s.frm with takenInPeriod := true }
      ∧ t.cmp = { s.cmp with gate := s.cmp.gate ++ [(false, .frameCtrl id (le d.bytes 16 2) (le d.bytes 24 8) s.frm.cutPassed)] }
      ∧ t.rings.done = s.rings.done ∧ SameBut [.rings, .cmp, .frm] s t)
  ∧ (∀ s : State, barOpen s = true →
    Yields .frmNumCapture s fun t => t = { s with
      frm := { s.frm with numCap := unsigned 32 (s.frm.num / 2 ^ 32) }
      outputs := .regRead 0x18010 (unsigned 32 s.frm.num) :: s.outputs })

/-- The flip gate and the composition (R167 R171 R172 R174 R176 R194 R202 R203): a boundary swaps in the frame whose composition has
ended and flips the groups that may; the composition's end confirms them; a stalled group completes `STALL`. -/
def Obligations.FlipAndComposition : Prop :=
  (∀ (s : State) (c : Comp), runs .comp s = true → s.frm.flipPending = true → s.cmp.comp = some c → c.ended = true → c.guardDrop = false →
    Yields (.boundaryFlip {}) s fun t => t.frm.flipPending = false ∧ t.cmp.front = c.frame ∧ t.frm.swapped = true ∧ t.frm.num = s.frm.num
      ∧ SameBut [.outputs, .link, .rings, .cmp, .frm, .strip, .tiles, .faults, .therm] s t)
  ∧ (∀ (s : State) (g : Group), runs .comp s = true → s.frm.flipPending = true → s.cmp.comp = none → s.cmp.gate = [] → s.cmp.groups = [g] →
      g.st = .held →
    g.fences = [] → g.target = none → g.afterCut = false →
    Yields (.boundaryFlip {}) s fun t => (∀ l, (layerOf t l).ctx = (Tab.get {} (applyGroup g s.cmp.active s.cmp.fetchLim) l).ctx)
      ∧ t.cmp.front = s.cmp.front ∧ t.frm.swapped = false ∧ t.faults.lmFirst = false)
  ∧ (∀ (s : State) (c : Comp), runs .comp s = true → s.cmp.comp = some c → c.ended = false → c.waiting = [] → c.failed = [] →
    Yields .compositionEnd s fun t => (∃ b, t.cmp.comp = some { c with ended := true, guardDrop := b })
      ∧ t.cmp.load = min (2 ^ 28 - 1) (layerPixels c.frame) ∧ (∀ g ∈ t.cmp.groups, g.st ≠ .provisional)
      ∧ t.cmp.active = s.cmp.active ∧ t.cmp.front = s.cmp.front ∧ SameBut [.rings, .cmp, .frm, .faults, .nvm] s t)
  ∧ (∀ (s : State) (gid : Nat) (g : Group) (d : Desc), runs .comp s = true → groupOf s gid = some g → descOf s gid = some d →
      s.frm.flipPending = true →
    stallDrop s = true → groupStalls s g = true → (if g.stalls = 0 then s.cmp.fetchLim else g.stallLimit) ≤ g.stalls + 1 →
    Yields (.fetchTmo (.group gid)) s fun t => groupOf t gid = none ∧ Completed gid d stSTALL [] s t ∧ Drives 448 t
      ∧ SameBut [.rings, .cmp, .frm, .faults] s t)
  ∧ (∀ s : State, runs .comp s = true → 0 < s.frm.staticHold → s.frm.staticHold ≤ s.frm.holdCnt → s.frm.unchanged = true → s.frm.static = false →
    Yields .staticPictureEntry s fun t => t.frm = { s.frm with static := true } ∧ SameBut [.frm] s t)

/-- Shifting (R200 R214 R215 R216): a Frond whose turn it is shifts the frame that stands in front, under the scale, limits and
strip settings of that boundary; a window above `EG_LIMIT` shows as clamping; while the boundary is yet to be taken in the compositor
it waits; words of the front store that fail are reported (R11). -/
def Obligations.ShiftStarts : Prop :=
  (∀ (s : State) (f : Fin 9) (n : Nat), runs .frond s = true → servedBy s f.val = some n → (frondOf s f.val).decide = true →
    (frondOf s f.val).shifting = none → s.frm.flipPending = false → (tileOf s n).enabled = true → s.frm.swapped = true →
    s.faults.inj = none →
    Yields (.shift f {}) s fun t => (∃ x, (frondOf t f.val).shifting = some x
        ∧ { x with diag := false, probes := [], repay := [] } = shiftInputs s n ∧ (frondOf t f.val).seqSent = unsigned 16 s.frm.num
        ∧ ((∃ i j, i < 95 ∧ j < 95 ∧ clampWindow x i j < 32768) → (frondOf t f.val).clamping = true ∧ Drives 460 t))
      ∧ (frondOf t f.val).decide = false ∧ (frondOf t f.val).shiftedNow = true ∧ (frondOf t f.val).since = 0
      ∧ (∀ g, g ≠ f.val → frondOf t g = frondOf s g) ∧ (∀ i, stripOf t i = stripOf s i)
      ∧ (∀ m, m ≠ n → tileOf t m = tileOf s m) ∧ { tileOf t n with diag := (tileOf s n).diag } = tileOf s n
      ∧ SameBut [.strip, .tiles, .faults] s t)
  ∧ (∀ (s : State) (f : Fin 9) (n : Nat) (ecc : EccSeen), runs .frond s = true → servedBy s f.val = some n →
    (frondOf s f.val).decide = true → (frondOf s f.val).shifting = none → s.frm.flipPending = false → (tileOf s n).enabled = true →
    s.frm.swapped = true → ecc.bad ≠ [] →
    Yields (.shift f ecc) s fun t => (frondOf t f.val).shifting.isSome = true ∧ Drives 500 t
      ∧ SameBut [.freeCtr, .rings, .strip, .tiles, .faults] s t)
  ∧ (∀ (s : State) (f : Fin 9) (ecc : EccSeen), s.frm.flipPending = true → Yields (.shift f ecc) s fun t => t = s)
  ∧ (∀ (s : State) (f : Fin 9) (n : Nat) (ecc : EccSeen), runs .frond s = true → servedBy s f.val = some n →
    (frondOf s f.val).decide = true → (frondOf s f.val).shifting = none → s.frm.flipPending = false →
    shiftDue s f.val n (shiftInputs s n) = false →
    Yields (.shift f ecc) s fun t => frondOf t f.val = { frondOf s f.val with decide := false, item := false }
      ∧ (∀ g, g ≠ f.val → frondOf t g = frondOf s g) ∧ (∀ i, stripOf t i = stripOf s i) ∧ SameBut [.strip] s t)

/-- Readback and latch (R230 R231 R234 R235 R240): the end of a shift compares each strip's check with that of the stream sent
before it; a latched strip shows what was shifted and one that refuses keeps what it latched before, a refusal counts as a NAK, and the
latch gives the sinks the settings that the duty side has. -/
def Obligations.ReadbackAndLatch : Prop :=
  (∀ (s : State) (f : Fin 9) (rets : List StripRet) (n : Nat) (x : ShiftRec), runs .frond s = true → servedBy s f.val = some n →
    (frondOf s f.val).shifting = some x →
    Yields (.shiftEnd f rets) s fun t => (frondOf t f.val).shifting = none ∧ (tileOf t n).sent = some x
      ∧ (∀ i, i < 24 → (stripOf t (24 * n + i)).held = true ∧ (stripOf t (24 * n + i)).crcSent = streamCheck (headerOf x i) (cellsOf x i)
          ∧ (∀ r, rets[i]? = some r → (stripOf t (24 * n + i)).crcRet = streamCheck r.header.toNat (fitCells r.cells)))
      ∧ (s.faults.inj = none → ∀ i r, i < 24 → rets[i]? = some r → (stripOf s (24 * n + i)).held = true →
          streamCheck r.header.toNat (fitCells r.cells) ≠ (stripOf s (24 * n + i)).crcSent → Drives (24 * n + i) t)
      ∧ (∀ k, k / 24 ≠ n → stripOf t k = stripOf s k) ∧ (∀ m, m ≠ n → tileOf t m = tileOf s m)
      ∧ SameBut [.rings, .strip, .tiles, .faults] s t)
  ∧ (∀ (s : State) (f : Fin 9) (seen : LatchSeen) (n : Nat) (x : ShiftRec), runs .frond s = true → servedBy s f.val = some n →
    s.frm.inGap = true → (frondOf s f.val).gapDone = false → (frondOf s f.val).shifting = none → (frondOf s f.val).shiftedNow = true →
    (tileOf s n).sent = some x →
    Yields (.latch f seen) s fun t =>
      (∀ i < 24, Tab.find (tileOf t n).latched i = if i ∈ seen.refused then Tab.find (tileOf s n).latched i else some x)
      ∧ (tileOf t n).sent = none ∧ t.outputs = .tlat n x.seq :: s.outputs
      ∧ (frondOf t f.val).gapDone = true ∧ (seen.refused ≠ [] → Drives 457 t)
      ∧ (frondOf t f.val).nakCnt = (if seen.refused = [] then (frondOf s f.val).nakCnt else satAdd (2 ^ 32 - 1) (frondOf s f.val).nakCnt 1)
      ∧ t.strip.aGlobalIref = s.strip.globalIref
      ∧ (∀ k, k < 24 → stripOf t (24 * n + k) = { stripOf s (24 * n + k) with
          aEn := (stripOf s (24 * n + k)).en, aChIref := (stripOf s (24 * n + k)).chIref, aTrim := (stripOf s (24 * n + k)).trim
          stale := (stripOf t (24 * n + k)).stale } ∧ ((stripOf s (24 * n + k)).stale = true → (stripOf t (24 * n + k)).stale = true))
      ∧ (∀ k, k / 24 ≠ n → stripOf t k = stripOf s k) ∧ (∀ m, m ≠ n → tileOf t m = tileOf s m)
      ∧ SameBut [.outputs, .rings, .strip, .tiles, .safety, .faults, .cal, .therm, .nvm] s t)

/-- Slices and strip settings (R190 R223 R224 R225 R240 R241 R242): a slice start sends the heartbeat token and, from the Frond that
drives the position's `TSYNCn`, the start pulse with its width code; slices that were missed count; a slice that starts again repeats
its pulse; a `STRIP_SET` waits for the flip gate. -/
def Obligations.SlicesAndStripSet : Prop :=
  (∀ (s : State) (f : Fin 9) (k : Fin 16) (telem : List (Nat × Nat × Nat)) (n : Nat), runs .frond s = true → drives s f.val = some n →
    (tileOf s n).enabled = true → (tileOf s n).started ≤ k.val →
    Yields (.sliceStart f k telem) s fun t =>
      t.outputs = .tsync n ((if k.val = 0 then 1 else 0)
          + (if (tileOf s n).skipN ≠ 0 ∧ ((tileOf s n).skipCnt + (k.val - (tileOf s n).started)) % (tileOf s n).skipN = (tileOf s n).skipN - 1
              then 2 else 0))
          :: .heartbeat f.val k.val :: s.outputs
        ∧ (tileOf t n).slice = k.val ∧ (tileOf t n).started = k.val + 1
        ∧ (tileOf t n).skipCnt = (tileOf s n).skipCnt + (k.val + 1 - (tileOf s n).started)
        ∧ (sloOn s = false → (tileOf t n).darkSlices = (tileOf s n).darkSlices ||| (2 ^ k.val - 2 ^ (tileOf s n).started) ||| 2 ^ k.val)
        ∧ (∀ m, m ≠ n → tileOf t m = tileOf s m) ∧ (∀ g, frondOf t g = frondOf s g)
        ∧ (∀ i, servedBy s f.val ≠ some (i / 24) → stripOf t i = stripOf s i)
        ∧ SameBut [.outputs, .strip, .tiles, .faults, .time] s t)
  ∧ (∀ (s : State) (f : Fin 9) (k : Fin 16) (telem : List (Nat × Nat × Nat)) (n : Nat), runs .frond s = true → drives s f.val = some n →
    (tileOf s n).enabled = true → k.val < (tileOf s n).started →
    Yields (.sliceStart f k telem) s fun t =>
      t.outputs = .tsync n ((if k.val = 0 then 1 else 0) + (if (tileOf s n).skipSlices.testBit k.val then 2 else 0))
          :: .heartbeat f.val k.val :: s.outputs
        ∧ (∀ m, tileOf t m = tileOf s m) ∧ (∀ g, frondOf t g = frondOf s g) ∧ SameBut [.outputs, .strip, .faults, .time] s t)
  ∧ (∀ (s : State) (f : Fin 9) (k : Fin 16) (telem : List (Nat × Nat × Nat)), runs .frond s = true → drives s f.val = none →
    servedBy s f.val = none →
    Yields (.sliceStart f k telem) s fun t => t.outputs = .heartbeat f.val k.val :: s.outputs ∧ SameBut [.outputs, .time] s t)
  ∧ (∀ (s : State) (id : Nat) (d : Desc), Runs s id 0x28 d →
    Yields (.stripSet id) s fun t => t.cmp = { s.cmp with gate := s.cmp.gate ++ [(false, .stripSet id s.frm.cutPassed)] }
      ∧ descOf t id = some { d with taken := true } ∧ t.rings.done = s.rings.done ∧ SameBut [.rings, .cmp] s t)

/-- A tile comes, goes, alerts and is retried (R261 R262 R264 R269 R281 R286): an inserted tile is read from its header, a removed
one is dark and unread; a fourth failed attempt on the tile bus raises `TILE_ALERT`. -/
def Obligations.TilePresence : Prop :=
  (∀ (s : State) (n : Fin 8), runs .frond s = true → (tileOf s n.val).present = false →
    Yields (.tileInsertion n) s fun t => tileOf t n.val = { tileOf s n.val with
        present := true, diag := freshMap (tileOf s n.val).diag, phase := .header, rescan := false, mapOk := false, curveOk := false
        cert := .pending, orphan := false, composed := false, baseKnown := false, attempts := 0 }
      ∧ t.outputs = .tileBusRead n.val 0x52 0 256 :: s.outputs ∧ (∀ m, m ≠ n.val → tileOf t m = tileOf s m)
      ∧ (∀ k, k < 24 → (stripOf t (24 * n.val + k)).held = false) ∧ (∀ k, k / 24 ≠ n.val → stripOf t k = stripOf s k)
      ∧ (∀ g, frondOf t g = frondOf s g) ∧ SameBut [.outputs, .strip, .tiles] s t)
  ∧ (∀ (s : State) (n : Fin 8), runs .frond s = true → (tileOf s n.val).present = true →
    Yields (.tileRemoval n) s fun t => (tileOf t n.val).present = false ∧ (tileOf t n.val).enabled = false
      ∧ (tileOf t n.val).header = none ∧ (tileOf t n.val).phase = .none ∧ (tileOf t n.val).p = []
      ∧ ((tileOf s n.val).released = false → Drives (440 + n.val) t) ∧ ((tileOf s n.val).released = true →
          (tileOf s n.val).commitFailed = false → t.journal = s.journal)
      ∧ (∀ f, serving s n.val = some f → (frondOf t f).shifting = none ∧ (frondOf t f).decide = false)
      ∧ (∀ m, m ≠ n.val → tileOf t m = tileOf s m) ∧ SameBut [.rings, .cmp, .strip, .tiles, .journal, .faults, .chain, .nvm] s t)
  ∧ (∀ (s : State) (n : Fin 8) (b : Byte), runs .frond s = true → (tileOf s n.val).present = true →
    Yields (.tileAlert n b) s fun t => tileOf t n.val = { tileOf s n.val with cause := b.toNat } ∧ Drives (432 + n.val) t
      ∧ (∀ m, m ≠ n.val → tileOf t m = tileOf s m) ∧ SameBut [.tiles, .faults] s t)
  ∧ (∀ (s : State) (n : Fin 8) (op : BusOp), runs .frond s = true →
    Yields (.tileBusRetry n true op) s fun t => tileOf t n.val = { tileOf s n.val with attempts := 0 }
      ∧ (∀ m, m ≠ n.val → tileOf t m = tileOf s m) ∧ SameBut [.tiles] s t)
  ∧ (∀ (s : State) (n : Fin 8) (op : BusOp), runs .frond s = true → (tileOf s n.val).attempts < 3 →
    Yields (.tileBusRetry n false op) s fun t => tileOf t n.val = { tileOf s n.val with
        busErr := satAdd 65535 (tileOf s n.val).busErr 1, attempts := (tileOf s n.val).attempts + 1 }
      ∧ (∀ m, m ≠ n.val → tileOf t m = tileOf s m) ∧ SameBut [.tiles] s t)
  ∧ (∀ (s : State) (n : Fin 8) (op : BusOp), runs .frond s = true → 3 ≤ (tileOf s n.val).attempts →
    Yields (.tileBusRetry n false op) s fun t => Drives (432 + n.val) t ∧ (tileOf t n.val).attempts = 0
      ∧ (tileOf t n.val).busErr = satAdd 65535 (tileOf s n.val).busErr 1 ∧ SameBut [.outputs, .rings, .cmp, .strip, .tiles, .faults, .chain] s t)

/-- The identity steps of a tile (R263 R267 R268 R269 R270 R271 R272): a header that passes leads on to the curve, one that fails leaves
the tile dark with `TILE_ID_BAD` and an event of kind 4; curve, trailer heads, ledger copies, certificate, challenge and map follow in
this order, each read from its address on the bus. -/
def Obligations.TileIdentity : Prop :=
  (∀ (s : State) (n : Fin 8) (b : Bytes) (h : Header), runs .frond s = true → (tileOf s n.val).phase = .header → parseHeader b = some h →
    Yields (.tileHeaderCheck n b) s fun t => tileOf t n.val = { tileOf s n.val with
        headerBytes := b, header := some h, ledSerial := some h.serial, phase := .curve }
      ∧ t.outputs = (if s.nvm.running then .tileBusRead n.val 0x52 0x100 132 :: s.outputs else s.outputs)
      ∧ (∀ m, m ≠ n.val → tileOf t m = tileOf s m)
      ∧ ((tileOf s n.val).rescan = false → ∃ e : Event, t.rings.events = s.rings.events ++ [e] ∧ e.typ = 4 ∧ e.arg0 = 5 * 256 + n.val)
      ∧ SameBut [.outputs, .rings, .tiles] s t)
  ∧ (∀ (s : State) (n : Fin 8) (b : Bytes), runs .frond s = true → (tileOf s n.val).phase = .header → parseHeader b = none →
    Yields (.tileHeaderCheck n b) s fun t => (tileOf t n.val).header = none ∧ (tileOf t n.val).phase = .none
      ∧ (tileOf t n.val).enabled = false ∧ (tileOf t n.val).headerBytes = b
      ∧ (∃ e : Event, t.rings.events = s.rings.events ++ [e] ∧ e.typ = 4 ∧ e.arg0 = 4 * 256 + n.val)
      ∧ Drives (424 + n.val) t ∧ (∀ m, m ≠ n.val → tileOf t m = tileOf s m) ∧ SameBut [.rings, .strip, .tiles, .faults] s t)
  ∧ (∀ (s : State) (n : Fin 8) (b : Bytes) (h : Header), runs .frond s = true → s.nvm.running = true →
    (tileOf s n.val).header = some h → (tileOf s n.val).phase = .curve →
    Yields (.tileIdentityStep n (.curve b)) s fun t => tileOf t n.val = { tileOf s n.val with
        curveOk := curveOk h b, curve := if curveOk h b then parseCurve b else [], phase := .heads }
      ∧ t.outputs = .tileBusRead n.val 0x52 0x132000 64 :: .tileBusRead n.val 0x52 0x112000 64 :: s.outputs
      ∧ (curveOk h b = false → Drives (424 + n.val) t) ∧ (∀ m, m ≠ n.val → tileOf t m = tileOf s m)
      ∧ SameBut [.outputs, .tiles, .faults] s t)
  ∧ (∀ (s : State) (n : Fin 8) (a b : Bytes) (h : Header), runs .frond s = true → s.nvm.running = true →
    (tileOf s n.val).header = some h → (tileOf s n.val).phase = .heads →
    Yields (.tileIdentityStep n (.heads a b)) s fun t => tileOf t n.val = { tileOf s n.val with phase := .ledger }
      ∧ (t.outputs = .tileBusRead n.val 0x52 0x120000 73792 :: .tileBusRead n.val 0x52 0x100000 73792 :: s.outputs
        ∨ t.outputs = .tileBusRead n.val 0x52 0x100000 73792 :: .tileBusRead n.val 0x52 0x120000 73792 :: s.outputs)
      ∧ (∀ x y, headGen h.serial a = some x → headGen h.serial b = some y → t.outputs.head? =
          some (if x < y then .tileBusRead n.val 0x52 0x100000 73792 else .tileBusRead n.val 0x52 0x120000 73792))
      ∧ (∀ m, m ≠ n.val → tileOf t m = tileOf s m) ∧ SameBut [.outputs, .tiles] s t)
  ∧ (∀ (s : State) (n : Fin 8) (a b : Bytes) (h : Header) (c : Copy), runs .frond s = true → s.nvm.running = true →
    (tileOf s n.val).header = some h → (tileOf s n.val).phase = .ledger → s.journal.retained = [] → s.journal.saved = [] →
    s.journal.orphans = [] → s.faults.inj = none →
    newest { tileOf s n.val with copyA := parseCopy h.serial a, copyB := parseCopy h.serial b } = some c →
    Yields (.tileIdentityStep n (.ledger a b {})) s fun t => tileOf t n.val = { tileOf s n.val with
        copyA := parseCopy h.serial a, copyB := parseCopy h.serial b, baseKnown := true, phase := .cert
        t := c.entries, gen := c.gen, time := c.time }
      ∧ t.outputs = .tileBusRead n.val 0x52 0x400 h.certLen :: s.outputs
      ∧ (∀ m, m ≠ n.val → tileOf t m = tileOf s m) ∧ SameBut [.outputs, .tiles, .faults] s t)
  ∧ (∀ (s : State) (n : Fin 8) (b : Bytes) (h : Header), runs .frond s = true → s.nvm.running = true →
    (tileOf s n.val).header = some h → (tileOf s n.val).phase = .cert →
    Yields (.tileIdentityStep n (.cert b)) s fun t => tileOf t n.val = (if certOk s h b
        then { tileOf s n.val with certBytes := b, phase := .challenge, nonceNo := s.tiles.nextNonce }
        else { tileOf s n.val with certBytes := b, phase := .map, cert := .failed })
      ∧ t.tiles.nextNonce = (if certOk s h b then s.tiles.nextNonce + 1 else s.tiles.nextNonce)
      ∧ t.outputs = (if certOk s h b
          then .tileBusRead n.val 0x5A 0x30 1 :: .tileBusWrite n.val 0x5A 0x10 (Config.nonce s.tiles.nextNonce) :: s.outputs
          else .tileBusRead n.val 0x52 0x1000 147456 :: s.outputs)
      ∧ (certOk s h b = false → Drives (416 + n.val) t)
      ∧ (∀ m, m ≠ n.val → tileOf t m = tileOf s m) ∧ SameBut [.outputs, .tiles, .faults] s t)
  ∧ (∀ (s : State) (n : Fin 8) (auth : Byte) (r : Bytes) (h : Header), runs .frond s = true → (tileOf s n.val).header = some h →
    (tileOf s n.val).phase = .challenge → auth.toNat.testBit 2 = false → auth.toNat.testBit 1 = true →
    Yields (.challengePoll n auth r) s fun t => tileOf t n.val = { tileOf s n.val with
        phase := .map
        cert := if Config.ecdsaVerify (Config.certKey (tileOf s n.val).certBytes)
          (Config.sha256 (Config.nonce (tileOf s n.val).nonceNo ++ toLe 16 h.serial)) r then .verified else .failed }
      ∧ t.outputs = .tileBusRead n.val 0x52 0x1000 147456 :: .tileBusRead n.val 0x5A 0x40 64 :: s.outputs
      ∧ ((tileOf t n.val).cert = .failed → Drives (416 + n.val) t)
      ∧ (∀ m, m ≠ n.val → tileOf t m = tileOf s m) ∧ SameBut [.outputs, .tiles, .faults] s t)
  ∧ (∀ (s : State) (n : Fin 8) (auth : Byte) (r : Bytes) (h : Header), runs .frond s = true → (tileOf s n.val).header = some h →
    (tileOf s n.val).phase = .challenge → auth.toNat.testBit 2 = false → auth.toNat.testBit 1 = false →
    Yields (.challengePoll n auth r) s fun t => t = { s with outputs := .tileBusRead n.val 0x5A 0x30 1 :: s.outputs })
  ∧ (∀ (s : State) (n : Fin 8) (c : Instr), runs .frond s = true → (tileOf s n.val).phase = .challenge →
    (c = .challengeTimeout n ∨ ∃ auth r, c = .challengePoll n auth r ∧ auth.toNat.testBit 2 = true ∧ (tileOf s n.val).header.isSome = true) →
    Yields c s fun t => tileOf t n.val = { tileOf s n.val with phase := .map, cert := .failed }
      ∧ t.outputs = .tileBusRead n.val 0x52 0x1000 147456 :: s.outputs ∧ Drives (416 + n.val) t
      ∧ (∀ m, m ≠ n.val → tileOf t m = tileOf s m) ∧ SameBut [.outputs, .tiles, .faults] s t)
  ∧ (∀ (s : State) (n : Fin 8) (b : Bytes) (h : Header), runs .frond s = true → s.nvm.running = true →
    (tileOf s n.val).header = some h → (tileOf s n.val).phase = .map →
    Yields (.tileIdentityStep n (.map b)) s fun t => (tileOf t n.val).phase = .ready
      ∧ (tileOf t n.val).mapOk = decide (b.length = 147456 ∧ crc32c b = h.mapCrc)
      ∧ ((tileOf t n.val).mapOk = false → Drives (424 + n.val) t)
      ∧ (true, if (tileOf t n.val).mapOk then GateItem.map n.val b else .mapOff n.val) ∈ t.cmp.gate
      ∧ (∀ m, m ≠ n.val → tileOf t m = tileOf s m) ∧ SameBut [.rings, .cmp, .tiles, .faults, .chain] s t)

/-- Gains, taps and commits (R274 R276 R278 R279 R286): every ready tile's gains go to the flip gate; a tap adds the charge of the frame
to P_b; a good read-back gives the tile the committed T_b and takes what the copy carries from P_b, the final one of a release makes
it `RELEASED`; a bad one is repeated once; a tap of a quarantined Frond is discarded and counted. -/
def Obligations.LedgerCharge : Prop :=
  (∀ s : State, runs .mp s = true → s.nvm.running = true →
    Yields .gainRecompute s fun t => (∀ n, n < 8 → ∀ h, (tileOf s n).phase = .ready → (tileOf s n).header = some h →
        ((true, GateItem.gains n ((List.range 9216).map fun b =>
          if (tileOf s n).curveOk then (gainOf (tileOf s n).curve (charge (tileOf s n) b / 2 ^ 32)).1 else 32768)) ∈ t.cmp.gate))
      ∧ (∀ n, (tileOf t n).t = (tileOf s n).t ∧ (tileOf t n).p = (tileOf s n).p ∧ (tileOf t n).gains = (tileOf s n).gains)
      ∧ SameBut [.rings, .cmp, .tiles, .faults, .chain] s t)
  ∧ (∀ (s : State) (f : Fin 9) (n : Nat), runs .mp s = true → servedBy s f.val = some n → (tileOf s n).tapPend = true →
    s.faults.inj = none →
    Yields (.ledgerTap f {}) s fun t => (∀ b, Tab.get 0 (tileOf t n).p b = Tab.get 0 (tileOf s n).p b
          + (if b < 9216 then match Tab.find (tileOf s n).shown (b / 96 * 4 / 16) with
              | some x => blockUnits (tileOf s n) x b * ledgerWeight s (x.strips.getD (b / 96 * 4 / 16) (false, 0)).2
              | none => 0
            else 0))
      ∧ (tileOf t n).t = (tileOf s n).t ∧ (tileOf t n).tapPend = false
      ∧ (∀ m, m ≠ n → (tileOf t m).p = (tileOf s m).p ∧ (tileOf t m).t = (tileOf s m).t) ∧ SameBut [.outputs, .tiles, .faults] s t)
  ∧ (∀ (s : State) (f : Fin 9) (n : Nat) (ecc : EccSeen), runs .mp s = true → servedBy s f.val = some n → (tileOf s n).tapPend = true →
    ecc.bad ≠ [] → Yields (.ledgerTap f ecc) s fun t => Drives 500 t ∧ (tileOf t n).tapPend = false)
  ∧ (∀ (s : State) (f : Fin 9) (ecc : EccSeen), runs .mp s = true → servedBy s f.val = none → (frondOf s f.val).role = .quarantined →
    Yields (.ledgerTap f ecc) s fun t => t.tiles = { s.tiles with discard := min (2 ^ 32 - 1) (s.tiles.discard + 1) })
  ∧ (∀ s : State, runs .mp s = true → s.nvm.running = true →
    Yields .periodicLedgerCommit s fun t => (∀ n, n < 8 → tileOf t n =
        (if (tileOf s n).present = true ∧ (tileOf s n).phase = .ready then { tileOf s n with commitReq := true } else tileOf s n))
      ∧ SameBut [.tiles, .chain] s t)
  ∧ (∀ (s : State) (n : Fin 8) (b : Bytes) (c : Commit) (k : Copy), runs .mp s = true → s.power.saving = false →
    (tileOf s n.val).commit = some c → parseCopy c.serial b = some k →
    Yields (.commitReadback n b) s fun t => (tileOf t n.val).commit = none ∧ (tileOf t n.val).commitFailed = false
      ∧ (tileOf t n.val).gen = c.gen ∧ (tileOf t n.val).time = c.time ∧ t.tiles.committing = none ∧ (tileOf t n.val).t = c.entries
      ∧ (∀ x v, (x, v) ∈ (tileOf t n.val).p ↔ v ≠ 0 ∧ ∃ w, (x, w) ∈ (tileOf s n.val).p ∧ v = w - Tab.get 0 c.snap x)
      ∧ (tileOf t n.val).released = ((tileOf s n.val).released || (c.final && (tileOf s n.val).releasing))
      ∧ (∀ m, m ≠ n.val → tileOf t m = tileOf s m) ∧ SameBut [.outputs, .rings, .tiles, .faults, .chain] s t)
  ∧ (∀ (s : State) (n : Fin 8) (b : Bytes) (c : Commit), runs .mp s = true → s.power.saving = false →
    (tileOf s n.val).commit = some c → parseCopy c.serial b = none → c.repeated = false →
    Yields (.commitReadback n b) s fun t => tileOf t n.val = { tileOf s n.val with commit := some { c with repeated := true } }
      ∧ (∀ m, m ≠ n.val → tileOf t m = tileOf s m) ∧ SameBut [.outputs, .rings, .tiles, .faults, .chain] s t)
  ∧ (∀ (s : State) (n : Fin 8) (b : Bytes) (c : Commit), runs .mp s = true → s.power.saving = false →
    (tileOf s n.val).commit = some c → parseCopy c.serial b = none → c.repeated = true → c.final = false →
    Yields (.commitReadback n b) s fun t => tileOf t n.val = { tileOf s n.val with commit := none, commitFailed := true }
      ∧ Drives 461 t ∧ t.tiles.committing = none ∧ (∀ m, m ≠ n.val → tileOf t m = tileOf s m)
      ∧ SameBut [.outputs, .rings, .tiles, .faults, .chain] s t)

/-- `TILE_CMD`, `LEDGER_READ`, `LEDGER_COMMIT` (R269 R279 R284 R285 R286 R287 R288): what each writes to host memory, changes, and
answers with. -/
def Obligations.TileCommands : Prop :=
  (∀ (s : State) (id : Nat) (d : Desc), Runs s id 0x20 d → le d.bytes 17 1 = 0 → dmaOk s = true →
    Yields (.status id) s fun t => t.outputs = (writePieces s.link.mps (le d.bytes 24 8) (statusRecord s (descTile d))).reverse ++ s.outputs
      ∧ Completed id d stOK [] s t ∧ SameBut [.outputs, .rings] s t)
  ∧ (∀ (s : State) (id : Nat) (d : Desc), Runs s id 0x20 d → le d.bytes 17 1 = 1 → (tileOf s (descTile d)).present = true →
    (tileOf s (descTile d)).released = false →
    Yields (.release id) s fun t => tileOf t (descTile d) = { tileOf s (descTile d) with releaseTaken := !(tileOf s (descTile d)).releasing }
      ∧ descOf t id = some { d with taken := true } ∧ t.rings.done = s.rings.done
      ∧ (∀ m, m ≠ descTile d → tileOf t m = tileOf s m) ∧ SameBut [.rings, .tiles] s t)
  ∧ (∀ (s : State) (id : Nat) (d : Desc), Runs s id 0x20 d → le d.bytes 17 1 = 1 →
    ((tileOf s (descTile d)).present = false ∨ (tileOf s (descTile d)).released = true) →
    Yields (.release id) s fun t => Completed id d stOK [] s t ∧ SameBut [.rings] s t)
  ∧ (∀ (c : Instr) (s : State) (id : Nat) (d : Desc),
    ((c = .rescan id ∧ le d.bytes 17 1 = 2) ∨ (c = .returnTile id ∧ le d.bytes 17 1 = 6)) → Runs s id 0x20 d →
    (tileOf s (descTile d)).present = true → (∀ e ∈ s.rings.inflight, e.id = id → e = d) →
    Yields c s fun t => (tileOf t (descTile d)).phase = .header ∧ (tileOf t (descTile d)).rescan = true
      ∧ (tileOf t (descTile d)).released = (if c = .rescan id then (tileOf s (descTile d)).released else false)
      ∧ (tileOf t (descTile d)).p = (tileOf s (descTile d)).p ∧ t.outputs = .tileBusRead (descTile d) 0x52 0 256 :: s.outputs
      ∧ descOf t id = some { d with taken := true } ∧ (∀ m, m ≠ descTile d → tileOf t m = tileOf s m)
      ∧ SameBut [.outputs, .rings, .tiles] s t)
  ∧ (∀ (s : State) (id : Nat) (d : Desc), Runs s id 0x20 d → le d.bytes 17 1 = 3 → dmaOk s = true →
    (tileOf s (descTile d)).headerBytes ≠ [] →
    Yields (.idRead id) s fun t => t.outputs = (writePieces s.link.mps (le d.bytes 24 8) (tileOf s (descTile d)).headerBytes).reverse
        ++ s.outputs ∧ Completed id d stOK [] s t
      ∧ SameBut [.outputs, .rings] s t)
  ∧ (∀ (s : State) (id : Nat) (d : Desc), Runs s id 0x20 d → le d.bytes 17 1 = 3 → (tileOf s (descTile d)).headerBytes = [] →
    Yields (.idRead id) s fun t => Completed id d stCHECK [] s t ∧ SameBut [.rings] s t)
  ∧ (∀ (s : State) (id : Nat) (d : Desc), Runs s id 0x20 d → le d.bytes 17 1 = 4 → dmaOk s = true →
    Yields (.orphanInfo id) s fun t =>
      t.outputs = (writePieces s.link.mps (le d.bytes 24 8) (fit 256 (s.journal.orphans.flatMap orphanEntry))).reverse ++ s.outputs
      ∧ Completed id d stOK [] s t ∧ SameBut [.outputs, .rings] s t)
  ∧ (∀ (s : State) (id : Nat) (d : Desc), Runs s id 0x20 d → le d.bytes 17 1 = 5 →
    Yields (.orphanClear id) s fun t => t.journal = { s.journal with orphans := s.journal.orphans.eraseIdx (descTile d) }
      ∧ Completed id d stOK [] s t ∧ SameBut [.rings, .journal] s t)
  ∧ (∀ (s : State) (id : Nat) (d : Desc), Runs s id 0x21 d → dmaOk s = true → (tileOf s (descTile d)).present = true →
    (tileOf s (descTile d)).baseKnown = true →
    Yields (.ledgerRead id) s fun t => t.outputs = (writePieces s.link.mps (le d.bytes 32 8)
        ((List.range (le d.bytes 24 4)).flatMap fun k => toLe 8 (chargeEntry (tileOf s (descTile d)) (le d.bytes 20 4 + k)))).reverse ++ s.outputs
      ∧ Completed id d stOK (toLe 4 (8 * le d.bytes 24 4)) s t ∧ SameBut [.outputs, .rings] s t)
  ∧ (∀ (s : State) (id : Nat) (d : Desc) (n : Nat), Runs s id 0x22 d → n < 8 → (le d.bytes 16 1).testBit n = true →
    (tileOf s n).present = true → (tileOf s n).phase = .ready →
    Yields (.ledgerCommit id) s fun t => (tileOf t n).commitReq = true ∧ descOf t id = some { d with taken := true }
      ∧ (∃ w : CommitWait, t.tiles.waits = s.tiles.waits ++ [w] ∧ w.id = id ∧ w.tiles.testBit n = true)
      ∧ t.rings.done = s.rings.done ∧ SameBut [.rings, .tiles] s t)

/-- Pixel diagnosis and the tile map (R272 R301 R308 R314 R317 R518): the verdict map is read packed, a probe period makes untested
pixels due, a map that was read again passes only if its check holds. -/
def Obligations.VerdictMaps : Prop :=
  (∀ (s : State) (id : Nat) (d : Desc), Runs s id 0x23 d → dmaOk s = true → (tileOf s (le d.bytes 16 1)).noOwner = false →
    (tileOf s (le d.bytes 16 1)).present = true →
    Yields (.diagRead id) s fun t =>
      t.outputs = (writePieces s.link.mps (le d.bytes 32 8) (diagRows (tileOf s (le d.bytes 16 1)).diag (le d.bytes 20 4) (le d.bytes 24 4))).reverse ++ s.outputs
      ∧ Completed id d (if countVerdict (tileOf s (le d.bytes 16 1)).diag (le d.bytes 20 4) (le d.bytes 24 4) 0 = 0 then stOK else stUNTESTED)
        (toLe 4 (countVerdict (tileOf s (le d.bytes 16 1)).diag (le d.bytes 20 4) (le d.bytes 24 4) 2)
          ++ toLe 4 (countVerdict (tileOf s (le d.bytes 16 1)).diag (le d.bytes 20 4) (le d.bytes 24 4) 3)
          ++ toLe 4 (countVerdict (tileOf s (le d.bytes 16 1)).diag (le d.bytes 20 4) (le d.bytes 24 4) 0)) s t
      ∧ SameBut [.outputs, .rings] s t)
  ∧ (∀ (s : State) (id : Nat) (d : Desc), Runs s id 0x23 d → (tileOf s (le d.bytes 16 1)).noOwner = true →
    Yields (.diagRead id) s fun t => Completed id d stQUARANTINE [] s t ∧ SameBut [.rings] s t)
  ∧ (∀ s : State, runs .frond s = true → s.nvm.running = true →
    Yields .probePeriod s fun t => (∀ n, n < 8 → tileOf t n = { tileOf s n with diag := probeEnd (tileOf s n).diag })
      ∧ (∀ n ix, n < 8 → ix < 147456 → ((tileOf t n).diag.due.testBit ix = true ↔ (tileOf s n).diag.due.testBit ix = true
          ∨ ((tileOf s n).diag.tested.testBit ix = false ∧ verdictOf (tileOf s n).diag ix = 0)))
      ∧ SameBut [.tiles] s t)
  ∧ (∀ (s : State) (n : Fin 8) (m : Bytes) (h : Header), runs .frond s = true → (tileOf s n.val).mapPending = true →
    (tileOf s n.val).header = some h →
    Yields (.mapRereadComplete n m) s fun t => tileOf t n.val = { tileOf s n.val with mapPending := false }
      ∧ t.cmp = { s.cmp with gate := s.cmp.gate ++ (if m.length = 147456 ∧ crc32c m = h.mapCrc then [(true, .map n.val m)] else []) }
      ∧ (∀ k, k ≠ n.val → tileOf t k = tileOf s k) ∧ SameBut [.cmp, .tiles] s t)

/-- The spare Frond (R316 R317 R318 R319 R320 R321): every missing token counts and is reported; the first makes a Frond suspect, the
second dead; the spare takes its position over, and without a spare the position is left dark. -/
def Obligations.SpareFronds : Prop :=
  (∀ (s : State) (f : Fin 9) (k : Fin 16) (seen : Bool), runs .ring s = true →
    ((frondOf s f.val).role = .active ∨ (frondOf s f.val).role = .suspect) → s.faults.inj = none →
    Yields (.heartbeatCheck f true seen k) s fun t => frondOf t f.val = { frondOf s f.val with misses := 0, role := .active }
      ∧ (∀ g, g ≠ f.val → frondOf t g = frondOf s g) ∧ (∀ n, heldBy s f.val = some n → (tileOf t n).tsyncBy = none)
      ∧ SameBut [.strip, .tiles, .time] s t)
  ∧ (∀ (s : State) (f : Fin 9) (k : Fin 16) (seen : Bool), runs .ring s = true → (frondOf s f.val).role = .active → s.faults.inj = none →
    Yields (.heartbeatCheck f false seen k) s fun t => frondOf t f.val = { frondOf s f.val with
        role := .suspect, misses := 1, hbMiss := satAdd (2 ^ 32 - 1) (frondOf s f.val).hbMiss 1 }
      ∧ Drives 211 t ∧ (∀ g, g ≠ f.val → frondOf t g = frondOf s g) ∧ SameBut [.outputs, .strip, .tiles, .faults, .time] s t)
  ∧ (∀ (s : State) (f : Fin 9) (k : Fin 16) (seen : Bool) (n g : Nat), runs .ring s = true → (frondOf s f.val).role = .suspect →
    s.faults.inj = none → heldBy s f.val = some n → spareOf s = some g →
    Yields (.heartbeatCheck f false seen k) s fun t => (frondOf t f.val).role = .quarantined ∧ (frondOf t g).role = .active
      ∧ (frondOf t g).epoch = ((tileOf s n).epoch + 1) % 65536 ∧ (tileOf t n).epoch = ((tileOf s n).epoch + 1) % 65536
      ∧ (tileOf t n).owner = some g ∧ (tileOf t n).takeover = true ∧ (tileOf t n).map = [] ∧ Drives (200 + f.val) t ∧ Drives 211 t
      ∧ (∀ m, m < 8 → m ≠ n → tileOf t m = { tileOf s m with
          tsyncBy := if (tileOf s m).tsyncBy = some f.val then none else (tileOf s m).tsyncBy })
      ∧ SameBut [.strip, .tiles, .faults, .time] s t)
  ∧ (∀ (s : State) (f : Fin 9) (k : Fin 16) (seen : Bool) (n : Nat), runs .ring s = true → (frondOf s f.val).role = .suspect →
    s.faults.inj = none → heldBy s f.val = some n → spareOf s = none →
    Yields (.heartbeatCheck f false seen k) s fun t => (frondOf t f.val).role = .quarantined ∧ (tileOf t n).noOwner = true
      ∧ (tileOf t n).enabled = false ∧ (tileOf t n).epoch = ((tileOf s n).epoch + 1) % 65536 ∧ Drives 209 t ∧ Drives (200 + f.val) t
      ∧ Drives 211 t ∧ SameBut [.strip, .tiles, .faults, .time] s t)
  ∧ (∀ (s : State) (f : Fin 9) (k : Fin 16) (seen : Bool), runs .ring s = true → (frondOf s f.val).role = .spare →
    heldBy s f.val = none → s.faults.inj = none →
    Yields (.heartbeatCheck f false seen k) s fun t => Drives 211 t
      ∧ (frondOf t f.val).hbMiss = satAdd (2 ^ 32 - 1) (frondOf s f.val).hbMiss 1
      ∧ (if (frondOf s f.val).misses = 0 then (frondOf t f.val).role = .spare ∧ (frondOf t f.val).misses = 1
          else (frondOf t f.val).role = .quarantined ∧ Drives (200 + f.val) t)
      ∧ (∀ g, g ≠ f.val → frondOf t g = frondOf s g) ∧ SameBut [.strip, .tiles, .faults, .time] s t)
  ∧ (∀ (s : State) (n : Fin 8) (g : Nat), runs .frond s = true → (tileOf s n.val).takeover = true →
    (tileOf s n.val).owner = some g → (frondOf s g).shifting = none →
    Yields (.takeoverComplete n) s fun t => (tileOf t n.val).takeover = false ∧ (tileOf t n.val).tsyncBy = none
      ∧ (s.frm.inGap = true ∨ s.frm.started = false ∨ slicesDue s ≤ (tileOf s n.val).started →
          tileOf t n.val = { tileOf s n.val with takeover := false, tsyncBy := none }
            ∧ t.outputs = .tileBusRead n.val 0x52 0x1000 147456 :: s.outputs)
      ∧ (s.frm.inGap = false → s.frm.started = true → (tileOf s n.val).started < slicesDue s → (tileOf s n.val).enabled = true →
          (tileOf t n.val).slice = slicesDue s - 1 ∧ (tileOf t n.val).started = slicesDue s
            ∧ ∃ c, t.outputs = .tsync n.val c :: .tileBusRead n.val 0x52 0x1000 147456 :: s.outputs)
      ∧ (∀ m, m ≠ n.val → tileOf t m = tileOf s m) ∧ SameBut [.outputs, .tiles] s t)
  ∧ (∀ (s : State) (f : Fin 9) (w : StaleWrite), runs .ring s = true → (frondOf s f.val).role = .quarantined →
    Yields (.frondStale f w) s fun t => frondOf t f.val = { frondOf s f.val with
        staleCnt := satAdd (2 ^ 32 - 1) (frondOf s f.val).staleCnt 1, staleSeen := true }
      ∧ ((frondOf s f.val).staleSeen = false → Drives 210 t) ∧ (∀ g, g ≠ f.val → frondOf t g = frondOf s g) ∧ SameBut [.strip, .faults] s t)
  ∧ (∀ (s : State) (id : Nat) (d : Desc), Runs s id 0x70 d → (frondOf s (le d.bytes 16 1)).role = .quarantined →
    Yields (.frondReinstate id) s fun t =>
      frondOf t (le d.bytes 16 1) = { frondOf s (le d.bytes 16 1) with role := .selftest, reinstate := some id }
      ∧ descOf t id = some { d with taken := true } ∧ (∀ g, g ≠ le d.bytes 16 1 → frondOf t g = frondOf s g) ∧ SameBut [.rings, .strip] s t)
  ∧ (∀ (s : State) (f : Fin 9) (id : Nat) (d : Desc), runs .frond s = true → (frondOf s f.val).role = .selftest →
    (frondOf s f.val).reinstate = some id → descOf s id = some d → (∀ n, n < 8 → (tileOf s n).noOwner = false) →
    Yields (.frondSelftestEnd f 1) s fun t => frondOf t f.val = { frondOf s f.val with
        role := .spare, epoch := 0, reinstate := none, selftest := 1, misses := 0 }
      ∧ Completed id d stOK (toLe 4 1) s t ∧ (∀ g, g ≠ f.val → frondOf t g = frondOf s g) ∧ SameBut [.rings, .strip] s t)
  ∧ (∀ (s : State) (f : Fin 9) (code id : Nat) (d : Desc), runs .frond s = true → (frondOf s f.val).role = .selftest →
    (frondOf s f.val).reinstate = some id → descOf s id = some d → 2 ≤ code → code ≤ 5 →
    Yields (.frondSelftestEnd f code) s fun t => frondOf t f.val = { frondOf s f.val with
        role := .quarantined, reinstate := none, selftest := code, misses := 0 }
      ∧ Completed id d stQUARANTINE (toLe 4 code) s t ∧ Drives (200 + f.val) t ∧ (∀ g, g ≠ f.val → frondOf t g = frondOf s g)
      ∧ SameBut [.rings, .strip, .faults] s t)

/-- Demands and discrepancies (R335 R336 R337 R379): a low input darkens its own channel and signals the other; the signal darkens that;
a discrepancy is a demand too, held until both inputs have been low; a hatch demand ends with the inputs, an emergency stop by the
restart code, which is carried over once it is awaited; the SEVERE line holds output b low while it is broken. -/
def Obligations.DemandsAndDiscrepancies : Prop :=
  (∀ (s : State) (ch : Chan) (p : Pair), runs .safety s = true → pairOn s p = true →
    Yields (.safetyInputDemand ch p) s fun t => (chanOf t ch).slo = false ∧ demandKnown (chanOf t ch) p = true
      ∧ signalled (chanOf t (otherChan ch)) p = true ∧ (chanOf t (otherChan ch)).slo = (chanOf s (otherChan ch)).slo
      ∧ (pairDemand s p = false → Lasts (pairSlot p) t) ∧ SameBut [.strip, .tiles, .chans, .safety, .faults] s t)
  ∧ (∀ (s : State) (ch : Chan) (p : Pair), runs .safety s = true → signalled (chanOf s ch) p = true →
    Yields (.demandSignal ch p) s fun t => (chanOf t ch).slo = false ∧ demandKnown (chanOf t ch) p = true
      ∧ signalled (chanOf t ch) p = false ∧ chanOf t (otherChan ch) = chanOf s (otherChan ch)
      ∧ (pairDemand s p = false → Lasts (pairSlot p) t) ∧ SameBut [.strip, .tiles, .chans, .safety, .faults] s t)
  ∧ (∀ (s : State) (ch : Chan) (p : Pair), runs .safety s = true → pairOn s p = true →
    Yields (.safDisc ch p) s fun t => (chanOf t ch).slo = false ∧ discHeld (chanOf t ch) p = true ∧ Lasts 490 t
      ∧ demandKnown (chanOf t ch) p = true ∧ pairDemand t p = true ∧ signalled (chanOf t (otherChan ch)) p = true
      ∧ (chanOf t (otherChan ch)).slo = (chanOf s (otherChan ch)).slo
      ∧ (pairDemand s p = false → Lasts (pairSlot p) t) ∧ SameBut [.strip, .tiles, .chans, .safety, .faults] s t)
  ∧ (∀ (s : State) (ch : Chan) (p : Pair), runs .safety s = true →
    Yields (.discrepancyClear ch p) s fun t => discHeld (chanOf t ch) p = false ∧ (∀ c, (chanOf t c).slo = (chanOf s c).slo)
      ∧ (∀ c q, (c, q) ≠ (ch, p) → discHeld (chanOf t c) q = discHeld (chanOf s c) q)
      ∧ (∀ c q, demandKnown (chanOf t c) q = demandKnown (chanOf s c) q)
      ∧ ((∀ c q, discHeld (chanOf t c) q = false) → ¬ Lasts 490 t) ∧ SameBut [.chans, .faults] s t)
  ∧ (∀ (s : State) (ch : Chan), runs .safety s = true → pairDisc s .hatch = false → (chanOf s ch).demHatch = true →
    Yields (.demandEnd ch .hatch) s fun t => (chanOf t ch).demHatch = false
      ∧ (chanOf t (otherChan ch)).demHatch = (chanOf s (otherChan ch)).demHatch
      ∧ ((chanOf s (otherChan ch)).demHatch = false → ¬ Lasts 488 t)
      ∧ ((chanOf s (otherChan ch)).demHatch = false → restartCode s = 1 → s.safety.hatchSince = true → restartWait s = true →
          (∀ c, (chanOf t c).demEstop = false) ∧ ¬ Lasts 489 t)
      ∧ (restartCode s ≠ 1 → ∀ c, (chanOf t c).demEstop = (chanOf s c).demEstop)
      ∧ (∀ c, (chanOf t c).slo = (chanOf s c).slo) ∧ SameBut [.chans, .safety, .faults] s t)
  ∧ (∀ (s : State) (ch : Chan), runs .safety s = true → pairDisc s .estop = false → (chanOf s ch).demEstop = true →
    Yields (.demandEnd ch .estop) s fun t =>
      (if restartCode s = 0 ∧ ((chanOf s (otherChan ch)).demEstop = false ∨ (chanOf s (otherChan ch)).released = true)
        then (∀ c, (chanOf t c).demEstop = false) ∧ ¬ Lasts 489 t ∧ t.safety.awaited = none
        else (chanOf t ch).demEstop = true ∧ (chanOf t ch).released = true
          ∧ chanOf t (otherChan ch) = { chanOf s (otherChan ch) with estop := true }
          ∧ t.safety.awaited = (if (chanOf s (otherChan ch)).demEstop = false ∨ (chanOf s (otherChan ch)).released = true
              then some (restartCode s) else s.safety.awaited))
      ∧ (∀ c, (chanOf t c).slo = (chanOf s c).slo) ∧ SameBut [.chans, .safety, .faults] s t)
  ∧ (∀ s : State, runs .safety s = true →
    (Yields (.severeLineBroken true) s fun t => (chanOf t .b).slo = false ∧ (chanOf t .b).severeLine = true
      ∧ chanOf t .a = chanOf s .a ∧ SameBut [.strip, .tiles, .chans] s t)
    ∧ Yields (.severeLineBroken false) s fun t => chanOf t .b = { chanOf s .b with severeLine := false }
      ∧ chanOf t .a = chanOf s .a ∧ SameBut [.chans] s t)

/-- Self-test, cross-link, tests and checks of the channels (R332 R333 R338 R339 R340 R341 R342 R345 R350): the outputs rise together, when
every permit condition holds in both, and any failed check darkens or raises its fault. -/
def Obligations.ExchangesAndChecks : Prop :=
  (∀ (s : State) (ch : Chan) (r : SelftestResult), runs .safety s = true → s.power.held = false → (chanOf s ch).selftestDone = false →
    Yields (.safetySelftest ch r) s fun t => (chanOf t ch).selftestDone = true
      ∧ (chanOf t ch).selftestOk = (r.ok && decide (t.safety.src ≠ 0) && !(fbOn t ch && r.fbHigh))
      ∧ ((chanOf t ch).selftestOk = false → Drives 497 t) ∧ (chanOf t ch).tp = pairOn t .estop
      ∧ t.outputs = (if pairOn t .estop then .testPulse (ch == .b) true :: s.outputs else s.outputs)
      ∧ (s.safety.src ≠ 0 → SameBut [.outputs, .chans, .faults] s t)
      ∧ (chanOf t ch).slo = (chanOf s ch).slo ∧ chanOf t (otherChan ch) = chanOf s (otherChan ch)
      ∧ SameBut [.outputs, .chans, .safeSet, .safety, .faults] s t)
  ∧ (∀ (s : State) (agree : Bool), runs .safety s = true →
    let s' := { s with safety := { s.safety with a := linkSeen agree s.safety.a, b := linkSeen agree s.safety.b } }
    Yields (.crossLinkExchange agree) s fun t => (∀ c, (chanOf t c).slo = (ownPermit s' .a && ownPermit s' .b))
      ∧ (∀ c, (chanOf t c).xcmp = false ∧ (chanOf t c).differs = ((chanOf s c).differs && !agree))
      ∧ SameBut [.strip, .tiles, .chans] s t)
  ∧ (∀ (s : State) (ch : Chan), runs .safety s = true →
    (Yields (.crossLinkLoss ch) s fun t => (chanOf t ch).slo = false ∧ (chanOf t ch).xcmp = true ∧ Drives 494 t
      ∧ chanOf t (otherChan ch) = chanOf s (otherChan ch) ∧ SameBut [.strip, .tiles, .chans, .faults] s t)
    ∧ Yields (.crossLinkDisagree ch) s fun t => (chanOf t ch).slo = false ∧ (chanOf t ch).differs = true ∧ Drives 494 t
      ∧ chanOf t (otherChan ch) = chanOf s (otherChan ch) ∧ SameBut [.strip, .tiles, .chans, .faults] s t)
  ∧ (∀ (s : State) (ch : Chan), runs .safety s = true → pairOn s .estop = true → (chanOf s ch).selftestOk = true →
    (chanOf s ch).inTest = false →
    Yields (.inputTestPulse ch) s fun t => chanOf t ch = { chanOf s ch with inTest := true, tp := false }
      ∧ t.outputs = .testPulse (ch == .b) true :: s.outputs ∧ chanOf t (otherChan ch) = chanOf s (otherChan ch) ∧ SameBut [.outputs, .chans] s t)
  ∧ (∀ (s : State) (ch : Chan) (e : EchoSeen), runs .safety s = true → (chanOf s ch).inTest = true →
    Yields (.safTpi ch e) s fun t =>
      chanOf t ch = { chanOf s ch with inTest := false, tp := pairOn s .estop, estop := (chanOf s ch).estop && e.returned }
      ∧ (e.returned = false → t.safety.tpDiscarded = satAdd 65535 s.safety.tpDiscarded 1 ∧ t.safety.tpFailed = s.safety.tpFailed
          ∧ SameBut [.chans, .safety] s t)
      ∧ (e.returned = true → (e.otherFell = true ∨ e.fell = false) →
          Drives 491 t ∧ t.safety.tpFailed = satAdd 65535 s.safety.tpFailed 1)
      ∧ (e.returned = true → e.otherFell = false → e.fell = true → SameBut [.chans] s t)
      ∧ chanOf t (otherChan ch) = chanOf s (otherChan ch) ∧ SameBut [.chans, .safety, .faults] s t)
  ∧ (∀ (s : State) (ch : Chan), runs .safety s = true → fbOn s ch = true → (chanOf s ch).slo = true → (chanOf s ch).outTest = false →
    Yields (.outputTestPulse ch) s fun t => chanOf t ch = { chanOf s ch with outTest := true, outDiscard := false }
      ∧ t.outputs = .testPulse (ch == .b) false :: s.outputs ∧ chanOf t (otherChan ch) = chanOf s (otherChan ch) ∧ SameBut [.outputs, .chans] s t)
  ∧ (∀ (s : State) (ch : Chan) (low high : Bool), runs .safety s = true → (chanOf s ch).outTest = true →
    Yields (.outputTestVerdict ch low high) s fun t => (chanOf t ch).outTest = false
      ∧ ((chanOf s ch).outDiscard = true → t.safety.tpDiscarded = satAdd 65535 s.safety.tpDiscarded 1 ∧ SameBut [.chans, .safety] s t)
      ∧ ((chanOf s ch).outDiscard = false → low = true → high = true → (chanOf t ch).fbOk = true ∧ (chanOf t ch).fb = true ∧ SameBut [.chans] s t)
      ∧ ((chanOf s ch).outDiscard = false → (low = false ∨ high = false) →
          Drives (sloSlot ch) t ∧ (chanOf t ch).fbOk = false ∧ (chanOf t ch).fb = high ∧ t.safety.tpFailed = satAdd 65535 s.safety.tpFailed 1)
      ∧ (chanOf t ch).slo = (chanOf s ch).slo ∧ chanOf t (otherChan ch) = chanOf s (otherChan ch) ∧ SameBut [.chans, .safety, .faults] s t)
  ∧ (∀ (s : State) (ch : Chan) (level : Bool), runs .safety s = true → (chanOf s ch).outTest = false →
    Yields (.feedbackCheck ch level) s fun t => chanOf t ch = { chanOf s ch with fb := level, fbOk := !fbOn s ch || level == (chanOf s ch).slo }
      ∧ (fbOn s ch = true → (Lasts (sloSlot ch) t ↔ level ≠ (chanOf s ch).slo)) ∧ chanOf t (otherChan ch) = chanOf s (otherChan ch)
      ∧ SameBut [.chans, .faults] s t)
  ∧ (∀ (s : State) (ch : Chan) (n : Fin 8) (st : List StripRet), runs .safety s = true →
    (∀ w ∈ divWindows s n.val st, divTrips (w.2.2.1, w.2.2.2) = false) →
    Yields (.egDiverse ch n st) s fun t => (∀ c, chanOf t c = chanOf s c)
      ∧ (ch = .a → t.safety.egRatio = min 65535 (divMax (divWindows s n.val st)).1) ∧ SameBut [.safety] s t)
  ∧ (∀ (s : State) (ch : Chan) (n : Fin 8) (st : List StripRet) (w : Nat × Nat × Nat × Nat), runs .safety s = true →
    w ∈ divWindows s n.val st → divTrips (w.2.2.1, w.2.2.2) = true →
    Yields (.egDiverse ch n st) s fun t => (chanOf t ch).slo = false ∧ Drives 495 t ∧ t.safety.tripValid = true
      ∧ (s.safety.tripValid = true → t.safety.tripTile = s.safety.tripTile) ∧ (s.safety.tripValid = false → t.safety.tripTile = n.val)
      ∧ chanOf t (otherChan ch) = chanOf s (otherChan ch) ∧ SameBut [.strip, .tiles, .chans, .safety, .faults] s t)

/-- The safety set (R354 R355 R356 R358 R359 R360 R361 R363 R365): an image is staged only if every field is in range, confirmed only by
its own check, written to the copy not in force, and taken by both channels at one exchange. -/
def Obligations.SafetySet : Prop :=
  (∀ (s : State) (id : Nat) (d : Desc) (b : Bytes), Runs s id 0x31 d → le d.bytes 20 4 ≤ 512 → d.failed = false → d.data = some b →
    setError (withCheck (b ++ s.safety.inForce.drop (le d.bytes 20 4))) = none →
    Yields (.safeWrite id) s fun t =>
      t.safety = { s.safety with staged := withCheck (b ++ s.safety.inForce.drop (le d.bytes 20 4)) }
        ∧ Completed id d stOK [] s t ∧ SameBut [.rings, .safety] s t)
  ∧ (∀ (s : State) (id : Nat) (d : Desc) (b : Bytes) (e : Nat × Nat), Runs s id 0x31 d → le d.bytes 20 4 ≤ 512 → d.failed = false →
    d.data = some b → setError (withCheck (b ++ s.safety.inForce.drop (le d.bytes 20 4))) = some e →
    Yields (.safeWrite id) s fun t => t.safety = (if s.safety.errValid then s.safety
        else { s.safety with errValid := true, errCause := e.1, errOffset := e.2 })
      ∧ Completed id d stCHECK [] s t ∧ SameBut [.rings, .safety] s t)
  ∧ (∀ (s : State) (id : Nat) (d : Desc), Runs s id 0x30 d → dmaOk s = true →
    ((setByNo s (le d.bytes 16 1)).take (min (le d.bytes 20 4) 512)).isEmpty = false →
    Yields (.safeRead id) s fun t =>
      t.outputs = (writePieces s.link.mps (le d.bytes 32 8) ((setByNo s (le d.bytes 16 1)).take (min (le d.bytes 20 4) 512))).reverse
          ++ s.outputs
        ∧ Completed id d stOK (toLe 4 ((setByNo s (le d.bytes 16 1)).take (min (le d.bytes 20 4) 512)).length
            ++ toLe 4 (setCheck (setByNo s (le d.bytes 16 1)))) s t ∧ SameBut [.outputs, .rings] s t)
  ∧ (∀ (s : State) (id : Nat) (d : Desc), Runs s id 0x32 d → s.safety.confirm = none → s.safety.confirmEn = true →
    s.safety.staged.isEmpty = false → le d.bytes 16 4 = setCheck s.safety.staged → s.power.inhibit = false →
    Yields (.safeConfirm id) s fun t => t.safety = { s.safety with confirm := some (id, false) }
      ∧ t.nvm = { s.nvm with queue := s.nvm.queue ++
          [{ page := if s.safety.copy = 1 then 7298 else 7297, bytes := s.safety.staged, why := .confirm id }] }
      ∧ descOf t id = some { d with taken := true } ∧ t.rings.done = s.rings.done ∧ SameBut [.rings, .safety, .nvm] s t)
  ∧ (∀ (s : State) (id : Nat) (d : Desc), Runs s id 0x32 d → s.safety.confirm = none → s.safety.confirmEn = false →
    Yields (.safeConfirm id) s fun t => t.safety = (if s.safety.errValid then s.safety
        else { s.safety with errValid := true, errCause := 7, errOffset := 0 })
      ∧ Completed id d stCHECK [] s t ∧ SameBut [.rings, .safety] s t)
  ∧ (∀ (s : State) (id : Nat) (d : Desc) (p : Page), runs .safety s = true → s.safety.confirm = some (id, true) → descOf s id = some d →
    pageOf s (if s.safety.copy = 1 then 7298 else 7297) = some p →
    Yields .safetySetInForce s fun t => t.safety = { s.safety with
        inForce := p.bytes, src := 1, copy := if s.safety.copy = 1 then 2 else 1, staged := [], confirm := none
        a := t.safety.a, b := t.safety.b }
      ∧ (∀ c, chanOf t c = { chanOf s c with tp := pairOn t .estop && !(chanOf s c).inTest && (chanOf s c).selftestDone })
      ∧ Completed id d stOK [] s t ∧ SameBut [.rings, .chans, .safeSet, .safety] s t)
  ∧ (∀ (s : State) (level0 : Bool) (v : BitVec 32), barOpen s = true →
    Yields (.safeLock level0 v) s fun t => t.safety = { s.safety with
        confirmEn := if s.safety.safeLock then s.safety.confirmEn else v.toNat.testBit 0
        safeLock := s.safety.safeLock || (level0 && v.toNat.testBit 31) }
      ∧ SameBut [.safety] s t)

/-- Events, windows and promotions (R374 R375 R377 R379 R385 R388 R389): an accepted event that fills its window promotes the slot, at
its class or one above while a fault of that class is unacknowledged; SEVERE darkens both outputs; a broken line counts as an event. -/
def Obligations.FaultPromotion : Prop :=
  (∀ (s : State) (k : Fin 512), runs .safety s = true → s.faults.started = true → (slotInfo k.val).isSome = true →
    s.faults.drive.testBit k.val = true →
    s.faults.accepted.testBit k.val = false → s.faults.cond.testBit k.val = false → (slotOf s k.val).wire = false →
    (slotOf s k.val).wcount = 0 → ((slotInfo k.val).map Prod.snd = some true ∨ (slotOf s k.val).n ≤ 1) →
    Yields (.faultSourceEvent [k]) s fun t => (slotOf t k.val).eff = effClass s (slotOf s k.val).cls
      ∧ (slotOf t k.val).esc = decide (effClass s (slotOf s k.val).cls ≠ (slotOf s k.val).cls) ∧ (slotOf t k.val).wcount = 0
      ∧ (slotOf t k.val).promotions = satAdd 65535 (slotOf s k.val).promotions 1
      ∧ (slotOf t k.val).events = satAdd 65535 (slotOf s k.val).events 1
      ∧ (1 ≤ effClass s (slotOf s k.val).cls → (slotOf t k.val).unack.testBit (effClass s (slotOf s k.val).cls) = true
          ∧ ∃ e : Event, t.rings.events = s.rings.events ++ [e] ∧ e.typ = 1)
      ∧ (3 ≤ effClass s (slotOf s k.val).cls → ∀ c, (chanOf t c).slo = false)
      ∧ (effClass s (slotOf s k.val).cls < 3 → ∀ c, chanOf t c = chanOf s c)
      ∧ t.faults.head = (s.faults.head + 1) % 256 ∧ (s.faults.uncopied < 256 → (Drives k.val t ↔ s.faults.pend.testBit k.val = true))
      ∧ (∀ m, m ≠ k.val → slotOf t m = slotOf s m) ∧ SameBut [.outputs, .link, .rings, .strip, .tiles, .chans, .slots, .faults] s t)
  ∧ (∀ (s : State) (k : Fin 512) (c : Nat), runs .safety s = true → s.faults.started = true → slotInfo k.val = some (c, false) →
    s.faults.drive.testBit k.val = true → s.faults.accepted.testBit k.val = false → (slotOf s k.val).wire = false →
    (slotOf s k.val).wcount = 0 → 1 < (slotOf s k.val).n →
    Yields (.faultSourceEvent [k]) s fun t => slotOf t k.val = { slotOf s k.val with
        events := satAdd 65535 (slotOf s k.val).events 1, winCls := (slotOf s k.val).cls, winN := (slotOf s k.val).n, wcount := 1 }
      ∧ t.faults.head = s.faults.head ∧ (∀ m, m ≠ k.val → slotOf t m = slotOf s m) ∧ SameBut [.slots, .faults] s t)
  ∧ (∀ (s : State) (k : Fin 512) (code : Bool), runs .safety s = true → s.faults.started = true → (slotInfo k.val).isSome = true →
    (slotOf s k.val).wire = false → (∀ j, s.faults.inj = some j → j.slot ≠ k.val ∨ j.checker ≠ 3) →
    Yields (.fltWire k code) s fun t => (slotOf t k.val).wire = true ∧ (slotOf t k.val).code = code ∧ Drives 498 t
      ∧ (slotOf t k.val).events = satAdd 65535 (slotOf s k.val).events 1
      ∧ t.faults.wireValid = true ∧ t.faults.wireSlot = (if s.faults.wireValid then s.faults.wireSlot else k.val)
      ∧ (∀ m, m ≠ k.val → slotOf t m = slotOf s m) ∧ SameBut [.outputs, .link, .rings, .strip, .tiles, .chans, .slots, .faults] s t)
  ∧ (∀ (s : State) (k : Fin 512) (code : Bool) (j : Inject), runs .safety s = true → s.faults.started = true →
    (slotInfo k.val).isSome = true → (slotOf s k.val).wire = false → s.faults.inj = some j → j.slot = k.val → j.checker = 3 →
    Yields (.fltWire k code) s fun t => (slotOf t k.val).wire = false ∧ Drives 498 t
      ∧ (slotOf t k.val).events = satAdd 65535 (slotOf s k.val).events 1 ∧ (j.left ≤ 1 → t.faults.inj = none)
      ∧ (∀ m, m ≠ k.val → slotOf t m = slotOf s m) ∧ SameBut [.outputs, .link, .rings, .strip, .tiles, .chans, .slots, .faults] s t)
  ∧ (∀ (s : State) (k : Fin 512), runs .safety s = true → 0 < (slotOf s k.val).wcount →
    Yields (.windowExpiry k) s fun t => slotOf t k.val = { slotOf s k.val with wcount := 0 }
      ∧ (∀ m, m ≠ k.val → slotOf t m = slotOf s m) ∧ SameBut [.slots] s t)

/-- Acknowledgement, injection, vector 32, the log's copy and the collector's start (R380 R381 R385 R386 R387 R390 R394 R409 R568). -/
def Obligations.FaultHandling : Prop :=
  (∀ (s : State) (id : Nat) (d : Desc), Runs s id 0x38 d → le d.bytes 16 2 ≠ 0xFFFF → (slotOf s (le d.bytes 16 2)).unack ≠ 0 →
    lineGood s (le d.bytes 16 2) = true →
    Yields (.faultAck id) s fun t => slotOf t (le d.bytes 16 2) = { slotOf s (le d.bytes 16 2) with unack := 0 }
      ∧ t.faults.head = (s.faults.head + 1) % 256 ∧ Completed id d stOK [] s t
      ∧ (∀ m, m ≠ le d.bytes 16 2 → slotOf t m = slotOf s m) ∧ (∀ c, (chanOf t c).slo = (chanOf s c).slo)
      ∧ SameBut [.rings, .chans, .safety, .slots, .faults] s t)
  ∧ (∀ (s : State) (id : Nat) (d : Desc), Runs s id 0x38 d → le d.bytes 16 2 ≠ 0xFFFF → (slotOf s (le d.bytes 16 2)).unack ≠ 0 →
    lineGood s (le d.bytes 16 2) = false →
    Yields (.faultAck id) s fun t => Completed id d stBUSY [] s t ∧ (∀ m, slotOf t m = slotOf s m)
      ∧ SameBut [.rings, .chans, .safety, .faults] s t)
  ∧ (∀ (s : State) (id : Nat) (d : Desc), Runs s id 0x39 d → s.faults.inj = none →
    Yields (.faultInject id) s fun t => t.faults = { s.faults with
        inj := some { id, slot := le d.bytes 16 2, checker := le d.bytes 18 1, left := le d.bytes 19 1 } }
      ∧ descOf t id = some { d with taken := true } ∧ t.rings.done = s.rings.done ∧ SameBut [.rings, .faults] s t)
  ∧ (∀ (s : State) (id : Nat) (d : Desc), Runs s id 0x39 d → s.faults.inj.isSome = true →
    Yields (.faultInject id) s fun t => Completed id d stBUSY [] s t ∧ SameBut [.rings] s t)
  ∧ (∀ (s : State) (j : Inject) (d : Desc), runs .ring s = true → s.faults.inj = some j → descOf s j.id = some d →
    Yields .injectionTimeout s fun t => t.faults = { s.faults with inj := none } ∧ Completed j.id d stUNTESTED [] s t ∧ SameBut [.rings,
      .faults] s t)
  ∧ (∀ (s : State) (v : BitVec 32), barOpen s = true → v.toNat.testBit 0 = true →
    Yields (.rearm v) s fun t => t.faults = { s.faults with irqMissed := false, irqArmed := !s.faults.irqMissed }
      ∧ (s.faults.irqMissed = true → canSignal s 32 = true →
          t.outputs = .msix 32 (Tab.get {} s.link.msix 32).addr (Tab.get {} s.link.msix 32).data :: s.outputs ∧ t.link = s.link)
      ∧ (s.faults.irqMissed = true → canSignal s 32 = false →
          t.link = { s.link with pba := s.link.pba ||| 2 ^ 32 } ∧ t.outputs = s.outputs)
      ∧ SameBut [.outputs, .link, .faults] s t)
  ∧ (∀ s : State, runs .mp s = true → 0 < s.faults.uncopied →
      (s.nvm.queue.any fun r => match r.why with | .logCopy _ => true | _ => false) = false →
    s.power.inhibit = false →
    Yields .logCopy s fun t => t.nvm = { s.nvm with queue := s.nvm.queue ++
        [{ page := 0, bytes := [], why := .logCopy (min logPerRec s.faults.uncopied) }] } ∧ SameBut [.nvm] s t)
  ∧ (∀ (s : State) (base : Nat), runs .frond s = true → Yields (.refRref base) s fun t =>
      t.cal = { s.cal with rrefOk := decide (9500 ≤ base) && decide (base ≤ 10500), iBase := min 65535 base }
      ∧ (Lasts 215 t ↔ ¬ (9500 ≤ base ∧ base ≤ 10500)) ∧ SameBut [.faults, .cal] s t)
  ∧ (∀ s : State, runs .safety s = true → s.power.held = false → s.faults.started = false →
    Yields .faultCollectorStart s fun t => t.faults.started = true
      ∧ t.power = { s.power with vcoreOk := true, vdd18Ok := true, vserOk := true, xinOk := !s.power.clkFailed.testBit 0
                                 crefOk := !s.power.clkFailed.testBit 1, perefOk := !s.power.clkFailed.testBit 2
                                 clkBackup := s.power.clkFailed.testBit 0 }
      ∧ (∀ p, p < 2 → (portOf s p).en = true → (portOf s p).started = false → (portOf s p).st = .disabled →
          s.power.clkFailed.testBit 1 = false → (portOf t p).st = .lock)
      ∧ SameBut [.power, .faults, .chain] s t)

/-- Calibration (R407 R409 R410 R413): a full run measures all 192 channels, a single channel goes before the next of a run; a ratio in range
sets the drift and the trim, one out of range raises `CAL_RANGE` and changes neither. -/
def Obligations.CalibrationRuns : Prop :=
  (∀ (s : State) (id : Nat) (d : Desc), Runs s id 0x40 d → le d.bytes 16 2 = 0xFFFF → s.cal.running = false →
    Yields (.calRun id) s fun t => t.cal.running = true ∧ t.cal.todo = List.range 192 ∧ t.cal.retry = [] ∧ t.cal.second = false
      ∧ t.cal.tCal = s.cal.tC ∧ (∃ w ∈ t.cal.waits, w.id = id ∧ w.channel = none ∧ w.queued = false)
      ∧ t.therm.demands = s.therm.demands ++ [{ mask := 15 }] ∧ descOf t id = some { d with taken := true } ∧ SameBut [.rings, .cal, .therm] s t)
  ∧ (∀ (s : State) (id : Nat) (d : Desc), Runs s id 0x40 d → le d.bytes 16 2 = 0xFFFF → s.cal.running = true →
    Yields (.calRun id) s fun t => t.cal = { s.cal with queued := true, waits := s.cal.waits ++ [{ id, channel := none, queued := true }] }
      ∧ descOf t id = some { d with taken := true } ∧ SameBut [.rings, .cal] s t)
  ∧ (∀ (s : State) (id : Nat) (d : Desc), Runs s id 0x40 d → le d.bytes 16 2 ≠ 0xFFFF →
    Yields (.calRun id) s fun t => t.cal = { s.cal with
        singles := s.cal.singles ++ [le d.bytes 16 2], waits := s.cal.waits ++ [{ id, channel := some (le d.bytes 16 2) }] }
      ∧ descOf t id = some { d with taken := true } ∧ SameBut [.rings, .cal, .therm] s t)
  ∧ (∀ (s : State) (c : Fin 192) (hi lo : Nat) (v : Int), runs .mp s = true → s.cal.now = some (c.val, false, true) → s.cal.todo ≠ [] →
    900000 ≤ hi → hi ≤ 1100000 → max hi lo - min hi lo ≤ 5000 →
    v = 64 + roundAway ((936 + ((calOf s c.val).trim : Int)) * 1000000 - 1000 * hi) hi → 0 ≤ v → v ≤ 127 → (v - tInterp s c.val).natAbs ≤ 24 →
    Yields (.calResult c [hi, lo]) s fun t => (calOf t c.val).delta = v - tInterp s c.val ∧ ((calOf t c.val).trim : Int) = v
      ∧ t.cal.ranges = s.cal.ranges ∧ (∀ k, k ≠ c.val → calOf t k = calOf s k)
      ∧ SameBut [.freeCtr, .rings, .cmp, .safety, .faults, .cal, .therm, .nvm] s t)
  ∧ (∀ (s : State) (c : Fin 192) (hi lo : Nat), runs .mp s = true → s.cal.now = some (c.val, false, true) → s.cal.todo ≠ [] →
    (hi < 900000 ∨ 1100000 < hi ∨ 5000 < max hi lo - min hi lo) →
    Yields (.calResult c [hi, lo]) s fun t => (calOf t c.val).delta = (calOf s c.val).delta ∧ (calOf t c.val).trim = (calOf s c.val).trim
      ∧ t.cal.ranges = satAdd 65535 s.cal.ranges 1 ∧ Drives 213 t ∧ (∀ k, k ≠ c.val → calOf t k = calOf s k)
      ∧ SameBut [.freeCtr, .rings, .cmp, .safety, .faults, .cal, .therm, .nvm] s t)

/-- Temperatures (R419 R420 R421 R423 R424 R429): a demand is served by the readings of its sensors; a domain with a breach rises one level;
a release takes one level off, an unfreeze ends the floor. -/
def Obligations.Temperatures : Prop :=
  (∀ s : State, runs .mp s = true → s.nvm.running = true →
    Yields .thermalDemand s fun t => t.therm = { s.therm with demands := s.therm.demands ++ [{ mask := 2 ^ 22 - 1 }] }
      ∧ (∀ n < 8, (tileOf s n).present = true → .tileBusRead n 0x5A 4 2 ∈ t.outputs) ∧ SameBut [.outputs, .therm] s t)
  ∧ (∀ (s : State) (id : Nat) (d : Desc), Runs s id 0x41 d →
    Yields (.thermMeasure id) s fun t => t.therm = { s.therm with demands := s.therm.demands ++
        [{ mask := if le d.bytes 16 4 = 0 then 2 ^ 22 - 1 else le d.bytes 16 4, id := some id }] }
      ∧ descOf t id = some { d with taken := true } ∧ SameBut [.outputs, .rings, .therm] s t)
  ∧ (∀ (s : State) (seen : List SensorSeen) (d : Demand) (r : List Demand) (i : Nat) (e : SensorSeen) (v : Int),
    runs .mp s = true → s.nvm.running = true → s.therm.demands = d :: r → i < 20 → d.mask.testBit i = true → sensorDisabled s i = false →
    (sensorOf s i).failed = false → seen.find? (fun e => e.sensor.val == i) = some e → e.raw = some v → -880 ≤ v → v ≤ 2400 →
    Yields (.sensorReading seen) s fun t => (sensorOf t i).reading = v ∧ (sensorOf t i).valid = true ∧ (sensorOf t i).failed = false
      ∧ (sensorOf t i).subst = false ∧ SameBut [.freeCtr, .rings, .cmp, .safety, .faults, .cal, .therm, .nvm] s t)
  ∧ (∀ (s : State) (seen : List SensorSeen) (d : Demand) (r : List Demand) (i : Nat), runs .mp s = true → s.nvm.running = true →
    s.therm.demands = d :: r → i < 22 → d.mask.testBit i = true → sensorDisabled s i = false → (sensorOf s i).failed = false →
    seen.find? (fun e => e.sensor.val == i) = none →
    Yields (.sensorReading seen) s fun t => (sensorOf t i).failed = true ∧ ((sensorOf s i).everValid = true → Drives 217 t)
      ∧ SameBut [.freeCtr, .rings, .cmp, .safety, .faults, .cal, .therm, .nvm] s t)
  ∧ (∀ (s : State) (k : Fin 9), runs .mp s = true → s.nvm.running = true → floorOf (domainOf s k.val) < (domainOf s k.val).level →
    (∀ i ∈ members s k.val, (sensorOf s i).valid = false ∨ (sensorOf s i).reading < (sensorOf s i).tArm
      ∨ ((sensorOf s i).rateOk = true ∧ (sensorOf s i).rate ≤ 0)) →
    Yields (.throttleRelease k) s fun t => domainOf t k.val = { domainOf s k.val with level := (domainOf s k.val).level - 1 }
      ∧ (∀ j, j ≠ k.val → domainOf t j = domainOf s j) ∧ (∃ e : Event, t.rings.events = s.rings.events ++ [e] ∧ e.typ = 3)
      ∧ SameBut [.freeCtr, .rings, .therm] s t)
  ∧ (∀ (s : State) (v : BitVec 32), barOpen s = true →
    Yields (.unfreeze true v) s fun t => (∀ k, k < 9 →
      domainOf t k = if v.toNat.testBit k then { domainOf s k with frozen := [] } else domainOf s k)
      ∧ SameBut [.therm] s t)

/-- The write inhibit and the thermal shutdown (R432 R433 R434): a trip refuses the records that wait; a shutdown darkens everything and
leaves, behind a record whose writing has begun, the shutdown record alone. -/
def Obligations.InhibitAndShutdown : Prop :=
  (∀ s : State, s.power.inhibit = false →
    Yields .nvmInhibitTrip s fun t => t.power = { s.power with inhibit := true, inhibitSeen := true }
      ∧ t.nvm.queue = s.nvm.queue.take 1 ++ (s.nvm.queue.drop 1).filter exemptRec ∧ Drives 219 t
      ∧ (runs .mp s = true → ∃ e : Event, t.rings.events = s.rings.events ++ [e] ∧ e.typ = 3)
      ∧ SameBut [.freeCtr, .power, .rings, .safety, .faults, .cal, .nvm] s t)
  ∧ (∀ s : State, s.power.inhibit = true →
    Yields .nvmInhibitRelease s fun t => t.power = { s.power with inhibit := false } ∧ Drives 219 t
      ∧ (runs .mp s = true → ∃ e : Event, t.rings.events = s.rings.events ++ [e] ∧ e.typ = 3)
      ∧ SameBut [.freeCtr, .power, .rings, .faults] s t)
  ∧ (∀ s : State, s.power.thermLatch = false →
    Yields .thermalShutdown s fun t => t.power = { s.power with thermLatch := true } ∧ (∀ c, (chanOf t c).slo = false)
      ∧ (∀ n, n < 8 → (tileOf t n).enabled = false)
      ∧ t.nvm = { s.nvm with queue := s.nvm.queue.take (begun s) ++ [{ page := 0, bytes := shutdownBytes s, why := .shutdown }] }
      ∧ SameBut [.power, .strip, .tiles, .chans, .nvm] s t)

/-- Training (R457 R458 R459 R460): an enabled port trains in Lock, a `CAP` under block lock takes it to Capability, the credits of all
priorities take it Up; a timeout takes it to a back-off that doubles. -/
def Obligations.PortTraining : Prop :=
  (∀ (s : State) (p : Fin 2) (v : BitVec 32), barOpen s = true → v.toNat.testBit 0 = true → (portOf s p.val).st = .disabled →
    s.power.crefOk = true →
    Yields (.portEnable p true v) s fun t => Restarts p.val t ∧ (portOf t p.val).en = true ∧ (portOf t p.val).maxStep = bits v.toNat 2 2
      ∧ (portOf t p.val).sleepEn = v.toNat.testBit 4 ∧ OtherPorts p.val s t ∧ SameBut [.chain] s t)
  ∧ (∀ (s : State) (p : Fin 2), runs .chain s = true → (portOf s p.val).st ≠ .disabled →
    Yields (.blockLock p) s fun t => portOf t p.val = { portOf s p.val with
        lock := true, signal := true, rxSleep := (portOf s p.val).rxSleep && !(portOf s p.val).waking, waking := false }
      ∧ OtherPorts p.val s t ∧ SameBut [.chain] s t)
  ∧ (∀ (s : State) (p : Fin 2), runs .chain s = true → (portOf s p.val).st = .backoff →
    Yields (.signalDetect p) s (fun t => Restarts p.val t ∧ (portOf t p.val).signal = true ∧ OtherPorts p.val s t ∧ SameBut [.chain] s t)
    ∧ Yields (.backoffEnd p) s (fun t => Restarts p.val t ∧ (portOf t p.val).signal = (portOf s p.val).signal ∧ OtherPorts p.val s t
      ∧ SameBut [.chain] s t))
  ∧ (∀ (s : State) (p : Fin 2), runs .chain s = true → (portOf s p.val).st ≠ .backoff → (portOf s p.val).rxSleep = true →
    Yields (.signalDetect p) s fun t => portOf t p.val = { portOf s p.val with signal := true, waking := true } ∧ OtherPorts p.val s t
      ∧ SameBut [.chain] s t)
  ∧ (∀ (s : State) (p : Fin 2) (v : BitVec 24), Hears s p.val 1 v → bits v.toNat 12 4 = 1 → (portOf s p.val).lock = true →
    (portOf s p.val).st = .lock →
    Yields (.cap p v) s fun t => (portOf t p.val).st = .capability ∧ (portOf t p.val).partnerMax = bits v.toNat 18 2
      ∧ (portOf t p.val).partnerWest = v.toNat.testBit 11 ∧ (portOf t p.val).partnerSleep = v.toNat.testBit 9
      ∧ (∀ k, k < 8 → credOf t p.val k = { credOf s p.val k with
          advUsed := (credOf s p.val k).adv, freed := 0, lastInit := none, initOk := false })
      ∧ (v.toNat.testBit 11 = (p.val == 1) → Drives 267 t) ∧ OtherPorts p.val s t ∧ SameBut [.faults, .chain] s t)
  ∧ (∀ (s : State) (p : Fin 2) (v : BitVec 24) (k n : Nat), Hears s p.val 2 v → (portOf s p.val).st = .capability →
    k = bits v.toNat 17 3 → n = bits v.toNat 4 11 → (n = 0 ∨ (33 ≤ n ∧ n ≤ 1024)) →
    Yields (.creditInit p v) s fun t => credOf t p.val k = { credOf s p.val k with
        init := n, sent := 0, returned := 0, seen := 0, lastInit := some n, initOk := (credOf s p.val k).lastInit == some n }
      ∧ ((portOf s p.val).ackSeen = true → (∀ j, j < 8 → j ≠ k → (credOf s p.val j).initOk = true) → (credOf s p.val k).lastInit = some n →
          (portOf t p.val).st = .up ∧ (portOf t p.val).backoff = 0 ∧ (portOf t p.val).period = (portOf s p.val).period + 1)
      ∧ ((credOf s p.val k).lastInit ≠ some n → (portOf t p.val).st = .capability)
      ∧ (∀ j, j ≠ k → credOf t p.val j = credOf s p.val j) ∧ OtherPorts p.val s t ∧ SameBut [.chain] s t)
  ∧ (∀ (s : State) (p : Fin 2), runs .chain s = true →
    ((portOf s p.val).st = .lock ∨ (portOf s p.val).st = .capability) →
    Yields (.chnTrain p) s fun t => portOf t p.val = { portOf s p.val with st := .backoff, backoff := min 6 ((portOf s p.val).backoff + 1) }
      ∧ Drives (258 + p.val) t ∧ OtherPorts p.val s t ∧ SameBut [.faults, .chain] s t)

/-- The end of a link-up period (R459 R462 R463 R464 R472): whatever takes a port out of it cuts the frames in flight, discards those
queued and takes the port to Lock; all but a command raise `CHN_DOWN`. -/
def Obligations.PortDown : Prop :=
  (∀ (s : State) (p : Fin 2) (v : BitVec 32), barOpen s = true → v.toNat.testBit 0 = false → linkUp (portOf s p.val) = true →
    Yields (.portDisable p true v) s fun t => (portOf t p.val).st = .disabled ∧ (portOf t p.val).en = false ∧ LinkEnds p.val s t
      ∧ t.outputs = .electricalIdle p.val :: .orderedSet p.val 7 (osPayload 7 0) :: s.outputs ∧ t.faults = s.faults ∧ OthersStay p.val s t
      ∧ SameBut [.outputs, .freeCtr, .rings, .faults, .chain] s t)
  ∧ (∀ (s : State) (p : Fin 2) (v : BitVec 32), barOpen s = true → v.toNat.testBit 0 = true → v.toNat.testBit 16 = true →
    linkUp (portOf s p.val) = true →
    Yields (.retrain p true v) s fun t => Restarts p.val t ∧ LinkEnds p.val s t ∧ t.faults = s.faults ∧ OthersStay p.val s t
      ∧ SameBut [.outputs, .freeCtr, .rings, .faults, .chain] s t)
  ∧ (∀ (s : State) (p : Fin 2), runs .chain s = true → linkUp (portOf s p.val) = true → (portOf s p.val).rxSleep = false →
    Yields (.blockLockLoss p) s (fun t => Restarts p.val t ∧ LinkEnds p.val s t ∧ Drives (256 + p.val) t
      ∧ ((portOf s p.val).st = .stepTrial → Drives (260 + p.val) t) ∧ OthersStay p.val s t ∧ SameBut [.outputs, .freeCtr, .rings, .faults,
          .chain] s t)
    ∧ Yields (.lossOfSignal p) s (fun t => Restarts p.val t ∧ LinkEnds p.val s t ∧ Drives (256 + p.val) t ∧ (portOf t p.val).signal = false
      ∧ OthersStay p.val s t ∧ SameBut [.freeCtr, .rings, .faults, .chain] s t))
  ∧ (∀ (s : State) (p : Fin 2), runs .chain s = true → (portOf s p.val).rxSleep = true →
    Yields (.blockLockLoss p) s (fun t => t = s)
    ∧ Yields (.lossOfSignal p) s (fun t => portOf t p.val = { portOf s p.val with signal := false, waking := false } ∧ OtherPorts p.val s t
      ∧ SameBut [.chain] s t))
  ∧ (∀ (s : State) (p : Fin 2) (v : BitVec 24), Hears s p.val 7 v → linkUp (portOf s p.val) = true →
    Yields (.down p v) s fun t => Restarts p.val t ∧ LinkEnds p.val s t ∧ Drives (256 + p.val) t ∧ OthersStay p.val s t
      ∧ SameBut [.outputs, .freeCtr, .rings, .faults, .chain] s t)
  ∧ (∀ (s : State) (p : Fin 2), runs .chain s = true → (portOf s p.val).rxSleep = true → (portOf s p.val).waking = true →
      linkUp (portOf s p.val) = true →
    Yields (.wakeLockTimeout p) s fun t => Restarts p.val t ∧ LinkEnds p.val s t ∧ Drives (256 + p.val) t ∧ OthersStay p.val s t
      ∧ SameBut [.freeCtr, .rings, .faults, .chain] s t)
  ∧ (∀ (s : State) (p : Fin 2) (v : BitVec 24) (k d : Nat), Hears s p.val 3 v → flows (portOf s p.val) = true → k = bits v.toNat 17 3 →
    d = (bits v.toNat 4 13 + 8192 - (credOf s p.val k).seen) % 8192 →
    Yields (.credit p v) s fun t =>
      (d ≤ (credOf s p.val k).sent - (credOf s p.val k).returned →
        credOf t p.val k = { credOf s p.val k with returned := (credOf s p.val k).returned + d, seen := bits v.toNat 4 13 }
          ∧ (∀ j, j ≠ k → credOf t p.val j = credOf s p.val j) ∧ OtherPorts p.val s t)
      ∧ ((credOf s p.val k).sent - (credOf s p.val k).returned < d →
        Restarts p.val t ∧ LinkEnds p.val s t ∧ Drives 268 t ∧ Drives (256 + p.val) t ∧ OthersStay p.val s t)
      ∧ SameBut [.outputs, .freeCtr, .rings, .faults, .chain] s t)
  ∧ (∀ (s : State) (p : Fin 2), runs .mp s = true → (portOf s p.val).st = .up →
    Yields (.chnNeigh p) s fun t => Drives (262 + p.val) t ∧ (portOf t p.val).neighOk = false
      ∧ ((portOf s p.val).rxSleep = false → portOf t p.val = { portOf s p.val with neighOk := false })
      ∧ ((portOf s p.val).rxSleep = true → Restarts p.val t ∧ LinkEnds p.val s t ∧ Drives (256 + p.val) t)
      ∧ OthersStay p.val s t ∧ SameBut [.freeCtr, .rings, .faults, .chain] s t)

/-- Steps (R461): the West port asks for the next step, the East port accepts at the end of its frame or refuses, both switch and try
it; good results on both sides keep it, a bad one, an error or a timeout returns to the old step and raises `CHN_STEP`. -/
def Obligations.PortSteps : Prop :=
  (∀ (s : State) (x : Port), runs .chain s = true → x = portOf s 1 → x.st = .up → x.asking = false → x.noStep = false → x.partnerWest = false →
    x.tx = none →
    x.txSleep = false → x.step < min x.maxStep x.partnerMax →
    Yields (.stepUpStart 1) s fun t => portOf t 1 = { x with asking := true, target := x.step + 1 } ∧ OtherPorts 1 s t
      ∧ t.outputs = .orderedSet 1 4 (osPayload 4 (at_ 18 (x.step + 1))) :: s.outputs ∧ SameBut [.outputs, .chain] s t)
  ∧ (∀ (s : State) (v : BitVec 24) (n : Nat), Hears s 0 4 v → (portOf s 0).st = .up → stepCode v = 0 → n = bits v.toNat 18 2 →
    (portOf s 0).partnerWest = true →
    Yields (.stepRequest 0 v) s fun t =>
      (n ≤ (portOf s 0).maxStep → (portOf s 0).tx ≠ none →
        portOf t 0 = { portOf s 0 with asking := true, target := n } ∧ t.outputs = s.outputs)
      ∧ (n ≤ (portOf s 0).maxStep → (portOf s 0).tx = none → (portOf t 0).st = .stepSwitch ∧ (portOf t 0).step = n
          ∧ (portOf t 0).oldStep = (portOf s 0).step
        ∧ (portOf t 0).lock = false ∧ t.outputs = .orderedSet 0 4 (osPayload 4 (at_ 18 n + at_ 16 1)) :: s.outputs)
      ∧ ((portOf s 0).maxStep < n → portOf t 0 = portOf s 0
        ∧ t.outputs = .orderedSet 0 4 (osPayload 4 (at_ 18 n + at_ 16 2)) :: s.outputs)
      ∧ OtherPorts 0 s t ∧ t.faults = s.faults ∧ SameBut [.outputs, .freeCtr, .rings, .faults, .chain] s t)
  ∧ (∀ (s : State) (v : BitVec 24), Hears s 1 4 v → (portOf s 1).st = .up → (portOf s 1).asking = true → stepCode v = 1 →
    bits v.toNat 18 2 = (portOf s 1).target →
    Yields (.stepAccept 1 v) s fun t => (portOf t 1).st = .stepSwitch ∧ (portOf t 1).step = (portOf s 1).target
      ∧ (portOf t 1).oldStep = (portOf s 1).step ∧ (portOf t 1).asking = false ∧ (portOf t 1).tx = none ∧ OthersStay 1 s t
      ∧ t.faults = s.faults ∧ SameBut [.outputs, .freeCtr, .rings, .faults, .chain] s t)
  ∧ (∀ (s : State) (v : BitVec 24), runs .chain s = true → (portOf s 1).st = .up → (portOf s 1).asking = true →
    (Hears s 1 4 v → stepCode v = 2 →
      Yields (.stepRefuse 1 v) s fun t => portOf t 1 = { portOf s 1 with asking := false, target := 0, noStep := true } ∧ OtherPorts 1 s t
        ∧ SameBut [.chain] s t)
    ∧ Yields (.stepAcceptTimeout 1) s fun t => portOf t 1 = { portOf s 1 with asking := false, target := 0, noStep := true }
      ∧ OtherPorts 1 s t ∧ SameBut [.chain] s t)
  ∧ (∀ (s : State) (p : Fin 2) (v : BitVec 24), Hears s p.val 4 v → (portOf s p.val).st = .stepTrial → stepCode v = 3 →
    Yields (.stepResult p v) s fun t =>
      (v.toNat.testBit 15 = true → portOf t p.val = { portOf s p.val with
          goodSeen := true, st := if (portOf s p.val).goodSent then .up else .stepTrial } ∧ OtherPorts p.val s t ∧ t.faults = s.faults)
      ∧ (v.toNat.testBit 15 = false → (portOf t p.val).st = .fallback ∧ (portOf t p.val).step = (portOf s p.val).oldStep
          ∧ (portOf t p.val).noStep = true ∧ (portOf t p.val).tx = none ∧ Drives (260 + p.val) t ∧ OthersStay p.val s t)
      ∧ SameBut [.outputs, .freeCtr, .rings, .faults, .chain] s t)
  ∧ (∀ (s : State) (p : Fin 2), runs .chain s = true → (portOf s p.val).st = .stepTrial → (portOf s p.val).goodSent = false →
    Yields (.stepTrialEnd p) s fun t => portOf t p.val = { portOf s p.val with
        goodSent := true, st := if (portOf s p.val).goodSeen then .up else .stepTrial }
      ∧ t.outputs = .orderedSet p.val 4 (osPayload 4 (at_ 18 (portOf s p.val).step + at_ 16 3 + at_ 15 1)) :: s.outputs
      ∧ OtherPorts p.val s t ∧ SameBut [.outputs, .chain] s t)
  ∧ (∀ (s : State) (p : Fin 2), runs .chain s = true →
    ((portOf s p.val).st = .stepSwitch → Yields (.stepSwitchTimeout p) s fun t => (portOf t p.val).st = .fallback
      ∧ (portOf t p.val).step = (portOf s p.val).oldStep ∧ (portOf t p.val).noStep = true ∧ Drives (260 + p.val) t ∧ OthersStay p.val s t
      ∧ t.outputs = s.outputs ∧ SameBut [.outputs, .freeCtr, .rings, .faults, .chain] s t)
    ∧ ((portOf s p.val).st = .fallback → Yields (.stepSwitchTimeout p) s fun t => Restarts p.val t ∧ LinkEnds p.val s t
      ∧ Drives (256 + p.val) t ∧ OthersStay p.val s t ∧ SameBut [.freeCtr, .rings, .faults, .chain] s t))

/-- Sleep and the sets that a port sends (R455 R463 R464 R472): four `SLEEP`s and electrical idle, twenty `WAKE`s; a receiver sleeps and
wakes; every 10 µs a training port sends `CAP`, an awake port in Up its eight `CREDIT`s; an invalid block is counted. -/
def Obligations.PortSleep : Prop :=
  (∀ (s : State) (p : Fin 2) (v : BitVec 24), Hears s p.val 5 v → flows (portOf s p.val) = true →
    Yields (.sleep p v) s fun t => portOf t p.val = { portOf s p.val with rxSleep := true, waking := false } ∧ OtherPorts p.val s t
      ∧ SameBut [.chain] s t)
  ∧ (∀ (s : State) (p : Fin 2) (v : BitVec 24), Hears s p.val 6 v → (portOf s p.val).rxSleep = true → (portOf s p.val).waking = true →
    (portOf s p.val).lock = true →
    Yields (.wake p v) s fun t => portOf t p.val = { portOf s p.val with rxSleep := false, waking := false } ∧ OtherPorts p.val s t
      ∧ SameBut [.chain] s t)
  ∧ (∀ (s : State) (p : Fin 2) (x : Port), runs .chain s = true → x = portOf s p.val → x.sleepEn = true → x.partnerSleep = true → x.st = .up →
      x.asking = false →
    x.queue = [] → x.tx = none → x.txSleep = false →
    Yields (.sleepEntry p) s fun t => portOf t p.val = { x with txSleep := true } ∧ OtherPorts p.val s t
      ∧ t.outputs = .electricalIdle p.val :: (List.replicate 4 (.orderedSet p.val 5 (osPayload 5 0)) ++ s.outputs)
      ∧ SameBut [.outputs, .chain] s t)
  ∧ (∀ (s : State) (p : Fin 2), runs .chain s = true → (portOf s p.val).txSleep = true →
    Yields (.wakeStart p) s fun t => portOf t p.val = { portOf s p.val with txSleep := false } ∧ OtherPorts p.val s t
      ∧ t.outputs = List.replicate 20 (.orderedSet p.val 6 (osPayload 6 0)) ++ s.outputs ∧ SameBut [.outputs, .chain] s t)
  ∧ (∀ (s : State) (p : Fin 2) (b : Bool), runs .chain s = true → (portOf s p.val).st ≠ .disabled → (portOf s p.val).rxSleep = false →
    Yields (.invalidSyncHeader p b) s fun t => (portOf t p.val).blockErr = satAdd 65535 (portOf s p.val).blockErr 1
      ∧ ((portOf s p.val).st ≠ .stepTrial →
          portOf t p.val = { portOf s p.val with blockErr := satAdd 65535 (portOf s p.val).blockErr 1 } ∧ OtherPorts p.val s t)
      ∧ ((portOf s p.val).st = .stepTrial → (portOf t p.val).st = .fallback ∧ (portOf t p.val).step = (portOf s p.val).oldStep
          ∧ Drives (260 + p.val) t
          ∧ .orderedSet p.val 4 (osPayload 4 (at_ 18 (portOf s p.val).step + at_ 16 3)) ∈ t.outputs ∧ OthersStay p.val s t)
      ∧ SameBut [.outputs, .freeCtr, .rings, .faults, .chain] s t)
  ∧ (∀ (s : State) (p : Fin 2), runs .chain s = true → ((portOf s p.val).st = .lock ∨ (portOf s p.val).st = .backoff
      ∨ (portOf s p.val).st = .stepSwitch
      ∨ (portOf s p.val).st = .fallback) →
    Yields (.orderedSetTransmit p) s fun t =>
      t.outputs = .orderedSet p.val 1 (osPayload 1 (capFields p.val (portOf s p.val) (portOf s p.val).capSeen)) :: s.outputs
      ∧ SameBut [.outputs] s t)
  ∧ (∀ (s : State) (p : Fin 2), runs .chain s = true → flows (portOf s p.val) = true → (portOf s p.val).txSleep = false →
    Yields (.orderedSetTransmit p) s fun t =>
      t.outputs = ((List.range 8).reverse.map fun k => .orderedSet p.val 3 (osPayload 3 (at_ 17 k + at_ 4 (credOf s p.val k).freed)))
        ++ s.outputs
      ∧ SameBut [.outputs] s t)
  ∧ (∀ (s : State) (p : Fin 2), runs .chain s = true → (portOf s p.val).st = .capability →
    Yields (.orderedSetTransmit p) s fun t =>
      t.outputs = ((List.range 8).reverse.map fun k => .orderedSet p.val 2 (osPayload 2 (at_ 17 k + at_ 4 (credOf s p.val k).advUsed)))
        ++ .orderedSet p.val 1 (osPayload 1 (capFields p.val (portOf s p.val) (portOf s p.val).capSeen)) :: s.outputs
      ∧ SameBut [.outputs] s t)

/-- The line coding (R453 R454 R455 R468): each 66-bit block has the sync header 01 or 10, unscrambled, and 64 scrambled bits; the
receiver's side gives back what was sent, from any starting state after 58 bits; a frame leaves as a start block, its bytes in data
blocks and a terminate block. The block codes are the model's reading of Clause 49 (notes/assumptions/79). -/
def Obligations.LineCoding : Prop :=
  (∀ (n : Nat) (st : BitVec 58) (v : Nat), descramble n st (scramble n st v).1 = (v % 2 ^ n, (scramble n st v).2))
  ∧ (∀ (n i : Nat) (st st' : BitVec 58) (v : Nat), 58 ≤ i → i < n → (descramble n st' (scramble n st v).1).1.testBit i = v.testBit i)
  ∧ (∀ (x : Block) (l : Lane), ∃ b : BitVec 66, (laneBlock x l).sent = b :: l.sent ∧ b.toNat % 4 = (if x.ctrl then 1 else 2)
      ∧ descramble 64 l.scr (b.toNat / 4) = (x.payload % 2 ^ 64, (laneBlock x l).scr))
  ∧ (∀ p : Nat, p < 2 ^ 24 → (orderedBlock p).ctrl = true ∧ (orderedBlock p).payload < 2 ^ 64 ∧ bits (orderedBlock p).payload 0 8 = 0x4B
      ∧ 65536 * bits (orderedBlock p).payload 8 8 + 256 * bits (orderedBlock p).payload 16 8 + bits (orderedBlock p).payload 24 8 = p
      ∧ bits (orderedBlock p).payload 32 4 = 0xF)
  ∧ (∀ (b : Bytes) (bad : Bool), (frameBlocks b bad).length = b.length / 8 + 2 ∧ (frameBlocks b bad).head? = some startBlock
      ∧ (∀ i, i < b.length / 8 → (frameBlocks b bad)[i + 1]? = some { ctrl := false, payload := leNat ((b.drop (8 * i)).take 8) })
      ∧ (frameBlocks b bad).getLast? = some (termBlock (b.drop (b.length / 8 * 8)) bad))
  ∧ (∀ (s : State) (p : Fin 2) (x : TxFrame) (f : PoolFrame), runs .chain s = true → (portOf s p.val).tx = some x →
      frameOf s x.frame = some f → f.whole = true → (portOf s p.val).asking = false →
      Yields (.frameSent p) s fun t =>
        laneOf t p.val = laneBlocks (frameBlocks (correctedBytes s f x.ts) (f.poison || f.bad)) (laneOf s p.val)
        ∧ ∀ q, q ≠ p.val → laneOf t q = laneOf s q)
  ∧ (∀ (s : State) (p : Fin 2), runs .chain s = true → (portOf s p.val).st = .lock →
      Yields (.orderedSetTransmit p) s fun t =>
        laneOf t p.val = laneBlocks [orderedBlock (osPayload 1 (capFields p.val (portOf s p.val) (portOf s p.val).capSeen))] (laneOf s p.val)
        ∧ ∀ q, q ≠ p.val → laneOf t q = laneOf s q)

/-- Frames between the ports (R465 R466 R467 R468 R469 R471 R472 R508): reception holds cells and an ingress timestamp; a bad or cut frame
leaves no trace but its counts and its freed cells; a good one is queued for the other port in arrival order; the egress sends the
first frame of the highest priority that the credits cover, and counts the credits it uses. -/
def Obligations.FramesForwarded : Prop :=
  (∀ (s : State) (p : Fin 2) (b : Bytes), runs .chain s = true → flows (portOf s p.val) = true →
    (portOf s p.val).lock = true → (portOf s p.val).rxSleep = false →
    (portOf s p.val).rx = none → 2 ≤ s.chain.free →
    Yields (.frameHeaderParsed p b) s fun t => (∃ r, (portOf t p.val).rx = some r ∧ r.cells = 2 ∧ r.prio = framePrio s b
        ∧ r.ts = rxStamp s p.val ∧ r.cut = if (classify s b).1 && cutThrough s p.val (framePrio s b) then some s.chain.nextFrame else none)
      ∧ t.chain.free = s.chain.free - 2
      ∧ (((classify s b).1 && cutThrough s p.val (framePrio s b)) = true →
          ∃ x, (portOf t (otherPort p.val)).tx = some x ∧ x.frame = s.chain.nextFrame)
      ∧ (((classify s b).1 && cutThrough s p.val (framePrio s b)) = false → OtherPorts p.val s t ∧ t.chain.frames = s.chain.frames)
      ∧ SameBut [.chain, .time] s t)
  ∧ (∀ (s : State) (p : Fin 2) (b : Bytes) (e m : Bool) (r : RxFrame), runs .chain s = true → flows (portOf s p.val) = true →
    (portOf s p.val).rx = some r → r.cut = none → (portOf s p.val).st ≠ .stepTrial → (e = true ∨ fcsGood b = false) →
    Yields (.frameReceived p b e m) s fun t => (portOf t p.val).rx = none ∧ (portOf t p.val).fcsErr = satAdd 65535 (portOf s p.val).fcsErr 1
      ∧ (portOf t p.val).rxFrames = (portOf s p.val).rxFrames ∧ t.chain.frames = s.chain.frames ∧ t.chain.hostQ = s.chain.hostQ
      ∧ t.chain.mgmtQ = s.chain.mgmtQ ∧ t.chain.free = s.chain.free + r.cells
      ∧ (credOf t p.val r.prio).freed = ((credOf s p.val r.prio).freed + cellsOf_ b.length) % 8192 ∧ OtherPorts p.val s t
      ∧ SameBut [.outputs, .freeCtr, .rings, .faults, .chain] s t)
  ∧ (∀ (s : State) (p : Fin 2) (b : Bytes) (m : Bool) (r : RxFrame), runs .chain s = true → flows (portOf s p.val) = true →
    PoolInv s → (portOf s p.val).rx = some r → r.cut = none →
    fcsGood b = true → 64 ≤ b.length → b.length ≤ 2052 → classify s b = (true, false, false) →
    s.chain.hostQ.find? (fun e => e.1 == r.prio) = none →
    Yields (.frameReceived p b false m) s fun t => (portOf t p.val).rx = none
      ∧ (portOf t p.val).rxFrames = satAdd (2 ^ 32 - 1) (portOf s p.val).rxFrames 1
      ∧ (portOf t (otherPort p.val)).queue = (portOf s (otherPort p.val)).queue ++ [s.chain.nextFrame]
      ∧ t.chain.frames = s.chain.frames ++ [{
          id := s.chain.nextFrame, bytes := b, cells := cellsOf_ b.length, prio := r.prio, origin := .ingress p.val, shared := false
          wants := [.egress (otherPort p.val)], poison := m, ts := r.ts, period := (portOf s p.val).period }]
      ∧ t.chain.free = s.chain.free + r.cells - cellsOf_ b.length ∧ t.chain.hostQ = s.chain.hostQ ∧ t.chain.mgmtQ = s.chain.mgmtQ
      ∧ SameBut [.outputs, .freeCtr, .rings, .faults, .chain] s t)
  ∧ (∀ (c : Instr) (s : State) (p : Fin 2) (n : Nat) (r : RxFrame), runs .chain s = true →
    (c = .frameCut p n ∨ ∃ b e m, c = .frameReceived p b e m ∧ n = b.length ∧ flows (portOf s p.val) = false) →
    (portOf s p.val).rx = some r → r.cut = none →
    Yields c s fun t => (portOf t p.val).rx = none ∧ (portOf t p.val).cutCnt = satAdd 65535 (portOf s p.val).cutCnt 1
      ∧ (credOf t p.val r.prio).freed = ((credOf s p.val r.prio).freed + cellsOf_ n) % 8192
      ∧ t.chain.free = s.chain.free + r.cells ∧ t.chain.frames = s.chain.frames ∧ t.chain.hostQ = s.chain.hostQ
      ∧ t.chain.mgmtQ = s.chain.mgmtQ ∧ OtherPorts p.val s t ∧ SameBut [.chain] s t)
  ∧ (∀ (s : State) (p : Fin 2) (f : PoolFrame), runs .chain s = true → flows (portOf s p.val) = true → (portOf s p.val).asking = false →
    (portOf s p.val).tx = none → (portOf s p.val).txSleep = false → nextFrame s p.val 8 = some f →
    Yields (.egressStart p) s fun t => portOf t p.val = { portOf s p.val with
        queue := (portOf s p.val).queue.filter (fun y => y != f.id), tx := some { frame := f.id, ts := txStamp s p.val } }
      ∧ t.chain.frames = s.chain.frames ∧ (f.poison = true → Drives 264 t) ∧ OtherPorts p.val s t
      ∧ SameBut [.rings, .faults, .chain, .time] s t)
  ∧ (∀ (s : State) (p : Fin 2) (x : TxFrame) (f : PoolFrame), runs .chain s = true → (portOf s p.val).tx = some x → frameOf s x.frame = some f →
    f.whole = true → (portOf s p.val).asking = false →
    Yields (.frameSent p) s fun t => (portOf t p.val).tx = none ∧ (portOf t p.val).txFrames = satAdd (2 ^ 32 - 1) (portOf s p.val).txFrames 1
      ∧ (credOf t p.val f.prio).sent = (credOf s p.val f.prio).sent + cellsOf_ f.bytes.length
      ∧ t.outputs = .frameOut p.val (correctedBytes s f x.ts) (f.poison || f.bad) :: s.outputs
      ∧ (∀ g ∈ t.chain.frames, g.id = f.id → Consumer.egress p.val ∉ g.wants) ∧ OthersStay p.val s t
      ∧ SameBut [.outputs, .freeCtr, .rings, .chain] s t)

/-- Host frames, the pool and service messages (R478 R479 R480 R481 R484 R486 R491 R539 R544): what `NET_TX` and `NET_RX_POST` do with
cells and buffers, what the audit and the stale check raise, what becomes of a message, and what the node sends of itself. -/
def Obligations.HostFramesAndMessages : Prop :=
  (∀ (s : State) (id : Nat) (d : Desc) (up : List Nat), Runs s id 0x48 d →
    up = (egressPorts (le d.bytes 16 1)).filter (fun p => linkUp (portOf s p)) → assembly s id = none →
    Yields (.netTx id) s fun t => (up = [] → Completed id d stBUSY [] s t)
      ∧ (up ≠ [] → cellsOf_ (le d.bytes 20 4 + 4) ≤ sharedFree s → ∃ f, t.chain.frames = s.chain.frames ++ [f] ∧ f.id = s.chain.nextFrame
          ∧ f.cells = cellsOf_ (le d.bytes 20 4 + 4) ∧ f.shared = true ∧ f.whole = false ∧ f.origin = .host id ∧ f.prio = le d.bytes 17 1
          ∧ t.chain.free = s.chain.free - cellsOf_ (le d.bytes 20 4 + 4) ∧ t.rings = s.rings)
      ∧ (up ≠ [] → sharedFree s < cellsOf_ (le d.bytes 20 4 + 4) → t = s) ∧ SameBut [.outputs, .link, .rings, .chain] s t)
  ∧ (∀ (s : State) (id p : Nat) (d : Desc) (b : Bytes) (f : PoolFrame), Runs s id 0x48 d → le d.bytes 16 1 = p → p < 2 →
    linkUp (portOf s p) = true → assembly s id = some f → d.failed = false → d.data = some b →
    Yields (.netTx id) s fun t => (portOf t p).queue = (portOf s p).queue ++ [f.id]
      ∧ t.chain.frames = s.chain.frames.map (fun x => if x.id = f.id then
          { x with bytes := b ++ fcs b, whole := true, wants := [.egress p] } else x)
      ∧ t.chain.txWaits = s.chain.txWaits ++ [{ id, left := [p] }] ∧ descOf t id = some { d with taken := true } ∧ OtherPorts p s t
      ∧ SameBut [.outputs, .link, .rings, .chain] s t)
  ∧ (∀ (s : State) (id r : Nat) (d : Desc), Runs s id 0x49 d → r = le d.bytes 16 1 →
    (256 ≤ (s.chain.rxBufs.filter fun b => b.rxq == r).length →
      Yields (.netRxPost id) s fun t => Completed id d stBUSY [] s t ∧ SameBut [.rings] s t)
    ∧ ((s.chain.rxBufs.filter fun b => b.rxq == r).length < 256 → s.chain.hostQ.find? (fun e => e.1 == r) = none →
      Yields (.netRxPost id) s fun t =>
        t.chain = { s.chain with rxBufs := s.chain.rxBufs ++ [{ id, rxq := r, len := le d.bytes 20 4, addr := le d.bytes 32 8 }] }
        ∧ descOf t id = some { d with taken := true } ∧ SameBut [.rings, .chain] s t)
    ∧ (∀ e f, s.chain.rxBufs.filter (fun b => b.rxq == r) = [] → s.chain.hostQ.find? (fun e => e.1 == r) = some e →
      frameOf s e.2 = some f → dmaOk s = true → f.poison = false → s.faults.inj = none →
      Yields (.netRxPost id) s fun t =>
        t.outputs = (writePieces s.link.mps (le d.bytes 32 8) ((f.bytes.take (f.bytes.length - 4)).take (le d.bytes 20 4))).reverse
            ++ s.outputs
        ∧ t.rings.done = s.rings.done ++ [doneOf { d with taken := true } stOK (rxResult s f (le d.bytes 20 4))]
        ∧ e ∉ t.chain.hostQ ∧ t.faults = s.faults ∧ SameBut [.outputs, .rings, .faults, .chain] s t))
  ∧ (∀ s : State, runs .chain s = true → s.chain.free + queuedCells s ≠ 16384 →
    Yields .chnPoolAudit s fun t => Drives 265 t ∧ t.chain.auditValid = true
      ∧ (s.chain.auditValid = false → t.chain.auditQueued = queuedCells s ∧ t.chain.auditFree = s.chain.free)
      ∧ (s.chain.auditValid = true → t.chain = s.chain) ∧ SameBut [.faults, .chain] s t)
  ∧ (∀ (s : State) (q : Fin 64), runs .chain s = true → 0 < queueCells s q.val → s.chain.stale.testBit q.val = false →
    Yields (.chnStale q) s fun t => Drives 266 t ∧ t.chain.stale.testBit q.val = true
      ∧ (∀ k, k ≠ q.val → t.chain.stale.testBit k = s.chain.stale.testBit k) ∧ SameBut [.faults, .chain] s t)
  ∧ (∀ (s : State) (m : Bytes), runs .mp s = true → s.power.held = false → s.power.svcEn = true →
    (svcGood (unslip m) = false → Yields (.serviceMessage (some m)) s fun t =>
      t.chain = { s.chain with svcBad := satAdd 65535 s.chain.svcBad 1 } ∧ SameBut [.chain] s t)
    ∧ (svcGood (unslip m) = true → (be (unslip m) 8 8 = dieNo ∨ s.chain.seen.contains (be (unslip m) 8 8, be (unslip m) 4 4) = true) →
      Yields (.serviceMessage (some m)) s fun t => t = s))
  ∧ (∀ (s : State) (id p : Nat) (r : List Nat) (f : PoolFrame) (m : Bytes), runs .mp s = true → s.power.held = false → s.chain.mgmtQ = id :: r →
    frameOf s id = some f → f.origin = .ingress p → f.wants = [.mgmt] → f.whole = true → f.poison = false → s.faults.inj = none →
    etherType f.bytes = 0x88B5 → m = (f.bytes.take (f.bytes.length - 4)).drop (payOff f.bytes) → svcGood m = true → be m 8 8 ≠ dieNo →
    s.chain.seen.contains (be m 8 8, be m 4 4) = false → le m 1 1 = 1 → (le m 3 1).testBit 0 = false →
    Yields (.serviceMessage none) s fun t => (portOf t p).neighOk = true ∧ (portOf t p).partner = be m 8 8
      ∧ t.chain.seen = ((be m 8 8, be m 4 4) :: s.chain.seen).take 64 ∧ t.chain.free = s.chain.free + f.cells
      ∧ (∀ g ∈ t.chain.frames, g.id ≠ id) ∧ OthersStay p s t
      ∧ SameBut [.outputs, .freeCtr, .rings, .safety, .faults, .cal, .chain, .time, .nvm] s t)
  ∧ (∀ s : State, runs .mp s = true → s.power.held = false → (portOf s 0).st = .up → (portOf s 1).st = .disabled →
    cellsOf_ (svcFrame s (svcBytes 1 1 0 (s.chain.seq % 2 ^ 32) dieNo (helloPay 0 s))).length ≤ sharedFree s →
    Yields .helloTransmit s fun t => t.chain.seq = s.chain.seq + 1 ∧ (portOf t 0).queue = (portOf s 0).queue ++ [s.chain.nextFrame]
      ∧ (∃ f, t.chain.frames = s.chain.frames ++ [f] ∧ f.id = s.chain.nextFrame ∧ f.prio = 6 ∧ f.shared = true ∧ f.wants = [.egress 0]
          ∧ f.bytes = svcFrame s (svcBytes 1 1 0 (s.chain.seq % 2 ^ 32) dieNo (helloPay 0 s))) ∧ SameBut [.chain] s t)
  ∧ (∀ (s : State) (image : Nat), runs .mp s = true → namedImage s = some image → firstMissing s < neededBlocks s → s.nvm.noFw = true →
    (portOf s 0).st = .up → (portOf s 1).st = .disabled →
    cellsOf_ (svcFrame s (svcBytes 4 64 1 (s.chain.seq % 2 ^ 32) dieNo
      (toLe 8 image ++ toBe 4 (firstMissing s) ++ toBe 4 (missingRun s (firstMissing s) 64)))).length ≤ sharedFree s →
    Yields .fwRequestTimer s fun t => t.chain.seq = s.chain.seq + 1 ∧ (portOf t 0).queue = (portOf s 0).queue ++ [s.chain.nextFrame]
      ∧ (∃ f, t.chain.frames = s.chain.frames ++ [f] ∧ f.id = s.chain.nextFrame ∧ f.wants = [.egress 0]
          ∧ f.bytes = svcFrame s (svcBytes 4 64 1 (s.chain.seq % 2 ^ 32) dieNo
              (toLe 8 image ++ toBe 4 (firstMissing s) ++ toBe 4 (missingRun s (firstMissing s) 64)))) ∧ SameBut [.chain] s t)
  ∧ (∀ s : State, runs .mp s = true → s.nvm.noFw = true → headerOk (imageHeader s) = false → s.nvm.offerSeen = false → (portOf s 0).st = .up →
    (portOf s 1).st = .disabled → 2 ≤ sharedFree s →
    Yields .bootFailStatusTimer s fun t => t.chain.seq = s.chain.seq + 1 ∧ (portOf t 0).queue = (portOf s 0).queue ++ [s.chain.nextFrame]
      ∧ (∃ f v, t.chain.frames = s.chain.frames ++ [f] ∧ f.id = s.chain.nextFrame ∧ f.wants = [.egress 0]
          ∧ f.bytes = svcFrame s (svcBytes 5 64 1 (s.chain.seq % 2 ^ 32) dieNo (fwStatusPay v 5 s))) ∧ SameBut [.freeCtr, .chain] s t)

/-- The servos and the switches (R510 R511 R512 R513 R514 R524 R525): a Sync is answered by a Delay_Req; an offset steps the domain, steers it
or locks it; loss of lock is announced and may switch; a switch moves no output time unless it is a step. -/
def Obligations.ServosAndSwitches : Prop :=
  (∀ s : State, barOpen s = true →
    Yields .timNowCapture s fun t => t.time = { s.time with cap := outTime s }
      ∧ t.outputs = .regRead 0x58008 ((outTime s / tuSec).toNat % 2 ^ 32) :: s.outputs ∧ SameBut [.outputs, .time] s t)
  ∧ (∀ (s : State) (d : Fin 2) (m : SyncSeen) (b : Bytes), runs .mp s = true → (domOf s d.val).en = true → s.nvm.running = true →
    b = delayReqFrame s (domOf s d.val).ptpDomain m.port.val m.seq →
    Yields (.ptpSync d m) s fun t =>
      domOf t d.val = { domOf s d.val with port := m.port.val, sync := some (m.seq, domAt s d.val m.ingress, m.origin) }
      ∧ (∀ e, e ≠ d.val → domOf t e = domOf s e)
      ∧ ((portOf s m.port.val).st = .up → cellsOf_ b.length ≤ sharedFree s →
          (portOf t m.port.val).queue = (portOf s m.port.val).queue ++ [s.chain.nextFrame]
          ∧ ∃ f, t.chain.frames = s.chain.frames ++ [f] ∧ f.id = s.chain.nextFrame ∧ f.prio = 7 ∧ f.shared = true
              ∧ f.wants = [.egress m.port.val] ∧ f.bytes = b)
      ∧ SameBut [.chain, .time] s t)
  ∧ (∀ (s : State) (d : Fin 2) (m : DelaySeen) (i o : Int) (off : Int), runs .mp s = true → (domOf s d.val).en = true → s.nvm.running = true →
    (domOf s d.val).sync = some (m.seq, i, o) → off = ptpOffset s d.val i o m →
    Yields (.delayResp d m) s fun t => (domOf t d.val).sync = none ∧ (domOf t d.val).offset = off
      ∧ (100000 * 65536 < off.natAbs → domTime t d.val = domTime s d.val - off ∧ (domOf t d.val).everSet = true
          ∧ (domOf t d.val).locked = false ∧ ((domOf s d.val).locked = true → Drives (320 + d.val) t)
          ∧ (d.val = s.time.active → Drives 324 t ∧ t.time.steps = satAdd 65535 s.time.steps 1 ∧ t.frm.steps = s.frm.steps - off))
      ∧ (1000 * 65536 ≤ off.natAbs → off.natAbs ≤ 100000 * 65536 → domTime t d.val = domTime s d.val ∧ (domOf t d.val).locked = false
          ∧ ((domOf s d.val).locked = true → Drives (320 + d.val) t) ∧ t.time.steps = s.time.steps)
      ∧ (off.natAbs < 1000 * 65536 → domTime t d.val = domTime s d.val
          ∧ (domOf t d.val).good = (if off.natAbs ≤ 100 * 65536 then (domOf s d.val).good + 1 else 0)
          ∧ (off.natAbs ≤ 100 * 65536 → 15 ≤ (domOf s d.val).good → (domOf t d.val).locked = true)
          ∧ ((domOf s d.val).good < 15 → (domOf t d.val).locked = (domOf s d.val).locked) ∧ t.time.steps = s.time.steps)
      ∧ SameBut [.outputs, .freeCtr, .frm, .faults, .time] s t)
  ∧ (∀ (s : State) (d : Fin 2), runs .mp s = true → (domOf s d.val).en = true → s.nvm.running = true → (domOf s d.val).locked = true →
    Yields (.syncLoss d) s fun t => (domOf t d.val).locked = false ∧ (domOf t d.val).holdover = true ∧ Drives (320 + d.val) t
      ∧ (∀ e, e ≠ d.val → domOf t e = domOf s e)
      ∧ t.time.switchTo = s.time.switchTo ++ (if s.time.autoSw = true ∧ d.val = s.time.active ∧ (domOf s (1 - d.val)).locked = true
          then [(1 - d.val, none)] else [])
      ∧ (d.val = s.time.active → (domOf s (1 - d.val)).locked = false → t.time.holdover = true ∧ (s.time.holdover = false → Drives 323 t))
      ∧ SameBut [.faults, .time] s t)
  ∧ (∀ s : State, runs .mp s = true → s.time.autoSw = true → s.time.active ≠ s.time.prefer → s.time.revertS ≠ 0 →
      (domOf s s.time.prefer).locked = true →
    s.nvm.running = true →
    Yields .revert s fun t => t.time = { s.time with switchTo := s.time.switchTo ++ [(s.time.prefer, none)] } ∧ SameBut [.time] s t)
  ∧ (∀ (s : State) (e : Nat) (id : Option Nat) (r : List (Nat × Option Nat)) (x : Int), runs .time s = true → s.time.switchTo = (e, id) :: r →
      e ≠ s.time.active →
    x = outTime s - domTime s e →
    Yields .domainSwitch s fun t => t.time.active = e ∧ t.time.switches = satAdd 65535 s.time.switches 1 ∧ t.time.switchTo = r
      ∧ Drives 322 t ∧ (∀ k, domOf t k = domOf s k)
      ∧ ((x.natAbs : Int) ≤ 1000000 * 65536 → outTime t = outTime s ∧ t.time.slewTerm = x ∧ t.time.steps = s.time.steps)
      ∧ (1000000 * 65536 < (x.natAbs : Int) → outTime t = domTime s e ∧ t.time.slewTerm = 0 ∧ Drives 324 t
          ∧ t.time.steps = satAdd 65535 s.time.steps 1)
      ∧ (∀ i d, id = some i → descOf s i = some d → Completed i d stOK [] s t) ∧ SameBut [.outputs, .rings, .frm, .faults, .time] s t)
  ∧ (∀ s : State, runs .time s = true → s.time.slewTerm ≠ 0 → 0 < s.time.slew →
    Yields .slewComplete s fun t => t.time.slewTerm = 0 ∧ s.time.now < t.time.now ∧ SameBut [.time] s t)
  ∧ (∀ (s : State) (d : Fin 2) (v : BitVec 32), barOpen s = true →
    Yields (.domainEnWrite d true v) s fun t => (domOf t d.val).en = v.toNat.testBit 0 ∧ (domOf t d.val).ptpDomain = bits v.toNat 8 8
      ∧ (domOf t d.val).lossT = (if bits v.toNat 24 8 = 0 then (domOf s d.val).lossT else bits v.toNat 24 8)
      ∧ (v.toNat.testBit 0 = false → (domOf t d.val).locked = false ∧ (domOf t d.val).holdover = false)
      ∧ (v.toNat.testBit 0 = true → (domOf s d.val).en = true → (domOf t d.val).locked = (domOf s d.val).locked)
      ∧ t.faults.drive.testBit (320 + d.val) = s.faults.drive.testBit (320 + d.val) ∧ t.time.switchTo = s.time.switchTo
      ∧ domTime t d.val = domTime s d.val ∧ (∀ e, e ≠ d.val → domOf t e = domOf s e) ∧ SameBut [.faults, .time] s t)

/-- `TIME_ADJ` and timed events (R516 R517 R518 R519 R520 R521): a step moves the domain's time, a frequency its rate alone; a select is sent to
the time island; an arming waits for the end of a pulse; an edge begins a pulse, and a periodic channel keeps its grid. -/
def Obligations.AdjustmentsAndEvents : Prop :=
  (∀ (s : State) (id x : Nat) (d : Desc) (v : Int), Runs s id 0x50 d → le d.bytes 16 1 = x → v = signed 64 (le d.bytes 24 8) →
    (∀ c, (c = .step id ∧ le d.bytes 17 1 = 0) ∨ (c = .frequency id ∧ le d.bytes 17 1 = 1) ∨ (c = .slew id ∧ le d.bytes 17 1 = 2) →
      (domOf s x).en = true → Yields c s fun t => Completed id d stBUSY [] s t ∧ SameBut [.rings] s t)
    ∧ (le d.bytes 17 1 = 0 → (domOf s x).en = false →
      Yields (.step id) s fun t => domTime t x = domTime s x + v * 65536 ∧ (domOf t x).everSet = true ∧ Completed id d stOK [] s t
        ∧ (x = s.time.active → v ≠ 0 → outTime t = outTime s + v * 65536 ∧ Drives 324 t ∧ t.time.steps = satAdd 65535 s.time.steps 1
            ∧ t.frm.steps = s.frm.steps + v * 65536)
        ∧ (x ≠ s.time.active → outTime t = outTime s ∧ t.time.steps = s.time.steps ∧ t.faults = s.faults ∧ t.outputs = s.outputs)
        ∧ SameBut [.outputs, .rings, .frm, .faults, .time] s t)
    ∧ (le d.bytes 17 1 = 1 → (domOf s x).en = false →
      Yields (.frequency id) s fun t => (domOf t x).ratio = v ∧ domTime t x = domTime s x ∧ Completed id d stOK [] s t
        ∧ (∀ e, e ≠ x → domOf t e = domOf s e) ∧ SameBut [.rings, .time] s t)
    ∧ (le d.bytes 17 1 = 2 → (domOf s x).en = false →
      Yields (.slew id) s fun t => domOf t x = { domOf s x with slewLeft := v * 65536, everSet := true } ∧ Completed id d stOK [] s t
        ∧ (∀ e, e ≠ x → domOf t e = domOf s e) ∧ SameBut [.rings, .time] s t)
    ∧ (le d.bytes 17 1 = 3 →
      Yields (.select id) s fun t => t.time = { s.time with switchTo := s.time.switchTo ++ [(x, some id)] }
        ∧ descOf t id = some { d with taken := true } ∧ SameBut [.rings, .time] s t))
  ∧ (∀ (s : State) (id k m : Nat) (d : Desc) (a : Int), Runs s id 0x51 d → k = le d.bytes 16 1 → m = le d.bytes 17 1 →
    a = startOf s (le d.bytes 24 8) (le d.bytes 32 4) →
    Yields (.tevArm id) s fun t =>
      ((tevOf s k).pulse = true → descOf t id = some { d with taken := true } ∧ t.outputs = s.outputs
        ∧ tevOf t k = { tevOf s k with wait := (tevOf s k).wait ++ [(m, a, nsTu (down4 (le d.bytes 40 8)), nsTu (down4 (le d.bytes 36 4)), id)] })
      ∧ ((tevOf s k).pulse = false → Completed id d stOK [] s t ∧ (tevOf t k).mode = m
        ∧ (m % 4 = 0 → tevLive (tevOf t k) = false)
        ∧ (m % 4 ≠ 0 → outTime s ≤ a → tevLive (tevOf t k) = true ∧ (tevOf t k).next = a ∧ (tevOf t k).pulse = false)
        ∧ (m % 4 = 1 → a < outTime s → tevLive (tevOf t k) = false ∧ (k < 8 → (tevOf t k).pulse = true ∧ (tevOf t k).level = !m.testBit 2))
        ∧ (m % 4 ≠ 1 ∨ outTime s ≤ a → k < 8 → (tevOf t k).level = m.testBit 2))
      ∧ (∀ j, j ≠ k → tevOf t j = tevOf s j) ∧ SameBut [.outputs, .rings, .time] s t)
  ∧ (∀ (s : State) (k : Fin 16), runs .time s = true → tevLive (tevOf s k.val) = true →
    Yields (.tevEdge k) s fun t => outTime t = max (tevOf s k.val).next (outTime s)
      ∧ ((tevOf s k.val).mode % 4 = 2 → (tevOf t k.val).next = (tevOf s k.val).next + (tevOf s k.val).period
          ∧ (tevOf t k.val).fired = (tevOf s k.val).fired)
      ∧ ((tevOf s k.val).mode % 4 = 1 → (tevOf t k.val).fired = true ∧ (tevOf t k.val).next = (tevOf s k.val).next)
      ∧ (k.val < 8 → (tevOf t k.val).pulse = true)
      ∧ (k.val < 8 → (tevOf s k.val).pulse = false → (tevOf t k.val).level = !(tevOf s k.val).mode.testBit 2)
      ∧ (8 ≤ k.val → t.outputs = s.outputs) ∧ (∀ j, j ≠ k.val → tevOf t j = tevOf s j) ∧ SameBut [.outputs, .time] s t)
  ∧ (∀ (s : State) (k : Fin 8), runs .time s = true → (tevOf s k.val).pulse = true → (tevOf s k.val).wait = [] →
    Yields (.tevPulseEnd k) s fun t => tevOf t k.val = { tevOf s k.val with pulse := false, level := (tevOf s k.val).mode.testBit 2 }
      ∧ ((tevOf s k.val).level ≠ (tevOf s k.val).mode.testBit 2 → t.outputs = .tevPin k.val ((tevOf s k.val).mode.testBit 2) :: s.outputs)
      ∧ (∀ j, j ≠ k.val → tevOf t j = tevOf s j) ∧ SameBut [.outputs, .time] s t)
  ∧ (∀ (s : State) (v : BitVec 32), barOpen s = true → s.nvm.running = true → 1 ≤ bits v.toNat 0 11 → bits v.toNat 0 11 ≤ 1440 →
    Yields (.triggerSettingWrite true true v) s fun t => t.tiles.commitMin = bits v.toNat 0 11 ∧ (tevOf t 9).mode = 2
      ∧ (tevOf t 9).next = outTime s + bits v.toNat 0 11 * 60 * tuSec ∧ (tevOf t 9).period = bits v.toNat 0 11 * 60 * tuSec
      ∧ tevLive (tevOf t 9) = true ∧ (∀ j, j ≠ 9 → tevOf t j = tevOf s j) ∧ SameBut [.outputs, .tiles, .time] s t)
  ∧ (∀ (s : State) (v : BitVec 32), barOpen s = true → s.nvm.running = true → 1 ≤ bits v.toNat 16 12 → bits v.toNat 16 12 ≤ 3600 →
    Yields (.triggerSettingWrite false true v) s fun t => t.cal.probeEn = v.toNat.testBit 28 ∧ t.cal.probeAfter = bits v.toNat 16 12
      ∧ t.cal.diagEvery = bits v.toNat 0 16 ∧ (tevOf t 10).mode = 2 ∧ (tevOf t 10).next = outTime s + bits v.toNat 16 12 * tuSec
      ∧ tevLive (tevOf t 10) = true ∧ (∀ j, j ≠ 10 → tevOf t j = tevOf s j) ∧ SameBut [.outputs, .cal, .time] s t)

/-- The NVM and the check units (R531 R533 R536 R546 R547 R548): a write queues its records, the marker of a record commits its page under
the next sequence number, a reset that waits for it follows,
  the last record of a save ends it; a read transfers every byte whatever its status; a check run keeps its unit's value. -/
def Obligations.NvmAndChecks : Prop :=
  (∀ (s : State) (id : Nat) (d : Desc) (b : Bytes), Runs s id 0x58 d → d.failed = false → d.data = some b →
    (s.power.inhibit = true → Yields (.nvmWrite id) s fun t => Completed id d stBUSY (toLe 4 0) s t ∧ SameBut [.rings] s t)
    ∧ (s.power.inhibit = false → le d.bytes 16 1 ≠ 1 ∨ s.nvm.fwState = 1 ∧ s.nvm.source = 1 →
      Yields (.nvmWrite id) s fun t =>
        t.nvm = { s.nvm with queue := s.nvm.queue ++ writeRecs id ((partPages (le d.bytes 16 1)).1 + le d.bytes 20 4 / 512) b }
        ∧ descOf t id = some { d with taken := true } ∧ SameBut [.rings, .nvm] s t)
    ∧ (s.power.inhibit = false → le d.bytes 16 1 = 1 → s.nvm.fwState ≠ 1 →
      Yields (.nvmWrite id) s fun t => t.nvm.queue = s.nvm.queue ++ writeRecs id (128 + le d.bytes 20 4 / 512) b ∧ t.nvm.fwState = 1
        ∧ t.nvm.source = 1 ∧ t.nvm.scheduled = false ∧ (tevOf t 11).mode = 0 ∧ descOf t id = some { d with taken := true }
        ∧ (∀ k, k ≠ 11 → tevOf t k = tevOf s k) ∧ SameBut [.rings, .time, .nvm] s t)
    ∧ (s.power.inhibit = false → le d.bytes 16 1 = 1 → s.nvm.fwState = 1 → s.nvm.source ≠ 1 →
      Yields (.nvmWrite id) s fun t => Completed id d stBUSY (toLe 4 0) s t ∧ SameBut [.rings] s t))
  ∧ (∀ (s : State) (v : VholdSeen) (r : Rec) (q : List Rec) (id n : Nat) (last : Bool), s.nvm.queue = r :: q →
    r.why = .write id last n → (r.page < 128 ∨ 6272 ≤ r.page) →
    (s.power.rstPend = [] → s.power.saving = false → Yields (.nvmRecordComplete v) s fun t => t.nvm.queue = q ∧ t.nvm.seq = s.nvm.seq + 1
      ∧ t.nvm.pages = Tab.put s.nvm.pages r.page { bytes := fit 512 r.bytes, seq := s.nvm.seq + 1 }
      ∧ (last = true → ∀ d, descOf s id = some d → Completed id d stOK (toLe 4 n) s t) ∧ (last = false → t.rings = s.rings)
      ∧ SameBut [.rings, .pages, .nvm] s t)
    ∧ (∀ c l, s.power.rstPend = c :: l → s.power.saving = false →
      Yields (.nvmRecordComplete v) s fun t => t.power.rstPend = [] ∧ t.power.held = holds s.power
        ∧ t.power.causes = causeBits (c :: l) s.power.causes
        ∧ t.rings = {} ∧ t.nvm.running = false ∧ t.nvm.seq = s.nvm.seq + 1
        ∧ t.nvm.pages = Tab.put s.nvm.pages r.page { bytes := fit 512 r.bytes, seq := s.nvm.seq + 1 } ∧ t.outputs = s.outputs))
  ∧ (∀ (s : State) (v : VholdSeen) (r : Rec) (q : List Rec) (n h : Nat), s.nvm.queue = r :: q → r.why = .saveTile n h →
    saveReady s = false → Yields (.nvmRecordComplete v) s fun t => t = s)
  ∧ (∀ (s : State) (v : VholdSeen) (r : Rec) (k : Nat), s.nvm.queue = [r] → r.why = .saveLog k true → saveReady s = true →
    s.power.saving = true → s.power.thermLatch = false →
    Yields (.nvmRecordComplete v) s fun t => t.power.saving = false ∧ t.power.awaitVin = true ∧ t.power.held = true
      ∧ t.power.saveComplete = true ∧ t.power.saveRecords = min 31 (s.power.saveRecords + 1)
      ∧ t.power.vholdEnd = min 16383 v.mv.toNat ∧ t.power.vholdRdy = v.above ∧ t.nvm.queue = [] ∧ t.nvm.seq = s.nvm.seq + 1)
  ∧ (∀ (s : State) (id : Nat) (d : Desc) (pages : List (Bytes × Option Bool)), Runs s id 0x59 d → dmaOk s = true → s.faults.inj = none →
    pages = (List.range (le d.bytes 24 4 / 512)).map (fun i => partPage { s with freeCtr := s.freeCtr + 1 } (le d.bytes 16 1) (le d.bytes 20 4 / 512 + i)) →
    Yields (.nvmRead id) s fun t => t.outputs = (writePieces s.link.mps (le d.bytes 32 8) (pages.flatMap fun p => p.1)).reverse ++ s.outputs
      ∧ (∃ st, Completed id d st (toLe 4 (512 * (le d.bytes 24 4 / 512))) s t
          ∧ ((∃ i, i < le d.bytes 24 4 / 512 ∧ (partPages (le d.bytes 16 1)).1 + le d.bytes 20 4 / 512 + i ∈ s.nvm.badPages) →
              st = stPOISON ∧ Drives 353 t)
          ∧ ((∀ i, i < le d.bytes 24 4 / 512 → (partPages (le d.bytes 16 1)).1 + le d.bytes 20 4 / 512 + i ∉ s.nvm.badPages) →
              ((∃ p ∈ pages, p.2 = some false) → st = stCHECK) ∧ ((∀ p ∈ pages, p.2 = some true) → st = stOK) ∧ t.faults = s.faults))
      ∧ SameBut [.outputs, .freeCtr, .rings, .faults] s t)
  ∧ (∀ (s : State) (id u poly : Nat) (d : Desc) (b : Bytes) (x : Nat), Runs s id 0x60 d → u = le d.bytes 16 1 → poly = le d.bytes 17 1 →
    crcAhead s id u = false →
    (guardUnitBusy s u = true → Yields (.crcRun id) s fun t => Completed id d stBUSY [] s t ∧ SameBut [.rings] s t)
    ∧ (guardUnitBusy s u = false → d.failed = false → d.data = some b → s.faults.inj = none →
      x = gcuRun poly b (if (le d.bytes 18 1).testBit 2 then (gcuOf s u).run
        else if (le d.bytes 18 1).testBit 0 then gcuRun poly (sub d.bytes 24 4) (gcuInit poly) else gcuInit poly) →
      Yields (.crcRun id) s fun t => gcuOf t u = { poly, run := x, last := gcuFinal poly x } ∧ (∀ k, k ≠ u → gcuOf t k = gcuOf s k)
        ∧ ((le d.bytes 18 1).testBit 1 = false → Completed id d stOK (toLe 4 (gcuFinal poly x)) s t ∧ t.faults = s.faults)
        ∧ ((le d.bytes 18 1).testBit 1 = true → gcuFinal poly x = le d.bytes 28 4 % 2 ^ crcWidth poly →
            Completed id d stOK (toLe 4 (gcuFinal poly x)) s t ∧ t.faults = s.faults)
        ∧ ((le d.bytes 18 1).testBit 1 = true → gcuFinal poly x ≠ le d.bytes 28 4 % 2 ^ crcWidth poly →
            Completed id d stCHECK (toLe 4 (gcuFinal poly x)) s t ∧ Drives 356 t)
        ∧ SameBut [.rings, .faults, .nvm] s t))

/-- Firmware images (R57 R538 R539 R545 R546): marks arm, schedule and disarm an image that is held whole; a reset waits for a record in
progress; the boot check starts the firmware with its triggers armed, or stays in Chrysalis and says so. -/
def Obligations.FirmwareMarks : Prop :=
  (∀ (s : State) (id : Nat) (d : Desc), Runs s id 0x5A d →
    (le d.bytes 16 1 = 0 → Yields (.disarm id) s fun t => Completed id d stOK [] s t
      ∧ t.nvm = { s.nvm with scheduled := false, fwState := if s.nvm.fwState = 2 then 1 else s.nvm.fwState } ∧ (tevOf t 11).mode = 0
      ∧ (∀ k, k ≠ 11 → tevOf t k = tevOf s k) ∧ SameBut [.rings, .time, .nvm] s t)
    ∧ (le d.bytes 16 1 = 1 → Yields (.arm id) s fun t =>
      (imageHeld s = true → Completed id d stOK [] s t ∧ t.nvm = { s.nvm with fwState := 2 })
      ∧ (imageHeld s = false → Completed id d stCHECK [] s t ∧ t.nvm = s.nvm) ∧ SameBut [.rings, .nvm] s t)
    ∧ (le d.bytes 16 1 = 2 → Yields (.armSchedule id) s fun t =>
      (imageHeld s = true → Completed id d stOK [] s t ∧ t.nvm = { s.nvm with fwState := 2, scheduled := true } ∧ (tevOf t 11).mode = 1
        ∧ (outTime s ≤ startOf s (le d.bytes 24 8) (le d.bytes 32 4) →
            (tevOf t 11).next = startOf s (le d.bytes 24 8) (le d.bytes 32 4) ∧ tevLive (tevOf t 11) = true))
      ∧ (imageHeld s = false → Completed id d stCHECK [] s t ∧ t.nvm = s.nvm ∧ t.time = s.time)
      ∧ (∀ k, k ≠ 11 → tevOf t k = tevOf s k) ∧ SameBut [.outputs, .rings, .time, .nvm] s t)
    ∧ (le d.bytes 16 1 = 3 → imageHeld s = true →
      (nvmBusy s = true → Yields (.armReset id) s fun t => t.power = { s.power with rstPend := s.power.rstPend ++ [.soft] }
        ∧ t.nvm = { s.nvm with fwState := 2 } ∧ Completed id d stOK [] s t ∧ SameBut [.power, .rings, .nvm] s t)
      ∧ (nvmBusy s = false → Yields (.armReset id) s fun t => Restarted .soft s t
        ∧ t.power.causes = causeBits (.soft :: s.power.rstPend) s.power.causes ∧ t.power.held = holds s.power
        ∧ t.nvm.fwState = 0 ∧ t.nvm.running = false))
    ∧ (le d.bytes 16 1 = 3 → imageHeld s = false →
      Yields (.armReset id) s fun t => Completed id d stCHECK [] s t ∧ SameBut [.rings] s t))
  ∧ (∀ s : State, runs .mp s = true → s.nvm.scheduled = true → s.power.saving = false → s.power.awaitVin = false → s.power.thermLatch = false →
    (nvmBusy s = true → Yields .scheduledBoot s fun t => t.power = { s.power with rstPend := s.power.rstPend ++ [.soft] }
        ∧ SameBut [.power] s t)
    ∧ (nvmBusy s = false → Yields .scheduledBoot s fun t => Restarted .soft s t
        ∧ t.power.causes = causeBits (.soft :: s.power.rstPend) s.power.causes))
  ∧ (∀ s : State, runs .mp s = true → s.power.held = false → s.nvm.checked = false → s.nvm.shutdown = none → s.nvm.saveCut = false →
      s.power.rstStuck = false →
    (∀ e ∈ s.nvm.pages, 6272 ≤ e.1 → e.1 < 7296 → e.2.seq ≠ 0) →
    Yields (.bootCheck { unreadable := [] }) s fun t => t.nvm.checked = true ∧ t.nvm.result = bootResult s ∧ t.nvm.pages = s.nvm.pages
      ∧ (bootResult s = 0 → t.nvm.running = true ∧ t.nvm.noFw = false ∧ t.nvm.version = le (imageHeader s) 8 4
          ∧ (∀ k, k = 8 ∨ k = 9 ∨ k = 10 → (tevOf t k).mode = 2) ∧ (tevOf t 8).next = outTime s + tuSec
          ∧ (0 < s.tiles.commitMin → (tevOf t 9).next = outTime s + s.tiles.commitMin * 60 * tuSec)
          ∧ (0 < s.cal.probeAfter → (tevOf t 10).next = outTime s + s.cal.probeAfter * tuSec))
      ∧ (bootResult s ≠ 0 → t.nvm.noFw = true ∧ t.nvm.running = s.nvm.running ∧ Drives 354 t ∧ t.time = s.time)
      ∧ SameBut [.outputs, .freeCtr, .rings, .tiles, .journal, .faults, .cal, .time, .pages, .nvm] s t)
  ∧ (∀ (s : State) (b : BootSeen), s.power.held = true ∨ s.nvm.checked = true → Yields (.bootCheck b) s fun t => t = s)

/-- REGISTER_WRITE (R5 R80 R84 R95 R593 R594 R601): while BAR0 is closed, of an access that is not an aligned whole word of BAR0 and of a read-only
window nothing changes; a write through the lower half leaves every RW0 register as it was; from level 0 the protection table is written in its
shadow, a ring base while the ring is not running, a ranged field within its range; a W1C counter loses the bits written as 1. A write of
64 bits is that of its two words, the lower first. -/
def Obligations.RegisterWrites : Prop :=
  (∀ (s : State) (off : Nat) (v : BitVec 32) (e : BitVec 4),
    barOpen s = false ∨ e ≠ 15 ∨ off % 4 ≠ 0 ∨ 0x100000 ≤ off ∨ off % 0x80000 < 0x4000 ∨ 0x74000 ≤ off % 0x80000 →
    Yields (.registerWrite off v e none) s fun t => t = s)
  ∧ (∀ (s t u : State) (off : Nat) (v w : BitVec 32), off % 8 = 0 → exec (.registerWrite off v 15 none) s = .next t → barOpen s = true →
    barOpen t = true → exec (.registerWrite (off + 4) w 15 none) t = .next u →
    Yields (.registerWrite off v 15 (some (w, 15))) s fun x => x = u)
  ∧ (∀ (s : State) (off : Nat) (v : BitVec 32) (n k : Nat), n < 32 → k < 16 →
    off ∈ [0x4100 + 32 * n, 0x4104 + 32 * n, 0x410C + 32 * n, 0x4110 + 32 * n, 0x4600 + 16 * n, 0x4604 + 16 * n, 0x4800 + 16 * k, 0x4804 + 16 * k,
      0x4808 + 16 * k, 0x480C + 16 * k, 0x4900 + 4 * k, 0x4950, 0x13F00, 0x13F04, 0x13F08, 0x38000, 0x44000 + 16 * n, 0x48000, 0x4C200, 0x58000,
      0x58040, 0x58048, 0x70004, 0x70014] →
    Yields (.registerWrite off v 15 none) s fun t => t = s)
  ∧ (∀ (s : State) (v : BitVec 32) (n k : Nat), n < 32 → k < 16 → barOpen s = true →
    (∀ e ∈ [(0x410C + 32 * n, v.toNat, 32), (0x4110 + 32 * n, v.toNat % 2 ^ 31, 31), (0x4804 + 16 * k, v.toNat, 32),
        (0x4808 + 16 * k, v.toNat, 32), (0x480C + 16 * k, v.toNat &&& 0x800000FF, 32), (0x4900 + 4 * k, v.toNat &&& opcAllowed (k / 4) (k % 4),
          32)],
      Yields (.registerWrite (0x80000 + e.1) v 15 none) s fun t => readReg t e.1 % 2 ^ e.2.2 = e.2.1 ∧ t.prot.active = s.prot.active
        ∧ t.prot.gen = s.prot.gen
        ∧ SameBut [.prot] s t)
    ∧ ((sqOf s n).state = .running → Yields (.registerWrite (0x84104 + 32 * n) v 15 none) s fun t => t = s)
    ∧ ((sqOf s n).state ≠ .running → Yields (.registerWrite (0x84104 + 32 * n) v 15 none) s fun t =>
        readReg t (0x4104 + 32 * n) = v.toNat ∧ readReg t (0x4100 + 32 * n) = readReg s (0x4100 + 32 * n)
          ∧ (∀ m, m ≠ n → sqOf t m = sqOf s m) ∧ SameBut [.rings] s t))
  ∧ (∀ (s : State) (v : BitVec 32), barOpen s = true →
    (∀ e ∈ [(0x13F04, 10, 10000, 16), (0x4950, 10, 6000, 16)],
      Yields (.registerWrite (0x80000 + e.1) v 15 none) s fun t =>
        readReg t e.1 = (if e.2.1 ≤ v.toNat % 2 ^ e.2.2.2 ∧ v.toNat % 2 ^ e.2.2.2 ≤ e.2.2.1 then v.toNat % 2 ^ e.2.2.2 else readReg s e.1)
          ∧ SameBut [.rings, .cmp] s t)
    ∧ (∀ (low : Bool) (o : Nat), o ∈ [0x4948, 0x494C, 0x13F1C, 0x38050, 0x58064, 0x58068, 0x51034, 0x51038, 0x51434, 0x51438] →
      Yields (.registerWrite (if low then o else 0x80000 + o) v 15 none) s fun t =>
        (∀ i, i < 32 → (readReg t o).testBit i = ((readReg s o).testBit i && !v.toNat.testBit i))
          ∧ SameBut [.link, .rings, .cmp, .tiles, .chain, .time] s t))

/-- R221: the slice on-times of a latched duty. -/
def Obligations.SliceOnTimes : Prop :=
  (∀ d i : Nat, i < 16 → onTime d i = if rev4 i < d % 16 then d / 16 + 1 else d / 16)
  ∧ (∀ d : Nat, ((List.range 16).map (onTime d)).sum = d)
  ∧ (∀ d i j : Nat, onTime d i ≤ onTime d j + 1)
  ∧ (∀ i : Nat, i < 16 → ∀ b : Nat, b < 4 → (rev4 i).testBit b = i.testBit (3 - b))
  ∧ (∀ k : Nat, k < 16 → rev4 ([0, 8, 4, 12, 2, 10, 6, 14, 1, 9, 5, 13, 3, 11, 7, 15].getD k 0) = k)
  ∧ (∀ i : Nat, i < 16 → onTime 20 i = if i ∈ [0, 8, 4, 12] then 2 else 1)
  ∧ (∀ i : Nat, i < 16 → onTime 16383 i = if i = 15 then 1023 else 1024)

/-- R217: after the clamp, with the quantized duty in place of c_p / 4, no window's radiance exceeds the exposure limit, whatever the source of
duty, the governor's scale, the strips' currents and the repayments of the shift. -/
def Obligations.ClampHolds : Prop :=
  ∀ (x : ShiftRec) (i j : Nat), i < 95 → j < 95 →
    windowNum x (fun r c => 4 * dutyAt x r c) i j 8 4 ≤ x.egLimit * (65536 * irefDen)

/-- Every command answers a next state, in every state and with every operand, and writes only the parts of the state listed for it
(`touches`); the queue of waiting commands is never one of them. While the island in which a command is judged stands still, in a chip
reset, a save or a stop, the command changes nothing (R45 R46 R48 R52). -/
def Obligations.CommandsCompleteAndFrame : Prop :=
  (∀ (c : Instr) (s : State), ∃ t, exec c s = .next t ∧ SameBut (touches c) s t)
  ∧ ∀ (c : Instr) (i : Isl) (s : State), judgedIn c = some i → runs i s = false → exec c s = .next s

/-- The light invariant is kept by every step (R333 R345): an output permitted high belongs to a channel that permits it. -/
def Obligations.LightInvKept : Prop := ∀ s t : State, LightInv s → step s = .next t → LightInv t

/-- The cached bytes keep their canonical form in every step (the model's form of the resident cache of R161). -/
def Obligations.CacheInvKept : Prop := ∀ s t : State, CacheInv s → step s = .next t → CacheInv t

/-- Every frame of the pool keeps a number that has been given out (the model's numbering of the frames of R465). -/
def Obligations.PoolInvKept : Prop := ∀ s t : State, PoolInv s → step s = .next t → PoolInv t

/-- The outputs rise only at a cross-link exchange, together, with both channels permitting (R333). -/
def Obligations.OutputsRiseTogether : Prop :=
  ∀ (s t : State) (ch : Chan), step s = .next t → (chanOf s ch).slo = false → (chanOf t ch).slo = true →
    (∃ b r, s.pending = .crossLinkExchange b :: r) ∧ ∀ d : Chan, (chanOf t d).slo = true ∧ ownPermit t d = true

/-- Who writes the three most guarded stores: the active protection table (R84 R119), the safety set in force (R345 R361), the pages of the
NVM (R531). Every other command leaves them as they were; a chip reset empties the first two (R53). -/
def Obligations.GuardedStores : Prop :=
  ∀ (c : Instr) (s t : State), exec c s = .next t →
    (t.prot.active = s.prot.active ∨ t.prot = {} ∨ (∃ l v, c = .apply l v) ∨ (∃ id, c = .protSet id)
      ∨ (∃ off v e h, c = .registerWrite off v e h ∧ off % 0x80000 = 0x4940))
    ∧ ((t.safety.inForce = s.safety.inForce ∧ t.safety.src = s.safety.src) ∨ t.safety = {} ∨ (∃ ch r, c = .safetySelftest ch r)
      ∨ c = .safetySetInForce)
    ∧ (t.nvm.pages = s.nvm.pages ∨ (∃ v, c = .nvmRecordComplete v) ∨ c = .vinRemoval ∨ (∃ r, c = .railUndervoltage r) ∨ (∃ b, c = .bootCheck b))

/-- The governor keeps the load within its budget (R218): with a budget above the fixed part F, V S / 32 768 + F stays within it, no larger
scale would below 1.0, and within the budget the scale is 1.0; 0 with no room at all. -/
def Obligations.GovernorWithinBudget : Prop :=
  ∀ (s : State) (v f b : Nat), v = 128 * (govSums s).1 → f = 128 * (govSums s).2 * 2 ^ 26 → b = s.strip.govBudget * govDen →
    (governor s).strip.scale ≤ 32768
    ∧ (s.strip.govBudget ≠ 0 → f ≤ b → v * (governor s).strip.scale + 32768 * f ≤ 32768 * b)
    ∧ (s.strip.govBudget = 0 ∨ v + f ≤ b → (governor s).strip.scale = 32768)
    ∧ (s.strip.govBudget ≠ 0 → b < v + f → b ≤ f → (governor s).strip.scale = 0)
    ∧ (s.strip.govBudget ≠ 0 → b < v + f → f < b → 32768 * b < v * ((governor s).strip.scale + 1) + 32768 * f)
    ∧ (s.strip.scale = 32768 → (governor s).strip.scale < 32768 → Drives 459 (governor s))
    ∧ SameBut [.strip, .faults] s (governor s)

/-- Division by largest remainders (R281 R283): the parts sum exactly to the total, and each is its exact share rounded down or up; equal
weights where every weight is 0. -/
def Obligations.DivisionIsExact : Prop :=
  ∀ (total : Nat) (ws : List Nat), ws ≠ [] →
    (divide total ws).sum = total ∧ (divide total ws).length = ws.length
      ∧ ∀ i, i < ws.length →
        (ws.sum ≠ 0 → total * ws.getD i 0 / ws.sum ≤ (divide total ws).getD i 0 ∧ (divide total ws).getD i 0 ≤ total * ws.getD i 0 / ws.sum + 1)
        ∧ (ws.sum = 0 → total / ws.length ≤ (divide total ws).getD i 0 ∧ (divide total ws).getD i 0 ≤ total / ws.length + 1)

/-- Read tags (R76 R78): a tag is never issued for a slot in use or under an abandoned epoch, and a slot is withheld only while it is in use
or all three of its epochs are abandoned; which of the free tags is taken is the model's choice (notes/assumptions/15). -/
def Obligations.ReadTags : Prop :=
  ∀ (l : Link) (outs : List (Nat × Nat)),
    (∀ t, freeTag l outs = some t → t.1 < tagSlots l ∧ (1 ≤ t.2 ∧ t.2 ≤ 3) ∧ t ∉ l.abandoned ∧ ∀ o ∈ outs, o.1 ≠ t.1)
    ∧ (freeTag l outs = none ↔ ∀ k, k < tagSlots l → (∃ o ∈ outs, o.1 = k) ∨ ∀ e, 1 ≤ e → e ≤ 3 → (k, e) ∈ l.abandoned)
end

