-- ==== Sys2Proof/Laws/Mem.lean ====
section
/-! SUPPORT. The byte memory of `Bits`: reading after writing, and that every operation keeps the canonical form; reading after
writing in the sparse tables; one bit of a word after a change of a bit. -/

-- One declaration after the other, without the linters of the library: many small theorems.
set_option Elab.async false
set_option linter.all false

namespace Sys2Proof.Machine

/-- Raising the bound below a canonical memory's first address to any smaller one keeps the form. -/
theorem Mem.wfFrom_weaken {d : Byte} : ∀ {m : Mem} {k : Nat} {lo : Option Nat},
    Mem.wfFrom d (some k) m = true → (∀ l, lo = some l → l ≤ k) → Mem.wfFrom d lo m = true := by
  intro m k lo h hl
  cases m with
  | nil => rfl
  | cons e r =>
    obtain ⟨a, v⟩ := e
    cases lo with
    | none => simp_all [Mem.wfFrom]
    | some l =>
      have := hl l rfl
      simp only [Mem.wfFrom, Bool.and_eq_true, decide_eq_true_eq] at h ⊢
      exact ⟨⟨by omega, h.1.2⟩, h.2⟩

/-- An address at or below the bound of a canonical memory is not listed. -/
theorem Mem.read_below {d : Byte} : ∀ {m : Mem} {k a : Nat}, Mem.wfFrom d (some k) m = true → a ≤ k → Mem.read d m a = d := by
  intro m
  induction m with
  | nil => intros; rfl
  | cons e r ih =>
    intro k a h ha
    obtain ⟨b, v⟩ := e
    simp only [Mem.wfFrom, Bool.and_eq_true, decide_eq_true_eq] at h
    rw [Mem.read, if_neg (by omega)]
    exact ih h.2 (by omega)

/-- A write keeps the canonical form above a bound that lies below the address. -/
theorem Mem.write_wfFrom {d : Byte} : ∀ {m : Mem} {lo : Option Nat} {a : Nat} {v : Byte},
    Mem.wfFrom d lo m = true → (∀ l, lo = some l → l < a) → Mem.wfFrom d lo (Mem.write d m a v) = true := by
  intro m
  induction m with
  | nil =>
    intro lo a v _ hl
    unfold Mem.write
    split
    · rfl
    · cases lo with
      | none => simp_all [Mem.wfFrom]
      | some l => have := hl l rfl; simp_all [Mem.wfFrom]
  | cons e r ih =>
    intro lo a v h hl
    obtain ⟨b, w⟩ := e
    have h0 : Mem.wfFrom d (some b) r = true ∧ w ≠ d ∧ (∀ l, lo = some l → l < b) := by
      cases lo <;> simp_all [Mem.wfFrom]
    unfold Mem.write
    split
    · next hab =>
      split
      · exact h
      · cases lo <;> simp_all [Mem.wfFrom]
    · split
      · next hab =>
        subst hab
        split
        · exact Mem.wfFrom_weaken h0.1 fun l hl' => Nat.le_of_lt (hl l hl')
        · cases lo <;> simp_all [Mem.wfFrom]
      · have := ih (lo := some b) (a := a) (v := v) h0.1 fun l hl' => by cases hl'; omega
        cases lo <;> simp_all [Mem.wfFrom]

/-- A write keeps the canonical form. -/
theorem Mem.write_wf {d : Byte} {m : Mem} {a : Nat} {v : Byte} (h : Mem.wf d m = true) : Mem.wf d (Mem.write d m a v) = true :=
  Mem.write_wfFrom h fun _ hl => by cases hl

/-- A write of a run of bytes keeps the canonical form. -/
theorem Mem.writeAll_wf {d : Byte} : ∀ {b : Bytes} {m : Mem} {a : Nat}, Mem.wf d m = true → Mem.wf d (Mem.writeAll d m a b) = true := by
  intro b
  induction b with
  | nil => intro m a h; exact h
  | cons x r ih => intro m a h; exact ih (Mem.write_wf h)

/-- Reading after a write above a bound. -/
theorem Mem.read_writeFrom {d : Byte} : ∀ {m : Mem} {lo : Option Nat} {a c : Nat} {v : Byte}, Mem.wfFrom d lo m = true →
    Mem.read d (Mem.write d m a v) c = if c = a then v else Mem.read d m c := by
  intro m
  induction m with
  | nil =>
    intro lo a c v _
    unfold Mem.write
    split
    · simp_all [Mem.read]
    · simp [Mem.read, eq_comm]
  | cons e r ih =>
    intro lo a c v h
    obtain ⟨b, w⟩ := e
    have h0 : Mem.wfFrom d (some b) r = true := by cases lo <;> simp_all [Mem.wfFrom]
    unfold Mem.write
    split
    · next hab =>
      split
      · next hv =>
        by_cases hc : c = a
        · subst hc hv
          rw [if_pos rfl, Mem.read, if_neg (by omega)]
          exact Mem.read_below h0 (by omega)
        · rw [if_neg hc]
      · simp [Mem.read, eq_comm]
    · split
      · next hab =>
        subst hab
        split
        · next hv =>
          by_cases hc : c = a
          · subst hc hv; rw [if_pos rfl]; exact Mem.read_below h0 (Nat.le_refl _)
          · rw [if_neg hc, Mem.read, if_neg (fun h => hc h.symm)]
        · by_cases hc : c = a
          · subst hc; simp [Mem.read]
          · rw [if_neg hc, Mem.read, Mem.read, if_neg fun h => hc h.symm, if_neg fun h => hc h.symm]
      · rw [Mem.read, Mem.read, ih (lo := some b) h0]
        split
        · next hb => rw [if_neg (by omega)]
        · rfl

/-- Reading a byte after a write: the written byte at its address, the old one elsewhere. -/
theorem Mem.read_write {d : Byte} {m : Mem} {a c : Nat} {v : Byte} (h : Mem.wf d m = true) :
    Mem.read d (Mem.write d m a v) c = if c = a then v else Mem.read d m c := Mem.read_writeFrom h

/-- A write of a run leaves every byte outside it. -/
theorem Mem.read_writeAll_other {d : Byte} : ∀ {b : Bytes} {m : Mem} {a c : Nat}, Mem.wf d m = true → c < a ∨ a + b.length ≤ c →
    Mem.read d (Mem.writeAll d m a b) c = Mem.read d m c := by
  intro b
  induction b with
  | nil => intros; rfl
  | cons x r ih =>
    intro m a c h hc
    simp only [List.length_cons] at hc
    rw [Mem.writeAll, ih (Mem.write_wf h) (by omega), Mem.read_write h, if_neg (by omega)]

/-- A write of a run stores each of its bytes. -/
theorem Mem.read_writeAll {d : Byte} : ∀ {b : Bytes} {m : Mem} {a : Nat}, Mem.wf d m = true → ∀ i, ∀ hi : i < b.length,
    Mem.read d (Mem.writeAll d m a b) (a + i) = b[i] := by
  intro b
  induction b with
  | nil => intro m a _ i hi; exact absurd hi (Nat.not_lt_zero i)
  | cons x r ih =>
    intro m a h i hi
    rw [Mem.writeAll]
    cases i with
    | zero => rw [Mem.read_writeAll_other (Mem.write_wf h) (by omega), Mem.read_write h]; simp
    | succ i =>
      have := ih (m := Mem.write d m a x) (a := a + 1) (Mem.write_wf h) i (by simpa using hi)
      rw [show a + (i + 1) = a + 1 + i by omega, this]; rfl

/-- Reading a table after an entry is set. -/
@[simp] theorem Tab.get_put {α : Type} (d : α) (t : Tab α) (i j : Nat) (v : α) :
    Tab.get d (Tab.put t i v) j = if j = i then v else Tab.get d t j := by
  induction t with
  | nil => simp only [Tab.put, Tab.get]; split <;> split <;> simp_all
  | cons e r ih =>
    obtain ⟨k, w⟩ := e
    simp only [Tab.put]
    split
    · simp only [Tab.get]; (repeat' split) <;> first | rfl | omega
    · split
      · simp only [Tab.get]; (repeat' split) <;> first | rfl | omega
      · simp only [Tab.get, ih]; (repeat' split) <;> first | rfl | omega

end Sys2Proof.Machine
end

