-- ==== Sys2Proof/Laws/Frame.lean ====
section
/-! SUPPORT. The laws of frames (`SameBut`) and of completion (`Goes`), the frames of the elementary updates, and what a
frame says of each part of the state. -/

set_option autoImplicit false

-- One declaration after the other, without the linters of the library: many small theorems.
set_option Elab.async false
set_option linter.all false

namespace Sys2Proof.Machine

/-- A frame holds of no change. -/
theorem SameBut.refl {l : List Part} {s : State} : SameBut l s s :=
  ⟨rfl, fun p _ => by cases p <;> first | rfl | exact ⟨rfl, rfl⟩ | exact ⟨rfl, rfl, rfl⟩⟩

/-- Parts that are the same twice are the same over both changes. -/
theorem Part.same_trans {s t u : State} : ∀ {p : Part}, p.same s t → p.same t u → p.same s u := by
  intro p h1 h2
  cases p <;> first
    | exact Eq.trans h2 h1
    | exact ⟨h2.1.trans h1.1, h2.2.trans h1.2⟩
    | exact ⟨h2.1.trans h1.1, h2.2.1.trans h1.2.1, h2.2.2.trans h1.2.2⟩

/-- A further change within the parts of a frame keeps the frame. -/
theorem SameBut.step {l m : List Part} {s t u : State} (h : SameBut m t u) (hm : ∀ p ∈ m, p ∈ l) (h0 : SameBut l s t) :
    SameBut l s u :=
  ⟨h.queue.trans h0.queue, fun p hp => Part.same_trans (h0.parts p hp) (h.parts p fun hc => hp (hm p hc))⟩

/-- A frame of fewer parts is a frame of more. -/
theorem SameBut.mono {l m : List Part} {s t : State} (h : SameBut m s t) (hm : ∀ p ∈ m, p ∈ l) : SameBut l s t :=
  SameBut.step h hm SameBut.refl

/-- A record update keeps a frame when it changes none of the other parts. -/
theorem SameBut.upd {l : List Part} {s t : State} {pe ou la fr bo po li pr ri cm fm st ti jo sa fa ca th ch tm nv}
    (h0 : pe = t.pending) (_ : State.mk pe ou la fr bo po li pr ri cm fm st ti jo sa fa ca th ch tm nv = t ∨ True)
    (h : ∀ q, q ∉ l → Part.same t (State.mk pe ou la fr bo po li pr ri cm fm st ti jo sa fa ca th ch tm nv) q)
    (hs : SameBut l s t) : SameBut l s (State.mk pe ou la fr bo po li pr ri cm fm st ti jo sa fa ca th ch tm nv) :=
  ⟨h0.trans hs.queue, fun q hq => Part.same_trans (hs.parts q hq) (h q hq)⟩

/-- A frame holds of a conditional when it holds of both branches. -/
theorem SameBut.ite {l : List Part} {s t u : State} {c : Prop} [Decidable c] (h1 : c → SameBut l s t) (h2 : ¬c → SameBut l s u) :
    SameBut l s (if c then t else u) := by
  split
  · exact h1 ‹_›
  · exact h2 ‹_›

/-- A meaning that branches completes when both branches do. -/
theorem Goes.ite {l : List Part} {s : State} {o p : Host.Outcome State Fault Refusal} {c : Prop} [Decidable c] (h1 : c → Goes l s o)
    (h2 : ¬c → Goes l s p) : Goes l s (if c then o else p) := by
  split
  · exact h1 ‹_›
  · exact h2 ‹_›

/-- A state within the frame stands for an intermediate result. -/
theorem SameBut.gen {l : List Part} {s x t : State} (h0 : SameBut l s x) (h : SameBut l s x → SameBut l s t) : SameBut l s t := h h0

/-- A state within the frame stands for an intermediate result of a meaning. -/
theorem Goes.gen {l : List Part} {s x : State} {o : Host.Outcome State Fault Refusal} (h0 : SameBut l s x)
    (h : SameBut l s x → Goes l s o) : Goes l s o := h h0

/-- A pair with a state within the frame stands for an intermediate result. -/
theorem SameBut.gen2 {α : Type} {l : List Part} {s t : State} {x : α × State} (h0 : SameBut l s x.2)
    (h : SameBut l s x.2 → SameBut l s t) : SameBut l s t := h h0

/-- The same for a meaning. -/
theorem Goes.gen2 {α : Type} {l : List Part} {s : State} {x : α × State} {o : Host.Outcome State Fault Refusal}
    (h0 : SameBut l s x.2) (h : SameBut l s x.2 → Goes l s o) : Goes l s o := h h0

/-- A state paired with a result, within the frame, stands for an intermediate result. -/
theorem SameBut.gen1 {α : Type} {l : List Part} {s t : State} {x : State × α} (h0 : SameBut l s x.1)
    (h : SameBut l s x.1 → SameBut l s t) : SameBut l s t := h h0

/-- A function into states that is named by a definition stands for itself. -/
theorem SameBut.genf {α : Type} {x : α → State} {G : Prop} (h : (∀ y, x y = x y) → G) : G := h fun _ => rfl

/-- A next state within a frame completes within it. -/
theorem Goes.next {l : List Part} {s t : State} (h : SameBut l s t) : Goes l s (.next t) := ⟨t, rfl, h⟩

/-- Completion within fewer parts is completion within more. -/
theorem Goes.mono {l m : List Part} {s : State} {o : Host.Outcome State Fault Refusal} (h : Goes m s o) (hm : ∀ p ∈ m, p ∈ l) :
    Goes l s o := h.imp fun _ h => ⟨h.1, h.2.mono hm⟩

/-- A meaning that completes from a state within the frame. -/
theorem Goes.from {l m : List Part} {b s : State} {o : Host.Outcome State Fault Refusal} (h : Goes m s o) (hm : ∀ p ∈ m, p ∈ l)
    (h0 : SameBut l b s) : Goes l b o := h.imp fun _ h => ⟨h.1, SameBut.step h.2 hm h0⟩

/-- A meaning that an island stands still for completes when it completes. -/
theorem ifRuns_goes {l : List Part} {s b : State} {i : Isl} {o : Out} (h0 : SameBut l b s) (h : Goes l b o) : Goes l b (ifRuns s i o) := by
  unfold ifRuns
  split
  · exact h
  · exact Goes.next h0

/-- A conditional event completes, with and without its effect. -/
theorem when_goes {l : List Part} {b s : State} {c : Bool} {f : State → State} (h0 : SameBut l b s) (h : SameBut l b (f s)) :
    Goes l b (when_ c f s) := by
  refine Goes.next ?_
  split
  · exact h
  · exact h0

/-- A dispatched descriptor completes, whether or not it is the command's. -/
theorem runOp_goes {l : List Part} {b s : State} {id op : Nat} {f : Desc → State} (h0 : SameBut l b s)
    (h : ∀ d, descOf s id = some d → SameBut l b (f d)) : Goes l b (runOp s id op f) := by
  unfold runOp
  split
  · exact Goes.next h0
  · next d hd =>
    refine Goes.next ?_
    split
    · exact h d hd
    · exact h0

/-- Change of one channel. -/
theorem putChan_frame {c : Chan} {x : Channel} {s : State} {l : List Part} {b : State} (hm : ∀ p ∈ ([.chans] : List Part), p ∈ l)
    (hs : SameBut l b s) : SameBut l b (putChan s c x) := by
  refine SameBut.step (m := [.chans]) ?_ hm hs
  cases c <;> exact ⟨rfl, fun p hp => by cases p <;> first | rfl | exact ⟨rfl, rfl, rfl⟩ | exact ⟨rfl, rfl⟩ | exact absurd (by decide) hp⟩

theorem updChan_frame {c : Chan} {f : Channel → Channel} {s : State} {l : List Part} {b : State}
    (hm : ∀ p ∈ ([.chans] : List Part), p ∈ l) (hs : SameBut l b s) : SameBut l b (updChan c f s) := putChan_frame hm hs

theorem onCmp_frame {f : Cmp → Cmp} {s : State} {l : List Part} {b : State} (h0 : ∀ c, (f c).cache = c.cache)
    (hm : ∀ p ∈ ([.cmp] : List Part), p ∈ l) (hs : SameBut l b s) : SameBut l b (onCmp f s) :=
  SameBut.step (m := [.cmp]) (t := s) ⟨rfl, fun p hl => by
    cases p <;> first | rfl | exact h0 _ | exact ⟨rfl, rfl, rfl⟩ | exact ⟨rfl, rfl⟩ | exact absurd (by decide) hl⟩ hm hs

theorem onCmp_frame_cache {f : Cmp → Cmp} {s : State} {l : List Part} {b : State}
    (hm : ∀ p ∈ ([.cmp, .cache] : List Part), p ∈ l) (hs : SameBut l b s) : SameBut l b (onCmp f s) :=
  SameBut.step (m := [.cmp, .cache]) (t := s) ⟨rfl, fun p hl => by
    cases p <;> first | rfl | exact ⟨rfl, rfl, rfl⟩ | exact ⟨rfl, rfl⟩ | exact absurd (by decide) hl⟩ hm hs

theorem onFlt_frame {f : Faults → Faults} {s : State} {l : List Part} {b : State} (h0 : ∀ c, (f c).slots = c.slots)
    (hm : ∀ p ∈ ([.faults] : List Part), p ∈ l) (hs : SameBut l b s) : SameBut l b (onFlt f s) :=
  SameBut.step (m := [.faults]) (t := s) ⟨rfl, fun p hl => by
    cases p <;> first | rfl | exact h0 _ | exact ⟨rfl, rfl, rfl⟩ | exact ⟨rfl, rfl⟩ | exact absurd (by decide) hl⟩ hm hs

theorem onFlt_frame_slots {f : Faults → Faults} {s : State} {l : List Part} {b : State}
    (hm : ∀ p ∈ ([.slots, .faults] : List Part), p ∈ l) (hs : SameBut l b s) : SameBut l b (onFlt f s) :=
  SameBut.step (m := [.slots, .faults]) (t := s) ⟨rfl, fun p hl => by
    cases p <;> first | rfl | exact ⟨rfl, rfl, rfl⟩ | exact ⟨rfl, rfl⟩ | exact absurd (by decide) hl⟩ hm hs

theorem onNvm_frame {f : Nvm → Nvm} {s : State} {l : List Part} {b : State} (h0 : ∀ c, (f c).pages = c.pages) (h1 : ∀ c, (f c).seq = c.seq)
    (hm : ∀ p ∈ ([.nvm] : List Part), p ∈ l) (hs : SameBut l b s) : SameBut l b (onNvm f s) :=
  SameBut.step (m := [.nvm]) (t := s) ⟨rfl, fun p hl => by
    cases p <;> first | rfl | exact ⟨h0 _, h1 _⟩ | exact ⟨rfl, rfl, rfl⟩ | exact ⟨rfl, rfl⟩ | exact absurd (by decide) hl⟩ hm hs

theorem onNvm_frame_pages {f : Nvm → Nvm} {s : State} {l : List Part} {b : State}
    (hm : ∀ p ∈ ([.pages, .nvm] : List Part), p ∈ l) (hs : SameBut l b s) : SameBut l b (onNvm f s) :=
  SameBut.step (m := [.pages, .nvm]) (t := s) ⟨rfl, fun p hl => by
    cases p <;> first | rfl | exact ⟨rfl, rfl, rfl⟩ | exact ⟨rfl, rfl⟩ | exact absurd (by decide) hl⟩ hm hs

theorem onSaf_frame {f : Safety → Safety} {s : State} {l : List Part} {b : State} (h0 : ∀ c, (f c).a = c.a) (h1 : ∀ c, (f c).b = c.b) (h2
    : ∀ c, (f c).inForce = c.inForce) (h3 : ∀ c, (f c).src = c.src) (h4 : ∀ c, (f c).copy = c.copy)
    (hm : ∀ p ∈ ([.safety] : List Part), p ∈ l) (hs : SameBut l b s) : SameBut l b (onSaf f s) :=
  SameBut.step (m := [.safety]) (t := s) ⟨rfl, fun p hl => by
    cases p <;> first | rfl | exact ⟨h0 _, h1 _⟩ | exact ⟨h2 _, h3 _, h4 _⟩ | exact ⟨rfl, rfl, rfl⟩ | exact ⟨rfl, rfl⟩ | exact absurd (by decide) hl⟩ hm hs

theorem onSaf_frame_chans {f : Safety → Safety} {s : State} {l : List Part} {b : State} (h0 : ∀ c, (f c).inForce = c.inForce) (h1
    : ∀ c, (f c).src = c.src) (h2 : ∀ c, (f c).copy = c.copy)
    (hm : ∀ p ∈ ([.chans, .safety] : List Part), p ∈ l) (hs : SameBut l b s) : SameBut l b (onSaf f s) :=
  SameBut.step (m := [.chans, .safety]) (t := s) ⟨rfl, fun p hl => by
    cases p <;> first | rfl | exact ⟨h0 _, h1 _, h2 _⟩ | exact ⟨rfl, rfl, rfl⟩ | exact ⟨rfl, rfl⟩ | exact absurd (by decide) hl⟩ hm hs

theorem onSaf_frame_set {f : Safety → Safety} {s : State} {l : List Part} {b : State} (h0 : ∀ c, (f c).a = c.a) (h1 : ∀ c, (f c).b = c.b)
    (hm : ∀ p ∈ ([.safeSet, .safety] : List Part), p ∈ l) (hs : SameBut l b s) : SameBut l b (onSaf f s) :=
  SameBut.step (m := [.safeSet, .safety]) (t := s) ⟨rfl, fun p hl => by
    cases p <;> first | rfl | exact ⟨h0 _, h1 _⟩ | exact ⟨rfl, rfl, rfl⟩ | exact ⟨rfl, rfl⟩ | exact absurd (by decide) hl⟩ hm hs

theorem onNvm_frame_only_pages {f : Nvm → Nvm} {s : State} {l : List Part} {b : State}
    (h0 : ∀ c, { f c with pages := [], seq := 0 } = { c with pages := [], seq := 0 })
    (hm : ∀ p ∈ ([.pages] : List Part), p ∈ l) (hs : SameBut l b s) : SameBut l b (onNvm f s) :=
  SameBut.step (m := [.pages]) (t := s) ⟨rfl, fun p hl => by
    cases p <;> first | rfl | exact h0 _ | exact ⟨rfl, rfl, rfl⟩ | exact ⟨rfl, rfl⟩ | exact absurd (by decide) hl⟩ hm hs

theorem onSaf_frame_only_chans {f : Safety → Safety} {s : State} {l : List Part} {b : State}
    (hi : ∀ c, (f c).inForce = c.inForce) (hc : ∀ c, (f c).src = c.src) (hd : ∀ c, (f c).copy = c.copy)
    (h0 : ∀ c, { f c with a := {}, b := {}, inForce := [], src := 0, copy := 0 } = { c with a := {}, b := {}, inForce := [], src := 0, copy := 0 })
    (hm : ∀ p ∈ ([.chans] : List Part), p ∈ l) (hs : SameBut l b s) : SameBut l b (onSaf f s) :=
  SameBut.step (m := [.chans]) (t := s) ⟨rfl, fun p hl => by
    cases p <;> first | rfl | exact h0 _ | exact ⟨hi _, hc _, hd _⟩ | exact ⟨rfl, rfl, rfl⟩ | exact ⟨rfl, rfl⟩ | exact absurd (by decide) hl⟩ hm hs

theorem onSaf_frame_only_set {f : Safety → Safety} {s : State} {l : List Part} {b : State}
    (ha : ∀ c, (f c).a = c.a) (hb : ∀ c, (f c).b = c.b)
    (h0 : ∀ c, { f c with a := {}, b := {}, inForce := [], src := 0, copy := 0 } = { c with a := {}, b := {}, inForce := [], src := 0, copy := 0 })
    (hm : ∀ p ∈ ([.safeSet] : List Part), p ∈ l) (hs : SameBut l b s) : SameBut l b (onSaf f s) :=
  SameBut.step (m := [.safeSet]) (t := s) ⟨rfl, fun p hl => by
    cases p <;> first | rfl | exact h0 _ | exact ⟨ha _, hb _⟩ | exact ⟨rfl, rfl, rfl⟩ | exact ⟨rfl, rfl⟩ | exact absurd (by decide) hl⟩ hm hs

/-- What happens in one clock stays within the frame that also holds the ring island. -/
theorem sameClock_frame {f : State → State} {s : State} {l : List Part} {b : State} (hm : ∀ p ∈ ([.rings] : List Part), p ∈ l)
    (h : SameBut l b (f s)) : SameBut l b (sameClock f s) :=
  SameBut.step (m := [.rings]) (t := f s) ⟨rfl, fun p hl => by
    cases p <;> first | rfl | exact ⟨rfl, rfl⟩ | exact ⟨rfl, rfl, rfl⟩ | exact absurd (by decide) hl⟩ hm h

/-- One operation over a list, within a frame. -/
theorem forEach_frame {f : Nat → State → State} {l : List Part} {b : State} (hf : ∀ i t, SameBut l b t → SameBut l b (f i t)) :
    ∀ {xs : List Nat} {s : State}, SameBut l b s → SameBut l b (forEach f xs s) := by
  intro xs
  induction xs with
  | nil => intro s h; exact h
  | cons x r ih => intro s h; exact ih (hf x s h)

/-- A fold over a list, within a frame. -/
theorem foldl_frame {α : Type} {f : State → α → State} {l : List Part} {b : State} (hf : ∀ t x, SameBut l b t → SameBut l b (f t x)) :
    ∀ {xs : List α} {s : State}, SameBut l b s → SameBut l b (xs.foldl f s) := by
  intro xs
  induction xs with
  | nil => intro s h; exact h
  | cons x r ih => intro s h; exact ih (hf s x h)

/-- A read command completes, whatever its data. -/
theorem runRead_goes {l : List Part} {b s : State} {id op : Nat} {f : Desc → Bytes → State} (h0 : SameBut l b s)
    (h1 : SameBut l b (complete id stPOISON [] s)) (h : ∀ d x, descOf s id = some d → SameBut l b (f d x)) :
    Goes l b (runRead s id op f) := by
  refine runOp_goes h0 fun d hd => ?_
  split
  · exact h1
  · split
    · exact h0
    · exact h d _ hd

theorem SameBut.power_eq {l s t} (h : SameBut l s t) (hp : .power ∉ l := by decide) : t.power = s.power := h.parts .power hp

theorem SameBut.freeCtr_eq {l s t} (h : SameBut l s t) (hp : .freeCtr ∉ l := by decide) : t.freeCtr = s.freeCtr := h.parts .freeCtr hp

theorem SameBut.journal_eq {l s t} (h : SameBut l s t) (hp : .journal ∉ l := by decide) : t.journal = s.journal := h.parts .journal hp

theorem SameBut.chans_eq {l s t} (h : SameBut l s t) (hp : .chans ∉ l := by
  decide) : t.safety.a = s.safety.a ∧ t.safety.b = s.safety.b := h.parts .chans hp

theorem SameBut.tiles_eq {l s t} (h : SameBut l s t) (hp : .tiles ∉ l := by decide) : t.tiles = s.tiles := h.parts .tiles hp

theorem SameBut.link_eq {l s t} (h : SameBut l s t) (hp : .link ∉ l := by decide) : t.link = s.link := h.parts .link hp

theorem SameBut.rings_eq {l s t} (h : SameBut l s t) (hp : .rings ∉ l := by decide) : t.rings = s.rings := h.parts .rings hp

theorem SameBut.chain_eq {l s t} (h : SameBut l s t) (hp : .chain ∉ l := by decide) : t.chain = s.chain := h.parts .chain hp

theorem SameBut.time_eq {l s t} (h : SameBut l s t) (hp : .time ∉ l := by decide) : t.time = s.time := h.parts .time hp

theorem SameBut.strip_eq {l s t} (h : SameBut l s t) (hp : .strip ∉ l := by decide) : t.strip = s.strip := h.parts .strip hp

theorem SameBut.frm_eq {l s t} (h : SameBut l s t) (hp : .frm ∉ l := by decide) : t.frm = s.frm := h.parts .frm hp

theorem SameBut.boot_eq {l s t} (h : SameBut l s t) (hp : .boot ∉ l := by decide) : t.boot = s.boot := h.parts .boot hp

theorem SameBut.cal_eq {l s t} (h : SameBut l s t) (hp : .cal ∉ l := by decide) : t.cal = s.cal := h.parts .cal hp

theorem SameBut.therm_eq {l s t} (h : SameBut l s t) (hp : .therm ∉ l := by decide) : t.therm = s.therm := h.parts .therm hp

theorem SameBut.prot_eq {l s t} (h : SameBut l s t) (hp : .prot ∉ l := by decide) : t.prot = s.prot := h.parts .prot hp

theorem SameBut.outputs_eq {l s t} (h : SameBut l s t) (hp : .outputs ∉ l := by decide) : t.outputs = s.outputs := (h.parts .outputs hp).1

theorem SameBut.lanes_eq {l s t} (h : SameBut l s t) (hp : .outputs ∉ l := by decide) : t.lanes = s.lanes := (h.parts .outputs hp).2

theorem SameBut.slots_eq {l s t} (h : SameBut l s t) (hp : .slots ∉ l := by decide) : t.faults.slots = s.faults.slots := h.parts .slots hp

theorem SameBut.faults_eq {l s t} (h : SameBut l s t) (hp : .faults ∉ l := by decide) (hq : .slots ∉ l := by decide) : t.faults = s.faults := by
  have h1 := h.parts .faults hp; have h2 := h.parts .slots hq
  simp only [Part.same] at h1 h2
  cases hs : s.faults; cases ht : t.faults; rw [hs, ht] at h1 h2; simp_all

theorem SameBut.nvm_eq {l s t} (h : SameBut l s t) (hp : .nvm ∉ l := by decide) (hq : .pages ∉ l := by decide) : t.nvm = s.nvm := by
  have h1 := h.parts .nvm hp; have h2 := h.parts .pages hq
  simp only [Part.same] at h1 h2
  cases hs : s.nvm; cases ht : t.nvm; rw [hs, ht] at h1 h2; simp_all

theorem SameBut.safety_eq {l s t} (h : SameBut l s t) (hp : .safety ∉ l := by
  decide) (hq : .chans ∉ l := by decide) (hr : .safeSet ∉ l := by decide) : t.safety = s.safety := by
  have h1 := h.parts .safety hp; have h2 := h.parts .chans hq; have h3 := h.parts .safeSet hr
  simp only [Part.same] at h1 h2 h3
  cases hs : s.safety; cases ht : t.safety; rw [hs, ht] at h1 h2 h3; simp_all

theorem SameBut.cmp_eq {l s t} (h : SameBut l s t) (hp : .cmp ∉ l := by decide) (hq : .cache ∉ l := by decide) : t.cmp = s.cmp := by
  have h1 := h.parts .cmp hp; have h2 := h.parts .cache hq
  simp only [Part.same] at h1 h2
  cases hs : s.cmp; cases ht : t.cmp; rw [hs, ht] at h1 h2; simp_all

theorem SameBut.tileOf_eq {l s t} (h : SameBut l s t) (m : Nat) (h00 : .tiles ∉ l := by
  decide) : tileOf t m = tileOf s m := by simp only [tileOf, h.tiles_eq h00]

theorem SameBut.portOf_eq {l s t} (h : SameBut l s t) (m : Nat) (h00 : .chain ∉ l := by
  decide) (h10 : .boot ∉ l := by decide) : portOf t m = portOf s m := by simp only [portOf, h.chain_eq h00, h.boot_eq h10]

theorem SameBut.frondOf_eq {l s t} (h : SameBut l s t) (m : Nat) (h00 : .strip ∉ l := by
  decide) (h10 : .boot ∉ l := by decide) : frondOf t m = frondOf s m := by simp only [frondOf, h.strip_eq h00, h.boot_eq h10]

theorem SameBut.stripOf_eq {l s t} (h : SameBut l s t) (m : Nat) (h00 : .strip ∉ l := by
  decide) (h10 : .boot ∉ l := by decide) : stripOf t m = stripOf s m := by simp only [stripOf, h.strip_eq h00, h.boot_eq h10]

theorem SameBut.calOf_eq {l s t} (h : SameBut l s t) (m : Nat) (h00 : .cal ∉ l := by
  decide) : calOf t m = calOf s m := by simp only [calOf, h.cal_eq h00]

theorem SameBut.sensorOf_eq {l s t} (h : SameBut l s t) (m : Nat) (h00 : .therm ∉ l := by
  decide) (h10 : .boot ∉ l := by decide) : sensorOf t m = sensorOf s m := by simp only [sensorOf, h.therm_eq h00, h.boot_eq h10]

theorem SameBut.domainOf_eq {l s t} (h : SameBut l s t) (m : Nat) (h00 : .therm ∉ l := by
  decide) : domainOf t m = domainOf s m := by simp only [domainOf, h.therm_eq h00]

theorem SameBut.rxqOf_eq {l s t} (h : SameBut l s t) (m : Nat) (h00 : .chain ∉ l := by
  decide) (h10 : .boot ∉ l := by decide) : rxqOf t m = rxqOf s m := by simp only [rxqOf, h.chain_eq h00, h.boot_eq h10]

theorem SameBut.domOf_eq {l s t} (h : SameBut l s t) (m : Nat) (h00 : .time ∉ l := by
  decide) (h10 : .boot ∉ l := by decide) : domOf t m = domOf s m := by simp only [domOf, h.time_eq h00, h.boot_eq h10]

theorem SameBut.tevOf_eq {l s t} (h : SameBut l s t) (m : Nat) (h00 : .time ∉ l := by
  decide) : tevOf t m = tevOf s m := by simp only [tevOf, h.time_eq h00]

theorem SameBut.gcuOf_eq {l s t} (h : SameBut l s t) (m : Nat) (h00 : .nvm ∉ l := by
  decide) (h01 : .pages ∉ l := by decide) : gcuOf t m = gcuOf s m := by simp only [gcuOf, h.nvm_eq h00 h01]

theorem SameBut.layerOf_eq {l s t} (h : SameBut l s t) (m : Nat) (h00 : .cmp ∉ l := by
  decide) (h01 : .cache ∉ l := by decide) : layerOf t m = layerOf s m := by simp only [layerOf, h.cmp_eq h00 h01]

theorem SameBut.descOf_eq {l s t} (h : SameBut l s t) (m : Nat) (h00 : .rings ∉ l := by
  decide) : descOf t m = descOf s m := by simp only [descOf, h.rings_eq h00]

theorem SameBut.sqOf_eq {l s t} (h : SameBut l s t) (m : Nat) (h00 : .rings ∉ l := by
  decide) : sqOf t m = sqOf s m := by simp only [sqOf, h.rings_eq h00]

theorem SameBut.cqOf_eq {l s t} (h : SameBut l s t) (m : Nat) (h00 : .rings ∉ l := by
  decide) : cqOf t m = cqOf s m := by simp only [cqOf, h.rings_eq h00]

theorem SameBut.slotOf_eq {l s t} (h : SameBut l s t) (m : Nat) (h00 : .slots ∉ l := by
  decide) : slotOf t m = slotOf s m := by simp only [slotOf, h.slots_eq h00]

theorem SameBut.frameOf_eq {l s t} (h : SameBut l s t) (m : Nat) (h00 : .chain ∉ l := by
  decide) : frameOf t m = frameOf s m := by simp only [frameOf, h.chain_eq h00]

theorem SameBut.nvmBusy_eq {l s t} (h : SameBut l s t) (h00 : .nvm ∉ l := by
  decide) (h01 : .pages ∉ l := by decide) : nvmBusy t = nvmBusy s := by simp only [nvmBusy, h.nvm_eq h00 h01]

theorem SameBut.serving_eq {l s t} (h : SameBut l s t) (m : Nat) (h00 : .tiles ∉ l := by
  decide) : serving t m = serving s m := by unfold serving; rw [h.tileOf_eq m h00]

theorem SameBut.outTime_eq {l s t} (h : SameBut l s t) (h00 : .time ∉ l := by
  decide) (h10 : .boot ∉ l := by decide) : outTime t = outTime s := by simp only [outTime, domTime, domOf, h.time_eq h00, h.boot_eq h10]

theorem SameBut.chanOf_eq {l s t} (h : SameBut l s t) (m : Chan) (hp : .chans ∉ l := by
  decide) : chanOf t m = chanOf s m := by cases m <;> simp only [chanOf, (h.chans_eq hp).1, (h.chans_eq hp).2]

end Sys2Proof.Machine
end

