-- ==== Sys2Proof/Laws/FramesA.lean ====
section
/-! SUPPORT. The frame of each shared operation: which parts of the state it may change (onCal to endSelftest, in the order in
which the operations build on each other). -/

set_option autoImplicit false

-- One declaration after the other, without the linters of the library: many small theorems.
set_option Elab.async false
set_option linter.all false

namespace Sys2Proof.Machine

theorem onCal_frame {f : Cal → Cal} {s : State} {l : List Part} {b : State} (hm : ∀ p ∈ ([.cal] : List Part), p ∈ l) (h0 : SameBut l b s) :
    SameBut l b (onCal f s) := by
  refine SameBut.step ?_ hm h0
  clear hm h0
  unfold onCal
  repeat' (first
    | (with_reducible exact SameBut.refl)
    | ((with_reducible apply SameBut.upd); (· with_reducible exact rfl);
          (· ((fail_if_success (with_reducible exact Or.inl rfl)); exact Or.inr trivial));
          (· (intro p hp; cases p <;> first | rfl | exact ⟨rfl, rfl⟩ | exact ⟨rfl, rfl, rfl⟩ | exact absurd (by decide) hp))))

theorem demandCal_frame {s : State} {l : List Part} {b : State} (hm : ∀ p ∈ ([.therm] : List Part), p ∈ l) (h0 : SameBut l b s) : SameBut l b
    (demandCal s) := by
  refine SameBut.step ?_ hm h0
  clear hm h0
  unfold demandCal
  repeat' (first
    | (with_reducible exact SameBut.refl)
    | (extract_lets +onlyGivenNames x)
    | ((with_reducible apply SameBut.upd); (· with_reducible exact rfl);
          (· ((fail_if_success (with_reducible exact Or.inl rfl)); exact Or.inr trivial));
          (· (intro p hp; cases p <;> first | rfl | exact ⟨rfl, rfl⟩ | exact ⟨rfl, rfl, rfl⟩ | exact absurd (by decide) hp))))

theorem onChain_frame {f : Chain → Chain} {s : State} {l : List Part} {b : State} (hm : ∀ p ∈ ([.chain] : List Part), p ∈ l) (h0 : SameBut l b s) :
    SameBut l b (onChain f s) := by
  refine SameBut.step ?_ hm h0
  clear hm h0
  unfold onChain
  repeat' (first
    | (with_reducible exact SameBut.refl)
    | ((with_reducible apply SameBut.upd); (· with_reducible exact rfl);
          (· ((fail_if_success (with_reducible exact Or.inl rfl)); exact Or.inr trivial));
          (· (intro p hp; cases p <;> first | rfl | exact ⟨rfl, rfl⟩ | exact ⟨rfl, rfl, rfl⟩ | exact absurd (by decide) hp))))

theorem countSkipped_frame {f : PoolFrame} {s : State} {l : List Part} {b : State} (hm : ∀ p ∈ ([.time] : List Part), p ∈ l) (h0 : SameBut l b s) :
    SameBut l b (countSkipped f s) := by
  refine SameBut.step ?_ hm h0
  clear hm h0
  unfold countSkipped
  repeat' (first
    | (with_reducible exact SameBut.refl)
    | ((with_reducible apply SameBut.ite) <;> intro _)
    | (extract_lets +onlyGivenNames x)
    | ((with_reducible apply SameBut.upd); (· with_reducible exact rfl);
          (· ((fail_if_success (with_reducible exact Or.inl rfl)); exact Or.inr trivial));
          (· (intro p hp; cases p <;> first | rfl | exact ⟨rfl, rfl⟩ | exact ⟨rfl, rfl, rfl⟩ | exact absurd (by decide) hp)))
    | (split))

theorem onFrm_frame {f : Frm → Frm} {s : State} {l : List Part} {b : State} (hm : ∀ p ∈ ([.frm] : List Part), p ∈ l) (h0 : SameBut l b s) :
    SameBut l b (onFrm f s) := by
  refine SameBut.step ?_ hm h0
  clear hm h0
  unfold onFrm
  repeat' (first
    | (with_reducible exact SameBut.refl)
    | ((with_reducible apply SameBut.upd); (· with_reducible exact rfl);
          (· ((fail_if_success (with_reducible exact Or.inl rfl)); exact Or.inr trivial));
          (· (intro p hp; cases p <;> first | rfl | exact ⟨rfl, rfl⟩ | exact ⟨rfl, rfl, rfl⟩ | exact absurd (by decide) hp))))

theorem updGroup_frame {gid : Nat} {f : Group → Group} {s : State} {l : List Part} {b : State} (hm : ∀ p ∈ ([.cmp] : List Part), p ∈ l) (h0 :
    SameBut l b s) : SameBut l b (updGroup gid f s) := by
  refine SameBut.step ?_ hm h0
  clear hm h0
  unfold updGroup
  repeat' (first
    | (with_reducible exact SameBut.refl)
    | ((with_reducible apply onCmp_frame); (· (intro _; first | rfl | (split <;> rfl) | ((repeat' split) <;> rfl))); (· decide)))

theorem dropGroup_frame {gid : Nat} {s : State} {l : List Part} {b : State} (hm : ∀ p ∈ ([.cmp] : List Part), p ∈ l) (h0 : SameBut l b s) :
    SameBut l b (dropGroup gid s) := by
  refine SameBut.step ?_ hm h0
  clear hm h0
  unfold dropGroup
  repeat' (first
    | (with_reducible exact SameBut.refl)
    | ((with_reducible apply onCmp_frame); (· (intro _; first | rfl | (split <;> rfl) | ((repeat' split) <;> rfl))); (· decide)))

theorem layerData_frame {l_ : Nat} {runs : List (Nat × Bytes)} {s : State} {l : List Part} {b : State} (hm : ∀ p ∈ ([.cmp] : List Part), p ∈ l)
    (h0 : SameBut l b s) : SameBut l b (layerData l_ runs s) := by
  refine SameBut.step ?_ hm h0
  clear hm h0
  unfold layerData
  repeat' (first
    | (with_reducible exact SameBut.refl)
    | ((with_reducible apply onCmp_frame); (· (intro _; first | rfl | (split <;> rfl) | ((repeat' split) <;> rfl))); (· decide)))

theorem probeDone_frame {l_ : Nat} {s : State} {l : List Part} {b : State} (hm : ∀ p ∈ ([.cmp] : List Part), p ∈ l) (h0 : SameBut l b s) :
    SameBut l b (probeDone l_ s) := by
  refine SameBut.step ?_ hm h0
  clear hm h0
  unfold probeDone
  repeat' (first
    | (with_reducible exact SameBut.refl)
    | ((with_reducible apply onCmp_frame); (· (intro _; first | rfl | (split <;> rfl) | ((repeat' split) <;> rfl))); (· decide)))

theorem confirmAll_frame {s : State} {l : List Part} {b : State} (hm : ∀ p ∈ ([.cmp] : List Part), p ∈ l) (h0 : SameBut l b s) : SameBut l b
    (confirmAll s) := by
  refine SameBut.step ?_ hm h0
  clear hm h0
  unfold confirmAll
  repeat' (first
    | (with_reducible exact SameBut.refl)
    | ((with_reducible apply onCmp_frame); (· (intro _; first | rfl | (split <;> rfl) | ((repeat' split) <;> rfl))); (· decide)))

theorem rebuildActive_frame {keep : Group → Bool} {s : State} {l : List Part} {b : State} (hm : ∀ p ∈ ([.cmp] : List Part), p ∈ l) (h0 :
    SameBut l b s) : SameBut l b (rebuildActive keep s) := by
  refine SameBut.step ?_ hm h0
  clear hm h0
  unfold rebuildActive
  repeat' (first
    | (with_reducible exact SameBut.refl)
    | (extract_lets +onlyGivenNames x)
    | ((with_reducible apply onCmp_frame); (· (intro _; first | rfl | (split <;> rfl) | ((repeat' split) <;> rfl))); (· decide)))

theorem countStalls_frame {ls : List Nat} {s : State} {l : List Part} {b : State} (hm : ∀ p ∈ ([.cmp] : List Part), p ∈ l) (h0 : SameBut l b s) :
    SameBut l b (countStalls ls s) := by
  refine SameBut.step ?_ hm h0
  clear hm h0
  unfold countStalls
  repeat' (first
    | (with_reducible exact SameBut.refl)
    | ((with_reducible apply onCmp_frame); (· (intro _; first | rfl | (split <;> rfl) | ((repeat' split) <;> rfl))); (· decide)))

theorem dropLayerReads_frame {s : State} {l : List Part} {b : State} (hm : ∀ p ∈ ([.link] : List Part), p ∈ l) (h0 : SameBut l b s) : SameBut l b
    (dropLayerReads s) := by
  refine SameBut.step ?_ hm h0
  clear hm h0
  unfold dropLayerReads
  repeat' (first
    | (with_reducible exact SameBut.refl)
    | (extract_lets +onlyGivenNames x)
    | ((with_reducible apply SameBut.upd); (· with_reducible exact rfl);
          (· ((fail_if_success (with_reducible exact Or.inl rfl)); exact Or.inr trivial));
          (· (intro p hp; cases p <;> first | rfl | exact ⟨rfl, rfl⟩ | exact ⟨rfl, rfl, rfl⟩ | exact absurd (by decide) hp))))

theorem markAll_frame {num : Int} {js : List (Group × Bool × Bool)} {s : State} {l : List Part} {b : State} (hm : ∀ p ∈ ([.cmp] : List Part), p ∈ l)
    (h0 : SameBut l b s) : SameBut l b (markAll num js s) := by
  refine SameBut.step ?_ hm h0
  clear hm h0
  unfold markAll
  repeat' (first
    | (with_reducible exact SameBut.refl)
    | ((with_reducible apply onCmp_frame); (· (intro _; first | rfl | (split <;> rfl) | ((repeat' split) <;> rfl))); (· decide)))

theorem takeSettings_frame {s : State} {l : List Part} {b : State} (hm : ∀ p ∈ ([.safety, .cal] : List Part), p ∈ l) (h0 : SameBut l b s) :
    SameBut l b (takeSettings s) := by
  refine SameBut.step ?_ hm h0
  clear hm h0
  unfold takeSettings
  repeat' (first
    | (with_reducible exact SameBut.refl)
    | (extract_lets +onlyGivenNames x)
    | ((with_reducible apply SameBut.upd); (· with_reducible exact rfl);
          (· ((fail_if_success (with_reducible exact Or.inl rfl)); exact Or.inr trivial));
          (· (intro p hp; cases p <;> first | rfl | exact ⟨rfl, rfl⟩ | exact ⟨rfl, rfl, rfl⟩ | exact absurd (by decide) hp))))

theorem dropItem_frame {r : ReadItem} {s : State} {l : List Part} {b : State} (hm : ∀ p ∈ ([.link] : List Part), p ∈ l) (h0 : SameBut l b s) :
    SameBut l b (dropItem r s) := by
  refine SameBut.step ?_ hm h0
  clear hm h0
  unfold dropItem
  repeat' (first
    | (with_reducible exact SameBut.refl)
    | (extract_lets +onlyGivenNames x)
    | ((with_reducible apply SameBut.upd); (· with_reducible exact rfl);
          (· ((fail_if_success (with_reducible exact Or.inl rfl)); exact Or.inr trivial));
          (· (intro p hp; cases p <;> first | rfl | exact ⟨rfl, rfl⟩ | exact ⟨rfl, rfl, rfl⟩ | exact absurd (by decide) hp))))

theorem onXfer_frame {f : Xfer → Xfer} {s : State} {l : List Part} {b : State} (hm : ∀ p ∈ ([.nvm] : List Part), p ∈ l) (h0 : SameBut l b s) :
    SameBut l b (onXfer f s) := by
  refine SameBut.step ?_ hm h0
  clear hm h0
  unfold onXfer
  repeat' (first
    | (with_reducible exact SameBut.refl)
    | ((with_reducible apply onNvm_frame); (· (intro _; first | rfl | (split <;> rfl) | ((repeat' split) <;> rfl)));
          (· (intro _; first | rfl | (split <;> rfl) | ((repeat' split) <;> rfl))); (· decide)))

theorem urgentRecs_frame {l_ : List Rec} {s : State} {l : List Part} {b : State} (hm : ∀ p ∈ ([.nvm] : List Part), p ∈ l) (h0 : SameBut l b s) :
    SameBut l b (urgentRecs l_ s) := by
  refine SameBut.step ?_ hm h0
  clear hm h0
  unfold urgentRecs
  repeat' (first
    | (with_reducible exact SameBut.refl)
    | ((with_reducible apply onNvm_frame); (· (intro _; first | rfl | (split <;> rfl) | ((repeat' split) <;> rfl)));
          (· (intro _; first | rfl | (split <;> rfl) | ((repeat' split) <;> rfl))); (· decide)))

theorem commitPage_frame {page : Nat} {b_ : List Byte} {s : State} {l : List Part} {b : State} (hm : ∀ p ∈ ([.pages, .nvm] : List Part), p ∈ l)
    (h0 : SameBut l b s) : SameBut l b (commitPage page b_ s) := by
  refine SameBut.step ?_ hm h0
  clear hm h0
  unfold commitPage
  repeat' (first
    | (with_reducible exact SameBut.refl)
    | ((with_reducible apply onNvm_frame_pages); (· decide)))

theorem cutRecord_frame {s : State} {l : List Part} {b : State} (hm : ∀ p ∈ ([.freeCtr, .pages, .nvm] : List Part), p ∈ l) (h0 : SameBut l b s) :
    SameBut l b (cutRecord s) := by
  refine SameBut.step ?_ hm h0
  clear hm h0
  unfold cutRecord
  repeat' (first
    | (with_reducible exact SameBut.refl)
    | ((with_reducible apply SameBut.ite) <;> intro _)
    | (extract_lets +onlyGivenNames x)
    | ((with_reducible apply SameBut.upd); (· with_reducible exact rfl);
          (· ((fail_if_success (with_reducible exact Or.inl rfl)); exact Or.inr trivial));
          (· (intro p hp; cases p <;> first | rfl | exact ⟨rfl, rfl⟩ | exact ⟨rfl, rfl, rfl⟩ | exact absurd (by decide) hp)))
    | ((with_reducible apply onNvm_frame); (· (intro _; first | rfl | (split <;> rfl) | ((repeat' split) <;> rfl)));
          (· (intro _; first | rfl | (split <;> rfl) | ((repeat' split) <;> rfl))); (· decide))
    | ((with_reducible apply onNvm_frame_pages); (· decide))
    | (split))

theorem saveHalf_frame {n : Nat} {h : Nat} {s : State} {l : List Part} {b : State} (hm : ∀ p ∈ ([.journal] : List Part), p ∈ l) (h0 :
    SameBut l b s) : SameBut l b (saveHalf n h s) := by
  refine SameBut.step ?_ hm h0
  clear hm h0
  unfold saveHalf
  repeat' (first
    | (with_reducible exact SameBut.refl)
    | (extract_lets +onlyGivenNames x)
    | ((with_reducible apply SameBut.upd); (· with_reducible exact rfl);
          (· ((fail_if_success (with_reducible exact Or.inl rfl)); exact Or.inr trivial));
          (· (intro p hp; cases p <;> first | rfl | exact ⟨rfl, rfl⟩ | exact ⟨rfl, rfl, rfl⟩ | exact absurd (by decide) hp)))
    | (split))

theorem openPage_frame {s : State} {l : List Part} {b : State} (hm : ∀ p ∈ ([.freeCtr] : List Part), p ∈ l) (h0 : SameBut l b s) : SameBut l b
    (openPage s).2 := by
  refine SameBut.step ?_ hm h0
  clear hm h0
  unfold openPage
  repeat' (first
    | (with_reducible exact SameBut.refl)
    | ((with_reducible apply SameBut.upd); (· with_reducible exact rfl);
          (· ((fail_if_success (with_reducible exact Or.inl rfl)); exact Or.inr trivial));
          (· (intro p hp; cases p <;> first | rfl | exact ⟨rfl, rfl⟩ | exact ⟨rfl, rfl, rfl⟩ | exact absurd (by decide) hp))))

theorem putSq_frame {s : State} {n : Nat} {q : Sq} {l : List Part} {b : State} (hm : ∀ p ∈ ([.rings] : List Part), p ∈ l) (h0 : SameBut l b s) :
    SameBut l b (putSq s n q) := by
  refine SameBut.step ?_ hm h0
  clear hm h0
  unfold putSq
  repeat' (first
    | (with_reducible exact SameBut.refl)
    | (extract_lets +onlyGivenNames x)
    | ((with_reducible apply SameBut.upd); (· with_reducible exact rfl);
          (· ((fail_if_success (with_reducible exact Or.inl rfl)); exact Or.inr trivial));
          (· (intro p hp; cases p <;> first | rfl | exact ⟨rfl, rfl⟩ | exact ⟨rfl, rfl, rfl⟩ | exact absurd (by decide) hp))))

theorem putCq_frame {s : State} {n : Nat} {q : Cq} {l : List Part} {b : State} (hm : ∀ p ∈ ([.rings] : List Part), p ∈ l) (h0 : SameBut l b s) :
    SameBut l b (putCq s n q) := by
  refine SameBut.step ?_ hm h0
  clear hm h0
  unfold putCq
  repeat' (first
    | (with_reducible exact SameBut.refl)
    | (extract_lets +onlyGivenNames x)
    | ((with_reducible apply SameBut.upd); (· with_reducible exact rfl);
          (· ((fail_if_success (with_reducible exact Or.inl rfl)); exact Or.inr trivial));
          (· (intro p hp; cases p <;> first | rfl | exact ⟨rfl, rfl⟩ | exact ⟨rfl, rfl, rfl⟩ | exact absurd (by decide) hp))))

theorem putFrond_frame {s : State} {f : Nat} {x : Frond} {l : List Part} {b : State} (hm : ∀ p ∈ ([.strip] : List Part), p ∈ l) (h0 :
    SameBut l b s) : SameBut l b (putFrond s f x) := by
  refine SameBut.step ?_ hm h0
  clear hm h0
  unfold putFrond
  repeat' (first
    | (with_reducible exact SameBut.refl)
    | (extract_lets +onlyGivenNames x)
    | ((with_reducible apply SameBut.upd); (· with_reducible exact rfl);
          (· ((fail_if_success (with_reducible exact Or.inl rfl)); exact Or.inr trivial));
          (· (intro p hp; cases p <;> first | rfl | exact ⟨rfl, rfl⟩ | exact ⟨rfl, rfl, rfl⟩ | exact absurd (by decide) hp))))

theorem putStrip_frame {s : State} {i : Nat} {x : Strip} {l : List Part} {b : State} (hm : ∀ p ∈ ([.strip] : List Part), p ∈ l) (h0 :
    SameBut l b s) : SameBut l b (putStrip s i x) := by
  refine SameBut.step ?_ hm h0
  clear hm h0
  unfold putStrip
  repeat' (first
    | (with_reducible exact SameBut.refl)
    | (extract_lets +onlyGivenNames x)
    | ((with_reducible apply SameBut.upd); (· with_reducible exact rfl);
          (· ((fail_if_success (with_reducible exact Or.inl rfl)); exact Or.inr trivial));
          (· (intro p hp; cases p <;> first | rfl | exact ⟨rfl, rfl⟩ | exact ⟨rfl, rfl, rfl⟩ | exact absurd (by decide) hp))))

theorem putTile_frame {s : State} {n : Nat} {x : Tile} {l : List Part} {b : State} (hm : ∀ p ∈ ([.tiles] : List Part), p ∈ l) (h0 : SameBut l b s) :
    SameBut l b (putTile s n x) := by
  refine SameBut.step ?_ hm h0
  clear hm h0
  unfold putTile
  repeat' (first
    | (with_reducible exact SameBut.refl)
    | (extract_lets +onlyGivenNames x)
    | ((with_reducible apply SameBut.upd); (· with_reducible exact rfl);
          (· ((fail_if_success (with_reducible exact Or.inl rfl)); exact Or.inr trivial));
          (· (intro p hp; cases p <;> first | rfl | exact ⟨rfl, rfl⟩ | exact ⟨rfl, rfl, rfl⟩ | exact absurd (by decide) hp))))

theorem putCal_frame {s : State} {c : Nat} {x : CalCh} {l : List Part} {b : State} (hm : ∀ p ∈ ([.cal] : List Part), p ∈ l) (h0 : SameBut l b s) :
    SameBut l b (putCal s c x) := by
  refine SameBut.step ?_ hm h0
  clear hm h0
  unfold putCal
  repeat' (first
    | (with_reducible exact SameBut.refl)
    | (extract_lets +onlyGivenNames x)
    | ((with_reducible apply SameBut.upd); (· with_reducible exact rfl);
          (· ((fail_if_success (with_reducible exact Or.inl rfl)); exact Or.inr trivial));
          (· (intro p hp; cases p <;> first | rfl | exact ⟨rfl, rfl⟩ | exact ⟨rfl, rfl, rfl⟩ | exact absurd (by decide) hp))))

theorem putSensor_frame {s : State} {i : Nat} {x : Sensor} {l : List Part} {b : State} (hm : ∀ p ∈ ([.therm] : List Part), p ∈ l) (h0 :
    SameBut l b s) : SameBut l b (putSensor s i x) := by
  refine SameBut.step ?_ hm h0
  clear hm h0
  unfold putSensor
  repeat' (first
    | (with_reducible exact SameBut.refl)
    | (extract_lets +onlyGivenNames x)
    | ((with_reducible apply SameBut.upd); (· with_reducible exact rfl);
          (· ((fail_if_success (with_reducible exact Or.inl rfl)); exact Or.inr trivial));
          (· (intro p hp; cases p <;> first | rfl | exact ⟨rfl, rfl⟩ | exact ⟨rfl, rfl, rfl⟩ | exact absurd (by decide) hp))))

theorem putDomain_frame {s : State} {d : Nat} {x : Domain} {l : List Part} {b : State} (hm : ∀ p ∈ ([.therm] : List Part), p ∈ l) (h0 :
    SameBut l b s) : SameBut l b (putDomain s d x) := by
  refine SameBut.step ?_ hm h0
  clear hm h0
  unfold putDomain
  repeat' (first
    | (with_reducible exact SameBut.refl)
    | (extract_lets +onlyGivenNames x)
    | ((with_reducible apply SameBut.upd); (· with_reducible exact rfl);
          (· ((fail_if_success (with_reducible exact Or.inl rfl)); exact Or.inr trivial));
          (· (intro p hp; cases p <;> first | rfl | exact ⟨rfl, rfl⟩ | exact ⟨rfl, rfl, rfl⟩ | exact absurd (by decide) hp))))

theorem putPort_frame {s : State} {p : Nat} {x : Port} {l : List Part} {b : State} (hm : ∀ p ∈ ([.chain] : List Part), p ∈ l) (h0 : SameBut l b s) :
    SameBut l b (putPort s p x) := by
  refine SameBut.step ?_ hm h0
  clear hm h0
  unfold putPort
  repeat' (first
    | (with_reducible exact SameBut.refl)
    | (extract_lets +onlyGivenNames x)
    | ((with_reducible apply SameBut.upd); (· with_reducible exact rfl);
          (· ((fail_if_success (with_reducible exact Or.inl rfl)); exact Or.inr trivial));
          (· (intro p hp; cases p <;> first | rfl | exact ⟨rfl, rfl⟩ | exact ⟨rfl, rfl, rfl⟩ | exact absurd (by decide) hp))))

theorem putRxq_frame {s : State} {r : Nat} {x : Rxq} {l : List Part} {b : State} (hm : ∀ p ∈ ([.chain] : List Part), p ∈ l) (h0 : SameBut l b s) :
    SameBut l b (putRxq s r x) := by
  refine SameBut.step ?_ hm h0
  clear hm h0
  unfold putRxq
  repeat' (first
    | (with_reducible exact SameBut.refl)
    | (extract_lets +onlyGivenNames x)
    | ((with_reducible apply SameBut.upd); (· with_reducible exact rfl);
          (· ((fail_if_success (with_reducible exact Or.inl rfl)); exact Or.inr trivial));
          (· (intro p hp; cases p <;> first | rfl | exact ⟨rfl, rfl⟩ | exact ⟨rfl, rfl, rfl⟩ | exact absurd (by decide) hp))))

theorem putDom_frame {s : State} {d : Nat} {x : Dom} {l : List Part} {b : State} (hm : ∀ p ∈ ([.time] : List Part), p ∈ l) (h0 : SameBut l b s) :
    SameBut l b (putDom s d x) := by
  refine SameBut.step ?_ hm h0
  clear hm h0
  unfold putDom
  repeat' (first
    | (with_reducible exact SameBut.refl)
    | (extract_lets +onlyGivenNames x)
    | ((with_reducible apply SameBut.upd); (· with_reducible exact rfl);
          (· ((fail_if_success (with_reducible exact Or.inl rfl)); exact Or.inr trivial));
          (· (intro p hp; cases p <;> first | rfl | exact ⟨rfl, rfl⟩ | exact ⟨rfl, rfl, rfl⟩ | exact absurd (by decide) hp))))

theorem putTev_frame {s : State} {k : Nat} {x : Tev} {l : List Part} {b : State} (hm : ∀ p ∈ ([.time] : List Part), p ∈ l) (h0 : SameBut l b s) :
    SameBut l b (putTev s k x) := by
  refine SameBut.step ?_ hm h0
  clear hm h0
  unfold putTev
  repeat' (first
    | (with_reducible exact SameBut.refl)
    | (extract_lets +onlyGivenNames x)
    | ((with_reducible apply SameBut.upd); (· with_reducible exact rfl);
          (· ((fail_if_success (with_reducible exact Or.inl rfl)); exact Or.inr trivial));
          (· (intro p hp; cases p <;> first | rfl | exact ⟨rfl, rfl⟩ | exact ⟨rfl, rfl, rfl⟩ | exact absurd (by decide) hp))))

theorem putGcu_frame {s : State} {u : Nat} {x : Gcu} {l : List Part} {b : State} (hm : ∀ p ∈ ([.nvm] : List Part), p ∈ l) (h0 : SameBut l b s) :
    SameBut l b (putGcu s u x) := by
  refine SameBut.step ?_ hm h0
  clear hm h0
  unfold putGcu
  repeat' (first
    | (with_reducible exact SameBut.refl)
    | (extract_lets +onlyGivenNames x)
    | ((with_reducible apply SameBut.upd); (· with_reducible exact rfl);
          (· ((fail_if_success (with_reducible exact Or.inl rfl)); exact Or.inr trivial));
          (· (intro p hp; cases p <;> first | rfl | exact ⟨rfl, rfl⟩ | exact ⟨rfl, rfl, rfl⟩ | exact absurd (by decide) hp))))

theorem emit_frame {o : Output} {s : State} {l : List Part} {b : State} (hm : ∀ p ∈ ([.outputs] : List Part), p ∈ l) (h0 : SameBut l b s) :
    SameBut l b (emit o s) := by
  refine SameBut.step ?_ hm h0
  clear hm h0
  unfold emit
  repeat' (first
    | (with_reducible exact SameBut.refl)
    | ((with_reducible apply SameBut.upd); (· with_reducible exact rfl);
          (· ((fail_if_success (with_reducible exact Or.inl rfl)); exact Or.inr trivial));
          (· (intro p hp; cases p <;> first | rfl | exact ⟨rfl, rfl⟩ | exact ⟨rfl, rfl, rfl⟩ | exact absurd (by decide) hp))))

theorem runLocal_frame {d : Int} {s : State} {l : List Part} {b : State} (hm : ∀ p ∈ ([.time] : List Part), p ∈ l) (h0 : SameBut l b s) :
    SameBut l b (runLocal d s) := by
  refine SameBut.step ?_ hm h0
  clear hm h0
  unfold runLocal
  repeat' (first
    | (with_reducible exact SameBut.refl)
    | (extract_lets +onlyGivenNames x)
    | ((with_reducible apply SameBut.upd); (· with_reducible exact rfl);
          (· ((fail_if_success (with_reducible exact Or.inl rfl)); exact Or.inr trivial));
          (· (intro p hp; cases p <;> first | rfl | exact ⟨rfl, rfl⟩ | exact ⟨rfl, rfl, rfl⟩ | exact absurd (by decide) hp))))

theorem raise_frame {slot : Nat} {s : State} {l : List Part} {b : State} (hm : ∀ p ∈ ([.faults] : List Part), p ∈ l) (h0 : SameBut l b s) :
    SameBut l b (raise slot s) := by
  refine SameBut.step ?_ hm h0
  clear hm h0
  unfold raise
  repeat' (first
    | (with_reducible exact SameBut.refl)
    | ((with_reducible apply SameBut.ite) <;> intro _)
    | (extract_lets +onlyGivenNames x)
    | ((with_reducible apply SameBut.upd); (· with_reducible exact rfl);
          (· ((fail_if_success (with_reducible exact Or.inl rfl)); exact Or.inr trivial));
          (· (intro p hp; cases p <;> first | rfl | exact ⟨rfl, rfl⟩ | exact ⟨rfl, rfl, rfl⟩ | exact absurd (by decide) hp))))

theorem condOff_frame {slot : Nat} {s : State} {l : List Part} {b : State} (hm : ∀ p ∈ ([.faults] : List Part), p ∈ l) (h0 : SameBut l b s) :
    SameBut l b (condOff slot s) := by
  refine SameBut.step ?_ hm h0
  clear hm h0
  unfold condOff
  repeat' (first
    | (with_reducible exact SameBut.refl)
    | ((with_reducible apply SameBut.ite) <;> intro _)
    | (extract_lets +onlyGivenNames x)
    | ((with_reducible apply SameBut.upd); (· with_reducible exact rfl);
          (· ((fail_if_success (with_reducible exact Or.inl rfl)); exact Or.inr trivial));
          (· (intro p hp; cases p <;> first | rfl | exact ⟨rfl, rfl⟩ | exact ⟨rfl, rfl, rfl⟩ | exact absurd (by decide) hp))))

theorem postEvent_frame {typ : Nat} {a0 : Nat} {a1 : Nat} {a2 : Nat} {s : State} {l : List Part} {b : State} (hm : ∀ p ∈
    ([.rings] : List Part), p ∈ l) (h0 : SameBut l b s) : SameBut l b (postEvent typ a0 a1 a2 s) := by
  refine SameBut.step ?_ hm h0
  clear hm h0
  unfold postEvent
  repeat' (first
    | (with_reducible exact SameBut.refl)
    | (extract_lets +onlyGivenNames x)
    | ((with_reducible apply SameBut.upd); (· with_reducible exact rfl);
          (· ((fail_if_success (with_reducible exact Or.inl rfl)); exact Or.inr trivial));
          (· (intro p hp; cases p <;> first | rfl | exact ⟨rfl, rfl⟩ | exact ⟨rfl, rfl, rfl⟩ | exact absurd (by decide) hp))))

theorem freshFree_frame {s : State} {l : List Part} {b : State} (hm : ∀ p ∈ ([.freeCtr] : List Part), p ∈ l) (h0 : SameBut l b s) : SameBut l b
    (freshFree s).2 := by
  refine SameBut.step ?_ hm h0
  clear hm h0
  unfold freshFree
  repeat' (first
    | (with_reducible exact SameBut.refl)
    | ((with_reducible apply SameBut.upd); (· with_reducible exact rfl);
          (· ((fail_if_success (with_reducible exact Or.inl rfl)); exact Or.inr trivial));
          (· (intro p hp; cases p <;> first | rfl | exact ⟨rfl, rfl⟩ | exact ⟨rfl, rfl, rfl⟩ | exact absurd (by decide) hp))))

theorem updDesc_frame {id : Nat} {f : Desc → Desc} {s : State} {l : List Part} {b : State} (hm : ∀ p ∈ ([.rings] : List Part), p ∈ l) (h0 :
    SameBut l b s) : SameBut l b (updDesc id f s) := by
  refine SameBut.step ?_ hm h0
  clear hm h0
  unfold updDesc
  repeat' (first
    | (with_reducible exact SameBut.refl)
    | (extract_lets +onlyGivenNames x)
    | ((with_reducible apply SameBut.upd); (· with_reducible exact rfl);
          (· ((fail_if_success (with_reducible exact Or.inl rfl)); exact Or.inr trivial));
          (· (intro p hp; cases p <;> first | rfl | exact ⟨rfl, rfl⟩ | exact ⟨rfl, rfl, rfl⟩ | exact absurd (by decide) hp))))

theorem complete_frame {id : Nat} {status : Nat} {result : List Byte} {s : State} {l : List Part} {b : State} (hm : ∀ p ∈
    ([.rings] : List Part), p ∈ l) (h0 : SameBut l b s) : SameBut l b (complete id status result s) := by
  refine SameBut.step ?_ hm h0
  clear hm h0
  unfold complete
  repeat' (first
    | (with_reducible exact SameBut.refl)
    | (extract_lets +onlyGivenNames x)
    | ((with_reducible apply SameBut.upd); (· with_reducible exact rfl);
          (· ((fail_if_success (with_reducible exact Or.inl rfl)); exact Or.inr trivial));
          (· (intro p hp; cases p <;> first | rfl | exact ⟨rfl, rfl⟩ | exact ⟨rfl, rfl, rfl⟩ | exact absurd (by decide) hp)))
    | (split))

theorem putSlot_frame {s : State} {n : Nat} {x : Slot} {l : List Part} {b : State} (hm : ∀ p ∈ ([.slots] : List Part), p ∈ l) (h0 : SameBut l b s) :
    SameBut l b (putSlot s n x) := by
  refine SameBut.step ?_ hm h0
  clear hm h0
  unfold putSlot
  repeat' (first
    | (with_reducible exact SameBut.refl)
    | (extract_lets +onlyGivenNames x)
    | ((with_reducible apply SameBut.upd); (· with_reducible exact rfl);
          (· ((fail_if_success (with_reducible exact Or.inl rfl)); exact Or.inr trivial));
          (· (intro p hp; cases p <;> first | rfl | exact ⟨rfl, rfl⟩ | exact ⟨rfl, rfl, rfl⟩ | exact absurd (by decide) hp))))

theorem pump_frame {s : State} {l : List Part} {b : State} (hm : ∀ p ∈ ([.outputs, .link] : List Part), p ∈ l) (h0 : SameBut l b s) : SameBut l b
    (pump s) := by
  refine SameBut.step ?_ hm h0
  clear hm h0
  unfold pump
  repeat' (first
    | (with_reducible exact SameBut.refl)
    | ((with_reducible apply SameBut.ite) <;> intro _)
    | (extract_lets +onlyGivenNames x)
    | ((with_reducible apply SameBut.upd); (· with_reducible exact rfl);
          (· ((fail_if_success (with_reducible exact Or.inl rfl)); exact Or.inr trivial));
          (· (intro p hp; cases p <;> first | rfl | exact ⟨rfl, rfl⟩ | exact ⟨rfl, rfl, rfl⟩ | exact absurd (by decide) hp))))

theorem queueRead_frame {who : Requester} {ranges : List (Nat × Nat)} {s : State} {l : List Part} {b : State} (hm : ∀ p ∈
    ([.link] : List Part), p ∈ l) (h0 : SameBut l b s) : SameBut l b (queueRead who ranges s) := by
  refine SameBut.step ?_ hm h0
  clear hm h0
  unfold queueRead
  repeat' (first
    | (with_reducible exact SameBut.refl)
    | (extract_lets +onlyGivenNames x)
    | ((with_reducible apply SameBut.upd); (· with_reducible exact rfl);
          (· ((fail_if_success (with_reducible exact Or.inl rfl)); exact Or.inr trivial));
          (· (intro p hp; cases p <;> first | rfl | exact ⟨rfl, rfl⟩ | exact ⟨rfl, rfl, rfl⟩ | exact absurd (by decide) hp))))

theorem hostWrite_frame {addr : Nat} {b_ : List Byte} {s : State} {l : List Part} {b : State} (hm : ∀ p ∈ ([.outputs] : List Part), p ∈ l) (h0 :
    SameBut l b s) : SameBut l b (hostWrite addr b_ s) := by
  refine SameBut.step ?_ hm h0
  clear hm h0
  unfold hostWrite
  repeat' (first
    | (with_reducible exact SameBut.refl)
    | ((with_reducible apply SameBut.upd); (· with_reducible exact rfl);
          (· ((fail_if_success (with_reducible exact Or.inl rfl)); exact Or.inr trivial));
          (· (intro p hp; cases p <;> first | rfl | exact ⟨rfl, rfl⟩ | exact ⟨rfl, rfl, rfl⟩ | exact absurd (by decide) hp))))

theorem sendPending_frame {s : State} {l : List Part} {b : State} (hm : ∀ p ∈ ([.outputs, .link] : List Part), p ∈ l) (h0 : SameBut l b s) :
    SameBut l b (sendPending s) := by
  refine SameBut.step ?_ hm h0
  clear hm h0
  unfold sendPending
  repeat' (first
    | (with_reducible exact SameBut.refl)
    | (extract_lets +onlyGivenNames x)
    | ((with_reducible apply SameBut.upd); (· with_reducible exact rfl);
          (· ((fail_if_success (with_reducible exact Or.inl rfl)); exact Or.inr trivial));
          (· (intro p hp; cases p <;> first | rfl | exact ⟨rfl, rfl⟩ | exact ⟨rfl, rfl, rfl⟩ | exact absurd (by decide) hp))))

theorem laneSend_frame {p : Nat} {bs : List Block} {s : State} {l : List Part} {b : State} (hm : ∀ p ∈ ([.outputs] : List Part), p ∈ l) (h0 :
    SameBut l b s) : SameBut l b (laneSend p bs s) := by
  refine SameBut.step ?_ hm h0
  clear hm h0
  unfold laneSend
  repeat' (first
    | (with_reducible exact SameBut.refl)
    | ((with_reducible apply SameBut.upd); (· with_reducible exact rfl);
          (· ((fail_if_success (with_reducible exact Or.inl rfl)); exact Or.inr trivial));
          (· (intro p hp; cases p <;> first | rfl | exact ⟨rfl, rfl⟩ | exact ⟨rfl, rfl, rfl⟩ | exact absurd (by decide) hp))))

theorem markRef_frame {i : Nat} {b_ : Bool} {s : State} {l : List Part} {b : State} (hm : ∀ p ∈ ([.power] : List Part), p ∈ l) (h0 :
    SameBut l b s) : SameBut l b (markRef i b_ s) := by
  refine SameBut.step ?_ hm h0
  clear hm h0
  unfold markRef
  repeat' (first
    | (with_reducible exact SameBut.refl)
    | (extract_lets +onlyGivenNames x)
    | ((with_reducible apply SameBut.upd); (· with_reducible exact rfl);
          (· ((fail_if_success (with_reducible exact Or.inl rfl)); exact Or.inr trivial));
          (· (intro p hp; cases p <;> first | rfl | exact ⟨rfl, rfl⟩ | exact ⟨rfl, rfl, rfl⟩ | exact absurd (by decide) hp))))

theorem onShadow_frame {f : ProtTable → ProtTable} {s : State} {l : List Part} {b : State} (hm : ∀ p ∈ ([.prot] : List Part), p ∈ l) (h0 :
    SameBut l b s) : SameBut l b (onShadow f s) := by
  refine SameBut.step ?_ hm h0
  clear hm h0
  unfold onShadow
  repeat' (first
    | (with_reducible exact SameBut.refl)
    | (extract_lets +onlyGivenNames x)
    | ((with_reducible apply SameBut.upd); (· with_reducible exact rfl);
          (· ((fail_if_success (with_reducible exact Or.inl rfl)); exact Or.inr trivial));
          (· (intro p hp; cases p <;> first | rfl | exact ⟨rfl, rfl⟩ | exact ⟨rfl, rfl, rfl⟩ | exact absurd (by decide) hp))))

theorem chipReset_frame {c : Cause} {s : State} {l : List Part} {b : State}
    (hm : ∀ p ∈
    ([.boot, .power, .link, .prot, .rings, .cmp, .frm, .strip, .tiles, .journal, .chans, .safeSet, .safety, .slots, .faults, .cal, .therm, .chain, .time, .nvm] : List Part), p ∈ l)

    (h0 : SameBut l b s) : SameBut l b (chipReset c s) :=
  SameBut.step (t := s) ⟨rfl, fun p hl => by
    cases p <;> first | rfl | exact ⟨rfl, rfl⟩ | exact absurd (by decide) hl⟩ hm h0

theorem release__frame {svcEnN : Bool} {s : State} {l : List Part} {b : State} (hm : ∀ p ∈ ([.power] : List Part), p ∈ l) (h0 : SameBut l b s) :
    SameBut l b (release_ svcEnN s) := by
  refine SameBut.step ?_ hm h0
  clear hm h0
  unfold release_
  repeat' (first
    | (with_reducible exact SameBut.refl)
    | ((with_reducible apply SameBut.ite) <;> intro _)
    | (extract_lets +onlyGivenNames x)
    | ((with_reducible apply SameBut.upd); (· with_reducible exact rfl);
          (· ((fail_if_success (with_reducible exact Or.inl rfl)); exact Or.inr trivial));
          (· (intro p hp; cases p <;> first | rfl | exact ⟨rfl, rfl⟩ | exact ⟨rfl, rfl, rfl⟩ | exact absurd (by decide) hp))))

theorem dropFetches_frame {n : Nat} {s : State} {l : List Part} {b : State} (hm : ∀ p ∈ ([.link] : List Part), p ∈ l) (h0 : SameBut l b s) :
    SameBut l b (dropFetches n s) := by
  refine SameBut.step ?_ hm h0
  clear hm h0
  unfold dropFetches
  repeat' (first
    | (with_reducible exact SameBut.refl)
    | (extract_lets +onlyGivenNames x)
    | ((with_reducible apply SameBut.upd); (· with_reducible exact rfl);
          (· ((fail_if_success (with_reducible exact Or.inl rfl)); exact Or.inr trivial));
          (· (intro p hp; cases p <;> first | rfl | exact ⟨rfl, rfl⟩ | exact ⟨rfl, rfl, rfl⟩ | exact absurd (by decide) hp))))

theorem queueFetch_frame {turn : Nat} {n : Nat} {first : Nat} {count : Nat} {base : Nat} {s : State} {l : List Part} {b : State} (hm : ∀ p ∈
    ([.link] : List Part), p ∈ l) (h0 : SameBut l b s) : SameBut l b (queueFetch turn n first count base s) := by
  refine SameBut.step ?_ hm h0
  clear hm h0
  unfold queueFetch
  repeat' (first
    | (with_reducible exact SameBut.refl)
    | (extract_lets +onlyGivenNames x)
    | ((with_reducible apply SameBut.upd); (· with_reducible exact rfl);
          (· ((fail_if_success (with_reducible exact Or.inl rfl)); exact Or.inr trivial));
          (· (intro p hp; cases p <;> first | rfl | exact ⟨rfl, rfl⟩ | exact ⟨rfl, rfl, rfl⟩ | exact absurd (by decide) hp))))

theorem awaitRestart_frame {s : State} {l : List Part} {b : State} (hm : ∀ p ∈ ([.safety] : List Part), p ∈ l) (h0 : SameBut l b s) : SameBut l b
    (awaitRestart s) := by
  refine SameBut.step ?_ hm h0
  clear hm h0
  unfold awaitRestart
  repeat' (first
    | (with_reducible exact SameBut.refl)
    | ((with_reducible apply onSaf_frame); (· (intro _; first | rfl | (split <;> rfl) | ((repeat' split) <;> rfl)));
          (· (intro _; first | rfl | (split <;> rfl) | ((repeat' split) <;> rfl)));
          (· (intro _; first | rfl | (split <;> rfl) | ((repeat' split) <;> rfl)));
          (· (intro _; first | rfl | (split <;> rfl) | ((repeat' split) <;> rfl)));
          (· (intro _; first | rfl | (split <;> rfl) | ((repeat' split) <;> rfl))); (· decide)))

theorem egKeep_frame {ch : Chan} {n : Nat} {m : Nat × Nat × Nat} {s : State} {l : List Part} {b : State} (hm : ∀ p ∈ ([.safety] : List Part), p ∈ l)
    (h0 : SameBut l b s) : SameBut l b (egKeep ch n m s) := by
  refine SameBut.step ?_ hm h0
  clear hm h0
  unfold egKeep
  repeat' (first
    | (with_reducible exact SameBut.refl)
    | ((with_reducible apply onSaf_frame); (· (intro _; first | rfl | (split <;> rfl) | ((repeat' split) <;> rfl)));
          (· (intro _; first | rfl | (split <;> rfl) | ((repeat' split) <;> rfl)));
          (· (intro _; first | rfl | (split <;> rfl) | ((repeat' split) <;> rfl)));
          (· (intro _; first | rfl | (split <;> rfl) | ((repeat' split) <;> rfl)));
          (· (intro _; first | rfl | (split <;> rfl) | ((repeat' split) <;> rfl))); (· decide))
    | (split))

theorem egRecord_frame {ch : Chan} {n : Nat} {w : Nat × Nat × Nat × Nat} {s : State} {l : List Part} {b : State} (hm : ∀ p ∈
    ([.safety] : List Part), p ∈ l) (h0 : SameBut l b s) : SameBut l b (egRecord ch n w s) := by
  refine SameBut.step ?_ hm h0
  clear hm h0
  unfold egRecord
  repeat' (first
    | (with_reducible exact SameBut.refl)
    | ((with_reducible apply SameBut.ite) <;> intro _)
    | (extract_lets +onlyGivenNames x)
    | ((with_reducible apply onSaf_frame); (· (intro _; first | rfl | (split <;> rfl) | ((repeat' split) <;> rfl)));
          (· (intro _; first | rfl | (split <;> rfl) | ((repeat' split) <;> rfl)));
          (· (intro _; first | rfl | (split <;> rfl) | ((repeat' split) <;> rfl)));
          (· (intro _; first | rfl | (split <;> rfl) | ((repeat' split) <;> rfl)));
          (· (intro _; first | rfl | (split <;> rfl) | ((repeat' split) <;> rfl))); (· decide)))

theorem tpFollows_frame {s : State} {l : List Part} {b : State} (hm : ∀ p ∈ ([.chans] : List Part), p ∈ l) (h0 : SameBut l b s) : SameBut l b
    (tpFollows s) := by
  refine SameBut.step ?_ hm h0
  clear hm h0
  unfold tpFollows
  repeat' (first
    | (with_reducible exact SameBut.refl)
    | (extract_lets +onlyGivenNames x)
    | ((with_reducible apply onSaf_frame_only_chans); (· (intro _; first | rfl | (split <;> rfl) | ((repeat' split) <;> rfl)));
          (· (intro _; first | rfl | (split <;> rfl) | ((repeat' split) <;> rfl)));
          (· (intro _; first | rfl | (split <;> rfl) | ((repeat' split) <;> rfl)));
          (· (intro _; first | rfl | (split <;> rfl) | ((repeat' split) <;> rfl))); (· decide)))

theorem stopAgain_frame {p : Pair} {s : State} {l : List Part} {b : State} (hm : ∀ p ∈ ([.safety] : List Part), p ∈ l) (h0 : SameBut l b s) :
    SameBut l b (stopAgain p s) := by
  refine SameBut.step ?_ hm h0
  clear hm h0
  unfold stopAgain
  repeat' (first
    | (with_reducible exact SameBut.refl)
    | ((with_reducible apply onSaf_frame); (· (intro _; first | rfl | (split <;> rfl) | ((repeat' split) <;> rfl)));
          (· (intro _; first | rfl | (split <;> rfl) | ((repeat' split) <;> rfl)));
          (· (intro _; first | rfl | (split <;> rfl) | ((repeat' split) <;> rfl)));
          (· (intro _; first | rfl | (split <;> rfl) | ((repeat' split) <;> rfl)));
          (· (intro _; first | rfl | (split <;> rfl) | ((repeat' split) <;> rfl))); (· decide))
    | (split))

theorem sendSignal_frame {c : Chan} {p : Pair} {s : State} {l : List Part} {b : State} (hm : ∀ p ∈ ([.chans] : List Part), p ∈ l) (h0 :
    SameBut l b s) : SameBut l b (sendSignal c p s) := by
  refine SameBut.step ?_ hm h0
  clear hm h0
  unfold sendSignal
  repeat' (first
    | (with_reducible exact SameBut.refl)
    | ((with_reducible apply updChan_frame); (· decide)))

theorem stageError_frame {cause : Nat} {off : Nat} {s : State} {l : List Part} {b : State} (hm : ∀ p ∈ ([.safety] : List Part), p ∈ l) (h0 :
    SameBut l b s) : SameBut l b (stageError cause off s) := by
  refine SameBut.step ?_ hm h0
  clear hm h0
  unfold stageError
  repeat' (first
    | (with_reducible exact SameBut.refl)
    | ((with_reducible apply SameBut.ite) <;> intro _)
    | (extract_lets +onlyGivenNames x)
    | ((with_reducible apply onSaf_frame); (· (intro _; first | rfl | (split <;> rfl) | ((repeat' split) <;> rfl)));
          (· (intro _; first | rfl | (split <;> rfl) | ((repeat' split) <;> rfl)));
          (· (intro _; first | rfl | (split <;> rfl) | ((repeat' split) <;> rfl)));
          (· (intro _; first | rfl | (split <;> rfl) | ((repeat' split) <;> rfl)));
          (· (intro _; first | rfl | (split <;> rfl) | ((repeat' split) <;> rfl))); (· decide)))

theorem onTherm_frame {f : Therm → Therm} {s : State} {l : List Part} {b : State} (hm : ∀ p ∈ ([.therm] : List Part), p ∈ l) (h0 : SameBut l b s) :
    SameBut l b (onTherm f s) := by
  refine SameBut.step ?_ hm h0
  clear hm h0
  unfold onTherm
  repeat' (first
    | (with_reducible exact SameBut.refl)
    | ((with_reducible apply SameBut.upd); (· with_reducible exact rfl);
          (· ((fail_if_success (with_reducible exact Or.inl rfl)); exact Or.inr trivial));
          (· (intro p hp; cases p <;> first | rfl | exact ⟨rfl, rfl⟩ | exact ⟨rfl, rfl, rfl⟩ | exact absurd (by decide) hp))))

theorem onTiles_frame {f : Tiles → Tiles} {s : State} {l : List Part} {b : State} (hm : ∀ p ∈ ([.tiles] : List Part), p ∈ l) (h0 : SameBut l b s) :
    SameBut l b (onTiles f s) := by
  refine SameBut.step ?_ hm h0
  clear hm h0
  unfold onTiles
  repeat' (first
    | (with_reducible exact SameBut.refl)
    | ((with_reducible apply SameBut.upd); (· with_reducible exact rfl);
          (· ((fail_if_success (with_reducible exact Or.inl rfl)); exact Or.inr trivial));
          (· (intro p hp; cases p <;> first | rfl | exact ⟨rfl, rfl⟩ | exact ⟨rfl, rfl, rfl⟩ | exact absurd (by decide) hp))))

theorem markTaps_frame {x0 : State} {l : List Part} {b : State} (hm : ∀ p ∈ ([.tiles] : List Part), p ∈ l) (h0 : SameBut l b x0) : SameBut l b
    (markTaps x0) := by
  refine SameBut.step ?_ hm h0
  clear hm h0
  unfold markTaps
  repeat' (first
    | (with_reducible exact SameBut.refl)
    | (extract_lets +onlyGivenNames x)
    | ((with_reducible apply SameBut.upd); (· with_reducible exact rfl);
          (· ((fail_if_success (with_reducible exact Or.inl rfl)); exact Or.inr trivial));
          (· (intro p hp; cases p <;> first | rfl | exact ⟨rfl, rfl⟩ | exact ⟨rfl, rfl, rfl⟩ | exact absurd (by decide) hp))))

theorem trimCopies_frame {s : State} {l : List Part} {b : State} (hm : ∀ p ∈ ([.nvm] : List Part), p ∈ l)
    (h0 : SameBut l b s) : SameBut l b
    (trimCopies s) := by
  refine SameBut.step ?_ hm h0
  unfold trimCopies
  generalize s.nvm.logCopies.length + keptRecs s - 2048 = k
  exact ⟨rfl, fun p hl => by
    cases p <;> first | rfl | exact ⟨rfl, rfl⟩ | exact ⟨rfl, rfl, rfl⟩ | exact absurd (by decide) hl⟩

theorem poisonBlocks_frame {serial : Nat} {gen : Nat} {bs : List Nat} {s : State} {l : List Part} {b : State} (hm : ∀ p ∈
    ([.journal] : List Part), p ∈ l) (h0 : SameBut l b s) : SameBut l b (poisonBlocks serial gen bs s) := by
  refine SameBut.step ?_ hm h0
  clear hm h0
  unfold poisonBlocks
  repeat' (first
    | (with_reducible exact SameBut.refl)
    | ((with_reducible apply SameBut.ite) <;> intro _)
    | (extract_lets +onlyGivenNames x)
    | ((with_reducible apply SameBut.upd); (· with_reducible exact rfl);
          (· ((fail_if_success (with_reducible exact Or.inl rfl)); exact Or.inr trivial));
          (· (intro p hp; cases p <;> first | rfl | exact ⟨rfl, rfl⟩ | exact ⟨rfl, rfl, rfl⟩ | exact absurd (by decide) hp))))

theorem dropTileItems_frame {n : Nat} {s : State} {l : List Part} {b : State} (hm : ∀ p ∈ ([.cmp] : List Part), p ∈ l) (h0 : SameBut l b s) :
    SameBut l b (dropTileItems n s) := by
  refine SameBut.step ?_ hm h0
  clear hm h0
  unfold dropTileItems
  repeat' (first
    | (with_reducible exact SameBut.refl)
    | (extract_lets +onlyGivenNames x)
    | ((with_reducible apply SameBut.upd); (· with_reducible exact rfl);
          (· ((fail_if_success (with_reducible exact Or.inl rfl)); exact Or.inr trivial));
          (· (intro p hp; cases p <;> first | rfl | exact ⟨rfl, rfl⟩ | exact ⟨rfl, rfl, rfl⟩ | exact absurd (by decide) hp))))

theorem onTim_frame {f : TimeI → TimeI} {s : State} {l : List Part} {b : State} (hm : ∀ p ∈ ([.time] : List Part), p ∈ l) (h0 : SameBut l b s) :
    SameBut l b (onTim f s) := by
  refine SameBut.step ?_ hm h0
  clear hm h0
  unfold onTim
  repeat' (first
    | (with_reducible exact SameBut.refl)
    | ((with_reducible apply SameBut.upd); (· with_reducible exact rfl);
          (· ((fail_if_success (with_reducible exact Or.inl rfl)); exact Or.inr trivial));
          (· (intro p hp; cases p <;> first | rfl | exact ⟨rfl, rfl⟩ | exact ⟨rfl, rfl, rfl⟩ | exact absurd (by decide) hp))))

theorem frameStepped_frame {d : Int} {s : State} {l : List Part} {b : State} (hm : ∀ p ∈ ([.frm] : List Part), p ∈ l) (h0 : SameBut l b s) :
    SameBut l b (frameStepped d s) := by
  refine SameBut.step ?_ hm h0
  clear hm h0
  unfold frameStepped
  repeat' (first
    | (with_reducible exact SameBut.refl)
    | (extract_lets +onlyGivenNames x)
    | ((with_reducible apply SameBut.upd); (· with_reducible exact rfl);
          (· ((fail_if_success (with_reducible exact Or.inl rfl)); exact Or.inr trivial));
          (· (intro p hp; cases p <;> first | rfl | exact ⟨rfl, rfl⟩ | exact ⟨rfl, rfl, rfl⟩ | exact absurd (by decide) hp))))

theorem raiseSetBad_frame : ∀ {x0 : Nat} {x1 : State} {l : List Part} {b : State} (hm : ∀ p ∈ ([.faults] : List Part), p ∈ l) (h0 :
    SameBut l b x1), SameBut l b (raiseSetBad x0 x1) := by
  intro x0
  induction x0 with
  | zero => intro x1 l b _ h0; first | exact h0 | (unfold raiseSetBad; exact h0)
  | succ k ih =>
    intro x1 l b hm h0
    refine SameBut.step ?_ hm h0
    clear hm h0
    unfold raiseSetBad
    repeat' (first
      | (with_reducible exact SameBut.refl)
      | (extract_lets +onlyGivenNames x)
      | ((with_reducible apply ih); (· decide))
      | ((with_reducible apply raise_frame); (· decide)))

theorem putDeltas_frame {d : List Int} {s : State} {l : List Part} {b : State} (hm : ∀ p ∈ ([.cal] : List Part), p ∈ l) (h0 : SameBut l b s) :
    SameBut l b (putDeltas d s) := by
  refine SameBut.step ?_ hm h0
  clear hm h0
  unfold putDeltas
  repeat' (first
    | (with_reducible exact SameBut.refl)
    | ((with_reducible apply onCal_frame); (· decide)))

theorem setTrim_frame {c : Nat} {v : Nat} {s : State} {l : List Part} {b : State} (hm : ∀ p ∈ ([.cmp, .cal] : List Part), p ∈ l) (h0 :
    SameBut l b s) : SameBut l b (setTrim c v s) := by
  refine SameBut.step ?_ hm h0
  clear hm h0
  unfold setTrim
  repeat' (first
    | (with_reducible exact SameBut.refl)
    | (with_reducible assumption)
    | ((with_reducible apply SameBut.ite) <;> intro _)
    | (extract_lets +onlyGivenNames x;
          (first | ((refine SameBut.gen (x := x) ?_ ?_); rotate_left; (clear_value x; intro _); rotate_left; (subst x)) | (skip)))
    | ((with_reducible apply SameBut.upd); (· with_reducible exact rfl);
          (· ((fail_if_success (with_reducible exact Or.inl rfl)); exact Or.inr trivial));
          (· (intro p hp; cases p <;> first | rfl | exact ⟨rfl, rfl⟩ | exact ⟨rfl, rfl, rfl⟩ | exact absurd (by decide) hp)))
    | ((with_reducible apply putCal_frame); (· decide)))

theorem startFull_frame {s : State} {l : List Part} {b : State} (hm : ∀ p ∈ ([.cal, .therm] : List Part), p ∈ l) (h0 : SameBut l b s) : SameBut l b
    (startFull s) := by
  refine SameBut.step ?_ hm h0
  clear hm h0
  unfold startFull
  repeat' (first
    | (with_reducible exact SameBut.refl)
    | (extract_lets +onlyGivenNames x)
    | ((with_reducible apply demandCal_frame); (· decide))
    | ((with_reducible apply onCal_frame); (· decide)))

theorem endCalWait_frame {w : CalWait} {s : State} {l : List Part} {b : State} (hm : ∀ p ∈ ([.rings, .cal] : List Part), p ∈ l) (h0 :
    SameBut l b s) : SameBut l b (endCalWait w s) := by
  refine SameBut.step ?_ hm h0
  clear hm h0
  unfold endCalWait
  repeat' (first
    | (with_reducible exact SameBut.refl)
    | (extract_lets +onlyGivenNames x)
    | ((with_reducible apply complete_frame); (· decide))
    | ((with_reducible apply onCal_frame); (· decide)))

theorem calBegin_frame {c : Nat} {single : Bool} {s : State} {l : List Part} {b : State} (hm : ∀ p ∈ ([.strip, .cal] : List Part), p ∈ l) (h0 :
    SameBut l b s) : SameBut l b (calBegin c single s) := by
  refine SameBut.step ?_ hm h0
  clear hm h0
  unfold calBegin
  repeat' (first
    | (with_reducible exact SameBut.refl)
    | (extract_lets +onlyGivenNames x)
    | ((with_reducible apply putStrip_frame); (· decide))
    | ((with_reducible apply onCal_frame); (· decide)))

theorem calBoundary_frame {s : State} {l : List Part} {b : State} (hm : ∀ p ∈ ([.cal] : List Part), p ∈ l) (h0 : SameBut l b s) : SameBut l b
    (calBoundary s) := by
  refine SameBut.step ?_ hm h0
  clear hm h0
  unfold calBoundary
  repeat' (first
    | (with_reducible exact SameBut.refl)
    | (with_reducible assumption)
    | (extract_lets +onlyGivenNames x; (refine SameBut.gen (x := x) ?_ ?_); rotate_left; (clear_value x; intro _); rotate_left; (subst x))
    | ((with_reducible apply onCal_frame); (· decide)))

theorem calRange_frame {c : Nat} {single : Bool} {s : State} {l : List Part} {b : State} (hm : ∀ p ∈ ([.faults, .cal] : List Part), p ∈ l) (h0 :
    SameBut l b s) : SameBut l b (calRange c single s) := by
  refine SameBut.step ?_ hm h0
  clear hm h0
  unfold calRange
  repeat' (first
    | (with_reducible exact SameBut.refl)
    | (extract_lets +onlyGivenNames x)
    | ((with_reducible apply raise_frame); (· decide))
    | ((with_reducible apply onCal_frame); (· decide)))

theorem calErr_frame {hi : Nat} {s : State} {l : List Part} {b : State} (hm : ∀ p ∈ ([.freeCtr] : List Part), p ∈ l) (h0 : SameBut l b s) :
    SameBut l b (calErr hi s).2 := by
  refine SameBut.step ?_ hm h0
  clear hm h0
  unfold calErr
  repeat' (first
    | (with_reducible exact SameBut.refl)
    | (with_reducible assumption)
    | (extract_lets +onlyGivenNames x;
          (first | ((refine SameBut.gen2 (x := x) ?_ ?_); rotate_left; (clear_value x; intro _); rotate_left; (subst x)) | (skip)))
    | ((with_reducible apply freshFree_frame); (· decide)))

theorem updPort_frame {p : Nat} {f : Port → Port} {s : State} {l : List Part} {b : State} (hm : ∀ p ∈ ([.chain] : List Part), p ∈ l) (h0 :
    SameBut l b s) : SameBut l b (updPort p f s) := by
  refine SameBut.step ?_ hm h0
  clear hm h0
  unfold updPort
  repeat' (first
    | (with_reducible exact SameBut.refl)
    | ((with_reducible apply putPort_frame); (· decide)))

theorem updFrame_frame {id : Nat} {f : PoolFrame → PoolFrame} {s : State} {l : List Part} {b : State} (hm : ∀ p ∈ ([.chain] : List Part), p ∈ l)
    (h0 : SameBut l b s) : SameBut l b (updFrame id f s) := by
  refine SameBut.step ?_ hm h0
  clear hm h0
  unfold updFrame
  repeat' (first
    | (with_reducible exact SameBut.refl)
    | ((with_reducible apply onChain_frame); (· decide)))

theorem readQueue_frame {q : Nat} {s : State} {l : List Part} {b : State} (hm : ∀ p ∈ ([.chain] : List Part), p ∈ l) (h0 : SameBut l b s) :
    SameBut l b (readQueue q s) := by
  refine SameBut.step ?_ hm h0
  clear hm h0
  unfold readQueue
  repeat' (first
    | (with_reducible exact SameBut.refl)
    | ((with_reducible apply onChain_frame); (· decide)))

theorem countDrop_frame {r : Nat} {s : State} {l : List Part} {b : State} (hm : ∀ p ∈ ([.chain] : List Part), p ∈ l) (h0 : SameBut l b s) :
    SameBut l b (countDrop r s) := by
  refine SameBut.step ?_ hm h0
  clear hm h0
  unfold countDrop
  repeat' (first
    | (with_reducible exact SameBut.refl)
    | (extract_lets +onlyGivenNames x)
    | ((with_reducible apply putRxq_frame); (· decide)))

theorem addFrame_frame {f : PoolFrame} {s : State} {l : List Part} {b : State} (hm : ∀ p ∈ ([.chain] : List Part), p ∈ l) (h0 : SameBut l b s) :
    SameBut l b (addFrame f s) := by
  refine SameBut.step ?_ hm h0
  clear hm h0
  unfold addFrame
  repeat' (first
    | (with_reducible exact SameBut.refl)
    | ((with_reducible apply onChain_frame); (· decide)))

theorem clearStale_frame {s : State} {l : List Part} {b : State} (hm : ∀ p ∈ ([.chain] : List Part), p ∈ l) (h0 : SameBut l b s) : SameBut l b
    (clearStale s) := by
  refine SameBut.step ?_ hm h0
  clear hm h0
  unfold clearStale
  repeat' (first
    | (with_reducible exact SameBut.refl)
    | ((with_reducible apply onChain_frame); (· decide)))

theorem finishTx_frame : ∀ {x0 : List TxWait} {x1 : State} {l : List Part} {b : State} (hm : ∀ p ∈ ([.rings, .chain] : List Part), p ∈ l) (h0 :
    SameBut l b x1), SameBut l b (finishTx x0 x1) := by
  intro x0
  induction x0 with
  | nil => intro x1 l b _ h0; first | exact h0 | (unfold finishTx; exact h0)
  | cons y r ih =>
    intro x1 l b hm h0
    refine SameBut.step ?_ hm h0
    clear hm h0
    unfold finishTx
    repeat' (first
      | (with_reducible exact SameBut.refl)
      | (with_reducible assumption)
      | ((with_reducible apply SameBut.ite) <;> intro _)
      | (extract_lets +onlyGivenNames x;
            (first | ((refine SameBut.gen (x := x) ?_ ?_); rotate_left; (clear_value x; intro _); rotate_left; (subst x)) | (skip)))
      | ((with_reducible apply ih); (· decide))
      | ((with_reducible apply onChain_frame); (· decide))
      | ((with_reducible apply complete_frame); (· decide))
      | (split))

theorem reportRevoked_frame : ∀ {x0 : List Nat} {x1 : State} {l : List Part} {b : State} (hm : ∀ p ∈ ([.cmp, .faults] : List Part), p ∈ l) (h0 :
    SameBut l b x1), SameBut l b (reportRevoked x0 x1) := by
  intro x0
  induction x0 with
  | nil => intro x1 l b _ h0; first | exact h0 | (unfold reportRevoked; exact h0)
  | cons y r ih =>
    intro x1 l b hm h0
    refine SameBut.step ?_ hm h0
    clear hm h0
    unfold reportRevoked
    repeat' (first
      | (with_reducible exact SameBut.refl)
      | (with_reducible assumption)
      | ((with_reducible apply SameBut.ite) <;> intro _)
      | (extract_lets +onlyGivenNames x;
            (first | ((refine SameBut.gen (x := x) ?_ ?_); rotate_left; (clear_value x; intro _); rotate_left; (subst x)) | (skip)))
      | ((with_reducible apply ih); (· decide))
      | ((with_reducible apply raise_frame); (· decide))
      | ((with_reducible apply onCmp_frame); (· (intro _; first | rfl | (split <;> rfl) | ((repeat' split) <;> rfl))); (· decide)))

theorem releaseGroup_frame {g : Group} {s : State} {l : List Part} {b : State} (hm : ∀ p ∈ ([.rings, .cmp, .frm] : List Part), p ∈ l) (h0 :
    SameBut l b s) : SameBut l b (releaseGroup g s) := by
  refine SameBut.step ?_ hm h0
  clear hm h0
  unfold releaseGroup
  repeat' (first
    | (with_reducible exact SameBut.refl)
    | (with_reducible assumption)
    | ((with_reducible apply SameBut.ite) <;> intro _)
    | (extract_lets +onlyGivenNames x;
          (first | ((refine SameBut.gen (x := x) ?_ ?_); rotate_left; (clear_value x; intro _); rotate_left; (subst x)) | (skip)))
    | ((with_reducible apply dropGroup_frame); (· decide))
    | ((with_reducible apply onFrm_frame); (· decide))
    | ((with_reducible apply complete_frame); (· decide)))

theorem flipGroups_frame {num : Int} : ∀ {x1 : List Group} {x2 : State} {l : List Part} {b : State} (hm : ∀ p ∈ ([.cmp] : List Part), p ∈ l) (h0 :
    SameBut l b x2), SameBut l b (flipGroups num x1 x2) := by
  intro x1
  induction x1 with
  | nil => intro x2 l b _ h0; first | exact h0 | (unfold flipGroups; exact h0)
  | cons y r ih =>
    intro x2 l b hm h0
    refine SameBut.step ?_ hm h0
    clear hm h0
    unfold flipGroups
    repeat' (first
      | (with_reducible exact SameBut.refl)
      | (with_reducible assumption)
      | (extract_lets +onlyGivenNames x;
            (first | ((refine SameBut.gen (x := x) ?_ ?_); rotate_left; (clear_value x; intro _); rotate_left; (subst x)) | (skip)))
      | ((with_reducible apply ih); (· decide))
      | ((with_reducible apply onCmp_frame); (· (intro _; first | rfl | (split <;> rfl) | ((repeat' split) <;> rfl))); (· decide))
      | ((with_reducible apply updGroup_frame); (· decide)))

theorem raiseBad_frame : ∀ {x0 : List Nat} {x1 : State} {l : List Part} {b : State} (hm : ∀ p ∈ ([.cmp, .faults] : List Part), p ∈ l) (h0 :
    SameBut l b x1), SameBut l b (raiseBad x0 x1) := by
  intro x0
  induction x0 with
  | nil => intro x1 l b _ h0; first | exact h0 | (unfold raiseBad; exact h0)
  | cons y r ih =>
    intro x1 l b hm h0
    refine SameBut.step ?_ hm h0
    clear hm h0
    unfold raiseBad
    repeat' (first
      | (with_reducible exact SameBut.refl)
      | (extract_lets +onlyGivenNames x)
      | ((with_reducible apply ih); (· decide))
      | ((with_reducible apply raise_frame); (· decide))
      | ((with_reducible apply onCmp_frame); (· (intro _; first | rfl | (split <;> rfl) | ((repeat' split) <;> rfl))); (· decide)))

theorem runGuard_frame {f : FLayer} {s : State} {l : List Part} {b : State} (hm : ∀ p ∈ ([.nvm] : List Part), p ∈ l) (h0 : SameBut l b s) :
    SameBut l b (runGuard f s) := by
  refine SameBut.step ?_ hm h0
  clear hm h0
  unfold runGuard
  repeat' (first
    | (with_reducible exact SameBut.refl)
    | (extract_lets +onlyGivenNames x)
    | ((with_reducible apply putGcu_frame); (· decide)))

theorem dropStalled_frame {s : State} {l : List Part} {b : State} (hm : ∀ p ∈ ([.cmp] : List Part), p ∈ l) (h0 : SameBut l b s) : SameBut l b
    (dropStalled s) := by
  refine SameBut.step ?_ hm h0
  clear hm h0
  unfold dropStalled
  repeat' (first
    | (with_reducible exact SameBut.refl)
    | (with_reducible assumption)
    | (extract_lets +onlyGivenNames x;
          (first | ((refine SameBut.gen (x := x) ?_ ?_); rotate_left; (clear_value x; intro _); rotate_left; (subst x)) | (skip)))
    | ((with_reducible apply rebuildActive_frame); (· decide))
    | ((with_reducible apply onCmp_frame); (· (intro _; first | rfl | (split <;> rfl) | ((repeat' split) <;> rfl))); (· decide))
    | ((with_reducible apply countStalls_frame); (· decide))
    | ((with_reducible apply confirmAll_frame); (· decide)))

theorem endPolicies_frame {c : Comp} {s : State} {l : List Part} {b : State} (hm : ∀ p ∈ ([.cmp, .frm] : List Part), p ∈ l) (h0 : SameBut l b s) :
    SameBut l b (endPolicies c s) := by
  refine SameBut.step ?_ hm h0
  clear hm h0
  unfold endPolicies
  repeat' (first
    | (with_reducible exact SameBut.refl)
    | ((with_reducible apply SameBut.ite) <;> intro _)
    | (extract_lets +onlyGivenNames x)
    | ((with_reducible apply onCmp_frame); (· (intro _; first | rfl | (split <;> rfl) | ((repeat' split) <;> rfl))); (· decide))
    | ((with_reducible apply onFrm_frame); (· decide)))

theorem extendFrame_frame {c : Comp} {s : State} {l : List Part} {b : State} (hm : ∀ p ∈ ([.cmp, .frm] : List Part), p ∈ l) (h0 : SameBut l b s) :
    SameBut l b (extendFrame c s) := by
  refine SameBut.step ?_ hm h0
  clear hm h0
  unfold extendFrame
  repeat' (first
    | (with_reducible exact SameBut.refl)
    | (with_reducible assumption)
    | (extract_lets +onlyGivenNames x;
          (first | ((refine SameBut.gen (x := x) ?_ ?_); rotate_left; (clear_value x; intro _); rotate_left; (subst x)) | (skip)))
    | ((with_reducible apply markAll_frame); (· decide))
    | ((with_reducible apply onCmp_frame); (· (intro _; first | rfl | (split <;> rfl) | ((repeat' split) <;> rfl))); (· decide))
    | ((with_reducible apply onFrm_frame); (· decide)))

theorem takeOver_frame {n : Nat} {g : Nat} {old : Frond} {s : State} {l : List Part} {b : State} (hm : ∀ p ∈ ([.strip, .tiles] : List Part), p ∈ l)
    (h0 : SameBut l b s) : SameBut l b (takeOver n g old s) := by
  refine SameBut.step ?_ hm h0
  clear hm h0
  unfold takeOver
  repeat' (first
    | (with_reducible exact SameBut.refl)
    | (with_reducible assumption)
    | (extract_lets +onlyGivenNames x;
          (first | ((refine SameBut.gen (x := x) ?_ ?_); rotate_left; (clear_value x; intro _); rotate_left; (subst x)) | (skip)))
    | ((with_reducible apply putFrond_frame); (· decide))
    | ((with_reducible apply putTile_frame); (· decide)))

theorem endSelftest_frame {f : Nat} {code : Nat} {st : Nat} {role : Role} {s : State} {l : List Part} {b : State} (hm : ∀ p ∈
    ([.rings, .strip] : List Part), p ∈ l) (h0 : SameBut l b s) : SameBut l b (endSelftest f code st role s) := by
  refine SameBut.step ?_ hm h0
  clear hm h0
  unfold endSelftest
  repeat' (first
    | (with_reducible exact SameBut.refl)
    | (with_reducible assumption)
    | (extract_lets +onlyGivenNames x;
          (first | ((refine SameBut.gen (x := x) ?_ ?_); rotate_left; (clear_value x; intro _); rotate_left; (subst x)) | (skip)))
    | ((with_reducible apply putFrond_frame); (· decide))
    | ((with_reducible apply complete_frame); (· decide))
    | (split))

end Sys2Proof.Machine
end

