-- ==== Sys2Proof/Laws/FramesB.lean ====
section
/-! SUPPORT. The frame of each shared operation: which parts of the state it may change (svcBadMsg to latePulse, in the order in
which the operations build on each other). -/

set_option autoImplicit false

-- One declaration after the other, without the linters of the library: many small theorems.
set_option Elab.async false
set_option linter.all false

namespace Sys2Proof.Machine

theorem svcBadMsg_frame {s : State} {l : List Part} {b : State} (hm : ∀ p ∈ ([.chain] : List Part), p ∈ l) (h0 : SameBut l b s) : SameBut l b
    (svcBadMsg s) := by
  refine SameBut.step ?_ hm h0
  clear hm h0
  unfold svcBadMsg
  repeat' (first
    | (with_reducible exact SameBut.refl)
    | ((with_reducible apply onChain_frame); (· decide)))

theorem readStatus_frame {bad : Bool} {cs : List (Option Bool)} {s : State} {l : List Part} {b : State} (hm : ∀ p ∈ ([.freeCtr] : List Part), p ∈ l)
    (h0 : SameBut l b s) : SameBut l b (readStatus bad cs s).2 := by
  refine SameBut.step ?_ hm h0
  clear hm h0
  unfold readStatus
  repeat' (first
    | (with_reducible exact SameBut.refl)
    | (with_reducible assumption)
    | (extract_lets +onlyGivenNames x; (refine SameBut.gen2 (x := x) ?_ ?_); rotate_left; (clear_value x; intro _); rotate_left; (subst x))
    | ((with_reducible apply freshFree_frame); (· decide))
    | (split))

theorem raiseUncorr_frame : ∀ {x0 : Nat} {x1 : State} {l : List Part} {b : State} (hm : ∀ p ∈ ([.faults] : List Part), p ∈ l) (h0 :
    SameBut l b x1), SameBut l b (raiseUncorr x0 x1) := by
  intro x0
  induction x0 with
  | zero => intro x1 l b _ h0; first | exact h0 | (unfold raiseUncorr; exact h0)
  | succ k ih =>
    intro x1 l b hm h0
    refine SameBut.step ?_ hm h0
    clear hm h0
    unfold raiseUncorr
    repeat' (first
      | (with_reducible exact SameBut.refl)
      | (extract_lets +onlyGivenNames x)
      | ((with_reducible apply ih); (· decide))
      | ((with_reducible apply raise_frame); (· decide)))

theorem discardPages_frame {s : State} {l : List Part} {b : State} (hm : ∀ p ∈ ([.faults, .pages] : List Part), p ∈ l) (h0 : SameBut l b s) :
    SameBut l b (discardPages s) := by
  refine SameBut.step ?_ hm h0
  clear hm h0
  unfold discardPages
  repeat' (first
    | (with_reducible exact SameBut.refl)
    | ((with_reducible apply SameBut.ite) <;> intro _)
    | (extract_lets +onlyGivenNames x)
    | ((with_reducible apply raise_frame); (· decide))
    | ((with_reducible apply onNvm_frame_only_pages); (· (intro _; first | rfl | (split <;> rfl) | ((repeat' split) <;> rfl))); (· decide)))

theorem reportStuck_frame {s : State} {l : List Part} {b : State} (hm : ∀ p ∈ ([.freeCtr, .rings, .faults] : List Part), p ∈ l) (h0 :
    SameBut l b s) : SameBut l b (reportStuck s) := by
  refine SameBut.step ?_ hm h0
  clear hm h0
  unfold reportStuck
  repeat' (first
    | (with_reducible exact SameBut.refl)
    | (with_reducible assumption)
    | ((with_reducible apply SameBut.ite) <;> intro _)
    | (extract_lets +onlyGivenNames x;
          (first | ((refine SameBut.gen2 (x := x) ?_ ?_); rotate_left; (clear_value x; intro _); rotate_left; (subst x)) | (skip)))
    | ((with_reducible apply freshFree_frame); (· decide))
    | ((with_reducible apply raise_frame); (· decide))
    | ((with_reducible apply postEvent_frame); (· decide)))

theorem reportCut_frame {s : State} {l : List Part} {b : State} (hm : ∀ p ∈ ([.faults, .nvm] : List Part), p ∈ l) (h0 : SameBut l b s) : SameBut l b
    (reportCut s) := by
  refine SameBut.step ?_ hm h0
  clear hm h0
  unfold reportCut
  repeat' (first
    | (with_reducible exact SameBut.refl)
    | ((with_reducible apply SameBut.ite) <;> intro _)
    | (extract_lets +onlyGivenNames x)
    | ((with_reducible apply raise_frame); (· decide))
    | ((with_reducible apply onNvm_frame); (· (intro _; first | rfl | (split <;> rfl) | ((repeat' split) <;> rfl)));
          (· (intro _; first | rfl | (split <;> rfl) | ((repeat' split) <;> rfl))); (· decide)))

theorem refuseRec_frame {r : Rec} {s : State} {l : List Part} {b : State} (hm : ∀ p ∈ ([.rings, .safety, .cal, .nvm] : List Part), p ∈ l) (h0 :
    SameBut l b s) : SameBut l b (refuseRec r s) := by
  refine SameBut.step ?_ hm h0
  clear hm h0
  unfold refuseRec
  repeat' (first
    | (with_reducible exact SameBut.refl)
    | (extract_lets +onlyGivenNames x)
    | ((with_reducible apply SameBut.upd); (· with_reducible exact rfl);
          (· ((fail_if_success (with_reducible exact Or.inl rfl)); exact Or.inr trivial));
          (· (intro p hp; cases p <;> first | rfl | exact ⟨rfl, rfl⟩ | exact ⟨rfl, rfl, rfl⟩ | exact absurd (by decide) hp)))
    | ((with_reducible apply complete_frame); (· decide))
    | ((with_reducible apply onSaf_frame); (· (intro _; first | rfl | (split <;> rfl) | ((repeat' split) <;> rfl)));
          (· (intro _; first | rfl | (split <;> rfl) | ((repeat' split) <;> rfl)));
          (· (intro _; first | rfl | (split <;> rfl) | ((repeat' split) <;> rfl)));
          (· (intro _; first | rfl | (split <;> rfl) | ((repeat' split) <;> rfl)));
          (· (intro _; first | rfl | (split <;> rfl) | ((repeat' split) <;> rfl))); (· decide))
    | ((with_reducible apply onXfer_frame); (· decide))
    | (split))

theorem copyLog_frame {n : Nat} {s : State} {l : List Part} {b : State} (hm : ∀ p ∈ ([.faults, .nvm] : List Part), p ∈ l) (h0 : SameBut l b s) :
    SameBut l b (copyLog n s) := by
  refine SameBut.step ?_ hm h0
  clear hm h0
  unfold copyLog
  repeat' (first
    | (with_reducible exact SameBut.refl)
    | ((with_reducible apply SameBut.ite) <;> intro _)
    | (extract_lets +onlyGivenNames x)
    | ((with_reducible apply SameBut.upd); (· with_reducible exact rfl);
          (· ((fail_if_success (with_reducible exact Or.inl rfl)); exact Or.inr trivial));
          (· (intro p hp; cases p <;> first | rfl | exact ⟨rfl, rfl⟩ | exact ⟨rfl, rfl, rfl⟩ | exact absurd (by decide) hp)))
    | ((with_reducible apply trimCopies_frame); (· decide))
    | ((with_reducible apply condOff_frame); (· decide)))

theorem endSave_frame {s : State} {l : List Part} {b : State} (hm : ∀ p ∈
    ([.boot, .power, .link, .prot, .rings, .cmp, .frm, .strip, .tiles, .journal, .chans, .safeSet, .safety, .slots, .faults, .cal, .therm, .chain, .time, .nvm] : List Part), p ∈ l)
    (h0 : SameBut l b s) : SameBut l b (endSave s) := by
  refine SameBut.step ?_ hm h0
  clear hm h0
  unfold endSave
  repeat' (first
    | (with_reducible exact SameBut.refl)
    | (with_reducible assumption)
    | (extract_lets +onlyGivenNames x;
          (first | ((refine SameBut.gen (x := x) ?_ ?_); rotate_left; (clear_value x; intro _); rotate_left; (subst x)) | (skip)))
    | ((with_reducible apply SameBut.upd); (· with_reducible exact rfl);
          (· ((fail_if_success (with_reducible exact Or.inl rfl)); exact Or.inr trivial));
          (· (intro p hp; cases p <;> first | rfl | exact ⟨rfl, rfl⟩ | exact ⟨rfl, rfl, rfl⟩ | exact absurd (by decide) hp)))
    | ((with_reducible apply chipReset_frame); (· decide)))

theorem beginWriting_frame {src : Nat} {s : State} {l : List Part} {b : State} (hm : ∀ p ∈ ([.time, .nvm] : List Part), p ∈ l) (h0 :
    SameBut l b s) : SameBut l b (beginWriting src s) := by
  refine SameBut.step ?_ hm h0
  clear hm h0
  unfold beginWriting
  repeat' (first
    | (with_reducible exact SameBut.refl)
    | (with_reducible assumption)
    | ((with_reducible apply SameBut.ite) <;> intro _)
    | (extract_lets +onlyGivenNames x;
          (first | ((refine SameBut.gen (x := x) ?_ ?_); rotate_left; (clear_value x; intro _); rotate_left; (subst x)) | (skip)))
    | ((with_reducible apply putTev_frame); (· decide))
    | ((with_reducible apply onNvm_frame); (· (intro _; first | rfl | (split <;> rfl) | ((repeat' split) <;> rfl)));
          (· (intro _; first | rfl | (split <;> rfl) | ((repeat' split) <;> rfl))); (· decide)))

theorem putCred_frame {s : State} {p : Nat} {k : Nat} {x : Cred} {l : List Part} {b : State} (hm : ∀ p ∈ ([.chain] : List Part), p ∈ l) (h0 :
    SameBut l b s) : SameBut l b (putCred s p k x) := by
  refine SameBut.step ?_ hm h0
  clear hm h0
  unfold putCred
  repeat' (first
    | (with_reducible exact SameBut.refl)
    | (extract_lets +onlyGivenNames x)
    | ((with_reducible apply putPort_frame); (· decide)))

theorem idle_frame {s : State} {l : List Part} {b : State} (hm : ∀ p ∈ ([.time] : List Part), p ∈ l) (h0 : SameBut l b s) : SameBut l b (idle s) := by
  refine SameBut.step ?_ hm h0
  clear hm h0
  unfold idle
  repeat' (first
    | (with_reducible exact SameBut.refl)
    | ((with_reducible apply SameBut.ite) <;> intro _)
    | (extract_lets +onlyGivenNames x)
    | ((with_reducible apply runLocal_frame); (· decide)))

theorem advanceTo_frame {t : Int} {s : State} {l : List Part} {b : State} (hm : ∀ p ∈ ([.time] : List Part), p ∈ l) (h0 : SameBut l b s) :
    SameBut l b (advanceTo t s) := by
  refine SameBut.step ?_ hm h0
  clear hm h0
  unfold advanceTo
  repeat' (first
    | (with_reducible exact SameBut.refl)
    | (with_reducible assumption)
    | ((with_reducible apply SameBut.ite) <;> intro _)
    | (extract_lets +onlyGivenNames x;
          (first | ((refine SameBut.gen (x := x) ?_ ?_); rotate_left; (clear_value x; intro _); rotate_left; (subst x)) | (skip)))
    | ((with_reducible apply runLocal_frame); (· decide))
    | ((with_reducible apply putDom_frame); (· decide)))

theorem condOn_frame {slot : Nat} {s : State} {l : List Part} {b : State} (hm : ∀ p ∈ ([.faults] : List Part), p ∈ l) (h0 : SameBut l b s) :
    SameBut l b (condOn slot s) := by
  refine SameBut.step ?_ hm h0
  clear hm h0
  unfold condOn
  repeat' (first
    | (with_reducible exact SameBut.refl)
    | ((with_reducible apply SameBut.ite) <;> intro _)
    | (extract_lets +onlyGivenNames x)
    | ((with_reducible apply SameBut.upd); (· with_reducible exact rfl);
          (· ((fail_if_success (with_reducible exact Or.inl rfl)); exact Or.inr trivial));
          (· (intro p hp; cases p <;> first | rfl | exact ⟨rfl, rfl⟩ | exact ⟨rfl, rfl, rfl⟩ | exact absurd (by decide) hp)))
    | ((with_reducible apply raise_frame); (· decide)))

theorem takeInj_frame {slot : Nat} {checker : Nat} {s : State} {l : List Part} {b : State} (hm : ∀ p ∈ ([.rings, .faults] : List Part), p ∈ l) (h0 :
    SameBut l b s) : SameBut l b (takeInj slot checker s).2 := by
  refine SameBut.step ?_ hm h0
  clear hm h0
  unfold takeInj
  repeat' (first
    | (with_reducible exact SameBut.refl)
    | (extract_lets +onlyGivenNames x)
    | ((with_reducible apply SameBut.upd); (· with_reducible exact rfl);
          (· ((fail_if_success (with_reducible exact Or.inl rfl)); exact Or.inr trivial));
          (· (intro p hp; cases p <;> first | rfl | exact ⟨rfl, rfl⟩ | exact ⟨rfl, rfl, rfl⟩ | exact absurd (by decide) hp)))
    | ((with_reducible apply complete_frame); (· decide))
    | (split))

theorem takeInjs_frame {slot : Nat} {checker : Nat} {words : Nat} {s : State} {l : List Part} {b : State} (hm : ∀ p ∈
    ([.rings, .faults] : List Part), p ∈ l) (h0 : SameBut l b s) : SameBut l b (takeInjs slot checker words s).2 := by
  refine SameBut.step ?_ hm h0
  clear hm h0
  unfold takeInjs
  repeat' (first
    | (with_reducible exact SameBut.refl)
    | (extract_lets +onlyGivenNames x)
    | ((with_reducible apply SameBut.upd); (· with_reducible exact rfl);
          (· ((fail_if_success (with_reducible exact Or.inl rfl)); exact Or.inr trivial));
          (· (intro p hp; cases p <;> first | rfl | exact ⟨rfl, rfl⟩ | exact ⟨rfl, rfl, rfl⟩ | exact absurd (by decide) hp)))
    | ((with_reducible apply complete_frame); (· decide))
    | (split))

theorem raiseN_frame {n : Nat} {slot : Nat} {s : State} {l : List Part} {b : State} (hm : ∀ p ∈ ([.faults] : List Part), p ∈ l) (h0 :
    SameBut l b s) : SameBut l b (raiseN n slot s) := by
  refine SameBut.step ?_ hm h0
  clear hm h0
  unfold raiseN
  repeat' (first
    | (with_reducible exact SameBut.refl)
    | (extract_lets +onlyGivenNames x)
    | ((with_reducible apply raise_frame); (· decide))
    | (split))

theorem raiseInj_frame {slot : Nat} {inj : Bool} {s : State} {l : List Part} {b : State} (hm : ∀ p ∈ ([.faults] : List Part), p ∈ l) (h0 :
    SameBut l b s) : SameBut l b (raiseInj slot inj s) := by
  refine SameBut.step ?_ hm h0
  clear hm h0
  unfold raiseInj
  repeat' (first
    | (with_reducible exact SameBut.refl)
    | ((with_reducible apply SameBut.ite) <;> intro _)
    | (extract_lets +onlyGivenNames x)
    | ((with_reducible apply SameBut.upd); (· with_reducible exact rfl);
          (· ((fail_if_success (with_reducible exact Or.inl rfl)); exact Or.inr trivial));
          (· (intro p hp; cases p <;> first | rfl | exact ⟨rfl, rfl⟩ | exact ⟨rfl, rfl, rfl⟩ | exact absurd (by decide) hp)))
    | ((with_reducible apply raise_frame); (· decide)))

theorem startRead_frame {who : Requester} {ranges : List (Nat × Nat)} {s : State} {l : List Part} {b : State} (hm : ∀ p ∈
    ([.outputs, .link] : List Part), p ∈ l) (h0 : SameBut l b s) : SameBut l b (startRead who ranges s) := by
  refine SameBut.step ?_ hm h0
  clear hm h0
  unfold startRead
  repeat' (first
    | (with_reducible exact SameBut.refl)
    | (extract_lets +onlyGivenNames x)
    | ((with_reducible apply pump_frame); (· decide))
    | ((with_reducible apply queueRead_frame); (· decide)))

theorem signal_frame {v : Nat} {s : State} {l : List Part} {b : State} (hm : ∀ p ∈ ([.outputs, .link] : List Part), p ∈ l) (h0 : SameBut l b s) :
    SameBut l b (signal v s) := by
  refine SameBut.step ?_ hm h0
  clear hm h0
  unfold signal
  repeat' (first
    | (with_reducible exact SameBut.refl)
    | ((with_reducible apply SameBut.ite) <;> intro _)
    | (extract_lets +onlyGivenNames x)
    | ((with_reducible apply SameBut.upd); (· with_reducible exact rfl);
          (· ((fail_if_success (with_reducible exact Or.inl rfl)); exact Or.inr trivial));
          (· (intro p hp; cases p <;> first | rfl | exact ⟨rfl, rfl⟩ | exact ⟨rfl, rfl, rfl⟩ | exact absurd (by decide) hp)))
    | ((with_reducible apply emit_frame); (· decide)))

theorem sendOs_frame {p : Nat} {kind : Nat} {fields : Nat} {s : State} {l : List Part} {b : State} (hm : ∀ p ∈ ([.outputs] : List Part), p ∈ l)
    (h0 : SameBut l b s) : SameBut l b (sendOs p kind fields s) := by
  refine SameBut.step ?_ hm h0
  clear hm h0
  unfold sendOs
  repeat' (first
    | (with_reducible exact SameBut.refl)
    | (extract_lets +onlyGivenNames x)
    | ((with_reducible apply laneSend_frame); (· decide))
    | ((with_reducible apply emit_frame); (· decide)))

theorem sendIdles_frame {p : Nat} {s : State} {l : List Part} {b : State} (hm : ∀ p ∈ ([.outputs] : List Part), p ∈ l) (h0 : SameBut l b s) :
    SameBut l b (sendIdles p s) := by
  refine SameBut.step ?_ hm h0
  clear hm h0
  unfold sendIdles
  repeat' (first
    | (with_reducible exact SameBut.refl)
    | ((with_reducible apply laneSend_frame); (· decide)))

theorem enterCapability_frame {p : Nat} {s : State} {l : List Part} {b : State} (hm : ∀ p ∈ ([.faults, .chain] : List Part), p ∈ l) (h0 :
    SameBut l b s) : SameBut l b (enterCapability p s) := by
  refine SameBut.step ?_ hm h0
  clear hm h0
  unfold enterCapability
  repeat' (first
    | (with_reducible exact SameBut.refl)
    | ((with_reducible apply SameBut.ite) <;> intro _)
    | (extract_lets +onlyGivenNames x)
    | ((with_reducible apply putPort_frame); (· decide))
    | ((with_reducible apply raise_frame); (· decide)))

theorem tryUp_frame {p : Nat} {s : State} {l : List Part} {b : State} (hm : ∀ p ∈ ([.chain] : List Part), p ∈ l) (h0 : SameBut l b s) : SameBut l b
    (tryUp p s) := by
  refine SameBut.step ?_ hm h0
  clear hm h0
  unfold tryUp
  repeat' (first
    | (with_reducible exact SameBut.refl)
    | ((with_reducible apply SameBut.ite) <;> intro _)
    | (extract_lets +onlyGivenNames x)
    | ((with_reducible apply putPort_frame); (· decide)))

theorem keepStep_frame {p : Nat} {s : State} {l : List Part} {b : State} (hm : ∀ p ∈ ([.chain] : List Part), p ∈ l) (h0 : SameBut l b s) :
    SameBut l b (keepStep p s) := by
  refine SameBut.step ?_ hm h0
  clear hm h0
  unfold keepStep
  repeat' (first
    | (with_reducible exact SameBut.refl)
    | ((with_reducible apply SameBut.ite) <;> intro _)
    | (extract_lets +onlyGivenNames x)
    | ((with_reducible apply putPort_frame); (· decide)))

theorem vholdLevel_frame {above : Bool} {s : State} {l : List Part} {b : State} (hm : ∀ p ∈ ([.power, .faults] : List Part), p ∈ l) (h0 :
    SameBut l b s) : SameBut l b (vholdLevel above s) := by
  refine SameBut.step ?_ hm h0
  clear hm h0
  unfold vholdLevel
  repeat' (first
    | (with_reducible exact SameBut.refl)
    | ((with_reducible apply SameBut.ite) <;> intro _)
    | (extract_lets +onlyGivenNames x)
    | ((with_reducible apply SameBut.upd); (· with_reducible exact rfl);
          (· ((fail_if_success (with_reducible exact Or.inl rfl)); exact Or.inr trivial));
          (· (intro p hp; cases p <;> first | rfl | exact ⟨rfl, rfl⟩ | exact ⟨rfl, rfl, rfl⟩ | exact absurd (by decide) hp)))
    | ((with_reducible apply condOff_frame); (· decide)))

theorem requestReset_frame {c : Cause} {s : State} {l : List Part} {b : State} (hm : ∀ p ∈
    ([.boot, .power, .link, .prot, .rings, .cmp, .frm, .strip, .tiles, .journal, .chans, .safeSet, .safety, .slots, .faults, .cal, .therm, .chain, .time, .nvm] : List Part), p ∈ l)
    (h0 : SameBut l b s) : SameBut l b (requestReset c s) := by
  refine SameBut.step ?_ hm h0
  clear hm h0
  unfold requestReset
  repeat' (first
    | (with_reducible exact SameBut.refl)
    | ((with_reducible apply SameBut.ite) <;> intro _)
    | (extract_lets +onlyGivenNames x)
    | ((with_reducible apply SameBut.upd); (· with_reducible exact rfl);
          (· ((fail_if_success (with_reducible exact Or.inl rfl)); exact Or.inr trivial));
          (· (intro p hp; cases p <;> first | rfl | exact ⟨rfl, rfl⟩ | exact ⟨rfl, rfl, rfl⟩ | exact absurd (by decide) hp)))
    | ((with_reducible apply chipReset_frame); (· decide)))

theorem failItem_frame {r : ReadItem} {s : State} {l : List Part} {b : State} (hm : ∀ p ∈ ([.link, .rings, .cmp, .faults] : List Part), p ∈ l) (h0 :
    SameBut l b s) : SameBut l b (failItem r s) := by
  refine SameBut.step ?_ hm h0
  clear hm h0
  unfold failItem
  repeat' (first
    | (with_reducible exact SameBut.refl)
    | (with_reducible assumption)
    | ((with_reducible apply SameBut.ite) <;> intro _)
    | (extract_lets +onlyGivenNames x;
          (first | ((refine SameBut.gen (x := x) ?_ ?_); rotate_left; (clear_value x; intro _); rotate_left; (subst x)) | ((refine SameBut.genf (x := x) ?_); subst x; intro _) | (skip)))
    | ((with_reducible apply SameBut.upd); (· with_reducible exact rfl);
          (· ((fail_if_success (with_reducible exact Or.inl rfl)); exact Or.inr trivial));
          (· (intro p hp; cases p <;> first | rfl | exact ⟨rfl, rfl⟩ | exact ⟨rfl, rfl, rfl⟩ | exact absurd (by decide) hp)))
    | ((with_reducible apply updDesc_frame); (· decide))
    | ((with_reducible apply complete_frame); (· decide))
    | ((with_reducible apply raise_frame); (· decide))
    | (split))

theorem passChecks_frame {id : Nat} {s : State} {l : List Part} {b : State} (hm : ∀ p ∈ ([.rings, .faults] : List Part), p ∈ l) (h0 :
    SameBut l b s) : SameBut l b (passChecks id s) := by
  refine SameBut.step ?_ hm h0
  clear hm h0
  unfold passChecks
  repeat' (first
    | (with_reducible exact SameBut.refl)
    | ((with_reducible apply SameBut.ite) <;> intro _)
    | (extract_lets +onlyGivenNames x)
    | ((with_reducible apply updDesc_frame); (· decide))
    | ((with_reducible apply raise_frame); (· decide))
    | ((with_reducible apply complete_frame); (· decide))
    | (split))

theorem consumeLost_frame {n : Nat} : ∀ {x1 : Nat} {x2 : State} {l : List Part} {b : State} (hm : ∀ p ∈ ([.rings] : List Part), p ∈ l) (h0 :
    SameBut l b x2), SameBut l b (consumeLost n x1 x2) := by
  intro x1
  induction x1 with
  | zero => intro x2 l b _ h0; first | exact h0 | (unfold consumeLost; exact h0)
  | succ k ih =>
    intro x2 l b hm h0
    refine SameBut.step ?_ hm h0
    clear hm h0
    unfold consumeLost
    repeat' (first
      | (with_reducible exact SameBut.refl)
      | (with_reducible assumption)
      | (extract_lets +onlyGivenNames x;
            (first | ((refine SameBut.gen (x := x) ?_ ?_); rotate_left; (clear_value x; intro _); rotate_left; (subst x)) | (skip)))
      | ((with_reducible apply SameBut.upd); (· with_reducible exact rfl);
            (· ((fail_if_success (with_reducible exact Or.inl rfl)); exact Or.inr trivial));
            (· (intro p hp; cases p <;> first | rfl | exact ⟨rfl, rfl⟩ | exact ⟨rfl, rfl, rfl⟩ | exact absurd (by decide) hp)))
      | ((with_reducible apply ih); (· decide))
      | ((with_reducible apply putSq_frame); (· decide)))

theorem drainEnd_frame {n : Nat} {s : State} {l : List Part} {b : State} (hm : ∀ p ∈ ([.rings] : List Part), p ∈ l) (h0 : SameBut l b s) :
    SameBut l b (drainEnd n s) := by
  refine SameBut.step ?_ hm h0
  clear hm h0
  unfold drainEnd
  repeat' (first
    | (with_reducible exact SameBut.refl)
    | ((with_reducible apply SameBut.ite) <;> intro _)
    | (extract_lets +onlyGivenNames x)
    | ((with_reducible apply putSq_frame); (· decide)))

theorem doorbellError_frame {kick : Bool} {cq : Bool} {ring : Nat} {cause : Nat} {value : Nat} {s : State} {l : List Part} {b : State} (hm : ∀ p ∈
    ([.rings, .faults] : List Part), p ∈ l) (h0 : SameBut l b s) : SameBut l b (doorbellError kick cq ring cause value s) := by
  refine SameBut.step ?_ hm h0
  clear hm h0
  unfold doorbellError
  repeat' (first
    | (with_reducible exact SameBut.refl)
    | ((with_reducible apply SameBut.ite) <;> intro _)
    | (extract_lets +onlyGivenNames x)
    | ((with_reducible apply SameBut.upd); (· with_reducible exact rfl);
          (· ((fail_if_success (with_reducible exact Or.inl rfl)); exact Or.inr trivial));
          (· (intro p hp; cases p <;> first | rfl | exact ⟨rfl, rfl⟩ | exact ⟨rfl, rfl, rfl⟩ | exact absurd (by decide) hp)))
    | ((with_reducible apply raise_frame); (· decide)))

theorem hostHeard_frame {s : State} {l : List Part} {b : State} (hm : ∀ p ∈ ([.rings, .faults] : List Part), p ∈ l) (h0 : SameBut l b s) :
    SameBut l b (hostHeard s) := by
  refine SameBut.step ?_ hm h0
  clear hm h0
  unfold hostHeard
  repeat' (first
    | (with_reducible exact SameBut.refl)
    | (extract_lets +onlyGivenNames x)
    | ((with_reducible apply SameBut.upd); (· with_reducible exact rfl);
          (· ((fail_if_success (with_reducible exact Or.inl rfl)); exact Or.inr trivial));
          (· (intro p hp; cases p <;> first | rfl | exact ⟨rfl, rfl⟩ | exact ⟨rfl, rfl, rfl⟩ | exact absurd (by decide) hp)))
    | ((with_reducible apply condOff_frame); (· decide)))

theorem flushOne_frame {d : Desc} {s : State} {l : List Part} {b : State} (hm : ∀ p ∈ ([.rings, .chain] : List Part), p ∈ l) (h0 : SameBut l b s) :
    SameBut l b (flushOne d s) := by
  refine SameBut.step ?_ hm h0
  clear hm h0
  unfold flushOne
  repeat' (first
    | (with_reducible exact SameBut.refl)
    | ((with_reducible apply SameBut.ite) <;> intro _)
    | (extract_lets +onlyGivenNames x)
    | ((with_reducible apply SameBut.upd); (· with_reducible exact rfl);
          (· ((fail_if_success (with_reducible exact Or.inl rfl)); exact Or.inr trivial));
          (· (intro p hp; cases p <;> first | rfl | exact ⟨rfl, rfl⟩ | exact ⟨rfl, rfl, rfl⟩ | exact absurd (by decide) hp)))
    | ((with_reducible apply complete_frame); (· decide)))

theorem storeSqCfg_frame {n : Nat} {v : Nat} {s : State} {l : List Part} {b : State} (hm : ∀ p ∈ ([.prot, .rings] : List Part), p ∈ l) (h0 :
    SameBut l b s) : SameBut l b (storeSqCfg n v s) := by
  refine SameBut.step ?_ hm h0
  clear hm h0
  unfold storeSqCfg
  repeat' (first
    | (with_reducible exact SameBut.refl)
    | ((with_reducible apply SameBut.ite) <;> intro _)
    | (extract_lets +onlyGivenNames x)
    | ((with_reducible apply SameBut.upd); (· with_reducible exact rfl);
          (· ((fail_if_success (with_reducible exact Or.inl rfl)); exact Or.inr trivial));
          (· (intro p hp; cases p <;> first | rfl | exact ⟨rfl, rfl⟩ | exact ⟨rfl, rfl, rfl⟩ | exact absurd (by decide) hp)))
    | ((with_reducible apply putSq_frame); (· decide)))

theorem storeCqCfg_frame {n : Nat} {v : Nat} {s : State} {l : List Part} {b : State} (hm : ∀ p ∈ ([.rings] : List Part), p ∈ l) (h0 :
    SameBut l b s) : SameBut l b (storeCqCfg n v s) := by
  refine SameBut.step ?_ hm h0
  clear hm h0
  unfold storeCqCfg
  repeat' (first
    | (with_reducible exact SameBut.refl)
    | ((with_reducible apply SameBut.ite) <;> intro _)
    | (extract_lets +onlyGivenNames x)
    | ((with_reducible apply putCq_frame); (· decide)))

theorem fetchRequests_frame {turn n size per base : Nat} : ∀ {k first count : Nat} {s : State} {l : List Part} {b : State}
    (_ : ∀ p ∈
    ([.link] : List Part), p ∈ l) (_ : SameBut l b s), SameBut l b (fetchRequests turn n size first count per base k s) := by
  intro k
  induction k with
  | zero => intro first count s l b _ h0; exact h0
  | succ k ih =>
    intro first count s l b hm h0
    unfold fetchRequests
    split
    · exact h0
    · exact ih hm (queueFetch_frame hm h0)

theorem selftestPulse_frame {ch : Chan} {s : State} {l : List Part} {b : State} (hm : ∀ p ∈ ([.outputs] : List Part), p ∈ l) (h0 : SameBut l b s) :
    SameBut l b (selftestPulse ch s) := by
  refine SameBut.step ?_ hm h0
  clear hm h0
  unfold selftestPulse
  repeat' (first
    | (with_reducible exact SameBut.refl)
    | ((with_reducible apply SameBut.ite) <;> intro _)
    | (extract_lets +onlyGivenNames x)
    | ((with_reducible apply emit_frame); (· decide)))

theorem stopFronds_frame {s : State} {l : List Part} {b : State} (hm : ∀ p ∈ ([.strip, .tiles] : List Part), p ∈ l) (h0 : SameBut l b s) :
    SameBut l b (stopFronds s) := by
  refine SameBut.step ?_ hm h0
  clear hm h0
  unfold stopFronds
  repeat' (first
    | (with_reducible exact SameBut.refl)
    | (with_reducible assumption)
    | ((with_reducible apply SameBut.ite) <;> intro _)
    | (extract_lets +onlyGivenNames x;
          (first | ((refine SameBut.gen (x := x) ?_ ?_); rotate_left; (clear_value x; intro _); rotate_left; (subst x)) | (skip)))
    | ((with_reducible apply SameBut.upd); (· with_reducible exact rfl);
          (· ((fail_if_success (with_reducible exact Or.inl rfl)); exact Or.inr trivial));
          (· (intro p hp; cases p <;> first | rfl | exact ⟨rfl, rfl⟩ | exact ⟨rfl, rfl, rfl⟩ | exact absurd (by decide) hp)))
    | ((with_reducible apply markTaps_frame); (· decide)))

theorem endEstop_frame {s : State} {l : List Part} {b : State} (hm : ∀ p ∈ ([.chans, .safety, .faults] : List Part), p ∈ l) (h0 : SameBut l b s) :
    SameBut l b (endEstop s) := by
  refine SameBut.step ?_ hm h0
  clear hm h0
  unfold endEstop
  repeat' (first
    | (with_reducible exact SameBut.refl)
    | (extract_lets +onlyGivenNames x)
    | ((with_reducible apply condOff_frame); (· decide))
    | ((with_reducible apply onSaf_frame_chans); (· (intro _; first | rfl | (split <;> rfl) | ((repeat' split) <;> rfl)));
          (· (intro _; first | rfl | (split <;> rfl) | ((repeat' split) <;> rfl)));
          (· (intro _; first | rfl | (split <;> rfl) | ((repeat' split) <;> rfl))); (· decide)))

theorem loadSet_frame {s : State} {l : List Part} {b : State} (hm : ∀ p ∈ ([.safeSet, .safety, .faults] : List Part), p ∈ l) (h0 : SameBut l b s) :
    SameBut l b (loadSet s) := by
  refine SameBut.step ?_ hm h0
  clear hm h0
  unfold loadSet
  repeat' (first
    | (with_reducible exact SameBut.refl)
    | (with_reducible assumption)
    | ((with_reducible apply SameBut.ite) <;> intro _)
    | (extract_lets +onlyGivenNames x;
          (first | ((refine SameBut.gen (x := x) ?_ ?_); rotate_left; (clear_value x; intro _); rotate_left; (subst x)) | (skip)))
    | ((with_reducible apply onSaf_frame); (· (intro _; first | rfl | (split <;> rfl) | ((repeat' split) <;> rfl)));
          (· (intro _; first | rfl | (split <;> rfl) | ((repeat' split) <;> rfl)));
          (· (intro _; first | rfl | (split <;> rfl) | ((repeat' split) <;> rfl)));
          (· (intro _; first | rfl | (split <;> rfl) | ((repeat' split) <;> rfl)));
          (· (intro _; first | rfl | (split <;> rfl) | ((repeat' split) <;> rfl))); (· decide))
    | ((with_reducible apply onSaf_frame_only_set); (· (intro _; first | rfl | (split <;> rfl) | ((repeat' split) <;> rfl)));
          (· (intro _; first | rfl | (split <;> rfl) | ((repeat' split) <;> rfl)));
          (· (intro _; first | rfl | (split <;> rfl) | ((repeat' split) <;> rfl))); (· decide))
    | ((with_reducible apply raise_frame); (· decide))
    | (split))

theorem loseWords_frame : ∀ {x0 : List Nat} {x1 : FrameRec} {x2 : State} {l : List Part} {b : State} (hm : ∀ p ∈ ([.freeCtr] : List Part), p ∈ l)
    (h0 : SameBut l b x2), SameBut l b (loseWords x0 x1 x2).2 := by
  intro x0
  induction x0 with
  | nil => intro x1 x2 l b _ h0; first | exact h0 | (unfold loseWords; exact h0)
  | cons y r ih =>
    intro x1 x2 l b hm h0
    refine SameBut.step ?_ hm h0
    clear hm h0
    unfold loseWords
    repeat' (first
      | (with_reducible exact SameBut.refl)
      | (with_reducible assumption)
      | (extract_lets +onlyGivenNames x; (refine SameBut.gen2 (x := x) ?_ ?_); rotate_left; (clear_value x; intro _); rotate_left; (subst x))
      | ((with_reducible apply ih); (· decide))
      | ((with_reducible apply freshFree_frame); (· decide)))

theorem pinShort_frame {kind : Bool} {a : Nat} {b_ : Nat} {s : State} {l : List Part} {b : State} (hm : ∀ p ∈
    ([.strip, .faults] : List Part), p ∈ l) (h0 : SameBut l b s) : SameBut l b (pinShort kind a b_ s) := by
  refine SameBut.step ?_ hm h0
  clear hm h0
  unfold pinShort
  repeat' (first
    | (with_reducible exact SameBut.refl)
    | ((with_reducible apply SameBut.ite) <;> intro _)
    | (extract_lets +onlyGivenNames x)
    | ((with_reducible apply SameBut.upd); (· with_reducible exact rfl);
          (· ((fail_if_success (with_reducible exact Or.inl rfl)); exact Or.inr trivial));
          (· (intro p hp; cases p <;> first | rfl | exact ⟨rfl, rfl⟩ | exact ⟨rfl, rfl, rfl⟩ | exact absurd (by decide) hp)))
    | ((with_reducible apply raise_frame); (· decide)))

theorem latchTile_frame {f : Nat} {n : Nat} {refused : List Nat} {x : ShiftRec} {s : State} {l : List Part} {b : State} (hm : ∀ p ∈
    ([.outputs, .strip, .tiles, .faults] : List Part), p ∈ l) (h0 : SameBut l b s) : SameBut l b (latchTile f n refused x s) := by
  refine SameBut.step ?_ hm h0
  clear hm h0
  unfold latchTile
  repeat' (first
    | (with_reducible exact SameBut.refl)
    | ((with_reducible apply SameBut.ite) <;> intro _)
    | (extract_lets +onlyGivenNames x)
    | ((with_reducible apply emit_frame); (· decide))
    | ((with_reducible apply putTile_frame); (· decide))
    | ((with_reducible apply raise_frame); (· decide))
    | ((with_reducible apply putFrond_frame); (· decide)))

theorem applyAnalog_frame {n : Nat} : ∀ {x1 : Nat} {x2 : State} {l : List Part} {b : State} (hm : ∀ p ∈ ([.strip] : List Part), p ∈ l) (h0 :
    SameBut l b x2), SameBut l b (applyAnalog n x1 x2) := by
  intro x1
  induction x1 with
  | zero =>
    intro x2 l b hm h0
    refine SameBut.step ?_ hm h0
    clear hm h0
    unfold applyAnalog
    repeat' (first
      | (with_reducible exact SameBut.refl)
      | (with_reducible assumption)
      | (extract_lets +onlyGivenNames x;
            (first | ((refine SameBut.gen (x := x) ?_ ?_); rotate_left; (clear_value x; intro _); rotate_left; (subst x)) | (skip)))
      | ((with_reducible apply SameBut.upd); (· with_reducible exact rfl);
            (· ((fail_if_success (with_reducible exact Or.inl rfl)); exact Or.inr trivial));
            (· (intro p hp; cases p <;> first | rfl | exact ⟨rfl, rfl⟩ | exact ⟨rfl, rfl, rfl⟩ | exact absurd (by decide) hp)))
      | ((with_reducible apply ih); (· decide))
      | ((with_reducible apply putStrip_frame); (· decide)))
  | succ k ih =>
    intro x2 l b hm h0
    refine SameBut.step ?_ hm h0
    clear hm h0
    unfold applyAnalog
    repeat' (first
      | (with_reducible exact SameBut.refl)
      | (with_reducible assumption)
      | (extract_lets +onlyGivenNames x;
            (first | ((refine SameBut.gen (x := x) ?_ ?_); rotate_left; (clear_value x; intro _); rotate_left; (subst x)) | (skip)))
      | ((with_reducible apply SameBut.upd); (· with_reducible exact rfl);
            (· ((fail_if_success (with_reducible exact Or.inl rfl)); exact Or.inr trivial));
            (· (intro p hp; cases p <;> first | rfl | exact ⟨rfl, rfl⟩ | exact ⟨rfl, rfl, rfl⟩ | exact absurd (by decide) hp)))
      | ((with_reducible apply ih); (· decide))
      | ((with_reducible apply putStrip_frame); (· decide)))

theorem strip1_frame {s : State} {i : Nat} {v : Nat} {cur : Nat} {l : List Part} {b : State} (hm : ∀ p ∈ ([.strip, .faults] : List Part), p ∈ l)
    (h0 : SameBut l b s) : SameBut l b (strip1 s i v cur) := by
  refine SameBut.step ?_ hm h0
  clear hm h0
  unfold strip1
  repeat' (first
    | (with_reducible exact SameBut.refl)
    | ((with_reducible apply SameBut.ite) <;> intro _)
    | (extract_lets +onlyGivenNames x)
    | ((with_reducible apply putStrip_frame); (· decide))
    | ((with_reducible apply raise_frame); (· decide)))

theorem updTile_frame {n : Nat} {f : Tile → Tile} {s : State} {l : List Part} {b : State} (hm : ∀ p ∈ ([.tiles] : List Part), p ∈ l) (h0 :
    SameBut l b s) : SameBut l b (updTile n f s) := by
  refine SameBut.step ?_ hm h0
  clear hm h0
  unfold updTile
  repeat' (first
    | (with_reducible exact SameBut.refl)
    | ((with_reducible apply putTile_frame); (· decide)))

theorem governor_frame {s : State} {l : List Part} {b : State} (hm : ∀ p ∈ ([.strip, .faults] : List Part), p ∈ l) (h0 : SameBut l b s) :
    SameBut l b (governor s) := by
  refine SameBut.step ?_ hm h0
  clear hm h0
  unfold governor
  repeat' (first
    | (with_reducible exact SameBut.refl)
    | ((with_reducible apply SameBut.ite) <;> intro _)
    | (extract_lets +onlyGivenNames x)
    | ((with_reducible apply SameBut.upd); (· with_reducible exact rfl);
          (· ((fail_if_success (with_reducible exact Or.inl rfl)); exact Or.inr trivial));
          (· (intro p hp; cases p <;> first | rfl | exact ⟨rfl, rfl⟩ | exact ⟨rfl, rfl, rfl⟩ | exact absurd (by decide) hp)))
    | ((with_reducible apply raise_frame); (· decide)))

theorem markItemsN_frame {m : Nat} : ∀ {x1 : Nat} {x2 : State} {l : List Part} {b : State} (hm : ∀ p ∈ ([.strip] : List Part), p ∈ l) (h0 :
    SameBut l b x2), SameBut l b (markItemsN m x1 x2) := by
  intro x1
  induction x1 with
  | zero => intro x2 l b _ h0; first | exact h0 | (unfold markItemsN; exact h0)
  | succ k ih =>
    intro x2 l b hm h0
    refine SameBut.step ?_ hm h0
    clear hm h0
    unfold markItemsN
    repeat' (first
      | (with_reducible exact SameBut.refl)
      | ((with_reducible apply SameBut.ite) <;> intro _)
      | (extract_lets +onlyGivenNames x)
      | ((with_reducible apply ih); (· decide))
      | ((with_reducible apply putFrond_frame); (· decide))
      | (split))

theorem setStripItem_frame {item : Nat} {v : Nat} {i : Nat} {s : State} {l : List Part} {b : State} (hm : ∀ p ∈ ([.strip] : List Part), p ∈ l) (h0 :
    SameBut l b s) : SameBut l b (setStripItem item v i s) := by
  refine SameBut.step ?_ hm h0
  clear hm h0
  unfold setStripItem
  repeat' (first
    | (with_reducible exact SameBut.refl)
    | (extract_lets +onlyGivenNames x)
    | ((with_reducible apply putStrip_frame); (· decide)))

theorem finishStrips_frame : ∀ {x0 : List (Nat × Bool)} {x1 : State} {l : List Part} {b : State} (hm : ∀ p ∈ ([.rings] : List Part), p ∈ l) (h0 :
    SameBut l b x1), SameBut l b (finishStrips x0 x1) := by
  intro x0
  induction x0 with
  | nil => intro x1 l b _ h0; first | exact h0 | (unfold finishStrips; exact h0)
  | cons y r ih =>
    intro x1 l b hm h0
    refine SameBut.step ?_ hm h0
    clear hm h0
    obtain ⟨y0, y1⟩ := y
    unfold finishStrips
    repeat' (first
      | (with_reducible exact SameBut.refl)
      | (extract_lets +onlyGivenNames x)
      | ((with_reducible apply ih); (· decide))
      | ((with_reducible apply complete_frame); (· decide)))

theorem cancelRepay_frame {n : Nat} {s : State} {l : List Part} {b : State} (hm : ∀ p ∈ ([.strip, .tiles] : List Part), p ∈ l) (h0 :
    SameBut l b s) : SameBut l b (cancelRepay n s) := by
  refine SameBut.step ?_ hm h0
  clear hm h0
  unfold cancelRepay
  repeat' (first
    | (with_reducible exact SameBut.refl)
    | (with_reducible assumption)
    | ((with_reducible apply SameBut.ite) <;> intro _)
    | (extract_lets +onlyGivenNames x;
          (first | ((refine SameBut.gen (x := x) ?_ ?_); rotate_left; (clear_value x; intro _); rotate_left; (subst x)) | (skip)))
    | ((with_reducible apply putTile_frame); (· decide))
    | ((with_reducible apply putFrond_frame); (· decide))
    | (split))

theorem lightEnds_frame {n : Nat} {s : State} {l : List Part} {b : State} (hm : ∀ p ∈ ([.tiles] : List Part), p ∈ l) (h0 : SameBut l b s) :
    SameBut l b (lightEnds n s) := by
  refine SameBut.step ?_ hm h0
  clear hm h0
  unfold lightEnds
  repeat' (first
    | (with_reducible exact SameBut.refl)
    | ((with_reducible apply SameBut.ite) <;> intro _)
    | (extract_lets +onlyGivenNames x)
    | ((with_reducible apply putTile_frame); (· decide)))

theorem startSlice_frame {n : Nat} {k : Nat} {s : State} {l : List Part} {b : State} (hm : ∀ p ∈ ([.outputs, .tiles] : List Part), p ∈ l) (h0 :
    SameBut l b s) : SameBut l b (startSlice n k s) := by
  refine SameBut.step ?_ hm h0
  clear hm h0
  unfold startSlice
  repeat' (first
    | (with_reducible exact SameBut.refl)
    | ((with_reducible apply SameBut.ite) <;> intro _)
    | (extract_lets +onlyGivenNames x)
    | ((with_reducible apply emit_frame); (· decide))
    | ((with_reducible apply putTile_frame); (· decide)))

theorem updSensor_frame {i : Nat} {f : Sensor → Sensor} {s : State} {l : List Part} {b : State} (hm : ∀ p ∈ ([.therm] : List Part), p ∈ l) (h0 :
    SameBut l b s) : SameBut l b (updSensor i f s) := by
  refine SameBut.step ?_ hm h0
  clear hm h0
  unfold updSensor
  repeat' (first
    | (with_reducible exact SameBut.refl)
    | ((with_reducible apply putSensor_frame); (· decide)))

theorem convert_frame {i : Nat} {raw : Option Int} {s : State} {l : List Part} {b : State} (hm : ∀ p ∈ ([.freeCtr] : List Part), p ∈ l) (h0 :
    SameBut l b s) : SameBut l b (convert i raw s).2 := by
  refine SameBut.step ?_ hm h0
  clear hm h0
  unfold convert
  repeat' (first
    | (with_reducible exact SameBut.refl)
    | (with_reducible assumption)
    | (extract_lets +onlyGivenNames x;
          (first | ((refine SameBut.gen2 (x := x) ?_ ?_); rotate_left; (clear_value x; intro _); rotate_left; (subst x)) | (skip)))
    | ((with_reducible apply freshFree_frame); (· decide))
    | (split))

theorem thermEvent_frame {kind : Nat} {dom : Option Nat} {sensor : Option Nat} {s : State} {l : List Part} {b : State} (hm : ∀ p ∈
    ([.freeCtr, .rings] : List Part), p ∈ l) (h0 : SameBut l b s) : SameBut l b (thermEvent kind dom sensor s) := by
  refine SameBut.step ?_ hm h0
  clear hm h0
  unfold thermEvent
  repeat' (first
    | (with_reducible exact SameBut.refl)
    | (with_reducible assumption)
    | (extract_lets +onlyGivenNames x;
          (first | ((refine SameBut.gen2 (x := x) ?_ ?_); rotate_left; (clear_value x; intro _); rotate_left; (subst x)) | (skip)))
    | ((with_reducible apply freshFree_frame); (· decide))
    | ((with_reducible apply postEvent_frame); (· decide)))

theorem learnOffset_frame {measured : List Nat} {i : Nat} {s : State} {l : List Part} {b : State} (hm : ∀ p ∈ ([.therm] : List Part), p ∈ l) (h0 :
    SameBut l b s) : SameBut l b (learnOffset measured i s) := by
  refine SameBut.step ?_ hm h0
  clear hm h0
  unfold learnOffset
  repeat' (first
    | (with_reducible exact SameBut.refl)
    | ((with_reducible apply SameBut.ite) <;> intro _)
    | (extract_lets +onlyGivenNames x)
    | ((with_reducible apply putSensor_frame); (· decide))
    | (split))

theorem endMeasure_frame {id : Nat} {vals : List (Nat × Option Int)} {s : State} {l : List Part} {b : State} (hm : ∀ p ∈
    ([.freeCtr, .rings] : List Part), p ∈ l) (h0 : SameBut l b s) : SameBut l b (endMeasure id vals s) := by
  refine SameBut.step ?_ hm h0
  clear hm h0
  unfold endMeasure
  repeat' (first
    | (with_reducible exact SameBut.refl)
    | (with_reducible assumption)
    | (extract_lets +onlyGivenNames x;
          (first | ((refine SameBut.gen2 (x := x) ?_ ?_); rotate_left; (clear_value x; intro _); rotate_left; (subst x)) | (skip)))
    | ((with_reducible apply complete_frame); (· decide))
    | ((with_reducible apply freshFree_frame); (· decide))
    | (split))

theorem readTiles_frame {mask : Nat} : ∀ {x1 : Nat} {x2 : State} {l : List Part} {b : State} (hm : ∀ p ∈ ([.outputs] : List Part), p ∈ l) (h0 :
    SameBut l b x2), SameBut l b (readTiles mask x1 x2) := by
  intro x1
  induction x1 with
  | zero => intro x2 l b _ h0; first | exact h0 | (unfold readTiles; exact h0)
  | succ k ih =>
    intro x2 l b hm h0
    refine SameBut.step ?_ hm h0
    clear hm h0
    unfold readTiles
    repeat' (first
      | (with_reducible exact SameBut.refl)
      | ((with_reducible apply SameBut.ite) <;> intro _)
      | (extract_lets +onlyGivenNames x)
      | ((with_reducible apply ih); (· decide))
      | ((with_reducible apply emit_frame); (· decide)))

theorem unfreezeAll_frame {m : Nat} : ∀ {x1 : Nat} {x2 : State} {l : List Part} {b : State} (hm : ∀ p ∈ ([.therm] : List Part), p ∈ l) (h0 :
    SameBut l b x2), SameBut l b (unfreezeAll m x1 x2) := by
  intro x1
  induction x1 with
  | zero => intro x2 l b _ h0; first | exact h0 | (unfold unfreezeAll; exact h0)
  | succ k ih =>
    intro x2 l b hm h0
    refine SameBut.step ?_ hm h0
    clear hm h0
    unfold unfreezeAll
    repeat' (first
      | (with_reducible exact SameBut.refl)
      | ((with_reducible apply SameBut.ite) <;> intro _)
      | (extract_lets +onlyGivenNames x)
      | ((with_reducible apply ih); (· decide))
      | ((with_reducible apply putDomain_frame); (· decide)))

theorem dropChecks_frame {n : Nat} : ∀ {x1 : Nat} {x2 : State} {l : List Part} {b : State} (hm : ∀ p ∈ ([.strip] : List Part), p ∈ l) (h0 :
    SameBut l b x2), SameBut l b (dropChecks n x1 x2) := by
  intro x1
  induction x1 with
  | zero => intro x2 l b _ h0; first | exact h0 | (unfold dropChecks; exact h0)
  | succ k ih =>
    intro x2 l b hm h0
    refine SameBut.step ?_ hm h0
    clear hm h0
    unfold dropChecks
    repeat' (first
      | (with_reducible exact SameBut.refl)
      | (with_reducible assumption)
      | (extract_lets +onlyGivenNames x;
            (first | ((refine SameBut.gen (x := x) ?_ ?_); rotate_left; (clear_value x; intro _); rotate_left; (subst x)) | (skip)))
      | ((with_reducible apply ih); (· decide))
      | ((with_reducible apply putStrip_frame); (· decide)))

theorem postEol_frame {n : Nat} {serial : Nat} {reason : Nat} {block : Nat} {s : State} {l : List Part} {b : State} (hm : ∀ p ∈
    ([.rings, .tiles, .faults, .chain] : List Part), p ∈ l) (h0 : SameBut l b s) : SameBut l b (postEol n serial reason block s) := by
  refine SameBut.step ?_ hm h0
  clear hm h0
  unfold postEol
  repeat' (first
    | (with_reducible exact SameBut.refl)
    | (with_reducible assumption)
    | ((with_reducible apply SameBut.ite) <;> intro _)
    | (extract_lets +onlyGivenNames x;
          (first | ((refine SameBut.gen (x := x) ?_ ?_); rotate_left; (clear_value x; intro _); rotate_left; (subst x)) | (skip)))
    | ((with_reducible apply SameBut.upd); (· with_reducible exact rfl);
          (· ((fail_if_success (with_reducible exact Or.inl rfl)); exact Or.inr trivial));
          (· (intro p hp; cases p <;> first | rfl | exact ⟨rfl, rfl⟩ | exact ⟨rfl, rfl, rfl⟩ | exact absurd (by decide) hp)))
    | ((with_reducible apply onTiles_frame); (· decide))
    | ((with_reducible apply raise_frame); (· decide))
    | ((with_reducible apply postEvent_frame); (· decide)))

theorem makeOrphan_frame {o : Orphan} {s : State} {l : List Part} {b : State} (hm : ∀ p ∈ ([.journal, .faults, .nvm] : List Part), p ∈ l) (h0 :
    SameBut l b s) : SameBut l b (makeOrphan o s) := by
  refine SameBut.step ?_ hm h0
  clear hm h0
  unfold makeOrphan
  repeat' (first
    | (with_reducible exact SameBut.refl)
    | ((with_reducible apply SameBut.ite) <;> intro _)
    | (extract_lets +onlyGivenNames x)
    | ((with_reducible apply SameBut.upd); (· with_reducible exact rfl);
          (· ((fail_if_success (with_reducible exact Or.inl rfl)); exact Or.inr trivial));
          (· (intro p hp; cases p <;> first | rfl | exact ⟨rfl, rfl⟩ | exact ⟨rfl, rfl, rfl⟩ | exact absurd (by decide) hp)))
    | ((with_reducible apply trimCopies_frame); (· decide))
    | ((with_reducible apply raise_frame); (· decide)))

theorem loseRetained_frame : ∀ {x0 : List Nat} {x1 : List (Nat × Nat)} {x2 : State} {l : List Part} {b : State} (hm : ∀ p ∈
    ([.freeCtr] : List Part), p ∈ l) (h0 : SameBut l b x2), SameBut l b (loseRetained x0 x1 x2).2 := by
  intro x0
  induction x0 with
  | nil => intro x1 x2 l b _ h0; first | exact h0 | (unfold loseRetained; exact h0)
  | cons y r ih =>
    intro x1 x2 l b hm h0
    refine SameBut.step ?_ hm h0
    clear hm h0
    unfold loseRetained
    repeat' (first
      | (with_reducible exact SameBut.refl)
      | (with_reducible assumption)
      | (extract_lets +onlyGivenNames x; (refine SameBut.gen2 (x := x) ?_ ?_); rotate_left; (clear_value x; intro _); rotate_left; (subst x))
      | ((with_reducible apply ih); (· decide))
      | ((with_reducible apply freshFree_frame); (· decide)))

theorem applyOrphan_frame {n : Nat} {s : State} {l : List Part} {b : State} (hm : ∀ p ∈ ([.tiles, .journal] : List Part), p ∈ l) (h0 :
    SameBut l b s) : SameBut l b (applyOrphan n s) := by
  refine SameBut.step ?_ hm h0
  clear hm h0
  unfold applyOrphan
  repeat' (first
    | (with_reducible exact SameBut.refl)
    | (with_reducible assumption)
    | ((with_reducible apply SameBut.ite) <;> intro _)
    | (extract_lets +onlyGivenNames x;
          (first | ((refine SameBut.gen (x := x) ?_ ?_); rotate_left; (clear_value x; intro _); rotate_left; (subst x)) | (skip)))
    | ((with_reducible apply SameBut.upd); (· with_reducible exact rfl);
          (· ((fail_if_success (with_reducible exact Or.inl rfl)); exact Or.inr trivial));
          (· (intro p hp; cases p <;> first | rfl | exact ⟨rfl, rfl⟩ | exact ⟨rfl, rfl, rfl⟩ | exact absurd (by decide) hp)))
    | ((with_reducible apply poisonBlocks_frame); (· decide))
    | ((with_reducible apply putTile_frame); (· decide))
    | (split))

theorem writeCopy_frame {n : Nat} {c : Commit} {s : State} {l : List Part} {b : State} (hm : ∀ p ∈ ([.outputs] : List Part), p ∈ l) (h0 :
    SameBut l b s) : SameBut l b (writeCopy n c s) := by
  refine SameBut.step ?_ hm h0
  clear hm h0
  unfold writeCopy
  repeat' (first
    | (with_reducible exact SameBut.refl)
    | ((with_reducible apply emit_frame); (· decide)))

theorem finishWaits_frame : ∀ {x0 : List CommitWait} {x1 : State} {l : List Part} {b : State} (hm : ∀ p ∈ ([.rings, .tiles] : List Part), p ∈ l)
    (h0 : SameBut l b x1), SameBut l b (finishWaits x0 x1) := by
  intro x0
  induction x0 with
  | nil => intro x1 l b _ h0; first | exact h0 | (unfold finishWaits; exact h0)
  | cons y r ih =>
    intro x1 l b hm h0
    refine SameBut.step ?_ hm h0
    clear hm h0
    unfold finishWaits
    repeat' (first
      | (with_reducible exact SameBut.refl)
      | ((with_reducible apply SameBut.ite) <;> intro _)
      | (extract_lets +onlyGivenNames x)
      | ((with_reducible apply ih); (· decide))
      | ((with_reducible apply complete_frame); (· decide))
      | ((with_reducible apply onTiles_frame); (· decide)))

theorem completeAll_frame {st : Nat} : ∀ {x1 : List Nat} {x2 : State} {l : List Part} {b : State} (hm : ∀ p ∈ ([.rings] : List Part), p ∈ l) (h0 :
    SameBut l b x2), SameBut l b (completeAll st x1 x2) := by
  intro x1
  induction x1 with
  | nil => intro x2 l b _ h0; first | exact h0 | (unfold completeAll; exact h0)
  | cons y r ih =>
    intro x2 l b hm h0
    refine SameBut.step ?_ hm h0
    clear hm h0
    unfold completeAll
    repeat' (first
      | (with_reducible exact SameBut.refl)
      | (extract_lets +onlyGivenNames x)
      | ((with_reducible apply ih); (· decide))
      | ((with_reducible apply complete_frame); (· decide)))

theorem postPresence_frame {n : Nat} {kind : Nat} {serial : Nat} {s : State} {l : List Part} {b : State} (hm : ∀ p ∈ ([.rings] : List Part), p ∈ l)
    (h0 : SameBut l b s) : SameBut l b (postPresence n kind serial s) := by
  refine SameBut.step ?_ hm h0
  clear hm h0
  unfold postPresence
  repeat' (first
    | (with_reducible exact SameBut.refl)
    | ((with_reducible apply postEvent_frame); (· decide)))

theorem readCurve_frame {n : Nat} {s : State} {l : List Part} {b : State} (hm : ∀ p ∈ ([.outputs] : List Part), p ∈ l) (h0 : SameBut l b s) :
    SameBut l b (readCurve n s) := by
  refine SameBut.step ?_ hm h0
  clear hm h0
  unfold readCurve
  repeat' (first
    | (with_reducible exact SameBut.refl)
    | ((with_reducible apply SameBut.ite) <;> intro _)
    | (extract_lets +onlyGivenNames x)
    | ((with_reducible apply emit_frame); (· decide)))

theorem fencedWrite_frame {f : Nat} {s : State} {l : List Part} {b : State} (hm : ∀ p ∈ ([.strip, .faults] : List Part), p ∈ l) (h0 :
    SameBut l b s) : SameBut l b (fencedWrite f s) := by
  refine SameBut.step ?_ hm h0
  clear hm h0
  unfold fencedWrite
  repeat' (first
    | (with_reducible exact SameBut.refl)
    | ((with_reducible apply SameBut.ite) <;> intro _)
    | (extract_lets +onlyGivenNames x)
    | ((with_reducible apply raise_frame); (· decide))
    | ((with_reducible apply putFrond_frame); (· decide)))

theorem stopShift_frame {n : Nat} {s : State} {l : List Part} {b : State} (hm : ∀ p ∈ ([.strip] : List Part), p ∈ l) (h0 : SameBut l b s) :
    SameBut l b (stopShift n s) := by
  refine SameBut.step ?_ hm h0
  clear hm h0
  unfold stopShift
  repeat' (first
    | (with_reducible exact SameBut.refl)
    | (extract_lets +onlyGivenNames x)
    | ((with_reducible apply putFrond_frame); (· decide))
    | (split))

theorem setTevPin_frame {k : Nat} {b_ : Bool} {s : State} {l : List Part} {b : State} (hm : ∀ p ∈ ([.outputs, .time] : List Part), p ∈ l) (h0 :
    SameBut l b s) : SameBut l b (setTevPin k b_ s) := by
  refine SameBut.step ?_ hm h0
  clear hm h0
  unfold setTevPin
  repeat' (first
    | (with_reducible exact SameBut.refl)
    | ((with_reducible apply SameBut.ite) <;> intro _)
    | (extract_lets +onlyGivenNames x)
    | ((with_reducible apply emit_frame); (· decide))
    | ((with_reducible apply putTev_frame); (· decide)))

theorem remap_frame {d : Nat} {f : Dom → Dom} {s : State} {l : List Part} {b : State} (hm : ∀ p ∈ ([.time] : List Part), p ∈ l) (h0 :
    SameBut l b s) : SameBut l b (remap d f s) := by
  refine SameBut.step ?_ hm h0
  clear hm h0
  unfold remap
  repeat' (first
    | (with_reducible exact SameBut.refl)
    | (extract_lets +onlyGivenNames x)
    | ((with_reducible apply putDom_frame); (· decide)))

theorem judgeHoldover_frame {s : State} {l : List Part} {b : State} (hm : ∀ p ∈ ([.faults, .time] : List Part), p ∈ l) (h0 : SameBut l b s) :
    SameBut l b (judgeHoldover s) := by
  refine SameBut.step ?_ hm h0
  clear hm h0
  unfold judgeHoldover
  repeat' (first
    | (with_reducible exact SameBut.refl)
    | ((with_reducible apply SameBut.ite) <;> intro _)
    | (extract_lets +onlyGivenNames x)
    | ((with_reducible apply onTim_frame); (· decide))
    | ((with_reducible apply raise_frame); (· decide)))

theorem sendSwitch_frame {d : Nat} {id : Option Nat} {s : State} {l : List Part} {b : State} (hm : ∀ p ∈ ([.time] : List Part), p ∈ l) (h0 :
    SameBut l b s) : SameBut l b (sendSwitch d id s) := by
  refine SameBut.step ?_ hm h0
  clear hm h0
  unfold sendSwitch
  repeat' (first
    | (with_reducible exact SameBut.refl)
    | ((with_reducible apply onTim_frame); (· decide)))

theorem loadCal_frame {s : State} {l : List Part} {b : State} (hm : ∀ p ∈ ([.faults, .cal] : List Part), p ∈ l) (h0 : SameBut l b s) : SameBut l b
    (loadCal s) := by
  refine SameBut.step ?_ hm h0
  clear hm h0
  unfold loadCal
  repeat' (first
    | (with_reducible exact SameBut.refl)
    | (with_reducible assumption)
    | ((with_reducible apply SameBut.ite) <;> intro _)
    | (extract_lets +onlyGivenNames x;
          (first | ((refine SameBut.gen (x := x) ?_ ?_); rotate_left; (clear_value x; intro _); rotate_left; (subst x)) | (skip)))
    | ((with_reducible apply raiseSetBad_frame); (· decide))
    | ((with_reducible apply onCal_frame); (· decide))
    | ((with_reducible apply putDeltas_frame); (· decide))
    | ((with_reducible apply raise_frame); (· decide))
    | (split))

theorem retrim_frame : ∀ {x0 : Nat} {x1 : State} {l : List Part} {b : State} (hm : ∀ p ∈ ([.cmp, .cal] : List Part), p ∈ l) (h0 :
    SameBut l b x1), SameBut l b (retrim x0 x1) := by
  intro x0
  induction x0 with
  | zero => intro x1 l b _ h0; first | exact h0 | (unfold retrim; exact h0)
  | succ k ih =>
    intro x1 l b hm h0
    refine SameBut.step ?_ hm h0
    clear hm h0
    unfold retrim
    repeat' (first
      | (with_reducible exact SameBut.refl)
      | (with_reducible assumption)
      | (extract_lets +onlyGivenNames x; (refine SameBut.gen (x := x) ?_ ?_); rotate_left; (clear_value x; intro _); rotate_left; (subst x))
      | ((with_reducible apply ih); (· decide))
      | ((with_reducible apply setTrim_frame); (· decide)))

theorem endCalWaits_frame : ∀ {x0 : List CalWait} {x1 : State} {l : List Part} {b : State} (hm : ∀ p ∈ ([.rings, .cal] : List Part), p ∈ l) (h0 :
    SameBut l b x1), SameBut l b (endCalWaits x0 x1) := by
  intro x0
  induction x0 with
  | nil => intro x1 l b _ h0; first | exact h0 | (unfold endCalWaits; exact h0)
  | cons y r ih =>
    intro x1 l b hm h0
    refine SameBut.step ?_ hm h0
    clear hm h0
    unfold endCalWaits
    repeat' (first
      | (with_reducible exact SameBut.refl)
      | (extract_lets +onlyGivenNames x)
      | ((with_reducible apply ih); (· decide))
      | ((with_reducible apply endCalWait_frame); (· decide)))

theorem judgeRatios_frame {c : Nat} {single : Bool} {hi : Nat} {lo : Nat} {s : State} {l : List Part} {b : State} (hm : ∀ p ∈
    ([.freeCtr, .cmp, .faults, .cal] : List Part), p ∈ l) (h0 : SameBut l b s) : SameBut l b (judgeRatios c single hi lo s) := by
  refine SameBut.step ?_ hm h0
  clear hm h0
  unfold judgeRatios
  repeat' (first
    | (with_reducible exact SameBut.refl)
    | (with_reducible assumption)
    | ((with_reducible apply SameBut.ite) <;> intro _)
    | (extract_lets +onlyGivenNames x;
          (first | ((refine SameBut.gen (x := x) ?_ ?_); rotate_left; (clear_value x; intro _); rotate_left; (subst x)) | (skip)))
    | ((with_reducible apply calErr_frame); (· decide))
    | ((with_reducible apply putCal_frame); (· decide))
    | ((with_reducible apply calRange_frame); (· decide))
    | ((with_reducible apply setTrim_frame); (· decide)))

theorem countFreed_frame {f : PoolFrame} {s : State} {l : List Part} {b : State} (hm : ∀ p ∈ ([.chain] : List Part), p ∈ l) (h0 : SameBut l b s) :
    SameBut l b (countFreed f s) := by
  refine SameBut.step ?_ hm h0
  clear hm h0
  unfold countFreed
  repeat' (first
    | (with_reducible exact SameBut.refl)
    | ((with_reducible apply SameBut.ite) <;> intro _)
    | (extract_lets +onlyGivenNames x)
    | ((with_reducible apply putCred_frame); (· decide))
    | (split))

theorem enqueue_frame {p : Nat} {id : Nat} {s : State} {l : List Part} {b : State} (hm : ∀ p ∈ ([.chain] : List Part), p ∈ l) (h0 : SameBut l b s) :
    SameBut l b (enqueue p id s) := by
  refine SameBut.step ?_ hm h0
  clear hm h0
  unfold enqueue
  repeat' (first
    | (with_reducible exact SameBut.refl)
    | ((with_reducible apply updPort_frame); (· decide)))

theorem readParity_frame {f : PoolFrame} {s : State} {l : List Part} {b : State} (hm : ∀ p ∈ ([.rings, .faults] : List Part), p ∈ l) (h0 :
    SameBut l b s) : SameBut l b (readParity f s) := by
  refine SameBut.step ?_ hm h0
  clear hm h0
  unfold readParity
  repeat' (first
    | (with_reducible exact SameBut.refl)
    | ((with_reducible apply SameBut.ite) <;> intro _)
    | (extract_lets +onlyGivenNames x)
    | ((with_reducible apply takeInjs_frame); (· decide))
    | ((with_reducible apply raise_frame); (· decide))
    | ((with_reducible apply raiseInj_frame); (· decide)))

theorem txEnds_frame {f : PoolFrame} {p : Nat} {sent : Option Stamps} {s : State} {l : List Part} {b : State} (hm : ∀ p ∈
    ([.rings, .chain] : List Part), p ∈ l) (h0 : SameBut l b s) : SameBut l b (txEnds f p sent s) := by
  refine SameBut.step ?_ hm h0
  clear hm h0
  unfold txEnds
  repeat' (first
    | (with_reducible exact SameBut.refl)
    | (with_reducible assumption)
    | (extract_lets +onlyGivenNames x; (refine SameBut.gen (x := x) ?_ ?_); rotate_left; (clear_value x; intro _); rotate_left; (subst x))
    | ((with_reducible apply onChain_frame); (· decide))
    | ((with_reducible apply finishTx_frame); (· decide))
    | (split))

theorem pollFence_frame {gid : Nat} {i : Nat} {addr : Nat} {s : State} {l : List Part} {b : State} (hm : ∀ p ∈
    ([.outputs, .link] : List Part), p ∈ l) (h0 : SameBut l b s) : SameBut l b (pollFence gid i addr s) := by
  refine SameBut.step ?_ hm h0
  clear hm h0
  unfold pollFence
  repeat' (first
    | (with_reducible exact SameBut.refl)
    | ((with_reducible apply SameBut.ite) <;> intro _)
    | (extract_lets +onlyGivenNames x)
    | ((with_reducible apply startRead_frame); (· decide)))

theorem startLayer_frame {stack : List FLayer} {f : FLayer} {policy : Bool} {s : State} {l : List Part} {b : State} (hm : ∀ p ∈
    ([.outputs, .link, .cmp] : List Part), p ∈ l) (h0 : SameBut l b s) : SameBut l b (startLayer stack f policy s) := by
  refine SameBut.step ?_ hm h0
  clear hm h0
  unfold startLayer
  repeat' (first
    | (with_reducible exact SameBut.refl)
    | ((with_reducible apply SameBut.ite) <;> intro _)
    | (extract_lets +onlyGivenNames x)
    | ((with_reducible apply onCmp_frame); (· (intro _; first | rfl | (split <;> rfl) | ((repeat' split) <;> rfl))); (· decide))
    | ((with_reducible apply startRead_frame); (· decide)))

theorem releaseAll_frame : ∀ {x0 : List Group} {x1 : State} {l : List Part} {b : State} (hm : ∀ p ∈ ([.rings, .cmp, .frm] : List Part), p ∈ l)
    (h0 : SameBut l b x1), SameBut l b (releaseAll x0 x1) := by
  intro x0
  induction x0 with
  | nil => intro x1 l b _ h0; first | exact h0 | (unfold releaseAll; exact h0)
  | cons y r ih =>
    intro x1 l b hm h0
    refine SameBut.step ?_ hm h0
    clear hm h0
    unfold releaseAll
    repeat' (first
      | (with_reducible exact SameBut.refl)
      | ((with_reducible apply SameBut.ite) <;> intro _)
      | (extract_lets +onlyGivenNames x)
      | ((with_reducible apply ih); (· decide))
      | ((with_reducible apply releaseGroup_frame); (· decide)))

theorem clockConds_frame {s : State} {l : List Part} {b : State} (hm : ∀ p ∈ ([.faults] : List Part), p ∈ l) (h0 : SameBut l b s) : SameBut l b
    (clockConds s) := by
  refine SameBut.step ?_ hm h0
  clear hm h0
  unfold clockConds
  repeat' (first
    | (with_reducible exact SameBut.refl)
    | ((with_reducible apply SameBut.ite) <;> intro _)
    | (extract_lets +onlyGivenNames x)
    | ((with_reducible apply condOn_frame); (· decide)))

theorem checkGuards_frame {num : Int} : ∀ {x1 : List FLayer} {x2 : State} {l : List Part} {b : State} (hm : ∀ p ∈
    ([.rings, .cmp, .faults, .nvm] : List Part), p ∈ l) (h0 : SameBut l b x2), SameBut l b (checkGuards num x1 x2).2 := by
  intro x1
  induction x1 with
  | nil => intro x2 l b _ h0; first | exact h0 | (unfold checkGuards; exact h0)
  | cons y r ih =>
    intro x2 l b hm h0
    refine SameBut.step ?_ hm h0
    clear hm h0
    unfold checkGuards
    repeat' (first
      | (with_reducible exact SameBut.refl)
      | (with_reducible assumption)
      | ((with_reducible apply SameBut.ite) <;> intro _)
      | (extract_lets +onlyGivenNames x;
            (first | ((refine SameBut.gen (x := x) ?_ ?_); rotate_left; (clear_value x; intro _); rotate_left; (subst x)) | ((refine SameBut.gen2 (x := x) ?_ ?_); rotate_left; (clear_value x; intro _); rotate_left; (subst x)) | (skip)))
      | ((with_reducible apply ih); (· decide))
      | ((with_reducible apply takeInj_frame); (· decide))
      | ((with_reducible apply runGuard_frame); (· decide))
      | ((with_reducible apply onCmp_frame); (· (intro _; first | rfl | (split <;> rfl) | ((repeat' split) <;> rfl))); (· decide))
      | ((with_reducible apply raiseInj_frame); (· decide))
      | (split))

theorem probeEnds_frame : ∀ {x0 : Nat} {x1 : State} {l : List Part} {b : State} (hm : ∀ p ∈ ([.tiles] : List Part), p ∈ l) (h0 :
    SameBut l b x1), SameBut l b (probeEnds x0 x1) := by
  intro x0
  induction x0 with
  | zero => intro x1 l b _ h0; first | exact h0 | (unfold probeEnds; exact h0)
  | succ k ih =>
    intro x1 l b hm h0
    refine SameBut.step ?_ hm h0
    clear hm h0
    unfold probeEnds
    repeat' (first
      | (with_reducible exact SameBut.refl)
      | (extract_lets +onlyGivenNames x)
      | ((with_reducible apply ih); (· decide))
      | ((with_reducible apply updTile_frame); (· decide)))

theorem returnSync_frame {f : Nat} : ∀ {x1 : Nat} {x2 : State} {l : List Part} {b : State} (hm : ∀ p ∈ ([.tiles] : List Part), p ∈ l) (h0 :
    SameBut l b x2), SameBut l b (returnSync f x1 x2) := by
  intro x1
  induction x1 with
  | zero => intro x2 l b _ h0; first | exact h0 | (unfold returnSync; exact h0)
  | succ k ih =>
    intro x2 l b hm h0
    refine SameBut.step ?_ hm h0
    clear hm h0
    unfold returnSync
    repeat' (first
      | (with_reducible exact SameBut.refl)
      | (extract_lets +onlyGivenNames x)
      | ((with_reducible apply ih); (· decide))
      | ((with_reducible apply updTile_frame); (· decide)))

theorem tokenMissed_frame {f : Nat} {inj : Bool} {s : State} {l : List Part} {b : State} (hm : ∀ p ∈ ([.strip, .faults] : List Part), p ∈ l) (h0 :
    SameBut l b s) : SameBut l b (tokenMissed f inj s) := by
  refine SameBut.step ?_ hm h0
  clear hm h0
  unfold tokenMissed
  repeat' (first
    | (with_reducible exact SameBut.refl)
    | (extract_lets +onlyGivenNames x)
    | ((with_reducible apply raiseInj_frame); (· decide))
    | ((with_reducible apply putFrond_frame); (· decide)))

theorem suspect_frame {f : Nat} {k : Nat} {pulseSeen : Bool} {s : State} {l : List Part} {b : State} (hm : ∀ p ∈
    ([.outputs, .strip, .tiles] : List Part), p ∈ l) (h0 : SameBut l b s) : SameBut l b (suspect f k pulseSeen s) := by
  refine SameBut.step ?_ hm h0
  clear hm h0
  unfold suspect
  repeat' (first
    | (with_reducible exact SameBut.refl)
    | (with_reducible assumption)
    | ((with_reducible apply SameBut.ite) <;> intro _)
    | (extract_lets +onlyGivenNames x;
          (first | ((refine SameBut.gen (x := x) ?_ ?_); rotate_left; (clear_value x; intro _); rotate_left; (subst x)) | (skip)))
    | ((with_reducible apply putFrond_frame); (· decide))
    | ((with_reducible apply updTile_frame); (· decide))
    | ((with_reducible apply startSlice_frame); (· decide))
    | (split))

theorem tokenSeen_frame {f : Nat} {s : State} {l : List Part} {b : State} (hm : ∀ p ∈ ([.strip, .tiles] : List Part), p ∈ l) (h0 : SameBut l b s) :
    SameBut l b (tokenSeen f s) := by
  refine SameBut.step ?_ hm h0
  clear hm h0
  unfold tokenSeen
  repeat' (first
    | (with_reducible exact SameBut.refl)
    | (with_reducible assumption)
    | (extract_lets +onlyGivenNames x;
          (first | ((refine SameBut.gen (x := x) ?_ ?_); rotate_left; (clear_value x; intro _); rotate_left; (subst x)) | (skip)))
    | ((with_reducible apply putFrond_frame); (· decide))
    | ((with_reducible apply updTile_frame); (· decide))
    | (split))

theorem latePulse_frame {n : Nat} {s : State} {l : List Part} {b : State} (hm : ∀ p ∈ ([.outputs, .tiles] : List Part), p ∈ l) (h0 :
    SameBut l b s) : SameBut l b (latePulse n s) := by
  refine SameBut.step ?_ hm h0
  clear hm h0
  unfold latePulse
  repeat' (first
    | (with_reducible exact SameBut.refl)
    | ((with_reducible apply SameBut.ite) <;> intro _)
    | (extract_lets +onlyGivenNames x)
    | ((with_reducible apply startSlice_frame); (· decide)))

end Sys2Proof.Machine
end

