-- ==== Sys2Proof/Laws/FramesC.lean ====
section
/-! SUPPORT. The frame of each shared operation: which parts of the state it may change (logEntry to applySaveds, in the order in
which the operations build on each other). -/

set_option autoImplicit false

-- One declaration after the other, without the linters of the library: many small theorems.
set_option Elab.async false
set_option linter.all false

namespace Sys2Proof.Machine

theorem logEntry_frame {kind : Nat} {word : Nat} {s : State} {l : List Part} {b : State} (hm : ∀ p ∈ ([.faults] : List Part), p ∈ l) (h0 :
    SameBut l b s) : SameBut l b (logEntry kind word s) := by
  refine SameBut.step ?_ hm h0
  clear hm h0
  unfold logEntry
  repeat' (first
    | (with_reducible exact SameBut.refl)
    | ((with_reducible apply SameBut.ite) <;> intro _)
    | (extract_lets +onlyGivenNames x)
    | ((with_reducible apply onFlt_frame); (· (intro _; first | rfl | (split <;> rfl) | ((repeat' split) <;> rfl))); (· decide))
    | ((with_reducible apply condOn_frame); (· decide)))

theorem faultIrq_frame {s : State} {l : List Part} {b : State} (hm : ∀ p ∈ ([.outputs, .link, .faults] : List Part), p ∈ l) (h0 : SameBut l b s) :
    SameBut l b (faultIrq s) := by
  refine SameBut.step ?_ hm h0
  clear hm h0
  unfold faultIrq
  repeat' (first
    | (with_reducible exact SameBut.refl)
    | ((with_reducible apply SameBut.ite) <;> intro _)
    | (extract_lets +onlyGivenNames x)
    | ((with_reducible apply signal_frame); (· decide))
    | ((with_reducible apply onFlt_frame); (· (intro _; first | rfl | (split <;> rfl) | ((repeat' split) <;> rfl))); (· decide)))

theorem hello_frame {p : Nat} {origin : Nat} {pay : List Byte} {s : State} {l : List Part} {b : State} (hm : ∀ p ∈ ([.chain] : List Part), p ∈ l)
    (h0 : SameBut l b s) : SameBut l b (hello p origin pay s) := by
  refine SameBut.step ?_ hm h0
  clear hm h0
  unfold hello
  repeat' (first
    | (with_reducible exact SameBut.refl)
    | ((with_reducible apply updPort_frame); (· decide)))

theorem losePending_frame {n : Nat} {bad : List Nat} {s : State} {l : List Part} {b : State} (hm : ∀ p ∈
    ([.freeCtr, .tiles, .journal] : List Part), p ∈ l) (h0 : SameBut l b s) : SameBut l b (losePending n bad s) := by
  refine SameBut.step ?_ hm h0
  clear hm h0
  unfold losePending
  repeat' (first
    | (with_reducible exact SameBut.refl)
    | (with_reducible assumption)
    | (extract_lets +onlyGivenNames x;
          (first | ((refine SameBut.gen2 (x := x) ?_ ?_); rotate_left; (clear_value x; intro _); rotate_left; (subst x)) | (skip)))
    | ((with_reducible apply loseRetained_frame); (· decide))
    | ((with_reducible apply poisonBlocks_frame); (· decide))
    | ((with_reducible apply putTile_frame); (· decide)))

theorem requestCommits_frame {m : Nat} : ∀ {x1 : Nat} {x2 : State} {l : List Part} {b : State} (hm : ∀ p ∈ ([.tiles] : List Part), p ∈ l) (h0 :
    SameBut l b x2), SameBut l b (requestCommits m x1 x2).1 := by
  intro x1
  induction x1 with
  | zero => intro x2 l b _ h0; first | exact h0 | (unfold requestCommits; exact h0)
  | succ k ih =>
    intro x2 l b hm h0
    refine SameBut.step ?_ hm h0
    clear hm h0
    unfold requestCommits
    repeat' (first
      | (with_reducible exact SameBut.refl)
      | (with_reducible assumption)
      | (extract_lets +onlyGivenNames x; (refine SameBut.gen1 (x := x) ?_ ?_); rotate_left; (clear_value x; intro _); rotate_left; (subst x))
      | ((with_reducible apply ih); (· decide))
      | ((with_reducible apply updTile_frame); (· decide))
      | (split))

theorem applyShutdown_frame {s : State} {l : List Part} {b : State} (hm : ∀ p ∈ ([.freeCtr, .rings, .journal, .faults, .nvm] : List Part), p ∈ l)
    (h0 : SameBut l b s) : SameBut l b (applyShutdown s) := by
  refine SameBut.step ?_ hm h0
  clear hm h0
  unfold applyShutdown
  repeat' (first
    | (with_reducible exact SameBut.refl)
    | (with_reducible assumption)
    | ((with_reducible apply SameBut.ite) <;> intro _)
    | (extract_lets +onlyGivenNames x;
          (first | ((refine SameBut.gen (x := x) ?_ ?_); rotate_left; (clear_value x; intro _); rotate_left; (subst x)) | (skip)))
    | ((with_reducible apply SameBut.upd); (· with_reducible exact rfl);
          (· ((fail_if_success (with_reducible exact Or.inl rfl)); exact Or.inr trivial));
          (· (intro p hp; cases p <;> first | rfl | exact ⟨rfl, rfl⟩ | exact ⟨rfl, rfl, rfl⟩ | exact absurd (by decide) hp)))
    | ((with_reducible apply onNvm_frame); (· (intro _; first | rfl | (split <;> rfl) | ((repeat' split) <;> rfl)));
          (· (intro _; first | rfl | (split <;> rfl) | ((repeat' split) <;> rfl))); (· decide))
    | ((with_reducible apply thermEvent_frame); (· decide))
    | ((with_reducible apply raise_frame); (· decide))
    | (split))

theorem refuseAll_frame : ∀ {x0 : List Rec} {x1 : State} {l : List Part} {b : State} (hm : ∀ p ∈
    ([.rings, .safety, .cal, .nvm] : List Part), p ∈ l) (h0 : SameBut l b x1), SameBut l b (refuseAll x0 x1) := by
  intro x0
  induction x0 with
  | nil => intro x1 l b _ h0; first | exact h0 | (unfold refuseAll; exact h0)
  | cons y r ih =>
    intro x1 l b hm h0
    refine SameBut.step ?_ hm h0
    clear hm h0
    unfold refuseAll
    repeat' (first
      | (with_reducible exact SameBut.refl)
      | (extract_lets +onlyGivenNames x)
      | ((with_reducible apply ih); (· decide))
      | ((with_reducible apply refuseRec_frame); (· decide)))

theorem startSave_frame {s : State} {l : List Part} {b : State} (hm : ∀ p ∈ ([.power, .strip, .tiles, .journal, .nvm] : List Part), p ∈ l) (h0 :
    SameBut l b s) : SameBut l b (startSave s) := by
  refine SameBut.step ?_ hm h0
  clear hm h0
  unfold startSave
  repeat' (first
    | (with_reducible exact SameBut.refl)
    | ((with_reducible apply SameBut.ite) <;> intro _)
    | (extract_lets +onlyGivenNames x)
    | ((with_reducible apply SameBut.upd); (· with_reducible exact rfl);
          (· ((fail_if_success (with_reducible exact Or.inl rfl)); exact Or.inr trivial));
          (· (intro p hp; cases p <;> first | rfl | exact ⟨rfl, rfl⟩ | exact ⟨rfl, rfl, rfl⟩ | exact absurd (by decide) hp)))
    | ((with_reducible apply urgentRecs_frame); (· decide))
    | ((with_reducible apply stopFronds_frame); (· decide)))

theorem readNvmWords_frame {words : Nat} {s : State} {l : List Part} {b : State} (hm : ∀ p ∈ ([.rings, .faults] : List Part), p ∈ l) (h0 :
    SameBut l b s) : SameBut l b (readNvmWords words s) := by
  refine SameBut.step ?_ hm h0
  clear hm h0
  unfold readNvmWords
  repeat' (first
    | (with_reducible exact SameBut.refl)
    | ((with_reducible apply SameBut.ite) <;> intro _)
    | (extract_lets +onlyGivenNames x)
    | ((with_reducible apply takeInjs_frame); (· decide))
    | ((with_reducible apply raiseInj_frame); (· decide)))

theorem eccCorrected_frame {n : Nat} {s : State} {l : List Part} {b : State} (hm : ∀ p ∈ ([.faults] : List Part), p ∈ l) (h0 : SameBut l b s) :
    SameBut l b (eccCorrected n s) := by
  refine SameBut.step ?_ hm h0
  clear hm h0
  unfold eccCorrected
  repeat' (first
    | (with_reducible exact SameBut.refl)
    | (extract_lets +onlyGivenNames x)
    | ((with_reducible apply SameBut.upd); (· with_reducible exact rfl);
          (· ((fail_if_success (with_reducible exact Or.inl rfl)); exact Or.inr trivial));
          (· (intro p hp; cases p <;> first | rfl | exact ⟨rfl, rfl⟩ | exact ⟨rfl, rfl, rfl⟩ | exact absurd (by decide) hp)))
    | ((with_reducible apply raiseN_frame); (· decide)))

theorem eccUncorrected_frame {words bad : Nat} {s : State} {l : List Part} {b : State}
    (hm : ∀ p ∈ ([.rings, .faults] : List Part), p ∈ l) (h0 :
    SameBut l b s) : SameBut l b (eccUncorrected words bad s) := by
  refine SameBut.step ?_ hm h0
  have upd : ∀ (v : Nat) (t : State), SameBut [.rings, .faults] s t →
      SameBut [.rings, .faults] s { t with faults := { t.faults with eccUncorr := v } } := fun v t ht =>
    SameBut.step (m := [.faults]) (t := t) ⟨rfl, fun p hl => by
      cases p <;> first | rfl | exact ⟨rfl, rfl, rfl⟩ | exact ⟨rfl, rfl⟩ | exact absurd (by decide) hl⟩ (by decide) ht
  have base := raiseN_frame (n := bad) (slot := 500) (l := [.rings, .faults]) (by decide)
    (upd (min 65535 ((takeInjs 500 1 words s).2.faults.eccUncorr + bad + (takeInjs 500 1 words s).1)) _
      (takeInjs_frame (slot := 500) (checker := 1) (words := words) (by decide) (SameBut.refl (s := s))))
  unfold eccUncorrected
  dsimp only
  split
  · exact base
  · exact raiseInj_frame (by decide) base

theorem sendOsN_frame {p : Nat} {kind : Nat} {fields : Nat} : ∀ {x3 : Nat} {x4 : State} {l : List Part} {b : State} (hm : ∀ p ∈
    ([.outputs] : List Part), p ∈ l) (h0 : SameBut l b x4), SameBut l b (sendOsN p kind fields x3 x4) := by
  intro x3
  induction x3 with
  | zero => intro x4 l b _ h0; first | exact h0 | (unfold sendOsN; exact h0)
  | succ k ih =>
    intro x4 l b hm h0
    refine SameBut.step ?_ hm h0
    clear hm h0
    unfold sendOsN
    repeat' (first
      | (with_reducible exact SameBut.refl)
      | (extract_lets +onlyGivenNames x)
      | ((with_reducible apply ih); (· decide))
      | ((with_reducible apply sendOs_frame); (· decide)))

theorem enterLock_frame {p : Nat} {s : State} {l : List Part} {b : State} (hm : ∀ p ∈ ([.chain] : List Part), p ∈ l) (h0 : SameBut l b s) :
    SameBut l b (enterLock p s) := by
  refine SameBut.step ?_ hm h0
  clear hm h0
  unfold enterLock
  repeat' (first
    | (with_reducible exact SameBut.refl)
    | ((with_reducible apply updPort_frame); (· decide)))

theorem storePortCtrl_frame {p : Nat} {v : Nat} {s : State} {l : List Part} {b : State} (hm : ∀ p ∈ ([.chain] : List Part), p ∈ l) (h0 :
    SameBut l b s) : SameBut l b (storePortCtrl p v s) := by
  refine SameBut.step ?_ hm h0
  clear hm h0
  unfold storePortCtrl
  repeat' (first
    | (with_reducible exact SameBut.refl)
    | ((with_reducible apply updPort_frame); (· decide)))

theorem giveUpStep_frame {p : Nat} {s : State} {l : List Part} {b : State} (hm : ∀ p ∈ ([.chain] : List Part), p ∈ l) (h0 : SameBut l b s) :
    SameBut l b (giveUpStep p s) := by
  refine SameBut.step ?_ hm h0
  clear hm h0
  unfold giveUpStep
  repeat' (first
    | (with_reducible exact SameBut.refl)
    | ((with_reducible apply updPort_frame); (· decide)))

theorem sendInits_frame {p : Nat} : ∀ {x1 : Nat} {x2 : State} {l : List Part} {b : State} (hm : ∀ p ∈ ([.outputs] : List Part), p ∈ l) (h0 :
    SameBut l b x2), SameBut l b (sendInits p x1 x2) := by
  intro x1
  induction x1 with
  | zero => intro x2 l b _ h0; first | exact h0 | (unfold sendInits; exact h0)
  | succ k ih =>
    intro x2 l b hm h0
    refine SameBut.step ?_ hm h0
    clear hm h0
    unfold sendInits
    repeat' (first
      | (with_reducible exact SameBut.refl)
      | (with_reducible assumption)
      | (extract_lets +onlyGivenNames x; (refine SameBut.gen (x := x) ?_ ?_); rotate_left; (clear_value x; intro _); rotate_left; (subst x))
      | ((with_reducible apply ih); (· decide))
      | ((with_reducible apply sendOs_frame); (· decide)))

theorem sendCredits_frame {p : Nat} : ∀ {x1 : Nat} {x2 : State} {l : List Part} {b : State} (hm : ∀ p ∈ ([.outputs] : List Part), p ∈ l) (h0 :
    SameBut l b x2), SameBut l b (sendCredits p x1 x2) := by
  intro x1
  induction x1 with
  | zero => intro x2 l b _ h0; first | exact h0 | (unfold sendCredits; exact h0)
  | succ k ih =>
    intro x2 l b hm h0
    refine SameBut.step ?_ hm h0
    clear hm h0
    unfold sendCredits
    repeat' (first
      | (with_reducible exact SameBut.refl)
      | (with_reducible assumption)
      | (extract_lets +onlyGivenNames x; (refine SameBut.gen (x := x) ?_ ?_); rotate_left; (clear_value x; intro _); rotate_left; (subst x))
      | ((with_reducible apply ih); (· decide))
      | ((with_reducible apply sendOs_frame); (· decide)))

theorem failItems_frame : ∀ {x0 : List ReadItem} {x1 : State} {l : List Part} {b : State} (hm : ∀ p ∈
    ([.link, .rings, .cmp, .faults] : List Part), p ∈ l) (h0 : SameBut l b x1), SameBut l b (failItems x0 x1) := by
  intro x0
  induction x0 with
  | nil => intro x1 l b _ h0; first | exact h0 | (unfold failItems; exact h0)
  | cons y r ih =>
    intro x1 l b hm h0
    refine SameBut.step ?_ hm h0
    clear hm h0
    unfold failItems
    repeat' (first
      | (with_reducible exact SameBut.refl)
      | (extract_lets +onlyGivenNames x)
      | ((with_reducible apply ih); (· decide))
      | ((with_reducible apply failItem_frame); (· decide)))

theorem finishTable_frame {id : Nat} {data : List Byte} {s : State} {l : List Part} {b : State} (hm : ∀ p ∈ ([.rings, .faults] : List Part), p ∈ l)
    (h0 : SameBut l b s) : SameBut l b (finishTable id data s) := by
  refine SameBut.step ?_ hm h0
  clear hm h0
  unfold finishTable
  repeat' (first
    | (with_reducible exact SameBut.refl)
    | ((with_reducible apply SameBut.ite) <;> intro _)
    | (extract_lets +onlyGivenNames x)
    | ((with_reducible apply complete_frame); (· decide))
    | ((with_reducible apply passChecks_frame); (· decide))
    | ((with_reducible apply updDesc_frame); (· decide))
    | (split))

theorem consume1_frame {n : Nat} {b_ : List Byte} {s : State} {l : List Part} {b : State} (hm : ∀ p ∈
    ([.outputs, .link, .rings, .faults] : List Part), p ∈ l) (h0 : SameBut l b s) : SameBut l b (consume1 n b_ s) := by
  refine SameBut.step ?_ hm h0
  clear hm h0
  unfold consume1
  repeat' (first
    | (with_reducible exact SameBut.refl)
    | ((with_reducible apply SameBut.ite) <;> intro _)
    | (extract_lets +onlyGivenNames x)
    | ((with_reducible apply SameBut.upd); (· with_reducible exact rfl);
          (· ((fail_if_success (with_reducible exact Or.inl rfl)); exact Or.inr trivial));
          (· (intro p hp; cases p <;> first | rfl | exact ⟨rfl, rfl⟩ | exact ⟨rfl, rfl, rfl⟩ | exact absurd (by decide) hp)))
    | ((with_reducible apply putSq_frame); (· decide))
    | ((with_reducible apply complete_frame); (· decide))
    | ((with_reducible apply startRead_frame); (· decide))
    | ((with_reducible apply passChecks_frame); (· decide)))

theorem postEntry_frame {n : Nat} {head : List Byte} {irq : Bool} {evt : Bool} {lost : Bool} {s : State} {l : List Part} {b : State} (hm : ∀ p ∈
    ([.outputs, .link, .rings] : List Part), p ∈ l) (h0 : SameBut l b s) : SameBut l b (postEntry n head irq evt lost s) := by
  refine SameBut.step ?_ hm h0
  clear hm h0
  unfold postEntry
  repeat' (first
    | (with_reducible exact SameBut.refl)
    | ((with_reducible apply SameBut.ite) <;> intro _)
    | (extract_lets +onlyGivenNames x)
    | ((with_reducible apply hostWrite_frame); (· decide))
    | ((with_reducible apply putCq_frame); (· decide))
    | ((with_reducible apply signal_frame); (· decide)))

theorem loseEvent_frame {s : State} {l : List Part} {b : State} (hm : ∀ p ∈ ([.rings, .faults] : List Part), p ∈ l) (h0 : SameBut l b s) :
    SameBut l b (loseEvent s) := by
  refine SameBut.step ?_ hm h0
  clear hm h0
  unfold loseEvent
  repeat' (first
    | (with_reducible exact SameBut.refl)
    | (extract_lets +onlyGivenNames x)
    | ((with_reducible apply SameBut.upd); (· with_reducible exact rfl);
          (· ((fail_if_success (with_reducible exact Or.inl rfl)); exact Or.inr trivial));
          (· (intro p hp; cases p <;> first | rfl | exact ⟨rfl, rfl⟩ | exact ⟨rfl, rfl, rfl⟩ | exact absurd (by decide) hp)))
    | ((with_reducible apply condOn_frame); (· decide)))

theorem flushAll_frame : ∀ {x0 : List Desc} {x1 : State} {l : List Part} {b : State} (hm : ∀ p ∈ ([.rings, .chain] : List Part), p ∈ l) (h0 :
    SameBut l b x1), SameBut l b (flushAll x0 x1) := by
  intro x0
  induction x0 with
  | nil => intro x1 l b _ h0; first | exact h0 | (unfold flushAll; exact h0)
  | cons y r ih =>
    intro x1 l b hm h0
    refine SameBut.step ?_ hm h0
    clear hm h0
    unfold flushAll
    repeat' (first
      | (with_reducible exact SameBut.refl)
      | (extract_lets +onlyGivenNames x)
      | ((with_reducible apply ih); (· decide))
      | ((with_reducible apply flushOne_frame); (· decide)))

theorem storeIrqEn_frame {n : Nat} {v : Nat} {s : State} {l : List Part} {b : State} (hm : ∀ p ∈ ([.outputs, .link, .rings] : List Part), p ∈ l)
    (h0 : SameBut l b s) : SameBut l b (storeIrqEn n v s) := by
  refine SameBut.step ?_ hm h0
  clear hm h0
  unfold storeIrqEn
  repeat' (first
    | (with_reducible exact SameBut.refl)
    | ((with_reducible apply SameBut.ite) <;> intro _)
    | (extract_lets +onlyGivenNames x)
    | ((with_reducible apply putCq_frame); (· decide))
    | ((with_reducible apply signal_frame); (· decide)))

theorem supplyGone_frame : ∀ {x0 : Nat} {x1 : State} {l : List Part} {b : State} (hm : ∀ p ∈ ([.strip, .tiles] : List Part), p ∈ l) (h0 :
    SameBut l b x1), SameBut l b (supplyGone x0 x1) := by
  intro x0
  induction x0 with
  | zero => intro x1 l b _ h0; first | exact h0 | (unfold supplyGone; exact h0)
  | succ k ih =>
    intro x1 l b hm h0
    refine SameBut.step ?_ hm h0
    clear hm h0
    unfold supplyGone
    repeat' (first
      | (with_reducible exact SameBut.refl)
      | (extract_lets +onlyGivenNames x)
      | ((with_reducible apply ih); (· decide))
      | ((with_reducible apply cancelRepay_frame); (· decide))
      | ((with_reducible apply lightEnds_frame); (· decide)))

theorem demandBegins_frame {p : Pair} {s : State} {l : List Part} {b : State} (hm : ∀ p ∈ ([.safety, .faults] : List Part), p ∈ l) (h0 :
    SameBut l b s) : SameBut l b (demandBegins p s) := by
  refine SameBut.step ?_ hm h0
  clear hm h0
  unfold demandBegins
  repeat' (first
    | (with_reducible exact SameBut.refl)
    | ((with_reducible apply SameBut.ite) <;> intro _)
    | (extract_lets +onlyGivenNames x)
    | ((with_reducible apply condOn_frame); (· decide))
    | ((with_reducible apply onSaf_frame); (· (intro _; first | rfl | (split <;> rfl) | ((repeat' split) <;> rfl)));
          (· (intro _; first | rfl | (split <;> rfl) | ((repeat' split) <;> rfl)));
          (· (intro _; first | rfl | (split <;> rfl) | ((repeat' split) <;> rfl)));
          (· (intro _; first | rfl | (split <;> rfl) | ((repeat' split) <;> rfl)));
          (· (intro _; first | rfl | (split <;> rfl) | ((repeat' split) <;> rfl))); (· decide)))

theorem readback_frame {f : Nat} {n : Nat} {i : Nat} {x : ShiftRec} {r : StripRet} {s : State} {l : List Part} {b : State} (hm : ∀ p ∈
    ([.rings, .strip, .faults] : List Part), p ∈ l) (h0 : SameBut l b s) : SameBut l b (readback f n i x r s) := by
  refine SameBut.step ?_ hm h0
  clear hm h0
  unfold readback
  repeat' (first
    | (with_reducible exact SameBut.refl)
    | ((with_reducible apply SameBut.ite) <;> intro _)
    | (extract_lets +onlyGivenNames x)
    | ((with_reducible apply takeInj_frame); (· decide))
    | ((with_reducible apply putStrip_frame); (· decide))
    | ((with_reducible apply raiseInj_frame); (· decide))
    | ((with_reducible apply putFrond_frame); (· decide))
    | (split))

theorem pinShorts_frame {bad : List Nat} : ∀ {x1 : List Nat} {x2 : State} {l : List Part} {b : State} (hm : ∀ p ∈
    ([.strip, .faults] : List Part), p ∈ l) (h0 : SameBut l b x2), SameBut l b (pinShorts bad x1 x2) := by
  intro x1
  induction x1 with
  | nil => intro x2 l b _ h0; first | exact h0 | (unfold pinShorts; exact h0)
  | cons y r ih =>
    intro x2 l b hm h0
    refine SameBut.step ?_ hm h0
    clear hm h0
    unfold pinShorts
    repeat' (first
      | (with_reducible exact SameBut.refl)
      | (with_reducible assumption)
      | ((with_reducible apply SameBut.ite) <;> intro _)
      | (extract_lets +onlyGivenNames x;
            (first | ((refine SameBut.gen (x := x) ?_ ?_); rotate_left; (clear_value x; intro _); rotate_left; (subst x)) | (skip)))
      | ((with_reducible apply ih); (· decide))
      | ((with_reducible apply pinShort_frame); (· decide)))

theorem srefTest_frame {n : Nat} {moved : List Nat} {s : State} {l : List Part} {b : State} (hm : ∀ p ∈ ([.strip, .faults] : List Part), p ∈ l)
    (h0 : SameBut l b s) : SameBut l b (srefTest n moved s) := by
  refine SameBut.step ?_ hm h0
  clear hm h0
  unfold srefTest
  repeat' (first
    | (with_reducible exact SameBut.refl)
    | ((with_reducible apply SameBut.ite) <;> intro _)
    | (extract_lets +onlyGivenNames x)
    | ((with_reducible apply SameBut.upd); (· with_reducible exact rfl);
          (· ((fail_if_success (with_reducible exact Or.inl rfl)); exact Or.inr trivial));
          (· (intro p hp; cases p <;> first | rfl | exact ⟨rfl, rfl⟩ | exact ⟨rfl, rfl, rfl⟩ | exact absurd (by decide) hp)))
    | ((with_reducible apply pinShort_frame); (· decide)))

theorem telemetry_frame {n : Nat} : ∀ {x1 : List (Nat × Nat × Nat)} {x2 : State} {l : List Part} {b : State} (hm : ∀ p ∈
    ([.strip, .faults] : List Part), p ∈ l) (h0 : SameBut l b x2), SameBut l b (telemetry n x1 x2) := by
  intro x1
  induction x1 with
  | nil => intro x2 l b _ h0; first | exact h0 | (unfold telemetry; exact h0)
  | cons y r ih =>
    intro x2 l b hm h0
    refine SameBut.step ?_ hm h0
    clear hm h0
    obtain ⟨y0, y1, y2⟩ := y
    unfold telemetry
    repeat' (first
      | (with_reducible exact SameBut.refl)
      | ((with_reducible apply SameBut.ite) <;> intro _)
      | (extract_lets +onlyGivenNames x)
      | ((with_reducible apply ih); (· decide))
      | ((with_reducible apply strip1_frame); (· decide)))

theorem markItems_frame {m : Nat} {s : State} {l : List Part} {b : State} (hm : ∀ p ∈ ([.strip] : List Part), p ∈ l) (h0 : SameBut l b s) :
    SameBut l b (markItems m s) := by
  refine SameBut.step ?_ hm h0
  clear hm h0
  unfold markItems
  repeat' (first
    | (with_reducible exact SameBut.refl)
    | ((with_reducible apply markItemsN_frame); (· decide)))

theorem setStrips_frame {item : Nat} {v : Nat} : ∀ {x2 : List Nat} {x3 : State} {l : List Part} {b : State} (hm : ∀ p ∈
    ([.strip] : List Part), p ∈ l) (h0 : SameBut l b x3), SameBut l b (setStrips item v x2 x3) := by
  intro x2
  induction x2 with
  | nil => intro x3 l b _ h0; first | exact h0 | (unfold setStrips; exact h0)
  | cons y r ih =>
    intro x3 l b hm h0
    refine SameBut.step ?_ hm h0
    clear hm h0
    unfold setStrips
    repeat' (first
      | (with_reducible exact SameBut.refl)
      | (extract_lets +onlyGivenNames x)
      | ((with_reducible apply ih); (· decide))
      | ((with_reducible apply setStripItem_frame); (· decide)))

theorem stripAnalogDone_frame {s : State} {l : List Part} {b : State} (hm : ∀ p ∈ ([.rings, .strip] : List Part), p ∈ l) (h0 : SameBut l b s) :
    SameBut l b (stripAnalogDone s) := by
  refine SameBut.step ?_ hm h0
  clear hm h0
  unfold stripAnalogDone
  repeat' (first
    | (with_reducible exact SameBut.refl)
    | (extract_lets +onlyGivenNames x)
    | ((with_reducible apply SameBut.upd); (· with_reducible exact rfl);
          (· ((fail_if_success (with_reducible exact Or.inl rfl)); exact Or.inr trivial));
          (· (intro p hp; cases p <;> first | rfl | exact ⟨rfl, rfl⟩ | exact ⟨rfl, rfl, rfl⟩ | exact absurd (by decide) hp)))
    | ((with_reducible apply finishStrips_frame); (· decide)))

theorem atSlice_frame {k : Nat} {after : Int} {s : State} {l : List Part} {b : State} (hm : ∀ p ∈ ([.time] : List Part), p ∈ l) (h0 :
    SameBut l b s) : SameBut l b (atSlice k after s) := by
  refine SameBut.step ?_ hm h0
  clear hm h0
  unfold atSlice
  repeat' (first
    | (with_reducible exact SameBut.refl)
    | ((with_reducible apply SameBut.ite) <;> intro _)
    | (extract_lets +onlyGivenNames x)
    | ((with_reducible apply advanceTo_frame); (· decide)))

theorem darken_frame {n : Nat} {s : State} {l : List Part} {b : State} (hm : ∀ p ∈ ([.strip, .tiles] : List Part), p ∈ l) (h0 : SameBut l b s) :
    SameBut l b (darken n s) := by
  refine SameBut.step ?_ hm h0
  clear hm h0
  unfold darken
  repeat' (first
    | (with_reducible exact SameBut.refl)
    | (with_reducible assumption)
    | (extract_lets +onlyGivenNames x;
          (first | ((refine SameBut.gen (x := x) ?_ ?_); rotate_left; (clear_value x; intro _); rotate_left; (subst x)) | (skip)))
    | ((with_reducible apply cancelRepay_frame); (· decide))
    | ((with_reducible apply lightEnds_frame); (· decide))
    | ((with_reducible apply putTile_frame); (· decide)))

theorem riseTo_frame {d : Nat} {l_ : Nat} {i : Nat} {s : State} {l : List Part} {b : State} (hm : ∀ p ∈
    ([.freeCtr, .rings, .faults, .therm] : List Part), p ∈ l) (h0 : SameBut l b s) : SameBut l b (riseTo d l_ i s) := by
  refine SameBut.step ?_ hm h0
  clear hm h0
  unfold riseTo
  repeat' (first
    | (with_reducible exact SameBut.refl)
    | ((with_reducible apply SameBut.ite) <;> intro _)
    | (extract_lets +onlyGivenNames x)
    | ((with_reducible apply thermEvent_frame); (· decide))
    | ((with_reducible apply raise_frame); (· decide))
    | ((with_reducible apply putDomain_frame); (· decide)))

theorem freezeDomains_frame {i : Nat} : ∀ {x1 : List Nat} {x2 : State} {l : List Part} {b : State} (hm : ∀ p ∈
    ([.freeCtr, .rings, .faults, .therm] : List Part), p ∈ l) (h0 : SameBut l b x2), SameBut l b (freezeDomains i x1 x2) := by
  intro x1
  induction x1 with
  | nil => intro x2 l b _ h0; first | exact h0 | (unfold freezeDomains; exact h0)
  | cons y r ih =>
    intro x2 l b hm h0
    refine SameBut.step ?_ hm h0
    clear hm h0
    unfold freezeDomains
    repeat' (first
      | (with_reducible exact SameBut.refl)
      | (with_reducible assumption)
      | (extract_lets +onlyGivenNames x;
            (first | ((refine SameBut.gen (x := x) ?_ ?_); rotate_left; (clear_value x; intro _); rotate_left; (subst x)) | (skip)))
      | ((with_reducible apply ih); (· decide))
      | ((with_reducible apply raise_frame); (· decide))
      | ((with_reducible apply putDomain_frame); (· decide))
      | ((with_reducible apply thermEvent_frame); (· decide))
      | ((with_reducible apply updSensor_frame); (· decide)))

theorem returnSensor_frame {i : Nat} {s : State} {l : List Part} {b : State} (hm : ∀ p ∈ ([.freeCtr, .rings, .therm] : List Part), p ∈ l) (h0 :
    SameBut l b s) : SameBut l b (returnSensor i s) := by
  refine SameBut.step ?_ hm h0
  clear hm h0
  unfold returnSensor
  repeat' (first
    | (with_reducible exact SameBut.refl)
    | (with_reducible assumption)
    | (extract_lets +onlyGivenNames x;
          (first | ((refine SameBut.gen (x := x) ?_ ?_); rotate_left; (clear_value x; intro _); rotate_left; (subst x)) | (skip)))
    | ((with_reducible apply onTherm_frame); (· decide))
    | ((with_reducible apply updSensor_frame); (· decide))
    | ((with_reducible apply thermEvent_frame); (· decide)))

theorem convertAll_frame {seen : List SensorSeen} : ∀ {x1 : List Nat} {x2 : State} {l : List Part} {b : State} (hm : ∀ p ∈
    ([.freeCtr] : List Part), p ∈ l) (h0 : SameBut l b x2), SameBut l b (convertAll seen x1 x2).2 := by
  intro x1
  induction x1 with
  | nil => intro x2 l b _ h0; first | exact h0 | (unfold convertAll; exact h0)
  | cons y r ih =>
    intro x2 l b hm h0
    refine SameBut.step ?_ hm h0
    clear hm h0
    unfold convertAll
    repeat' (first
      | (with_reducible exact SameBut.refl)
      | (with_reducible assumption)
      | (extract_lets +onlyGivenNames x; (refine SameBut.gen2 (x := x) ?_ ?_); rotate_left; (clear_value x; intro _); rotate_left; (subst x))
      | ((with_reducible apply ih); (· decide))
      | ((with_reducible apply convert_frame); (· decide)))

theorem demand_frame {mask : Nat} {id : Option Nat} {s : State} {l : List Part} {b : State} (hm : ∀ p ∈ ([.outputs, .therm] : List Part), p ∈ l)
    (h0 : SameBut l b s) : SameBut l b (demand mask id s) := by
  refine SameBut.step ?_ hm h0
  clear hm h0
  unfold demand
  repeat' (first
    | (with_reducible exact SameBut.refl)
    | (extract_lets +onlyGivenNames x)
    | ((with_reducible apply readTiles_frame); (· decide))
    | ((with_reducible apply onTherm_frame); (· decide)))

theorem inhibitEvent_frame {kind : Nat} {s : State} {l : List Part} {b : State} (hm : ∀ p ∈ ([.freeCtr, .rings] : List Part), p ∈ l) (h0 :
    SameBut l b s) : SameBut l b (inhibitEvent kind s) := by
  refine SameBut.step ?_ hm h0
  clear hm h0
  unfold inhibitEvent
  repeat' (first
    | (with_reducible exact SameBut.refl)
    | ((with_reducible apply SameBut.ite) <;> intro _)
    | (extract_lets +onlyGivenNames x)
    | ((with_reducible apply thermEvent_frame); (· decide)))

theorem computeGains_frame {n : Nat} {s : State} {l : List Part} {b : State}
    (hm : ∀ p ∈
    ([.rings, .cmp, .tiles, .faults, .chain] : List Part), p ∈ l) (h0 : SameBut l b s) : SameBut l b (computeGains n s) := by
  refine SameBut.step ?_ hm h0
  unfold computeGains
  generalize blocks_ = k
  extract_lets t
  split
  · exact SameBut.refl
  · next h _ =>
    have step : ∀ (o : Option Nat) (j : Nat) (t : State), SameBut [.rings, .cmp, .tiles, .faults, .chain] s t →
        SameBut [.rings, .cmp, .tiles, .faults, .chain] s (match o with | some b => postEol n h.serial j b t | none => t) := by
      intro o j t ht
      cases o with
      | none => exact ht
      | some b => exact postEol_frame (by decide) ht
    have upd : ∀ (x : List (Bool × GateItem)) (t : State), SameBut [.rings, .cmp, .tiles, .faults, .chain] s t →
        SameBut [.rings, .cmp, .tiles, .faults, .chain] s { t with cmp := { t.cmp with gate := x } } := fun x t ht =>
      SameBut.step (m := [.cmp]) (t := t) ⟨rfl, fun p hl => by
        cases p <;> first | rfl | exact ⟨rfl, rfl, rfl⟩ | exact ⟨rfl, rfl⟩ | exact absurd (by decide) hl⟩ (by decide) ht
    exact upd _ _ (step _ _ _ (step _ _ _ (putTile_frame (by decide) SameBut.refl)))

theorem applyRetained1_frame {n : Nat} {bad : List Nat} {r : Retained} {s : State} {l : List Part} {b : State} (hm : ∀ p ∈
    ([.freeCtr, .tiles, .journal, .faults, .nvm] : List Part), p ∈ l) (h0 : SameBut l b s) : SameBut l b (applyRetained1 n bad r s) := by
  refine SameBut.step ?_ hm h0
  clear hm h0
  unfold applyRetained1
  repeat' (first
    | (with_reducible exact SameBut.refl)
    | (with_reducible assumption)
    | ((with_reducible apply SameBut.ite) <;> intro _)
    | (extract_lets +onlyGivenNames x;
          (first | ((refine SameBut.gen (x := x) ?_ ?_); rotate_left; (clear_value x; intro _); rotate_left; (subst x)) | (skip)))
    | ((with_reducible apply poisonBlocks_frame); (· decide))
    | ((with_reducible apply loseRetained_frame); (· decide))
    | ((with_reducible apply putTile_frame); (· decide))
    | ((with_reducible apply makeOrphan_frame); (· decide)))

theorem applySaved1_frame {n : Nat} {v : SavedTile} {s : State} {l : List Part} {b : State} (hm : ∀ p ∈
    ([.tiles, .journal, .faults, .nvm] : List Part), p ∈ l) (h0 : SameBut l b s) : SameBut l b (applySaved1 n v s) := by
  refine SameBut.step ?_ hm h0
  clear hm h0
  unfold applySaved1
  repeat' (first
    | (with_reducible exact SameBut.refl)
    | (with_reducible assumption)
    | ((with_reducible apply SameBut.ite) <;> intro _)
    | (extract_lets +onlyGivenNames x;
          (first | ((refine SameBut.gen (x := x) ?_ ?_); rotate_left; (clear_value x; intro _); rotate_left; (subst x)) | (skip)))
    | ((with_reducible apply poisonBlocks_frame); (· decide))
    | ((with_reducible apply onTiles_frame); (· decide))
    | ((with_reducible apply putTile_frame); (· decide))
    | ((with_reducible apply makeOrphan_frame); (· decide)))

theorem startCommit_frame {n : Nat} {s : State} {l : List Part} {b : State} (hm : ∀ p ∈ ([.outputs, .tiles] : List Part), p ∈ l) (h0 :
    SameBut l b s) : SameBut l b (startCommit n s) := by
  refine SameBut.step ?_ hm h0
  clear hm h0
  unfold startCommit
  repeat' (first
    | (with_reducible exact SameBut.refl)
    | (with_reducible assumption)
    | (extract_lets +onlyGivenNames x;
          (first | ((refine SameBut.gen (x := x) ?_ ?_); rotate_left; (clear_value x; intro _); rotate_left; (subst x)) | (skip)))
    | ((with_reducible apply putTile_frame); (· decide))
    | ((with_reducible apply onTiles_frame); (· decide))
    | ((with_reducible apply writeCopy_frame); (· decide))
    | (split))

theorem endWaits_frame {n : Nat} {ok : Bool} {all : Bool} {s : State} {l : List Part} {b : State} (hm : ∀ p ∈ ([.rings, .tiles] : List Part), p ∈ l)
    (h0 : SameBut l b s) : SameBut l b (endWaits n ok all s) := by
  refine SameBut.step ?_ hm h0
  clear hm h0
  unfold endWaits
  repeat' (first
    | (with_reducible exact SameBut.refl)
    | (with_reducible assumption)
    | (extract_lets +onlyGivenNames x; (refine SameBut.gen (x := x) ?_ ?_); rotate_left; (clear_value x; intro _); rotate_left; (subst x))
    | ((with_reducible apply onTiles_frame); (· decide))
    | ((with_reducible apply finishWaits_frame); (· decide)))

theorem endRelease_frame {n : Nat} {ok : Bool} {s : State} {l : List Part} {b : State} (hm : ∀ p ∈ ([.rings, .tiles] : List Part), p ∈ l) (h0 :
    SameBut l b s) : SameBut l b (endRelease n ok s) := by
  refine SameBut.step ?_ hm h0
  clear hm h0
  unfold endRelease
  repeat' (first
    | (with_reducible exact SameBut.refl)
    | (extract_lets +onlyGivenNames x)
    | ((with_reducible apply completeAll_frame); (· decide))
    | ((with_reducible apply updTile_frame); (· decide)))

theorem startRead1_frame {n : Nat} {rescan : Bool} {s : State} {l : List Part} {b : State} (hm : ∀ p ∈ ([.outputs, .tiles] : List Part), p ∈ l)
    (h0 : SameBut l b s) : SameBut l b (startRead1 n rescan s) := by
  refine SameBut.step ?_ hm h0
  clear hm h0
  unfold startRead1
  repeat' (first
    | (with_reducible exact SameBut.refl)
    | (extract_lets +onlyGivenNames x)
    | ((with_reducible apply emit_frame); (· decide))
    | ((with_reducible apply updTile_frame); (· decide)))

theorem readCurves_frame : ∀ {x0 : Nat} {x1 : State} {l : List Part} {b : State} (hm : ∀ p ∈ ([.outputs] : List Part), p ∈ l) (h0 :
    SameBut l b x1), SameBut l b (readCurves x0 x1) := by
  intro x0
  induction x0 with
  | zero => intro x1 l b _ h0; first | exact h0 | (unfold readCurves; exact h0)
  | succ k ih =>
    intro x1 l b hm h0
    refine SameBut.step ?_ hm h0
    clear hm h0
    unfold readCurves
    repeat' (first
      | (with_reducible exact SameBut.refl)
      | (extract_lets +onlyGivenNames x)
      | ((with_reducible apply ih); (· decide))
      | ((with_reducible apply readCurve_frame); (· decide)))

theorem readHeads_frame {n : Nat} {s : State} {l : List Part} {b : State} (hm : ∀ p ∈ ([.outputs, .tiles] : List Part), p ∈ l) (h0 :
    SameBut l b s) : SameBut l b (readHeads n s) := by
  refine SameBut.step ?_ hm h0
  clear hm h0
  unfold readHeads
  repeat' (first
    | (with_reducible exact SameBut.refl)
    | (extract_lets +onlyGivenNames x)
    | ((with_reducible apply emit_frame); (· decide))
    | ((with_reducible apply updTile_frame); (· decide)))

theorem readCopies_frame {n : Nat} {serial : Nat} {a : List Byte} {b_ : List Byte} {s : State} {l : List Part} {b : State} (hm : ∀ p ∈
    ([.outputs, .tiles] : List Part), p ∈ l) (h0 : SameBut l b s) : SameBut l b (readCopies n serial a b_ s) := by
  refine SameBut.step ?_ hm h0
  clear hm h0
  unfold readCopies
  repeat' (first
    | (with_reducible exact SameBut.refl)
    | ((with_reducible apply SameBut.ite) <;> intro _)
    | (extract_lets +onlyGivenNames x)
    | ((with_reducible apply updTile_frame); (· decide))
    | ((with_reducible apply emit_frame); (· decide)))

theorem readCert_frame {n : Nat} {h : Header} {s : State} {l : List Part} {b : State} (hm : ∀ p ∈ ([.outputs, .tiles] : List Part), p ∈ l) (h0 :
    SameBut l b s) : SameBut l b (readCert n h s) := by
  refine SameBut.step ?_ hm h0
  clear hm h0
  unfold readCert
  repeat' (first
    | (with_reducible exact SameBut.refl)
    | (extract_lets +onlyGivenNames x)
    | ((with_reducible apply emit_frame); (· decide))
    | ((with_reducible apply updTile_frame); (· decide)))

theorem endCert_frame {n : Nat} {ok : Bool} {s : State} {l : List Part} {b : State} (hm : ∀ p ∈ ([.outputs, .tiles, .faults] : List Part), p ∈ l)
    (h0 : SameBut l b s) : SameBut l b (endCert n ok s) := by
  refine SameBut.step ?_ hm h0
  clear hm h0
  unfold endCert
  repeat' (first
    | (with_reducible exact SameBut.refl)
    | ((with_reducible apply SameBut.ite) <;> intro _)
    | (extract_lets +onlyGivenNames x)
    | ((with_reducible apply updTile_frame); (· decide))
    | ((with_reducible apply emit_frame); (· decide))
    | ((with_reducible apply raise_frame); (· decide)))

theorem orphanRemoved_frame {t : Tile} {s : State} {l : List Part} {b : State} (hm : ∀ p ∈ ([.journal, .faults, .nvm] : List Part), p ∈ l) (h0 :
    SameBut l b s) : SameBut l b (orphanRemoved t s) := by
  refine SameBut.step ?_ hm h0
  clear hm h0
  unfold orphanRemoved
  repeat' (first
    | (with_reducible exact SameBut.refl)
    | ((with_reducible apply SameBut.ite) <;> intro _)
    | (extract_lets +onlyGivenNames x)
    | ((with_reducible apply makeOrphan_frame); (· decide))
    | (split))

theorem endsRelease_frame {n : Nat} {s : State} {l : List Part} {b : State} (hm : ∀ p ∈ ([.rings, .tiles] : List Part), p ∈ l) (h0 :
    SameBut l b s) : SameBut l b (endsRelease n s) := by
  refine SameBut.step ?_ hm h0
  clear hm h0
  unfold endsRelease
  repeat' (first
    | (with_reducible exact SameBut.refl)
    | ((with_reducible apply SameBut.ite) <;> intro _)
    | (extract_lets +onlyGivenNames x)
    | ((with_reducible apply putTile_frame); (· decide))
    | ((with_reducible apply completeAll_frame); (· decide)))

theorem steer_frame {d : Nat} {s : State} {l : List Part} {b : State} (hm : ∀ p ∈ ([.freeCtr, .time] : List Part), p ∈ l) (h0 : SameBut l b s) :
    SameBut l b (steer d s) := by
  refine SameBut.step ?_ hm h0
  clear hm h0
  unfold steer
  repeat' (first
    | (with_reducible exact SameBut.refl)
    | (with_reducible assumption)
    | (extract_lets +onlyGivenNames x; (refine SameBut.gen2 (x := x) ?_ ?_); rotate_left; (clear_value x; intro _); rotate_left; (subst x))
    | ((with_reducible apply freshFree_frame); (· decide))
    | ((with_reducible apply remap_frame); (· decide)))

theorem judgeLock_frame {d : Nat} {s : State} {l : List Part} {b : State} (hm : ∀ p ∈ ([.faults, .time] : List Part), p ∈ l) (h0 : SameBut l b s) :
    SameBut l b (judgeLock d s) := by
  refine SameBut.step ?_ hm h0
  clear hm h0
  unfold judgeLock
  repeat' (first
    | (with_reducible exact SameBut.refl)
    | ((with_reducible apply SameBut.ite) <;> intro _)
    | (extract_lets +onlyGivenNames x)
    | ((with_reducible apply judgeHoldover_frame); (· decide))
    | ((with_reducible apply putDom_frame); (· decide)))

theorem tevFire_frame {k : Nat} {s : State} {l : List Part} {b : State} (hm : ∀ p ∈ ([.outputs, .time] : List Part), p ∈ l) (h0 : SameBut l b s) :
    SameBut l b (tevFire k s) := by
  refine SameBut.step ?_ hm h0
  clear hm h0
  unfold tevFire
  repeat' (first
    | (with_reducible exact SameBut.refl)
    | ((with_reducible apply SameBut.ite) <;> intro _)
    | (extract_lets +onlyGivenNames x)
    | ((with_reducible apply setTevPin_frame); (· decide))
    | ((with_reducible apply putTev_frame); (· decide)))

theorem loseLock_frame {d : Nat} {s : State} {l : List Part} {b : State} (hm : ∀ p ∈ ([.faults, .time] : List Part), p ∈ l) (h0 : SameBut l b s) :
    SameBut l b (loseLock d s) := by
  refine SameBut.step ?_ hm h0
  clear hm h0
  unfold loseLock
  repeat' (first
    | (with_reducible exact SameBut.refl)
    | (with_reducible assumption)
    | ((with_reducible apply SameBut.ite) <;> intro _)
    | (extract_lets +onlyGivenNames x;
          (first | ((refine SameBut.gen (x := x) ?_ ?_); rotate_left; (clear_value x; intro _); rotate_left; (subst x)) | (skip)))
    | ((with_reducible apply putDom_frame); (· decide))
    | ((with_reducible apply raise_frame); (· decide))
    | ((with_reducible apply sendSwitch_frame); (· decide))
    | ((with_reducible apply judgeHoldover_frame); (· decide)))

theorem dropFrame_frame {f : PoolFrame} {s : State} {l : List Part} {b : State} (hm : ∀ p ∈ ([.chain] : List Part), p ∈ l) (h0 : SameBut l b s) :
    SameBut l b (dropFrame f s) := by
  refine SameBut.step ?_ hm h0
  clear hm h0
  unfold dropFrame
  repeat' (first
    | (with_reducible exact SameBut.refl)
    | (with_reducible assumption)
    | ((with_reducible apply SameBut.ite) <;> intro _)
    | (extract_lets +onlyGivenNames x;
          (first | ((refine SameBut.gen (x := x) ?_ ?_); rotate_left; (clear_value x; intro _); rotate_left; (subst x)) | (skip)))
    | ((with_reducible apply countFreed_frame); (· decide))
    | ((with_reducible apply onChain_frame); (· decide)))

theorem sendMgmt_frame {p : Nat} {prio : Nat} {b_ : List Byte} {s : State} {l : List Part} {b : State} (hm : ∀ p ∈ ([.chain] : List Part), p ∈ l)
    (h0 : SameBut l b s) : SameBut l b (sendMgmt p prio b_ s) := by
  refine SameBut.step ?_ hm h0
  clear hm h0
  unfold sendMgmt
  repeat' (first
    | (with_reducible exact SameBut.refl)
    | ((with_reducible apply SameBut.ite) <;> intro _)
    | (extract_lets +onlyGivenNames x)
    | ((with_reducible apply enqueue_frame); (· decide))
    | ((with_reducible apply addFrame_frame); (· decide)))

theorem pollFences_frame {gid : Nat} : ∀ {x1 : List Fence} {x2 : Nat} {x3 : State} {l : List Part} {b : State} (hm : ∀ p ∈
    ([.outputs, .link] : List Part), p ∈ l) (h0 : SameBut l b x3), SameBut l b (pollFences gid x1 x2 x3) := by
  intro x1
  induction x1 with
  | nil => intro x2 x3 l b _ h0; first | exact h0 | (unfold pollFences; exact h0)
  | cons y r ih =>
    intro x2 x3 l b hm h0
    refine SameBut.step ?_ hm h0
    clear hm h0
    unfold pollFences
    repeat' (first
      | (with_reducible exact SameBut.refl)
      | ((with_reducible apply SameBut.ite) <;> intro _)
      | (extract_lets +onlyGivenNames x)
      | ((with_reducible apply ih); (· decide))
      | ((with_reducible apply pollFence_frame); (· decide)))

theorem kickFences_frame {gid : Nat} : ∀ {x1 : List Fence} {x2 : Nat} {x3 : State} {l : List Part} {b : State} (hm : ∀ p ∈
    ([.outputs, .link, .cmp] : List Part), p ∈ l) (h0 : SameBut l b x3), SameBut l b (kickFences gid x1 x2 x3) := by
  intro x1
  induction x1 with
  | nil => intro x2 x3 l b _ h0; first | exact h0 | (unfold kickFences; exact h0)
  | cons y r ih =>
    intro x2 x3 l b hm h0
    refine SameBut.step ?_ hm h0
    clear hm h0
    unfold kickFences
    repeat' (first
      | (with_reducible exact SameBut.refl)
      | (with_reducible assumption)
      | ((with_reducible apply SameBut.ite) <;> intro _)
      | (extract_lets +onlyGivenNames x;
            (first | ((refine SameBut.gen (x := x) ?_ ?_); rotate_left; (clear_value x; intro _); rotate_left; (subst x)) | (skip)))
      | ((with_reducible apply ih); (· decide))
      | ((with_reducible apply updGroup_frame); (· decide))
      | ((with_reducible apply pollFence_frame); (· decide)))

theorem startLayers_frame {stack : List FLayer} : ∀ {x1 : List FLayer} {x2 : State} {l : List Part} {b : State} (hm : ∀ p ∈
    ([.outputs, .link, .cmp] : List Part), p ∈ l) (h0 : SameBut l b x2), SameBut l b (startLayers stack x1 x2) := by
  intro x1
  induction x1 with
  | nil => intro x2 l b _ h0; first | exact h0 | (unfold startLayers; exact h0)
  | cons y r ih =>
    intro x2 l b hm h0
    refine SameBut.step ?_ hm h0
    clear hm h0
    unfold startLayers
    repeat' (first
      | (with_reducible exact SameBut.refl)
      | (extract_lets +onlyGivenNames x)
      | ((with_reducible apply ih); (· decide))
      | ((with_reducible apply startLayer_frame); (· decide)))

theorem reportPoison_frame {ecc : EccSeen} {s : State} {l : List Part} {b : State} (hm : ∀ p ∈ ([.rings, .cmp, .faults] : List Part), p ∈ l) (h0 :
    SameBut l b s) : SameBut l b (reportPoison ecc s) := by
  refine SameBut.step ?_ hm h0
  clear hm h0
  unfold reportPoison
  repeat' (first
    | (with_reducible exact SameBut.refl)
    | (with_reducible assumption)
    | ((with_reducible apply SameBut.ite) <;> intro _)
    | (extract_lets +onlyGivenNames x;
          (first | ((refine SameBut.gen (x := x) ?_ ?_); rotate_left; (clear_value x; intro _); rotate_left; (subst x)) | ((refine SameBut.gen2 (x := x) ?_ ?_); rotate_left; (clear_value x; intro _); rotate_left; (subst x)) | (skip)))
    | ((with_reducible apply takeInjs_frame); (· decide))
    | ((with_reducible apply raiseInj_frame); (· decide))
    | ((with_reducible apply raiseN_frame); (· decide))
    | ((with_reducible apply eccCorrected_frame); (· decide))
    | ((with_reducible apply onCmp_frame); (· (intro _; first | rfl | (split <;> rfl) | ((repeat' split) <;> rfl))); (· decide)))

theorem releaseReady_frame {s : State} {l : List Part} {b : State} (hm : ∀ p ∈ ([.rings, .cmp, .frm] : List Part), p ∈ l) (h0 : SameBut l b s) :
    SameBut l b (releaseReady s) := by
  refine SameBut.step ?_ hm h0
  clear hm h0
  unfold releaseReady
  repeat' (first
    | (with_reducible exact SameBut.refl)
    | (extract_lets +onlyGivenNames x)
    | ((with_reducible apply sameClock_frame); (· decide))
    | ((with_reducible apply releaseAll_frame); (· decide)))

theorem noOwner_frame {n : Nat} {s : State} {l : List Part} {b : State} (hm : ∀ p ∈ ([.strip, .tiles, .faults] : List Part), p ∈ l) (h0 :
    SameBut l b s) : SameBut l b (noOwner n s) := by
  refine SameBut.step ?_ hm h0
  clear hm h0
  unfold noOwner
  repeat' (first
    | (with_reducible exact SameBut.refl)
    | (extract_lets +onlyGivenNames x)
    | ((with_reducible apply raise_frame); (· decide))
    | ((with_reducible apply updTile_frame); (· decide))
    | ((with_reducible apply darken_frame); (· decide)))

theorem ackSlots_frame : ∀ {x0 : List Nat} {x1 : State} {l : List Part} {b : State} (hm : ∀ p ∈ ([.slots, .faults] : List Part), p ∈ l) (h0 :
    SameBut l b x1), SameBut l b (ackSlots x0 x1).2 := by
  intro x0
  induction x0 with
  | nil => intro x1 l b _ h0; first | exact h0 | (unfold ackSlots; exact h0)
  | cons y r ih =>
    intro x1 l b hm h0
    refine SameBut.step ?_ hm h0
    clear hm h0
    unfold ackSlots
    repeat' (first
      | (with_reducible exact SameBut.refl)
      | (with_reducible assumption)
      | (extract_lets +onlyGivenNames x;
            (first | ((refine SameBut.gen2 (x := x) ?_ ?_); rotate_left; (clear_value x; intro _); rotate_left; (subst x)) | (skip)))
      | ((with_reducible apply ih); (· decide))
      | ((with_reducible apply logEntry_frame); (· decide))
      | ((with_reducible apply putSlot_frame); (· decide))
      | (split))

theorem enqueueAll_frame {id : Nat} : ∀ {x1 : List Nat} {x2 : State} {l : List Part} {b : State} (hm : ∀ p ∈ ([.chain] : List Part), p ∈ l) (h0 :
    SameBut l b x2), SameBut l b (enqueueAll id x1 x2) := by
  intro x1
  induction x1 with
  | nil => intro x2 l b _ h0; first | exact h0 | (unfold enqueueAll; exact h0)
  | cons y r ih =>
    intro x2 l b hm h0
    refine SameBut.step ?_ hm h0
    clear hm h0
    unfold enqueueAll
    repeat' (first
      | (with_reducible exact SameBut.refl)
      | (extract_lets +onlyGivenNames x)
      | ((with_reducible apply ih); (· decide))
      | ((with_reducible apply enqueue_frame); (· decide)))

theorem releaseTiles_frame : ∀ {x0 : Nat} {x1 : State} {l : List Part} {b : State} (hm : ∀ p ∈ ([.rings, .strip, .tiles] : List Part), p ∈ l) (h0 :
    SameBut l b x1), SameBut l b (releaseTiles x0 x1) := by
  intro x0
  induction x0 with
  | zero => intro x1 l b _ h0; first | exact h0 | (unfold releaseTiles; exact h0)
  | succ k ih =>
    intro x1 l b hm h0
    refine SameBut.step ?_ hm h0
    clear hm h0
    unfold releaseTiles
    repeat' (first
      | (with_reducible exact SameBut.refl)
      | ((with_reducible apply SameBut.ite) <;> intro _)
      | (extract_lets +onlyGivenNames x)
      | ((with_reducible apply ih); (· decide))
      | ((with_reducible apply updTile_frame); (· decide))
      | ((with_reducible apply darken_frame); (· decide))
      | ((with_reducible apply endRelease_frame); (· decide)))

theorem deliver_frame {r : ReadItem} {s : State} {l : List Part} {b : State} (hm : ∀ p ∈ ([.link, .rings, .cmp, .faults] : List Part), p ∈ l) (h0 :
    SameBut l b s) : SameBut l b (deliver r s) := by
  refine SameBut.step ?_ hm h0
  clear hm h0
  unfold deliver
  repeat' (first
    | (with_reducible exact SameBut.refl)
    | (extract_lets +onlyGivenNames x)
    | ((with_reducible apply updDesc_frame); (· decide))
    | ((with_reducible apply dropItem_frame); (· decide))
    | ((with_reducible apply finishTable_frame); (· decide))
    | ((with_reducible apply layerData_frame); (· decide))
    | ((with_reducible apply probeDone_frame); (· decide))
    | (split))

theorem blockLayers_frame {s : State} {l : List Part} {b : State} (hm : ∀ p ∈ ([.link, .rings, .cmp, .faults] : List Part), p ∈ l) (h0 :
    SameBut l b s) : SameBut l b (blockLayers s) := by
  refine SameBut.step ?_ hm h0
  clear hm h0
  unfold blockLayers
  repeat' (first
    | (with_reducible exact SameBut.refl)
    | ((with_reducible apply SameBut.ite) <;> intro _)
    | (extract_lets +onlyGivenNames x)
    | ((with_reducible apply failItems_frame); (· decide)))

theorem gainsAll_frame : ∀ {x0 : Nat} {x1 : State} {l : List Part} {b : State} (hm : ∀ p ∈
    ([.rings, .cmp, .tiles, .faults, .chain] : List Part), p ∈ l) (h0 : SameBut l b x1), SameBut l b (gainsAll x0 x1) := by
  intro x0
  induction x0 with
  | zero => intro x1 l b _ h0; first | exact h0 | (unfold gainsAll; exact h0)
  | succ k ih =>
    intro x1 l b hm h0
    refine SameBut.step ?_ hm h0
    clear hm h0
    unfold gainsAll
    repeat' (first
      | (with_reducible exact SameBut.refl)
      | ((with_reducible apply SameBut.ite) <;> intro _)
      | (extract_lets +onlyGivenNames x)
      | ((with_reducible apply ih); (· decide))
      | ((with_reducible apply computeGains_frame); (· decide)))

theorem queueRecs_frame {l_ : List Rec} {s : State} {l : List Part} {b : State} (hm : ∀ p ∈ ([.rings, .safety, .cal, .nvm] : List Part), p ∈ l)
    (h0 : SameBut l b s) : SameBut l b (queueRecs l_ s) := by
  refine SameBut.step ?_ hm h0
  clear hm h0
  unfold queueRecs
  repeat' (first
    | (with_reducible exact SameBut.refl)
    | ((with_reducible apply SameBut.ite) <;> intro _)
    | (extract_lets +onlyGivenNames x)
    | ((with_reducible apply refuseAll_frame); (· decide))
    | ((with_reducible apply onNvm_frame); (· (intro _; first | rfl | (split <;> rfl) | ((repeat' split) <;> rfl)));
          (· (intro _; first | rfl | (split <;> rfl) | ((repeat' split) <;> rfl))); (· decide)))

theorem inhibitQueue_frame {s : State} {l : List Part} {b : State} (hm : ∀ p ∈ ([.rings, .safety, .cal, .nvm] : List Part), p ∈ l) (h0 :
    SameBut l b s) : SameBut l b (inhibitQueue s) := by
  refine SameBut.step ?_ hm h0
  clear hm h0
  unfold inhibitQueue
  repeat' (first
    | (with_reducible exact SameBut.refl)
    | (extract_lets +onlyGivenNames x)
    | ((with_reducible apply refuseAll_frame); (· decide))
    | ((with_reducible apply onNvm_frame); (· (intro _; first | rfl | (split <;> rfl) | ((repeat' split) <;> rfl)));
          (· (intro _; first | rfl | (split <;> rfl) | ((repeat' split) <;> rfl))); (· decide)))

theorem startPort_frame {p : Nat} {s : State} {l : List Part} {b : State} (hm : ∀ p ∈ ([.chain] : List Part), p ∈ l) (h0 : SameBut l b s) :
    SameBut l b (startPort p s) := by
  refine SameBut.step ?_ hm h0
  clear hm h0
  unfold startPort
  repeat' (first
    | (with_reducible exact SameBut.refl)
    | ((with_reducible apply SameBut.ite) <;> intro _)
    | (extract_lets +onlyGivenNames x)
    | ((with_reducible apply enterLock_frame); (· decide)))

theorem enablePort_frame {p : Nat} {s : State} {l : List Part} {b : State} (hm : ∀ p ∈ ([.chain] : List Part), p ∈ l) (h0 : SameBut l b s) :
    SameBut l b (enablePort p s) := by
  refine SameBut.step ?_ hm h0
  clear hm h0
  unfold enablePort
  repeat' (first
    | (with_reducible exact SameBut.refl)
    | ((with_reducible apply SameBut.ite) <;> intro _)
    | (extract_lets +onlyGivenNames x)
    | ((with_reducible apply updPort_frame); (· decide))
    | ((with_reducible apply enterLock_frame); (· decide)))

theorem hostReset_frame {commanded : Bool} {s : State} {l : List Part} {b : State} (hm : ∀ p ∈ ([.link, .rings, .cmp, .faults] : List Part), p ∈ l)
    (h0 : SameBut l b s) : SameBut l b (hostReset commanded s) := by
  refine SameBut.step ?_ hm h0
  clear hm h0
  unfold hostReset
  repeat' (first
    | (with_reducible exact SameBut.refl)
    | ((with_reducible apply SameBut.ite) <;> intro _)
    | (extract_lets +onlyGivenNames x)
    | ((with_reducible apply SameBut.upd); (· with_reducible exact rfl);
          (· ((fail_if_success (with_reducible exact Or.inl rfl)); exact Or.inr trivial));
          (· (intro p hp; cases p <;> first | rfl | exact ⟨rfl, rfl⟩ | exact ⟨rfl, rfl, rfl⟩ | exact absurd (by decide) hp)))
    | ((with_reducible apply failItems_frame); (· decide))
    | ((with_reducible apply raise_frame); (· decide)))

theorem consumeAll_frame {n : Nat} {bad : List Nat} : ∀ {x2 : List Bytes} {x3 : Nat} {x4 : State} {l : List Part} {b : State} (hm : ∀ p ∈
    ([.outputs, .link, .rings, .faults] : List Part), p ∈ l) (h0 : SameBut l b x4), SameBut l b (consumeAll n bad x2 x3 x4) := by
  intro x2
  induction x2 with
  | nil => intro x3 x4 l b _ h0; first | exact h0 | (unfold consumeAll; exact h0)
  | cons y r ih =>
    intro x3 x4 l b hm h0
    refine SameBut.step ?_ hm h0
    clear hm h0
    unfold consumeAll
    repeat' (first
      | (with_reducible exact SameBut.refl)
      | ((with_reducible apply SameBut.ite) <;> intro _)
      | (extract_lets +onlyGivenNames x)
      | ((with_reducible apply ih); (· decide))
      | ((with_reducible apply consumeLost_frame); (· decide))
      | ((with_reducible apply consume1_frame); (· decide)))

theorem postDone_frame {s : State} {l : List Part} {b : State} (hm : ∀ p ∈ ([.outputs, .link, .rings] : List Part), p ∈ l) (h0 : SameBut l b s) :
    SameBut l b (postDone s) := by
  refine SameBut.step ?_ hm h0
  clear hm h0
  unfold postDone
  repeat' (first
    | (with_reducible exact SameBut.refl)
    | (with_reducible assumption)
    | ((with_reducible apply SameBut.ite) <;> intro _)
    | (extract_lets +onlyGivenNames x;
          (first | ((refine SameBut.gen (x := x) ?_ ?_); rotate_left; (clear_value x; intro _); rotate_left; (subst x)) | (skip)))
    | ((with_reducible apply SameBut.upd); (· with_reducible exact rfl);
          (· ((fail_if_success (with_reducible exact Or.inl rfl)); exact Or.inr trivial));
          (· (intro p hp; cases p <;> first | rfl | exact ⟨rfl, rfl⟩ | exact ⟨rfl, rfl, rfl⟩ | exact absurd (by decide) hp)))
    | ((with_reducible apply drainEnd_frame); (· decide))
    | ((with_reducible apply postEntry_frame); (· decide))
    | (split))

theorem postOrLose_frame {e : Event} {s : State} {l : List Part} {b : State} (hm : ∀ p ∈ ([.outputs, .link, .rings, .faults] : List Part), p ∈ l)
    (h0 : SameBut l b s) : SameBut l b (postOrLose e s) := by
  refine SameBut.step ?_ hm h0
  clear hm h0
  unfold postOrLose
  repeat' (first
    | (with_reducible exact SameBut.refl)
    | ((with_reducible apply SameBut.ite) <;> intro _)
    | (extract_lets +onlyGivenNames x)
    | ((with_reducible apply postEntry_frame); (· decide))
    | ((with_reducible apply loseEvent_frame); (· decide)))

theorem postLost_frame {s : State} {l : List Part} {b : State} (hm : ∀ p ∈ ([.outputs, .link, .rings, .faults] : List Part), p ∈ l) (h0 :
    SameBut l b s) : SameBut l b (postLost s) := by
  refine SameBut.step ?_ hm h0
  clear hm h0
  unfold postLost
  repeat' (first
    | (with_reducible exact SameBut.refl)
    | ((with_reducible apply SameBut.ite) <;> intro _)
    | (extract_lets +onlyGivenNames x)
    | ((with_reducible apply SameBut.upd); (· with_reducible exact rfl);
          (· ((fail_if_success (with_reducible exact Or.inl rfl)); exact Or.inr trivial));
          (· (intro p hp; cases p <;> first | rfl | exact ⟨rfl, rfl⟩ | exact ⟨rfl, rfl, rfl⟩ | exact absurd (by decide) hp)))
    | ((with_reducible apply condOff_frame); (· decide))
    | ((with_reducible apply postEntry_frame); (· decide)))

theorem sloOff_frame {c : Chan} {s : State} {l : List Part} {b : State} (hm : ∀ p ∈ ([.strip, .tiles, .chans] : List Part), p ∈ l) (h0 :
    SameBut l b s) : SameBut l b (sloOff c s) := by
  refine SameBut.step ?_ hm h0
  clear hm h0
  unfold sloOff
  repeat' (first
    | (with_reducible exact SameBut.refl)
    | ((with_reducible apply SameBut.ite) <;> intro _)
    | (extract_lets +onlyGivenNames x)
    | ((with_reducible apply updChan_frame); (· decide))
    | ((with_reducible apply stopFronds_frame); (· decide))
    | ((with_reducible apply supplyGone_frame); (· decide)))

theorem tensOff_frame : ∀ {x0 : Nat} {x1 : State} {l : List Part} {b : State} (hm : ∀ p ∈ ([.strip, .tiles] : List Part), p ∈ l) (h0 :
    SameBut l b x1), SameBut l b (tensOff x0 x1) := by
  intro x0
  induction x0 with
  | zero => intro x1 l b _ h0; first | exact h0 | (unfold tensOff; exact h0)
  | succ k ih =>
    intro x1 l b hm h0
    refine SameBut.step ?_ hm h0
    clear hm h0
    unfold tensOff
    repeat' (first
      | (with_reducible exact SameBut.refl)
      | (extract_lets +onlyGivenNames x)
      | ((with_reducible apply ih); (· decide))
      | ((with_reducible apply darken_frame); (· decide)))

theorem readbacks_frame {f : Nat} {n : Nat} {x : ShiftRec} {rets : List StripRet} : ∀ {x4 : Nat} {x5 : State} {l : List Part} {b : State} (hm :
    ∀ p ∈ ([.rings, .strip, .faults] : List Part), p ∈ l) (h0 : SameBut l b x5), SameBut l b (readbacks f n x rets x4 x5) := by
  intro x4
  induction x4 with
  | zero => intro x5 l b _ h0; first | exact h0 | (unfold readbacks; exact h0)
  | succ k ih =>
    intro x5 l b hm h0
    refine SameBut.step ?_ hm h0
    clear hm h0
    unfold readbacks
    repeat' (first
      | (with_reducible exact SameBut.refl)
      | (extract_lets +onlyGivenNames x)
      | ((with_reducible apply ih); (· decide))
      | ((with_reducible apply readback_frame); (· decide)))

theorem stripDuty_frame {id : Nat} {late : Bool} {s : State} {l : List Part} {b : State}
    (hm : ∀ p ∈ ([.strip] : List Part), p ∈ l) (h0 :
    SameBut l b s) : SameBut l b (stripDuty id late s) := by
  refine SameBut.step ?_ hm h0
  unfold stripDuty
  cases descOf s id with
  | none => exact SameBut.refl
  | some d =>
    have upd : ∀ (x : Strips) (t : State), SameBut [.strip] s t → SameBut [.strip] s { t with strip := x } := fun x t ht =>
      SameBut.step (m := [.strip]) (t := t) ⟨rfl, fun p hl => by
        cases p <;> first | rfl | exact ⟨rfl, rfl, rfl⟩ | exact ⟨rfl, rfl⟩ | exact absurd (by decide) hl⟩ (by decide) ht
    refine markItems_frame (by decide) (upd _ _ ?_)
    split
    · exact upd _ _ SameBut.refl
    · exact upd _ _ SameBut.refl
    · exact setStrips_frame (by decide) SameBut.refl

theorem trimInForce_frame {ch : Nat} {v : Nat} {s : State} {l : List Part} {b : State} (hm : ∀ p ∈ ([.strip] : List Part), p ∈ l) (h0 :
    SameBut l b s) : SameBut l b (trimInForce ch v s) := by
  refine SameBut.step ?_ hm h0
  clear hm h0
  unfold trimInForce
  repeat' (first
    | (with_reducible exact SameBut.refl)
    | (extract_lets +onlyGivenNames x)
    | ((with_reducible apply SameBut.upd); (· with_reducible exact rfl);
          (· ((fail_if_success (with_reducible exact Or.inl rfl)); exact Or.inr trivial));
          (· (intro p hp; cases p <;> first | rfl | exact ⟨rfl, rfl⟩ | exact ⟨rfl, rfl, rfl⟩ | exact absurd (by decide) hp)))
    | ((with_reducible apply markItems_frame); (· decide))
    | ((with_reducible apply putStrip_frame); (· decide)))

theorem gainsInForce_frame {n : Nat} {g : List Nat} {s : State} {l : List Part} {b : State} (hm : ∀ p ∈ ([.strip, .tiles] : List Part), p ∈ l) (h0 :
    SameBut l b s) : SameBut l b (gainsInForce n g s) := by
  refine SameBut.step ?_ hm h0
  clear hm h0
  unfold gainsInForce
  repeat' (first
    | (with_reducible exact SameBut.refl)
    | (extract_lets +onlyGivenNames x)
    | ((with_reducible apply markItems_frame); (· decide))
    | ((with_reducible apply putTile_frame); (· decide)))

theorem mapInForce_frame {n : Nat} {m : List Byte} {s : State} {l : List Part} {b : State} (hm : ∀ p ∈ ([.strip, .tiles] : List Part), p ∈ l) (h0 :
    SameBut l b s) : SameBut l b (mapInForce n m s) := by
  refine SameBut.step ?_ hm h0
  clear hm h0
  unfold mapInForce
  repeat' (first
    | (with_reducible exact SameBut.refl)
    | (extract_lets +onlyGivenNames x)
    | ((with_reducible apply markItems_frame); (· decide))
    | ((with_reducible apply putTile_frame); (· decide)))

theorem riseDomains_frame {measured : List Nat} : ∀ {x1 : Nat} {x2 : State} {l : List Part} {b : State} (hm : ∀ p ∈
    ([.freeCtr, .rings, .faults, .therm] : List Part), p ∈ l) (h0 : SameBut l b x2), SameBut l b (riseDomains measured x1 x2) := by
  intro x1
  induction x1 with
  | zero => intro x2 l b _ h0; first | exact h0 | (unfold riseDomains; exact h0)
  | succ k ih =>
    intro x2 l b hm h0
    refine SameBut.step ?_ hm h0
    clear hm h0
    unfold riseDomains
    repeat' (first
      | (with_reducible exact SameBut.refl)
      | (with_reducible assumption)
      | (extract_lets +onlyGivenNames x; (refine SameBut.gen (x := x) ?_ ?_); rotate_left; (clear_value x; intro _); rotate_left; (subst x))
      | ((with_reducible apply ih); (· decide))
      | ((with_reducible apply riseTo_frame); (· decide))
      | (split))

theorem noNeighbour_frame {i : Nat} : ∀ {x1 : List Nat} {x2 : State} {l : List Part} {b : State} (hm : ∀ p ∈
    ([.freeCtr, .rings, .faults, .therm] : List Part), p ∈ l) (h0 : SameBut l b x2), SameBut l b (noNeighbour i x1 x2) := by
  intro x1
  induction x1 with
  | nil => intro x2 l b _ h0; first | exact h0 | (unfold noNeighbour; exact h0)
  | cons y r ih =>
    intro x2 l b hm h0
    refine SameBut.step ?_ hm h0
    clear hm h0
    unfold noNeighbour
    repeat' (first
      | (with_reducible exact SameBut.refl)
      | (with_reducible assumption)
      | (extract_lets +onlyGivenNames x;
            (first | ((refine SameBut.gen (x := x) ?_ ?_); rotate_left; (clear_value x; intro _); rotate_left; (subst x)) | (skip)))
      | ((with_reducible apply ih); (· decide))
      | ((with_reducible apply riseTo_frame); (· decide))
      | ((with_reducible apply putDomain_frame); (· decide)))

theorem validReading_frame {i : Nat} {v : Int} {s : State} {l : List Part} {b : State} (hm : ∀ p ∈ ([.freeCtr, .rings, .therm] : List Part), p ∈ l)
    (h0 : SameBut l b s) : SameBut l b (validReading i v s) := by
  refine SameBut.step ?_ hm h0
  clear hm h0
  unfold validReading
  repeat' (first
    | (with_reducible exact SameBut.refl)
    | ((with_reducible apply SameBut.ite) <;> intro _)
    | (extract_lets +onlyGivenNames x)
    | ((with_reducible apply putSensor_frame); (· decide))
    | ((with_reducible apply updSensor_frame); (· decide))
    | ((with_reducible apply returnSensor_frame); (· decide)))

theorem calMeasured_frame {s : State} {l : List Part} {b : State} (hm : ∀ p ∈ ([.cmp, .cal, .therm] : List Part), p ∈ l) (h0 : SameBut l b s) :
    SameBut l b (calMeasured s) := by
  refine SameBut.step ?_ hm h0
  clear hm h0
  unfold calMeasured
  repeat' (first
    | (with_reducible exact SameBut.refl)
    | ((with_reducible apply SameBut.ite) <;> intro _)
    | (extract_lets +onlyGivenNames x)
    | ((with_reducible apply retrim_frame); (· decide))
    | ((with_reducible apply onCal_frame); (· decide))
    | ((with_reducible apply startFull_frame); (· decide))
    | (split))

theorem enableTile_frame {n : Nat} {s : State} {l : List Part} {b : State} (hm : ∀ p ∈ ([.strip, .tiles] : List Part), p ∈ l) (h0 : SameBut l b s) :
    SameBut l b (enableTile n s) := by
  refine SameBut.step ?_ hm h0
  clear hm h0
  unfold enableTile
  repeat' (first
    | (with_reducible exact SameBut.refl)
    | (with_reducible assumption)
    | ((with_reducible apply SameBut.ite) <;> intro _)
    | (extract_lets +onlyGivenNames x;
          (first | ((refine SameBut.gen (x := x) ?_ ?_); rotate_left; (clear_value x; intro _); rotate_left; (subst x)) | (skip)))
    | ((with_reducible apply dropChecks_frame); (· decide))
    | ((with_reducible apply putTile_frame); (· decide))
    | ((with_reducible apply putFrond_frame); (· decide))
    | ((with_reducible apply darken_frame); (· decide))
    | (split))

theorem applyRetaineds_frame {n : Nat} {bad : List Nat} : ∀ {x2 : List Retained} {x3 : State} {l : List Part} {b : State} (hm : ∀ p ∈
    ([.freeCtr, .tiles, .journal, .faults, .nvm] : List Part), p ∈ l) (h0 : SameBut l b x3), SameBut l b (applyRetaineds n bad x2 x3) := by
  intro x2
  induction x2 with
  | nil => intro x3 l b _ h0; first | exact h0 | (unfold applyRetaineds; exact h0)
  | cons y r ih =>
    intro x3 l b hm h0
    refine SameBut.step ?_ hm h0
    clear hm h0
    unfold applyRetaineds
    repeat' (first
      | (with_reducible exact SameBut.refl)
      | (extract_lets +onlyGivenNames x)
      | ((with_reducible apply ih); (· decide))
      | ((with_reducible apply applyRetained1_frame); (· decide)))

theorem applySaveds_frame {n : Nat} : ∀ {x1 : List SavedTile} {x2 : State} {l : List Part} {b : State} (hm : ∀ p ∈
    ([.tiles, .journal, .faults, .nvm] : List Part), p ∈ l) (h0 : SameBut l b x2), SameBut l b (applySaveds n x1 x2) := by
  intro x1
  induction x1 with
  | nil => intro x2 l b _ h0; first | exact h0 | (unfold applySaveds; exact h0)
  | cons y r ih =>
    intro x2 l b hm h0
    refine SameBut.step ?_ hm h0
    clear hm h0
    unfold applySaveds
    repeat' (first
      | (with_reducible exact SameBut.refl)
      | (extract_lets +onlyGivenNames x)
      | ((with_reducible apply ih); (· decide))
      | ((with_reducible apply applySaved1_frame); (· decide)))

end Sys2Proof.Machine
end

