-- ==== Sys2Proof/Laws/FramesD.lean ====
section
/-! SUPPORT. The frame of each shared operation: which parts of the state it may change (nextCommit to handleSvc, in the order in
which the operations build on each other). -/

set_option autoImplicit false

-- One declaration after the other, without the linters of the library: many small theorems.
set_option Elab.async false
set_option linter.all false

namespace Sys2Proof.Machine

theorem nextCommit_frame {s : State} {l : List Part} {b : State} (hm : ∀ p ∈ ([.outputs, .tiles] : List Part), p ∈ l) (h0 : SameBut l b s) :
    SameBut l b (nextCommit s) := by
  refine SameBut.step ?_ hm h0
  clear hm h0
  unfold nextCommit
  repeat' (first
    | (with_reducible exact SameBut.refl)
    | ((with_reducible apply SameBut.ite) <;> intro _)
    | (extract_lets +onlyGivenNames x)
    | ((with_reducible apply startCommit_frame); (· decide))
    | (split))

theorem endCommit_frame {n : Nat} {ok : Bool} {s : State} {l : List Part} {b : State} (hm : ∀ p ∈ ([.rings, .tiles, .faults] : List Part), p ∈ l)
    (h0 : SameBut l b s) : SameBut l b (endCommit n ok s) := by
  refine SameBut.step ?_ hm h0
  clear hm h0
  unfold endCommit
  repeat' (first
    | (with_reducible exact SameBut.refl)
    | ((with_reducible apply SameBut.ite) <;> intro _)
    | (extract_lets +onlyGivenNames x)
    | ((with_reducible apply onTiles_frame); (· decide))
    | ((with_reducible apply putTile_frame); (· decide))
    | ((with_reducible apply raise_frame); (· decide))
    | ((with_reducible apply endWaits_frame); (· decide))
    | ((with_reducible apply endRelease_frame); (· decide)))

theorem headerBad_frame {n : Nat} {s : State} {l : List Part} {b : State} (hm : ∀ p ∈ ([.rings, .strip, .tiles, .faults] : List Part), p ∈ l) (h0 :
    SameBut l b s) : SameBut l b (headerBad n s) := by
  refine SameBut.step ?_ hm h0
  clear hm h0
  unfold headerBad
  repeat' (first
    | (with_reducible exact SameBut.refl)
    | (with_reducible assumption)
    | (extract_lets +onlyGivenNames x;
          (first | ((refine SameBut.gen (x := x) ?_ ?_); rotate_left; (clear_value x; intro _); rotate_left; (subst x)) | (skip)))
    | ((with_reducible apply raise_frame); (· decide))
    | ((with_reducible apply updTile_frame); (· decide))
    | ((with_reducible apply darken_frame); (· decide))
    | ((with_reducible apply postPresence_frame); (· decide))
    | ((with_reducible apply completeAll_frame); (· decide)))

theorem tileReady_frame {n : Nat} {s : State} {l : List Part} {b : State} (hm : ∀ p ∈ ([.rings, .cmp, .tiles, .faults, .chain] : List Part), p ∈ l)
    (h0 : SameBut l b s) : SameBut l b (tileReady n s) := by
  refine SameBut.step ?_ hm h0
  clear hm h0
  unfold tileReady
  repeat' (first
    | (with_reducible exact SameBut.refl)
    | (with_reducible assumption)
    | (extract_lets +onlyGivenNames x;
          (first | ((refine SameBut.gen (x := x) ?_ ?_); rotate_left; (clear_value x; intro _); rotate_left; (subst x)) | (skip)))
    | ((with_reducible apply SameBut.upd); (· with_reducible exact rfl);
          (· ((fail_if_success (with_reducible exact Or.inl rfl)); exact Or.inr trivial));
          (· (intro p hp; cases p <;> first | rfl | exact ⟨rfl, rfl⟩ | exact ⟨rfl, rfl, rfl⟩ | exact absurd (by decide) hp)))
    | ((with_reducible apply putTile_frame); (· decide))
    | ((with_reducible apply postPresence_frame); (· decide))
    | ((with_reducible apply computeGains_frame); (· decide))
    | ((with_reducible apply completeAll_frame); (· decide)))

theorem tevArmNow_frame {k : Nat} {mode : Nat} {start : Int} {period : Int} {width : Int} {s : State} {l : List Part} {b : State} (hm : ∀ p ∈
    ([.outputs, .time] : List Part), p ∈ l) (h0 : SameBut l b s) : SameBut l b (tevArmNow k mode start period width s) := by
  refine SameBut.step ?_ hm h0
  clear hm h0
  unfold tevArmNow
  repeat' (first
    | (with_reducible exact SameBut.refl)
    | (with_reducible assumption)
    | ((with_reducible apply SameBut.ite) <;> intro _)
    | (extract_lets +onlyGivenNames x;
          (first | ((refine SameBut.gen (x := x) ?_ ?_); rotate_left; (clear_value x; intro _); rotate_left; (subst x)) | (skip)))
    | ((with_reducible apply putTev_frame); (· decide))
    | ((with_reducible apply setTevPin_frame); (· decide))
    | ((with_reducible apply tevFire_frame); (· decide)))

theorem tevAtStep_frame {forward : Bool} {k : Nat} {s : State} {l : List Part} {b : State} (hm : ∀ p ∈
    ([.outputs, .faults, .time] : List Part), p ∈ l) (h0 : SameBut l b s) : SameBut l b (tevAtStep forward k s) := by
  refine SameBut.step ?_ hm h0
  clear hm h0
  unfold tevAtStep
  repeat' (first
    | (with_reducible exact SameBut.refl)
    | ((with_reducible apply SameBut.ite) <;> intro _)
    | (extract_lets +onlyGivenNames x)
    | ((with_reducible apply tevFire_frame); (· decide))
    | ((with_reducible apply putTev_frame); (· decide))
    | ((with_reducible apply raise_frame); (· decide))
    | ((with_reducible apply onTim_frame); (· decide)))

theorem writeLearned_frame {s : State} {l : List Part} {b : State} (hm : ∀ p ∈ ([.rings, .safety, .cal, .nvm] : List Part), p ∈ l) (h0 :
    SameBut l b s) : SameBut l b (writeLearned s) := by
  refine SameBut.step ?_ hm h0
  clear hm h0
  unfold writeLearned
  repeat' (first
    | (with_reducible exact SameBut.refl)
    | (extract_lets +onlyGivenNames x)
    | ((with_reducible apply queueRecs_frame); (· decide))
    | ((with_reducible apply onCal_frame); (· decide)))

theorem settle_frame {id : Nat} {s : State} {l : List Part} {b : State} (hm : ∀ p ∈ ([.chain] : List Part), p ∈ l) (h0 : SameBut l b s) :
    SameBut l b (settle id s) := by
  refine SameBut.step ?_ hm h0
  clear hm h0
  unfold settle
  repeat' (first
    | (with_reducible exact SameBut.refl)
    | ((with_reducible apply SameBut.ite) <;> intro _)
    | (extract_lets +onlyGivenNames x)
    | ((with_reducible apply dropFrame_frame); (· decide))
    | ((with_reducible apply updFrame_frame); (· decide))
    | ((with_reducible apply countFreed_frame); (· decide))
    | ((with_reducible apply countDrop_frame); (· decide))
    | (split))

theorem sendSvc_frame {p : Nat} {m : List Byte} {s : State} {l : List Part} {b : State} (hm : ∀ p ∈ ([.chain] : List Part), p ∈ l) (h0 :
    SameBut l b s) : SameBut l b (sendSvc p m s) := by
  refine SameBut.step ?_ hm h0
  clear hm h0
  unfold sendSvc
  repeat' (first
    | (with_reducible exact SameBut.refl)
    | ((with_reducible apply sendMgmt_frame); (· decide)))

theorem pollGroups_frame : ∀ {x0 : List Group} {x1 : State} {l : List Part} {b : State} (hm : ∀ p ∈ ([.outputs, .link] : List Part), p ∈ l) (h0 :
    SameBut l b x1), SameBut l b (pollGroups x0 x1) := by
  intro x0
  induction x0 with
  | nil => intro x1 l b _ h0; first | exact h0 | (unfold pollGroups; exact h0)
  | cons y r ih =>
    intro x1 l b hm h0
    refine SameBut.step ?_ hm h0
    clear hm h0
    unfold pollGroups
    repeat' (first
      | (with_reducible exact SameBut.refl)
      | (extract_lets +onlyGivenNames x)
      | ((with_reducible apply ih); (· decide))
      | ((with_reducible apply pollFences_frame); (· decide)))

theorem kickAll_frame : ∀ {x0 : List Group} {x1 : State} {l : List Part} {b : State} (hm : ∀ p ∈ ([.outputs, .link, .cmp] : List Part), p ∈ l)
    (h0 : SameBut l b x1), SameBut l b (kickAll x0 x1) := by
  intro x0
  induction x0 with
  | nil => intro x1 l b _ h0; first | exact h0 | (unfold kickAll; exact h0)
  | cons y r ih =>
    intro x1 l b hm h0
    refine SameBut.step ?_ hm h0
    clear hm h0
    unfold kickAll
    repeat' (first
      | (with_reducible exact SameBut.refl)
      | (extract_lets +onlyGivenNames x)
      | ((with_reducible apply ih); (· decide))
      | ((with_reducible apply kickFences_frame); (· decide)))

theorem beginComp_frame {num : Int} {ecc : EccSeen} {s : State} {l : List Part} {b : State} (hm : ∀ p ∈
    ([.outputs, .link, .rings, .cmp, .faults] : List Part), p ∈ l) (h0 : SameBut l b s) : SameBut l b (beginComp num ecc s) := by
  refine SameBut.step ?_ hm h0
  clear hm h0
  unfold beginComp
  repeat' (first
    | (with_reducible exact SameBut.refl)
    | (with_reducible assumption)
    | (extract_lets +onlyGivenNames x;
          (first | ((refine SameBut.gen (x := x) ?_ ?_); rotate_left; (clear_value x; intro _); rotate_left; (subst x)) | (skip)))
    | ((with_reducible apply reportPoison_frame); (· decide))
    | ((with_reducible apply reportRevoked_frame); (· decide))
    | ((with_reducible apply startLayers_frame); (· decide))
    | ((with_reducible apply onCmp_frame); (· (intro _; first | rfl | (split <;> rfl) | ((repeat' split) <;> rfl))); (· decide)))

theorem endFrame_frame {s : State} {l : List Part} {b : State} (hm : ∀ p ∈ ([.link, .rings, .cmp, .frm, .faults] : List Part), p ∈ l) (h0 :
    SameBut l b s) : SameBut l b (endFrame s) := by
  refine SameBut.step ?_ hm h0
  clear hm h0
  unfold endFrame
  repeat' (first
    | (with_reducible exact SameBut.refl)
    | (with_reducible assumption)
    | ((with_reducible apply SameBut.ite) <;> intro _)
    | (extract_lets +onlyGivenNames x;
          (first | ((refine SameBut.gen (x := x) ?_ ?_); rotate_left; (clear_value x; intro _); rotate_left; (subst x)) | (skip)))
    | ((with_reducible apply onFrm_frame); (· decide))
    | ((with_reducible apply onCmp_frame); (· (intro _; first | rfl | (split <;> rfl) | ((repeat' split) <;> rfl))); (· decide))
    | ((with_reducible apply dropStalled_frame); (· decide))
    | ((with_reducible apply raise_frame); (· decide))
    | ((with_reducible apply confirmAll_frame); (· decide))
    | ((with_reducible apply releaseReady_frame); (· decide))
    | ((with_reducible apply endPolicies_frame); (· decide))
    | ((with_reducible apply dropLayerReads_frame); (· decide))
    | (split))

theorem passItem_frame {it : GateItem} {s : State} {l : List Part} {b : State} (hm : ∀ p ∈
    ([.rings, .cmp, .frm, .strip, .tiles] : List Part), p ∈ l) (h0 : SameBut l b s) : SameBut l b (passItem it s) := by
  refine SameBut.step ?_ hm h0
  clear hm h0
  unfold passItem
  repeat' (first
    | (with_reducible exact SameBut.refl)
    | (with_reducible assumption)
    | ((with_reducible apply SameBut.ite) <;> intro _)
    | (extract_lets +onlyGivenNames x;
          (first | ((refine SameBut.gen (x := x) ?_ ?_); rotate_left; (clear_value x; intro _); rotate_left; (subst x)) | (skip)))
    | ((with_reducible apply onFrm_frame); (· decide))
    | ((with_reducible apply complete_frame); (· decide))
    | ((with_reducible apply markItems_frame); (· decide))
    | ((with_reducible apply onCmp_frame); (· (intro _; first | rfl | (split <;> rfl) | ((repeat' split) <;> rfl))); (· decide))
    | ((with_reducible apply stripDuty_frame); (· decide))
    | ((with_reducible apply gainsInForce_frame); (· decide))
    | ((with_reducible apply mapInForce_frame); (· decide))
    | ((with_reducible apply trimInForce_frame); (· decide))
    | (split))

theorem declareDead_frame {f : Nat} {inj : Bool} {s : State} {l : List Part} {b : State}
    (hm : ∀ p ∈
    ([.strip, .tiles, .faults] : List Part), p ∈ l) (h0 : SameBut l b s) : SameBut l b (declareDead f inj s) := by
  refine SameBut.step ?_ hm h0
  have base := returnSync_frame (f := f) (x1 := 8) (l := [.strip, .tiles, .faults]) (by decide)
    (raiseInj_frame (slot := 200 + f) (inj := inj) (by decide)
      (putFrond_frame (f := f) (x := { frondOf s f with
        role := .quarantined, misses := 0, staleSeen := false, shifting := none, decide := false, shiftedNow := false, item := false })
        (by decide) (SameBut.refl (s := s))))
  unfold declareDead
  dsimp only
  generalize returnSync f 8 _ = r at base
  split
  · exact base
  · split
    · exact takeOver_frame (by decide) (updTile_frame (by decide) base)
    · exact noOwner_frame (by decide) (updTile_frame (by decide) base)

theorem boundaryAll_frame : ∀ {x0 : Nat} {x1 : State} {l : List Part} {b : State} (hm : ∀ p ∈ ([.strip, .tiles] : List Part), p ∈ l) (h0 :
    SameBut l b x1), SameBut l b (boundaryAll x0 x1) := by
  intro x0
  induction x0 with
  | zero => intro x1 l b _ h0; first | exact h0 | (unfold boundaryAll; exact h0)
  | succ k ih =>
    intro x1 l b hm h0
    refine SameBut.step ?_ hm h0
    clear hm h0
    unfold boundaryAll
    repeat' (first
      | (with_reducible exact SameBut.refl)
      | ((with_reducible apply SameBut.ite) <;> intro _)
      | (extract_lets +onlyGivenNames x)
      | ((with_reducible apply ih); (· decide))
      | ((with_reducible apply putFrond_frame); (· decide))
      | ((with_reducible apply enableTile_frame); (· decide))
      | ((with_reducible apply putTile_frame); (· decide)))

theorem gotBlock_frame {i : Nat} {s : State} {l : List Part} {b : State} (hm : ∀ p ∈
    ([.freeCtr, .boot, .power, .link, .prot, .rings, .cmp, .frm, .strip, .tiles, .journal, .chans, .safeSet, .safety, .slots, .faults, .cal, .therm, .chain, .time, .nvm] : List Part), p ∈ l)
    (h0 : SameBut l b s) : SameBut l b (gotBlock i s) := by
  refine SameBut.step ?_ hm h0
  clear hm h0
  unfold gotBlock
  repeat' (first
    | (with_reducible exact SameBut.refl)
    | (with_reducible assumption)
    | ((with_reducible apply SameBut.ite) <;> intro _)
    | (extract_lets +onlyGivenNames x;
          (first | ((refine SameBut.gen2 (x := x) ?_ ?_); rotate_left; (clear_value x; intro _); rotate_left; (subst x)) | (skip)))
    | ((with_reducible apply onXfer_frame); (· decide))
    | ((with_reducible apply openPage_frame); (· decide))
    | ((with_reducible apply queueRecs_frame); (· decide))
    | ((with_reducible apply requestReset_frame); (· decide)))

theorem portsRestart_frame {s : State} {l : List Part} {b : State} (hm : ∀ p ∈ ([.chain] : List Part), p ∈ l) (h0 : SameBut l b s) : SameBut l b
    (portsRestart s) := by
  refine SameBut.step ?_ hm h0
  clear hm h0
  unfold portsRestart
  repeat' (first
    | (with_reducible exact SameBut.refl)
    | (extract_lets +onlyGivenNames x)
    | ((with_reducible apply startPort_frame); (· decide)))

theorem postAllDone_frame : ∀ {x0 : Nat} {x1 : State} {l : List Part} {b : State} (hm : ∀ p ∈ ([.outputs, .link, .rings] : List Part), p ∈ l) (h0 :
    SameBut l b x1), SameBut l b (postAllDone x0 x1) := by
  intro x0
  induction x0 with
  | zero => intro x1 l b _ h0; first | exact h0 | (unfold postAllDone; exact h0)
  | succ k ih =>
    intro x1 l b hm h0
    refine SameBut.step ?_ hm h0
    clear hm h0
    unfold postAllDone
    repeat' (first
      | (with_reducible exact SameBut.refl)
      | (extract_lets +onlyGivenNames x)
      | ((with_reducible apply ih); (· decide))
      | ((with_reducible apply postDone_frame); (· decide)))

theorem eventTurn_frame {s : State} {l : List Part} {b : State} (hm : ∀ p ∈ ([.outputs, .link, .rings, .faults] : List Part), p ∈ l) (h0 :
    SameBut l b s) : SameBut l b (eventTurn s) := by
  refine SameBut.step ?_ hm h0
  clear hm h0
  unfold eventTurn
  repeat' (first
    | (with_reducible exact SameBut.refl)
    | ((with_reducible apply SameBut.ite) <;> intro _)
    | (extract_lets +onlyGivenNames x)
    | ((with_reducible apply SameBut.upd); (· with_reducible exact rfl);
          (· ((fail_if_success (with_reducible exact Or.inl rfl)); exact Or.inr trivial));
          (· (intro p hp; cases p <;> first | rfl | exact ⟨rfl, rfl⟩ | exact ⟨rfl, rfl, rfl⟩ | exact absurd (by decide) hp)))
    | ((with_reducible apply postLost_frame); (· decide))
    | ((with_reducible apply postOrLose_frame); (· decide))
    | ((with_reducible apply loseEvent_frame); (· decide))
    | (split))

theorem egTrip_frame {ch : Chan} {n : Nat} {w : Option (Nat × Nat × Nat × Nat)} {s : State} {l : List Part} {b : State} (hm : ∀ p ∈
    ([.strip, .tiles, .chans, .safety, .faults] : List Part), p ∈ l) (h0 : SameBut l b s) : SameBut l b (egTrip ch n w s) := by
  refine SameBut.step ?_ hm h0
  clear hm h0
  unfold egTrip
  repeat' (first
    | (with_reducible exact SameBut.refl)
    | (extract_lets +onlyGivenNames x)
    | ((with_reducible apply raise_frame); (· decide))
    | ((with_reducible apply sloOff_frame); (· decide))
    | ((with_reducible apply egRecord_frame); (· decide))
    | (split))

theorem lightOff_frame {s : State} {l : List Part} {b : State} (hm : ∀ p ∈ ([.strip, .tiles, .chans] : List Part), p ∈ l) (h0 : SameBut l b s) :
    SameBut l b (lightOff s) := by
  refine SameBut.step ?_ hm h0
  clear hm h0
  unfold lightOff
  repeat' (first
    | (with_reducible exact SameBut.refl)
    | (extract_lets +onlyGivenNames x)
    | ((with_reducible apply sloOff_frame); (· decide)))

theorem setDemand_frame {c : Chan} {p : Pair} {s : State} {l : List Part} {b : State} (hm : ∀ p ∈
    ([.strip, .tiles, .chans, .safety, .faults] : List Part), p ∈ l) (h0 : SameBut l b s) : SameBut l b (setDemand c p s) := by
  refine SameBut.step ?_ hm h0
  clear hm h0
  unfold setDemand
  repeat' (first
    | (with_reducible exact SameBut.refl)
    | (extract_lets +onlyGivenNames x)
    | ((with_reducible apply sloOff_frame); (· decide))
    | ((with_reducible apply updChan_frame); (· decide))
    | ((with_reducible apply stopAgain_frame); (· decide))
    | ((with_reducible apply demandBegins_frame); (· decide)))

theorem failReading_frame {was : State} {i : Nat} {s : State} {l : List Part} {b : State} (hm : ∀ p ∈
    ([.freeCtr, .rings, .faults, .therm] : List Part), p ∈ l) (h0 : SameBut l b s) : SameBut l b (failReading was i s) := by
  refine SameBut.step ?_ hm h0
  clear hm h0
  unfold failReading
  repeat' (first
    | (with_reducible exact SameBut.refl)
    | ((with_reducible apply SameBut.ite) <;> intro _)
    | (extract_lets +onlyGivenNames x)
    | ((with_reducible apply putSensor_frame); (· decide))
    | ((with_reducible apply raise_frame); (· decide))
    | ((with_reducible apply thermEvent_frame); (· decide))
    | ((with_reducible apply freezeDomains_frame); (· decide))
    | ((with_reducible apply noNeighbour_frame); (· decide)))

theorem substitute_frame {was : State} {i : Nat} {s : State} {l : List Part} {b : State} (hm : ∀ p ∈
    ([.freeCtr, .rings, .faults, .therm] : List Part), p ∈ l) (h0 : SameBut l b s) : SameBut l b (substitute was i s) := by
  refine SameBut.step ?_ hm h0
  clear hm h0
  unfold substitute
  repeat' (first
    | (with_reducible exact SameBut.refl)
    | ((with_reducible apply SameBut.ite) <;> intro _)
    | (extract_lets +onlyGivenNames x)
    | ((with_reducible apply updSensor_frame); (· decide))
    | ((with_reducible apply noNeighbour_frame); (· decide))
    | (split))

theorem applyRetained_frame {n : Nat} {bad : List Nat} {s : State} {l : List Part} {b : State} (hm : ∀ p ∈
    ([.freeCtr, .tiles, .journal, .faults, .nvm] : List Part), p ∈ l) (h0 : SameBut l b s) : SameBut l b (applyRetained n bad s) := by
  refine SameBut.step ?_ hm h0
  clear hm h0
  unfold applyRetained
  repeat' (first
    | (with_reducible exact SameBut.refl)
    | (extract_lets +onlyGivenNames x)
    | ((with_reducible apply SameBut.upd); (· with_reducible exact rfl);
          (· ((fail_if_success (with_reducible exact Or.inl rfl)); exact Or.inr trivial));
          (· (intro p hp; cases p <;> first | rfl | exact ⟨rfl, rfl⟩ | exact ⟨rfl, rfl, rfl⟩ | exact absurd (by decide) hp)))
    | ((with_reducible apply applyRetaineds_frame); (· decide)))

theorem applySaved_frame {n : Nat} {s : State} {l : List Part} {b : State} (hm : ∀ p ∈ ([.tiles, .journal, .faults, .nvm] : List Part), p ∈ l) (h0 :
    SameBut l b s) : SameBut l b (applySaved n s) := by
  refine SameBut.step ?_ hm h0
  clear hm h0
  unfold applySaved
  repeat' (first
    | (with_reducible exact SameBut.refl)
    | (extract_lets +onlyGivenNames x)
    | ((with_reducible apply SameBut.upd); (· with_reducible exact rfl);
          (· ((fail_if_success (with_reducible exact Or.inl rfl)); exact Or.inr trivial));
          (· (intro p hp; cases p <;> first | rfl | exact ⟨rfl, rfl⟩ | exact ⟨rfl, rfl, rfl⟩ | exact absurd (by decide) hp)))
    | ((with_reducible apply applySaveds_frame); (· decide)))

theorem judgeCommit_frame {n : Nat} {good : Bool} {s : State} {l : List Part} {b : State} (hm : ∀ p ∈
    ([.outputs, .rings, .tiles, .faults] : List Part), p ∈ l) (h0 : SameBut l b s) : SameBut l b (judgeCommit n good s) := by
  refine SameBut.step ?_ hm h0
  clear hm h0
  unfold judgeCommit
  repeat' (first
    | (with_reducible exact SameBut.refl)
    | ((with_reducible apply SameBut.ite) <;> intro _)
    | (extract_lets +onlyGivenNames x)
    | ((with_reducible apply endCommit_frame); (· decide))
    | ((with_reducible apply putTile_frame); (· decide))
    | ((with_reducible apply writeCopy_frame); (· decide))
    | (split))

theorem busFail_frame {n : Nat} {s : State} {l : List Part} {b : State} (hm : ∀ p ∈
    ([.outputs, .rings, .cmp, .strip, .tiles, .faults, .chain] : List Part), p ∈ l) (h0 : SameBut l b s) : SameBut l b (busFail n s) := by
  refine SameBut.step ?_ hm h0
  clear hm h0
  unfold busFail
  repeat' (first
    | (with_reducible exact SameBut.refl)
    | (extract_lets +onlyGivenNames x)
    | ((with_reducible apply headerBad_frame); (· decide))
    | ((with_reducible apply updTile_frame); (· decide))
    | ((with_reducible apply readHeads_frame); (· decide))
    | ((with_reducible apply raise_frame); (· decide))
    | ((with_reducible apply endCert_frame); (· decide))
    | ((with_reducible apply tileReady_frame); (· decide))
    | (split))

theorem tevWaiting_frame {k : Nat} : ∀ {x1 : List (Nat × Int × Int × Int × Nat)} {x2 : State} {l : List Part} {b : State} (hm : ∀ p ∈
    ([.outputs, .rings, .time] : List Part), p ∈ l) (h0 : SameBut l b x2), SameBut l b (tevWaiting k x1 x2) := by
  intro x1
  induction x1 with
  | nil => intro x2 l b _ h0; first | exact h0 | (unfold tevWaiting; exact h0)
  | cons y r ih =>
    intro x2 l b hm h0
    refine SameBut.step ?_ hm h0
    clear hm h0
    obtain ⟨y0, y1, y2, y3, y4⟩ := y
    unfold tevWaiting
    repeat' (first
      | (with_reducible exact SameBut.refl)
      | ((with_reducible apply SameBut.ite) <;> intro _)
      | (extract_lets +onlyGivenNames x)
      | ((with_reducible apply ih); (· decide))
      | ((with_reducible apply putTev_frame); (· decide))
      | ((with_reducible apply complete_frame); (· decide))
      | ((with_reducible apply tevArmNow_frame); (· decide)))

theorem armTrigger_frame {k : Nat} {period : Int} {s : State} {l : List Part} {b : State} (hm : ∀ p ∈ ([.outputs, .time] : List Part), p ∈ l) (h0 :
    SameBut l b s) : SameBut l b (armTrigger k period s) := by
  refine SameBut.step ?_ hm h0
  clear hm h0
  unfold armTrigger
  repeat' (first
    | (with_reducible exact SameBut.refl)
    | ((with_reducible apply tevArmNow_frame); (· decide)))

theorem tevsAtStep_frame {forward : Bool} : ∀ {x1 : Nat} {x2 : State} {l : List Part} {b : State} (hm : ∀ p ∈
    ([.outputs, .faults, .time] : List Part), p ∈ l) (h0 : SameBut l b x2), SameBut l b (tevsAtStep forward x1 x2) := by
  intro x1
  induction x1 with
  | zero => intro x2 l b _ h0; first | exact h0 | (unfold tevsAtStep; exact h0)
  | succ k ih =>
    intro x2 l b hm h0
    refine SameBut.step ?_ hm h0
    clear hm h0
    unfold tevsAtStep
    repeat' (first
      | (with_reducible exact SameBut.refl)
      | (extract_lets +onlyGivenNames x)
      | ((with_reducible apply ih); (· decide))
      | ((with_reducible apply tevAtStep_frame); (· decide)))

theorem calEnd_frame {s : State} {l : List Part} {b : State} (hm : ∀ p ∈ ([.rings, .safety, .cal, .therm, .nvm] : List Part), p ∈ l) (h0 :
    SameBut l b s) : SameBut l b (calEnd s) := by
  refine SameBut.step ?_ hm h0
  clear hm h0
  unfold calEnd
  repeat' (first
    | (with_reducible exact SameBut.refl)
    | ((with_reducible apply SameBut.ite) <;> intro _)
    | (extract_lets +onlyGivenNames x)
    | ((with_reducible apply onCal_frame); (· decide))
    | ((with_reducible apply endCalWaits_frame); (· decide))
    | ((with_reducible apply writeLearned_frame); (· decide))
    | ((with_reducible apply startFull_frame); (· decide)))

theorem singleEnd_frame {c : Nat} {s : State} {l : List Part} {b : State} (hm : ∀ p ∈ ([.rings, .safety, .cal, .nvm] : List Part), p ∈ l) (h0 :
    SameBut l b s) : SameBut l b (singleEnd c s) := by
  refine SameBut.step ?_ hm h0
  clear hm h0
  unfold singleEnd
  repeat' (first
    | (with_reducible exact SameBut.refl)
    | (extract_lets +onlyGivenNames x)
    | ((with_reducible apply writeLearned_frame); (· decide))
    | ((with_reducible apply endCalWait_frame); (· decide))
    | (split))

theorem doneWith_frame {id : Nat} {c : Consumer} {s : State} {l : List Part} {b : State} (hm : ∀ p ∈ ([.chain] : List Part), p ∈ l) (h0 :
    SameBut l b s) : SameBut l b (doneWith id c s) := by
  refine SameBut.step ?_ hm h0
  clear hm h0
  unfold doneWith
  repeat' (first
    | (with_reducible exact SameBut.refl)
    | (extract_lets +onlyGivenNames x)
    | ((with_reducible apply settle_frame); (· decide))
    | ((with_reducible apply updFrame_frame); (· decide)))

theorem sendBoth_frame {typ : Nat} {hops : Nat} {flags : Nat} {pay : List Byte} {s : State} {l : List Part} {b : State} (hm : ∀ p ∈
    ([.chain] : List Part), p ∈ l) (h0 : SameBut l b s) : SameBut l b (sendBoth typ hops flags pay s) := by
  refine SameBut.step ?_ hm h0
  clear hm h0
  unfold sendBoth
  repeat' (first
    | (with_reducible exact SameBut.refl)
    | (extract_lets +onlyGivenNames x)
    | ((with_reducible apply sendSvc_frame); (· decide))
    | ((with_reducible apply onChain_frame); (· decide)))

theorem sendOne_frame {p : Nat} {typ : Nat} {hops : Nat} {flags : Nat} {pay : List Byte} {s : State} {l : List Part} {b : State} (hm : ∀ p ∈
    ([.chain] : List Part), p ∈ l) (h0 : SameBut l b s) : SameBut l b (sendOne p typ hops flags pay s) := by
  refine SameBut.step ?_ hm h0
  clear hm h0
  unfold sendOne
  repeat' (first
    | (with_reducible exact SameBut.refl)
    | (extract_lets +onlyGivenNames x)
    | ((with_reducible apply sendSvc_frame); (· decide))
    | ((with_reducible apply onChain_frame); (· decide)))

theorem kickGroups_frame {n : Nat} {s : State} {l : List Part} {b : State} (hm : ∀ p ∈ ([.outputs, .link, .cmp] : List Part), p ∈ l) (h0 :
    SameBut l b s) : SameBut l b (kickGroups n s) := by
  refine SameBut.step ?_ hm h0
  clear hm h0
  unfold kickGroups
  repeat' (first
    | (with_reducible exact SameBut.refl)
    | ((with_reducible apply kickAll_frame); (· decide)))

theorem passItems_frame : ∀ {x0 : List GateItem} {x1 : State} {l : List Part} {b : State} (hm : ∀ p ∈
    ([.rings, .cmp, .frm, .strip, .tiles] : List Part), p ∈ l) (h0 : SameBut l b x1), SameBut l b (passItems x0 x1) := by
  intro x0
  induction x0 with
  | nil => intro x1 l b _ h0; first | exact h0 | (unfold passItems; exact h0)
  | cons y r ih =>
    intro x1 l b hm h0
    refine SameBut.step ?_ hm h0
    clear hm h0
    unfold passItems
    repeat' (first
      | (with_reducible exact SameBut.refl)
      | (extract_lets +onlyGivenNames x)
      | ((with_reducible apply ih); (· decide))
      | ((with_reducible apply passItem_frame); (· decide)))

theorem promote_frame {n : Nat} {p : Nat} {wire : Bool} {inj : Bool} {s : State} {l : List Part} {b : State} (hm : ∀ p ∈
    ([.outputs, .link, .rings, .strip, .tiles, .chans, .slots, .faults] : List Part), p ∈ l) (h0 : SameBut l b s) : SameBut l b
    (promote n p wire inj s) := by
  refine SameBut.step ?_ hm h0
  clear hm h0
  unfold promote
  repeat' (first
    | (with_reducible exact SameBut.refl)
    | ((with_reducible apply SameBut.ite) <;> intro _)
    | (extract_lets +onlyGivenNames x)
    | ((with_reducible apply logEntry_frame); (· decide))
    | ((with_reducible apply putSlot_frame); (· decide))
    | ((with_reducible apply faultIrq_frame); (· decide))
    | ((with_reducible apply postEvent_frame); (· decide))
    | ((with_reducible apply lightOff_frame); (· decide)))

theorem frameBad_frame {p : Nat} {r : RxFrame} {bytes : List Byte} {s : State} {l : List Part} {b : State} (hm : ∀ p ∈
    ([.chain] : List Part), p ∈ l) (h0 : SameBut l b s) : SameBut l b (frameBad p r bytes s) := by
  refine SameBut.step ?_ hm h0
  clear hm h0
  unfold frameBad
  repeat' (first
    | (with_reducible exact SameBut.refl)
    | (extract_lets +onlyGivenNames x)
    | ((with_reducible apply settle_frame); (· decide))
    | ((with_reducible apply updFrame_frame); (· decide))
    | ((with_reducible apply onChain_frame); (· decide))
    | ((with_reducible apply putCred_frame); (· decide))
    | (split))

theorem relay_frame {p : Nat} {m : List Byte} {s : State} {l : List Part} {b : State} (hm : ∀ p ∈ ([.chain] : List Part), p ∈ l) (h0 :
    SameBut l b s) : SameBut l b (relay p m s) := by
  refine SameBut.step ?_ hm h0
  clear hm h0
  unfold relay
  repeat' (first
    | (with_reducible exact SameBut.refl)
    | ((with_reducible apply SameBut.ite) <;> intro _)
    | (extract_lets +onlyGivenNames x)
    | ((with_reducible apply sendSvc_frame); (· decide))
    | ((with_reducible apply onChain_frame); (· decide)))

theorem gotPage_frame {p : Nat} {s : State} {l : List Part} {b : State} (hm : ∀ p ∈
    ([.freeCtr, .boot, .power, .link, .prot, .rings, .cmp, .frm, .strip, .tiles, .journal, .chans, .safeSet, .safety, .slots, .faults, .cal, .therm, .chain, .time, .nvm] : List Part), p ∈ l)
    (h0 : SameBut l b s) : SameBut l b (gotPage p s) := by
  refine SameBut.step ?_ hm h0
  clear hm h0
  unfold gotPage
  repeat' (first
    | (with_reducible exact SameBut.refl)
    | ((with_reducible apply SameBut.ite) <;> intro _)
    | (extract_lets +onlyGivenNames x)
    | ((with_reducible apply onXfer_frame); (· decide))
    | ((with_reducible apply gotBlock_frame); (· decide)))

theorem cutRx_frame {p : Nat} {n : Nat} {s : State} {l : List Part} {b : State} (hm : ∀ p ∈ ([.chain] : List Part), p ∈ l) (h0 : SameBut l b s) :
    SameBut l b (cutRx p n s) := by
  refine SameBut.step ?_ hm h0
  clear hm h0
  unfold cutRx
  repeat' (first
    | (with_reducible exact SameBut.refl)
    | (with_reducible assumption)
    | (extract_lets +onlyGivenNames x;
          (first | ((refine SameBut.gen (x := x) ?_ ?_); rotate_left; (clear_value x; intro _); rotate_left; (subst x)) | (skip)))
    | ((with_reducible apply putCred_frame); (· decide))
    | ((with_reducible apply updPort_frame); (· decide))
    | ((with_reducible apply clearStale_frame); (· decide))
    | ((with_reducible apply onChain_frame); (· decide))
    | ((with_reducible apply settle_frame); (· decide))
    | ((with_reducible apply updFrame_frame); (· decide))
    | (split))

theorem postHeldEvents_frame : ∀ {x0 : Nat} {x1 : State} {l : List Part} {b : State} (hm : ∀ p ∈
    ([.outputs, .link, .rings, .faults] : List Part), p ∈ l) (h0 : SameBut l b x1), SameBut l b (postHeldEvents x0 x1) := by
  intro x0
  induction x0 with
  | zero => intro x1 l b _ h0; first | exact h0 | (unfold postHeldEvents; exact h0)
  | succ k ih =>
    intro x1 l b hm h0
    refine SameBut.step ?_ hm h0
    clear hm h0
    unfold postHeldEvents
    repeat' (first
      | (with_reducible exact SameBut.refl)
      | ((with_reducible apply SameBut.ite) <;> intro _)
      | (extract_lets +onlyGivenNames x)
      | ((with_reducible apply ih); (· decide))
      | ((with_reducible apply eventTurn_frame); (· decide)))

theorem exchange_frame {agree : Bool} {s : State} {l : List Part} {b : State} (hm : ∀ p ∈ ([.strip, .tiles, .chans] : List Part), p ∈ l) (h0 :
    SameBut l b s) : SameBut l b (exchange agree s) := by
  refine SameBut.step ?_ hm h0
  clear hm h0
  unfold exchange
  repeat' (first
    | (with_reducible exact SameBut.refl)
    | ((with_reducible apply SameBut.ite) <;> intro _)
    | (extract_lets +onlyGivenNames x)
    | ((with_reducible apply onSaf_frame_only_chans); (· (intro _; first | rfl | (split <;> rfl) | ((repeat' split) <;> rfl)));
          (· (intro _; first | rfl | (split <;> rfl) | ((repeat' split) <;> rfl)));
          (· (intro _; first | rfl | (split <;> rfl) | ((repeat' split) <;> rfl)));
          (· (intro _; first | rfl | (split <;> rfl) | ((repeat' split) <;> rfl))); (· decide))
    | ((with_reducible apply lightOff_frame); (· decide)))

theorem measure_frame {vals : List (Nat × Option Int)} {s : State} {l : List Part} {b : State}
    (hm : ∀ p ∈
    ([.freeCtr, .rings, .faults, .therm] : List Part), p ∈ l) (h0 : SameBut l b s) : SameBut l b (measure vals s) := by
  refine SameBut.step ?_ hm h0
  unfold measure
  refine riseDomains_frame (by decide) (forEach_frame (fun _ _ h => learnOffset_frame (by decide) h)
    (forEach_frame (fun _ _ h => substitute_frame (by decide) h) (foldl_frame (fun _ x h => ?_) (foldl_frame (fun _ x h => ?_) SameBut.refl))))
  · split
    · exact failReading_frame (by decide) h
    · exact h
  · split
    · exact validReading_frame (by decide) h
    · exact h

theorem settleRetained_frame : ∀ {x0 : Nat} {x1 : State} {l : List Part} {b : State} (hm : ∀ p ∈
    ([.freeCtr, .tiles, .journal, .faults, .nvm] : List Part), p ∈ l) (h0 : SameBut l b x1), SameBut l b (settleRetained x0 x1) := by
  intro x0
  induction x0 with
  | zero => intro x1 l b _ h0; first | exact h0 | (unfold settleRetained; exact h0)
  | succ k ih =>
    intro x1 l b hm h0
    refine SameBut.step ?_ hm h0
    clear hm h0
    unfold settleRetained
    repeat' (first
      | (with_reducible exact SameBut.refl)
      | ((with_reducible apply SameBut.ite) <;> intro _)
      | (extract_lets +onlyGivenNames x)
      | ((with_reducible apply ih); (· decide))
      | ((with_reducible apply applyRetained_frame); (· decide)))

theorem opFails_frame {n : Nat} {x1 : BusOp} {x2 : State} {l : List Part} {b : State} (hm : ∀ p ∈
    ([.outputs, .rings, .cmp, .strip, .tiles, .faults, .chain] : List Part), p ∈ l) (h0 : SameBut l b x2) : SameBut l b (opFails n x1 x2) := by
  refine SameBut.step ?_ hm h0
  clear hm h0
  unfold opFails
  repeat' (first
    | (with_reducible exact SameBut.refl)
    | ((with_reducible apply busFail_frame); (· decide))
    | ((with_reducible apply judgeCommit_frame); (· decide))
    | ((with_reducible apply updTile_frame); (· decide))
    | (split))

theorem endLedger_frame {n : Nat} {h : Header} {a : List Byte} {b_ : List Byte} {ecc : EccSeen} {s : State} {l : List Part} {b : State} (hm : ∀ p ∈
    ([.outputs, .freeCtr, .rings, .tiles, .journal, .faults, .nvm] : List Part), p ∈ l) (h0 : SameBut l b s) : SameBut l b
    (endLedger n h a b_ ecc s) := by
  refine SameBut.step ?_ hm h0
  clear hm h0
  unfold endLedger
  repeat' (first
    | (with_reducible exact SameBut.refl)
    | (with_reducible assumption)
    | (extract_lets +onlyGivenNames x;
          (first | ((refine SameBut.gen (x := x) ?_ ?_); rotate_left; (clear_value x; intro _); rotate_left; (subst x)) | (skip)))
    | ((with_reducible apply putTile_frame); (· decide))
    | ((with_reducible apply raise_frame); (· decide))
    | ((with_reducible apply eccUncorrected_frame); (· decide))
    | ((with_reducible apply eccCorrected_frame); (· decide))
    | ((with_reducible apply readCert_frame); (· decide))
    | ((with_reducible apply applyOrphan_frame); (· decide))
    | ((with_reducible apply applySaved_frame); (· decide))
    | ((with_reducible apply applyRetained_frame); (· decide))
    | (split))

theorem writeLdgCtrl_frame {v : Nat} {s : State} {l : List Part} {b : State} (hm : ∀ p ∈ ([.outputs, .tiles, .time] : List Part), p ∈ l) (h0 :
    SameBut l b s) : SameBut l b (writeLdgCtrl v s) := by
  refine SameBut.step ?_ hm h0
  clear hm h0
  unfold writeLdgCtrl
  repeat' (first
    | (with_reducible exact SameBut.refl)
    | ((with_reducible apply SameBut.ite) <;> intro _)
    | (extract_lets +onlyGivenNames x)
    | ((with_reducible apply SameBut.upd); (· with_reducible exact rfl);
          (· ((fail_if_success (with_reducible exact Or.inl rfl)); exact Or.inr trivial));
          (· (intro p hp; cases p <;> first | rfl | exact ⟨rfl, rfl⟩ | exact ⟨rfl, rfl, rfl⟩ | exact absurd (by decide) hp)))
    | ((with_reducible apply armTrigger_frame); (· decide)))

theorem writeDiagCfg_frame {v : Nat} {s : State} {l : List Part} {b : State} (hm : ∀ p ∈ ([.outputs, .cal, .time] : List Part), p ∈ l) (h0 :
    SameBut l b s) : SameBut l b (writeDiagCfg v s) := by
  refine SameBut.step ?_ hm h0
  clear hm h0
  unfold writeDiagCfg
  repeat' (first
    | (with_reducible exact SameBut.refl)
    | ((with_reducible apply SameBut.ite) <;> intro _)
    | (extract_lets +onlyGivenNames x)
    | ((with_reducible apply SameBut.upd); (· with_reducible exact rfl);
          (· ((fail_if_success (with_reducible exact Or.inl rfl)); exact Or.inr trivial));
          (· (intro p hp; cases p <;> first | rfl | exact ⟨rfl, rfl⟩ | exact ⟨rfl, rfl, rfl⟩ | exact absurd (by decide) hp)))
    | ((with_reducible apply armTrigger_frame); (· decide)))

theorem outputStepped_frame {d : Int} {s : State} {l : List Part} {b : State} (hm : ∀ p ∈ ([.outputs, .frm, .faults, .time] : List Part), p ∈ l)
    (h0 : SameBut l b s) : SameBut l b (outputStepped d s) := by
  refine SameBut.step ?_ hm h0
  clear hm h0
  unfold outputStepped
  repeat' (first
    | (with_reducible exact SameBut.refl)
    | (with_reducible assumption)
    | (extract_lets +onlyGivenNames x;
          (first | ((refine SameBut.gen (x := x) ?_ ?_); rotate_left; (clear_value x; intro _); rotate_left; (subst x)) | (skip)))
    | ((with_reducible apply onTim_frame); (· decide))
    | ((with_reducible apply tevsAtStep_frame); (· decide))
    | ((with_reducible apply raise_frame); (· decide))
    | ((with_reducible apply frameStepped_frame); (· decide)))

theorem calSkips_frame : ∀ {x0 : Nat} {x1 : State} {l : List Part} {b : State} (hm : ∀ p ∈ ([.rings, .safety, .cal, .nvm] : List Part), p ∈ l)
    (h0 : SameBut l b x1), SameBut l b (calSkips x0 x1) := by
  intro x0
  induction x0 with
  | zero => intro x1 l b _ h0; first | exact h0 | (unfold calSkips; exact h0)
  | succ k ih =>
    intro x1 l b hm h0
    refine SameBut.step ?_ hm h0
    clear hm h0
    unfold calSkips
    repeat' (first
      | (with_reducible exact SameBut.refl)
      | ((with_reducible apply SameBut.ite) <;> intro _)
      | (extract_lets +onlyGivenNames x)
      | ((with_reducible apply ih); (· decide))
      | ((with_reducible apply singleEnd_frame); (· decide))
      | ((with_reducible apply onCal_frame); (· decide))
      | (split))

theorem fillHost1_frame {r : Nat} {s : State} {l : List Part} {b : State} (hm : ∀ p ∈ ([.outputs, .rings, .faults, .chain] : List Part), p ∈ l)
    (h0 : SameBut l b s) : SameBut l b (fillHost1 r s) := by
  refine SameBut.step ?_ hm h0
  clear hm h0
  unfold fillHost1
  repeat' (first
    | (with_reducible exact SameBut.refl)
    | (with_reducible assumption)
    | ((with_reducible apply SameBut.ite) <;> intro _)
    | (extract_lets +onlyGivenNames x;
          (first | ((refine SameBut.gen (x := x) ?_ ?_); rotate_left; (clear_value x; intro _); rotate_left; (subst x)) | (skip)))
    | ((with_reducible apply readParity_frame); (· decide))
    | ((with_reducible apply readQueue_frame); (· decide))
    | ((with_reducible apply hostWrite_frame); (· decide))
    | ((with_reducible apply onChain_frame); (· decide))
    | ((with_reducible apply complete_frame); (· decide))
    | ((with_reducible apply doneWith_frame); (· decide))
    | (split))

theorem openGate_frame {ecc : EccSeen} {analog : Bool} {s : State} {l : List Part} {b : State} (hm : ∀ p ∈
    ([.outputs, .link, .rings, .cmp, .frm, .strip, .tiles, .faults] : List Part), p ∈ l) (h0 : SameBut l b s) : SameBut l b
    (openGate ecc analog s) := by
  refine SameBut.step ?_ hm h0
  clear hm h0
  unfold openGate
  repeat' (first
    | (with_reducible exact SameBut.refl)
    | (with_reducible assumption)
    | ((with_reducible apply SameBut.ite) <;> intro _)
    | (extract_lets +onlyGivenNames x;
          (first | ((refine SameBut.gen (x := x) ?_ ?_); rotate_left; (clear_value x; intro _); rotate_left; (subst x)) | (skip)))
    | ((with_reducible apply SameBut.upd); (· with_reducible exact rfl);
          (· ((fail_if_success (with_reducible exact Or.inl rfl)); exact Or.inr trivial));
          (· (intro p hp; cases p <;> first | rfl | exact ⟨rfl, rfl⟩ | exact ⟨rfl, rfl, rfl⟩ | exact absurd (by decide) hp)))
    | ((with_reducible apply endFrame_frame); (· decide))
    | ((with_reducible apply passItems_frame); (· decide))
    | ((with_reducible apply onCmp_frame); (· (intro _; first | rfl | (split <;> rfl) | ((repeat' split) <;> rfl))); (· decide))
    | ((with_reducible apply markAll_frame); (· decide))
    | ((with_reducible apply flipGroups_frame); (· decide))
    | ((with_reducible apply onFrm_frame); (· decide))
    | ((with_reducible apply beginComp_frame); (· decide)))

theorem countEvent_frame {n : Nat} {wire : Bool} {inj : Bool} {s : State} {l : List Part} {b : State} (hm : ∀ p ∈
    ([.outputs, .link, .rings, .strip, .tiles, .chans, .slots, .faults] : List Part), p ∈ l) (h0 : SameBut l b s) : SameBut l b
    (countEvent n wire inj s) := by
  refine SameBut.step ?_ hm h0
  clear hm h0
  unfold countEvent
  repeat' (first
    | (with_reducible exact SameBut.refl)
    | ((with_reducible apply SameBut.ite) <;> intro _)
    | (extract_lets +onlyGivenNames x)
    | ((with_reducible apply promote_frame); (· decide))
    | ((with_reducible apply putSlot_frame); (· decide)))

theorem sendVia_frame {via : Option Nat} {typ : Nat} {hops : Nat} {flags : Nat} {pay : List Byte} {s : State} {l : List Part} {b : State} (hm :
    ∀ p ∈ ([.outputs, .chain] : List Part), p ∈ l) (h0 : SameBut l b s) : SameBut l b (sendVia via typ hops flags pay s) := by
  refine SameBut.step ?_ hm h0
  clear hm h0
  unfold sendVia
  repeat' (first
    | (with_reducible exact SameBut.refl)
    | (extract_lets +onlyGivenNames x)
    | ((with_reducible apply sendOne_frame); (· decide))
    | ((with_reducible apply emit_frame); (· decide))
    | ((with_reducible apply onChain_frame); (· decide))
    | (split))

theorem startFirmware_frame {s : State} {l : List Part} {b : State} (hm : ∀ p ∈
    ([.outputs, .freeCtr, .rings, .tiles, .journal, .faults, .cal, .time, .nvm] : List Part), p ∈ l) (h0 : SameBut l b s) : SameBut l b
    (startFirmware s) := by
  refine SameBut.step ?_ hm h0
  clear hm h0
  unfold startFirmware
  repeat' (first
    | (with_reducible exact SameBut.refl)
    | (with_reducible assumption)
    | (extract_lets +onlyGivenNames x;
          (first | ((refine SameBut.gen (x := x) ?_ ?_); rotate_left; (clear_value x; intro _); rotate_left; (subst x)) | (skip)))
    | ((with_reducible apply onNvm_frame); (· (intro _; first | rfl | (split <;> rfl) | ((repeat' split) <;> rfl)));
          (· (intro _; first | rfl | (split <;> rfl) | ((repeat' split) <;> rfl))); (· decide))
    | ((with_reducible apply armTrigger_frame); (· decide))
    | ((with_reducible apply loadCal_frame); (· decide))
    | ((with_reducible apply readCurves_frame); (· decide))
    | ((with_reducible apply settleRetained_frame); (· decide))
    | ((with_reducible apply reportStuck_frame); (· decide)))

theorem recordEffect_frame {r : Rec} {s : State} {l : List Part} {b : State} (hm : ∀ p ∈
    ([.freeCtr, .boot, .power, .link, .prot, .rings, .cmp, .frm, .strip, .tiles, .journal, .chans, .safeSet, .safety, .slots, .faults, .cal, .therm, .chain, .time, .pages, .nvm] : List Part), p ∈ l)
    (h0 : SameBut l b s) : SameBut l b (recordEffect r s) := by
  refine SameBut.step ?_ hm h0
  clear hm h0
  unfold recordEffect
  repeat' (first
    | (with_reducible exact SameBut.refl)
    | (with_reducible assumption)
    | ((with_reducible apply SameBut.ite) <;> intro _)
    | (extract_lets +onlyGivenNames x;
          (first | ((refine SameBut.gen (x := x) ?_ ?_); rotate_left; (clear_value x; intro _); rotate_left; (subst x)) | (skip)))
    | ((with_reducible apply SameBut.upd); (· with_reducible exact rfl);
          (· ((fail_if_success (with_reducible exact Or.inl rfl)); exact Or.inr trivial));
          (· (intro p hp; cases p <;> first | rfl | exact ⟨rfl, rfl⟩ | exact ⟨rfl, rfl, rfl⟩ | exact absurd (by decide) hp)))
    | ((with_reducible apply commitPage_frame); (· decide))
    | ((with_reducible apply gotPage_frame); (· decide))
    | ((with_reducible apply complete_frame); (· decide))
    | ((with_reducible apply onSaf_frame); (· (intro _; first | rfl | (split <;> rfl) | ((repeat' split) <;> rfl)));
          (· (intro _; first | rfl | (split <;> rfl) | ((repeat' split) <;> rfl)));
          (· (intro _; first | rfl | (split <;> rfl) | ((repeat' split) <;> rfl)));
          (· (intro _; first | rfl | (split <;> rfl) | ((repeat' split) <;> rfl)));
          (· (intro _; first | rfl | (split <;> rfl) | ((repeat' split) <;> rfl))); (· decide))
    | ((with_reducible apply onNvm_frame); (· (intro _; first | rfl | (split <;> rfl) | ((repeat' split) <;> rfl)));
          (· (intro _; first | rfl | (split <;> rfl) | ((repeat' split) <;> rfl))); (· decide))
    | ((with_reducible apply gotBlock_frame); (· decide))
    | ((with_reducible apply saveHalf_frame); (· decide))
    | ((with_reducible apply copyLog_frame); (· decide))
    | ((with_reducible apply endSave_frame); (· decide))
    | ((with_reducible apply chipReset_frame); (· decide))
    | (split))

theorem cutTx_frame {p : Nat} {s : State} {l : List Part} {b : State} (hm : ∀ p ∈ ([.freeCtr, .rings, .chain] : List Part), p ∈ l) (h0 :
    SameBut l b s) : SameBut l b (cutTx p s) := by
  refine SameBut.step ?_ hm h0
  clear hm h0
  unfold cutTx
  repeat' (first
    | (with_reducible exact SameBut.refl)
    | (with_reducible assumption)
    | (extract_lets +onlyGivenNames x;
          (first | ((refine SameBut.gen (x := x) ?_ ?_); rotate_left; (clear_value x; intro _); rotate_left; (subst x)) | ((refine SameBut.gen2 (x := x) ?_ ?_); rotate_left; (clear_value x; intro _); rotate_left; (subst x)) | (skip)))
    | ((with_reducible apply updPort_frame); (· decide))
    | ((with_reducible apply freshFree_frame); (· decide))
    | ((with_reducible apply putCred_frame); (· decide))
    | ((with_reducible apply txEnds_frame); (· decide))
    | ((with_reducible apply doneWith_frame); (· decide))
    | (split))

theorem discardQueue_frame {p : Nat} : ∀ {x1 : List Nat} {x2 : State} {l : List Part} {b : State} (hm : ∀ p ∈ ([.rings, .chain] : List Part), p ∈ l)
    (h0 : SameBut l b x2), SameBut l b (discardQueue p x1 x2) := by
  intro x1
  induction x1 with
  | nil => intro x2 l b _ h0; first | exact h0 | (unfold discardQueue; exact h0)
  | cons y r ih =>
    intro x2 l b hm h0
    refine SameBut.step ?_ hm h0
    clear hm h0
    unfold discardQueue
    repeat' (first
      | (with_reducible exact SameBut.refl)
      | (with_reducible assumption)
      | (extract_lets +onlyGivenNames x;
            (first | ((refine SameBut.gen (x := x) ?_ ?_); rotate_left; (clear_value x; intro _); rotate_left; (subst x)) | (skip)))
      | ((with_reducible apply ih); (· decide))
      | ((with_reducible apply updPort_frame); (· decide))
      | ((with_reducible apply txEnds_frame); (· decide))
      | ((with_reducible apply doneWith_frame); (· decide))
      | (split))

theorem helloOn_frame {p : Nat} {s : State} {l : List Part} {b : State} (hm : ∀ p ∈ ([.chain] : List Part), p ∈ l) (h0 : SameBut l b s) :
    SameBut l b (helloOn p s) := by
  refine SameBut.step ?_ hm h0
  clear hm h0
  unfold helloOn
  repeat' (first
    | (with_reducible exact SameBut.refl)
    | ((with_reducible apply SameBut.ite) <;> intro _)
    | (extract_lets +onlyGivenNames x)
    | ((with_reducible apply sendOne_frame); (· decide)))

theorem sendReport_frame {s : State} {l : List Part} {b : State} (hm : ∀ p ∈ ([.chain] : List Part), p ∈ l) (h0 : SameBut l b s) : SameBut l b
    (sendReport s) := by
  refine SameBut.step ?_ hm h0
  clear hm h0
  unfold sendReport
  repeat' (first
    | (with_reducible exact SameBut.refl)
    | ((with_reducible apply sendBoth_frame); (· decide)))

theorem stepDomain_frame {d : Nat} {v : Int} {s : State} {l : List Part} {b : State} (hm : ∀ p ∈
    ([.outputs, .frm, .faults, .time] : List Part), p ∈ l) (h0 : SameBut l b s) : SameBut l b (stepDomain d v s) := by
  refine SameBut.step ?_ hm h0
  clear hm h0
  unfold stepDomain
  repeat' (first
    | (with_reducible exact SameBut.refl)
    | ((with_reducible apply SameBut.ite) <;> intro _)
    | (extract_lets +onlyGivenNames x)
    | ((with_reducible apply remap_frame); (· decide))
    | ((with_reducible apply outputStepped_frame); (· decide)))

theorem applySwitch_frame {d : Nat} {s : State} {l : List Part} {b : State} (hm : ∀ p ∈ ([.outputs, .frm, .faults, .time] : List Part), p ∈ l) (h0 :
    SameBut l b s) : SameBut l b (applySwitch d s) := by
  refine SameBut.step ?_ hm h0
  clear hm h0
  unfold applySwitch
  repeat' (first
    | (with_reducible exact SameBut.refl)
    | (with_reducible assumption)
    | ((with_reducible apply SameBut.ite) <;> intro _)
    | (extract_lets +onlyGivenNames x;
          (first | ((refine SameBut.gen (x := x) ?_ ?_); rotate_left; (clear_value x; intro _); rotate_left; (subst x)) | (skip)))
    | ((with_reducible apply raise_frame); (· decide))
    | ((with_reducible apply onTim_frame); (· decide))
    | ((with_reducible apply outputStepped_frame); (· decide))
    | ((with_reducible apply judgeHoldover_frame); (· decide)))

theorem calAdvance_frame {s : State} {l : List Part} {b : State} (hm : ∀ p ∈ ([.rings, .safety, .cal, .therm, .nvm] : List Part), p ∈ l) (h0 :
    SameBut l b s) : SameBut l b (calAdvance s) := by
  refine SameBut.step ?_ hm h0
  clear hm h0
  unfold calAdvance
  repeat' (first
    | (with_reducible exact SameBut.refl)
    | (extract_lets +onlyGivenNames x)
    | ((with_reducible apply calEnd_frame); (· decide))
    | ((with_reducible apply calSkips_frame); (· decide)))

theorem fillHost_frame {r : Nat} : ∀ {x1 : Nat} {x2 : State} {l : List Part} {b : State} (hm : ∀ p ∈
    ([.outputs, .rings, .faults, .chain] : List Part), p ∈ l) (h0 : SameBut l b x2), SameBut l b (fillHost r x1 x2) := by
  intro x1
  induction x1 with
  | zero => intro x2 l b _ h0; first | exact h0 | (unfold fillHost; exact h0)
  | succ k ih =>
    intro x2 l b hm h0
    refine SameBut.step ?_ hm h0
    clear hm h0
    unfold fillHost
    repeat' (first
      | (with_reducible exact SameBut.refl)
      | (extract_lets +onlyGivenNames x)
      | ((with_reducible apply ih); (· decide))
      | ((with_reducible apply fillHost1_frame); (· decide)))

theorem flipNow_frame {ecc : EccSeen} {s : State} {l : List Part} {b : State} (hm : ∀ p ∈
    ([.outputs, .link, .rings, .cmp, .frm, .strip, .tiles, .faults, .therm] : List Part), p ∈ l) (h0 : SameBut l b s) : SameBut l b
    (flipNow ecc s) := by
  refine SameBut.step ?_ hm h0
  clear hm h0
  unfold flipNow
  repeat' (first
    | (with_reducible exact SameBut.refl)
    | (with_reducible assumption)
    | ((with_reducible apply SameBut.ite) <;> intro _)
    | (extract_lets +onlyGivenNames x;
          (first | ((refine SameBut.gen (x := x) ?_ ?_); rotate_left; (clear_value x; intro _); rotate_left; (subst x)) | (skip)))
    | ((with_reducible apply SameBut.upd); (· with_reducible exact rfl);
          (· ((fail_if_success (with_reducible exact Or.inl rfl)); exact Or.inr trivial));
          (· (intro p hp; cases p <;> first | rfl | exact ⟨rfl, rfl⟩ | exact ⟨rfl, rfl, rfl⟩ | exact absurd (by decide) hp)))
    | ((with_reducible apply onFrm_frame); (· decide))
    | ((with_reducible apply stripAnalogDone_frame); (· decide))
    | ((with_reducible apply extendFrame_frame); (· decide))
    | ((with_reducible apply openGate_frame); (· decide))
    | ((with_reducible apply governor_frame); (· decide))
    | (split))

theorem acceptLine_frame {n : Nat} {s : State} {l : List Part} {b : State} (hm : ∀ p ∈
    ([.outputs, .link, .rings, .strip, .tiles, .chans, .slots, .faults] : List Part), p ∈ l) (h0 : SameBut l b s) : SameBut l b
    (acceptLine n s) := by
  refine SameBut.step ?_ hm h0
  clear hm h0
  unfold acceptLine
  repeat' (first
    | (with_reducible exact SameBut.refl)
    | ((with_reducible apply SameBut.ite) <;> intro _)
    | (extract_lets +onlyGivenNames x)
    | ((with_reducible apply putSlot_frame); (· decide))
    | ((with_reducible apply countEvent_frame); (· decide))
    | ((with_reducible apply onFlt_frame_slots); (· decide)))

theorem fwOffer_frame {via : Option Nat} {pay : List Byte} {s : State} {l : List Part} {b : State} (hm : ∀ p ∈
    ([.outputs, .chain, .nvm] : List Part), p ∈ l) (h0 : SameBut l b s) : SameBut l b (fwOffer via pay s) := by
  refine SameBut.step ?_ hm h0
  clear hm h0
  unfold fwOffer
  repeat' (first
    | (with_reducible exact SameBut.refl)
    | ((with_reducible apply SameBut.ite) <;> intro _)
    | (extract_lets +onlyGivenNames x)
    | ((with_reducible apply onNvm_frame); (· (intro _; first | rfl | (split <;> rfl) | ((repeat' split) <;> rfl)));
          (· (intro _; first | rfl | (split <;> rfl) | ((repeat' split) <;> rfl))); (· decide))
    | ((with_reducible apply sendVia_frame); (· decide))
    | ((with_reducible apply onXfer_frame); (· decide)))

theorem storeBlock_frame {via : Option Nat} {image : Nat} {i : Nat} {data : List Byte} {s : State} {l : List Part} {b : State} (hm : ∀ p ∈
    ([.outputs, .freeCtr, .rings, .safety, .cal, .chain, .time, .nvm] : List Part), p ∈ l) (h0 : SameBut l b s) : SameBut l b
    (storeBlock via image i data s) := by
  refine SameBut.step ?_ hm h0
  clear hm h0
  unfold storeBlock
  repeat' (first
    | (with_reducible exact SameBut.refl)
    | ((with_reducible apply SameBut.ite) <;> intro _)
    | (extract_lets +onlyGivenNames x)
    | ((with_reducible apply beginWriting_frame); (· decide))
    | ((with_reducible apply openPage_frame); (· decide))
    | ((with_reducible apply queueRecs_frame); (· decide))
    | ((with_reducible apply sendVia_frame); (· decide)))

theorem sendBlocks_frame {via : Option Nat} {image : Nat} {hops : Nat} {first : Nat} : ∀ {x4 : Nat} {x5 : State} {l : List Part} {b : State} (hm :
    ∀ p ∈ ([.outputs, .chain] : List Part), p ∈ l) (h0 : SameBut l b x5), SameBut l b (sendBlocks via image hops first x4 x5) := by
  intro x4
  induction x4 with
  | zero => intro x5 l b _ h0; first | exact h0 | (unfold sendBlocks; exact h0)
  | succ k ih =>
    intro x5 l b hm h0
    refine SameBut.step ?_ hm h0
    clear hm h0
    unfold sendBlocks
    repeat' (first
      | (with_reducible exact SameBut.refl)
      | (extract_lets +onlyGivenNames x)
      | ((with_reducible apply ih); (· decide))
      | ((with_reducible apply sendVia_frame); (· decide)))

theorem recordDone_frame {s : State} {l : List Part} {b : State} (hm : ∀ p ∈
    ([.freeCtr, .boot, .power, .link, .prot, .rings, .cmp, .frm, .strip, .tiles, .journal, .chans, .safeSet, .safety, .slots, .faults, .cal, .therm, .chain, .time, .pages, .nvm] : List Part), p ∈ l)
    (h0 : SameBut l b s) : SameBut l b (recordDone s) := by
  refine SameBut.step ?_ hm h0
  clear hm h0
  unfold recordDone
  repeat' (first
    | (with_reducible exact SameBut.refl)
    | ((with_reducible apply SameBut.ite) <;> intro _)
    | (extract_lets +onlyGivenNames x)
    | ((with_reducible apply recordEffect_frame); (· decide))
    | ((with_reducible apply onNvm_frame_pages); (· decide))
    | (split))

theorem leaveLink_frame {p : Nat} {report : Bool} {s : State} {l : List Part} {b : State} (hm : ∀ p ∈
    ([.freeCtr, .rings, .faults, .chain] : List Part), p ∈ l) (h0 : SameBut l b s) : SameBut l b (leaveLink p report s) := by
  refine SameBut.step ?_ hm h0
  clear hm h0
  unfold leaveLink
  repeat' (first
    | (with_reducible exact SameBut.refl)
    | ((with_reducible apply SameBut.ite) <;> intro _)
    | (extract_lets +onlyGivenNames x)
    | ((with_reducible apply cutTx_frame); (· decide))
    | ((with_reducible apply cutRx_frame); (· decide))
    | ((with_reducible apply discardQueue_frame); (· decide))
    | ((with_reducible apply clearStale_frame); (· decide))
    | ((with_reducible apply updPort_frame); (· decide))
    | ((with_reducible apply raise_frame); (· decide)))

theorem enterSwitch_frame {p : Nat} {t : Nat} {s : State} {l : List Part} {b : State} (hm : ∀ p ∈
    ([.outputs, .freeCtr, .rings, .chain] : List Part), p ∈ l) (h0 : SameBut l b s) : SameBut l b (enterSwitch p t s) := by
  refine SameBut.step ?_ hm h0
  clear hm h0
  unfold enterSwitch
  repeat' (first
    | (with_reducible exact SameBut.refl)
    | (extract_lets +onlyGivenNames x)
    | ((with_reducible apply updPort_frame); (· decide))
    | ((with_reducible apply sendIdles_frame); (· decide))
    | ((with_reducible apply cutTx_frame); (· decide)))

theorem enterFallback_frame {p : Nat} {s : State} {l : List Part} {b : State} (hm : ∀ p ∈
    ([.outputs, .freeCtr, .rings, .faults, .chain] : List Part), p ∈ l) (h0 : SameBut l b s) : SameBut l b (enterFallback p s) := by
  refine SameBut.step ?_ hm h0
  clear hm h0
  unfold enterFallback
  repeat' (first
    | (with_reducible exact SameBut.refl)
    | (extract_lets +onlyGivenNames x)
    | ((with_reducible apply raise_frame); (· decide))
    | ((with_reducible apply updPort_frame); (· decide))
    | ((with_reducible apply sendIdles_frame); (· decide))
    | ((with_reducible apply cutTx_frame); (· decide)))

theorem sendReports_frame : ∀ {x0 : Nat} {x1 : State} {l : List Part} {b : State} (hm : ∀ p ∈ ([.chain] : List Part), p ∈ l) (h0 :
    SameBut l b x1), SameBut l b (sendReports x0 x1) := by
  intro x0
  induction x0 with
  | zero => intro x1 l b _ h0; first | exact h0 | (unfold sendReports; exact h0)
  | succ k ih =>
    intro x1 l b hm h0
    refine SameBut.step ?_ hm h0
    clear hm h0
    unfold sendReports
    repeat' (first
      | (with_reducible exact SameBut.refl)
      | (extract_lets +onlyGivenNames x)
      | ((with_reducible apply ih); (· decide))
      | ((with_reducible apply sendReport_frame); (· decide)))

theorem calGap_frame {n : Nat} {s : State} {l : List Part} {b : State} (hm : ∀ p ∈
    ([.rings, .strip, .safety, .cal, .therm, .nvm] : List Part), p ∈ l) (h0 : SameBut l b s) : SameBut l b (calGap n s) := by
  refine SameBut.step ?_ hm h0
  clear hm h0
  unfold calGap
  repeat' (first
    | (with_reducible exact SameBut.refl)
    | (with_reducible assumption)
    | ((with_reducible apply SameBut.ite) <;> intro _)
    | (extract_lets +onlyGivenNames x;
          (first | ((refine SameBut.gen (x := x) ?_ ?_); rotate_left; (clear_value x; intro _); rotate_left; (subst x)) | (skip)))
    | ((with_reducible apply calAdvance_frame); (· decide))
    | ((with_reducible apply calBegin_frame); (· decide))
    | ((with_reducible apply onCal_frame); (· decide))
    | (split))

theorem fillAllHost_frame : ∀ {x0 : Nat} {x1 : State} {l : List Part} {b : State} (hm : ∀ p ∈
    ([.outputs, .rings, .faults, .chain] : List Part), p ∈ l) (h0 : SameBut l b x1), SameBut l b (fillAllHost x0 x1) := by
  intro x0
  induction x0 with
  | zero => intro x1 l b _ h0; first | exact h0 | (unfold fillAllHost; exact h0)
  | succ k ih =>
    intro x1 l b hm h0
    refine SameBut.step ?_ hm h0
    clear hm h0
    unfold fillAllHost
    repeat' (first
      | (with_reducible exact SameBut.refl)
      | (with_reducible assumption)
      | (extract_lets +onlyGivenNames x; (refine SameBut.gen (x := x) ?_ ?_); rotate_left; (clear_value x; intro _); rotate_left; (subst x))
      | ((with_reducible apply ih); (· decide))
      | ((with_reducible apply fillHost_frame); (· decide)))

theorem acceptLines_frame : ∀ {x0 : List Nat} {x1 : State} {l : List Part} {b : State} (hm : ∀ p ∈
    ([.outputs, .link, .rings, .strip, .tiles, .chans, .slots, .faults] : List Part), p ∈ l) (h0 : SameBut l b x1), SameBut l b
    (acceptLines x0 x1) := by
  intro x0
  induction x0 with
  | nil => intro x1 l b _ h0; first | exact h0 | (unfold acceptLines; exact h0)
  | cons y r ih =>
    intro x1 l b hm h0
    refine SameBut.step ?_ hm h0
    clear hm h0
    unfold acceptLines
    repeat' (first
      | (with_reducible exact SameBut.refl)
      | (extract_lets +onlyGivenNames x)
      | ((with_reducible apply ih); (· decide))
      | ((with_reducible apply acceptLine_frame); (· decide)))

theorem frameGood_frame {p : Nat} {r : RxFrame} {bytes : List Byte} {poison : Bool} {s : State} {l : List Part} {b : State}
    (hm : ∀ p ∈
    ([.outputs, .rings, .faults, .chain] : List Part), p ∈ l) (h0 : SameBut l b s) :
    SameBut l b (frameGood p r bytes poison s) := by
  refine SameBut.step ?_ hm h0
  unfold frameGood
  have drop : ∀ (c : Prop) [Decidable c] (q : Nat), SameBut [.outputs, .rings, .faults, .chain] s (if c then countDrop q s else s) := by
    intro c _ q
    split
    · exact countDrop_frame (by decide) SameBut.refl
    · exact SameBut.refl
  refine fillHost_frame (by decide) (settle_frame (by decide) (onChain_frame (by decide) ?_))
  cases r.cut with
  | some id => exact updFrame_frame (by decide) (onChain_frame (by decide) (drop _ _))
  | none =>
    dsimp only
    split
    · exact enqueue_frame (by decide) (addFrame_frame (by decide) (drop _ _))
    · exact addFrame_frame (by decide) (drop _ _)

theorem fwBlock_frame {via : Option Nat} {pay : List Byte} {s : State} {l : List Part} {b : State} (hm : ∀ p ∈
    ([.outputs, .freeCtr, .rings, .safety, .faults, .cal, .chain, .time, .nvm] : List Part), p ∈ l) (h0 : SameBut l b s) : SameBut l b
    (fwBlock via pay s) := by
  refine SameBut.step ?_ hm h0
  clear hm h0
  unfold fwBlock
  repeat' (first
    | (with_reducible exact SameBut.refl)
    | ((with_reducible apply SameBut.ite) <;> intro _)
    | (extract_lets +onlyGivenNames x)
    | ((with_reducible apply takeInj_frame); (· decide))
    | ((with_reducible apply raiseInj_frame); (· decide))
    | ((with_reducible apply storeBlock_frame); (· decide))
    | ((with_reducible apply onXfer_frame); (· decide)))

theorem fwRequest_frame {via : Option Nat} {hops : Nat} {pay : List Byte} {s : State} {l : List Part} {b : State} (hm : ∀ p ∈
    ([.outputs, .rings, .faults, .chain] : List Part), p ∈ l) (h0 : SameBut l b s) : SameBut l b (fwRequest via hops pay s).2 := by
  refine SameBut.step ?_ hm h0
  clear hm h0
  unfold fwRequest
  repeat' (first
    | (with_reducible exact SameBut.refl)
    | (extract_lets +onlyGivenNames x)
    | ((with_reducible apply sendBlocks_frame); (· decide))
    | ((with_reducible apply readNvmWords_frame); (· decide))
    | (split))

theorem portDown_frame {p : Nat} {report : Bool} {s : State} {l : List Part} {b : State} (hm : ∀ p ∈
    ([.freeCtr, .rings, .faults, .chain] : List Part), p ∈ l) (h0 : SameBut l b s) : SameBut l b (portDown p report s) := by
  refine SameBut.step ?_ hm h0
  clear hm h0
  unfold portDown
  repeat' (first
    | (with_reducible exact SameBut.refl)
    | ((with_reducible apply SameBut.ite) <;> intro _)
    | (extract_lets +onlyGivenNames x)
    | ((with_reducible apply enterLock_frame); (· decide))
    | ((with_reducible apply leaveLink_frame); (· decide)))

theorem trialError_frame {p : Nat} {s : State} {l : List Part} {b : State} (hm : ∀ p ∈
    ([.outputs, .freeCtr, .rings, .faults, .chain] : List Part), p ∈ l) (h0 : SameBut l b s) : SameBut l b (trialError p s) := by
  refine SameBut.step ?_ hm h0
  clear hm h0
  unfold trialError
  repeat' (first
    | (with_reducible exact SameBut.refl)
    | ((with_reducible apply SameBut.ite) <;> intro _)
    | (extract_lets +onlyGivenNames x)
    | ((with_reducible apply enterFallback_frame); (· decide))
    | ((with_reducible apply sendOs_frame); (· decide)))

theorem acceptStep_frame {p : Nat} {t : Nat} {s : State} {l : List Part} {b : State} (hm : ∀ p ∈
    ([.outputs, .freeCtr, .rings, .chain] : List Part), p ∈ l) (h0 : SameBut l b s) : SameBut l b (acceptStep p t s) := by
  refine SameBut.step ?_ hm h0
  clear hm h0
  unfold acceptStep
  repeat' (first
    | (with_reducible exact SameBut.refl)
    | (extract_lets +onlyGivenNames x)
    | ((with_reducible apply enterSwitch_frame); (· decide))
    | ((with_reducible apply sendOs_frame); (· decide)))

theorem disablePort_frame {p : Nat} {s : State} {l : List Part} {b : State} (hm : ∀ p ∈
    ([.outputs, .freeCtr, .rings, .faults, .chain] : List Part), p ∈ l) (h0 : SameBut l b s) : SameBut l b (disablePort p s) := by
  refine SameBut.step ?_ hm h0
  clear hm h0
  unfold disablePort
  repeat' (first
    | (with_reducible exact SameBut.refl)
    | ((with_reducible apply SameBut.ite) <;> intro _)
    | (extract_lets +onlyGivenNames x)
    | ((with_reducible apply updPort_frame); (· decide))
    | ((with_reducible apply enterLock_frame); (· decide))
    | ((with_reducible apply leaveLink_frame); (· decide))
    | ((with_reducible apply emit_frame); (· decide))
    | ((with_reducible apply sendOs_frame); (· decide)))

theorem retrainPort_frame {p : Nat} {s : State} {l : List Part} {b : State} (hm : ∀ p ∈ ([.freeCtr, .rings, .faults, .chain] : List Part), p ∈ l)
    (h0 : SameBut l b s) : SameBut l b (retrainPort p s) := by
  refine SameBut.step ?_ hm h0
  clear hm h0
  unfold retrainPort
  repeat' (first
    | (with_reducible exact SameBut.refl)
    | ((with_reducible apply SameBut.ite) <;> intro _)
    | (extract_lets +onlyGivenNames x)
    | ((with_reducible apply enterLock_frame); (· decide))
    | ((with_reducible apply leaveLink_frame); (· decide)))

theorem flushReport_frame {s : State} {l : List Part} {b : State} (hm : ∀ p ∈ ([.tiles, .chain] : List Part), p ∈ l) (h0 : SameBut l b s) :
    SameBut l b (flushReport s) := by
  refine SameBut.step ?_ hm h0
  clear hm h0
  unfold flushReport
  repeat' (first
    | (with_reducible exact SameBut.refl)
    | (with_reducible assumption)
    | ((with_reducible apply SameBut.ite) <;> intro _)
    | (extract_lets +onlyGivenNames x;
          (first | ((refine SameBut.gen (x := x) ?_ ?_); rotate_left; (clear_value x; intro _); rotate_left; (subst x)) | (skip)))
    | ((with_reducible apply onTiles_frame); (· decide))
    | ((with_reducible apply onChain_frame); (· decide))
    | ((with_reducible apply sendReports_frame); (· decide)))

theorem processSvc_frame {via : Option Nat} {m : List Byte} {s : State} {l : List Part} {b : State} (hm : ∀ p ∈
    ([.outputs, .freeCtr, .rings, .safety, .faults, .cal, .chain, .time, .nvm] : List Part), p ∈ l) (h0 : SameBut l b s) : SameBut l b
    (processSvc via m s).2 := by
  refine SameBut.step ?_ hm h0
  clear hm h0
  unfold processSvc
  repeat' (first
    | (with_reducible exact SameBut.refl)
    | ((with_reducible apply SameBut.ite) <;> intro _)
    | (extract_lets +onlyGivenNames x)
    | ((with_reducible apply hello_frame); (· decide))
    | ((with_reducible apply fwOffer_frame); (· decide))
    | ((with_reducible apply fwBlock_frame); (· decide))
    | ((with_reducible apply fwRequest_frame); (· decide))
    | ((with_reducible apply sendReport_frame); (· decide))
    | (split))

theorem portLose_frame {p : Nat} {s : State} {l : List Part} {b : State} (hm : ∀ p ∈ ([.freeCtr, .rings, .faults, .chain] : List Part), p ∈ l) (h0 :
    SameBut l b s) : SameBut l b (portLose p s) := by
  refine SameBut.step ?_ hm h0
  clear hm h0
  unfold portLose
  repeat' (first
    | (with_reducible exact SameBut.refl)
    | ((with_reducible apply SameBut.ite) <;> intro _)
    | (extract_lets +onlyGivenNames x)
    | ((with_reducible apply portDown_frame); (· decide))
    | ((with_reducible apply enterLock_frame); (· decide)))

theorem badBlock_frame {p : Nat} {s : State} {l : List Part} {b : State} (hm : ∀ p ∈
    ([.outputs, .freeCtr, .rings, .faults, .chain] : List Part), p ∈ l) (h0 : SameBut l b s) : SameBut l b (badBlock p s) := by
  refine SameBut.step ?_ hm h0
  clear hm h0
  unfold badBlock
  repeat' (first
    | (with_reducible exact SameBut.refl)
    | ((with_reducible apply SameBut.ite) <;> intro _)
    | (extract_lets +onlyGivenNames x)
    | ((with_reducible apply trialError_frame); (· decide))
    | ((with_reducible apply updPort_frame); (· decide)))

theorem handleSvc_frame {via : Option Nat} {m : List Byte} {s : State} {l : List Part} {b : State} (hm : ∀ p ∈
    ([.outputs, .freeCtr, .rings, .safety, .faults, .cal, .chain, .time, .nvm] : List Part), p ∈ l) (h0 : SameBut l b s) : SameBut l b
    (handleSvc via m s) := by
  refine SameBut.step ?_ hm h0
  clear hm h0
  unfold handleSvc
  repeat' (first
    | (with_reducible exact SameBut.refl)
    | (with_reducible assumption)
    | ((with_reducible apply SameBut.ite) <;> intro _)
    | (extract_lets +onlyGivenNames x;
          (first | ((refine SameBut.gen2 (x := x) ?_ ?_); rotate_left; (clear_value x; intro _); rotate_left; (subst x)) | (skip)))
    | ((with_reducible apply svcBadMsg_frame); (· decide))
    | ((with_reducible apply processSvc_frame); (· decide))
    | ((with_reducible apply onChain_frame); (· decide))
    | ((with_reducible apply relay_frame); (· decide))
    | (split))

end Sys2Proof.Machine
end

