-- ==== Sys2Proof/Laws/State.lean ====
section
/-! SUPPORT. Each elementary update, field by field: what it leaves alone, so that no later proof unfolds a record update. -/

set_option autoImplicit false

-- One declaration after the other, without the linters of the library: many small theorems.
set_option Elab.async false
set_option linter.all false

namespace Sys2Proof.Machine

/-! `putChan` changes only: chans. -/
@[simp] theorem putChan_power (s c x) : (putChan s c x).power = s.power := by cases c <;> rfl
@[simp] theorem putChan_journal (s c x) : (putChan s c x).journal = s.journal := by cases c <;> rfl
@[simp] theorem putChan_tiles (s c x) : (putChan s c x).tiles = s.tiles := by cases c <;> rfl
@[simp] theorem putChan_link (s c x) : (putChan s c x).link = s.link := by cases c <;> rfl
@[simp] theorem putChan_rings (s c x) : (putChan s c x).rings = s.rings := by cases c <;> rfl
@[simp] theorem putChan_chain (s c x) : (putChan s c x).chain = s.chain := by cases c <;> rfl
@[simp] theorem putChan_time (s c x) : (putChan s c x).time = s.time := by cases c <;> rfl
@[simp] theorem putChan_strip (s c x) : (putChan s c x).strip = s.strip := by cases c <;> rfl
@[simp] theorem putChan_frm (s c x) : (putChan s c x).frm = s.frm := by cases c <;> rfl
@[simp] theorem putChan_boot (s c x) : (putChan s c x).boot = s.boot := by cases c <;> rfl
@[simp] theorem putChan_cal (s c x) : (putChan s c x).cal = s.cal := by cases c <;> rfl
@[simp] theorem putChan_therm (s c x) : (putChan s c x).therm = s.therm := by cases c <;> rfl
@[simp] theorem putChan_prot (s c x) : (putChan s c x).prot = s.prot := by cases c <;> rfl
@[simp] theorem putChan_outputs (s c x) : (putChan s c x).outputs = s.outputs := by cases c <;> rfl
@[simp] theorem putChan_freeCtr (s c x) : (putChan s c x).freeCtr = s.freeCtr := by cases c <;> rfl
@[simp] theorem putChan_faults (s c x) : (putChan s c x).faults = s.faults := by cases c <;> rfl
@[simp] theorem putChan_nvm (s c x) : (putChan s c x).nvm = s.nvm := by cases c <;> rfl
@[simp] theorem putChan_cmp (s c x) : (putChan s c x).cmp = s.cmp := by cases c <;> rfl
@[simp] theorem putChan_pending (s c x) : (putChan s c x).pending = s.pending := by cases c <;> rfl

/-! `onCmp` changes only: cache, cmp. -/
@[simp] theorem onCmp_power (f s) : (onCmp f s).power = s.power := rfl
@[simp] theorem onCmp_journal (f s) : (onCmp f s).journal = s.journal := rfl
@[simp] theorem onCmp_tiles (f s) : (onCmp f s).tiles = s.tiles := rfl
@[simp] theorem onCmp_link (f s) : (onCmp f s).link = s.link := rfl
@[simp] theorem onCmp_rings (f s) : (onCmp f s).rings = s.rings := rfl
@[simp] theorem onCmp_chain (f s) : (onCmp f s).chain = s.chain := rfl
@[simp] theorem onCmp_time (f s) : (onCmp f s).time = s.time := rfl
@[simp] theorem onCmp_strip (f s) : (onCmp f s).strip = s.strip := rfl
@[simp] theorem onCmp_frm (f s) : (onCmp f s).frm = s.frm := rfl
@[simp] theorem onCmp_boot (f s) : (onCmp f s).boot = s.boot := rfl
@[simp] theorem onCmp_cal (f s) : (onCmp f s).cal = s.cal := rfl
@[simp] theorem onCmp_therm (f s) : (onCmp f s).therm = s.therm := rfl
@[simp] theorem onCmp_prot (f s) : (onCmp f s).prot = s.prot := rfl
@[simp] theorem onCmp_outputs (f s) : (onCmp f s).outputs = s.outputs := rfl
@[simp] theorem onCmp_freeCtr (f s) : (onCmp f s).freeCtr = s.freeCtr := rfl
@[simp] theorem onCmp_faults (f s) : (onCmp f s).faults = s.faults := rfl
@[simp] theorem onCmp_nvm (f s) : (onCmp f s).nvm = s.nvm := rfl
@[simp] theorem onCmp_safety (f s) : (onCmp f s).safety = s.safety := rfl
@[simp] theorem onCmp_pending (f s) : (onCmp f s).pending = s.pending := rfl
@[simp] theorem onCmp_cmp (f s) : (onCmp f s).cmp = f s.cmp := rfl

/-! `onSaf` changes only: chans, safeSet, safety. -/
@[simp] theorem onSaf_power (f s) : (onSaf f s).power = s.power := rfl
@[simp] theorem onSaf_journal (f s) : (onSaf f s).journal = s.journal := rfl
@[simp] theorem onSaf_tiles (f s) : (onSaf f s).tiles = s.tiles := rfl
@[simp] theorem onSaf_link (f s) : (onSaf f s).link = s.link := rfl
@[simp] theorem onSaf_rings (f s) : (onSaf f s).rings = s.rings := rfl
@[simp] theorem onSaf_chain (f s) : (onSaf f s).chain = s.chain := rfl
@[simp] theorem onSaf_time (f s) : (onSaf f s).time = s.time := rfl
@[simp] theorem onSaf_strip (f s) : (onSaf f s).strip = s.strip := rfl
@[simp] theorem onSaf_frm (f s) : (onSaf f s).frm = s.frm := rfl
@[simp] theorem onSaf_boot (f s) : (onSaf f s).boot = s.boot := rfl
@[simp] theorem onSaf_cal (f s) : (onSaf f s).cal = s.cal := rfl
@[simp] theorem onSaf_therm (f s) : (onSaf f s).therm = s.therm := rfl
@[simp] theorem onSaf_prot (f s) : (onSaf f s).prot = s.prot := rfl
@[simp] theorem onSaf_outputs (f s) : (onSaf f s).outputs = s.outputs := rfl
@[simp] theorem onSaf_freeCtr (f s) : (onSaf f s).freeCtr = s.freeCtr := rfl
@[simp] theorem onSaf_faults (f s) : (onSaf f s).faults = s.faults := rfl
@[simp] theorem onSaf_nvm (f s) : (onSaf f s).nvm = s.nvm := rfl
@[simp] theorem onSaf_cmp (f s) : (onSaf f s).cmp = s.cmp := rfl
@[simp] theorem onSaf_pending (f s) : (onSaf f s).pending = s.pending := rfl
@[simp] theorem onSaf_safety (f s) : (onSaf f s).safety = f s.safety := rfl

/-! `onFlt` changes only: faults, slots. -/
@[simp] theorem onFlt_power (f s) : (onFlt f s).power = s.power := rfl
@[simp] theorem onFlt_journal (f s) : (onFlt f s).journal = s.journal := rfl
@[simp] theorem onFlt_tiles (f s) : (onFlt f s).tiles = s.tiles := rfl
@[simp] theorem onFlt_link (f s) : (onFlt f s).link = s.link := rfl
@[simp] theorem onFlt_rings (f s) : (onFlt f s).rings = s.rings := rfl
@[simp] theorem onFlt_chain (f s) : (onFlt f s).chain = s.chain := rfl
@[simp] theorem onFlt_time (f s) : (onFlt f s).time = s.time := rfl
@[simp] theorem onFlt_strip (f s) : (onFlt f s).strip = s.strip := rfl
@[simp] theorem onFlt_frm (f s) : (onFlt f s).frm = s.frm := rfl
@[simp] theorem onFlt_boot (f s) : (onFlt f s).boot = s.boot := rfl
@[simp] theorem onFlt_cal (f s) : (onFlt f s).cal = s.cal := rfl
@[simp] theorem onFlt_therm (f s) : (onFlt f s).therm = s.therm := rfl
@[simp] theorem onFlt_prot (f s) : (onFlt f s).prot = s.prot := rfl
@[simp] theorem onFlt_outputs (f s) : (onFlt f s).outputs = s.outputs := rfl
@[simp] theorem onFlt_freeCtr (f s) : (onFlt f s).freeCtr = s.freeCtr := rfl
@[simp] theorem onFlt_nvm (f s) : (onFlt f s).nvm = s.nvm := rfl
@[simp] theorem onFlt_safety (f s) : (onFlt f s).safety = s.safety := rfl
@[simp] theorem onFlt_cmp (f s) : (onFlt f s).cmp = s.cmp := rfl
@[simp] theorem onFlt_pending (f s) : (onFlt f s).pending = s.pending := rfl
@[simp] theorem onFlt_faults (f s) : (onFlt f s).faults = f s.faults := rfl

/-! `onNvm` changes only: nvm, pages. -/
@[simp] theorem onNvm_power (f s) : (onNvm f s).power = s.power := rfl
@[simp] theorem onNvm_journal (f s) : (onNvm f s).journal = s.journal := rfl
@[simp] theorem onNvm_tiles (f s) : (onNvm f s).tiles = s.tiles := rfl
@[simp] theorem onNvm_link (f s) : (onNvm f s).link = s.link := rfl
@[simp] theorem onNvm_rings (f s) : (onNvm f s).rings = s.rings := rfl
@[simp] theorem onNvm_chain (f s) : (onNvm f s).chain = s.chain := rfl
@[simp] theorem onNvm_time (f s) : (onNvm f s).time = s.time := rfl
@[simp] theorem onNvm_strip (f s) : (onNvm f s).strip = s.strip := rfl
@[simp] theorem onNvm_frm (f s) : (onNvm f s).frm = s.frm := rfl
@[simp] theorem onNvm_boot (f s) : (onNvm f s).boot = s.boot := rfl
@[simp] theorem onNvm_cal (f s) : (onNvm f s).cal = s.cal := rfl
@[simp] theorem onNvm_therm (f s) : (onNvm f s).therm = s.therm := rfl
@[simp] theorem onNvm_prot (f s) : (onNvm f s).prot = s.prot := rfl
@[simp] theorem onNvm_outputs (f s) : (onNvm f s).outputs = s.outputs := rfl
@[simp] theorem onNvm_freeCtr (f s) : (onNvm f s).freeCtr = s.freeCtr := rfl
@[simp] theorem onNvm_faults (f s) : (onNvm f s).faults = s.faults := rfl
@[simp] theorem onNvm_safety (f s) : (onNvm f s).safety = s.safety := rfl
@[simp] theorem onNvm_cmp (f s) : (onNvm f s).cmp = s.cmp := rfl
@[simp] theorem onNvm_pending (f s) : (onNvm f s).pending = s.pending := rfl
@[simp] theorem onNvm_nvm (f s) : (onNvm f s).nvm = f s.nvm := rfl

/-! `onCal` changes only: cal. -/
@[simp] theorem onCal_power (f s) : (onCal f s).power = s.power := rfl
@[simp] theorem onCal_journal (f s) : (onCal f s).journal = s.journal := rfl
@[simp] theorem onCal_tiles (f s) : (onCal f s).tiles = s.tiles := rfl
@[simp] theorem onCal_link (f s) : (onCal f s).link = s.link := rfl
@[simp] theorem onCal_rings (f s) : (onCal f s).rings = s.rings := rfl
@[simp] theorem onCal_chain (f s) : (onCal f s).chain = s.chain := rfl
@[simp] theorem onCal_time (f s) : (onCal f s).time = s.time := rfl
@[simp] theorem onCal_strip (f s) : (onCal f s).strip = s.strip := rfl
@[simp] theorem onCal_frm (f s) : (onCal f s).frm = s.frm := rfl
@[simp] theorem onCal_boot (f s) : (onCal f s).boot = s.boot := rfl
@[simp] theorem onCal_therm (f s) : (onCal f s).therm = s.therm := rfl
@[simp] theorem onCal_prot (f s) : (onCal f s).prot = s.prot := rfl
@[simp] theorem onCal_outputs (f s) : (onCal f s).outputs = s.outputs := rfl
@[simp] theorem onCal_freeCtr (f s) : (onCal f s).freeCtr = s.freeCtr := rfl
@[simp] theorem onCal_faults (f s) : (onCal f s).faults = s.faults := rfl
@[simp] theorem onCal_nvm (f s) : (onCal f s).nvm = s.nvm := rfl
@[simp] theorem onCal_safety (f s) : (onCal f s).safety = s.safety := rfl
@[simp] theorem onCal_cmp (f s) : (onCal f s).cmp = s.cmp := rfl
@[simp] theorem onCal_pending (f s) : (onCal f s).pending = s.pending := rfl

/-! `demandCal` changes only: therm. -/
@[simp] theorem demandCal_power (s) : (demandCal s).power = s.power :=
  SameBut.power_eq (@demandCal_frame _ [.therm] s (fun _ h => h) SameBut.refl)
@[simp] theorem demandCal_journal (s) : (demandCal s).journal = s.journal :=
  SameBut.journal_eq (@demandCal_frame _ [.therm] s (fun _ h => h) SameBut.refl)
@[simp] theorem demandCal_tiles (s) : (demandCal s).tiles = s.tiles :=
  SameBut.tiles_eq (@demandCal_frame _ [.therm] s (fun _ h => h) SameBut.refl)
@[simp] theorem demandCal_link (s) : (demandCal s).link = s.link :=
  SameBut.link_eq (@demandCal_frame _ [.therm] s (fun _ h => h) SameBut.refl)
@[simp] theorem demandCal_rings (s) : (demandCal s).rings = s.rings :=
  SameBut.rings_eq (@demandCal_frame _ [.therm] s (fun _ h => h) SameBut.refl)
@[simp] theorem demandCal_chain (s) : (demandCal s).chain = s.chain :=
  SameBut.chain_eq (@demandCal_frame _ [.therm] s (fun _ h => h) SameBut.refl)
@[simp] theorem demandCal_time (s) : (demandCal s).time = s.time :=
  SameBut.time_eq (@demandCal_frame _ [.therm] s (fun _ h => h) SameBut.refl)
@[simp] theorem demandCal_strip (s) : (demandCal s).strip = s.strip :=
  SameBut.strip_eq (@demandCal_frame _ [.therm] s (fun _ h => h) SameBut.refl)
@[simp] theorem demandCal_frm (s) : (demandCal s).frm = s.frm :=
  SameBut.frm_eq (@demandCal_frame _ [.therm] s (fun _ h => h) SameBut.refl)
@[simp] theorem demandCal_boot (s) : (demandCal s).boot = s.boot :=
  SameBut.boot_eq (@demandCal_frame _ [.therm] s (fun _ h => h) SameBut.refl)
@[simp] theorem demandCal_cal (s) : (demandCal s).cal = s.cal :=
  SameBut.cal_eq (@demandCal_frame _ [.therm] s (fun _ h => h) SameBut.refl)
@[simp] theorem demandCal_prot (s) : (demandCal s).prot = s.prot :=
  SameBut.prot_eq (@demandCal_frame _ [.therm] s (fun _ h => h) SameBut.refl)
@[simp] theorem demandCal_outputs (s) : (demandCal s).outputs = s.outputs :=
  SameBut.outputs_eq (@demandCal_frame _ [.therm] s (fun _ h => h) SameBut.refl)
@[simp] theorem demandCal_freeCtr (s) : (demandCal s).freeCtr = s.freeCtr :=
  SameBut.freeCtr_eq (@demandCal_frame _ [.therm] s (fun _ h => h) SameBut.refl)
@[simp] theorem demandCal_faults (s) : (demandCal s).faults = s.faults :=
  SameBut.faults_eq (@demandCal_frame _ [.therm] s (fun _ h => h) SameBut.refl)
@[simp] theorem demandCal_nvm (s) : (demandCal s).nvm = s.nvm :=
  SameBut.nvm_eq (@demandCal_frame _ [.therm] s (fun _ h => h) SameBut.refl)
@[simp] theorem demandCal_safety (s) : (demandCal s).safety = s.safety :=
  SameBut.safety_eq (@demandCal_frame _ [.therm] s (fun _ h => h) SameBut.refl)
@[simp] theorem demandCal_cmp (s) : (demandCal s).cmp = s.cmp :=
  SameBut.cmp_eq (@demandCal_frame _ [.therm] s (fun _ h => h) SameBut.refl)
@[simp] theorem demandCal_pending (s) : (demandCal s).pending = s.pending :=
  SameBut.queue (@demandCal_frame _ [.therm] s (fun _ h => h) SameBut.refl)

/-! `onChain` changes only: chain. -/
@[simp] theorem onChain_power (f s) : (onChain f s).power = s.power := rfl
@[simp] theorem onChain_journal (f s) : (onChain f s).journal = s.journal := rfl
@[simp] theorem onChain_tiles (f s) : (onChain f s).tiles = s.tiles := rfl
@[simp] theorem onChain_link (f s) : (onChain f s).link = s.link := rfl
@[simp] theorem onChain_rings (f s) : (onChain f s).rings = s.rings := rfl
@[simp] theorem onChain_time (f s) : (onChain f s).time = s.time := rfl
@[simp] theorem onChain_strip (f s) : (onChain f s).strip = s.strip := rfl
@[simp] theorem onChain_frm (f s) : (onChain f s).frm = s.frm := rfl
@[simp] theorem onChain_boot (f s) : (onChain f s).boot = s.boot := rfl
@[simp] theorem onChain_cal (f s) : (onChain f s).cal = s.cal := rfl
@[simp] theorem onChain_therm (f s) : (onChain f s).therm = s.therm := rfl
@[simp] theorem onChain_prot (f s) : (onChain f s).prot = s.prot := rfl
@[simp] theorem onChain_outputs (f s) : (onChain f s).outputs = s.outputs := rfl
@[simp] theorem onChain_freeCtr (f s) : (onChain f s).freeCtr = s.freeCtr := rfl
@[simp] theorem onChain_faults (f s) : (onChain f s).faults = s.faults := rfl
@[simp] theorem onChain_nvm (f s) : (onChain f s).nvm = s.nvm := rfl
@[simp] theorem onChain_safety (f s) : (onChain f s).safety = s.safety := rfl
@[simp] theorem onChain_cmp (f s) : (onChain f s).cmp = s.cmp := rfl
@[simp] theorem onChain_pending (f s) : (onChain f s).pending = s.pending := rfl

/-! `countSkipped` changes only: time. -/
@[simp] theorem countSkipped_power (f s) : (countSkipped f s).power = s.power :=
  SameBut.power_eq (@countSkipped_frame _ _ [.time] s (fun _ h => h) SameBut.refl)
@[simp] theorem countSkipped_journal (f s) : (countSkipped f s).journal = s.journal :=
  SameBut.journal_eq (@countSkipped_frame _ _ [.time] s (fun _ h => h) SameBut.refl)
@[simp] theorem countSkipped_tiles (f s) : (countSkipped f s).tiles = s.tiles :=
  SameBut.tiles_eq (@countSkipped_frame _ _ [.time] s (fun _ h => h) SameBut.refl)
@[simp] theorem countSkipped_link (f s) : (countSkipped f s).link = s.link :=
  SameBut.link_eq (@countSkipped_frame _ _ [.time] s (fun _ h => h) SameBut.refl)
@[simp] theorem countSkipped_rings (f s) : (countSkipped f s).rings = s.rings :=
  SameBut.rings_eq (@countSkipped_frame _ _ [.time] s (fun _ h => h) SameBut.refl)
@[simp] theorem countSkipped_chain (f s) : (countSkipped f s).chain = s.chain :=
  SameBut.chain_eq (@countSkipped_frame _ _ [.time] s (fun _ h => h) SameBut.refl)
@[simp] theorem countSkipped_strip (f s) : (countSkipped f s).strip = s.strip :=
  SameBut.strip_eq (@countSkipped_frame _ _ [.time] s (fun _ h => h) SameBut.refl)
@[simp] theorem countSkipped_frm (f s) : (countSkipped f s).frm = s.frm :=
  SameBut.frm_eq (@countSkipped_frame _ _ [.time] s (fun _ h => h) SameBut.refl)
@[simp] theorem countSkipped_boot (f s) : (countSkipped f s).boot = s.boot :=
  SameBut.boot_eq (@countSkipped_frame _ _ [.time] s (fun _ h => h) SameBut.refl)
@[simp] theorem countSkipped_cal (f s) : (countSkipped f s).cal = s.cal :=
  SameBut.cal_eq (@countSkipped_frame _ _ [.time] s (fun _ h => h) SameBut.refl)
@[simp] theorem countSkipped_therm (f s) : (countSkipped f s).therm = s.therm :=
  SameBut.therm_eq (@countSkipped_frame _ _ [.time] s (fun _ h => h) SameBut.refl)
@[simp] theorem countSkipped_prot (f s) : (countSkipped f s).prot = s.prot :=
  SameBut.prot_eq (@countSkipped_frame _ _ [.time] s (fun _ h => h) SameBut.refl)
@[simp] theorem countSkipped_outputs (f s) : (countSkipped f s).outputs = s.outputs :=
  SameBut.outputs_eq (@countSkipped_frame _ _ [.time] s (fun _ h => h) SameBut.refl)
@[simp] theorem countSkipped_freeCtr (f s) : (countSkipped f s).freeCtr = s.freeCtr :=
  SameBut.freeCtr_eq (@countSkipped_frame _ _ [.time] s (fun _ h => h) SameBut.refl)
@[simp] theorem countSkipped_faults (f s) : (countSkipped f s).faults = s.faults :=
  SameBut.faults_eq (@countSkipped_frame _ _ [.time] s (fun _ h => h) SameBut.refl)
@[simp] theorem countSkipped_nvm (f s) : (countSkipped f s).nvm = s.nvm :=
  SameBut.nvm_eq (@countSkipped_frame _ _ [.time] s (fun _ h => h) SameBut.refl)
@[simp] theorem countSkipped_safety (f s) : (countSkipped f s).safety = s.safety :=
  SameBut.safety_eq (@countSkipped_frame _ _ [.time] s (fun _ h => h) SameBut.refl)
@[simp] theorem countSkipped_cmp (f s) : (countSkipped f s).cmp = s.cmp :=
  SameBut.cmp_eq (@countSkipped_frame _ _ [.time] s (fun _ h => h) SameBut.refl)
@[simp] theorem countSkipped_pending (f s) : (countSkipped f s).pending = s.pending :=
  SameBut.queue (@countSkipped_frame _ _ [.time] s (fun _ h => h) SameBut.refl)

/-! `onFrm` changes only: frm. -/
@[simp] theorem onFrm_power (f s) : (onFrm f s).power = s.power := rfl
@[simp] theorem onFrm_journal (f s) : (onFrm f s).journal = s.journal := rfl
@[simp] theorem onFrm_tiles (f s) : (onFrm f s).tiles = s.tiles := rfl
@[simp] theorem onFrm_link (f s) : (onFrm f s).link = s.link := rfl
@[simp] theorem onFrm_rings (f s) : (onFrm f s).rings = s.rings := rfl
@[simp] theorem onFrm_chain (f s) : (onFrm f s).chain = s.chain := rfl
@[simp] theorem onFrm_time (f s) : (onFrm f s).time = s.time := rfl
@[simp] theorem onFrm_strip (f s) : (onFrm f s).strip = s.strip := rfl
@[simp] theorem onFrm_boot (f s) : (onFrm f s).boot = s.boot := rfl
@[simp] theorem onFrm_cal (f s) : (onFrm f s).cal = s.cal := rfl
@[simp] theorem onFrm_therm (f s) : (onFrm f s).therm = s.therm := rfl
@[simp] theorem onFrm_prot (f s) : (onFrm f s).prot = s.prot := rfl
@[simp] theorem onFrm_outputs (f s) : (onFrm f s).outputs = s.outputs := rfl
@[simp] theorem onFrm_freeCtr (f s) : (onFrm f s).freeCtr = s.freeCtr := rfl
@[simp] theorem onFrm_faults (f s) : (onFrm f s).faults = s.faults := rfl
@[simp] theorem onFrm_nvm (f s) : (onFrm f s).nvm = s.nvm := rfl
@[simp] theorem onFrm_safety (f s) : (onFrm f s).safety = s.safety := rfl
@[simp] theorem onFrm_cmp (f s) : (onFrm f s).cmp = s.cmp := rfl
@[simp] theorem onFrm_pending (f s) : (onFrm f s).pending = s.pending := rfl

/-! `dropLayerReads` changes only: link. -/
@[simp] theorem dropLayerReads_power (s) : (dropLayerReads s).power = s.power := rfl
@[simp] theorem dropLayerReads_journal (s) : (dropLayerReads s).journal = s.journal := rfl
@[simp] theorem dropLayerReads_tiles (s) : (dropLayerReads s).tiles = s.tiles := rfl
@[simp] theorem dropLayerReads_rings (s) : (dropLayerReads s).rings = s.rings := rfl
@[simp] theorem dropLayerReads_chain (s) : (dropLayerReads s).chain = s.chain := rfl
@[simp] theorem dropLayerReads_time (s) : (dropLayerReads s).time = s.time := rfl
@[simp] theorem dropLayerReads_strip (s) : (dropLayerReads s).strip = s.strip := rfl
@[simp] theorem dropLayerReads_frm (s) : (dropLayerReads s).frm = s.frm := rfl
@[simp] theorem dropLayerReads_boot (s) : (dropLayerReads s).boot = s.boot := rfl
@[simp] theorem dropLayerReads_cal (s) : (dropLayerReads s).cal = s.cal := rfl
@[simp] theorem dropLayerReads_therm (s) : (dropLayerReads s).therm = s.therm := rfl
@[simp] theorem dropLayerReads_prot (s) : (dropLayerReads s).prot = s.prot := rfl
@[simp] theorem dropLayerReads_outputs (s) : (dropLayerReads s).outputs = s.outputs := rfl
@[simp] theorem dropLayerReads_freeCtr (s) : (dropLayerReads s).freeCtr = s.freeCtr := rfl
@[simp] theorem dropLayerReads_faults (s) : (dropLayerReads s).faults = s.faults := rfl
@[simp] theorem dropLayerReads_nvm (s) : (dropLayerReads s).nvm = s.nvm := rfl
@[simp] theorem dropLayerReads_safety (s) : (dropLayerReads s).safety = s.safety := rfl
@[simp] theorem dropLayerReads_cmp (s) : (dropLayerReads s).cmp = s.cmp := rfl
@[simp] theorem dropLayerReads_pending (s) : (dropLayerReads s).pending = s.pending := rfl

/-! `dropItem` changes only: link. -/
@[simp] theorem dropItem_power (r s) : (dropItem r s).power = s.power := rfl
@[simp] theorem dropItem_journal (r s) : (dropItem r s).journal = s.journal := rfl
@[simp] theorem dropItem_tiles (r s) : (dropItem r s).tiles = s.tiles := rfl
@[simp] theorem dropItem_rings (r s) : (dropItem r s).rings = s.rings := rfl
@[simp] theorem dropItem_chain (r s) : (dropItem r s).chain = s.chain := rfl
@[simp] theorem dropItem_time (r s) : (dropItem r s).time = s.time := rfl
@[simp] theorem dropItem_strip (r s) : (dropItem r s).strip = s.strip := rfl
@[simp] theorem dropItem_frm (r s) : (dropItem r s).frm = s.frm := rfl
@[simp] theorem dropItem_boot (r s) : (dropItem r s).boot = s.boot := rfl
@[simp] theorem dropItem_cal (r s) : (dropItem r s).cal = s.cal := rfl
@[simp] theorem dropItem_therm (r s) : (dropItem r s).therm = s.therm := rfl
@[simp] theorem dropItem_prot (r s) : (dropItem r s).prot = s.prot := rfl
@[simp] theorem dropItem_outputs (r s) : (dropItem r s).outputs = s.outputs := rfl
@[simp] theorem dropItem_freeCtr (r s) : (dropItem r s).freeCtr = s.freeCtr := rfl
@[simp] theorem dropItem_faults (r s) : (dropItem r s).faults = s.faults := rfl
@[simp] theorem dropItem_nvm (r s) : (dropItem r s).nvm = s.nvm := rfl
@[simp] theorem dropItem_safety (r s) : (dropItem r s).safety = s.safety := rfl
@[simp] theorem dropItem_cmp (r s) : (dropItem r s).cmp = s.cmp := rfl
@[simp] theorem dropItem_pending (r s) : (dropItem r s).pending = s.pending := rfl

/-! `saveHalf` changes only: journal. -/
@[simp] theorem saveHalf_power (n h s) : (saveHalf n h s).power = s.power :=
  SameBut.power_eq (@saveHalf_frame _ _ _ [.journal] s (fun _ h => h) SameBut.refl)
@[simp] theorem saveHalf_tiles (n h s) : (saveHalf n h s).tiles = s.tiles :=
  SameBut.tiles_eq (@saveHalf_frame _ _ _ [.journal] s (fun _ h => h) SameBut.refl)
@[simp] theorem saveHalf_link (n h s) : (saveHalf n h s).link = s.link :=
  SameBut.link_eq (@saveHalf_frame _ _ _ [.journal] s (fun _ h => h) SameBut.refl)
@[simp] theorem saveHalf_rings (n h s) : (saveHalf n h s).rings = s.rings :=
  SameBut.rings_eq (@saveHalf_frame _ _ _ [.journal] s (fun _ h => h) SameBut.refl)
@[simp] theorem saveHalf_chain (n h s) : (saveHalf n h s).chain = s.chain :=
  SameBut.chain_eq (@saveHalf_frame _ _ _ [.journal] s (fun _ h => h) SameBut.refl)
@[simp] theorem saveHalf_time (n h s) : (saveHalf n h s).time = s.time :=
  SameBut.time_eq (@saveHalf_frame _ _ _ [.journal] s (fun _ h => h) SameBut.refl)
@[simp] theorem saveHalf_strip (n h s) : (saveHalf n h s).strip = s.strip :=
  SameBut.strip_eq (@saveHalf_frame _ _ _ [.journal] s (fun _ h => h) SameBut.refl)
@[simp] theorem saveHalf_frm (n h s) : (saveHalf n h s).frm = s.frm :=
  SameBut.frm_eq (@saveHalf_frame _ _ _ [.journal] s (fun _ h => h) SameBut.refl)
@[simp] theorem saveHalf_boot (n h s) : (saveHalf n h s).boot = s.boot :=
  SameBut.boot_eq (@saveHalf_frame _ _ _ [.journal] s (fun _ h => h) SameBut.refl)
@[simp] theorem saveHalf_cal (n h s) : (saveHalf n h s).cal = s.cal :=
  SameBut.cal_eq (@saveHalf_frame _ _ _ [.journal] s (fun _ h => h) SameBut.refl)
@[simp] theorem saveHalf_therm (n h s) : (saveHalf n h s).therm = s.therm :=
  SameBut.therm_eq (@saveHalf_frame _ _ _ [.journal] s (fun _ h => h) SameBut.refl)
@[simp] theorem saveHalf_prot (n h s) : (saveHalf n h s).prot = s.prot :=
  SameBut.prot_eq (@saveHalf_frame _ _ _ [.journal] s (fun _ h => h) SameBut.refl)
@[simp] theorem saveHalf_outputs (n h s) : (saveHalf n h s).outputs = s.outputs :=
  SameBut.outputs_eq (@saveHalf_frame _ _ _ [.journal] s (fun _ h => h) SameBut.refl)
@[simp] theorem saveHalf_freeCtr (n h s) : (saveHalf n h s).freeCtr = s.freeCtr :=
  SameBut.freeCtr_eq (@saveHalf_frame _ _ _ [.journal] s (fun _ h => h) SameBut.refl)
@[simp] theorem saveHalf_faults (n h s) : (saveHalf n h s).faults = s.faults :=
  SameBut.faults_eq (@saveHalf_frame _ _ _ [.journal] s (fun _ h => h) SameBut.refl)
@[simp] theorem saveHalf_nvm (n h s) : (saveHalf n h s).nvm = s.nvm :=
  SameBut.nvm_eq (@saveHalf_frame _ _ _ [.journal] s (fun _ h => h) SameBut.refl)
@[simp] theorem saveHalf_safety (n h s) : (saveHalf n h s).safety = s.safety :=
  SameBut.safety_eq (@saveHalf_frame _ _ _ [.journal] s (fun _ h => h) SameBut.refl)
@[simp] theorem saveHalf_cmp (n h s) : (saveHalf n h s).cmp = s.cmp :=
  SameBut.cmp_eq (@saveHalf_frame _ _ _ [.journal] s (fun _ h => h) SameBut.refl)
@[simp] theorem saveHalf_pending (n h s) : (saveHalf n h s).pending = s.pending :=
  SameBut.queue (@saveHalf_frame _ _ _ [.journal] s (fun _ h => h) SameBut.refl)

/-! `putSq` changes only: rings. -/
@[simp] theorem putSq_power (s n q) : (putSq s n q).power = s.power := rfl
@[simp] theorem putSq_journal (s n q) : (putSq s n q).journal = s.journal := rfl
@[simp] theorem putSq_tiles (s n q) : (putSq s n q).tiles = s.tiles := rfl
@[simp] theorem putSq_link (s n q) : (putSq s n q).link = s.link := rfl
@[simp] theorem putSq_chain (s n q) : (putSq s n q).chain = s.chain := rfl
@[simp] theorem putSq_time (s n q) : (putSq s n q).time = s.time := rfl
@[simp] theorem putSq_strip (s n q) : (putSq s n q).strip = s.strip := rfl
@[simp] theorem putSq_frm (s n q) : (putSq s n q).frm = s.frm := rfl
@[simp] theorem putSq_boot (s n q) : (putSq s n q).boot = s.boot := rfl
@[simp] theorem putSq_cal (s n q) : (putSq s n q).cal = s.cal := rfl
@[simp] theorem putSq_therm (s n q) : (putSq s n q).therm = s.therm := rfl
@[simp] theorem putSq_prot (s n q) : (putSq s n q).prot = s.prot := rfl
@[simp] theorem putSq_outputs (s n q) : (putSq s n q).outputs = s.outputs := rfl
@[simp] theorem putSq_freeCtr (s n q) : (putSq s n q).freeCtr = s.freeCtr := rfl
@[simp] theorem putSq_faults (s n q) : (putSq s n q).faults = s.faults := rfl
@[simp] theorem putSq_nvm (s n q) : (putSq s n q).nvm = s.nvm := rfl
@[simp] theorem putSq_safety (s n q) : (putSq s n q).safety = s.safety := rfl
@[simp] theorem putSq_cmp (s n q) : (putSq s n q).cmp = s.cmp := rfl
@[simp] theorem putSq_pending (s n q) : (putSq s n q).pending = s.pending := rfl

/-! `putCq` changes only: rings. -/
@[simp] theorem putCq_power (s n q) : (putCq s n q).power = s.power := rfl
@[simp] theorem putCq_journal (s n q) : (putCq s n q).journal = s.journal := rfl
@[simp] theorem putCq_tiles (s n q) : (putCq s n q).tiles = s.tiles := rfl
@[simp] theorem putCq_link (s n q) : (putCq s n q).link = s.link := rfl
@[simp] theorem putCq_chain (s n q) : (putCq s n q).chain = s.chain := rfl
@[simp] theorem putCq_time (s n q) : (putCq s n q).time = s.time := rfl
@[simp] theorem putCq_strip (s n q) : (putCq s n q).strip = s.strip := rfl
@[simp] theorem putCq_frm (s n q) : (putCq s n q).frm = s.frm := rfl
@[simp] theorem putCq_boot (s n q) : (putCq s n q).boot = s.boot := rfl
@[simp] theorem putCq_cal (s n q) : (putCq s n q).cal = s.cal := rfl
@[simp] theorem putCq_therm (s n q) : (putCq s n q).therm = s.therm := rfl
@[simp] theorem putCq_prot (s n q) : (putCq s n q).prot = s.prot := rfl
@[simp] theorem putCq_outputs (s n q) : (putCq s n q).outputs = s.outputs := rfl
@[simp] theorem putCq_freeCtr (s n q) : (putCq s n q).freeCtr = s.freeCtr := rfl
@[simp] theorem putCq_faults (s n q) : (putCq s n q).faults = s.faults := rfl
@[simp] theorem putCq_nvm (s n q) : (putCq s n q).nvm = s.nvm := rfl
@[simp] theorem putCq_safety (s n q) : (putCq s n q).safety = s.safety := rfl
@[simp] theorem putCq_cmp (s n q) : (putCq s n q).cmp = s.cmp := rfl
@[simp] theorem putCq_pending (s n q) : (putCq s n q).pending = s.pending := rfl

/-! `putFrond` changes only: strip. -/
@[simp] theorem putFrond_power (s f x) : (putFrond s f x).power = s.power := rfl
@[simp] theorem putFrond_journal (s f x) : (putFrond s f x).journal = s.journal := rfl
@[simp] theorem putFrond_tiles (s f x) : (putFrond s f x).tiles = s.tiles := rfl
@[simp] theorem putFrond_link (s f x) : (putFrond s f x).link = s.link := rfl
@[simp] theorem putFrond_rings (s f x) : (putFrond s f x).rings = s.rings := rfl
@[simp] theorem putFrond_chain (s f x) : (putFrond s f x).chain = s.chain := rfl
@[simp] theorem putFrond_time (s f x) : (putFrond s f x).time = s.time := rfl
@[simp] theorem putFrond_frm (s f x) : (putFrond s f x).frm = s.frm := rfl
@[simp] theorem putFrond_boot (s f x) : (putFrond s f x).boot = s.boot := rfl
@[simp] theorem putFrond_cal (s f x) : (putFrond s f x).cal = s.cal := rfl
@[simp] theorem putFrond_therm (s f x) : (putFrond s f x).therm = s.therm := rfl
@[simp] theorem putFrond_prot (s f x) : (putFrond s f x).prot = s.prot := rfl
@[simp] theorem putFrond_outputs (s f x) : (putFrond s f x).outputs = s.outputs := rfl
@[simp] theorem putFrond_freeCtr (s f x) : (putFrond s f x).freeCtr = s.freeCtr := rfl
@[simp] theorem putFrond_faults (s f x) : (putFrond s f x).faults = s.faults := rfl
@[simp] theorem putFrond_nvm (s f x) : (putFrond s f x).nvm = s.nvm := rfl
@[simp] theorem putFrond_safety (s f x) : (putFrond s f x).safety = s.safety := rfl
@[simp] theorem putFrond_cmp (s f x) : (putFrond s f x).cmp = s.cmp := rfl
@[simp] theorem putFrond_pending (s f x) : (putFrond s f x).pending = s.pending := rfl

/-! `putStrip` changes only: strip. -/
@[simp] theorem putStrip_power (s i x) : (putStrip s i x).power = s.power := rfl
@[simp] theorem putStrip_journal (s i x) : (putStrip s i x).journal = s.journal := rfl
@[simp] theorem putStrip_tiles (s i x) : (putStrip s i x).tiles = s.tiles := rfl
@[simp] theorem putStrip_link (s i x) : (putStrip s i x).link = s.link := rfl
@[simp] theorem putStrip_rings (s i x) : (putStrip s i x).rings = s.rings := rfl
@[simp] theorem putStrip_chain (s i x) : (putStrip s i x).chain = s.chain := rfl
@[simp] theorem putStrip_time (s i x) : (putStrip s i x).time = s.time := rfl
@[simp] theorem putStrip_frm (s i x) : (putStrip s i x).frm = s.frm := rfl
@[simp] theorem putStrip_boot (s i x) : (putStrip s i x).boot = s.boot := rfl
@[simp] theorem putStrip_cal (s i x) : (putStrip s i x).cal = s.cal := rfl
@[simp] theorem putStrip_therm (s i x) : (putStrip s i x).therm = s.therm := rfl
@[simp] theorem putStrip_prot (s i x) : (putStrip s i x).prot = s.prot := rfl
@[simp] theorem putStrip_outputs (s i x) : (putStrip s i x).outputs = s.outputs := rfl
@[simp] theorem putStrip_freeCtr (s i x) : (putStrip s i x).freeCtr = s.freeCtr := rfl
@[simp] theorem putStrip_faults (s i x) : (putStrip s i x).faults = s.faults := rfl
@[simp] theorem putStrip_nvm (s i x) : (putStrip s i x).nvm = s.nvm := rfl
@[simp] theorem putStrip_safety (s i x) : (putStrip s i x).safety = s.safety := rfl
@[simp] theorem putStrip_cmp (s i x) : (putStrip s i x).cmp = s.cmp := rfl
@[simp] theorem putStrip_pending (s i x) : (putStrip s i x).pending = s.pending := rfl

/-! `putTile` changes only: tiles. -/
@[simp] theorem putTile_power (s n x) : (putTile s n x).power = s.power := rfl
@[simp] theorem putTile_journal (s n x) : (putTile s n x).journal = s.journal := rfl
@[simp] theorem putTile_link (s n x) : (putTile s n x).link = s.link := rfl
@[simp] theorem putTile_rings (s n x) : (putTile s n x).rings = s.rings := rfl
@[simp] theorem putTile_chain (s n x) : (putTile s n x).chain = s.chain := rfl
@[simp] theorem putTile_time (s n x) : (putTile s n x).time = s.time := rfl
@[simp] theorem putTile_strip (s n x) : (putTile s n x).strip = s.strip := rfl
@[simp] theorem putTile_frm (s n x) : (putTile s n x).frm = s.frm := rfl
@[simp] theorem putTile_boot (s n x) : (putTile s n x).boot = s.boot := rfl
@[simp] theorem putTile_cal (s n x) : (putTile s n x).cal = s.cal := rfl
@[simp] theorem putTile_therm (s n x) : (putTile s n x).therm = s.therm := rfl
@[simp] theorem putTile_prot (s n x) : (putTile s n x).prot = s.prot := rfl
@[simp] theorem putTile_outputs (s n x) : (putTile s n x).outputs = s.outputs := rfl
@[simp] theorem putTile_freeCtr (s n x) : (putTile s n x).freeCtr = s.freeCtr := rfl
@[simp] theorem putTile_faults (s n x) : (putTile s n x).faults = s.faults := rfl
@[simp] theorem putTile_nvm (s n x) : (putTile s n x).nvm = s.nvm := rfl
@[simp] theorem putTile_safety (s n x) : (putTile s n x).safety = s.safety := rfl
@[simp] theorem putTile_cmp (s n x) : (putTile s n x).cmp = s.cmp := rfl
@[simp] theorem putTile_pending (s n x) : (putTile s n x).pending = s.pending := rfl

/-! `putCal` changes only: cal. -/
@[simp] theorem putCal_power (s c x) : (putCal s c x).power = s.power := rfl
@[simp] theorem putCal_journal (s c x) : (putCal s c x).journal = s.journal := rfl
@[simp] theorem putCal_tiles (s c x) : (putCal s c x).tiles = s.tiles := rfl
@[simp] theorem putCal_link (s c x) : (putCal s c x).link = s.link := rfl
@[simp] theorem putCal_rings (s c x) : (putCal s c x).rings = s.rings := rfl
@[simp] theorem putCal_chain (s c x) : (putCal s c x).chain = s.chain := rfl
@[simp] theorem putCal_time (s c x) : (putCal s c x).time = s.time := rfl
@[simp] theorem putCal_strip (s c x) : (putCal s c x).strip = s.strip := rfl
@[simp] theorem putCal_frm (s c x) : (putCal s c x).frm = s.frm := rfl
@[simp] theorem putCal_boot (s c x) : (putCal s c x).boot = s.boot := rfl
@[simp] theorem putCal_therm (s c x) : (putCal s c x).therm = s.therm := rfl
@[simp] theorem putCal_prot (s c x) : (putCal s c x).prot = s.prot := rfl
@[simp] theorem putCal_outputs (s c x) : (putCal s c x).outputs = s.outputs := rfl
@[simp] theorem putCal_freeCtr (s c x) : (putCal s c x).freeCtr = s.freeCtr := rfl
@[simp] theorem putCal_faults (s c x) : (putCal s c x).faults = s.faults := rfl
@[simp] theorem putCal_nvm (s c x) : (putCal s c x).nvm = s.nvm := rfl
@[simp] theorem putCal_safety (s c x) : (putCal s c x).safety = s.safety := rfl
@[simp] theorem putCal_cmp (s c x) : (putCal s c x).cmp = s.cmp := rfl
@[simp] theorem putCal_pending (s c x) : (putCal s c x).pending = s.pending := rfl

/-! `putSensor` changes only: therm. -/
@[simp] theorem putSensor_power (s i x) : (putSensor s i x).power = s.power := rfl
@[simp] theorem putSensor_journal (s i x) : (putSensor s i x).journal = s.journal := rfl
@[simp] theorem putSensor_tiles (s i x) : (putSensor s i x).tiles = s.tiles := rfl
@[simp] theorem putSensor_link (s i x) : (putSensor s i x).link = s.link := rfl
@[simp] theorem putSensor_rings (s i x) : (putSensor s i x).rings = s.rings := rfl
@[simp] theorem putSensor_chain (s i x) : (putSensor s i x).chain = s.chain := rfl
@[simp] theorem putSensor_time (s i x) : (putSensor s i x).time = s.time := rfl
@[simp] theorem putSensor_strip (s i x) : (putSensor s i x).strip = s.strip := rfl
@[simp] theorem putSensor_frm (s i x) : (putSensor s i x).frm = s.frm := rfl
@[simp] theorem putSensor_boot (s i x) : (putSensor s i x).boot = s.boot := rfl
@[simp] theorem putSensor_cal (s i x) : (putSensor s i x).cal = s.cal := rfl
@[simp] theorem putSensor_prot (s i x) : (putSensor s i x).prot = s.prot := rfl
@[simp] theorem putSensor_outputs (s i x) : (putSensor s i x).outputs = s.outputs := rfl
@[simp] theorem putSensor_freeCtr (s i x) : (putSensor s i x).freeCtr = s.freeCtr := rfl
@[simp] theorem putSensor_faults (s i x) : (putSensor s i x).faults = s.faults := rfl
@[simp] theorem putSensor_nvm (s i x) : (putSensor s i x).nvm = s.nvm := rfl
@[simp] theorem putSensor_safety (s i x) : (putSensor s i x).safety = s.safety := rfl
@[simp] theorem putSensor_cmp (s i x) : (putSensor s i x).cmp = s.cmp := rfl
@[simp] theorem putSensor_pending (s i x) : (putSensor s i x).pending = s.pending := rfl

/-! `putDomain` changes only: therm. -/
@[simp] theorem putDomain_power (s d x) : (putDomain s d x).power = s.power := rfl
@[simp] theorem putDomain_journal (s d x) : (putDomain s d x).journal = s.journal := rfl
@[simp] theorem putDomain_tiles (s d x) : (putDomain s d x).tiles = s.tiles := rfl
@[simp] theorem putDomain_link (s d x) : (putDomain s d x).link = s.link := rfl
@[simp] theorem putDomain_rings (s d x) : (putDomain s d x).rings = s.rings := rfl
@[simp] theorem putDomain_chain (s d x) : (putDomain s d x).chain = s.chain := rfl
@[simp] theorem putDomain_time (s d x) : (putDomain s d x).time = s.time := rfl
@[simp] theorem putDomain_strip (s d x) : (putDomain s d x).strip = s.strip := rfl
@[simp] theorem putDomain_frm (s d x) : (putDomain s d x).frm = s.frm := rfl
@[simp] theorem putDomain_boot (s d x) : (putDomain s d x).boot = s.boot := rfl
@[simp] theorem putDomain_cal (s d x) : (putDomain s d x).cal = s.cal := rfl
@[simp] theorem putDomain_prot (s d x) : (putDomain s d x).prot = s.prot := rfl
@[simp] theorem putDomain_outputs (s d x) : (putDomain s d x).outputs = s.outputs := rfl
@[simp] theorem putDomain_freeCtr (s d x) : (putDomain s d x).freeCtr = s.freeCtr := rfl
@[simp] theorem putDomain_faults (s d x) : (putDomain s d x).faults = s.faults := rfl
@[simp] theorem putDomain_nvm (s d x) : (putDomain s d x).nvm = s.nvm := rfl
@[simp] theorem putDomain_safety (s d x) : (putDomain s d x).safety = s.safety := rfl
@[simp] theorem putDomain_cmp (s d x) : (putDomain s d x).cmp = s.cmp := rfl
@[simp] theorem putDomain_pending (s d x) : (putDomain s d x).pending = s.pending := rfl

/-! `putPort` changes only: chain. -/
@[simp] theorem putPort_power (s p x) : (putPort s p x).power = s.power := rfl
@[simp] theorem putPort_journal (s p x) : (putPort s p x).journal = s.journal := rfl
@[simp] theorem putPort_tiles (s p x) : (putPort s p x).tiles = s.tiles := rfl
@[simp] theorem putPort_link (s p x) : (putPort s p x).link = s.link := rfl
@[simp] theorem putPort_rings (s p x) : (putPort s p x).rings = s.rings := rfl
@[simp] theorem putPort_time (s p x) : (putPort s p x).time = s.time := rfl
@[simp] theorem putPort_strip (s p x) : (putPort s p x).strip = s.strip := rfl
@[simp] theorem putPort_frm (s p x) : (putPort s p x).frm = s.frm := rfl
@[simp] theorem putPort_boot (s p x) : (putPort s p x).boot = s.boot := rfl
@[simp] theorem putPort_cal (s p x) : (putPort s p x).cal = s.cal := rfl
@[simp] theorem putPort_therm (s p x) : (putPort s p x).therm = s.therm := rfl
@[simp] theorem putPort_prot (s p x) : (putPort s p x).prot = s.prot := rfl
@[simp] theorem putPort_outputs (s p x) : (putPort s p x).outputs = s.outputs := rfl
@[simp] theorem putPort_freeCtr (s p x) : (putPort s p x).freeCtr = s.freeCtr := rfl
@[simp] theorem putPort_faults (s p x) : (putPort s p x).faults = s.faults := rfl
@[simp] theorem putPort_nvm (s p x) : (putPort s p x).nvm = s.nvm := rfl
@[simp] theorem putPort_safety (s p x) : (putPort s p x).safety = s.safety := rfl
@[simp] theorem putPort_cmp (s p x) : (putPort s p x).cmp = s.cmp := rfl
@[simp] theorem putPort_pending (s p x) : (putPort s p x).pending = s.pending := rfl

/-! `putRxq` changes only: chain. -/
@[simp] theorem putRxq_power (s r x) : (putRxq s r x).power = s.power := rfl
@[simp] theorem putRxq_journal (s r x) : (putRxq s r x).journal = s.journal := rfl
@[simp] theorem putRxq_tiles (s r x) : (putRxq s r x).tiles = s.tiles := rfl
@[simp] theorem putRxq_link (s r x) : (putRxq s r x).link = s.link := rfl
@[simp] theorem putRxq_rings (s r x) : (putRxq s r x).rings = s.rings := rfl
@[simp] theorem putRxq_time (s r x) : (putRxq s r x).time = s.time := rfl
@[simp] theorem putRxq_strip (s r x) : (putRxq s r x).strip = s.strip := rfl
@[simp] theorem putRxq_frm (s r x) : (putRxq s r x).frm = s.frm := rfl
@[simp] theorem putRxq_boot (s r x) : (putRxq s r x).boot = s.boot := rfl
@[simp] theorem putRxq_cal (s r x) : (putRxq s r x).cal = s.cal := rfl
@[simp] theorem putRxq_therm (s r x) : (putRxq s r x).therm = s.therm := rfl
@[simp] theorem putRxq_prot (s r x) : (putRxq s r x).prot = s.prot := rfl
@[simp] theorem putRxq_outputs (s r x) : (putRxq s r x).outputs = s.outputs := rfl
@[simp] theorem putRxq_freeCtr (s r x) : (putRxq s r x).freeCtr = s.freeCtr := rfl
@[simp] theorem putRxq_faults (s r x) : (putRxq s r x).faults = s.faults := rfl
@[simp] theorem putRxq_nvm (s r x) : (putRxq s r x).nvm = s.nvm := rfl
@[simp] theorem putRxq_safety (s r x) : (putRxq s r x).safety = s.safety := rfl
@[simp] theorem putRxq_cmp (s r x) : (putRxq s r x).cmp = s.cmp := rfl
@[simp] theorem putRxq_pending (s r x) : (putRxq s r x).pending = s.pending := rfl

/-! `putDom` changes only: time. -/
@[simp] theorem putDom_power (s d x) : (putDom s d x).power = s.power := rfl
@[simp] theorem putDom_journal (s d x) : (putDom s d x).journal = s.journal := rfl
@[simp] theorem putDom_tiles (s d x) : (putDom s d x).tiles = s.tiles := rfl
@[simp] theorem putDom_link (s d x) : (putDom s d x).link = s.link := rfl
@[simp] theorem putDom_rings (s d x) : (putDom s d x).rings = s.rings := rfl
@[simp] theorem putDom_chain (s d x) : (putDom s d x).chain = s.chain := rfl
@[simp] theorem putDom_strip (s d x) : (putDom s d x).strip = s.strip := rfl
@[simp] theorem putDom_frm (s d x) : (putDom s d x).frm = s.frm := rfl
@[simp] theorem putDom_boot (s d x) : (putDom s d x).boot = s.boot := rfl
@[simp] theorem putDom_cal (s d x) : (putDom s d x).cal = s.cal := rfl
@[simp] theorem putDom_therm (s d x) : (putDom s d x).therm = s.therm := rfl
@[simp] theorem putDom_prot (s d x) : (putDom s d x).prot = s.prot := rfl
@[simp] theorem putDom_outputs (s d x) : (putDom s d x).outputs = s.outputs := rfl
@[simp] theorem putDom_freeCtr (s d x) : (putDom s d x).freeCtr = s.freeCtr := rfl
@[simp] theorem putDom_faults (s d x) : (putDom s d x).faults = s.faults := rfl
@[simp] theorem putDom_nvm (s d x) : (putDom s d x).nvm = s.nvm := rfl
@[simp] theorem putDom_safety (s d x) : (putDom s d x).safety = s.safety := rfl
@[simp] theorem putDom_cmp (s d x) : (putDom s d x).cmp = s.cmp := rfl
@[simp] theorem putDom_pending (s d x) : (putDom s d x).pending = s.pending := rfl

/-! `putTev` changes only: time. -/
@[simp] theorem putTev_power (s k x) : (putTev s k x).power = s.power := rfl
@[simp] theorem putTev_journal (s k x) : (putTev s k x).journal = s.journal := rfl
@[simp] theorem putTev_tiles (s k x) : (putTev s k x).tiles = s.tiles := rfl
@[simp] theorem putTev_link (s k x) : (putTev s k x).link = s.link := rfl
@[simp] theorem putTev_rings (s k x) : (putTev s k x).rings = s.rings := rfl
@[simp] theorem putTev_chain (s k x) : (putTev s k x).chain = s.chain := rfl
@[simp] theorem putTev_strip (s k x) : (putTev s k x).strip = s.strip := rfl
@[simp] theorem putTev_frm (s k x) : (putTev s k x).frm = s.frm := rfl
@[simp] theorem putTev_boot (s k x) : (putTev s k x).boot = s.boot := rfl
@[simp] theorem putTev_cal (s k x) : (putTev s k x).cal = s.cal := rfl
@[simp] theorem putTev_therm (s k x) : (putTev s k x).therm = s.therm := rfl
@[simp] theorem putTev_prot (s k x) : (putTev s k x).prot = s.prot := rfl
@[simp] theorem putTev_outputs (s k x) : (putTev s k x).outputs = s.outputs := rfl
@[simp] theorem putTev_freeCtr (s k x) : (putTev s k x).freeCtr = s.freeCtr := rfl
@[simp] theorem putTev_faults (s k x) : (putTev s k x).faults = s.faults := rfl
@[simp] theorem putTev_nvm (s k x) : (putTev s k x).nvm = s.nvm := rfl
@[simp] theorem putTev_safety (s k x) : (putTev s k x).safety = s.safety := rfl
@[simp] theorem putTev_cmp (s k x) : (putTev s k x).cmp = s.cmp := rfl
@[simp] theorem putTev_pending (s k x) : (putTev s k x).pending = s.pending := rfl

/-! `putGcu` changes only: nvm. -/
@[simp] theorem putGcu_power (s u x) : (putGcu s u x).power = s.power := rfl
@[simp] theorem putGcu_journal (s u x) : (putGcu s u x).journal = s.journal := rfl
@[simp] theorem putGcu_tiles (s u x) : (putGcu s u x).tiles = s.tiles := rfl
@[simp] theorem putGcu_link (s u x) : (putGcu s u x).link = s.link := rfl
@[simp] theorem putGcu_rings (s u x) : (putGcu s u x).rings = s.rings := rfl
@[simp] theorem putGcu_chain (s u x) : (putGcu s u x).chain = s.chain := rfl
@[simp] theorem putGcu_time (s u x) : (putGcu s u x).time = s.time := rfl
@[simp] theorem putGcu_strip (s u x) : (putGcu s u x).strip = s.strip := rfl
@[simp] theorem putGcu_frm (s u x) : (putGcu s u x).frm = s.frm := rfl
@[simp] theorem putGcu_boot (s u x) : (putGcu s u x).boot = s.boot := rfl
@[simp] theorem putGcu_cal (s u x) : (putGcu s u x).cal = s.cal := rfl
@[simp] theorem putGcu_therm (s u x) : (putGcu s u x).therm = s.therm := rfl
@[simp] theorem putGcu_prot (s u x) : (putGcu s u x).prot = s.prot := rfl
@[simp] theorem putGcu_outputs (s u x) : (putGcu s u x).outputs = s.outputs := rfl
@[simp] theorem putGcu_freeCtr (s u x) : (putGcu s u x).freeCtr = s.freeCtr := rfl
@[simp] theorem putGcu_faults (s u x) : (putGcu s u x).faults = s.faults := rfl
@[simp] theorem putGcu_safety (s u x) : (putGcu s u x).safety = s.safety := rfl
@[simp] theorem putGcu_cmp (s u x) : (putGcu s u x).cmp = s.cmp := rfl
@[simp] theorem putGcu_pending (s u x) : (putGcu s u x).pending = s.pending := rfl

/-! `emit` changes only: outputs. -/
@[simp] theorem emit_power (o s) : (emit o s).power = s.power := rfl
@[simp] theorem emit_journal (o s) : (emit o s).journal = s.journal := rfl
@[simp] theorem emit_tiles (o s) : (emit o s).tiles = s.tiles := rfl
@[simp] theorem emit_link (o s) : (emit o s).link = s.link := rfl
@[simp] theorem emit_rings (o s) : (emit o s).rings = s.rings := rfl
@[simp] theorem emit_chain (o s) : (emit o s).chain = s.chain := rfl
@[simp] theorem emit_time (o s) : (emit o s).time = s.time := rfl
@[simp] theorem emit_strip (o s) : (emit o s).strip = s.strip := rfl
@[simp] theorem emit_frm (o s) : (emit o s).frm = s.frm := rfl
@[simp] theorem emit_boot (o s) : (emit o s).boot = s.boot := rfl
@[simp] theorem emit_cal (o s) : (emit o s).cal = s.cal := rfl
@[simp] theorem emit_therm (o s) : (emit o s).therm = s.therm := rfl
@[simp] theorem emit_prot (o s) : (emit o s).prot = s.prot := rfl
@[simp] theorem emit_freeCtr (o s) : (emit o s).freeCtr = s.freeCtr := rfl
@[simp] theorem emit_faults (o s) : (emit o s).faults = s.faults := rfl
@[simp] theorem emit_nvm (o s) : (emit o s).nvm = s.nvm := rfl
@[simp] theorem emit_safety (o s) : (emit o s).safety = s.safety := rfl
@[simp] theorem emit_cmp (o s) : (emit o s).cmp = s.cmp := rfl
@[simp] theorem emit_pending (o s) : (emit o s).pending = s.pending := rfl
@[simp] theorem emit_tileOf (o s i) : tileOf (emit o s) i = tileOf s i :=
  SameBut.tileOf_eq (@emit_frame _ _ [.outputs] s (fun _ h => h) SameBut.refl) i
@[simp] theorem emit_portOf (o s i) : portOf (emit o s) i = portOf s i :=
  SameBut.portOf_eq (@emit_frame _ _ [.outputs] s (fun _ h => h) SameBut.refl) i
@[simp] theorem emit_frondOf (o s i) : frondOf (emit o s) i = frondOf s i :=
  SameBut.frondOf_eq (@emit_frame _ _ [.outputs] s (fun _ h => h) SameBut.refl) i
@[simp] theorem emit_stripOf (o s i) : stripOf (emit o s) i = stripOf s i :=
  SameBut.stripOf_eq (@emit_frame _ _ [.outputs] s (fun _ h => h) SameBut.refl) i
@[simp] theorem emit_calOf (o s i) : calOf (emit o s) i = calOf s i :=
  SameBut.calOf_eq (@emit_frame _ _ [.outputs] s (fun _ h => h) SameBut.refl) i
@[simp] theorem emit_sensorOf (o s i) : sensorOf (emit o s) i = sensorOf s i :=
  SameBut.sensorOf_eq (@emit_frame _ _ [.outputs] s (fun _ h => h) SameBut.refl) i
@[simp] theorem emit_domainOf (o s i) : domainOf (emit o s) i = domainOf s i :=
  SameBut.domainOf_eq (@emit_frame _ _ [.outputs] s (fun _ h => h) SameBut.refl) i
@[simp] theorem emit_rxqOf (o s i) : rxqOf (emit o s) i = rxqOf s i :=
  SameBut.rxqOf_eq (@emit_frame _ _ [.outputs] s (fun _ h => h) SameBut.refl) i
@[simp] theorem emit_domOf (o s i) : domOf (emit o s) i = domOf s i :=
  SameBut.domOf_eq (@emit_frame _ _ [.outputs] s (fun _ h => h) SameBut.refl) i
@[simp] theorem emit_tevOf (o s i) : tevOf (emit o s) i = tevOf s i :=
  SameBut.tevOf_eq (@emit_frame _ _ [.outputs] s (fun _ h => h) SameBut.refl) i
@[simp] theorem emit_gcuOf (o s i) : gcuOf (emit o s) i = gcuOf s i :=
  SameBut.gcuOf_eq (@emit_frame _ _ [.outputs] s (fun _ h => h) SameBut.refl) i
@[simp] theorem emit_layerOf (o s i) : layerOf (emit o s) i = layerOf s i :=
  SameBut.layerOf_eq (@emit_frame _ _ [.outputs] s (fun _ h => h) SameBut.refl) i
@[simp] theorem emit_descOf (o s i) : descOf (emit o s) i = descOf s i :=
  SameBut.descOf_eq (@emit_frame _ _ [.outputs] s (fun _ h => h) SameBut.refl) i
@[simp] theorem emit_sqOf (o s i) : sqOf (emit o s) i = sqOf s i :=
  SameBut.sqOf_eq (@emit_frame _ _ [.outputs] s (fun _ h => h) SameBut.refl) i
@[simp] theorem emit_cqOf (o s i) : cqOf (emit o s) i = cqOf s i :=
  SameBut.cqOf_eq (@emit_frame _ _ [.outputs] s (fun _ h => h) SameBut.refl) i
@[simp] theorem emit_slotOf (o s i) : slotOf (emit o s) i = slotOf s i :=
  SameBut.slotOf_eq (@emit_frame _ _ [.outputs] s (fun _ h => h) SameBut.refl) i
@[simp] theorem emit_frameOf (o s i) : frameOf (emit o s) i = frameOf s i :=
  SameBut.frameOf_eq (@emit_frame _ _ [.outputs] s (fun _ h => h) SameBut.refl) i
@[simp] theorem emit_nvmBusy (o s) : nvmBusy (emit o s) = nvmBusy s :=
  SameBut.nvmBusy_eq (@emit_frame _ _ [.outputs] s (fun _ h => h) SameBut.refl)
@[simp] theorem emit_serving (o s i) : serving (emit o s) i = serving s i :=
  SameBut.serving_eq (@emit_frame _ _ [.outputs] s (fun _ h => h) SameBut.refl) i
@[simp] theorem emit_outTime (o s) : outTime (emit o s) = outTime s :=
  SameBut.outTime_eq (@emit_frame _ _ [.outputs] s (fun _ h => h) SameBut.refl)
@[simp] theorem emit_chanOf (o s i) : chanOf (emit o s) i = chanOf s i :=
  SameBut.chanOf_eq (@emit_frame _ _ [.outputs] s (fun _ h => h) SameBut.refl) i

/-! `runLocal` changes only: time. -/
@[simp] theorem runLocal_power (d s) : (runLocal d s).power = s.power :=
  SameBut.power_eq (@runLocal_frame _ _ [.time] s (fun _ h => h) SameBut.refl)
@[simp] theorem runLocal_journal (d s) : (runLocal d s).journal = s.journal :=
  SameBut.journal_eq (@runLocal_frame _ _ [.time] s (fun _ h => h) SameBut.refl)
@[simp] theorem runLocal_tiles (d s) : (runLocal d s).tiles = s.tiles :=
  SameBut.tiles_eq (@runLocal_frame _ _ [.time] s (fun _ h => h) SameBut.refl)
@[simp] theorem runLocal_link (d s) : (runLocal d s).link = s.link :=
  SameBut.link_eq (@runLocal_frame _ _ [.time] s (fun _ h => h) SameBut.refl)
@[simp] theorem runLocal_rings (d s) : (runLocal d s).rings = s.rings :=
  SameBut.rings_eq (@runLocal_frame _ _ [.time] s (fun _ h => h) SameBut.refl)
@[simp] theorem runLocal_chain (d s) : (runLocal d s).chain = s.chain :=
  SameBut.chain_eq (@runLocal_frame _ _ [.time] s (fun _ h => h) SameBut.refl)
@[simp] theorem runLocal_strip (d s) : (runLocal d s).strip = s.strip :=
  SameBut.strip_eq (@runLocal_frame _ _ [.time] s (fun _ h => h) SameBut.refl)
@[simp] theorem runLocal_frm (d s) : (runLocal d s).frm = s.frm :=
  SameBut.frm_eq (@runLocal_frame _ _ [.time] s (fun _ h => h) SameBut.refl)
@[simp] theorem runLocal_boot (d s) : (runLocal d s).boot = s.boot :=
  SameBut.boot_eq (@runLocal_frame _ _ [.time] s (fun _ h => h) SameBut.refl)
@[simp] theorem runLocal_cal (d s) : (runLocal d s).cal = s.cal :=
  SameBut.cal_eq (@runLocal_frame _ _ [.time] s (fun _ h => h) SameBut.refl)
@[simp] theorem runLocal_therm (d s) : (runLocal d s).therm = s.therm :=
  SameBut.therm_eq (@runLocal_frame _ _ [.time] s (fun _ h => h) SameBut.refl)
@[simp] theorem runLocal_prot (d s) : (runLocal d s).prot = s.prot :=
  SameBut.prot_eq (@runLocal_frame _ _ [.time] s (fun _ h => h) SameBut.refl)
@[simp] theorem runLocal_outputs (d s) : (runLocal d s).outputs = s.outputs :=
  SameBut.outputs_eq (@runLocal_frame _ _ [.time] s (fun _ h => h) SameBut.refl)
@[simp] theorem runLocal_freeCtr (d s) : (runLocal d s).freeCtr = s.freeCtr :=
  SameBut.freeCtr_eq (@runLocal_frame _ _ [.time] s (fun _ h => h) SameBut.refl)
@[simp] theorem runLocal_faults (d s) : (runLocal d s).faults = s.faults :=
  SameBut.faults_eq (@runLocal_frame _ _ [.time] s (fun _ h => h) SameBut.refl)
@[simp] theorem runLocal_nvm (d s) : (runLocal d s).nvm = s.nvm :=
  SameBut.nvm_eq (@runLocal_frame _ _ [.time] s (fun _ h => h) SameBut.refl)
@[simp] theorem runLocal_safety (d s) : (runLocal d s).safety = s.safety :=
  SameBut.safety_eq (@runLocal_frame _ _ [.time] s (fun _ h => h) SameBut.refl)
@[simp] theorem runLocal_cmp (d s) : (runLocal d s).cmp = s.cmp :=
  SameBut.cmp_eq (@runLocal_frame _ _ [.time] s (fun _ h => h) SameBut.refl)
@[simp] theorem runLocal_pending (d s) : (runLocal d s).pending = s.pending :=
  SameBut.queue (@runLocal_frame _ _ [.time] s (fun _ h => h) SameBut.refl)

/-! `raise` changes only: faults. -/
@[simp] theorem raise_power (slot s) : (raise slot s).power = s.power :=
  SameBut.power_eq (@raise_frame _ _ [.faults] s (fun _ h => h) SameBut.refl)
@[simp] theorem raise_journal (slot s) : (raise slot s).journal = s.journal :=
  SameBut.journal_eq (@raise_frame _ _ [.faults] s (fun _ h => h) SameBut.refl)
@[simp] theorem raise_tiles (slot s) : (raise slot s).tiles = s.tiles :=
  SameBut.tiles_eq (@raise_frame _ _ [.faults] s (fun _ h => h) SameBut.refl)
@[simp] theorem raise_link (slot s) : (raise slot s).link = s.link :=
  SameBut.link_eq (@raise_frame _ _ [.faults] s (fun _ h => h) SameBut.refl)
@[simp] theorem raise_rings (slot s) : (raise slot s).rings = s.rings :=
  SameBut.rings_eq (@raise_frame _ _ [.faults] s (fun _ h => h) SameBut.refl)
@[simp] theorem raise_chain (slot s) : (raise slot s).chain = s.chain :=
  SameBut.chain_eq (@raise_frame _ _ [.faults] s (fun _ h => h) SameBut.refl)
@[simp] theorem raise_time (slot s) : (raise slot s).time = s.time :=
  SameBut.time_eq (@raise_frame _ _ [.faults] s (fun _ h => h) SameBut.refl)
@[simp] theorem raise_strip (slot s) : (raise slot s).strip = s.strip :=
  SameBut.strip_eq (@raise_frame _ _ [.faults] s (fun _ h => h) SameBut.refl)
@[simp] theorem raise_frm (slot s) : (raise slot s).frm = s.frm :=
  SameBut.frm_eq (@raise_frame _ _ [.faults] s (fun _ h => h) SameBut.refl)
@[simp] theorem raise_boot (slot s) : (raise slot s).boot = s.boot :=
  SameBut.boot_eq (@raise_frame _ _ [.faults] s (fun _ h => h) SameBut.refl)
@[simp] theorem raise_cal (slot s) : (raise slot s).cal = s.cal :=
  SameBut.cal_eq (@raise_frame _ _ [.faults] s (fun _ h => h) SameBut.refl)
@[simp] theorem raise_therm (slot s) : (raise slot s).therm = s.therm :=
  SameBut.therm_eq (@raise_frame _ _ [.faults] s (fun _ h => h) SameBut.refl)
@[simp] theorem raise_prot (slot s) : (raise slot s).prot = s.prot :=
  SameBut.prot_eq (@raise_frame _ _ [.faults] s (fun _ h => h) SameBut.refl)
@[simp] theorem raise_outputs (slot s) : (raise slot s).outputs = s.outputs :=
  SameBut.outputs_eq (@raise_frame _ _ [.faults] s (fun _ h => h) SameBut.refl)
@[simp] theorem raise_freeCtr (slot s) : (raise slot s).freeCtr = s.freeCtr :=
  SameBut.freeCtr_eq (@raise_frame _ _ [.faults] s (fun _ h => h) SameBut.refl)
@[simp] theorem raise_nvm (slot s) : (raise slot s).nvm = s.nvm :=
  SameBut.nvm_eq (@raise_frame _ _ [.faults] s (fun _ h => h) SameBut.refl)
@[simp] theorem raise_safety (slot s) : (raise slot s).safety = s.safety :=
  SameBut.safety_eq (@raise_frame _ _ [.faults] s (fun _ h => h) SameBut.refl)
@[simp] theorem raise_cmp (slot s) : (raise slot s).cmp = s.cmp :=
  SameBut.cmp_eq (@raise_frame _ _ [.faults] s (fun _ h => h) SameBut.refl)
@[simp] theorem raise_pending (slot s) : (raise slot s).pending = s.pending :=
  SameBut.queue (@raise_frame _ _ [.faults] s (fun _ h => h) SameBut.refl)
@[simp] theorem raise_tileOf (slot s i) : tileOf (raise slot s) i = tileOf s i :=
  SameBut.tileOf_eq (@raise_frame _ _ [.faults] s (fun _ h => h) SameBut.refl) i
@[simp] theorem raise_portOf (slot s i) : portOf (raise slot s) i = portOf s i :=
  SameBut.portOf_eq (@raise_frame _ _ [.faults] s (fun _ h => h) SameBut.refl) i
@[simp] theorem raise_frondOf (slot s i) : frondOf (raise slot s) i = frondOf s i :=
  SameBut.frondOf_eq (@raise_frame _ _ [.faults] s (fun _ h => h) SameBut.refl) i
@[simp] theorem raise_stripOf (slot s i) : stripOf (raise slot s) i = stripOf s i :=
  SameBut.stripOf_eq (@raise_frame _ _ [.faults] s (fun _ h => h) SameBut.refl) i
@[simp] theorem raise_calOf (slot s i) : calOf (raise slot s) i = calOf s i :=
  SameBut.calOf_eq (@raise_frame _ _ [.faults] s (fun _ h => h) SameBut.refl) i
@[simp] theorem raise_sensorOf (slot s i) : sensorOf (raise slot s) i = sensorOf s i :=
  SameBut.sensorOf_eq (@raise_frame _ _ [.faults] s (fun _ h => h) SameBut.refl) i
@[simp] theorem raise_domainOf (slot s i) : domainOf (raise slot s) i = domainOf s i :=
  SameBut.domainOf_eq (@raise_frame _ _ [.faults] s (fun _ h => h) SameBut.refl) i
@[simp] theorem raise_rxqOf (slot s i) : rxqOf (raise slot s) i = rxqOf s i :=
  SameBut.rxqOf_eq (@raise_frame _ _ [.faults] s (fun _ h => h) SameBut.refl) i
@[simp] theorem raise_domOf (slot s i) : domOf (raise slot s) i = domOf s i :=
  SameBut.domOf_eq (@raise_frame _ _ [.faults] s (fun _ h => h) SameBut.refl) i
@[simp] theorem raise_tevOf (slot s i) : tevOf (raise slot s) i = tevOf s i :=
  SameBut.tevOf_eq (@raise_frame _ _ [.faults] s (fun _ h => h) SameBut.refl) i
@[simp] theorem raise_gcuOf (slot s i) : gcuOf (raise slot s) i = gcuOf s i :=
  SameBut.gcuOf_eq (@raise_frame _ _ [.faults] s (fun _ h => h) SameBut.refl) i
@[simp] theorem raise_layerOf (slot s i) : layerOf (raise slot s) i = layerOf s i :=
  SameBut.layerOf_eq (@raise_frame _ _ [.faults] s (fun _ h => h) SameBut.refl) i
@[simp] theorem raise_descOf (slot s i) : descOf (raise slot s) i = descOf s i :=
  SameBut.descOf_eq (@raise_frame _ _ [.faults] s (fun _ h => h) SameBut.refl) i
@[simp] theorem raise_sqOf (slot s i) : sqOf (raise slot s) i = sqOf s i :=
  SameBut.sqOf_eq (@raise_frame _ _ [.faults] s (fun _ h => h) SameBut.refl) i
@[simp] theorem raise_cqOf (slot s i) : cqOf (raise slot s) i = cqOf s i :=
  SameBut.cqOf_eq (@raise_frame _ _ [.faults] s (fun _ h => h) SameBut.refl) i
@[simp] theorem raise_slotOf (slot s i) : slotOf (raise slot s) i = slotOf s i :=
  SameBut.slotOf_eq (@raise_frame _ _ [.faults] s (fun _ h => h) SameBut.refl) i
@[simp] theorem raise_frameOf (slot s i) : frameOf (raise slot s) i = frameOf s i :=
  SameBut.frameOf_eq (@raise_frame _ _ [.faults] s (fun _ h => h) SameBut.refl) i
@[simp] theorem raise_nvmBusy (slot s) : nvmBusy (raise slot s) = nvmBusy s :=
  SameBut.nvmBusy_eq (@raise_frame _ _ [.faults] s (fun _ h => h) SameBut.refl)
@[simp] theorem raise_serving (slot s i) : serving (raise slot s) i = serving s i :=
  SameBut.serving_eq (@raise_frame _ _ [.faults] s (fun _ h => h) SameBut.refl) i
@[simp] theorem raise_outTime (slot s) : outTime (raise slot s) = outTime s :=
  SameBut.outTime_eq (@raise_frame _ _ [.faults] s (fun _ h => h) SameBut.refl)
@[simp] theorem raise_chanOf (slot s i) : chanOf (raise slot s) i = chanOf s i :=
  SameBut.chanOf_eq (@raise_frame _ _ [.faults] s (fun _ h => h) SameBut.refl) i

/-! `condOff` changes only: faults. -/
@[simp] theorem condOff_power (slot s) : (condOff slot s).power = s.power :=
  SameBut.power_eq (@condOff_frame _ _ [.faults] s (fun _ h => h) SameBut.refl)
@[simp] theorem condOff_journal (slot s) : (condOff slot s).journal = s.journal :=
  SameBut.journal_eq (@condOff_frame _ _ [.faults] s (fun _ h => h) SameBut.refl)
@[simp] theorem condOff_tiles (slot s) : (condOff slot s).tiles = s.tiles :=
  SameBut.tiles_eq (@condOff_frame _ _ [.faults] s (fun _ h => h) SameBut.refl)
@[simp] theorem condOff_link (slot s) : (condOff slot s).link = s.link :=
  SameBut.link_eq (@condOff_frame _ _ [.faults] s (fun _ h => h) SameBut.refl)
@[simp] theorem condOff_rings (slot s) : (condOff slot s).rings = s.rings :=
  SameBut.rings_eq (@condOff_frame _ _ [.faults] s (fun _ h => h) SameBut.refl)
@[simp] theorem condOff_chain (slot s) : (condOff slot s).chain = s.chain :=
  SameBut.chain_eq (@condOff_frame _ _ [.faults] s (fun _ h => h) SameBut.refl)
@[simp] theorem condOff_time (slot s) : (condOff slot s).time = s.time :=
  SameBut.time_eq (@condOff_frame _ _ [.faults] s (fun _ h => h) SameBut.refl)
@[simp] theorem condOff_strip (slot s) : (condOff slot s).strip = s.strip :=
  SameBut.strip_eq (@condOff_frame _ _ [.faults] s (fun _ h => h) SameBut.refl)
@[simp] theorem condOff_frm (slot s) : (condOff slot s).frm = s.frm :=
  SameBut.frm_eq (@condOff_frame _ _ [.faults] s (fun _ h => h) SameBut.refl)
@[simp] theorem condOff_boot (slot s) : (condOff slot s).boot = s.boot :=
  SameBut.boot_eq (@condOff_frame _ _ [.faults] s (fun _ h => h) SameBut.refl)
@[simp] theorem condOff_cal (slot s) : (condOff slot s).cal = s.cal :=
  SameBut.cal_eq (@condOff_frame _ _ [.faults] s (fun _ h => h) SameBut.refl)
@[simp] theorem condOff_therm (slot s) : (condOff slot s).therm = s.therm :=
  SameBut.therm_eq (@condOff_frame _ _ [.faults] s (fun _ h => h) SameBut.refl)
@[simp] theorem condOff_prot (slot s) : (condOff slot s).prot = s.prot :=
  SameBut.prot_eq (@condOff_frame _ _ [.faults] s (fun _ h => h) SameBut.refl)
@[simp] theorem condOff_outputs (slot s) : (condOff slot s).outputs = s.outputs :=
  SameBut.outputs_eq (@condOff_frame _ _ [.faults] s (fun _ h => h) SameBut.refl)
@[simp] theorem condOff_freeCtr (slot s) : (condOff slot s).freeCtr = s.freeCtr :=
  SameBut.freeCtr_eq (@condOff_frame _ _ [.faults] s (fun _ h => h) SameBut.refl)
@[simp] theorem condOff_nvm (slot s) : (condOff slot s).nvm = s.nvm :=
  SameBut.nvm_eq (@condOff_frame _ _ [.faults] s (fun _ h => h) SameBut.refl)
@[simp] theorem condOff_safety (slot s) : (condOff slot s).safety = s.safety :=
  SameBut.safety_eq (@condOff_frame _ _ [.faults] s (fun _ h => h) SameBut.refl)
@[simp] theorem condOff_cmp (slot s) : (condOff slot s).cmp = s.cmp :=
  SameBut.cmp_eq (@condOff_frame _ _ [.faults] s (fun _ h => h) SameBut.refl)
@[simp] theorem condOff_pending (slot s) : (condOff slot s).pending = s.pending :=
  SameBut.queue (@condOff_frame _ _ [.faults] s (fun _ h => h) SameBut.refl)
@[simp] theorem condOff_tileOf (slot s i) : tileOf (condOff slot s) i = tileOf s i :=
  SameBut.tileOf_eq (@condOff_frame _ _ [.faults] s (fun _ h => h) SameBut.refl) i
@[simp] theorem condOff_portOf (slot s i) : portOf (condOff slot s) i = portOf s i :=
  SameBut.portOf_eq (@condOff_frame _ _ [.faults] s (fun _ h => h) SameBut.refl) i
@[simp] theorem condOff_frondOf (slot s i) : frondOf (condOff slot s) i = frondOf s i :=
  SameBut.frondOf_eq (@condOff_frame _ _ [.faults] s (fun _ h => h) SameBut.refl) i
@[simp] theorem condOff_stripOf (slot s i) : stripOf (condOff slot s) i = stripOf s i :=
  SameBut.stripOf_eq (@condOff_frame _ _ [.faults] s (fun _ h => h) SameBut.refl) i
@[simp] theorem condOff_calOf (slot s i) : calOf (condOff slot s) i = calOf s i :=
  SameBut.calOf_eq (@condOff_frame _ _ [.faults] s (fun _ h => h) SameBut.refl) i
@[simp] theorem condOff_sensorOf (slot s i) : sensorOf (condOff slot s) i = sensorOf s i :=
  SameBut.sensorOf_eq (@condOff_frame _ _ [.faults] s (fun _ h => h) SameBut.refl) i
@[simp] theorem condOff_domainOf (slot s i) : domainOf (condOff slot s) i = domainOf s i :=
  SameBut.domainOf_eq (@condOff_frame _ _ [.faults] s (fun _ h => h) SameBut.refl) i
@[simp] theorem condOff_rxqOf (slot s i) : rxqOf (condOff slot s) i = rxqOf s i :=
  SameBut.rxqOf_eq (@condOff_frame _ _ [.faults] s (fun _ h => h) SameBut.refl) i
@[simp] theorem condOff_domOf (slot s i) : domOf (condOff slot s) i = domOf s i :=
  SameBut.domOf_eq (@condOff_frame _ _ [.faults] s (fun _ h => h) SameBut.refl) i
@[simp] theorem condOff_tevOf (slot s i) : tevOf (condOff slot s) i = tevOf s i :=
  SameBut.tevOf_eq (@condOff_frame _ _ [.faults] s (fun _ h => h) SameBut.refl) i
@[simp] theorem condOff_gcuOf (slot s i) : gcuOf (condOff slot s) i = gcuOf s i :=
  SameBut.gcuOf_eq (@condOff_frame _ _ [.faults] s (fun _ h => h) SameBut.refl) i
@[simp] theorem condOff_layerOf (slot s i) : layerOf (condOff slot s) i = layerOf s i :=
  SameBut.layerOf_eq (@condOff_frame _ _ [.faults] s (fun _ h => h) SameBut.refl) i
@[simp] theorem condOff_descOf (slot s i) : descOf (condOff slot s) i = descOf s i :=
  SameBut.descOf_eq (@condOff_frame _ _ [.faults] s (fun _ h => h) SameBut.refl) i
@[simp] theorem condOff_sqOf (slot s i) : sqOf (condOff slot s) i = sqOf s i :=
  SameBut.sqOf_eq (@condOff_frame _ _ [.faults] s (fun _ h => h) SameBut.refl) i
@[simp] theorem condOff_cqOf (slot s i) : cqOf (condOff slot s) i = cqOf s i :=
  SameBut.cqOf_eq (@condOff_frame _ _ [.faults] s (fun _ h => h) SameBut.refl) i
@[simp] theorem condOff_slotOf (slot s i) : slotOf (condOff slot s) i = slotOf s i :=
  SameBut.slotOf_eq (@condOff_frame _ _ [.faults] s (fun _ h => h) SameBut.refl) i
@[simp] theorem condOff_frameOf (slot s i) : frameOf (condOff slot s) i = frameOf s i :=
  SameBut.frameOf_eq (@condOff_frame _ _ [.faults] s (fun _ h => h) SameBut.refl) i
@[simp] theorem condOff_nvmBusy (slot s) : nvmBusy (condOff slot s) = nvmBusy s :=
  SameBut.nvmBusy_eq (@condOff_frame _ _ [.faults] s (fun _ h => h) SameBut.refl)
@[simp] theorem condOff_serving (slot s i) : serving (condOff slot s) i = serving s i :=
  SameBut.serving_eq (@condOff_frame _ _ [.faults] s (fun _ h => h) SameBut.refl) i
@[simp] theorem condOff_outTime (slot s) : outTime (condOff slot s) = outTime s :=
  SameBut.outTime_eq (@condOff_frame _ _ [.faults] s (fun _ h => h) SameBut.refl)
@[simp] theorem condOff_chanOf (slot s i) : chanOf (condOff slot s) i = chanOf s i :=
  SameBut.chanOf_eq (@condOff_frame _ _ [.faults] s (fun _ h => h) SameBut.refl) i

/-! `postEvent` changes only: rings. -/
@[simp] theorem postEvent_power (typ a0 a1 a2 s) : (postEvent typ a0 a1 a2 s).power = s.power :=
  SameBut.power_eq (@postEvent_frame _ _ _ _ _ [.rings] s (fun _ h => h) SameBut.refl)
@[simp] theorem postEvent_journal (typ a0 a1 a2 s) : (postEvent typ a0 a1 a2 s).journal = s.journal :=
  SameBut.journal_eq (@postEvent_frame _ _ _ _ _ [.rings] s (fun _ h => h) SameBut.refl)
@[simp] theorem postEvent_tiles (typ a0 a1 a2 s) : (postEvent typ a0 a1 a2 s).tiles = s.tiles :=
  SameBut.tiles_eq (@postEvent_frame _ _ _ _ _ [.rings] s (fun _ h => h) SameBut.refl)
@[simp] theorem postEvent_link (typ a0 a1 a2 s) : (postEvent typ a0 a1 a2 s).link = s.link :=
  SameBut.link_eq (@postEvent_frame _ _ _ _ _ [.rings] s (fun _ h => h) SameBut.refl)
@[simp] theorem postEvent_chain (typ a0 a1 a2 s) : (postEvent typ a0 a1 a2 s).chain = s.chain :=
  SameBut.chain_eq (@postEvent_frame _ _ _ _ _ [.rings] s (fun _ h => h) SameBut.refl)
@[simp] theorem postEvent_time (typ a0 a1 a2 s) : (postEvent typ a0 a1 a2 s).time = s.time :=
  SameBut.time_eq (@postEvent_frame _ _ _ _ _ [.rings] s (fun _ h => h) SameBut.refl)
@[simp] theorem postEvent_strip (typ a0 a1 a2 s) : (postEvent typ a0 a1 a2 s).strip = s.strip :=
  SameBut.strip_eq (@postEvent_frame _ _ _ _ _ [.rings] s (fun _ h => h) SameBut.refl)
@[simp] theorem postEvent_frm (typ a0 a1 a2 s) : (postEvent typ a0 a1 a2 s).frm = s.frm :=
  SameBut.frm_eq (@postEvent_frame _ _ _ _ _ [.rings] s (fun _ h => h) SameBut.refl)
@[simp] theorem postEvent_boot (typ a0 a1 a2 s) : (postEvent typ a0 a1 a2 s).boot = s.boot :=
  SameBut.boot_eq (@postEvent_frame _ _ _ _ _ [.rings] s (fun _ h => h) SameBut.refl)
@[simp] theorem postEvent_cal (typ a0 a1 a2 s) : (postEvent typ a0 a1 a2 s).cal = s.cal :=
  SameBut.cal_eq (@postEvent_frame _ _ _ _ _ [.rings] s (fun _ h => h) SameBut.refl)
@[simp] theorem postEvent_therm (typ a0 a1 a2 s) : (postEvent typ a0 a1 a2 s).therm = s.therm :=
  SameBut.therm_eq (@postEvent_frame _ _ _ _ _ [.rings] s (fun _ h => h) SameBut.refl)
@[simp] theorem postEvent_prot (typ a0 a1 a2 s) : (postEvent typ a0 a1 a2 s).prot = s.prot :=
  SameBut.prot_eq (@postEvent_frame _ _ _ _ _ [.rings] s (fun _ h => h) SameBut.refl)
@[simp] theorem postEvent_outputs (typ a0 a1 a2 s) : (postEvent typ a0 a1 a2 s).outputs = s.outputs :=
  SameBut.outputs_eq (@postEvent_frame _ _ _ _ _ [.rings] s (fun _ h => h) SameBut.refl)
@[simp] theorem postEvent_freeCtr (typ a0 a1 a2 s) : (postEvent typ a0 a1 a2 s).freeCtr = s.freeCtr :=
  SameBut.freeCtr_eq (@postEvent_frame _ _ _ _ _ [.rings] s (fun _ h => h) SameBut.refl)
@[simp] theorem postEvent_faults (typ a0 a1 a2 s) : (postEvent typ a0 a1 a2 s).faults = s.faults :=
  SameBut.faults_eq (@postEvent_frame _ _ _ _ _ [.rings] s (fun _ h => h) SameBut.refl)
@[simp] theorem postEvent_nvm (typ a0 a1 a2 s) : (postEvent typ a0 a1 a2 s).nvm = s.nvm :=
  SameBut.nvm_eq (@postEvent_frame _ _ _ _ _ [.rings] s (fun _ h => h) SameBut.refl)
@[simp] theorem postEvent_safety (typ a0 a1 a2 s) : (postEvent typ a0 a1 a2 s).safety = s.safety :=
  SameBut.safety_eq (@postEvent_frame _ _ _ _ _ [.rings] s (fun _ h => h) SameBut.refl)
@[simp] theorem postEvent_cmp (typ a0 a1 a2 s) : (postEvent typ a0 a1 a2 s).cmp = s.cmp :=
  SameBut.cmp_eq (@postEvent_frame _ _ _ _ _ [.rings] s (fun _ h => h) SameBut.refl)
@[simp] theorem postEvent_pending (typ a0 a1 a2 s) : (postEvent typ a0 a1 a2 s).pending = s.pending :=
  SameBut.queue (@postEvent_frame _ _ _ _ _ [.rings] s (fun _ h => h) SameBut.refl)
@[simp] theorem postEvent_tileOf (typ a0 a1 a2 s i) : tileOf (postEvent typ a0 a1 a2 s) i = tileOf s i :=
  SameBut.tileOf_eq (@postEvent_frame _ _ _ _ _ [.rings] s (fun _ h => h) SameBut.refl) i
@[simp] theorem postEvent_portOf (typ a0 a1 a2 s i) : portOf (postEvent typ a0 a1 a2 s) i = portOf s i :=
  SameBut.portOf_eq (@postEvent_frame _ _ _ _ _ [.rings] s (fun _ h => h) SameBut.refl) i
@[simp] theorem postEvent_frondOf (typ a0 a1 a2 s i) : frondOf (postEvent typ a0 a1 a2 s) i = frondOf s i :=
  SameBut.frondOf_eq (@postEvent_frame _ _ _ _ _ [.rings] s (fun _ h => h) SameBut.refl) i
@[simp] theorem postEvent_stripOf (typ a0 a1 a2 s i) : stripOf (postEvent typ a0 a1 a2 s) i = stripOf s i :=
  SameBut.stripOf_eq (@postEvent_frame _ _ _ _ _ [.rings] s (fun _ h => h) SameBut.refl) i
@[simp] theorem postEvent_calOf (typ a0 a1 a2 s i) : calOf (postEvent typ a0 a1 a2 s) i = calOf s i :=
  SameBut.calOf_eq (@postEvent_frame _ _ _ _ _ [.rings] s (fun _ h => h) SameBut.refl) i
@[simp] theorem postEvent_sensorOf (typ a0 a1 a2 s i) : sensorOf (postEvent typ a0 a1 a2 s) i = sensorOf s i :=
  SameBut.sensorOf_eq (@postEvent_frame _ _ _ _ _ [.rings] s (fun _ h => h) SameBut.refl) i
@[simp] theorem postEvent_domainOf (typ a0 a1 a2 s i) : domainOf (postEvent typ a0 a1 a2 s) i = domainOf s i :=
  SameBut.domainOf_eq (@postEvent_frame _ _ _ _ _ [.rings] s (fun _ h => h) SameBut.refl) i
@[simp] theorem postEvent_rxqOf (typ a0 a1 a2 s i) : rxqOf (postEvent typ a0 a1 a2 s) i = rxqOf s i :=
  SameBut.rxqOf_eq (@postEvent_frame _ _ _ _ _ [.rings] s (fun _ h => h) SameBut.refl) i
@[simp] theorem postEvent_domOf (typ a0 a1 a2 s i) : domOf (postEvent typ a0 a1 a2 s) i = domOf s i :=
  SameBut.domOf_eq (@postEvent_frame _ _ _ _ _ [.rings] s (fun _ h => h) SameBut.refl) i
@[simp] theorem postEvent_tevOf (typ a0 a1 a2 s i) : tevOf (postEvent typ a0 a1 a2 s) i = tevOf s i :=
  SameBut.tevOf_eq (@postEvent_frame _ _ _ _ _ [.rings] s (fun _ h => h) SameBut.refl) i
@[simp] theorem postEvent_gcuOf (typ a0 a1 a2 s i) : gcuOf (postEvent typ a0 a1 a2 s) i = gcuOf s i :=
  SameBut.gcuOf_eq (@postEvent_frame _ _ _ _ _ [.rings] s (fun _ h => h) SameBut.refl) i
@[simp] theorem postEvent_layerOf (typ a0 a1 a2 s i) : layerOf (postEvent typ a0 a1 a2 s) i = layerOf s i :=
  SameBut.layerOf_eq (@postEvent_frame _ _ _ _ _ [.rings] s (fun _ h => h) SameBut.refl) i
@[simp] theorem postEvent_slotOf (typ a0 a1 a2 s i) : slotOf (postEvent typ a0 a1 a2 s) i = slotOf s i :=
  SameBut.slotOf_eq (@postEvent_frame _ _ _ _ _ [.rings] s (fun _ h => h) SameBut.refl) i
@[simp] theorem postEvent_frameOf (typ a0 a1 a2 s i) : frameOf (postEvent typ a0 a1 a2 s) i = frameOf s i :=
  SameBut.frameOf_eq (@postEvent_frame _ _ _ _ _ [.rings] s (fun _ h => h) SameBut.refl) i
@[simp] theorem postEvent_nvmBusy (typ a0 a1 a2 s) : nvmBusy (postEvent typ a0 a1 a2 s) = nvmBusy s :=
  SameBut.nvmBusy_eq (@postEvent_frame _ _ _ _ _ [.rings] s (fun _ h => h) SameBut.refl)
@[simp] theorem postEvent_serving (typ a0 a1 a2 s i) : serving (postEvent typ a0 a1 a2 s) i = serving s i :=
  SameBut.serving_eq (@postEvent_frame _ _ _ _ _ [.rings] s (fun _ h => h) SameBut.refl) i
@[simp] theorem postEvent_outTime (typ a0 a1 a2 s) : outTime (postEvent typ a0 a1 a2 s) = outTime s :=
  SameBut.outTime_eq (@postEvent_frame _ _ _ _ _ [.rings] s (fun _ h => h) SameBut.refl)
@[simp] theorem postEvent_chanOf (typ a0 a1 a2 s i) : chanOf (postEvent typ a0 a1 a2 s) i = chanOf s i :=
  SameBut.chanOf_eq (@postEvent_frame _ _ _ _ _ [.rings] s (fun _ h => h) SameBut.refl) i

/-! `updDesc` changes only: rings. -/
@[simp] theorem updDesc_power (id f s) : (updDesc id f s).power = s.power := rfl
@[simp] theorem updDesc_journal (id f s) : (updDesc id f s).journal = s.journal := rfl
@[simp] theorem updDesc_tiles (id f s) : (updDesc id f s).tiles = s.tiles := rfl
@[simp] theorem updDesc_link (id f s) : (updDesc id f s).link = s.link := rfl
@[simp] theorem updDesc_chain (id f s) : (updDesc id f s).chain = s.chain := rfl
@[simp] theorem updDesc_time (id f s) : (updDesc id f s).time = s.time := rfl
@[simp] theorem updDesc_strip (id f s) : (updDesc id f s).strip = s.strip := rfl
@[simp] theorem updDesc_frm (id f s) : (updDesc id f s).frm = s.frm := rfl
@[simp] theorem updDesc_boot (id f s) : (updDesc id f s).boot = s.boot := rfl
@[simp] theorem updDesc_cal (id f s) : (updDesc id f s).cal = s.cal := rfl
@[simp] theorem updDesc_therm (id f s) : (updDesc id f s).therm = s.therm := rfl
@[simp] theorem updDesc_prot (id f s) : (updDesc id f s).prot = s.prot := rfl
@[simp] theorem updDesc_outputs (id f s) : (updDesc id f s).outputs = s.outputs := rfl
@[simp] theorem updDesc_freeCtr (id f s) : (updDesc id f s).freeCtr = s.freeCtr := rfl
@[simp] theorem updDesc_faults (id f s) : (updDesc id f s).faults = s.faults := rfl
@[simp] theorem updDesc_nvm (id f s) : (updDesc id f s).nvm = s.nvm := rfl
@[simp] theorem updDesc_safety (id f s) : (updDesc id f s).safety = s.safety := rfl
@[simp] theorem updDesc_cmp (id f s) : (updDesc id f s).cmp = s.cmp := rfl
@[simp] theorem updDesc_pending (id f s) : (updDesc id f s).pending = s.pending := rfl

/-! `complete` changes only: rings. -/
@[simp] theorem complete_power (id status result s) : (complete id status result s).power = s.power :=
  SameBut.power_eq (@complete_frame _ _ _ _ [.rings] s (fun _ h => h) SameBut.refl)
@[simp] theorem complete_journal (id status result s) : (complete id status result s).journal = s.journal :=
  SameBut.journal_eq (@complete_frame _ _ _ _ [.rings] s (fun _ h => h) SameBut.refl)
@[simp] theorem complete_tiles (id status result s) : (complete id status result s).tiles = s.tiles :=
  SameBut.tiles_eq (@complete_frame _ _ _ _ [.rings] s (fun _ h => h) SameBut.refl)
@[simp] theorem complete_link (id status result s) : (complete id status result s).link = s.link :=
  SameBut.link_eq (@complete_frame _ _ _ _ [.rings] s (fun _ h => h) SameBut.refl)
@[simp] theorem complete_chain (id status result s) : (complete id status result s).chain = s.chain :=
  SameBut.chain_eq (@complete_frame _ _ _ _ [.rings] s (fun _ h => h) SameBut.refl)
@[simp] theorem complete_time (id status result s) : (complete id status result s).time = s.time :=
  SameBut.time_eq (@complete_frame _ _ _ _ [.rings] s (fun _ h => h) SameBut.refl)
@[simp] theorem complete_strip (id status result s) : (complete id status result s).strip = s.strip :=
  SameBut.strip_eq (@complete_frame _ _ _ _ [.rings] s (fun _ h => h) SameBut.refl)
@[simp] theorem complete_frm (id status result s) : (complete id status result s).frm = s.frm :=
  SameBut.frm_eq (@complete_frame _ _ _ _ [.rings] s (fun _ h => h) SameBut.refl)
@[simp] theorem complete_boot (id status result s) : (complete id status result s).boot = s.boot :=
  SameBut.boot_eq (@complete_frame _ _ _ _ [.rings] s (fun _ h => h) SameBut.refl)
@[simp] theorem complete_cal (id status result s) : (complete id status result s).cal = s.cal :=
  SameBut.cal_eq (@complete_frame _ _ _ _ [.rings] s (fun _ h => h) SameBut.refl)
@[simp] theorem complete_therm (id status result s) : (complete id status result s).therm = s.therm :=
  SameBut.therm_eq (@complete_frame _ _ _ _ [.rings] s (fun _ h => h) SameBut.refl)
@[simp] theorem complete_prot (id status result s) : (complete id status result s).prot = s.prot :=
  SameBut.prot_eq (@complete_frame _ _ _ _ [.rings] s (fun _ h => h) SameBut.refl)
@[simp] theorem complete_outputs (id status result s) : (complete id status result s).outputs = s.outputs :=
  SameBut.outputs_eq (@complete_frame _ _ _ _ [.rings] s (fun _ h => h) SameBut.refl)
@[simp] theorem complete_freeCtr (id status result s) : (complete id status result s).freeCtr = s.freeCtr :=
  SameBut.freeCtr_eq (@complete_frame _ _ _ _ [.rings] s (fun _ h => h) SameBut.refl)
@[simp] theorem complete_faults (id status result s) : (complete id status result s).faults = s.faults :=
  SameBut.faults_eq (@complete_frame _ _ _ _ [.rings] s (fun _ h => h) SameBut.refl)
@[simp] theorem complete_nvm (id status result s) : (complete id status result s).nvm = s.nvm :=
  SameBut.nvm_eq (@complete_frame _ _ _ _ [.rings] s (fun _ h => h) SameBut.refl)
@[simp] theorem complete_safety (id status result s) : (complete id status result s).safety = s.safety :=
  SameBut.safety_eq (@complete_frame _ _ _ _ [.rings] s (fun _ h => h) SameBut.refl)
@[simp] theorem complete_cmp (id status result s) : (complete id status result s).cmp = s.cmp :=
  SameBut.cmp_eq (@complete_frame _ _ _ _ [.rings] s (fun _ h => h) SameBut.refl)
@[simp] theorem complete_pending (id status result s) : (complete id status result s).pending = s.pending :=
  SameBut.queue (@complete_frame _ _ _ _ [.rings] s (fun _ h => h) SameBut.refl)
@[simp] theorem complete_tileOf (id status result s i) : tileOf (complete id status result s) i = tileOf s i :=
  SameBut.tileOf_eq (@complete_frame _ _ _ _ [.rings] s (fun _ h => h) SameBut.refl) i
@[simp] theorem complete_portOf (id status result s i) : portOf (complete id status result s) i = portOf s i :=
  SameBut.portOf_eq (@complete_frame _ _ _ _ [.rings] s (fun _ h => h) SameBut.refl) i
@[simp] theorem complete_frondOf (id status result s i) : frondOf (complete id status result s) i = frondOf s i :=
  SameBut.frondOf_eq (@complete_frame _ _ _ _ [.rings] s (fun _ h => h) SameBut.refl) i
@[simp] theorem complete_stripOf (id status result s i) : stripOf (complete id status result s) i = stripOf s i :=
  SameBut.stripOf_eq (@complete_frame _ _ _ _ [.rings] s (fun _ h => h) SameBut.refl) i
@[simp] theorem complete_calOf (id status result s i) : calOf (complete id status result s) i = calOf s i :=
  SameBut.calOf_eq (@complete_frame _ _ _ _ [.rings] s (fun _ h => h) SameBut.refl) i
@[simp] theorem complete_sensorOf (id status result s i) : sensorOf (complete id status result s) i = sensorOf s i :=
  SameBut.sensorOf_eq (@complete_frame _ _ _ _ [.rings] s (fun _ h => h) SameBut.refl) i
@[simp] theorem complete_domainOf (id status result s i) : domainOf (complete id status result s) i = domainOf s i :=
  SameBut.domainOf_eq (@complete_frame _ _ _ _ [.rings] s (fun _ h => h) SameBut.refl) i
@[simp] theorem complete_rxqOf (id status result s i) : rxqOf (complete id status result s) i = rxqOf s i :=
  SameBut.rxqOf_eq (@complete_frame _ _ _ _ [.rings] s (fun _ h => h) SameBut.refl) i
@[simp] theorem complete_domOf (id status result s i) : domOf (complete id status result s) i = domOf s i :=
  SameBut.domOf_eq (@complete_frame _ _ _ _ [.rings] s (fun _ h => h) SameBut.refl) i
@[simp] theorem complete_tevOf (id status result s i) : tevOf (complete id status result s) i = tevOf s i :=
  SameBut.tevOf_eq (@complete_frame _ _ _ _ [.rings] s (fun _ h => h) SameBut.refl) i
@[simp] theorem complete_gcuOf (id status result s i) : gcuOf (complete id status result s) i = gcuOf s i :=
  SameBut.gcuOf_eq (@complete_frame _ _ _ _ [.rings] s (fun _ h => h) SameBut.refl) i
@[simp] theorem complete_layerOf (id status result s i) : layerOf (complete id status result s) i = layerOf s i :=
  SameBut.layerOf_eq (@complete_frame _ _ _ _ [.rings] s (fun _ h => h) SameBut.refl) i
@[simp] theorem complete_slotOf (id status result s i) : slotOf (complete id status result s) i = slotOf s i :=
  SameBut.slotOf_eq (@complete_frame _ _ _ _ [.rings] s (fun _ h => h) SameBut.refl) i
@[simp] theorem complete_frameOf (id status result s i) : frameOf (complete id status result s) i = frameOf s i :=
  SameBut.frameOf_eq (@complete_frame _ _ _ _ [.rings] s (fun _ h => h) SameBut.refl) i
@[simp] theorem complete_nvmBusy (id status result s) : nvmBusy (complete id status result s) = nvmBusy s :=
  SameBut.nvmBusy_eq (@complete_frame _ _ _ _ [.rings] s (fun _ h => h) SameBut.refl)
@[simp] theorem complete_serving (id status result s i) : serving (complete id status result s) i = serving s i :=
  SameBut.serving_eq (@complete_frame _ _ _ _ [.rings] s (fun _ h => h) SameBut.refl) i
@[simp] theorem complete_outTime (id status result s) : outTime (complete id status result s) = outTime s :=
  SameBut.outTime_eq (@complete_frame _ _ _ _ [.rings] s (fun _ h => h) SameBut.refl)
@[simp] theorem complete_chanOf (id status result s i) : chanOf (complete id status result s) i = chanOf s i :=
  SameBut.chanOf_eq (@complete_frame _ _ _ _ [.rings] s (fun _ h => h) SameBut.refl) i

/-! `putSlot` changes only: slots. -/
@[simp] theorem putSlot_power (s n x) : (putSlot s n x).power = s.power := rfl
@[simp] theorem putSlot_journal (s n x) : (putSlot s n x).journal = s.journal := rfl
@[simp] theorem putSlot_tiles (s n x) : (putSlot s n x).tiles = s.tiles := rfl
@[simp] theorem putSlot_link (s n x) : (putSlot s n x).link = s.link := rfl
@[simp] theorem putSlot_rings (s n x) : (putSlot s n x).rings = s.rings := rfl
@[simp] theorem putSlot_chain (s n x) : (putSlot s n x).chain = s.chain := rfl
@[simp] theorem putSlot_time (s n x) : (putSlot s n x).time = s.time := rfl
@[simp] theorem putSlot_strip (s n x) : (putSlot s n x).strip = s.strip := rfl
@[simp] theorem putSlot_frm (s n x) : (putSlot s n x).frm = s.frm := rfl
@[simp] theorem putSlot_boot (s n x) : (putSlot s n x).boot = s.boot := rfl
@[simp] theorem putSlot_cal (s n x) : (putSlot s n x).cal = s.cal := rfl
@[simp] theorem putSlot_therm (s n x) : (putSlot s n x).therm = s.therm := rfl
@[simp] theorem putSlot_prot (s n x) : (putSlot s n x).prot = s.prot := rfl
@[simp] theorem putSlot_outputs (s n x) : (putSlot s n x).outputs = s.outputs := rfl
@[simp] theorem putSlot_freeCtr (s n x) : (putSlot s n x).freeCtr = s.freeCtr := rfl
@[simp] theorem putSlot_nvm (s n x) : (putSlot s n x).nvm = s.nvm := rfl
@[simp] theorem putSlot_safety (s n x) : (putSlot s n x).safety = s.safety := rfl
@[simp] theorem putSlot_cmp (s n x) : (putSlot s n x).cmp = s.cmp := rfl
@[simp] theorem putSlot_pending (s n x) : (putSlot s n x).pending = s.pending := rfl

/-! `queueRead` changes only: link. -/
@[simp] theorem queueRead_power (who ranges s) : (queueRead who ranges s).power = s.power :=
  SameBut.power_eq (@queueRead_frame _ _ _ [.link] s (fun _ h => h) SameBut.refl)
@[simp] theorem queueRead_journal (who ranges s) : (queueRead who ranges s).journal = s.journal :=
  SameBut.journal_eq (@queueRead_frame _ _ _ [.link] s (fun _ h => h) SameBut.refl)
@[simp] theorem queueRead_tiles (who ranges s) : (queueRead who ranges s).tiles = s.tiles :=
  SameBut.tiles_eq (@queueRead_frame _ _ _ [.link] s (fun _ h => h) SameBut.refl)
@[simp] theorem queueRead_rings (who ranges s) : (queueRead who ranges s).rings = s.rings :=
  SameBut.rings_eq (@queueRead_frame _ _ _ [.link] s (fun _ h => h) SameBut.refl)
@[simp] theorem queueRead_chain (who ranges s) : (queueRead who ranges s).chain = s.chain :=
  SameBut.chain_eq (@queueRead_frame _ _ _ [.link] s (fun _ h => h) SameBut.refl)
@[simp] theorem queueRead_time (who ranges s) : (queueRead who ranges s).time = s.time :=
  SameBut.time_eq (@queueRead_frame _ _ _ [.link] s (fun _ h => h) SameBut.refl)
@[simp] theorem queueRead_strip (who ranges s) : (queueRead who ranges s).strip = s.strip :=
  SameBut.strip_eq (@queueRead_frame _ _ _ [.link] s (fun _ h => h) SameBut.refl)
@[simp] theorem queueRead_frm (who ranges s) : (queueRead who ranges s).frm = s.frm :=
  SameBut.frm_eq (@queueRead_frame _ _ _ [.link] s (fun _ h => h) SameBut.refl)
@[simp] theorem queueRead_boot (who ranges s) : (queueRead who ranges s).boot = s.boot :=
  SameBut.boot_eq (@queueRead_frame _ _ _ [.link] s (fun _ h => h) SameBut.refl)
@[simp] theorem queueRead_cal (who ranges s) : (queueRead who ranges s).cal = s.cal :=
  SameBut.cal_eq (@queueRead_frame _ _ _ [.link] s (fun _ h => h) SameBut.refl)
@[simp] theorem queueRead_therm (who ranges s) : (queueRead who ranges s).therm = s.therm :=
  SameBut.therm_eq (@queueRead_frame _ _ _ [.link] s (fun _ h => h) SameBut.refl)
@[simp] theorem queueRead_prot (who ranges s) : (queueRead who ranges s).prot = s.prot :=
  SameBut.prot_eq (@queueRead_frame _ _ _ [.link] s (fun _ h => h) SameBut.refl)
@[simp] theorem queueRead_outputs (who ranges s) : (queueRead who ranges s).outputs = s.outputs :=
  SameBut.outputs_eq (@queueRead_frame _ _ _ [.link] s (fun _ h => h) SameBut.refl)
@[simp] theorem queueRead_freeCtr (who ranges s) : (queueRead who ranges s).freeCtr = s.freeCtr :=
  SameBut.freeCtr_eq (@queueRead_frame _ _ _ [.link] s (fun _ h => h) SameBut.refl)
@[simp] theorem queueRead_faults (who ranges s) : (queueRead who ranges s).faults = s.faults :=
  SameBut.faults_eq (@queueRead_frame _ _ _ [.link] s (fun _ h => h) SameBut.refl)
@[simp] theorem queueRead_nvm (who ranges s) : (queueRead who ranges s).nvm = s.nvm :=
  SameBut.nvm_eq (@queueRead_frame _ _ _ [.link] s (fun _ h => h) SameBut.refl)
@[simp] theorem queueRead_safety (who ranges s) : (queueRead who ranges s).safety = s.safety :=
  SameBut.safety_eq (@queueRead_frame _ _ _ [.link] s (fun _ h => h) SameBut.refl)
@[simp] theorem queueRead_cmp (who ranges s) : (queueRead who ranges s).cmp = s.cmp :=
  SameBut.cmp_eq (@queueRead_frame _ _ _ [.link] s (fun _ h => h) SameBut.refl)
@[simp] theorem queueRead_pending (who ranges s) : (queueRead who ranges s).pending = s.pending :=
  SameBut.queue (@queueRead_frame _ _ _ [.link] s (fun _ h => h) SameBut.refl)

/-! `hostWrite` changes only: outputs. -/
@[simp] theorem hostWrite_power (addr b_ s) : (hostWrite addr b_ s).power = s.power := rfl
@[simp] theorem hostWrite_journal (addr b_ s) : (hostWrite addr b_ s).journal = s.journal := rfl
@[simp] theorem hostWrite_tiles (addr b_ s) : (hostWrite addr b_ s).tiles = s.tiles := rfl
@[simp] theorem hostWrite_link (addr b_ s) : (hostWrite addr b_ s).link = s.link := rfl
@[simp] theorem hostWrite_rings (addr b_ s) : (hostWrite addr b_ s).rings = s.rings := rfl
@[simp] theorem hostWrite_chain (addr b_ s) : (hostWrite addr b_ s).chain = s.chain := rfl
@[simp] theorem hostWrite_time (addr b_ s) : (hostWrite addr b_ s).time = s.time := rfl
@[simp] theorem hostWrite_strip (addr b_ s) : (hostWrite addr b_ s).strip = s.strip := rfl
@[simp] theorem hostWrite_frm (addr b_ s) : (hostWrite addr b_ s).frm = s.frm := rfl
@[simp] theorem hostWrite_boot (addr b_ s) : (hostWrite addr b_ s).boot = s.boot := rfl
@[simp] theorem hostWrite_cal (addr b_ s) : (hostWrite addr b_ s).cal = s.cal := rfl
@[simp] theorem hostWrite_therm (addr b_ s) : (hostWrite addr b_ s).therm = s.therm := rfl
@[simp] theorem hostWrite_prot (addr b_ s) : (hostWrite addr b_ s).prot = s.prot := rfl
@[simp] theorem hostWrite_freeCtr (addr b_ s) : (hostWrite addr b_ s).freeCtr = s.freeCtr := rfl
@[simp] theorem hostWrite_faults (addr b_ s) : (hostWrite addr b_ s).faults = s.faults := rfl
@[simp] theorem hostWrite_nvm (addr b_ s) : (hostWrite addr b_ s).nvm = s.nvm := rfl
@[simp] theorem hostWrite_safety (addr b_ s) : (hostWrite addr b_ s).safety = s.safety := rfl
@[simp] theorem hostWrite_cmp (addr b_ s) : (hostWrite addr b_ s).cmp = s.cmp := rfl
@[simp] theorem hostWrite_pending (addr b_ s) : (hostWrite addr b_ s).pending = s.pending := rfl

/-! `laneSend` changes only: outputs. -/
@[simp] theorem laneSend_power (p bs s) : (laneSend p bs s).power = s.power := rfl
@[simp] theorem laneSend_journal (p bs s) : (laneSend p bs s).journal = s.journal := rfl
@[simp] theorem laneSend_tiles (p bs s) : (laneSend p bs s).tiles = s.tiles := rfl
@[simp] theorem laneSend_link (p bs s) : (laneSend p bs s).link = s.link := rfl
@[simp] theorem laneSend_rings (p bs s) : (laneSend p bs s).rings = s.rings := rfl
@[simp] theorem laneSend_chain (p bs s) : (laneSend p bs s).chain = s.chain := rfl
@[simp] theorem laneSend_time (p bs s) : (laneSend p bs s).time = s.time := rfl
@[simp] theorem laneSend_strip (p bs s) : (laneSend p bs s).strip = s.strip := rfl
@[simp] theorem laneSend_frm (p bs s) : (laneSend p bs s).frm = s.frm := rfl
@[simp] theorem laneSend_boot (p bs s) : (laneSend p bs s).boot = s.boot := rfl
@[simp] theorem laneSend_cal (p bs s) : (laneSend p bs s).cal = s.cal := rfl
@[simp] theorem laneSend_therm (p bs s) : (laneSend p bs s).therm = s.therm := rfl
@[simp] theorem laneSend_prot (p bs s) : (laneSend p bs s).prot = s.prot := rfl
@[simp] theorem laneSend_freeCtr (p bs s) : (laneSend p bs s).freeCtr = s.freeCtr := rfl
@[simp] theorem laneSend_faults (p bs s) : (laneSend p bs s).faults = s.faults := rfl
@[simp] theorem laneSend_nvm (p bs s) : (laneSend p bs s).nvm = s.nvm := rfl
@[simp] theorem laneSend_safety (p bs s) : (laneSend p bs s).safety = s.safety := rfl
@[simp] theorem laneSend_cmp (p bs s) : (laneSend p bs s).cmp = s.cmp := rfl
@[simp] theorem laneSend_pending (p bs s) : (laneSend p bs s).pending = s.pending := rfl

/-! `markRef` changes only: power. -/
@[simp] theorem markRef_journal (i b_ s) : (markRef i b_ s).journal = s.journal := rfl
@[simp] theorem markRef_tiles (i b_ s) : (markRef i b_ s).tiles = s.tiles := rfl
@[simp] theorem markRef_link (i b_ s) : (markRef i b_ s).link = s.link := rfl
@[simp] theorem markRef_rings (i b_ s) : (markRef i b_ s).rings = s.rings := rfl
@[simp] theorem markRef_chain (i b_ s) : (markRef i b_ s).chain = s.chain := rfl
@[simp] theorem markRef_time (i b_ s) : (markRef i b_ s).time = s.time := rfl
@[simp] theorem markRef_strip (i b_ s) : (markRef i b_ s).strip = s.strip := rfl
@[simp] theorem markRef_frm (i b_ s) : (markRef i b_ s).frm = s.frm := rfl
@[simp] theorem markRef_boot (i b_ s) : (markRef i b_ s).boot = s.boot := rfl
@[simp] theorem markRef_cal (i b_ s) : (markRef i b_ s).cal = s.cal := rfl
@[simp] theorem markRef_therm (i b_ s) : (markRef i b_ s).therm = s.therm := rfl
@[simp] theorem markRef_prot (i b_ s) : (markRef i b_ s).prot = s.prot := rfl
@[simp] theorem markRef_outputs (i b_ s) : (markRef i b_ s).outputs = s.outputs := rfl
@[simp] theorem markRef_freeCtr (i b_ s) : (markRef i b_ s).freeCtr = s.freeCtr := rfl
@[simp] theorem markRef_faults (i b_ s) : (markRef i b_ s).faults = s.faults := rfl
@[simp] theorem markRef_nvm (i b_ s) : (markRef i b_ s).nvm = s.nvm := rfl
@[simp] theorem markRef_safety (i b_ s) : (markRef i b_ s).safety = s.safety := rfl
@[simp] theorem markRef_cmp (i b_ s) : (markRef i b_ s).cmp = s.cmp := rfl
@[simp] theorem markRef_pending (i b_ s) : (markRef i b_ s).pending = s.pending := rfl

/-! `onShadow` changes only: prot. -/
@[simp] theorem onShadow_power (f s) : (onShadow f s).power = s.power := rfl
@[simp] theorem onShadow_journal (f s) : (onShadow f s).journal = s.journal := rfl
@[simp] theorem onShadow_tiles (f s) : (onShadow f s).tiles = s.tiles := rfl
@[simp] theorem onShadow_link (f s) : (onShadow f s).link = s.link := rfl
@[simp] theorem onShadow_rings (f s) : (onShadow f s).rings = s.rings := rfl
@[simp] theorem onShadow_chain (f s) : (onShadow f s).chain = s.chain := rfl
@[simp] theorem onShadow_time (f s) : (onShadow f s).time = s.time := rfl
@[simp] theorem onShadow_strip (f s) : (onShadow f s).strip = s.strip := rfl
@[simp] theorem onShadow_frm (f s) : (onShadow f s).frm = s.frm := rfl
@[simp] theorem onShadow_boot (f s) : (onShadow f s).boot = s.boot := rfl
@[simp] theorem onShadow_cal (f s) : (onShadow f s).cal = s.cal := rfl
@[simp] theorem onShadow_therm (f s) : (onShadow f s).therm = s.therm := rfl
@[simp] theorem onShadow_outputs (f s) : (onShadow f s).outputs = s.outputs := rfl
@[simp] theorem onShadow_freeCtr (f s) : (onShadow f s).freeCtr = s.freeCtr := rfl
@[simp] theorem onShadow_faults (f s) : (onShadow f s).faults = s.faults := rfl
@[simp] theorem onShadow_nvm (f s) : (onShadow f s).nvm = s.nvm := rfl
@[simp] theorem onShadow_safety (f s) : (onShadow f s).safety = s.safety := rfl
@[simp] theorem onShadow_cmp (f s) : (onShadow f s).cmp = s.cmp := rfl
@[simp] theorem onShadow_pending (f s) : (onShadow f s).pending = s.pending := rfl

/-! `release_` changes only: power. -/
@[simp] theorem release__journal (svcEnN s) : (release_ svcEnN s).journal = s.journal :=
  SameBut.journal_eq (@release__frame _ _ [.power] s (fun _ h => h) SameBut.refl)
@[simp] theorem release__tiles (svcEnN s) : (release_ svcEnN s).tiles = s.tiles :=
  SameBut.tiles_eq (@release__frame _ _ [.power] s (fun _ h => h) SameBut.refl)
@[simp] theorem release__link (svcEnN s) : (release_ svcEnN s).link = s.link :=
  SameBut.link_eq (@release__frame _ _ [.power] s (fun _ h => h) SameBut.refl)
@[simp] theorem release__rings (svcEnN s) : (release_ svcEnN s).rings = s.rings :=
  SameBut.rings_eq (@release__frame _ _ [.power] s (fun _ h => h) SameBut.refl)
@[simp] theorem release__chain (svcEnN s) : (release_ svcEnN s).chain = s.chain :=
  SameBut.chain_eq (@release__frame _ _ [.power] s (fun _ h => h) SameBut.refl)
@[simp] theorem release__time (svcEnN s) : (release_ svcEnN s).time = s.time :=
  SameBut.time_eq (@release__frame _ _ [.power] s (fun _ h => h) SameBut.refl)
@[simp] theorem release__strip (svcEnN s) : (release_ svcEnN s).strip = s.strip :=
  SameBut.strip_eq (@release__frame _ _ [.power] s (fun _ h => h) SameBut.refl)
@[simp] theorem release__frm (svcEnN s) : (release_ svcEnN s).frm = s.frm :=
  SameBut.frm_eq (@release__frame _ _ [.power] s (fun _ h => h) SameBut.refl)
@[simp] theorem release__boot (svcEnN s) : (release_ svcEnN s).boot = s.boot :=
  SameBut.boot_eq (@release__frame _ _ [.power] s (fun _ h => h) SameBut.refl)
@[simp] theorem release__cal (svcEnN s) : (release_ svcEnN s).cal = s.cal :=
  SameBut.cal_eq (@release__frame _ _ [.power] s (fun _ h => h) SameBut.refl)
@[simp] theorem release__therm (svcEnN s) : (release_ svcEnN s).therm = s.therm :=
  SameBut.therm_eq (@release__frame _ _ [.power] s (fun _ h => h) SameBut.refl)
@[simp] theorem release__prot (svcEnN s) : (release_ svcEnN s).prot = s.prot :=
  SameBut.prot_eq (@release__frame _ _ [.power] s (fun _ h => h) SameBut.refl)
@[simp] theorem release__outputs (svcEnN s) : (release_ svcEnN s).outputs = s.outputs :=
  SameBut.outputs_eq (@release__frame _ _ [.power] s (fun _ h => h) SameBut.refl)
@[simp] theorem release__freeCtr (svcEnN s) : (release_ svcEnN s).freeCtr = s.freeCtr :=
  SameBut.freeCtr_eq (@release__frame _ _ [.power] s (fun _ h => h) SameBut.refl)
@[simp] theorem release__faults (svcEnN s) : (release_ svcEnN s).faults = s.faults :=
  SameBut.faults_eq (@release__frame _ _ [.power] s (fun _ h => h) SameBut.refl)
@[simp] theorem release__nvm (svcEnN s) : (release_ svcEnN s).nvm = s.nvm :=
  SameBut.nvm_eq (@release__frame _ _ [.power] s (fun _ h => h) SameBut.refl)
@[simp] theorem release__safety (svcEnN s) : (release_ svcEnN s).safety = s.safety :=
  SameBut.safety_eq (@release__frame _ _ [.power] s (fun _ h => h) SameBut.refl)
@[simp] theorem release__cmp (svcEnN s) : (release_ svcEnN s).cmp = s.cmp :=
  SameBut.cmp_eq (@release__frame _ _ [.power] s (fun _ h => h) SameBut.refl)
@[simp] theorem release__pending (svcEnN s) : (release_ svcEnN s).pending = s.pending :=
  SameBut.queue (@release__frame _ _ [.power] s (fun _ h => h) SameBut.refl)

/-! `dropFetches` changes only: link. -/
@[simp] theorem dropFetches_power (n s) : (dropFetches n s).power = s.power := rfl
@[simp] theorem dropFetches_journal (n s) : (dropFetches n s).journal = s.journal := rfl
@[simp] theorem dropFetches_tiles (n s) : (dropFetches n s).tiles = s.tiles := rfl
@[simp] theorem dropFetches_rings (n s) : (dropFetches n s).rings = s.rings := rfl
@[simp] theorem dropFetches_chain (n s) : (dropFetches n s).chain = s.chain := rfl
@[simp] theorem dropFetches_time (n s) : (dropFetches n s).time = s.time := rfl
@[simp] theorem dropFetches_strip (n s) : (dropFetches n s).strip = s.strip := rfl
@[simp] theorem dropFetches_frm (n s) : (dropFetches n s).frm = s.frm := rfl
@[simp] theorem dropFetches_boot (n s) : (dropFetches n s).boot = s.boot := rfl
@[simp] theorem dropFetches_cal (n s) : (dropFetches n s).cal = s.cal := rfl
@[simp] theorem dropFetches_therm (n s) : (dropFetches n s).therm = s.therm := rfl
@[simp] theorem dropFetches_prot (n s) : (dropFetches n s).prot = s.prot := rfl
@[simp] theorem dropFetches_outputs (n s) : (dropFetches n s).outputs = s.outputs := rfl
@[simp] theorem dropFetches_freeCtr (n s) : (dropFetches n s).freeCtr = s.freeCtr := rfl
@[simp] theorem dropFetches_faults (n s) : (dropFetches n s).faults = s.faults := rfl
@[simp] theorem dropFetches_nvm (n s) : (dropFetches n s).nvm = s.nvm := rfl
@[simp] theorem dropFetches_safety (n s) : (dropFetches n s).safety = s.safety := rfl
@[simp] theorem dropFetches_cmp (n s) : (dropFetches n s).cmp = s.cmp := rfl
@[simp] theorem dropFetches_pending (n s) : (dropFetches n s).pending = s.pending := rfl

/-! `queueFetch` changes only: link. -/
@[simp] theorem queueFetch_power (turn n first count base s) : (queueFetch turn n first count base s).power = s.power := rfl
@[simp] theorem queueFetch_journal (turn n first count base s) : (queueFetch turn n first count base s).journal = s.journal := rfl
@[simp] theorem queueFetch_tiles (turn n first count base s) : (queueFetch turn n first count base s).tiles = s.tiles := rfl
@[simp] theorem queueFetch_rings (turn n first count base s) : (queueFetch turn n first count base s).rings = s.rings := rfl
@[simp] theorem queueFetch_chain (turn n first count base s) : (queueFetch turn n first count base s).chain = s.chain := rfl
@[simp] theorem queueFetch_time (turn n first count base s) : (queueFetch turn n first count base s).time = s.time := rfl
@[simp] theorem queueFetch_strip (turn n first count base s) : (queueFetch turn n first count base s).strip = s.strip := rfl
@[simp] theorem queueFetch_frm (turn n first count base s) : (queueFetch turn n first count base s).frm = s.frm := rfl
@[simp] theorem queueFetch_boot (turn n first count base s) : (queueFetch turn n first count base s).boot = s.boot := rfl
@[simp] theorem queueFetch_cal (turn n first count base s) : (queueFetch turn n first count base s).cal = s.cal := rfl
@[simp] theorem queueFetch_therm (turn n first count base s) : (queueFetch turn n first count base s).therm = s.therm := rfl
@[simp] theorem queueFetch_prot (turn n first count base s) : (queueFetch turn n first count base s).prot = s.prot := rfl
@[simp] theorem queueFetch_outputs (turn n first count base s) : (queueFetch turn n first count base s).outputs = s.outputs := rfl
@[simp] theorem queueFetch_freeCtr (turn n first count base s) : (queueFetch turn n first count base s).freeCtr = s.freeCtr := rfl
@[simp] theorem queueFetch_faults (turn n first count base s) : (queueFetch turn n first count base s).faults = s.faults := rfl
@[simp] theorem queueFetch_nvm (turn n first count base s) : (queueFetch turn n first count base s).nvm = s.nvm := rfl
@[simp] theorem queueFetch_safety (turn n first count base s) : (queueFetch turn n first count base s).safety = s.safety := rfl
@[simp] theorem queueFetch_cmp (turn n first count base s) : (queueFetch turn n first count base s).cmp = s.cmp := rfl
@[simp] theorem queueFetch_pending (turn n first count base s) : (queueFetch turn n first count base s).pending = s.pending := rfl

/-! `onTherm` changes only: therm. -/
@[simp] theorem onTherm_power (f s) : (onTherm f s).power = s.power := rfl
@[simp] theorem onTherm_journal (f s) : (onTherm f s).journal = s.journal := rfl
@[simp] theorem onTherm_tiles (f s) : (onTherm f s).tiles = s.tiles := rfl
@[simp] theorem onTherm_link (f s) : (onTherm f s).link = s.link := rfl
@[simp] theorem onTherm_rings (f s) : (onTherm f s).rings = s.rings := rfl
@[simp] theorem onTherm_chain (f s) : (onTherm f s).chain = s.chain := rfl
@[simp] theorem onTherm_time (f s) : (onTherm f s).time = s.time := rfl
@[simp] theorem onTherm_strip (f s) : (onTherm f s).strip = s.strip := rfl
@[simp] theorem onTherm_frm (f s) : (onTherm f s).frm = s.frm := rfl
@[simp] theorem onTherm_boot (f s) : (onTherm f s).boot = s.boot := rfl
@[simp] theorem onTherm_cal (f s) : (onTherm f s).cal = s.cal := rfl
@[simp] theorem onTherm_prot (f s) : (onTherm f s).prot = s.prot := rfl
@[simp] theorem onTherm_outputs (f s) : (onTherm f s).outputs = s.outputs := rfl
@[simp] theorem onTherm_freeCtr (f s) : (onTherm f s).freeCtr = s.freeCtr := rfl
@[simp] theorem onTherm_faults (f s) : (onTherm f s).faults = s.faults := rfl
@[simp] theorem onTherm_nvm (f s) : (onTherm f s).nvm = s.nvm := rfl
@[simp] theorem onTherm_safety (f s) : (onTherm f s).safety = s.safety := rfl
@[simp] theorem onTherm_cmp (f s) : (onTherm f s).cmp = s.cmp := rfl
@[simp] theorem onTherm_pending (f s) : (onTherm f s).pending = s.pending := rfl

/-! `onTiles` changes only: tiles. -/
@[simp] theorem onTiles_power (f s) : (onTiles f s).power = s.power := rfl
@[simp] theorem onTiles_journal (f s) : (onTiles f s).journal = s.journal := rfl
@[simp] theorem onTiles_link (f s) : (onTiles f s).link = s.link := rfl
@[simp] theorem onTiles_rings (f s) : (onTiles f s).rings = s.rings := rfl
@[simp] theorem onTiles_chain (f s) : (onTiles f s).chain = s.chain := rfl
@[simp] theorem onTiles_time (f s) : (onTiles f s).time = s.time := rfl
@[simp] theorem onTiles_strip (f s) : (onTiles f s).strip = s.strip := rfl
@[simp] theorem onTiles_frm (f s) : (onTiles f s).frm = s.frm := rfl
@[simp] theorem onTiles_boot (f s) : (onTiles f s).boot = s.boot := rfl
@[simp] theorem onTiles_cal (f s) : (onTiles f s).cal = s.cal := rfl
@[simp] theorem onTiles_therm (f s) : (onTiles f s).therm = s.therm := rfl
@[simp] theorem onTiles_prot (f s) : (onTiles f s).prot = s.prot := rfl
@[simp] theorem onTiles_outputs (f s) : (onTiles f s).outputs = s.outputs := rfl
@[simp] theorem onTiles_freeCtr (f s) : (onTiles f s).freeCtr = s.freeCtr := rfl
@[simp] theorem onTiles_faults (f s) : (onTiles f s).faults = s.faults := rfl
@[simp] theorem onTiles_nvm (f s) : (onTiles f s).nvm = s.nvm := rfl
@[simp] theorem onTiles_safety (f s) : (onTiles f s).safety = s.safety := rfl
@[simp] theorem onTiles_cmp (f s) : (onTiles f s).cmp = s.cmp := rfl
@[simp] theorem onTiles_pending (f s) : (onTiles f s).pending = s.pending := rfl

/-! `markTaps` changes only: tiles. -/
@[simp] theorem markTaps_power (x0) : (markTaps x0).power = x0.power :=
  SameBut.power_eq (@markTaps_frame _ [.tiles] x0 (fun _ h => h) SameBut.refl)
@[simp] theorem markTaps_journal (x0) : (markTaps x0).journal = x0.journal :=
  SameBut.journal_eq (@markTaps_frame _ [.tiles] x0 (fun _ h => h) SameBut.refl)
@[simp] theorem markTaps_link (x0) : (markTaps x0).link = x0.link :=
  SameBut.link_eq (@markTaps_frame _ [.tiles] x0 (fun _ h => h) SameBut.refl)
@[simp] theorem markTaps_rings (x0) : (markTaps x0).rings = x0.rings :=
  SameBut.rings_eq (@markTaps_frame _ [.tiles] x0 (fun _ h => h) SameBut.refl)
@[simp] theorem markTaps_chain (x0) : (markTaps x0).chain = x0.chain :=
  SameBut.chain_eq (@markTaps_frame _ [.tiles] x0 (fun _ h => h) SameBut.refl)
@[simp] theorem markTaps_time (x0) : (markTaps x0).time = x0.time :=
  SameBut.time_eq (@markTaps_frame _ [.tiles] x0 (fun _ h => h) SameBut.refl)
@[simp] theorem markTaps_strip (x0) : (markTaps x0).strip = x0.strip :=
  SameBut.strip_eq (@markTaps_frame _ [.tiles] x0 (fun _ h => h) SameBut.refl)
@[simp] theorem markTaps_frm (x0) : (markTaps x0).frm = x0.frm :=
  SameBut.frm_eq (@markTaps_frame _ [.tiles] x0 (fun _ h => h) SameBut.refl)
@[simp] theorem markTaps_boot (x0) : (markTaps x0).boot = x0.boot :=
  SameBut.boot_eq (@markTaps_frame _ [.tiles] x0 (fun _ h => h) SameBut.refl)
@[simp] theorem markTaps_cal (x0) : (markTaps x0).cal = x0.cal :=
  SameBut.cal_eq (@markTaps_frame _ [.tiles] x0 (fun _ h => h) SameBut.refl)
@[simp] theorem markTaps_therm (x0) : (markTaps x0).therm = x0.therm :=
  SameBut.therm_eq (@markTaps_frame _ [.tiles] x0 (fun _ h => h) SameBut.refl)
@[simp] theorem markTaps_prot (x0) : (markTaps x0).prot = x0.prot :=
  SameBut.prot_eq (@markTaps_frame _ [.tiles] x0 (fun _ h => h) SameBut.refl)
@[simp] theorem markTaps_outputs (x0) : (markTaps x0).outputs = x0.outputs :=
  SameBut.outputs_eq (@markTaps_frame _ [.tiles] x0 (fun _ h => h) SameBut.refl)
@[simp] theorem markTaps_freeCtr (x0) : (markTaps x0).freeCtr = x0.freeCtr :=
  SameBut.freeCtr_eq (@markTaps_frame _ [.tiles] x0 (fun _ h => h) SameBut.refl)
@[simp] theorem markTaps_faults (x0) : (markTaps x0).faults = x0.faults :=
  SameBut.faults_eq (@markTaps_frame _ [.tiles] x0 (fun _ h => h) SameBut.refl)
@[simp] theorem markTaps_nvm (x0) : (markTaps x0).nvm = x0.nvm :=
  SameBut.nvm_eq (@markTaps_frame _ [.tiles] x0 (fun _ h => h) SameBut.refl)
@[simp] theorem markTaps_safety (x0) : (markTaps x0).safety = x0.safety :=
  SameBut.safety_eq (@markTaps_frame _ [.tiles] x0 (fun _ h => h) SameBut.refl)
@[simp] theorem markTaps_cmp (x0) : (markTaps x0).cmp = x0.cmp :=
  SameBut.cmp_eq (@markTaps_frame _ [.tiles] x0 (fun _ h => h) SameBut.refl)
@[simp] theorem markTaps_pending (x0) : (markTaps x0).pending = x0.pending :=
  SameBut.queue (@markTaps_frame _ [.tiles] x0 (fun _ h => h) SameBut.refl)

/-! `trimCopies` changes only: nvm. -/
@[simp] theorem trimCopies_power (s) : (trimCopies s).power = s.power :=
  SameBut.power_eq (@trimCopies_frame _ [.nvm] s (fun _ h => h) SameBut.refl)
@[simp] theorem trimCopies_journal (s) : (trimCopies s).journal = s.journal :=
  SameBut.journal_eq (@trimCopies_frame _ [.nvm] s (fun _ h => h) SameBut.refl)
@[simp] theorem trimCopies_tiles (s) : (trimCopies s).tiles = s.tiles :=
  SameBut.tiles_eq (@trimCopies_frame _ [.nvm] s (fun _ h => h) SameBut.refl)
@[simp] theorem trimCopies_link (s) : (trimCopies s).link = s.link :=
  SameBut.link_eq (@trimCopies_frame _ [.nvm] s (fun _ h => h) SameBut.refl)
@[simp] theorem trimCopies_rings (s) : (trimCopies s).rings = s.rings :=
  SameBut.rings_eq (@trimCopies_frame _ [.nvm] s (fun _ h => h) SameBut.refl)
@[simp] theorem trimCopies_chain (s) : (trimCopies s).chain = s.chain :=
  SameBut.chain_eq (@trimCopies_frame _ [.nvm] s (fun _ h => h) SameBut.refl)
@[simp] theorem trimCopies_time (s) : (trimCopies s).time = s.time :=
  SameBut.time_eq (@trimCopies_frame _ [.nvm] s (fun _ h => h) SameBut.refl)
@[simp] theorem trimCopies_strip (s) : (trimCopies s).strip = s.strip :=
  SameBut.strip_eq (@trimCopies_frame _ [.nvm] s (fun _ h => h) SameBut.refl)
@[simp] theorem trimCopies_frm (s) : (trimCopies s).frm = s.frm :=
  SameBut.frm_eq (@trimCopies_frame _ [.nvm] s (fun _ h => h) SameBut.refl)
@[simp] theorem trimCopies_boot (s) : (trimCopies s).boot = s.boot :=
  SameBut.boot_eq (@trimCopies_frame _ [.nvm] s (fun _ h => h) SameBut.refl)
@[simp] theorem trimCopies_cal (s) : (trimCopies s).cal = s.cal :=
  SameBut.cal_eq (@trimCopies_frame _ [.nvm] s (fun _ h => h) SameBut.refl)
@[simp] theorem trimCopies_therm (s) : (trimCopies s).therm = s.therm :=
  SameBut.therm_eq (@trimCopies_frame _ [.nvm] s (fun _ h => h) SameBut.refl)
@[simp] theorem trimCopies_prot (s) : (trimCopies s).prot = s.prot :=
  SameBut.prot_eq (@trimCopies_frame _ [.nvm] s (fun _ h => h) SameBut.refl)
@[simp] theorem trimCopies_outputs (s) : (trimCopies s).outputs = s.outputs :=
  SameBut.outputs_eq (@trimCopies_frame _ [.nvm] s (fun _ h => h) SameBut.refl)
@[simp] theorem trimCopies_freeCtr (s) : (trimCopies s).freeCtr = s.freeCtr :=
  SameBut.freeCtr_eq (@trimCopies_frame _ [.nvm] s (fun _ h => h) SameBut.refl)
@[simp] theorem trimCopies_faults (s) : (trimCopies s).faults = s.faults :=
  SameBut.faults_eq (@trimCopies_frame _ [.nvm] s (fun _ h => h) SameBut.refl)
@[simp] theorem trimCopies_safety (s) : (trimCopies s).safety = s.safety :=
  SameBut.safety_eq (@trimCopies_frame _ [.nvm] s (fun _ h => h) SameBut.refl)
@[simp] theorem trimCopies_cmp (s) : (trimCopies s).cmp = s.cmp :=
  SameBut.cmp_eq (@trimCopies_frame _ [.nvm] s (fun _ h => h) SameBut.refl)
@[simp] theorem trimCopies_pending (s) : (trimCopies s).pending = s.pending :=
  SameBut.queue (@trimCopies_frame _ [.nvm] s (fun _ h => h) SameBut.refl)

/-! `poisonBlocks` changes only: journal. -/
@[simp] theorem poisonBlocks_power (serial gen bs s) : (poisonBlocks serial gen bs s).power = s.power :=
  SameBut.power_eq (@poisonBlocks_frame _ _ _ _ [.journal] s (fun _ h => h) SameBut.refl)
@[simp] theorem poisonBlocks_tiles (serial gen bs s) : (poisonBlocks serial gen bs s).tiles = s.tiles :=
  SameBut.tiles_eq (@poisonBlocks_frame _ _ _ _ [.journal] s (fun _ h => h) SameBut.refl)
@[simp] theorem poisonBlocks_link (serial gen bs s) : (poisonBlocks serial gen bs s).link = s.link :=
  SameBut.link_eq (@poisonBlocks_frame _ _ _ _ [.journal] s (fun _ h => h) SameBut.refl)
@[simp] theorem poisonBlocks_rings (serial gen bs s) : (poisonBlocks serial gen bs s).rings = s.rings :=
  SameBut.rings_eq (@poisonBlocks_frame _ _ _ _ [.journal] s (fun _ h => h) SameBut.refl)
@[simp] theorem poisonBlocks_chain (serial gen bs s) : (poisonBlocks serial gen bs s).chain = s.chain :=
  SameBut.chain_eq (@poisonBlocks_frame _ _ _ _ [.journal] s (fun _ h => h) SameBut.refl)
@[simp] theorem poisonBlocks_time (serial gen bs s) : (poisonBlocks serial gen bs s).time = s.time :=
  SameBut.time_eq (@poisonBlocks_frame _ _ _ _ [.journal] s (fun _ h => h) SameBut.refl)
@[simp] theorem poisonBlocks_strip (serial gen bs s) : (poisonBlocks serial gen bs s).strip = s.strip :=
  SameBut.strip_eq (@poisonBlocks_frame _ _ _ _ [.journal] s (fun _ h => h) SameBut.refl)
@[simp] theorem poisonBlocks_frm (serial gen bs s) : (poisonBlocks serial gen bs s).frm = s.frm :=
  SameBut.frm_eq (@poisonBlocks_frame _ _ _ _ [.journal] s (fun _ h => h) SameBut.refl)
@[simp] theorem poisonBlocks_boot (serial gen bs s) : (poisonBlocks serial gen bs s).boot = s.boot :=
  SameBut.boot_eq (@poisonBlocks_frame _ _ _ _ [.journal] s (fun _ h => h) SameBut.refl)
@[simp] theorem poisonBlocks_cal (serial gen bs s) : (poisonBlocks serial gen bs s).cal = s.cal :=
  SameBut.cal_eq (@poisonBlocks_frame _ _ _ _ [.journal] s (fun _ h => h) SameBut.refl)
@[simp] theorem poisonBlocks_therm (serial gen bs s) : (poisonBlocks serial gen bs s).therm = s.therm :=
  SameBut.therm_eq (@poisonBlocks_frame _ _ _ _ [.journal] s (fun _ h => h) SameBut.refl)
@[simp] theorem poisonBlocks_prot (serial gen bs s) : (poisonBlocks serial gen bs s).prot = s.prot :=
  SameBut.prot_eq (@poisonBlocks_frame _ _ _ _ [.journal] s (fun _ h => h) SameBut.refl)
@[simp] theorem poisonBlocks_outputs (serial gen bs s) : (poisonBlocks serial gen bs s).outputs = s.outputs :=
  SameBut.outputs_eq (@poisonBlocks_frame _ _ _ _ [.journal] s (fun _ h => h) SameBut.refl)
@[simp] theorem poisonBlocks_freeCtr (serial gen bs s) : (poisonBlocks serial gen bs s).freeCtr = s.freeCtr :=
  SameBut.freeCtr_eq (@poisonBlocks_frame _ _ _ _ [.journal] s (fun _ h => h) SameBut.refl)
@[simp] theorem poisonBlocks_faults (serial gen bs s) : (poisonBlocks serial gen bs s).faults = s.faults :=
  SameBut.faults_eq (@poisonBlocks_frame _ _ _ _ [.journal] s (fun _ h => h) SameBut.refl)
@[simp] theorem poisonBlocks_nvm (serial gen bs s) : (poisonBlocks serial gen bs s).nvm = s.nvm :=
  SameBut.nvm_eq (@poisonBlocks_frame _ _ _ _ [.journal] s (fun _ h => h) SameBut.refl)
@[simp] theorem poisonBlocks_safety (serial gen bs s) : (poisonBlocks serial gen bs s).safety = s.safety :=
  SameBut.safety_eq (@poisonBlocks_frame _ _ _ _ [.journal] s (fun _ h => h) SameBut.refl)
@[simp] theorem poisonBlocks_cmp (serial gen bs s) : (poisonBlocks serial gen bs s).cmp = s.cmp :=
  SameBut.cmp_eq (@poisonBlocks_frame _ _ _ _ [.journal] s (fun _ h => h) SameBut.refl)
@[simp] theorem poisonBlocks_pending (serial gen bs s) : (poisonBlocks serial gen bs s).pending = s.pending :=
  SameBut.queue (@poisonBlocks_frame _ _ _ _ [.journal] s (fun _ h => h) SameBut.refl)

/-! `dropTileItems` changes only: cmp. -/
@[simp] theorem dropTileItems_power (n s) : (dropTileItems n s).power = s.power := rfl
@[simp] theorem dropTileItems_journal (n s) : (dropTileItems n s).journal = s.journal := rfl
@[simp] theorem dropTileItems_tiles (n s) : (dropTileItems n s).tiles = s.tiles := rfl
@[simp] theorem dropTileItems_link (n s) : (dropTileItems n s).link = s.link := rfl
@[simp] theorem dropTileItems_rings (n s) : (dropTileItems n s).rings = s.rings := rfl
@[simp] theorem dropTileItems_chain (n s) : (dropTileItems n s).chain = s.chain := rfl
@[simp] theorem dropTileItems_time (n s) : (dropTileItems n s).time = s.time := rfl
@[simp] theorem dropTileItems_strip (n s) : (dropTileItems n s).strip = s.strip := rfl
@[simp] theorem dropTileItems_frm (n s) : (dropTileItems n s).frm = s.frm := rfl
@[simp] theorem dropTileItems_boot (n s) : (dropTileItems n s).boot = s.boot := rfl
@[simp] theorem dropTileItems_cal (n s) : (dropTileItems n s).cal = s.cal := rfl
@[simp] theorem dropTileItems_therm (n s) : (dropTileItems n s).therm = s.therm := rfl
@[simp] theorem dropTileItems_prot (n s) : (dropTileItems n s).prot = s.prot := rfl
@[simp] theorem dropTileItems_outputs (n s) : (dropTileItems n s).outputs = s.outputs := rfl
@[simp] theorem dropTileItems_freeCtr (n s) : (dropTileItems n s).freeCtr = s.freeCtr := rfl
@[simp] theorem dropTileItems_faults (n s) : (dropTileItems n s).faults = s.faults := rfl
@[simp] theorem dropTileItems_nvm (n s) : (dropTileItems n s).nvm = s.nvm := rfl
@[simp] theorem dropTileItems_safety (n s) : (dropTileItems n s).safety = s.safety := rfl
@[simp] theorem dropTileItems_pending (n s) : (dropTileItems n s).pending = s.pending := rfl

/-! `onTim` changes only: time. -/
@[simp] theorem onTim_power (f s) : (onTim f s).power = s.power := rfl
@[simp] theorem onTim_journal (f s) : (onTim f s).journal = s.journal := rfl
@[simp] theorem onTim_tiles (f s) : (onTim f s).tiles = s.tiles := rfl
@[simp] theorem onTim_link (f s) : (onTim f s).link = s.link := rfl
@[simp] theorem onTim_rings (f s) : (onTim f s).rings = s.rings := rfl
@[simp] theorem onTim_chain (f s) : (onTim f s).chain = s.chain := rfl
@[simp] theorem onTim_strip (f s) : (onTim f s).strip = s.strip := rfl
@[simp] theorem onTim_frm (f s) : (onTim f s).frm = s.frm := rfl
@[simp] theorem onTim_boot (f s) : (onTim f s).boot = s.boot := rfl
@[simp] theorem onTim_cal (f s) : (onTim f s).cal = s.cal := rfl
@[simp] theorem onTim_therm (f s) : (onTim f s).therm = s.therm := rfl
@[simp] theorem onTim_prot (f s) : (onTim f s).prot = s.prot := rfl
@[simp] theorem onTim_outputs (f s) : (onTim f s).outputs = s.outputs := rfl
@[simp] theorem onTim_freeCtr (f s) : (onTim f s).freeCtr = s.freeCtr := rfl
@[simp] theorem onTim_faults (f s) : (onTim f s).faults = s.faults := rfl
@[simp] theorem onTim_nvm (f s) : (onTim f s).nvm = s.nvm := rfl
@[simp] theorem onTim_safety (f s) : (onTim f s).safety = s.safety := rfl
@[simp] theorem onTim_cmp (f s) : (onTim f s).cmp = s.cmp := rfl
@[simp] theorem onTim_pending (f s) : (onTim f s).pending = s.pending := rfl

/-! `frameStepped` changes only: frm. -/
@[simp] theorem frameStepped_power (d s) : (frameStepped d s).power = s.power := rfl
@[simp] theorem frameStepped_journal (d s) : (frameStepped d s).journal = s.journal := rfl
@[simp] theorem frameStepped_tiles (d s) : (frameStepped d s).tiles = s.tiles := rfl
@[simp] theorem frameStepped_link (d s) : (frameStepped d s).link = s.link := rfl
@[simp] theorem frameStepped_rings (d s) : (frameStepped d s).rings = s.rings := rfl
@[simp] theorem frameStepped_chain (d s) : (frameStepped d s).chain = s.chain := rfl
@[simp] theorem frameStepped_time (d s) : (frameStepped d s).time = s.time := rfl
@[simp] theorem frameStepped_strip (d s) : (frameStepped d s).strip = s.strip := rfl
@[simp] theorem frameStepped_boot (d s) : (frameStepped d s).boot = s.boot := rfl
@[simp] theorem frameStepped_cal (d s) : (frameStepped d s).cal = s.cal := rfl
@[simp] theorem frameStepped_therm (d s) : (frameStepped d s).therm = s.therm := rfl
@[simp] theorem frameStepped_prot (d s) : (frameStepped d s).prot = s.prot := rfl
@[simp] theorem frameStepped_outputs (d s) : (frameStepped d s).outputs = s.outputs := rfl
@[simp] theorem frameStepped_freeCtr (d s) : (frameStepped d s).freeCtr = s.freeCtr := rfl
@[simp] theorem frameStepped_faults (d s) : (frameStepped d s).faults = s.faults := rfl
@[simp] theorem frameStepped_nvm (d s) : (frameStepped d s).nvm = s.nvm := rfl
@[simp] theorem frameStepped_safety (d s) : (frameStepped d s).safety = s.safety := rfl
@[simp] theorem frameStepped_cmp (d s) : (frameStepped d s).cmp = s.cmp := rfl
@[simp] theorem frameStepped_pending (d s) : (frameStepped d s).pending = s.pending := rfl

/-! `condOn` changes only: faults. -/
@[simp] theorem condOn_power (slot s) : (condOn slot s).power = s.power :=
  SameBut.power_eq (@condOn_frame _ _ [.faults] s (fun _ h => h) SameBut.refl)
@[simp] theorem condOn_journal (slot s) : (condOn slot s).journal = s.journal :=
  SameBut.journal_eq (@condOn_frame _ _ [.faults] s (fun _ h => h) SameBut.refl)
@[simp] theorem condOn_tiles (slot s) : (condOn slot s).tiles = s.tiles :=
  SameBut.tiles_eq (@condOn_frame _ _ [.faults] s (fun _ h => h) SameBut.refl)
@[simp] theorem condOn_link (slot s) : (condOn slot s).link = s.link :=
  SameBut.link_eq (@condOn_frame _ _ [.faults] s (fun _ h => h) SameBut.refl)
@[simp] theorem condOn_rings (slot s) : (condOn slot s).rings = s.rings :=
  SameBut.rings_eq (@condOn_frame _ _ [.faults] s (fun _ h => h) SameBut.refl)
@[simp] theorem condOn_chain (slot s) : (condOn slot s).chain = s.chain :=
  SameBut.chain_eq (@condOn_frame _ _ [.faults] s (fun _ h => h) SameBut.refl)
@[simp] theorem condOn_time (slot s) : (condOn slot s).time = s.time :=
  SameBut.time_eq (@condOn_frame _ _ [.faults] s (fun _ h => h) SameBut.refl)
@[simp] theorem condOn_strip (slot s) : (condOn slot s).strip = s.strip :=
  SameBut.strip_eq (@condOn_frame _ _ [.faults] s (fun _ h => h) SameBut.refl)
@[simp] theorem condOn_frm (slot s) : (condOn slot s).frm = s.frm :=
  SameBut.frm_eq (@condOn_frame _ _ [.faults] s (fun _ h => h) SameBut.refl)
@[simp] theorem condOn_boot (slot s) : (condOn slot s).boot = s.boot :=
  SameBut.boot_eq (@condOn_frame _ _ [.faults] s (fun _ h => h) SameBut.refl)
@[simp] theorem condOn_cal (slot s) : (condOn slot s).cal = s.cal :=
  SameBut.cal_eq (@condOn_frame _ _ [.faults] s (fun _ h => h) SameBut.refl)
@[simp] theorem condOn_therm (slot s) : (condOn slot s).therm = s.therm :=
  SameBut.therm_eq (@condOn_frame _ _ [.faults] s (fun _ h => h) SameBut.refl)
@[simp] theorem condOn_prot (slot s) : (condOn slot s).prot = s.prot :=
  SameBut.prot_eq (@condOn_frame _ _ [.faults] s (fun _ h => h) SameBut.refl)
@[simp] theorem condOn_outputs (slot s) : (condOn slot s).outputs = s.outputs :=
  SameBut.outputs_eq (@condOn_frame _ _ [.faults] s (fun _ h => h) SameBut.refl)
@[simp] theorem condOn_freeCtr (slot s) : (condOn slot s).freeCtr = s.freeCtr :=
  SameBut.freeCtr_eq (@condOn_frame _ _ [.faults] s (fun _ h => h) SameBut.refl)
@[simp] theorem condOn_nvm (slot s) : (condOn slot s).nvm = s.nvm :=
  SameBut.nvm_eq (@condOn_frame _ _ [.faults] s (fun _ h => h) SameBut.refl)
@[simp] theorem condOn_safety (slot s) : (condOn slot s).safety = s.safety :=
  SameBut.safety_eq (@condOn_frame _ _ [.faults] s (fun _ h => h) SameBut.refl)
@[simp] theorem condOn_cmp (slot s) : (condOn slot s).cmp = s.cmp :=
  SameBut.cmp_eq (@condOn_frame _ _ [.faults] s (fun _ h => h) SameBut.refl)
@[simp] theorem condOn_pending (slot s) : (condOn slot s).pending = s.pending :=
  SameBut.queue (@condOn_frame _ _ [.faults] s (fun _ h => h) SameBut.refl)
@[simp] theorem condOn_tileOf (slot s i) : tileOf (condOn slot s) i = tileOf s i :=
  SameBut.tileOf_eq (@condOn_frame _ _ [.faults] s (fun _ h => h) SameBut.refl) i
@[simp] theorem condOn_portOf (slot s i) : portOf (condOn slot s) i = portOf s i :=
  SameBut.portOf_eq (@condOn_frame _ _ [.faults] s (fun _ h => h) SameBut.refl) i
@[simp] theorem condOn_frondOf (slot s i) : frondOf (condOn slot s) i = frondOf s i :=
  SameBut.frondOf_eq (@condOn_frame _ _ [.faults] s (fun _ h => h) SameBut.refl) i
@[simp] theorem condOn_stripOf (slot s i) : stripOf (condOn slot s) i = stripOf s i :=
  SameBut.stripOf_eq (@condOn_frame _ _ [.faults] s (fun _ h => h) SameBut.refl) i
@[simp] theorem condOn_calOf (slot s i) : calOf (condOn slot s) i = calOf s i :=
  SameBut.calOf_eq (@condOn_frame _ _ [.faults] s (fun _ h => h) SameBut.refl) i
@[simp] theorem condOn_sensorOf (slot s i) : sensorOf (condOn slot s) i = sensorOf s i :=
  SameBut.sensorOf_eq (@condOn_frame _ _ [.faults] s (fun _ h => h) SameBut.refl) i
@[simp] theorem condOn_domainOf (slot s i) : domainOf (condOn slot s) i = domainOf s i :=
  SameBut.domainOf_eq (@condOn_frame _ _ [.faults] s (fun _ h => h) SameBut.refl) i
@[simp] theorem condOn_rxqOf (slot s i) : rxqOf (condOn slot s) i = rxqOf s i :=
  SameBut.rxqOf_eq (@condOn_frame _ _ [.faults] s (fun _ h => h) SameBut.refl) i
@[simp] theorem condOn_domOf (slot s i) : domOf (condOn slot s) i = domOf s i :=
  SameBut.domOf_eq (@condOn_frame _ _ [.faults] s (fun _ h => h) SameBut.refl) i
@[simp] theorem condOn_tevOf (slot s i) : tevOf (condOn slot s) i = tevOf s i :=
  SameBut.tevOf_eq (@condOn_frame _ _ [.faults] s (fun _ h => h) SameBut.refl) i
@[simp] theorem condOn_gcuOf (slot s i) : gcuOf (condOn slot s) i = gcuOf s i :=
  SameBut.gcuOf_eq (@condOn_frame _ _ [.faults] s (fun _ h => h) SameBut.refl) i
@[simp] theorem condOn_layerOf (slot s i) : layerOf (condOn slot s) i = layerOf s i :=
  SameBut.layerOf_eq (@condOn_frame _ _ [.faults] s (fun _ h => h) SameBut.refl) i
@[simp] theorem condOn_descOf (slot s i) : descOf (condOn slot s) i = descOf s i :=
  SameBut.descOf_eq (@condOn_frame _ _ [.faults] s (fun _ h => h) SameBut.refl) i
@[simp] theorem condOn_sqOf (slot s i) : sqOf (condOn slot s) i = sqOf s i :=
  SameBut.sqOf_eq (@condOn_frame _ _ [.faults] s (fun _ h => h) SameBut.refl) i
@[simp] theorem condOn_cqOf (slot s i) : cqOf (condOn slot s) i = cqOf s i :=
  SameBut.cqOf_eq (@condOn_frame _ _ [.faults] s (fun _ h => h) SameBut.refl) i
@[simp] theorem condOn_slotOf (slot s i) : slotOf (condOn slot s) i = slotOf s i :=
  SameBut.slotOf_eq (@condOn_frame _ _ [.faults] s (fun _ h => h) SameBut.refl) i
@[simp] theorem condOn_frameOf (slot s i) : frameOf (condOn slot s) i = frameOf s i :=
  SameBut.frameOf_eq (@condOn_frame _ _ [.faults] s (fun _ h => h) SameBut.refl) i
@[simp] theorem condOn_nvmBusy (slot s) : nvmBusy (condOn slot s) = nvmBusy s :=
  SameBut.nvmBusy_eq (@condOn_frame _ _ [.faults] s (fun _ h => h) SameBut.refl)
@[simp] theorem condOn_serving (slot s i) : serving (condOn slot s) i = serving s i :=
  SameBut.serving_eq (@condOn_frame _ _ [.faults] s (fun _ h => h) SameBut.refl) i
@[simp] theorem condOn_outTime (slot s) : outTime (condOn slot s) = outTime s :=
  SameBut.outTime_eq (@condOn_frame _ _ [.faults] s (fun _ h => h) SameBut.refl)
@[simp] theorem condOn_chanOf (slot s i) : chanOf (condOn slot s) i = chanOf s i :=
  SameBut.chanOf_eq (@condOn_frame _ _ [.faults] s (fun _ h => h) SameBut.refl) i

end Sys2Proof.Machine
end

