-- ==== Sys2Proof/Laws/Lookup.lean ====
section
/-! SUPPORT. What is read back after a write of one bit, tile, port, queue, channel or domain. -/

set_option autoImplicit false

-- One declaration after the other, without the linters of the library: many small theorems.
set_option Elab.async false
set_option linter.all false

namespace Sys2Proof.Machine

/-- One bit of a word is written, every other bit stays. -/
theorem putBit_testBit (v i : Nat) (b : Bool) (j : Nat) : (putBit v i b).testBit j = if j = i then b else v.testBit j := by
  have h : putBit v i b = (v % 2^i) + 2^i * (b.toNat + 2 * (v / 2^(i+1))) := by
    unfold putBit setBits
    cases b <;> simp [Nat.pow_succ] <;> ring
  rw [h]
  rcases Nat.lt_trichotomy j i with hj | hj | hj
  · rw [Nat.add_comm, Nat.testBit_two_pow_mul_add _ (Nat.mod_lt _ (Nat.two_pow_pos i))]
    simp [hj, Nat.ne_of_lt hj]
  · subst hj
    rw [Nat.add_comm, Nat.testBit_two_pow_mul_add _ (Nat.mod_lt _ (Nat.two_pow_pos j))]
    cases b <;> simp
  · rw [Nat.add_comm, Nat.testBit_two_pow_mul_add _ (Nat.mod_lt _ (Nat.two_pow_pos i))]
    have h1 : ¬ j < i := by omega
    have h2 : j ≠ i := by omega
    simp only [h1, h2, if_false]
    obtain ⟨k, rfl⟩ : ∃ k, j = i + (k + 1) := ⟨j - i - 1, by omega⟩
    have e : i + (k+1) - i = k + 1 := by omega
    rw [e, Nat.testBit_succ]
    have : (b.toNat + 2 * (v / 2 ^ (i+1))) / 2 = v / 2^(i+1) := by cases b <;> simp <;> omega
    rw [this, Nat.testBit_div_two_pow]
    congr 1; omega

/-- A table after the writes of a list of entries. -/
theorem fold_put {α} {d : α} {g : Nat → α} {k : Nat} : ∀ (l : List Nat) (t : Tab α), Tab.get d (l.foldl (fun t k => Tab.put t k (g k)) t) k = if k ∈ l then g k else Tab.get d t k := by
  intro l; induction l with
  | nil => intro t; simp
  | cons a r ih =>
    intro t; simp only [List.foldl_cons]; rw [ih]
    by_cases h : k ∈ r
    · simp [h]
    · by_cases h2 : k = a
      · subst h2; simp [h]
      · simp [h, h2]

@[simp] theorem tileOf_putTile (s n m x) : tileOf (putTile s n x) m = if m = n then x else tileOf s m := by simp [tileOf, putTile]

@[simp] theorem portOf_putPort (s n m x) : portOf (putPort s n x) m = if m = n then x else portOf s m := by simp [portOf, putPort]

@[simp] theorem frondOf_putFrond (s n m x) : frondOf (putFrond s n x) m = if m = n then x else frondOf s m := by simp [frondOf, putFrond]

@[simp] theorem chanOf_putChan (s c d x) : chanOf (putChan s c x) d = if d = c then x else chanOf s d := by
  cases c <;> cases d <;> simp [chanOf, putChan]

@[simp] theorem calOf_putCal (s n m x) : calOf (putCal s n x) m = if m = n then x else calOf s m := by simp [calOf, putCal]

@[simp] theorem sqOf_putSq (s n m x) : sqOf (putSq s n x) m = if m = n then x else sqOf s m := by simp [sqOf, putSq]

@[simp] theorem cqOf_putCq (s n m x) : cqOf (putCq s n x) m = if m = n then x else cqOf s m := by simp [cqOf, putCq]

@[simp] theorem cqOf_putSq (s n m x) : cqOf (putSq s n x) m = cqOf s m := rfl

@[simp] theorem sqOf_putCq (s n m x) : sqOf (putCq s n x) m = sqOf s m := rfl

@[simp] theorem stripOf_putStrip (s n m x) : stripOf (putStrip s n x) m = if m = n then x else stripOf s m := by simp [stripOf, putStrip]

@[simp] theorem frondOf_putStrip (s n m x) : frondOf (putStrip s n x) m = frondOf s m := rfl

@[simp] theorem stripOf_putFrond (s n m x) : stripOf (putFrond s n x) m = stripOf s m := rfl

@[simp] theorem domOf_putDom (s n m x) : domOf (putDom s n x) m = if m = n then x else domOf s m := by simp [domOf, putDom]

@[simp] theorem tevOf_putTev (s n m x) : tevOf (putTev s n x) m = if m = n then x else tevOf s m := by simp [tevOf, putTev]

@[simp] theorem tevOf_putDom (s n m x) : tevOf (putDom s n x) m = tevOf s m := rfl

@[simp] theorem domOf_putTev (s n m x) : domOf (putTev s n x) m = domOf s m := rfl

@[simp] theorem tileOf_updTile (s n m f) : tileOf (updTile n f s) m = if m = n then f (tileOf s n) else tileOf s m := by simp [updTile]

@[simp] theorem portOf_updPort {f p s q} : portOf (updPort p f s) q = if q = p then f (portOf s p) else portOf s q := by
  simp only [updPort, portOf_putPort]

end Sys2Proof.Machine
end

