-- ==== Sys2Proof/Laws/Faults.lean ====
section
/-! SUPPORT. What raising a source, beginning and ending a condition, and taking the light off do. -/

set_option autoImplicit false

-- One declaration after the other, without the linters of the library: many small theorems.
set_option Elab.async false
set_option linter.all false

namespace Sys2Proof.Machine

/-- A raised source drives its line (R371). -/
theorem raise_drives (n s) : (raise n s).faults.drive.testBit n = true := by
  unfold raise; split <;> simp_all

/-- A raise sets the drive bit of its source and no other. -/
theorem raise_drive (n s m) : (raise n s).faults.drive.testBit m = (s.faults.drive.testBit m || decide (n = m)) := by
  unfold raise; split
  · by_cases h : n = m <;> simp_all
  · simp [Nat.testBit_or, Nat.testBit_two_pow]

/-- A raise leaves the lasting conditions. -/
theorem raise_cond (n s) : (raise n s).faults.cond = s.faults.cond := by
  unfold raise; split <;> rfl

/-- A condition that begins lasts. -/
theorem condOn_cond (n s) : (condOn n s).faults.cond.testBit n = true := by
  unfold condOn; split
  · assumption
  · rw [raise_cond]; simp

/-- A condition that ends lasts no more. -/
theorem condOff_cond (n s) : (condOff n s).faults.cond.testBit n = false := by
  unfold condOff; split
  · simp [putBit_testBit]
  · simp_all

/-- Losing the light supply leaves the safety island. -/
theorem supplyGone_safety (n s) : (supplyGone n s).safety = s.safety :=
  SameBut.safety_eq (supplyGone_frame (l := [.strip, .tiles]) (by decide) SameBut.refl)

/-- Nor do the Fronds that stop with it (R46). -/
theorem stopFronds_safety (s) : (stopFronds s).safety = s.safety :=
  SameBut.safety_eq (stopFronds_frame (l := [.strip, .tiles]) (by decide) SameBut.refl)

/-- Taking a channel's output low leaves it low (R333). -/
theorem sloOff_self (c s) : (chanOf (sloOff c s) c).slo = false := by
  unfold sloOff updChan
  simp only
  (repeat' split) <;> cases c <;> simp [putChan, chanOf, supplyGone_safety, stopFronds_safety]

/-- It leaves the other channel. -/
theorem sloOff_other (c s) : chanOf (sloOff c s) (otherChan c) = chanOf s (otherChan c) := by
  unfold sloOff updChan
  simp only
  (repeat' split) <;> cases c <;>
    simp [putChan, chanOf, otherChan, supplyGone_safety, stopFronds_safety]

/-- Light off takes both outputs low. -/
theorem lightOff_a (s) : (lightOff s).safety.a.slo = false := by
  have h := sloOff_other .b (sloOff .a s)
  have h1 := sloOff_self .a s
  simp only [chanOf, otherChan] at h h1
  unfold lightOff
  rw [h]
  exact h1

theorem lightOff_b (s) : (lightOff s).safety.b.slo = false := sloOff_self .b (sloOff .a s)

@[simp] theorem tileOf_putFrond (s n m x) : tileOf (putFrond s n x) m = tileOf s m := rfl

/-- Cancelling what an injection repays leaves a tile but for its diagnostic map. -/
theorem cancelRepay_tile (n m s) : (tileOf (cancelRepay n s) m) = { tileOf s m with diag := (tileOf (cancelRepay n s) m).diag } := by
  unfold cancelRepay
  simp only
  split
  · rfl
  · split
    · simp only [tileOf_putTile]; split
      · subst_vars; rfl
      · rfl
    · simp only [tileOf_putFrond, tileOf_putTile]; split
      · subst_vars; rfl
      · rfl

/-- The end of a tile's light leaves a tile but for the record of when the slice was cut (R28). -/
theorem lightEnds_tile (n m s) : tileOf (lightEnds n s) m = { tileOf s m with offs := (tileOf (lightEnds n s) m).offs } := by
  unfold lightEnds
  simp only
  split
  · simp only [tileOf_putTile]; split
    · subst_vars; rfl
    · rfl
  · rfl

/-- A darkened tile is the tile but for its enable, that record and its diagnostic map; every other tile is as it was. -/
theorem darken_tile (n m s) : tileOf (darken n s) m = { tileOf s m with
    enabled := !decide (m = n) && (tileOf s m).enabled
    offs := (tileOf (darken n s) m).offs, diag := (tileOf (darken n s) m).diag } := by
  have h : ∀ k, tileOf (cancelRepay n (lightEnds n s)) k = { tileOf s k with
      offs := (tileOf (cancelRepay n (lightEnds n s)) k).offs, diag := (tileOf (cancelRepay n (lightEnds n s)) k).diag } := fun k => by
    rw [cancelRepay_tile, lightEnds_tile]
  unfold darken
  simp only [tileOf_putTile]
  split
  · subst_vars; rw [h]; simp
  · next hm => rw [h]; simp only [hm, decide_false, Bool.not_false, Bool.true_and]

/-- Every tile below the count has its enable low. -/
theorem tensOff_enabled (k n s) (h : n < k) : (tileOf (tensOff k s) n).enabled = false := by
  induction k with
  | zero => omega
  | succ k ih =>
    unfold tensOff
    rw [darken_tile]
    by_cases h2 : n = k
    · simp [h2]
    · simp [h2]; exact ih (by omega)

end Sys2Proof.Machine
end

