-- ==== Sys2Proof/Laws/Rings.lean ====
section
/-! SUPPORT. What the host link's reads, the dispatch of a descriptor and its completion do. -/

set_option autoImplicit false

-- One declaration after the other, without the linters of the library: many small theorems.
set_option Elab.async false
set_option linter.all false

namespace Sys2Proof.Machine

/-- Failing a read changes of the host link only the reads under way. -/
theorem failItem_link (r s) : (failItem r s).link = { s.link with reads := (failItem r s).link.reads } := by
  unfold failItem
  simp only
  (repeat' split) <;> simp

theorem failItem_cond (r s) : (failItem r s).faults.cond = s.faults.cond := by
  unfold failItem
  simp only
  (repeat' split) <;> simp [raise_cond]

/-- So does failing several. -/
theorem failItems_link (l s) : (failItems l s).link = { s.link with reads := (failItems l s).link.reads } := by
  induction l generalizing s with
  | nil => rfl
  | cons r l ih => rw [failItems, ih, failItem_link]

theorem failItems_cond (l s) : (failItems l s).faults.cond = s.faults.cond := by
  induction l generalizing s with
  | nil => rfl
  | cons r l ih => rw [failItems, ih, failItem_cond]

/-- A host island reset ends the link. -/
theorem hostReset_up (b s) : (hostReset b s).link.up = false := by
  unfold hostReset; simp only; split
  · rw [failItems_link]
  · rw [raise_link, failItems_link]

theorem hostReset_cond (b s) : (hostReset b s).faults.cond = s.faults.cond := by
  unfold hostReset; simp only; split
  · rw [failItems_cond]
  · rw [raise_cond, failItems_cond]

/-- It raises `HOST_LINK_DOWN` where it is not a commanded one. -/
theorem hostReset_drives (s) : (hostReset false s).faults.drive.testBit 464 = true := by
  unfold hostReset; exact raise_drives _ _

/-- Sending reads changes of the host link only the reads under way. -/
theorem pump_link (s) : (pump s).link = { s.link with reads := (pump s).link.reads } := by
  unfold pump; split <;> rfl

theorem descOf_id {s e d} (h : descOf s e = some d) : d.id = e := by
  have := List.find?_some h
  simpa using this

/-- A descriptor after an update of one. -/
theorem descOf_updDesc {s id f e} (hf : ∀ d, (f d).id = d.id) : descOf (updDesc id f s) e = (descOf s e).map (fun d => if d.id
    = id then f d else d) := by
  unfold descOf updDesc
  simp only [List.find?_map]
  congr 2
  funext d
  simp only [Function.comp_apply]
  split <;> simp [hf]

/-- A descriptor that its unit has taken. -/
theorem descOf_taken {s id d} (h : descOf s id = some d) : descOf (updDesc id (fun d => { d with taken := true }) s) id = some
    { d with taken := true } := by
  rw [descOf_updDesc (by intro; rfl), h]; simp [descOf_id h]

/-- An event of an island that runs has its effect. -/
theorem ifRuns_runs {s i o} (h : runs i s = true) : ifRuns s i o = o := if_pos h

/-- An event of an island that stands still has none. -/
theorem ifRuns_still {s i o} (h : runs i s = false) : ifRuns s i o = .next s := if_neg (by simp [h])

/-- A dispatched descriptor of the opcode runs. -/
theorem runOp_runs {s id op d f} (h : Runs s id op d) : runOp s id op f = .next (f d) := by
  obtain ⟨h1, h2, h3, h4, h5, h6⟩ := h
  have hc : canRun s op d = true := by simpa [canRun, h2, h3, h4, h5] using h6
  simp only [runOp, h1, hc, if_true]

/-- A descriptor whose data arrived runs with them. -/
theorem runRead_runs {s id op d data f} (h : Runs s id op d) (hf : d.failed = false) (hd : d.data = some data) : runRead s id op f
    = .next (f d data) := by
  unfold runRead; rw [runOp_runs h]; simp [hf, hd]

/-- A descriptor whose host read failed completes `POISON`. -/
theorem runRead_failed {s id op d f} (h : Runs s id op d) (hf : d.failed = true) : runRead s id op f = .next (complete id stPOISON [] s) := by
  unfold runRead; rw [runOp_runs h]; simp [hf]

/-- What completing a descriptor writes (R124). -/
theorem complete_of {s id st r d} (h : descOf s id = some d) : complete id st r s = { s with rings := { s.rings with
      inflight := s.rings.inflight.filter (fun x => x.id != id)
      done := s.rings.done ++ [doneOf d st r] } } := by simp [complete, h]

/-- A completed descriptor leaves the consumed set and its completion stands last of those to post. -/
theorem complete_completed {s b id st r d} (h : descOf s id = some d) (hb : s.rings.inflight = b.rings.inflight) (hd : s.rings.done
    = b.rings.done) :
    Completed id d st r b (complete id st r s) := by
  rw [complete_of h]; exact ⟨by rw [← hd], by rw [← hb]⟩

end Sys2Proof.Machine
end

