-- ==== Sys2Proof/Laws/Ports.lean ====
section
/-! SUPPORT. What cutting, discarding, leaving link-up and going down do to the ports of the chain. -/

set_option autoImplicit false

-- One declaration after the other, without the linters of the library: many small theorems.
set_option Elab.async false
set_option linter.all false

namespace Sys2Proof.Machine

theorem onChain_portOf {f s q} (h : ∀ c, (f c).ports = c.ports) : portOf (onChain f s) q = portOf s q := by
  simp only [portOf, onChain, h]

theorem clearStale_portOf {s q} : portOf (clearStale s) q = portOf s q := rfl

/-- Every port keeps all but its credit counters. -/
def PK (s t : State) : Prop := ∀ q, { portOf t q with cred := [] } = { portOf s q with cred := [] }

theorem PK.refl {s} : PK s s := fun _ => rfl

theorem PK.trans {s t u} (h : PK s t) (h' : PK t u) : PK s u := fun q => (h' q).trans (h q)

theorem PK.of {s t : State} (h : t.chain.ports = s.chain.ports) (hb : t.boot = s.boot) : PK s t := fun q => by simp [portOf, h, hb]

theorem putCred_PK (s p k x) : PK s (putCred s p k x) := fun q => by
  unfold putCred; rw [portOf_putPort]; split <;> simp_all

theorem countFreed_PK (f s) : PK s (countFreed f s) := by
  unfold countFreed; (repeat' split) <;> first | exact putCred_PK _ _ _ _ | exact .refl

theorem dropFrame_PK (f s) : PK s (dropFrame f s) := by
  unfold dropFrame; simp only; split
  · exact .of rfl rfl
  · exact (countFreed_PK f s).trans (.of rfl rfl)

theorem countDrop_PK (f s) : PK s (countDrop f s) := .of rfl rfl

theorem settle_PK (id s) : PK s (settle id s) := by
  unfold settle; (repeat' split) <;> first | exact .refl | exact dropFrame_PK _ _ | exact (countFreed_PK _ s).trans (.of rfl rfl) | exact (countDrop_PK _ s).trans (dropFrame_PK _ _)

theorem doneWith_PK (id c s) : PK s (doneWith id c s) :=
  (PK.of (s := s) (t := updFrame id (fun f => { f with wants := f.wants.filter fun w => w != c }) s) rfl rfl).trans (settle_PK _ _)

theorem finishTx_PK (l s) : PK s (finishTx l s) := by
  induction l generalizing s with
  | nil => exact .refl
  | cons w r ih =>
    unfold finishTx
    refine PK.trans ?_ (ih _)
    split
    · simp only
      split
      · exact .of (by simp [onChain]) (by simp [onChain])
      · exact .of (by simp [onChain]) (by simp [onChain])
    · exact .refl

theorem txEnds_PK (f p t s) : PK s (txEnds f p t s) := by
  unfold txEnds; split
  · simp only; exact PK.trans (.of (by simp only [onChain]) (by simp only [onChain])) (finishTx_PK _ _)
  · exact .refl

theorem freshFree_PK (s) : PK s (freshFree s).2 := .of rfl rfl

theorem clearStale_PK (s) : PK s (clearStale s) := .of rfl rfl

theorem onChain_PK {f s} (h : ∀ c, (f c).ports = c.ports) : PK s (onChain f s) := .of (h _) rfl

/-- What cutting a reception or a transmission does to the ports: of port `p` the frame received or sent is gone and its queue is
a part of what it was; every other port keeps all but its credit counters. -/
structure Cut (p : Nat) (rx tx : Bool) (s t : State) : Prop where
  me : ∃ c d e, portOf t p =
    { portOf s p with cred := c, cutCnt := d, discard := e, rx := if rx then none else (portOf s p).rx, tx := if tx then none else (portOf s p).tx, queue := (portOf t p).queue }
  sub : ∀ x ∈ (portOf t p).queue, x ∈ (portOf s p).queue
  others : ∀ q, q ≠ p → { portOf t q with cred := [] } = { portOf s q with cred := [] }

theorem Cut.refl {p s} : Cut p false false s s :=
  ⟨⟨(portOf s p).cred, (portOf s p).cutCnt, (portOf s p).discard, by simp⟩, fun _ h => h, fun _ _ => rfl⟩

/-- Ports that agree but for their credit counters. -/
theorem eqcred {x y : Port} (h : ({ x with cred := [] } : Port) = { y with cred := [] }) : x = { y with cred := x.cred } := by
  cases x; cases y; simp_all

theorem Cut.pk {p a b s t u} (h : Cut p a b s t) (k : PK t u) : Cut p a b s u := by
  obtain ⟨⟨c, d, e, hm⟩, hs, ho⟩ := h
  have := eqcred (k p)
  refine ⟨⟨(portOf u p).cred, d, e, ?_⟩, ?_, fun q hq => (k q).trans (ho q hq)⟩
  · rw [this, hm]
  · intro x hx; rw [this] at hx; exact hs x hx

theorem Cut.pkl {p a b s t u} (k : PK s t) (h : Cut p a b t u) : Cut p a b s u := by
  obtain ⟨⟨c, d, e, hm⟩, hs, ho⟩ := h
  have := eqcred (k p)
  refine ⟨⟨c, d, e, ?_⟩, ?_, fun q hq => (ho q hq).trans (k q)⟩
  · rw [this] at hm; exact hm
  · intro x hx; have := hs x hx; rw [eqcred (k p)] at this; exact this

theorem Cut.trans {p a b a' b' s t u} (h : Cut p a b s t) (g : Cut p a' b' t u) : Cut p (a || a') (b || b') s u := by
  obtain ⟨⟨c, d, e, hm⟩, hs, ho⟩ := h
  obtain ⟨⟨c', d', e', hm'⟩, hs', ho'⟩ := g
  refine ⟨⟨c', d', e', ?_⟩, fun x hx => hs x (hs' x hx), fun q hq => (ho' q hq).trans (ho q hq)⟩
  rw [hm', hm]; cases a <;> cases a' <;> cases b <;> cases b' <;> simp

/-- A cut reception (R469). -/
theorem cutRx_cut (p n s) : Cut p true false s (cutRx p n s) := by
  unfold cutRx; split
  · next h => exact ⟨⟨(portOf s p).cred, (portOf s p).cutCnt, (portOf s p).discard, by simp [← h]⟩, fun _ h => h, fun _ _ => rfl⟩
  · next r hr =>
    simp only
    have base : ∀ S, PK s S → Cut p true false s (clearStale (onChain (fun c => { c with free := c.free + r.cells }) (updPort p (fun x => { x with rx := none, cutCnt := satAdd 65535 x.cutCnt 1 }) S))) := by
      intro S hS
      refine Cut.pkl hS ?_
      refine Cut.pk (t := updPort p (fun x => { x with rx := none, cutCnt := satAdd 65535 x.cutCnt 1 }) S) ?_ ((onChain_PK (f := fun c => { c with free := c.free + r.cells }) (by intro; rfl)).trans (clearStale_PK _))
      refine ⟨⟨(portOf S p).cred, satAdd 65535 (portOf S p).cutCnt 1, (portOf S p).discard, ?_⟩, ?_, ?_⟩
      · simp
      · simp
      · intro q hq; simp [hq]
    split
    · next id _ =>
      have B := base (putCred s p r.prio { credOf s p r.prio with freed := ((credOf s p r.prio).freed + n) % 8192 }) (putCred_PK _ _ _ _)
      refine Cut.pk ?_ (settle_PK _ _)
      exact Cut.pk B (onChain_PK (f := fun c => { c with frames := c.frames.map fun x => if x.id = id then { x with bad := true, whole := true } else x }) (by intro; rfl))
    · exact base _ (putCred_PK _ _ _ _)

/-- A cut transmission (R469). -/
theorem cutTx_cut (p s) : Cut p false true s (cutTx p s) := by
  unfold cutTx; split
  · next h => exact ⟨⟨(portOf s p).cred, (portOf s p).cutCnt, (portOf s p).discard, by simp [← h]⟩, fun _ h => h, fun _ _ => rfl⟩
  · simp only
    have base : Cut p false true s (updPort p (fun x => { x with tx := none, cutCnt := satAdd 65535 x.cutCnt 1 }) s) := by
      refine ⟨⟨(portOf s p).cred, satAdd 65535 (portOf s p).cutCnt 1, (portOf s p).discard, ?_⟩, ?_, ?_⟩
      · simp
      · simp
      · intro q hq; simp [hq]
    split
    · generalize updPort p _ s = S at base ⊢
      exact (((base.pk (freshFree_PK S)).pk (putCred_PK _ _ _ _)).pk (doneWith_PK _ _ _)).pk (txEnds_PK _ _ _ _)
    · exact base

/-- A discarded queue: none of the listed frames is left in it. -/
theorem discardQueue_cut (p l s) : Cut p false false s (discardQueue p l s) ∧ ∀ x ∈ (portOf (discardQueue p l s) p).queue, x ∉ l := by
  induction l generalizing s with
  | nil => exact ⟨.refl, by simp⟩
  | cons i r ih =>
    unfold discardQueue
    simp only
    have base : Cut p false false s (updPort p (fun x => { x with queue := x.queue.filter (fun y => y != i), discard := satAdd 65535 x.discard 1 }) s) := by
      refine ⟨⟨(portOf s p).cred, (portOf s p).cutCnt, satAdd 65535 (portOf s p).discard 1, ?_⟩, ?_, ?_⟩
      · simp
      · intro x hx; simp at hx; exact hx.1
      · intro q hq; simp [hq]
    have b2 : ∀ x ∈ (portOf (updPort p (fun x => { x with queue := x.queue.filter (fun y => y != i), discard := satAdd 65535 x.discard 1 }) s) p).queue, x ≠ i := by
      intro x hx; simp at hx; exact hx.2
    generalize updPort p _ s = S at *
    have step : Cut p false false S (match frameOf s i with | some f => txEnds f p none (doneWith i (.egress p) S) | none => S) := by
      split
      · exact (Cut.refl.pk (doneWith_PK _ _ _)).pk (txEnds_PK _ _ _ _)
      · exact .refl
    have key : ∀ f, Cut p false false S (match (f : Option PoolFrame) with | some f => txEnds f p none (doneWith i (.egress p) S) | none => S) := by
      intro f; cases f
      · exact .refl
      · exact (Cut.refl.pk (doneWith_PK _ _ _)).pk (txEnds_PK _ _ _ _)
    have all := fun f => (base.trans (key f)).trans (ih _).1
    refine ⟨all _, ?_⟩
    intro x hx
    have h1 := (ih _).2 x hx
    have h2 := b2 x ((key _).sub x ((ih _).1.sub x hx))
    simp [h1, h2]

/-- A port has left its link-up period (R459 R469): nothing is received, sent or queued. -/
structure Left (p : Nat) (s t : State) : Prop where
  me : ∃ c d e, portOf t p =
    { portOf s p with cred := c, cutCnt := d, discard := e, rx := none, tx := none, queue := [], period := (portOf s p).period + 1 }
  others : ∀ q, q ≠ p → { portOf t q with cred := [] } = { portOf s q with cred := [] }

theorem leaveLink_n {p r s} (n : Nat) (L : State) (hl : L = (if r = true then raise (256 + p) (clearStale (updPort p (fun x =>
    { x with period := x.period + 1 }) (discardQueue p (portOf (cutTx p (cutRx p n s)) p).queue (cutTx p (cutRx p n s))))) else clearStale (updPort p (fun x => { x with period := x.period + 1 }) (discardQueue p (portOf (cutTx p (cutRx p n s)) p).queue (cutTx p (cutRx p n s)))))) : Left p s L ∧ (r = true → Drives (256 + p) L)
    ∧ (r = false → L.faults = s.faults) ∧ (∀ m, Drives m s → Drives m L) := by
  subst hl
  have h1 := (cutRx_cut p n s).trans (cutTx_cut p (cutRx p n s))
  have h2 := discardQueue_cut p (portOf (cutTx p (cutRx p n s)) p).queue (cutTx p (cutRx p n s))
  have h3 := h1.trans h2.1
  have h4 : ∀ x ∈ (portOf (discardQueue p (portOf (cutTx p (cutRx p n s)) p).queue (cutTx p (cutRx p n s))) p).queue, False := fun x hx => h2.2 x hx (h2.1.sub x hx)
  have hq := List.eq_nil_iff_forall_not_mem.2 h4
  have hF : (discardQueue p (portOf (cutTx p (cutRx p n s)) p).queue (cutTx p (cutRx p n s))).faults = s.faults :=
    SameBut.faults_eq (discardQueue_frame (l := [.freeCtr, .rings, .chain]) (by decide) (cutTx_frame (by decide) (cutRx_frame (by decide) SameBut.refl)))
  generalize discardQueue p (portOf (cutTx p (cutRx p n s)) p).queue (cutTx p (cutRx p n s)) = D at *
  have hL : Left p s (clearStale (updPort p (fun x => { x with period := x.period + 1 }) D)) := by
    obtain ⟨⟨c, d, e, hm⟩, hs, ho⟩ := h3
    refine ⟨⟨c, d, e, ?_⟩, ?_⟩
    · rw [clearStale_portOf, portOf_updPort, if_pos rfl, hm, hq]; rfl
    · intro q hq; rw [clearStale_portOf, portOf_updPort, if_neg hq]; exact ho q hq
  have hG : (clearStale (updPort p (fun x => { x with period := x.period + 1 }) D)).faults = s.faults := hF
  generalize clearStale (updPort p (fun x => { x with period := x.period + 1 }) D) = E at *
  have hd : ∀ m, Drives m s → Drives m E := fun m x => by unfold Drives; rw [hG]; exact x
  cases r
  · simp only [Bool.false_eq_true, if_false]
    exact ⟨hL, by simp, fun _ => hG, hd⟩
  · simp only [if_true]
    refine ⟨⟨?_, ?_⟩, fun _ => raise_drives _ _, by simp, ?_⟩
    · simp only [raise_portOf]; exact hL.me
    · simp only [raise_portOf]; exact hL.others
    · intro m x
      simp only [Drives, raise_drive]; have := hd m x; unfold Drives at this; rw [this]; rfl

/-- Leaving link-up (R459): with its event where the fault is raised. -/
theorem leaveLink_left {p r s} (h : linkUp (portOf s p) = true) : Left p s (leaveLink p r s) ∧ (r = true → Drives (256 + p) (leaveLink p r s))
    ∧ (r = false → (leaveLink p r s).faults = s.faults) ∧ (∀ m, Drives m s → Drives m (leaveLink p r s)) := by
  refine leaveLink_n (match (portOf s p).rx with | some r => r.cells | none => 0) _ ?_
  unfold leaveLink; exact if_pos h

theorem Left.others_stay {p s t} (h : Left p s t) : OthersStay p s t := by
  intro q hq
  have := eqcred (h.others q hq)
  rw [this]; exact ⟨rfl, rfl, rfl, rfl, rfl, rfl⟩

/-- Leaving link-up for Lock. -/
theorem down_all {p r s} (h : linkUp (portOf s p) = true) : Restarts p (enterLock p (leaveLink p r s))
    ∧ LinkEnds p s (enterLock p (leaveLink p r s)) ∧ OthersStay p s (enterLock p (leaveLink p r s))
    ∧ (r = true → Drives (256 + p) (enterLock p (leaveLink p r s))) ∧ (r = false → (enterLock p (leaveLink p r s)).faults = s.faults)
    ∧ (∀ m, Drives m s → Drives m (enterLock p (leaveLink p r s))) ∧ (portOf (enterLock p (leaveLink p r s)) p).signal = (portOf s p).signal
    ∧ (portOf (enterLock p (leaveLink p r s)) p).neighOk = (portOf s p).neighOk := by
  obtain ⟨a, b, c, d⟩ := leaveLink_left (r := r) h
  have ho := a.others_stay
  obtain ⟨x, y, z, hm⟩ := a.me
  generalize leaveLink p r s = L at *
  refine ⟨?_, ?_, ?_, b, c, d, ?_, ?_⟩
  · unfold Restarts enterLock; simp
  · unfold LinkEnds enterLock; simp [hm]
  · intro q hq; have := ho q hq; unfold enterLock; simp only [portOf_updPort, if_neg hq]; exact this
  · unfold enterLock; simp [hm]
  · unfold enterLock; simp [hm]

/-- A port that goes down from link-up. -/
theorem portDown_all {p s} (h : linkUp (portOf s p) = true) : Restarts p (portDown p true s) ∧ LinkEnds p s (portDown p true s)
    ∧ OthersStay p s (portDown p true s)
    ∧ Drives (256 + p) (portDown p true s)
    ∧ (∀ m, Drives m s → Drives m (portDown p true s)) ∧ (portOf (portDown p true s) p).signal = (portOf s p).signal
    ∧ (portOf (portDown p true s) p).neighOk = (portOf s p).neighOk := by
  unfold portDown; rw [if_pos h]
  obtain ⟨a, b, c, d, e, f, g, g'⟩ := down_all (r := true) h
  exact ⟨a, b, c, d rfl, f, g, g'⟩

/-- An ordered set that is heard takes effect. -/
theorem onOs_hears {s p kind v f} (h : Hears s p kind v) : onOs p kind v f s = .next (f s) := by
  unfold onOs; simp [h.1, h.2.1, h.2.2]

/-- Entering Lock leaves every other port. -/
theorem enterLock_others {p s} : OtherPorts p s (enterLock p s) := by intro q hq; unfold enterLock; simp [hq]

/-- Entering Lock trains afresh (R457). -/
theorem enterLock_restarts {p s} : Restarts p (enterLock p s) := by unfold Restarts enterLock; simp

theorem othersStay_of {p s t} (h : OtherPorts p s t) : OthersStay p s t := fun q hq => by rw [h q hq]; exact ⟨rfl, rfl, rfl, rfl, rfl, rfl⟩

/-- The credit counters after a write of a port. -/
theorem credOf_putPort {s : State} {p x q k} : credOf (putPort s p x) q k = if q = p then Tab.get
    { adv := s.boot.adv, advUsed := s.boot.adv } x.cred k else credOf s q k := by
  unfold credOf; rw [portOf_putPort]; split <;> rfl

/-- A credit counter after a write of one. -/
theorem credOf_putCred {s : State} {p k x q j} : credOf (putCred s p k x) q j = if q = p ∧ j = k then x else credOf s q j := by
  unfold putCred; rw [credOf_putPort]
  by_cases hq : q = p
  · subst hq
    by_cases hj : j = k
    · simp [hj]
    · simp [hj, credOf]
  · simp [hq]

theorem linkUp_upd {x y : Port} (h : linkUp x = true) (e : y.st = x.st) : linkUp y = true := by unfold linkUp at *; rw [e]; exact h

/-- Leaving link-up does not itself change a port's state. -/
theorem leaveLink_st (p r s q) : (portOf (leaveLink p r s) q).st = (portOf s q).st := by
  by_cases h : linkUp (portOf s p) = true
  · obtain ⟨x, y, z, hm⟩ := (leaveLink_left (r := r) h).1.me
    by_cases hq : q = p
    · subst hq; rw [hm]
    · rw [eqcred ((leaveLink_left (r := r) h).1.others q hq)]
  · unfold leaveLink; rw [if_neg h]

/-- The states of the ports after one enters Lock. -/
theorem enterLock_st (p s q) : (portOf (enterLock p s) q).st = if q = p then .lock else (portOf s q).st := by
  simp only [enterLock, updPort, portOf_putPort]; split <;> rfl

/-- The states of the ports after one loses its lane (R459). -/
theorem portLose_st (p s q) : (portOf (portLose p s) q).st = if q = p then (if (portOf s p).st
    = .disabled then .disabled else .lock) else (portOf s q).st := by
  unfold portLose portDown
  simp only
  split
  · next h =>
    rw [enterLock_st, leaveLink_st]
    have : (portOf s p).st ≠ .disabled := by intro h2; rw [linkUp, h2] at h; exact absurd h (by decide)
    simp [this]
  · split
    · next h => by_cases hq : q = p <;> simp [hq, h]
    · next h => rw [enterLock_st]

end Sys2Proof.Machine
end

