-- ==== Sys2Proof/Laws/Clocks.lean ====
section
/-! SUPPORT. What re-basing, losing lock, judging holdover, stepping and running the time island do, and the event channels. -/

set_option autoImplicit false

-- One declaration after the other, without the linters of the library: many small theorems.
set_option Elab.async false
set_option linter.all false

namespace Sys2Proof.Machine

theorem domOf_congr {s t : State} (h : t.time.doms = s.time.doms) (hb : t.boot = s.boot) (k) : domOf t k = domOf s k := by unfold domOf; rw [h, hb]

theorem domTime_congr {s t : State} {k} (h : domOf t k = domOf s k) (hn : t.time.now = s.time.now) : domTime t k = domTime s k := by
  unfold domTime; rw [h, hn]

/-- Re-basing a domain keeps its time (R511). -/
theorem remap_time (d f s) (h : ∀ x, (f x).base = x.base ∧ (f x).at_ = x.at_) : domTime (remap d f s) d = domTime s d := by
  unfold remap
  show (let x := domOf (putDom s d (f { domOf s d with base := domTime s d, at_ := s.time.now })) d; x.base + (s.time.now - x.at_) + (s.time.now - x.at_) * x.ratio / 65536000000000) = _
  simp [h]

/-- The time island is kept but for the event channels; a source that drives still drives. -/
structure TK (s t : State) : Prop where
  doms : t.time.doms = s.time.doms
  now : t.time.now = s.time.now
  active : t.time.active = s.time.active
  slewTerm : t.time.slewTerm = s.time.slewTerm
  steps : t.time.steps = s.time.steps
  sw : t.time.switchTo = s.time.switchTo ∧ t.time.switches = s.time.switches ∧ t.time.autoSw = s.time.autoSw
  hold : t.time.holdover = s.time.holdover
  boot : t.boot = s.boot
  frm : t.frm = s.frm
  rings : t.rings = s.rings
  drv : ∀ m, Drives m s → Drives m t

theorem TK.refl {s} : TK s s := ⟨rfl, rfl, rfl, rfl, rfl, ⟨rfl, rfl, rfl⟩, rfl, rfl, rfl, rfl, fun _ h => h⟩

theorem TK.trans {s t u} (a : TK s t) (b : TK t u) : TK s u :=
  ⟨b.1.trans a.1, b.2.trans a.2, b.3.trans a.3, b.4.trans a.4, b.5.trans a.5, ⟨b.6.1.trans a.6.1, b.6.2.1.trans a.6.2.1, b.6.2.2.trans a.6.2.2⟩, b.7.trans a.7, b.8.trans a.8, b.9.trans a.9, b.10.trans a.10, fun m h => b.11 m (a.11 m h)⟩

theorem putTev_TK (s k x) : TK s (putTev s k x) := ⟨rfl, rfl, rfl, rfl, rfl, ⟨rfl, rfl, rfl⟩, rfl, rfl, rfl, rfl, fun _ h => h⟩

theorem emit_TK (e s) : TK s (emit e s) := ⟨rfl, rfl, rfl, rfl, rfl, ⟨rfl, rfl, rfl⟩, rfl, rfl, rfl, rfl, fun _ h => h⟩

theorem raise_TK (k s) : TK s (raise k s) :=
  ⟨by simp, by simp, by simp, by simp, by simp, ⟨by simp, by simp, by simp⟩, by simp, by simp, by simp, by simp, fun m h => by
  simp only [Drives, raise_drive] at *; rw [h]; rfl⟩

theorem setTevPin_TK (k b s) : TK s (setTevPin k b s) := by
  unfold setTevPin; simp only; split
  · exact .refl
  · exact (putTev_TK _ _ _).trans (emit_TK _ _)

theorem tevFire_TK (k s) : TK s (tevFire k s) := by
  unfold tevFire; simp only; split
  · exact .refl
  · exact (putTev_TK _ _ _).trans (setTevPin_TK _ _ _)

theorem tevMissN_TK (f : Nat → Nat) (s : State) : TK s (onTim (fun x => { x with tevMiss := f x.tevMiss }) s) :=
  ⟨rfl, rfl, rfl, rfl, rfl, ⟨rfl, rfl, rfl⟩, rfl, rfl, rfl, rfl, fun _ h => h⟩

theorem tevAtStep_TK (b k s) : TK s (tevAtStep b k s) := by
  unfold tevAtStep; simp only
  (repeat' split)
  · exact .refl
  · exact .refl
  · exact (putTev_TK _ _ _).trans (tevFire_TK _ _)
  · exact (putTev_TK _ _ _).trans (tevFire_TK _ _)
  · refine TK.trans ?_ (raise_TK _ _)
    refine TK.trans ?_ (tevMissN_TK (fun y => satAdd (2 ^ 32 - 1) y (((outTime s - (tevOf s k).next) / (tevOf s k).period).toNat)) _)
    exact (putTev_TK _ _ _).trans (tevFire_TK _ _)
  · exact putTev_TK _ _ _
  · exact .refl

theorem tevsAtStep_TK (b n) : ∀ s, TK s (tevsAtStep b n s) := by
  induction n with
  | zero => intro s; exact .refl
  | succ n ih => intro s; exact (ih s).trans (tevAtStep_TK _ _ _)

/-- What a step of the output time does (R516 R521) before the event channels follow. -/
theorem stepped_all (d : Int) (s : State) : ∃ u, TK u (outputStepped d s) ∧ u.time = { s.time with steps := satAdd 65535 s.time.steps 1 } ∧ u.frm =
    { s.frm with steps := s.frm.steps + d, stepsG := u.frm.stepsG, fell := u.frm.fell } ∧ u.boot = s.boot ∧ u.rings = s.rings ∧ Drives 324 u ∧ ∀ m, Drives m s → Drives m u := by
  refine ⟨_, tevsAtStep_TK _ _ _, ?_, ?_, ?_, ?_, raise_drives _ _, fun m h => ?_⟩
  · simp [onTim]
  · simp only [raise_frm]; rfl
  · simp [onTim]
  · simp [onTim]
  · have h' : (frameStepped d (onTim (fun t => { t with steps := satAdd 65535 t.steps 1 }) s)).faults.drive.testBit m = true := h
    simp only [Drives, raise_drive]; rw [h']; rfl

/-- Judging holdover writes the flag and raises `TIM_HOLDOVER` where it begins (R514). -/
theorem judge_all (s : State) : (∀ k, domOf (judgeHoldover s) k = domOf s k) ∧ (judgeHoldover s).time =
    { s.time with holdover := (domOf s s.time.active).holdover && !(domOf s (1 - s.time.active)).locked }
    ∧ (judgeHoldover s).boot = s.boot ∧ (judgeHoldover s).rings = s.rings ∧ (judgeHoldover s).frm = s.frm ∧ (∀ m, Drives m s → Drives m (judgeHoldover s))
    ∧ (∀ m, m ≠ 323 → (judgeHoldover s).faults.drive.testBit m = s.faults.drive.testBit m)
    ∧ (((domOf s s.time.active).holdover && !(domOf s (1 - s.time.active)).locked) = true → s.time.holdover = false → Drives 323 (judgeHoldover s)) := by
  unfold judgeHoldover; simp only
  generalize hh : ((domOf s s.time.active).holdover && !(domOf s (1 - s.time.active)).locked) = h
  have base : ∀ b, (∀ k, domOf (onTim (fun x => { x with holdover := b }) s) k = domOf s k) := fun b k => rfl
  split
  · refine ⟨fun k => domOf_congr (by simp [onTim]) (by simp [onTim]) k, by simp [onTim], by simp [onTim], by simp [onTim], by simp [onTim], ?_, ?_, ?_⟩
    · intro m hm; simp only [Drives, raise_drive, onTim] at *; rw [hm]; rfl
    · intro m hm; rw [raise_drive]; simp [Ne.symm hm, onTim]
    · intro _ _; exact raise_drives _ _
  · next hn =>
    refine ⟨fun k => rfl, rfl, rfl, rfl, rfl, fun m hm => hm, fun m _ => rfl, ?_⟩
    intro h1 h2; simp [h1, h2] at hn

/-- The loss of lock of a domain (R511 R514). -/
theorem loseLock_all (d : Nat) (s : State) : (∀ e, e ≠ d → domOf (loseLock d s) e = domOf s e) ∧ domOf (loseLock d s) d =
    { domOf s d with locked := false, good := 0, holdover := (domOf s d).holdover || (domOf s d).locked }
    ∧ (loseLock d s).time.now = s.time.now ∧ (loseLock d s).time.active = s.time.active ∧ (loseLock d s).time.steps = s.time.steps ∧ (loseLock d s).time.slewTerm = s.time.slewTerm
    ∧ (loseLock d s).boot = s.boot ∧ (loseLock d s).frm = s.frm
    ∧ ((domOf s d).locked = true → Drives (320 + d) (loseLock d s)) ∧ (∀ m, Drives m s → Drives m (loseLock d s))
    ∧ ((domOf s d).locked = true → (loseLock d s).time.switchTo = s.time.switchTo ++ (if s.time.autoSw = true ∧ d = s.time.active ∧ (domOf s (1 - d)).locked = true then [(1 - d, none)] else []))
    ∧ ((domOf s d).locked = true → d = s.time.active → (domOf s (1 - d)).locked = false → (loseLock d s).time.holdover = true ∧ (s.time.holdover = false → Drives 323 (loseLock d s))) := by
  have ne : 1 - d ≠ d := by omega
  unfold loseLock; simp only
  generalize hP : putDom s d _ = P
  have p1 : ∀ e, e ≠ d → domOf P e = domOf s e := by intro e he; rw [← hP]; simp [he]
  have p2 : domOf P d = { domOf s d with locked := false, good := 0, holdover := (domOf s d).holdover || (domOf s d).locked } := by rw [← hP]; simp
  have p3 : P.time.now = s.time.now ∧ P.time.active = s.time.active ∧ P.time.steps = s.time.steps ∧ P.time.slewTerm = s.time.slewTerm ∧ P.boot = s.boot ∧ P.frm = s.frm ∧ P.faults = s.faults ∧ P.time.switchTo = s.time.switchTo ∧ P.time.autoSw = s.time.autoSw ∧ P.time.holdover = s.time.holdover := by
    rw [← hP]; exact ⟨rfl, rfl, rfl, rfl, rfl, rfl, rfl, rfl, rfl, rfl⟩
  clear hP
  obtain ⟨n1, n2, n3, n4, n5, n6, n7, n8, n9, n10⟩ := p3
  by_cases hl : (domOf s d).locked = true
  · rw [if_pos hl]
    generalize hR : raise (320 + d) P = R
    have r1 : ∀ e, domOf R e = domOf P e := by intro e; rw [← hR]; exact domOf_congr (by simp) (by simp) e
    have r2 : R.time = P.time ∧ R.boot = P.boot ∧ R.frm = P.frm := by rw [← hR]; exact ⟨by simp, by simp, by simp⟩
    have r3 : Drives (320 + d) R ∧ ∀ m, Drives m s → Drives m R := by
      rw [← hR]; refine ⟨raise_drives _ _, fun m h => ?_⟩
      simp only [Drives, raise_drive, n7] at *; rw [h]; rfl
    clear hR
    generalize hQ : (if R.time.autoSw && decide (d = R.time.active) && (domOf R (1 - d)).locked then sendSwitch (1 - d) none R else R) = Q
    have q1 : ∀ e, domOf Q e = domOf P e := by
      intro e; rw [← hQ, ← r1 e]; split <;> rfl
    have q2 : Q.time = { P.time with switchTo := s.time.switchTo ++ (if s.time.autoSw = true ∧ d = s.time.active ∧ (domOf s (1 - d)).locked = true then [(1 - d, none)] else []) } := by
      have hc : (domOf R (1 - d)).locked = (domOf s (1 - d)).locked := by rw [r1, p1 _ ne]
      rw [hc, r2.1, n9, n2] at hQ
      rw [← hQ]
      by_cases h : s.time.autoSw = true ∧ d = s.time.active ∧ (domOf s (1 - d)).locked = true
      · rw [if_pos h, if_pos (by rw [h.1, ← h.2.1, h.2.2]; simp)]; simp [sendSwitch, onTim, r2.1, n8]
      · rw [if_neg h, if_neg (by simpa [and_assoc] using h)]; simp [r2.1, ← n8]
    have q3 : Q.boot = P.boot ∧ Q.frm = P.frm ∧ Q.faults = R.faults := by rw [← hQ, ← r2.2.1, ← r2.2.2]; split <;> exact ⟨rfl, rfl, rfl⟩
    clear hQ
    obtain ⟨j1, j2, j3, j4, j5, j6, j7, j8⟩ := judge_all Q
    refine ⟨fun e he => by rw [j1, q1, p1 e he], by rw [j1, q1, p2], ?_, ?_, ?_, ?_, ?_, ?_, fun _ => ?_, fun m h => ?_, fun _ => ?_, fun _ ha ho => ?_⟩
    · rw [j2, q2]; exact n1
    · rw [j2, q2]; exact n2
    · rw [j2, q2]; exact n3
    · rw [j2, q2]; exact n4
    · rw [j3, q3.1, n5]
    · rw [j5, q3.2.1, n6]
    · exact j6 _ (by unfold Drives; rw [q3.2.2]; exact r3.1)
    · exact j6 _ (by unfold Drives; rw [q3.2.2]; exact r3.2 m h)
    · rw [j2, q2]
    · have hh : ((domOf Q Q.time.active).holdover && !(domOf Q (1 - Q.time.active)).locked) = true := by
        have : Q.time.active = d := by rw [q2]; exact n2.trans ha.symm
        rw [this, q1, q1, p2, p1 _ ne, ho, hl]; simp
      refine ⟨by rw [j2]; exact hh, fun h0 => j8 hh ?_⟩
      rw [q2]; exact n10.trans h0
  · rw [if_neg hl]
    refine ⟨p1, p2, n1, n2, n3, n4, n5, n6, fun h => absurd h hl, fun m h => by unfold Drives; rw [n7]; exact h, fun h => absurd h hl, fun h => absurd h hl⟩

/-- Running local time to an output time reaches it, or leaves a later one. -/
theorem advanceTo_out (x : Int) (s : State) : outTime (advanceTo x s) = max x (outTime s) := by
  unfold advanceTo; simp only; split
  · omega
  · next h =>
    generalize hR : runLocal (x - outTime s) s = R
    have : ∀ k e, outTime (putDom R k { domOf R k with base := (domOf R k).base + e }) = outTime R + (if k = R.time.active then e else 0) := by
      intro k e
      have h1 : (putDom R k { domOf R k with base := (domOf R k).base + e }).time.active = R.time.active := rfl
      have h2 : (putDom R k { domOf R k with base := (domOf R k).base + e }).time.now = R.time.now := rfl
      have h3 : (putDom R k { domOf R k with base := (domOf R k).base + e }).time.slewTerm = R.time.slewTerm := rfl
      unfold outTime domTime
      rw [h1, h2, h3]; simp only [domOf_putDom]
      by_cases hk : k = R.time.active
      · subst hk; simp only [if_true]; omega
      · rw [if_neg (Ne.symm hk), if_neg hk]; omega
    rw [this, if_pos rfl]; omega

theorem tevOf_advance (x s k) : tevOf (advanceTo x s) k = tevOf s k := by
  unfold advanceTo; simp only; split <;> rfl

/-- A write of an event pin. -/
theorem setTevPin_tev (k b s) : (∀ j, j ≠ k → tevOf (setTevPin k b s) j = tevOf s j) ∧ tevOf (setTevPin k b s) k = (if 8 ≤ k then tevOf s k else
    { tevOf s k with level := b }) := by
  unfold setTevPin; simp only; split
  · next h =>
    refine ⟨fun _ _ => rfl, ?_⟩
    split
    · rfl
    · next h2 => rcases h with h | h; exact absurd h h2; rw [← h]
  · next h =>
    refine ⟨fun j hj => by simp [emit, tevOf, putTev, hj], ?_⟩
    rw [if_neg (by omega)]; simp [emit, tevOf, putTev]

/-- A firing event channel: the pulse begins unless one runs (R519). -/
theorem tevFire_tev (k s) : (∀ j, j ≠ k → tevOf (tevFire k s) j = tevOf s j) ∧ tevOf (tevFire k s) k = (if 8 ≤ k ∨ (tevOf s k).pulse
    = true then tevOf s k else { tevOf s k with pulse := true, level := !tevIdle (tevOf s k) }) := by
  unfold tevFire; simp only; split
  · exact ⟨fun _ _ => rfl, rfl⟩
  · next h =>
    obtain ⟨a, b⟩ := setTevPin_tev k (!tevIdle (tevOf s k)) (putTev s k { tevOf s k with pulse := true })
    refine ⟨fun j hj => by rw [a j hj]; simp [hj], ?_⟩
    rw [b, if_neg (by omega)]; simp

theorem outTime_TK {s t} (h : TK s t) : outTime t = outTime s := by
  unfold outTime; rw [h.active, h.slewTerm, domTime_congr (domOf_congr h.doms h.boot _) h.now]

/-- An arming that applies now (R518 R519). -/
theorem tevArmNow_tev (k m a p w s) : (∀ j, j ≠ k → tevOf (tevArmNow k m a p w s) j = tevOf s j) ∧ (tevOf (tevArmNow k m a p w s) k).mode = m
   ∧ (m % 4 ≠ 0 → outTime s ≤ a → tevLive (tevOf (tevArmNow k m a p w s) k) = true ∧ (tevOf (tevArmNow k m a p w s) k).next = a
    ∧ (tevOf (tevArmNow k m a p w s) k).pulse = (tevOf s k).pulse ∧ (tevOf (tevArmNow k m a p w s) k).period = p)
   ∧ (m % 4 = 1 → a < outTime s → tevLive (tevOf (tevArmNow k m a p w s) k) = false ∧ (k < 8 → (tevOf s k).pulse = false
    → (tevOf (tevArmNow k m a p w s) k).pulse = true ∧ (tevOf (tevArmNow k m a p w s) k).level = !m.testBit 2))
   ∧ (m % 4 ≠ 1 ∨ outTime s ≤ a → k < 8 → (tevOf (tevArmNow k m a p w s) k).level = m.testBit 2) := by
  unfold tevArmNow; simp only
  by_cases h0 : m % 4 = 0
  · rw [if_pos h0]
    obtain ⟨x, y⟩ := setTevPin_tev k (tevIdle (tevOf (putTev s k { tevOf s k with mode := m, fired := false }) k)) (putTev s k { tevOf s k with mode := m, fired := false })
    refine ⟨fun j hj => by rw [x j hj]; simp [hj], ?_, by omega, by omega, ?_⟩
    · rw [y]; split <;> simp
    · intro _ hk; rw [y, if_neg (by omega)]; simp [tevIdle]
  · rw [if_neg h0]
    generalize hn : (if m % 4 = 2 ∧ decide (a < outTime s) = true then gridFrom a p (outTime s + nsTu 1000) else a) = nx
    have hnx : outTime s ≤ a → nx = a := by intro h; rw [← hn, if_neg]; simp; omega
    generalize hf : (decide (m % 4 = 1) && decide (a < outTime s)) = f
    obtain ⟨x, y⟩ := setTevPin_tev k (tevIdle (tevOf (putTev s k { tevOf s k with mode := m, start := a, period := p, width := w, next := nx, fired := f }) k)) (putTev s k { tevOf s k with mode := m, start := a, period := p, width := w, next := nx, fired := f })
    simp only [tevOf_putTev, if_true] at x y ⊢
    generalize setTevPin k _ _ = S at *
    cases f
    · simp only [Bool.false_eq_true, if_false]
      have hnot : ¬ (m % 4 = 1 ∧ a < outTime s) := by intro h; simp [h.1, h.2] at hf
      refine ⟨fun j hj => by rw [x j hj]; simp [hj], ?_, ?_, ?_, ?_⟩
      · rw [y]; split <;> rfl
      · intro _ h; rw [y]; refine ⟨?_, ?_, ?_, ?_⟩ <;> split <;> simp [tevLive, h0, hnx h]
      · intro h1 h2; exact absurd ⟨h1, h2⟩ hnot
      · intro _ hk; rw [y, if_neg (by omega)]; simp [tevIdle]
    · simp only [if_true]
      simp only [Bool.and_eq_true, decide_eq_true_eq] at hf
      obtain ⟨u, v⟩ := tevFire_tev k S
      refine ⟨fun j hj => by rw [u j hj, x j hj]; simp [hj], ?_, by omega, ?_, by omega⟩
      · rw [v, y]; (repeat' split) <;> rfl
      · intro h1 h2
        refine ⟨?_, fun hk hp => ?_⟩
        · rw [v, y]; (repeat' split) <;> simp [tevLive]
        · rw [v, y, if_neg (show ¬ 8 ≤ k by omega)]
          rw [if_neg (by simp [hp]; omega)]
          simp [tevIdle]

end Sys2Proof.Machine
end

