-- ==== Sys2Proof/Machine/Package.lean ====
section
/-! DEFINITION. The package: which net each ball carries (R558 to R566), and the level of each pin, in reset and while the chip
runs (R567 R568). -/

namespace Sys2Proof.Machine

/-- The nets of the package: the pins of each tile position, the SerDes pairs, the single pins, supplies and ground. -/
inductive Net where
  | sd (strip : Nat) | srt (strip : Nat) | sref (strip : Nat)
  | tsck (tile : Nat) | tlat (tile : Nat) | tsync (tile : Nat) | tscl (tile : Nat) | tsda (tile : Nat)
  | tprsN (tile : Nat) | taltN (tile : Nat) | ten (tile : Nat)
  | peRx (lane : Nat) (p : Bool) | peTx (lane : Nat) (p : Bool) | peRefclk (p : Bool) | perstN | clkreqN
  | chRx (port : Nat) (p : Bool) | chTx (port : Nat) (p : Bool) | crefclk (p : Bool)
  | hatch (b : Bool) | estop (b : Bool) | tp (b : Bool) | slo (b : Bool) | slofb (b : Bool)
  | safeOk | svcEnN | svcRxd | svcTxd
  | tev (k : Nat) | resetN | alertN | ntc (x : Nat) | rref | xin | xout
  | lx (phase : Nat) | vin | vcore | vcoreFb | vdd18 | vser | vhold | gnd
deriving DecidableEq, Repr

/-- The letters of the 37 rows, north to south (R558). -/
def rowNames : List String :=
  ["A", "B", "C", "D", "E", "F", "G", "H", "J", "K", "L", "M", "N", "P", "T", "U", "V", "W", "Y",
   "AA", "AB", "AC", "AD", "AE", "AF", "AG", "AH", "AJ", "AK", "AL", "AM", "AN", "AP", "AT", "AU", "AV", "AW"]

/-- The row of a letter, A as 0 (R558). -/
def rowOf (name : String) : Nat := rowNames.findIdx (· == name)

/-- Row k of the block of tile position n, counted from the package edge (R560). -/
def blockRow (n k : Nat) : Nat := if n < 4 then k else 36 - k

/-- Column k of the block of tile position n (R560). -/
def blockCol (n k : Nat) : Nat := 9 * (n % 4) + 1 + k

/-- The place of local index l in three rows of nine: a snake, so that neighbours are adjacent (R560 R561). -/
def snake (l : Nat) : Nat × Nat := if l ≤ 8 then (0, l) else if l ≤ 17 then (1, 17 - l) else (2, l - 18)

/-- The ball of a strip's pin, as row and column; b is 0 for `SDnnn`, 3 for `SRTnnn`, 6 for `SREFnnn` (R560). -/
def stripBall (b strip : Nat) : Nat × Nat :=
  let n := strip / 24
  (blockRow n (b + (snake (strip % 24)).1), blockCol n (snake (strip % 24)).2)

/-- Two balls are adjacent: neighbours in a row or a column (R558). -/
def adjacent (a b : Nat × Nat) : Bool :=
  (a.1 == b.1 && (a.2 + 1 == b.2 || b.2 + 1 == a.2)) || (a.2 == b.2 && (a.1 + 1 == b.1 || b.1 + 1 == a.1))

/-- The pins of row r9 of a tile block, c0 to c8 (R560). -/
def controlPin (n : Nat) : Nat → Net
  | 0 => .tsck n | 1 => .tlat n | 2 => .tsync n | 3 => .tscl n | 4 => .tsda n | 5 => .tprsN n | 6 => .taltN n | 7 => .ten n
  | _ => .gnd

/-- The net at row r and column c of the block of tile position n (R560). -/
def tileNet (n r c : Nat) : Net :=
  if r = 9 then controlPin n c
  else if r % 3 = 2 ∧ 6 ≤ c then .gnd
  else
    let strip := 24 * n + (match r % 3 with | 0 => c | 1 => 17 - c | _ => 18 + c)
    match r / 3 with
    | 0 => .sd strip
    | 1 => .srt strip
    | _ => .sref strip

/-- The west SerDes field (R562 R566), by row from A as 0 and column. -/
def westNet : Nat → Nat → Net
  | 11, 1 => .peRx 0 true | 12, 1 => .peRx 0 false | 11, 3 => .peTx 0 true | 12, 3 => .peTx 0 false
  | 14, 1 => .peRx 1 true | 15, 1 => .peRx 1 false | 14, 3 => .peTx 1 true | 15, 3 => .peTx 1 false
  | 17, 1 => .peRx 2 true | 18, 1 => .peRx 2 false | 17, 3 => .peTx 2 true | 18, 3 => .peTx 2 false
  | 20, 1 => .peRx 3 true | 21, 1 => .peRx 3 false | 20, 3 => .peTx 3 true | 21, 3 => .peTx 3 false
  | 24, 1 => .peRefclk true | 25, 1 => .peRefclk false | 24, 4 => .perstN | 25, 4 => .clkreqN
  | r, 4 => if 11 ≤ r ∧ r ≤ 22 then .vser else .gnd
  | _, _ => .gnd

/-- The east SerDes field (R562 R566). -/
def eastNet : Nat → Nat → Net
  | 11, 37 => .chRx 0 true | 12, 37 => .chRx 0 false | 11, 35 => .chTx 0 true | 12, 35 => .chTx 0 false
  | 21, 37 => .chRx 1 true | 22, 37 => .chRx 1 false | 21, 35 => .chTx 1 true | 22, 35 => .chTx 1 false
  | 16, 37 => .crefclk true | 17, 37 => .crefclk false
  | r, 34 => if 11 ≤ r ∧ r ≤ 22 then .vser else .gnd
  | _, _ => .gnd

/-- The safety and service pins, rows M to T (R563). -/
def safetyNet : Nat → Nat → Net
  | 11, 5 => .hatch false | 11, 6 => .estop false | 11, 8 => .hatch true | 11, 9 => .estop true
  | 12, 5 => .tp false | 12, 6 => .slo false | 12, 8 => .tp true | 12, 9 => .slo true
  | 13, 5 => .slofb false | 13, 6 => .vin | 13, 8 => .slofb true | 13, 9 => .vin
  | 14, 5 => .safeOk | 14, 6 => .svcEnN | 14, 8 => .svcRxd | 14, 9 => .svcTxd
  | _, _ => .gnd

/-- The other single pins, rows M to V (R564). -/
def singleNet : Nat → Nat → Net
  | 11, c => .tev (c - 28)
  | 12, 28 => .tev 6 | 12, 29 => .tev 7 | 12, 31 => .resetN | 12, 32 => .alertN
  | 13, 28 => .ntc 0 | 13, 32 => .ntc 1
  | 14, 30 => .rref
  | 15, 31 => .xin | 15, 32 => .xout
  | _, _ => .gnd

/-- The core region: supplies, the buck and the single pins (R563 to R566). -/
def coreNet (r c : Nat) : Net :=
  if r = 10 ∨ r = 26 then (if c % 2 = 1 then .vdd18 else .gnd)
  else if 11 ≤ r ∧ r ≤ 14 ∧ c ≤ 10 then safetyNet r c
  else if 11 ≤ r ∧ r ≤ 16 ∧ 28 ≤ c then singleNet r c
  else if 11 ≤ r ∧ r ≤ 22 ∧ 11 ≤ c ∧ c ≤ 27 then
    if r = 16 ∧ c = 19 then .vcoreFb
    else if r = 11 ∨ r = 22 then (if c % 2 = 1 then .vcore else .gnd)
    else if (r - 12 + c) % 2 = 1 then .vcore else .gnd
  else if 15 ≤ r ∧ r ≤ 22 ∧ c ≤ 6 then .vin
  else if 15 ≤ r ∧ r ≤ 22 ∧ (c = 9 ∨ c = 10) then .vdd18
  else if 17 ≤ r ∧ r ≤ 22 ∧ 28 ≤ c ∧ c ≤ 30 then .vdd18
  else if r = 23 then .vin
  else if r = 24 ∧ c ≤ 28 then .lx ((c + 1) / 6)
  else if r = 25 ∧ (c = 29 ∨ c = 30) then .vhold
  else .gnd

/-- The net of a ball, by row from A as 0 and column from 1 (R558 R559 R566). -/
def ballNet (r c : Nat) : Net :=
  if r ≤ 9 then (if c = 37 then (if r % 2 = 0 then .vdd18 else .gnd) else tileNet ((c - 1) / 9) r ((c - 1) % 9))
  else if 27 ≤ r then (if c = 37 then (if r % 2 = 0 then .vdd18 else .gnd) else tileNet (4 + (c - 1) / 9) (36 - r) ((c - 1) % 9))
  else if c ≤ 4 then westNet r c
  else if 34 ≤ c then eastNet r c
  else coreNet r c

/-- The net of a ball by its name: a row letter and a column (R558). -/
def ballNamed (row : String) (column : Nat) : Net := ballNet (rowOf row) column

/-! ### Levels (R567 R568) -/

/-- What a pin shows. -/
inductive Level where
  | low | high
  /-- an open drain that does not pull, a sink that is off. -/
  | released
  /-- an input: the level is the board's. -/
  | input
  /-- a differential pair in electrical idle, or under the link's own control. -/
  | idle | link
  /-- an oscillator, an analogue pin, a supply. -/
  | running | analogue | supply
deriving DecidableEq, Repr

/-- The state of a pin during chip reset (R567). -/
def resetLevel : Net → Level
  | .sd _ | .tsck _ | .tlat _ | .tsync _ | .ten _ | .tev _ | .alertN | .tp _ | .slo _ | .safeOk => .low
  | .svcTxd => .high
  | .sref _ | .tscl _ | .tsda _ | .taltN _ | .clkreqN => .released
  | .srt _ | .tprsN _ | .resetN | .perstN | .hatch _ | .estop _ | .slofb _ | .svcRxd | .svcEnN => .input
  | .xin | .xout => .running
  | .rref | .ntc _ => .analogue
  | .peRx _ _ | .peTx _ _ | .peRefclk _ | .chRx _ _ | .chTx _ _ | .crefclk _ => .idle
  | .lx _ | .vin | .vcore | .vcoreFb | .vdd18 | .vser | .vhold | .gnd => .supply

/-- A level that a flag drives. -/
def drive (b : Bool) : Level := if b then .high else .low

/-- `ALERT_N` is low (R568): until the collector starts, then while a fault of class MINOR or above is unacknowledged. -/
def alertLow (s : State) : Bool :=
  !s.faults.started || s.faults.slots.any fun e => e.2.unack.testBit 1 || e.2.unack.testBit 2 || e.2.unack.testBit 3

/-- The level of a pin between two events (R265 R338 R344 R520 R567 R568). `SDnnn`, `TSCKn`, `TLATn`, `TSYNCn` and the tile
bus rest as in reset between the transfers that the outputs record. -/
def pinLevel (s : State) (p : Net) : Level :=
  if s.power.held then resetLevel p
  else match p with
    | .ten n => drive (tileOf s n).enabled
    | .tev k => drive (tevOf s k).level
    | .tp b => drive (if b then s.safety.b.tp else s.safety.a.tp)
    | .slo b => drive (if b then s.safety.b.slo && !s.safety.b.outTest else s.safety.a.slo && !s.safety.a.outTest)
    | .safeOk => drive (safeOkPin s)
    | .alertN => if alertLow s then .low else .released
    | .clkreqN => if s.power.clkreqLow then .low else .released
    | .peRx _ _ | .peTx _ _ | .peRefclk _ | .chRx _ _ | .chTx _ _ | .crefclk _ => .link
    | p => resetLevel p

end Sys2Proof.Machine
end

