-- ==== Sys2Proof/WellFormed.lean ====
section
/-! DEFINITION. Which commands are well formed: operands within what the hardware can present. Index operands are bounded by
their types; the checks here are those that a type does not make. -/

namespace Sys2Proof

/-- The 24 streams of a tile, of 6 144 cells each (R226 R233). -/
def streamsOk (r : List StripRet) : Bool :=
  decide (r.length = 24) && r.all fun x => decide (x.cells.length = 6144) && decide (x.check < 2 ^ 32)

/-- The items that a step's memory check names are among the `n` that the step reads. -/
def eccOk (n : Nat) (ecc : EccSeen) : Bool := ecc.bad.all fun k => decide (k < n)

/-- Data of an identity step (R268 to R272, R277): a curve with its check, two ledger copies or their heads, a map, a
certificate. -/
def idStepOk : IdStep → Bool
  | .curve b => decide (b.length = 132)
  | .heads a b => decide (a.length = 64) && decide (b.length = 64)
  | .ledger a b ecc => decide (a.length = 73792) && decide (b.length = 73792) && eccOk 9216 ecc
  | .map b => decide (b.length = 147456)
  | .cert b => decide (b.length ≤ 1024)

/-- A command is well formed. -/
def wellFormed : Instr → Bool
  | .unsupportedRequest _ _ off _ => decide (off < 2 ^ 20)
  | .hostReadCompletion tag _ data => decide (tag < 1024) && decide (data.length ≤ 512)
  | .hostCplTmo tag => decide (tag < 1024)
  | .registerWrite off _ _ high => decide (off < 2 ^ 20) && decide (off % (if high.isSome then 8 else 4) = 0)
  | .shiftEnd _ rets => streamsOk rets
  | .latch _ seen => ((seen.sdBad ++ seen.srefMoved).all fun i => decide (i < 192)) && seen.refused.all fun i => decide (i < 24)
  | .sliceStart _ _ telem => telem.all fun e => decide (e.1 < 24)
  | .tileHeaderCheck _ header => decide (header.length = 256)
  | .descriptorConsumed _ ecc => eccOk 64 ecc
  | .boundaryFlip ecc => eccOk (12 * 2 ^ 20 / 64) ecc
  | .shift _ ecc => eccOk (384 * 768) ecc
  | .ledgerTap _ ecc => eccOk 9216 ecc
  | .tileIdentityStep _ data => idStepOk data
  | .challengePoll _ _ response => decide (response.length = 64)
  | .commitReadback _ bytes => decide (bytes.length = 73792)
  | .mapRereadComplete _ map => decide (map.length = 147456)
  | .frondSelftestEnd _ code => decide (1 ≤ code) && decide (code ≤ 5)
  | .egDiverse _ _ streams => streamsOk streams
  | .refRref base => decide (base < 2 ^ 16)
  | .calResult _ ratios => decide (ratios.length = 2)
  | .sensorReading readings => decide (readings.map fun r => r.sensor).Nodup
  | .frameHeaderParsed _ bytes => decide (bytes.length = 64)
  | .frameReceived _ bytes _ _ => decide (64 ≤ bytes.length)
  | .ptpSync _ m => decide (m.seq < 2 ^ 16)
  | .delayResp _ m => decide (m.seq < 2 ^ 16)
  | .bootCheck b => b.unreadable.all fun p => decide (p < 9504)
  | .linkUp width speed => decide (width ≤ 2) && decide (speed ≤ 2)
  | .vinRisePor | .porRelease _ _ | .resetNRelease _ | .resetNLow | .resetNStuck _ | .resetNHonoured | .vinSlow
  | .sagDwell | .vinSlowRelease | .saveSequence | .sagRelease _ | .vinStop | .vinRemoval | .railUndervoltage _
  | .vholdReady | .vholdReadyTimeout | .vholdFall | .buckPhase _ | .clockReferenceFail _ | .clockReferenceReturn _
  | .pwrMonUpdate _ _ | .swrstKey _ _ | .safetySelftest _ _ | .nvmInhibitTrip | .nvmInhibitRelease | .thermalShutdown
  | .perstNAssert | .hotReset | .linkDisable | .surpriseLinkDown | .dmaResume | .frmNumCapture | .timNowCapture
  | .apply _ _ | .protSet _ | .sqTailDoorbell _ _ _ | .fenceKick _ _ _ | .cqHeadDoorbell _ _ _ | .sqEnable _ _ _
  | .sqDrain _ _ _ | .cqEnable _ _ _ | .cqDisable _ _ _ | .irqEnWrite _ _ _ | .descriptorFetch _
  | .dispatch _ | .completionPost | .eventPost | .hostSilent | .nop _ | .layerSet _
  | .layerCommit _ | .cacheLoad _ | .cacheEvict _ | .fencePollTick | .fencePollResult _ _ | .frameBoundary
  | .latchGapStart | .cutPoint | .compositionEnd | .fenceTmo _ | .fetchTmo _ | .staticPictureEntry
  | .frameCtrl _ | .stripSet _ | .tileInsertion _ | .tileRemoval _ | .tileAlert _ _ | .tileBusRetry _ _ _
  | .challengeTimeout _ | .gainRecompute | .periodicLedgerCommit | .status _ | .release _ | .rescan _
  | .idRead _ | .orphanInfo _ | .orphanClear _ | .returnTile _ | .ledgerRead _ | .ledgerCommit _ | .diagRead _
  | .heartbeatCheck _ _ _ _ | .probePeriod | .takeoverComplete _ | .frondStale _ _ | .frondReinstate _ | .safetyInputDemand _ _
  | .demandSignal _ _ | .safDisc _ _ | .discrepancyClear _ _ | .demandEnd _ _ | .crossLinkExchange _ | .crossLinkLoss _
  | .crossLinkDisagree _ | .inputTestPulse _ | .safTpi _ _ | .outputTestPulse _ | .outputTestVerdict _ _ _
  | .feedbackCheck _ _ | .safeWrite _ | .safeRead _ | .safeConfirm _ | .safetySetInForce | .safeLock _ _
  | .faultSourceEvent _ | .fltWire _ _ | .windowExpiry _ | .faultAck _ | .faultInject _ | .injectionTimeout | .rearm _
  | .logCopy | .calRun _ | .thermalDemand | .thermMeasure _ | .throttleRelease _ | .unfreeze _ _ | .portEnable _ _ _
  | .portDisable _ _ _ | .retrain _ _ _ | .blockLock _ | .blockLockLoss _ | .lossOfSignal _ | .signalDetect _
  | .cap _ _ | .creditInit _ _ | .credit _ _ | .stepRequest _ _ | .stepAccept _ _ | .stepRefuse _ _ | .stepResult _ _
  | .stepUpStart _ | .stepAcceptTimeout _ | .stepSwitchTimeout _ | .stepTrialEnd _ | .sleep _ _ | .wake _ _
  | .down _ _ | .chnTrain _ | .backoffEnd _ | .sleepEntry _ | .wakeStart _ | .wakeLockTimeout _ | .frameCut _ _
  | .egressStart _ | .frameSent _ | .chnPoolAudit | .chnStale _ | .netTx _ | .netRxPost _ | .serviceMessage _
  | .helloTransmit | .chnNeigh _ | .fwRequestTimer | .bootFailStatusTimer | .syncLoss _ | .revert | .domainSwitch
  | .slewComplete | .step _ | .frequency _ | .slew _ | .select _ | .tevArm _ | .tevEdge _ | .triggerSettingWrite _ _ _
  | .nvmWrite _ | .nvmRead _ | .nvmRecordComplete _ | .crcRun _ | .disarm _ | .arm _ | .armSchedule _ | .armReset _
  | .scheduledBoot | .configurationWrite _ | .msixUnmask _ _ _ | .domainEnWrite _ _ _ | .invalidSyncHeader _ _
  | .orderedSetTransmit _ | .severeLineBroken _ | .tevPulseEnd _ | .faultCollectorStart => true

end Sys2Proof
end

