-- ==== Sys2Proof/Tests/Slice0.lean ====
section
/-! SUPPORT. The model's own tests: small states that meet the hypotheses of the statements, commands that `wellFormed` refuses,
and single steps whose expected results are the spec's. -/

-- One declaration after the other, without the linters of the library.
set_option Elab.async false
set_option linter.all false

namespace Sys2Proof.Tests
open Sys2Proof Sys2Proof.Machine

/-! ### Small states -/

/-- A chip out of reset, with an open link and firmware running. -/
def live : State := { State.reset with
  power := { State.reset.power with held := false, por := false, crefOk := true, xinOk := true, perefOk := true, svcEn := true }
  link := { up := true, mse := true, bme := true, msixEn := true }
  nvm := { running := true } }

/-- A dispatched descriptor of an opcode, with some argument bytes and data. -/
def desc (op : Nat) (p : List (Nat × Nat) := []) (data : Option Bytes := none) : Desc :=
  { id := 7, sq := 0, slot := 0, phase := .running, data
    bytes := (List.range 64).map fun i => BitVec.ofNat 8 (if i = 0 then op else (p.lookup i).getD 0) }

/-- A state with one descriptor. -/
def given (d : Desc) (s : State := live) : State := { s with rings := { s.rings with inflight := [d] } }

/-- A state with a port, a tile, a Frond, a slot, a time domain, an event channel or a channel of the safety island changed. -/
def port (p : Nat) (x : Port → Port) (s : State := live) : State := putPort s p (x (portOf s p))
def tile (n : Nat) (x : Tile → Tile) (s : State := live) : State := putTile s n (x (tileOf s n))
def frond (f : Nat) (x : Frond → Frond) (s : State := live) : State := putFrond s f (x (frondOf s f))
def slot (n : Nat) (x : Slot → Slot) (s : State := live) : State := putSlot s n (x (slotOf s n))
def dom (d : Nat) (x : Dom → Dom) (s : State := live) : State := putDom s d (x (domOf s d))
def tev (k : Nat) (x : Tev → Tev) (s : State := live) : State := putTev s k (x (tevOf s k))
def chan (c : Chan) (x : Channel → Channel) (s : State := live) : State := putChan s c (x (chanOf s c))
def sq (n : Nat) (x : Sq → Sq) (s : State := live) : State := putSq s n (x (sqOf s n))
def cq (n : Nat) (x : Cq → Cq) (s : State := live) : State := putCq s n (x (cqOf s n))

/-- The safety set in force is the factory set. -/
def withSet (s : State := live) : State := { s with safety := { s.safety with inForce := factorySet, src := 2 } }

/-- A group of layers that has been committed. -/
def grp : Group := { gid := 7, sq := 0, tag := 0, layers := [], fences := [], target := none, afterCut := false }

/-- A shift of an empty frame. -/
def shiftRec : ShiftRec := { tile := 0, seq := 1, lmoss := false, frame := {}, place := 0, gains := [], map := [], s := 32768, lm := 0, kt := 0
                             egLimit := 0, strips := [], diag := false, diagWin := 0, probes := [], repay := [] }

/-- A tile header. -/
def hdr : Header := { format := 1, typ := 1, serial := 5, kT := 4096, ratedQ := 0, certLen := 0, mapCrc := 0, curveCrc := 0, bytes := [] }

/-- A frame of the pool, of no bytes that matter. -/
def pf : PoolFrame := { id := 3, bytes := List.replicate 64 0, cells := 2, prio := 6, origin := .ingress 0, shared := false, wants := [] }

/-- An image of one body page, whose single block has been received. -/
def image : Bytes := toLe 4 0x5746584C ++ toLe 2 1 ++ toLe 6 0 ++ toLe 4 512 ++ List.replicate 496 0
def withImage (s : State := live) : State := { s with nvm := { s.nvm with pages := [(128, { bytes := image, seq := 1 })], xfer := { got := [0] } } }

/-- A record of an `NVM_WRITE`. -/
def rec1 : Rec := { page := 6272, bytes := [], why := .write 7 true 512 }

/-- A read under way under tag slot 0, epoch 1. -/
def item (who : Requester) (data : Option Bytes := none) : ReadItem :=
  { id := 0, who, chunks := [{ addr := 0, len := 4, tag := some (0, 1), data }], turn := 0 }
def reading (r : ReadItem) (s : State := live) : State := { s with link := { s.link with reads := [r] } }

/-- A state with an active layer that reads its source from the cache. -/
def cached : State := { live with cmp := { live.cmp with active := [(0, { ctx := 0x20000000000000011#2048 })] } }

/-- A state whose composition drops a provisional group that has stalled once. -/
def stalls : State :=
  { given (desc 0x11) with
    frm := { live.frm with flipPending := true }
    cmp := { live.cmp with
             groups := [{ grp with st := .provisional, layers := [(3, 0#2048, 0, false)], stalls := 1, stallLimit := 2 }]
             comp := some { frame := {}, failed := [3] } } }

/-- A state of Frond 0 with nothing to shift. -/
def calm : State :=
  frond 0 (fun x => { x with decide := true }) (tile 0 (fun t => { t with owner := some 0, enabled := true, present := true }))
def calmed : State := putFrond calm 0 { frondOf calm 0 with lastForce := some (forceOf (shiftInputs calm 0)) }

/-- A tile header of 256 bytes with its check. -/
def headerBody : Bytes := toLe 4 0x38335143 ++ toLe 2 1 ++ toLe 2 0x0384 ++ List.replicate 244 0
def goodHeader : Bytes := headerBody ++ toLe 4 (crc32c headerBody)

theorem header_parses : ∃ h, parseHeader goodHeader = some h := Option.isSome_iff_exists.mp (by decide +kernel)

theorem crcStepR_lt {p c : Nat} (hp : p < 2 ^ 32) (hc : c < 2 ^ 32) : crcStepR p c < 2 ^ 32 := by
  unfold crcStepR
  split
  · exact Nat.xor_lt_two_pow (by omega) hp
  · omega

theorem crcByteR_lt {p c : Nat} (hp : p < 2 ^ 32) (hc : c < 2 ^ 32) : crcByteR p c < 2 ^ 32 := by
  unfold crcByteR
  iterate 8 refine crcStepR_lt hp ?_
  exact hc

theorem crcR_lt {p : Nat} (hp : p < 2 ^ 32) (b : Bytes) : ∀ c, c < 2 ^ 32 → crcR p b c < 2 ^ 32 := by
  induction b with
  | nil => intro c hc; exact hc
  | cons x r ih =>
    intro c hc
    exact ih _ (crcByteR_lt hp (Nat.xor_lt_two_pow hc (Nat.lt_of_lt_of_le x.isLt (by decide))))

theorem crc32c_lt (b : Bytes) : crc32c b < 2 ^ 32 :=
  Nat.xor_lt_two_pow (crcR_lt (by decide) b _ (by decide)) (by decide)

theorem le_toLe4 (v : Nat) (hv : v < 2 ^ 32) : leNat (toLe 4 v) = v := by
  simp only [toLe, leNat, BitVec.toNat_ofNat]
  omega

/-- An empty ledger copy of serial number 5, with its check. -/
def copyBody : Bytes := List.replicate 73728 0 ++ (toLe 4 0x4547444C ++ toLe 4 1 ++ toLe 16 5 ++ List.replicate 36 0)
def goodCopy : Bytes := copyBody ++ toLe 4 (crc32c copyBody)

theorem copyBody_length : copyBody.length = 73788 := by
  unfold copyBody
  rw [List.length_append, List.length_replicate]
  rfl

theorem copy_parses : ∃ k, parseCopy 5 goodCopy = some k := by
  have hl : goodCopy.length = 73792 := by
    unfold goodCopy
    rw [List.length_append, copyBody_length]
    rfl
  have ht : goodCopy.take 73788 = copyBody := List.take_left' copyBody_length
  have hd : goodCopy.drop 73728
      = (toLe 4 0x4547444C ++ toLe 4 1 ++ toLe 16 5 ++ List.replicate 36 0) ++ toLe 4 (crc32c copyBody) := by
    unfold goodCopy copyBody
    rw [List.append_assoc]
    exact List.drop_left' List.length_replicate
  unfold parseCopy
  simp only [hl, ht, hd]
  rw [if_pos]
  · exact ⟨_, rfl⟩
  · refine ⟨trivial, by rfl, by rfl, ?_⟩
    exact (le_toLe4 _ (crc32c_lt _)).symm

/-- A tile of a slot with a known serial number whose ledger is read next. -/
def ledgerTile : State := tile 7 (fun t => { t with header := some hdr, phase := .ledger })

theorem parseCopy_nil (n : Nat) : parseCopy n [] = none := rfl

theorem divUsed_of (n i : Nat) (h : BitVec 64) (c : List (BitVec 16)) (hb : bits h.toNat 56 8 = 24 * n + i) :
    divUsed n i ⟨h, c, streamCheck h.toNat (fitCells c)⟩ = true := by
  unfold divUsed
  simp only [hb, decide_true, Bool.and_self]

/-- A stream of the highest code in every cell, with its check. -/
def bright : StripRet :=
  ⟨0, List.replicate 384 0xFFFF#16, streamCheck (0#64).toNat (fitCells (List.replicate 384 0xFFFF#16))⟩

theorem bright_used : divUsed 0 0 bright = true := divUsed_of 0 0 0#64 _ (by decide)

/-- A tile that carries current. -/
def lit : State :=
  { tile 0 (fun t => { t with header := some hdr }) with strip := { live.strip with strips := [(0, { iMeas := 1000 })] } }

theorem bright_row (a : Nat) (ha : a ∈ List.range 16) :
    (if divUsed 0 ((8 * 0 + a) / 16) ([bright].getD ((8 * 0 + a) / 16) { header := 0, cells := [], check := 0 }) then
      divCurrent lit (24 * 0 + (8 * 0 + a) / 16)
        * ((List.range 16).map fun b =>
          (([bright].getD ((8 * 0 + a) / 16) { header := 0, cells := [], check := 0 }).cells.getD (cellIndex (8 * 0 + a) (8 * 0 + b)) 0#16).toNat / 4).sum
    else 0)
      = divCurrent lit 0 * ((List.range 16).map fun b => ((List.replicate 384 0xFFFF#16).getD (cellIndex a b) 0#16).toNat / 4).sum := by
  have h : (8 * 0 + a) / 16 = 0 := by
    have := List.mem_range.mp ha
    omega
  rw [h, List.getD_cons_zero, if_pos bright_used]
  simp only [Nat.mul_zero, Nat.zero_add]
  rfl

theorem window_eq (s : State) (n i j : Nat) (st : List StripRet) (h : Header) (f : Nat → Nat) (l : Nat)
    (hk : (tileOf s n).header = some h)
    (hr : ∀ a ∈ List.range 16, (if divUsed n ((8 * i + a) / 16) (st.getD ((8 * i + a) / 16) { header := 0, cells := [], check := 0 }) then
      divCurrent s (24 * n + (8 * i + a) / 16)
        * ((List.range 16).map fun b =>
          ((st.getD ((8 * i + a) / 16) { header := 0, cells := [], check := 0 }).cells.getD (cellIndex (8 * i + a) (8 * j + b)) 0#16).toNat / 4).sum
      else 0) = f a)
    (hl : ((([8 * i / 16, (8 * i + 15) / 16].filter fun k =>
      divUsed n k (st.getD k { header := 0, cells := [], check := 0 })).map fun k =>
      divLimit s (bits (st.getD k { header := 0, cells := [], check := 0 }).header.toNat 40 16)).foldl min 0xFFFFFFFF) = l) :
    ((divWindow s n st i j).1, (divWindow s n st i j).2) = (h.kT * ((List.range 16).map f).sum, l) := by
  unfold divWindow
  simp only [hk]
  rw [List.map_congr_left hr, hl]

theorem getD_replicate (n i : Nat) (v : BitVec 16) : (List.replicate n v).getD i 0#16 = if i < n then v else 0#16 := by
  rw [List.getD_eq_getElem?_getD, List.getElem?_replicate]
  split <;> rfl

theorem lit_sum : divTrips (hdr.kT * ((List.range 16).map fun a =>
    divCurrent lit 0 * ((List.range 16).map fun b => ((List.replicate 384 0xFFFF#16).getD (cellIndex a b) 0#16).toNat / 4).sum).sum, 0) = true := by
  simp only [getD_replicate]
  decide +kernel

theorem bright_limit : ((([8 * 0 / 16, (8 * 0 + 15) / 16].filter fun k =>
    divUsed 0 k ([bright].getD k { header := 0, cells := [], check := 0 })).map fun k =>
    divLimit lit (bits ([bright].getD k { header := 0, cells := [], check := 0 }).header.toNat 40 16)).foldl min 0xFFFFFFFF) = 0 := by
  rw [show [8 * 0 / 16, (8 * 0 + 15) / 16] = [0, 0] from rfl,
    show ([0, 0].filter fun k => divUsed 0 k ([bright].getD k { header := 0, cells := [], check := 0 })) = [0, 0] by
      simp only [List.filter_cons, List.filter_nil, List.getD_cons_zero, bright_used, if_true]]
  decide

theorem bright_trips : divTrips ((divWindow lit 0 [bright] 0 0).1, (divWindow lit 0 [bright] 0 0).2) = true := by
  rw [window_eq lit 0 0 0 [bright] hdr _ 0 rfl bright_row bright_limit]
  exact lit_sum

theorem first_window (s : State) (n : Nat) (st : List StripRet) :
    (0, 0, (divWindow s n st 0 0).1, (divWindow s n st 0 0).2) ∈ divWindows s n st :=
  List.mem_flatMap.mpr ⟨0, by decide, List.mem_map.mpr ⟨0, by decide, rfl⟩⟩

theorem trip_exists (s : State) (ch : Chan) (n : Fin 8) (st : List StripRet)
    (hr : runs .safety s = true)
    (h : divTrips ((divWindow s n.val st 0 0).1, (divWindow s n.val st 0 0).2) = true) :
    (∃ (s : State) (ch : Chan) (n : Fin 8) (st : List StripRet) (w : Nat × Nat × Nat × Nat),
      runs .safety s = true ∧ w ∈ divWindows s n.val st ∧ divTrips (w.2.2.1, w.2.2.2) = true) :=
  ⟨s, ch, n, st, _, hr, first_window s n.val st, h⟩

/-- A 64-byte frame for a member group, with its check sequence. -/
def frameBody : Bytes := toLe 6 (2 ^ 48 - 1) ++ toLe 6 2 ++ toBe 2 0x0800 ++ List.replicate 46 0
def goodFrame : Bytes := frameBody ++ fcs frameBody

/-- A frame for another station. -/
def throughBody : Bytes := toLe 6 4 ++ toLe 6 2 ++ toBe 2 0x0800 ++ List.replicate 46 0
def through : Bytes := throughBody ++ fcs throughBody

theorem toLe_length (n : Nat) : ∀ v, (toLe n v).length = n := by
  induction n with
  | zero => intro v; rfl
  | succ n ih => intro v; exact congrArg (· + 1) (ih _)

theorem toBe_length (n v : Nat) : (toBe n v).length = n := by rw [toBe, List.length_reverse, toLe_length]

theorem svcBytes_length (a b c d e : Nat) (p : Bytes) : (svcBytes a b c d e p).length = 24 + p.length := by
  unfold svcBytes
  simp only [List.length_append, toBe_length]
  omega

theorem svcFrame_length (s : State) (m : Bytes) (h : m.length ≤ 46) : (svcFrame s m).length = 64 := by
  unfold svcFrame fcs
  simp only [List.length_append, toLe_length, toBe_length, List.length_replicate]
  omega

/-- Heartbeats of the originators 9 and 10, number 5 of each. -/
def beat9 : Bytes :=
  [1, 1, 1, 0, 0, 0, 0, 5, 0, 0, 0, 0, 0, 0, 0, 9, 0, 0, 0, 0, 51, 56, 82, 131]
def beat10 : Bytes :=
  [1, 1, 1, 0, 0, 0, 0, 5, 0, 0, 0, 0, 0, 0, 0, 10, 0, 0, 0, 0, 123, 11, 226, 119]

/-- The frames that carry them. -/
def framed9 : Bytes :=
  [3, 0, 0, 0, 17, 128, 0, 0, 0, 0, 0, 0, 136, 181, 1, 1, 1, 0, 0, 0, 0, 5, 0, 0, 0, 0, 0, 0, 0, 9, 0, 0]
    ++ [0, 0, 51, 56, 82, 131, 0, 0, 0, 0, 0, 0, 0, 0, 0, 0, 0, 0, 0, 0, 0, 0, 0, 0, 0, 0, 0, 0, 246, 171, 56, 24]
def framed10 : Bytes :=
  [3, 0, 0, 0, 17, 128, 0, 0, 0, 0, 0, 0, 136, 181, 1, 1, 1, 0, 0, 0, 0, 5, 0, 0, 0, 0, 0, 0, 0, 10, 0, 0]
    ++ [0, 0, 123, 11, 226, 119, 0, 0, 0, 0, 0, 0, 0, 0, 0, 0, 0, 0, 0, 0, 0, 0, 0, 0, 0, 0, 0, 0, 193, 115, 166, 134]

/-- Such a frame in the management queue, from port 0. -/
def svcPool (b : Bytes) : PoolFrame := { pf with bytes := b, wants := [.mgmt] }
def svcHeld (b : Bytes) : State :=
  { port 1 (fun x => { x with st := .up }) with chain := { (port 1 (fun x => { x with st := .up })).chain with mgmtQ := [3], frames := [svcPool b] } }

/-! ### Witnesses of the statements' hypotheses -/

theorem test_witness_QueueSteps :
    (∃ (c : Instr) (r : List Instr) (s : State), s.pending = c :: r)
    ∧ (∃ (s : State), s.pending = []) :=
  ⟨⟨.vinSlow, [], { live with pending := [.vinSlow] }, by decide⟩,
    ⟨live, by decide⟩⟩

theorem test_witness_PowerOnAndRelease :
    (∃ (s : State), s.power.saving = false ∧ s.power.awaitVin = false)
    ∧ (∃ (s : State) (svcEnN high : Bool), s.power.por = true)
    ∧ (∃ (s : State) (svcEnN : Bool), s.power.held = true ∧ s.power.por = false ∧ s.power.thermLatch = false ∧ s.power.awaitVin = false ∧ s.power.saving = false)
    ∧ (∃ (s : State) (svcEnN : Bool), s.power.pinLow = true ∧ s.power.pinIgnored = false ∧ s.power.por = false ∧ s.power.saving = false ∧ s.power.held = true ∧ s.power.thermLatch = false ∧ s.power.awaitVin = false)
    ∧ (∃ (s : State), s.power.pinIgnored = true)
    ∧ (∃ (s : State) (svcEnN : Bool), s.power.awaitVin = true ∧ s.power.held = true ∧ s.power.por = false ∧ (s.power.pinLow = false ∨ s.power.pinIgnored = true) ∧ s.power.thermLatch = false ∧ s.power.saving = false) :=
  ⟨⟨live, by decide⟩,
    ⟨State.reset, false, true, by decide⟩,
    ⟨{ live with power := { live.power with held := true } }, true, by decide⟩,
    ⟨{ live with power := { live.power with pinLow := true, held := true } }, false, by decide⟩,
    ⟨{ live with power := { live.power with pinIgnored := true } }, by decide⟩,
    ⟨{ live with power := { live.power with awaitVin := true, held := true, pinIgnored := true } }, false, by decide⟩⟩

theorem test_witness_ResetsAskedFor :
    (∃ (s : State), s.power.pinIgnored = false ∧ s.power.saving = false ∧ s.power.awaitVin = false ∧ s.power.thermLatch = false ∧ s.power.por = false ∧ s.nvm.queue = [])
    ∧ (∃ (s : State), s.power.pinIgnored = false ∧ s.power.saving = false ∧ s.power.awaitVin = false ∧ s.power.thermLatch = false ∧ s.power.por = false ∧ s.nvm.queue ≠ [])
    ∧ (∃ (s : State) (value : BitVec 32), barOpen s = true ∧ value.toNat % 65536 = 0xA5C3 ∧ s.nvm.queue = [])
    ∧ (∃ (s : State) (value : BitVec 32), barOpen s = true ∧ value.toNat % 65536 = 0xA5C3 ∧ s.nvm.queue ≠ [])
    ∧ (∃ (s : State) (level0 : Bool) (value : BitVec 32), (level0 = false ∨ value.toNat % 65536 ≠ 0xA5C3))
    ∧ (∃ (s : State) (r : Rail), s.power.saving = true)
    ∧ (∃ (s : State) (r : Rail), s.power.saving = false ∧ s.nvm.queue = [])
    ∧ (∃ (s : State), s.nvm.queue = []) :=
  ⟨⟨live, by decide⟩,
    ⟨{ live with nvm := { live.nvm with queue := [rec1] } }, by decide⟩,
    ⟨live, 0xFFFFA5C3#32, by decide⟩,
    ⟨{ live with nvm := { live.nvm with queue := [rec1] } }, 0xA5C3#32, by decide⟩,
    ⟨live, true, 0xA5C2#32, by decide⟩,
    ⟨{ live with power := { live.power with saving := true } }, .vser, by decide⟩,
    ⟨live, .vcore, by decide⟩,
    ⟨State.reset, by decide⟩⟩

theorem test_witness_SagStages :
    (∃ (s : State), s.power.sagStage = 0 ∧ s.power.saving = false)
    ∧ (∃ (s : State), s.power.sagStage = 1)
    ∧ (∃ (s : State), s.power.saving = false ∧ s.power.awaitVin = false) :=
  ⟨⟨live, by decide⟩,
    ⟨{ live with power := { live.power with sagStage := 1 } }, by decide⟩,
    ⟨live, by decide⟩⟩

theorem test_witness_SuppliesAndClocks :
    (∃ (s : State), s.power.held = false ∧ s.power.vholdSeen = false ∧ s.power.vholdWaived = false)
    ∧ (∃ (s : State), s.power.held = false ∧ s.power.vholdSeen = true)
    ∧ (∃ (s : State) (k : Fin 4), s.power.phases.testBit k.val = true)
    ∧ (∃ (s : State), s.link.up = true) :=
  ⟨⟨live, by decide⟩,
    ⟨{ live with power := { live.power with vholdSeen := true } }, by decide⟩,
    ⟨live, 3, by decide⟩,
    ⟨live, by decide⟩⟩

theorem test_witness_HostIslandResets :
    (∃ (s : State) (c : Instr), runs .host s = true ∧ (c = .perstNAssert ∨ c = .hotReset ∨ c = .linkDisable))
    ∧ (∃ (s : State), runs .host s = true ∧ s.link.up = true) :=
  ⟨⟨live, .linkDisable, by decide⟩,
    ⟨live, by decide⟩⟩

theorem test_witness_HostConfiguration :
    (∃ (s : State) (w v : Nat), runs .host s = true ∧ s.link.up = false)
    ∧ (∃ (s : State) (w : CfgWrite), runs .host s = true ∧ s.link.up = true)
    ∧ (∃ (s : State), runs .ring s = true ∧ s.link.up = true)
    ∧ (∃ (s : State) (write bar2 : Bool) (off : Nat) (value : BitVec 32), runs .host s = true ∧ s.link.up = true ∧ barOpen s = false) :=
  ⟨⟨{ live with link := {} }, 2, 2, by decide⟩,
    ⟨live, .maxRead 5, by decide⟩,
    ⟨live, by decide⟩,
    ⟨{ live with link := { live.link with d3hot := true } }, true, false, 0, 0#32, by decide⟩⟩

theorem test_witness_MsixTableWrites :
    (∃ (s : State) (v : Fin 64) (value : BitVec 32), barOpen s = true ∧ dmaOk s = true ∧ s.link.msixEn = true ∧ s.link.fnMask = false ∧ value.toNat.testBit 0 = false ∧ s.link.pba.testBit v.val = true ∧ (∀ u < 64, u ≠ v.val → s.link.pba.testBit u = true → (Tab.get {} s.link.msix u).mask = true))
    ∧ (∃ (s : State) (v : Fin 64) (word : Fin 3) (value : BitVec 32), barOpen s = true ∧ (∀ u < 64, s.link.pba.testBit u = true → (Tab.get {} s.link.msix u).mask = true)) :=
  ⟨⟨{ live with link := { live.link with pba := 2 ^ 63 } }, 63, 0xFFFFFFFE#32, by decide⟩,
    ⟨live, 63, 2, 0#32, by decide⟩⟩

theorem test_witness_HostReadsEnd :
    (∃ (s : State) (tag : Nat) (st : RdStatus) (data : Bytes), runs .host s = true ∧ (s.link.abandoned.any fun a => tagOf s.link a == tag) = true)
    ∧ (∃ (s : State) (tag : Nat) (st : RdStatus) (data : Bytes), runs .host s = true ∧ (s.link.abandoned.any fun a => tagOf s.link a == tag) = false ∧ s.link.reads.find? (hasTag s.link tag) = none)
    ∧ (∃ (s : State) (tag : Nat) (st : RdStatus) (data : Bytes) (r : ReadItem), runs .host s = true ∧ st ≠ .ok ∧ (s.link.abandoned.any fun a => tagOf s.link a == tag) = false ∧ s.link.reads.find? (hasTag s.link tag) = some r)
    ∧ (∃ (s : State) (tag id : Nat) (data : Bytes) (r : ReadItem) (d : Desc) (k : Nat × Nat) (addr : Nat), runs .host s = true ∧ (s.link.abandoned.any fun a => tagOf s.link a == tag) = false ∧ s.link.reads.find? (hasTag s.link tag) = some r ∧ r.who = .desc id ∧ r.chunks = [{ addr, len := data.length, tag := some k }] ∧ tagOf s.link k = tag ∧ descOf s id = some d ∧ d.id = id)
    ∧ (∃ (s : State) (tag : Nat) (r : ReadItem), runs .host s = true ∧ s.link.reads.find? (hasTag s.link tag) = some r ∧ s.link.cplTmoDis = false) :=
  ⟨⟨{ live with link := { live.link with abandoned := [(0, 1)] } }, 64, .poisoned, [], by decide⟩,
    ⟨live, 64, .ok, [], by decide⟩,
    ⟨(reading (item (.desc 7))), 64, .poisoned, [], item (.desc 7), by decide⟩,
    ⟨(reading (item (.desc 7)) (given (desc 0x10))), 64, 7, [0, 0, 0, 0], item (.desc 7), desc 0x10, (0, 1), 0, by decide⟩,
    ⟨(reading (item (.desc 7))), 64, item (.desc 7), by decide⟩⟩

theorem test_witness_ProtectionTable :
    (∃ (s : State) (value : BitVec 32), barOpen s = true ∧ value.toNat.testBit 0 = true ∧ tableRefused s { s.prot.shadow with winL0 := value.toNat.testBit 1 } = false)
    ∧ (∃ (s : State) (value : BitVec 32), barOpen s = true ∧ value.toNat.testBit 0 = true ∧ tableRefused s { s.prot.shadow with winL0 := value.toNat.testBit 1 } = true)
    ∧ (∃ (s : State) (id : Nat) (d : Desc), Runs s id 0x68 d ∧ tableRefused s (protEntry d.bytes s.prot.active) = false)
    ∧ (∃ (s : State) (id : Nat) (d : Desc), Runs s id 0x68 d ∧ tableRefused s (protEntry d.bytes s.prot.active) = true) :=
  ⟨⟨live, 3#32, by decide⟩,
    ⟨{ (sq 0 (fun q => { q with state := .running })) with prot := { shadow := { level := [(0, 1)] } } }, 1#32, by decide⟩,
    ⟨(given (desc 0x68)), 7, desc 0x68, by unfold Runs; decide⟩,
    ⟨(given (desc 0x68 [(24, 1)]) (sq 0 (fun q => { q with state := .running }))), 7, desc 0x68 [(24, 1)], by unfold Runs; decide⟩⟩

theorem test_witness_Doorbells :
    (∃ (s : State) (n : Fin 32) (value : BitVec 32), barOpen s = true ∧ (sqOf s n.val).state = .running ∧ value.toNat % 4096 < 2 ^ (sqOf s n.val).size ∧ value.toNat % 4096 ≠ (sqOf s n.val).tail)
    ∧ (∃ (s : State) (n : Fin 32) (value : BitVec 32) (proper : Bool), barOpen s = true ∧ s.rings.dbErr.valid = false ∧ (proper = false ∨ (sqOf s n.val).state ≠ .running ∨ 2 ^ (sqOf s n.val).size ≤ value.toNat % 4096))
    ∧ (∃ (s : State) (n : Fin 32) (value : BitVec 32), barOpen s = true ∧ (cqOf s n.val).enable = true ∧ value.toNat % 4096 < 2 ^ (cqOf s n.val).size ∧ value.toNat % 4096 = (cqOf s n.val).tail ∧ (value.toNat % 4096 + 2 ^ (cqOf s n.val).size - (cqOf s n.val).head) % 2 ^ (cqOf s n.val).size ≤ posted (cqOf s n.val) ∧ (n.val = 31 → s.rings.lostSince = 0))
    ∧ (∃ (s : State), runs .ring s = true) :=
  ⟨⟨(sq 0 (fun q => { q with state := .running })), 0, 15#32, by decide⟩,
    ⟨live, 31, 16#32, true, by decide⟩,
    ⟨(cq 31 (fun c => { c with enable := true, tail := 15 })), 31, 15#32, by decide⟩,
    ⟨live, by decide⟩⟩

theorem test_witness_RingsEnabled :
    (∃ (s : State) (n : Fin 32) (value : BitVec 32), barOpen s = true ∧ value.toNat.testBit 0 = true ∧ (sqOf s n.val).state = .disabled ∧ value.toNat / 256 % 32 ≠ 31 ∧ (cqOf s (value.toNat / 256 % 32)).enable = true)
    ∧ (∃ (s : State) (n : Fin 32) (value : BitVec 32), barOpen s = true ∧ value.toNat.testBit 0 = false ∧ (sqOf s n.val).state = .running ∧ (s.rings.inflight.any fun d => d.sq == n.val) = false ∧ (s.rings.done.any fun d => d.sq == n.val) = false)
    ∧ (∃ (s : State) (n : Fin 32) (value : BitVec 32), barOpen s = true ∧ value.toNat.testBit 0 = true ∧ (cqOf s n.val).enable = false)
    ∧ (∃ (s : State) (n : Fin 32) (value : BitVec 32), barOpen s = true ∧ value.toNat.testBit 0 = false ∧ (cqOf s n.val).enable = true ∧ (n.val = 31 ∨ (reserved s n.val = 0 ∧ ∀ k < 32, (sqOf s k).state = .disabled ∨ (sqOf s k).bound ≠ n.val)))
    ∧ (∃ (s : State) (n : Fin 32) (value : BitVec 32), barOpen s = true ∧ (cqOf s n.val).enable = true ∧ (cqOf s n.val).tail = (cqOf s n.val).head) :=
  ⟨⟨(cq 30 (fun c => { c with enable := true })), 31, 0x1EC1#32, by decide⟩,
    ⟨(sq 0 (fun q => { q with state := .running })), 0, 0#32, by decide⟩,
    ⟨live, 31, 1#32, by decide⟩,
    ⟨(cq 31 (fun c => { c with enable := true })), 31, 0#32, by decide⟩,
    ⟨(cq 31 (fun c => { c with enable := true })), 31, 0x100#32, by decide⟩⟩

theorem test_witness_DescriptorFlow :
    (∃ (s : State) (n : Fin 32), dmaOk s = true ∧ nextTurn s = some n.val)
    ∧ (∃ (s : State) (n : Fin 32) (r : ReadItem) (f : Nat) (k : Chunk) (data : Bytes), s.link.reads.find? (fun r => match r.who with | .fetch k _ c => k == n.val && c != 0 | _ => false) = some r ∧ r.who = .fetch n.val f 1 ∧ r.failed = false ∧ r.chunks = [k] ∧ k.data = some data ∧ data.length = 64 ∧ formatOk data = true ∧ le data 0 1 ≠ 0x11 ∧ privOk s.prot.active n.val data [] = true ∧ (∀ d ∈ s.rings.inflight, d.id ≠ s.rings.nextId) ∧ runs .ring s = true ∧ s.faults.inj = none)
    ∧ (∃ (s : State) (n : Fin 32) (r : ReadItem) (f : Nat) (k : Chunk) (data : Bytes), s.link.reads.find? (fun r => match r.who with | .fetch k _ c => k == n.val && c != 0 | _ => false) = some r ∧ r.who = .fetch n.val f 1 ∧ r.failed = false ∧ r.chunks = [k] ∧ k.data = some data ∧ runs .ring s = true ∧ s.faults.inj = none)
    ∧ (∃ (s : State) (id : Nat) (d : Desc), runs .ring s = true ∧ descOf s id = some d ∧ d.id = id ∧ d.phase = .queued ∧ (s.rings.inflight.any (blocks d)) = false ∧ s.nvm.running = true ∧ descReads d.bytes = none)
    ∧ (∃ (s : State) (d : Done) (r : List Done), s.rings.done = d :: r ∧ dmaOk s = true)
    ∧ (∃ (s : State) (e : Event) (r : List Event), dmaOk s = true ∧ s.rings.lostSince = 0 ∧ s.rings.heldEvents = [] ∧ s.rings.events = e :: r ∧ eventRoom s = true)
    ∧ (∃ (s : State) (id : Nat) (d : Desc), Runs s id 0x01 d) :=
  ⟨⟨(sq 0 (fun q => { q with state := .running, tail := 1 }) (cq 0 (fun c => { c with enable := true }))), 0, by decide⟩,
    ⟨(reading (item (.fetch 0 0 1) (some (desc 1).bytes)) { live with prot := { active := { opc := [] } } }), 0, item (.fetch 0 0 1) (some (desc 1).bytes), 0, { addr := 0, len := 4, tag := some (0, 1), data := some (desc 1).bytes }, (desc 1).bytes, by decide⟩,
    ⟨(reading (item (.fetch 0 0 1) (some (desc 1).bytes))), 0, item (.fetch 0 0 1) (some (desc 1).bytes), 0, { addr := 0, len := 4, tag := some (0, 1), data := some (desc 1).bytes }, (desc 1).bytes, by decide⟩,
    ⟨(given { desc 1 with phase := .queued }), 7, { desc 1 with phase := .queued }, by decide⟩,
    ⟨{ live with rings := { live.rings with done := [{ sq := 0, status := 0 }] } }, { sq := 0, status := 0 }, [], by decide⟩,
    ⟨{ (cq 31 (fun c => { c with enable := true })) with rings := { ((cq 31 (fun c => { c with enable := true }))).rings with events := [{ typ := 3, sec := 0, ns := 0 }] } }, { typ := 3, sec := 0, ns := 0 }, [], by decide⟩,
    ⟨(given (desc 1)), 7, desc 1, by unfold Runs; decide⟩⟩

theorem test_witness_LayersStagedAndCommitted :
    (∃ (s : State) (id : Nat) (d : Desc) (data : Bytes), Runs s id 0x10 d ∧ d.failed = false ∧ d.data = some data)
    ∧ (∃ (s : State) (id : Nat) (d : Desc), Runs s id 0x11 d ∧ (heldGroups s).length < 16 ∧ ((layersOf (le d.bytes 16 8)).any fun l => isVideo l && cEn (Tab.get {} s.cmp.staged l).ctx && decide (2048 < cSrcW (Tab.get {} s.cmp.staged l).ctx)) = false)
    ∧ (∃ (s : State) (id : Nat) (d : Desc), Runs s id 0x11 d ∧ 16 ≤ (heldGroups s).length) :=
  ⟨⟨(given (desc 0x10 [] (some [1]))), 7, desc 0x10 [] (some [1]), [1], by unfold Runs; decide⟩,
    ⟨(given (desc 0x11)), 7, desc 0x11, by unfold Runs; decide⟩,
    ⟨(given (desc 0x11) { live with cmp := { live.cmp with groups := List.replicate 16 grp } }), 7, desc 0x11, by unfold Runs; decide⟩⟩

theorem test_witness_ResidentCache :
    (∃ (s : State) (id : Nat) (d : Desc) (data : Bytes), CacheInv s ∧ Runs s id 0x12 d ∧ d.failed = false ∧ d.data = some data ∧ overlapsUse s (le d.bytes 16 4) (le d.bytes 16 4 + le d.bytes 20 4) = false)
    ∧ (∃ (s : State) (id : Nat) (d : Desc), Runs s id 0x13 d ∧ overlapsUse s (le d.bytes 16 4) (le d.bytes 16 4 + le d.bytes 20 4) = false)
    ∧ (∃ (s : State) (id : Nat) (d : Desc), Runs s id 0x13 d ∧ overlapsUse s (le d.bytes 16 4) (le d.bytes 16 4 + le d.bytes 20 4) = true) :=
  ⟨⟨(given (desc 0x12 [(20, 64)] (some [1]))), 7, desc 0x12 [(20, 64)] (some [1]), [1], by unfold Runs CacheInv; decide⟩,
    ⟨(given (desc 0x13 [(20, 64)])), 7, desc 0x13 [(20, 64)], by unfold Runs; decide⟩,
    ⟨given (desc 0x13 [(20, 64)]) cached, 7, desc 0x13 [(20, 64)], by unfold Runs; decide +kernel⟩⟩

theorem test_witness_Fences :
    (∃ (s : State), dmaOk s = true)
    ∧ (∃ (s : State) (n : Fin 32) (value : BitVec 32), barOpen s = true ∧ dmaOk s = true)
    ∧ (∃ (s : State) (gid : Nat) (e : Fin 8) (r : ReadItem) (g : Group) (f : Fence), s.link.reads.find? (fun r => r.who == .fence gid e.val && (r.failed || r.chunks.all fun c => c.data.isSome)) = some r ∧ runs .comp s = true ∧ r.failed = false ∧ groupOf s gid = some g ∧ g.fences[e.val]? = some f ∧ f.threshold ≤ leNat (r.chunks.flatMap fun c => c.data.getD []))
    ∧ (∃ (s : State) (gid : Nat) (g : Group) (d : Desc) (a lim : Nat), groupOf s gid = some g ∧ descOf s gid = some d ∧ runs .comp s = true ∧ s.frm.flipPending = true ∧ g.st = .held ∧ g.returned = false ∧ (g.fences.any fun f => !f.satisfied) = true ∧ g.age = some (a, lim) ∧ lim ≤ a + 1) :=
  ⟨⟨live, by decide⟩,
    ⟨live, 31, 0#32, by decide⟩,
    ⟨(reading (item (.fence 7 0) (some [1, 0, 0, 0])) { live with cmp := { live.cmp with groups := [{ grp with fences := [{ addr := 0, threshold := 1 }] }] } }), 7, 0, item (.fence 7 0) (some [1, 0, 0, 0]), { grp with fences := [{ addr := 0, threshold := 1 }] }, { addr := 0, threshold := 1 }, by decide⟩,
    ⟨{ given (desc 0x11) with cmp := { live.cmp with groups := [{ grp with fences := [{ addr := 0, threshold := 1 }], age := some (0, 1) }] }, frm := { live.frm with flipPending := true } }, 7, { grp with fences := [{ addr := 0, threshold := 1 }], age := some (0, 1) }, desc 0x11, 0, 1, by decide⟩⟩

theorem test_witness_FrameGrid :
    (∃ (s : State), runs .time s = true ∧ s.frm.started = true ∧ s.frm.inGap = true ∧ s.frm.fell = none ∧ nextNum s = s.frm.num + 1 ∧ s.strip.stopped = false)
    ∧ (∃ (s : State), runs .time s = true ∧ (s.frm.started = false ∨ s.frm.inGap = true) ∧ s.frm.fell = none)
    ∧ (∃ (s : State), runs .time s = true ∧ s.frm.started = true ∧ s.frm.inGap = false ∧ s.strip.stopped = false)
    ∧ (∃ (s : State), runs .comp s = true ∧ s.frm.cutPending = true)
    ∧ (∃ (s : State) (id : Nat) (d : Desc), Runs s id 0x18 d)
    ∧ (∃ (s : State), barOpen s = true) :=
  ⟨⟨{ live with frm := { live.frm with started := true, inGap := true } }, by decide⟩,
    ⟨live, by decide⟩,
    ⟨{ live with frm := { live.frm with started := true } }, by decide⟩,
    ⟨{ live with frm := { live.frm with cutPending := true } }, by decide⟩,
    ⟨(given (desc 0x18)), 7, desc 0x18, by unfold Runs; decide⟩,
    ⟨live, by decide⟩⟩

theorem test_witness_FlipAndComposition :
    (∃ (s : State) (c : Comp), runs .comp s = true ∧ s.frm.flipPending = true ∧ s.cmp.comp = some c ∧ c.ended = true ∧ c.guardDrop = false)
    ∧ (∃ (s : State) (g : Group), runs .comp s = true ∧ s.frm.flipPending = true ∧ s.cmp.comp = none ∧ s.cmp.gate = [] ∧ s.cmp.groups = [g] ∧ g.st = .held ∧ g.fences = [] ∧ g.target = none ∧ g.afterCut = false)
    ∧ (∃ (s : State) (c : Comp), runs .comp s = true ∧ s.cmp.comp = some c ∧ c.ended = false ∧ c.waiting = [] ∧ c.failed = [])
    ∧ (∃ (s : State) (gid : Nat) (g : Group) (d : Desc), runs .comp s = true ∧ groupOf s gid = some g ∧ descOf s gid = some d ∧ s.frm.flipPending = true ∧ stallDrop s = true ∧ groupStalls s g = true ∧ (if g.stalls = 0 then s.cmp.fetchLim else g.stallLimit) ≤ g.stalls + 1)
    ∧ (∃ (s : State), runs .comp s = true ∧ 0 < s.frm.staticHold ∧ s.frm.staticHold ≤ s.frm.holdCnt ∧ s.frm.unchanged = true ∧ s.frm.static = false) :=
  ⟨⟨{ live with frm := { live.frm with flipPending := true }, cmp := { live.cmp with comp := some { frame := {}, ended := true } } }, { frame := {}, ended := true }, by decide⟩,
    ⟨{ live with frm := { live.frm with flipPending := true }, cmp := { live.cmp with groups := [grp] } }, grp, by decide⟩,
    ⟨{ live with cmp := { live.cmp with comp := some { frame := {} } } }, { frame := {} }, by decide⟩,
    ⟨stalls, 7, { grp with st := .provisional, layers := [(3, 0#2048, 0, false)], stalls := 1, stallLimit := 2 }, desc 0x11, by decide +kernel⟩,
    ⟨{ live with frm := { live.frm with staticHold := 1, holdCnt := 1, unchanged := true } }, by decide⟩⟩

theorem test_witness_ShiftStarts :
    (∃ (s : State) (f : Fin 9) (n : Nat), runs .frond s = true ∧ servedBy s f.val = some n ∧ (frondOf s f.val).decide = true ∧ (frondOf s f.val).shifting = none ∧ s.frm.flipPending = false ∧ (tileOf s n).enabled = true ∧ s.frm.swapped = true ∧ s.faults.inj = none)
    ∧ (∃ (s : State) (f : Fin 9) (n : Nat) (ecc : EccSeen), runs .frond s = true ∧ servedBy s f.val = some n ∧ (frondOf s f.val).decide = true ∧ (frondOf s f.val).shifting = none ∧ s.frm.flipPending = false ∧ (tileOf s n).enabled = true ∧ s.frm.swapped = true ∧ ecc.bad ≠ [])
    ∧ (∃ (s : State) (f : Fin 9) (ecc : EccSeen), s.frm.flipPending = true)
    ∧ (∃ (s : State) (f : Fin 9) (n : Nat) (ecc : EccSeen), runs .frond s = true ∧ servedBy s f.val = some n ∧ (frondOf s f.val).decide = true ∧ (frondOf s f.val).shifting = none ∧ s.frm.flipPending = false ∧ shiftDue s f.val n (shiftInputs s n) = false) :=
  ⟨⟨{ frond 0 (fun x => { x with decide := true }) (tile 0 (fun t => { t with owner := some 0, enabled := true, present := true })) with frm := { live.frm with swapped := true } }, 0, 0, by decide⟩,
    ⟨{ frond 0 (fun x => { x with decide := true }) (tile 0 (fun t => { t with owner := some 0, enabled := true, present := true })) with frm := { live.frm with swapped := true } }, 0, 0, { bad := [5] }, by decide⟩,
    ⟨{ live with frm := { live.frm with flipPending := true } }, 8, {}, by decide⟩,
    ⟨calmed, 0, 0, {}, by decide⟩⟩

theorem test_witness_ReadbackAndLatch :
    (∃ (s : State) (f : Fin 9) (rets : List StripRet) (n : Nat) (x : ShiftRec), runs .frond s = true ∧ servedBy s f.val = some n ∧ (frondOf s f.val).shifting = some x)
    ∧ (∃ (s : State) (f : Fin 9) (seen : LatchSeen) (n : Nat) (x : ShiftRec), runs .frond s = true ∧ servedBy s f.val = some n ∧ s.frm.inGap = true ∧ (frondOf s f.val).gapDone = false ∧ (frondOf s f.val).shifting = none ∧ (frondOf s f.val).shiftedNow = true ∧ (tileOf s n).sent = some x) :=
  ⟨⟨(frond 0 (fun x => { x with shifting := some shiftRec }) (tile 0 (fun t => { t with owner := some 0, enabled := true, present := true }))), 0, [], 0, shiftRec, by decide⟩,
    ⟨{ frond 0 (fun x => { x with shiftedNow := true }) (tile 0 (fun t => { t with sent := some shiftRec }) (tile 0 (fun t => { t with owner := some 0, enabled := true, present := true }))) with frm := { live.frm with inGap := true } }, 0, { refused := [23], sdBad := [], srefMoved := [] }, 0, shiftRec, by decide⟩⟩

theorem test_witness_SlicesAndStripSet :
    (∃ (s : State) (f : Fin 9) (k : Fin 16) (telem : List (Nat × Nat × Nat)) (n : Nat), runs .frond s = true ∧ drives s f.val = some n ∧ (tileOf s n).enabled = true ∧ (tileOf s n).started ≤ k.val)
    ∧ (∃ (s : State) (f : Fin 9) (k : Fin 16) (telem : List (Nat × Nat × Nat)) (n : Nat), runs .frond s = true ∧ drives s f.val = some n ∧ (tileOf s n).enabled = true ∧ k.val < (tileOf s n).started)
    ∧ (∃ (s : State) (f : Fin 9) (k : Fin 16) (telem : List (Nat × Nat × Nat)), runs .frond s = true ∧ drives s f.val = none ∧ servedBy s f.val = none)
    ∧ (∃ (s : State) (id : Nat) (d : Desc), Runs s id 0x28 d) :=
  ⟨⟨(tile 0 (fun t => { t with owner := some 0, enabled := true, present := true })), 0, 15, [], 0, by decide⟩,
    ⟨(tile 0 (fun t => { t with owner := some 0, enabled := true, present := true, started := 16 })), 0, 15, [], 0, by decide⟩,
    ⟨live, 8, 0, [], by decide⟩,
    ⟨(given (desc 0x28)), 7, desc 0x28, by unfold Runs; decide⟩⟩

theorem test_witness_TilePresence :
    (∃ (s : State) (n : Fin 8), runs .frond s = true ∧ (tileOf s n.val).present = false)
    ∧ (∃ (s : State) (n : Fin 8), runs .frond s = true ∧ (tileOf s n.val).present = true)
    ∧ (∃ (s : State) (n : Fin 8) (b : Byte), runs .frond s = true ∧ (tileOf s n.val).present = true)
    ∧ (∃ (s : State) (n : Fin 8) (op : BusOp), runs .frond s = true)
    ∧ (∃ (s : State) (n : Fin 8) (op : BusOp), runs .frond s = true ∧ (tileOf s n.val).attempts < 3)
    ∧ (∃ (s : State) (n : Fin 8) (op : BusOp), runs .frond s = true ∧ 3 ≤ (tileOf s n.val).attempts) :=
  ⟨⟨live, 7, by decide⟩,
    ⟨(tile 7 (fun t => { t with present := true })), 7, by decide⟩,
    ⟨(tile 7 (fun t => { t with present := true })), 7, 0xFF#8, by decide⟩,
    ⟨(tile 7 (fun t => { t with present := true })), 7, .identity, by decide⟩,
    ⟨(tile 7 (fun t => { t with attempts := 2 })), 7, .commit, by decide⟩,
    ⟨(tile 7 (fun t => { t with attempts := 3 })), 7, .mapReread, by decide⟩⟩

theorem test_witness_TileIdentity :
    (∃ (s : State) (n : Fin 8) (b : Bytes) (h : Header), runs .frond s = true ∧ (tileOf s n.val).phase = .header ∧ parseHeader b = some h)
    ∧ (∃ (s : State) (n : Fin 8) (b : Bytes), runs .frond s = true ∧ (tileOf s n.val).phase = .header ∧ parseHeader b = none)
    ∧ (∃ (s : State) (n : Fin 8) (b : Bytes) (h : Header), runs .frond s = true ∧ s.nvm.running = true ∧ (tileOf s n.val).header = some h ∧ (tileOf s n.val).phase = .curve)
    ∧ (∃ (s : State) (n : Fin 8) (a b : Bytes) (h : Header), runs .frond s = true ∧ s.nvm.running = true ∧ (tileOf s n.val).header = some h ∧ (tileOf s n.val).phase = .heads)
    ∧ (∃ (s : State) (n : Fin 8) (a b : Bytes) (h : Header) (c : Copy), runs .frond s = true ∧ s.nvm.running = true ∧ (tileOf s n.val).header = some h ∧ (tileOf s n.val).phase = .ledger ∧ s.journal.retained = [] ∧ s.journal.saved = [] ∧ s.journal.orphans = [] ∧ s.faults.inj = none ∧ newest { tileOf s n.val with copyA := parseCopy h.serial a, copyB := parseCopy h.serial b } = some c)
    ∧ (∃ (s : State) (n : Fin 8) (b : Bytes) (h : Header), runs .frond s = true ∧ s.nvm.running = true ∧ (tileOf s n.val).header = some h ∧ (tileOf s n.val).phase = .cert)
    ∧ (∃ (s : State) (n : Fin 8) (auth : Byte) (r : Bytes) (h : Header), runs .frond s = true ∧ (tileOf s n.val).header = some h ∧ (tileOf s n.val).phase = .challenge ∧ auth.toNat.testBit 2 = false ∧ auth.toNat.testBit 1 = true)
    ∧ (∃ (s : State) (n : Fin 8) (auth : Byte) (r : Bytes) (h : Header), runs .frond s = true ∧ (tileOf s n.val).header = some h ∧ (tileOf s n.val).phase = .challenge ∧ auth.toNat.testBit 2 = false ∧ auth.toNat.testBit 1 = false)
    ∧ (∃ (s : State) (n : Fin 8) (c : Instr), runs .frond s = true ∧ (tileOf s n.val).phase = .challenge ∧ (c = .challengeTimeout n ∨ ∃ auth r, c = .challengePoll n auth r ∧ auth.toNat.testBit 2 = true ∧ (tileOf s n.val).header.isSome = true))
    ∧ (∃ (s : State) (n : Fin 8) (b : Bytes) (h : Header), runs .frond s = true ∧ s.nvm.running = true ∧ (tileOf s n.val).header = some h ∧ (tileOf s n.val).phase = .map) :=
  ⟨by
        obtain ⟨h, hh⟩ := header_parses
        exact ⟨tile 7 (fun t => { t with phase := .header }), 7, goodHeader, h, by decide, by decide, hh⟩,
    ⟨(tile 7 (fun t => { t with header := some hdr, phase := .header })), 7, [], by decide⟩,
    ⟨(tile 7 (fun t => { t with header := some hdr, phase := .curve })), 7, [], hdr, by decide⟩,
    ⟨(tile 7 (fun t => { t with header := some hdr, phase := .heads })), 7, [], [], hdr, by decide⟩,
    by
        obtain ⟨k, hk⟩ := copy_parses
        exact ⟨ledgerTile, 7, [], goodCopy, hdr, k, by decide, by decide, by decide, by decide, by decide, by decide, by decide, by decide, by
          rw [show parseCopy hdr.serial goodCopy = some k from hk, parseCopy_nil]
          rfl⟩,
    ⟨(tile 7 (fun t => { t with header := some hdr, phase := .cert })), 7, [], hdr, by decide⟩,
    ⟨(tile 7 (fun t => { t with header := some hdr, phase := .challenge })), 7, 2#8, [], hdr, by decide⟩,
    ⟨(tile 7 (fun t => { t with header := some hdr, phase := .challenge })), 7, 0#8, [], hdr, by decide⟩,
    ⟨tile 7 (fun t => { t with header := some hdr, phase := .challenge }), 7, .challengeTimeout 7, by decide, by decide, .inl rfl⟩,
    ⟨(tile 7 (fun t => { t with header := some hdr, phase := .map })), 7, [], hdr, by decide⟩⟩

theorem test_witness_LedgerCharge :
    (∃ (s : State), runs .mp s = true ∧ s.nvm.running = true)
    ∧ (∃ (s : State) (f : Fin 9) (n : Nat), runs .mp s = true ∧ servedBy s f.val = some n ∧ (tileOf s n).tapPend = true ∧ s.faults.inj = none)
    ∧ (∃ (s : State) (f : Fin 9) (n : Nat) (ecc : EccSeen), runs .mp s = true ∧ servedBy s f.val = some n ∧ (tileOf s n).tapPend = true ∧ ecc.bad ≠ [])
    ∧ (∃ (s : State) (f : Fin 9) (ecc : EccSeen), runs .mp s = true ∧ servedBy s f.val = none ∧ (frondOf s f.val).role = .quarantined)
    ∧ (∃ (s : State), runs .mp s = true ∧ s.nvm.running = true)
    ∧ (∃ (s : State) (n : Fin 8) (b : Bytes) (c : Commit) (k : Copy), runs .mp s = true ∧ s.power.saving = false ∧ (tileOf s n.val).commit = some c ∧ parseCopy c.serial b = some k)
    ∧ (∃ (s : State) (n : Fin 8) (b : Bytes) (c : Commit), runs .mp s = true ∧ s.power.saving = false ∧ (tileOf s n.val).commit = some c ∧ parseCopy c.serial b = none ∧ c.repeated = false)
    ∧ (∃ (s : State) (n : Fin 8) (b : Bytes) (c : Commit), runs .mp s = true ∧ s.power.saving = false ∧ (tileOf s n.val).commit = some c ∧ parseCopy c.serial b = none ∧ c.repeated = true ∧ c.final = false) :=
  ⟨⟨live, by decide⟩,
    ⟨(tile 0 (fun t => { t with tapPend := true }) (tile 0 (fun t => { t with owner := some 0, enabled := true, present := true }))), 0, 0, by decide⟩,
    ⟨(tile 0 (fun t => { t with tapPend := true }) (tile 0 (fun t => { t with owner := some 0, enabled := true, present := true }))), 0, 0, { bad := [9215] }, by decide⟩,
    ⟨(frond 8 (fun x => { x with role := .quarantined })), 8, {}, by decide⟩,
    ⟨live, by decide⟩,
    by
        obtain ⟨k, hk⟩ := copy_parses
        exact ⟨tile 7 (fun t => { t with commit := some { serial := 5, snap := [], entries := [], toA := true, gen := 1, time := 0 } }), 7, goodCopy, { serial := 5, snap := [], entries := [], toA := true, gen := 1, time := 0 }, k, by decide, by decide, by decide, hk⟩,
    ⟨(tile 7 (fun t => { t with commit := some { serial := 5, snap := [], entries := [], toA := true, gen := 1, time := 0 } })), 7, [], { serial := 5, snap := [], entries := [], toA := true, gen := 1, time := 0 }, by decide⟩,
    ⟨(tile 7 (fun t => { t with commit := some { serial := 5, snap := [], entries := [], toA := true, gen := 1, time := 0, repeated := true } })), 7, [], { serial := 5, snap := [], entries := [], toA := true, gen := 1, time := 0, repeated := true }, by decide⟩⟩

theorem test_witness_TileCommands :
    (∃ (s : State) (id : Nat) (d : Desc), Runs s id 0x20 d ∧ le d.bytes 17 1 = 0 ∧ dmaOk s = true)
    ∧ (∃ (s : State) (id : Nat) (d : Desc), Runs s id 0x20 d ∧ le d.bytes 17 1 = 1 ∧ (tileOf s (descTile d)).present = true ∧ (tileOf s (descTile d)).released = false)
    ∧ (∃ (s : State) (id : Nat) (d : Desc), Runs s id 0x20 d ∧ le d.bytes 17 1 = 1 ∧ ((tileOf s (descTile d)).present = false ∨ (tileOf s (descTile d)).released = true))
    ∧ (∃ (c : Instr) (s : State) (id : Nat) (d : Desc), ((c = .rescan id ∧ le d.bytes 17 1 = 2) ∨ (c = .returnTile id ∧ le d.bytes 17 1 = 6)) ∧ Runs s id 0x20 d ∧ (tileOf s (descTile d)).present = true ∧ (∀ e ∈ s.rings.inflight, e.id = id → e = d))
    ∧ (∃ (s : State) (id : Nat) (d : Desc), Runs s id 0x20 d ∧ le d.bytes 17 1 = 3 ∧ dmaOk s = true ∧ (tileOf s (descTile d)).headerBytes ≠ [])
    ∧ (∃ (s : State) (id : Nat) (d : Desc), Runs s id 0x20 d ∧ le d.bytes 17 1 = 3 ∧ (tileOf s (descTile d)).headerBytes = [])
    ∧ (∃ (s : State) (id : Nat) (d : Desc), Runs s id 0x20 d ∧ le d.bytes 17 1 = 4 ∧ dmaOk s = true)
    ∧ (∃ (s : State) (id : Nat) (d : Desc), Runs s id 0x20 d ∧ le d.bytes 17 1 = 5)
    ∧ (∃ (s : State) (id : Nat) (d : Desc), Runs s id 0x21 d ∧ dmaOk s = true ∧ (tileOf s (descTile d)).present = true ∧ (tileOf s (descTile d)).baseKnown = true)
    ∧ (∃ (s : State) (id : Nat) (d : Desc) (n : Nat), Runs s id 0x22 d ∧ n < 8 ∧ (le d.bytes 16 1).testBit n = true ∧ (tileOf s n).present = true ∧ (tileOf s n).phase = .ready) :=
  ⟨⟨(given (desc 0x20)), 7, desc 0x20, by unfold Runs; decide⟩,
    ⟨(given (desc 0x20 [(16, 7), (17, 1)]) (tile 7 (fun t => { t with present := true, header := some hdr, headerBytes := [1], phase := .ready, baseKnown := true }))), 7, desc 0x20 [(16, 7), (17, 1)], by unfold Runs; decide⟩,
    ⟨(given (desc 0x20 [(16, 7), (17, 1)])), 7, desc 0x20 [(16, 7), (17, 1)], by unfold Runs; decide⟩,
    ⟨.returnTile 7, (given (desc 0x20 [(16, 7), (17, 6)]) (tile 7 (fun t => { t with present := true, header := some hdr, headerBytes := [1], phase := .ready, baseKnown := true }))), 7, desc 0x20 [(16, 7), (17, 6)], by unfold Runs; decide⟩,
    ⟨(given (desc 0x20 [(16, 7), (17, 3)]) (tile 7 (fun t => { t with present := true, header := some hdr, headerBytes := [1], phase := .ready, baseKnown := true }))), 7, desc 0x20 [(16, 7), (17, 3)], by unfold Runs; decide⟩,
    ⟨(given (desc 0x20 [(16, 7), (17, 3)])), 7, desc 0x20 [(16, 7), (17, 3)], by unfold Runs; decide⟩,
    ⟨(given (desc 0x20 [(17, 4)])), 7, desc 0x20 [(17, 4)], by unfold Runs; decide⟩,
    ⟨(given (desc 0x20 [(17, 5)])), 7, desc 0x20 [(17, 5)], by unfold Runs; decide⟩,
    ⟨(given (desc 0x21 [(16, 7)]) (tile 7 (fun t => { t with present := true, header := some hdr, headerBytes := [1], phase := .ready, baseKnown := true }))), 7, desc 0x21 [(16, 7)], by unfold Runs; decide⟩,
    ⟨(given (desc 0x22 [(16, 128)]) (tile 7 (fun t => { t with present := true, header := some hdr, headerBytes := [1], phase := .ready, baseKnown := true }))), 7, desc 0x22 [(16, 128)], 7, by unfold Runs; decide⟩⟩

theorem test_witness_VerdictMaps :
    (∃ (s : State) (id : Nat) (d : Desc), Runs s id 0x23 d ∧ dmaOk s = true ∧ (tileOf s (le d.bytes 16 1)).noOwner = false ∧ (tileOf s (le d.bytes 16 1)).present = true)
    ∧ (∃ (s : State) (id : Nat) (d : Desc), Runs s id 0x23 d ∧ (tileOf s (le d.bytes 16 1)).noOwner = true)
    ∧ (∃ (s : State), runs .frond s = true ∧ s.nvm.running = true)
    ∧ (∃ (s : State) (n : Fin 8) (m : Bytes) (h : Header), runs .frond s = true ∧ (tileOf s n.val).mapPending = true ∧ (tileOf s n.val).header = some h) :=
  ⟨⟨(given (desc 0x23 [(16, 7)]) (tile 7 (fun t => { t with present := true, header := some hdr, headerBytes := [1], phase := .ready, baseKnown := true }))), 7, desc 0x23 [(16, 7)], by unfold Runs; decide⟩,
    ⟨(given (desc 0x23 [(16, 7)]) (tile 7 (fun t => { t with noOwner := true }))), 7, desc 0x23 [(16, 7)], by unfold Runs; decide⟩,
    ⟨live, by decide⟩,
    ⟨(tile 7 (fun t => { t with header := some hdr, mapPending := true })), 7, [], hdr, by decide⟩⟩

theorem test_witness_SpareFronds :
    (∃ (s : State) (f : Fin 9) (k : Fin 16) (seen : Bool), runs .ring s = true ∧ ((frondOf s f.val).role = .active ∨ (frondOf s f.val).role = .suspect) ∧ s.faults.inj = none)
    ∧ (∃ (s : State) (f : Fin 9) (k : Fin 16) (seen : Bool), runs .ring s = true ∧ (frondOf s f.val).role = .active ∧ s.faults.inj = none)
    ∧ (∃ (s : State) (f : Fin 9) (k : Fin 16) (seen : Bool) (n g : Nat), runs .ring s = true ∧ (frondOf s f.val).role = .suspect ∧ s.faults.inj = none ∧ heldBy s f.val = some n ∧ spareOf s = some g)
    ∧ (∃ (s : State) (f : Fin 9) (k : Fin 16) (seen : Bool) (n : Nat), runs .ring s = true ∧ (frondOf s f.val).role = .suspect ∧ s.faults.inj = none ∧ heldBy s f.val = some n ∧ spareOf s = none)
    ∧ (∃ (s : State) (f : Fin 9) (k : Fin 16) (seen : Bool), runs .ring s = true ∧ (frondOf s f.val).role = .spare ∧ heldBy s f.val = none ∧ s.faults.inj = none)
    ∧ (∃ (s : State) (n : Fin 8) (g : Nat), runs .frond s = true ∧ (tileOf s n.val).takeover = true ∧ (tileOf s n.val).owner = some g ∧ (frondOf s g).shifting = none)
    ∧ (∃ (s : State) (f : Fin 9) (w : StaleWrite), runs .ring s = true ∧ (frondOf s f.val).role = .quarantined)
    ∧ (∃ (s : State) (id : Nat) (d : Desc), Runs s id 0x70 d ∧ (frondOf s (le d.bytes 16 1)).role = .quarantined)
    ∧ (∃ (s : State) (f : Fin 9) (id : Nat) (d : Desc), runs .frond s = true ∧ (frondOf s f.val).role = .selftest ∧ (frondOf s f.val).reinstate = some id ∧ descOf s id = some d ∧ (∀ n, n < 8 → (tileOf s n).noOwner = false))
    ∧ (∃ (s : State) (f : Fin 9) (code id : Nat) (d : Desc), runs .frond s = true ∧ (frondOf s f.val).role = .selftest ∧ (frondOf s f.val).reinstate = some id ∧ descOf s id = some d ∧ 2 ≤ code ∧ code ≤ 5) :=
  ⟨⟨live, 7, 15, true, by decide⟩,
    ⟨live, 7, 0, false, by decide⟩,
    ⟨(frond 0 (fun x => { x with role := .suspect }) (tile 0 (fun t => { t with owner := some 0, enabled := true, present := true }))), 0, 3, true, 0, 8, by decide⟩,
    ⟨(frond 8 (fun x => { x with role := .quarantined }) (frond 0 (fun x => { x with role := .suspect }) (tile 0 (fun t => { t with owner := some 0, enabled := true, present := true })))), 0, 3, true, 0, by decide⟩,
    ⟨(frond 8 (fun x => { x with role := .spare })), 8, 0, true, by decide⟩,
    ⟨(tile 7 (fun t => { t with takeover := true, owner := some 8 })), 7, 8, by decide⟩,
    ⟨(frond 8 (fun x => { x with role := .quarantined })), 8, .check, by decide⟩,
    ⟨(given (desc 0x70 [(16, 8)]) (frond 8 (fun x => { x with role := .quarantined }))), 7, desc 0x70 [(16, 8)], by unfold Runs; decide⟩,
    ⟨(frond 8 (fun x => { x with role := .selftest, reinstate := some 7 }) (given (desc 0x70))), 8, 7, desc 0x70, by decide⟩,
    ⟨(frond 8 (fun x => { x with role := .selftest, reinstate := some 7 }) (given (desc 0x70))), 8, 5, 7, desc 0x70, by decide⟩⟩

theorem test_witness_DemandsAndDiscrepancies :
    (∃ (s : State) (ch : Chan) (p : Pair), runs .safety s = true ∧ pairOn s p = true)
    ∧ (∃ (s : State) (ch : Chan) (p : Pair), runs .safety s = true ∧ signalled (chanOf s ch) p = true)
    ∧ (∃ (s : State) (ch : Chan) (p : Pair), runs .safety s = true ∧ pairOn s p = true)
    ∧ (∃ (s : State) (ch : Chan) (p : Pair), runs .safety s = true)
    ∧ (∃ (s : State) (ch : Chan), runs .safety s = true ∧ pairDisc s .hatch = false ∧ (chanOf s ch).demHatch = true)
    ∧ (∃ (s : State) (ch : Chan), runs .safety s = true ∧ pairDisc s .estop = false ∧ (chanOf s ch).demEstop = true)
    ∧ (∃ (s : State), runs .safety s = true) :=
  ⟨⟨{ live with safety := { live.safety with inForce := List.replicate 512 0xFF#8, src := 1 } }, .b, .estop, by decide⟩,
    ⟨(chan .b (fun x => { x with sigEstop := true })), .b, .estop, by decide⟩,
    ⟨{ live with safety := { live.safety with inForce := List.replicate 512 0xFF#8, src := 1 } }, .b, .hatch, by decide⟩,
    ⟨live, .a, .hatch, by decide⟩,
    ⟨(chan .b (fun x => { x with demHatch := true })), .b, by decide⟩,
    ⟨(chan .a (fun x => { x with demEstop := true })), .a, by decide⟩,
    ⟨live, by decide⟩⟩

theorem test_witness_ExchangesAndChecks :
    (∃ (s : State) (ch : Chan) (r : SelftestResult), runs .safety s = true ∧ s.power.held = false ∧ (chanOf s ch).selftestDone = false)
    ∧ (∃ (s : State) (agree : Bool), runs .safety s = true)
    ∧ (∃ (s : State) (ch : Chan), runs .safety s = true)
    ∧ (∃ (s : State) (ch : Chan), runs .safety s = true ∧ pairOn s .estop = true ∧ (chanOf s ch).selftestOk = true ∧ (chanOf s ch).inTest = false)
    ∧ (∃ (s : State) (ch : Chan) (e : EchoSeen), runs .safety s = true ∧ (chanOf s ch).inTest = true)
    ∧ (∃ (s : State) (ch : Chan), runs .safety s = true ∧ fbOn s ch = true ∧ (chanOf s ch).slo = true ∧ (chanOf s ch).outTest = false)
    ∧ (∃ (s : State) (ch : Chan) (low high : Bool), runs .safety s = true ∧ (chanOf s ch).outTest = true)
    ∧ (∃ (s : State) (ch : Chan) (level : Bool), runs .safety s = true ∧ (chanOf s ch).outTest = false)
    ∧ (∃ (s : State) (ch : Chan) (n : Fin 8) (st : List StripRet), runs .safety s = true ∧ (∀ w ∈ divWindows s n.val st, divTrips (w.2.2.1, w.2.2.2) = false))
    ∧ (∃ (s : State) (ch : Chan) (n : Fin 8) (st : List StripRet) (w : Nat × Nat × Nat × Nat), runs .safety s = true ∧ w ∈ divWindows s n.val st ∧ divTrips (w.2.2.1, w.2.2.2) = true) :=
  ⟨⟨(withSet), .b, { ok := true, hatchHigh := false, estopHigh := false, fbHigh := false }, by decide⟩,
    ⟨live, true, by decide⟩,
    ⟨live, .b, by decide⟩,
    ⟨(chan .b (fun x => { x with selftestOk := true }) ({ live with safety := { live.safety with inForce := List.replicate 512 0xFF#8, src := 1 } })), .b, by decide⟩,
    ⟨(chan .b (fun x => { x with inTest := true })), .b, { fell := false, returned := false, otherFell := false }, by decide⟩,
    ⟨(chan .b (fun x => { x with slo := true }) ({ live with safety := { live.safety with inForce := List.replicate 512 0xFF#8, src := 1 } })), .b, by decide⟩,
    ⟨(chan .b (fun x => { x with outTest := true })), .b, true, false, by decide⟩,
    ⟨live, .b, true, by decide⟩,
    ⟨live, .b, 7, [], by decide, by
  intro w hw
  obtain ⟨i, -, hw⟩ := List.mem_flatMap.mp hw
  obtain ⟨j, -, rfl⟩ := List.mem_map.mp hw
  have h : (divWindow live (7 : Fin 8).val [] i j).1 = 0 := Nat.zero_mul _
  unfold divTrips
  simp only [h]
  exact decide_eq_false (by omega)⟩,
    trip_exists lit .b 0 [bright] (by decide) bright_trips⟩

theorem test_witness_SafetySet :
    (∃ (s : State) (id : Nat) (d : Desc) (b : Bytes), Runs s id 0x31 d ∧ le d.bytes 20 4 ≤ 512 ∧ d.failed = false ∧ d.data = some b ∧ setError (withCheck (b ++ s.safety.inForce.drop (le d.bytes 20 4))) = none)
    ∧ (∃ (s : State) (id : Nat) (d : Desc) (b : Bytes) (e : Nat × Nat), Runs s id 0x31 d ∧ le d.bytes 20 4 ≤ 512 ∧ d.failed = false ∧ d.data = some b ∧ setError (withCheck (b ++ s.safety.inForce.drop (le d.bytes 20 4))) = some e)
    ∧ (∃ (s : State) (id : Nat) (d : Desc), Runs s id 0x30 d ∧ dmaOk s = true ∧ ((setByNo s (le d.bytes 16 1)).take (min (le d.bytes 20 4) 512)).isEmpty = false)
    ∧ (∃ (s : State) (id : Nat) (d : Desc), Runs s id 0x32 d ∧ s.safety.confirm = none ∧ s.safety.confirmEn = true ∧ s.safety.staged.isEmpty = false ∧ le d.bytes 16 4 = setCheck s.safety.staged ∧ s.power.inhibit = false)
    ∧ (∃ (s : State) (id : Nat) (d : Desc), Runs s id 0x32 d ∧ s.safety.confirm = none ∧ s.safety.confirmEn = false)
    ∧ (∃ (s : State) (id : Nat) (d : Desc) (p : Page), runs .safety s = true ∧ s.safety.confirm = some (id, true) ∧ descOf s id = some d ∧ pageOf s (if s.safety.copy = 1 then 7298 else 7297) = some p)
    ∧ (∃ (s : State) (level0 : Bool) (v : BitVec 32), barOpen s = true) :=
  ⟨⟨(given (desc 0x31 [] (some [])) (withSet)), 7, desc 0x31 [] (some []), [], by unfold Runs; decide +kernel⟩,
    ⟨given (desc 0x31 [] (some [])), 7, desc 0x31 [] (some []), [], (0, 0), by unfold Runs; decide +kernel⟩,
    ⟨(given (desc 0x30 [(20, 255), (21, 255)]) (withSet)), 7, desc 0x30 [(20, 255), (21, 255)], by unfold Runs; decide⟩,
    ⟨{ given (desc 0x32) with safety := { live.safety with staged := List.replicate 512 0#8 } }, 7, desc 0x32, by unfold Runs; decide +kernel⟩,
    ⟨(given (desc 0x32) { live with safety := { live.safety with confirmEn := false } }), 7, desc 0x32, by unfold Runs; decide⟩,
    ⟨{ given (desc 0x32) with safety := { live.safety with confirm := some (7, true) }, nvm := { live.nvm with pages := [(7297, { bytes := [], seq := 1 })] } }, 7, desc 0x32, { bytes := [], seq := 1 }, by decide⟩,
    ⟨live, true, 0x80000000#32, by decide⟩⟩

theorem test_witness_FaultPromotion :
    (∃ (s : State) (k : Fin 512), runs .safety s = true ∧ s.faults.started = true ∧ (slotInfo k.val).isSome = true ∧ s.faults.drive.testBit k.val = true ∧ s.faults.accepted.testBit k.val = false ∧ s.faults.cond.testBit k.val = false ∧ (slotOf s k.val).wire = false ∧ (slotOf s k.val).wcount = 0 ∧ ((slotInfo k.val).map Prod.snd = some true ∨ (slotOf s k.val).n ≤ 1))
    ∧ (∃ (s : State) (k : Fin 512) (c : Nat), runs .safety s = true ∧ s.faults.started = true ∧ slotInfo k.val = some (c, false) ∧ s.faults.drive.testBit k.val = true ∧ s.faults.accepted.testBit k.val = false ∧ (slotOf s k.val).wire = false ∧ (slotOf s k.val).wcount = 0 ∧ 1 < (slotOf s k.val).n)
    ∧ (∃ (s : State) (k : Fin 512) (code : Bool), runs .safety s = true ∧ s.faults.started = true ∧ (slotInfo k.val).isSome = true ∧ (slotOf s k.val).wire = false ∧ (∀ j, s.faults.inj = some j → j.slot ≠ k.val ∨ j.checker ≠ 3))
    ∧ (∃ (s : State) (k : Fin 512) (code : Bool) (j : Inject), runs .safety s = true ∧ s.faults.started = true ∧ (slotInfo k.val).isSome = true ∧ (slotOf s k.val).wire = false ∧ s.faults.inj = some j ∧ j.slot = k.val ∧ j.checker = 3)
    ∧ (∃ (s : State) (k : Fin 512), runs .safety s = true ∧ 0 < (slotOf s k.val).wcount) :=
  ⟨⟨{ live with faults := { live.faults with started := true, drive := 1 } }, 0, by decide⟩,
    ⟨{ live with faults := { live.faults with started := true, drive := 1, slots := [(0, { cls := 1, n := 2 })] } }, 0, 1, by decide⟩,
    ⟨{ live with faults := { live.faults with started := true, drive := 0 } }, 498, true, by decide⟩,
    ⟨{ live with faults := { live.faults with started := true, inj := some { id := 7, slot := 498, checker := 3, left := 1 } } }, 498, true, { id := 7, slot := 498, checker := 3, left := 1 }, by decide⟩,
    ⟨(slot 511 (fun x => { x with wcount := 1 })), 511, by decide⟩⟩

theorem test_witness_FaultHandling :
    (∃ (s : State) (id : Nat) (d : Desc), Runs s id 0x38 d ∧ le d.bytes 16 2 ≠ 0xFFFF ∧ (slotOf s (le d.bytes 16 2)).unack ≠ 0 ∧ lineGood s (le d.bytes 16 2) = true)
    ∧ (∃ (s : State) (id : Nat) (d : Desc), Runs s id 0x38 d ∧ le d.bytes 16 2 ≠ 0xFFFF ∧ (slotOf s (le d.bytes 16 2)).unack ≠ 0 ∧ lineGood s (le d.bytes 16 2) = false)
    ∧ (∃ (s : State) (id : Nat) (d : Desc), Runs s id 0x39 d ∧ s.faults.inj = none)
    ∧ (∃ (s : State) (id : Nat) (d : Desc), Runs s id 0x39 d ∧ s.faults.inj.isSome = true)
    ∧ (∃ (s : State) (j : Inject) (d : Desc), runs .ring s = true ∧ s.faults.inj = some j ∧ descOf s j.id = some d)
    ∧ (∃ (s : State) (v : BitVec 32), barOpen s = true ∧ v.toNat.testBit 0 = true)
    ∧ (∃ (s : State), runs .mp s = true ∧ 0 < s.faults.uncopied ∧ (s.nvm.queue.any fun r => match r.why with | .logCopy _ => true | _ => false) = false ∧ s.power.inhibit = false)
    ∧ (∃ (s : State) (base : Nat), runs .frond s = true)
    ∧ (∃ (s : State), runs .safety s = true ∧ s.power.held = false ∧ s.faults.started = false) :=
  ⟨⟨(given (desc 0x38 [(16, 208)]) (slot 208 (fun x => { x with unack := 2 }))), 7, desc 0x38 [(16, 208)], by unfold Runs; decide⟩,
    ⟨(given (desc 0x38 [(16, 208)]) { slot 208 (fun x => { x with unack := 2, wire := true }) with power := live.power }), 7, desc 0x38 [(16, 208)], by unfold Runs; decide⟩,
    ⟨(given (desc 0x39)), 7, desc 0x39, by unfold Runs; decide⟩,
    ⟨(given (desc 0x39) { live with faults := { live.faults with inj := some { id := 5, slot := 0, checker := 0, left := 1 } } }), 7, desc 0x39, by unfold Runs; decide⟩,
    ⟨{ given (desc 0x39) with faults := { live.faults with inj := some { id := 7, slot := 0, checker := 0, left := 1 } } }, { id := 7, slot := 0, checker := 0, left := 1 }, desc 0x39, by decide⟩,
    ⟨live, 1#32, by decide⟩,
    ⟨{ live with faults := { live.faults with uncopied := 1 } }, by decide⟩,
    ⟨live, 10500, by decide⟩,
    ⟨live, by decide⟩⟩

theorem test_witness_CalibrationRuns :
    (∃ (s : State) (id : Nat) (d : Desc), Runs s id 0x40 d ∧ le d.bytes 16 2 = 0xFFFF ∧ s.cal.running = false)
    ∧ (∃ (s : State) (id : Nat) (d : Desc), Runs s id 0x40 d ∧ le d.bytes 16 2 = 0xFFFF ∧ s.cal.running = true)
    ∧ (∃ (s : State) (id : Nat) (d : Desc), Runs s id 0x40 d ∧ le d.bytes 16 2 ≠ 0xFFFF)
    ∧ (∃ (s : State) (c : Fin 192) (hi lo : Nat) (v : Int), runs .mp s = true ∧ s.cal.now = some (c.val, false, true) ∧ s.cal.todo ≠ [] ∧ 900000 ≤ hi ∧ hi ≤ 1100000 ∧ max hi lo - min hi lo ≤ 5000 ∧ v = 64 + roundAway ((936 + ((calOf s c.val).trim : Int)) * 1000000 - 1000 * hi) hi ∧ 0 ≤ v ∧ v ≤ 127 ∧ (v - tInterp s c.val).natAbs ≤ 24)
    ∧ (∃ (s : State) (c : Fin 192) (hi lo : Nat), runs .mp s = true ∧ s.cal.now = some (c.val, false, true) ∧ s.cal.todo ≠ [] ∧ (hi < 900000 ∨ 1100000 < hi ∨ 5000 < max hi lo - min hi lo)) :=
  ⟨⟨(given (desc 0x40 [(16, 255), (17, 255)])), 7, desc 0x40 [(16, 255), (17, 255)], by unfold Runs; decide⟩,
    ⟨(given (desc 0x40 [(16, 255), (17, 255)]) { live with cal := { live.cal with running := true } }), 7, desc 0x40 [(16, 255), (17, 255)], by unfold Runs; decide⟩,
    ⟨(given (desc 0x40 [(16, 191)])), 7, desc 0x40 [(16, 191)], by unfold Runs; decide⟩,
    ⟨{ live with cal := { live.cal with now := some (191, false, true), todo := [191] } }, 191, 1000000, 1005000, 64, by decide⟩,
    ⟨{ live with cal := { live.cal with now := some (191, false, true), todo := [191] } }, 191, 899999, 899999, by decide⟩⟩

theorem test_witness_Temperatures :
    (∃ (s : State), runs .mp s = true ∧ s.nvm.running = true)
    ∧ (∃ (s : State) (id : Nat) (d : Desc), Runs s id 0x41 d)
    ∧ (∃ (s : State) (seen : List SensorSeen) (d : Demand) (r : List Demand) (i : Nat) (e : SensorSeen) (v : Int), runs .mp s = true ∧ s.nvm.running = true ∧ s.therm.demands = d :: r ∧ i < 20 ∧ d.mask.testBit i = true ∧ sensorDisabled s i = false ∧ (sensorOf s i).failed = false ∧ seen.find? (fun e => e.sensor.val == i) = some e ∧ e.raw = some v ∧ -880 ≤ v ∧ v ≤ 2400)
    ∧ (∃ (s : State) (seen : List SensorSeen) (d : Demand) (r : List Demand) (i : Nat), runs .mp s = true ∧ s.nvm.running = true ∧ s.therm.demands = d :: r ∧ i < 22 ∧ d.mask.testBit i = true ∧ sensorDisabled s i = false ∧ (sensorOf s i).failed = false ∧ seen.find? (fun e => e.sensor.val == i) = none)
    ∧ (∃ (s : State) (k : Fin 9), runs .mp s = true ∧ s.nvm.running = true ∧ floorOf (domainOf s k.val) < (domainOf s k.val).level ∧ (∀ i ∈ members s k.val, (sensorOf s i).valid = false ∨ (sensorOf s i).reading < (sensorOf s i).tArm ∨ ((sensorOf s i).rateOk = true ∧ (sensorOf s i).rate ≤ 0)))
    ∧ (∃ (s : State) (v : BitVec 32), barOpen s = true) :=
  ⟨⟨live, by decide⟩,
    ⟨(given (desc 0x41)), 7, desc 0x41, by unfold Runs; decide⟩,
    ⟨{ live with therm := { live.therm with demands := [{ mask := 2 ^ 22 - 1 }] } }, [{ sensor := 0, raw := some 2400 }], { mask := 2 ^ 22 - 1 }, [], 0, { sensor := 0, raw := some 2400 }, 2400, by decide⟩,
    ⟨{ live with therm := { live.therm with demands := [{ mask := 2 ^ 22 - 1 }] } }, [], { mask := 2 ^ 22 - 1 }, [], 11, by decide⟩,
    ⟨putDomain live 8 { level := 1 }, 8, by decide⟩,
    ⟨live, 0x1FF#32, by decide⟩⟩

theorem test_witness_InhibitAndShutdown :
    (∃ (s : State), s.power.inhibit = false)
    ∧ (∃ (s : State), s.power.inhibit = true)
    ∧ (∃ (s : State), s.power.thermLatch = false) :=
  ⟨⟨live, by decide⟩,
    ⟨{ live with power := { live.power with inhibit := true } }, by decide⟩,
    ⟨live, by decide⟩⟩

theorem test_witness_PortTraining :
    (∃ (s : State) (p : Fin 2) (v : BitVec 32), barOpen s = true ∧ v.toNat.testBit 0 = true ∧ (portOf s p.val).st = .disabled ∧ s.power.crefOk = true)
    ∧ (∃ (s : State) (p : Fin 2), runs .chain s = true ∧ (portOf s p.val).st ≠ .disabled)
    ∧ (∃ (s : State) (p : Fin 2), runs .chain s = true ∧ (portOf s p.val).st = .backoff)
    ∧ (∃ (s : State) (p : Fin 2), runs .chain s = true ∧ (portOf s p.val).st = .backoff)
    ∧ (∃ (s : State) (p : Fin 2), runs .chain s = true ∧ (portOf s p.val).st ≠ .backoff ∧ (portOf s p.val).rxSleep = true)
    ∧ (∃ (s : State) (p : Fin 2) (v : BitVec 24), Hears s p.val 1 v ∧ bits v.toNat 12 4 = 1 ∧ (portOf s p.val).lock = true ∧ (portOf s p.val).st = .lock)
    ∧ (∃ (s : State) (p : Fin 2) (v : BitVec 24) (k n : Nat), Hears s p.val 2 v ∧ (portOf s p.val).st = .capability ∧ k = bits v.toNat 17 3 ∧ n = bits v.toNat 4 11 ∧ (n = 0 ∨ (33 ≤ n ∧ n ≤ 1024)))
    ∧ (∃ (s : State) (p : Fin 2), runs .chain s = true ∧ ((portOf s p.val).st = .lock ∨ (portOf s p.val).st = .capability)) :=
  ⟨⟨live, 1, 1#32, by decide⟩,
    ⟨(port 1 (fun x => { x with st := .lock })), 1, by decide⟩,
    ⟨(port 1 (fun x => { x with st := .backoff })), 1, by decide⟩,
    ⟨(port 1 (fun x => { x with st := .backoff })), 1, by decide⟩,
    ⟨(port 1 (fun x => { x with st := .up, rxSleep := true })), 1, by decide⟩,
    ⟨(port 1 (fun x => { x with st := .lock, lock := true })), 1, (BitVec.ofNat 24 (osPayload 1 (at_ 12 1))), by unfold Hears; decide⟩,
    ⟨(port 1 (fun x => { x with st := .capability })), 1, (BitVec.ofNat 24 (osPayload 2 (at_ 17 7 + at_ 4 1024))), 7, 1024, by unfold Hears; decide⟩,
    ⟨(port 1 (fun x => { x with st := .capability })), 1, by decide⟩⟩

theorem test_witness_PortDown :
    (∃ (s : State) (p : Fin 2) (v : BitVec 32), barOpen s = true ∧ v.toNat.testBit 0 = false ∧ linkUp (portOf s p.val) = true)
    ∧ (∃ (s : State) (p : Fin 2) (v : BitVec 32), barOpen s = true ∧ v.toNat.testBit 0 = true ∧ v.toNat.testBit 16 = true ∧ linkUp (portOf s p.val) = true)
    ∧ (∃ (s : State) (p : Fin 2), runs .chain s = true ∧ linkUp (portOf s p.val) = true ∧ (portOf s p.val).rxSleep = false)
    ∧ (∃ (s : State) (p : Fin 2), runs .chain s = true ∧ linkUp (portOf s p.val) = true ∧ (portOf s p.val).rxSleep = false)
    ∧ (∃ (s : State) (p : Fin 2), runs .chain s = true ∧ (portOf s p.val).rxSleep = true)
    ∧ (∃ (s : State) (p : Fin 2), runs .chain s = true ∧ (portOf s p.val).rxSleep = true)
    ∧ (∃ (s : State) (p : Fin 2) (v : BitVec 24), Hears s p.val 7 v ∧ linkUp (portOf s p.val) = true)
    ∧ (∃ (s : State) (p : Fin 2), runs .chain s = true ∧ (portOf s p.val).rxSleep = true ∧ (portOf s p.val).waking = true ∧ linkUp (portOf s p.val) = true)
    ∧ (∃ (s : State) (p : Fin 2) (v : BitVec 24) (k d : Nat), Hears s p.val 3 v ∧ flows (portOf s p.val) = true ∧ k = bits v.toNat 17 3 ∧ d = (bits v.toNat 4 13 + 8192 - (credOf s p.val k).seen) % 8192)
    ∧ (∃ (s : State) (p : Fin 2), runs .mp s = true ∧ (portOf s p.val).st = .up) :=
  ⟨⟨(port 1 (fun x => { x with st := .fallback })), 1, 0#32, by decide⟩,
    ⟨(port 1 (fun x => { x with st := .up })), 1, 0x10001#32, by decide⟩,
    ⟨(port 1 (fun x => { x with st := .stepTrial })), 1, by decide⟩,
    ⟨(port 1 (fun x => { x with st := .stepTrial })), 1, by decide⟩,
    ⟨(port 1 (fun x => { x with st := .up, rxSleep := true })), 1, by decide⟩,
    ⟨(port 1 (fun x => { x with st := .up, rxSleep := true })), 1, by decide⟩,
    ⟨(port 1 (fun x => { x with st := .up })), 1, (BitVec.ofNat 24 (osPayload 7 (0))), by unfold Hears; decide⟩,
    ⟨(port 1 (fun x => { x with st := .up, rxSleep := true, waking := true })), 1, by decide⟩,
    ⟨(port 1 (fun x => { x with st := .up })), 1, (BitVec.ofNat 24 (osPayload 3 (at_ 17 7 + at_ 4 8191))), 7, 8191, by unfold Hears; decide⟩,
    ⟨(port 1 (fun x => { x with st := .up })), 1, by decide⟩⟩

theorem test_witness_PortSteps :
    (∃ (s : State) (x : Port), runs .chain s = true ∧ x = portOf s 1 ∧ x.st = .up ∧ x.asking = false ∧ x.noStep = false ∧ x.partnerWest = false ∧ x.tx = none ∧ x.txSleep = false ∧ x.step < min x.maxStep x.partnerMax)
    ∧ (∃ (s : State) (v : BitVec 24) (n : Nat), Hears s 0 4 v ∧ (portOf s 0).st = .up ∧ stepCode v = 0 ∧ n = bits v.toNat 18 2 ∧ (portOf s 0).partnerWest = true)
    ∧ (∃ (s : State) (v : BitVec 24), Hears s 1 4 v ∧ (portOf s 1).st = .up ∧ (portOf s 1).asking = true ∧ stepCode v = 1 ∧ bits v.toNat 18 2 = (portOf s 1).target)
    ∧ (∃ (s : State) (v : BitVec 24), runs .chain s = true ∧ (portOf s 1).st = .up ∧ (portOf s 1).asking = true ∧ Hears s 1 4 v ∧ stepCode v = 2)
    ∧ (∃ (s : State) (p : Fin 2) (v : BitVec 24), Hears s p.val 4 v ∧ (portOf s p.val).st = .stepTrial ∧ stepCode v = 3)
    ∧ (∃ (s : State) (p : Fin 2), runs .chain s = true ∧ (portOf s p.val).st = .stepTrial ∧ (portOf s p.val).goodSent = false)
    ∧ (∃ (s : State) (p : Fin 2), runs .chain s = true ∧ (portOf s p.val).st = .stepSwitch)
    ∧ (∃ (s : State) (p : Fin 2), runs .chain s = true ∧ (portOf s p.val).st = .fallback) :=
  ⟨⟨(port 1 (fun x => { x with st := .up, partnerMax := 1 })), portOf (port 1 (fun x => { x with st := .up, partnerMax := 1 })) 1, by decide⟩,
    ⟨(port 0 (fun x => { x with st := .up, partnerWest := true })), (BitVec.ofNat 24 (osPayload 4 (at_ 18 3))), 3, by unfold Hears; decide⟩,
    ⟨(port 1 (fun x => { x with st := .up, asking := true, target := 3 })), (BitVec.ofNat 24 (osPayload 4 (at_ 18 3 + at_ 16 1))), by unfold Hears; decide +kernel⟩,
    ⟨(port 1 (fun x => { x with st := .up, asking := true })), (BitVec.ofNat 24 (osPayload 4 (at_ 16 2))), by unfold Hears; decide +kernel⟩,
    ⟨(port 1 (fun x => { x with st := .stepTrial })), 1, (BitVec.ofNat 24 (osPayload 4 (at_ 16 3))), by unfold Hears; decide⟩,
    ⟨(port 1 (fun x => { x with st := .stepTrial })), 1, by decide⟩,
    ⟨(port 1 (fun x => { x with st := .stepSwitch })), 1, by decide⟩,
    ⟨(port 1 (fun x => { x with st := .fallback })), 1, by decide⟩⟩

theorem test_witness_PortSleep :
    (∃ (s : State) (p : Fin 2) (v : BitVec 24), Hears s p.val 5 v ∧ flows (portOf s p.val) = true)
    ∧ (∃ (s : State) (p : Fin 2) (v : BitVec 24), Hears s p.val 6 v ∧ (portOf s p.val).rxSleep = true ∧ (portOf s p.val).waking = true ∧ (portOf s p.val).lock = true)
    ∧ (∃ (s : State) (p : Fin 2) (x : Port), runs .chain s = true ∧ x = portOf s p.val ∧ x.sleepEn = true ∧ x.partnerSleep = true ∧ x.st = .up ∧ x.asking = false ∧ x.queue = [] ∧ x.tx = none ∧ x.txSleep = false)
    ∧ (∃ (s : State) (p : Fin 2), runs .chain s = true ∧ (portOf s p.val).txSleep = true)
    ∧ (∃ (s : State) (p : Fin 2) (b : Bool), runs .chain s = true ∧ (portOf s p.val).st ≠ .disabled ∧ (portOf s p.val).rxSleep = false)
    ∧ (∃ (s : State) (p : Fin 2), runs .chain s = true ∧ ((portOf s p.val).st = .lock ∨ (portOf s p.val).st = .backoff ∨ (portOf s p.val).st = .stepSwitch ∨ (portOf s p.val).st = .fallback))
    ∧ (∃ (s : State) (p : Fin 2), runs .chain s = true ∧ flows (portOf s p.val) = true ∧ (portOf s p.val).txSleep = false)
    ∧ (∃ (s : State) (p : Fin 2), runs .chain s = true ∧ (portOf s p.val).st = .capability) :=
  ⟨⟨(port 1 (fun x => { x with st := .up })), 1, (BitVec.ofNat 24 (osPayload 5 (0))), by unfold Hears; decide⟩,
    ⟨(port 1 (fun x => { x with st := .up, rxSleep := true, waking := true, lock := true })), 1, (BitVec.ofNat 24 (osPayload 6 (0))), by unfold Hears; decide⟩,
    ⟨(port 1 (fun x => { x with st := .up, sleepEn := true, partnerSleep := true })), 1, portOf (port 1 (fun x => { x with st := .up, sleepEn := true, partnerSleep := true })) 1, by decide⟩,
    ⟨(port 1 (fun x => { x with st := .up, txSleep := true })), 1, by decide⟩,
    ⟨(port 1 (fun x => { x with st := .up })), 1, true, by decide⟩,
    ⟨(port 1 (fun x => { x with st := .fallback })), 1, by decide⟩,
    ⟨(port 1 (fun x => { x with st := .stepTrial })), 1, by decide⟩,
    ⟨(port 1 (fun x => { x with st := .capability })), 1, by decide⟩⟩

theorem test_witness_LineCoding :
    (∃ (n i : Nat), 58 ≤ i ∧ i < n)
    ∧ (∃ (p : Nat), p < 2 ^ 24)
    ∧ (∃ (p : Nat), p < 2 ^ 24)
    ∧ (∃ (p : Nat), p < 2 ^ 24)
    ∧ (∃ (p : Nat), p < 2 ^ 24)
    ∧ (∃ (p : Nat), p < 2 ^ 24)
    ∧ (∃ (b : Bytes) (bad : Bool) (i : Nat), i < b.length / 8)
    ∧ (∃ (s : State) (p : Fin 2) (x : TxFrame) (f : PoolFrame), runs .chain s = true ∧ (portOf s p.val).tx = some x ∧ frameOf s x.frame = some f ∧ f.whole = true ∧ (portOf s p.val).asking = false)
    ∧ (∃ (s : State) (p : Fin 2), runs .chain s = true ∧ (portOf s p.val).st = .lock) :=
  ⟨⟨2052, 58, by decide⟩,
    ⟨2 ^ 24 - 1, by decide⟩,
    ⟨2 ^ 24 - 1, by decide⟩,
    ⟨2 ^ 24 - 1, by decide⟩,
    ⟨2 ^ 24 - 1, by decide⟩,
    ⟨2 ^ 24 - 1, by decide⟩,
    ⟨[0, 0, 0, 0, 0, 0, 0, 0], true, 0, by decide⟩,
    ⟨(port 1 (fun x => { x with st := .up, tx := some { frame := 3, ts := {} } }) { live with chain := { live.chain with frames := [pf] } }), 1, { frame := 3, ts := {} }, pf, by decide⟩,
    ⟨(port 1 (fun x => { x with st := .lock })), 1, by decide⟩⟩

theorem test_witness_FramesForwarded :
    (∃ (s : State) (p : Fin 2) (b : Bytes), runs .chain s = true ∧ flows (portOf s p.val) = true ∧ (portOf s p.val).lock = true ∧ (portOf s p.val).rxSleep = false ∧ (portOf s p.val).rx = none ∧ 2 ≤ s.chain.free)
    ∧ (∃ (s : State) (p : Fin 2) (b : Bytes) (e m : Bool) (r : RxFrame), runs .chain s = true ∧ flows (portOf s p.val) = true ∧ (portOf s p.val).rx = some r ∧ r.cut = none ∧ (portOf s p.val).st ≠ .stepTrial ∧ (e = true ∨ fcsGood b = false))
    ∧ (∃ (s : State) (p : Fin 2) (b : Bytes) (m : Bool) (r : RxFrame), runs .chain s = true ∧ flows (portOf s p.val) = true ∧ PoolInv s ∧ (portOf s p.val).rx = some r ∧ r.cut = none ∧ fcsGood b = true ∧ 64 ≤ b.length ∧ b.length ≤ 2052 ∧ classify s b = (true, false, false) ∧ s.chain.hostQ.find? (fun e => e.1 == r.prio) = none)
    ∧ (∃ (c : Instr) (s : State) (p : Fin 2) (n : Nat) (r : RxFrame), runs .chain s = true ∧ (c = .frameCut p n ∨ ∃ b e m, c = .frameReceived p b e m ∧ n = b.length ∧ flows (portOf s p.val) = false) ∧ (portOf s p.val).rx = some r ∧ r.cut = none)
    ∧ (∃ (s : State) (p : Fin 2) (f : PoolFrame), runs .chain s = true ∧ flows (portOf s p.val) = true ∧ (portOf s p.val).asking = false ∧ (portOf s p.val).tx = none ∧ (portOf s p.val).txSleep = false ∧ nextFrame s p.val 8 = some f)
    ∧ (∃ (s : State) (p : Fin 2) (x : TxFrame) (f : PoolFrame), runs .chain s = true ∧ (portOf s p.val).tx = some x ∧ frameOf s x.frame = some f ∧ f.whole = true ∧ (portOf s p.val).asking = false) :=
  ⟨⟨(port 1 (fun x => { x with st := .up, lock := true })), 1, [], by decide⟩,
    ⟨(port 1 (fun x => { x with st := .up, rx := some { cells := 2, prio := 6, ts := {} } })), 1, [], false, false, { cells := 2, prio := 6, ts := {} }, by decide⟩,
    ⟨port 1 (fun x => { x with st := .up, rx := some { cells := 2, prio := 6, ts := {} } }), 1, through, false, { cells := 2, prio := 6, ts := {} }, by unfold PoolInv; decide +kernel⟩,
    ⟨.frameCut 1 0, port 1 (fun x => { x with st := .up, rx := some { cells := 2, prio := 6, ts := {} } }), 1, 0, { cells := 2, prio := 6, ts := {} }, by decide, .inl rfl, by decide, by decide⟩,
    ⟨{ port 1 (fun x => { x with st := .up, queue := [3], cred := [(6, { adv := 0, advUsed := 0, init := 8 })] }) with chain := { (port 1 (fun x => { x with st := .up, queue := [3], cred := [(6, { adv := 0, advUsed := 0, init := 8 })] })).chain with frames := [pf] } }, 1, pf, by decide⟩,
    ⟨(port 1 (fun x => { x with st := .up, tx := some { frame := 3, ts := {} } }) { live with chain := { live.chain with frames := [pf] } }), 1, { frame := 3, ts := {} }, pf, by decide⟩⟩

theorem test_witness_HostFramesAndMessages :
    (∃ (s : State) (id : Nat) (d : Desc) (up : List Nat), Runs s id 0x48 d ∧ up = (egressPorts (le d.bytes 16 1)).filter (fun p => linkUp (portOf s p)) ∧ assembly s id = none)
    ∧ (∃ (s : State) (id p : Nat) (d : Desc) (b : Bytes) (f : PoolFrame), Runs s id 0x48 d ∧ le d.bytes 16 1 = p ∧ p < 2 ∧ linkUp (portOf s p) = true ∧ assembly s id = some f ∧ d.failed = false ∧ d.data = some b)
    ∧ (∃ (s : State) (id r : Nat) (d : Desc), Runs s id 0x49 d ∧ r = le d.bytes 16 1 ∧ 256 ≤ (s.chain.rxBufs.filter fun b => b.rxq == r).length)
    ∧ (∃ (s : State) (id r : Nat) (d : Desc), Runs s id 0x49 d ∧ r = le d.bytes 16 1 ∧ (s.chain.rxBufs.filter fun b => b.rxq == r).length < 256 ∧ s.chain.hostQ.find? (fun e => e.1 == r) = none)
    ∧ (∃ (s : State) (id r : Nat) (d : Desc) (e : Nat × Nat) (f : PoolFrame), Runs s id 0x49 d ∧ r = le d.bytes 16 1 ∧ s.chain.rxBufs.filter (fun b => b.rxq == r) = [] ∧ s.chain.hostQ.find? (fun e => e.1 == r) = some e ∧ frameOf s e.2 = some f ∧ dmaOk s = true ∧ f.poison = false ∧ s.faults.inj = none)
    ∧ (∃ (s : State), runs .chain s = true ∧ s.chain.free + queuedCells s ≠ 16384)
    ∧ (∃ (s : State) (q : Fin 64), runs .chain s = true ∧ 0 < queueCells s q.val ∧ s.chain.stale.testBit q.val = false)
    ∧ (∃ (s : State) (m : Bytes), runs .mp s = true ∧ s.power.held = false ∧ s.power.svcEn = true ∧ svcGood (unslip m) = false)
    ∧ (∃ (s : State) (m : Bytes), runs .mp s = true ∧ s.power.held = false ∧ s.power.svcEn = true ∧ svcGood (unslip m) = true ∧ (be (unslip m) 8 8 = dieNo ∨ s.chain.seen.contains (be (unslip m) 8 8, be (unslip m) 4 4) = true))
    ∧ (∃ (s : State) (id p : Nat) (r : List Nat) (f : PoolFrame) (m : Bytes), runs .mp s = true ∧ s.power.held = false ∧ s.chain.mgmtQ = id :: r ∧ frameOf s id = some f ∧ f.origin = .ingress p ∧ f.wants = [.mgmt] ∧ f.whole = true ∧ f.poison = false ∧ s.faults.inj = none ∧ etherType f.bytes = 0x88B5 ∧ m = (f.bytes.take (f.bytes.length - 4)).drop (payOff f.bytes) ∧ svcGood m = true ∧ be m 8 8 ≠ dieNo ∧ s.chain.seen.contains (be m 8 8, be m 4 4) = false ∧ le m 1 1 = 1 ∧ (le m 3 1).testBit 0 = false)
    ∧ (∃ (s : State), runs .mp s = true ∧ s.power.held = false ∧ (portOf s 0).st = .up ∧ (portOf s 1).st = .disabled ∧ cellsOf_ (svcFrame s (svcBytes 1 1 0 (s.chain.seq % 2 ^ 32) dieNo (helloPay 0 s))).length ≤ sharedFree s)
    ∧ (∃ (s : State) (image : Nat), runs .mp s = true ∧ namedImage s = some image ∧ firstMissing s < neededBlocks s ∧ s.nvm.noFw = true ∧ (portOf s 0).st = .up ∧ (portOf s 1).st = .disabled ∧ cellsOf_ (svcFrame s (svcBytes 4 64 1 (s.chain.seq % 2 ^ 32) dieNo (toLe 8 image ++ toBe 4 (firstMissing s) ++ toBe 4 (missingRun s (firstMissing s) 64)))).length ≤ sharedFree s)
    ∧ (∃ (s : State), runs .mp s = true ∧ s.nvm.noFw = true ∧ headerOk (imageHeader s) = false ∧ s.nvm.offerSeen = false ∧ (portOf s 0).st = .up ∧ (portOf s 1).st = .disabled ∧ 2 ≤ sharedFree s) :=
  ⟨⟨(given (desc 0x48)), 7, desc 0x48, [], by unfold Runs; decide⟩,
    ⟨(given (desc 0x48 [(16, 1)] (some [1])) { port 1 (fun x => { x with st := .up }) with chain := { (port 1 (fun x => { x with st := .up })).chain with frames := [{ pf with origin := .host 7, whole := false }] } }), 7, 1, desc 0x48 [(16, 1)] (some [1]), [1], { pf with origin := .host 7, whole := false }, by unfold Runs; decide⟩,
    ⟨(given (desc 0x49) { live with chain := { live.chain with rxBufs := List.replicate 256 { id := 1, rxq := 0, len := 0, addr := 0 } } }), 7, 0, desc 0x49, by unfold Runs; decide +kernel⟩,
    ⟨(given (desc 0x49)), 7, 0, desc 0x49, by unfold Runs; decide⟩,
    ⟨(given (desc 0x49) { live with chain := { live.chain with hostQ := [(0, 3)], frames := [pf] } }), 7, 0, desc 0x49, (0, 3), pf, by unfold Runs; decide⟩,
    ⟨{ live with chain := { live.chain with frames := [pf] } }, by decide⟩,
    ⟨(port 0 (fun x => { x with rx := some { cells := 2, prio := 6, ts := {} } })), 32, by decide⟩,
    ⟨live, [], by decide⟩,
    ⟨{ live with chain := { live.chain with seen := [(9, 5)] } }, beat9, by decide, by decide, by decide, by decide +kernel, .inr (by decide)⟩,
    by
        have h9 : be (beat9 ++ List.replicate 22 0) 8 8 = 9 := by decide
        have h10 : be (beat10 ++ List.replicate 22 0) 8 8 = 10 := by decide
        by_cases h : dieNo = 9
        · exact ⟨svcHeld framed10, 3, 0, [], svcPool framed10, beat10 ++ List.replicate 22 0, by decide, by decide, by decide, by decide, by decide, by decide, by decide, by decide, by decide, by decide, by decide, by decide +kernel, by rw [h, h10]; decide, by decide, by decide, by decide⟩
        · exact ⟨svcHeld framed9, 3, 0, [], svcPool framed9, beat9 ++ List.replicate 22 0, by decide, by decide, by decide, by decide, by decide, by decide, by decide, by decide, by decide, by decide, by decide, by decide +kernel, by rw [h9]; exact Ne.symm h, by decide, by decide, by decide⟩,
    ⟨port 0 (fun x => { x with st := .up }), by decide, by decide, by decide, by decide, by
    rw [svcFrame_length _ _ (by rw [svcBytes_length]; unfold helloPay; simp only [List.length_append, toBe_length]; decide)]
    decide⟩,
    ⟨{ port 0 (fun x => { x with st := .up }) with nvm := { live.nvm with noFw := true, xfer := { image := some (9, 4) } } }, 9, by decide, by decide, by decide, by decide, by decide, by decide, by
    rw [svcFrame_length _ _ (by rw [svcBytes_length]; simp only [List.length_append, toBe_length, toLe_length]; decide)]
    decide⟩,
    ⟨{ port 0 (fun x => { x with st := .up }) with nvm := { live.nvm with noFw := true } }, by decide⟩⟩

theorem test_witness_ServosAndSwitches :
    (∃ (s : State), barOpen s = true)
    ∧ (∃ (s : State) (d : Fin 2) (m : SyncSeen) (b : Bytes), runs .mp s = true ∧ (domOf s d.val).en = true ∧ s.nvm.running = true ∧ b = delayReqFrame s (domOf s d.val).ptpDomain m.port.val m.seq)
    ∧ (∃ (s : State) (d : Fin 2) (m : DelaySeen) (i o : Int) (off : Int), runs .mp s = true ∧ (domOf s d.val).en = true ∧ s.nvm.running = true ∧ (domOf s d.val).sync = some (m.seq, i, o) ∧ off = ptpOffset s d.val i o m)
    ∧ (∃ (s : State) (d : Fin 2), runs .mp s = true ∧ (domOf s d.val).en = true ∧ s.nvm.running = true ∧ (domOf s d.val).locked = true)
    ∧ (∃ (s : State), runs .mp s = true ∧ s.time.autoSw = true ∧ s.time.active ≠ s.time.prefer ∧ s.time.revertS ≠ 0 ∧ (domOf s s.time.prefer).locked = true ∧ s.nvm.running = true)
    ∧ (∃ (s : State) (e : Nat) (id : Option Nat) (r : List (Nat × Option Nat)) (x : Int), runs .time s = true ∧ s.time.switchTo = (e, id) :: r ∧ e ≠ s.time.active ∧ x = outTime s - domTime s e)
    ∧ (∃ (s : State), runs .time s = true ∧ s.time.slewTerm ≠ 0 ∧ 0 < s.time.slew)
    ∧ (∃ (s : State) (d : Fin 2) (v : BitVec 32), barOpen s = true) :=
  ⟨⟨live, by decide⟩,
    ⟨live, 1, { port := 1, seq := 65535, ingress := -1, origin := 0 }, _, by decide, by decide, by decide, rfl⟩,
    ⟨dom 1 (fun x => { x with sync := some (65535, -1, 0) }), 1, { seq := 65535, egress := 0, received := 0 }, -1, 0, _, by decide, by decide, by decide, by decide, rfl⟩,
    ⟨(dom 1 (fun x => { x with locked := true })), 1, by decide⟩,
    ⟨{ dom 1 (fun x => { x with locked := true }) with time := { (dom 1 (fun x => { x with locked := true })).time with autoSw := true, active := 0, prefer := 1, revertS := 1 } }, by decide⟩,
    ⟨{ live with time := { live.time with switchTo := [(1, none)], active := 0 } }, 1, none, [], 0, by decide⟩,
    ⟨{ live with time := { live.time with slewTerm := 1 } }, by decide⟩,
    ⟨live, 1, 0x0F000301#32, by decide⟩⟩

theorem test_witness_AdjustmentsAndEvents :
    (∃ (s : State) (id x : Nat) (d : Desc) (v : Int) (c : Instr), Runs s id 0x50 d ∧ le d.bytes 16 1 = x ∧ v = signed 64 (le d.bytes 24 8) ∧ ((c = .step id ∧ le d.bytes 17 1 = 0) ∨ (c = .frequency id ∧ le d.bytes 17 1 = 1) ∨ (c = .slew id ∧ le d.bytes 17 1 = 2)) ∧ (domOf s x).en = true)
    ∧ (∃ (s : State) (id x : Nat) (d : Desc) (v : Int), Runs s id 0x50 d ∧ le d.bytes 16 1 = x ∧ v = signed 64 (le d.bytes 24 8) ∧ le d.bytes 17 1 = 0 ∧ (domOf s x).en = false)
    ∧ (∃ (s : State) (id x : Nat) (d : Desc) (v : Int), Runs s id 0x50 d ∧ le d.bytes 16 1 = x ∧ v = signed 64 (le d.bytes 24 8) ∧ le d.bytes 17 1 = 1 ∧ (domOf s x).en = false)
    ∧ (∃ (s : State) (id x : Nat) (d : Desc) (v : Int), Runs s id 0x50 d ∧ le d.bytes 16 1 = x ∧ v = signed 64 (le d.bytes 24 8) ∧ le d.bytes 17 1 = 2 ∧ (domOf s x).en = false)
    ∧ (∃ (s : State) (id x : Nat) (d : Desc) (v : Int), Runs s id 0x50 d ∧ le d.bytes 16 1 = x ∧ v = signed 64 (le d.bytes 24 8) ∧ le d.bytes 17 1 = 3)
    ∧ (∃ (s : State) (id k m : Nat) (d : Desc) (a : Int), Runs s id 0x51 d ∧ k = le d.bytes 16 1 ∧ m = le d.bytes 17 1 ∧ a = startOf s (le d.bytes 24 8) (le d.bytes 32 4))
    ∧ (∃ (s : State) (k : Fin 16), runs .time s = true ∧ tevLive (tevOf s k.val) = true)
    ∧ (∃ (s : State) (k : Fin 8), runs .time s = true ∧ (tevOf s k.val).pulse = true ∧ (tevOf s k.val).wait = [])
    ∧ (∃ (s : State) (v : BitVec 32), barOpen s = true ∧ s.nvm.running = true ∧ 1 ≤ bits v.toNat 0 11 ∧ bits v.toNat 0 11 ≤ 1440)
    ∧ (∃ (s : State) (v : BitVec 32), barOpen s = true ∧ s.nvm.running = true ∧ 1 ≤ bits v.toNat 16 12 ∧ bits v.toNat 16 12 ≤ 3600) :=
  ⟨⟨(given (desc 0x50 [(16, 1), (17, 2)])), 7, 1, desc 0x50 [(16, 1), (17, 2)], 0, .slew 7, by unfold Runs; decide⟩,
    ⟨(given (desc 0x50 [(16, 1), (17, 0)]) (dom 1 (fun x => { x with en := false }))), 7, 1, desc 0x50 [(16, 1), (17, 0)], 0, by unfold Runs; decide⟩,
    ⟨(given (desc 0x50 [(16, 1), (17, 1)]) (dom 1 (fun x => { x with en := false }))), 7, 1, desc 0x50 [(16, 1), (17, 1)], 0, by unfold Runs; decide⟩,
    ⟨(given (desc 0x50 [(16, 1), (17, 2)]) (dom 1 (fun x => { x with en := false }))), 7, 1, desc 0x50 [(16, 1), (17, 2)], 0, by unfold Runs; decide⟩,
    ⟨(given (desc 0x50 [(16, 1), (17, 3)]) (dom 1 (fun x => { x with en := false }))), 7, 1, desc 0x50 [(16, 1), (17, 3)], 0, by unfold Runs; decide⟩,
    ⟨given (desc 0x51 [(16, 15), (17, 2)]), 7, 15, 2, desc 0x51 [(16, 15), (17, 2)], _, by unfold Runs; decide, by decide, by decide, rfl⟩,
    ⟨(tev 15 (fun x => { x with mode := 2, period := 1 })), 15, by decide⟩,
    ⟨(tev 7 (fun x => { x with pulse := true })), 7, by decide⟩,
    ⟨live, 1440#32, by decide⟩,
    ⟨live, 0x0E100000#32, by decide⟩⟩

theorem test_witness_NvmAndChecks :
    (∃ (s : State) (id : Nat) (d : Desc) (b : Bytes), Runs s id 0x58 d ∧ d.failed = false ∧ d.data = some b ∧ s.power.inhibit = true)
    ∧ (∃ (s : State) (id : Nat) (d : Desc) (b : Bytes), Runs s id 0x58 d ∧ d.failed = false ∧ d.data = some b ∧ s.power.inhibit = false ∧ (le d.bytes 16 1 ≠ 1 ∨ s.nvm.fwState = 1 ∧ s.nvm.source = 1))
    ∧ (∃ (s : State) (id : Nat) (d : Desc) (b : Bytes), Runs s id 0x58 d ∧ d.failed = false ∧ d.data = some b ∧ s.power.inhibit = false ∧ le d.bytes 16 1 = 1 ∧ s.nvm.fwState ≠ 1)
    ∧ (∃ (s : State) (id : Nat) (d : Desc) (b : Bytes), Runs s id 0x58 d ∧ d.failed = false ∧ d.data = some b ∧ s.power.inhibit = false ∧ le d.bytes 16 1 = 1 ∧ s.nvm.fwState = 1 ∧ s.nvm.source ≠ 1)
    ∧ (∃ (s : State) (v : VholdSeen) (r : Rec) (q : List Rec) (id n : Nat) (last : Bool), s.nvm.queue = r :: q ∧ r.why = .write id last n ∧ (r.page < 128 ∨ 6272 ≤ r.page) ∧ s.power.rstPend = [] ∧ s.power.saving = false)
    ∧ (∃ (s : State) (v : VholdSeen) (r : Rec) (q : List Rec) (id n : Nat) (last : Bool) (c : Cause) (l : List Cause), s.nvm.queue = r :: q ∧ r.why = .write id last n ∧ (r.page < 128 ∨ 6272 ≤ r.page) ∧ s.power.rstPend = c :: l ∧ s.power.saving = false)
    ∧ (∃ (s : State) (v : VholdSeen) (r : Rec) (q : List Rec) (n h : Nat), s.nvm.queue = r :: q ∧ r.why = .saveTile n h ∧ saveReady s = false)
    ∧ (∃ (s : State) (v : VholdSeen) (r : Rec) (k : Nat), s.nvm.queue = [r] ∧ r.why = .saveLog k true ∧ saveReady s = true ∧ s.power.saving = true ∧ s.power.thermLatch = false)
    ∧ (∃ (s : State) (id : Nat) (d : Desc) (pages : List (Bytes × Option Bool)), Runs s id 0x59 d ∧ dmaOk s = true ∧ s.faults.inj = none ∧ pages = (List.range (le d.bytes 24 4 / 512)).map (fun i => partPage { s with freeCtr := s.freeCtr + 1 } (le d.bytes 16 1) (le d.bytes 20 4 / 512 + i)))
    ∧ (∃ (s : State) (id u poly : Nat) (d : Desc) (b : Bytes) (x : Nat), Runs s id 0x60 d ∧ u = le d.bytes 16 1 ∧ poly = le d.bytes 17 1 ∧ crcAhead s id u = false ∧ guardUnitBusy s u = true)
    ∧ (∃ (s : State) (id u poly : Nat) (d : Desc) (b : Bytes) (x : Nat), Runs s id 0x60 d ∧ u = le d.bytes 16 1 ∧ poly = le d.bytes 17 1 ∧ crcAhead s id u = false ∧ guardUnitBusy s u = false ∧ d.failed = false ∧ d.data = some b ∧ s.faults.inj = none ∧ x = gcuRun poly b (if (le d.bytes 18 1).testBit 2 then (gcuOf s u).run else if (le d.bytes 18 1).testBit 0 then gcuRun poly (sub d.bytes 24 4) (gcuInit poly) else gcuInit poly)) :=
  ⟨⟨(given (desc 0x58 [] (some [1])) { live with power := { live.power with inhibit := true } }), 7, desc 0x58 [] (some [1]), [1], by unfold Runs; decide⟩,
    ⟨(given (desc 0x58 [] (some [1]))), 7, desc 0x58 [] (some [1]), [1], by unfold Runs; decide⟩,
    ⟨(given (desc 0x58 [(16, 1)] (some [1]))), 7, desc 0x58 [(16, 1)] (some [1]), [1], by unfold Runs; decide⟩,
    ⟨(given (desc 0x58 [(16, 1)] (some [1])) { live with nvm := { live.nvm with fwState := 1, source := 2 } }), 7, desc 0x58 [(16, 1)] (some [1]), [1], by unfold Runs; decide⟩,
    ⟨{ live with nvm := { live.nvm with queue := [rec1] } }, { mv := 16383, above := true }, rec1, [], 7, 512, true, by decide⟩,
    ⟨{ live with nvm := { live.nvm with queue := [rec1] }, power := { live.power with rstPend := [.soft] } }, { mv := 16383, above := true }, rec1, [], 7, 512, true, .soft, [], by decide⟩,
    ⟨{ tile 0 (fun t => { t with tapPend := true, enabled := true }) with nvm := { live.nvm with queue := [{ page := 0, bytes := [], why := .saveTile 0 0 }] } }, { mv := 16383, above := true }, { page := 0, bytes := [], why := .saveTile 0 0 }, [], 0, 0, by decide⟩,
    ⟨{ live with nvm := { live.nvm with queue := [{ page := 0, bytes := [], why := .saveLog 0 true }] }, power := { live.power with saving := true } }, { mv := 16383, above := true }, { page := 0, bytes := [], why := .saveLog 0 true }, 0, by decide⟩,
    ⟨(given (desc 0x59)), 7, desc 0x59, [], by unfold Runs; decide⟩,
    ⟨given (desc 0x60 [(16, 3), (17, 1)]) { live with cmp := { live.cmp with guardUnit := 3, active := [(0, { ctx := 9#2048 })] } }, 7, 3, 1, desc 0x60 [(16, 3), (17, 1)], [], 0, by unfold Runs; decide, by decide, by decide, by decide, by decide +kernel⟩,
    ⟨given (desc 0x60 [(16, 3), (17, 1)] (some [1])), 7, 3, 1, desc 0x60 [(16, 3), (17, 1)] (some [1]), [1], _, by unfold Runs; decide, by decide, by decide, by decide, by decide, by decide, by decide, by decide, rfl⟩⟩

theorem test_witness_FirmwareMarks :
    (∃ (s : State) (id : Nat) (d : Desc), Runs s id 0x5A d ∧ le d.bytes 16 1 = 0)
    ∧ (∃ (s : State) (id : Nat) (d : Desc), Runs s id 0x5A d ∧ le d.bytes 16 1 = 1)
    ∧ (∃ (s : State) (id : Nat) (d : Desc), Runs s id 0x5A d ∧ le d.bytes 16 1 = 2)
    ∧ (∃ (s : State) (id : Nat) (d : Desc), Runs s id 0x5A d ∧ le d.bytes 16 1 = 3 ∧ imageHeld s = true ∧ nvmBusy s = true)
    ∧ (∃ (s : State) (id : Nat) (d : Desc), Runs s id 0x5A d ∧ le d.bytes 16 1 = 3 ∧ imageHeld s = true ∧ nvmBusy s = false)
    ∧ (∃ (s : State) (id : Nat) (d : Desc), Runs s id 0x5A d ∧ le d.bytes 16 1 = 3 ∧ imageHeld s = false)
    ∧ (∃ (s : State), runs .mp s = true ∧ s.nvm.scheduled = true ∧ s.power.saving = false ∧ s.power.awaitVin = false ∧ s.power.thermLatch = false ∧ nvmBusy s = true)
    ∧ (∃ (s : State), runs .mp s = true ∧ s.nvm.scheduled = true ∧ s.power.saving = false ∧ s.power.awaitVin = false ∧ s.power.thermLatch = false ∧ nvmBusy s = false)
    ∧ (∃ (s : State), runs .mp s = true ∧ s.power.held = false ∧ s.nvm.checked = false ∧ s.nvm.shutdown = none ∧ s.nvm.saveCut = false ∧ s.power.rstStuck = false ∧ (∀ e ∈ s.nvm.pages, 6272 ≤ e.1 → e.1 < 7296 → e.2.seq ≠ 0))
    ∧ (∃ (s : State) (b : BootSeen), (s.power.held = true ∨ s.nvm.checked = true)) :=
  ⟨⟨(given (desc 0x5A [(16, 0)])), 7, desc 0x5A [(16, 0)], by unfold Runs; decide⟩,
    ⟨(given (desc 0x5A [(16, 1)])), 7, desc 0x5A [(16, 1)], by unfold Runs; decide⟩,
    ⟨(given (desc 0x5A [(16, 2)])), 7, desc 0x5A [(16, 2)], by unfold Runs; decide⟩,
    ⟨(given (desc 0x5A [(16, 3)]) { withImage with nvm := { withImage.nvm with queue := [rec1] } }), 7, desc 0x5A [(16, 3)], by unfold Runs; decide⟩,
    ⟨(given (desc 0x5A [(16, 3)]) withImage), 7, desc 0x5A [(16, 3)], by unfold Runs; decide⟩,
    ⟨(given (desc 0x5A [(16, 3)])), 7, desc 0x5A [(16, 3)], by unfold Runs; decide⟩,
    ⟨{ live with nvm := { live.nvm with scheduled := true, queue := [rec1] } }, by decide⟩,
    ⟨{ live with nvm := { live.nvm with scheduled := true } }, by decide⟩,
    ⟨live, by decide⟩,
    ⟨State.reset, { unreadable := [] }, by decide⟩⟩

theorem test_witness_RegisterWrites :
    (∃ (s : State) (off : Nat) (v : BitVec 32) (e : BitVec 4), (barOpen s = false ∨ e ≠ 15 ∨ off % 4 ≠ 0 ∨ 0x100000 ≤ off ∨ off % 0x80000 < 0x4000 ∨ 0x74000 ≤ off % 0x80000))
    ∧ (∃ (s t u : State) (off : Nat) (v w : BitVec 32), off % 8 = 0 ∧ exec (.registerWrite off v 15 none) s = .next t ∧ barOpen s = true ∧ barOpen t = true ∧ exec (.registerWrite (off + 4) w 15 none) t = .next u)
    ∧ (∃ (s : State) (off : Nat) (v : BitVec 32) (n k : Nat), n < 32 ∧ k < 16 ∧ off ∈ [0x4100 + 32 * n, 0x4104 + 32 * n, 0x410C + 32 * n, 0x4110 + 32 * n, 0x4600 + 16 * n, 0x4604 + 16 * n, 0x4800 + 16 * k, 0x4804 + 16 * k, 0x4808 + 16 * k, 0x480C + 16 * k, 0x4900 + 4 * k, 0x4950, 0x13F00, 0x13F04, 0x13F08, 0x38000, 0x44000 + 16 * n, 0x48000, 0x4C200, 0x58000, 0x58040, 0x58048, 0x70004, 0x70014])
    ∧ (∃ (s : State) (v : BitVec 32) (n k : Nat) (e : Nat × Nat × Nat), n < 32 ∧ k < 16 ∧ barOpen s = true ∧ e ∈ [(0x410C + 32 * n, v.toNat, 32), (0x4110 + 32 * n, v.toNat % 2 ^ 31, 31), (0x4804 + 16 * k, v.toNat, 32), (0x4808 + 16 * k, v.toNat, 32), (0x480C + 16 * k, v.toNat &&& 0x800000FF, 32), (0x4900 + 4 * k, v.toNat &&& opcAllowed (k / 4) (k % 4), 32)])
    ∧ (∃ (s : State) (v : BitVec 32) (n k : Nat), n < 32 ∧ k < 16 ∧ barOpen s = true ∧ (sqOf s n).state = .running)
    ∧ (∃ (s : State) (v : BitVec 32) (n k : Nat), n < 32 ∧ k < 16 ∧ barOpen s = true ∧ (sqOf s n).state ≠ .running)
    ∧ (∃ (s : State) (v : BitVec 32) (e : Nat × Nat × Nat × Nat), barOpen s = true ∧ e ∈ [(0x13F04, 10, 10000, 16), (0x4950, 10, 6000, 16)])
    ∧ (∃ (s : State) (v : BitVec 32) (low : Bool) (o : Nat), barOpen s = true ∧ o ∈ [0x4948, 0x494C, 0x13F1C, 0x38050, 0x58064, 0x58068, 0x51034, 0x51038, 0x51434, 0x51438]) :=
  ⟨⟨live, 0x74000, 0#32, 15, by decide⟩,
    ⟨live, live, live, 0x80000, 0#32, 0#32, by decide, rfl, by decide, by decide, rfl⟩,
    ⟨live, 0x4100 + 32 * 31, 0#32, 31, 15, by decide⟩,
    ⟨live, 0#32, 31, 15, (0x410C + 32 * 31, 0, 32), by decide⟩,
    ⟨(sq 0 (fun q => { q with state := .running })), 0#32, 0, 15, by decide⟩,
    ⟨live, 0#32, 31, 15, by decide⟩,
    ⟨live, 10000#32, (0x4950, 10, 6000, 16), by decide⟩,
    ⟨live, 0#32, true, 0x51438, by decide⟩⟩

theorem test_witness_SliceOnTimes :
    (∃ (d i : Nat), i < 16)
    ∧ (∃ (i : Nat) (b : Nat), i < 16 ∧ b < 4)
    ∧ (∃ (k : Nat), k < 16)
    ∧ (∃ (i : Nat), i < 16)
    ∧ (∃ (i : Nat), i < 16) :=
  ⟨⟨16383, 15, by decide⟩,
    ⟨15, 3, by decide⟩,
    ⟨15, by decide⟩,
    ⟨15, by decide⟩,
    ⟨15, by decide⟩⟩

theorem test_witness_ClampHolds :
    (∃ (x : ShiftRec) (i j : Nat), i < 95 ∧ j < 95) :=
  ⟨shiftRec, 94, 94, by decide⟩

theorem test_witness_CommandsCompleteAndFrame : ∃ (c : Instr) (i : Isl) (s : State), judgedIn c = some i ∧ runs i s = false :=
  ⟨.timNowCapture, .host, State.reset, by decide⟩

theorem test_witness_LightInvKept : ∃ s t : State, LightInv s ∧ step s = .next t :=
  ⟨State.reset, idle State.reset, by unfold LightInv; intro c; cases c <;> decide, rfl⟩

theorem test_witness_CacheInvKept : ∃ s t : State, CacheInv s ∧ step s = .next t :=
  ⟨State.reset, idle State.reset, by unfold CacheInv; decide, rfl⟩

theorem test_witness_PoolInvKept : ∃ s t : State, PoolInv s ∧ step s = .next t :=
  ⟨State.reset, idle State.reset, by unfold PoolInv; decide, rfl⟩

/-- Both channels have passed their self-test under the factory set. -/
def ready : State :=
  { chan .a (fun x => { x with selftestDone := true, selftestOk := true })
      (chan .b (fun x => { x with selftestDone := true, selftestOk := true }) withSet) with pending := [.crossLinkExchange true] }

theorem test_witness_OutputsRiseTogether :
    ∃ (s t : State) (ch : Chan), step s = .next t ∧ (chanOf s ch).slo = false ∧ (chanOf t ch).slo = true :=
  ⟨ready, exchange true { ready with pending := [] }, .b, rfl, by decide, by decide +kernel⟩

theorem test_witness_GuardedStores : ∃ (c : Instr) (s t : State), exec c s = .next t := ⟨.vinSlow, live, _, rfl⟩

/-- One enabled tile at full currents in Lanternmoss, under a power budget. -/
def budget (n lm : Nat) : State :=
  { tile 0 (fun t => { t with enabled := true }) with strip := { live.strip with govBudget := n }, safety := { live.safety with lmTaken := lm } }

theorem budget_on (n lm : Nat) : ((List.range 8).filter fun k => (tileOf (budget n lm) k).enabled) = [0] := by rfl

theorem iref_full (s : State) (k : Nat) (h : stripOf s k = {}) (g : s.strip.globalIref = 255) : irefOf s k = irefNum 255 1023 64 := by
  unfold irefOf
  rw [h, g]
  rfl

theorem full_current : irefNum 255 1023 64 = irefDen := by decide

theorem budget_iref (n lm k : Nat) : irefOf (budget n lm) k = irefDen := (iref_full _ k rfl rfl).trans full_current

theorem one_sum (f g : Nat → Nat) (l : List Nat) (h : l = [0]) : ((l.map f).sum, (l.map g).sum) = (f 0, g 0) := by
  subst h
  simp only [List.map_cons, List.map_nil, List.sum_cons, List.sum_nil, Nat.add_zero]

theorem sums_one (s : State) (h : ((List.range 8).filter fun k => (tileOf s k).enabled) = [0]) :
    govSums s = (govTile s 0, govFixed s 0) := one_sum (govTile s) (govFixed s) _ h

theorem sums_light (s : State) (h : ((List.range 8).filter fun k => (tileOf s k).enabled) = [0]) : (govSums s).1 = govTile s 0 := by
  rw [sums_one s h]

theorem sums_fixed (s : State) (h : ((List.range 8).filter fun k => (tileOf s k).enabled) = [0]) : (govSums s).2 = govFixed s 0 := by
  rw [sums_one s h]

theorem le_sum (v n : Nat) : v ≤ ((List.range (n + 1)).map fun _ => v).sum := by
  rw [List.range_succ_eq_map, List.map_cons, List.sum_cons]
  exact Nat.le_add_right _ _

theorem fixed_of (s : State) (v : Nat) (hi : ∀ k, irefOf s k = v) :
    govFixed s 0 = ((List.range 24).map fun _ => v * (384 * 512 + 16 * 63)).sum := by
  unfold govFixed
  simp only [hi]

theorem le_tiles (w : Nat) : w ≤ ((List.range 9216).map fun _ => w).sum := le_sum _ 9215

theorem tile_of (s : State) (v : Nat) (h : tileLmoss s 0 = true) (hi : ∀ k, irefOf s k = v) :
    govTile s 0 = ((List.range 9216).map fun _ => v * (16 * 4 * lmLevel s) * 2 ^ 24).sum := by
  unfold govTile
  refine congrArg List.sum (List.map_congr_left fun b _ => ?_)
  rw [if_pos h, hi]

theorem light_of (s : State) (v : Nat) (h : tileLmoss s 0 = true) (hi : ∀ k, irefOf s k = v) :
    v * (16 * 4 * lmLevel s) * 2 ^ 24 ≤ govTile s 0 := by
  rw [tile_of s v h hi]
  exact le_tiles _

theorem budget_fixed (n lm : Nat) : (govSums (budget n lm)).2 = 24 * irefDen * 197616 := by
  have h : ((List.range 24).map fun _ => irefDen * (384 * 512 + 16 * 63)).sum = 24 * irefDen * 197616 := by decide +kernel
  exact (sums_fixed _ (budget_on n lm)).trans ((fixed_of _ irefDen (budget_iref n lm)).trans h)

theorem budget_light (n lm : Nat) : irefDen * (16 * 4 * lm) * 2 ^ 24 ≤ (govSums (budget n lm)).1 := by
  have e : (govSums (budget n lm)).1 = govTile (budget n lm) 0 := sums_light _ (budget_on n lm)
  have h : lmLevel (budget n lm) = lm := rfl
  have l := light_of (budget n lm) irefDen rfl (budget_iref n lm)
  rw [h, ← e] at l
  exact l

theorem test_witness_GovernorWithinBudget :
    (∃ (s : State) (v f b : Nat), (v = 128 * (govSums s).1 ∧ f = 128 * (govSums s).2 * 2 ^ 26 ∧ b = s.strip.govBudget * govDen)
      ∧ s.strip.govBudget ≠ 0 ∧ b < v + f ∧ b ≤ f)
    ∧ (∃ (s : State) (v f b : Nat), (v = 128 * (govSums s).1 ∧ f = 128 * (govSums s).2 * 2 ^ 26 ∧ b = s.strip.govBudget * govDen)
      ∧ s.strip.govBudget ≠ 0 ∧ b < v + f ∧ f < b) := by
  refine ⟨⟨budget 1 0, _, _, _, ⟨rfl, rfl, rfl⟩, by decide, ?_⟩, ⟨budget 38 16383, _, _, _, ⟨rfl, rfl, rfl⟩, by decide, ?_⟩⟩
  · have h := budget_fixed 1 0
    have k : (budget 1 0).strip.govBudget = 1 := rfl
    rw [h, k]
    unfold govDen irefDen
    omega
  · have h := budget_fixed 38 16383
    have l := budget_light 38 16383
    have k : (budget 38 16383).strip.govBudget = 38 := rfl
    rw [h, k]
    unfold govDen irefDen at *
    omega

theorem test_witness_DivisionIsExact :
    (∃ (ws : List Nat) (i : Nat), ws ≠ [] ∧ i < ws.length ∧ ws.sum ≠ 0) ∧ (∃ (ws : List Nat) (i : Nat), ws ≠ [] ∧ i < ws.length ∧ ws.sum = 0) :=
  ⟨⟨[1, 2], 1, by decide⟩, ⟨[0, 0], 1, by decide⟩⟩

theorem test_witness_ReadTags :
    (∃ (l : Link) (outs : List (Nat × Nat)) (t : Nat × Nat), freeTag l outs = some t)
    ∧ (∃ (l : Link) (outs : List (Nat × Nat)), freeTag l outs = none) :=
  ⟨⟨{}, [(0, 1)], (1, 1), by decide⟩, ⟨{ extTag := false }, (List.range 8).map fun k => (k, 1), by decide⟩⟩

/-! ### Commands that `wellFormed` refuses, one for each of its checks, beside one that it takes -/

theorem test_ill_formed_host_link :
    wellFormed (.unsupportedRequest true false (2 ^ 20) 0) = false
    ∧ wellFormed (.hostReadCompletion 1024 .ok []) = false
    ∧ wellFormed (.hostReadCompletion 0 .ok (List.replicate 513 0)) = false
    ∧ wellFormed (.hostCplTmo 1024) = false
    ∧ wellFormed (.linkUp 3 0) = false ∧ wellFormed (.linkUp 0 3) = false ∧ wellFormed (.linkUp 2 2) = true := by decide +kernel

theorem test_ill_formed_register_write :
    wellFormed (.registerWrite (2 ^ 20) 0 15 none) = false ∧ wellFormed (.registerWrite 2 0 15 none) = false
    ∧ wellFormed (.registerWrite 0xFFFFC 0 15 none) = true ∧ wellFormed (.registerWrite 0xFFFF8 0 15 (some (0, 15))) = true := by decide

theorem test_ill_formed_streams :
    wellFormed (.shiftEnd 0 []) = false
    ∧ wellFormed (.shiftEnd 0 (List.replicate 24 ⟨0, [], 0⟩)) = false
    ∧ wellFormed (.egDiverse .a 0 []) = false := by decide

theorem test_ill_formed_stream_check :
    wellFormed (.shiftEnd 0 (List.replicate 24 ⟨0, List.replicate 6144 0, 2 ^ 32⟩)) = false := by decide +kernel

theorem test_ill_formed_strips :
    wellFormed (.latch 0 { refused := [], sdBad := [192], srefMoved := [] }) = false
    ∧ wellFormed (.latch 0 { refused := [], sdBad := [], srefMoved := [192] }) = false
    ∧ wellFormed (.latch 0 { refused := [24], sdBad := [], srefMoved := [] }) = false
    ∧ wellFormed (.sliceStart 0 0 [(24, 0, 0)]) = false ∧ wellFormed (.sliceStart 0 0 [(23, 0, 0)]) = true := by decide

theorem test_ill_formed_tile_bytes :
    wellFormed (.tileHeaderCheck 0 []) = false ∧ wellFormed (.tileIdentityStep 0 (.curve [])) = false
    ∧ wellFormed (.tileIdentityStep 0 (.ledger [] [] {})) = false ∧ wellFormed (.tileIdentityStep 0 (.map [])) = false
    ∧ wellFormed (.challengePoll 0 0 []) = false ∧ wellFormed (.commitReadback 0 []) = false
    ∧ wellFormed (.mapRereadComplete 0 []) = false ∧ wellFormed (.tileIdentityStep 0 (.heads [] [])) = false := by decide

theorem test_ill_formed_ecc :
    wellFormed (.descriptorConsumed 0 { bad := [64] }) = false ∧ wellFormed (.boundaryFlip { bad := [196608] }) = false
    ∧ wellFormed (.shift 0 { bad := [294912] }) = false ∧ wellFormed (.ledgerTap 0 { bad := [9216] }) = false
    ∧ wellFormed (.ledgerTap 0 { corrected := 3, bad := [9215] }) = true := by decide

theorem test_ill_formed_certificate :
    wellFormed (.tileIdentityStep 0 (.cert (List.replicate 1025 0))) = false := by decide +kernel

theorem test_ill_formed_diagnosis :
    wellFormed (.frondSelftestEnd 0 0) = false
    ∧ wellFormed (.frondSelftestEnd 0 6) = false ∧ wellFormed (.frondSelftestEnd 0 5) = true := by decide

theorem test_ill_formed_measurements :
    wellFormed (.refRref (2 ^ 16)) = false ∧ wellFormed (.calResult 0 [1000000]) = false
    ∧ wellFormed (.sensorReading [{ sensor := 4, raw := none }, { sensor := 4, raw := none }]) = false := by decide

theorem test_ill_formed_network :
    wellFormed (.frameHeaderParsed 0 []) = false ∧ wellFormed (.frameReceived 0 [] false false) = false
    ∧ wellFormed (.ptpSync 0 { port := 0, seq := 2 ^ 16, ingress := 0, origin := 0 }) = false
    ∧ wellFormed (.delayResp 0 { seq := 2 ^ 16, egress := 0, received := 0 }) = false
    ∧ wellFormed (.bootCheck { unreadable := [9504] }) = false ∧ wellFormed (.bootCheck { unreadable := [9503] }) = true := by decide

/-! ### Values that the spec's own tables and examples give -/

/-- The ASCII digits 1 to 9. -/
def digits : Bytes := [0x31, 0x32, 0x33, 0x34, 0x35, 0x36, 0x37, 0x38, 0x39]

/-- R547: the table's value of each check. -/
theorem test_check_values :
    gcuCheck 0 digits = 0xCBF43926 ∧ gcuCheck 1 digits = 0xE3069283 ∧ gcuCheck 2 digits = 0x29B1 ∧ gcuCheck 3 digits = 0xF4 := by
  decide +kernel

/-- The example of R221: D = 20 gives 2 units in slices 0, 8, 4 and 12, and 1 in the others. -/
theorem test_slices_of_20 : (List.range 16).map (onTime 20) = [2, 1, 1, 1, 2, 1, 1, 1, 2, 1, 1, 1, 2, 1, 1, 1] := by decide

/-- The example of R221: D = 16 383 gives 1 024 units in every slice but slice 15, which carries 1 023. -/
theorem test_slices_of_16383 : (List.range 16).map (onTime 16383) = List.replicate 15 1024 ++ [1023] := by decide

/-- The example of R237: 200, 800 and 64 give 1 256.1 µA, in tenths of a microampere. -/
theorem test_current : irefNum 200 800 64 * 20480 / irefDen = 12561 := by decide

/-- R237: the current is limited to 2 048 µA. -/
theorem test_current_limit : irefNum 255 1023 127 = irefDen := by decide

/-- The example of R273: a block at 1.5 × 10^14 nC has the gain 42 281. -/
theorem test_gain :
    gainOf ((List.range 4).map (fun k => (k, 65535)) ++ [(120000000000000, 52428), (180000000000000, 49152)]
      ++ (List.range 10).map fun k => (200000000000000 + k, 40000)) 150000000000000 = (42281, false) := by decide

/-- The example of R407: 70 at 25 °C and 66 at 60 °C give 67 at 47 °C, and with δ = +1 the trim 68. -/
def warm : State :=
  { live with cal := { live.cal with factory := [(0, 25, List.replicate 192 70), (1, 60, List.replicate 192 66)], tC := 840 * 47
                                     chans := [(77, { calOf live 77 with delta := 1, trim := 68 })]
                                     now := some (77, true, true) } }

theorem test_trim : tInterp warm 77 = 67 ∧ trimOf warm 77 = 68 := by decide +kernel

/-- The example of R413: ρ_hi = 1.004 2 and ρ_lo = 1.005 1 make δ = −3. -/
theorem test_calibration : (calOf (judgeRatios 77 true 1004200 1005100 warm) 77).delta = -3 := by decide +kernel

/-- The example of R423: 96.0 °C and, one second later, 97.0 °C are 1.00 °C/s. -/
theorem test_rate : rateOf tuSec (97 * 16) (96 * 16, 0) = 100 := by decide

/-- R471: frames of 64 and 2 052 bytes hold 2 and 33 cells. -/
theorem test_cells : cellsOf_ 64 = 2 ∧ cellsOf_ 2052 = 33 := by decide

/-- CRC-4 protects an ordered set: a payload made with it passes, and one with a flipped bit does not (R455). -/
theorem test_ordered_set :
    osGood (BitVec.ofNat 24 (osPayload 7 0)) = true ∧ osGood (BitVec.ofNat 24 (osPayload 7 0 ^^^ 0x10)) = false := by decide

/-- R558 R559: the rows of the ball map run from A, without I, O, Q, S, X and Z, and its columns from 1; the worked
example finds the pins of strips 77 and 150. -/
theorem test_ball_map :
    ballNamed "A" 33 = .sd 77 ∧ ballNamed "D" 33 = .srt 77 ∧ ballNamed "G" 33 = .sref 77 ∧ ballNamed "AM" 25 = .sref 150 := by decide +kernel

/-! ### Single steps -/

/-- The ring example of chapter 4: SQ2 at 5 is bound to CQ2, whose head and tail are at 14. -/
def ringBase : State :=
  sq 2 (fun q => { q with state := .running, bound := 2, cq := 2, head := 5, tail := 5 })
    (cq 2 (fun c => { c with enable := true, irqEn := true, armed := true, head := 14, tail := 14 }))
def ringEx : State := { ringBase with rings := { ringBase.rings with done := [{ sq := 2, status := 0 }] } }

/-- The example of chapter 4 at 1 000.4 µs: the doorbell makes the tail 8. -/
theorem test_ring_doorbell : ∃ t, step { ringEx with pending := [.sqTailDoorbell 2 8 true] } = .next t ∧ (sqOf t 2).tail = 8 :=
  ⟨_, rfl, by decide +kernel⟩

/-- The example of chapter 4 at 1 003.1 µs: entry 14 is posted and CQ2 disarms. -/
theorem test_ring_completion :
    ∃ t, step { ringEx with pending := [.completionPost] } = .next t ∧ (cqOf t 2).tail = 15 ∧ (cqOf t 2).armed = false :=
  ⟨_, rfl, by decide +kernel⟩

/-- R123: the phase inverts when the completion queue wraps. -/
theorem test_ring_wrap :
    ∃ t, step (putCq { ringEx with pending := [.completionPost] } 2 { cqOf ringEx 2 with tail := 15 }) = .next t
      ∧ (cqOf t 2).tail = 0 ∧ (cqOf t 2).phase = false :=
  ⟨_, rfl, by decide +kernel⟩

/-- The idle step: one clock of 4 ns passes (the model's choice: notes/assumptions/2), and none while the chip is held. -/
theorem test_idle :
    (∃ t, step live = .next t ∧ t.time.now = live.time.now + 4 * 65536) ∧ step State.reset = .next State.reset :=
  ⟨⟨_, rfl, by decide⟩, rfl⟩

/-- No row of the table gives bits: a word spells no command. -/
theorem test_no_words (n w : Nat) : decodeTableWord n w = none ∧ live.withFetchWord n w = live := ⟨rfl, rfl⟩

end Sys2Proof.Tests
end

section
/-! The step of the queue and the state after reset. -/

set_option autoImplicit false

namespace Sys2Proof.Machine

/-- A clock of the time island: local time runs on by 4 ns while the island runs. -/
theorem idle_now {s : State} (h : runs .time s = true) : (idle s).time.now = s.time.now + 4 * 65536 := by
  simp only [idle, h, if_true, runLocal]

theorem idle_still {s : State} (h : runs .time s = false) : idle s = s := by simp [idle, h]

theorem step_front {c : Instr} {r : List Instr} {s : State} (h : s.pending = c :: r) : step s = exec c { s with pending := r } := by
  simp only [step, h]

theorem step_idle {s : State} (h : s.pending = []) : step s = .next (idle s) := by simp only [step, h]

/-- Settles O1: the front command runs on the queue's rest, and an empty queue lets one clock pass. -/
theorem queueSteps : Obligations.QueueSteps :=
  ⟨fun _ _ _ h => step_front h,
   fun s h => ⟨idle s, step_idle h, idle_frame (by decide) .refl, idle_still, idle_now⟩⟩

theorem lightInv_reset : LightInv State.reset := by
  intro c
  cases c <;> decide

/-- Settles O2: the invariants hold of the reset state by its fields, and the registers are read there by evaluation. -/
theorem resetState : Obligations.ResetState := by
  refine ⟨lightInv_reset, rfl, fun f hf => absurd hf List.not_mem_nil, rfl, rfl, rfl, rfl, ?_⟩
  decide

end Sys2Proof.Machine
end

section
/-! The frame of every command: which parts of the state it may write, operation by operation, from the frames of the shared operations;
and that a command whose island stands still has no effect. -/

set_option autoImplicit false

namespace Sys2Proof.Machine

/-! ### A part written as a whole -/

section FieldFrames
variable {l : List Part} {b s : State}

theorem setFreeCtr_frame {x : Nat} (hm : ∀ p ∈ ([.freeCtr] : List Part), p ∈ l) (h : SameBut l b s) :
    SameBut l b { s with freeCtr := x } :=
  SameBut.step (m := [.freeCtr]) (t := s) ⟨rfl, fun p hp => by cases p <;> simp_all [Part.same]⟩ hm h

theorem setPower_frame {x : Power} (hm : ∀ p ∈ ([.power] : List Part), p ∈ l) (h : SameBut l b s) :
    SameBut l b { s with power := x } :=
  SameBut.step (m := [.power]) (t := s) ⟨rfl, fun p hp => by cases p <;> simp_all [Part.same]⟩ hm h

theorem setLink_frame {x : Link} (hm : ∀ p ∈ ([.link] : List Part), p ∈ l) (h : SameBut l b s) :
    SameBut l b { s with link := x } :=
  SameBut.step (m := [.link]) (t := s) ⟨rfl, fun p hp => by cases p <;> simp_all [Part.same]⟩ hm h

theorem setProt_frame {x : Prot} (hm : ∀ p ∈ ([.prot] : List Part), p ∈ l) (h : SameBut l b s) :
    SameBut l b { s with prot := x } :=
  SameBut.step (m := [.prot]) (t := s) ⟨rfl, fun p hp => by cases p <;> simp_all [Part.same]⟩ hm h

theorem setRings_frame {x : Rings} (hm : ∀ p ∈ ([.rings] : List Part), p ∈ l) (h : SameBut l b s) :
    SameBut l b { s with rings := x } :=
  SameBut.step (m := [.rings]) (t := s) ⟨rfl, fun p hp => by cases p <;> simp_all [Part.same]⟩ hm h

theorem setCmp_frame {x : Cmp} (hc : x.cache = s.cmp.cache) (hm : ∀ p ∈ ([.cmp] : List Part), p ∈ l) (h : SameBut l b s) :
    SameBut l b { s with cmp := x } :=
  SameBut.step (m := [.cmp]) (t := s) ⟨rfl, fun p hp => by cases p <;> simp_all [Part.same]⟩ hm h

theorem setFrm_frame {x : Frm} (hm : ∀ p ∈ ([.frm] : List Part), p ∈ l) (h : SameBut l b s) :
    SameBut l b { s with frm := x } :=
  SameBut.step (m := [.frm]) (t := s) ⟨rfl, fun p hp => by cases p <;> simp_all [Part.same]⟩ hm h

theorem setStrip_frame {x : Strips} (hm : ∀ p ∈ ([.strip] : List Part), p ∈ l) (h : SameBut l b s) :
    SameBut l b { s with strip := x } :=
  SameBut.step (m := [.strip]) (t := s) ⟨rfl, fun p hp => by cases p <;> simp_all [Part.same]⟩ hm h

theorem setJournal_frame {x : Journal} (hm : ∀ p ∈ ([.journal] : List Part), p ∈ l) (h : SameBut l b s) :
    SameBut l b { s with journal := x } :=
  SameBut.step (m := [.journal]) (t := s) ⟨rfl, fun p hp => by cases p <;> simp_all [Part.same]⟩ hm h

theorem setCal_frame {x : Cal} (hm : ∀ p ∈ ([.cal] : List Part), p ∈ l) (h : SameBut l b s) :
    SameBut l b { s with cal := x } :=
  SameBut.step (m := [.cal]) (t := s) ⟨rfl, fun p hp => by cases p <;> simp_all [Part.same]⟩ hm h

theorem setPowerJournal_frame {x : Power} {y : Journal} (hm : ∀ p ∈ ([.power, .journal] : List Part), p ∈ l) (h : SameBut l b s) :
    SameBut l b { s with power := x, journal := y } :=
  SameBut.step (m := [.power, .journal]) (t := s) ⟨rfl, fun p hp => by cases p <;> simp_all [Part.same]⟩ hm h

theorem setFrmStrip_frame {x : Frm} {y : Strips} (hm : ∀ p ∈ ([.frm, .strip] : List Part), p ∈ l) (h : SameBut l b s) :
    SameBut l b { s with frm := x, strip := y } :=
  SameBut.step (m := [.frm, .strip]) (t := s) ⟨rfl, fun p hp => by cases p <;> simp_all [Part.same]⟩ hm h

end FieldFrames

/-- The parts that a chip reset may write. -/
abbrev resetParts : List Part :=
  [.boot, .power, .link, .prot, .rings, .cmp, .frm, .strip, .tiles, .journal, .chans, .safeSet, .safety, .slots, .faults, .cal, .therm, .chain,
    .time, .nvm]

/-- The parts that a loss of a supply or a record of the NVM may write. -/
abbrev supplyParts : List Part :=
  [.freeCtr, .boot, .power, .link, .prot, .rings, .cmp, .frm, .strip, .tiles, .journal, .chans, .safeSet, .safety, .slots, .faults, .cal, .therm,
    .chain, .time, .pages, .nvm]

/-- The parts that a register write may write. -/
abbrev registerParts : List Part :=
  [.outputs, .freeCtr, .boot, .power, .link, .prot, .rings, .cmp, .frm, .strip, .tiles, .journal, .chans, .safeSet, .safety, .slots, .faults, .cal,
    .therm, .chain, .time, .nvm]

/-! ### The shared forms of a command: each writes no more than the change it is given and what it writes itself -/

theorem onOs_goes {l : List Part} {b s : State} {p kind : Nat} {v : BitVec 24} {f : State → State}
    (hm : ∀ p ∈ ([.outputs, .freeCtr, .rings, .faults, .chain] : List Part), p ∈ l) (h0 : SameBut l b s) (h : SameBut l b (f s)) :
    Goes l b (onOs p kind v f s) :=
  .ite (fun _ => .next h0) fun _ => .ite (fun _ => .next (badBlock_frame hm h0)) fun _ => .ite (fun _ => .next h0) fun _ => .next h

theorem runTile_goes {l : List Part} {b s : State} {id cmd : Nat} {f : Desc → Nat → State} (h0 : SameBut l b s)
    (h : ∀ d n, SameBut l b (f d n)) : Goes l b (runTile s id cmd f) :=
  runOp_goes h0 fun d _ => .ite (fun _ => h d _) fun _ => h0

theorem runTimeAdj_goes {l : List Part} {b s : State} {id mode : Nat} {f : Nat → Int → State → State}
    (hm : ∀ p ∈ ([.rings] : List Part), p ∈ l) (h0 : SameBut l b s) (h : ∀ x v, SameBut l b (f x v s)) :
    Goes l b (runTimeAdj id mode f s) :=
  runOp_goes h0 fun _ _ => .ite (fun _ => h0) fun _ => .ite (fun _ => complete_frame hm h0) fun _ => h _ _

theorem runMark_goes {l : List Part} {b s : State} {id mode : Nat} {f : Desc → State → State} (h0 : SameBut l b s)
    (h : ∀ d, SameBut l b (f d s)) : Goes l b (runMark id mode f s) :=
  runOp_goes h0 fun d _ => .ite (fun _ => h d) fun _ => h0

theorem runArm_goes {l : List Part} {b s : State} {id mode : Nat} {f : Desc → State → State}
    (hm : ∀ p ∈ ([.rings, .nvm] : List Part), p ∈ l) (h0 : SameBut l b s) (h : ∀ d t, SameBut l b t → SameBut l b (f d t)) :
    Goes l b (runArm id mode f s) :=
  runMark_goes h0 fun d =>
    .ite (fun _ => h d _ (onNvm_frame (fun _ => rfl) (fun _ => rfl) (fun p hp => hm p (by simp_all)) h0))
      fun _ => complete_frame (fun p hp => hm p (by simp_all)) h0

/-- A later change keeps the frame of an earlier one. -/
theorem SameBut.after {l : List Part} {s t u : State} (k : SameBut l t u) (h : SameBut l s t) : SameBut l s u :=
  .step k (fun _ hp => hp) h

/-- A meaning completes within the frame of the change before it. -/
theorem Goes.after {l : List Part} {s t : State} {o : Out} (k : Goes l t o) (h : SameBut l s t) : Goes l s o :=
  k.from (fun _ hp => hp) h

/-! ### Power and reset -/

theorem execVinRisePor_goes {s : State} : Goes resetParts s (execVinRisePor s) :=
  when_goes .refl <| setPower_frame (by decide) <| chipReset_frame (by decide) (setPower_frame (by decide) .refl)

theorem execPorRelease_goes {svcEnN : Bool} {resetNHigh : Bool} {s : State} : Goes [.power] s (execPorRelease svcEnN resetNHigh s) :=
  when_goes .refl <| release__frame (by decide) (setPower_frame (by decide) .refl)

theorem execResetNRelease_goes {svcEnN : Bool} {s : State} : Goes [.power] s (execResetNRelease svcEnN s) :=
  .next <| release__frame (by decide) (setPower_frame (by decide) .refl)

theorem execResetNLow_goes {s : State} : Goes resetParts s (execResetNLow s) :=
  .ite (fun _ => .next .refl) fun _ => .after (when_goes .refl (requestReset_frame (by decide) .refl)) <| setPower_frame (by decide) .refl

theorem execResetNStuck_goes {svcEnN : Bool} {s : State} : Goes [.power] s (execResetNStuck svcEnN s) :=
  when_goes .refl <| release__frame (by decide) (setPower_frame (by decide) .refl)

theorem execResetNHonoured_goes {s : State} : Goes [.power] s (execResetNHonoured s) :=
  when_goes .refl (setPower_frame (by decide) .refl)

theorem execVinSlow_goes {s : State} : Goes [.power, .faults] s (execVinSlow s) :=
  when_goes .refl (raise_frame (by decide) (setPower_frame (by decide) .refl))

theorem execSagDwell_goes {s : State} : Goes [.power] s (execSagDwell s) :=
  when_goes .refl (setPower_frame (by decide) .refl)

theorem execVinSlowRelease_goes {s : State} : Goes [.power] s (execVinSlowRelease s) :=
  .next (setPower_frame (by decide) .refl)

theorem execSaveSequence_goes {s : State} : Goes [.power, .strip, .tiles, .journal, .faults, .nvm] s (execSaveSequence s) :=
  when_goes .refl <| startSave_frame (by decide) (raise_frame (by decide) (setPower_frame (by decide) .refl))

theorem execSagRelease_goes {svcEnN : Bool} {s : State} : Goes [.power] s (execSagRelease svcEnN s) :=
  when_goes .refl <| release__frame (by decide) (setPower_frame (by decide) .refl)

theorem execVinStop_goes {s : State} : Goes [.power, .strip, .tiles, .chans] s (execVinStop s) :=
  .next <| tensOff_frame (by decide) <| lightOff_frame (by decide) (setPower_frame (by decide) .refl)

theorem execVinRemoval_goes {s : State} : Goes supplyParts s (execVinRemoval s) :=
  .next <| setPowerJournal_frame (by decide) <| chipReset_frame (by decide) (cutRecord_frame (by decide) .refl)

theorem execRailUndervoltage_goes {rail : Rail} {s : State} : Goes supplyParts s (execRailUndervoltage rail s) :=
  .next <| setPower_frame (by decide) <| .ite (fun _ => .refl) fun _ => chipReset_frame (by decide) (recordDone_frame (by decide) .refl)

theorem execVholdReady_goes {s : State} : Goes [.power, .faults] s (execVholdReady s) :=
  .next (vholdLevel_frame (by decide) .refl)

theorem execVholdReadyTimeout_goes {s : State} : Goes [.power, .faults] s (execVholdReadyTimeout s) :=
  when_goes .refl (condOn_frame (by decide) (setPower_frame (by decide) .refl))

theorem execVholdFall_goes {s : State} : Goes [.power, .faults] s (execVholdFall s) :=
  when_goes .refl <| condOn_frame (by decide) (vholdLevel_frame (by decide) .refl)

theorem execBuckPhase_goes {phase : Fin 4} {s : State} : Goes [.power, .faults] s (execBuckPhase phase s) :=
  when_goes .refl (raise_frame (by decide) (setPower_frame (by decide) .refl))

theorem execClockReferenceFail_goes {ref : Ref} {s : State} :
    Goes [.freeCtr, .power, .link, .rings, .cmp, .faults, .chain] s (execClockReferenceFail ref s) := by
  unfold execClockReferenceFail
  split
  · exact .next <| condOn_frame (by decide) (markRef_frame (by decide) (setPower_frame (by decide) .refl))
  · exact .next <| condOn_frame (by decide) <| portLose_frame (by decide) <|
      portLose_frame (by decide) (markRef_frame (by decide) (setPower_frame (by decide) .refl))
  · exact .next <| .after (.ite (fun _ => hostReset_frame (by decide) .refl) fun _ => .refl) <|
      condOn_frame (by decide) (markRef_frame (by decide) (setPower_frame (by decide) .refl))

theorem execClockReferenceReturn_goes {ref : Ref} {s : State} : Goes [.power, .faults, .chain] s (execClockReferenceReturn ref s) := by
  unfold execClockReferenceReturn
  split
  · exact .next <| condOff_frame (by decide) (markRef_frame (by decide) (setPower_frame (by decide) .refl))
  · exact .next <| condOff_frame (by decide) <|
      portsRestart_frame (by decide) (markRef_frame (by decide) (setPower_frame (by decide) .refl))
  · exact .next <| condOff_frame (by decide) (markRef_frame (by decide) (setPower_frame (by decide) .refl))

theorem execPwrMonUpdate_goes {vinMv : BitVec 16} {vhold : VholdSeen} {s : State} :
    Goes [.power, .faults] s (execPwrMonUpdate vinMv vhold s) :=
  .next <| vholdLevel_frame (by decide) (setPower_frame (by decide) .refl)

theorem execSwrstKey_goes {level0 : Bool} {value : BitVec 32} {s : State} : Goes resetParts s (execSwrstKey level0 value s) :=
  when_goes .refl (requestReset_frame (by decide) .refl)

theorem execSafetySelftest_goes {ch : Chan} {result : SelftestResult} {s : State} :
    Goes [.outputs, .chans, .safeSet, .safety, .faults] s (execSafetySelftest ch result s) :=
  ifRuns_goes .refl <| when_goes .refl <| .after (.ite (fun _ => .refl) fun _ => raise_frame (by decide) .refl) <|
    updChan_frame (by decide) <| selftestPulse_frame (by decide) (loadSet_frame (by decide) .refl)

theorem execNvmInhibitTrip_goes {s : State} : Goes [.freeCtr, .power, .rings, .safety, .faults, .cal, .nvm] s (execNvmInhibitTrip s) :=
  when_goes .refl <| inhibitEvent_frame (by decide) <| raise_frame (by decide) <|
    inhibitQueue_frame (by decide) (setPower_frame (by decide) .refl)

theorem execNvmInhibitRelease_goes {s : State} : Goes [.freeCtr, .power, .rings, .faults] s (execNvmInhibitRelease s) :=
  when_goes .refl <| inhibitEvent_frame (by decide) (raise_frame (by decide) (setPower_frame (by decide) .refl))

theorem execThermalShutdown_goes {s : State} : Goes [.power, .strip, .tiles, .chans, .nvm] s (execThermalShutdown s) :=
  when_goes .refl <| tensOff_frame (by decide) <| lightOff_frame (by decide) <|
    setPower_frame (by decide) (onNvm_frame (fun _ => rfl) (fun _ => rfl) (by decide) .refl)

/-! ### The host link -/

theorem execPerstNAssert_goes {s : State} : Goes [.link, .rings, .cmp, .faults] s (execPerstNAssert s) :=
  ifRuns_goes .refl (.next (hostReset_frame (by decide) .refl))

theorem execHotReset_goes {s : State} : Goes [.link, .rings, .cmp, .faults] s (execHotReset s) :=
  ifRuns_goes .refl (.next (hostReset_frame (by decide) .refl))

theorem execLinkDisable_goes {s : State} : Goes [.link, .rings, .cmp, .faults] s (execLinkDisable s) :=
  ifRuns_goes .refl (.next (hostReset_frame (by decide) .refl))

theorem execSurpriseLinkDown_goes {s : State} : Goes [.link, .rings, .cmp, .faults] s (execSurpriseLinkDown s) :=
  ifRuns_goes .refl (when_goes .refl (hostReset_frame (by decide) .refl))

theorem execDmaResume_goes {s : State} : Goes [.outputs, .link, .rings, .faults, .chain] s (execDmaResume s) :=
  ifRuns_goes .refl <| when_goes .refl <| postHeldEvents_frame (by decide) <| postLost_frame (by decide) <|
    postAllDone_frame (by decide) <| fillAllHost_frame (by decide) <|
    sendPending_frame (by decide) (pump_frame (by decide) (setLink_frame (by decide) .refl))

theorem execUnsupportedRequest_goes {write : Bool} {bar2 : Bool} {off : Nat} {value : BitVec 32} {s : State} :
    Goes [.outputs, .link] s (execUnsupportedRequest write bar2 off value s) :=
  ifRuns_goes .refl <| when_goes .refl (emit_frame (by decide) (setLink_frame (by decide) .refl))

theorem execHostReadCompletion_goes {tag : Nat} {status : RdStatus} {data : Bytes} {s : State} :
    Goes [.outputs, .link, .rings, .cmp, .faults] s (execHostReadCompletion tag status data s) := by
  unfold execHostReadCompletion
  refine ifRuns_goes .refl <|
    .ite (fun _ => .next <| pump_frame (by decide) (raise_frame (by decide) (setLink_frame (by decide) .refl))) fun _ => ?_
  split
  · exact .next (setLink_frame (by decide) .refl)
  · exact .ite (fun _ => .next <| .after (pump_frame (by decide) <| .ite (fun _ => deliver_frame (by decide) .refl) fun _ => .refl) <|
      setLink_frame (by decide) .refl) fun _ => .next <| pump_frame (by decide) <|
      raise_frame (by decide) (failItem_frame (by decide) (setLink_frame (by decide) .refl))

theorem execHostCplTmo_goes {tag : Nat} {s : State} : Goes [.outputs, .link, .rings, .cmp, .faults] s (execHostCplTmo tag s) := by
  unfold execHostCplTmo
  refine ifRuns_goes .refl ?_
  split
  · exact .next .refl
  · exact .ite (fun _ => .next .refl) fun _ => .next <| pump_frame (by decide) <|
      raise_frame (by decide) (failItem_frame (by decide) (setLink_frame (by decide) .refl))

theorem execFrmNumCapture_goes {s : State} : Goes [.outputs, .frm] s (execFrmNumCapture s) :=
  when_goes .refl (emit_frame (by decide) (setFrm_frame (by decide) .refl))

theorem execTimNowCapture_goes {s : State} : Goes [.outputs, .time] s (execTimNowCapture s) :=
  when_goes .refl (emit_frame (by decide) (onTim_frame (by decide) .refl))

/-! ### Rings and descriptors -/

theorem execApply_goes {level0 : Bool} {value : BitVec 32} {s : State} : Goes [.prot] s (execApply level0 value s) :=
  .ite (fun _ => .ite (fun _ =>
    .after (.ite (fun _ => .ite (fun _ => .next (setProt_frame (by decide) .refl)) fun _ =>
    .next (setProt_frame (by decide) .refl)) fun _ => .next .refl) <| setProt_frame (by decide) <|
    .ite (fun _ => setProt_frame (by decide) .refl) fun _ => .refl) fun _ => .next <|
    .ite (fun _ => setProt_frame (by decide) .refl) fun _ => .refl) fun _ => .next .refl

theorem execProtSet_goes {id : Nat} {s : State} : Goes [.prot, .rings] s (execProtSet id s) :=
  runOp_goes .refl fun _ _ => .ite (fun _ => complete_frame (by decide) .refl) fun _ =>
    complete_frame (by decide) (setProt_frame (by decide) .refl)

theorem execSqTailDoorbell_goes {n : Fin 32} {value : BitVec 32} {proper : Bool} {s : State} :
    Goes [.rings, .faults] s (execSqTailDoorbell n value proper s) :=
  .ite (fun _ => .next .refl) fun _ => .ite (fun _ => .next (doorbellError_frame (by decide) .refl)) fun _ =>
    .ite (fun _ => .next (doorbellError_frame (by decide) .refl)) fun _ =>
    .ite (fun _ => .next (doorbellError_frame (by decide) .refl)) fun _ => .next <|
    .after (.ite (fun _ => .refl) fun _ => hostHeard_frame (by decide) .refl) <| putSq_frame (by decide) .refl

theorem execFenceKick_goes {n : Fin 32} {value : BitVec 32} {proper : Bool} {s : State} :
    Goes [.outputs, .link, .rings, .cmp, .faults] s (execFenceKick n value proper s) :=
  .ite (fun _ => .next .refl) fun _ => .ite (fun _ => .next (doorbellError_frame (by decide) .refl)) fun _ =>
    .next (kickGroups_frame (by decide) .refl)

theorem execCqHeadDoorbell_goes {n : Fin 32} {value : BitVec 32} {proper : Bool} {s : State} :
    Goes [.outputs, .link, .rings, .faults] s (execCqHeadDoorbell n value proper s) :=
  .ite (fun _ => .next .refl) fun _ => .ite (fun _ => .next (doorbellError_frame (by decide) .refl)) fun _ =>
    .ite (fun _ => .next (doorbellError_frame (by decide) .refl)) fun _ =>
    .ite (fun _ => .next (doorbellError_frame (by decide) .refl)) fun _ =>
    .ite (fun _ => .next (doorbellError_frame (by decide) .refl)) fun _ => .next <|
    .after (.ite (fun _ => postLost_frame (by decide) .refl) fun _ => .refl) <|
    .ite (fun _ => signal_frame (by decide) <| .ite (fun _ => putCq_frame (by decide) .refl) fun _ =>
    hostHeard_frame (by decide) (putCq_frame (by decide) .refl)) fun _ => .ite (fun _ => putCq_frame (by decide) .refl) fun _ =>
    hostHeard_frame (by decide) (putCq_frame (by decide) .refl)

theorem execSqEnable_goes {n : Fin 32} {level0 : Bool} {value : BitVec 32} {s : State} :
    Goes [.prot, .rings] s (execSqEnable n level0 value s) :=
  when_goes .refl <| .after (.ite (fun _ => putSq_frame (by decide) .refl) fun _ => .refl) <| storeSqCfg_frame (by decide) .refl

theorem execSqDrain_goes {n : Fin 32} {level0 : Bool} {value : BitVec 32} {s : State} :
    Goes [.link, .prot, .rings, .chain] s (execSqDrain n level0 value s) :=
  when_goes .refl <| .after (.ite (fun _ => drainEnd_frame (by decide) <| flushAll_frame (by decide) <|
    dropFetches_frame (by decide) (putSq_frame (by decide) .refl)) fun _ => .refl) <| storeSqCfg_frame (by decide) .refl

theorem execCqEnable_goes {n : Fin 32} {level0 : Bool} {value : BitVec 32} {s : State} :
    Goes [.outputs, .link, .rings] s (execCqEnable n level0 value s) :=
  when_goes .refl <| .after (.ite (fun _ => putCq_frame (by decide) .refl) fun _ => storeIrqEn_frame (by decide) .refl) <|
    storeCqCfg_frame (by decide) .refl

theorem execCqDisable_goes {n : Fin 32} {level0 : Bool} {value : BitVec 32} {s : State} :
    Goes [.outputs, .link, .rings] s (execCqDisable n level0 value s) :=
  when_goes .refl <| .ite (fun _ => putCq_frame (by decide) .refl) fun _ =>
    storeIrqEn_frame (by decide) (storeCqCfg_frame (by decide) .refl)

theorem execIrqEnWrite_goes {n : Fin 32} {level0 : Bool} {value : BitVec 32} {s : State} :
    Goes [.outputs, .link, .rings] s (execIrqEnWrite n level0 value s) :=
  when_goes .refl <| storeIrqEn_frame (by decide) (storeCqCfg_frame (by decide) .refl)

theorem execDescriptorFetch_goes {n : Fin 32} {s : State} : Goes [.outputs, .link, .rings] s (execDescriptorFetch n s) :=
  when_goes .refl <| pump_frame (by decide) <| fetchRequests_frame (by decide) (setRings_frame (by decide) .refl)

theorem execDescriptorConsumed_goes {n : Fin 32} {ecc : EccSeen} {s : State} :
    Goes [.outputs, .link, .rings, .faults] s (execDescriptorConsumed n s ecc) := by
  unfold execDescriptorConsumed
  refine ifRuns_goes .refl ?_
  split
  · exact .next .refl
  · exact .ite (fun _ => .next <| consumeLost_frame (by decide) (setLink_frame (by decide) .refl)) fun _ =>
      .ite (fun _ => .next <| consumeAll_frame (by decide) <| eccUncorrected_frame (by decide) <|
        eccCorrected_frame (by decide) (setLink_frame (by decide) .refl)) fun _ => .next .refl

theorem execDispatch_goes {id : Nat} {s : State} : Goes [.outputs, .link, .rings] s (execDispatch id s) := by
  unfold execDispatch
  refine ifRuns_goes .refl ?_
  split
  · exact .next .refl
  · refine when_goes .refl <| .ite (fun _ => complete_frame (by decide) (updDesc_frame (by decide) .refl)) fun _ => ?_
    split
    · exact updDesc_frame (by decide) .refl
    · exact startRead_frame (by decide) (updDesc_frame (by decide) .refl)

theorem execCompletionPost_goes {s : State} : Goes [.outputs, .link, .rings] s (execCompletionPost s) :=
  ifRuns_goes .refl (.next (postDone_frame (by decide) .refl))

theorem execEventPost_goes {s : State} : Goes [.outputs, .link, .rings, .faults] s (execEventPost s) :=
  ifRuns_goes .refl (.next (eventTurn_frame (by decide) .refl))

theorem execHostSilent_goes {s : State} : Goes [.rings, .faults] s (execHostSilent s) :=
  ifRuns_goes .refl <| .next (condOn_frame (by decide) (setRings_frame (by decide) .refl))

theorem execNop_goes {id : Nat} {s : State} : Goes [.rings] s (execNop id s) :=
  runOp_goes .refl fun _ _ => complete_frame (by decide) .refl

/-! ### The compositor -/

theorem execLayerSet_goes {id : Nat} {s : State} : Goes [.rings, .cmp] s (execLayerSet id s) :=
  runRead_goes .refl (complete_frame (by decide) .refl) fun _ _ _ =>
    complete_frame (by decide) (onCmp_frame (fun _ => rfl) (by decide) .refl)

theorem execLayerCommit_goes {id : Nat} {s : State} : Goes [.outputs, .link, .rings, .cmp, .frm, .faults] s (execLayerCommit id s) :=
  runOp_goes .refl fun _ _ => .ite (fun _ => complete_frame (by decide) .refl) fun _ =>
    .ite (fun _ => complete_frame (by decide) .refl) fun _ => pollFences_frame (by decide) <| onFrm_frame (by decide) <|
    onCmp_frame (fun _ => rfl) (by decide) (updDesc_frame (by decide) (raiseBad_frame (by decide) .refl))

theorem execCacheLoad_goes {id : Nat} {s : State} : Goes [.rings, .cmp, .cache] s (execCacheLoad id s) := by
  unfold execCacheLoad
  refine runOp_goes .refl fun _ _ => .ite (fun _ => complete_frame (by decide) .refl) fun _ =>
    .ite (fun _ => complete_frame (by decide) (onCmp_frame (fun _ => rfl) (by decide) .refl)) fun _ => ?_
  split
  · exact .refl
  · exact complete_frame (by decide) (onCmp_frame_cache (by decide) .refl)

theorem execCacheEvict_goes {id : Nat} {s : State} : Goes [.rings, .cmp] s (execCacheEvict id s) :=
  runOp_goes .refl fun _ _ => .ite (fun _ => complete_frame (by decide) .refl) fun _ =>
    complete_frame (by decide) (onCmp_frame (fun _ => rfl) (by decide) .refl)

theorem execFencePollTick_goes {s : State} : Goes [.outputs, .link] s (execFencePollTick s) :=
  ifRuns_goes .refl (.next (pollGroups_frame (by decide) .refl))

theorem execFencePollResult_goes {gid : Nat} {entry : Fin 8} {s : State} :
    Goes [.outputs, .link, .cmp] s (execFencePollResult gid entry s) := by
  unfold execFencePollResult
  refine ifRuns_goes .refl ?_
  split
  · exact .next .refl
  · dsimp only
    split
    · exact .next (setLink_frame (by decide) .refl)
    · split
      · exact .next (setLink_frame (by decide) .refl)
      · exact .next <| .after (.ite (fun _ => pollFence_frame (by decide) .refl) fun _ => .refl) <|
          updGroup_frame (by decide) (setLink_frame (by decide) .refl)

/-! ### The frame -/

theorem execFrameBoundary_goes {s : State} : Goes [.frm, .strip, .tiles, .safety, .faults, .cal, .time] s (execFrameBoundary s) :=
  ifRuns_goes .refl <| .ite (fun _ => .next .refl) fun _ => .next <|
    .after (.ite (fun _ => .refl) fun _ => boundaryAll_frame (by decide) <|
    calBoundary_frame (by decide) (takeSettings_frame (by decide) .refl)) <| setFrm_frame (by decide) <|
    .ite (fun _ => raise_frame (by decide) <|
    .ite (fun _ => raise_frame (by decide) (setFrm_frame (by decide) (advanceTo_frame (by decide) .refl))) fun _ =>
    advanceTo_frame (by decide) .refl) fun _ =>
    .ite (fun _ => raise_frame (by decide) (setFrm_frame (by decide) (advanceTo_frame (by decide) .refl))) fun _ =>
    advanceTo_frame (by decide) .refl

theorem execLatchGapStart_goes {s : State} :
    Goes [.outputs, .rings, .frm, .strip, .tiles, .safety, .cal, .therm, .time, .nvm] s (execLatchGapStart s) :=
  ifRuns_goes .refl <| when_goes .refl <|
    .after (.ite (fun _ => .refl) fun _ => nextCommit_frame (by decide) <| calAdvance_frame (by decide) <|
      releaseTiles_frame (by decide) (markTaps_frame (by decide) .refl)) <|
    setFrmStrip_frame (by decide) (advanceTo_frame (by decide) .refl)

theorem execCutPoint_goes {s : State} : Goes [.rings, .cmp, .frm] s (execCutPoint s) :=
  ifRuns_goes .refl <| when_goes .refl <| releaseReady_frame (by decide) <|
    onCmp_frame (fun _ => rfl) (by decide) (onFrm_frame (by decide) .refl)

theorem execBoundaryFlip_goes {ecc : EccSeen} {s : State} :
    Goes [.outputs, .link, .rings, .cmp, .frm, .strip, .tiles, .faults, .therm] s (execBoundaryFlip s ecc) :=
  ifRuns_goes .refl <| when_goes .refl <| sameClock_frame (by decide) (flipNow_frame (by decide) .refl)

theorem execCompositionEnd_goes {s : State} : Goes [.rings, .cmp, .frm, .faults, .nvm] s (execCompositionEnd s) := by
  unfold execCompositionEnd
  refine ifRuns_goes .refl ?_
  split
  · exact .next .refl
  · exact .ite (fun _ => .next .refl) fun _ => .next <| releaseReady_frame (by decide) <| confirmAll_frame (by decide) <|
      onCmp_frame (fun _ => rfl) (by decide) (checkGuards_frame (by decide) .refl)

theorem execFenceTmo_goes {gid : Nat} {s : State} : Goes [.rings, .cmp, .faults] s (execFenceTmo gid s) := by
  unfold execFenceTmo
  refine ifRuns_goes .refl ?_
  split
  · exact .next .refl
  · exact .ite (fun _ => .next <| raise_frame (by decide) <| postEvent_frame (by decide) <|
      complete_frame (by decide) (dropGroup_frame (by decide) .refl)) fun _ => .next .refl

theorem execFetchTmo_goes {target : StallTarget} {s : State} : Goes [.rings, .cmp, .frm, .faults] s (execFetchTmo target s) := by
  unfold execFetchTmo
  refine ifRuns_goes .refl ?_
  split
  · split
    · exact .next .refl
    · exact .ite (fun _ => .next <| raise_frame (by decide) <| complete_frame (by decide) <| rebuildActive_frame (by decide) <|
        dropGroup_frame (by decide) (onCmp_frame (fun _ => rfl) (by decide) .refl)) fun _ => .next .refl
  · exact .ite (fun _ => .next <| raise_frame (by decide) <|
      onFrm_frame (by decide) (onCmp_frame (fun _ => rfl) (by decide) .refl)) fun _ => .next .refl

theorem execStaticPictureEntry_goes {s : State} : Goes [.frm] s (execStaticPictureEntry s) :=
  ifRuns_goes .refl (when_goes .refl (onFrm_frame (by decide) .refl))

theorem execFrameCtrl_goes {id : Nat} {s : State} : Goes [.rings, .cmp, .frm] s (execFrameCtrl id s) :=
  runOp_goes .refl fun _ _ => onFrm_frame (by decide) <| onCmp_frame (fun _ => rfl) (by decide) (updDesc_frame (by decide) .refl)

/-! ### The strips -/

theorem execShift_goes {f : Fin 9} {ecc : EccSeen} {s : State} :
    Goes [.freeCtr, .rings, .strip, .tiles, .faults] s (execShift f s ecc) := by
  unfold execShift
  refine ifRuns_goes .refl ?_
  split
  · exact .next .refl
  · exact .ite (fun _ => .next .refl) fun _ => .ite (fun _ => .next (putFrond_frame (by decide) .refl)) fun _ => .next <|
      .after (.ite (fun _ => raise_frame (by decide) .refl) fun _ => .refl) <|
      .after (.ite (fun _ => raise_frame (by decide) .refl) fun _ => .refl) <|
      putFrond_frame (by decide) <| putTile_frame (by decide) <|
      .after (.ite (fun _ => cancelRepay_frame (by decide) .refl) fun _ => .refl) <|
      loseWords_frame (by decide) <| eccUncorrected_frame (by decide) <| eccCorrected_frame (by decide) (putFrond_frame (by decide) .refl)

theorem execShiftEnd_goes {f : Fin 9} {rets : List StripRet} {s : State} :
    Goes [.rings, .strip, .tiles, .faults] s (execShiftEnd f rets s) := by
  unfold execShiftEnd
  refine ifRuns_goes .refl ?_
  split
  · exact .next <| .after (.ite (fun _ => raise_frame (by decide) .refl) fun _ => .refl) <| putFrond_frame (by decide) <|
      putTile_frame (by decide) (readbacks_frame (by decide) .refl)
  · exact .next .refl

theorem execLatch_goes {f : Fin 9} {seen : LatchSeen} {s : State} :
    Goes [.outputs, .rings, .strip, .tiles, .safety, .faults, .cal, .therm, .nvm] s (execLatch f seen s) := by
  unfold execLatch
  refine ifRuns_goes .refl ?_
  split
  · exact .next .refl
  · refine .ite (fun _ => .next .refl) fun _ => .next <|
      .after (calGap_frame (by decide) <| srefTest_frame (by decide) <| .ite (fun _ => pinShorts_frame (by decide) .refl) fun _ =>
      .refl) <| applyAnalog_frame (by decide) ?_
    split
    · exact latchTile_frame (by decide) (putFrond_frame (by decide) .refl)
    · exact putFrond_frame (by decide) .refl

theorem execSliceStart_goes {f : Fin 9} {slice : Fin 16} {telem : List (Nat × Nat × Nat)} {s : State} :
    Goes [.outputs, .strip, .tiles, .faults, .time] s (execSliceStart f slice telem s) := by
  unfold execSliceStart
  refine ifRuns_goes .refl <| .next ?_
  split
  · refine telemetry_frame (by decide) ?_
    split
    · exact startSlice_frame (by decide) (atSlice_frame (by decide) (emit_frame (by decide) .refl))
    · exact atSlice_frame (by decide) (emit_frame (by decide) .refl)
  · split
    · exact startSlice_frame (by decide) (atSlice_frame (by decide) (emit_frame (by decide) .refl))
    · exact atSlice_frame (by decide) (emit_frame (by decide) .refl)

theorem execStripSet_goes {id : Nat} {s : State} : Goes [.rings, .cmp] s (execStripSet id s) :=
  runOp_goes .refl fun _ _ => setCmp_frame rfl (by decide) (updDesc_frame (by decide) .refl)

/-! ### Tiles and their ledger -/

theorem execTileInsertion_goes {n : Fin 8} {s : State} : Goes [.outputs, .strip, .tiles] s (execTileInsertion n s) :=
  ifRuns_goes .refl <| when_goes .refl <| startRead1_frame (by decide) <| updTile_frame (by decide) (dropChecks_frame (by decide) .refl)

theorem execTileRemoval_goes {n : Fin 8} {s : State} :
    Goes [.rings, .cmp, .strip, .tiles, .journal, .faults, .chain, .nvm] s (execTileRemoval n s) :=
  ifRuns_goes .refl <| when_goes .refl <|
    .after (flushReport_frame (by decide) <| completeAll_frame (by decide) <| endWaits_frame (by decide) <|
    .ite (fun _ => postPresence_frame (by decide) .refl) fun _ => postPresence_frame (by decide) (raise_frame (by decide) .refl)) <|
    orphanRemoved_frame (by decide) <| onTiles_frame (by decide) <| dropChecks_frame (by decide) <| putTile_frame (by decide) <|
    dropTileItems_frame (by decide) <| stopShift_frame (by decide) (cancelRepay_frame (by decide) .refl)

theorem execTileAlert_goes {n : Fin 8} {status : Byte} {s : State} : Goes [.tiles, .faults] s (execTileAlert n status s) :=
  ifRuns_goes .refl <| when_goes .refl (raise_frame (by decide) (updTile_frame (by decide) .refl))

theorem execTileBusRetry_goes {n : Fin 8} {ack : Bool} {op : BusOp} {s : State} :
    Goes [.outputs, .rings, .cmp, .strip, .tiles, .faults, .chain] s (execTileBusRetry n ack s op) :=
  ifRuns_goes .refl <| .ite (fun _ => .next (updTile_frame (by decide) .refl)) fun _ =>
    .after (.ite (fun _ => .next .refl) fun _ => .next <| flushReport_frame (by decide) <|
    opFails_frame (by decide) (raise_frame (by decide) (updTile_frame (by decide) .refl))) <| putTile_frame (by decide) .refl

theorem execTileHeaderCheck_goes {n : Fin 8} {header : Bytes} {s : State} :
    Goes [.outputs, .rings, .strip, .tiles, .faults] s (execTileHeaderCheck n header s) := by
  unfold execTileHeaderCheck
  refine ifRuns_goes .refl <| .ite (fun _ => .next .refl) fun _ => ?_
  dsimp only
  split
  · exact .next <| .after (.ite (fun _ => .refl) fun _ => postPresence_frame (by decide) .refl) <|
      readCurve_frame (by decide) (updTile_frame (by decide) (updTile_frame (by decide) .refl))
  · exact .next <| headerBad_frame (by decide) (updTile_frame (by decide) .refl)

theorem execTileIdentityStep_goes {n : Fin 8} {data : IdStep} {s : State} :
    Goes [.outputs, .freeCtr, .rings, .cmp, .tiles, .journal, .faults, .chain, .nvm] s (execTileIdentityStep n data s) := by
  unfold execTileIdentityStep
  refine ifRuns_goes .refl ?_
  dsimp only
  split
  · split
    · exact .next <| readHeads_frame (by decide) <| .ite (fun _ => updTile_frame (by decide) .refl) fun _ =>
        raise_frame (by decide) (updTile_frame (by decide) .refl)
    · exact .next (readCopies_frame (by decide) .refl)
    · exact .next (endLedger_frame (by decide) .refl)
    · exact .after (.ite (fun _ => .next <| emit_frame (by decide) <|
        emit_frame (by decide) (onTiles_frame (by decide) (updTile_frame (by decide) .refl))) fun _ =>
        .next (endCert_frame (by decide) .refl)) <| updTile_frame (by decide) .refl
    · exact .next <| .after (flushReport_frame (by decide) <| tileReady_frame (by decide) <| .ite (fun _ => .refl) fun _ =>
        raise_frame (by decide) .refl) <| updTile_frame (by decide) .refl
    · exact .next .refl
  · exact .next .refl

theorem execChallengePoll_goes {n : Fin 8} {auth : Byte} {response : Bytes} {s : State} :
    Goes [.outputs, .tiles, .faults] s (execChallengePoll n auth response s) := by
  unfold execChallengePoll
  refine ifRuns_goes .refl ?_
  dsimp only
  split
  · exact .ite (fun _ => .next (endCert_frame (by decide) .refl)) fun _ =>
      .ite (fun _ => .next (endCert_frame (by decide) (emit_frame (by decide) .refl))) fun _ => .next (emit_frame (by decide) .refl)
  · exact .next .refl

theorem execChallengeTimeout_goes {n : Fin 8} {s : State} : Goes [.outputs, .tiles, .faults] s (execChallengeTimeout n s) :=
  ifRuns_goes .refl (when_goes .refl (endCert_frame (by decide) .refl))

theorem execGainRecompute_goes {s : State} : Goes [.rings, .cmp, .tiles, .faults, .chain] s (execGainRecompute s) :=
  ifRuns_goes .refl <| when_goes .refl <| flushReport_frame (by decide) (gainsAll_frame (by decide) .refl)

theorem execLedgerTap_goes {f : Fin 9} {ecc : EccSeen} {s : State} :
    Goes [.outputs, .freeCtr, .rings, .strip, .tiles, .journal, .faults] s (execLedgerTap f s ecc) := by
  unfold execLedgerTap
  refine ifRuns_goes .refl ?_
  split
  · exact when_goes .refl <| fencedWrite_frame (by decide) (onTiles_frame (by decide) .refl)
  · exact .ite (fun _ => .next .refl) fun _ => .next <| nextCommit_frame (by decide) <| putTile_frame (by decide) <|
      losePending_frame (by decide) <| eccUncorrected_frame (by decide) (eccCorrected_frame (by decide) .refl)

theorem execPeriodicLedgerCommit_goes {s : State} : Goes [.tiles, .chain] s (execPeriodicLedgerCommit s) :=
  ifRuns_goes .refl <| when_goes .refl <| flushReport_frame (by decide) <|
    onTiles_frame (by decide) (requestCommits_frame (by decide) .refl)

theorem execCommitReadback_goes {n : Fin 8} {bytes : Bytes} {s : State} :
    Goes [.outputs, .rings, .tiles, .faults, .chain] s (execCommitReadback n bytes s) :=
  ifRuns_goes .refl <| when_goes .refl <| flushReport_frame (by decide) (judgeCommit_frame (by decide) .refl)

/-! ### The tile commands of a ring -/

theorem execStatus_goes {id : Nat} {s : State} : Goes [.outputs, .rings] s (execStatus id s) :=
  runTile_goes .refl fun _ _ => .ite (fun _ => complete_frame (by decide) (hostWrite_frame (by decide) .refl)) fun _ => .refl

theorem execRelease_goes {id : Nat} {s : State} : Goes [.rings, .tiles] s (execRelease id s) :=
  runTile_goes .refl fun _ _ => .ite (fun _ => complete_frame (by decide) .refl) fun _ =>
    updTile_frame (by decide) (updDesc_frame (by decide) .refl)

theorem execRescan_goes {id : Nat} {s : State} : Goes [.outputs, .rings, .tiles] s (execRescan id s) :=
  runTile_goes .refl fun _ _ => .ite (fun _ => startRead1_frame (by decide) (updDesc_frame (by decide) .refl)) fun _ =>
    complete_frame (by decide) .refl

theorem execIdRead_goes {id : Nat} {s : State} : Goes [.outputs, .rings] s (execIdRead id s) :=
  runTile_goes .refl fun _ _ => .ite (fun _ => complete_frame (by decide) .refl) fun _ =>
    .ite (fun _ => complete_frame (by decide) (hostWrite_frame (by decide) .refl)) fun _ => .refl

theorem execOrphanInfo_goes {id : Nat} {s : State} : Goes [.outputs, .rings] s (execOrphanInfo id s) :=
  runTile_goes .refl fun _ _ => .ite (fun _ => complete_frame (by decide) (hostWrite_frame (by decide) .refl)) fun _ => .refl

theorem execOrphanClear_goes {id : Nat} {s : State} : Goes [.rings, .journal] s (execOrphanClear id s) :=
  runTile_goes .refl fun _ _ => complete_frame (by decide) (setJournal_frame (by decide) .refl)

theorem execReturnTile_goes {id : Nat} {s : State} : Goes [.outputs, .rings, .tiles] s (execReturnTile id s) :=
  runTile_goes .refl fun _ _ =>
    .ite (fun _ => startRead1_frame (by decide) <| endsRelease_frame (by decide) (updDesc_frame (by decide) .refl)) fun _ =>
    complete_frame (by decide) .refl

theorem execLedgerRead_goes {id : Nat} {s : State} : Goes [.outputs, .rings] s (execLedgerRead id s) :=
  runOp_goes .refl fun _ _ => .ite (fun _ => complete_frame (by decide) .refl) fun _ =>
    .ite (fun _ => complete_frame (by decide) .refl) fun _ =>
    .ite (fun _ => complete_frame (by decide) (hostWrite_frame (by decide) .refl)) fun _ => .refl

theorem execLedgerCommit_goes {id : Nat} {s : State} : Goes [.rings, .tiles] s (execLedgerCommit id s) :=
  runOp_goes .refl fun _ _ => .ite (fun _ => complete_frame (by decide) .refl) fun _ => onTiles_frame (by decide) <|
    updDesc_frame (by decide) (requestCommits_frame (by decide) .refl)

theorem execDiagRead_goes {id : Nat} {s : State} : Goes [.outputs, .rings] s (execDiagRead id s) :=
  runOp_goes .refl fun _ _ => .ite (fun _ => complete_frame (by decide) .refl) fun _ =>
    .ite (fun _ => complete_frame (by decide) (hostWrite_frame (by decide) .refl)) fun _ => .refl

/-! ### The fronds' map and heartbeats -/

theorem execProbePeriod_goes {s : State} : Goes [.tiles] s (execProbePeriod s) :=
  ifRuns_goes .refl (when_goes .refl (probeEnds_frame (by decide) .refl))

theorem execHeartbeatCheck_goes {f : Fin 9} {token : Bool} {pulseSeen : Bool} {slice : Fin 16} {s : State} :
    Goes [.outputs, .rings, .strip, .tiles, .faults, .time] s (execHeartbeatCheck f token pulseSeen s slice) := by
  unfold execHeartbeatCheck
  refine ifRuns_goes .refl <| .ite (fun _ => .next .refl) fun _ =>
    .ite (fun _ => .next <| tokenSeen_frame (by decide) (takeInj_frame (by decide) (atSlice_frame (by decide) .refl))) fun _ => ?_
  dsimp only
  split
  · exact .next <| suspect_frame (by decide) <|
      tokenMissed_frame (by decide) (takeInj_frame (by decide) (atSlice_frame (by decide) .refl))
  · exact .next <| declareDead_frame (by decide) <|
      tokenMissed_frame (by decide) (takeInj_frame (by decide) (atSlice_frame (by decide) .refl))
  · exact .next <| .ite (fun _ => declareDead_frame (by decide) <|
      tokenMissed_frame (by decide) (takeInj_frame (by decide) (atSlice_frame (by decide) .refl))) fun _ => putFrond_frame (by decide) <|
      tokenMissed_frame (by decide) (takeInj_frame (by decide) (atSlice_frame (by decide) .refl))

theorem execTakeoverComplete_goes {n : Fin 8} {s : State} : Goes [.outputs, .strip, .tiles] s (execTakeoverComplete n s) := by
  unfold execTakeoverComplete
  refine ifRuns_goes .refl ?_
  dsimp only
  split
  · split
    · exact .next <| latePulse_frame (by decide) (emit_frame (by decide) (putTile_frame (by decide) .refl))
    · exact .next <| putFrond_frame (by decide) <| dropChecks_frame (by decide) <|
        latePulse_frame (by decide) (emit_frame (by decide) (putTile_frame (by decide) .refl))
  · exact .next .refl

theorem execMapRereadComplete_goes {n : Fin 8} {map : Bytes} {s : State} : Goes [.cmp, .tiles] s (execMapRereadComplete n map s) := by
  unfold execMapRereadComplete
  refine ifRuns_goes .refl <| .ite (fun _ => .next .refl) fun _ => ?_
  dsimp only
  split
  · exact .next <| .ite (fun _ => setCmp_frame rfl (by decide) (putTile_frame (by decide) .refl)) fun _ => putTile_frame (by decide) .refl
  · exact .next (putTile_frame (by decide) .refl)

theorem execFrondStale_goes {f : Fin 9} {write : StaleWrite} {s : State} : Goes [.strip, .faults] s (execFrondStale f write s) :=
  ifRuns_goes .refl <| when_goes .refl <| fencedWrite_frame (by decide) (putFrond_frame (by decide) .refl)

theorem execFrondReinstate_goes {id : Nat} {s : State} : Goes [.rings, .strip] s (execFrondReinstate id s) :=
  runOp_goes .refl fun _ _ => .ite (fun _ => updDesc_frame (by decide) (putFrond_frame (by decide) .refl)) fun _ =>
    complete_frame (by decide) .refl

theorem execFrondSelftestEnd_goes {f : Fin 9} {code : Nat} {s : State} :
    Goes [.rings, .strip, .tiles, .faults] s (execFrondSelftestEnd f code s) := by
  unfold execFrondSelftestEnd
  refine ifRuns_goes .refl <| .ite (fun _ => .next .refl) fun _ => .ite (fun _ => ?_) fun _ => .next <|
    raise_frame (by decide) (endSelftest_frame (by decide) .refl)
  dsimp only
  split
  · exact .next <| takeOver_frame (by decide) <| putFrond_frame (by decide) (endSelftest_frame (by decide) .refl)
  · exact .next <| putFrond_frame (by decide) (endSelftest_frame (by decide) .refl)

/-! ### The safety channels -/

theorem execSafetyInputDemand_goes {ch : Chan} {pair : Pair} {s : State} :
    Goes [.strip, .tiles, .chans, .safety, .faults] s (execSafetyInputDemand ch pair s) :=
  ifRuns_goes .refl <| .after (when_goes .refl <| sendSignal_frame (by decide) (setDemand_frame (by decide) .refl)) <|
    updChan_frame (by decide) .refl

theorem execDemandSignal_goes {ch : Chan} {pair : Pair} {s : State} :
    Goes [.strip, .tiles, .chans, .safety, .faults] s (execDemandSignal ch pair s) :=
  ifRuns_goes .refl <| when_goes .refl <| setDemand_frame (by decide) (updChan_frame (by decide) .refl)

theorem execSafDisc_goes {ch : Chan} {pair : Pair} {s : State} :
    Goes [.strip, .tiles, .chans, .safety, .faults] s (execSafDisc ch pair s) :=
  ifRuns_goes .refl <| when_goes .refl <| condOn_frame (by decide) <| updChan_frame (by decide) <|
    sendSignal_frame (by decide) (setDemand_frame (by decide) .refl)

theorem execDiscrepancyClear_goes {ch : Chan} {pair : Pair} {s : State} : Goes [.chans, .faults] s (execDiscrepancyClear ch pair s) :=
  ifRuns_goes .refl <| .next <| .after (.ite (fun _ => condOff_frame (by decide) .refl) fun _ => .refl) <| updChan_frame (by decide) <|
    onSaf_frame_only_chans (fun _ => by cases pair <;> rfl) (fun _ => by cases pair <;> rfl) (fun _ => by cases pair <;> rfl) (fun _ =>
    by cases pair <;> rfl) (by decide) .refl

theorem execDemandEnd_goes {ch : Chan} {pair : Pair} {s : State} : Goes [.chans, .safety, .faults] s (execDemandEnd ch pair s) := by
  unfold execDemandEnd
  refine ifRuns_goes .refl ?_
  cases pair
  case hatch =>
    exact .after (.ite (fun _ => .next .refl) fun _ => .ite (fun _ => .next (updChan_frame (by decide) .refl)) fun _ => .next <|
        .after (.ite (fun _ => endEstop_frame (by decide) .refl) fun _ => .refl) <|
        condOff_frame (by decide) (updChan_frame (by decide) .refl)) <|
      onSaf_frame_only_chans (fun _ => rfl) (fun _ => rfl) (fun _ => rfl) (fun _ => rfl) (by decide) .refl
  case estop =>
    exact .after (.ite (fun _ => .next .refl) fun _ => .next <|
        .after (.ite (fun _ => .ite (fun _ => endEstop_frame (by decide) .refl) fun _ => awaitRestart_frame (by decide) .refl)
          fun _ => .refl) <|
        updChan_frame (by decide) .refl) <|
      onSaf_frame_only_chans (fun _ => rfl) (fun _ => rfl) (fun _ => rfl) (fun _ => rfl) (by decide) .refl

theorem execCrossLinkExchange_goes {agree : Bool} {s : State} : Goes [.strip, .tiles, .chans] s (execCrossLinkExchange s agree) :=
  ifRuns_goes .refl (.next (exchange_frame (by decide) .refl))

theorem execCrossLinkLoss_goes {ch : Chan} {s : State} : Goes [.strip, .tiles, .chans, .faults] s (execCrossLinkLoss ch s) :=
  ifRuns_goes .refl <| .next <| raise_frame (by decide) (sloOff_frame (by decide) (updChan_frame (by decide) .refl))

theorem execCrossLinkDisagree_goes {ch : Chan} {s : State} : Goes [.strip, .tiles, .chans, .faults] s (execCrossLinkDisagree ch s) :=
  ifRuns_goes .refl <| .next <| raise_frame (by decide) (sloOff_frame (by decide) (updChan_frame (by decide) .refl))

theorem execInputTestPulse_goes {ch : Chan} {s : State} : Goes [.outputs, .chans] s (execInputTestPulse ch s) :=
  ifRuns_goes .refl <| when_goes .refl (emit_frame (by decide) (updChan_frame (by decide) .refl))

theorem execSafTpi_goes {ch : Chan} {echo : EchoSeen} {s : State} : Goes [.chans, .safety, .faults] s (execSafTpi ch echo s) :=
  ifRuns_goes .refl <| when_goes .refl <|
    .after (.ite (fun _ =>
    onSaf_frame (fun _ => rfl) (fun _ => rfl) (fun _ => rfl) (fun _ => rfl) (fun _ => rfl) (by decide) .refl) fun _ =>
    .ite (fun _ => raise_frame (by decide) <|
    onSaf_frame (fun _ => rfl) (fun _ => rfl) (fun _ => rfl) (fun _ => rfl) (fun _ => rfl) (by decide) .refl) fun _ => .refl) <|
    updChan_frame (by decide) .refl

theorem execOutputTestPulse_goes {ch : Chan} {s : State} : Goes [.outputs, .chans] s (execOutputTestPulse ch s) :=
  ifRuns_goes .refl <| when_goes .refl (emit_frame (by decide) (updChan_frame (by decide) .refl))

theorem execOutputTestVerdict_goes {ch : Chan} {lowOk : Bool} {highOk : Bool} {s : State} :
    Goes [.chans, .safety, .faults] s (execOutputTestVerdict ch lowOk highOk s) :=
  ifRuns_goes .refl <| when_goes .refl <|
    .after (.ite (fun _ =>
    onSaf_frame (fun _ => rfl) (fun _ => rfl) (fun _ => rfl) (fun _ => rfl) (fun _ => rfl) (by decide) .refl) fun _ =>
    .ite (fun _ => updChan_frame (by decide) .refl) fun _ => raise_frame (by decide) <|
    onSaf_frame (fun _ => rfl) (fun _ => rfl) (fun _ => rfl) (fun _ => rfl) (fun _ =>
    rfl) (by decide) (updChan_frame (by decide) .refl)) <| updChan_frame (by decide) .refl

theorem execFeedbackCheck_goes {ch : Chan} {level : Bool} {s : State} : Goes [.chans, .faults] s (execFeedbackCheck ch level s) :=
  ifRuns_goes .refl <| .ite (fun _ => .next .refl) fun _ => .next <|
    .after (.ite (fun _ => .ite (fun _ => condOff_frame (by decide) .refl) fun _ => condOn_frame (by decide) .refl) fun _ => .refl) <|
    updChan_frame (by decide) .refl

theorem execEgDiverse_goes {ch : Chan} {n : Fin 8} {streams : List StripRet} {s : State} :
    Goes [.strip, .tiles, .chans, .safety, .faults] s (execEgDiverse ch n streams s) :=
  ifRuns_goes .refl <| .next (egTrip_frame (by decide) (egKeep_frame (by decide) .refl))

theorem execSafeWrite_goes {id : Nat} {s : State} : Goes [.rings, .safety] s (execSafeWrite id s) := by
  unfold execSafeWrite
  refine runOp_goes .refl fun _ _ => .ite (fun _ => complete_frame (by decide) (stageError_frame (by decide) .refl)) fun _ =>
    .ite (fun _ => complete_frame (by decide) .refl) fun _ => ?_
  split
  · exact .refl
  · dsimp only
    split
    · exact complete_frame (by decide) (stageError_frame (by decide) .refl)
    · exact complete_frame (by decide) <|
        onSaf_frame (fun _ => rfl) (fun _ => rfl) (fun _ => rfl) (fun _ => rfl) (fun _ => rfl) (by decide) .refl

theorem execSafeRead_goes {id : Nat} {s : State} : Goes [.outputs, .rings] s (execSafeRead id s) :=
  runOp_goes .refl fun _ _ => .ite (fun _ => complete_frame (by decide) .refl) fun _ =>
    .ite (fun _ => complete_frame (by decide) (hostWrite_frame (by decide) .refl)) fun _ => .refl

theorem execSafeConfirm_goes {id : Nat} {s : State} : Goes [.rings, .safety, .cal, .nvm] s (execSafeConfirm id s) :=
  runOp_goes .refl fun _ _ => .ite (fun _ => .refl) fun _ =>
    .ite (fun _ => complete_frame (by decide) (stageError_frame (by decide) .refl)) fun _ =>
    .ite (fun _ => complete_frame (by decide) (stageError_frame (by decide) .refl)) fun _ =>
    .ite (fun _ => complete_frame (by decide) (stageError_frame (by decide) .refl)) fun _ =>
    .ite (fun _ => complete_frame (by decide) .refl) fun _ => queueRecs_frame (by decide) <|
    onSaf_frame (fun _ => rfl) (fun _ => rfl) (fun _ => rfl) (fun _ => rfl) (fun _ => rfl) (by decide) (updDesc_frame (by decide) .refl)

theorem execSafetySetInForce_goes {s : State} : Goes [.rings, .chans, .safeSet, .safety] s (execSafetySetInForce s) := by
  unfold execSafetySetInForce
  refine ifRuns_goes .refl ?_
  split
  · dsimp only
    split
    · exact .next .refl
    · exact .next <| complete_frame (by decide) <| tpFollows_frame (by decide) <|
        onSaf_frame_set (fun _ => rfl) (fun _ => rfl) (by decide) .refl
  · exact .next .refl

theorem execSafeLock_goes {level0 : Bool} {value : BitVec 32} {s : State} : Goes [.safety] s (execSafeLock level0 value s) :=
  when_goes .refl <| onSaf_frame (fun _ => rfl) (fun _ => rfl) (fun _ => rfl) (fun _ => rfl) (fun _ => rfl) (by decide) .refl

theorem execRefRref_goes {base : Nat} {s : State} : Goes [.faults, .cal] s (execRefRref base s) :=
  ifRuns_goes .refl <| .next <| .after (.ite (fun _ => condOff_frame (by decide) .refl) fun _ => condOn_frame (by decide) .refl) <|
    onCal_frame (by decide) .refl

/-! ### The fault collector -/

theorem execFaultSourceEvent_goes {slots : List (Fin 512)} {s : State} :
    Goes [.outputs, .link, .rings, .strip, .tiles, .chans, .slots, .faults] s (execFaultSourceEvent slots s) :=
  ifRuns_goes .refl (when_goes .refl (acceptLines_frame (by decide) .refl))

theorem execFltWire_goes {slot : Fin 512} {code : Bool} {s : State} :
    Goes [.outputs, .link, .rings, .strip, .tiles, .chans, .slots, .faults] s (execFltWire slot code s) :=
  ifRuns_goes .refl <| when_goes .refl <| .after (.ite (fun _ => putSlot_frame (by decide) .refl) fun _ => .refl) <|
    countEvent_frame (by decide) <| logEntry_frame (by decide) <| raiseInj_frame (by decide) <|
    .ite (fun _ => putSlot_frame (by decide) (takeInj_frame (by decide) .refl)) fun _ =>
    onFlt_frame (fun _ => rfl) (by decide) (putSlot_frame (by decide) (takeInj_frame (by decide) .refl))

theorem execWindowExpiry_goes {slot : Fin 512} {s : State} : Goes [.slots] s (execWindowExpiry slot s) :=
  ifRuns_goes .refl (when_goes .refl (putSlot_frame (by decide) .refl))

theorem execFaultAck_goes {id : Nat} {s : State} : Goes [.rings, .chans, .safety, .slots, .faults] s (execFaultAck id s) :=
  runOp_goes .refl fun _ _ => .after (.ite (fun _ => endEstop_frame (by decide) .refl) fun _ => .refl) <|
    complete_frame (by decide) (ackSlots_frame (by decide) .refl)

theorem execFaultInject_goes {id : Nat} {s : State} : Goes [.rings, .faults] s (execFaultInject id s) :=
  runOp_goes .refl fun _ _ => .ite (fun _ => complete_frame (by decide) .refl) fun _ =>
    onFlt_frame (fun _ => rfl) (by decide) (updDesc_frame (by decide) .refl)

theorem execInjectionTimeout_goes {s : State} : Goes [.rings, .faults] s (execInjectionTimeout s) := by
  unfold execInjectionTimeout
  refine ifRuns_goes .refl ?_
  split
  · exact .next .refl
  · exact .next <| complete_frame (by decide) (onFlt_frame (fun _ => rfl) (by decide) .refl)

theorem execRearm_goes {value : BitVec 32} {s : State} : Goes [.outputs, .link, .faults] s (execRearm value s) :=
  when_goes .refl <| .ite (fun _ => signal_frame (by decide) (onFlt_frame (fun _ => rfl) (by decide) .refl)) fun _ =>
    onFlt_frame (fun _ => rfl) (by decide) .refl

theorem execLogCopy_goes {s : State} : Goes [.rings, .safety, .cal, .nvm] s (execLogCopy s) :=
  ifRuns_goes .refl (when_goes .refl (queueRecs_frame (by decide) .refl))

/-! ### Calibration and temperatures -/

theorem execCalRun_goes {id : Nat} {s : State} : Goes [.rings, .cal, .therm] s (execCalRun id s) :=
  runOp_goes .refl fun _ _ =>
    .ite (fun _ => .ite (fun _ => onCal_frame (by decide) (updDesc_frame (by decide) .refl)) fun _ => onCal_frame (by decide) <|
    startFull_frame (by decide) (updDesc_frame (by decide) .refl)) fun _ =>
    .after (.ite (fun _ => .refl) fun _ => demandCal_frame (by decide) .refl) <| onCal_frame (by decide) (updDesc_frame (by decide) .refl)

theorem execCalResult_goes {channel : Fin 192} {ratios : List Nat} {s : State} :
    Goes [.freeCtr, .rings, .cmp, .safety, .faults, .cal, .therm, .nvm] s (execCalResult channel ratios s) := by
  unfold execCalResult
  refine ifRuns_goes .refl ?_
  split
  · exact .ite (fun _ => .next .refl) fun _ => .next <|
      .after (.ite (fun _ => singleEnd_frame (by decide) .refl) fun _ => calEnd_frame (by decide) .refl) <| onCal_frame (by decide) <|
      putCal_frame (by decide) (judgeRatios_frame (by decide) .refl)
  · exact .next .refl

theorem execThermalDemand_goes {s : State} : Goes [.outputs, .therm] s (execThermalDemand s) :=
  ifRuns_goes .refl (when_goes .refl (demand_frame (by decide) .refl))

theorem execThermMeasure_goes {id : Nat} {s : State} : Goes [.outputs, .rings, .therm] s (execThermMeasure id s) :=
  runOp_goes .refl fun _ _ => demand_frame (by decide) (updDesc_frame (by decide) .refl)

theorem execSensorReading_goes {readings : List SensorSeen} {s : State} :
    Goes [.freeCtr, .rings, .cmp, .safety, .faults, .cal, .therm, .nvm] s (execSensorReading readings s) := by
  unfold execSensorReading
  refine ifRuns_goes .refl ?_
  split
  · exact .next .refl
  · refine .ite (fun _ => .next .refl) fun _ => .next <|
      .after (.ite (fun _ => writeLearned_frame (by decide) .refl) fun _ => .refl) <|
      .after (.ite (fun _ => calMeasured_frame (by decide) .refl) fun _ => .refl) ?_
    split
    · exact endMeasure_frame (by decide) <| measure_frame (by decide) <| convertAll_frame (by decide) (onTherm_frame (by decide) .refl)
    · exact measure_frame (by decide) <| convertAll_frame (by decide) (onTherm_frame (by decide) .refl)

theorem execThrottleRelease_goes {domain : Fin 9} {s : State} : Goes [.freeCtr, .rings, .therm] s (execThrottleRelease domain s) :=
  ifRuns_goes .refl <| when_goes .refl <| thermEvent_frame (by decide) (putDomain_frame (by decide) .refl)

theorem execUnfreeze_goes {level0 : Bool} {value : BitVec 32} {s : State} : Goes [.therm] s (execUnfreeze level0 value s) :=
  when_goes .refl (unfreezeAll_frame (by decide) .refl)

/-! ### The chain's ports -/

theorem execPortEnable_goes {p : Fin 2} {level0 : Bool} {value : BitVec 32} {s : State} :
    Goes [.chain] s (execPortEnable p level0 value s) :=
  when_goes .refl <| enablePort_frame (by decide) (storePortCtrl_frame (by decide) .refl)

theorem execPortDisable_goes {p : Fin 2} {level0 : Bool} {value : BitVec 32} {s : State} :
    Goes [.outputs, .freeCtr, .rings, .faults, .chain] s (execPortDisable p level0 value s) :=
  when_goes .refl <| disablePort_frame (by decide) (storePortCtrl_frame (by decide) .refl)

theorem execRetrain_goes {p : Fin 2} {level0 : Bool} {value : BitVec 32} {s : State} :
    Goes [.outputs, .freeCtr, .rings, .faults, .chain] s (execRetrain p level0 value s) :=
  when_goes .refl <| .after (.ite (fun _ => .ite (fun _ => enablePort_frame (by decide) .refl) fun _ =>
    retrainPort_frame (by decide) .refl) fun _ => disablePort_frame (by decide) .refl) <| storePortCtrl_frame (by decide) .refl

theorem execBlockLock_goes {p : Fin 2} {s : State} : Goes [.chain] s (execBlockLock p s) :=
  ifRuns_goes .refl (when_goes .refl (updPort_frame (by decide) .refl))

theorem execBlockLockLoss_goes {p : Fin 2} {s : State} : Goes [.outputs, .freeCtr, .rings, .faults, .chain] s (execBlockLockLoss p s) :=
  ifRuns_goes .refl <| .ite (fun _ => .next .refl) fun _ => .next <|
    .after (portDown_frame (by decide) <| .ite (fun _ => raise_frame (by decide) (sendOs_frame (by decide) .refl)) fun _ => .refl) <|
    updPort_frame (by decide) .refl

theorem execLossOfSignal_goes {p : Fin 2} {s : State} : Goes [.freeCtr, .rings, .faults, .chain] s (execLossOfSignal p s) :=
  ifRuns_goes .refl <| .after (.ite (fun _ => .next (updPort_frame (by decide) .refl)) fun _ =>
    .next (portDown_frame (by decide) (updPort_frame (by decide) .refl))) <| updPort_frame (by decide) .refl

theorem execSignalDetect_goes {p : Fin 2} {s : State} : Goes [.chain] s (execSignalDetect p s) :=
  ifRuns_goes .refl <| .next <| .after (.ite (fun _ => enterLock_frame (by decide) .refl) fun _ => .refl) <|
    updPort_frame (by decide) .refl

theorem execCap_goes {p : Fin 2} {payload : BitVec 24} {s : State} :
    Goes [.outputs, .freeCtr, .rings, .faults, .chain] s (execCap p payload s) := by
  unfold execCap
  refine ifRuns_goes .refl <| onOs_goes (by decide) .refl <| .ite (fun _ => .refl) fun _ =>
    .ite (fun _ => updPort_frame (by decide) .refl) fun _ => ?_
  split
  · exact tryUp_frame (by decide) <| enterCapability_frame (by decide) (updPort_frame (by decide) .refl)
  · exact tryUp_frame (by decide) (updPort_frame (by decide) .refl)
  · exact .ite (fun _ => putPort_frame (by decide) (updPort_frame (by decide) .refl)) fun _ => updPort_frame (by decide) .refl
  · exact putPort_frame (by decide) (updPort_frame (by decide) .refl)
  · exact updPort_frame (by decide) .refl

theorem execCreditInit_goes {p : Fin 2} {payload : BitVec 24} {s : State} :
    Goes [.outputs, .freeCtr, .rings, .faults, .chain] s (execCreditInit p payload s) :=
  ifRuns_goes .refl <| onOs_goes (by decide) .refl <| .ite (fun _ => .refl) fun _ =>
    tryUp_frame (by decide) (putCred_frame (by decide) .refl)

theorem execCredit_goes {p : Fin 2} {payload : BitVec 24} {s : State} :
    Goes [.outputs, .freeCtr, .rings, .faults, .chain] s (execCredit p payload s) :=
  ifRuns_goes .refl <| onOs_goes (by decide) .refl <| .ite (fun _ => .refl) fun _ =>
    .ite (fun _ => portDown_frame (by decide) (raise_frame (by decide) .refl)) fun _ => putCred_frame (by decide) .refl

theorem execStepRequest_goes {p : Fin 2} {payload : BitVec 24} {s : State} :
    Goes [.outputs, .freeCtr, .rings, .faults, .chain] s (execStepRequest p payload s) :=
  ifRuns_goes .refl <| onOs_goes (by decide) .refl <| .ite (fun _ => .refl) fun _ =>
    .ite (fun _ => sendOs_frame (by decide) .refl) fun _ => .ite (fun _ => putPort_frame (by decide) .refl) fun _ =>
    acceptStep_frame (by decide) .refl

theorem execStepAccept_goes {p : Fin 2} {payload : BitVec 24} {s : State} :
    Goes [.outputs, .freeCtr, .rings, .faults, .chain] s (execStepAccept p payload s) :=
  ifRuns_goes .refl <| onOs_goes (by decide) .refl <| .ite (fun _ => enterSwitch_frame (by decide) .refl) fun _ => .refl

theorem execStepRefuse_goes {p : Fin 2} {payload : BitVec 24} {s : State} :
    Goes [.outputs, .freeCtr, .rings, .faults, .chain] s (execStepRefuse p payload s) :=
  ifRuns_goes .refl <| onOs_goes (by decide) .refl <| .ite (fun _ => giveUpStep_frame (by decide) .refl) fun _ => .refl

theorem execStepResult_goes {p : Fin 2} {payload : BitVec 24} {s : State} :
    Goes [.outputs, .freeCtr, .rings, .faults, .chain] s (execStepResult p payload s) :=
  ifRuns_goes .refl <| onOs_goes (by decide) .refl <| .ite (fun _ => .refl) fun _ =>
    .ite (fun _ => keepStep_frame (by decide) (updPort_frame (by decide) .refl)) fun _ => enterFallback_frame (by decide) .refl

theorem execStepUpStart_goes {p : Fin 2} {s : State} : Goes [.outputs, .chain] s (execStepUpStart p s) :=
  ifRuns_goes .refl <| when_goes .refl (sendOs_frame (by decide) (putPort_frame (by decide) .refl))

theorem execStepAcceptTimeout_goes {p : Fin 2} {s : State} : Goes [.chain] s (execStepAcceptTimeout p s) :=
  ifRuns_goes .refl (when_goes .refl (giveUpStep_frame (by decide) .refl))

theorem execStepSwitchTimeout_goes {p : Fin 2} {s : State} :
    Goes [.outputs, .freeCtr, .rings, .faults, .chain] s (execStepSwitchTimeout p s) := by
  unfold execStepSwitchTimeout
  refine ifRuns_goes .refl ?_
  split
  · exact .next (enterFallback_frame (by decide) .refl)
  · exact .next (portDown_frame (by decide) .refl)
  · exact .next .refl

theorem execStepTrialEnd_goes {p : Fin 2} {s : State} : Goes [.outputs, .chain] s (execStepTrialEnd p s) :=
  ifRuns_goes .refl <| when_goes .refl <| keepStep_frame (by decide) (sendOs_frame (by decide) (putPort_frame (by decide) .refl))

theorem execSleep_goes {p : Fin 2} {payload : BitVec 24} {s : State} :
    Goes [.outputs, .freeCtr, .rings, .faults, .chain] s (execSleep p payload s) :=
  ifRuns_goes .refl <| onOs_goes (by decide) .refl <| .ite (fun _ => updPort_frame (by decide) .refl) fun _ => .refl

theorem execWake_goes {p : Fin 2} {payload : BitVec 24} {s : State} :
    Goes [.outputs, .freeCtr, .rings, .faults, .chain] s (execWake p payload s) :=
  ifRuns_goes .refl <| onOs_goes (by decide) .refl <| .ite (fun _ => putPort_frame (by decide) .refl) fun _ => .refl

theorem execDown_goes {p : Fin 2} {payload : BitVec 24} {s : State} :
    Goes [.outputs, .freeCtr, .rings, .faults, .chain] s (execDown p payload s) :=
  ifRuns_goes .refl <| onOs_goes (by decide) .refl (portDown_frame (by decide) .refl)

theorem execChnTrain_goes {p : Fin 2} {s : State} : Goes [.faults, .chain] s (execChnTrain p s) :=
  ifRuns_goes .refl <| when_goes .refl (raise_frame (by decide) (putPort_frame (by decide) .refl))

theorem execBackoffEnd_goes {p : Fin 2} {s : State} : Goes [.chain] s (execBackoffEnd p s) :=
  ifRuns_goes .refl (when_goes .refl (enterLock_frame (by decide) .refl))

theorem execSleepEntry_goes {p : Fin 2} {s : State} : Goes [.outputs, .chain] s (execSleepEntry p s) :=
  ifRuns_goes .refl <| when_goes .refl <| emit_frame (by decide) (sendOsN_frame (by decide) (putPort_frame (by decide) .refl))

theorem execWakeStart_goes {p : Fin 2} {s : State} : Goes [.outputs, .chain] s (execWakeStart p s) :=
  ifRuns_goes .refl <| when_goes .refl (sendOsN_frame (by decide) (putPort_frame (by decide) .refl))

theorem execWakeLockTimeout_goes {p : Fin 2} {s : State} : Goes [.freeCtr, .rings, .faults, .chain] s (execWakeLockTimeout p s) :=
  ifRuns_goes .refl (when_goes .refl (portDown_frame (by decide) .refl))

/-! ### Frames and messages of the chain -/

theorem execFrameHeaderParsed_goes {p : Fin 2} {bytes : Bytes} {s : State} : Goes [.chain, .time] s (execFrameHeaderParsed p bytes s) :=
  ifRuns_goes .refl <| when_goes .refl <|
    .after (.ite (fun _ => updPort_frame (by decide) <|
    countSkipped_frame (by decide) (addFrame_frame (by decide) (updPort_frame (by decide) .refl))) fun _ =>
    updPort_frame (by decide) .refl) <| onChain_frame (by decide) .refl

theorem execFrameReceived_goes {p : Fin 2} {bytes : Bytes} {err : Bool} {poison : Bool} {s : State} :
    Goes [.outputs, .freeCtr, .rings, .faults, .chain] s (execFrameReceived p bytes err poison s) := by
  unfold execFrameReceived
  refine ifRuns_goes .refl ?_
  split
  · exact .next .refl
  · exact .ite (fun _ => .next (cutRx_frame (by decide) .refl)) fun _ =>
      .after (.ite (fun _ => .next <|
      trialError_frame (by decide) (frameBad_frame (by decide) (updPort_frame (by decide) .refl))) fun _ =>
      .ite (fun _ => .next (frameBad_frame (by decide) .refl)) fun _ => .next <|
      frameGood_frame (by decide) (updPort_frame (by decide) .refl)) <|
      clearStale_frame (by decide) (onChain_frame (by decide) (updPort_frame (by decide) .refl))

theorem execFrameCut_goes {p : Fin 2} {len : Nat} {s : State} : Goes [.chain] s (execFrameCut p len s) :=
  ifRuns_goes .refl (.next (cutRx_frame (by decide) .refl))

theorem execEgressStart_goes {p : Fin 2} {s : State} : Goes [.rings, .faults, .chain, .time] s (execEgressStart p s) := by
  unfold execEgressStart
  refine ifRuns_goes .refl <| .ite (fun _ => .next .refl) fun _ => ?_
  split
  · exact .next .refl
  · exact .next <| updPort_frame (by decide) <| countSkipped_frame (by decide) <|
      readParity_frame (by decide) (readQueue_frame (by decide) .refl)

theorem execFrameSent_goes {p : Fin 2} {s : State} : Goes [.outputs, .freeCtr, .rings, .chain] s (execFrameSent p s) := by
  unfold execFrameSent
  refine ifRuns_goes .refl ?_
  split
  · exact .next .refl
  · split
    · exact .next (updPort_frame (by decide) .refl)
    · exact .ite (fun _ => .next .refl) fun _ => .next <| .after (.ite (fun _ => acceptStep_frame (by decide) .refl) fun _ => .refl) <|
        txEnds_frame (by decide) <| doneWith_frame (by decide) <| laneSend_frame (by decide) <|
        emit_frame (by decide) (updPort_frame (by decide) (putCred_frame (by decide) .refl))

theorem execChnPoolAudit_goes {s : State} : Goes [.faults, .chain] s (execChnPoolAudit s) :=
  ifRuns_goes .refl <| when_goes .refl <| raise_frame (by decide) <| .ite (fun _ => .refl) fun _ => onChain_frame (by decide) .refl

theorem execChnStale_goes {q : Fin 64} {s : State} : Goes [.faults, .chain] s (execChnStale q s) :=
  ifRuns_goes .refl <| when_goes .refl (raise_frame (by decide) (onChain_frame (by decide) .refl))

theorem execNetTx_goes {id : Nat} {s : State} : Goes [.outputs, .link, .rings, .chain] s (execNetTx id s) := by
  unfold execNetTx
  refine runOp_goes .refl fun _ _ => ?_
  dsimp only
  split
  · exact .ite (fun _ => complete_frame (by decide) .refl) fun _ => .ite (fun _ => .refl) fun _ =>
      startRead_frame (by decide) (addFrame_frame (by decide) .refl)
  · refine .ite (fun _ => complete_frame (by decide) (dropFrame_frame (by decide) .refl)) fun _ => ?_
    split
    · exact .refl
    · exact .ite (fun _ => complete_frame (by decide) (dropFrame_frame (by decide) .refl)) fun _ => clearStale_frame (by decide) <|
        updDesc_frame (by decide) <| onChain_frame (by decide) <| enqueueAll_frame (by decide) (updFrame_frame (by decide) .refl)

theorem execNetRxPost_goes {id : Nat} {s : State} : Goes [.outputs, .rings, .faults, .chain] s (execNetRxPost id s) :=
  runOp_goes .refl fun _ _ => .ite (fun _ => complete_frame (by decide) .refl) fun _ =>
    fillHost_frame (by decide) (onChain_frame (by decide) (updDesc_frame (by decide) .refl))

theorem execServiceMessage_goes {svc : Option Bytes} {s : State} :
    Goes [.outputs, .freeCtr, .rings, .safety, .faults, .cal, .chain, .time, .nvm] s (execServiceMessage svc s) := by
  unfold execServiceMessage
  refine ifRuns_goes .refl <| .ite (fun _ => .next .refl) fun _ => ?_
  split
  · exact .next <| .ite (fun _ => handleSvc_frame (by decide) .refl) fun _ => .refl
  · split
    · exact .next .refl
    · split
      · exact .next (onChain_frame (by decide) .refl)
      · exact .after (.ite (fun _ => .next .refl) fun _ => .ite (fun _ => .next (svcBadMsg_frame (by decide) .refl)) fun _ =>
          .next (handleSvc_frame (by decide) .refl)) <| doneWith_frame (by decide) <| onChain_frame (by decide) <|
          readParity_frame (by decide) (readQueue_frame (by decide) .refl)

theorem execHelloTransmit_goes {s : State} : Goes [.chain] s (execHelloTransmit s) :=
  ifRuns_goes .refl <| when_goes .refl (helloOn_frame (by decide) (helloOn_frame (by decide) .refl))

theorem execChnNeigh_goes {p : Fin 2} {s : State} : Goes [.freeCtr, .rings, .faults, .chain] s (execChnNeigh p s) :=
  ifRuns_goes .refl <| when_goes .refl <| .after (.ite (fun _ => portDown_frame (by decide) .refl) fun _ => .refl) <|
    raise_frame (by decide) (putPort_frame (by decide) .refl)

theorem execFwRequestTimer_goes {s : State} : Goes [.chain] s (execFwRequestTimer s) := by
  unfold execFwRequestTimer
  refine ifRuns_goes .refl ?_
  split
  · exact .next .refl
  · exact when_goes .refl (sendBoth_frame (by decide) .refl)

theorem execBootFailStatusTimer_goes {s : State} : Goes [.freeCtr, .chain] s (execBootFailStatusTimer s) :=
  ifRuns_goes .refl <| when_goes .refl <| sendBoth_frame (by decide) (freshFree_frame (by decide) .refl)

/-! ### Time and its events -/

theorem execPtpSync_goes {d : Fin 2} {m : SyncSeen} {s : State} : Goes [.chain, .time] s (execPtpSync d m s) :=
  ifRuns_goes .refl <| when_goes .refl (sendMgmt_frame (by decide) (putDom_frame (by decide) .refl))

theorem execDelayResp_goes {d : Fin 2} {m : DelaySeen} {s : State} :
    Goes [.outputs, .freeCtr, .frm, .faults, .time] s (execDelayResp d m s) := by
  unfold execDelayResp
  refine ifRuns_goes .refl ?_
  dsimp only
  split
  · exact .next .refl
  · exact .ite (fun _ => .next .refl) fun _ =>
      .after (.ite (fun _ => .next <| loseLock_frame (by decide) (stepDomain_frame (by decide) .refl)) fun _ =>
      .ite (fun _ => .next (loseLock_frame (by decide) (steer_frame (by decide) .refl))) fun _ =>
      .next (judgeLock_frame (by decide) (steer_frame (by decide) .refl))) <| putDom_frame (by decide) .refl

theorem execSyncLoss_goes {d : Fin 2} {s : State} : Goes [.faults, .time] s (execSyncLoss d s) :=
  ifRuns_goes .refl <| when_goes .refl (loseLock_frame (by decide) (putDom_frame (by decide) .refl))

theorem execRevert_goes {s : State} : Goes [.time] s (execRevert s) :=
  ifRuns_goes .refl (when_goes .refl (sendSwitch_frame (by decide) .refl))

theorem execDomainSwitch_goes {s : State} : Goes [.outputs, .rings, .frm, .faults, .time] s (execDomainSwitch s) := by
  unfold execDomainSwitch
  refine ifRuns_goes .refl ?_
  split
  · exact .next .refl
  · refine .next ?_
    split
    · exact complete_frame (by decide) <| applySwitch_frame (by decide) (onTim_frame (by decide) .refl)
    · exact applySwitch_frame (by decide) (onTim_frame (by decide) .refl)

theorem execSlewComplete_goes {s : State} : Goes [.time] s (execSlewComplete s) :=
  ifRuns_goes .refl (when_goes .refl (runLocal_frame (by decide) .refl))

theorem execStep_goes {id : Nat} {s : State} : Goes [.outputs, .rings, .frm, .faults, .time] s (execStep id s) :=
  runTimeAdj_goes (by decide) .refl fun _ _ => complete_frame (by decide) (stepDomain_frame (by decide) .refl)

theorem execFrequency_goes {id : Nat} {s : State} : Goes [.rings, .time] s (execFrequency id s) :=
  runTimeAdj_goes (by decide) .refl fun _ _ => complete_frame (by decide) (remap_frame (by decide) .refl)

theorem execSlew_goes {id : Nat} {s : State} : Goes [.rings, .time] s (execSlew id s) :=
  runTimeAdj_goes (by decide) .refl fun _ _ => complete_frame (by decide) (putDom_frame (by decide) .refl)

theorem execSelect_goes {id : Nat} {s : State} : Goes [.rings, .time] s (execSelect id s) :=
  runTimeAdj_goes (by decide) .refl fun _ _ => sendSwitch_frame (by decide) (updDesc_frame (by decide) .refl)

theorem execTevArm_goes {id : Nat} {s : State} : Goes [.outputs, .rings, .time] s (execTevArm id s) :=
  runOp_goes .refl fun _ _ => .ite (fun _ => putTev_frame (by decide) (updDesc_frame (by decide) .refl)) fun _ =>
    complete_frame (by decide) (tevArmNow_frame (by decide) .refl)

theorem execTevEdge_goes {ch : Fin 16} {s : State} : Goes [.outputs, .time] s (execTevEdge ch s) :=
  ifRuns_goes .refl <| when_goes .refl <| tevFire_frame (by decide) (putTev_frame (by decide) (advanceTo_frame (by decide) .refl))

theorem execTriggerSettingWrite_goes {ch9 : Bool} {level0 : Bool} {value : BitVec 32} {s : State} :
    Goes [.outputs, .tiles, .cal, .time] s (execTriggerSettingWrite ch9 level0 value s) := by
  refine when_goes .refl ?_
  cases ch9
  case false => exact writeDiagCfg_frame (by decide) .refl
  case true => exact writeLdgCtrl_frame (by decide) .refl

/-! ### The non-volatile memory -/

theorem execNvmWrite_goes {id : Nat} {s : State} : Goes [.rings, .safety, .cal, .time, .nvm] s (execNvmWrite id s) :=
  runRead_goes .refl (complete_frame (by decide) .refl) fun _ _ _ => .ite (fun _ => complete_frame (by decide) .refl) fun _ =>
    queueRecs_frame (by decide) <| updDesc_frame (by decide) <| .ite (fun _ => beginWriting_frame (by decide) .refl) fun _ => .refl

theorem execNvmRead_goes {id : Nat} {s : State} : Goes [.outputs, .freeCtr, .rings, .faults] s (execNvmRead id s) :=
  runOp_goes .refl fun _ _ =>
    .ite (fun _ => .after (complete_frame (by decide) <| hostWrite_frame (by decide) <| readStatus_frame (by decide) <|
    .ite (fun _ => raise_frame (by decide) .refl) fun _ => .refl) <|
    readNvmWords_frame (by decide) (setFreeCtr_frame (by decide) .refl)) fun _ => .refl

theorem execNvmRecordComplete_goes {vhold : VholdSeen} {s : State} : Goes supplyParts s (execNvmRecordComplete s vhold) := by
  unfold execNvmRecordComplete
  split
  · exact .next .refl
  · refine .ite (fun _ => .next .refl) fun _ =>
      .ite (fun _ => .next <| vholdLevel_frame (by decide) <| setPower_frame (by decide) (recordDone_frame (by decide) .refl)) fun _ =>
      .ite (fun _ => .next (recordDone_frame (by decide) .refl)) fun _ => ?_
    split
    · exact .next <| chipReset_frame (by decide) <| setPower_frame (by decide) (recordDone_frame (by decide) .refl)
    · exact .next (recordDone_frame (by decide) .refl)

theorem execCrcRun_goes {id : Nat} {s : State} : Goes [.rings, .faults, .nvm] s (execCrcRun id s) := by
  unfold execCrcRun
  split
  · exact .next .refl
  · exact .ite (fun _ => .next .refl) fun _ => .ite (fun _ => runOp_goes .refl fun _ _ => complete_frame (by decide) .refl) fun _ =>
      runRead_goes .refl (complete_frame (by decide) .refl) fun _ _ _ =>
      .ite (fun _ => .after (.ite (fun _ => complete_frame (by decide) .refl) fun _ =>
      complete_frame (by decide) (raiseInj_frame (by decide) .refl)) <|
      takeInj_frame (by decide) (putGcu_frame (by decide) .refl)) fun _ => complete_frame (by decide) (putGcu_frame (by decide) .refl)

theorem execDisarm_goes {id : Nat} {s : State} : Goes [.rings, .time, .nvm] s (execDisarm id s) :=
  runMark_goes .refl fun _ => complete_frame (by decide) <|
    putTev_frame (by decide) (onNvm_frame (fun _ => rfl) (fun _ => rfl) (by decide) .refl)

theorem execArm_goes {id : Nat} {s : State} : Goes [.rings, .nvm] s (execArm id s) :=
  runArm_goes (by decide) .refl fun _ _ h => complete_frame (by decide) h

theorem execArmSchedule_goes {id : Nat} {s : State} : Goes [.outputs, .rings, .time, .nvm] s (execArmSchedule id s) :=
  runArm_goes (by decide) .refl fun _ _ h => complete_frame (by decide) <|
    tevArmNow_frame (by decide) (onNvm_frame (fun _ => rfl) (fun _ => rfl) (by decide) h)

theorem execArmReset_goes {id : Nat} {s : State} : Goes resetParts s (execArmReset id s) :=
  runArm_goes (by decide) .refl fun _ _ h => requestReset_frame (by decide) (complete_frame (by decide) h)

theorem execScheduledBoot_goes {s : State} : Goes resetParts s (execScheduledBoot s) :=
  ifRuns_goes .refl (when_goes .refl (requestReset_frame (by decide) .refl))

theorem execBootCheck_goes {b : BootSeen} {s : State} :
    Goes [.outputs, .freeCtr, .rings, .tiles, .journal, .faults, .cal, .time, .pages, .nvm] s (execBootCheck b s) :=
  ifRuns_goes .refl <| when_goes .refl <|
    .after (.ite (fun _ => startFirmware_frame (by decide) .refl) fun _ =>
    raise_frame (by decide) (onNvm_frame (fun _ => rfl) (fun _ => rfl) (by decide) .refl)) <|
    onNvm_frame (fun _ => rfl) (fun _ => rfl) (by decide) <| applyShutdown_frame (by decide) <| reportCut_frame (by decide) <|
    discardPages_frame (by decide) <| raiseUncorr_frame (by decide) (onNvm_frame (fun _ => rfl) (fun _ => rfl) (by decide) .refl)

/-! ### Configuration of the host link, and events of single parts -/

theorem execLinkUp_goes {width : Nat} {speed : Nat} {s : State} : Goes [.link] s (execLinkUp width speed s) :=
  ifRuns_goes .refl (when_goes .refl (setLink_frame (by decide) .refl))

theorem execConfigurationWrite_goes {w : CfgWrite} {s : State} :
    Goes [.outputs, .link, .rings, .cmp, .faults] s (execConfigurationWrite w s) :=
  ifRuns_goes .refl <| when_goes .refl <| sendPending_frame (by decide) <| pump_frame (by decide) <|
    blockLayers_frame (by decide) (setLink_frame (by decide) .refl)

theorem execMsixUnmask_goes {slot : Fin 4096} {word : Fin 4} {value : BitVec 32} {s : State} :
    Goes [.outputs, .link] s (execMsixUnmask slot word value s) :=
  ifRuns_goes .refl <| when_goes .refl <| sendPending_frame (by decide) (setLink_frame (by decide) .refl)

theorem execDomainEnWrite_goes {d : Fin 2} {level0 : Bool} {value : BitVec 32} {s : State} :
    Goes [.faults, .time] s (execDomainEnWrite d level0 value s) := by
  unfold execDomainEnWrite
  refine when_goes .refl ?_
  dsimp only
  exact judgeHoldover_frame (by decide) (putDom_frame (by decide) .refl)

theorem execInvalidSyncHeader_goes {p : Fin 2} {ordered : Bool} {s : State} :
    Goes [.outputs, .freeCtr, .rings, .faults, .chain] s (execInvalidSyncHeader p ordered s) :=
  ifRuns_goes .refl (.next (badBlock_frame (by decide) .refl))

theorem execOrderedSetTransmit_goes {p : Fin 2} {s : State} : Goes [.outputs] s (execOrderedSetTransmit p s) := by
  unfold execOrderedSetTransmit
  refine ifRuns_goes .refl ?_
  dsimp only
  split
  · exact .next .refl
  · exact .next (sendOs_frame (by decide) .refl)
  · exact .next (sendOs_frame (by decide) .refl)
  · exact .next (sendOs_frame (by decide) .refl)
  · exact .next (sendOs_frame (by decide) .refl)
  · exact .next (sendInits_frame (by decide) (sendOs_frame (by decide) .refl))
  · exact .next <| .ite (fun _ => .refl) fun _ => sendCredits_frame (by decide) .refl
  · exact .next <| .ite (fun _ => .refl) fun _ => sendCredits_frame (by decide) .refl

theorem execSevereLineBroken_goes {broken : Bool} {s : State} : Goes [.strip, .tiles, .chans] s (execSevereLineBroken s broken) :=
  ifRuns_goes .refl <| .next <| .after (.ite (fun _ => sloOff_frame (by decide) .refl) fun _ => .refl) <| updChan_frame (by decide) .refl

theorem execTevPulseEnd_goes {ch : Fin 8} {s : State} : Goes [.outputs, .rings, .time] s (execTevPulseEnd ch s) :=
  ifRuns_goes .refl <| when_goes .refl <| tevWaiting_frame (by decide) (setTevPin_frame (by decide) (putTev_frame (by decide) .refl))

theorem execFaultCollectorStart_goes {s : State} : Goes [.power, .faults, .chain] s (execFaultCollectorStart s) :=
  ifRuns_goes .refl <| when_goes .refl <| clockConds_frame (by decide) <| portsRestart_frame (by decide) <|
    onFlt_frame (fun _ => rfl) (by decide) (setPower_frame (by decide) .refl)

/-! ### Register writes, window by window -/

theorem writePwr_goes {l : Bool} {o : Nat} {v : Nat} {s : State} : Goes registerParts s (writePwr l o v s) := by
  unfold writePwr
  dsimp only
  split
  · exact .next (setPower_frame (by decide) .refl)
  · exact .next (setPower_frame (by decide) .refl)
  · exact execSwrstKey_goes.mono (by decide)
  · exact .next (setPower_frame (by decide) .refl)
  · exact .next .refl

theorem writeSq_goes {l : Bool} {n : Fin 32} {r : Nat} {v : Nat} {s : State} : Goes registerParts s (writeSq l n r v s) := by
  unfold writeSq
  dsimp only
  split
  · exact .next <| .ite (fun _ => putSq_frame (by decide) .refl) fun _ => .refl
  · exact .next <| .ite (fun _ => putSq_frame (by decide) .refl) fun _ => .refl
  · exact .ite (fun _ => execSqEnable_goes.mono (by decide)) fun _ => execSqDrain_goes.mono (by decide)
  · exact .next <| .ite (fun _ => onShadow_frame (by decide) .refl) fun _ => .refl
  · exact .next <| .ite (fun _ => onShadow_frame (by decide) .refl) fun _ => .refl
  · exact .next .refl

theorem writeCq_goes {l : Bool} {n : Fin 32} {r : Nat} {v : Nat} {s : State} : Goes registerParts s (writeCq l n r v s) := by
  unfold writeCq
  dsimp only
  split
  · exact .next <| .ite (fun _ => putCq_frame (by decide) .refl) fun _ => .refl
  · exact .next <| .ite (fun _ => putCq_frame (by decide) .refl) fun _ => .refl
  · exact .ite (fun _ => execCqEnable_goes.mono (by decide)) fun _ => execCqDisable_goes.mono (by decide)
  · exact .next .refl

theorem writeHif_goes {l : Bool} {o : Nat} {v : Nat} {s : State} : Goes registerParts s (writeHif l o v s) := by
  unfold writeHif
  refine .ite (fun _ => writeSq_goes) fun _ => .ite (fun _ => writeCq_goes) fun _ =>
    .ite (fun _ => .next <| .ite (fun _ => onShadow_frame (by decide) .refl) fun _ => .refl) fun _ =>
    .ite (fun _ => .next <| .ite (fun _ => onShadow_frame (by decide) .refl) fun _ => .refl) fun _ => ?_
  split
  · exact execApply_goes.mono (by decide)
  · exact .next (setLink_frame (by decide) .refl)
  · exact .next (setRings_frame (by decide) .refl)
  · exact .next (setRings_frame (by decide) .refl)
  · exact .next <| .ite (fun _ => setRings_frame (by decide) .refl) fun _ => .refl
  · exact .next .refl

theorem writeCmp_goes {l : Bool} {o : Nat} {v : Nat} {s : State} : Goes registerParts s (writeCmp l o v s) := by
  unfold writeCmp
  dsimp only
  split
  · refine .next ?_
    exact setCmp_frame rfl (by decide) .refl
  · refine .next ?_
    exact setCmp_frame rfl (by decide) .refl
  · refine .next <| .ite (fun _ => ?_) fun _ => .refl
    exact setCmp_frame rfl (by decide) .refl
  · refine .next ?_
    exact setCmp_frame rfl (by decide) .refl
  · refine .next <| .ite (fun _ => ?_) fun _ => .refl
    exact setCmp_frame rfl (by decide) .refl
  · exact .next .refl

theorem writeFrm_goes {o : Nat} {v : Nat} {s : State} : Goes registerParts s (writeFrm o v s) := by
  unfold writeFrm
  dsimp only
  split
  · exact .next (setFrm_frame (by decide) .refl)
  · exact .next (setFrm_frame (by decide) .refl)
  · exact .next .refl

theorem writeFrd_goes {l : Bool} {f : Nat} {r : Nat} {v : Nat} {s : State} : Goes registerParts s (writeFrd l f r v s) := by
  unfold writeFrd
  dsimp only
  split
  · exact .next <| .ite (fun _ => putFrond_frame (by decide) .refl) fun _ => .refl
  · exact .next <| .ite (fun _ => putFrond_frame (by decide) .refl) fun _ => .refl
  · exact .next (putFrond_frame (by decide) .refl)
  · exact .next (putFrond_frame (by decide) .refl)
  · exact .next <| .ite (fun _ => writeDiagCfg_frame (by decide) .refl) fun _ => .refl
  · exact .next (putFrond_frame (by decide) .refl)
  · exact .next (putFrond_frame (by decide) .refl)
  · exact .next (putFrond_frame (by decide) .refl)
  · exact .next .refl

theorem writeStr_goes {o : Nat} {v : Nat} {s : State} : Goes registerParts s (writeStr o v s) :=
  .next <| .ite (fun _ => setStrip_frame (by decide) .refl) fun _ => .refl

theorem writeTil_goes {n : Nat} {r : Nat} {v : Nat} {s : State} : Goes registerParts s (writeTil n r v s) :=
  .next <| .ite (fun _ => updTile_frame (by decide) .refl) fun _ => .refl

theorem writeLdg_goes {l : Bool} {o : Nat} {v : Nat} {s : State} : Goes registerParts s (writeLdg l o v s) := by
  unfold writeLdg
  split
  · exact .next <| .ite (fun _ => writeLdgCtrl_frame (by decide) .refl) fun _ => .refl
  · exact .next (onTiles_frame (by decide) .refl)
  · exact .next (onTiles_frame (by decide) .refl)
  · exact .next .refl

theorem writeSaf_goes {l : Bool} {o : Nat} {v : Nat} {s : State} : Goes registerParts s (writeSaf l o v s) := by
  unfold writeSaf
  split
  · exact execSafeLock_goes.mono (by decide)
  · exact .next <| onSaf_frame (fun _ => rfl) (fun _ => rfl) (fun _ => rfl) (fun _ => rfl) (fun _ => rfl) (by decide) .refl
  · exact .next <| onSaf_frame (fun _ => rfl) (fun _ => rfl) (fun _ => rfl) (fun _ => rfl) (fun _ => rfl) (by decide) .refl
  · exact .next <| onSaf_frame (fun _ => rfl) (fun _ => rfl) (fun _ => rfl) (fun _ => rfl) (fun _ => rfl) (by decide) .refl
  · exact .next <| onSaf_frame (fun _ => rfl) (fun _ => rfl) (fun _ => rfl) (fun _ => rfl) (fun _ => rfl) (by decide) .refl
  · exact .next .refl

theorem writeFlt_goes {l : Bool} {o : Nat} {v : Nat} {s : State} : Goes registerParts s (writeFlt l o v s) := by
  unfold writeFlt
  refine .ite (fun _ => ?_) fun _ => ?_
  · refine .ite (fun _ => .next .refl) fun _ => ?_
    split
    · exact .next <| .ite (fun _ => putSlot_frame (by decide) .refl) fun _ => .refl
    · exact .next (putSlot_frame (by decide) .refl)
    · exact .next .refl
  · split
    · exact execRearm_goes.mono (by decide)
    · exact .next (onFlt_frame (fun _ => rfl) (by decide) .refl)
    · exact .next (onFlt_frame (fun _ => rfl) (by decide) .refl)
    · exact .next (onFlt_frame (fun _ => rfl) (by decide) .refl)
    · exact .next .refl

theorem writeCal_goes {l : Bool} {o : Nat} {v : Nat} {s : State} : Goes registerParts s (writeCal l o v s) := by
  unfold writeCal
  dsimp only
  split
  · exact .next (setCal_frame (by decide) .refl)
  · exact .next (setCal_frame (by decide) .refl)
  · exact .next .refl

theorem writeThm_goes {l : Bool} {o : Nat} {v : Nat} {s : State} : Goes registerParts s (writeThm l o v s) := by
  unfold writeThm
  refine .ite (fun _ => .next <| .ite (fun _ => updSensor_frame (by decide) .refl) fun _ => .refl) fun _ => ?_
  split
  · exact .next (onTherm_frame (by decide) .refl)
  · exact execUnfreeze_goes.mono (by decide)
  · exact .next (setPower_frame (by decide) .refl)
  · exact .next .refl

theorem writePort_goes {l : Bool} {p : Fin 2} {r : Nat} {v : Nat} {s : State} : Goes registerParts s (writePort l p r v s) := by
  unfold writePort
  refine .ite (fun _ => .next <| .ite (fun _ => putCred_frame (by decide) .refl) fun _ => .refl) fun _ => ?_
  split
  · exact .ite (fun _ => execRetrain_goes.mono (by decide)) fun _ => .ite (fun _ => execPortEnable_goes.mono (by decide)) fun _ =>
      execPortDisable_goes.mono (by decide)
  · exact .next (putPort_frame (by decide) .refl)
  · exact .next (putPort_frame (by decide) .refl)
  · exact .next (putPort_frame (by decide) .refl)
  · exact .next (putPort_frame (by decide) .refl)
  · exact .next .refl

theorem writeChn_goes {l : Bool} {o : Nat} {v : Nat} {s : State} : Goes registerParts s (writeChn l o v s) := by
  unfold writeChn
  refine .ite (fun _ => writePort_goes) fun _ =>
    .ite (fun _ => .next <| .ite (fun _ => onChain_frame (by decide) .refl) fun _ => .refl) fun _ =>
    .ite (fun _ => .next <| .ite (fun _ => onChain_frame (by decide) .refl) fun _ => .refl) fun _ =>
    .ite (fun _ => .next (putRxq_frame (by decide) .refl)) fun _ => ?_
  split
  · exact .next (onChain_frame (by decide) .refl)
  · exact .next <| .ite (fun _ => onChain_frame (by decide) .refl) fun _ => .refl
  · exact .next <| .ite (fun _ => onChain_frame (by decide) .refl) fun _ => .refl
  · exact .next (onChain_frame (by decide) .refl)
  · exact .next (onChain_frame (by decide) .refl)
  · exact .next (onChain_frame (by decide) .refl)
  · exact .next .refl

theorem writeTim_goes {l : Bool} {o : Nat} {v : Nat} {s : State} : Goes registerParts s (writeTim l o v s) := by
  unfold writeTim
  split
  · exact .next <| .ite (fun _ => onTim_frame (by decide) .refl) fun _ => .refl
  · exact execDomainEnWrite_goes.mono (by decide)
  · exact execDomainEnWrite_goes.mono (by decide)
  · exact .next <| .ite (fun _ => onTim_frame (by decide) .refl) fun _ => .refl
  · exact .next <| .ite (fun _ => onTim_frame (by decide) .refl) fun _ => .refl
  · exact .next (onTim_frame (by decide) .refl)
  · exact .next (onTim_frame (by decide) .refl)
  · exact .next (onTim_frame (by decide) .refl)
  · exact .next .refl

theorem writeNvm_goes {l : Bool} {o : Nat} {v : Nat} {s : State} : Goes registerParts s (writeNvm l o v s) := by
  unfold writeNvm
  split
  · exact .next (onXfer_frame (by decide) .refl)
  · exact .next (onNvm_frame (fun _ => rfl) (fun _ => rfl) (by decide) .refl)
  · exact .next .refl

theorem writeCrc_goes {l : Bool} {o : Nat} {v : Nat} {s : State} : Goes registerParts s (writeCrc l o v s) :=
  .next <| .ite (fun _ => putGcu_frame (by decide) .refl) fun _ => .refl

theorem writeReg_goes {l : Bool} {o : Nat} {v : Nat} {s : State} : Goes registerParts s (writeReg l o v s) :=
  .ite (fun _ => .next .refl) fun _ => .ite (fun _ => writeHif_goes) fun _ => .ite (fun _ => .next .refl) fun _ =>
    .ite (fun _ => writeCmp_goes) fun _ => .ite (fun _ => writeFrm_goes) fun _ => .ite (fun _ => writeFrd_goes) fun _ =>
    .ite (fun _ => .next .refl) fun _ => .ite (fun _ => writeStr_goes) fun _ => .ite (fun _ => writeTil_goes) fun _ =>
    .ite (fun _ => .next .refl) fun _ => .ite (fun _ => writeLdg_goes) fun _ => .ite (fun _ => writeSaf_goes) fun _ =>
    .ite (fun _ => writeFlt_goes) fun _ => .ite (fun _ => writeCal_goes) fun _ => .ite (fun _ => writeThm_goes) fun _ =>
    .ite (fun _ => writeChn_goes) fun _ => .ite (fun _ => writeTim_goes) fun _ => .ite (fun _ => writeNvm_goes) fun _ =>
    .ite (fun _ => writeCrc_goes) fun _ => .ite (fun _ => writePwr_goes) fun _ => .next .refl

theorem writeWord_goes {off : Nat} {value : BitVec 32} {enables : BitVec 4} {s : State} :
    Goes registerParts s (writeWord off value enables s) :=
  .ite (fun _ => writeReg_goes) fun _ => .next .refl

theorem execRegisterWrite_goes {off : Nat} {value : BitVec 32} {enables : BitVec 4} {high : Option (BitVec 32 × BitVec 4)}
    {s : State} : Goes registerParts s (execRegisterWrite off value s enables high) := by
  unfold execRegisterWrite
  refine ifRuns_goes .refl <| .ite (fun _ => ?_) fun _ => .next .refl
  obtain ⟨t, ht, hst⟩ := writeWord_goes (off := off) (value := value) (enables := enables) (s := s)
  rw [ht]
  cases high with
  | none => exact .next hst
  | some x => exact .after writeWord_goes hst

/-! ### All commands -/

/-- Every command completes and writes only the parts listed for it. -/
theorem exec_goes : ∀ (c : Instr) (s : State), Goes (touches c) s (exec c s)
  | .vinRisePor, _ => execVinRisePor_goes
  | .porRelease .., _ => execPorRelease_goes
  | .resetNRelease .., _ => execResetNRelease_goes
  | .resetNLow, _ => execResetNLow_goes
  | .resetNStuck .., _ => execResetNStuck_goes
  | .resetNHonoured, _ => execResetNHonoured_goes
  | .vinSlow, _ => execVinSlow_goes
  | .sagDwell, _ => execSagDwell_goes
  | .vinSlowRelease, _ => execVinSlowRelease_goes
  | .saveSequence, _ => execSaveSequence_goes
  | .sagRelease .., _ => execSagRelease_goes
  | .vinStop, _ => execVinStop_goes
  | .vinRemoval, _ => execVinRemoval_goes
  | .railUndervoltage .., _ => execRailUndervoltage_goes
  | .vholdReady, _ => execVholdReady_goes
  | .vholdReadyTimeout, _ => execVholdReadyTimeout_goes
  | .vholdFall, _ => execVholdFall_goes
  | .buckPhase .., _ => execBuckPhase_goes
  | .clockReferenceFail .., _ => execClockReferenceFail_goes
  | .clockReferenceReturn .., _ => execClockReferenceReturn_goes
  | .pwrMonUpdate .., _ => execPwrMonUpdate_goes
  | .swrstKey .., _ => execSwrstKey_goes
  | .safetySelftest .., _ => execSafetySelftest_goes
  | .nvmInhibitTrip, _ => execNvmInhibitTrip_goes
  | .nvmInhibitRelease, _ => execNvmInhibitRelease_goes
  | .thermalShutdown, _ => execThermalShutdown_goes
  | .perstNAssert, _ => execPerstNAssert_goes
  | .hotReset, _ => execHotReset_goes
  | .linkDisable, _ => execLinkDisable_goes
  | .surpriseLinkDown, _ => execSurpriseLinkDown_goes
  | .dmaResume, _ => execDmaResume_goes
  | .unsupportedRequest _ b o v, _ => execUnsupportedRequest_goes (bar2 := b) (off := o) (value := v)
  | .hostReadCompletion .., _ => execHostReadCompletion_goes
  | .hostCplTmo .., _ => execHostCplTmo_goes
  | .registerWrite .., _ => execRegisterWrite_goes
  | .frmNumCapture, _ => execFrmNumCapture_goes
  | .timNowCapture, _ => execTimNowCapture_goes
  | .apply .., _ => execApply_goes
  | .protSet .., _ => execProtSet_goes
  | .sqTailDoorbell .., _ => execSqTailDoorbell_goes
  | .fenceKick .., _ => execFenceKick_goes
  | .cqHeadDoorbell .., _ => execCqHeadDoorbell_goes
  | .sqEnable .., _ => execSqEnable_goes
  | .sqDrain .., _ => execSqDrain_goes
  | .cqEnable .., _ => execCqEnable_goes
  | .cqDisable .., _ => execCqDisable_goes
  | .irqEnWrite .., _ => execIrqEnWrite_goes
  | .descriptorFetch .., _ => execDescriptorFetch_goes
  | .descriptorConsumed .., _ => execDescriptorConsumed_goes
  | .dispatch .., _ => execDispatch_goes
  | .completionPost, _ => execCompletionPost_goes
  | .eventPost, _ => execEventPost_goes
  | .hostSilent, _ => execHostSilent_goes
  | .nop .., _ => execNop_goes
  | .layerSet .., _ => execLayerSet_goes
  | .layerCommit .., _ => execLayerCommit_goes
  | .cacheLoad .., _ => execCacheLoad_goes
  | .cacheEvict .., _ => execCacheEvict_goes
  | .fencePollTick, _ => execFencePollTick_goes
  | .fencePollResult .., _ => execFencePollResult_goes
  | .frameBoundary, _ => execFrameBoundary_goes
  | .latchGapStart, _ => execLatchGapStart_goes
  | .cutPoint, _ => execCutPoint_goes
  | .boundaryFlip .., _ => execBoundaryFlip_goes
  | .compositionEnd, _ => execCompositionEnd_goes
  | .fenceTmo .., _ => execFenceTmo_goes
  | .fetchTmo .., _ => execFetchTmo_goes
  | .staticPictureEntry, _ => execStaticPictureEntry_goes
  | .frameCtrl .., _ => execFrameCtrl_goes
  | .shift .., _ => execShift_goes
  | .shiftEnd .., _ => execShiftEnd_goes
  | .latch .., _ => execLatch_goes
  | .sliceStart .., _ => execSliceStart_goes
  | .stripSet .., _ => execStripSet_goes
  | .tileInsertion .., _ => execTileInsertion_goes
  | .tileRemoval .., _ => execTileRemoval_goes
  | .tileAlert .., _ => execTileAlert_goes
  | .tileBusRetry .., _ => execTileBusRetry_goes
  | .tileHeaderCheck .., _ => execTileHeaderCheck_goes
  | .tileIdentityStep .., _ => execTileIdentityStep_goes
  | .challengePoll .., _ => execChallengePoll_goes
  | .challengeTimeout .., _ => execChallengeTimeout_goes
  | .gainRecompute, _ => execGainRecompute_goes
  | .ledgerTap .., _ => execLedgerTap_goes
  | .periodicLedgerCommit, _ => execPeriodicLedgerCommit_goes
  | .commitReadback .., _ => execCommitReadback_goes
  | .status .., _ => execStatus_goes
  | .release .., _ => execRelease_goes
  | .rescan .., _ => execRescan_goes
  | .idRead .., _ => execIdRead_goes
  | .orphanInfo .., _ => execOrphanInfo_goes
  | .orphanClear .., _ => execOrphanClear_goes
  | .returnTile .., _ => execReturnTile_goes
  | .ledgerRead .., _ => execLedgerRead_goes
  | .ledgerCommit .., _ => execLedgerCommit_goes
  | .diagRead .., _ => execDiagRead_goes
  | .probePeriod, _ => execProbePeriod_goes
  | .heartbeatCheck .., _ => execHeartbeatCheck_goes
  | .takeoverComplete .., _ => execTakeoverComplete_goes
  | .mapRereadComplete .., _ => execMapRereadComplete_goes
  | .frondStale _ w, _ => execFrondStale_goes (write := w)
  | .frondReinstate .., _ => execFrondReinstate_goes
  | .frondSelftestEnd .., _ => execFrondSelftestEnd_goes
  | .safetyInputDemand .., _ => execSafetyInputDemand_goes
  | .demandSignal .., _ => execDemandSignal_goes
  | .safDisc .., _ => execSafDisc_goes
  | .discrepancyClear .., _ => execDiscrepancyClear_goes
  | .demandEnd .., _ => execDemandEnd_goes
  | .crossLinkExchange .., _ => execCrossLinkExchange_goes
  | .crossLinkLoss .., _ => execCrossLinkLoss_goes
  | .crossLinkDisagree .., _ => execCrossLinkDisagree_goes
  | .inputTestPulse .., _ => execInputTestPulse_goes
  | .safTpi .., _ => execSafTpi_goes
  | .outputTestPulse .., _ => execOutputTestPulse_goes
  | .outputTestVerdict .., _ => execOutputTestVerdict_goes
  | .feedbackCheck .., _ => execFeedbackCheck_goes
  | .egDiverse .., _ => execEgDiverse_goes
  | .safeWrite .., _ => execSafeWrite_goes
  | .safeRead .., _ => execSafeRead_goes
  | .safeConfirm .., _ => execSafeConfirm_goes
  | .safetySetInForce, _ => execSafetySetInForce_goes
  | .safeLock .., _ => execSafeLock_goes
  | .refRref .., _ => execRefRref_goes
  | .faultSourceEvent .., _ => execFaultSourceEvent_goes
  | .fltWire .., _ => execFltWire_goes
  | .windowExpiry .., _ => execWindowExpiry_goes
  | .faultAck .., _ => execFaultAck_goes
  | .faultInject .., _ => execFaultInject_goes
  | .injectionTimeout, _ => execInjectionTimeout_goes
  | .rearm .., _ => execRearm_goes
  | .logCopy, _ => execLogCopy_goes
  | .calRun .., _ => execCalRun_goes
  | .calResult .., _ => execCalResult_goes
  | .thermalDemand, _ => execThermalDemand_goes
  | .thermMeasure .., _ => execThermMeasure_goes
  | .sensorReading .., _ => execSensorReading_goes
  | .throttleRelease .., _ => execThrottleRelease_goes
  | .unfreeze .., _ => execUnfreeze_goes
  | .portEnable .., _ => execPortEnable_goes
  | .portDisable .., _ => execPortDisable_goes
  | .retrain .., _ => execRetrain_goes
  | .blockLock .., _ => execBlockLock_goes
  | .blockLockLoss .., _ => execBlockLockLoss_goes
  | .lossOfSignal .., _ => execLossOfSignal_goes
  | .signalDetect .., _ => execSignalDetect_goes
  | .cap .., _ => execCap_goes
  | .creditInit .., _ => execCreditInit_goes
  | .credit .., _ => execCredit_goes
  | .stepRequest .., _ => execStepRequest_goes
  | .stepAccept .., _ => execStepAccept_goes
  | .stepRefuse .., _ => execStepRefuse_goes
  | .stepResult .., _ => execStepResult_goes
  | .stepUpStart .., _ => execStepUpStart_goes
  | .stepAcceptTimeout .., _ => execStepAcceptTimeout_goes
  | .stepSwitchTimeout .., _ => execStepSwitchTimeout_goes
  | .stepTrialEnd .., _ => execStepTrialEnd_goes
  | .sleep .., _ => execSleep_goes
  | .wake .., _ => execWake_goes
  | .down .., _ => execDown_goes
  | .chnTrain .., _ => execChnTrain_goes
  | .backoffEnd .., _ => execBackoffEnd_goes
  | .sleepEntry .., _ => execSleepEntry_goes
  | .wakeStart .., _ => execWakeStart_goes
  | .wakeLockTimeout .., _ => execWakeLockTimeout_goes
  | .frameHeaderParsed .., _ => execFrameHeaderParsed_goes
  | .frameReceived .., _ => execFrameReceived_goes
  | .frameCut .., _ => execFrameCut_goes
  | .egressStart .., _ => execEgressStart_goes
  | .frameSent .., _ => execFrameSent_goes
  | .chnPoolAudit, _ => execChnPoolAudit_goes
  | .chnStale .., _ => execChnStale_goes
  | .netTx .., _ => execNetTx_goes
  | .netRxPost .., _ => execNetRxPost_goes
  | .serviceMessage .., _ => execServiceMessage_goes
  | .helloTransmit, _ => execHelloTransmit_goes
  | .chnNeigh .., _ => execChnNeigh_goes
  | .fwRequestTimer, _ => execFwRequestTimer_goes
  | .bootFailStatusTimer, _ => execBootFailStatusTimer_goes
  | .ptpSync .., _ => execPtpSync_goes
  | .delayResp .., _ => execDelayResp_goes
  | .syncLoss .., _ => execSyncLoss_goes
  | .revert, _ => execRevert_goes
  | .domainSwitch, _ => execDomainSwitch_goes
  | .slewComplete, _ => execSlewComplete_goes
  | .step .., _ => execStep_goes
  | .frequency .., _ => execFrequency_goes
  | .slew .., _ => execSlew_goes
  | .select .., _ => execSelect_goes
  | .tevArm .., _ => execTevArm_goes
  | .tevEdge .., _ => execTevEdge_goes
  | .triggerSettingWrite .., _ => execTriggerSettingWrite_goes
  | .nvmWrite .., _ => execNvmWrite_goes
  | .nvmRead .., _ => execNvmRead_goes
  | .nvmRecordComplete .., _ => execNvmRecordComplete_goes
  | .crcRun .., _ => execCrcRun_goes
  | .disarm .., _ => execDisarm_goes
  | .arm .., _ => execArm_goes
  | .armSchedule .., _ => execArmSchedule_goes
  | .armReset .., _ => execArmReset_goes
  | .scheduledBoot, _ => execScheduledBoot_goes
  | .bootCheck .., _ => execBootCheck_goes
  | .linkUp .., _ => execLinkUp_goes
  | .configurationWrite .., _ => execConfigurationWrite_goes
  | .msixUnmask .., _ => execMsixUnmask_goes
  | .domainEnWrite .., _ => execDomainEnWrite_goes
  | .invalidSyncHeader _ o, _ => execInvalidSyncHeader_goes (ordered := o)
  | .orderedSetTransmit .., _ => execOrderedSetTransmit_goes
  | .severeLineBroken .., _ => execSevereLineBroken_goes
  | .tevPulseEnd .., _ => execTevPulseEnd_goes
  | .faultCollectorStart, _ => execFaultCollectorStart_goes

/-- BAR0 is closed while the host link stands still. -/
theorem barOpen_still {s : State} (h : runs .host s = false) : barOpen s = false := by
  simp [barOpen, h]

/-- No descriptor runs while the ring engine stands still. -/
theorem runOp_still {s : State} {id op : Nat} {f : Desc → State} (h : runs .ring s = false) : runOp s id op f = .next s := by
  unfold runOp
  split
  · rfl
  · simp [canRun, h]

theorem execCrcRun_still {s : State} {id : Nat} (h : runs .ring s = false) : execCrcRun id s = .next s := by
  unfold execCrcRun
  split
  · rfl
  · dsimp only
    split
    · rfl
    · split <;> exact runOp_still h

/-- A command has no effect while the island in which it is judged stands still: a host access meets a closed BAR0, a descriptor
does not run, and any other command asks for its island first. -/
theorem exec_still {c : Instr} {i : Isl} {s : State} (hj : judgedIn c = some i) (h : runs i s = false) : exec c s = .next s := by
  cases c <;> cases hj
  case swrstKey | frmNumCapture | timNowCapture | sqEnable | sqDrain | cqEnable | cqDisable | irqEnWrite | safeLock | rearm | unfreeze | portEnable |
      portDisable | retrain | triggerSettingWrite | domainEnWrite | apply | sqTailDoorbell | fenceKick | cqHeadDoorbell =>
    simp [exec, execSwrstKey, execFrmNumCapture, execTimNowCapture, execSqEnable, execSqDrain, execCqEnable, execCqDisable, execIrqEnWrite,
      execSafeLock, execRearm, execUnfreeze, execPortEnable, execPortDisable, execRetrain, execTriggerSettingWrite, execDomainEnWrite,
      execApply, execSqTailDoorbell, execFenceKick, execCqHeadDoorbell, when_, barOpen_still h]
  case protSet | nop | layerSet | layerCommit | cacheLoad | cacheEvict | frameCtrl | stripSet | status | release | rescan | idRead |
      orphanInfo | orphanClear | returnTile | ledgerRead | ledgerCommit | diagRead | frondReinstate | safeWrite | safeRead |
      safeConfirm | faultAck | faultInject | calRun | thermMeasure | netTx | netRxPost | step | frequency | slew | select | tevArm |
      nvmWrite | nvmRead | disarm | arm | armSchedule | armReset =>
    exact runOp_still h
  case crcRun => exact execCrcRun_still h
  all_goals exact ifRuns_still h

/-- Settles O52: each command completes within its parts, and has no effect while its island stands still. -/
theorem commandsCompleteAndFrame : Obligations.CommandsCompleteAndFrame :=
  ⟨exec_goes, fun _ _ _ => exec_still⟩

end Sys2Proof.Machine
end

section
/-! Register writes: the windows of BAR0, what each window stores and what a read of the register then returns. -/

set_option autoImplicit false

namespace Sys2Proof.Machine

/-! ### Accesses -/

/-- An access of one word takes effect while BAR0 is open, at an aligned offset of BAR0. -/
theorem registerWrite_word {s : State} {off : Nat} {v : BitVec 32} {e : BitVec 4} :
    exec (.registerWrite off v e none) s = if barOpen s = true ∧ off % 4 = 0 ∧ off < 0x100000 then writeWord off v e s else .next s := by
  obtain ⟨t, ht, -⟩ := writeWord_goes (off := off) (value := v) (enables := e) (s := s)
  by_cases hr : runs .host s = true
  · simp [exec, execRegisterWrite, ifRuns, hr, ht, and_assoc]
  · simp [exec, execRegisterWrite, ifRuns, barOpen, hr]

/-- An access of two words writes the lower and then the upper one. -/
theorem registerWrite_pair {s t : State} {off : Nat} {v w : BitVec 32} {e f : BitVec 4} (hb : barOpen s = true) (h8 : off % 8 = 0)
    (hoff : off < 0x100000) (ht : writeWord off v e s = .next t) :
    exec (.registerWrite off v e (some (w, f))) s = writeWord (off + 4) w f t := by
  have hr : runs .host s = true := by simp_all [barOpen]
  simp [exec, execRegisterWrite, ifRuns, hr, hb, h8, hoff, ht]

theorem registerWrite_pair_outside {s : State} {off : Nat} {v : BitVec 32} {e : BitVec 4} {x : BitVec 32 × BitVec 4}
    (hoff : 0x100000 ≤ off) : exec (.registerWrite off v e (some x)) s = .next s := by
  simp [exec, execRegisterWrite, ifRuns, Nat.not_lt.2 hoff]

/-- The GLB window is read only, and the rest of the half belongs to no window. -/
theorem writeReg_readOnly {l : Bool} {o v : Nat} {s : State} (h : o < 0x4000 ∨ 0x74000 ≤ o) : writeReg l o v s = .next s := by
  rcases h with h | h
  · simp [writeReg, h]
  · unfold writeReg
    iterate 20 rw [if_neg (by omega)]

/-- A whole-word write through a half of BAR0; the upper half is level 0's. -/
theorem registerWrite_half {low : Bool} {s : State} {o : Nat} {v : BitVec 32} (hb : barOpen s = true) (h4 : o % 4 = 0) (ho : o < 0x80000) :
    exec (.registerWrite (if low then o else 0x80000 + o) v 15 none) s = writeReg (!low) o v.toNat s := by
  rw [registerWrite_word]
  cases low
  · rw [if_pos ⟨hb, by simp; omega, by simp; omega⟩]
    simp [writeWord, show (0x80000 + o) % 0x80000 = o by omega]
  · rw [if_pos ⟨hb, by simpa using h4, by simp; omega⟩]
    simp [writeWord, show o % 0x80000 = o by omega, show ¬ 0x80000 ≤ o by omega]

theorem registerWrite_upper {s : State} {o : Nat} {v : BitVec 32} (hb : barOpen s = true) (h4 : o % 4 = 0) (ho : o < 0x80000) :
    exec (.registerWrite (0x80000 + o) v 15 none) s = writeReg true o v.toNat s :=
  registerWrite_half (low := false) hb h4 ho

/-- What the lower half leaves unchanged while BAR0 is open, it leaves unchanged. -/
theorem registerWrite_lower {s : State} {o : Nat} {v : BitVec 32} (ho : o < 0x80000) (h : writeReg false o v.toNat s = .next s) :
    exec (.registerWrite o v 15 none) s = .next s := by
  rw [registerWrite_word]
  split
  · simp [writeWord, show o % 0x80000 = o by omega, show ¬ 0x80000 ≤ o by omega, h]
  · rfl

/-! ### Windows -/

section Windows
variable {l : Bool} {o n k r v : Nat} {s : State}

theorem writeReg_sq (hn : n < 32) (hr : r < 32) (ho : o = 0x4100 + 32 * n + r) : writeReg l o v s = writeSq l ⟨n, hn⟩ r v s := by
  have hi : Fin.ofNat 32 ((o - 0x4000 - 0x100) / 32) = ⟨n, hn⟩ := by
    rw [show (o - 0x4000 - 0x100) / 32 = n by omega]
    exact Fin.ext (Nat.mod_eq_of_lt hn)
  have hm : (o - 0x4000) % 32 = r := by omega
  unfold writeReg writeHif
  rw [if_neg (by omega), if_pos (by omega), if_pos (by omega), hi, hm]

theorem writeReg_cq (hn : n < 32) (hr : r < 16) (ho : o = 0x4600 + 16 * n + r) : writeReg l o v s = writeCq l ⟨n, hn⟩ r v s := by
  have hi : Fin.ofNat 32 ((o - 0x4000 - 0x600) / 16) = ⟨n, hn⟩ := by
    rw [show (o - 0x4000 - 0x600) / 16 = n by omega]
    exact Fin.ext (Nat.mod_eq_of_lt hn)
  have hm : (o - 0x4000) % 16 = r := by omega
  unfold writeReg writeHif
  rw [if_neg (by omega), if_pos (by omega), if_neg (by omega), if_pos (by omega), hi, hm]

theorem writeReg_win (hk : k < 16) (hr : r < 16) (ho : o = 0x4800 + 16 * k + r) :
    writeReg l o v s
      = .next (if l then onShadow (fun t => { t with win := Tab.put t.win k (winWord r v (Tab.get {} t.win k)) }) s else s) := by
  have hi : (o - 0x4000 - 0x800) / 16 = k := by omega
  have hm : (o - 0x4000) % 16 = r := by omega
  unfold writeReg writeHif
  rw [if_neg (by omega), if_pos (by omega), if_neg (by omega), if_neg (by omega), if_pos (by omega)]
  simp only [hi, hm]

theorem writeReg_opc (hk : k < 16) (ho : o = 0x4900 + 4 * k) :
    writeReg l o v s = .next (if l then onShadow (fun t => { t with opc := Tab.put t.opc k (v &&& opcAllowed (k / 4) (k % 4)) }) s else s) := by
  have hi : (o - 0x4000 - 0x900) / 4 = k := by omega
  unfold writeReg writeHif
  rw [if_neg (by omega), if_pos (by omega), if_neg (by omega), if_neg (by omega), if_neg (by omega), if_pos (by omega)]
  simp only [hi]

theorem writeReg_fltCfg_lower (hn : n < 32) : writeReg false (0x44000 + 16 * n) v s = .next s := by
  unfold writeReg
  iterate 12 rw [if_neg (by omega)]
  rw [if_pos (by omega)]
  unfold writeFlt
  rw [if_pos (by omega), show (0x44000 + 16 * n - 0x44000) % 16 = 0 by omega]
  dsimp only
  split <;> rfl

theorem readReg_sq (hn : n < 32) (hr : r < 32) (ho : o = 0x4100 + 32 * n + r) : readReg s o = readSq s n r := by
  have hi : (o - 0x4000 - 0x100) / 32 = n := by omega
  have hm : (o - 0x4000) % 32 = r := by omega
  unfold readReg readHif
  simp only [show o % 0x80000 = o by omega]
  rw [if_neg (by omega), if_pos (by omega), if_pos (by omega), hi, hm]

theorem readReg_win (hk : k < 16) (hr : r < 16) (ho : o = 0x4800 + 16 * k + r) : readReg s o = readWin s k r := by
  have hi : (o - 0x4000 - 0x800) / 16 = k := by omega
  have hm : (o - 0x4000) % 16 = r := by omega
  unfold readReg readHif
  simp only [show o % 0x80000 = o by omega]
  rw [if_neg (by omega), if_pos (by omega), if_neg (by omega), if_neg (by omega), if_pos (by omega), hi, hm]

theorem readReg_opc (hk : k < 16) (ho : o = 0x4900 + 4 * k) : readReg s o = Tab.get (opcAllowed (k / 4) (k % 4)) s.prot.shadow.opc k := by
  have hi : (o - 0x4000 - 0x900) / 16 = k / 4 := by omega
  have hm : (o - 0x4000) % 16 / 4 = k % 4 := by omega
  have hk' : 4 * (k / 4) + k % 4 = k := by omega
  unfold readReg readHif opcWord
  simp only [show o % 0x80000 = o by omega]
  rw [if_neg (by omega), if_pos (by omega), if_neg (by omega), if_neg (by omega), if_neg (by omega), if_pos (by omega), hi, hm, hk']

end Windows

/-! ### Fields of a word -/

theorem lo32_setBits_lo (x v : Nat) : lo32 (setBits x 0 32 v) = v % 2 ^ 32 := by
  simp only [lo32, setBits]; omega

theorem hi32_setBits_hi (x v : Nat) : hi32 (setBits x 32 32 v) = v % 2 ^ 32 := by
  simp only [hi32, setBits]; omega

theorem lo32_setBits_hi (x v : Nat) : lo32 (setBits x 32 32 v) = lo32 x := by
  simp only [lo32, setBits]; omega

theorem hi32_setBits_owner (x v : Nat) : hi32 (setBits x 32 31 v) % 2 ^ 31 = v % 2 ^ 31 := by
  simp only [hi32, setBits]; omega

/-- A counter loses the bits written as 1 (R5). -/
theorem w1c_testBit {x v i : Nat} (h : i < 32) : (w1c 32 x v).testBit i = (x.testBit i && !v.testBit i) := by
  rw [w1c, Nat.testBit_and, Nat.sub_sub, Nat.add_comm 1, Nat.testBit_two_pow_sub_succ (Nat.mod_lt _ (by decide)),
    Nat.testBit_mod_two_pow]
  simp [h]

/-! ### The statement's clauses -/

/-- Clause 1: an access that is closed, partial, unaligned, outside BAR0 or to a read-only window changes nothing. -/
theorem registerWrite_ignored {s : State} {off : Nat} {v : BitVec 32} {e : BitVec 4}
    (h : barOpen s = false ∨ e ≠ 15 ∨ off % 4 ≠ 0 ∨ 0x100000 ≤ off ∨ off % 0x80000 < 0x4000 ∨ 0x74000 ≤ off % 0x80000) :
    exec (.registerWrite off v e none) s = .next s := by
  rw [registerWrite_word]
  split
  case isFalse => rfl
  case isTrue hc =>
    obtain ⟨hb, h4, hoff⟩ := hc
    unfold writeWord
    split
    case isFalse => rfl
    case isTrue he =>
      refine writeReg_readOnly ?_
      simp only [hb, he, h4, ne_eq, not_true, Bool.true_eq_false, false_or] at h
      omega

/-- Clause 2: a write of two words is that of the lower and then of the upper one. -/
theorem registerWrite_pair_eq {s t u : State} {off : Nat} {v w : BitVec 32} (h8 : off % 8 = 0)
    (ht : exec (.registerWrite off v 15 none) s = .next t) (hs : barOpen s = true) (hb : barOpen t = true)
    (hu : exec (.registerWrite (off + 4) w 15 none) t = .next u) :
    exec (.registerWrite off v 15 (some (w, 15))) s = .next u := by
  rw [registerWrite_word] at ht hu
  by_cases hoff : off < 0x100000
  · rw [if_pos ⟨hs, by omega, hoff⟩] at ht
    rw [if_pos ⟨hb, by omega, by omega⟩] at hu
    rw [registerWrite_pair hs h8 hoff ht, hu]
  · rw [if_neg (by simp [hoff])] at ht
    rw [if_neg (by omega)] at hu
    rw [registerWrite_pair_outside (by omega), ← hu, ← ht]

theorem writeSq_lower {n : Fin 32} {r v : Nat} {s : State} (hr : r = 0x00 ∨ r = 0x04 ∨ r = 0x0C ∨ r = 0x10) :
    writeSq false n r v s = .next s := by
  rcases hr with rfl | rfl | rfl | rfl <;> rfl

theorem writeCq_lower {n : Fin 32} {r v : Nat} {s : State} (hr : r = 0x00 ∨ r = 0x04) : writeCq false n r v s = .next s := by
  rcases hr with rfl | rfl <;> rfl

/-- The registers of clause 3: each field of them is RW0, and a write of the lower half leaves it. -/
theorem writeReg_lower {o v n k : Nat} {s : State} (hn : n < 32) (hk : k < 16)
    (ho : o ∈ [0x4100 + 32 * n, 0x4104 + 32 * n, 0x410C + 32 * n, 0x4110 + 32 * n, 0x4600 + 16 * n, 0x4604 + 16 * n, 0x4800 + 16 * k,
      0x4804 + 16 * k, 0x4808 + 16 * k, 0x480C + 16 * k, 0x4900 + 4 * k, 0x4950, 0x13F00, 0x13F04, 0x13F08, 0x38000, 0x44000 + 16 * n,
      0x48000, 0x4C200, 0x58000, 0x58040, 0x58048, 0x70004, 0x70014]) :
    o < 0x80000 ∧ writeReg false o v s = .next s := by
  simp only [List.mem_cons, List.not_mem_nil, or_false] at ho
  refine ⟨by omega, ?_⟩
  rcases ho with h | h | h | h | h | h | h | h | h | h | h | h | h | h | h | h | h | h | h | h | h | h | h | h
  iterate 4 exact (writeReg_sq hn (r := o - 0x4100 - 32 * n) (by omega) (by omega)).trans (writeSq_lower (by omega))
  iterate 2 exact (writeReg_cq hn (r := o - 0x4600 - 16 * n) (by omega) (by omega)).trans (writeCq_lower (by omega))
  iterate 4 exact writeReg_win hk (r := o - 0x4800 - 16 * k) (by omega) (by omega)
  · exact writeReg_opc hk h
  iterate 5 · subst h; rfl
  · subst h; exact writeReg_fltCfg_lower hn
  all_goals subst h; rfl

/-- A register of the protection table's shadow holds a value after a write (R84): the table in force and its generation are kept, and
so is every other part. -/
def ShadowHolds (s : State) (o x w : Nat) (t : State) : Prop :=
  readReg t o % 2 ^ w = x ∧ t.prot.active = s.prot.active ∧ t.prot.gen = s.prot.gen ∧ SameBut [.prot] s t

theorem shadowWrite_holds {s : State} {v : BitVec 32} {f : ProtTable → ProtTable} {o x w : Nat} (hb : barOpen s = true) (h4 : o % 4 = 0)
    (ho : o < 0x80000) (h : writeReg true o v.toNat s = .next (if true then onShadow f s else s))
    (hr : readReg (onShadow f s) o % 2 ^ w = x) : Yields (.registerWrite (0x80000 + o) v 15 none) s (ShadowHolds s o x w) :=
  ⟨_, (registerWrite_upper hb h4 ho).trans h, hr, rfl, rfl, onShadow_frame (by decide) .refl⟩

section Shadow
variable {s : State} {v : BitVec 32} {n k : Nat}

theorem ownLow_holds (hn : n < 32) (hb : barOpen s = true) :
    Yields (.registerWrite (0x80000 + (0x410C + 32 * n)) v 15 none) s (ShadowHolds s (0x410C + 32 * n) v.toNat 32) := by
  refine shadowWrite_holds hb (by omega) (by omega) ((writeReg_sq hn (r := 0x0C) (by omega) (by omega)).trans rfl) ?_
  rw [readReg_sq hn (r := 0x0C) (by omega) (by omega)]
  simp only [readSq, onShadow, Tab.get_put, if_true, lo32_setBits_lo, BitVec.toNat_mod_cancel]

theorem ownHigh_holds (hn : n < 32) (hb : barOpen s = true) :
    Yields (.registerWrite (0x80000 + (0x4110 + 32 * n)) v 15 none) s (ShadowHolds s (0x4110 + 32 * n) (v.toNat % 2 ^ 31) 31) := by
  refine shadowWrite_holds hb (by omega) (by omega) ((writeReg_sq hn (r := 0x10) (by omega) (by omega)).trans rfl) ?_
  rw [readReg_sq hn (r := 0x10) (by omega) (by omega)]
  simp only [readSq, onShadow, Tab.get_put, if_true, hi32_setBits_owner, bits]
  omega

theorem winBaseHigh_holds (hk : k < 16) (hb : barOpen s = true) :
    Yields (.registerWrite (0x80000 + (0x4804 + 16 * k)) v 15 none) s (ShadowHolds s (0x4804 + 16 * k) v.toNat 32) := by
  refine shadowWrite_holds hb (by omega) (by omega) (writeReg_win hk (r := 0x04) (by omega) (by omega)) ?_
  rw [readReg_win hk (r := 0x04) (by omega) (by omega)]
  simp only [readWin, winWord, onShadow, Tab.get_put, if_true, hi32_setBits_hi, BitVec.toNat_mod_cancel]

theorem winPages_holds (hk : k < 16) (hb : barOpen s = true) :
    Yields (.registerWrite (0x80000 + (0x4808 + 16 * k)) v 15 none) s (ShadowHolds s (0x4808 + 16 * k) v.toNat 32) := by
  refine shadowWrite_holds hb (by omega) (by omega) (writeReg_win hk (r := 0x08) (by omega) (by omega)) ?_
  rw [readReg_win hk (r := 0x08) (by omega) (by omega)]
  simp only [readWin, winWord, onShadow, Tab.get_put, if_true, BitVec.toNat_mod_cancel]

/-- A mask of a word is a word. -/
theorem and_mod_word (v : BitVec 32) (m : Nat) : (v.toNat &&& m) % 2 ^ 32 = v.toNat &&& m :=
  Nat.mod_eq_of_lt (Nat.lt_of_le_of_lt Nat.and_le_left v.isLt)

theorem winAttr_holds (hk : k < 16) (hb : barOpen s = true) :
    Yields (.registerWrite (0x80000 + (0x480C + 16 * k)) v 15 none) s (ShadowHolds s (0x480C + 16 * k) (v.toNat &&& 0x800000FF) 32) := by
  refine shadowWrite_holds hb (by omega) (by omega) (writeReg_win hk (r := 0x0C) (by omega) (by omega)) ?_
  rw [readReg_win hk (r := 0x0C) (by omega) (by omega)]
  simp only [readWin, winWord, onShadow, Tab.get_put, if_true, and_mod_word]

theorem opcWord_holds (hk : k < 16) (hb : barOpen s = true) :
    Yields (.registerWrite (0x80000 + (0x4900 + 4 * k)) v 15 none) s
      (ShadowHolds s (0x4900 + 4 * k) (v.toNat &&& opcAllowed (k / 4) (k % 4)) 32) := by
  refine shadowWrite_holds hb (by omega) (by omega) (writeReg_opc hk rfl) ?_
  rw [readReg_opc hk rfl]
  simp only [onShadow, Tab.get_put, if_true, and_mod_word]

/-- The registers of clause 4's list. -/
theorem shadowRegisters_hold (hn : n < 32) (hk : k < 16) (hb : barOpen s = true) {e : Nat × Nat × Nat}
    (he : e ∈ [(0x410C + 32 * n, v.toNat, 32), (0x4110 + 32 * n, v.toNat % 2 ^ 31, 31), (0x4804 + 16 * k, v.toNat, 32),
      (0x4808 + 16 * k, v.toNat, 32), (0x480C + 16 * k, v.toNat &&& 0x800000FF, 32),
      (0x4900 + 4 * k, v.toNat &&& opcAllowed (k / 4) (k % 4), 32)]) :
    Yields (.registerWrite (0x80000 + e.1) v 15 none) s (ShadowHolds s e.1 e.2.1 e.2.2) := by
  simp only [List.mem_cons, List.not_mem_nil, or_false] at he
  rcases he with rfl | rfl | rfl | rfl | rfl | rfl
  · exact ownLow_holds hn hb
  · exact ownHigh_holds hn hb
  · exact winBaseHigh_holds hk hb
  · exact winPages_holds hk hb
  · exact winAttr_holds hk hb
  · exact opcWord_holds hk hb

end Shadow

/-- Clause 4, the ring base while the ring runs. -/
theorem sqBaseHigh_running {s : State} {v : BitVec 32} {n : Nat} (hn : n < 32) (hb : barOpen s = true) (hs : (sqOf s n).state = .running) :
    exec (.registerWrite (0x84104 + 32 * n) v 15 none) s = .next s := by
  rw [show 0x84104 + 32 * n = 0x80000 + (0x4104 + 32 * n) by omega, registerWrite_upper hb (by omega) (by omega),
    writeReg_sq hn (r := 0x04) (by omega) (by omega)]
  simp [writeSq, hs]

/-- Clause 4, the ring base while the ring does not run (R95): its upper word is stored, its lower word stays. -/
theorem sqBaseHigh_stored {s : State} {v : BitVec 32} {n : Nat} (hn : n < 32) (hb : barOpen s = true) (hs : (sqOf s n).state ≠ .running) :
    Yields (.registerWrite (0x84104 + 32 * n) v 15 none) s fun t =>
      readReg t (0x4104 + 32 * n) = v.toNat ∧ readReg t (0x4100 + 32 * n) = readReg s (0x4100 + 32 * n)
        ∧ (∀ m, m ≠ n → sqOf t m = sqOf s m) ∧ SameBut [.rings] s t := by
  refine ⟨putSq s n { sqOf s n with base := setBits (sqOf s n).base 32 32 v.toNat }, ?_, ?_, ?_, fun m hm => by simp [hm],
    putSq_frame (by decide) .refl⟩
  · rw [show 0x84104 + 32 * n = 0x80000 + (0x4104 + 32 * n) by omega, registerWrite_upper hb (by omega) (by omega),
      writeReg_sq hn (r := 0x04) (by omega) (by omega)]
    simp [writeSq, hs]
  · rw [readReg_sq hn (r := 0x04) (by omega) (by omega)]
    simp [readSq, hi32_setBits_hi, Nat.mod_eq_of_lt v.isLt]
  · rw [readReg_sq hn (r := 0x00) (by omega) (by omega), readReg_sq hn (r := 0x00) (by omega) (by omega)]
    simp [readSq, lo32_setBits_hi]

/-- A ranged field takes a value within its range and keeps its own otherwise (R5). -/
theorem rw0_within (lo hi old new : Nat) : rw0 true (within lo hi new) old new = if lo ≤ new ∧ new ≤ hi then new else old := by
  simp [rw0, within]

theorem bits_low (v w : Nat) : bits v 0 w = v % 2 ^ w := by
  simp [bits]

/-- Clause 5, the poll interval of the fences (R179) and the silence limit (R139). -/
theorem rangedWrite_yields {s : State} {v : BitVec 32} (hb : barOpen s = true) {e : Nat × Nat × Nat × Nat}
    (he : e ∈ [(0x13F04, 10, 10000, 16), (0x4950, 10, 6000, 16)]) :
    Yields (.registerWrite (0x80000 + e.1) v 15 none) s fun t =>
      readReg t e.1 = (if e.2.1 ≤ v.toNat % 2 ^ e.2.2.2 ∧ v.toNat % 2 ^ e.2.2.2 ≤ e.2.2.1 then v.toNat % 2 ^ e.2.2.2 else readReg s e.1)
        ∧ SameBut [.rings, .cmp] s t := by
  simp only [List.mem_cons, List.not_mem_nil, or_false] at he
  rcases he with rfl | rfl
  · refine ⟨_, (registerWrite_upper hb (by decide) (by decide)).trans rfl, ?_, setCmp_frame rfl (by decide) .refl⟩
    exact (rw0_within ..).trans (by rw [bits_low]; rfl)
  · refine ⟨_, (registerWrite_upper hb (by decide) (by decide)).trans rfl, ?_, setRings_frame (by decide) .refl⟩
    exact (rw0_within ..).trans (by rw [bits_low]; rfl)

/-- A write of a counter through either half clears the bits written as 1. -/
theorem counterWrite {l : Bool} {s : State} {v o : Nat}
    (ho : o ∈ [0x4948, 0x494C, 0x13F1C, 0x38050, 0x58064, 0x58068, 0x51034, 0x51038, 0x51434, 0x51438]) :
    ∃ t, writeReg l o v s = .next t ∧ readReg t o = w1c 32 (readReg s o) v ∧ SameBut [.link, .rings, .cmp, .tiles, .chain, .time] s t := by
  simp only [List.mem_cons, List.not_mem_nil, or_false] at ho
  rcases ho with rfl | rfl | rfl | rfl | rfl | rfl | rfl | rfl | rfl | rfl
  · exact ⟨_, rfl, rfl, setLink_frame (by decide) .refl⟩
  · exact ⟨_, rfl, rfl, setRings_frame (by decide) .refl⟩
  · exact ⟨_, rfl, rfl, setCmp_frame rfl (by decide) .refl⟩
  · exact ⟨_, rfl, rfl, onTiles_frame (by decide) .refl⟩
  · exact ⟨_, rfl, rfl, onTim_frame (by decide) .refl⟩
  · exact ⟨_, rfl, rfl, onTim_frame (by decide) .refl⟩
  all_goals
    refine ⟨_, rfl, ?_, putPort_frame (by decide) .refl⟩
    simp [readReg, readChn, readPort]

/-- Clause 5, the counters. -/
theorem counterWrite_yields {s : State} {v : BitVec 32} (hb : barOpen s = true) {low : Bool} {o : Nat}
    (ho : o ∈ [0x4948, 0x494C, 0x13F1C, 0x38050, 0x58064, 0x58068, 0x51034, 0x51038, 0x51434, 0x51438]) :
    Yields (.registerWrite (if low then o else 0x80000 + o) v 15 none) s fun t =>
      (∀ i, i < 32 → (readReg t o).testBit i = ((readReg s o).testBit i && !v.toNat.testBit i))
        ∧ SameBut [.link, .rings, .cmp, .tiles, .chain, .time] s t := by
  obtain ⟨t, ht, hr, hf⟩ := counterWrite (l := !low) (s := s) (v := v.toNat) ho
  have ho' : o % 4 = 0 ∧ o < 0x80000 := by
    simp only [List.mem_cons, List.not_mem_nil, or_false] at ho
    omega
  refine ⟨t, (registerWrite_half hb ho'.1 ho'.2).trans ht, fun i hi => ?_, hf⟩
  rw [hr, w1c_testBit hi]

/-- Settles O49: clause by clause, from what each window stores and reads. -/
theorem registerWrites : Obligations.RegisterWrites := by
  refine ⟨fun s off v e h => ⟨s, registerWrite_ignored h, rfl⟩,
    fun s t u off v w h8 ht hs hb hu => ⟨u, registerWrite_pair_eq h8 ht hs hb hu, rfl⟩,
    fun s off v n k hn hk ho => ?_, fun s v n k hn hk hb => ⟨fun e he => shadowRegisters_hold hn hk hb he,
      fun hs => ⟨s, sqBaseHigh_running hn hb hs, rfl⟩, sqBaseHigh_stored hn hb⟩,
    fun s v hb => ⟨fun e he => rangedWrite_yields hb he, fun low o ho => counterWrite_yields hb ho⟩⟩
  obtain ⟨hoff, h⟩ := writeReg_lower hn hk ho
  exact ⟨s, registerWrite_lower hoff h, rfl⟩

end Sys2Proof.Machine
end

section
/-! The light invariant, the two channels taken apart: a form of it that excuses the channels about to go low, one rule for each
way in which the state is written, and what the slots of the fault collector do to it. -/

set_option autoImplicit false

namespace Sys2Proof.Machine

/-! ### The invariant but for some channels -/

/-- What of R333 lies in the channel itself. -/
def chanPermit (x : Channel) : Bool := x.selftestOk && !chanBlocked x && !x.xcmp && !x.differs && !x.severeLine

/-- What of R333 both channels share: a set in force, no severe fault unacknowledged, and a chip that runs. -/
def chipPermit (s : State) : Bool :=
  decide (s.safety.src ≠ 0) && !unackFrom s 3 && !s.power.held && !s.power.vstop && !s.power.thermLatch

theorem ownPermit_iff {s : State} {c : Chan} : ownPermit s c = true ↔ chanPermit (chanOf s c) = true ∧ chipPermit s = true := by
  simp only [ownPermit, chanPermit, chipPermit, Bool.and_eq_true]
  tauto

/-- A channel has passed its self-test only if the test has ended. -/
def Tested (x : Channel) : Prop := x.selftestOk = true → x.selftestDone = true

/-- The light invariant but for the channels listed: their outputs may be high without permit, for they are about to go low. -/
def LightBut (l : List Chan) (s : State) : Prop :=
  ∀ c, (c ∉ l → (chanOf s c).slo = true → ownPermit s c = true) ∧ Tested (chanOf s c)

theorem lightBut_nil {s : State} : LightBut [] s ↔ LightInv s := by simp [LightBut, LightInv, Tested]

/-- A channel changes without rising and without losing its permit; its self-test stays in order. -/
structure Eases (x y : Channel) : Prop where
  slo : y.slo = true → x.slo = true
  permit : chanPermit x = true → chanPermit y = true
  tested : Tested x → Tested y

theorem Eases.refl {x : Channel} : Eases x x := ⟨id, id, id⟩

/-- The light invariant holds of an outcome, if that is a next state. -/
def Lit (o : Out) : Prop := ∀ t, o = .next t → LightBut [] t

section Rules
variable {l : List Chan} {s t : State} {c : Chan}

/-- Two channels that ease under conditions that do not tighten. -/
theorem LightBut.step (h : LightBut l s) (hc : ∀ c, Eases (chanOf s c) (chanOf t c))
    (hp : chipPermit s = true → chipPermit t = true) : LightBut l t := by
  intro c
  obtain ⟨hl, ht⟩ := h c
  refine ⟨fun hm hs => ?_, (hc c).tested ht⟩
  have hown := ownPermit_iff.1 (hl hm ((hc c).slo hs))
  exact ownPermit_iff.2 ⟨(hc c).permit hown.1, hp hown.2⟩

/-- The channels stay, under conditions that do not tighten. -/
theorem LightBut.chip (h : LightBut l s) (hs : ∀ c, chanOf t c = chanOf s c) (hp : chipPermit s = true → chipPermit t = true) :
    LightBut l t := h.step (fun c => hs c ▸ .refl) hp

/-- The channels stay and both are about to go low, under any conditions. -/
theorem LightBut.both (h : LightBut l s) (hs : ∀ c, chanOf t c = chanOf s c) : LightBut [.a, .b] t := by
  intro c
  refine ⟨fun hm => absurd ?_ hm, ?_⟩
  · cases c <;> decide
  · rw [hs]
    exact (h c).2

/-- Nothing changed that the invariant reads. -/
theorem LightBut.same (h : LightBut l s) (hp : t.power = s.power) (hs : t.safety = s.safety) (hf : t.faults.slots = s.faults.slots) :
    LightBut l t :=
  h.chip (fun c => by simp only [chanOf, hs]) (by simp only [chipPermit, unackFrom, hp, hs, hf, imp_self])

/-- The parts that the light invariant does not speak of. -/
abbrev quietParts : List Part :=
  [.outputs, .freeCtr, .boot, .link, .prot, .rings, .cache, .cmp, .frm, .strip, .tiles, .journal, .safety, .faults, .cal, .therm, .chain,
    .time, .pages, .nvm]

/-- A change of quiet parts; with it the frames of the shared operations serve the invariant. -/
theorem LightBut.quiet (k : SameBut quietParts s t) (h : LightBut l s) : LightBut l t :=
  h.chip k.chanOf_eq (by simp only [chipPermit, unackFrom, k.power_eq, k.slots_eq, (k.parts .safeSet (by decide)).2.1, imp_self])

theorem LightBut.mono {m : List Chan} (h : LightBut l s) (hm : ∀ c ∈ l, c ∈ m) : LightBut m s :=
  fun c => ⟨fun hc => (h c).1 fun hl => hc (hm c hl), (h c).2⟩

/-- A channel that is low needs no excuse. -/
theorem LightBut.low (h : LightBut (c :: l) s) (hc : (chanOf s c).slo = false) : LightBut l s := by
  intro d
  refine ⟨fun hm hs => ?_, (h d).2⟩
  have hd : d ≠ c := fun e => by simp [e, hc] at hs
  exact (h d).1 (by simp [hd, hm]) hs

/-- Channels as a chip reset leaves them. -/
theorem LightBut.dark (ha : s.safety.a = {}) (hb : s.safety.b = {}) : LightBut l s := by
  intro c
  cases c <;> simp [chanOf, ha, hb, Tested]

theorem LightBut.ite {p : Prop} [Decidable p] (h1 : p → LightBut l s) (h2 : ¬p → LightBut l t) : LightBut l (if p then s else t) := by
  split
  · exact h1 ‹_›
  · exact h2 ‹_›

theorem chipPermit_updChan {f : Channel → Channel} : chipPermit (updChan c f s) = chipPermit s := by cases c <;> rfl

theorem chanOf_updChan {d : Chan} {f : Channel → Channel} : chanOf (updChan c f s) d = if d = c then f (chanOf s c) else chanOf s d :=
  chanOf_putChan ..

theorem updChan_light {f : Channel → Channel} (hf : ∀ x, Eases x (f x)) (h : LightBut l s) : LightBut l (updChan c f s) := by
  refine h.step (fun d => ?_) (by simp only [chipPermit_updChan, imp_self])
  rw [chanOf_updChan]
  split
  · next e => exact e ▸ hf _
  · exact .refl

/-- A channel about to go low may be changed in any way that keeps the order of its self-test. -/
theorem updChan_excused {f : Channel → Channel} (hf : ∀ x, Tested x → Tested (f x)) (h : LightBut l s) :
    LightBut (c :: l) (updChan c f s) := by
  intro d
  rw [chanOf_updChan]
  split
  · next e => exact ⟨fun hm => absurd (by simp [e]) hm, hf _ (h c).2⟩
  · next e =>
    refine ⟨fun hm hs => ?_, (h d).2⟩
    rw [ownPermit_iff, chanOf_updChan, if_neg e, chipPermit_updChan, ← ownPermit_iff]
    exact (h d).1 (fun hl => hm (by simp [hl])) hs

theorem onSaf_light {f : Safety → Safety} (ha : ∀ k, Eases k.a (f k).a) (hb : ∀ k, Eases k.b (f k).b)
    (hs : ∀ k, k.src ≠ 0 → (f k).src ≠ 0) (h : LightBut l s) : LightBut l (onSaf f s) := by
  refine h.step (fun c => ?_) ?_
  · cases c
    · exact ha _
    · exact hb _
  · simp only [chipPermit, unackFrom, onSaf, Bool.and_eq_true, decide_eq_true_eq]
    rintro ⟨⟨⟨⟨hsrc, hu⟩, hh⟩, hv⟩, ht⟩
    exact ⟨⟨⟨⟨decide_eq_true (hs _ hsrc), hu⟩, hh⟩, hv⟩, ht⟩

/-- A change of the power record that neither holds, stops nor latches the chip. -/
theorem setPower_light {x : Power} (hh : x.held = true → s.power.held = true) (hv : x.vstop = true → s.power.vstop = true)
    (ht : x.thermLatch = true → s.power.thermLatch = true) (h : LightBut l s) : LightBut l { s with power := x } := by
  refine h.chip (fun _ => rfl) ?_
  simp only [chipPermit, unackFrom, Bool.and_eq_true, Bool.not_eq_true', Bool.eq_false_iff]
  rintro ⟨⟨⟨hu, hheld⟩, hstop⟩, hlatch⟩
  exact ⟨⟨⟨hu, hheld ∘ hh⟩, hstop ∘ hv⟩, hlatch ∘ ht⟩

/-! ### The supply goes off -/

/-- A channel that goes low is excused no more (R333). -/
theorem sloOff_light (h : LightBut (c :: l) s) : LightBut l (sloOff c s) := by
  refine LightBut.low (c := c) ?_ (sloOff_self c s)
  have hlow : LightBut (c :: l) (updChan c (fun x => { x with slo := false, outDiscard := x.outDiscard || x.outTest }) s) :=
    updChan_light (fun x => ⟨fun e => by simp at e, id, id⟩) h
  exact hlow.quiet <| .ite (fun _ => .ite (fun _ => stopFronds_frame (by decide) (supplyGone_frame (by decide) .refl)) fun _ =>
    supplyGone_frame (by decide) .refl) fun _ => .refl

theorem lightOff_light (h : LightBut [.a, .b] s) : LightBut l (lightOff s) :=
  (sloOff_light (sloOff_light h)).mono (by simp)

theorem lightOff_kept (h : LightBut l s) : LightBut l (lightOff s) := lightOff_light (h.both fun _ => rfl)

/-- A channel changes and goes low in one. -/
theorem sloOff_updChan_light {f : Channel → Channel} (hf : ∀ x, Tested x → Tested (f x)) (h : LightBut l s) :
    LightBut l (sloOff c (updChan c f s)) := sloOff_light (updChan_excused hf h)

/-! ### Outcomes -/

theorem Lit.next (h : LightBut [] s) : Lit (.next s) := by
  rintro _ ⟨⟩
  exact h

theorem Lit.ite {p : Prop} [Decidable p] {o q : Out} (h1 : p → Lit o) (h2 : ¬p → Lit q) : Lit (if p then o else q) := by
  split
  · exact h1 ‹_›
  · exact h2 ‹_›

theorem ifRuns_lit {i : Isl} {o : Out} (h : LightBut [] s) (ho : Lit o) : Lit (ifRuns s i o) := .ite (fun _ => ho) fun _ => .next h

theorem when_lit {p : Bool} {f : State → State} (h : LightBut [] s) (hf : p = true → LightBut [] (f s)) : Lit (when_ p f s) :=
  .next (.ite hf fun _ => h)

theorem runOp_lit {id op : Nat} {f : Desc → State} (h : LightBut [] s) (hf : ∀ d, LightBut [] (f d)) : Lit (runOp s id op f) := by
  unfold runOp
  split
  · exact .next h
  · exact .next (.ite (fun _ => hf _) fun _ => h)

/-- A command that writes quiet parts only. -/
theorem Goes.lit {m : List Part} {o : Out} (k : Goes m s o) (h : LightBut [] s) (hm : ∀ p ∈ m, p ∈ quietParts := by decide) : Lit o := by
  obtain ⟨t, rfl, ht⟩ := k
  exact .next (h.quiet (ht.mono hm))

end Rules

/-! ### The slots of the fault collector -/

section Slots
variable {l : List Chan} {s : State} {n : Nat}

theorem Tab.mem_put {α : Type} {t : Tab α} {i : Nat} {v : α} {e : Nat × α} (h : e ∈ Tab.put t i v) : e = (i, v) ∨ e ∈ t := by
  induction t with
  | nil => simpa [Tab.put] using h
  | cons x r ih =>
    obtain ⟨k, w⟩ := x
    simp only [Tab.put] at h
    split at h
    · simpa using h
    · split at h <;> simp only [List.mem_cons] at h ⊢ <;> tauto

theorem Tab.get_mem_or_default {α : Type} (d : α) (t : Tab α) (i : Nat) : Tab.get d t i = d ∨ (i, Tab.get d t i) ∈ t := by
  induction t with
  | nil => exact .inl rfl
  | cons x r ih =>
    obtain ⟨k, w⟩ := x
    simp only [Tab.get]
    split
    · next e => exact .inr (by simp [e])
    · exact ih.imp id (by simp +contextual)

/-- A slot with an unacknowledged fault is listed; one at its reset value has none. -/
theorem unackFrom_of_slotOf {k : Nat} (h : 2 ^ k ≤ (slotOf s n).unack) : unackFrom s k = true := by
  have hs : slotOf s n = _ ∨ (n, slotOf s n) ∈ s.faults.slots := Tab.get_mem_or_default _ s.faults.slots n
  rcases hs with e | hm
  · have hu : (slotOf s n).unack = 0 := congrArg Slot.unack e
    have := Nat.two_pow_pos k
    omega
  · exact List.any_eq_true.2 ⟨_, hm, decide_eq_true h⟩

/-- A slot is replaced by one with no severe fault that it did not have. -/
theorem putSlot_light {x : Slot} (hx : 2 ^ 3 ≤ x.unack → 2 ^ 3 ≤ (slotOf s n).unack) (h : LightBut l s) : LightBut l (putSlot s n x) := by
  have hu : unackFrom (putSlot s n x) 3 = true → unackFrom s 3 = true := by
    intro hs
    obtain ⟨e, hm, he⟩ := List.any_eq_true.1 hs
    rcases Tab.mem_put hm with rfl | hm
    · exact unackFrom_of_slotOf (hx (by simpa using he))
    · exact List.any_eq_true.2 ⟨e, hm, he⟩
  refine h.chip (fun _ => rfl) ?_
  simp only [chipPermit, Bool.and_eq_true, Bool.not_eq_true', Bool.eq_false_iff]
  rintro ⟨⟨⟨⟨hsrc, hun⟩, hh⟩, hv⟩, ht⟩
  exact ⟨⟨⟨⟨hsrc, hun ∘ hu⟩, hh⟩, hv⟩, ht⟩

/-- A fault below class 3 leaves a slot without a severe one. -/
theorem severe_of_or {u e : Nat} (he : e < 3) (h : 2 ^ 3 ≤ u ||| 2 ^ e) : 2 ^ 3 ≤ u := by
  by_contra hu
  have : 2 ^ e < 2 ^ 3 := Nat.pow_lt_pow_right (by decide) he
  have := Nat.or_lt_two_pow (not_le.1 hu) this
  omega

/-- A promotion below class 3 raises nothing severe; any other takes the light off (R379). -/
theorem promote_light {p : Nat} {wire inj : Bool} (h : LightBut l s) : LightBut l (promote n p wire inj s) := by
  unfold promote
  extract_lets e old t x w u v
  have hv : ∀ {m : List Chan}, LightBut m (putSlot s n x) → LightBut m v := fun hx => hx.quiet <|
    .ite (fun _ => faultIrq_frame (by decide) <| postEvent_frame (by decide) <| logEntry_frame (by decide) .refl)
      fun _ => logEntry_frame (by decide) .refl
  split
  · exact lightOff_light (hv (h.both fun _ => rfl))
  · next he =>
    refine hv (putSlot_light (fun hx => ?_) h)
    dsimp only [x] at hx
    split at hx
    · exact hx
    · exact severe_of_or (by omega) hx

theorem countEvent_light {wire inj : Bool} (h : LightBut l s) : LightBut l (countEvent n wire inj s) := by
  unfold countEvent
  dsimp only
  refine .ite (fun _ => promote_light (putSlot_light ?_ h)) fun _ => putSlot_light ?_ h
  all_goals split <;> exact id

theorem acceptLine_light (h : LightBut l s) : LightBut l (acceptLine n s) :=
  .ite (fun _ => putSlot_light id h) fun _ => .ite (fun _ => h) fun _ =>
    countEvent_light <| h.quiet <| onFlt_frame (fun _ => by dsimp only; split <;> rfl) (by decide) .refl

theorem acceptLines_light (ns : List Nat) : ∀ {s : State}, LightBut l s → LightBut l (acceptLines ns s) := by
  induction ns with
  | nil => exact id
  | cons n r ih => exact fun h => ih (acceptLine_light h)

theorem ackSlots_light (ns : List Nat) : ∀ {s : State}, LightBut l s → LightBut l (ackSlots ns s).2 := by
  induction ns with
  | nil => exact id
  | cons n r ih =>
    intro s h
    unfold ackSlots
    dsimp only
    split
    · exact ih h
    · split
      · exact ih <| (putSlot_light (fun hx => by simp at hx) h).quiet (logEntry_frame (by decide) .refl)
      · exact ih h

end Slots

end Sys2Proof.Machine
end

section
/-! Every command keeps the light invariant: the supply's and the reset's, the safety channels', the collector's and the register
writes by their own rules, all others because they write nothing that it reads. -/

set_option autoImplicit false

namespace Sys2Proof.Machine

/-! ### Reset and the records of the NVM -/

section Reset
variable {l : List Chan} {s : State} {c : Cause}

theorem chipReset_light : LightBut l (chipReset c s) := .dark rfl rfl

theorem requestReset_light (h : LightBut l s) : LightBut l (requestReset c s) :=
  .ite (fun _ => setPower_light id id id h) fun _ => chipReset_light

theorem release_light {b : Bool} (h : LightBut l s) : LightBut l (release_ b s) :=
  .ite (fun _ => setPower_light (fun e => by simp at e) id id h) fun _ => h

theorem vholdLevel_light {b : Bool} (h : LightBut l s) : LightBut l (vholdLevel b s) :=
  .ite (fun _ => (setPower_light id id id h).quiet (condOff_frame (by decide) .refl)) fun _ => setPower_light id id id h

theorem gotBlock_light {i : Nat} (h : LightBut l s) : LightBut l (gotBlock i s) := by
  unfold gotBlock
  refine .ite (fun _ => h) fun _ => ?_
  extract_lets u all x v
  have hv : LightBut l v := h.quiet <| .ite
    (fun _ => queueRecs_frame (by decide) <| openPage_frame (by decide) <| onXfer_frame (by decide) (onXfer_frame (by decide) .refl))
    fun _ => onXfer_frame (by decide) .refl
  exact .ite (fun _ => requestReset_light hv) fun _ => hv

theorem gotPage_light {p : Nat} (h : LightBut l s) : LightBut l (gotPage p s) :=
  have hx := h.quiet (onXfer_frame (by decide) .refl)
  .ite (fun _ => gotBlock_light hx) fun _ => hx

theorem endSave_light : LightBut l (endSave s) := .dark rfl rfl

theorem recordEffect_light {r : Rec} (h : LightBut l s) : LightBut l (recordEffect r s) := by
  unfold recordEffect
  split
  case h_1 id last done =>
    have hc : LightBut l (commitPage r.page r.bytes s) := h.quiet (commitPage_frame (by decide) .refl)
    refine LightBut.quiet (.ite (fun _ => complete_frame (by decide) .refl) fun _ => .refl)
      (.ite (fun _ => gotPage_light hc) fun _ => hc)
  case h_2 id =>
    refine h.quiet (.after (.ite (fun _ => ?_) fun _ => .refl) (commitPage_frame (by decide) .refl))
    exact onSaf_frame (fun _ => rfl) (fun _ => rfl) (fun _ => rfl) (fun _ => rfl) (fun _ => rfl) (by decide) .refl
  case h_3 => exact h.quiet (setCal_frame (by decide) (commitPage_frame (by decide) .refl))
  case h_4 =>
    exact h.quiet (commitPage_frame (by decide) (onNvm_frame (fun _ => rfl) (fun _ => rfl) (by decide) .refl))
  case h_5 i last =>
    have hc : LightBut l (commitPage r.page r.bytes s) := h.quiet (commitPage_frame (by decide) .refl)
    exact .ite (fun _ => gotBlock_light hc) fun _ => hc
  case h_6 => exact setPower_light id id id (h.quiet (saveHalf_frame (by decide) .refl))
  case h_7 =>
    exact .ite (fun _ => endSave_light) fun _ => setPower_light id id id (h.quiet (copyLog_frame (by decide) .refl))
  case h_8 => exact chipReset_light
  case h_9 => exact h.quiet (copyLog_frame (by decide) .refl)

theorem recordDone_light (h : LightBut l s) : LightBut l (recordDone s) := by
  unfold recordDone
  split
  · exact h
  · exact .ite (fun _ => recordEffect_light (h.same rfl rfl rfl)) fun _ => h

end Reset

section Commands
variable {s : State}

/-! ### Power and reset -/

theorem execVinRisePor_lit (h : LightBut [] s) : Lit (execVinRisePor s) := when_lit h fun _ => .dark rfl rfl

theorem execPorRelease_lit {b r : Bool} (h : LightBut [] s) : Lit (execPorRelease b r s) :=
  when_lit h fun _ => release_light (setPower_light id id id h)

theorem execResetNRelease_lit {b : Bool} (h : LightBut [] s) : Lit (execResetNRelease b s) :=
  .next (release_light (setPower_light id id id h))

theorem execResetNLow_lit (h : LightBut [] s) : Lit (execResetNLow s) :=
  have hp := setPower_light (x := { s.power with pinLow := true }) id id id h
  .ite (fun _ => .next h) fun _ => when_lit hp fun _ => requestReset_light hp

theorem execResetNStuck_lit {b : Bool} (h : LightBut [] s) : Lit (execResetNStuck b s) :=
  when_lit h fun _ => release_light (setPower_light id id id h)

theorem execResetNHonoured_lit (h : LightBut [] s) : Lit (execResetNHonoured s) := when_lit h fun _ => setPower_light id id id h

theorem execVinSlow_lit (h : LightBut [] s) : Lit (execVinSlow s) :=
  when_lit h fun _ => (setPower_light id id id h).quiet (raise_frame (by decide) .refl)

theorem execSagDwell_lit (h : LightBut [] s) : Lit (execSagDwell s) := when_lit h fun _ => setPower_light id id id h

theorem execVinSlowRelease_lit (h : LightBut [] s) : Lit (execVinSlowRelease s) := .next (setPower_light id id id h)

theorem startSave_light {l : List Chan} (h : LightBut l s) : LightBut l (startSave s) := by
  unfold startSave
  extract_lets p j u
  have hu : LightBut l u := (setPower_light (x := { s.power with saveTiles := saveHeads s }) id id id h).quiet <|
    urgentRecs_frame (by decide) (setJournal_frame (by decide) .refl)
  exact .ite (fun _ => hu) fun _ => hu.quiet (stopFronds_frame (by decide) .refl)

theorem execSaveSequence_lit (h : LightBut [] s) : Lit (execSaveSequence s) :=
  when_lit h fun _ => startSave_light ((setPower_light id id id h).quiet (raise_frame (by decide) .refl))

theorem execSagRelease_lit {b : Bool} (h : LightBut [] s) : Lit (execSagRelease b s) :=
  when_lit h fun _ => release_light (setPower_light id (fun e => by simp at e) id h)

theorem execVinStop_lit (h : LightBut [] s) : Lit (execVinStop s) :=
  .next <| LightBut.quiet (tensOff_frame (by decide) .refl) (lightOff_light (h.both fun _ => rfl))

theorem execVinRemoval_lit : Lit (execVinRemoval s) := .next (.dark rfl rfl)

theorem execRailUndervoltage_lit {r : Rail} (h : LightBut [] s) : Lit (execRailUndervoltage r s) :=
  .next <| setPower_light id id id (.ite (fun _ => h) fun _ => chipReset_light)

theorem execVholdReady_lit (h : LightBut [] s) : Lit (execVholdReady s) := .next (vholdLevel_light h)

theorem execVholdReadyTimeout_lit (h : LightBut [] s) : Lit (execVholdReadyTimeout s) :=
  when_lit h fun _ => (setPower_light id id id h).quiet (condOn_frame (by decide) .refl)

theorem execVholdFall_lit (h : LightBut [] s) : Lit (execVholdFall s) :=
  when_lit h fun _ => (vholdLevel_light h).quiet (condOn_frame (by decide) .refl)

theorem execBuckPhase_lit {p : Fin 4} (h : LightBut [] s) : Lit (execBuckPhase p s) :=
  when_lit h fun _ => (setPower_light id id id h).quiet (raise_frame (by decide) .refl)

theorem execClockReferenceFail_lit {r : Ref} (h : LightBut [] s) : Lit (execClockReferenceFail r s) := by
  unfold execClockReferenceFail markRef
  split
  · exact .next <| (setPower_light id id id h).quiet (condOn_frame (by decide) .refl)
  · exact .next <| (setPower_light id id id h).quiet <|
      condOn_frame (by decide) (portLose_frame (by decide) (portLose_frame (by decide) .refl))
  · have hp := setPower_light (x := { s.power with perefOk := false, clkFailed := putBit s.power.clkFailed 2 true }) id id id h
    exact .next <| hp.quiet <| .after (.ite (fun _ => hostReset_frame (by decide) .refl) fun _ => .refl) (condOn_frame (by decide) .refl)

theorem execClockReferenceReturn_lit {r : Ref} (h : LightBut [] s) : Lit (execClockReferenceReturn r s) := by
  unfold execClockReferenceReturn markRef
  split
  · exact .next <| (setPower_light id id id h).quiet (condOff_frame (by decide) .refl)
  · exact .next <| (setPower_light id id id h).quiet (condOff_frame (by decide) (portsRestart_frame (by decide) .refl))
  · exact .next <| (setPower_light id id id h).quiet (condOff_frame (by decide) .refl)

theorem execPwrMonUpdate_lit {m : BitVec 16} {v : VholdSeen} (h : LightBut [] s) : Lit (execPwrMonUpdate m v s) :=
  .next (vholdLevel_light (setPower_light id id id h))

theorem execSwrstKey_lit {b : Bool} {v : BitVec 32} (h : LightBut [] s) : Lit (execSwrstKey b v s) :=
  when_lit h fun _ => requestReset_light h

theorem execNvmInhibitTrip_lit (h : LightBut [] s) : Lit (execNvmInhibitTrip s) :=
  when_lit h fun _ => (setPower_light (x := { s.power with inhibit := true, inhibitSeen := true }) id id id h).quiet <|
    inhibitEvent_frame (by decide) (raise_frame (by decide) (inhibitQueue_frame (by decide) .refl))

theorem execNvmInhibitRelease_lit (h : LightBut [] s) : Lit (execNvmInhibitRelease s) :=
  when_lit h fun _ => (setPower_light (x := { s.power with inhibit := false }) id id id h).quiet <|
    inhibitEvent_frame (by decide) (raise_frame (by decide) .refl)

theorem execThermalShutdown_lit (h : LightBut [] s) : Lit (execThermalShutdown s) :=
  when_lit h fun _ => LightBut.quiet (tensOff_frame (by decide) .refl) (lightOff_light (h.both fun _ => rfl))

theorem execNvmRecordComplete_lit {v : VholdSeen} (h : LightBut [] s) : Lit (execNvmRecordComplete s v) := by
  unfold execNvmRecordComplete
  split
  · exact .next h
  · have hd := recordDone_light h
    refine .ite (fun _ => .next h) fun _ => .ite (fun _ => .next (vholdLevel_light (setPower_light id id id hd))) fun _ =>
      .ite (fun _ => .next hd) fun _ => ?_
    split
    · exact .next chipReset_light
    · exact .next hd

theorem execArmReset_lit {id : Nat} (h : LightBut [] s) : Lit (execArmReset id s) :=
  runOp_lit h fun _ => .ite (fun _ => .ite (fun _ => requestReset_light <| h.quiet <|
      complete_frame (by decide) (onNvm_frame (fun _ => rfl) (fun _ => rfl) (by decide) .refl)) fun _ =>
    h.quiet (complete_frame (by decide) .refl)) fun _ => h

theorem execScheduledBoot_lit (h : LightBut [] s) : Lit (execScheduledBoot s) :=
  ifRuns_lit h <| when_lit h fun _ => requestReset_light h

theorem execFaultCollectorStart_lit (h : LightBut [] s) : Lit (execFaultCollectorStart s) :=
  ifRuns_lit h <| when_lit h fun _ => LightBut.quiet (clockConds_frame (by decide) <| portsRestart_frame (by decide) <|
    onFlt_frame (fun _ => rfl) (by decide) .refl) (setPower_light id id id h)

end Commands

section Channels
variable {l : List Chan} {s : State} {ch : Chan} {p : Pair}

/-! ### The safety channels -/

/-- A demand blocks the channel that learns of it and takes it low in one (R335). -/
theorem setDemand_light (h : LightBut l s) : LightBut l (setDemand ch p s) := by
  unfold setDemand
  refine sloOff_updChan_light (fun x => by cases p <;> exact id) ?_
  have hd := h.quiet (demandBegins_frame (p := p) (by decide) .refl)
  cases p
  · exact hd
  · exact onSaf_light (fun _ => .refl) (fun _ => .refl) (fun _ => id) hd

theorem sendSignal_light (h : LightBut l s) : LightBut l (sendSignal ch p s) :=
  updChan_light (fun _ => by cases p <;> exact ⟨id, id, id⟩) h

theorem endEstop_light (h : LightBut l s) : LightBut l (endEstop s) := by
  have hx : ∀ x : Channel, Eases x { x with demEstop := false, released := false } :=
    fun _ => ⟨id, by simp +contextual [chanPermit, chanBlocked], id⟩
  refine LightBut.quiet (condOff_frame (by decide) .refl) ?_
  exact onSaf_light (fun _ => hx _) (fun _ => hx _) (fun _ => id) h

/-- Before its self-test has ended a channel's output is low (R345). -/
theorem low_of_untested (h : LightBut [] s) (hd : (chanOf s ch).selftestDone = false) : (chanOf s ch).slo = false := by
  by_contra hs
  have hp := (ownPermit_iff.1 ((h ch).1 List.not_mem_nil (by simpa using hs))).1
  simp only [chanPermit, Bool.and_eq_true] at hp
  have := (h ch).2 hp.1.1.1.1
  simp [hd] at this

/-- The safety island outside its channels changes, and a set that was loaded stays loaded. -/
theorem onSaf_rest_light {f : Safety → Safety} (ha : ∀ k, (f k).a = k.a) (hb : ∀ k, (f k).b = k.b) (hs : ∀ k, k.src ≠ 0 → (f k).src ≠ 0)
    (h : LightBut l s) : LightBut l (onSaf f s) :=
  onSaf_light (fun k => ha k ▸ .refl) (fun k => hb k ▸ .refl) hs h

theorem loadSet_light (h : LightBut l s) : LightBut l (loadSet s) := by
  unfold loadSet
  refine .ite (fun _ => h) fun _ => ?_
  extract_lets u put
  have hu : LightBut l u := onSaf_rest_light (fun _ => rfl) (fun _ => rfl) (fun _ => id) h
  have hput : ∀ b c, LightBut l (put b 1 c) := fun _ _ => onSaf_rest_light (fun _ => rfl) (fun _ => rfl) (fun _ _ => by simp) hu
  split
  · exact .ite (fun _ => hput _ _) fun _ => hput _ _
  · exact hput _ _
  · exact hput _ _
  · split
    · exact LightBut.quiet (raise_frame (by decide) .refl) (onSaf_rest_light (fun _ => rfl) (fun _ => rfl) (fun _ _ => by simp) hu)
    · exact hu

/-- The self-test ends for a channel whose output is still low, and raises no output (R345). -/
theorem execSafetySelftest_lit {r : SelftestResult} (h : LightBut [] s) : Lit (execSafetySelftest ch r s) := by
  refine ifRuns_lit h <| when_lit h fun hw => ?_
  have hd : (chanOf s ch).selftestDone = false := by simp_all
  have hq : LightBut [] (selftestPulse ch (loadSet s)) := (loadSet_light h).quiet (selftestPulse_frame (by decide) .refl)
  have hs : (chanOf (selftestPulse ch (loadSet s)) ch).slo = false := by
    rw [SameBut.chanOf_eq (l := [.outputs, .safeSet, .safety, .faults])
      (selftestPulse_frame (by decide) (loadSet_frame (by decide) .refl)) ch]
    exact low_of_untested h hd
  refine LightBut.quiet (.ite (fun _ => .refl) fun _ => raise_frame (by decide) .refl) (LightBut.low (c := ch) ?_ ?_)
  · exact updChan_excused (fun _ _ _ => rfl) hq
  · rw [chanOf_updChan, if_pos rfl]
    exact hs

theorem execSafetyInputDemand_lit (h : LightBut [] s) : Lit (execSafetyInputDemand ch p s) :=
  have hx := updChan_light (c := ch) (fun _ => by cases p <;> exact ⟨id, id, id⟩) h
  ifRuns_lit h <| when_lit hx fun _ => sendSignal_light (setDemand_light hx)

theorem execDemandSignal_lit (h : LightBut [] s) : Lit (execDemandSignal ch p s) :=
  ifRuns_lit h <| when_lit h fun _ => setDemand_light (updChan_light (fun _ => by cases p <;> exact ⟨id, id, id⟩) h)

/-- The channel is low before its discrepancy is latched, so the latch takes no permit from a high output (R336). -/
theorem execSafDisc_lit (h : LightBut [] s) : Lit (execSafDisc ch p s) := by
  refine ifRuns_lit h <| when_lit h fun _ => LightBut.quiet (condOn_frame (by decide) .refl) (LightBut.low (c := ch) ?_ ?_)
  · exact updChan_excused (fun _ => by cases p <;> exact id) (sendSignal_light (setDemand_light h))
  · have hlow : (chanOf (setDemand ch p s) ch).slo = false := sloOff_self _ _
    have hother : ch ≠ otherChan ch := by cases ch <;> decide
    rw [chanOf_updChan, if_pos rfl, sendSignal, chanOf_updChan, if_neg hother]
    cases p <;> exact hlow

theorem execDiscrepancyClear_lit (h : LightBut [] s) : Lit (execDiscrepancyClear ch p s) := by
  refine ifRuns_lit h <| .next <| LightBut.quiet (.ite (fun _ => condOff_frame (by decide) .refl) fun _ => .refl) ?_
  cases p <;> exact updChan_light (fun _ => ⟨id, by simp +contextual [chanPermit, chanBlocked], id⟩)
    (onSaf_light (fun _ => ⟨id, id, id⟩) (fun _ => ⟨id, id, id⟩) (fun _ => id) h)

theorem execDemandEnd_lit (h : LightBut [] s) : Lit (execDemandEnd ch p s) := by
  unfold execDemandEnd
  refine ifRuns_lit h ?_
  extract_lets u x
  have hu : LightBut [] u := by
    cases p <;> exact onSaf_light (fun _ => ⟨id, id, id⟩) (fun _ => ⟨id, id, id⟩) (fun _ => id) h
  cases p
  case hatch =>
    have hx := updChan_light (c := ch) (f := fun x => { x with demHatch := false })
      (fun _ => ⟨id, by simp +contextual [chanPermit, chanBlocked], id⟩) hu
    have hc := hx.quiet (condOff_frame (slot := 488) (by decide) .refl)
    exact .ite (fun _ => .next hu) fun _ => .ite (fun _ => .next hx) fun _ => .next (.ite (fun _ => endEstop_light hc) fun _ => hc)
  case estop =>
    have hx := updChan_light (c := ch) (f := fun x => { x with released := true }) (fun _ => ⟨id, id, id⟩) hu
    exact .ite (fun _ => .next hu) fun _ => .next (.ite (fun _ => .ite (fun _ => endEstop_light hx) fun _ =>
      hx.quiet (awaitRestart_frame (by decide) .refl)) fun _ => hx)

/-- The outputs rise together, and only where both channels permit (R333). -/
theorem exchange_light {agree : Bool} (h : LightBut [] s) : LightBut [] (exchange agree s) := by
  have hseen : ∀ x, Eases x (linkSeen agree x) := fun _ => ⟨id, by simp +contextual [chanPermit, linkSeen, chanBlocked], id⟩
  have hs := onSaf_light (f := fun f => { f with a := linkSeen agree f.a, b := linkSeen agree f.b })
    (fun k => hseen k.a) (fun k => hseen k.b) (fun _ => id) h
  refine LightBut.ite (fun hp => ?_) fun _ => lightOff_kept hs
  rw [Bool.and_eq_true] at hp
  intro c
  cases c
  · exact ⟨fun _ _ => hp.1, (hs .a).2⟩
  · exact ⟨fun _ _ => hp.2, (hs .b).2⟩

theorem execCrossLinkExchange_lit {agree : Bool} (h : LightBut [] s) : Lit (execCrossLinkExchange s agree) :=
  ifRuns_lit h (.next (exchange_light h))

theorem execCrossLinkLoss_lit (h : LightBut [] s) : Lit (execCrossLinkLoss ch s) :=
  ifRuns_lit h <| .next <| LightBut.quiet (raise_frame (by decide) .refl) (sloOff_updChan_light (fun _ => id) h)

theorem execCrossLinkDisagree_lit (h : LightBut [] s) : Lit (execCrossLinkDisagree ch s) :=
  ifRuns_lit h <| .next <| LightBut.quiet (raise_frame (by decide) .refl) (sloOff_updChan_light (fun _ => id) h)

theorem execInputTestPulse_lit (h : LightBut [] s) : Lit (execInputTestPulse ch s) :=
  ifRuns_lit h <| when_lit h fun _ => LightBut.quiet (emit_frame (by decide) .refl) (updChan_light (fun _ => ⟨id, id, id⟩) h)

theorem execSafTpi_lit {e : EchoSeen} (h : LightBut [] s) : Lit (execSafTpi ch e s) := by
  refine ifRuns_lit h <| when_lit h fun _ => ?_
  have hx := updChan_light (c := ch) (f := fun x => { x with inTest := false, tp := pairOn s .estop, estop := x.estop && e.returned })
    (fun _ => ⟨id, id, id⟩) h
  exact .ite (fun _ => onSaf_rest_light (fun _ => rfl) (fun _ => rfl) (fun _ => id) hx) fun _ =>
    .ite (fun _ => LightBut.quiet (raise_frame (by decide) .refl) (onSaf_rest_light (fun _ => rfl) (fun _ => rfl) (fun _ => id) hx))
      fun _ => hx

theorem execOutputTestPulse_lit (h : LightBut [] s) : Lit (execOutputTestPulse ch s) :=
  ifRuns_lit h <| when_lit h fun _ => LightBut.quiet (emit_frame (by decide) .refl) (updChan_light (fun _ => ⟨id, id, id⟩) h)

theorem execOutputTestVerdict_lit {a b : Bool} (h : LightBut [] s) : Lit (execOutputTestVerdict ch a b s) := by
  refine ifRuns_lit h <| when_lit h fun _ => ?_
  have hx := updChan_light (c := ch) (f := fun x => { x with outTest := false, outDiscard := false }) (fun _ => ⟨id, id, id⟩) h
  exact .ite (fun _ => onSaf_rest_light (fun _ => rfl) (fun _ => rfl) (fun _ => id) hx) fun _ =>
    .ite (fun _ => updChan_light (fun _ => ⟨id, id, id⟩) hx) fun _ => LightBut.quiet (raise_frame (by decide) .refl)
      (onSaf_rest_light (fun _ => rfl) (fun _ => rfl) (fun _ => id) (updChan_light (fun _ => ⟨id, id, id⟩) hx))

theorem execFeedbackCheck_lit {b : Bool} (h : LightBut [] s) : Lit (execFeedbackCheck ch b s) :=
  ifRuns_lit h <| .ite (fun _ => .next h) fun _ => .next <| LightBut.quiet
    (.ite (fun _ => .ite (fun _ => condOff_frame (by decide) .refl) fun _ => condOn_frame (by decide) .refl) fun _ => .refl)
    (updChan_light (fun _ => ⟨id, id, id⟩) h)

theorem egTrip_light {n : Nat} {w : Option (Nat × Nat × Nat × Nat)} (h : LightBut l s) : LightBut l (egTrip ch n w s) := by
  cases w with
  | none => exact h
  | some w =>
    have hr : LightBut (ch :: l) (egRecord ch n w s) := (h.mono fun _ => List.mem_cons_of_mem _).quiet (egRecord_frame (by decide) .refl)
    exact LightBut.quiet (raise_frame (by decide) .refl) (sloOff_light hr)

theorem execEgDiverse_lit {n : Fin 8} {r : List StripRet} (h : LightBut [] s) : Lit (execEgDiverse ch n r s) :=
  ifRuns_lit h <| .next <| egTrip_light <| h.quiet (egKeep_frame (by decide) .refl)

theorem execSafetySetInForce_lit (h : LightBut [] s) : Lit (execSafetySetInForce s) := by
  have htp : ∀ {u : State}, LightBut [] u → LightBut [] (tpFollows u) :=
    onSaf_light (fun _ => ⟨id, id, id⟩) (fun _ => ⟨id, id, id⟩) (fun _ => id)
  unfold execSafetySetInForce
  refine ifRuns_lit h ?_
  split
  · dsimp only
    split
    · exact .next h
    · exact .next <| LightBut.quiet (complete_frame (by decide) .refl) <|
        htp (onSaf_rest_light (fun _ => rfl) (fun _ => rfl) (fun _ _ => by simp) h)
  · exact .next h

theorem execSevereLineBroken_lit {b : Bool} (h : LightBut [] s) : Lit (execSevereLineBroken s b) := by
  refine ifRuns_lit h <| .next ?_
  cases b
  · exact updChan_light (f := fun x => { x with severeLine := false }) (fun _ => ⟨id, by simp +contextual [chanPermit, chanBlocked], id⟩) h
  · exact sloOff_updChan_light (fun _ => id) h

/-! ### The fault collector -/

theorem execFaultSourceEvent_lit {ns : List (Fin 512)} (h : LightBut [] s) : Lit (execFaultSourceEvent ns s) :=
  ifRuns_lit h <| when_lit h fun _ => acceptLines_light _ h

theorem execFltWire_lit {n : Fin 512} {b : Bool} (h : LightBut [] s) : Lit (execFltWire n b s) := by
  refine ifRuns_lit h <| when_lit h fun _ => ?_
  extract_lets inj u old v w new x y
  have hu : LightBut [] u := h.quiet (takeInj_frame (by decide) .refl)
  have hv : LightBut [] v := putSlot_light id hu
  have hx : LightBut [] x := hv.quiet <| logEntry_frame (by decide) <| raiseInj_frame (by decide) <|
    .ite (fun _ => .refl) fun _ => onFlt_frame (fun _ => rfl) (by decide) .refl
  have hy : LightBut [] y := countEvent_light hx
  exact .ite (fun _ => putSlot_light id hy) fun _ => hy

theorem execWindowExpiry_lit {n : Fin 512} (h : LightBut [] s) : Lit (execWindowExpiry n s) :=
  ifRuns_lit h <| when_lit h fun _ => putSlot_light id h

theorem execFaultAck_lit {id : Nat} (h : LightBut [] s) : Lit (execFaultAck id s) := by
  refine runOp_lit h fun d => ?_
  have hc : ∀ ns st, LightBut [] (complete id st [] (ackSlots ns s).2) :=
    fun ns _ => (ackSlots_light ns h).quiet (complete_frame (by decide) .refl)
  exact .ite (fun _ => endEstop_light (hc _ _)) fun _ => hc _ _

end Channels

section Registers
variable {l : Bool} {o v : Nat} {s : State}

/-! ### Register writes -/

theorem writePwr_lit (h : LightBut [] s) : Lit (writePwr l o v s) := by
  unfold writePwr
  dsimp only
  split
  · exact .next (setPower_light id id id h)
  · exact .next (setPower_light id id id h)
  · exact execSwrstKey_lit h
  · exact .next (setPower_light id id id h)
  · exact .next h

theorem writeSq_lit {n : Fin 32} (h : LightBut [] s) : Lit (writeSq l n o v s) := by
  unfold writeSq
  dsimp only
  split
  case h_3 => exact .ite (fun _ => execSqEnable_goes.lit h) fun _ => execSqDrain_goes.lit h
  all_goals (repeat' split) <;> exact .next (h.same rfl rfl rfl)

theorem writeCq_lit {n : Fin 32} (h : LightBut [] s) : Lit (writeCq l n o v s) := by
  unfold writeCq
  dsimp only
  split
  case h_3 => exact .ite (fun _ => execCqEnable_goes.lit h) fun _ => execCqDisable_goes.lit h
  all_goals (repeat' split) <;> exact .next (h.same rfl rfl rfl)

theorem writeHif_lit (h : LightBut [] s) : Lit (writeHif l o v s) := by
  unfold writeHif
  refine .ite (fun _ => writeSq_lit h) fun _ => .ite (fun _ => writeCq_lit h) fun _ => ?_
  (repeat' split)
  case h_1 => exact execApply_goes.lit h
  all_goals exact .next (h.same rfl rfl rfl)

theorem writeCmp_lit (h : LightBut [] s) : Lit (writeCmp l o v s) := by
  unfold writeCmp
  dsimp only
  (repeat' split) <;> exact .next (h.same rfl rfl rfl)

theorem writeFrm_lit (h : LightBut [] s) : Lit (writeFrm o v s) := by
  unfold writeFrm
  dsimp only
  split <;> exact .next (h.same rfl rfl rfl)

theorem writeFrd_lit {f : Nat} (h : LightBut [] s) : Lit (writeFrd l f o v s) := by
  unfold writeFrd
  dsimp only
  split
  case h_5 => exact .next (.ite (fun _ => h.quiet (writeDiagCfg_frame (by decide) .refl)) fun _ => h)
  all_goals (repeat' split) <;> exact .next (h.same rfl rfl rfl)

theorem writeStr_lit (h : LightBut [] s) : Lit (writeStr o v s) := .next (.ite (fun _ => h.same rfl rfl rfl) fun _ => h)

theorem writeTil_lit {n : Nat} (h : LightBut [] s) : Lit (writeTil n o v s) := .next (.ite (fun _ => h.same rfl rfl rfl) fun _ => h)

theorem writeLdg_lit (h : LightBut [] s) : Lit (writeLdg l o v s) := by
  unfold writeLdg
  split
  case h_1 => exact .next (.ite (fun _ => h.quiet (writeLdgCtrl_frame (by decide) .refl)) fun _ => h)
  all_goals exact .next (h.same rfl rfl rfl)

theorem writeSaf_lit (h : LightBut [] s) : Lit (writeSaf l o v s) := by
  unfold writeSaf
  split
  case h_1 => exact execSafeLock_goes.lit h
  case h_6 => exact .next h
  all_goals exact .next (onSaf_rest_light (fun _ => rfl) (fun _ => rfl) (fun _ => id) h)

/-- Neither the configuration nor the counters of a slot touch its unacknowledged faults (R391). -/
theorem writeFlt_lit (h : LightBut [] s) : Lit (writeFlt l o v s) := by
  unfold writeFlt
  refine .ite (fun _ => .ite (fun _ => .next h) fun _ => ?_) fun _ => ?_
  · split
    · exact .next (.ite (fun _ => putSlot_light id h) fun _ => h)
    · exact .next (putSlot_light id h)
    · exact .next h
  · split
    case h_1 => exact execRearm_goes.lit h
    all_goals exact .next (h.same rfl rfl rfl)

theorem writeCal_lit (h : LightBut [] s) : Lit (writeCal l o v s) := by
  unfold writeCal
  dsimp only
  split <;> exact .next (h.same rfl rfl rfl)

theorem writeThm_lit (h : LightBut [] s) : Lit (writeThm l o v s) := by
  unfold writeThm
  refine .ite (fun _ => .next (.ite (fun _ => h.same rfl rfl rfl) fun _ => h)) fun _ => ?_
  split
  · exact .next (h.same rfl rfl rfl)
  · exact execUnfreeze_goes.lit h
  · exact .next (setPower_light id id id h)
  · exact .next h

theorem writePort_lit {p : Fin 2} (h : LightBut [] s) : Lit (writePort l p o v s) := by
  unfold writePort
  dsimp only
  refine .ite (fun _ => .next (.ite (fun _ => h.quiet (putCred_frame (by decide) .refl)) fun _ => h)) fun _ => ?_
  split
  case h_1 =>
    exact .ite (fun _ => execRetrain_goes.lit h) fun _ => .ite (fun _ => execPortEnable_goes.lit h) fun _ => execPortDisable_goes.lit h
  all_goals exact .next (h.same rfl rfl rfl)

theorem writeChn_lit (h : LightBut [] s) : Lit (writeChn l o v s) := by
  have hc : ∀ f, LightBut [] (onChain f s) := fun _ => h.same rfl rfl rfl
  unfold writeChn
  refine .ite (fun _ => writePort_lit h) fun _ => .ite (fun _ => .next (.ite (fun _ => hc _) fun _ => h)) fun _ =>
    .ite (fun _ => .next (.ite (fun _ => hc _) fun _ => h)) fun _ => .ite (fun _ => .next (h.same rfl rfl rfl)) fun _ => ?_
  split
  case h_2 | h_3 => exact .next (.ite (fun _ => hc _) fun _ => h)
  case h_7 => exact .next h
  all_goals exact .next (hc _)

theorem writeTim_lit (h : LightBut [] s) : Lit (writeTim l o v s) := by
  unfold writeTim
  split
  case h_2 | h_3 => exact execDomainEnWrite_goes.lit h
  all_goals (repeat' split) <;> exact .next (h.same rfl rfl rfl)

theorem writeNvm_lit (h : LightBut [] s) : Lit (writeNvm l o v s) := by
  unfold writeNvm
  split <;> exact .next (h.same rfl rfl rfl)

theorem writeCrc_lit (h : LightBut [] s) : Lit (writeCrc l o v s) := .next (.ite (fun _ => h.same rfl rfl rfl) fun _ => h)

theorem writeReg_lit (h : LightBut [] s) : Lit (writeReg l o v s) :=
  .ite (fun _ => .next h) fun _ => .ite (fun _ => writeHif_lit h) fun _ => .ite (fun _ => .next h) fun _ =>
    .ite (fun _ => writeCmp_lit h) fun _ => .ite (fun _ => writeFrm_lit h) fun _ => .ite (fun _ => writeFrd_lit h) fun _ =>
    .ite (fun _ => .next h) fun _ => .ite (fun _ => writeStr_lit h) fun _ => .ite (fun _ => writeTil_lit h) fun _ =>
    .ite (fun _ => .next h) fun _ => .ite (fun _ => writeLdg_lit h) fun _ => .ite (fun _ => writeSaf_lit h) fun _ =>
    .ite (fun _ => writeFlt_lit h) fun _ => .ite (fun _ => writeCal_lit h) fun _ => .ite (fun _ => writeThm_lit h) fun _ =>
    .ite (fun _ => writeChn_lit h) fun _ => .ite (fun _ => writeTim_lit h) fun _ => .ite (fun _ => writeNvm_lit h) fun _ =>
    .ite (fun _ => writeCrc_lit h) fun _ => .ite (fun _ => writePwr_lit h) fun _ => .next h

theorem writeWord_lit {w : BitVec 32} {e : BitVec 4} (h : LightBut [] s) : Lit (writeWord o w e s) :=
  .ite (fun _ => writeReg_lit h) fun _ => .next h

theorem execRegisterWrite_lit {w : BitVec 32} {e : BitVec 4} {hi : Option (BitVec 32 × BitVec 4)} (h : LightBut [] s) :
    Lit (execRegisterWrite o w s e hi) := by
  unfold execRegisterWrite
  refine ifRuns_lit h <| .ite (fun _ => ?_) fun _ => .next h
  obtain ⟨t, ht, -⟩ := writeWord_goes (off := o) (value := w) (enables := e) (s := s)
  have hl := writeWord_lit h t ht
  rw [ht]
  cases hi with
  | none => exact .next hl
  | some x => exact writeWord_lit hl

end Registers

/-! ### All commands -/

/-- A command writes nothing that the light invariant reads. -/
def writesQuiet (c : Instr) : Bool := (touches c).all fun p => quietParts.contains p

theorem exec_lit_of_writesQuiet {c : Instr} {s : State} (hq : writesQuiet c = true) (h : LightBut [] s) : Lit (exec c s) :=
  (exec_goes c s).lit h (by simpa [writesQuiet] using hq)

/-- Every command keeps the light invariant. -/
theorem exec_lit (c : Instr) {s : State} (h : LightBut [] s) : Lit (exec c s) := by
  by_cases hq : writesQuiet c = true
  · exact exec_lit_of_writesQuiet hq h
  cases c
  case vinRisePor => exact execVinRisePor_lit h
  case porRelease => exact execPorRelease_lit h
  case resetNRelease => exact execResetNRelease_lit h
  case resetNLow => exact execResetNLow_lit h
  case resetNStuck => exact execResetNStuck_lit h
  case resetNHonoured => exact execResetNHonoured_lit h
  case vinSlow => exact execVinSlow_lit h
  case sagDwell => exact execSagDwell_lit h
  case vinSlowRelease => exact execVinSlowRelease_lit h
  case saveSequence => exact execSaveSequence_lit h
  case sagRelease => exact execSagRelease_lit h
  case vinStop => exact execVinStop_lit h
  case vinRemoval => exact execVinRemoval_lit
  case railUndervoltage => exact execRailUndervoltage_lit h
  case vholdReady => exact execVholdReady_lit h
  case vholdReadyTimeout => exact execVholdReadyTimeout_lit h
  case vholdFall => exact execVholdFall_lit h
  case buckPhase => exact execBuckPhase_lit h
  case clockReferenceFail => exact execClockReferenceFail_lit h
  case clockReferenceReturn => exact execClockReferenceReturn_lit h
  case pwrMonUpdate => exact execPwrMonUpdate_lit h
  case swrstKey => exact execSwrstKey_lit h
  case nvmInhibitTrip => exact execNvmInhibitTrip_lit h
  case nvmInhibitRelease => exact execNvmInhibitRelease_lit h
  case thermalShutdown => exact execThermalShutdown_lit h
  case nvmRecordComplete => exact execNvmRecordComplete_lit h
  case armReset => exact execArmReset_lit h
  case scheduledBoot => exact execScheduledBoot_lit h
  case faultCollectorStart => exact execFaultCollectorStart_lit h
  case safetySelftest => exact execSafetySelftest_lit h
  case safetyInputDemand => exact execSafetyInputDemand_lit h
  case demandSignal => exact execDemandSignal_lit h
  case safDisc => exact execSafDisc_lit h
  case discrepancyClear => exact execDiscrepancyClear_lit h
  case demandEnd => exact execDemandEnd_lit h
  case crossLinkExchange => exact execCrossLinkExchange_lit h
  case crossLinkLoss => exact execCrossLinkLoss_lit h
  case crossLinkDisagree => exact execCrossLinkDisagree_lit h
  case inputTestPulse => exact execInputTestPulse_lit h
  case safTpi => exact execSafTpi_lit h
  case outputTestPulse => exact execOutputTestPulse_lit h
  case outputTestVerdict => exact execOutputTestVerdict_lit h
  case feedbackCheck => exact execFeedbackCheck_lit h
  case egDiverse => exact execEgDiverse_lit h
  case safetySetInForce => exact execSafetySetInForce_lit h
  case severeLineBroken => exact execSevereLineBroken_lit h
  case faultSourceEvent => exact execFaultSourceEvent_lit h
  case fltWire => exact execFltWire_lit h
  case windowExpiry => exact execWindowExpiry_lit h
  case faultAck => exact execFaultAck_lit h
  case registerWrite => exact execRegisterWrite_lit h
  all_goals exact absurd rfl hq

theorem idle_light {l : List Chan} {s : State} (h : LightBut l s) : LightBut l (idle s) := h.quiet (idle_frame (by decide) .refl)

/-- Settles O53: the front command keeps the invariant, and so does a clock on an empty queue. -/
theorem lightInvKept : Obligations.LightInvKept := by
  intro s t hs hstep
  have h : LightBut [] s := lightBut_nil.2 hs
  refine lightBut_nil.1 ?_
  cases hp : s.pending with
  | nil =>
    rw [step_idle hp] at hstep
    exact Lit.next (idle_light h) t hstep
  | cons c r =>
    rw [step_front hp] at hstep
    have hr : LightBut [] { s with pending := r } := h.same rfl rfl rfl
    exact exec_lit c hr t hstep

end Sys2Proof.Machine
end

section
/-! Power, resets and clocks: what a chip reset leaves behind, what lets the chip go, and with these the commands of Lichen (02). -/

set_option autoImplicit false
-- One declaration after the other: the text as one file holds many.
set_option Elab.async false

namespace Sys2Proof.Machine

/-! ### Commands that complete -/

/-- The frame of a command whose next state is known. -/
theorem exec_frame {c : Instr} {s t : State} (h : exec c s = .next t) : SameBut (touches c) s t := by
  obtain ⟨u, hu, hf⟩ := exec_goes c s
  rw [h] at hu
  cases hu
  exact hf

/-- A command completes within its parts, whatever else is said of its next state. -/
theorem Yields.framed {c : Instr} {s : State} {P : State → Prop} (h : Yields c s fun t => SameBut (touches c) s t → P t) : Yields c s P := by
  obtain ⟨t, ht, hp⟩ := h
  exact ⟨t, ht, hp (exec_frame ht)⟩

/-- An event whose condition holds has its effect. -/
theorem when_yields {b : Bool} {f : State → State} {s : State} {P : State → Prop} (h : b = true) (hp : P (f s)) :
    ∃ t, when_ b f s = .next t ∧ P t :=
  ⟨f s, by simp [when_, h], hp⟩

/-- An event whose condition does not hold has none. -/
theorem when_fails {b : Bool} {f : State → State} {s : State} (h : b = false) : when_ b f s = .next s := by
  simp [when_, h]

/-! ### Fault lines -/

/-- A condition that begins drives its line (R374). -/
theorem condOn_drives {n : Nat} {s : State} (h : ¬ Lasts n s) : Drives n (condOn n s) := by
  unfold Lasts at h
  unfold condOn
  rw [if_neg h]
  exact raise_drives _ _

/-! ### The chip reset -/

section Reset
variable {c : Cause} {s t u : State}

theorem nvmBusy_eq_false_iff : nvmBusy s = false ↔ s.nvm.queue = [] := by simp [nvmBusy]

theorem nvmBusy_eq_true_iff : nvmBusy s = true ↔ s.nvm.queue ≠ [] := by simp [nvmBusy]

/-- Boot values are those of the pages. -/
theorem loadBoot_congr (h : t.nvm.pages = s.nvm.pages) : loadBoot t = loadBoot s := by
  simp only [loadBoot, h]

/-- The ledger at a reset is that of the journal and the tiles. -/
theorem ledgerAtReset_congr (hj : t.journal = s.journal) (ht : t.tiles = s.tiles) : ledgerAtReset c t = ledgerAtReset c s := by
  unfold ledgerAtReset tileOf
  rw [hj, ht]

theorem chipReset_restarted : Restarted c s (chipReset c s) where
  boot := rfl
  host := ⟨rfl, rfl, rfl, rfl⟩
  light := ⟨rfl, rfl, rfl⟩
  watch := ⟨rfl, rfl, rfl, rfl⟩
  net := ⟨rfl, rfl⟩
  journal := rfl
  kept := ⟨rfl, rfl, rfl, rfl, rfl, rfl⟩
  queue := rfl

/-- Lichen's own record is none of what a chip reset leaves of the islands. -/
theorem Restarted.setPower {x : Power} (h : Restarted c s t) : Restarted c s { t with power := x } :=
  ⟨h.boot, h.host, h.light, h.watch, h.net, h.journal, h.kept, h.queue⟩

/-- What a chip reset leaves does not depend on Lichen, the rings and the firmware marks before it. -/
theorem Restarted.from (h : Restarted c u t) (k : SameBut [.power, .rings, .nvm] s u) (hq : u.nvm.queue = s.nvm.queue) :
    Restarted c s t := by
  obtain ⟨boot, host, light, watch, net, journal, kept, queue⟩ := h
  have hn := k.parts .pages (by decide)
  have hb : loadBoot u = loadBoot s := loadBoot_congr hn.1
  rw [k.cmp_eq] at host
  rw [hb, k.tiles_eq] at light
  rw [hb] at watch net
  rw [hn.1, hn.2, k.outputs_eq, k.lanes_eq, k.freeCtr_eq, k.queue] at kept
  exact ⟨boot.trans hb, host, light, watch, net, journal.trans (ledgerAtReset_congr k.journal_eq k.tiles_eq), kept, queue.trans (by rw [hq])⟩

theorem chipReset_power : (chipReset c s).power = { s.power with
    held := holds s.power, rstPend := [], causes := causeBits (c :: s.power.rstPend) s.power.causes
    shedEn := true, vholdWaived := false, vholdSeen := s.power.vholdRdy } := rfl

/-- With no record in progress a reset is made at once (R54 R57). -/
theorem requestReset_now (h : s.nvm.queue = []) : requestReset c s = chipReset c s :=
  if_neg (by simp [nvmBusy, h])

/-- A reset waits for a record in progress, behind any other that waits (R54 R57). -/
theorem requestReset_waits (h : s.nvm.queue ≠ []) :
    requestReset c s = { s with power := { s.power with rstPend := s.power.rstPend ++ [c] } } :=
  if_pos (nvmBusy_eq_true_iff.2 h)

end Reset

/-! ### The reset release -/

section Release
variable {b : Bool} {s : State}

/-- A chip that nothing holds any more is released (R36 R49 R55). -/
theorem release_free (hh : s.power.held = true) (h : holds s.power = false) : (release_ b s).power = { s.power with
    held := false, svcEn := !b, clkreqLow := true, vholdSeen := s.power.vholdRdy } := by
  unfold release_
  rw [if_pos (by simp [hh, h])]

/-- A chip that something holds stays held. -/
theorem release_held (h : holds s.power = true) : release_ b s = s := if_neg (by simp [h])

/-- A release writes of Lichen's record no more than the hold and what is sampled with it. -/
theorem release_power : (release_ b s).power = { s.power with
    held := (release_ b s).power.held, svcEn := (release_ b s).power.svcEn
    clkreqLow := (release_ b s).power.clkreqLow, vholdSeen := (release_ b s).power.vholdSeen } := by
  unfold release_
  split <;> rfl

/-- Where nothing but the pin can hold the chip, the pin decides (R36). -/
theorem release_byPin {high : Bool} (hh : s.power.held = true) (hpin : s.power.pinLow = !high) (hi : s.power.pinIgnored = false)
    (hp : s.power.por = false) (hl : s.power.thermLatch = false) (ha : s.power.awaitVin = false) (hs : s.power.saving = false) :
    (release_ b s).power.held = !high
      ∧ (high = true → (release_ b s).power.svcEn = !b ∧ (release_ b s).power.clkreqLow = true) := by
  cases high
  · rw [release_held (by simp [holds, hpin, hi])]
    exact ⟨hh, nofun⟩
  · rw [release_free hh (by simp [holds, hpin, hp, hl, ha, hs])]
    exact ⟨rfl, fun _ => ⟨rfl, rfl⟩⟩

end Release

/-! ### The power-on reset and the releases -/

section PowerOn
variable {s : State} {b : Bool}

theorem vinRisePor_yields (hs : s.power.saving = false) (ha : s.power.awaitVin = false) :
    Yields .vinRisePor s fun t => Restarted .por s t ∧ t.power = { s.power with
      held := true, por := true, pump := false, rstPend := [], vstop := false, shedEn := true, vholdWaived := false
      vholdSeen := false, sagOwed := false
      causes := if s.power.sagOwed then causeBits (.por :: s.power.rstPend) s.power.causes ||| 8
        else causeBits (.por :: s.power.rstPend) s.power.causes } := by
  show ∃ t, execVinRisePor s = .next t ∧ _
  refine when_yields (by simp [hs, ha]) ⟨Restarted.setPower ?_, rfl⟩
  exact chipReset_restarted.from (setPower_frame (by decide) .refl) rfl

/-- The pump starts at the release of the power-on reset, whatever `RESET_N` shows; the chip goes on only with it high (R36). -/
theorem porRelease_yields {high : Bool} (hp : s.power.por = true) :
    Yields (.porRelease b high) s fun t => t.power.por = false ∧ t.power.pump = true ∧ t.power.pinLow = !high
        ∧ (s.power.held = true → s.power.pinIgnored = false → s.power.thermLatch = false → s.power.awaitVin = false →
            s.power.saving = false →
            t.power.held = !high ∧ (high = true → t.power.svcEn = !b ∧ t.power.clkreqLow = true))
        ∧ t.power.causes = s.power.causes ∧ SameBut [.power] s t := by
  refine .framed <| show ∃ t, execPorRelease b high s = .next t ∧ _ from
    when_yields hp fun hf => ⟨?_, ?_, ?_, fun hh hi hl ha hs => ?_, ?_, hf⟩
  iterate 3 · rw [release_power]
  · exact release_byPin hh rfl hi rfl hl ha hs
  · rw [release_power]

theorem resetNRelease_yields (hh : s.power.held = true) (hp : s.power.por = false) (hl : s.power.thermLatch = false)
    (ha : s.power.awaitVin = false) (hs : s.power.saving = false) :
    Yields (.resetNRelease b) s fun t => t.power = { s.power with
        pinLow := false, held := false, svcEn := !b, clkreqLow := true, vholdSeen := s.power.vholdRdy } ∧ SameBut [.power] s t :=
  .framed ⟨_, rfl, fun hf => ⟨release_free hh (by simp [holds, hp, hl, ha, hs]), hf⟩⟩

theorem resetNStuck_yields (hpin : s.power.pinLow = true) (hi : s.power.pinIgnored = false) (hp : s.power.por = false)
    (hs : s.power.saving = false) (hh : s.power.held = true) (hl : s.power.thermLatch = false) (ha : s.power.awaitVin = false) :
    Yields (.resetNStuck b) s fun t => t.power = { s.power with
        rstStuck := true, pinIgnored := true, causes := s.power.causes ||| 4, held := false, svcEn := !b, clkreqLow := true
        vholdSeen := s.power.vholdRdy } ∧ SameBut [.power] s t :=
  .framed <| show ∃ t, execResetNStuck b s = .next t ∧ _ from
    when_yields (by simp [hpin, hi, hp]) fun hf => ⟨release_free hh (by simp [holds, hp, hl, ha, hs]), hf⟩

theorem resetNHonoured_yields (hi : s.power.pinIgnored = true) :
    Yields .resetNHonoured s fun t => t.power = { s.power with pinIgnored := false, pinLow := false } ∧ SameBut [.power] s t :=
  show ∃ t, execResetNHonoured s = .next t ∧ _ from when_yields hi ⟨rfl, setPower_frame (by decide) .refl⟩

theorem sagRelease_yields (ha : s.power.awaitVin = true) (hh : s.power.held = true) (hp : s.power.por = false)
    (hpin : s.power.pinLow = false ∨ s.power.pinIgnored = true) (hl : s.power.thermLatch = false) (hs : s.power.saving = false) :
    Yields (.sagRelease b) s fun t => t.power = { s.power with
        awaitVin := false, sagStage := 0, vstop := false, causes := s.power.causes ||| 8, held := false, svcEn := !b
        clkreqLow := true, vholdSeen := s.power.vholdRdy } ∧ SameBut [.power] s t := by
  refine .framed <| show ∃ t, execSagRelease b s = .next t ∧ _ from when_yields ha fun hf => ⟨release_free hh ?_, hf⟩
  rcases hpin with h | h <;> simp [holds, hp, h, hl, hs]

end PowerOn

/-- Settles O4: the power-on reset is a chip reset that Lichen goes on holding, and each release frees a chip that nothing else holds. -/
theorem powerOnAndRelease : Obligations.PowerOnAndRelease :=
  ⟨fun _ => vinRisePor_yields, fun _ _ _ => porRelease_yields, fun _ _ => resetNRelease_yields, fun _ _ => resetNStuck_yields,
    fun _ => resetNHonoured_yields, fun _ _ => sagRelease_yields⟩

/-! ### Resets that are asked for -/

section Asked
variable {s : State}

/-- The pin's reset is asked for with the low noted (R54). -/
theorem resetNLow_asks (hi : s.power.pinIgnored = false) (hs : s.power.saving = false) (ha : s.power.awaitVin = false)
    (hl : s.power.thermLatch = false) (hp : s.power.por = false) :
    exec .resetNLow s = .next (requestReset .pin { s with power := { s.power with pinLow := true } }) := by
  simp [exec, execResetNLow, when_, hi, hs, ha, hl, hp]

/-- The key from level 0 asks for a chip reset (R57 R65). -/
theorem swrstKey_asks {v : BitVec 32} (hb : barOpen s = true) (hv : v.toNat % 65536 = 0xA5C3) :
    exec (.swrstKey true v) s = .next (requestReset .soft s) := by
  simp [exec, execSwrstKey, when_, bits, hb, hv]

theorem swrstKey_ignored {l : Bool} {v : BitVec 32} (h : l = false ∨ v.toNat % 65536 ≠ 0xA5C3) : exec (.swrstKey l v) s = .next s :=
  when_fails (by rcases h with h | h <;> simp [bits, h])

/-- A rail that fails in a save is recorded, and resets nothing (R48). -/
theorem railUndervoltage_saving {r : Rail} (hs : s.power.saving = true) :
    exec (.railUndervoltage r) s = .next { s with power := { s.power with
      vcoreOk := s.power.vcoreOk && r != .vcore, vdd18Ok := s.power.vdd18Ok && r != .vdd18, vserOk := s.power.vserOk && r != .vser } } := by
  simp [exec, execRailUndervoltage, hs]

theorem recordDone_idle (hq : s.nvm.queue = []) : recordDone s = s := by simp [recordDone, hq]

/-- Any other rail that fails resets the chip (R33). -/
theorem railUndervoltage_resets {r : Rail} (hs : s.power.saving = false) (hq : s.nvm.queue = []) :
    exec (.railUndervoltage r) s = .next { chipReset .rail s with power := { (chipReset .rail s).power with
      vcoreOk := s.power.vcoreOk && r != .vcore, vdd18Ok := s.power.vdd18Ok && r != .vdd18, vserOk := s.power.vserOk && r != .vser } } := by
  simp only [exec, execRailUndervoltage, hs, recordDone_idle hq]
  rfl

theorem cutRecord_idle (hq : s.nvm.queue = []) : cutRecord s = s := by simp [cutRecord, hq]

/-- Removal clears Lichen too, but for what the next rise owes and the comparator's level (R35 R49 R52). -/
theorem vinRemoval_yields (hq : s.nvm.queue = []) :
    Yields .vinRemoval s fun t => t.power = { ({} : Power) with
        causes := 0, sagOwed := s.power.awaitVin || s.power.sagOwed, inhibit := s.power.inhibit
        sagDwell := t.boot.sagDwell, vsagSave := t.boot.vsagSave, vsagSlow := t.boot.vsagSlow }
      ∧ t.boot = loadBoot s ∧ t.journal.retained = [] ∧ t.rings = {} ∧ t.safety = {} ∧ t.nvm.pages = s.nvm.pages := by
  refine ⟨_, rfl, ?_⟩
  rw [cutRecord_idle hq]
  exact ⟨rfl, rfl, rfl, rfl, rfl, rfl⟩

end Asked

/-- Settles O5: a reset that is asked for is made at once or waits for the record in progress; the failing rail and the removal
likewise reset a chip that writes no record. -/
theorem resetsAskedFor : Obligations.ResetsAskedFor := by
  refine ⟨fun s hi hs ha hl hp => ⟨fun hq => ?_, fun hq => ?_⟩, fun s v hb hv => ⟨fun hq => ?_, fun hq => ?_⟩,
    fun s l v h => ⟨s, swrstKey_ignored h, rfl⟩, fun s r hs => ⟨_, railUndervoltage_saving hs, rfl, setPower_frame (by decide) .refl⟩,
    fun s r hs hq => ⟨_, railUndervoltage_resets hs hq, chipReset_restarted.setPower, rfl, rfl, rfl, rfl, rfl⟩, fun s => vinRemoval_yields⟩
  · refine ⟨_, (resetNLow_asks hi hs ha hl hp).trans (congrArg _ (requestReset_now hq)), ?_, ?_, rfl, rfl, rfl⟩
    · exact chipReset_restarted.from (setPower_frame (by decide) .refl) rfl
    · simp [chipReset_power, holds, hi]
  · exact ⟨_, (resetNLow_asks hi hs ha hl hp).trans (congrArg _ (requestReset_waits hq)), rfl,
      setPower_frame (by decide) (setPower_frame (by decide) .refl)⟩
  · exact ⟨_, (swrstKey_asks hb hv).trans (congrArg _ (requestReset_now hq)), chipReset_restarted, rfl, rfl, rfl⟩
  · exact ⟨_, (swrstKey_asks hb hv).trans (congrArg _ (requestReset_waits hq)), rfl, setPower_frame (by decide) .refl⟩

/-! ### The sag, the save and the stop -/

section Sag
variable {s : State}

/-- A save notes the enabled tiles when it starts, and changes nothing else of Lichen (R283). -/
theorem startSave_power : (startSave s).power = { s.power with saveTiles := saveHeads s } := by
  unfold startSave
  extract_lets p j u
  split
  · rfl
  · exact SameBut.power_eq (l := [.strip, .tiles]) (stopFronds_frame (by decide) .refl)

theorem startSave_faults : (startSave s).faults = s.faults :=
  SameBut.faults_eq (l := [.power, .strip, .tiles, .journal, .nvm]) (startSave_frame (by decide) .refl)

theorem vinSlow_yields (h0 : s.power.sagStage = 0) (hs : s.power.saving = false) :
    Yields .vinSlow s fun t => t.power = { s.power with sagStage := 1, slows := min 65535 (s.power.slows + 1) } ∧ Drives 487 t
      ∧ SameBut [.power, .faults] s t :=
  show ∃ t, execVinSlow s = .next t ∧ _ from
    when_yields (by simp [h0, hs]) ⟨raise_power _ _, raise_drives _ _, raise_frame (by decide) (setPower_frame (by decide) .refl)⟩

theorem sagDwell_yields (h : s.power.sagStage = 1) :
    Yields .sagDwell s fun t => t.power = { s.power with sagStage := 2 } ∧ SameBut [.power] s t :=
  show ∃ t, execSagDwell s = .next t ∧ _ from when_yields (by simp [h]) ⟨rfl, setPower_frame (by decide) .refl⟩

/-- Four islands stand still while a save runs (R45). -/
theorem runs_saving {i : Isl} (h : s.power.saving = true) (hi : i = .host ∨ i = .ring ∨ i = .comp ∨ i = .chain) : runs i s = false := by
  rcases hi with rfl | rfl | rfl | rfl <;> simp [runs, h]

/-- Below `VSTOP` every island stands still but the management processor (R48). -/
theorem runs_vstop {i : Isl} (h : s.power.vstop = true) (hi : i ≠ .mp) : runs i s = false := by
  cases i <;> simp_all [runs]

/-- The management processor runs on for a save only (R48). -/
theorem runs_mp_vstop (h : s.power.vstop = true) (hs : s.power.saving = false) : runs .mp s = false := by
  simp [runs, h, hs]

theorem saveSequence_yields (hs : s.power.saving = false) (ha : s.power.awaitVin = false) :
    Yields .saveSequence s fun t => t.power = { s.power with
        saving := true, saves := min 65535 (s.power.saves + 1), saveShort := !s.power.vholdRdy, saveStart := s.time.now
        saveComplete := false, saveRecords := 0, vholdEnd := 0, saveDuration := 0
        saveTiles := t.power.saveTiles }
      ∧ Drives 480 t ∧ (∀ i, i = .host ∨ i = .ring ∨ i = .comp ∨ i = .chain → runs i t = false)
      ∧ SameBut [.power, .strip, .tiles, .journal, .faults, .nvm] s t := by
  refine .framed <| show ∃ t, execSaveSequence s = .next t ∧ _ from
    when_yields (by simp [hs, ha]) fun hf => ⟨?_, ?_, fun i => runs_saving ?_, hf⟩
  · simp only [startSave_power, raise_power, satAdd]
  · rw [Drives, startSave_faults]
    exact raise_drives _ _
  · rw [startSave_power, raise_power]

theorem lightOff_power : (lightOff s).power = s.power :=
  SameBut.power_eq (l := [.strip, .tiles, .chans]) (lightOff_frame (by decide) .refl)

theorem tensOff_power {n : Nat} : (tensOff n s).power = s.power :=
  SameBut.power_eq (l := [.strip, .tiles]) (tensOff_frame (by decide) .refl)

theorem tensOff_safety {n : Nat} : (tensOff n s).safety = s.safety :=
  SameBut.safety_eq (l := [.strip, .tiles]) (tensOff_frame (by decide) .refl)

/-- The stop takes the light off and every tile's enable low (R24 R48). -/
theorem vinStop_yields :
    Yields .vinStop s fun t => t.power = { s.power with vstop := true } ∧ t.safety.a.slo = false ∧ t.safety.b.slo = false
      ∧ (∀ n < 8, (tileOf t n).enabled = false) ∧ (∀ i, i ≠ .mp → runs i t = false) ∧ (s.power.saving = false → runs .mp t = false)
      ∧ SameBut [.power, .strip, .tiles, .chans] s t := by
  refine .framed ⟨_, rfl, fun hf => ⟨?_, ?_, ?_, fun n => tensOff_enabled 8 n _, fun i => runs_vstop ?_, fun hs => runs_mp_vstop ?_ ?_, hf⟩⟩
  · rw [tensOff_power, lightOff_power]
  · rw [tensOff_safety, lightOff_a]
  · rw [tensOff_safety, lightOff_b]
  · rw [tensOff_power, lightOff_power]
  · rw [tensOff_power, lightOff_power]
  · rw [tensOff_power, lightOff_power, hs]

end Sag

/-- Settles O6: the stages write Lichen's record, the save starts with four islands stopped, the stop darkens the chip. -/
theorem sagStages : Obligations.SagStages :=
  ⟨fun _ => vinSlow_yields, fun _ => sagDwell_yields,
    fun _ => ⟨_, rfl, rfl, setPower_frame (by decide) .refl⟩, fun _ => saveSequence_yields, fun _ => vinStop_yields⟩

/-! ### The hold-up supply, the converter's phases and the references -/

section Supplies
variable {s : State} {b : Bool}

theorem vholdLevel_power : (vholdLevel b s).power = { s.power with vholdRdy := b, vholdSeen := s.power.vholdSeen || b } := by
  cases b <;> simp [vholdLevel]

/-- With `VHOLD` ready again `VHOLD_LOW` lasts no more (R40). -/
theorem vholdLevel_ready : ¬ Lasts 481 (vholdLevel true s) := by
  simp [Lasts, vholdLevel, condOff_cond]

theorem vholdReady_yields :
    Yields .vholdReady s fun t => t.power = { s.power with vholdRdy := true, vholdSeen := true } ∧ ¬ Lasts 481 t
      ∧ SameBut [.power, .faults] s t :=
  ⟨_, rfl, by rw [vholdLevel_power, Bool.or_true], vholdLevel_ready, exec_frame (c := .vholdReady) rfl⟩

theorem vholdReadyTimeout_yields (hh : s.power.held = false) (hv : s.power.vholdSeen = false) (hw : s.power.vholdWaived = false) :
    Yields .vholdReadyTimeout s fun t => t.power = { s.power with vholdWaived := true } ∧ Lasts 481 t ∧ (¬ Lasts 481 s → Drives 481 t)
      ∧ SameBut [.power, .faults] s t :=
  show ∃ t, execVholdReadyTimeout s = .next t ∧ _ from when_yields (by simp [hh, hv, hw]) ⟨condOn_power _ _, condOn_cond _ _, fun h => condOn_drives h,
    condOn_frame (by decide) (setPower_frame (by decide) .refl)⟩

theorem vholdFall_yields (hh : s.power.held = false) (hv : s.power.vholdSeen = true) :
    Yields .vholdFall s fun t => t.power = { s.power with vholdRdy := false } ∧ Lasts 481 t ∧ (¬ Lasts 481 s → Drives 481 t)
      ∧ SameBut [.power, .faults] s t :=
  show ∃ t, execVholdFall s = .next t ∧ _ from when_yields (by simp [hh, hv]) ⟨condOn_power _ _, condOn_cond _ _, fun h => condOn_drives h,
    condOn_frame (by decide) (vholdLevel_frame (by decide) .refl)⟩

theorem buckPhase_yields {k : Fin 4} (hk : s.power.phases.testBit k.val = true) :
    Yields (.buckPhase k) s fun t => t.power = { s.power with phases := t.power.phases }
      ∧ (∀ i, t.power.phases.testBit i = (s.power.phases.testBit i && decide (i ≠ k.val))) ∧ Drives 482 t ∧ SameBut [.power, .faults] s t := by
  refine show ∃ t, execBuckPhase k s = .next t ∧ _ from when_yields hk
    ⟨by rw [raise_power], fun i => ?_, raise_drives _ _, raise_frame (by decide) (setPower_frame (by decide) .refl)⟩
  rw [raise_power, putBit_testBit]
  split <;> simp_all

/-- The mark of a reference is as it was last set (R59). -/
theorem markRef_testBit {i : Nat} : (markRef i b s).power.clkFailed.testBit i = b := by
  rw [markRef, putBit_testBit, if_pos rfl]

theorem xinFail_yields :
    Yields (.clockReferenceFail .xin) s fun t =>
      t.power = { s.power with xinOk := false, clkBackup := true, clkFailed := t.power.clkFailed } ∧ t.power.clkFailed.testBit 0 = true
        ∧ t.faults.cond.testBit 483 = true ∧ SameBut [.power, .faults] s t := by
  refine ⟨_, rfl, ?_, ?_, condOn_cond _ _, condOn_frame (by decide) (markRef_frame (by decide) (setPower_frame (by decide) .refl))⟩
  · rw [condOn_power, markRef]
  · rw [condOn_power, markRef_testBit]

theorem portLose_power {p : Nat} : (portLose p s).power = s.power :=
  SameBut.power_eq (l := [.freeCtr, .rings, .faults, .chain]) (portLose_frame (by decide) .refl)

/-- A port that has lost its lane is down, and one that was down stays so (R459). -/
theorem portLose_down {p q : Nat} (h : q ≠ p → linkUp (portOf s q) = false) : linkUp (portOf (portLose p s) q) = false := by
  unfold linkUp at h ⊢
  rw [portLose_st]
  split
  · split <;> rfl
  · next hq => exact h hq

/-- Without `CREFCLK` both ports are down, and the chain island has no clock (R58 R59). -/
theorem crefFail_yields :
    Yields (.clockReferenceFail .cref) s fun t =>
      t.power = { s.power with crefOk := false, clkFailed := t.power.clkFailed } ∧ t.power.clkFailed.testBit 1 = true
        ∧ t.faults.cond.testBit 484 = true ∧ (∀ p < 2, linkUp (portOf t p) = false)
        ∧ runs .chain t = false ∧ SameBut [.freeCtr, .power, .rings, .faults, .chain] s t := by
  refine ⟨_, rfl, ?_, ?_, condOn_cond _ _, fun p hp => ?_, ?_, condOn_frame (by decide) <| portLose_frame (by decide) <|
    portLose_frame (by decide) <| markRef_frame (by decide) (setPower_frame (by decide) .refl)⟩
  · rw [condOn_power, portLose_power, portLose_power, markRef]
  · rw [condOn_power, portLose_power, portLose_power, markRef_testBit]
  · rw [condOn_portOf]
    exact portLose_down fun h1 => portLose_down fun h0 => by omega
  · simp [runs, portLose_power, markRef_testBit]

theorem hostReset_power : (hostReset b s).power = s.power :=
  SameBut.power_eq (l := [.link, .rings, .cmp, .faults]) (hostReset_frame (by decide) .refl)

/-- Without `PE_REFCLK` the link is down, uncommanded (R59 R73 R102). -/
theorem perefFail_yields (hup : s.link.up = true) :
    Yields (.clockReferenceFail .peref) s fun t =>
      t.power = { s.power with perefOk := false, clkFailed := t.power.clkFailed } ∧ t.power.clkFailed.testBit 2 = true
        ∧ t.faults.cond.testBit 485 = true ∧ t.link.up = false ∧ Drives 464 t ∧ SameBut [.power, .link, .rings, .cmp, .faults] s t := by
  have he : exec (.clockReferenceFail .peref) s
      = .next (hostReset false (condOn 485 (markRef 2 true { s with power := { s.power with perefOk := false } }))) :=
    congrArg _ (if_pos (by simp [hup]))
  refine ⟨_, he, ?_, ?_, ?_, hostReset_up _ _, hostReset_drives _, hostReset_frame (by decide) <| condOn_frame (by decide) <|
    markRef_frame (by decide) (setPower_frame (by decide) .refl)⟩
  · rw [hostReset_power, condOn_power, markRef]
  · rw [hostReset_power, condOn_power, markRef_testBit]
  · rw [hostReset_cond, condOn_cond]

theorem xinReturn_yields :
    Yields (.clockReferenceReturn .xin) s fun t =>
      t.power = { s.power with xinOk := true, clkBackup := false, clkFailed := t.power.clkFailed } ∧ t.power.clkFailed.testBit 0 = false
        ∧ t.faults.cond.testBit 483 = false ∧ SameBut [.power, .faults] s t := by
  refine ⟨_, rfl, ?_, ?_, condOff_cond _ _, condOff_frame (by decide) (markRef_frame (by decide) (setPower_frame (by decide) .refl))⟩
  · rw [condOff_power, markRef]
  · rw [condOff_power, markRef_testBit]

theorem portsRestart_power : (portsRestart s).power = s.power :=
  SameBut.power_eq (l := [.chain]) (portsRestart_frame (by decide) .refl)

theorem crefReturn_yields :
    Yields (.clockReferenceReturn .cref) s fun t =>
      t.power = { s.power with crefOk := true, clkFailed := t.power.clkFailed } ∧ t.power.clkFailed.testBit 1 = false
        ∧ t.faults.cond.testBit 484 = false ∧ SameBut [.power, .faults, .chain] s t := by
  refine ⟨_, rfl, ?_, ?_, condOff_cond _ _, exec_frame (c := .clockReferenceReturn .cref) rfl⟩
  · rw [condOff_power, portsRestart_power, markRef]
  · rw [condOff_power, portsRestart_power, markRef_testBit]

theorem perefReturn_yields :
    Yields (.clockReferenceReturn .peref) s fun t =>
      t.power = { s.power with perefOk := true, clkFailed := t.power.clkFailed } ∧ t.power.clkFailed.testBit 2 = false
        ∧ t.faults.cond.testBit 485 = false ∧ SameBut [.power, .faults] s t := by
  refine ⟨_, rfl, ?_, ?_, condOff_cond _ _, condOff_frame (by decide) (markRef_frame (by decide) (setPower_frame (by decide) .refl))⟩
  · rw [condOff_power, markRef]
  · rw [condOff_power, markRef_testBit]

theorem pwrMonUpdate_yields {vin : BitVec 16} {vhold : VholdSeen} :
    Yields (.pwrMonUpdate vin vhold) s fun t =>
      t.power = { s.power with vinMv := vin.toNat, vholdMv := vhold.mv.toNat, vholdRdy := vhold.above
                               vholdSeen := s.power.vholdSeen || vhold.above }
        ∧ (vhold.above = true → ¬ Lasts 481 t) ∧ SameBut [.power, .faults] s t := by
  refine ⟨_, rfl, by rw [vholdLevel_power], fun h => ?_, exec_frame (c := .pwrMonUpdate vin vhold) rfl⟩
  rw [h]
  exact vholdLevel_ready

end Supplies

/-- Settles O7: clause by clause, by what a level of `VHOLD`, a dropped phase and the mark of a reference write. -/
theorem suppliesAndClocks : Obligations.SuppliesAndClocks :=
  ⟨fun _ => vholdReady_yields, fun _ => vholdReadyTimeout_yields, fun _ => vholdFall_yields, fun _ _ => buckPhase_yields,
    fun _ => xinFail_yields, fun _ => crefFail_yields, fun _ => perefFail_yields, fun _ => xinReturn_yields, fun _ => crefReturn_yields,
    fun _ => perefReturn_yields, fun _ _ _ => pwrMonUpdate_yields⟩

end Sys2Proof.Machine
end

section
/-! The NVM and the check units: records and what their markers bring about, reads of pages, check runs (15). -/

set_option autoImplicit false
-- One declaration after the other: the text as one file holds many.
set_option Elab.async false

namespace Sys2Proof.Machine

theorem Runs.desc {s : State} {id op : Nat} {d : Desc} (h : Runs s id op d) : descOf s id = some d := h.1

/-- A descriptor of the state before completes in it. -/
theorem Runs.completed {s : State} {id op st : Nat} {d : Desc} {r : Bytes} (h : Runs s id op d) :
    Completed id d st r s (complete id st r s) := complete_completed h.desc rfl rfl

/-! ### NVM_WRITE -/

section Write
variable {s : State} {id : Nat} {d : Desc} {b : Bytes}

/-- Without the write inhibit records join the queue (R432 R532). -/
theorem queueRecs_open {l : List Rec} (h : s.power.inhibit = false) :
    queueRecs l s = onNvm (fun n => { n with queue := n.queue ++ l }) s := if_neg (by simp [h])

/-- A block of a transfer that has begun fixes nothing more (R541). -/
theorem beginWriting_begun {src : Nat} (h : s.nvm.fwState = 1) : beginWriting src s = s := if_pos h

/-- The first block fixes the source and cancels a schedule (R541 R546). -/
theorem beginWriting_begins {src : Nat} (h : s.nvm.fwState ≠ 1) :
    (beginWriting src s).nvm.fwState = 1 ∧ (beginWriting src s).nvm.source = src ∧ (beginWriting src s).nvm.scheduled = false
      ∧ (beginWriting src s).nvm.queue = s.nvm.queue ∧ (tevOf (beginWriting src s) 11).mode = 0
      ∧ (∀ k, k ≠ 11 → tevOf (beginWriting src s) k = tevOf s k) := by
  unfold beginWriting
  rw [if_neg h]
  refine ⟨rfl, rfl, rfl, rfl, ?_, fun k hk => ?_⟩
  · simp [onNvm, tevOf, putTev]
  · simp [onNvm, tevOf, putTev, hk]

/-- What refuses an `NVM_WRITE` (R432 R541). -/
def WriteRefused (s : State) (d : Desc) : Prop :=
  s.power.inhibit = true ∨ (le d.bytes 16 1 = 1 ∧ s.nvm.fwState = 1 ∧ s.nvm.source ≠ 1)

theorem nvmWrite_refused (hr : Runs s id 0x58 d) (hf : d.failed = false) (hd : d.data = some b) (h : WriteRefused s d) :
    Yields (.nvmWrite id) s fun t => Completed id d stBUSY (toLe 4 0) s t ∧ SameBut [.rings] s t :=
  ⟨_, (runRead_runs hr hf hd).trans (congrArg _ (if_pos h)), hr.completed, complete_frame (by decide) .refl⟩

/-- The records of an `NVM_WRITE` that is not refused join the queue; a block of the firmware partition begins the transfer first. -/
theorem nvmWrite_queues (hr : Runs s id 0x58 d) (hf : d.failed = false) (hd : d.data = some b) (h : ¬ WriteRefused s d) :
    exec (.nvmWrite id) s = .next (queueRecs (writeRecs id ((partPages (le d.bytes 16 1)).1 + le d.bytes 20 4 / 512) b)
      (updDesc id (fun d => { d with taken := true }) (if le d.bytes 16 1 = 1 then beginWriting 1 s else s))) :=
  (runRead_runs hr hf hd).trans (congrArg _ (if_neg h))

theorem nvmWrite_continues (hr : Runs s id 0x58 d) (hf : d.failed = false) (hd : d.data = some b) (hi : s.power.inhibit = false)
    (h : le d.bytes 16 1 ≠ 1 ∨ s.nvm.fwState = 1 ∧ s.nvm.source = 1) :
    Yields (.nvmWrite id) s fun t =>
      t.nvm = { s.nvm with queue := s.nvm.queue ++ writeRecs id ((partPages (le d.bytes 16 1)).1 + le d.bytes 20 4 / 512) b }
      ∧ descOf t id = some { d with taken := true } ∧ SameBut [.rings, .nvm] s t := by
  have hn : ¬ WriteRefused s d := by
    rintro (h' | ⟨hp, -, hsrc⟩)
    · simp [hi] at h'
    · exact h.elim (fun h => h hp) fun h => hsrc h.2
  have hb : (if le d.bytes 16 1 = 1 then beginWriting 1 s else s) = s := by
    split
    · next hp => exact beginWriting_begun (h.resolve_left fun h => h hp).1
    · rfl
  refine ⟨_, nvmWrite_queues hr hf hd hn, ?_⟩
  rw [hb, queueRecs_open (by simpa using hi)]
  exact ⟨rfl, descOf_taken hr.desc, onNvm_frame (fun _ => rfl) (fun _ => rfl) (by decide) (updDesc_frame (by decide) .refl)⟩

theorem nvmWrite_begins (hr : Runs s id 0x58 d) (hf : d.failed = false) (hd : d.data = some b) (hi : s.power.inhibit = false)
    (hp : le d.bytes 16 1 = 1) (hw : s.nvm.fwState ≠ 1) :
    Yields (.nvmWrite id) s fun t => t.nvm.queue = s.nvm.queue ++ writeRecs id (128 + le d.bytes 20 4 / 512) b ∧ t.nvm.fwState = 1
        ∧ t.nvm.source = 1 ∧ t.nvm.scheduled = false ∧ (tevOf t 11).mode = 0 ∧ descOf t id = some { d with taken := true }
        ∧ (∀ k, k ≠ 11 → tevOf t k = tevOf s k) ∧ SameBut [.rings, .time, .nvm] s t := by
  have hn : ¬ WriteRefused s d := by simp [WriteRefused, hi, hw]
  have hbf : SameBut [.time, .nvm] s (beginWriting 1 s) := beginWriting_frame (by decide) .refl
  obtain ⟨hst, hsrc, hsch, hq, h11, hk⟩ := beginWriting_begins (src := 1) hw
  refine ⟨_, nvmWrite_queues hr hf hd hn, ?_⟩
  rw [if_pos hp, queueRecs_open (by rw [updDesc_power, hbf.power_eq, hi]), hp]
  refine ⟨congrArg (· ++ _) hq, hst, hsrc, hsch, h11, descOf_taken (by rw [hbf.descOf_eq, hr.desc]), hk, ?_⟩
  exact onNvm_frame (fun _ => rfl) (fun _ => rfl) (by decide) (updDesc_frame (by decide) (hbf.mono (by decide)))

end Write

/-! ### NVM_RECORD_COMPLETE -/

section Records
variable {s : State} {v : VholdSeen} {r : Rec} {q : List Rec}

theorem recordDone_ready (hq : s.nvm.queue = r :: q) (hr : recordReady r s = true) :
    recordDone s = recordEffect r (onNvm (fun n => { n with queue := q, seq := n.seq + 1 }) s) := by
  simp [recordDone, hq, hr]

/-- A record whose sums are not formed waits (R46). -/
theorem recordComplete_waits (hq : s.nvm.queue = r :: q) (hr : recordReady r s = false) :
    exec (.nvmRecordComplete v) s = .next s := by
  simp [exec, execNvmRecordComplete, hq, hr]

/-- Outside a save, with no reset that waits, the marker's effect is all (R531). -/
theorem recordComplete_ends (hq : s.nvm.queue = r :: q) (hr : recordReady r s = true) (hs : s.power.saving = false)
    (hp : (recordDone s).power = s.power) (hl : s.power.rstPend = []) :
    exec (.nvmRecordComplete v) s = .next (recordDone s) := by
  simp [exec, execNvmRecordComplete, hq, hr, hp, hs, hl]

/-- The resets that wait for the record follow it as one (R54 R57). -/
theorem recordComplete_resets {c : Cause} {l : List Cause} (hq : s.nvm.queue = r :: q) (hr : recordReady r s = true)
    (hs : s.power.saving = false) (hp : (recordDone s).power = s.power) (hl : s.power.rstPend = c :: l) :
    exec (.nvmRecordComplete v) s = .next (chipReset c { recordDone s with power := { s.power with rstPend := l } }) := by
  simp [exec, execNvmRecordComplete, hq, hr, hp, hs, hl]

/-- At the end of a save `VHOLD` is read (R68). -/
theorem recordComplete_saves (hq : s.nvm.queue = r :: q) (hr : recordReady r s = true) (hs : s.power.saving = true)
    (ha : (recordDone s).power.awaitVin = true) :
    exec (.nvmRecordComplete v) s = .next (vholdLevel v.above
      { recordDone s with power := { (recordDone s).power with vholdEnd := min 16383 v.mv.toNat } }) := by
  simp [exec, execNvmRecordComplete, hq, hr, hs, ha]

/-- The marker of a record of an `NVM_WRITE` outside the firmware partition commits its page; the last completes the descriptor
(R531 R536). -/
theorem recordEffect_write {id n : Nat} {last : Bool} (hw : r.why = .write id last n) (hp : r.page < 128 ∨ 6272 ≤ r.page) :
    recordEffect r s = if last then complete id stOK (toLe 4 n) (commitPage r.page r.bytes s) else commitPage r.page r.bytes s := by
  have hfw : (decide (128 ≤ r.page) && decide (r.page < 6272)) = false := by simp; omega
  simp [recordEffect, hw, Bool.and_assoc, hfw]

/-- The record of an `NVM_WRITE` ends under the next sequence number (R531). -/
theorem recordDone_write {id n : Nat} {last : Bool} (hq : s.nvm.queue = r :: q) (hw : r.why = .write id last n)
    (hp : r.page < 128 ∨ 6272 ≤ r.page) :
    (recordDone s).nvm.queue = q ∧ (recordDone s).nvm.seq = s.nvm.seq + 1
      ∧ (recordDone s).nvm.pages = Tab.put s.nvm.pages r.page { bytes := fit 512 r.bytes, seq := s.nvm.seq + 1 }
      ∧ (last = true → ∀ d, descOf s id = some d → Completed id d stOK (toLe 4 n) s (recordDone s))
      ∧ (last = false → (recordDone s).rings = s.rings) ∧ SameBut [.rings, .pages, .nvm] s (recordDone s) := by
  have hr : recordReady r s = true := by simp [recordReady, hw]
  rw [recordDone_ready hq hr, recordEffect_write hw hp]
  have hc : SameBut [.rings, .pages, .nvm] s (commitPage r.page r.bytes (onNvm (fun n => { n with queue := q, seq := n.seq + 1 }) s)) :=
    commitPage_frame (by decide) (onNvm_frame_pages (by decide) .refl)
  cases last
  · exact ⟨rfl, rfl, rfl, nofun, fun _ => rfl, hc⟩
  · refine ⟨?_, ?_, ?_, fun _ d hd => complete_completed hd rfl rfl, nofun, complete_frame (by decide) hc⟩
    iterate 3 · rw [if_pos rfl, complete_nvm]; rfl

theorem recordComplete_write {id n : Nat} {last : Bool} (hq : s.nvm.queue = r :: q) (hw : r.why = .write id last n)
    (hp : r.page < 128 ∨ 6272 ≤ r.page) (hl : s.power.rstPend = []) (hs : s.power.saving = false) :
    Yields (.nvmRecordComplete v) s fun t => t.nvm.queue = q ∧ t.nvm.seq = s.nvm.seq + 1
      ∧ t.nvm.pages = Tab.put s.nvm.pages r.page { bytes := fit 512 r.bytes, seq := s.nvm.seq + 1 }
      ∧ (last = true → ∀ d, descOf s id = some d → Completed id d stOK (toLe 4 n) s t) ∧ (last = false → t.rings = s.rings)
      ∧ SameBut [.rings, .pages, .nvm] s t := by
  have h := recordDone_write hq hw hp
  have hf := h.2.2.2.2.2
  exact ⟨_, recordComplete_ends hq (by simp [recordReady, hw]) hs hf.power_eq hl, h⟩

theorem recordComplete_write_resets {id n : Nat} {last : Bool} {c : Cause} {l : List Cause} (hq : s.nvm.queue = r :: q)
    (hw : r.why = .write id last n) (hp : r.page < 128 ∨ 6272 ≤ r.page) (hl : s.power.rstPend = c :: l) (hs : s.power.saving = false) :
    Yields (.nvmRecordComplete v) s fun t => t.power.rstPend = [] ∧ t.power.held = holds s.power
      ∧ t.power.causes = causeBits (c :: l) s.power.causes
      ∧ t.rings = {} ∧ t.nvm.running = false ∧ t.nvm.seq = s.nvm.seq + 1
      ∧ t.nvm.pages = Tab.put s.nvm.pages r.page { bytes := fit 512 r.bytes, seq := s.nvm.seq + 1 } ∧ t.outputs = s.outputs := by
  obtain ⟨-, hseq, hpages, -, -, hf⟩ := recordDone_write hq hw hp
  exact ⟨_, recordComplete_resets hq (by simp [recordReady, hw]) hs hf.power_eq hl, rfl, rfl, rfl, rfl, rfl, hseq, hpages, hf.outputs_eq⟩

/-! ### The end of a save -/

/-- The NVM is kept but for the copies of the fault log, of which a full journal drops the oldest (R530 R534). -/
def ButLogs (s t : State) : Prop := { t.nvm with logCopies := [] } = { s.nvm with logCopies := [] }

theorem ButLogs.trans {t u : State} (h : ButLogs s t) (k : ButLogs t u) : ButLogs s u := Eq.trans k h

theorem trimCopies_butLogs : ButLogs s (trimCopies s) := by
  simp only [ButLogs, trimCopies]

theorem copyLog_butLogs {n : Nat} : ButLogs s (copyLog n s) := by
  unfold copyLog
  extract_lets k f es n u w
  have hw : ButLogs s w := ButLogs.trans (by simp only [ButLogs, u, n]) (trimCopies_butLogs (s := u))
  split
  · rwa [ButLogs, condOff_nvm]
  · exact hw

theorem copyLog_power {n : Nat} : (copyLog n s).power = s.power :=
  SameBut.power_eq (l := [.faults, .nvm]) (copyLog_frame (by decide) .refl)

/-- After a save Lichen holds the chip and waits for `VIN` (R48 R49 R68). -/
theorem endSave_power : (endSave s).power.saving = false ∧ (endSave s).power.awaitVin = true ∧ (endSave s).power.held = true
    ∧ (endSave s).power.saveComplete = true ∧ (endSave s).power.saveRecords = s.power.saveRecords := by
  refine ⟨rfl, rfl, ?_, rfl, rfl⟩
  show holds _ = true
  simp [holds]

theorem endSave_nvm : (endSave s).nvm.queue = s.nvm.queue.filter (fun q => q.why == .shutdown) ∧ (endSave s).nvm.seq = s.nvm.seq :=
  ⟨rfl, rfl⟩

/-- The marker of a save's last record ends the save, unless the thermal latch has tripped (R48 R50). -/
theorem recordEffect_saveLog {k : Nat} (hw : r.why = .saveLog k true) (hl : s.power.thermLatch = false) :
    recordEffect r s = endSave { copyLog logPerRec s with power := { s.power with saveRecords := min 31 (s.power.saveRecords + 1) } } := by
  simp [recordEffect, hw, copyLog_power, hl]

theorem recordComplete_endsSave {k : Nat} (hq : s.nvm.queue = [r]) (hw : r.why = .saveLog k true) (hr : saveReady s = true)
    (hs : s.power.saving = true) (hl : s.power.thermLatch = false) :
    Yields (.nvmRecordComplete v) s fun t => t.power.saving = false ∧ t.power.awaitVin = true ∧ t.power.held = true
      ∧ t.power.saveComplete = true ∧ t.power.saveRecords = min 31 (s.power.saveRecords + 1)
      ∧ t.power.vholdEnd = min 16383 v.mv.toNat ∧ t.power.vholdRdy = v.above ∧ t.nvm.queue = [] ∧ t.nvm.seq = s.nvm.seq + 1 := by
  have hready : recordReady r s = true := by simpa [recordReady, hw] using hr
  have hd := (recordDone_ready hq hready).trans (recordEffect_saveLog hw hl)
  generalize hu : (onNvm (fun n => { n with queue := [], seq := n.seq + 1 }) s) = u at hd
  have hnvm : (recordDone s).nvm.queue = [] ∧ (recordDone s).nvm.seq = s.nvm.seq + 1 := by
    have hc : ButLogs u (copyLog logPerRec u) := copyLog_butLogs
    rw [hd, endSave_nvm.1, endSave_nvm.2]
    have hqu := congrArg Nvm.queue hc
    have hsu := congrArg Nvm.seq hc
    dsimp only at hqu hsu ⊢
    rw [hqu, hsu, ← hu]
    exact ⟨rfl, rfl⟩
  obtain ⟨hsav, hwait, hheld, hcomp, hrec⟩ : _ ∧ _ ∧ _ ∧ _ ∧ (recordDone s).power.saveRecords = min 31 (s.power.saveRecords + 1) := by
    have h := endSave_power (s := { copyLog logPerRec u with power := { u.power with saveRecords := min 31 (u.power.saveRecords + 1) } })
    rw [← hd, ← hu] at h
    exact h
  refine ⟨_, recordComplete_saves hq hready hs hwait, ?_⟩
  dsimp only
  rw [vholdLevel_power, (vholdLevel_frame (l := [.power, .faults]) (by decide) .refl).nvm_eq]
  exact ⟨hsav, hwait, hheld, hcomp, hrec, rfl, rfl, hnvm⟩

end Records

/-! ### NVM_READ -/

section Read
variable {s : State} {id : Nat} {d : Desc} {pages : List (Bytes × Option Bool)}

/-- With no injection armed a read of words changes nothing (R385 R386). -/
theorem readNvmWords_quiet {w : Nat} (h : s.faults.inj = none) : readNvmWords w s = s := by
  simp [readNvmWords, takeInjs, h]

/-- A page that is not committed makes the status of a read `CHECK` (R536). -/
theorem readStatus_check {cs : List (Option Bool)} (h : some false ∈ cs) : (readStatus false cs s).1 = stCHECK := by
  simp [readStatus, h]

/-- A read of committed pages alone is good (R536). -/
theorem readStatus_ok {cs : List (Option Bool)} (h : ∀ c ∈ cs, c = some true) : (readStatus false cs s).1 = stOK := by
  have hf : some false ∉ cs := fun hm => by simpa using h _ hm
  have hn : none ∉ cs := fun hm => by simpa using h _ hm
  simp [readStatus, hf, hn]

theorem readStatus_draws {b : Bool} {cs : List (Option Bool)} : SameBut [.freeCtr] s (readStatus b cs s).2 :=
  readStatus_frame (by decide) .refl

/-- A page of a read holds an uncorrectable error (R533). -/
def readHits (s : State) (d : Desc) : Bool :=
  (List.range (le d.bytes 24 4 / 512)).any fun i =>
    s.nvm.badPages.contains ((partPages (le d.bytes 16 1)).1 + le d.bytes 20 4 / 512 + i)

theorem readHits_iff : readHits s d = true ↔
    ∃ i, i < le d.bytes 24 4 / 512 ∧ (partPages (le d.bytes 16 1)).1 + le d.bytes 20 4 / 512 + i ∈ s.nvm.badPages := by
  simp [readHits]

/-- The state in which a read with no injection armed draws its status: an uncorrectable error has been raised (R533). -/
def readSeen (s : State) (d : Desc) : State :=
  if readHits s d then raise 353 { s with freeCtr := s.freeCtr + 1 } else { s with freeCtr := s.freeCtr + 1 }

theorem readSeen_frame : SameBut [.freeCtr, .faults] s (readSeen s d) :=
  .ite (fun _ => raise_frame (by decide) (setFreeCtr_frame (by decide) .refl)) fun _ => setFreeCtr_frame (by decide) .refl

theorem nvmRead_runs (hr : Runs s id 0x59 d) (hdma : dmaOk s = true) (hi : s.faults.inj = none)
    (hp : pages = (List.range (le d.bytes 24 4 / 512)).map
      fun i => partPage { s with freeCtr := s.freeCtr + 1 } (le d.bytes 16 1) (le d.bytes 20 4 / 512 + i)) :
    exec (.nvmRead id) s = .next (complete id (readStatus (readHits s d) (pages.map Prod.snd) (readSeen s d)).1
      (toLe 4 (512 * (le d.bytes 24 4 / 512)))
      (hostWrite (le d.bytes 32 8) (pages.flatMap Prod.fst) (readStatus (readHits s d) (pages.map Prod.snd) (readSeen s d)).2)) := by
  refine (runOp_runs hr).trans (congrArg _ ?_)
  have hq : readNvmWords (64 * (le d.bytes 24 4 / 512)) { s with freeCtr := s.freeCtr + 1 } = { s with freeCtr := s.freeCtr + 1 } :=
    readNvmWords_quiet hi
  simp only [hdma, if_true, hq, ← hp]
  rfl

theorem nvmRead_yields (hr : Runs s id 0x59 d) (hdma : dmaOk s = true) (hi : s.faults.inj = none)
    (hp : pages = (List.range (le d.bytes 24 4 / 512)).map
      fun i => partPage { s with freeCtr := s.freeCtr + 1 } (le d.bytes 16 1) (le d.bytes 20 4 / 512 + i)) :
    Yields (.nvmRead id) s fun t =>
      t.outputs = (writePieces s.link.mps (le d.bytes 32 8) (pages.flatMap fun p => p.1)).reverse ++ s.outputs
      ∧ (∃ st, Completed id d st (toLe 4 (512 * (le d.bytes 24 4 / 512))) s t
          ∧ ((∃ i, i < le d.bytes 24 4 / 512 ∧ (partPages (le d.bytes 16 1)).1 + le d.bytes 20 4 / 512 + i ∈ s.nvm.badPages) →
              st = stPOISON ∧ Drives 353 t)
          ∧ ((∀ i, i < le d.bytes 24 4 / 512 → (partPages (le d.bytes 16 1)).1 + le d.bytes 20 4 / 512 + i ∉ s.nvm.badPages) →
              ((∃ p ∈ pages, p.2 = some false) → st = stCHECK) ∧ ((∀ p ∈ pages, p.2 = some true) → st = stOK) ∧ t.faults = s.faults))
      ∧ SameBut [.outputs, .freeCtr, .rings, .faults] s t := by
  refine .framed ⟨_, nvmRead_runs hr hdma hi hp, fun hf =>
    ⟨?_, ⟨(readStatus (readHits s d) (pages.map Prod.snd) (readSeen s d)).1, ?_, fun hbad => ?_, fun hgood => ?_⟩, hf⟩⟩
  all_goals have hd := readStatus_draws (b := readHits s d) (cs := pages.map Prod.snd) (s := readSeen s d)
  · rw [complete_outputs, hostWrite, hd.link_eq, hd.outputs_eq, readSeen_frame.link_eq, readSeen_frame.outputs_eq]
  · have hrings : (hostWrite (le d.bytes 32 8) (pages.flatMap Prod.fst) _).rings = s.rings := hd.rings_eq.trans readSeen_frame.rings_eq
    exact complete_completed (by rw [descOf, hrings]; exact hr.desc) (by rw [hrings]) (by rw [hrings])
  · have hb : readHits s d = true := readHits_iff.2 hbad
    refine ⟨by rw [hb]; rfl, ?_⟩
    rw [Drives, complete_faults, hostWrite_faults, hd.faults_eq, readSeen, if_pos hb]
    exact raise_drives _ _
  · have hb : readHits s d = false := by
      rw [Bool.eq_false_iff, Ne, readHits_iff]
      exact fun ⟨i, hi, hm⟩ => hgood i hi hm
    rw [hb] at hd ⊢
    refine ⟨fun ⟨p, hm, he⟩ => readStatus_check (he ▸ List.mem_map_of_mem hm), fun h => readStatus_ok (List.forall_mem_map.2 h), ?_⟩
    rw [complete_faults, hostWrite_faults, hd.faults_eq, readSeen, hb]
    rfl

end Read

/-! ### CRC_RUN -/

section Crc
variable {s : State} {id u poly x : Nat} {d : Desc} {b : Bytes}

theorem gcuOf_putGcu {k : Nat} {g : Gcu} : gcuOf (putGcu s u g) k = if k = u then g else gcuOf s k := by
  simp [gcuOf, putGcu]

/-- The unit is in the use of the layer guards (R548). -/
theorem crcRun_busy (hr : Runs s id 0x60 d) (ha : crcAhead s id (le d.bytes 16 1) = false) (hg : guardUnitBusy s (le d.bytes 16 1) = true) :
    exec (.crcRun id) s = .next (complete id stBUSY [] s) := by
  simp only [exec, execCrcRun, hr.desc, ha, hg, runOp_runs hr, if_true, Bool.false_eq_true, if_false]

/-- The value from which a check run goes on: the unit's, the descriptor's seed, or the polynomial's start (R547). -/
def crcStart (s : State) (d : Desc) : Nat :=
  if (le d.bytes 18 1).testBit 2 then (gcuOf s (le d.bytes 16 1)).run
  else if (le d.bytes 18 1).testBit 0 then gcuRun (le d.bytes 17 1) (sub d.bytes 24 4) (gcuInit (le d.bytes 17 1))
  else gcuInit (le d.bytes 17 1)

/-- The unit's state after a check run (R547). -/
def crcUnit (s : State) (d : Desc) (b : Bytes) : Gcu :=
  { poly := le d.bytes 17 1, run := gcuRun (le d.bytes 17 1) b (crcStart s d)
    last := gcuFinal (le d.bytes 17 1) (gcuRun (le d.bytes 17 1) b (crcStart s d)) }

theorem crcRun_runs (hr : Runs s id 0x60 d) (ha : crcAhead s id (le d.bytes 16 1) = false)
    (hg : guardUnitBusy s (le d.bytes 16 1) = false) (hf : d.failed = false) (hd : d.data = some b) (hi : s.faults.inj = none) :
    exec (.crcRun id) s = .next (
      if (le d.bytes 18 1).testBit 1 then
        if (crcUnit s d b).last = le d.bytes 28 4 % 2 ^ crcWidth (le d.bytes 17 1) then
          complete id stOK (toLe 4 (crcUnit s d b).last) (putGcu s (le d.bytes 16 1) (crcUnit s d b))
        else complete id stCHECK (toLe 4 (crcUnit s d b).last) (raise 356 (putGcu s (le d.bytes 16 1) (crcUnit s d b)))
      else complete id stOK (toLe 4 (crcUnit s d b).last) (putGcu s (le d.bytes 16 1) (crcUnit s d b))) := by
  have hinj : ∀ g, takeInj 356 2 (putGcu s (le d.bytes 16 1) g) = (false, putGcu s (le d.bytes 16 1) g) := fun g => by
    simp [takeInj, hi]
  simp only [exec, execCrcRun, hr.desc, ha, hg, runRead_runs hr hf hd, hinj, Bool.false_eq_true, if_false]
  rfl

theorem crcRun_yields (hr : Runs s id 0x60 d) (ha : crcAhead s id (le d.bytes 16 1) = false)
    (hg : guardUnitBusy s (le d.bytes 16 1) = false) (hf : d.failed = false) (hd : d.data = some b) (hi : s.faults.inj = none) :
    Yields (.crcRun id) s fun t => gcuOf t (le d.bytes 16 1) = crcUnit s d b ∧ (∀ k, k ≠ le d.bytes 16 1 → gcuOf t k = gcuOf s k)
      ∧ ((le d.bytes 18 1).testBit 1 = false → Completed id d stOK (toLe 4 (crcUnit s d b).last) s t ∧ t.faults = s.faults)
      ∧ ((le d.bytes 18 1).testBit 1 = true → (crcUnit s d b).last = le d.bytes 28 4 % 2 ^ crcWidth (le d.bytes 17 1) →
          Completed id d stOK (toLe 4 (crcUnit s d b).last) s t ∧ t.faults = s.faults)
      ∧ ((le d.bytes 18 1).testBit 1 = true → (crcUnit s d b).last ≠ le d.bytes 28 4 % 2 ^ crcWidth (le d.bytes 17 1) →
          Completed id d stCHECK (toLe 4 (crcUnit s d b).last) s t ∧ Drives 356 t)
      ∧ SameBut [.rings, .faults, .nvm] s t := by
  refine .framed ⟨_, crcRun_runs hr ha hg hf hd hi, fun hframe => ?_⟩
  have hgood : ∀ r, Completed id d stOK r s (complete id stOK r (putGcu s (le d.bytes 16 1) (crcUnit s d b)))
      ∧ (complete id stOK r (putGcu s (le d.bytes 16 1) (crcUnit s d b))).faults = s.faults :=
    fun r => ⟨complete_completed hr.desc rfl rfl, complete_faults ..⟩
  by_cases hm : (le d.bytes 18 1).testBit 1 = true
  · by_cases he : (crcUnit s d b).last = le d.bytes 28 4 % 2 ^ crcWidth (le d.bytes 17 1)
    · rw [if_pos hm, if_pos he] at hframe ⊢
      exact ⟨by simp [gcuOf_putGcu], fun k hk => by simp [gcuOf_putGcu, hk], fun h => by simp [h] at hm, fun _ _ => hgood _,
        fun _ h => absurd he h, hframe⟩
    · rw [if_pos hm, if_neg he] at hframe ⊢
      refine ⟨by simp [gcuOf_putGcu], fun k hk => by simp [gcuOf_putGcu, hk], fun h => by simp [h] at hm, fun _ h => absurd h he,
        fun _ _ => ⟨complete_completed ?_ ?_ ?_, ?_⟩, hframe⟩
      · rw [raise_descOf]
        exact hr.desc
      · rw [raise_rings, putGcu_rings]
      · rw [raise_rings, putGcu_rings]
      · rw [Drives, complete_faults]
        exact raise_drives _ _
  · rw [if_neg hm] at hframe ⊢
    exact ⟨by simp [gcuOf_putGcu], fun k hk => by simp [gcuOf_putGcu, hk], fun _ => hgood _, fun h => absurd h hm, fun h => absurd h hm, hframe⟩

end Crc

/-- Settles O47: what an `NVM_WRITE` queues and what refuses it, what each record's marker brings about, what a read and a check run
show. -/
theorem nvmAndChecks : Obligations.NvmAndChecks := by
  refine ⟨fun s id d b hr hf hd => ⟨fun hi => nvmWrite_refused hr hf hd (.inl hi), nvmWrite_continues hr hf hd, nvmWrite_begins hr hf hd,
      fun _ hp hw hsrc => nvmWrite_refused hr hf hd (.inr ⟨hp, hw, hsrc⟩)⟩,
    fun s v r q id n last hq hw hp => ⟨recordComplete_write hq hw hp, fun c l => recordComplete_write_resets hq hw hp⟩,
    fun s v r q n h hq hw hr => ⟨s, recordComplete_waits hq (by simpa [recordReady, hw] using hr), rfl⟩,
    fun s v r k => recordComplete_endsSave, fun s id d pages => nvmRead_yields, fun s id u poly d b x hr hu hpoly ha => ?_⟩
  subst hu hpoly
  refine ⟨fun hg => ⟨_, crcRun_busy hr ha hg, hr.completed, complete_frame (by decide) .refl⟩, fun hg hf hd hi hx => ?_⟩
  subst hx
  exact crcRun_yields hr ha hg hf hd hi

end Sys2Proof.Machine
end

section
/-! Firmware images: the marks that arm, schedule and disarm one, and the boot check (15). -/

set_option autoImplicit false
-- One declaration after the other: the text as one file holds many.
set_option Elab.async false

namespace Sys2Proof.Machine

/-! ### FW_MARK -/

section Mark
variable {s : State} {id mode : Nat} {d : Desc} {f : Desc → State → State}

theorem runMark_runs (hr : Runs s id 0x5A d) (hm : le d.bytes 16 1 = mode) : runMark id mode f s = .next (f d s) :=
  (runOp_runs hr).trans (congrArg _ (if_pos hm))

/-- An image that is held whole is armed (R545). -/
theorem runArm_held (hr : Runs s id 0x5A d) (hm : le d.bytes 16 1 = mode) (hi : imageHeld s = true) :
    runArm id mode f s = .next (f d (onNvm (fun n => { n with fwState := 2 }) s)) :=
  (runMark_runs hr hm).trans (congrArg _ (if_pos hi))

/-- Without a whole image the mark completes `CHECK` (R545). -/
theorem runArm_lacking (hr : Runs s id 0x5A d) (hm : le d.bytes 16 1 = mode) (hi : imageHeld s = false) :
    runArm id mode f s = .next (complete id stCHECK [] s) :=
  (runMark_runs hr hm).trans (congrArg _ (if_neg (by simp [hi])))

theorem disarm_yields (hr : Runs s id 0x5A d) (hm : le d.bytes 16 1 = 0) :
    Yields (.disarm id) s fun t => Completed id d stOK [] s t
      ∧ t.nvm = { s.nvm with scheduled := false, fwState := if s.nvm.fwState = 2 then 1 else s.nvm.fwState } ∧ (tevOf t 11).mode = 0
      ∧ (∀ k, k ≠ 11 → tevOf t k = tevOf s k) ∧ SameBut [.rings, .time, .nvm] s t := by
  refine .framed <| show ∃ t, execDisarm id s = .next t ∧ _ from ⟨_, runMark_runs hr hm, fun hf =>
    ⟨complete_completed hr.desc rfl rfl, complete_nvm .., ?_, fun k hk => ?_, hf⟩⟩
  · rw [complete_tevOf, tevOf_putTev, if_pos rfl]
  · rw [complete_tevOf, tevOf_putTev, if_neg hk]
    rfl

theorem arm_yields (hr : Runs s id 0x5A d) (hm : le d.bytes 16 1 = 1) :
    Yields (.arm id) s fun t =>
      (imageHeld s = true → Completed id d stOK [] s t ∧ t.nvm = { s.nvm with fwState := 2 })
      ∧ (imageHeld s = false → Completed id d stCHECK [] s t ∧ t.nvm = s.nvm) ∧ SameBut [.rings, .nvm] s t := by
  cases hi : imageHeld s
  · exact .framed ⟨_, runArm_lacking hr hm hi, fun hf => ⟨nofun, fun _ => ⟨hr.completed, complete_nvm ..⟩, hf⟩⟩
  · exact .framed ⟨_, runArm_held hr hm hi, fun hf => ⟨fun _ => ⟨complete_completed hr.desc rfl rfl, complete_nvm ..⟩, nofun, hf⟩⟩

theorem armSchedule_yields (hr : Runs s id 0x5A d) (hm : le d.bytes 16 1 = 2) :
    Yields (.armSchedule id) s fun t =>
      (imageHeld s = true → Completed id d stOK [] s t ∧ t.nvm = { s.nvm with fwState := 2, scheduled := true } ∧ (tevOf t 11).mode = 1
        ∧ (outTime s ≤ startOf s (le d.bytes 24 8) (le d.bytes 32 4) →
            (tevOf t 11).next = startOf s (le d.bytes 24 8) (le d.bytes 32 4) ∧ tevLive (tevOf t 11) = true))
      ∧ (imageHeld s = false → Completed id d stCHECK [] s t ∧ t.nvm = s.nvm ∧ t.time = s.time)
      ∧ (∀ k, k ≠ 11 → tevOf t k = tevOf s k) ∧ SameBut [.outputs, .rings, .time, .nvm] s t := by
  cases hi : imageHeld s
  · exact .framed <| show ∃ t, execArmSchedule id s = .next t ∧ _ from ⟨_, runArm_lacking hr hm hi, fun hf =>
      ⟨nofun, fun _ => ⟨hr.completed, complete_nvm .., complete_time ..⟩, fun k _ => complete_tevOf .., hf⟩⟩
  · obtain ⟨hothers, hmode, hnext, -, -⟩ := tevArmNow_tev 11 1 (startOf s (le d.bytes 24 8) (le d.bytes 32 4)) 0 0
      (onNvm (fun n => { n with scheduled := true }) (onNvm (fun n => { n with fwState := 2 }) s))
    have hf : SameBut [.outputs, .time] _ (tevArmNow 11 1 (startOf s (le d.bytes 24 8) (le d.bytes 32 4)) 0 0
      (onNvm (fun n => { n with scheduled := true }) (onNvm (fun n => { n with fwState := 2 }) s))) := tevArmNow_frame (by decide) .refl
    refine .framed <| show ∃ t, execArmSchedule id s = .next t ∧ _ from ⟨_, runArm_held hr hm hi, fun hframe =>
      ⟨fun _ => ⟨?_, ?_, ?_, fun hstart => ?_⟩, nofun, fun k hk => ?_, hframe⟩⟩
    · exact complete_completed ((hf.descOf_eq id).trans hr.desc) (congrArg Rings.inflight hf.rings_eq) (congrArg Rings.done hf.rings_eq)
    · exact (complete_nvm ..).trans hf.nvm_eq
    · rw [complete_tevOf]
      exact hmode
    · obtain ⟨hlive, hn, -, -⟩ := hnext (by decide) hstart
      rw [complete_tevOf]
      exact ⟨hn, hlive⟩
    · rw [complete_tevOf]
      exact hothers k hk

/-- The reset of an arming waits for a record in progress (R57 R545). -/
theorem armReset_waits (hr : Runs s id 0x5A d) (hm : le d.bytes 16 1 = 3) (hi : imageHeld s = true) (hb : nvmBusy s = true) :
    Yields (.armReset id) s fun t => t.power = { s.power with rstPend := s.power.rstPend ++ [.soft] }
      ∧ t.nvm = { s.nvm with fwState := 2 } ∧ Completed id d stOK [] s t ∧ SameBut [.power, .rings, .nvm] s t := by
  refine show ∃ t, execArmReset id s = .next t ∧ _ from
    ⟨_, (runArm_held hr hm hi).trans (congrArg _ (requestReset_waits ?_)), ?_, complete_nvm .., ?_, ?_⟩
  · rw [complete_nvm]
    exact nvmBusy_eq_true_iff.1 hb
  · rw [complete_power]
    rfl
  · exact complete_completed hr.desc rfl rfl
  · exact setPower_frame (by decide) (complete_frame (by decide) (onNvm_frame (fun _ => rfl) (fun _ => rfl) (by decide) .refl))

theorem armReset_now (hr : Runs s id 0x5A d) (hm : le d.bytes 16 1 = 3) (hi : imageHeld s = true) (hb : nvmBusy s = false) :
    Yields (.armReset id) s fun t => Restarted .soft s t
      ∧ t.power.causes = causeBits (.soft :: s.power.rstPend) s.power.causes ∧ t.power.held = holds s.power
      ∧ t.nvm.fwState = 0 ∧ t.nvm.running = false := by
  refine show ∃ t, execArmReset id s = .next t ∧ _ from
    ⟨_, (runArm_held hr hm hi).trans (congrArg _ (requestReset_now ?_)), ?_, ?_, ?_, rfl, rfl⟩
  · rw [complete_nvm]
    exact nvmBusy_eq_false_iff.1 hb
  · refine chipReset_restarted.from (complete_frame (by decide) (onNvm_frame (fun _ => rfl) (fun _ => rfl) (by decide) .refl)) ?_
    rw [complete_nvm]
    rfl
  · rw [chipReset_power, complete_power]
    rfl
  · rw [chipReset_power, complete_power]
    rfl

end Mark

/-- A scheduled boot asks for a chip reset (R546). -/
theorem scheduledBoot_asks {s : State} (hr : runs .mp s = true) (hsch : s.nvm.scheduled = true) (hs : s.power.saving = false)
    (ha : s.power.awaitVin = false) (hl : s.power.thermLatch = false) : exec .scheduledBoot s = .next (requestReset .soft s) := by
  simp [exec, execScheduledBoot, ifRuns_runs hr, when_, hsch, hs, ha, hl]

/-! ### Retained charge at the start of firmware -/

section Settle
variable {s t : State}

theorem SameBut.butLogs {l : List Part} (k : SameBut l s t) (hn : .nvm ∉ l := by decide) (hp : .pages ∉ l := by decide) : ButLogs s t := by
  rw [ButLogs, k.nvm_eq hn hp]

theorem makeOrphan_butLogs {o : Orphan} : ButLogs s (makeOrphan o s) := by
  unfold makeOrphan
  extract_lets x u
  have hu : ButLogs s u := ButLogs.trans (t := { s with journal := x.1 }) rfl trimCopies_butLogs
  split
  · rwa [ButLogs, raise_nvm]
  · exact hu

theorem applyRetained1_butLogs {n : Nat} {bad : List Nat} {r : Retained} : ButLogs s (applyRetained1 n bad r s) := by
  unfold applyRetained1
  extract_lets u y w t rule v
  have hw : SameBut [.freeCtr, .journal] s w := loseRetained_frame (by decide) (poisonBlocks_frame (by decide) .refl)
  split
  · refine SameBut.butLogs (l := [.freeCtr, .journal, .tiles]) <| putTile_frame (by decide) ?_
    exact .ite (fun _ => poisonBlocks_frame (by decide) (hw.mono (by decide))) fun _ => hw.mono (by decide)
  · split
    · exact hw.butLogs
    · exact hw.butLogs.trans makeOrphan_butLogs

theorem applyRetaineds_butLogs {n : Nat} {bad : List Nat} (rs : List Retained) : ∀ {s : State}, ButLogs s (applyRetaineds n bad rs s) := by
  induction rs with
  | nil => exact rfl
  | cons r rs ih => exact applyRetained1_butLogs.trans ih

theorem settleRetained_butLogs (n : Nat) : ButLogs s (settleRetained n s) := by
  induction n with
  | zero => exact rfl
  | succ n ih =>
    unfold settleRetained
    extract_lets u
    split
    · exact ih
    · refine ih.trans ?_
      exact ButLogs.trans (t := { u with journal := _ }) rfl (applyRetaineds_butLogs _)

end Settle

/-! ### Triggers -/

section Triggers
variable {s : State} {k : Nat}

theorem tevArmNow_TK {m : Nat} {a p w : Int} : TK s (tevArmNow k m a p w s) := by
  unfold tevArmNow
  dsimp only
  split
  · exact (putTev_TK ..).trans (setTevPin_TK ..)
  · split
    · exact ((putTev_TK ..).trans (setTevPin_TK ..)).trans (tevFire_TK ..)
    · exact (putTev_TK ..).trans (setTevPin_TK ..)

theorem armTrigger_outTime {p : Int} : outTime (armTrigger k p s) = outTime s := outTime_TK tevArmNow_TK

/-- A trigger of the management processor is armed as a periodic channel, its first edge one period away (R518). -/
theorem armTrigger_self {p : Int} (hp : 0 ≤ p) :
    (tevOf (armTrigger k p s) k).mode = 2 ∧ (tevOf (armTrigger k p s) k).next = outTime s + p := by
  obtain ⟨-, hmode, hnext, -, -⟩ := tevArmNow_tev k 2 (outTime s + p) p 0 s
  exact ⟨hmode, (hnext (by decide) (by omega)).2.1⟩

theorem armTrigger_other {p : Int} {j : Nat} (hj : j ≠ k) : tevOf (armTrigger k p s) j = tevOf s j :=
  (tevArmNow_tev k 2 (outTime s + p) p 0 s).1 j hj

theorem armTrigger_leaves {p : Int} : SameBut [.outputs, .time] s (armTrigger k p s) := armTrigger_frame (by decide) .refl

end Triggers

/-! ### The boot check -/

section Boot
variable {s t : State}

/-- With every page of the configuration partition committed there is nothing to discard (R533). -/
theorem discardPages_clean (h : ∀ e ∈ s.nvm.pages, 6272 ≤ e.1 → e.1 < 7296 → e.2.seq ≠ 0) : discardPages s = s := by
  refine if_neg fun hbad => ?_
  obtain ⟨e, he, hb⟩ := List.any_eq_true.1 hbad
  simp only [Bool.and_eq_true, decide_eq_true_eq] at hb
  exact h e he hb.1.1 hb.1.2 hb.2

theorem reportCut_whole (h : s.nvm.saveCut = false) : reportCut s = s := if_neg (by simp [h])

theorem applyShutdown_none (h : s.nvm.shutdown = none) : applyShutdown s = s := by
  unfold applyShutdown
  rw [h]

theorem reportStuck_free (h : s.power.rstStuck = false) : reportStuck s = s := if_neg (by simp [h])

/-- The check has run, with its result (R538). -/
def bootSeen (s : State) : State := onNvm (fun n => { n with checked := true, result := bootResult s }) s

/-- The result of the check leaves the image it judged. -/
theorem partPage_bootSeen {part i : Nat} : partPage (bootSeen s) part i = partPage s part i := rfl

theorem imageHeader_bootSeen : imageHeader (bootSeen s) = imageHeader s := rfl

/-- What a boot does once the partitions are settled: the check, then the firmware or none (R538). -/
def bootVerdict (s : State) : State :=
  if bootResult s = 0 then startFirmware (onNvm (fun n => { n with result := bootResult s }) s)
  else raise 354 (onNvm (fun n => { n with noFw := true, xfer := n.record }) (onNvm (fun n => { n with result := bootResult s }) s))

/-- An event whose condition holds has its effect alone. -/
theorem when_holds {b : Bool} {f : State → State} (h : b = true) : when_ b f s = .next (f s) := congrArg _ (if_pos h)

/-- A boot that finds every word readable settles the partitions and then judges the image (R533 R538). -/
theorem bootCheck_judges (hr : runs .mp s = true) (hh : s.power.held = false) (hc : s.nvm.checked = false) :
    exec (.bootCheck { unreadable := [] }) s = .next (bootVerdict (applyShutdown (reportCut (discardPages
      (onNvm (fun n => { n with checked := true, badPages := n.badPages ++ [] }) s))))) := by
  have hfirst : (!s.power.held && !s.nvm.checked) = true := by rw [hh, hc]; rfl
  exact (ifRuns_runs hr).trans (when_holds hfirst)

/-- With no save cut short, no shutdown record and no page half written a boot is the check alone (R538). -/
theorem bootCheck_runs (hr : runs .mp s = true) (hh : s.power.held = false) (hc : s.nvm.checked = false) (hs : s.nvm.shutdown = none)
    (hcut : s.nvm.saveCut = false) (hp : ∀ e ∈ s.nvm.pages, 6272 ≤ e.1 → e.1 < 7296 → e.2.seq ≠ 0) :
    exec (.bootCheck { unreadable := [] }) s = .next (if bootResult s = 0 then startFirmware (bootSeen s)
      else raise 354 (onNvm (fun n => { n with noFw := true, xfer := n.record }) (bootSeen s))) := by
  have hsettled : applyShutdown (reportCut (discardPages (onNvm (fun n => { n with checked := true, badPages := n.badPages ++ [] }) s)))
      = onNvm (fun n => { n with checked := true }) s := by
    simp only [List.append_nil]
    rw [discardPages_clean, reportCut_whole, applyShutdown_none]
    exacts [hs, hcut, hp]
  rw [bootCheck_judges hr hh hc, hsettled]
  rfl

/-- Neither a chip held in reset nor one that has booted boots (R538). -/
theorem bootCheck_passes {b : BootSeen} (h : s.power.held = true ∨ s.nvm.checked = true) : exec (.bootCheck b) s = .next s := by
  have hc : (!s.power.held && !s.nvm.checked) = false := by obtain h | h := h <;> simp [h]
  cases hr : runs .mp s
  · exact ifRuns_still hr
  · exact (ifRuns_runs hr).trans (when_fails hc)

/-- The firmware's own record of its start (R538 R540). -/
def firmwareIn (s : State) : State := onNvm (fun n => { n with
  running := true, noFw := false, version := le (imageHeader s) 8 4, loaded := imageBody s, xfer := {}, record := {} }) s

/-- The firmware in, its triggers armed (R518). -/
def firmwareArmed (s : State) : State :=
  armTrigger 10 (s.cal.probeAfter * tuSec) (armTrigger 9 (s.tiles.commitMin * 60 * tuSec) (armTrigger 8 tuSec (firmwareIn s)))

/-- After a `RESET_N` that was not stuck a start arms the triggers and then settles what waits (R56 R269 R280 R406). -/
theorem startFirmware_eq (h : s.power.rstStuck = false) : startFirmware s = loadCal (readCurves 8 (settleRetained 8 (firmwareArmed s))) := by
  have hpower : (firmwareArmed s).power = s.power :=
    armTrigger_leaves.power_eq.trans (armTrigger_leaves.power_eq.trans armTrigger_leaves.power_eq)
  unfold startFirmware
  dsimp only
  rw [armTrigger_leaves.cal_eq, armTrigger_leaves.cal_eq, armTrigger_leaves.tiles_eq]
  exact congrArg (fun u => loadCal (readCurves 8 (settleRetained 8 u))) (reportStuck_free (hpower ▸ h))

/-- What follows the triggers at a start leaves the time and, but for the copies of the log, the NVM (R518). -/
theorem startFirmware_settles (h : s.power.rstStuck = false) :
    (startFirmware s).time = (firmwareArmed s).time ∧ ButLogs (firmwareIn s) (startFirmware s) := by
  have hsettle : SameBut [.freeCtr, .tiles, .journal, .faults, .nvm] (firmwareArmed s) (settleRetained 8 (firmwareArmed s)) :=
    settleRetained_frame (by decide) .refl
  have hload : ∀ u, SameBut [.outputs, .faults, .cal] u (loadCal (readCurves 8 u)) := fun _ =>
    loadCal_frame (by decide) (readCurves_frame (by decide) .refl)
  have harm : (firmwareArmed s).nvm = (firmwareIn s).nvm :=
    armTrigger_leaves.nvm_eq.trans (armTrigger_leaves.nvm_eq.trans armTrigger_leaves.nvm_eq)
  rw [startFirmware_eq h]
  refine ⟨(hload _).time_eq.trans hsettle.time_eq, ?_⟩
  have hin : ButLogs (firmwareIn s) (firmwareArmed s) := by rw [ButLogs, harm]
  exact hin.trans ((settleRetained_butLogs 8).trans (hload _).butLogs)

theorem firmwareArmed_triggers :
    (∀ k, k = 8 ∨ k = 9 ∨ k = 10 → (tevOf (firmwareArmed s) k).mode = 2) ∧ (tevOf (firmwareArmed s) 8).next = outTime s + tuSec
      ∧ (tevOf (firmwareArmed s) 9).next = outTime s + s.tiles.commitMin * 60 * tuSec
      ∧ (tevOf (firmwareArmed s) 10).next = outTime s + s.cal.probeAfter * tuSec := by
  have hsec : (0 : Int) ≤ tuSec := by decide
  have hcommit : (0 : Int) ≤ s.tiles.commitMin * 60 * tuSec := by unfold tuSec; omega
  have hprobe : (0 : Int) ≤ s.cal.probeAfter * tuSec := by unfold tuSec; omega
  have h8 : tevOf (firmwareArmed s) 8 = tevOf (armTrigger 8 tuSec (firmwareIn s)) 8 :=
    (armTrigger_other (by decide)).trans (armTrigger_other (by decide))
  have h9 : tevOf (firmwareArmed s) 9 = tevOf (armTrigger 9 (s.tiles.commitMin * 60 * tuSec) (armTrigger 8 tuSec (firmwareIn s))) 9 :=
    armTrigger_other (by decide)
  obtain ⟨hmode8, hnext8⟩ := armTrigger_self (s := firmwareIn s) (k := 8) hsec
  obtain ⟨hmode9, hnext9⟩ := armTrigger_self (s := armTrigger 8 tuSec (firmwareIn s)) (k := 9) hcommit
  obtain ⟨hmode10, hnext10⟩ := armTrigger_self (k := 10) (s := armTrigger 9 (s.tiles.commitMin * 60 * tuSec) (armTrigger 8 tuSec (firmwareIn s)))
    hprobe
  rw [armTrigger_outTime] at hnext9
  rw [armTrigger_outTime, armTrigger_outTime] at hnext10
  refine ⟨?_, ?_, ?_, hnext10⟩
  · rintro k (rfl | rfl | rfl)
    · rw [h8, hmode8]
    · rw [h9, hmode9]
    · exact hmode10
  · rw [h8, hnext8]
    rfl
  · rw [h9, hnext9]
    rfl

/-- What the NVM holds after a start (R538). -/
theorem firmwareIn_bootSeen_nvm (h : ButLogs (firmwareIn (bootSeen s)) t) : t.nvm.checked = true ∧ t.nvm.result = bootResult s
    ∧ t.nvm.pages = s.nvm.pages ∧ t.nvm.running = true ∧ t.nvm.noFw = false ∧ t.nvm.version = le (imageHeader s) 8 4 :=
  ⟨congrArg Nvm.checked h, congrArg Nvm.result h, (congrArg Nvm.pages h :), congrArg Nvm.running h, congrArg Nvm.noFw h, congrArg Nvm.version h⟩

/-- A boot that finds an image fit starts the firmware with its triggers armed; any other stays in Chrysalis (R518 R538). -/
theorem bootCheck_yields (hr : runs .mp s = true) (hh : s.power.held = false) (hc : s.nvm.checked = false) (hs : s.nvm.shutdown = none)
    (hcut : s.nvm.saveCut = false) (hstuck : s.power.rstStuck = false)
    (hp : ∀ e ∈ s.nvm.pages, 6272 ≤ e.1 → e.1 < 7296 → e.2.seq ≠ 0) :
    Yields (.bootCheck { unreadable := [] }) s fun t => t.nvm.checked = true ∧ t.nvm.result = bootResult s ∧ t.nvm.pages = s.nvm.pages
      ∧ (bootResult s = 0 → t.nvm.running = true ∧ t.nvm.noFw = false ∧ t.nvm.version = le (imageHeader s) 8 4
          ∧ (∀ k, k = 8 ∨ k = 9 ∨ k = 10 → (tevOf t k).mode = 2) ∧ (tevOf t 8).next = outTime s + tuSec
          ∧ (0 < s.tiles.commitMin → (tevOf t 9).next = outTime s + s.tiles.commitMin * 60 * tuSec)
          ∧ (0 < s.cal.probeAfter → (tevOf t 10).next = outTime s + s.cal.probeAfter * tuSec))
      ∧ (bootResult s ≠ 0 → t.nvm.noFw = true ∧ t.nvm.running = s.nvm.running ∧ Drives 354 t ∧ t.time = s.time)
      ∧ SameBut [.outputs, .freeCtr, .rings, .tiles, .journal, .faults, .cal, .time, .pages, .nvm] s t := by
  refine .framed ⟨_, bootCheck_runs hr hh hc hs hcut hp, fun hf => ?_⟩
  by_cases h : bootResult s = 0
  · rw [if_pos h] at hf ⊢
    obtain ⟨htime, hnvm⟩ := startFirmware_settles (s := bootSeen s) hstuck
    obtain ⟨hmode, hnext8, hnext9, hnext10⟩ := firmwareArmed_triggers (s := bootSeen s)
    obtain ⟨hchecked, hresult, hpages, hrunning, hnoFw, hversion⟩ := firmwareIn_bootSeen_nvm hnvm
    have htev : ∀ k, tevOf (startFirmware (bootSeen s)) k = tevOf (firmwareArmed (bootSeen s)) k := fun k => by rw [tevOf, htime, ← tevOf]
    refine ⟨hchecked, hresult, hpages, fun _ => ⟨hrunning, hnoFw, hversion, fun k hk => ?_, ?_, fun _ => ?_, fun _ => ?_⟩,
      fun hn => absurd h hn, hf⟩
    · rw [htev, hmode k hk]
    · rw [htev, hnext8]
      rfl
    · rw [htev, hnext9]
      rfl
    · rw [htev, hnext10]
      rfl
  · rw [if_neg h] at hf ⊢
    have hraise : ∀ u : State, SameBut [.faults] u (raise 354 u) := fun _ => raise_frame (by decide) .refl
    rw [(hraise _).nvm_eq]
    exact ⟨rfl, rfl, rfl, fun h0 => absurd h0 h, fun _ => ⟨rfl, rfl, raise_drives _ _, (hraise _).time_eq⟩, hf⟩

end Boot

/-- Settles O48: each mark is an operation on an image held whole or a `CHECK`; the resets are asked for and wait as any other; the boot check
leaves the image it judged, and its start leaves the triggers as it armed them. -/
theorem firmwareMarks : Obligations.FirmwareMarks := by
  refine ⟨fun s id d hr => ⟨disarm_yields hr, arm_yields hr, armSchedule_yields hr,
      fun hm hi => ⟨armReset_waits hr hm hi, armReset_now hr hm hi⟩,
      fun hm hi => ?_⟩, fun s hr hsch hs ha hl => ⟨fun hb => ?_, fun hb => ?_⟩,
    fun s hr hh hc hs hcut hstuck hp => bootCheck_yields hr hh hc hs hcut hstuck hp, fun s b h => ⟨s, bootCheck_passes h, rfl⟩⟩
  · exact show ∃ t, execArmReset id s = .next t ∧ _ from ⟨_, runArm_lacking hr hm hi, hr.completed, complete_frame (by decide) .refl⟩
  · rw [nvmBusy_eq_true_iff] at hb
    refine ⟨_, scheduledBoot_asks hr hsch hs ha hl, ?_⟩
    rw [requestReset_waits hb]
    exact ⟨rfl, setPower_frame (by decide) .refl⟩
  · rw [nvmBusy_eq_false_iff] at hb
    refine ⟨_, scheduledBoot_asks hr hsch hs ha hl, ?_⟩
    rw [requestReset_now hb]
    exact ⟨chipReset_restarted, by rw [chipReset_power]⟩

end Sys2Proof.Machine
end

section
/-! The most guarded stores: the active protection table, the safety set in force and the pages of the NVM, and who writes them (03, 10, 15). -/

set_option autoImplicit false
-- One declaration after the other: the text as one file holds many.
set_option Elab.async false

namespace Sys2Proof.Machine

/-! ### Kept, or emptied by a chip reset -/

/-- The safety set in force and its source are as they were. -/
def SetKept (s t : State) : Prop := t.safety.inForce = s.safety.inForce ∧ t.safety.src = s.safety.src

/-- The active protection table and the safety set in force are as they were. -/
def Guarded (s t : State) : Prop := t.prot.active = s.prot.active ∧ SetKept s t

/-- Both stores are as they were, or a chip reset has emptied both (R53). -/
def Spared (s t : State) : Prop := Guarded s t ∨ (t.prot = {} ∧ t.safety = {})

/-- A meaning ends in no other next state than one of which a property holds. -/
def EndsIn (P : State → Prop) (o : Out) : Prop := ∀ t, o = .next t → P t

section Rules
variable {s t u : State} {l : List Part} {P : State → Prop} {o q : Out}

theorem SameBut.setKept (h : SameBut l s t) (hs : .safeSet ∉ l := by decide) : SetKept s t := by
  obtain ⟨hset, hsrc, -⟩ := h.parts .safeSet hs
  exact ⟨hset, hsrc⟩

theorem SameBut.guarded (h : SameBut l s t) (hp : .prot ∉ l := by decide) (hs : .safeSet ∉ l := by decide) : Guarded s t :=
  ⟨congrArg Prot.active (h.prot_eq hp), h.setKept hs⟩

theorem SetKept.trans (h : SetKept s t) (k : SetKept t u) : SetKept s u := ⟨k.1.trans h.1, k.2.trans h.2⟩

theorem Guarded.trans (h : Guarded s t) (k : Guarded t u) : Guarded s u := ⟨k.1.trans h.1, h.2.trans k.2⟩

theorem Guarded.then (h : Guarded s t) (k : Spared t u) : Spared s u := k.imp_left h.trans

/-- What follows without either island keeps what a chip reset has emptied. -/
theorem Spared.quiet (h : Spared s t) (k : SameBut l t u) (hp : .prot ∉ l := by decide) (hc : .chans ∉ l := by decide)
    (hs : .safeSet ∉ l := by decide) (hf : .safety ∉ l := by decide) : Spared s u := by
  obtain hg | ⟨htable, hset⟩ := h
  · exact .inl (hg.trans (k.guarded hp hs))
  · exact .inr ⟨(k.prot_eq hp).trans htable, (k.safety_eq hf hc hs).trans hset⟩

theorem Spared.ite {p : Prop} [Decidable p] (h : p → Spared s t) (k : ¬p → Spared s u) : Spared s (if p then t else u) := by
  split
  · exact h ‹_›
  · exact k ‹_›

theorem chipReset_spared {c : Cause} : Spared s (chipReset c t) := .inr ⟨rfl, rfl⟩

theorem EndsIn.next (h : P t) : EndsIn P (.next t) := by
  rintro _ ⟨⟩
  exact h

theorem EndsIn.ite {p : Prop} [Decidable p] (h : p → EndsIn P o) (k : ¬p → EndsIn P q) : EndsIn P (if p then o else q) := by
  split
  · exact h ‹_›
  · exact k ‹_›

theorem ifRuns_endsIn {i : Isl} (h : P s) (ho : EndsIn P o) : EndsIn P (ifRuns s i o) := .ite (fun _ => ho) fun _ => .next h

theorem when_endsIn {b : Bool} {f : State → State} (h : P s) (hf : P (f s)) : EndsIn P (when_ b f s) := by
  refine .next ?_
  split
  · exact hf
  · exact h

theorem runOp_endsIn {id op : Nat} {f : Desc → State} (h : P s) (hf : ∀ d, P (f d)) : EndsIn P (runOp s id op f) := by
  unfold runOp
  split
  · exact .next h
  · refine .next ?_
    split
    · exact hf _
    · exact h

theorem Goes.guarded (h : Goes l s o) (hp : .prot ∉ l := by decide) (hs : .safeSet ∉ l := by decide) : EndsIn (Guarded s) o := by
  obtain ⟨t, rfl, ht⟩ := h
  exact .next (ht.guarded hp hs)

theorem Guarded.refl : Guarded s s := ⟨rfl, rfl, rfl⟩

theorem Spared.refl : Spared s s := .inl .refl

end Rules

/-! ### Resets, and what ends in one -/

section Resets
variable {s : State}

theorem requestReset_spared {c : Cause} : Spared s (requestReset c s) :=
  .ite (fun _ => .inl ⟨rfl, rfl, rfl⟩) fun _ => chipReset_spared

theorem gotBlock_spared {i : Nat} : Spared s (gotBlock i s) := by
  unfold gotBlock
  refine .ite (fun _ => .refl) fun _ => ?_
  extract_lets u all x v
  have hv : Guarded s v := SameBut.guarded (l := [.freeCtr, .rings, .safety, .cal, .nvm]) <| .ite
    (fun _ => queueRecs_frame (by decide) <| openPage_frame (by decide) <| onXfer_frame (by decide) (onXfer_frame (by decide) .refl))
    fun _ => onXfer_frame (by decide) .refl
  exact .ite (fun _ => hv.then requestReset_spared) fun _ => .inl hv

theorem gotPage_spared {p : Nat} : Spared s (gotPage p s) := by
  have hx : ∀ f, Guarded s (onXfer f s) := fun _ => ⟨rfl, rfl, rfl⟩
  exact .ite (fun _ => (hx _).then gotBlock_spared) fun _ => .inl (hx _)

/-- What a record's marker brings about spares both stores; the reset of a whole image empties them (R539). -/
theorem recordEffect_spared {r : Rec} : Spared s (recordEffect r s) := by
  have hcommit : Guarded s (commitPage r.page r.bytes s) := ⟨rfl, rfl, rfl⟩
  unfold recordEffect
  split
  case h_1 id last done =>
    exact Spared.quiet (l := [.rings]) (.ite (fun _ => hcommit.then gotPage_spared) fun _ => .inl hcommit)
      (.ite (fun _ => complete_frame (by decide) .refl) fun _ => .refl)
  case h_2 id => exact .ite (fun _ => .inl ⟨rfl, rfl, rfl⟩) fun _ => .inl hcommit
  case h_3 => exact .inl ⟨rfl, rfl, rfl⟩
  case h_4 => exact .inl ⟨rfl, rfl, rfl⟩
  case h_5 i last => exact .ite (fun _ => hcommit.then gotBlock_spared) fun _ => .inl hcommit
  case h_6 n h => exact Spared.quiet (l := [.power, .tiles, .journal, .nvm]) .refl (setPower_frame (by decide) (saveHalf_frame (by decide) .refl))
  case h_7 =>
    exact .ite (fun _ => .inr ⟨rfl, rfl⟩) fun _ =>
      Spared.quiet (l := [.power, .faults, .nvm]) .refl (setPower_frame (by decide) (copyLog_frame (by decide) .refl))
  case h_8 => exact chipReset_spared
  case h_9 => exact Spared.quiet (l := [.faults, .nvm]) .refl (copyLog_frame (by decide) .refl)

theorem recordDone_spared : Spared s (recordDone s) := by
  unfold recordDone
  split
  · exact .refl
  · exact .ite (fun _ => Guarded.then ⟨rfl, rfl, rfl⟩ recordEffect_spared) fun _ => .refl

theorem execNvmRecordComplete_spared {v : VholdSeen} : EndsIn (Spared s) (execNvmRecordComplete s v) := by
  have hd : Spared s (recordDone s) := recordDone_spared
  unfold execNvmRecordComplete
  split
  · exact .next .refl
  · refine .ite (fun _ => .next .refl) fun _ => .ite (fun _ => .next ?_) fun _ => .ite (fun _ => .next hd) fun _ => ?_
    · exact hd.quiet (l := [.power, .faults]) (vholdLevel_frame (by decide) (setPower_frame (by decide) .refl))
    · split
      · exact .next chipReset_spared
      · exact .next hd

theorem execVinRemoval_spared : EndsIn (Spared s) (execVinRemoval s) := .next (.inr ⟨rfl, rfl⟩)

theorem execRailUndervoltage_spared {r : Rail} : EndsIn (Spared s) (execRailUndervoltage r s) :=
  .next <| Spared.quiet (l := [.power]) (.ite (fun _ => .refl) fun _ => chipReset_spared) (setPower_frame (by decide) .refl)

theorem execVinRisePor_spared : EndsIn (Spared s) (execVinRisePor s) := when_endsIn .refl (.inr ⟨rfl, rfl⟩)

theorem execResetNLow_spared : EndsIn (Spared s) (execResetNLow s) := by
  have hpin : Guarded s { s with power := { s.power with pinLow := true } } := ⟨rfl, rfl, rfl⟩
  exact .ite (fun _ => .next .refl) fun _ => when_endsIn (.inl hpin) (hpin.then requestReset_spared)

theorem execSwrstKey_spared {l : Bool} {v : BitVec 32} : EndsIn (Spared s) (execSwrstKey l v s) := when_endsIn .refl requestReset_spared

theorem execScheduledBoot_spared : EndsIn (Spared s) (execScheduledBoot s) :=
  ifRuns_endsIn .refl (when_endsIn .refl requestReset_spared)

theorem execArmReset_spared {id : Nat} : EndsIn (Spared s) (execArmReset id s) := by
  refine runOp_endsIn .refl fun d => .ite (fun _ => .ite (fun _ => ?_) fun _ => ?_) fun _ => .refl
  · refine Guarded.then ?_ requestReset_spared
    exact SameBut.guarded (l := [.rings, .nvm]) (complete_frame (by decide) (onNvm_frame (fun _ => rfl) (fun _ => rfl) (by decide) .refl))
  · exact Spared.quiet (l := [.rings]) .refl (complete_frame (by decide) .refl)

end Resets

/-! ### Register writes: only APPLY and the key of a soft reset reach the two stores -/

section Registers
variable {s : State} {l : Bool} {o v : Nat}

/-- The level of a ring is written in the shadow (R84). -/
theorem storeSqCfg_guarded {n w : Nat} : Guarded s (storeSqCfg n w s) := by
  unfold storeSqCfg
  dsimp only
  split <;> exact ⟨rfl, rfl, rfl⟩

theorem execSqEnable_guarded {n : Fin 32} {w : BitVec 32} : EndsIn (Guarded s) (execSqEnable n l w s) := by
  have hc : Guarded s (storeSqCfg n.val w.toNat s) := storeSqCfg_guarded
  refine when_endsIn .refl ?_
  dsimp only
  split
  · exact hc.trans ⟨rfl, rfl, rfl⟩
  · exact hc

theorem execSqDrain_guarded {n : Fin 32} {w : BitVec 32} : EndsIn (Guarded s) (execSqDrain n l w s) := by
  have hc : Guarded s (storeSqCfg n.val w.toNat s) := storeSqCfg_guarded
  refine when_endsIn .refl ?_
  dsimp only
  split
  · refine hc.trans (SameBut.guarded (l := [.link, .rings, .chain]) ?_)
    exact drainEnd_frame (by decide) (flushAll_frame (by decide) (dropFetches_frame (by decide) (putSq_frame (by decide) .refl)))
  · exact hc

theorem writeSq_guarded {n : Fin 32} : EndsIn (Guarded s) (writeSq l n o v s) := by
  unfold writeSq
  dsimp only
  split
  case h_3 => exact .ite (fun _ => execSqEnable_guarded) fun _ => execSqDrain_guarded
  all_goals (repeat' split) <;> exact .next ⟨rfl, rfl, rfl⟩

theorem writeCq_guarded {n : Fin 32} : EndsIn (Guarded s) (writeCq l n o v s) := by
  unfold writeCq
  dsimp only
  split
  case h_3 => exact .ite (fun _ => execCqEnable_goes.guarded) fun _ => execCqDisable_goes.guarded
  all_goals (repeat' split) <;> exact .next ⟨rfl, rfl, rfl⟩

/-- The shadow of the protection table is all that the window writes beside APPLY (R84 R95 R97). -/
theorem writeHif_guarded (ho : o ≠ 0x940) : EndsIn (Guarded s) (writeHif l o v s) := by
  unfold writeHif
  refine .ite (fun _ => writeSq_guarded) fun _ => .ite (fun _ => writeCq_guarded) fun _ => ?_
  (repeat' split)
  case h_1 => exact absurd rfl ho
  all_goals exact .next ⟨rfl, rfl, rfl⟩

theorem writeCmp_guarded : EndsIn (Guarded s) (writeCmp l o v s) := by
  unfold writeCmp
  dsimp only
  (repeat' split) <;> exact .next ⟨rfl, rfl, rfl⟩

theorem writeFrm_guarded : EndsIn (Guarded s) (writeFrm o v s) := by
  unfold writeFrm
  dsimp only
  split <;> exact .next ⟨rfl, rfl, rfl⟩

theorem writeFrd_guarded {f : Nat} : EndsIn (Guarded s) (writeFrd l f o v s) := by
  unfold writeFrd
  dsimp only
  split
  case h_5 =>
    refine Goes.guarded (l := [.outputs, .cal, .time]) (.next ?_)
    exact .ite (fun _ => writeDiagCfg_frame (by decide) .refl) fun _ => .refl
  all_goals (repeat' split) <;> exact .next ⟨rfl, rfl, rfl⟩

theorem writeStr_guarded : EndsIn (Guarded s) (writeStr o v s) := by
  unfold writeStr
  split <;> exact .next ⟨rfl, rfl, rfl⟩

theorem writeTil_guarded {n : Nat} : EndsIn (Guarded s) (writeTil n o v s) := by
  unfold writeTil
  split <;> exact .next ⟨rfl, rfl, rfl⟩

theorem writeLdg_guarded : EndsIn (Guarded s) (writeLdg l o v s) := by
  unfold writeLdg
  split
  case h_1 =>
    refine Goes.guarded (l := [.outputs, .tiles, .time]) (.next ?_)
    exact .ite (fun _ => writeLdgCtrl_frame (by decide) .refl) fun _ => .refl
  all_goals exact .next ⟨rfl, rfl, rfl⟩

/-- The window of safety writes its lock, its counters and its valid flags only (R363 R365 R366 R367). -/
theorem writeSaf_guarded : EndsIn (Guarded s) (writeSaf l o v s) := by
  unfold writeSaf
  split
  case h_1 => exact execSafeLock_goes.guarded
  all_goals exact .next ⟨rfl, rfl, rfl⟩

theorem writeFlt_guarded : EndsIn (Guarded s) (writeFlt l o v s) := by
  unfold writeFlt
  refine .ite (fun _ => .ite (fun _ => .next .refl) fun _ => ?_) fun _ => ?_
  · (repeat' split) <;> exact .next ⟨rfl, rfl, rfl⟩
  · split
    case h_1 => exact execRearm_goes.guarded
    all_goals exact .next ⟨rfl, rfl, rfl⟩

theorem writeCal_guarded : EndsIn (Guarded s) (writeCal l o v s) := by
  unfold writeCal
  dsimp only
  split <;> exact .next ⟨rfl, rfl, rfl⟩

theorem writeThm_guarded : EndsIn (Guarded s) (writeThm l o v s) := by
  unfold writeThm
  refine .ite (fun _ => .next ?_) fun _ => ?_
  · split <;> exact ⟨rfl, rfl, rfl⟩
  · split
    case h_2 => exact execUnfreeze_goes.guarded
    all_goals exact .next ⟨rfl, rfl, rfl⟩

theorem writePort_guarded {p : Fin 2} : EndsIn (Guarded s) (writePort l p o v s) := by
  unfold writePort
  dsimp only
  refine .ite (fun _ => .next ?_) fun _ => ?_
  · split <;> exact ⟨rfl, rfl, rfl⟩
  · split
    case h_1 =>
      exact .ite (fun _ => execRetrain_goes.guarded) fun _ => .ite (fun _ => execPortEnable_goes.guarded) fun _ => execPortDisable_goes.guarded
    all_goals exact .next ⟨rfl, rfl, rfl⟩

theorem writeChn_guarded : EndsIn (Guarded s) (writeChn l o v s) := by
  have hc : ∀ f, Guarded s (onChain f s) := fun _ => ⟨rfl, rfl, rfl⟩
  have hif : ∀ {p : Prop} [Decidable p] {f}, EndsIn (Guarded s) (.next (if p then onChain f s else s)) := fun {p} _ f =>
    .next (by split; exacts [hc f, .refl])
  unfold writeChn
  refine .ite (fun _ => writePort_guarded) fun _ => .ite (fun _ => hif) fun _ => .ite (fun _ => hif) fun _ =>
    .ite (fun _ => .next ⟨rfl, rfl, rfl⟩) fun _ => ?_
  split
  case h_2 | h_3 => exact hif
  case h_7 => exact .next .refl
  all_goals exact .next (hc _)

theorem writeTim_guarded : EndsIn (Guarded s) (writeTim l o v s) := by
  unfold writeTim
  split
  case h_2 | h_3 => exact execDomainEnWrite_goes.guarded
  all_goals (repeat' split) <;> exact .next ⟨rfl, rfl, rfl⟩

theorem writeNvm_guarded : EndsIn (Guarded s) (writeNvm l o v s) := by
  unfold writeNvm
  split <;> exact .next ⟨rfl, rfl, rfl⟩

theorem writeCrc_guarded : EndsIn (Guarded s) (writeCrc l o v s) := by
  unfold writeCrc
  dsimp only
  split <;> exact .next ⟨rfl, rfl, rfl⟩

theorem writePwr_guarded (ho : o ≠ 0x10) : EndsIn (Guarded s) (writePwr l o v s) := by
  unfold writePwr
  dsimp only
  split
  case h_3 => exact absurd rfl ho
  all_goals exact .next ⟨rfl, rfl, rfl⟩

/-- An offset other than a register's is another one within its window. -/
theorem offset_ne {x w r : Nat} (h : x ≠ w + r) (hr : r ≠ 0) : x - w ≠ r := by omega

/-- A register other than `HIF_PROT_CTRL` and `PWR_SWRST` reaches neither store. -/
theorem writeReg_guarded (ha : o ≠ 0x4940) (hk : o ≠ 0x70010) : EndsIn (Guarded s) (writeReg l o v s) := by
  have happly : o - 0x4000 ≠ 0x940 := offset_ne ha (by decide)
  have hkey : o - 0x70000 ≠ 0x10 := offset_ne hk (by decide)
  exact .ite (fun _ => .next .refl) fun _ => .ite (fun _ => writeHif_guarded happly) fun _ => .ite (fun _ => .next .refl) fun _ =>
    .ite (fun _ => writeCmp_guarded) fun _ => .ite (fun _ => writeFrm_guarded) fun _ => .ite (fun _ => writeFrd_guarded) fun _ =>
    .ite (fun _ => .next .refl) fun _ => .ite (fun _ => writeStr_guarded) fun _ => .ite (fun _ => writeTil_guarded) fun _ =>
    .ite (fun _ => .next .refl) fun _ => .ite (fun _ => writeLdg_guarded) fun _ => .ite (fun _ => writeSaf_guarded) fun _ =>
    .ite (fun _ => writeFlt_guarded) fun _ => .ite (fun _ => writeCal_guarded) fun _ => .ite (fun _ => writeThm_guarded) fun _ =>
    .ite (fun _ => writeChn_guarded) fun _ => .ite (fun _ => writeTim_guarded) fun _ => .ite (fun _ => writeNvm_guarded) fun _ =>
    .ite (fun _ => writeCrc_guarded) fun _ => .ite (fun _ => writePwr_guarded hkey) fun _ => .next .refl

theorem writeReg_apply : writeReg l 0x4940 v s = execApply l (BitVec.ofNat 32 v) s := rfl

theorem writeReg_swrst : writeReg l 0x70010 v s = execSwrstKey l (BitVec.ofNat 32 v) s := rfl

/-- The word above the key's is the enable of shedding, in Lichen (R66). -/
theorem writeReg_shed : Goes [.power] s (writeReg l 0x70014 v s) := .next (setPower_frame (by decide) .refl)

/-- A write of one or two words ends as its words do. -/
theorem execRegisterWrite_endsIn {P : State → Prop} {w : BitVec 32} {e : BitVec 4} {hi : Option (BitVec 32 × BitVec 4)} (h : P s)
    (hlow : EndsIn P (writeWord o w e s)) (hhigh : ∀ t x f, o % 8 = 0 → P t → EndsIn P (writeWord (o + 4) x f t)) :
    EndsIn P (execRegisterWrite o w s e hi) := by
  unfold execRegisterWrite
  refine ifRuns_endsIn h <| .ite (fun hopen => ?_) fun _ => .next h
  obtain ⟨t, ht, -⟩ := writeWord_goes (off := o) (value := w) (enables := e) (s := s)
  have hp : P t := hlow t ht
  rw [ht]
  cases hi with
  | none => exact .next hp
  | some x =>
    simp only [Option.isSome_some, if_true, Bool.and_eq_true, decide_eq_true_eq] at hopen
    exact hhigh t x.1 x.2 hopen.1.2 hp

section Word
variable {w : BitVec 32} {e : BitVec 4} {hi : Option (BitVec 32 × BitVec 4)}

theorem writeWord_guarded (ha : o % 0x80000 ≠ 0x4940) (hk : o % 0x80000 ≠ 0x70010) : EndsIn (Guarded s) (writeWord o w e s) :=
  .ite (fun _ => writeReg_guarded ha hk) fun _ => .next .refl

/-- The upper word of an aligned pair is neither APPLY nor the key. -/
theorem writeWord_upper_guarded (h8 : o % 8 = 0) : EndsIn (Guarded s) (writeWord (o + 4) w e s) :=
  writeWord_guarded (by omega) (by omega)

/-- Elsewhere than at APPLY and the key a register write reaches neither store. -/
theorem execRegisterWrite_guarded (ha : o % 0x80000 ≠ 0x4940) (hk : o % 0x80000 ≠ 0x70010) : EndsIn (Guarded s) (execRegisterWrite o w s e hi) :=
  execRegisterWrite_endsIn .refl (writeWord_guarded ha hk) fun _ _ _ h8 ht u hu => ht.trans (writeWord_upper_guarded h8 u hu)

/-- APPLY reaches the table alone (R84). -/
theorem execRegisterWrite_apply (ha : o % 0x80000 = 0x4940) : EndsIn (SetKept s) (execRegisterWrite o w s e hi) := by
  refine execRegisterWrite_endsIn ⟨rfl, rfl⟩ (.ite (fun _ => ?_) fun _ => .next ⟨rfl, rfl⟩)
    fun _ _ _ h8 ht u hu => ht.trans (writeWord_upper_guarded h8 u hu).2
  rw [ha, writeReg_apply]
  obtain ⟨t, ht, hf⟩ := execApply_goes (level0 := decide (0x80000 ≤ o)) (value := BitVec.ofNat 32 w.toNat) (s := s)
  rw [ht]
  exact .next hf.setKept

/-- The key resets the chip, or reaches neither store (R65). -/
theorem execRegisterWrite_swrst (hk : o % 0x80000 = 0x70010) : EndsIn (Spared s) (execRegisterWrite o w s e hi) := by
  refine execRegisterWrite_endsIn .refl (.ite (fun _ => ?_) fun _ => .next .refl) fun t x f h8 ht => .ite (fun _ => ?_) fun _ => .next ht
  · rw [hk, writeReg_swrst]
    exact execSwrstKey_spared
  · have hup : (o + 4) % 0x80000 = 0x70014 := by omega
    rw [hup]
    obtain ⟨u, hu, hf⟩ := writeReg_shed (l := decide (0x80000 ≤ o + 4)) (v := x.toNat) (s := t)
    rw [hu]
    exact .next (ht.quiet hf)

/-- But for APPLY a register write spares both stores. -/
theorem execRegisterWrite_spared (ha : o % 0x80000 ≠ 0x4940) : EndsIn (Spared s) (execRegisterWrite o w s e hi) := by
  by_cases hk : o % 0x80000 = 0x70010
  · exact execRegisterWrite_swrst hk
  · exact fun t ht => .inl (execRegisterWrite_guarded ha hk t ht)

end Word

end Registers

/-! ### All commands -/

section Writers
variable {c : Instr} {s t : State}

/-- Neither the protection table nor the safety set is among the parts that a command may write. -/
def leavesGuarded (c : Instr) : Bool := !(touches c).contains .prot && !(touches c).contains .safeSet

/-- A command whose meaning writes the protection table or the safety set in force, other than by a chip reset (R84 R119 R345 R361), or
which may be one (R80). -/
def servesGuarded : Instr → Bool
  | .apply .. | .protSet .. | .safetySelftest .. | .safetySetInForce | .registerWrite .. => true
  | _ => false

/-- Any other command spares both stores: it does not touch them, writes the shadow, or resets the chip. -/
theorem exec_spared (hs : servesGuarded c = false) (h : exec c s = .next t) : Spared s t := by
  by_cases hq : leavesGuarded c = true
  · simp only [leavesGuarded, Bool.and_eq_true, Bool.not_eq_true', List.contains_eq_mem, decide_eq_false_iff_not] at hq
    exact .inl ((exec_frame h).guarded hq.1 hq.2)
  cases c
  case vinRisePor => exact execVinRisePor_spared t h
  case resetNLow => exact execResetNLow_spared t h
  case swrstKey => exact execSwrstKey_spared t h
  case armReset => exact execArmReset_spared t h
  case scheduledBoot => exact execScheduledBoot_spared t h
  case vinRemoval => exact execVinRemoval_spared t h
  case railUndervoltage => exact execRailUndervoltage_spared t h
  case nvmRecordComplete => exact execNvmRecordComplete_spared t h
  case sqEnable => exact .inl (execSqEnable_guarded t h)
  case sqDrain => exact .inl (execSqDrain_guarded t h)
  case apply | protSet | safetySelftest | safetySetInForce | registerWrite => exact absurd hs Bool.noConfusion
  all_goals exact absurd rfl hq

theorem Spared.table (h : Spared s t) : t.prot.active = s.prot.active ∨ t.prot = {} := h.imp (·.1) (·.1)

theorem Spared.set (h : Spared s t) : (t.safety.inForce = s.safety.inForce ∧ t.safety.src = s.safety.src) ∨ t.safety = {} := h.imp (·.2) (·.2)

/-- The active table is written by APPLY, `PROT_SET` and a chip reset (R53 R84 R119). -/
theorem exec_table (h : exec c s = .next t) :
    t.prot.active = s.prot.active ∨ t.prot = {} ∨ (∃ l v, c = .apply l v) ∨ (∃ id, c = .protSet id)
    ∨ (∃ off v e x, c = .registerWrite off v e x ∧ off % 0x80000 = 0x4940) := by
  rw [← or_assoc]
  by_cases hs : servesGuarded c = false
  · exact .inl (exec_spared hs h).table
  cases c
  case apply l v => exact .inr (.inl ⟨l, v, rfl⟩)
  case protSet id => exact .inr (.inr (.inl ⟨id, rfl⟩))
  case safetySelftest =>
    exact .inl (.inl (congrArg Prot.active (SameBut.prot_eq (l := [.outputs, .chans, .safeSet, .safety, .faults]) (exec_frame h))))
  case safetySetInForce => exact .inl (.inl (congrArg Prot.active (SameBut.prot_eq (l := [.rings, .chans, .safeSet, .safety]) (exec_frame h))))
  case registerWrite off v e x =>
    by_cases ha : off % 0x80000 = 0x4940
    · exact .inr (.inr (.inr ⟨off, v, e, x, rfl, ha⟩))
    · exact .inl (execRegisterWrite_spared ha t h).table
  all_goals exact absurd rfl hs

/-- The safety set in force is written by the self-test, by `SAFETY_SET_IN_FORCE` and a chip reset (R53 R345 R361). -/
theorem exec_set (h : exec c s = .next t) : (t.safety.inForce = s.safety.inForce ∧ t.safety.src = s.safety.src) ∨ t.safety = {}
    ∨ (∃ ch r, c = .safetySelftest ch r) ∨ c = .safetySetInForce := by
  rw [← or_assoc]
  by_cases hs : servesGuarded c = false
  · exact .inl (exec_spared hs h).set
  cases c
  case apply => exact .inl (.inl (SameBut.setKept (l := [.prot]) (exec_frame h)))
  case protSet => exact .inl (.inl (SameBut.setKept (l := [.prot, .rings]) (exec_frame h)))
  case safetySelftest ch r => exact .inr (.inl ⟨ch, r, rfl⟩)
  case safetySetInForce => exact .inr (.inr rfl)
  case registerWrite off v e x =>
    by_cases ha : off % 0x80000 = 0x4940
    · exact .inl (.inl (execRegisterWrite_apply ha t h))
    · exact .inl (execRegisterWrite_spared ha t h).set
  all_goals exact absurd rfl hs

/-- The pages of the NVM are written by a record's end, whole or cut, and by the boot check (R531 R532 R533). -/
theorem exec_pages (h : exec c s = .next t) : t.nvm.pages = s.nvm.pages ∨ (∃ v, c = .nvmRecordComplete v) ∨ c = .vinRemoval
    ∨ (∃ r, c = .railUndervoltage r) ∨ (∃ b, c = .bootCheck b) := by
  by_cases hq : (touches c).contains .pages = false
  · exact .inl ((exec_frame h).parts .pages (by simpa using hq)).1
  right
  cases c
  case nvmRecordComplete v => exact .inl ⟨v, rfl⟩
  case vinRemoval => exact .inr (.inl rfl)
  case railUndervoltage r => exact .inr (.inr (.inl ⟨r, rfl⟩))
  case bootCheck b => exact .inr (.inr (.inr ⟨b, rfl⟩))
  all_goals exact absurd rfl hq

end Writers

/-- Settles O57: a command either does not touch a store, writes only beside it, resets the chip, or is one of its writers. -/
theorem guardedStores : Obligations.GuardedStores := fun _ _ _ h => ⟨exec_table h, exec_set h, exec_pages h⟩

end Sys2Proof.Machine
end

section
/-! The read tags of the host island and the identity register (R76 R78 R91). -/

set_option autoImplicit false
-- One declaration after the other: the text as one file holds many.
set_option Elab.async false

namespace Sys2Proof.Machine

/-- Settles O3: the lowest word of the GLB window is a constant, in both halves of BAR0. -/
theorem glbId : Obligations.GlbId := fun _ => ⟨rfl, rfl⟩

section Tags
variable {l : Link} {outs : List (Nat × Nat)} {k : Nat}

/-- The lowest epoch of a slot that is not abandoned, as `freeTag` looks for it (R78). -/
def freeEpoch (l : Link) (k : Nat) : Option Nat := [1, 2, 3].find? fun e => !l.abandoned.contains (k, e)

/-- The slots that no outstanding request holds, as `freeTag` goes through them (R76). -/
def freeSlots (l : Link) (outs : List (Nat × Nat)) : List Nat := (List.range (tagSlots l)).filter fun k => !outs.any fun o => o.1 == k

theorem freeTag_eq : freeTag l outs = (freeSlots l outs).findSome? fun k => (freeEpoch l k).map fun e => (k, e) := rfl

theorem mem_freeSlots : k ∈ freeSlots l outs ↔ k < tagSlots l ∧ ∀ o ∈ outs, o.1 ≠ k := by
  simp [freeSlots]

theorem freeEpoch_some {e : Nat} (h : freeEpoch l k = some e) : (1 ≤ e ∧ e ≤ 3) ∧ (k, e) ∉ l.abandoned := by
  have hmem : e ∈ [1, 2, 3] := List.mem_of_find?_eq_some h
  have hfree := List.find?_some h
  refine ⟨?_, by simpa using hfree⟩
  simp only [List.mem_cons, List.not_mem_nil, or_false] at hmem
  omega

theorem freeEpoch_none : freeEpoch l k = none ↔ ∀ e, 1 ≤ e → e ≤ 3 → (k, e) ∈ l.abandoned := by
  have hmem : ∀ e, e ∈ [1, 2, 3] ↔ 1 ≤ e ∧ e ≤ 3 := fun e => by
    simp only [List.mem_cons, List.not_mem_nil, or_false]
    omega
  simp only [freeEpoch, List.find?_eq_none, hmem, List.contains_iff_mem, Bool.not_eq_true', and_imp, Bool.not_eq_false]

end Tags

/-- Settles O60: a tag issued is that of a free slot and its free epoch, and with none to issue every free slot has no free epoch. -/
theorem readTags : Obligations.ReadTags := by
  refine fun l outs => ⟨fun t ht => ?_, ?_⟩
  · rw [freeTag_eq] at ht
    obtain ⟨k, hk, hkt⟩ := List.exists_of_findSome?_eq_some ht
    obtain ⟨e, he, rfl⟩ := Option.map_eq_some_iff.1 hkt
    obtain ⟨hslot, hunused⟩ := mem_freeSlots.1 hk
    obtain ⟨hrange, hepoch⟩ := freeEpoch_some he
    exact ⟨hslot, hrange, hepoch, hunused⟩
  · simp only [freeTag_eq, List.findSome?_eq_none_iff, Option.map_eq_none_iff, mem_freeSlots, freeEpoch_none, and_imp]
    refine forall_congr' fun _ => forall_congr' fun _ => ?_
    simp only [or_iff_not_imp_left, not_exists, not_and, ne_eq]

end Sys2Proof.Machine
end

section
/-! The host link: the controls that what goes out keeps, completions and events posted, configuration writes, DMA resumed (03 04). -/

set_option autoImplicit false
-- One declaration after the other: the text as one file holds many.
set_option Elab.async false

namespace Sys2Proof.Machine

/-! ### The controls of the link -/

/-- The link is the same but for its queue of reads and its pending messages: what DMA and signals may write of it. -/
def ControlsKept (s t : State) : Prop := t.link = { s.link with reads := t.link.reads, pba := t.link.pba }

section Controls
variable {s t u : State}

theorem ControlsKept.refl : ControlsKept s s := rfl

theorem ControlsKept.of_eq (h : t.link = s.link) : ControlsKept s t := by rw [ControlsKept, h]

theorem ControlsKept.trans (h : ControlsKept s t) (k : ControlsKept t u) : ControlsKept s u := by
  rw [ControlsKept, k, h]

/-- A further change that leaves the link keeps its controls. -/
theorem ControlsKept.with_eq (h : ControlsKept s t) (k : u.link = t.link) : ControlsKept s u := h.trans (.of_eq k)

theorem pump_controls : ControlsKept s (pump s) := by rw [ControlsKept, pump_link]

theorem failItems_controls {l : List ReadItem} : ControlsKept s (failItems l s) := by rw [ControlsKept, failItems_link]

theorem blockLayers_controls : ControlsKept s (blockLayers s) := by
  unfold blockLayers
  split
  · exact .refl
  · exact failItems_controls

theorem sendPending_controls : ControlsKept s (sendPending s) := rfl

theorem signal_controls {v : Nat} : ControlsKept s (signal v s) := by
  unfold signal
  dsimp only
  split <;> rfl

/-- Whether DMA is allowed is a matter of Lichen and the link's controls (R74). -/
theorem dmaOk_congr (hp : t.power = s.power) (hl : ControlsKept s t) : dmaOk t = dmaOk s := by
  unfold dmaOk runs
  rw [hp, hl]

/-- The ring engine and the host island stop together (R45 R48 R52). -/
theorem dmaOk_eq : dmaOk s = (runs .ring s && s.link.up && s.link.bme && !s.link.d3hot) := rfl

/-- A conditional event of an island that runs has its effect. -/
theorem ifRuns_when_yields {i : Isl} {c : Bool} {f : State → State} {P : State → Prop} (hr : runs i s = true) (hc : c = true) (hp : P (f s)) :
    ∃ t, ifRuns s i (when_ c f s) = .next t ∧ P t :=
  ⟨f s, by rw [ifRuns_runs hr, when_, if_pos hc], hp⟩

theorem runs_of_barOpen (h : barOpen s = true) : runs .host s = true := by
  by_contra hr
  rw [barOpen_still (eq_false_of_ne_true hr)] at h
  exact Bool.false_ne_true h

end Controls

/-! ### Completions and events posted -/

/-- A change has kept Lichen and the link's controls, and the completions that now wait to be posted are those given. -/
structure Leaves (done : List Done) (s t : State) : Prop where
  controls : ControlsKept s t
  power : t.power = s.power
  done_eq : t.rings.done = done

section Posting
variable {s b : State} {l : List Done}

theorem Leaves.refl : Leaves s.rings.done s s := ⟨.refl, rfl, rfl⟩

theorem Leaves.dmaOk_eq (h : Leaves l b s) : dmaOk s = dmaOk b := dmaOk_congr h.power h.controls

/-- A change of the ring engine's record leaves the completions that it then holds. -/
theorem Leaves.setRings {m : List Done} {x : Rings} (h : Leaves l b s) (hx : x.done = m) : Leaves m b { s with rings := x } :=
  ⟨h.controls.with_eq rfl, h.power, hx⟩

/-- What writes no ring, no switch of Lichen and no control of the link leaves the completions. -/
theorem Leaves.after {m : List Part} {t : State} (h : Leaves l b s) (hc : ControlsKept s t) (hf : SameBut m s t)
    (hr : .rings ∉ m := by decide) (hp : .power ∉ m := by decide) : Leaves l b t :=
  ⟨h.controls.trans hc, (hf.power_eq hp).trans h.power, by rw [hf.rings_eq hr, h.done_eq]⟩

theorem condOn_leaves {n : Nat} (h : Leaves l b s) : Leaves l b (condOn n s) :=
  h.after (.of_eq (condOn_link n s)) (condOn_frame (l := [.faults]) (by decide) .refl)

theorem condOff_leaves {n : Nat} (h : Leaves l b s) : Leaves l b (condOff n s) :=
  h.after (.of_eq (condOff_link n s)) (condOff_frame (l := [.faults]) (by decide) .refl)

theorem signal_leaves {v : Nat} (h : Leaves l b s) : Leaves l b (signal v s) :=
  h.after signal_controls (signal_frame (l := [.outputs, .link]) (by decide) .refl)

theorem postEntry_leaves {n : Nat} {head : Bytes} {irq evt lost : Bool} (h : Leaves l b s) :
    Leaves l b (postEntry n head irq evt lost s) := by
  unfold postEntry
  extract_lets c w tail sig t
  have ht : Leaves l b t := ⟨h.controls.with_eq rfl, h.power, h.done_eq⟩
  split
  · exact signal_leaves ht
  · exact ht

theorem drainEnd_leaves {n : Nat} (h : Leaves l b s) : Leaves l b (drainEnd n s) := by
  unfold drainEnd
  dsimp only
  split
  · exact h.setRings h.done_eq
  · exact h

/-- With DMA allowed a post takes the front completion (R124). -/
theorem postDone_leaves (hd : dmaOk b = true) (h : Leaves l b s) : Leaves l.tail b (postDone s) := by
  obtain rfl := h.done_eq
  unfold postDone
  split
  · next he => rw [he] at h ⊢; exact h
  · next he =>
    rw [if_pos (h.dmaOk_eq.trans hd), he]
    exact drainEnd_leaves (postEntry_leaves (h.setRings rfl))

/-- With DMA allowed each post takes one completion, the front one first (R75). -/
theorem postAllDone_leaves (hd : dmaOk b = true) : ∀ {n : Nat} {l : List Done} {s : State}, Leaves l b s →
    Leaves (l.drop n) b (postAllDone n s)
  | 0, _, _, h => h
  | n + 1, l, s, h => by
    rw [postAllDone, ← List.drop_tail]
    exact postAllDone_leaves hd (postDone_leaves hd h)

theorem postOrLose_leaves {e : Event} (h : Leaves l b s) : Leaves l b (postOrLose e s) := by
  unfold postOrLose loseEvent
  split
  · exact postEntry_leaves h
  · exact condOn_leaves (h.setRings h.done_eq)

theorem postLost_leaves (h : Leaves l b s) : Leaves l b (postLost s) := by
  have h0 : Leaves l b { s with rings := { s.rings with lostSince := 0 } } := h.setRings h.done_eq
  unfold postLost
  split
  · exact condOff_leaves (postEntry_leaves h0)
  · exact h

theorem eventTurn_leaves (hd : dmaOk b = true) (h : Leaves l b s) : Leaves l b (eventTurn s) := by
  unfold eventTurn
  rw [if_pos (h.dmaOk_eq.trans hd)]
  split
  · exact postLost_leaves h
  · split
    · exact postOrLose_leaves (h.setRings h.done_eq)
    · split
      · exact postOrLose_leaves (h.setRings h.done_eq)
      · exact h

theorem postHeldEvents_leaves (hd : dmaOk b = true) : ∀ {n : Nat} {s : State}, Leaves l b s → Leaves l b (postHeldEvents n s)
  | 0, _, h => h
  | n + 1, s, h => by
    rw [postHeldEvents, if_pos (h.dmaOk_eq.trans hd)]
    exact postHeldEvents_leaves hd (eventTurn_leaves hd h)

/-! ### Host receive queues without a buffer -/

/-- A receive queue with no buffer waits (R481). -/
theorem fillHost_noBuffer {r : Nat} (h : s.chain.rxBufs = []) : ∀ {n : Nat}, fillHost r n s = s
  | 0 => rfl
  | n + 1 => by
    have h1 : fillHost1 r s = s := by
      unfold fillHost1
      simp [h]
    rw [fillHost, h1, fillHost_noBuffer h]

theorem fillAllHost_noBuffer (h : s.chain.rxBufs = []) : ∀ {n : Nat}, fillAllHost n s = s
  | 0 => rfl
  | n + 1 => by
    rw [fillAllHost, fillAllHost_noBuffer h]
    exact fillHost_noBuffer h

end Posting

/-! ### Configuration, DMA resumed, and closed windows -/

section Configuration
variable {s : State}

/-- A write of configuration space writes the link, then sends what DMA and the masks allow now. -/
theorem linkWrite_controls {x : Link} : ControlsKept { s with link := x } (sendPending (pump (blockLayers { s with link := x }))) :=
  (blockLayers_controls.trans pump_controls).trans sendPending_controls

theorem linkUp_yields {w v : Nat} (hr : runs .host s = true) (hu : s.link.up = false) :
    Yields (.linkUp w v) s fun t => t.link = { s.link with up := true, width := w % 4, speed := v % 4 } ∧ SameBut [.link] s t :=
  ifRuns_when_yields hr (by simp [hu]) ⟨rfl, setLink_frame (by decide) .refl⟩

/-- The state of DMA resumed, before anything goes out (R75). -/
def dmaResumed (s : State) : State := { s with link := { s.link with bme := true, d3hot := false } }

theorem dmaOk_resumed (hr : runs .ring s = true) (hu : s.link.up = true) : dmaOk (dmaResumed s) = true := by
  rw [dmaOk_eq, show runs .ring (dmaResumed s) = true from hr]
  simp [dmaResumed, hu]

/-- Waiting requests and messages go out, no completion with them. -/
theorem sendPending_pump_leaves : Leaves s.rings.done s (sendPending (pump s)) :=
  Leaves.refl.after (pump_controls.trans sendPending_controls)
    (sendPending_frame (l := [.outputs, .link]) (by decide) (pump_frame (by decide) .refl))

/-- What is posted when DMA resumes takes as many completions as were held, the receive buffers filled before (R75 R481). -/
theorem postResumed_leaves {b : State} {l : List Done} (hd : dmaOk b = true) (h : Leaves l b s) :
    Leaves ((fillAllHost 8 s).rings.done.drop s.rings.done.length) b
      (postHeldEvents s.rings.heldEvents.length (postLost (postAllDone s.rings.done.length (fillAllHost 8 s)))) := by
  have hf : SameBut [.outputs, .rings, .faults, .chain] s (fillAllHost 8 s) := fillAllHost_frame (by decide) .refl
  have h8 : Leaves (fillAllHost 8 s).rings.done b (fillAllHost 8 s) :=
    ⟨h.controls.with_eq hf.link_eq, hf.power_eq.trans h.power, rfl⟩
  exact postHeldEvents_leaves hd (postLost_leaves (postAllDone_leaves hd h8))

theorem dmaResume_yields (hr : runs .ring s = true) (hu : s.link.up = true) :
    Yields .dmaResume s fun t => t.link.bme = true ∧ t.link.d3hot = false ∧ (s.chain.rxBufs = [] → t.rings.done = [])
      ∧ SameBut [.outputs, .link, .rings, .faults, .chain] s t := by
  have hl := postResumed_leaves (dmaOk_resumed hr hu) (sendPending_pump_leaves (s := dmaResumed s))
  refine Yields.framed (ifRuns_when_yields hr hu fun hf => ?_)
  refine ⟨congrArg Link.bme hl.controls, congrArg Link.d3hot hl.controls, fun hb => hl.done_eq.trans ?_, hf⟩
  have hc : (sendPending (pump (dmaResumed s))).chain = s.chain :=
    SameBut.chain_eq (l := [.outputs, .link]) (sendPending_frame (by decide) (pump_frame (by decide) (setLink_frame (by decide) .refl)))
  rw [fillAllHost_noBuffer (hc ▸ hb), List.drop_length]

theorem unsupportedRequest_yields {write bar2 : Bool} {off : Nat} {value : BitVec 32} (hr : runs .host s = true) (hu : s.link.up = true)
    (hb : barOpen s = false) :
    Yields (.unsupportedRequest write bar2 off value) s fun t => t = { s with
      outputs := .unsupportedRequest write :: s.outputs, link := { s.link with aerUncor := s.link.aerUncor ||| 2 ^ 20 } } :=
  ifRuns_when_yields hr (by simp [hu, hb]) rfl

end Configuration

/-- Settles O9: what goes out after the link's change writes no control of it, and no completion is held once DMA posts again. -/
theorem hostConfiguration : Obligations.HostConfiguration :=
  ⟨fun _ _ _ => linkUp_yields,
    fun _ _ hr hu => Yields.framed (ifRuns_when_yields hr hu fun hf => ⟨linkWrite_controls, hf⟩), fun _ => dmaResume_yields,
    fun _ _ _ _ _ => unsupportedRequest_yields⟩

end Sys2Proof.Machine
end

section
/-! The MSI-X table: a word written, and the pending messages that go out with it (R71 R127). -/

set_option autoImplicit false
-- One declaration after the other: the text as one file holds many.
set_option Elab.async false

namespace Sys2Proof.Machine

section Msix
variable {s : State}

/-! ### Pending messages -/

/-- With no pending vector that can be sent, nothing is (R71 R127). -/
theorem sendPending_none (h : ∀ u < 64, s.link.pba.testBit u = true → canSignal s u = false) : sendPending s = s := by
  have hv : (List.range 64).filter (fun u => s.link.pba.testBit u && canSignal s u) = [] := by
    simpa [List.filter_eq_nil_iff] using h
  simp [sendPending, hv]

/-- With one pending vector that can be sent, its message goes out and its pending bit clears. -/
theorem sendPending_one {v : Nat} (hv : v < 64) (h : ∀ u < 64, (s.link.pba.testBit u && canSignal s u) = (u == v)) :
    sendPending s = { s with
      link := { s.link with pba := putBit s.link.pba v false }
      outputs := .msix v (Tab.get {} s.link.msix v).addr (Tab.get {} s.link.msix v).data :: s.outputs } := by
  have hf : (List.range 64).filter (fun u => s.link.pba.testBit u && canSignal s u) = [v] := by
    rw [List.filter_congr fun u hu => h u (List.mem_range.1 hu), List.filter_beq,
      List.count_eq_one_of_mem List.nodup_range (List.mem_range.2 hv)]
    rfl
  simp [sendPending, hf]

/-! ### The table -/

theorem addrSet_mask {e : MsixEnt} {a : Nat} : ({ e with addr := a } : MsixEnt).mask = e.mask := rfl

/-- The words of the address and the data leave the mask (R71). -/
theorem msixWord_mask {e : MsixEnt} {x : Nat} : ∀ w : Fin 3, (msixWord e w.val x).mask = e.mask
  | 0 => addrSet_mask (a := setBits e.addr 0 32 x)
  | 1 => addrSet_mask (a := setBits e.addr 32 32 x)
  | 2 => rfl

/-- One word of a vector's entry is stored, before any message goes out. -/
def msixStored (v w x : Nat) (s : State) : State :=
  { s with link := { s.link with msix := Tab.put s.link.msix v (msixWord (Tab.get {} s.link.msix v) w x) } }

theorem msixStored_get {v w x u : Nat} : Tab.get {} (msixStored v w x s).link.msix u =
    if u = v then msixWord (Tab.get {} s.link.msix v) w x else Tab.get {} s.link.msix u := by
  simp [msixStored]

theorem canSignal_stored {v w x u : Nat} : canSignal (msixStored v w x s) u =
    (dmaOk s && s.link.msixEn && !s.link.fnMask && !(Tab.get {} (msixStored v w x s).link.msix u).mask) := rfl

/-- A masked vector sends nothing. -/
theorem canSignal_masked {u : Nat} (h : (Tab.get {} s.link.msix u).mask = true) : canSignal s u = false := by
  simp [canSignal, h]

/-- A write to a slot of the table stores the word and sends what may then be sent. -/
theorem execMsixUnmask_stores {slot : Fin 4096} {word : Fin 4} {value : BitVec 32} (hb : barOpen s = true) (hl : 256 ≤ slot.val)
    (hh : slot.val < 320) :
    execMsixUnmask slot word value s = .next (sendPending (msixStored (slot.val - 256) word.val value.toNat s)) :=
  (ifRuns_runs (runs_of_barOpen hb)).trans (congrArg _ (if_pos (by simp [hb, hl, hh])))

/-- The slot of vector v is 256 + v. -/
theorem msixUnmask_stores {v : Fin 64} {word : Fin 4} {value : BitVec 32} (hb : barOpen s = true) :
    exec (.msixUnmask (Fin.ofNat 4096 (256 + v.val)) word value) s = .next (sendPending (msixStored v.val word.val value.toNat s)) := by
  have hslot : (Fin.ofNat 4096 (256 + v.val)).val = 256 + v.val := Nat.mod_eq_of_lt (by omega)
  refine (execMsixUnmask_stores hb (by omega) (by omega)).trans ?_
  rw [hslot, Nat.add_sub_cancel_left]

/-! ### The two kinds of write -/

theorem msixUnmask_sends {v : Fin 64} {value : BitVec 32} (hb : barOpen s = true) (hd : dmaOk s = true) (he : s.link.msixEn = true)
    (hm : s.link.fnMask = false) (hv : value.toNat.testBit 0 = false) (hp : s.link.pba.testBit v.val = true)
    (hu : ∀ u < 64, u ≠ v.val → s.link.pba.testBit u = true → (Tab.get {} s.link.msix u).mask = true) :
    Yields (.msixUnmask (Fin.ofNat 4096 (256 + v.val)) 3 value) s fun t =>
      t.outputs = .msix v.val (Tab.get {} s.link.msix v.val).addr (Tab.get {} s.link.msix v.val).data :: s.outputs
        ∧ (∀ i, t.link.pba.testBit i = (s.link.pba.testBit i && decide (i ≠ v.val)))
        ∧ Tab.get {} t.link.msix v.val = { Tab.get {} s.link.msix v.val with mask := false }
        ∧ (∀ u, u ≠ v.val → Tab.get {} t.link.msix u = Tab.get {} s.link.msix u) ∧ SameBut [.outputs, .link] s t := by
  have hent : Tab.get {} (msixStored v.val 3 value.toNat s).link.msix v.val = { Tab.get {} s.link.msix v.val with mask := false } := by
    rw [msixStored_get, if_pos rfl, ← hv]
    rfl
  have hsend : ∀ u < 64, ((msixStored v.val 3 value.toNat s).link.pba.testBit u && canSignal (msixStored v.val 3 value.toNat s) u)
      = (u == v.val) := by
    intro u hlt
    by_cases huv : u = v.val
    · subst huv
      rw [canSignal_stored, hent]
      simp [msixStored, hd, he, hm, hp]
    · rw [beq_false_of_ne huv, Bool.and_eq_false_imp]
      refine fun hpu => canSignal_masked ?_
      rw [msixStored_get, if_neg huv]
      exact hu u hlt huv hpu
  refine Yields.framed ⟨_, (msixUnmask_stores hb).trans (congrArg _ (sendPending_one v.isLt hsend)), fun hf => ?_⟩
  refine ⟨?_, fun i => ?_, hent, fun u huv => msixStored_get.trans (if_neg huv), hf⟩
  · exact (congrArg (fun e : MsixEnt => Output.msix v.val e.addr e.data :: s.outputs) hent).trans rfl
  · rw [putBit_testBit]
    by_cases hi : i = v.val <;> simp [hi, msixStored]

theorem msixUnmask_word {v : Fin 64} {word : Fin 3} {value : BitVec 32} (hb : barOpen s = true)
    (hu : ∀ u < 64, s.link.pba.testBit u = true → (Tab.get {} s.link.msix u).mask = true) :
    Yields (.msixUnmask (Fin.ofNat 4096 (256 + v.val)) (Fin.ofNat 4 word.val) value) s fun t =>
      Tab.get {} t.link.msix v.val = msixWord (Tab.get {} s.link.msix v.val) word.val value.toNat
        ∧ (∀ u, u ≠ v.val → Tab.get {} t.link.msix u = Tab.get {} s.link.msix u) ∧ t.link.pba = s.link.pba ∧ SameBut [.link] s t := by
  have hw : (Fin.ofNat 4 word.val).val = word.val := Nat.mod_eq_of_lt (by omega)
  refine ⟨_, msixUnmask_stores hb, ?_⟩
  rw [hw, sendPending_none fun u hlt hp => canSignal_masked ?_]
  · exact ⟨msixStored_get.trans (if_pos rfl), fun u huv => msixStored_get.trans (if_neg huv), rfl, setLink_frame (by decide) .refl⟩
  · have hmask : (Tab.get {} (msixStored v.val word.val value.toNat s).link.msix u).mask = (Tab.get {} s.link.msix u).mask := by
      rw [msixStored_get]
      split
      · next h => rw [msixWord_mask, h]
      · rfl
    exact hmask.trans (hu u hlt hp)

end Msix

/-- Settles O10: the entry is stored first, and of the pending vectors only one that the write unmasks can be sent. -/
theorem msixTableWrites : Obligations.MsixTableWrites := by
  refine ⟨fun _ _ _ => msixUnmask_sends, fun s v word value hb hu => ?_⟩
  obtain ⟨t, ht, hent, hkept⟩ := msixUnmask_word (v := v) (word := word) (value := value) hb hu
  refine ⟨t, ht, hent.trans ?_, hkept⟩
  match word with
  | 0 | 1 | 2 => rfl

end Sys2Proof.Machine
end

section
/-! The ends of host reads: data that arrive, completions that fail, come late or name no request, and timeouts (R76 R77 R78 R79). -/

set_option autoImplicit false
-- One declaration after the other: the text as one file holds many.
set_option Elab.async false

namespace Sys2Proof.Machine

section Reads
variable {s : State} {tag : Nat} {st : RdStatus} {data : Bytes} {r : ReadItem}

/-! ### What follows the end of a read -/

/-- A fault that is raised drives its line, whatever reads then go out. -/
theorem pump_raise_drives {n : Nat} : Drives n (pump (raise n s)) := by
  have hf : SameBut [.outputs, .link] (raise n s) (pump (raise n s)) := pump_frame (by decide) .refl
  unfold Drives
  rw [hf.faults_eq]
  exact raise_drives n s

theorem pump_raise_link {n : Nat} : (pump (raise n s)).link = { s.link with reads := (pump (raise n s)).link.reads } := by
  conv_lhs => rw [pump_link, raise_link]

theorem pump_raise_failItem_link {n : Nat} :
    (pump (raise n (failItem r s))).link = { s.link with reads := (pump (raise n (failItem r s))).link.reads } := by
  conv_lhs => rw [pump_raise_link, failItem_link]

/-! ### Completions that bring no data -/

theorem readCompletion_late (hr : runs .host s = true) (ha : (s.link.abandoned.any fun a => tagOf s.link a == tag) = true) :
    Yields (.hostReadCompletion tag st data) s fun t =>
      t.link = { s.link with reads := t.link.reads, lateCpl := min (2 ^ 32 - 1) (s.link.lateCpl + 1)
                             abandoned := s.link.abandoned.filter fun a => tagOf s.link a != tag }
        ∧ Drives 467 t ∧ SameBut [.outputs, .link, .faults] s t :=
  ⟨_, (ifRuns_runs hr).trans (if_pos ha), pump_raise_link, pump_raise_drives,
    pump_frame (by decide) (raise_frame (by decide) (setLink_frame (by decide) .refl))⟩

theorem readCompletion_unexpected (hr : runs .host s = true) (ha : (s.link.abandoned.any fun a => tagOf s.link a == tag) = false)
    (hf : s.link.reads.find? (hasTag s.link tag) = none) :
    Yields (.hostReadCompletion tag st data) s fun t => t = { s with link := { s.link with aerUncor := s.link.aerUncor ||| 2 ^ 16 } } :=
  ⟨_, (ifRuns_runs hr).trans ((if_neg (by simp [ha])).trans (by rw [hf])), rfl⟩

theorem readCompletion_fails (hr : runs .host s = true) (hst : st ≠ .ok)
    (ha : (s.link.abandoned.any fun a => tagOf s.link a == tag) = false) (hf : s.link.reads.find? (hasTag s.link tag) = some r) :
    Yields (.hostReadCompletion tag st data) s fun t =>
      t.link = { s.link with reads := t.link.reads, abandoned := otherTags s.link tag r ++ s.link.abandoned
                             aerUncor := if st = .poisoned then s.link.aerUncor ||| 2 ^ 12 else s.link.aerUncor }
        ∧ Drives 466 t ∧ SameBut [.outputs, .link, .rings, .cmp, .faults] s t :=
  Yields.framed ⟨_, (ifRuns_runs hr).trans ((if_neg (by simp [ha])).trans (by rw [hf]; exact if_neg hst)),
    fun h => ⟨pump_raise_failItem_link, pump_raise_drives, h⟩⟩

theorem hostCplTmo_abandons (hr : runs .host s = true) (hf : s.link.reads.find? (hasTag s.link tag) = some r)
    (hd : s.link.cplTmoDis = false) :
    Yields (.hostCplTmo tag) s fun t =>
      t.link = { s.link with
        reads := t.link.reads, aerUncor := s.link.aerUncor ||| 2 ^ 14
        abandoned := ((r :: s.link.reads.filter (sameTurn r)).flatMap fun y => y.chunks.filterMap Chunk.tag) ++ s.link.abandoned }
        ∧ Drives 465 t ∧ SameBut [.outputs, .link, .rings, .cmp, .faults] s t :=
  Yields.framed ⟨_, (ifRuns_runs hr).trans (by rw [hf]; exact if_neg (by simp [hd])),
    fun h => ⟨pump_raise_failItem_link, pump_raise_drives, h⟩⟩

/-! ### Data for a descriptor -/

/-- The descriptor that is changed is the changed one. -/
theorem descOf_updDesc_same {id : Nat} {d : Desc} {f : Desc → Desc} (hf : ∀ d, (f d).id = d.id) (h : descOf s id = some d) :
    descOf (updDesc id f s) id = some (f d) := by
  rw [descOf_updDesc hf, h]
  exact congrArg some (if_pos (descOf_id h))

/-- A descriptor but for the one that is changed is as it was. -/
theorem descOf_updDesc_other {id e : Nat} {f : Desc → Desc} (hf : ∀ d, (f d).id = d.id) (he : e ≠ id) :
    descOf (updDesc id f s) e = descOf s e := by
  rw [descOf_updDesc hf]
  cases h : descOf s e with
  | none => rfl
  | some d => exact congrArg some (if_neg (by rw [descOf_id h]; exact he))

/-- The data of a request's completion fill the item that has no other request. -/
theorem fillChunk_single {addr : Nat} {k : Nat × Nat} (hc : r.chunks = [{ addr, len := data.length, tag := some k }])
    (hk : tagOf s.link k = tag) :
    fillChunk s.link tag data r = { r with chunks := [{ addr, len := data.length, tag := none, data := some data }] } := by
  simp [fillChunk, hc, hk]

/-- An item with its one request's data passes them to the descriptor that asked (R76). -/
theorem deliver_desc {id addr : Nat} (hw : r.who = .desc id)
    (hc : r.chunks = [{ addr, len := data.length, tag := none, data := some data }]) :
    deliver r s = updDesc id (fun d => { d with data := some data }) (dropItem r s) := by
  have hdata : itemData r = data := by simp [itemData, hc]
  simp only [deliver, hw, hdata]

theorem readCompletion_delivers {id addr : Nat} {k : Nat × Nat} {d : Desc} (hr : runs .host s = true)
    (ha : (s.link.abandoned.any fun a => tagOf s.link a == tag) = false) (hf : s.link.reads.find? (hasTag s.link tag) = some r)
    (hw : r.who = .desc id) (hc : r.chunks = [{ addr, len := data.length, tag := some k }]) (hk : tagOf s.link k = tag)
    (hd : descOf s id = some d) :
    Yields (.hostReadCompletion tag .ok data) s fun t => descOf t id = some { d with data := some data }
        ∧ (∀ e, e ≠ id → descOf t e = descOf s e) ∧ SameBut [.outputs, .link, .rings] s t := by
  have hfill := fillChunk_single hc hk
  have hdone : itemDone (fillChunk s.link tag data r) = true := by simp [hfill, itemDone]
  refine ⟨_, (ifRuns_runs hr).trans ((if_neg (by simp [ha])).trans (by rw [hf]; exact if_pos rfl)), ?_⟩
  rw [if_pos hdone, deliver_desc (r := fillChunk s.link tag data r) (addr := addr) hw (by rw [hfill])]
  generalize hu : dropItem _ _ = u
  have hlink : SameBut [.link] s u := hu ▸ dropItem_frame (by decide) (setLink_frame (by decide) .refl)
  have hpump : ∀ t, SameBut [.outputs, .link] t (pump t) := fun t => pump_frame (by decide) .refl
  refine ⟨?_, fun e he => ?_, pump_frame (by decide) (updDesc_frame (by decide) (hlink.mono (by decide)))⟩
  · exact ((hpump _).descOf_eq id).trans (descOf_updDesc_same (by intro; rfl) ((hlink.descOf_eq id).trans hd))
  · exact ((hpump _).descOf_eq e).trans ((descOf_updDesc_other (by intro; rfl) he).trans (hlink.descOf_eq e))

end Reads

/-- Settles O11: each end of a read fails, drops or fills its item, and what goes out then writes of the link only its reads. -/
theorem hostReadsEnd : Obligations.HostReadsEnd :=
  ⟨fun _ _ _ _ => readCompletion_late, fun _ _ _ _ => readCompletion_unexpected, fun _ _ _ _ _ => readCompletion_fails,
    fun _ _ _ _ _ _ _ _ hr ha hf hw hc hk hd _ => readCompletion_delivers hr ha hf hw hc hk hd, fun _ _ _ => hostCplTmo_abandons⟩

end Sys2Proof.Machine
end

section
/-! The protection table, and the rings enabled, drained and disabled (03, 04). -/

set_option autoImplicit false
-- One declaration after the other: the text as one file holds many.
set_option Elab.async false

namespace Sys2Proof.Machine

/-! ### The protection table -/

section Table
variable {s t : State} {p : ProtTable} {value : BitVec 32}

/-- Whether a table is refused is a matter of the rings that run and the table in force (R87). -/
theorem tableRefused_congr (hr : t.rings = s.rings) (ha : t.prot.active = s.prot.active) : tableRefused t p = tableRefused s p := by
  unfold tableRefused levelZeroRings sqOf
  rw [hr, ha]

/-- The shadow of an APPLY: `WIN_L0` is taken from the write (R84 R99). -/
def appliedTable (s : State) (value : BitVec 32) : ProtTable := { s.prot.shadow with winL0 := value.toNat.testBit 1 }

/-- The fields that a write carries are stored (R99): `REFUSED` clears, and level 0's `WIN_L0` is taken. -/
def applyStored (value : BitVec 32) (s : State) : State :=
  let s := if value.toNat.testBit 2 then { s with prot := { s.prot with refused := false } } else s
  { s with prot := { s.prot with shadow := { s.prot.shadow with winL0 := value.toNat.testBit 1 } } }

theorem applyStored_shadow : (applyStored value s).prot.shadow = appliedTable s value := by
  unfold applyStored
  dsimp only
  split <;> rfl

theorem applyStored_active : (applyStored value s).prot.active = s.prot.active := by
  unfold applyStored
  dsimp only
  split <;> rfl

theorem applyStored_gen : (applyStored value s).prot.gen = s.prot.gen := by
  unfold applyStored
  dsimp only
  split <;> rfl

theorem applyStored_frame : SameBut [.prot] s (applyStored value s) :=
  setProt_frame (by decide) (.ite (fun _ => setProt_frame (by decide) .refl) fun _ => .refl)

/-- The stored shadow is refused under the rings and the table that were there before. -/
theorem applyStored_refused : tableRefused (applyStored value s) (applyStored value s).prot.shadow = tableRefused s (appliedTable s value) := by
  rw [applyStored_shadow, tableRefused_congr applyStored_frame.rings_eq applyStored_active]

theorem apply_takes (hb : barOpen s = true) (h0 : value.toNat.testBit 0 = true) (hr : tableRefused s (appliedTable s value) = false) :
    Yields (.apply true value) s fun t => t.prot.active = appliedTable s value
      ∧ t.prot.shadow = t.prot.active ∧ t.prot.gen = (s.prot.gen + 1) % 65536 ∧ SameBut [.prot] s t := by
  have hn : ¬ tableRefused (applyStored value s) (applyStored value s).prot.shadow = true := by simp [applyStored_refused, hr]
  refine ⟨{ applyStored value s with prot := { (applyStored value s).prot with
    active := (applyStored value s).prot.shadow, gen := ((applyStored value s).prot.gen + 1) % 65536 } }, ?_, applyStored_shadow, rfl, ?_, ?_⟩
  · exact (if_pos hb).trans ((if_pos h0).trans (if_neg hn))
  · exact congrArg (fun g => (g + 1) % 65536) applyStored_gen
  · exact setProt_frame (by decide) applyStored_frame

theorem apply_refuses (hb : barOpen s = true) (h0 : value.toNat.testBit 0 = true) (hr : tableRefused s (appliedTable s value) = true) :
    Yields (.apply true value) s fun t => t.prot.active = s.prot.active ∧ t.prot.refused = true ∧ t.prot.gen = s.prot.gen
      ∧ SameBut [.prot] s t := by
  refine ⟨{ applyStored value s with prot := { (applyStored value s).prot with refused := true } }, ?_,
    applyStored_active, rfl, applyStored_gen, setProt_frame (by decide) applyStored_frame⟩
  exact (if_pos hb).trans ((if_pos h0).trans (if_pos (applyStored_refused.trans hr)))

/-- The lower half of BAR0 can clear `REFUSED` and no more (R99). -/
theorem apply_lower : Yields (.apply false value) s fun t => t.prot.active = s.prot.active
    ∧ t.prot.shadow = s.prot.shadow ∧ t.prot.gen = s.prot.gen ∧ SameBut [.prot] s t := by
  have hk : ∃ t, execApply false value s = .next t ∧ t.prot = { s.prot with refused := t.prot.refused } := by
    unfold execApply
    dsimp only
    split
    · refine ⟨_, if_neg Bool.false_ne_true, ?_⟩
      split <;> rfl
    · exact ⟨s, rfl, rfl⟩
  obtain ⟨t, ht, hp⟩ := hk
  exact ⟨t, ht, by rw [hp], by rw [hp], by rw [hp], exec_frame (c := .apply false value) ht⟩

variable {id : Nat} {d : Desc}

theorem protSet_takes (hr : Runs s id 0x68 d) (ht : tableRefused s (protEntry d.bytes s.prot.active) = false) :
    Yields (.protSet id) s fun t => t.prot = { s.prot with
        active := protEntry d.bytes s.prot.active, shadow := protEntry d.bytes s.prot.shadow, gen := (s.prot.gen + 1) % 65536 }
      ∧ Completed id d stOK [] s t ∧ SameBut [.prot, .rings] s t :=
  ⟨_, (runOp_runs hr).trans (congrArg _ (if_neg (ne_true_of_eq_false ht))), complete_prot _ _ _ _,
    complete_completed (s := { s with prot := _ }) hr.desc rfl rfl, complete_frame (by decide) (setProt_frame (by decide) .refl)⟩

theorem protSet_refused (hr : Runs s id 0x68 d) (ht : tableRefused s (protEntry d.bytes s.prot.active) = true) :
    Yields (.protSet id) s fun t => Completed id d stBADDESC [] s t ∧ SameBut [.rings] s t :=
  ⟨_, (runOp_runs hr).trans (congrArg _ (if_pos ht)), hr.completed, complete_frame (by decide) .refl⟩

end Table

/-- Settles O12: the stored shadow or the changed entry comes into force whole, unless it is refused. -/
theorem protectionTable : Obligations.ProtectionTable :=
  ⟨fun _ _ => apply_takes, fun _ _ => apply_refuses, fun _ _ => apply_lower, fun _ _ _ => protSet_takes, fun _ _ _ => protSet_refused⟩

/-! ### Submission rings -/

/-- A write through level 0's half takes effect while BAR0 is open. -/
theorem level0_open {s : State} (h : barOpen s = true) : (barOpen s && true) = true := by
  rw [h, Bool.and_self]

/-- So does one that clears the lowest bit. -/
theorem level0_clears {s : State} {v : Nat} (h : barOpen s = true) (hv : v.testBit 0 = false) : (barOpen s && true && !v.testBit 0) = true := by
  rw [level0_open h, hv]
  rfl

section Submission
variable {s : State} {n : Nat}

/-- `LEVEL` of a write to `HIF_SQn_CFG` goes to the shadow (R95). -/
def levelStored (n v : Nat) (s : State) : State :=
  { s with prot := { s.prot with shadow := { s.prot.shadow with level := Tab.put s.prot.shadow.level n (v / 65536 % 4) } } }

/-- A ring with `CQ` and `SIZE` of a write taken (R95). -/
def sqConfigured (v : Nat) (q : Sq) : Sq :=
  { q with cq := v / 256 % 32, size := if 4 ≤ v / 16 % 16 ∧ v / 16 % 16 ≤ 12 then v / 16 % 16 else q.size }

/-- A ring that has just been enabled (R130). -/
def sqStarted (q : Sq) : Sq := { q with state := .running, bound := q.cq, head := 0, tail := 0 }

/-- A ring that has drained (R131). -/
def sqStopped (q : Sq) : Sq := { q with state := .disabled, head := 0, tail := 0 }

theorem levelStored_frame {v : Nat} : SameBut [.prot] s (levelStored n v s) := setProt_frame (by decide) .refl

theorem levelStored_level {v : Nat} : Tab.get 0 (levelStored n v s).prot.shadow.level n = v / 65536 % 4 := by
  simp [levelStored]

/-- A ring that does not run takes the whole configuration. -/
theorem storeSqCfg_stopped {v : Nat} (h : (sqOf s n).state ≠ .running) :
    storeSqCfg n v s = putSq (levelStored n v s) n (sqConfigured v (sqOf s n)) := if_neg h

/-- A ring that runs takes the level alone. -/
theorem storeSqCfg_running {v : Nat} (h : (sqOf s n).state = .running) : storeSqCfg n v s = levelStored n v s := if_pos h

/-- A ring is enabled with an enabled CQ other than CQ31 (R130). -/
theorem sqEnable_starts {n : Fin 32} {value : BitVec 32} (hb : barOpen s = true) (hv : value.toNat.testBit 0 = true)
    (hs : (sqOf s n.val).state = .disabled) (h31 : value.toNat / 256 % 32 ≠ 31) (hc : (cqOf s (value.toNat / 256 % 32)).enable = true) :
    exec (.sqEnable n true value) s = .next (putSq (putSq (levelStored n.val value.toNat s) n.val
      (sqConfigured value.toNat (sqOf s n.val))) n.val (sqStarted (sqConfigured value.toNat (sqOf s n.val)))) := by
  have hcfg := storeSqCfg_stopped (n := n.val) (v := value.toNat) (s := s) (by rw [hs]; nofun)
  have hq : sqOf (storeSqCfg n.val value.toNat s) n.val = sqConfigured value.toNat (sqOf s n.val) := by
    rw [hcfg, sqOf_putSq, if_pos rfl]
  have hcq : cqOf (storeSqCfg n.val value.toNat s) (value.toNat / 256 % 32) = cqOf s (value.toNat / 256 % 32) := by
    rw [hcfg]
    rfl
  refine (congrArg _ (if_pos (level0_open hb))).trans ?_
  dsimp only
  rw [hq, if_pos ⟨hv, hs, h31, by rw [← hc, ← hcq]; rfl⟩, hcfg]
  rfl

theorem sqEnable_yields {n : Fin 32} {value : BitVec 32} (hb : barOpen s = true) (hv : value.toNat.testBit 0 = true)
    (hs : (sqOf s n.val).state = .disabled) (h31 : value.toNat / 256 % 32 ≠ 31) (hc : (cqOf s (value.toNat / 256 % 32)).enable = true) :
    Yields (.sqEnable n true value) s fun t =>
      (sqOf t n.val).state = .running ∧ (sqOf t n.val).bound = value.toNat / 256 % 32 ∧ (sqOf t n.val).head = 0 ∧ (sqOf t n.val).tail = 0
        ∧ (4 ≤ value.toNat / 16 % 16 → value.toNat / 16 % 16 ≤ 12 → (sqOf t n.val).size = value.toNat / 16 % 16)
        ∧ Tab.get 0 t.prot.shadow.level n.val = value.toNat / 65536 % 4 ∧ t.prot.active = s.prot.active
        ∧ (∀ k, k ≠ n.val → sqOf t k = sqOf s k) ∧ t.rings.cqs = s.rings.cqs ∧ SameBut [.prot, .rings] s t := by
  refine ⟨_, sqEnable_starts hb hv hs h31 hc, ?_⟩
  simp only [sqOf_putSq, if_true]
  refine ⟨rfl, rfl, rfl, rfl, fun hl hh => if_pos ⟨hl, hh⟩, levelStored_level, rfl, fun k hk => ?_, rfl, ?_⟩
  · rw [if_neg hk, if_neg hk]
    rfl
  · exact putSq_frame (by decide) (putSq_frame (by decide) (levelStored_frame.mono (by decide)))

/-- A draining ring with nothing consumed or to be posted is disabled (R131). -/
theorem drainEnd_ends (hq : (sqOf s n).state = .draining) (hi : (s.rings.inflight.any fun d => d.sq == n) = false)
    (hd : (s.rings.done.any fun d => d.sq == n) = false) :
    drainEnd n s = putSq s n (sqStopped (sqOf s n)) :=
  if_pos ⟨hq, ne_true_of_eq_false hi, ne_true_of_eq_false hd⟩

/-- A ring begins to drain: its fetches end or are to be discarded (R131). -/
def drainStarted (n : Nat) (s : State) : State := dropFetches n (putSq s n { sqOf s n with state := .draining })

theorem sqOf_drainStarted {k : Nat} :
    sqOf (drainStarted n s) k = if k = n then { sqOf s n with state := .draining } else sqOf s k :=
  sqOf_putSq s n k _

/-- A ring with none of its descriptors consumed has none to flush. -/
theorem flushAll_none (hi : (s.rings.inflight.any fun d => d.sq == n) = false) :
    flushAll (s.rings.inflight.filter fun d => d.sq == n) s = s := by
  have hnil : (s.rings.inflight.filter fun d => d.sq == n) = [] := by
    simpa [List.filter_eq_nil_iff] using hi
  rw [hnil]
  rfl

/-- A ring that holds no descriptor drains at once (R131). -/
theorem drainStarted_ends (hi : (s.rings.inflight.any fun d => d.sq == n) = false)
    (hd : (s.rings.done.any fun d => d.sq == n) = false) :
    drainEnd n (flushAll ((drainStarted n s).rings.inflight.filter fun d => d.sq == n) (drainStarted n s))
      = putSq (drainStarted n s) n (sqStopped (sqOf s n)) := by
  have hq : sqOf (drainStarted n s) n = { sqOf s n with state := .draining } := sqOf_drainStarted.trans (if_pos rfl)
  rw [flushAll_none (s := drainStarted n s) hi, drainEnd_ends (congrArg Sq.state hq) hi hd, hq]
  rfl

theorem sqDrain_yields {n : Fin 32} {value : BitVec 32} (hb : barOpen s = true) (hv : value.toNat.testBit 0 = false)
    (hs : (sqOf s n.val).state = .running) (hi : (s.rings.inflight.any fun d => d.sq == n.val) = false)
    (hd : (s.rings.done.any fun d => d.sq == n.val) = false) :
    Yields (.sqDrain n true value) s fun t =>
      (sqOf t n.val).state = .disabled ∧ (sqOf t n.val).head = 0 ∧ (sqOf t n.val).tail = 0 ∧ t.rings.inflight = s.rings.inflight
        ∧ t.rings.done = s.rings.done ∧ (∀ k, k ≠ n.val → sqOf t k = sqOf s k) ∧ t.chain = s.chain
        ∧ SameBut [.link, .prot, .rings, .chain] s t := by
  have hrun : exec (.sqDrain n true value) s = .next (putSq (drainStarted n.val (levelStored n.val value.toNat s)) n.val
      (sqStopped (sqOf s n.val))) := by
    refine (congrArg _ (if_pos (level0_clears hb hv))).trans ?_
    dsimp only
    rw [storeSqCfg_running hs]
    exact congrArg _ ((if_pos hs).trans (drainStarted_ends (s := levelStored n.val value.toNat s) hi hd))
  refine Yields.framed ⟨_, hrun, fun hf => ?_⟩
  simp only [sqOf_putSq, if_true]
  refine ⟨rfl, rfl, rfl, rfl, rfl, fun k hk => ?_, rfl, hf⟩
  rw [if_neg hk, sqOf_drainStarted, if_neg hk]
  rfl

end Submission

/-! ### Completion rings -/

section Completion
variable {s : State} {n : Fin 32} {value : BitVec 32}

/-- An enabled CQ takes no `SIZE` (R96). -/
theorem storeCqCfg_enabled {n v : Nat} (h : (cqOf s n).enable = true) : storeCqCfg n v s = s := if_pos h

/-- A disabled CQ takes a `SIZE` of 4 to 12 (R96). -/
def cqConfigured (v : Nat) (c : Cq) : Cq := { c with size := if 4 ≤ bits v 4 4 ∧ bits v 4 4 ≤ 12 then bits v 4 4 else c.size }

/-- A CQ that has just been enabled (R123 R127). -/
def cqStarted (irq : Bool) (c : Cq) : Cq := { c with enable := true, irqEn := irq, armed := irq, head := 0, tail := 0, phase := true }

theorem storeCqCfg_disabled {n v : Nat} (h : (cqOf s n).enable = false) :
    storeCqCfg n v s = putCq s n (cqConfigured v (cqOf s n)) := if_neg (ne_true_of_eq_false h)

theorem cqOf_putCq_other {n k : Nat} {x : Cq} (h : k ≠ n) : cqOf (putCq s n x) k = cqOf s k := by
  rw [cqOf_putCq, if_neg h]

theorem cqEnable_yields (hb : barOpen s = true) (hv : value.toNat.testBit 0 = true) (hc : (cqOf s n.val).enable = false) :
    Yields (.cqEnable n true value) s fun t =>
      (cqOf t n.val).enable = true ∧ (cqOf t n.val).head = 0 ∧ (cqOf t n.val).tail = 0 ∧ (cqOf t n.val).phase = true
        ∧ (cqOf t n.val).irqEn = value.toNat.testBit 8 ∧ (cqOf t n.val).armed = value.toNat.testBit 8
        ∧ (∀ k, k ≠ n.val → cqOf t k = cqOf s k) ∧ t.rings.sqs = s.rings.sqs ∧ SameBut [.rings] s t := by
  have hrun : exec (.cqEnable n true value) s = .next (putCq (putCq s n.val (cqConfigured value.toNat (cqOf s n.val))) n.val
      (cqStarted (value.toNat.testBit 8) (cqConfigured value.toNat (cqOf s n.val)))) := by
    have hoff : (cqConfigured value.toNat (cqOf s n.val)).enable = false := hc
    refine (congrArg _ (if_pos (level0_open hb))).trans ?_
    dsimp only
    rw [storeCqCfg_disabled hc, cqOf_putCq, if_pos rfl, if_pos (by rw [hv, hoff]; rfl)]
    rfl
  refine ⟨_, hrun, ?_⟩
  simp only [cqOf_putCq, if_true]
  refine ⟨rfl, rfl, rfl, rfl, rfl, rfl, fun k hk => ?_, rfl, putCq_frame (by decide) (putCq_frame (by decide) .refl)⟩
  rw [if_neg hk, if_neg hk]

/-- No ring holds the CQ where every ring is disabled or bound to another (R133). -/
theorem cq_unbound (h : ∀ k < 32, (sqOf s k).state = .disabled ∨ (sqOf s k).bound ≠ n.val) :
    ((List.range 32).any fun k => (sqOf s k).state != .disabled && (sqOf s k).bound == n.val) = false := by
  rw [List.any_eq_false]
  intro k hk
  rcases h k (List.mem_range.1 hk) with hs | hs <;> simp [hs]

theorem cqDisable_yields (hb : barOpen s = true) (hv : value.toNat.testBit 0 = false) (hc : (cqOf s n.val).enable = true)
    (hn : n.val = 31 ∨ (reserved s n.val = 0 ∧ ∀ k < 32, (sqOf s k).state = .disabled ∨ (sqOf s k).bound ≠ n.val)) :
    Yields (.cqDisable n true value) s fun t =>
      cqOf t n.val = { cqOf s n.val with enable := false, armed := false, irqEn := value.toNat.testBit 8 }
        ∧ (∀ k, k ≠ n.val → cqOf t k = cqOf s k) ∧ t.rings.sqs = s.rings.sqs ∧ SameBut [.rings] s t := by
  have hfree : ((cqOf s n.val).enable && (decide (n.val = 31)
      || (!((List.range 32).any fun k => (sqOf s k).state != .disabled && (sqOf s k).bound == n.val) && decide (reserved s n.val = 0)))) = true := by
    rw [hc, Bool.true_and]
    rcases hn with h31 | ⟨hres, hsq⟩
    · simp only [h31, decide_true, Bool.true_or]
    · rw [cq_unbound hsq, hres]
      simp
  exact ⟨_, (congrArg _ (if_pos (level0_clears hb hv))).trans (congrArg _ (if_pos hfree)), by rw [cqOf_putCq, if_pos rfl],
    fun _ => cqOf_putCq_other, rfl, putCq_frame (by decide) .refl⟩

theorem irqEnWrite_yields (hb : barOpen s = true) (hc : (cqOf s n.val).enable = true) (ht : (cqOf s n.val).tail = (cqOf s n.val).head) :
    Yields (.irqEnWrite n true value) s fun t =>
      cqOf t n.val = { cqOf s n.val with irqEn := value.toNat.testBit 8, armed := value.toNat.testBit 8 }
        ∧ (∀ k, k ≠ n.val → cqOf t k = cqOf s k) ∧ t.rings.sqs = s.rings.sqs ∧ SameBut [.rings] s t := by
  have hstore : storeIrqEn n.val value.toNat s
      = putCq s n.val { cqOf s n.val with irqEn := value.toNat.testBit 8, armed := value.toNat.testBit 8 } := by
    simp [storeIrqEn, hc, ht]
  have hrun : exec (.irqEnWrite n true value) s = .next (storeIrqEn n.val value.toNat s) := by
    refine (congrArg _ (if_pos (level0_open hb))).trans ?_
    dsimp only
    rw [storeCqCfg_enabled hc]
  exact ⟨_, hrun.trans (congrArg _ hstore), by rw [cqOf_putCq, if_pos rfl], fun _ => cqOf_putCq_other, rfl, putCq_frame (by decide) .refl⟩

end Completion

/-- Settles O14: each write stores what the ring takes in its state, then starts, drains or disarms that ring alone. -/
theorem ringsEnabled : Obligations.RingsEnabled :=
  ⟨fun _ _ _ => sqEnable_yields, fun _ _ _ => sqDrain_yields, fun _ _ _ => cqEnable_yields, fun _ _ _ => cqDisable_yields,
    fun _ _ _ => irqEnWrite_yields⟩

end Sys2Proof.Machine
end

section
/-! Doorbells and host silence (R105 R106 R127 R134 R139). -/

set_option autoImplicit false
-- One declaration after the other: the text as one file holds many.
set_option Elab.async false

namespace Sys2Proof.Machine

section Doorbells
variable {s : State} {n : Fin 32} {value : BitVec 32}

/-- The index that a doorbell carries (R105). -/
theorem bits_index : bits value.toNat 0 12 = value.toNat % 4096 := by simp [bits]

theorem hostHeard_rings : (hostHeard s).rings = { s.rings with silence := false } := condOff_rings _ _

/-! ### Errors -/

theorem doorbellError_drives {kick cq : Bool} {ring cause v : Nat} : Drives 469 (doorbellError kick cq ring cause v s) :=
  raise_drives _ _

/-- While no error is recorded the first is taken (R139). -/
theorem doorbellError_recorded {kick cq : Bool} {ring cause v : Nat} (h : s.rings.dbErr.valid = false) :
    (doorbellError kick cq ring cause v s).rings
      = { s.rings with dbErr := { valid := true, kick, cq, ring, cause, value := v % 4096 } } := by
  rw [doorbellError, raise_rings, if_neg (ne_true_of_eq_false h)]

/-! ### SQ tails -/

theorem sqTailDoorbell_moves (hb : barOpen s = true) (hs : (sqOf s n.val).state = .running)
    (hv : value.toNat % 4096 < 2 ^ (sqOf s n.val).size) (ht : value.toNat % 4096 ≠ (sqOf s n.val).tail) :
    exec (.sqTailDoorbell n value true) s
      = .next (hostHeard (putSq s n.val { sqOf s n.val with tail := value.toNat % 4096 })) := by
  change execSqTailDoorbell n value true s = _
  simp [execSqTailDoorbell, bits_index, hb, hs, ht, Nat.not_le.2 hv]

theorem sqTailDoorbell_yields (hb : barOpen s = true) (hs : (sqOf s n.val).state = .running)
    (hv : value.toNat % 4096 < 2 ^ (sqOf s n.val).size) (ht : value.toNat % 4096 ≠ (sqOf s n.val).tail) :
    Yields (.sqTailDoorbell n value true) s fun t =>
      sqOf t n.val = { sqOf s n.val with tail := value.toNat % 4096 } ∧ (∀ k, k ≠ n.val → sqOf t k = sqOf s k)
        ∧ t.rings.cqs = s.rings.cqs ∧ t.rings.silence = false ∧ SameBut [.rings, .faults] s t := by
  have hsq : ∀ (u : State) k, sqOf (hostHeard u) k = sqOf u k := fun u k => by rw [sqOf, hostHeard_rings]; rfl
  refine ⟨_, sqTailDoorbell_moves hb hs hv ht, ?_, fun k hk => ?_, by rw [hostHeard_rings]; rfl, by rw [hostHeard_rings],
    hostHeard_frame (by decide) (putSq_frame (by decide) .refl)⟩
  · rw [hsq, sqOf_putSq, if_pos rfl]
  · rw [hsq, sqOf_putSq, if_neg hk]

/-- The cause recorded for a bad tail doorbell, the first that applies (R106). -/
def tailCause (s : State) (n : Nat) (proper : Bool) : Nat :=
  if proper = false then 3 else if (sqOf s n).state ≠ .running then 1 else 0

theorem sqTailDoorbell_errs {proper : Bool} (hb : barOpen s = true)
    (he : proper = false ∨ (sqOf s n.val).state ≠ .running ∨ 2 ^ (sqOf s n.val).size ≤ value.toNat % 4096) :
    exec (.sqTailDoorbell n value proper) s
      = .next (doorbellError false false n.val (tailCause s n.val proper) (value.toNat % 4096) s) := by
  change execSqTailDoorbell n value proper s = _
  rw [execSqTailDoorbell, tailCause]
  simp only [bits_index, hb, Bool.not_true, Bool.false_eq_true, if_false]
  by_cases hp : proper = false
  · simp [hp]
  by_cases hs : (sqOf s n.val).state = .running
  · have hv : 2 ^ (sqOf s n.val).size ≤ value.toNat % 4096 := (he.resolve_left hp).resolve_left (not_not_intro hs)
    simp [hp, hs, hv]
  · simp [hp, hs]

theorem sqTailDoorbell_records {proper : Bool} (hb : barOpen s = true) (hd : s.rings.dbErr.valid = false)
    (he : proper = false ∨ (sqOf s n.val).state ≠ .running ∨ 2 ^ (sqOf s n.val).size ≤ value.toNat % 4096) :
    Yields (.sqTailDoorbell n value proper) s fun t => t.rings = { s.rings with dbErr := {
        valid := true, kick := false, cq := false, ring := n.val, value := value.toNat % 4096, cause := tailCause s n.val proper } }
      ∧ Drives 469 t ∧ SameBut [.rings, .faults] s t :=
  ⟨_, sqTailDoorbell_errs hb he, by rw [doorbellError_recorded hd, Nat.mod_mod], doorbellError_drives,
    doorbellError_frame (by decide) .refl⟩

/-! ### CQ heads -/

/-- With no event lost no `EVT_LOST` entry is due (R129). -/
theorem postLost_none (h : s.rings.lostSince = 0) : postLost s = s := by simp [postLost, h]

/-- The head of a CQ has moved to its tail: an enabled vector is armed, and a change of the head ends the silence (R127 R134). -/
def headMoved (n v : Nat) (s : State) : State :=
  let t := putCq s n { cqOf s n with head := v, armed := (cqOf s n).irqEn }
  if v = (cqOf s n).head then t else hostHeard t

theorem headMoved_rings {n v : Nat} : (headMoved n v s).rings = { s.rings with
    cqs := Tab.put s.rings.cqs n { cqOf s n with head := v, armed := (cqOf s n).irqEn }, silence := (headMoved n v s).rings.silence } := by
  unfold headMoved
  dsimp only
  split
  · rfl
  · rw [hostHeard_rings]
    rfl

theorem headMoved_cqOf {n v k : Nat} : cqOf (headMoved n v s) k
    = if k = n then { cqOf s n with head := v, armed := (cqOf s n).irqEn } else cqOf s k := by
  rw [cqOf, headMoved_rings]
  exact Tab.get_put ..

theorem headMoved_frame {n v : Nat} : SameBut [.rings, .faults] s (headMoved n v s) :=
  have ht := putCq_frame (by decide) .refl
  .ite (fun _ => ht) fun _ => hostHeard_frame (by decide) ht

theorem cqHeadDoorbell_moves (hb : barOpen s = true) (hc : (cqOf s n.val).enable = true)
    (hv : value.toNat % 4096 < 2 ^ (cqOf s n.val).size) (ht : value.toNat % 4096 = (cqOf s n.val).tail)
    (hp : (value.toNat % 4096 + 2 ^ (cqOf s n.val).size - (cqOf s n.val).head) % 2 ^ (cqOf s n.val).size ≤ posted (cqOf s n.val))
    (hl : n.val = 31 → s.rings.lostSince = 0) :
    exec (.cqHeadDoorbell n value true) s = .next (headMoved n.val (value.toNat % 4096) s) := by
  have hlost : (if n.val = 31 then postLost (headMoved n.val (value.toNat % 4096) s) else headMoved n.val (value.toNat % 4096) s)
      = headMoved n.val (value.toNat % 4096) s := by
    split
    · next h31 => exact postLost_none (by rw [headMoved_rings]; exact hl h31)
    · rfl
  change execCqHeadDoorbell n value true s = _
  rw [← hlost]
  simp [execCqHeadDoorbell, headMoved, bits_index, hb, hc, Nat.not_le.2 hv, Nat.not_lt.2 hp, ← ht]

theorem cqHeadDoorbell_yields (hb : barOpen s = true) (hc : (cqOf s n.val).enable = true)
    (hv : value.toNat % 4096 < 2 ^ (cqOf s n.val).size) (ht : value.toNat % 4096 = (cqOf s n.val).tail)
    (hp : (value.toNat % 4096 + 2 ^ (cqOf s n.val).size - (cqOf s n.val).head) % 2 ^ (cqOf s n.val).size ≤ posted (cqOf s n.val))
    (hl : n.val = 31 → s.rings.lostSince = 0) :
    Yields (.cqHeadDoorbell n value true) s fun t =>
      cqOf t n.val = { cqOf s n.val with head := value.toNat % 4096, armed := (cqOf s n.val).irqEn }
        ∧ (∀ k, k ≠ n.val → cqOf t k = cqOf s k) ∧ t.rings.sqs = s.rings.sqs ∧ SameBut [.rings, .faults] s t :=
  ⟨_, cqHeadDoorbell_moves hb hc hv ht hp hl, headMoved_cqOf.trans (if_pos rfl), fun _ hk => headMoved_cqOf.trans (if_neg hk),
    by rw [headMoved_rings], headMoved_frame⟩

/-! ### Silence -/

theorem hostSilent_yields (hr : runs .ring s = true) :
    Yields .hostSilent s fun t => t.rings = { s.rings with silence := true } ∧ t.faults.cond.testBit 472 = true
      ∧ SameBut [.rings, .faults] s t :=
  ⟨_, ifRuns_runs hr, condOn_rings _ _, condOn_cond _ _, condOn_frame (by decide) (setRings_frame (by decide) .refl)⟩

end Doorbells

/-- Settles O13: each write either moves its one index or records its first cause of error, and silence is a condition that lasts. -/
theorem doorbells : Obligations.Doorbells :=
  ⟨fun _ _ _ => sqTailDoorbell_yields, fun _ _ _ _ => sqTailDoorbell_records, fun _ _ _ => cqHeadDoorbell_yields,
    fun _ => hostSilent_yields⟩

end Sys2Proof.Machine
end

section
/-! Who waits for host reads, and what starting and issuing reads leaves of it (R76 R110 R169). -/

set_option autoImplicit false
-- One declaration after the other: the text as one file holds many.
set_option Elab.async false

namespace Sys2Proof.Machine

/-! ### The requesters of the reads under way -/

/-- Who asked for the reads in the host island's queue, in order. -/
def requesters (s : State) : List Requester := s.link.reads.map ReadItem.who

section Requesters
variable {s t u : State}

/-- Issuing an item's requests leaves who asked for it. -/
theorem issueItems_who {l : Link} : ∀ {rs : List ReadItem} {outs : List (Nat × Nat)},
    (issueItems l rs outs).1.map ReadItem.who = rs.map ReadItem.who
  | [], _ => rfl
  | r :: rs, outs => by
    unfold issueItems
    split
    · exact congrArg (r.who :: ·) issueItems_who
    · exact congrArg (r.who :: ·) issueItems_who

theorem requesters_pump : requesters (pump s) = requesters s := by
  unfold pump
  split
  · exact issueItems_who
  · rfl

theorem requesters_startRead {who : Requester} {ranges : List (Nat × Nat)} :
    requesters (startRead who ranges s) = requesters s ++ [who] :=
  requesters_pump.trans List.map_append

/-- A poll is outstanding where it stands among the requesters (R169). -/
theorem pollOut_iff {gid i : Nat} : pollOut s gid i = true ↔ Requester.fence gid i ∈ requesters s := by
  simp [pollOut, requesters]

/-! ### Changes that only add reads -/

/-- A change drops no read and leaves whether DMA is allowed. -/
structure ReadsKept (s t : State) : Prop where
  sub : requesters s ⊆ requesters t
  dma : dmaOk t = dmaOk s

theorem ReadsKept.refl : ReadsKept s s := ⟨List.Subset.refl _, rfl⟩

theorem ReadsKept.trans (h : ReadsKept s t) (k : ReadsKept t u) : ReadsKept s u := ⟨List.Subset.trans h.sub k.sub, k.dma.trans h.dma⟩

/-- What writes neither Lichen nor the link keeps the reads. -/
theorem ReadsKept.of_frame {l : List Part} (h : SameBut l s t) (hp : .power ∉ l := by decide) (hl : .link ∉ l := by decide) :
    ReadsKept s t where
  sub := by rw [requesters, requesters, h.link_eq hl]; exact List.Subset.refl _
  dma := dmaOk_congr (h.power_eq hp) (.of_eq (h.link_eq hl))

theorem startRead_keeps {who : Requester} {ranges : List (Nat × Nat)} : ReadsKept s (startRead who ranges s) where
  sub := by rw [requesters_startRead]; exact List.subset_append_left _ _
  dma := (dmaOk_congr (s := queueRead who ranges s) (pump_frame (l := [.outputs, .link]) (by decide) .refl).power_eq pump_controls).trans rfl

end Requesters

/-! ### Reads started one after another -/

section Folds
variable {α : Type} {f : State → α → State} {l : List α} {s : State}

/-- Steps that each keep the reads keep them together. -/
theorem foldl_keeps (hf : ∀ s x, ReadsKept s (f s x)) : ReadsKept s (l.foldl f s) := by
  induction l generalizing s with
  | nil => exact .refl
  | cons x l ih => exact (hf s x).trans ih

/-- Where one of the steps asks for a read whenever DMA is allowed, the read stands at the end. -/
theorem foldl_requests {x : α} {who : Requester} (hf : ∀ s x, ReadsKept s (f s x))
    (hx : ∀ s, dmaOk s = true → who ∈ requesters (f s x)) (hm : x ∈ l) (hd : dmaOk s = true) : who ∈ requesters (l.foldl f s) := by
  induction l generalizing s with
  | nil => exact absurd hm List.not_mem_nil
  | cons y l ih =>
    rcases List.mem_cons.1 hm with rfl | hm
    · exact (foldl_keeps (s := f s x) hf).sub (hx s hd)
    · exact ih hm ((hf s y).dma.trans hd)

end Folds

end Sys2Proof.Machine
end

section
/-! Fences polled on a tick and on a kick, satisfied, and timed out (R168 R169 R170). -/

set_option autoImplicit false
-- One declaration after the other: the text as one file holds many.
set_option Elab.async false

namespace Sys2Proof.Machine

/-! ### Polls -/

section Polls
variable {s : State} {gid : Nat}

theorem pollFence_keeps {i addr : Nat} : ReadsKept s (pollFence gid i addr s) := by
  unfold pollFence
  split
  · exact startRead_keeps
  · exact .refl

/-- With DMA allowed a poll of a fence goes out (R169). -/
theorem pollFence_requests {i addr : Nat} (hd : dmaOk s = true) : .fence gid i ∈ requesters (pollFence gid i addr s) := by
  rw [pollFence, if_pos hd, requesters_startRead]
  exact List.mem_append_right _ (List.mem_singleton_self _)

/-- What a tick does with one fence of a group: poll it unless it is satisfied. -/
def tickFence (gid : Nat) (s : State) (x : Fence × Nat) : State := if x.1.satisfied then s else pollFence gid x.2 x.1.addr s

/-- A fence whose poll is outstanding is to be polled once more (R169). -/
def pollAgain (gid i : Nat) (s : State) : State :=
  updGroup gid (fun g => { g with fences := g.fences.mapIdx fun j x => if j = i then { x with again := true } else x }) s

/-- What a kick does with one fence of a group: poll it now or once more, unless it is satisfied. -/
def kickFence (gid : Nat) (s : State) (x : Fence × Nat) : State :=
  if x.1.satisfied then s else if pollOut s gid x.2 then pollAgain gid x.2 s else pollFence gid x.2 x.1.addr s

theorem pollAgain_keeps {i : Nat} : ReadsKept s (pollAgain gid i s) := .of_frame (l := [.cmp]) (updGroup_frame (by decide) .refl)

theorem pollFences_eq {fs : List Fence} {i : Nat} : pollFences gid fs i s = (fs.zipIdx i).foldl (tickFence gid) s := by
  induction fs generalizing i s with
  | nil => rfl
  | cons f fs ih => exact ih

theorem kickFences_eq {fs : List Fence} {i : Nat} : kickFences gid fs i s = (fs.zipIdx i).foldl (kickFence gid) s := by
  induction fs generalizing i s with
  | nil => rfl
  | cons f fs ih => exact ih

/-- One step for each fence of each of several groups. -/
def eachFence (step : Nat → State → Fence × Nat → State) (gs : List Group) (s : State) : State :=
  gs.foldl (fun s g => (g.fences.zipIdx 0).foldl (step g.gid) s) s

theorem pollGroups_eq {gs : List Group} : pollGroups gs s = eachFence tickFence gs s := by
  induction gs generalizing s with
  | nil => rfl
  | cons g gs ih => rw [pollGroups, pollFences_eq, ih]; rfl

theorem kickAll_eq {gs : List Group} : kickAll gs s = eachFence kickFence gs s := by
  induction gs generalizing s with
  | nil => rfl
  | cons g gs ih => rw [kickAll, kickFences_eq, ih]; rfl

theorem tickFence_keeps {x : Fence × Nat} : ReadsKept s (tickFence gid s x) := by
  unfold tickFence
  split
  · exact .refl
  · exact pollFence_keeps

theorem kickFence_keeps {x : Fence × Nat} : ReadsKept s (kickFence gid s x) := by
  unfold kickFence
  split
  · exact .refl
  · split
    · exact pollAgain_keeps
    · exact pollFence_keeps

theorem tickFence_requests {f : Fence} {i : Nat} (hf : f.satisfied = false) (hd : dmaOk s = true) :
    .fence gid i ∈ requesters (tickFence gid s (f, i)) := by
  rw [tickFence, if_neg (ne_true_of_eq_false hf)]
  exact pollFence_requests hd

/-- A kick of a fence leaves a poll outstanding, the one that was or a new one (R169). -/
theorem kickFence_requests {f : Fence} {i : Nat} (hf : f.satisfied = false) (hd : dmaOk s = true) :
    .fence gid i ∈ requesters (kickFence gid s (f, i)) := by
  rw [kickFence, if_neg (ne_true_of_eq_false hf)]
  split
  · next hp => exact pollAgain_keeps.sub (pollOut_iff.1 hp)
  · exact pollFence_requests hd

/-- Steps that keep the reads and leave a poll of an unsatisfied fence outstanding do so for every fence of every group. -/
theorem eachFence_polls {step : Nat → State → Fence × Nat → State} {gs : List Group} {g : Group} {i : Nat} {f : Fence}
    (hk : ∀ gid s x, ReadsKept s (step gid s x))
    (hq : ∀ gid s, dmaOk s = true → .fence gid i ∈ requesters (step gid s (f, i)))
    (hd : dmaOk s = true) (hg : g ∈ gs) (hi : g.fences[i]? = some f) : pollOut (eachFence step gs s) g.gid i = true :=
  pollOut_iff.2 <| foldl_requests (fun _ _ => foldl_keeps (hk _))
    (fun _ => foldl_requests (hk _) (hq _) (List.mem_zipIdx_iff_getElem?.2 hi)) hg hd

theorem runs_of_dmaOk (h : dmaOk s = true) : runs .ring s = true := by
  simp only [dmaOk_eq, Bool.and_eq_true] at h
  exact h.1.1.1

theorem fencePollTick_yields (hd : dmaOk s = true) :
    Yields .fencePollTick s fun t => (∀ g ∈ heldGroups s, ∀ (i : Nat) (f : Fence), g.fences[i]? = some f → f.satisfied = false →
      pollOut t g.gid i = true) ∧ SameBut [.outputs, .link] s t := by
  refine ⟨_, ifRuns_runs (runs_of_dmaOk hd), fun _ hg _ _ hi hf => ?_, pollGroups_frame (by decide) .refl⟩
  rw [pollGroups_eq]
  exact eachFence_polls (fun _ _ _ => tickFence_keeps) (fun _ _ => tickFence_requests hf) hd hg hi

theorem fenceKick_yields {n : Fin 32} {value : BitVec 32} (hb : barOpen s = true) (hd : dmaOk s = true) :
    Yields (.fenceKick n value true) s fun t => (∀ g ∈ heldGroups s, g.sq = n.val → ∀ (i : Nat) (f : Fence), g.fences[i]? = some f →
      f.satisfied = false → pollOut t g.gid i = true) ∧ SameBut [.outputs, .link, .cmp] s t := by
  have hrun : exec (.fenceKick n value true) s = .next (kickGroups n.val s) := (if_neg (by simp [hb])).trans (if_neg (by decide))
  refine ⟨_, hrun, fun g hg hq _ _ hi hf => ?_, kickGroups_frame (by decide) .refl⟩
  rw [kickGroups, kickAll_eq]
  exact eachFence_polls (fun _ _ _ => kickFence_keeps) (fun _ _ => kickFence_requests hf) hd (List.mem_filter.2 ⟨hg, by simp [hq]⟩) hi

end Polls

/-! ### Results -/

section Results
variable {s : State} {gid e : Nat}

theorem groupOf_gid {g : Group} (h : groupOf s gid = some g) : g.gid = gid := by simpa using List.find?_some h

/-- A group after a change of one. -/
theorem groupOf_updGroup {f : Group → Group} {k : Nat} (hf : ∀ g, (f g).gid = g.gid) :
    groupOf (updGroup gid f s) k = (groupOf s k).map fun g => if g.gid = gid then f g else g := by
  have hgid : ((fun g : Group => g.gid == k) ∘ fun g => if g.gid = gid then f g else g) = fun g => g.gid == k := by
    funext g
    simp only [Function.comp_apply, apply_ite Group.gid, hf, ite_self]
  simp only [groupOf, updGroup, onCmp_cmp, List.find?_map, hgid]

/-- The fence of an entry has been found satisfied (R168). -/
def fenceMet (e : Nat) (g : Group) : Group :=
  { g with fences := g.fences.mapIdx fun j x => if j = e then { x with satisfied := true, again := false } else x }

theorem fenceMet_same {g : Group} {f : Fence} (h : g.fences[e]? = some f) :
    (fenceMet e g).fences[e]? = some { f with satisfied := true, again := false } := by
  simp [fenceMet, h]

theorem fenceMet_other {g : Group} {j : Nat} (h : j ≠ e) : (fenceMet e g).fences[j]? = g.fences[j]? := by
  simp [fenceMet, h]

theorem fenceMet_length {g : Group} : (fenceMet e g).fences.length = g.fences.length := List.length_mapIdx

/-- A poll that reads a value at or past the threshold satisfies its fence, and no further poll goes out (R168 R169). -/
theorem fencePollResult_meets {e : Fin 8} {r : ReadItem} {g : Group} {f : Fence}
    (hf : s.link.reads.find? (fun r => r.who == .fence gid e.val && (r.failed || r.chunks.all fun c => c.data.isSome)) = some r)
    (hr : runs .comp s = true) (hok : r.failed = false) (hg : groupOf s gid = some g) (he : g.fences[e.val]? = some f)
    (hv : f.threshold ≤ leNat (r.chunks.flatMap fun c => c.data.getD [])) :
    exec (.fencePollResult gid e) s = .next (updGroup gid (fenceMet e.val) (dropItem r s)) := by
  have hsat : (f.satisfied || (!r.failed && decide (f.threshold ≤ leNat (r.chunks.flatMap fun c => c.data.getD [])))) = true := by
    simp [hok, hv]
  refine (ifRuns_runs hr).trans ?_
  rw [hf]
  dsimp only
  rw [show groupOf { s with link := { s.link with reads := s.link.reads.filter fun y => y.id != r.id } } gid = some g from hg]
  dsimp only
  rw [he]
  dsimp only
  rw [hsat]
  rfl

theorem fencePollResult_yields {e : Fin 8} {r : ReadItem} {g : Group} {f : Fence}
    (hf : s.link.reads.find? (fun r => r.who == .fence gid e.val && (r.failed || r.chunks.all fun c => c.data.isSome)) = some r)
    (hr : runs .comp s = true) (hok : r.failed = false) (hg : groupOf s gid = some g) (he : g.fences[e.val]? = some f)
    (hv : f.threshold ≤ leNat (r.chunks.flatMap fun c => c.data.getD [])) :
    Yields (.fencePollResult gid e) s fun t => (∃ h, groupOf t gid = some h ∧ h.gid = gid
        ∧ h.fences[e.val]? = some { f with satisfied := true, again := false } ∧ h.fences.length = g.fences.length
        ∧ ∀ j, j ≠ e.val → h.fences[j]? = g.fences[j]?) ∧ SameBut [.link, .cmp] s t := by
  have hgid := groupOf_gid hg
  refine ⟨_, fencePollResult_meets hf hr hok hg he hv, ⟨fenceMet e.val g, ?_, hgid, fenceMet_same he, fenceMet_length,
    fun _ => fenceMet_other⟩, updGroup_frame (by decide) (dropItem_frame (by decide) .refl)⟩
  rw [groupOf_updGroup (f := fenceMet e.val) fun _ => rfl, show groupOf (dropItem r s) gid = some g from hg, Option.map_some, if_pos hgid]

/-! ### Timeouts -/

theorem groupOf_dropGroup : groupOf (dropGroup gid s) gid = none := by
  simp [groupOf, dropGroup]

/-- The entries of a group's fence table that are not satisfied, one bit each. -/
def unmetMask (g : Group) : Nat := maskOf (fun i => match g.fences[i]? with | some f => !f.satisfied | none => false) 8

/-- A group has left, its commit completed `FENCE_TMO`, and the event and the fault of R170 set out. -/
def timedOut (gid : Nat) (g : Group) (s : State) : State :=
  raise 452 (postEvent 2 (g.tag * 65536 + g.sq) (unmetMask g) (unsigned 32 s.frm.num) (complete gid stFENCE_TMO [] (dropGroup gid s)))

variable {g : Group}

theorem timedOut_cmp : (timedOut gid g s).cmp = (dropGroup gid s).cmp := by simp [timedOut]

theorem timedOut_completed {d : Desc} (hd : descOf s gid = some d) : Completed gid d stFENCE_TMO [] s (timedOut gid g s) := by
  unfold Completed timedOut
  rw [raise_rings]
  exact complete_completed (s := dropGroup gid s) hd rfl rfl

theorem timedOut_frame : SameBut [.rings, .cmp, .faults] s (timedOut gid g s) :=
  raise_frame (by decide) (postEvent_frame (by decide) (complete_frame (by decide) (dropGroup_frame (by decide) .refl)))

/-- A held group that has waited its limit with a fence unsatisfied times out (R170). -/
theorem fenceTmo_ends {a lim : Nat} (hg : groupOf s gid = some g) (hr : runs .comp s = true)
    (hflip : s.frm.flipPending = true) (hst : g.st = .held) (hret : g.returned = false)
    (hun : (g.fences.any fun f => !f.satisfied) = true) (hage : g.age = some (a, lim)) (hlim : lim ≤ a + 1) :
    exec (.fenceTmo gid) s = .next (timedOut gid g s) := by
  refine (ifRuns_runs hr).trans ?_
  rw [hg]
  exact if_pos (by simp [hflip, hst, hret, hun, hage, hlim])

theorem fenceTmo_yields {d : Desc} {a lim : Nat} (hg : groupOf s gid = some g) (hd : descOf s gid = some d)
    (hr : runs .comp s = true) (hflip : s.frm.flipPending = true) (hst : g.st = .held) (hret : g.returned = false)
    (hun : (g.fences.any fun f => !f.satisfied) = true) (hage : g.age = some (a, lim)) (hlim : lim ≤ a + 1) :
    Yields (.fenceTmo gid) s fun t => groupOf t gid = none ∧ t.cmp.active = s.cmp.active ∧ Completed gid d stFENCE_TMO [] s t
      ∧ Drives 452 t ∧ SameBut [.rings, .cmp, .faults] s t := by
  refine ⟨_, fenceTmo_ends hg hr hflip hst hret hun hage hlim, ?_, by rw [timedOut_cmp]; rfl, timedOut_completed hd,
    raise_drives _ _, timedOut_frame⟩
  rw [groupOf, timedOut_cmp]
  exact groupOf_dropGroup

end Results

/-- Settles O18: each tick and kick leaves a poll of every unsatisfied fence, and a result or a timeout changes its one group. -/
theorem fences : Obligations.Fences :=
  ⟨fun _ => fencePollTick_yields, fun _ _ _ => fenceKick_yields, fun _ _ _ _ _ _ => fencePollResult_yields,
    fun _ _ _ _ _ _ => fenceTmo_yields⟩

end Sys2Proof.Machine
end

section
/-! Descriptors fetched, consumed, dispatched and completed, and completions and events posted (R108 R110 R111 R116 R121 R123 R124
R128 R129). -/

set_option autoImplicit false
-- One declaration after the other: the text as one file holds many.
set_option Elab.async false

namespace Sys2Proof.Machine

/-! ### Fetching -/

section Fetching
variable {s t : State} {n : Nat}

/-- The slots of SQ n that one read fetches (R110). -/
def slotsOf (n : Nat) : Requester → Nat
  | .fetch k _ c => if k = n then c else 0
  | _ => 0

theorem fetching_eq : fetching s n = ((requesters s).map (slotsOf n)).sum := by
  rw [requesters, List.map_map]
  rfl

/-- What leaves who asked for the reads leaves what is being fetched. -/
theorem fetching_congr (h : requesters t = requesters s) : fetching t n = fetching s n := by rw [fetching_eq, fetching_eq, h]

theorem fetching_queueFetch {turn first count base : Nat} : fetching (queueFetch turn n first count base s) n = fetching s n + count := by
  have hq : requesters (queueFetch turn n first count base s) = requesters s ++ [.fetch n first count] := List.map_append
  simp [fetching_eq, hq, slotsOf]

/-- A turn's requests fetch every slot of it: each takes at least one (R110). -/
theorem fetching_fetchRequests {turn size per base : Nat} (hp : 0 < per) {k first count : Nat} (hk : count ≤ k) :
    fetching (fetchRequests turn n size first count per base k s) n = fetching s n + count := by
  induction k generalizing first count s with
  | zero => rw [fetchRequests, Nat.le_zero.1 hk, Nat.add_zero]
  | succ k ih =>
    unfold fetchRequests
    split
    · next h0 => rw [h0, Nat.add_zero]
    · dsimp only
      rw [ih (by omega), fetching_queueFetch]
      omega

theorem descriptorFetch_yields {n : Fin 32} (hd : dmaOk s = true) (hn : nextTurn s = some n.val) :
    Yields (.descriptorFetch n) s fun t => t.rings = { s.rings with lastTurn := n.val } ∧ fetching t n.val = fetching s n.val + fetchable s n.val
      ∧ SameBut [.outputs, .link, .rings] s t := by
  have hturn : SameBut [.rings] s { s with rings := { s.rings with lastTurn := n.val } } := setRings_frame (by decide) .refl
  have hgo : (dmaOk s && decide (nextTurn s = some n.val)) = true := by simp [hd, hn]
  refine ⟨_, congrArg Host.Outcome.next (if_pos hgo), ?_, ?_,
    pump_frame (by decide) (fetchRequests_frame (by decide) (hturn.mono (by decide)))⟩
  · exact (pump_frame (l := [.outputs, .link]) (by decide) (fetchRequests_frame (by decide) .refl)).rings_eq
  · rw [fetching_congr requesters_pump, fetching_fetchRequests (by omega) le_rfl]
    rfl

end Fetching

/-! ### Consuming -/

section Consuming
variable {s : State} {n : Nat}

/-- A read whose data the next descriptors of SQ n come from (R108). -/
def isFront (n : Nat) (r : ReadItem) : Bool := match r.who with | .fetch k _ c => k == n && c != 0 | _ => false

/-- The descriptors read have been taken from the queue of reads, their on-chip copies with `bad` uncorrected errors (R11 R108). -/
def copied (r : ReadItem) (bad : Nat) (s : State) : State := eccUncorrected 8 bad (eccCorrected 0 (dropItem r s))

/-- The front request of one descriptor, its data there, is consumed (R108). -/
theorem descriptorConsumed_one {n : Fin 32} {r : ReadItem} {f : Nat} {k : Chunk} {data : Bytes} {bad : List Nat}
    (hf : s.link.reads.find? (isFront n.val) = some r) (hw : r.who = .fetch n.val f 1) (hok : r.failed = false)
    (hc : r.chunks = [k]) (hk : k.data = some data) (hr : runs .ring s = true) :
    exec (.descriptorConsumed n { bad := bad }) s = .next (consumeAll n.val ((List.range 1).filter bad.contains) [sub data 0 64] 0
      (copied r ((List.range 1).filter bad.contains).length s)) := by
  refine (ifRuns_runs hr).trans ?_
  split
  · next hnone => exact absurd (hnone.symm.trans hf) (by simp)
  · next r' hsome =>
    obtain rfl : r' = r := Option.some.inj (hsome.symm.trans hf)
    simp [hw, hok, hc, hk, cut64, copied, dropItem]

/-! ### Memory errors of the copies -/

theorem raise_eccUncorr {k : Nat} : (raise k s).faults.eccUncorr = s.faults.eccUncorr := by
  unfold raise
  split <;> rfl

/-- The uncorrected errors found have been counted (R11). -/
def eccCounted (bad : Nat) (s : State) : State :=
  { s with faults := { s.faults with eccUncorr := min 65535 (s.faults.eccUncorr + bad) } }

/-- With no injection under way nothing but errors found is counted and raised (R11). -/
theorem eccUncorrected_plain {words bad : Nat} (h : s.faults.inj = none) :
    eccUncorrected words bad s = raiseN bad 500 (eccCounted bad s) := by
  simp [eccUncorrected, takeInjs, h, eccCounted]

theorem copied_plain {r : ReadItem} {bad : Nat} (h : s.faults.inj = none) :
    copied r bad s = raiseN bad 500 (eccCounted bad (eccCorrected 0 (dropItem r s))) :=
  eccUncorrected_plain (s := eccCorrected 0 (dropItem r s)) h

theorem eccCounted_frame {bad : Nat} : SameBut [.faults] s (eccCounted bad s) :=
  onFlt_frame (f := fun c => { c with eccUncorr := min 65535 (c.eccUncorr + bad) }) (fun _ => rfl) (by decide) .refl

theorem copied_frame {r : ReadItem} {bad : Nat} (h : s.faults.inj = none) : SameBut [.link, .faults] s (copied r bad s) := by
  rw [copied_plain h]
  exact raiseN_frame (by decide) (eccCounted_frame.step (by decide) (eccCorrected_frame (by decide) (dropItem_frame (by decide) .refl)))

/-- One uncorrected error raises `ECC_UNCORR` and is counted (R11). -/
theorem copied_one {r : ReadItem} (h : s.faults.inj = none) :
    Drives 500 (copied r 1 s) ∧ (copied r 1 s).faults.eccUncorr = min 65535 (s.faults.eccUncorr + 1) := by
  rw [copied_plain h]
  exact ⟨raise_drives _ _, raise_eccUncorr⟩

/-! ### The head of the ring, and the descriptor behind it -/

/-- The head of a ring has passed one descriptor (R108). -/
def headPassed (q : Sq) : Sq := { q with head := (q.head + 1) % 2 ^ q.size }

/-- A descriptor as it is consumed (R108). -/
def consumedDesc (n : Nat) (b : Bytes) (s : State) : Desc :=
  { id := s.rings.nextId, sq := n, slot := (sqOf s n).head, bytes := b, phase := .table }

/-- The head has passed a descriptor that is now among those consumed. -/
def consumed (n : Nat) (b : Bytes) (s : State) : State :=
  let t := putSq s n (headPassed (sqOf s n))
  { t with rings := { t.rings with nextId := s.rings.nextId + 1, inflight := s.rings.inflight ++ [consumedDesc n b s] } }

theorem sqOf_consumed {b : Bytes} {k : Nat} : sqOf (consumed n b s) k = if k = n then headPassed (sqOf s n) else sqOf s k :=
  sqOf_putSq s n k _

theorem consumed_frame {b : Bytes} : SameBut [.rings] s (consumed n b s) := setRings_frame (by decide) (putSq_frame (by decide) .refl)

/-- The new descriptor is found by its number, which no other bears. -/
theorem descOf_consumed {b : Bytes} (h : ∀ d ∈ s.rings.inflight, d.id ≠ s.rings.nextId) :
    descOf (consumed n b s) s.rings.nextId = some (consumedDesc n b s) := by
  have hnone : s.rings.inflight.find? (fun d => d.id == s.rings.nextId) = none := by simpa using h
  simp [descOf, consumed, hnone, consumedDesc]

/-- A descriptor that the privilege check passes waits for dispatch (R88 R113). -/
theorem passChecks_passes {id : Nat} {d : Desc} (h : descOf s id = some d) (hp : privOk s.prot.active d.sq d.bytes d.fences = true) :
    passChecks id s = updDesc id (fun d => { d with phase := .queued }) s := by
  rw [passChecks, h]
  exact if_pos hp

/-- A well-formed, permitted descriptor without a fence table is consumed and waits for dispatch (R108 R113). -/
theorem consume1_queues {b : Bytes} (hf : formatOk b = true) (hop : le b 0 1 ≠ 0x11) (hp : privOk s.prot.active n b [] = true)
    (hnew : ∀ d ∈ s.rings.inflight, d.id ≠ s.rings.nextId) :
    consume1 n b s = updDesc s.rings.nextId (fun d => { d with phase := .queued }) (consumed n b s) := by
  rw [← passChecks_passes (descOf_consumed hnew) hp]
  refine (if_neg ?_).trans (if_neg fun h => hop h.1)
  rw [hf]
  decide

theorem descriptorConsumed_yields {n : Fin 32} {r : ReadItem} {f : Nat} {k : Chunk} {data : Bytes}
    (hf : s.link.reads.find? (isFront n.val) = some r) (hw : r.who = .fetch n.val f 1) (hok : r.failed = false)
    (hc : r.chunks = [k]) (hk : k.data = some data) (hlen : data.length = 64) (hfmt : formatOk data = true) (hop : le data 0 1 ≠ 0x11)
    (hp : privOk s.prot.active n.val data [] = true) (hnew : ∀ d ∈ s.rings.inflight, d.id ≠ s.rings.nextId)
    (hr : runs .ring s = true) (hi : s.faults.inj = none) :
    Yields (.descriptorConsumed n {}) s fun t =>
      (sqOf t n.val).head = ((sqOf s n.val).head + 1) % 2 ^ (sqOf s n.val).size
        ∧ descOf t s.rings.nextId = some { id := s.rings.nextId, sq := n.val, slot := (sqOf s n.val).head, bytes := data, phase := .queued }
        ∧ t.rings.done = s.rings.done ∧ (∀ k, k ≠ n.val → sqOf t k = sqOf s k) ∧ SameBut [.link, .rings, .faults] s t := by
  have hsub : sub data 0 64 = data := by simp [sub, ← hlen]
  have hu := copied_frame (r := r) (bad := 0) hi
  have hrun : exec (.descriptorConsumed n {}) s = .next (consume1 n.val data (copied r 0 s)) := by
    rw [descriptorConsumed_one (bad := []) hf hw hok hc hk hr, hsub]
    rfl
  rw [consume1_queues hfmt hop (by rwa [hu.prot_eq]) (by rwa [hu.rings_eq])] at hrun
  have hsq : ∀ k, sqOf (consumed n.val data (copied r 0 s)) k = if k = n.val then headPassed (sqOf s n.val) else sqOf s k := fun k => by
    rw [sqOf_consumed, hu.sqOf_eq, hu.sqOf_eq]
  refine ⟨_, hrun, congrArg Sq.head ((hsq n.val).trans (if_pos rfl)), ?_, (congrArg Rings.done hu.rings_eq :),
    fun k hk => (hsq k).trans (if_neg hk), updDesc_frame (by decide) (consumed_frame.step (by decide) (hu.mono (by decide)))⟩
  have hdesc := descOf_updDesc_same (f := fun d => { d with phase := .queued }) (fun _ => rfl)
    (descOf_consumed (n := n.val) (b := data) (s := copied r 0 s) (by rwa [hu.rings_eq]))
  rw [consumedDesc, hu.rings_eq, hu.sqOf_eq] at hdesc
  rw [hu.rings_eq]
  exact hdesc

theorem descriptorConsumed_loses {n : Fin 32} {r : ReadItem} {f : Nat} {k : Chunk} {data : Bytes}
    (hf : s.link.reads.find? (isFront n.val) = some r) (hw : r.who = .fetch n.val f 1) (hok : r.failed = false)
    (hc : r.chunks = [k]) (hk : k.data = some data) (hr : runs .ring s = true) (hi : s.faults.inj = none) :
    Yields (.descriptorConsumed n { bad := [0] }) s fun t =>
      (sqOf t n.val).head = ((sqOf s n.val).head + 1) % 2 ^ (sqOf s n.val).size ∧ t.rings.inflight = s.rings.inflight
        ∧ t.rings.done = s.rings.done ++ [{ sq := n, status := stPOISON, lost := some (sqOf s n.val).head }]
        ∧ Drives 500 t ∧ t.faults.eccUncorr = min 65535 (s.faults.eccUncorr + 1) ∧ SameBut [.link, .rings, .faults] s t := by
  have hu := copied_frame (r := r) (bad := 1) hi
  obtain ⟨hdrive, hcount⟩ := copied_one (r := r) hi
  have hrun : exec (.descriptorConsumed n { bad := [0] }) s = .next (consumeLost n.val 1 (copied r 1 s)) :=
    descriptorConsumed_one hf hw hok hc hk hr
  refine ⟨_, hrun, ?_, (congrArg Rings.inflight hu.rings_eq :), ?_, hdrive, hcount, consumeLost_frame (by decide) (hu.mono (by decide))⟩
  · exact congrArg Sq.head ((sqOf_putSq _ n.val n.val (headPassed (sqOf (copied r 1 s) n.val))).trans (by rw [if_pos rfl, hu.sqOf_eq]))
  · change (copied r 1 s).rings.done ++ [{ sq := n.val, status := stPOISON, lost := some (sqOf (copied r 1 s) n.val).head }] = _
    rw [hu.rings_eq, hu.sqOf_eq]

end Consuming

/-! ### Dispatch -/

section Dispatch
variable {s : State} {id : Nat} {d : Desc}

/-- A waiting descriptor that nothing blocks and that reads nothing begins (R111). -/
theorem dispatch_begins (hr : runs .ring s = true) (hd : descOf s id = some d) (hq : d.phase = .queued)
    (hb : (s.rings.inflight.any (blocks d)) = false) (hn : s.nvm.running = true) (hread : descReads d.bytes = none) :
    exec (.dispatch id) s = .next (updDesc id (fun d => { d with phase := .running }) s) := by
  refine (ifRuns_runs hr).trans ?_
  rw [hd]
  simp [when_, hq, hb, hn, hread]

theorem dispatch_yields (hr : runs .ring s = true) (hd : descOf s id = some d) (hq : d.phase = .queued)
    (hb : (s.rings.inflight.any (blocks d)) = false) (hn : s.nvm.running = true) (hread : descReads d.bytes = none) :
    Yields (.dispatch id) s fun t => descOf t id = some { d with phase := .running } ∧ (∀ e, e ≠ id → descOf t e = descOf s e)
      ∧ t.rings.done = s.rings.done ∧ SameBut [.rings] s t :=
  ⟨_, dispatch_begins hr hd hq hb hn hread, descOf_updDesc_same (f := fun d => { d with phase := .running }) (fun _ => rfl) hd,
    fun _ => descOf_updDesc_other fun _ => rfl, rfl, updDesc_frame (by decide) .refl⟩

theorem nop_yields (hr : Runs s id 0x01 d) : Yields (.nop id) s fun t => Completed id d stOK [] s t ∧ SameBut [.rings] s t :=
  ⟨_, runOp_runs hr, hr.completed, complete_frame (by decide) .refl⟩

end Dispatch

/-! ### Posting -/

section Posting
variable {s : State} {n : Nat} {o : Output}

/-- The last word of an entry: its phase, whether it is an event, and whether its descriptor was lost (R121 R123). -/
def entryFlags (phase evt lost : Bool) : Nat := flag 0 phase + flag 1 evt + flag 2 lost

theorem entryFlags_phase {phase evt lost : Bool} : entryFlags phase evt lost % 2 = if phase then 1 else 0 := by
  decide +revert

theorem entryFlags_evt {phase evt lost : Bool} : entryFlags phase evt lost / 2 % 2 = if evt then 1 else 0 := by
  decide +revert

/-- Nothing that has left the chip comes back when a vector is signalled. -/
theorem signal_outputs {v : Nat} (h : o ∈ s.outputs) : o ∈ (signal v s).outputs := by
  unfold signal
  dsimp only
  split
  · exact List.mem_cons_of_mem _ h
  · exact h

theorem signal_rings {v : Nat} : (signal v s).rings = s.rings :=
  (signal_frame (l := [.outputs, .link]) (by decide) .refl).rings_eq

/-- An entry that is posted goes out in its write requests to the tail of its CQ (R122 R600). -/
theorem postEntry_outputs {head : Bytes} {irq evt lost : Bool} (h : o ∈ writePieces s.link.mps ((cqOf s n).base + 32 * (cqOf s n).tail)
    (fit 28 head ++ toLe 4 (entryFlags (cqOf s n).phase evt lost))) : o ∈ (postEntry n head irq evt lost s).outputs := by
  unfold postEntry
  extract_lets c w tail sig t
  have ht : o ∈ t.outputs := List.mem_append_left _ (List.mem_reverse.2 h)
  split
  · exact signal_outputs ht
  · exact ht

/-- Posting an entry writes of the ring engine its CQ alone. -/
theorem postEntry_rings {head : Bytes} {irq evt lost : Bool} :
    (postEntry n head irq evt lost s).rings = { s.rings with cqs := (postEntry n head irq evt lost s).rings.cqs } := by
  unfold postEntry
  extract_lets c w tail sig t
  split
  · rw [signal_rings]
    rfl
  · rfl

/-- The end of a drain writes its ring alone. -/
theorem drainEnd_rings : (drainEnd n s).rings = { s.rings with sqs := (drainEnd n s).rings.sqs } := by
  unfold drainEnd
  dsimp only
  split <;> rfl

theorem drainEnd_outputs : (drainEnd n s).outputs = s.outputs := (drainEnd_frame (l := [.rings]) (by decide) .refl).outputs_eq

/-- The front completion is posted where DMA is allowed (R124). -/
theorem postDone_posts {d : Done} {r : List Done} (h : s.rings.done = d :: r) (hd : dmaOk s = true) :
    postDone s = drainEnd d.sq (postEntry (sqOf s d.sq).bound (entryOf s d) (!d.noirq) false d.lost.isSome
      { s with rings := { s.rings with done := r } }) := by
  unfold postDone
  rw [h]
  exact if_pos hd

theorem completionPost_yields {d : Done} {r : List Done} (h : s.rings.done = d :: r) (hd : dmaOk s = true) :
    Yields .completionPost s fun t => t.rings.done = r ∧ t.rings.inflight = s.rings.inflight
      ∧ (∃ last, (∀ o ∈ writePieces s.link.mps ((cqOf s (sqOf s d.sq).bound).base + 32 * (cqOf s (sqOf s d.sq).bound).tail)
          (fit 28 (entryOf s d) ++ toLe 4 last), o ∈ t.outputs) ∧ last % 2 = if (cqOf s (sqOf s d.sq).bound).phase then 1 else 0)
      ∧ SameBut [.outputs, .link, .rings] s t := by
  refine ⟨postDone s, ifRuns_runs (runs_of_dmaOk hd), ?_, ?_, ⟨entryFlags _ false d.lost.isSome, fun o ho => ?_, entryFlags_phase⟩,
    postDone_frame (by decide) .refl⟩
  · rw [postDone_posts h hd, drainEnd_rings, postEntry_rings]
  · rw [postDone_posts h hd, drainEnd_rings, postEntry_rings]
  · rw [postDone_posts h hd, drainEnd_outputs]
    exact postEntry_outputs ho

/-- With nothing lost or held the front event is posted where CQ31 can take it (R129). -/
theorem eventTurn_posts {e : Event} {r : List Event} (hd : dmaOk s = true) (hl : s.rings.lostSince = 0) (hh : s.rings.heldEvents = [])
    (he : s.rings.events = e :: r) (hroom : eventRoom s = true) :
    eventTurn s = postEntry 31 (eventEntry e) true true false { s with rings := { s.rings with events := r } } := by
  rw [eventTurn, if_pos hd, if_neg (by simp [hl]), hh, he]
  exact if_pos hroom

theorem eventPost_yields {e : Event} {r : List Event} (hd : dmaOk s = true) (hl : s.rings.lostSince = 0) (hh : s.rings.heldEvents = [])
    (he : s.rings.events = e :: r) (hroom : eventRoom s = true) :
    Yields .eventPost s fun t => t.rings.events = r ∧ t.rings.evtLost = s.rings.evtLost
      ∧ (∃ last, (∀ o ∈ writePieces s.link.mps ((cqOf s 31).base + 32 * (cqOf s 31).tail) (fit 28 (eventEntry e) ++ toLe 4 last), o ∈ t.outputs)
          ∧ last / 2 % 2 = 1) ∧ SameBut [.outputs, .link, .rings] s t := by
  have hrun : exec .eventPost s = .next _ := (ifRuns_runs (runs_of_dmaOk hd)).trans (congrArg _ (eventTurn_posts hd hl hh he hroom))
  refine ⟨_, hrun, ?_, ?_, ⟨entryFlags (cqOf s 31).phase true false, fun o ho => ?_, entryFlags_evt⟩,
    postEntry_frame (by decide) (setRings_frame (by decide) .refl)⟩
  · rw [postEntry_rings]
  · rw [postEntry_rings]
  · exact postEntry_outputs ho

end Posting

/-- Settles O15: a turn's requests add up to its slots, a consumed or dispatched descriptor changes its one record, and what is posted
goes out with its flags. -/
theorem descriptorFlow : Obligations.DescriptorFlow :=
  ⟨fun _ _ => descriptorFetch_yields, fun _ _ _ _ _ _ => descriptorConsumed_yields, fun _ _ _ _ _ _ => descriptorConsumed_loses,
    fun _ _ _ hr hd _ => dispatch_yields hr hd, fun _ _ _ => completionPost_yields, fun _ _ _ => eventPost_yields, fun _ _ _ => nop_yields⟩

end Sys2Proof.Machine
end

section
/-! The resident cache: its canonical form in every step, bytes loaded and lines evicted (R161 R162 R163). -/

set_option autoImplicit false
-- One declaration after the other: the text as one file holds many.
set_option Elab.async false

namespace Sys2Proof.Machine

section Cache
variable {s t : State} {id : Nat} {d : Desc} {data : Bytes}

/-! ### Loading -/

/-- The cache after a load of a descriptor's data: the bytes stand, their lines are valid and no longer poisoned (R162 R164). -/
def cacheLoaded (d : Desc) (data : Bytes) (s : State) : State :=
  let a := le d.bytes 16 4
  let n := le d.bytes 20 4
  onCmp (fun c => { c with
    cache := Mem.writeAll 0#8 c.cache a data
    valid := ranges.add c.valid (a / 64) ((a + n) / 64)
    poisoned := c.poisoned.filter fun p => !(decide (a ≤ p * 64) && decide (p * 64 < a + n)) }) s

/-- Data that have arrived for a range not in use are loaded (R162 R163). -/
theorem cacheLoad_loads (hr : Runs s id 0x12 d) (hf : d.failed = false) (hd : d.data = some data)
    (ho : overlapsUse s (le d.bytes 16 4) (le d.bytes 16 4 + le d.bytes 20 4) = false) :
    exec (.cacheLoad id) s = .next (complete id stOK [] (cacheLoaded d data s)) := by
  refine (runOp_runs hr).trans (congrArg _ ?_)
  simp only [ho, hf, hd, Bool.false_eq_true, false_and, if_false]
  rfl

/-- A load writes the bytes of its run into the cache, or leaves the cache alone: it waits, meets a range in use, or has failed. -/
theorem cacheLoad_cache (h : exec (.cacheLoad id) s = .next t) :
    t.cmp.cache = s.cmp.cache ∨ ∃ a b, t.cmp.cache = Mem.writeAll 0#8 s.cmp.cache a b := by
  change runOp s id 0x12 _ = _ at h
  unfold runOp at h
  split at h
  · cases h
    exact .inl rfl
  · next d _ =>
    obtain rfl := Host.Outcome.next.inj h
    split
    · dsimp only
      split
      · exact .inl (by rw [complete_cmp])
      · split
        · exact .inl (by rw [complete_cmp]; rfl)
        · split
          · exact .inl rfl
          · next b _ => exact .inr ⟨le d.bytes 16 4, b, by rw [complete_cmp]; rfl⟩
    · exact .inl rfl

theorem cacheLoad_yields (hc : CacheInv s) (hr : Runs s id 0x12 d) (hf : d.failed = false) (hd : d.data = some data)
    (ho : overlapsUse s (le d.bytes 16 4) (le d.bytes 16 4 + le d.bytes 20 4) = false) :
    Yields (.cacheLoad id) s fun t =>
      (∀ i, ∀ h : i < data.length, Mem.read 0#8 t.cmp.cache (le d.bytes 16 4 + i) = data[i])
        ∧ (∀ a, a < le d.bytes 16 4 ∨ le d.bytes 16 4 + data.length ≤ a → Mem.read 0#8 t.cmp.cache a = Mem.read 0#8 s.cmp.cache a)
        ∧ t.cmp.valid = ranges.add s.cmp.valid (le d.bytes 16 4 / 64) ((le d.bytes 16 4 + le d.bytes 20 4) / 64)
        ∧ CacheInv t ∧ Completed id d stOK [] s t ∧ SameBut [.rings, .cmp, .cache] s t := by
  refine Yields.framed ⟨_, cacheLoad_loads hr hf hd ho, fun hframe => ?_⟩
  have hcmp : (complete id stOK [] (cacheLoaded d data s)).cmp = (cacheLoaded d data s).cmp := complete_cmp ..
  refine ⟨fun i hi => ?_, fun a ha => ?_, ?_, ?_, complete_completed (s := cacheLoaded d data s) hr.desc rfl rfl, hframe⟩
  · rw [hcmp]
    exact Mem.read_writeAll hc i hi
  · rw [hcmp]
    exact Mem.read_writeAll_other hc ha
  · rw [hcmp]
    rfl
  · rw [CacheInv, hcmp]
    exact Mem.writeAll_wf hc

/-! ### Evicting -/

theorem cacheEvict_yields (hr : Runs s id 0x13 d) (ho : overlapsUse s (le d.bytes 16 4) (le d.bytes 16 4 + le d.bytes 20 4) = false) :
    Yields (.cacheEvict id) s fun t =>
      t.cmp = { s.cmp with valid := ranges.remove s.cmp.valid (le d.bytes 16 4 / 64) ((le d.bytes 16 4 + le d.bytes 20 4) / 64) }
        ∧ Completed id d stOK [] s t ∧ SameBut [.rings, .cmp] s t :=
  Yields.framed ⟨_, (runOp_runs hr).trans (congrArg _ (if_neg (by simp [ho]))),
    fun h => ⟨complete_cmp .., complete_completed (b := s) hr.desc rfl rfl, h⟩⟩

theorem cacheEvict_refused (hr : Runs s id 0x13 d) (ho : overlapsUse s (le d.bytes 16 4) (le d.bytes 16 4 + le d.bytes 20 4) = true) :
    Yields (.cacheEvict id) s fun t => Completed id d stBUSY [] s t ∧ SameBut [.rings] s t :=
  ⟨_, (runOp_runs hr).trans (congrArg _ (if_pos ho)), hr.completed, complete_frame (by decide) .refl⟩

/-! ### The canonical form -/

theorem CacheInv.of_eq (hs : CacheInv s) (h : t.cmp.cache = s.cmp.cache) : CacheInv t := by
  rwa [CacheInv, h]

/-- Every command keeps the canonical form: `CACHE_LOAD` alone may write the cached bytes (R161 R162). -/
theorem exec_cacheInv {c : Instr} (hs : CacheInv s) (h : exec c s = .next t) : CacheInv t := by
  by_cases hq : (touches c).contains .cache = false
  · exact hs.of_eq ((exec_frame h).parts .cache (by simpa using hq))
  cases c
  case cacheLoad id =>
    rcases cacheLoad_cache h with hcache | ⟨a, b, hcache⟩
    · exact hs.of_eq hcache
    · rw [CacheInv, hcache]
      exact Mem.writeAll_wf hs
  all_goals exact absurd rfl hq

end Cache

/-- Settles O54: a clock on an empty queue leaves the compositor, and each command either leaves the cached bytes or writes a run of
them. -/
theorem cacheInvKept : Obligations.CacheInvKept := by
  intro s t hs hstep
  cases hp : s.pending with
  | nil =>
    rw [step_idle hp] at hstep
    cases hstep
    exact hs.of_eq (congrArg Cmp.cache (idle_frame (l := [.time]) (by decide) .refl).cmp_eq)
  | cons c r =>
    rw [step_front hp] at hstep
    exact exec_cacheInv (s := { s with pending := r }) hs hstep

/-- Settles O17: a load writes one run of bytes and its lines' validity, an eviction the validity alone, and a range in use stays. -/
theorem residentCache : Obligations.ResidentCache :=
  ⟨fun _ _ _ _ => cacheLoad_yields, fun _ _ _ => cacheEvict_yields, fun _ _ _ => cacheEvict_refused⟩

end Sys2Proof.Machine
end

section
/-! Layers staged by `LAYER_SET` and groups taken by `LAYER_COMMIT` (R145 R146 R165 R166). -/

set_option autoImplicit false
-- One declaration after the other: the text as one file holds many.
set_option Elab.async false

namespace Sys2Proof.Machine

section Layers
variable {s : State} {id : Nat} {d : Desc} {data : Bytes} {ls : List Nat}

/-! ### LAYER_SET -/

/-- The staged contexts after a set of a descriptor's data (R146). -/
def layerStaged (d : Desc) (data : Bytes) (s : State) : State :=
  let l := le d.bytes 16 1
  onCmp (fun c => { c with
    staged := Tab.put c.staged l { ctx := ctxPatch (Tab.get {} s.cmp.staged l).ctx (le d.bytes 18 2) data, owner := d.sq } }) s

theorem layerSet_yields (hr : Runs s id 0x10 d) (hf : d.failed = false) (hd : d.data = some data) :
    Yields (.layerSet id) s fun t =>
      Tab.get {} t.cmp.staged (le d.bytes 16 1) =
          { ctx := ctxPatch (Tab.get {} s.cmp.staged (le d.bytes 16 1)).ctx (le d.bytes 18 2) data, owner := d.sq }
        ∧ (∀ l, l ≠ le d.bytes 16 1 → Tab.get {} t.cmp.staged l = Tab.get {} s.cmp.staged l)
        ∧ t.cmp = { s.cmp with staged := t.cmp.staged } ∧ Completed id d stOK [] s t ∧ SameBut [.rings, .cmp] s t := by
  refine Yields.framed ⟨complete id stOK [] (layerStaged d data s), runRead_runs hr hf hd, fun hframe => ?_⟩
  have hcmp : (complete id stOK [] (layerStaged d data s)).cmp = (layerStaged d data s).cmp := complete_cmp ..
  have hget : ∀ l, Tab.get {} (layerStaged d data s).cmp.staged l = if l = le d.bytes 16 1 then _ else Tab.get {} s.cmp.staged l :=
    fun l => Tab.get_put ..
  rw [hcmp]
  exact ⟨(hget _).trans (if_pos rfl), fun l hl => (hget l).trans (if_neg hl), rfl,
    complete_completed (s := layerStaged d data s) hr.desc rfl rfl, hframe⟩

/-! ### Invalid contexts -/

/-- Reporting invalid contexts writes of the compositor only the layer last reported (R149). -/
theorem raiseBad_cmp : (raiseBad ls s).cmp = { s.cmp with badLayer := (raiseBad ls s).cmp.badLayer } := by
  induction ls generalizing s with
  | nil => rfl
  | cons l ls ih =>
    rw [raiseBad, ih, raise_cmp]
    rfl

theorem raiseBad_stays {n : Nat} (h : Drives n s) : Drives n (raiseBad ls s) := by
  induction ls generalizing s with
  | nil => exact h
  | cons l ls ih =>
    rw [raiseBad]
    refine ih ?_
    rw [Drives, raise_drive, onCmp_faults, h, Bool.true_or]

/-- A context that is invalid raises `CMP_CTX_BAD` (R149). -/
theorem raiseBad_drives (h : ls ≠ []) : Drives 449 (raiseBad ls s) := by
  obtain ⟨l, ls, rfl⟩ := List.exists_cons_of_ne_nil h
  exact raiseBad_stays (ls := ls) (raise_drives 449 _)

/-! ### LAYER_COMMIT -/

/-- The group that a commit takes: copies of the staged contexts it names, its fences and its target (R118 R165 R195). -/
def groupTaken (id : Nat) (d : Desc) (s : State) : Group :=
  let ls := layersOf (le d.bytes 16 8)
  let target := if le d.bytes 25 1 = 1 then some (le d.bytes 28 4) else none
  { gid := id, sq := d.sq, tag := le d.bytes 2 2
    layers := ls.map fun l => let x := Tab.get {} s.cmp.staged l; (l, x.ctx, x.owner, (badOfGroup s ls).contains l)
    fences := d.fences.map fun f => { addr := f.1, threshold := f.2 }
    target
    afterCut := s.frm.cutPassed
    gapTaken := s.frm.cutPassed && target.isNone
    late := match target with | some t => atOrAfter s.frm.num t | none => false }

/-- A commit has reported the invalid contexts among its layers. -/
def badReported (d : Desc) (s : State) : State := raiseBad (badOfGroup s (layersOf (le d.bytes 16 8))).reverse s

/-- A commit has been taken, its fences not yet polled. -/
def commitTaken (id : Nat) (d : Desc) (s : State) : State :=
  onFrm (fun f => { f with takenInPeriod := true }) (onCmp (fun c => { c with groups := c.groups ++ [groupTaken id d s] })
    (updDesc id (fun d => { d with taken := true }) (badReported d s)))

/-- With fewer than sixteen groups held a commit that fits the line buffers is taken (R160 R166). -/
theorem layerCommit_takes (hr : Runs s id 0x11 d) (hlen : (heldGroups s).length < 16)
    (hw : ((layersOf (le d.bytes 16 8)).any fun l => isVideo l && cEn (Tab.get {} s.cmp.staged l).ctx
      && decide (2048 < cSrcW (Tab.get {} s.cmp.staged l).ctx)) = false) :
    exec (.layerCommit id) s = .next (pollFences id (groupTaken id d s).fences 0 (commitTaken id d s)) :=
  (runOp_runs hr).trans (congrArg _ ((if_neg (Nat.not_le.2 hlen)).trans (if_neg (ne_true_of_eq_false hw))))

theorem badReported_drives {l : Nat} (h : (badOfGroup s (layersOf (le d.bytes 16 8))).contains l = true) : Drives 449 (badReported d s) := by
  refine raiseBad_drives (ls := (badOfGroup s (layersOf (le d.bytes 16 8))).reverse) ?_
  rw [Ne, List.reverse_eq_nil_iff]
  intro hnil
  rw [hnil] at h
  exact Bool.noConfusion h

/-- A copy that is marked invalid has been reported (R149). -/
theorem commitTaken_drives : ∀ x ∈ (groupTaken id d s).layers, x.2.2.2 = true → Drives 449 (commitTaken id d s) := by
  intro x hx hbad
  obtain ⟨l, _, rfl⟩ := List.mem_map.1 hx
  rw [Drives, commitTaken, onFrm_faults, onCmp_faults, updDesc_faults]
  exact badReported_drives hbad

theorem commitTaken_cmp :
    (commitTaken id d s).cmp = { s.cmp with groups := s.cmp.groups ++ [groupTaken id d s], badLayer := (commitTaken id d s).cmp.badLayer } := by
  have hbad : (badReported d s).cmp = { s.cmp with badLayer := (badReported d s).cmp.badLayer } := raiseBad_cmp
  rw [commitTaken, onFrm_cmp, onCmp_cmp, updDesc_cmp, hbad]

theorem commitTaken_done : (commitTaken id d s).rings.done = s.rings.done := by
  have hbad : SameBut [.cmp, .faults] s (badReported d s) := raiseBad_frame (by decide) .refl
  rw [commitTaken, onFrm_rings, onCmp_rings, updDesc, hbad.rings_eq]

theorem groupTaken_copies : (groupTaken id d s).layers.map (fun x => (x.1, x.2.1, x.2.2.1)) =
    (layersOf (le d.bytes 16 8)).map fun l => (l, (Tab.get {} s.cmp.staged l).ctx, (Tab.get {} s.cmp.staged l).owner) :=
  List.map_map

theorem layerCommit_yields (hr : Runs s id 0x11 d) (hlen : (heldGroups s).length < 16)
    (hw : ((layersOf (le d.bytes 16 8)).any fun l => isVideo l && cEn (Tab.get {} s.cmp.staged l).ctx
      && decide (2048 < cSrcW (Tab.get {} s.cmp.staged l).ctx)) = false) :
    Yields (.layerCommit id) s fun t => ∃ g : Group,
        t.cmp = { s.cmp with groups := s.cmp.groups ++ [g], badLayer := t.cmp.badLayer }
        ∧ (∀ x ∈ g.layers, x.2.2.2 = true → Drives 449 t)
        ∧ g.gid = id ∧ g.sq = d.sq ∧ g.st = .held ∧ g.tag = le d.bytes 2 2
        ∧ g.layers.map (fun x => (x.1, x.2.1, x.2.2.1)) = (layersOf (le d.bytes 16 8)).map (fun l =>
            (l, (Tab.get {} s.cmp.staged l).ctx, (Tab.get {} s.cmp.staged l).owner))
        ∧ g.fences = d.fences.map (fun f => { addr := f.1, threshold := f.2 })
        ∧ g.target = (if le d.bytes 25 1 = 1 then some (le d.bytes 28 4) else none)
        ∧ t.rings.done = s.rings.done ∧ SameBut [.outputs, .link, .rings, .cmp, .frm, .faults] s t := by
  refine Yields.framed ⟨_, layerCommit_takes hr hlen hw, fun hframe => ?_⟩
  have hpoll : SameBut [.outputs, .link] (commitTaken id d s) (pollFences id (groupTaken id d s).fences 0 (commitTaken id d s)) :=
    pollFences_frame (by decide) .refl
  refine ⟨groupTaken id d s, ?_, ?_, rfl, rfl, rfl, rfl, groupTaken_copies, rfl, rfl, ?_, hframe⟩
  · rw [hpoll.cmp_eq]
    exact commitTaken_cmp
  · rw [Drives, hpoll.faults_eq]
    exact commitTaken_drives
  · rw [hpoll.rings_eq]
    exact commitTaken_done

theorem layerCommit_refused (hr : Runs s id 0x11 d) (hlen : 16 ≤ (heldGroups s).length) :
    Yields (.layerCommit id) s fun t => Completed id d stBUSY [] s t ∧ SameBut [.rings] s t :=
  ⟨_, (runOp_runs hr).trans (congrArg _ (if_pos hlen)), hr.completed, complete_frame (by decide) .refl⟩

end Layers

/-- Settles O16: a set writes one staged context, and a commit either stands behind the groups with its copies or is refused whole. -/
theorem layersStagedAndCommitted : Obligations.LayersStagedAndCommitted :=
  ⟨fun _ _ _ _ => layerSet_yields, fun _ _ _ => layerCommit_yields, fun _ _ _ => layerCommit_refused⟩

end Sys2Proof.Machine
end

section
/-! The flip gate: what a boundary takes of the frame composed before it, which groups flip, and what a composition that begins leaves
alone (R167 R171 R194). -/

set_option autoImplicit false
-- One declaration after the other: the text as one file holds many.
set_option Elab.async false

namespace Sys2Proof.Machine

/-! ### The picture in front -/

/-- The front store, whether it was swapped at this boundary, the frame's number and the flip still due are the same. -/
structure SamePicture (s t : State) : Prop where
  front : t.cmp.front = s.cmp.front
  swapped : t.frm.swapped = s.frm.swapped
  num : t.frm.num = s.frm.num
  flipPending : t.frm.flipPending = s.frm.flipPending

/-- The picture, the active contexts and the first-light condition (R27) are the same. -/
structure SameScene (s t : State) : Prop extends SamePicture s t where
  ctx : ∀ l, (layerOf t l).ctx = (layerOf s l).ctx
  lmFirst : t.faults.lmFirst = s.faults.lmFirst

section Relations
variable {s t u : State}

theorem SamePicture.refl : SamePicture s s := ⟨rfl, rfl, rfl, rfl⟩

/-- A later change keeps the picture of an earlier one. -/
theorem SamePicture.after (k : SamePicture t u) (h : SamePicture s t) : SamePicture s u :=
  ⟨k.front.trans h.front, k.swapped.trans h.swapped, k.num.trans h.num, k.flipPending.trans h.flipPending⟩

/-- A change that keeps the front store and frame timing keeps the picture. -/
theorem SamePicture.of_eq (hc : t.cmp.front = s.cmp.front) (hf : t.frm = s.frm) : SamePicture s t :=
  ⟨hc, congrArg Frm.swapped hf, congrArg Frm.num hf, congrArg Frm.flipPending hf⟩

theorem SamePicture.of_frame {l : List Part} (h : SameBut l s t) (hc : .cmp ∉ l := by decide) (hx : .cache ∉ l := by decide)
    (hf : .frm ∉ l := by decide) : SamePicture s t :=
  .of_eq (congrArg Cmp.front (h.cmp_eq hc hx)) (h.frm_eq hf)

theorem SameScene.refl : SameScene s s := ⟨.refl, fun _ => rfl, rfl⟩

/-- A later change keeps the scene of an earlier one. -/
theorem SameScene.after (k : SameScene t u) (h : SameScene s t) : SameScene s u :=
  ⟨k.toSamePicture.after h.toSamePicture, fun l => (k.ctx l).trans (h.ctx l), k.lmFirst.trans h.lmFirst⟩

/-- A change within parts that are neither the compositor's, the frame's nor the collector's keeps the scene. -/
theorem SameScene.of_frame {l : List Part} (h : SameBut l s t) (hc : .cmp ∉ l := by decide) (hx : .cache ∉ l := by decide)
    (hf : .frm ∉ l := by decide) (hfl : .faults ∉ l := by decide) (hs : .slots ∉ l := by decide) : SameScene s t :=
  ⟨.of_frame h hc hx hf, fun k => congrArg Layer.ctx (h.layerOf_eq k hc hx), congrArg Faults.lmFirst (h.faults_eq hfl hs)⟩

/-- A change of the compositor that keeps the active layers and the front store keeps the scene. -/
theorem onCmp_scene {f : Cmp → Cmp} (ha : ∀ c, (f c).active = c.active := by exact fun _ => rfl)
    (hf : ∀ c, (f c).front = c.front := by exact fun _ => rfl) : SameScene s (onCmp f s) :=
  ⟨.of_eq (hf _) rfl, fun l => congrArg (fun a => (Tab.get {} a l).ctx) (ha s.cmp), rfl⟩

/-- A change of the compositor that keeps the front store keeps the picture. -/
theorem onCmp_picture {f : Cmp → Cmp} (hf : ∀ c, (f c).front = c.front := by exact fun _ => rfl) : SamePicture s (onCmp f s) := .of_eq (hf _) rfl

/-- A change of frame timing that keeps the swap, the number and the flip keeps the scene. -/
theorem onFrm_scene {f : Frm → Frm} (hs : ∀ c, (f c).swapped = c.swapped := by exact fun _ => rfl)
    (hn : ∀ c, (f c).num = c.num := by exact fun _ => rfl)
    (hp : ∀ c, (f c).flipPending = c.flipPending := by exact fun _ => rfl) : SameScene s (onFrm f s) :=
  ⟨⟨rfl, hs _, hn _, hp _⟩, fun _ => rfl, rfl⟩

/-- A change of the collector that keeps the first-light condition keeps the scene. -/
theorem setFaults_scene {x : Faults} (h : x.lmFirst = s.faults.lmFirst := by exact rfl) : SameScene s { s with faults := x } :=
  ⟨.of_eq rfl rfl, fun _ => rfl, h⟩

theorem complete_scene {id st : Nat} {r : Bytes} : SameScene s (complete id st r s) :=
  .of_frame (l := [.rings]) (complete_frame (by decide) .refl)

theorem sameClock_scene {f : State → State} : SameScene (f s) (sameClock f s) := ⟨.of_eq rfl rfl, fun _ => rfl, rfl⟩

end Relations

/-! ### Faults raised and errors found -/

section Raising
variable {s : State} {n slot : Nat}

theorem raise_scene : SameScene s (raise n s) := by
  unfold raise
  split
  · exact setFaults_scene
  · exact setFaults_scene

theorem raiseN_scene : SameScene s (raiseN n slot s) := by
  unfold raiseN
  split
  · exact .refl
  · exact raise_scene
  · exact raise_scene.after raise_scene

theorem raiseInj_scene {inj : Bool} : SameScene s (raiseInj slot inj s) := by
  unfold raiseInj
  dsimp only
  split
  · exact .after setFaults_scene raise_scene
  · exact raise_scene

theorem eccCorrected_scene : SameScene s (eccCorrected n s) := raiseN_scene.after setFaults_scene

theorem takeInjs_scene {checker words : Nat} : SameScene s (takeInjs slot checker words s).2 := by
  unfold takeInjs
  split
  · split
    · split
      · exact complete_scene.after setFaults_scene
      · exact setFaults_scene
    · exact .refl
  · exact .refl

end Raising

/-! ### A composition begins -/

section Begin
variable {s : State} {ecc : EccSeen} {stack fs : List FLayer}

theorem reportRevoked_scene {ls : List Nat} : SameScene s (reportRevoked ls s) := by
  induction ls generalizing s with
  | nil => exact .refl
  | cons l ls ih =>
    refine ih.after ?_
    split
    · refine raise_scene.after ⟨.of_eq rfl rfl, fun k => ?_, rfl⟩
      simp only [layerOf, onCmp_cmp, Tab.get_put]
      split
      · next h => rw [h]
      · rfl
    · exact .refl

theorem reportPoison_scene : SameScene s (reportPoison ecc s) := by
  unfold reportPoison
  extract_lets x u lines
  have hu : SameScene s u := by
    unfold u
    split
    · exact takeInjs_scene
    · exact raiseInj_scene.after takeInjs_scene
  exact raiseN_scene.after (eccCorrected_scene.after (.after onCmp_scene hu))

theorem startRead_scene {who : Requester} {r : List (Nat × Nat)} : SameScene s (startRead who r s) :=
  .of_frame (l := [.outputs, .link]) (startRead_frame (by decide) .refl)

theorem startLayer_scene {f : FLayer} {policy : Bool} : SameScene s (startLayer stack f policy s) := by
  unfold startLayer
  split
  · exact .refl
  · split
    · extract_lets runs
      split
      · exact .refl
      · split
        · exact startRead_scene.after onCmp_scene
        · exact .after onCmp_scene onCmp_scene
    · split
      · exact startRead_scene
      · exact .refl

theorem startLayers_scene : SameScene s (startLayers stack fs s) := by
  induction fs generalizing s with
  | nil => exact .refl
  | cons f fs ih => exact ih.after startLayer_scene

/-- A composition that begins takes the active contexts as they are (R145 R194). -/
theorem beginComp_scene {num : Int} : SameScene s (beginComp num ecc s) :=
  startLayers_scene.after (.after onCmp_scene (reportPoison_scene.after reportRevoked_scene))

end Begin

/-! ### Groups released -/

/-- Nothing of the compositor changed but that groups have left, and of frame timing nothing but the count of late groups. -/
structure GroupsLeave (s t : State) : Prop where
  cmp : t.cmp = { s.cmp with groups := t.cmp.groups }
  sub : t.cmp.groups ⊆ s.cmp.groups
  frm : t.frm = { s.frm with cntLate := t.frm.cntLate }

section Release
variable {s t u : State} {g : Group} {gs : List Group}

theorem GroupsLeave.refl : GroupsLeave s s := ⟨rfl, List.Subset.refl _, rfl⟩

/-- A later leaving of groups follows an earlier one. -/
theorem GroupsLeave.after (k : GroupsLeave t u) (h : GroupsLeave s t) : GroupsLeave s u where
  cmp := by rw [k.cmp, h.cmp]
  sub := List.Subset.trans k.sub h.sub
  frm := by rw [k.frm, h.frm]

theorem GroupsLeave.picture (h : GroupsLeave s t) : SamePicture s t where
  front := by rw [h.cmp]
  swapped := by rw [h.frm]
  num := by rw [h.frm]
  flipPending := by rw [h.frm]

theorem releaseGroup_leaves : GroupsLeave s (releaseGroup g s) := by
  have hdrop : GroupsLeave s (dropGroup g.gid s) := ⟨rfl, List.filter_subset_self _, rfl⟩
  unfold releaseGroup
  extract_lets u v
  have hv : GroupsLeave s v := by
    unfold v
    split
    · exact GroupsLeave.after (t := u) ⟨rfl, List.Subset.refl _, rfl⟩ hdrop
    · exact hdrop
  exact GroupsLeave.after (t := v) ⟨by rw [complete_cmp], by rw [complete_cmp]; exact List.Subset.refl _, by rw [complete_frm]⟩ hv

theorem releaseAll_leaves : GroupsLeave s (releaseAll gs s) := by
  induction gs generalizing s with
  | nil => exact .refl
  | cons g gs ih =>
    refine ih.after ?_
    split
    · exact releaseGroup_leaves
    · exact .refl

theorem releaseReady_leaves : GroupsLeave s (releaseReady s) := GroupsLeave.after ⟨rfl, List.Subset.refl _, rfl⟩ releaseAll_leaves

end Release

/-! ### The frame composed before -/

section EndFrame
variable {s : State} {c : Comp}

theorem endPolicies_picture : SamePicture s (endPolicies c s) := by
  unfold endPolicies
  extract_lets ends any
  split
  · exact .after (onFrm_scene).toSamePicture onCmp_picture
  · exact onCmp_picture

/-- The frame in composition has ended its work, whether or not it was swapped in (R172 R177 R198). -/
def frameEnded (c : Comp) (s : State) : State :=
  releaseReady (endPolicies c (dropLayerReads (onCmp (fun k => { k with comp := none }) s)))

theorem frameEnded_picture : SamePicture s (frameEnded c s) :=
  releaseReady_leaves.picture.after <| endPolicies_picture.after <|
    .after (.of_frame (l := [.link]) (dropLayerReads_frame (by decide) .refl)) onCmp_picture

/-- A composed frame has been swapped in (R194). -/
def swappedIn (c : Comp) (s : State) : State :=
  onFrm (fun f => { f with swapped := true }) (onCmp (fun k => { k with front := c.frame }) s)

/-- A frame whose composition has ended is swapped in (R194). -/
theorem endFrame_swaps (hc : s.cmp.comp = some c) (he : c.ended = true) (hg : c.guardDrop = false) :
    endFrame s = frameEnded c (swappedIn c s) := by
  simp only [endFrame, hc, he, hg]
  rfl

/-- With no frame in composition the one in front stays (R194). -/
theorem endFrame_none (hc : s.cmp.comp = none) : endFrame s = onFrm (fun f => { f with swapped := false }) s := by
  simp only [endFrame, hc]

end EndFrame

/-! ### The gate opens -/

section Gate
variable {s : State} {num : Int}

/-- What a `FRAME_CTRL` that passes the gate sets (R205 R206). -/
def frameSet (item v : Nat) (f : Frm) : Frm :=
  match item with
  | 1 => { f with rate := bits v 0 8 }
  | 2 => { f with epochSec := bits v 30 34, epochNs := bits v 0 30 }
  | 3 => { f with staticHold := bits v 0 8, keepalive := bits v 8 8 }
  | _ => { f with extendEn := v.testBit 0 }

theorem frameSet_picture {item v : Nat} : SamePicture s (onFrm (frameSet item v) s) := by
  unfold frameSet
  split <;> exact (onFrm_scene).toSamePicture

theorem passItem_picture {it : GateItem} : SamePicture s (passItem it s) := by
  cases it with
  | frameCtrl id item v late =>
    have hset : SamePicture s (onFrm (frameSet item v) s) := frameSet_picture
    refine complete_scene.toSamePicture.after ?_
    split
    · exact .after (onFrm_scene).toSamePicture hset
    · exact hset
  | tileMap v => exact .after (.of_frame (l := [.strip]) (markItems_frame (by decide) .refl)) onCmp_picture
  | stripSet id late => exact .of_frame (l := [.strip]) (stripDuty_frame (by decide) .refl)
  | gains n g => exact .of_frame (l := [.strip, .tiles]) (gainsInForce_frame (by decide) .refl)
  | map n m => exact .of_frame (l := [.strip, .tiles]) (mapInForce_frame (by decide) .refl)
  | trim ch v => exact .of_frame (l := [.strip]) (trimInForce_frame (by decide) .refl)
  | mapOff n => exact .of_frame (l := [.strip, .tiles]) (mapInForce_frame (by decide) .refl)

theorem passItems_picture {its : List GateItem} : SamePicture s (passItems its s) := by
  induction its generalizing s with
  | nil => exact .refl
  | cons it its ih => exact ih.after passItem_picture

theorem flipGroups_picture {gs : List Group} : SamePicture s (flipGroups num gs s) := by
  induction gs generalizing s with
  | nil => exact .refl
  | cons g gs ih => exact ih.after (.after onCmp_picture onCmp_picture)

/-- The groups that flip at a boundary, in the order of taking (R167). -/
def flipsAt (num : Int) (s : State) : List Group := ((judge num s.cmp.groups []).filter fun j => j.2.2).map fun j => j.1

/-- The groups have been marked and the items that were ready have passed (R170 R195 R196). -/
def itemsPassed (num : Int) (s : State) : State :=
  passItems ((s.cmp.gate.filter fun g => g.1).map fun g => g.2)
    (onCmp (fun c => { c with gate := c.gate.filter fun g => !g.1, before := c.active }) (markAll num (judge num s.cmp.groups []) s))

/-- The first flip after a chip reset ends the first-light condition (R27). -/
def firstLightEnded (flips : List Group) (s : State) : State :=
  if flips.isEmpty then s else { s with faults := { s.faults with lmFirst := false } }

/-- The groups that may have flipped (R167 R171). -/
def groupsFlipped (num : Int) (s : State) : State := firstLightEnded (flipsAt num s) (flipGroups num (flipsAt num s) (itemsPassed num s))

/-- The boundary has been counted as changed or unchanged (R202 R203). -/
def boundaryCounted (static same : Bool) (s : State) : State :=
  onFrm (fun f => { f with
    holdCnt := if same then f.holdCnt + 1 else 0
    unchanged := same, gateClosed := false, static := static && same }) s

/-- What follows the flips of a boundary: the count, the composition that may begin, and the limits of the counts that begin (R178 R203). -/
def afterFlips (num : Int) (ecc : EccSeen) (static same : Bool) (s : State) : State :=
  let s := boundaryCounted static same s
  onCmp (fun c => { c with fetchLim := c.fetchTmo, fenceLim := c.fenceTmo })
    (if static && same || staticDue same s.frm then s else beginComp num ecc s)

/-- A boundary at which the gate opens ends a frame, flips the groups and goes on to the next frame. -/
theorem openGate_eq {ecc : EccSeen} {analog : Bool} :
    ∃ same, openGate ecc analog s = afterFlips s.frm.num ecc s.frm.static same (groupsFlipped s.frm.num (endFrame s)) :=
  ⟨_, rfl⟩

theorem groupsFlipped_picture : SamePicture s (groupsFlipped num s) := by
  have hflip : SamePicture s (flipGroups num (flipsAt num s) (itemsPassed num s)) :=
    flipGroups_picture.after (passItems_picture.after (.after onCmp_picture onCmp_picture))
  unfold groupsFlipped firstLightEnded
  split
  · exact hflip
  · exact SamePicture.after (t := flipGroups num (flipsAt num s) (itemsPassed num s)) (.of_eq rfl rfl) hflip

theorem afterFlips_scene {ecc : EccSeen} {static same : Bool} : SameScene s (afterFlips num ecc static same s) := by
  have hcount : SameScene s (boundaryCounted static same s) := onFrm_scene
  unfold afterFlips
  extract_lets t
  refine .after onCmp_scene ?_
  split
  · exact hcount
  · exact beginComp_scene.after hcount

/-- The gate opens behind the picture that the end of the frame leaves (R194). -/
theorem openGate_picture {ecc : EccSeen} {analog : Bool} : SamePicture (endFrame s) (openGate ecc analog s) := by
  obtain ⟨same, h⟩ := openGate_eq (s := s) (ecc := ecc) (analog := analog)
  rw [h]
  exact afterFlips_scene.toSamePicture.after groupsFlipped_picture

end Gate
end Sys2Proof.Machine
end

section
/-! Boundary flips, ends of composition, stalls and the static picture (R167 R171 R172 R174 R176 R194 R202 R203). -/

set_option autoImplicit false
-- One declaration after the other: the text as one file holds many.
set_option Elab.async false

namespace Sys2Proof.Machine

/-! ### The boundary in the compositor -/

section Boundary
variable {s : State} {ecc : EccSeen} {c : Comp} {g : Group} {num : Int}

/-- The boundary has fallen: neither its flip nor its cut point is to come (R194 R196). -/
def boundaryFallen (s : State) : State := onFrm (fun f => { f with flipPending := false, cutPending := false, cutPassed := false }) s

/-- The boundary has been taken in the compositor, its frame and its gate not yet judged (R194 R242). -/
def boundaryTaken (s : State) : State := stripAnalogDone (boundaryFallen s)

/-- What follows the gate at a boundary: the levels in force, the governor, a new period (R218 R426). -/
def boundaryDone (s : State) : State :=
  governor (onFrm (fun f => { f with takenInPeriod := false, policyChange := false })
    { s with therm := { s.therm with chipInForce := (domainOf s 0).level } })

theorem boundaryTaken_frame : SameBut [.rings, .strip] (boundaryFallen s) (boundaryTaken s) := stripAnalogDone_frame (by decide) .refl

theorem boundaryTaken_cmp : (boundaryTaken s).cmp = s.cmp := boundaryTaken_frame.cmp_eq

theorem boundaryTaken_frm :
    (boundaryTaken s).frm = { s.frm with flipPending := false, cutPending := false, cutPassed := false } := boundaryTaken_frame.frm_eq

theorem governor_scene : SameScene s (governor s) := by
  unfold governor
  extract_lets x u v
  have hv : SameScene s v := ⟨.of_eq rfl rfl, fun _ => rfl, rfl⟩
  split
  · exact raise_scene.after hv
  · exact hv

theorem boundaryDone_scene : SameScene s (boundaryDone s) :=
  governor_scene.after (.after onFrm_scene ⟨.of_eq rfl rfl, fun _ => rfl, rfl⟩)

/-- A boundary that extends no frame opens the gate (R194 R197). -/
theorem flipNow_opens (h : ∀ c, s.cmp.comp = some c → c.ended = true) :
    ∃ analog, flipNow ecc s = boundaryDone (openGate ecc analog (boundaryTaken s)) := by
  refine ⟨analogDue (boundaryFallen s), congrArg boundaryDone ?_⟩
  split
  · next c hc =>
    have hended : c.ended = true := h c ((congrArg Cmp.comp boundaryTaken_cmp).symm.trans hc)
    exact if_neg (by simp [hended])
  · rfl

/-- A flip that is due is judged where the compositor runs (R194). -/
theorem boundaryFlip_yields {P : State → Prop} (hr : runs .comp s = true) (hf : s.frm.flipPending = true)
    (hp : P (sameClock (flipNow ecc) s)) : Yields (.boundaryFlip ecc) s P := ifRuns_when_yields hr hf hp

theorem boundaryFlip_swaps (hr : runs .comp s = true) (hf : s.frm.flipPending = true) (hc : s.cmp.comp = some c)
    (he : c.ended = true) (hg : c.guardDrop = false) :
    Yields (.boundaryFlip ecc) s fun t => t.frm.flipPending = false ∧ t.cmp.front = c.frame ∧ t.frm.swapped = true ∧ t.frm.num = s.frm.num
      ∧ SameBut [.outputs, .link, .rings, .cmp, .frm, .strip, .tiles, .faults, .therm] s t := by
  refine Yields.framed (boundaryFlip_yields hr hf fun hframe => ?_)
  obtain ⟨analog, hflip⟩ := flipNow_opens (s := s) (ecc := ecc) fun k hk => Option.some.inj (hc.symm.trans hk) ▸ he
  have hend : endFrame (boundaryTaken s) = frameEnded c (swappedIn c (boundaryTaken s)) :=
    endFrame_swaps ((congrArg Cmp.comp boundaryTaken_cmp).trans hc) he hg
  have hopen : SamePicture (swappedIn c (boundaryTaken s)) (openGate ecc analog (boundaryTaken s)) :=
    openGate_picture.after (hend ▸ frameEnded_picture)
  have hall : SamePicture (swappedIn c (boundaryTaken s)) (sameClock (flipNow ecc) s) :=
    sameClock_scene.toSamePicture.after (hflip ▸ boundaryDone_scene.toSamePicture.after hopen)
  have hfrm : (swappedIn c (boundaryTaken s)).frm = { (boundaryTaken s).frm with swapped := true } := rfl
  rw [boundaryTaken_frm] at hfrm
  exact ⟨by rw [hall.flipPending, hfrm], hall.front, by rw [hall.swapped, hfrm], by rw [hall.num, hfrm], hframe⟩

/-! ### Groups that flip -/

/-- A held group alone, with nothing to wait for, flips at the boundary (R167). -/
theorem flipsAt_single (hg : s.cmp.groups = [g]) (hs : g.st = .held) (hf : g.fences = []) (ht : g.target = none) (ha : g.afterCut = false) :
    flipsAt num s = [g] := by
  simp [flipsAt, hg, judge, hs, hf, targetMet, ht, ha]

/-- With nothing at the gate no item passes, and the active contexts stand as they were. -/
theorem itemsPassed_none (hg : s.cmp.gate = []) :
    (itemsPassed num s).cmp.active = s.cmp.active ∧ (itemsPassed num s).cmp.fetchLim = s.cmp.fetchLim := by
  rw [itemsPassed, hg]
  exact ⟨rfl, rfl⟩

/-- A group that flips alone is applied to the active contexts and ends the first-light condition (R27 R145 R167). -/
theorem groupsFlipped_single (hflips : flipsAt num s = [g]) (hg : s.cmp.gate = []) :
    (groupsFlipped num s).cmp.active = applyGroup g s.cmp.active s.cmp.fetchLim ∧ (groupsFlipped num s).faults.lmFirst = false := by
  obtain ⟨hactive, hlim⟩ := itemsPassed_none (num := num) hg
  rw [groupsFlipped, hflips, ← hactive, ← hlim]
  exact ⟨rfl, rfl⟩

theorem boundaryFlip_flips (hr : runs .comp s = true) (hf : s.frm.flipPending = true) (hc : s.cmp.comp = none) (hgate : s.cmp.gate = [])
    (hg : s.cmp.groups = [g]) (hs : g.st = .held) (hfences : g.fences = []) (ht : g.target = none) (ha : g.afterCut = false) :
    Yields (.boundaryFlip ecc) s fun t => (∀ l, (layerOf t l).ctx = (Tab.get {} (applyGroup g s.cmp.active s.cmp.fetchLim) l).ctx)
      ∧ t.cmp.front = s.cmp.front ∧ t.frm.swapped = false ∧ t.faults.lmFirst = false := by
  refine boundaryFlip_yields hr hf ?_
  obtain ⟨analog, hflip⟩ := flipNow_opens (s := s) (ecc := ecc) fun k hk => absurd (hc.symm.trans hk) nofun
  have hend : endFrame (boundaryTaken s) = onFrm (fun f => { f with swapped := false }) (boundaryTaken s) :=
    endFrame_none ((congrArg Cmp.comp boundaryTaken_cmp).trans hc)
  obtain ⟨same, hopen⟩ := openGate_eq (s := boundaryTaken s) (ecc := ecc) (analog := analog)
  have hcmp : (endFrame (boundaryTaken s)).cmp = s.cmp := by rw [hend, onFrm_cmp, boundaryTaken_cmp]
  generalize hu : groupsFlipped (boundaryTaken s).frm.num (endFrame (boundaryTaken s)) = u at hopen
  have hpic : SamePicture (endFrame (boundaryTaken s)) u := hu ▸ groupsFlipped_picture
  have hall : SameScene u (sameClock (flipNow ecc) s) :=
    sameClock_scene.after (hflip ▸ boundaryDone_scene.after (hopen ▸ afterFlips_scene))
  have hone := flipsAt_single (s := endFrame (boundaryTaken s)) (num := (boundaryTaken s).frm.num) (by rw [hcmp, hg]) hs hfences ht ha
  obtain ⟨hactive, hfirst⟩ := groupsFlipped_single hone (by rw [hcmp, hgate])
  rw [hu, hcmp] at hactive
  rw [hu] at hfirst
  refine ⟨fun l => ?_, ?_, ?_, hall.lmFirst.trans hfirst⟩
  · rw [hall.ctx, layerOf, hactive]
  · rw [hall.front, hpic.front, hcmp]
  · rw [hall.swapped, hpic.swapped, hend]
    rfl

end Boundary

/-! ### The end of a composition -/

section CompositionEnd
variable {s : State} {c : Comp} {num : Int} {fs : List FLayer}

/-- Comparing the guards writes of the compositor only its record of the first mismatch (R174 R185). -/
theorem checkGuards_cmp : ∃ e, (checkGuards num fs s).2.cmp = { s.cmp with guardErr := e } := by
  induction fs generalizing s with
  | nil => exact ⟨s.cmp.guardErr, rfl⟩
  | cons f fs ih =>
    have htake : (takeInj 450 2 (runGuard f s)).2.cmp = s.cmp :=
      (takeInj_frame (l := [.rings, .faults, .nvm]) (by decide) (putGcu_frame (by decide) .refl)).cmp_eq
    unfold checkGuards
    split
    · extract_lets x crc u
      have hu : ∃ e, u.cmp = { s.cmp with guardErr := e } := by
        unfold u
        split
        · exact ⟨s.cmp.guardErr, htake⟩
        · exact ⟨_, by rw [onCmp_cmp, htake]⟩
      obtain ⟨e, hu⟩ := hu
      generalize (if x.1 = true then cGuardCrc f.ctx ^^^ 0xFFFFFFFF else cGuardCrc f.ctx) = want
      split
      · have hraise : (raiseInj 450 x.1 u).cmp = u.cmp := (raiseInj_frame (l := [.faults]) (by decide) .refl).cmp_eq
        obtain ⟨e', h⟩ := ih (s := raiseInj 450 x.1 u)
        exact ⟨e', h.trans (by rw [hraise, hu])⟩
      · obtain ⟨e', h⟩ := ih (s := x.2)
        exact ⟨e', h.trans (by rw [htake])⟩
    · exact ih

/-- After the confirmation no flip is provisional (R171 R172). -/
theorem confirmAll_settles : ∀ g ∈ (confirmAll s).cmp.groups, g.st ≠ .provisional := by
  intro g hg
  obtain ⟨x, _, rfl⟩ := List.mem_map.1 hg
  split
  · exact nofun
  · next h => exact h

/-- A composition has ended, its guards compared (R157 R174 R182). -/
def compEnded (c : Comp) (s : State) : State :=
  let x := checkGuards c.frame.num c.frame.layers s
  onCmp (fun k => { k with
    load := min (2 ^ 28 - 1) (layerPixels c.frame)
    comp := some { c with ended := true, guardDrop := x.1.any fun f => cGuardAct f.ctx } }) x.2

/-- A composition whose layers have all come ends (R157 R172). -/
theorem compositionEnd_ends (hr : runs .comp s = true) (hc : s.cmp.comp = some c) (he : c.ended = false) (hw : c.waiting = [])
    (hf : c.failed = []) : exec .compositionEnd s = .next (releaseReady (confirmAll (compEnded c s))) := by
  refine (ifRuns_runs hr).trans ?_
  rw [hc]
  exact if_neg (by simp [he, hw, hf])

theorem compositionEnd_yields (hr : runs .comp s = true) (hc : s.cmp.comp = some c) (he : c.ended = false) (hw : c.waiting = [])
    (hf : c.failed = []) :
    Yields .compositionEnd s fun t => (∃ b, t.cmp.comp = some { c with ended := true, guardDrop := b })
      ∧ t.cmp.load = min (2 ^ 28 - 1) (layerPixels c.frame) ∧ (∀ g ∈ t.cmp.groups, g.st ≠ .provisional)
      ∧ t.cmp.active = s.cmp.active ∧ t.cmp.front = s.cmp.front ∧ SameBut [.rings, .cmp, .frm, .faults, .nvm] s t := by
  refine Yields.framed ⟨_, compositionEnd_ends hr hc he hw hf, fun hframe => ?_⟩
  have hleave : GroupsLeave (confirmAll (compEnded c s)) (releaseReady (confirmAll (compEnded c s))) := releaseReady_leaves
  obtain ⟨e, hguards⟩ := checkGuards_cmp (num := c.frame.num) (fs := c.frame.layers) (s := s)
  refine ⟨⟨_, by rw [hleave.cmp]; rfl⟩, by rw [hleave.cmp]; rfl, fun g hg => confirmAll_settles g (hleave.sub hg), ?_, ?_, hframe⟩
  · rw [hleave.cmp]
    exact (congrArg Cmp.active hguards :)
  · rw [hleave.cmp]
    exact (congrArg Cmp.front hguards :)

end CompositionEnd

/-! ### Stalls -/

section Stall
variable {s : State} {gid : Nat} {g : Group} {d : Desc}

/-- A group has left the frame in composition, whose active contexts are as if it had not flipped (R171 R176). -/
def stallDropped (gid : Nat) (g : Group) (s : State) : State :=
  rebuildActive (fun _ => true) (dropGroup gid
    (onCmp (fun c => { c with comp := c.comp.map fun k => { k with stalledOut := g.layers.map (fun x => x.1) ++ k.stalledOut } }) s))

/-- A group that has stalled its limit of frames completes `STALL` (R176). -/
theorem fetchTmo_stalls (hr : runs .comp s = true) (hg : groupOf s gid = some g) (hflip : s.frm.flipPending = true)
    (hdrop : stallDrop s = true) (hstall : groupStalls s g = true)
    (hlim : (if g.stalls = 0 then s.cmp.fetchLim else g.stallLimit) ≤ g.stalls + 1) :
    exec (.fetchTmo (.group gid)) s = .next (raise 448 (complete gid stSTALL [] (stallDropped gid g s))) := by
  refine (ifRuns_runs hr).trans ?_
  dsimp only
  rw [hg]
  exact if_pos (by simp [hflip, hdrop, hstall, hlim])

theorem fetchTmo_yields (hr : runs .comp s = true) (hg : groupOf s gid = some g) (hd : descOf s gid = some d)
    (hflip : s.frm.flipPending = true) (hdrop : stallDrop s = true) (hstall : groupStalls s g = true)
    (hlim : (if g.stalls = 0 then s.cmp.fetchLim else g.stallLimit) ≤ g.stalls + 1) :
    Yields (.fetchTmo (.group gid)) s fun t => groupOf t gid = none ∧ Completed gid d stSTALL [] s t ∧ Drives 448 t
      ∧ SameBut [.rings, .cmp, .frm, .faults] s t := by
  refine Yields.framed ⟨_, fetchTmo_stalls hr hg hflip hdrop hstall hlim, fun hframe => ⟨?_, ?_, raise_drives _ _, hframe⟩⟩
  · rw [groupOf, raise_cmp, complete_cmp]
    exact groupOf_dropGroup
  · rw [Completed, raise_rings]
    exact complete_completed (s := stallDropped gid g s) hd rfl rfl

end Stall

/-! ### The static picture -/

theorem staticPictureEntry_enters {s : State} (hr : runs .comp s = true) (h0 : 0 < s.frm.staticHold) (hcnt : s.frm.staticHold ≤ s.frm.holdCnt)
    (hu : s.frm.unchanged = true) (hs : s.frm.static = false) :
    Yields .staticPictureEntry s fun t => t.frm = { s.frm with static := true } ∧ SameBut [.frm] s t :=
  ifRuns_when_yields hr (by simp [staticDue, h0, hcnt, hu, hs]) ⟨rfl, onFrm_frame (by decide) .refl⟩

/-- Settles O20: what follows a swap or a flip keeps the picture, and what follows the flips keeps the active contexts too; a
composition's end and a stall write the groups, and a static picture the one flag. -/
theorem flipAndComposition : Obligations.FlipAndComposition :=
  ⟨fun _ _ => boundaryFlip_swaps, fun _ _ => boundaryFlip_flips, fun _ _ => compositionEnd_yields, fun _ _ _ _ => fetchTmo_yields,
    fun _ => staticPictureEntry_enters⟩

end Sys2Proof.Machine
end

section
/-! Tiles, Fronds and fault lines under the operations of the light: what each of them writes of one tile or Frond, and what it
leaves of the others (R28 R265 R286 R313 R371). -/

set_option autoImplicit false
-- One declaration after the other: the text as one file holds many.
set_option Elab.async false

namespace Sys2Proof.Machine

/-! ### Lines that go on driving -/

section Lines
variable {s t : State} {n k : Nat}

theorem Drives.after_raise (h : Drives n s) : Drives n (raise k s) := by
  rw [Drives, raise_drive, h, Bool.true_or]

theorem Drives.after_raise_if {c : Prop} [Decidable c] (h : Drives n s) : Drives n (if c then raise k s else s) := by
  split
  · exact h.after_raise
  · exact h

/-- A change outside the collector leaves what drives. -/
theorem Drives.of_frame {l : List Part} (h : Drives n s) (hk : SameBut l s t) (hf : .faults ∉ l := by decide)
    (hs : .slots ∉ l := by decide) : Drives n t := by
  rw [Drives, hk.faults_eq hf hs]
  exact h

end Lines

/-! ### Tiles that go dark -/

section Dark
variable {s : State} {n m : Nat}

theorem cancelRepay_other (h : m ≠ n) : tileOf (cancelRepay n s) m = tileOf s m := by
  unfold cancelRepay
  extract_lets t k _ u
  split
  · rfl
  · have hu : tileOf u m = tileOf s m := by rw [tileOf_putTile, if_neg h]
    split
    · exact hu
    · exact hu

theorem lightEnds_other (h : m ≠ n) : tileOf (lightEnds n s) m = tileOf s m := by
  unfold lightEnds
  extract_lets t
  split
  · rw [tileOf_putTile, if_neg h]
  · rfl

/-- A tile that goes dark leaves every other as it was (R28). -/
theorem darken_other (h : m ≠ n) : tileOf (darken n s) m = tileOf s m := by
  rw [darken, tileOf_putTile, if_neg h, cancelRepay_other h, lightEnds_other h]

theorem darken_disables : (tileOf (darken n s) n).enabled = false := by
  rw [darken_tile]
  simp

end Dark

/-! ### Tiles judged at a boundary -/

section Judged
variable {s : State} {n m k : Nat}

/-- A boundary judges each tile alone (R265). -/
theorem enableTile_other (h : m ≠ n) : tileOf (enableTile n s) m = tileOf s m := by
  unfold enableTile
  extract_lets t _ u
  have hu : tileOf u m = tileOf s m := by
    rw [(dropChecks_frame (l := [.strip]) (by decide) .refl).tileOf_eq, tileOf_putTile, if_neg h]
  clear_value u
  split
  · split
    · rfl
    · split
      · exact hu
      · exact hu
  · split
    · exact darken_other h
    · rfl

/-- A tile that is enabled goes on or goes dark: its streams and its slice stay (R265). -/
theorem enableTile_enabled (h : (tileOf s n).enabled = true) :
    (tileOf (enableTile n s) n).shown = (tileOf s n).shown ∧ (tileOf (enableTile n s) n).slice = (tileOf s n).slice := by
  unfold enableTile
  simp only [h, if_true]
  split
  · exact ⟨rfl, rfl⟩
  · rw [darken_tile]
    exact ⟨rfl, rfl⟩

/-- The boundary in Frond n (R200 R215). -/
def frondTurned (n : Nat) (s : State) : State := putFrond s n (frondBoundary (frondOf s n))

/-- The boundary at tile n, whose enable is then judged (R225 R230 R265). -/
def tileTurned (n : Nat) (s : State) : State :=
  enableTile n (putTile s n (tileBoundary s.cal.diagCfg.2.2 (skipOfLevel (domainOf s (1 + n)).level) (diagWin s) (tileOf s n)))

theorem boundaryAll_succ :
    boundaryAll (k + 1) s = if k < 8 then tileTurned k (frondTurned k (boundaryAll k s)) else frondTurned k (boundaryAll k s) := rfl

theorem tileTurned_other (h : m ≠ n) : tileOf (tileTurned n s) m = tileOf s m := by
  rw [tileTurned, enableTile_other h, tileOf_putTile, if_neg h]

/-- An enabled tile shows from the boundary on what it has latched, from slice 0 (R225 R230). -/
theorem tileTurned_enabled (h : (tileOf s n).enabled = true) :
    (tileOf (tileTurned n s) n).shown = (tileOf s n).latched ∧ (tileOf (tileTurned n s) n).slice = 0 := by
  obtain ⟨hshown, hslice⟩ := enableTile_enabled (n := n)
    (s := putTile s n (tileBoundary s.cal.diagCfg.2.2 (skipOfLevel (domainOf s (1 + n)).level) (diagWin s) (tileOf s n)))
    (by rw [tileOf_putTile, if_pos rfl]; exact h)
  rw [tileOf_putTile, if_pos rfl] at hshown hslice
  exact ⟨hshown, hslice⟩

/-- The tiles not yet come to are as they were. -/
theorem boundaryAll_ahead (h : k ≤ n) : tileOf (boundaryAll k s) n = tileOf s n := by
  induction k with
  | zero => rfl
  | succ k ih =>
    have hk : tileOf (frondTurned k (boundaryAll k s)) n = tileOf s n := ih (by omega)
    rw [boundaryAll_succ]
    split
    · rw [tileTurned_other (by omega), hk]
    · exact hk

/-- Every enabled tile shows what it has latched, from slice 0 (R225 R230). -/
theorem boundaryAll_shows (hn : n < 8) (hk : n < k) (h : (tileOf s n).enabled = true) :
    (tileOf (boundaryAll k s) n).shown = (tileOf s n).latched ∧ (tileOf (boundaryAll k s) n).slice = 0 := by
  induction k with
  | zero => omega
  | succ k ih =>
    rw [boundaryAll_succ]
    rcases Nat.lt_succ_iff_lt_or_eq.1 hk with hlt | rfl
    · have hrest : tileOf (if k < 8 then tileTurned k (frondTurned k (boundaryAll k s)) else frondTurned k (boundaryAll k s)) n
          = tileOf (boundaryAll k s) n := by
        split
        · exact tileTurned_other (by omega)
        · rfl
      rw [hrest]
      exact ih hlt
    · have hsame : tileOf (frondTurned n (boundaryAll n s)) n = tileOf s n := boundaryAll_ahead (Nat.le_refl n)
      rw [if_pos hn, ← hsame]
      exact tileTurned_enabled (by rw [hsame]; exact h)

end Judged

/-! ### Tiles released at a latch-gap start -/

section Released
variable {s : State} {n m k : Nat}

/-- A change of every entry that leaves the default is a change of what is read. -/
theorem Tab.get_map {α : Type} {d : α} {f : α → α} (hd : f d = d) {t : Tab α} {i : Nat} :
    Tab.get d (t.map fun e => (e.1, f e.2)) i = f (Tab.get d t i) := by
  induction t with
  | nil => exact hd.symm
  | cons e r ih =>
    obtain ⟨k, v⟩ := e
    rw [List.map_cons, Tab.get, Tab.get, ih]
    split <;> rfl

/-- What is due of a tile at a latch-gap start is its tap, if it is there and has an owner (R276). -/
theorem markTaps_tile : tileOf (markTaps s) n = { tileOf s n with tapPend := (tileOf s n).present && !(tileOf s n).noOwner } :=
  Tab.get_map (f := fun t : Tile => { t with tapPend := t.present && !t.noOwner }) rfl

theorem endRelease_other {ok : Bool} (h : m ≠ n) : tileOf (endRelease n ok s) m = tileOf s m := by
  rw [endRelease, (completeAll_frame (l := [.rings]) (by decide) .refl).tileOf_eq, tileOf_updTile, if_neg h]

/-- The end of a release leaves a tile's enable. -/
theorem endRelease_enabled {ok : Bool} : (tileOf (endRelease n ok s) n).enabled = (tileOf s n).enabled := by
  rw [endRelease, (completeAll_frame (l := [.rings]) (by decide) .refl).tileOf_eq, tileOf_updTile, if_pos rfl]

/-- A tile whose `RELEASE` waits has gone dark, its final commit requested (R286). -/
def releaseBegun (n : Nat) (s : State) : State :=
  updTile n (fun t => { t with releaseTaken := false, releasing := true, commitReq := true }) (darken n s)

/-- The latch-gap start at a tile whose `RELEASE` may wait for it (R269 R286). -/
def releaseAt (n : Nat) (s : State) : State :=
  let t := tileOf s n
  if t.releaseTaken then
    if t.phase = .none ∨ t.phase = .stuck then
      endRelease n false (updTile n (fun t => { t with commitReq := false, commitFailed := true }) (releaseBegun n s))
    else releaseBegun n s
  else s

theorem releaseTiles_succ : releaseTiles (k + 1) s = releaseAt k (releaseTiles k s) := rfl

theorem releaseBegun_other (h : m ≠ n) : tileOf (releaseBegun n s) m = tileOf s m := by
  rw [releaseBegun, tileOf_updTile, if_neg h, darken_other h]

theorem releaseBegun_dark : (tileOf (releaseBegun n s) n).enabled = false ∧ (tileOf (releaseBegun n s) n).releasing = true := by
  rw [releaseBegun, tileOf_updTile, if_pos rfl]
  exact ⟨darken_disables, rfl⟩

theorem releaseAt_other (h : m ≠ n) : tileOf (releaseAt n s) m = tileOf s m := by
  unfold releaseAt
  extract_lets t
  split
  · split
    · rw [endRelease_other h, tileOf_updTile, if_neg h, releaseBegun_other h]
    · exact releaseBegun_other h
  · rfl

/-- A tile whose `RELEASE` waits goes dark, and is being released if a commit of it can be made (R269 R286). -/
theorem releaseAt_taken (h : (tileOf s n).releaseTaken = true) :
    (tileOf (releaseAt n s) n).enabled = false
      ∧ ((tileOf s n).phase ≠ .none → (tileOf s n).phase ≠ .stuck → (tileOf (releaseAt n s) n).releasing = true) := by
  obtain ⟨hdark, hreleasing⟩ := releaseBegun_dark (s := s) (n := n)
  unfold releaseAt
  extract_lets t
  rw [if_pos h]
  split
  · next hphase =>
    refine ⟨?_, fun hnone hstuck => absurd hphase (by simp [hnone, hstuck, t])⟩
    rw [endRelease_enabled, tileOf_updTile, if_pos rfl]
    exact hdark
  · exact ⟨hdark, fun _ _ => hreleasing⟩

theorem releaseTiles_ahead (h : k ≤ n) : tileOf (releaseTiles k s) n = tileOf s n := by
  induction k with
  | zero => rfl
  | succ k ih => rw [releaseTiles_succ, releaseAt_other (by omega), ih (by omega)]

/-- Every tile whose `RELEASE` waits goes dark (R286). -/
theorem releaseTiles_taken (hk : n < k) (h : (tileOf s n).releaseTaken = true) :
    (tileOf (releaseTiles k s) n).enabled = false
      ∧ ((tileOf s n).phase ≠ .none → (tileOf s n).phase ≠ .stuck → (tileOf (releaseTiles k s) n).releasing = true) := by
  induction k with
  | zero => omega
  | succ k ih =>
    rw [releaseTiles_succ]
    rcases Nat.lt_succ_iff_lt_or_eq.1 hk with hlt | rfl
    · rw [releaseAt_other (by omega)]
      exact ih hlt
    · have hsame : tileOf (releaseTiles n s) n = tileOf s n := releaseTiles_ahead (Nat.le_refl n)
      rw [← hsame]
      exact releaseAt_taken (by rw [hsame]; exact h)

/-- A commit that starts is recorded at its tile, whose enable and release stay (R278). -/
theorem startCommit_tile : (tileOf (startCommit n s) m).enabled = (tileOf s m).enabled
    ∧ (tileOf (startCommit n s) m).releasing = (tileOf s m).releasing := by
  unfold startCommit
  extract_lets t
  split
  · exact ⟨rfl, rfl⟩
  · dsimp only
    change (tileOf (putTile s n _) m).enabled = _ ∧ (tileOf (putTile s n _) m).releasing = _
    rw [tileOf_putTile]
    split
    · next e =>
      subst e
      exact ⟨rfl, rfl⟩
    · exact ⟨rfl, rfl⟩

theorem nextCommit_tile : (tileOf (nextCommit s) n).enabled = (tileOf s n).enabled
    ∧ (tileOf (nextCommit s) n).releasing = (tileOf s n).releasing := by
  unfold nextCommit
  split
  · exact ⟨rfl, rfl⟩
  · split
    · exact ⟨rfl, rfl⟩
    · split
      · exact ⟨rfl, rfl⟩
      · exact startCommit_tile

end Released
end Sys2Proof.Machine
end

section
/-! The frame grid: boundaries, latch-gap starts, cut points, `FRAME_CTRL` and the frame number (R188 R190 R191 R196 R205 R208
R361). -/

set_option autoImplicit false
-- One declaration after the other: the text as one file holds many.
set_option Elab.async false

namespace Sys2Proof.Machine

/-! ### The boundary -/

section Boundary
variable {s : State} {n : Nat}

/-- The boundary ends a bridge frame: its grid instant is not the next in number (R192). -/
def endsBridge (s : State) : Bool := s.frm.started && decide (nextNum s ≠ s.frm.num + 1)

/-- The boundary goes back in the frame numbers (R193). -/
def rewinds (s : State) : Bool := s.frm.started && !atOrAfter (nextNum s) s.frm.num

/-- The output time has come to the boundary's grid instant (R188 R191). -/
def boundaryReached (s : State) : State := advanceTo (gridAt s (nextNum s)) s

/-- A bridge frame is counted and reported (R192 R211). -/
def bridgeCounted (b : Bool) (s : State) : State :=
  if b then raise 454 { s with frm := { s.frm with cntBridge := satAdd 65535 s.frm.cntBridge 1 } } else s

/-- A frame number that goes back is reported (R193). -/
def rewindRaised (b : Bool) (s : State) : State := if b then raise 455 s else s

/-- The boundary has come, what is uncommon about it told. -/
def boundaryJudged (s : State) : State := rewindRaised (rewinds s) (bridgeCounted (endsBridge s) (boundaryReached s))

/-- A frame begins: number `num`, from `start` on, with `k` steps of the output time since the boundary before (R191). -/
def frameBegun (num start k : Int) (s : State) : State :=
  { s with frm := { s.frm with
      num := num, started := true, start := start, steps := s.frm.steps - k, stepsG := s.frm.steps - k, fell := none
      inGap := false, flipPending := true, shifted := shiftedTiles s, lmCond := lmHolds s } }

/-- The Fronds and tiles, unless a save has stopped them, see the boundary (R46 R200 R361). -/
def boundarySeen (s : State) : State := if s.strip.stopped then s else boundaryAll 9 (calBoundary (takeSettings s))

/-- A boundary that no step of the output time has made falls at the grid instant (R188 R191). -/
theorem frameBoundary_falls (hr : runs .time s = true) (h : s.frm.started = false ∨ s.frm.inGap = true) (hf : s.frm.fell = none) :
    exec .frameBoundary s
      = .next (boundarySeen (frameBegun (nextNum s) (gridAt s (nextNum s)) s.frm.steps (boundaryJudged s))) := by
  have hgo : (s.frm.started && !s.frm.inGap) = false := by rcases h with h | h <;> simp [h]
  refine (ifRuns_runs hr).trans ((if_neg (by simp [hgo])).trans ?_)
  rw [hf]
  simp only [Option.getD_none, Bool.or_false]
  rfl

theorem boundaryReached_frame : SameBut [.time] s (boundaryReached s) := advanceTo_frame (by decide) .refl

/-- Counting a bridge frame writes of frame timing its counter (R211). -/
theorem bridgeCounted_frm {b : Bool} :
    (bridgeCounted b s).frm = { s.frm with cntBridge := if b then satAdd 65535 s.frm.cntBridge 1 else s.frm.cntBridge } := by
  cases b
  · rfl
  · exact raise_frm _ _

theorem rewindRaised_frame {b : Bool} : SameBut [.faults] s (rewindRaised b s) :=
  .ite (fun _ => raise_frame (by decide) .refl) fun _ => .refl

theorem bridgeCounted_frame {b : Bool} : SameBut [.frm, .faults] s (bridgeCounted b s) :=
  .ite (fun _ => raise_frame (by decide) (setFrm_frame (by decide) .refl)) fun _ => .refl

theorem boundaryJudged_frame : SameBut [.frm, .faults, .time] s (boundaryJudged s) :=
  rewindRaised_frame.step (by decide) (bridgeCounted_frame.step (by decide) (boundaryReached_frame.mono (by decide)))

theorem boundaryJudged_frm : (boundaryJudged s).frm
    = { s.frm with cntBridge := if endsBridge s then satAdd 65535 s.frm.cntBridge 1 else s.frm.cntBridge } := by
  rw [boundaryJudged, rewindRaised_frame.frm_eq, bridgeCounted_frm, boundaryReached_frame.frm_eq]

/-- The end of a bridge frame raises `FRM_BRIDGE` (R192 R212). -/
theorem boundaryJudged_bridge (h : endsBridge s = true) : Drives 454 (boundaryJudged s) := by
  refine Drives.after_raise_if ?_
  rw [bridgeCounted, if_pos h]
  exact raise_drives _ _

/-- A boundary that goes back raises `FRM_REWIND` (R193 R212). -/
theorem boundaryJudged_rewind (h : rewinds s = true) : Drives 455 (boundaryJudged s) := by
  rw [boundaryJudged, rewindRaised, if_pos h]
  exact raise_drives _ _

theorem boundarySeen_frame : SameBut [.strip, .tiles, .safety, .cal] s (boundarySeen s) :=
  .ite (fun _ => .refl) fun _ =>
    boundaryAll_frame (by decide) (calBoundary_frame (by decide) (takeSettings_frame (by decide) .refl))

/-- The Fronds take `EG_LIMIT` and `LM_LEVEL` of the safety set in force (R350 R361). -/
theorem boundarySeen_levels (h : s.strip.stopped = false) : (boundarySeen s).safety.egTaken = setEgLimit s.safety.inForce
    ∧ (boundarySeen s).safety.lmTaken = setLmLevel s.safety.inForce := by
  rw [boundarySeen, if_neg (by simp [h]), (boundaryAll_frame (l := [.strip, .tiles]) (by decide) .refl).safety_eq]
  exact ⟨rfl, rfl⟩

theorem boundarySeen_shows (h : s.strip.stopped = false) (hn : n < 8) (he : (tileOf s n).enabled = true) :
    (tileOf (boundarySeen s) n).shown = (tileOf s n).latched ∧ (tileOf (boundarySeen s) n).slice = 0 := by
  rw [boundarySeen, if_neg (by simp [h])]
  exact boundaryAll_shows (s := calBoundary (takeSettings s)) hn (by omega) he

theorem frameBoundary_onGrid (hr : runs .time s = true) (hs : s.frm.started = true) (hg : s.frm.inGap = true) (hf : s.frm.fell = none)
    (hn : nextNum s = s.frm.num + 1) (hst : s.strip.stopped = false) :
    Yields .frameBoundary s fun t => t.frm = { s.frm with
        num := s.frm.num + 1, start := gridAt s (nextNum s), steps := 0, stepsG := 0, inGap := false, flipPending := true
        shifted := t.frm.shifted, lmCond := t.frm.lmCond }
      ∧ t.safety.egTaken = setEgLimit s.safety.inForce ∧ t.safety.lmTaken = setLmLevel s.safety.inForce
      ∧ (∀ n < 8, (tileOf s n).enabled = true → (tileOf t n).shown = (tileOf s n).latched ∧ (tileOf t n).slice = 0)
      ∧ SameBut [.frm, .strip, .tiles, .safety, .faults, .cal, .time] s t := by
  refine Yields.framed ⟨_, frameBoundary_falls hr (.inr hg) hf, fun hframe => ?_⟩
  have hjudged : (boundaryJudged s).frm = s.frm := by
    rw [boundaryJudged_frm, if_neg (by simp [endsBridge, hn])]
  have hbegun : SameBut [.frm, .faults, .time] s
      (frameBegun (nextNum s) (gridAt s (nextNum s)) s.frm.steps (boundaryJudged s)) :=
    setFrm_frame (by decide) boundaryJudged_frame
  have hstop := (congrArg Strips.stopped hbegun.strip_eq).trans hst
  obtain ⟨heg, hlm⟩ := boundarySeen_levels hstop
  rw [hbegun.safety_eq] at heg hlm
  refine ⟨?_, heg, hlm, fun n hn he => ?_, hframe⟩
  · rw [boundarySeen_frame.frm_eq, frameBegun]
    dsimp only
    rw [hjudged, hn, hs, hf, Int.sub_self]
  · rw [← hbegun.tileOf_eq n] at he ⊢
    exact boundarySeen_shows hstop hn he

theorem frameBoundary_yields (hr : runs .time s = true) (h : s.frm.started = false ∨ s.frm.inGap = true) (hf : s.frm.fell = none) :
    Yields .frameBoundary s fun t => t.frm.num = nextNum s ∧ t.frm.start = gridAt s (nextNum s) ∧ t.frm.started = true
      ∧ t.frm.inGap = false ∧ t.frm.flipPending = true
      ∧ (s.frm.started = true → nextNum s ≠ s.frm.num + 1 → Drives 454 t ∧ t.frm.cntBridge = min 65535 (s.frm.cntBridge + 1))
      ∧ (s.frm.started = true → atOrAfter (nextNum s) s.frm.num = false → Drives 455 t) := by
  refine ⟨_, frameBoundary_falls hr h hf, ?_⟩
  have hdrives {k : Nat} (hk : Drives k (boundaryJudged s)) :
      Drives k (boundarySeen (frameBegun (nextNum s) (gridAt s (nextNum s)) s.frm.steps (boundaryJudged s))) :=
    Drives.of_frame (s := frameBegun (nextNum s) (gridAt s (nextNum s)) s.frm.steps (boundaryJudged s)) hk boundarySeen_frame
  beta_reduce
  rw [boundarySeen_frame.frm_eq]
  refine ⟨rfl, rfl, rfl, rfl, rfl, fun hs hnum => ?_, fun hs hback => hdrives (boundaryJudged_rewind (by simp [rewinds, hs, hback]))⟩
  have hbridge : endsBridge s = true := by simp [endsBridge, hs, hnum]
  refine ⟨hdrives (boundaryJudged_bridge hbridge), ?_⟩
  rw [frameBegun, boundaryJudged_frm, if_pos hbridge]
  rfl

end Boundary

/-! ### The latch-gap start -/

section LatchGap
variable {s : State}

/-- The latch gap has begun: the output time has come to it, and its handshake is on its way (R23 R190 R191). -/
def gapBegun (s : State) : State :=
  let s := advanceTo (latchGapAt s) s
  { s with frm := { s.frm with inGap := true, cutPending := true }, strip := { s.strip with srefDone := false } }

/-- What the latch gap begins at the tiles and in calibration (R276 R278 R286 R411). -/
def gapWork (s : State) : State := nextCommit (calAdvance (releaseTiles 8 (markTaps s)))

theorem gapReached_frame : SameBut [.time] s (advanceTo (latchGapAt s) s) := advanceTo_frame (by decide) .refl

theorem latchGapStart_begins (hr : runs .time s = true) (hs : s.frm.started = true) (hg : s.frm.inGap = false)
    (hst : s.strip.stopped = false) : exec .latchGapStart s = .next (gapWork (gapBegun s)) := by
  have hstop : (gapBegun s).strip.stopped = false := (congrArg Strips.stopped gapReached_frame.strip_eq).trans hst
  have hbegins : exec .latchGapStart s = .next (if (gapBegun s).strip.stopped then gapBegun s else gapWork (gapBegun s)) :=
    (ifRuns_runs hr).trans (congrArg _ (if_pos (by simp [hs, hg])))
  rw [hbegins, if_neg (by simp [hstop])]

theorem gapBegun_frm : (gapBegun s).frm = { s.frm with inGap := true, cutPending := true } := by
  unfold gapBegun
  dsimp only
  rw [gapReached_frame.frm_eq]

theorem gapBegun_tile {n : Nat} : tileOf (gapBegun s) n = tileOf s n :=
  gapReached_frame.tileOf_eq n

theorem gapWork_frame : SameBut [.outputs, .rings, .strip, .tiles, .safety, .cal, .therm, .nvm] s (gapWork s) :=
  nextCommit_frame (by decide) <| calAdvance_frame (by decide) <| releaseTiles_frame (by decide) (markTaps_frame (by decide) .refl)

/-- A tile whose `RELEASE` waits for the latch gap goes dark in it (R269 R286). -/
theorem gapWork_releases {n : Nat} (hn : n < 8) (h : (tileOf s n).releaseTaken = true) :
    (tileOf (gapWork s) n).enabled = false
      ∧ ((tileOf s n).phase ≠ .none → (tileOf s n).phase ≠ .stuck → (tileOf (gapWork s) n).releasing = true) := by
  have hcal : tileOf (calAdvance (releaseTiles 8 (markTaps s))) n = tileOf (releaseTiles 8 (markTaps s)) n :=
    (calAdvance_frame (l := [.rings, .safety, .cal, .therm, .nvm]) (by decide) .refl).tileOf_eq n
  have hdark := releaseTiles_taken (s := markTaps s) hn (by rw [markTaps_tile]; exact h)
  obtain ⟨henabled, hreleasing⟩ := nextCommit_tile (s := calAdvance (releaseTiles 8 (markTaps s))) (n := n)
  rw [markTaps_tile, ← hcal, ← henabled, ← hreleasing] at hdark
  exact hdark

theorem latchGapStart_yields (hr : runs .time s = true) (hs : s.frm.started = true) (hg : s.frm.inGap = false)
    (hst : s.strip.stopped = false) :
    Yields .latchGapStart s fun t => t.frm = { s.frm with inGap := true, cutPending := true }
      ∧ (∀ n < 8, (tileOf s n).releaseTaken = true → (tileOf t n).enabled = false
          ∧ ((tileOf s n).phase ≠ .none → (tileOf s n).phase ≠ .stuck → (tileOf t n).releasing = true))
      ∧ SameBut [.outputs, .rings, .frm, .strip, .tiles, .safety, .cal, .therm, .time, .nvm] s t := by
  refine Yields.framed ⟨_, latchGapStart_begins hr hs hg hst, fun hframe => ⟨?_, fun n hn h => ?_, hframe⟩⟩
  · rw [gapWork_frame.frm_eq, gapBegun_frm]
  · rw [← gapBegun_tile (s := s) (n := n)] at h ⊢
    exact gapWork_releases hn h

end LatchGap

/-! ### The cut point, `FRAME_CTRL` and the frame number -/

section Cut
variable {s : State} {id : Nat} {d : Desc}

/-- The cut point has passed: what waits at the gate is ready, and the groups that have flipped have seen it (R172 R195 R196). -/
def cutMade (s : State) : State :=
  onCmp (fun c => { c with
    gate := c.gate.map fun g => (true, g.2)
    groups := c.groups.map fun g => if g.st = .held then g else { g with cutSeen := true } })
    (onFrm (fun f => { f with cutPending := false, cutPassed := true }) s)

theorem cutPoint_yields (hr : runs .comp s = true) (hc : s.frm.cutPending = true) :
    Yields .cutPoint s fun t => t.frm = { s.frm with cutPending := false, cutPassed := true, cntLate := t.frm.cntLate }
      ∧ t.cmp.gate = s.cmp.gate.map (fun g => (true, g.2)) ∧ t.cmp.active = s.cmp.active ∧ SameBut [.rings, .cmp, .frm] s t := by
  refine Yields.framed (ifRuns_when_yields hr hc fun hframe => ?_)
  have hleave : GroupsLeave (cutMade s) (releaseReady (cutMade s)) := releaseReady_leaves
  exact ⟨hleave.frm, (congrArg Cmp.gate hleave.cmp :), (congrArg Cmp.active hleave.cmp :), hframe⟩

theorem frameCtrl_yields (hr : Runs s id 0x18 d) :
    Yields (.frameCtrl id) s fun t => t.frm = { s.frm with takenInPeriod := true }
      ∧ t.cmp = { s.cmp with gate := s.cmp.gate ++ [(false, .frameCtrl id (le d.bytes 16 2) (le d.bytes 24 8) s.frm.cutPassed)] }
      ∧ t.rings.done = s.rings.done ∧ SameBut [.rings, .cmp, .frm] s t :=
  Yields.framed ⟨_, runOp_runs hr, fun hframe => ⟨rfl, rfl, rfl, hframe⟩⟩

theorem frmNumCapture_yields (h : barOpen s = true) :
    Yields .frmNumCapture s fun t => t = { s with
      frm := { s.frm with numCap := unsigned 32 (s.frm.num / 2 ^ 32) }
      outputs := .regRead 0x18010 (unsigned 32 s.frm.num) :: s.outputs } :=
  ⟨_, congrArg Host.Outcome.next (if_pos h), rfl⟩

end Cut

/-- Settles O19: a boundary and a latch gap write frame timing once and then change only the tiles and what is told of them; the cut
point and `FRAME_CTRL` write the gate. -/
theorem frameGrid : Obligations.FrameGrid :=
  ⟨fun _ => frameBoundary_onGrid, fun _ => frameBoundary_yields, fun _ => latchGapStart_yields, fun _ => cutPoint_yields,
    fun _ _ _ => frameCtrl_yields, fun _ => frmNumCapture_yields⟩

end Sys2Proof.Machine
end

section
/-! Shifts: when a Frond shifts, from what inputs, and what it and the fault lines then show (R11 R200 R214 R215 R216). -/

set_option autoImplicit false
-- One declaration after the other: the text as one file holds many.
set_option Elab.async false

namespace Sys2Proof.Machine

/-! ### The Frond that serves a tile -/

section Serving
variable {s t : State} {f n g i : Nat}

theorem servedBy_serving (h : servedBy s f = some n) : serving s n = some f := by
  unfold servedBy at h
  split at h
  · have hfound := List.find?_some h
    simp only [Bool.and_eq_true, beq_iff_eq] at hfound
    exact hfound.1
  · exact absurd h nofun

/-- Repayments are counted as cancelled in the serving Frond alone (R313). -/
theorem cancelRepay_frond (h : serving s n ≠ some g) : frondOf (cancelRepay n s) g = frondOf s g := by
  unfold cancelRepay
  extract_lets t k _ u
  have hserving : serving u n = serving s n := by
    simp only [u, serving, tileOf_putTile, if_true]
    rfl
  split
  · rfl
  · split
    · rfl
    · next f hf =>
      rw [frondOf_putFrond, if_neg fun e => h (by rw [← hserving, hf, e])]
      rfl

theorem cancelRepay_strips : stripOf (cancelRepay n s) i = stripOf s i := by
  unfold cancelRepay
  extract_lets t k _ u
  split
  · rfl
  · split
    · rfl
    · rfl

end Serving

/-! ### Errors of the words read -/

section Ecc
variable {s : State} {n slot words bad : Nat}

theorem raiseN_drives (h : n ≠ 0) : Drives slot (raiseN n slot s) := by
  unfold raiseN
  split
  · contradiction
  · exact raise_drives _ _
  · exact raise_drives _ _

theorem raiseInj_drives {inj : Bool} : Drives slot (raiseInj slot inj s) := by
  unfold raiseInj
  extract_lets u
  have hu : Drives slot u := raise_drives _ _
  split
  · exact hu
  · exact hu

/-- Words with uncorrected errors raise `ECC_UNCORR` (R11). -/
theorem eccUncorrected_drives (h : bad ≠ 0) : Drives 500 (eccUncorrected words bad s) := by
  unfold eccUncorrected
  extract_lets x _ u
  split
  · exact raiseN_drives h
  · exact raiseInj_drives

end Ecc

/-! ### The stages of a shift -/

section Stages
variable {s : State} {f n m g i : Nat} {ecc : EccSeen} {x : ShiftRec} {p : ShiftRec × Diag × Nat × Bool}

/-- A Frond has taken its decision of the boundary (R200). -/
def shiftDecided (f : Nat) (s : State) : State := putFrond s f { frondOf s f with decide := false, item := false }

/-- The words of the front store have been read and checked (R11). -/
def wordsChecked (ecc : EccSeen) (s : State) : State := eccUncorrected 36864 ecc.bad.length (eccCorrected ecc.corrected s)

/-- The front store as read, and the state after it (R11). -/
def frontRead (n : Nat) (ecc : EccSeen) (s : State) : FrameRec × State := loseWords ecc.bad (shiftInputs s n).frame (wordsChecked ecc s)

/-- The inputs of a shift, with the front store as it reads (R11 R215). -/
def inputsRead (n : Nat) (ecc : EccSeen) (s : State) : ShiftRec := { shiftInputs s n with frame := (frontRead n ecc s).1 }

/-- Under Lanternmoss the tile's repayments are cancelled (R313). -/
def shiftReady (n : Nat) (ecc : EccSeen) (s : State) : State :=
  if (inputsRead n ecc s).lmoss then cancelRepay n (frontRead n ecc s).2 else (frontRead n ecc s).2

/-- The clamp factors of all windows (R216). -/
def allWindows (x : ShiftRec) : List Nat := (List.range 95).flatMap fun i => (List.range 95).map fun j => clampWindow x i j

/-- How many windows are clamped (R216). -/
def lowWindows (x : ShiftRec) : Nat := ((allWindows x).filter fun w => decide (w < 32768)).length

/-- The shift has begun in the Frond, its diagnosis recorded at the tile (R200 R305). -/
def shiftBegun (f n : Nat) (p : ShiftRec × Diag × Nat × Bool) (s : State) : State :=
  let s := putTile s n { tileOf s n with diag := p.2.1 }
  putFrond s f { frondOf s f with
    decide := false, item := false, shifting := some p.1, seqSent := p.1.seq, lmoss := p.1.lmoss
    clamping := decide (0 < lowWindows p.1), windows := lowWindows p.1, fMin := (allWindows p.1).foldl min 32768
    since := 0, shiftedNow := true, lastForce := some (forceOf p.1)
    probes := satAdd 65535 (frondOf s f).probes p.2.2.1 }

/-- Clamped windows and full repayment tables are reported (R216 R313). -/
def shiftTold (p : ShiftRec × Diag × Nat × Bool) (s : State) : State :=
  let s := if 0 < lowWindows p.1 then raise 460 s else s
  if p.2.2.2 then raise 212 s else s

/-- The plan of a shift: its streams' record and the diagnosis that goes with it (R305 R309 R312). -/
def shiftPlan (n : Nat) (ecc : EccSeen) (s : State) : ShiftRec × Diag × Nat × Bool :=
  planShift (shiftReady n ecc s) (tileOf (shiftReady n ecc s) n) (inputsRead n ecc s)

/-- A shift starts. -/
def shiftStarted (f n : Nat) (ecc : EccSeen) (s : State) : State :=
  shiftTold (shiftPlan n ecc s) (shiftBegun f n (shiftPlan n ecc s) (shiftReady n ecc s))

/-- A Frond's decision is no input of its shift. -/
theorem shiftInputs_shiftDecided : shiftInputs (shiftDecided f s) n = shiftInputs s n := rfl

/-- Whether a shift is due is judged by the Frond as it was before its decision (R200). -/
theorem shiftDue_before : shiftDue (putFrond (shiftDecided f s) f (frondOf s f)) f n x = shiftDue s f n x := by
  simp only [shiftDue, frondOf_putFrond, if_true]
  rfl

/-- A Frond whose turn it is shifts, if its tile is enabled and a shift is due (R200). -/
theorem shift_judged {f : Fin 9} (hr : runs .frond s = true) (hn : servedBy s f.val = some n) (hd : (frondOf s f.val).decide = true)
    (hs : (frondOf s f.val).shifting = none) (hf : s.frm.flipPending = false) :
    exec (.shift f ecc) s = if !(tileOf s n).enabled || !shiftDue s f.val n (shiftInputs s n) then .next (shiftDecided f.val s)
      else .next (shiftStarted f.val n ecc (shiftDecided f.val s)) := by
  rw [← shiftInputs_shiftDecided (f := f.val), ← shiftDue_before]
  refine (ifRuns_runs hr).trans ?_
  rw [hn]
  exact if_neg (by simp [hd, hs, hf])

theorem shift_starts {f : Fin 9} (hr : runs .frond s = true) (hn : servedBy s f.val = some n) (hd : (frondOf s f.val).decide = true)
    (hs : (frondOf s f.val).shifting = none) (hf : s.frm.flipPending = false) (he : (tileOf s n).enabled = true)
    (hw : s.frm.swapped = true) : exec (.shift f ecc) s = .next (shiftStarted f.val n ecc (shiftDecided f.val s)) :=
  (shift_judged hr hn hd hs hf).trans (if_neg (by simp [he, shiftDue, hw]))

/-! ### What each stage writes -/

theorem wordsChecked_frame : SameBut [.rings, .faults] s (wordsChecked ecc s) :=
  eccUncorrected_frame (by decide) (eccCorrected_frame (by decide) .refl)

theorem frontRead_frame : SameBut [.freeCtr, .rings, .faults] s (frontRead n ecc s).2 :=
  loseWords_frame (by decide) (wordsChecked_frame.mono (by decide))

/-- Without errors and injections the read of the front store changes nothing but the counts of the collector (R11). -/
theorem frontRead_plain (h : s.faults.inj = none) : SameBut [.faults] s (frontRead n {} s).2 := by
  have hinj : (eccCorrected 0 s).faults.inj = none := h
  show SameBut [.faults] s (eccUncorrected 36864 0 (eccCorrected 0 s))
  rw [eccUncorrected_plain hinj]
  exact eccCounted_frame.step (by decide) (eccCorrected_frame (by decide) .refl)

theorem shiftReady_frame : SameBut [.strip, .tiles] (frontRead n ecc s).2 (shiftReady n ecc s) :=
  .ite (fun _ => cancelRepay_frame (by decide) .refl) fun _ => .refl

theorem shiftReady_frond (h : serving s n = some f) (hg : g ≠ f) : frondOf (shiftReady n ecc s) g = frondOf s g := by
  have hread : frondOf (frontRead n ecc s).2 g = frondOf s g := frontRead_frame.frondOf_eq g
  unfold shiftReady
  split
  · rw [cancelRepay_frond, hread]
    rw [frontRead_frame.serving_eq n, h]
    exact fun e => hg (Option.some.inj e).symm
  · exact hread

theorem shiftReady_strip : stripOf (shiftReady n ecc s) i = stripOf s i := by
  have hread : stripOf (frontRead n ecc s).2 i = stripOf s i := frontRead_frame.stripOf_eq i
  unfold shiftReady
  split
  · rw [cancelRepay_strips, hread]
  · exact hread

theorem shiftReady_other (h : m ≠ n) : tileOf (shiftReady n ecc s) m = tileOf s m := by
  have hread : tileOf (frontRead n ecc s).2 m = tileOf s m := frontRead_frame.tileOf_eq m
  unfold shiftReady
  split
  · rw [cancelRepay_other h, hread]
  · exact hread

theorem shiftReady_tile : tileOf (shiftReady n ecc s) n = { tileOf s n with diag := (tileOf (shiftReady n ecc s) n).diag } := by
  have hread : tileOf (frontRead n ecc s).2 n = tileOf s n := frontRead_frame.tileOf_eq n
  unfold shiftReady
  split
  · rw [cancelRepay_tile, hread]
  · rw [hread]

theorem shiftBegun_frame : SameBut [.strip, .tiles] s (shiftBegun f n p s) :=
  putFrond_frame (by decide) (putTile_frame (by decide) .refl)

theorem shiftBegun_frond : frondOf (shiftBegun f n p s) f = { frondOf s f with
    decide := false, item := false, shifting := some p.1, seqSent := p.1.seq, lmoss := p.1.lmoss
    clamping := decide (0 < lowWindows p.1), windows := lowWindows p.1, fMin := (allWindows p.1).foldl min 32768
    since := 0, shiftedNow := true, lastForce := some (forceOf p.1)
    probes := satAdd 65535 (frondOf s f).probes p.2.2.1 } := by
  rw [shiftBegun, frondOf_putFrond, if_pos rfl]
  rfl

theorem shiftBegun_otherFrond (h : g ≠ f) : frondOf (shiftBegun f n p s) g = frondOf s g := by
  rw [shiftBegun, frondOf_putFrond, if_neg h]
  rfl

theorem shiftBegun_tile : tileOf (shiftBegun f n p s) m = if m = n then { tileOf s n with diag := p.2.1 } else tileOf s m := by
  rw [shiftBegun, tileOf_putFrond, tileOf_putTile]

theorem shiftTold_frame : SameBut [.faults] s (shiftTold p s) :=
  .after (.ite (fun _ => raise_frame (by decide) .refl) fun _ => .refl) (.ite (fun _ => raise_frame (by decide) .refl) fun _ => .refl)

theorem shiftTold_stays (h : Drives g s) : Drives g (shiftTold p s) := h.after_raise_if.after_raise_if

/-- Clamped windows raise `EG_CLAMP` (R216). -/
theorem shiftTold_clamps (h : 0 < lowWindows p.1) : Drives 460 (shiftTold p s) := by
  refine Drives.after_raise_if ?_
  rw [if_pos h]
  exact raise_drives _ _

/-- The window that is clamped is one of those counted (R216). -/
theorem lowWindows_pos (h : ∃ i j, i < 95 ∧ j < 95 ∧ clampWindow x i j < 32768) : 0 < lowWindows x := by
  obtain ⟨i, j, hi, hj, hlow⟩ := h
  refine List.length_pos_of_mem (a := clampWindow x i j) (List.mem_filter.2 ⟨?_, decide_eq_true hlow⟩)
  exact List.mem_flatMap.2 ⟨i, List.mem_range.2 hi, List.mem_map_of_mem (List.mem_range.2 hj)⟩

/-- Diagnosis adds to the inputs of a shift its flag, its probes and its repayments alone (R305 R309 R312). -/
theorem planShift_inputs {t : Tile} :
    { (planShift s t x).1 with diag := x.diag, probes := x.probes, repay := x.repay } = x := rfl

end Stages

/-! ### SHIFT -/

section Shift
variable {s : State} {f : Fin 9} {n : Nat} {ecc : EccSeen}

/-- Without errors the inputs read are those of the boundary, diagnosis apart (R215). -/
theorem shiftPlan_inputs : { (shiftPlan n {} s).1 with diag := false, probes := [], repay := [] } = shiftInputs s n :=
  planShift_inputs (x := inputsRead n {} s)

theorem shift_yields (hr : runs .frond s = true) (hn : servedBy s f.val = some n) (hd : (frondOf s f.val).decide = true)
    (hs : (frondOf s f.val).shifting = none) (hf : s.frm.flipPending = false) (he : (tileOf s n).enabled = true)
    (hw : s.frm.swapped = true) (hi : s.faults.inj = none) :
    Yields (.shift f {}) s fun t => (∃ x, (frondOf t f.val).shifting = some x
        ∧ { x with diag := false, probes := [], repay := [] } = shiftInputs s n ∧ (frondOf t f.val).seqSent = unsigned 16 s.frm.num
        ∧ ((∃ i j, i < 95 ∧ j < 95 ∧ clampWindow x i j < 32768) → (frondOf t f.val).clamping = true ∧ Drives 460 t))
      ∧ (frondOf t f.val).decide = false ∧ (frondOf t f.val).shiftedNow = true ∧ (frondOf t f.val).since = 0
      ∧ (∀ g, g ≠ f.val → frondOf t g = frondOf s g) ∧ (∀ i, stripOf t i = stripOf s i)
      ∧ (∀ m, m ≠ n → tileOf t m = tileOf s m) ∧ { tileOf t n with diag := (tileOf s n).diag } = tileOf s n
      ∧ SameBut [.strip, .tiles, .faults] s t := by
  refine ⟨_, shift_starts hr hn hd hs hf he hw, ?_⟩
  have hserving : serving s n = some f.val := servedBy_serving hn
  have htold {p : ShiftRec × Diag × Nat × Bool} {u : State} : SameBut [.faults] u (shiftTold p u) := shiftTold_frame
  unfold shiftStarted
  generalize hp : shiftPlan n {} (shiftDecided f.val s) = p
  have hx : { p.1 with diag := false, probes := [], repay := [] } = shiftInputs s n := hp ▸ shiftPlan_inputs
  refine ⟨⟨p.1, ?_, hx, ?_, fun hlow => ⟨?_, shiftTold_clamps (lowWindows_pos hlow)⟩⟩, ?_, ?_, ?_, fun g hg => ?_, fun i => ?_,
    fun m hm => ?_, ?_, ?_⟩
  · rw [htold.frondOf_eq, shiftBegun_frond]
  · rw [htold.frondOf_eq, shiftBegun_frond]
    exact (congrArg ShiftRec.seq hx :)
  · rw [htold.frondOf_eq, shiftBegun_frond]
    dsimp only
    exact decide_eq_true (lowWindows_pos hlow)
  · rw [htold.frondOf_eq, shiftBegun_frond]
  · rw [htold.frondOf_eq, shiftBegun_frond]
  · rw [htold.frondOf_eq, shiftBegun_frond]
  · rw [htold.frondOf_eq, shiftBegun_otherFrond hg, shiftReady_frond (s := shiftDecided f.val s) hserving hg,
      shiftDecided, frondOf_putFrond, if_neg hg]
  · rw [htold.stripOf_eq]
    exact shiftReady_strip (s := shiftDecided f.val s)
  · rw [htold.tileOf_eq, shiftBegun_tile, if_neg hm]
    exact shiftReady_other (s := shiftDecided f.val s) hm
  · rw [htold.tileOf_eq, shiftBegun_tile, if_pos rfl, shiftReady_tile]
    rfl
  · have hread : SameBut [.strip, .tiles, .faults] s (frontRead n {} (shiftDecided f.val s)).2 :=
      (frontRead_plain (s := shiftDecided f.val s) hi).step (by decide) (putFrond_frame (by decide) .refl)
    exact htold.step (by decide) (shiftBegun_frame.step (by decide) (shiftReady_frame.step (by decide) hread))

/-- Words of the front store that fail are reported, and the Frond shifts (R11). -/
theorem shift_reports (hr : runs .frond s = true) (hn : servedBy s f.val = some n) (hd : (frondOf s f.val).decide = true)
    (hs : (frondOf s f.val).shifting = none) (hf : s.frm.flipPending = false) (he : (tileOf s n).enabled = true)
    (hw : s.frm.swapped = true) (hb : ecc.bad ≠ []) :
    Yields (.shift f ecc) s fun t => (frondOf t f.val).shifting.isSome = true ∧ Drives 500 t
      ∧ SameBut [.freeCtr, .rings, .strip, .tiles, .faults] s t := by
  refine Yields.framed ⟨_, shift_starts hr hn hd hs hf he hw, fun hframe => ⟨?_, ?_, hframe⟩⟩
  · rw [shiftStarted, shiftTold_frame.frondOf_eq, shiftBegun_frond]
    rfl
  · have hchecked : Drives 500 (wordsChecked ecc (shiftDecided f.val s)) := eccUncorrected_drives (by simpa using hb)
    have hread : Drives 500 (frontRead n ecc (shiftDecided f.val s)).2 := hchecked.of_frame (loseWords_frame (l := [.freeCtr]) (by decide) .refl)
    exact shiftTold_stays ((hread.of_frame shiftReady_frame).of_frame shiftBegun_frame)

/-- While the boundary is yet to be taken in the compositor a Frond waits (R215). -/
theorem shift_waits (hf : s.frm.flipPending = true) : Yields (.shift f ecc) s fun t => t = s := by
  refine ⟨s, ?_, rfl⟩
  show ifRuns s .frond _ = _
  unfold ifRuns
  split
  · split
    · rfl
    · exact if_pos (by simp [hf])
  · rfl

theorem shift_declines (hr : runs .frond s = true) (hn : servedBy s f.val = some n) (hd : (frondOf s f.val).decide = true)
    (hs : (frondOf s f.val).shifting = none) (hf : s.frm.flipPending = false) (hdue : shiftDue s f.val n (shiftInputs s n) = false) :
    Yields (.shift f ecc) s fun t => frondOf t f.val = { frondOf s f.val with decide := false, item := false }
      ∧ (∀ g, g ≠ f.val → frondOf t g = frondOf s g) ∧ (∀ i, stripOf t i = stripOf s i) ∧ SameBut [.strip] s t := by
  refine ⟨_, (shift_judged hr hn hd hs hf).trans (if_pos (by simp [hdue])), ?_, fun g hg => ?_, fun i => rfl, ?_⟩
  · rw [shiftDecided, frondOf_putFrond, if_pos rfl]
  · rw [shiftDecided, frondOf_putFrond, if_neg hg]
  · exact putFrond_frame (by decide) .refl

end Shift

/-- Settles O21: a shift that starts takes the inputs of the boundary into its one Frond and writes of the tile only its diagnosis;
the two cases without one end before any stage of it. -/
theorem shiftStarts : Obligations.ShiftStarts :=
  ⟨fun _ _ _ => shift_yields, fun _ _ _ _ => shift_reports, fun _ _ _ => shift_waits, fun _ _ _ _ => shift_declines⟩

end Sys2Proof.Machine
end

section
/-! Slice starts and `STRIP_SET` (R190 R223 R224 R225 R239 R241 R242). -/

set_option autoImplicit false
-- One declaration after the other: the text as one file holds many.
set_option Elab.async false

namespace Sys2Proof.Machine

/-! ### Who serves and who drives -/

section Who
variable {s t : State} {f m : Nat} {l : List Part}

/-- What a Frond serves is a matter of its role, and of each tile's owner and takeover (R316 R317). -/
theorem servedBy_congr (hf : (frondOf t f).role = (frondOf s f).role)
    (ht : ∀ m, (tileOf t m).owner = (tileOf s m).owner ∧ (tileOf t m).noOwner = (tileOf s m).noOwner
      ∧ (tileOf t m).takeover = (tileOf s m).takeover) : servedBy t f = servedBy s f := by
  have hserving (m : Nat) : serving t m = serving s m := by
    obtain ⟨howner, hnone, -⟩ := ht m
    simp only [serving, howner, hnone]
  have htake (m : Nat) : (tileOf t m).takeover = (tileOf s m).takeover := (ht m).2.2
  simp only [servedBy, hf, hserving, htake]

theorem SameBut.servedBy_eq (h : SameBut l s t) (f : Nat) (ht : .tiles ∉ l := by decide) (hs : .strip ∉ l := by decide)
    (hb : .boot ∉ l := by decide) : servedBy t f = servedBy s f :=
  servedBy_congr (by rw [h.frondOf_eq f hs hb]) fun m => by rw [h.tileOf_eq m ht]; exact ⟨rfl, rfl, rfl⟩

theorem SameBut.drives_eq (h : SameBut l s t) (f : Nat) (ht : .tiles ∉ l := by decide) (hs : .strip ∉ l := by decide)
    (hb : .boot ∉ l := by decide) : drives t f = drives s f := by
  unfold drives
  simp only [h.tileOf_eq _ ht, h.servedBy_eq f ht hs hb]

theorem SameBut.sloOn_eq (h : SameBut l s t) (hc : .chans ∉ l := by decide) : sloOn t = sloOn s := by
  obtain ⟨ha, hb⟩ := h.chans_eq hc
  rw [sloOn, ha, hb, sloOn]

end Who

/-! ### The telemetry of a slice -/

section Telemetry
variable {s : State} {n i k v c g f : Nat} {l : List (Nat × Nat × Nat)}

theorem strip1_other (h : i ≠ k) : stripOf (strip1 s k v c) i = stripOf s i := by
  unfold strip1
  extract_lets x on iref bad u
  have hu : stripOf u i = stripOf s i := by rw [stripOf_putStrip, if_neg h]
  clear_value u
  split
  · rw [stripOf_putStrip, if_neg h]
  · split
    · rw [raise_stripOf, hu]
    · exact hu

theorem strip1_frond : frondOf (strip1 s k v c) g = frondOf s g := by
  unfold strip1
  extract_lets x on iref bad u
  have hu : frondOf u g = frondOf s g := rfl
  clear_value u
  split
  · rfl
  · split
    · rw [raise_frondOf, hu]
    · exact hu

/-- The telemetry of a tile is that of its own strips (R239). -/
theorem telemetry_other (h : i / 24 ≠ n) : stripOf (telemetry n l s) i = stripOf s i := by
  induction l generalizing s with
  | nil => rfl
  | cons e l ih =>
    obtain ⟨j, v, c⟩ := e
    rw [telemetry, ih]
    split
    · exact strip1_other (by omega)
    · rfl

theorem telemetry_frond : frondOf (telemetry n l s) g = frondOf s g := by
  induction l generalizing s with
  | nil => rfl
  | cons e l ih =>
    obtain ⟨j, v, c⟩ := e
    rw [telemetry, ih]
    split
    · exact strip1_frond
    · rfl

/-- The telemetry of the tile that a Frond serves has been taken (R239). -/
def telemetryTaken (f : Nat) (l : List (Nat × Nat × Nat)) (s : State) : State :=
  match servedBy s f with
  | some n => telemetry n l s
  | none => s

theorem telemetryTaken_frame : SameBut [.strip, .faults] s (telemetryTaken f l s) := by
  unfold telemetryTaken
  split
  · exact telemetry_frame (by decide) .refl
  · exact .refl

theorem telemetryTaken_frond : frondOf (telemetryTaken f l s) g = frondOf s g := by
  unfold telemetryTaken
  split
  · exact telemetry_frond
  · rfl

theorem telemetryTaken_other (h : servedBy s f ≠ some (i / 24)) : stripOf (telemetryTaken f l s) i = stripOf s i := by
  unfold telemetryTaken
  split
  · next n hn => exact telemetry_other fun e => h (by rw [hn, e])
  · rfl

/-- A Frond that serves no tile takes none. -/
theorem telemetryTaken_none (h : servedBy s f = none) : telemetryTaken f l s = s := by
  unfold telemetryTaken
  rw [h]

end Telemetry

/-! ### The start of a slice at a tile -/

section Slice
variable {s : State} {n m k : Nat}

/-- A slice that starts again repeats its pulse, skipped or not as it was before, and changes no tile (R223 R225). -/
theorem startSlice_again (he : (tileOf s n).enabled = true) (h : k < (tileOf s n).started) : startSlice n k s
    = emit (.tsync n ((if k = 0 then 1 else 0) + (if (tileOf s n).skipSlices.testBit k then 2 else 0))) s := by
  simp [startSlice, he, h]

/-- A slice is skipped by the tile's ratio, counting those missed before it (R225). -/
theorem startSlice_outputs (he : (tileOf s n).enabled = true) (h : (tileOf s n).started ≤ k) : (startSlice n k s).outputs
    = .tsync n ((if k = 0 then 1 else 0)
        + (if (tileOf s n).skipN ≠ 0 ∧ ((tileOf s n).skipCnt + (k - (tileOf s n).started)) % (tileOf s n).skipN = (tileOf s n).skipN - 1
            then 2 else 0)) :: s.outputs := by
  simp [startSlice, he, Nat.not_lt.2 h, putTile, emit]

/-- What a slice that starts writes of its tile: its number and counts, which slices were skipped and dark, and its diagnosis
(R225 R303 R313). -/
theorem startSlice_tile (h : (tileOf s n).started ≤ k) : tileOf (startSlice n k s) n = { tileOf s n with
    slice := k, started := k + 1, skipCnt := (tileOf s n).skipCnt + (k + 1 - (tileOf s n).started)
    skipSlices := (tileOf (startSlice n k s) n).skipSlices
    darkSlices := (tileOf s n).darkSlices ||| (2 ^ k - 2 ^ (tileOf s n).started)
      ||| (if !sloOn s || !(tileOf s n).enabled then 2 ^ k else 0)
    diag := (tileOf (startSlice n k s) n).diag } := by
  unfold startSlice
  extract_lets t again skip u dark missed first x
  have hu : sloOn u = sloOn s := by
    unfold u
    split
    · rfl
    · rfl
  have hagain : ¬ again = true := by simpa [again] using h
  rw [if_neg hagain, tileOf_putTile, if_pos rfl, ← hu]
  split
  · rfl
  · rfl

theorem startSlice_other (h : m ≠ n) : tileOf (startSlice n k s) m = tileOf s m := by
  unfold startSlice
  extract_lets t again skip u dark missed first x
  have hu : tileOf u m = tileOf s m := by
    unfold u
    split
    · rfl
    · rfl
  split
  · exact hu
  · rw [tileOf_putTile, if_neg h, hu]

/-- The start of a slice changes no owner. -/
theorem startSlice_servedBy {f : Nat} (h : (tileOf s n).started ≤ k) : servedBy (startSlice n k s) f = servedBy s f := by
  have hfrond : frondOf (startSlice n k s) f = frondOf s f := (startSlice_frame (l := [.outputs, .tiles]) (by decide) .refl).frondOf_eq f
  refine servedBy_congr (by rw [hfrond]) fun m => ?_
  by_cases hm : m = n
  · rw [hm, startSlice_tile h]
    exact ⟨rfl, rfl, rfl⟩
  · rw [startSlice_other hm]
    exact ⟨rfl, rfl, rfl⟩

end Slice

/-! ### SLICE_START -/

section SliceStart
variable {s : State} {f : Fin 9} {k : Fin 16} {telem : List (Nat × Nat × Nat)} {n : Nat}

/-- The slice's instant has come in a Frond, which sends its heartbeat token (R190 R316). -/
def sliceCome (f k : Nat) (s : State) : State := atSlice k 0 (emit (.heartbeat f k) s)

theorem sliceCome_frame {f k : Nat} : SameBut [.outputs, .time] s (sliceCome f k s) :=
  atSlice_frame (by decide) (emit_frame (by decide) .refl)

theorem sliceCome_outputs {f k : Nat} : (sliceCome f k s).outputs = .heartbeat f k :: s.outputs :=
  (atSlice_frame (l := [.time]) (by decide) .refl).outputs_eq

/-- A slice starts in a Frond that drives a tile's start pulse (R223). -/
theorem sliceStart_drives (hr : runs .frond s = true) (hd : drives s f.val = some n) : exec (.sliceStart f k telem) s
    = .next (telemetryTaken f.val telem (startSlice n k.val (sliceCome f.val k.val s))) := by
  refine (ifRuns_runs hr).trans ?_
  rw [← sliceCome, sliceCome_frame.drives_eq, hd]
  rfl

/-- A slice starts in a Frond that drives none. -/
theorem sliceStart_quiet (hr : runs .frond s = true) (hd : drives s f.val = none) : exec (.sliceStart f k telem) s
    = .next (telemetryTaken f.val telem (sliceCome f.val k.val s)) := by
  refine (ifRuns_runs hr).trans ?_
  rw [← sliceCome, sliceCome_frame.drives_eq, hd]
  rfl

theorem sliceStart_yields (hr : runs .frond s = true) (hd : drives s f.val = some n) (he : (tileOf s n).enabled = true)
    (hk : (tileOf s n).started ≤ k.val) :
    Yields (.sliceStart f k telem) s fun t =>
      t.outputs = .tsync n ((if k.val = 0 then 1 else 0)
          + (if (tileOf s n).skipN ≠ 0 ∧ ((tileOf s n).skipCnt + (k.val - (tileOf s n).started)) % (tileOf s n).skipN = (tileOf s n).skipN - 1
              then 2 else 0))
          :: .heartbeat f.val k.val :: s.outputs
        ∧ (tileOf t n).slice = k.val ∧ (tileOf t n).started = k.val + 1
        ∧ (tileOf t n).skipCnt = (tileOf s n).skipCnt + (k.val + 1 - (tileOf s n).started)
        ∧ (sloOn s = false → (tileOf t n).darkSlices = (tileOf s n).darkSlices ||| (2 ^ k.val - 2 ^ (tileOf s n).started) ||| 2 ^ k.val)
        ∧ (∀ m, m ≠ n → tileOf t m = tileOf s m) ∧ (∀ g, frondOf t g = frondOf s g)
        ∧ (∀ i, servedBy s f.val ≠ some (i / 24) → stripOf t i = stripOf s i)
        ∧ SameBut [.outputs, .strip, .tiles, .faults, .time] s t := by
  refine Yields.framed ⟨_, sliceStart_drives hr hd, fun hframe => ?_⟩
  have htile (m : Nat) : tileOf (sliceCome f.val k.val s) m = tileOf s m := sliceCome_frame.tileOf_eq m
  have hslo : sloOn (sliceCome f.val k.val s) = sloOn s := sliceCome_frame.sloOn_eq
  have hserved : servedBy (sliceCome f.val k.val s) f.val = servedBy s f.val := sliceCome_frame.servedBy_eq f.val
  have hfrond (g : Nat) : frondOf (sliceCome f.val k.val s) g = frondOf s g := sliceCome_frame.frondOf_eq g
  have hstrip (i : Nat) : stripOf (sliceCome f.val k.val s) i = stripOf s i := sliceCome_frame.stripOf_eq i
  have houtputs : (sliceCome f.val k.val s).outputs = .heartbeat f.val k.val :: s.outputs := sliceCome_outputs
  generalize sliceCome f.val k.val s = u at htile hslo hserved hfrond hstrip houtputs hframe
  rw [← htile n] at he hk
  have hone := startSlice_tile (k := k.val) hk
  have hstart : SameBut [.outputs, .tiles] u (startSlice n k.val u) := startSlice_frame (by decide) .refl
  refine ⟨?_, ?_, ?_, ?_, fun hoff => ?_, fun m hm => ?_, fun g => ?_, fun i hi => ?_, hframe⟩
  · rw [telemetryTaken_frame.outputs_eq, startSlice_outputs he hk, houtputs, htile]
  · rw [telemetryTaken_frame.tileOf_eq, hone]
  · rw [telemetryTaken_frame.tileOf_eq, hone]
  · rw [telemetryTaken_frame.tileOf_eq, hone, htile]
  · rw [telemetryTaken_frame.tileOf_eq, hone, hslo, hoff, htile]
    rfl
  · rw [telemetryTaken_frame.tileOf_eq, startSlice_other hm, htile]
  · rw [telemetryTaken_frond, hstart.frondOf_eq, hfrond]
  · rw [telemetryTaken_other (by rw [startSlice_servedBy hk, hserved]; exact hi), hstart.stripOf_eq, hstrip]

theorem sliceStart_repeats (hr : runs .frond s = true) (hd : drives s f.val = some n) (he : (tileOf s n).enabled = true)
    (hk : k.val < (tileOf s n).started) :
    Yields (.sliceStart f k telem) s fun t =>
      t.outputs = .tsync n ((if k.val = 0 then 1 else 0) + (if (tileOf s n).skipSlices.testBit k.val then 2 else 0))
          :: .heartbeat f.val k.val :: s.outputs
        ∧ (∀ m, tileOf t m = tileOf s m) ∧ (∀ g, frondOf t g = frondOf s g) ∧ SameBut [.outputs, .strip, .faults, .time] s t := by
  have htile (m : Nat) : tileOf (sliceCome f.val k.val s) m = tileOf s m := sliceCome_frame.tileOf_eq m
  have hrun := sliceStart_drives (k := k) (telem := telem) hr hd
  rw [startSlice_again (by rw [htile]; exact he) (by rw [htile]; exact hk), htile] at hrun
  refine ⟨_, hrun, ?_, fun m => ?_, fun g => ?_, ?_⟩
  · rw [telemetryTaken_frame.outputs_eq, ← sliceCome_outputs]
    rfl
  · rw [telemetryTaken_frame.tileOf_eq, emit_tileOf, htile]
  · rw [telemetryTaken_frond, emit_frondOf, sliceCome_frame.frondOf_eq]
  · exact telemetryTaken_frame.step (by decide) (emit_frame (by decide) (sliceCome_frame.mono (by decide)))

theorem sliceStart_beats (hr : runs .frond s = true) (hd : drives s f.val = none) (hn : servedBy s f.val = none) :
    Yields (.sliceStart f k telem) s fun t => t.outputs = .heartbeat f.val k.val :: s.outputs ∧ SameBut [.outputs, .time] s t := by
  have hrun := sliceStart_quiet (k := k) (telem := telem) hr hd
  rw [telemetryTaken_none (by rw [sliceCome_frame.servedBy_eq, hn])] at hrun
  exact ⟨_, hrun, sliceCome_outputs, sliceCome_frame⟩

end SliceStart

/-! ### STRIP_SET -/

theorem stripSet_yields {s : State} {id : Nat} {d : Desc} (hr : Runs s id 0x28 d) :
    Yields (.stripSet id) s fun t => t.cmp = { s.cmp with gate := s.cmp.gate ++ [(false, .stripSet id s.frm.cutPassed)] }
      ∧ descOf t id = some { d with taken := true } ∧ t.rings.done = s.rings.done ∧ SameBut [.rings, .cmp] s t :=
  Yields.framed ⟨_, runOp_runs hr, fun hframe => ⟨rfl, descOf_taken hr.desc, rfl, hframe⟩⟩

/-- Settles O23: a slice start sends the token, then the pulse of a slice that starts afresh or again, then takes telemetry, which is
of its tile's strips alone; a `STRIP_SET` goes to the gate. -/
theorem slicesAndStripSet : Obligations.SlicesAndStripSet :=
  ⟨fun _ _ _ _ _ => sliceStart_yields, fun _ _ _ _ _ => sliceStart_repeats, fun _ _ _ _ => sliceStart_beats,
    fun _ _ _ => stripSet_yields⟩

end Sys2Proof.Machine
end

section
/-! The arithmetic of strip drive: the clamp (R214 R216 R217), the slice on-times (R221), the governor's scale (R218 R220). -/

set_option autoImplicit false
-- One declaration after the other: the text as one file holds many.
set_option Elab.async false

namespace Sys2Proof.Machine

/-! ### The clamp -/

section Clamp
variable {x : ShiftRec} {v w : Nat → Nat → Nat} {p r c i j size step : Nat}

/-- A window's radiance is linear in the pixel values (R216). -/
theorem mul_windowNum : p * windowNum x v i j size step = windowNum x (fun r c => p * v r c) i j size step := by
  simp only [windowNum, List.sum_map_mul_left, Nat.mul_left_comm _ p]

/-- A window's radiance grows with the values of its own pixels, and of no others (R216). -/
theorem windowNum_mono (h : ∀ a < size, ∀ b < size, v (step * i + a) (step * j + b) ≤ w (step * i + a) (step * j + b)) :
    windowNum x v i j size step ≤ windowNum x w i j size step :=
  Nat.mul_le_mul_left _ <| List.sum_le_sum fun a ha => Nat.mul_le_mul_left _ <| List.sum_le_sum fun b hb =>
    h a (List.mem_range.1 ha) b (List.mem_range.1 hb)

/-- The factor of a window brings its radiance down to the limit (R216). -/
theorem clampWindow_limits : clampWindow x i j * windowNum x (dutyC x) i j 8 4 ≤ 32768 * (x.egLimit * (65536 * irefDen)) := by
  unfold clampWindow
  extract_lets n
  split
  · next h => exact Nat.mul_le_mul_left _ h
  · exact Nat.div_mul_le_self _ n

theorem foldl_min_le {l : List Nat} {m : Nat} (h : p = m ∨ p ∈ l) : l.foldl min m ≤ p := by
  induction l generalizing m p with
  | nil => exact (h.resolve_right List.not_mem_nil).ge
  | cons k l ih =>
    rw [List.foldl_cons]
    rcases h with rfl | h
    · exact (ih (.inl rfl)).trans (min_le_left p k)
    · rcases List.mem_cons.1 h with rfl | h
      · exact (ih (.inl rfl)).trans (min_le_right m p)
      · exact ih (.inr h)

theorem mem_windowsOf (hi : i < 95) (ha : p < 8) : i ∈ windowsOf (4 * i + p) := by
  simp only [windowsOf, List.mem_filter, List.mem_range, Bool.and_eq_true, decide_eq_true_eq]
  omega

/-- A pixel's factor is at most that of each window around it (R216). -/
theorem clampFactor_le (hi : i ∈ windowsOf r) (hj : j ∈ windowsOf c) : clampFactor x r c ≤ clampWindow x i j :=
  foldl_min_le (.inr (List.mem_flatMap.2 ⟨i, hi, List.mem_map_of_mem hj⟩))

/-- Quantizing and repaying only lower a clamped duty; a strip that is off has none (R214 R312). -/
theorem dutyAt_clamped : 32768 * (4 * dutyAt x r c) ≤ clampFactor x r c * dutyC x r c := by
  have hbase : dutyAt x r c ≤ dutyBase x r c := Nat.sub_le _ _
  have hclamped : dutyBase x r c ≤ dutyC x r c * clampFactor x r c / 2 ^ 15 / 4 := by
    unfold dutyBase
    split
    · exact min_le_left _ _
    · exact Nat.zero_le _
  rw [Nat.mul_comm (clampFactor x r c)]
  generalize dutyC x r c * clampFactor x r c = k at hclamped ⊢
  omega

end Clamp

/-- Settles O51: in a clamped window every pixel is at most the window's factor of what it was, and that factor of the window's
radiance is within the limit. -/
theorem clampHolds : Obligations.ClampHolds := fun x i j hi hj => by
  have hscaled : 32768 * windowNum x (fun r c => 4 * dutyAt x r c) i j 8 4 ≤ 32768 * (x.egLimit * (65536 * irefDen)) := by
    calc 32768 * windowNum x (fun r c => 4 * dutyAt x r c) i j 8 4
        = windowNum x (fun r c => 32768 * (4 * dutyAt x r c)) i j 8 4 := mul_windowNum
      _ ≤ windowNum x (fun r c => clampWindow x i j * dutyC x r c) i j 8 4 := windowNum_mono fun a ha b hb =>
          dutyAt_clamped.trans (Nat.mul_le_mul_right _ (clampFactor_le (mem_windowsOf hi ha) (mem_windowsOf hj hb)))
      _ = clampWindow x i j * windowNum x (dutyC x) i j 8 4 := mul_windowNum.symm
      _ ≤ 32768 * (x.egLimit * (65536 * irefDen)) := clampWindow_limits
  exact Nat.le_of_mul_le_mul_left hscaled (by decide)

/-! ### Slice on-times -/

section OnTimes
variable {d i : Nat}

theorem onTime_eq : onTime d i = if rev4 i < d % 16 then d / 16 + 1 else d / 16 := by
  unfold onTime
  split <;> rfl

/-- A remainder of d raises the on-time of as many slices by one unit (R221). -/
theorem raised_slices : ∀ r < 16, ((List.range 16).map fun i => if rev4 i < r then 1 else 0).sum = r := by decide

theorem onTime_sum : ((List.range 16).map (onTime d)).sum = d := by
  have hraised := raised_slices (d % 16) (Nat.mod_lt d (by decide))
  have hsplit : ((List.range 16).map (onTime d)).sum
      = ((List.range 16).map fun _ => d / 16).sum + ((List.range 16).map fun i => if rev4 i < d % 16 then 1 else 0).sum :=
    List.sum_map_add
  rw [hsplit, hraised, List.map_const', List.sum_replicate, List.length_range, smul_eq_mul]
  exact Nat.div_add_mod d 16

/-- Two on-times of a duty differ by at most one unit (R221). -/
theorem onTime_le {j : Nat} : onTime d i ≤ onTime d j + 1 := by
  simp only [onTime]
  split <;> split <;> omega

theorem rev4_testBit : ∀ i < 16, ∀ b < 4, (rev4 i).testBit b = i.testBit (3 - b) := by decide

end OnTimes

/-- Settles O50: the split of a duty by quotient and remainder; what concerns the sixteen slices alone is checked for each. -/
theorem sliceOnTimes : Obligations.SliceOnTimes :=
  ⟨fun _ _ _ => onTime_eq, fun _ => onTime_sum, fun _ _ _ => onTime_le, rev4_testBit, by decide, by decide, by decide⟩

/-! ### The governor -/

section Governor
variable {s : State} {v f b : Nat}

/-- The largest scale that keeps a variable load v beside a fixed load f within a budget b, in 1/32 768 (R218). -/
def budgetScale (v f b : Nat) : Nat := if v + f ≤ b then 32768 else if b ≤ f then 0 else 32768 * (b - f) / v

theorem budgetScale_full (h : v + f ≤ b) : budgetScale v f b = 32768 := if_pos h

theorem budgetScale_none (h : b < v + f) (hf : b ≤ f) : budgetScale v f b = 0 := (if_neg (by omega)).trans (if_pos hf)

theorem budgetScale_partial (h : b < v + f) (hf : f < b) : budgetScale v f b = 32768 * (b - f) / v :=
  (if_neg (by omega)).trans (if_neg (by omega))

/-- The three cases of the scale (R218): the budget holds all of the load, nothing beside the fixed part, or a part of it. -/
theorem budget_cases (v f b : Nat) : v + f ≤ b ∨ (b < v + f ∧ b ≤ f) ∨ (b < v + f ∧ f < b) := by omega

theorem budgetScale_le : budgetScale v f b ≤ 32768 := by
  rcases budget_cases v f b with h | ⟨h, hf⟩ | ⟨h, hf⟩
  · rw [budgetScale_full h]
  · rw [budgetScale_none h hf]
    decide
  · rw [budgetScale_partial h hf]
    exact Nat.div_le_of_le_mul (by rw [Nat.mul_comm v]; exact Nat.mul_le_mul_left _ (by omega))

/-- The scaled load is within a budget that holds the fixed part (R218). -/
theorem budgetScale_fits (h : f ≤ b) : v * budgetScale v f b + 32768 * f ≤ 32768 * b := by
  rcases budget_cases v f b with hc | ⟨hc, hf⟩ | ⟨hc, hf⟩
  · rw [budgetScale_full hc]
    omega
  · rw [budgetScale_none hc hf]
    omega
  · rw [budgetScale_partial hc hf]
    have hdiv := Nat.mul_div_le (32768 * (b - f)) v
    omega

/-- One step of the scale more would exceed the budget (R218). -/
theorem budgetScale_maximal (h : b < v + f) (hf : f < b) : 32768 * b < v * (budgetScale v f b + 1) + 32768 * f := by
  rw [budgetScale_partial h hf]
  have hdiv := Nat.lt_mul_div_succ (32768 * (b - f)) (show 0 < v by omega)
  omega

/-- The scale and the load of a boundary have been taken (R218). -/
def scaleTaken (s : State) : State := { s with strip := { s.strip with scale := (govScale s).1, load := (govScale s).2 } }

theorem governor_eq : governor s
    = if s.strip.scale = 32768 ∧ (govScale s).1 < 32768 then raise 459 (scaleTaken s) else scaleTaken s := rfl

theorem governor_takes : (governor s).strip.scale = (govScale s).1 := by
  rw [governor_eq]
  split
  · rw [raise_strip]
    rfl
  · rfl

/-- The governor's scale: 1.0 without a budget, else that of V and F (R218). -/
theorem governor_scale : (governor s).strip.scale = if s.strip.govBudget = 0 then 32768
    else budgetScale (128 * (govSums s).1) (128 * (govSums s).2 * 2 ^ 26) (s.strip.govBudget * govDen) := by
  rw [governor_takes]
  unfold govScale
  dsimp only
  by_cases hb : s.strip.govBudget = 0
  · rw [if_pos (.inl hb), if_pos hb]
  · rw [if_neg hb, budgetScale]
    simp only [hb, false_or]

/-- A scale that falls from 1.0 raises `GOV_LIMIT` (R220). -/
theorem governor_limits (hs : s.strip.scale = 32768) (hg : (governor s).strip.scale < 32768) : Drives 459 (governor s) := by
  rw [governor_takes] at hg
  rw [governor_eq, if_pos ⟨hs, hg⟩]
  exact raise_drives _ _

end Governor

/-- Settles O58: the governor's scale is the budget's, of which each bound is shown by its three cases. -/
theorem governorWithinBudget : Obligations.GovernorWithinBudget := by
  intro s v f b hv hf hb
  have hscale (h : s.strip.govBudget ≠ 0) : (governor s).strip.scale = budgetScale v f b := by
    rw [governor_scale, if_neg h, hv, hf, hb]
  refine ⟨?_, fun h hle => ?_, fun h => ?_, fun h hlt hle => ?_, fun h hlt hfb => ?_, governor_limits, governor_frame (by decide) .refl⟩
  · by_cases h : s.strip.govBudget = 0
    · rw [governor_scale, if_pos h]
    · rw [hscale h]
      exact budgetScale_le
  · rw [hscale h]
    exact budgetScale_fits hle
  · by_cases h0 : s.strip.govBudget = 0
    · rw [governor_scale, if_pos h0]
    · rw [hscale h0]
      exact budgetScale_full (h.resolve_left h0)
  · rw [hscale h]
    exact budgetScale_none hlt hle
  · rw [hscale h]
    exact budgetScale_maximal hlt hfb

end Sys2Proof.Machine
end

section
/-! SHIFT_END and LATCH: the readback of a shift, the latch of its streams, the settings of the sinks (R230 R231 R232 R234 R235
R240). -/

set_option autoImplicit false
-- One declaration after the other: the text as one file holds many.
set_option Elab.async false

namespace Sys2Proof.Machine

/-! ### Strips of a tile written one after the other -/

/-- An operation that writes the strips of tile n in turn, each once, has written those below its count. -/
theorem stripOf_in_turn {n : Nat} {F : Nat → State → State} {h : Nat → Strip → Strip}
    (hzero : ∀ s k, stripOf (F 0 s) k = stripOf s k)
    (hsucc : ∀ i s k, stripOf (F (i + 1) s) k = if k = 24 * n + i then h i (stripOf (F i s) k) else stripOf (F i s) k)
    (j : Nat) (s : State) (k : Nat) :
    stripOf (F j s) k = if 24 * n ≤ k ∧ k < 24 * n + j then h (k - 24 * n) (stripOf s k) else stripOf s k := by
  induction j with
  | zero => rw [hzero, if_neg (by omega)]
  | succ j ih =>
    rw [hsucc, ih]
    by_cases hk : k = 24 * n + j
    · subst hk
      rw [if_pos rfl, if_neg (by omega), if_pos (by omega), Nat.add_sub_cancel_left]
    · rw [if_neg hk]
      by_cases hlow : 24 * n ≤ k ∧ k < 24 * n + j
      · rw [if_pos hlow, if_pos (by omega)]
      · rw [if_neg hlow, if_neg (by omega)]

/-! ### Injected checks -/

section Inject
variable {s : State} {n k c : Nat} {b : Bool}

/-- With no injection under way no check is injected (R385). -/
theorem takeInj_plain (h : s.faults.inj = none) : takeInj k c s = (false, s) := by
  unfold takeInj
  rw [h]

/-- A check that is injected leaves what drives (R386). -/
theorem Drives.after_takeInj (h : Drives n s) : Drives n (takeInj k c s).2 := by
  unfold takeInj
  split
  · split
    · split
      · rw [Drives, complete_faults]
        exact h
      · exact h
    · exact h
  · exact h

theorem Drives.after_raiseInj (h : Drives n s) : Drives n (raiseInj k b s) := by
  unfold raiseInj
  extract_lets u
  have hu : Drives n u := h.after_raise
  split
  · exact hu
  · exact hu

theorem raise_inj : (raise k s).faults.inj = s.faults.inj := by
  unfold raise
  split
  · rfl
  · rfl

theorem raiseInj_inj : (raiseInj k b s).faults.inj = s.faults.inj := by
  unfold raiseInj
  extract_lets u
  have hu : u.faults.inj = s.faults.inj := raise_inj
  split
  · exact hu
  · exact hu

end Inject

/-! ### The readback of a shift -/

section Readback
variable {s : State} {f n i j k m : Nat} {x : ShiftRec} {r : StripRet} {rets : List StripRet}

/-- The check of a stream as it has come back (R234). -/
def returnedCheck (r : StripRet) : Nat := streamCheck r.header.toNat (fitCells r.cells)

/-- Local strip i after a shift: the check of what came back, and that of what has been sent for the next comparison (R234 R235). -/
def stripRead (x : ShiftRec) (i : Nat) (r : StripRet) (st : Strip) : Strip :=
  { st with crcRet := returnedCheck r, retHdr := bits r.header.toNat 32 32, held := true
            crcSent := streamCheck (headerOf x i) (cellsOf x i) }

theorem readback_strip : stripOf (readback f n i x r s) k
    = if k = 24 * n + i then stripRead x i r (stripOf s k) else stripOf s k := by
  unfold readback
  extract_lets pos st crc inj u bad hdr t fr fr'
  have hu : stripOf u k = stripOf s k := by
    unfold u inj
    split
    · exact (takeInj_frame (l := [.rings, .faults]) (by decide) .refl).stripOf_eq k
    · rfl
  have ht : stripOf t k = if k = 24 * n + i then stripRead x i r (stripOf s k) else stripOf s k := by
    rw [stripOf_putStrip, hu]
    split
    · next hk => rw [hk]; rfl
    · rfl
  clear_value t
  split
  · rw [(raiseInj_frame (l := [.faults]) (by decide) .refl).stripOf_eq, stripOf_putFrond, ht]
  · exact ht

theorem readback_inj (h : s.faults.inj = none) : (readback f n i x r s).faults.inj = none := by
  unfold readback
  extract_lets pos st crc inj u bad hdr t fr fr'
  have ht : t.faults.inj = none := by
    unfold t u inj
    rw [takeInj_plain h, ite_self]
    exact h
  clear_value t
  split
  · rw [raiseInj_inj]
    exact ht
  · exact ht

theorem readback_stays (h : Drives k s) : Drives k (readback f n i x r s) := by
  unfold readback
  extract_lets pos st crc inj u bad hdr t fr fr'
  have ht : Drives k t := by
    show Drives k u
    unfold u inj
    split
    · exact h.after_takeInj
    · exact h
  clear_value t
  split
  · exact Drives.after_raiseInj ht
  · exact ht

/-- A stream that has come back with another check than was sent is reported (R234 R235). -/
theorem readback_differs (hi : s.faults.inj = none) (hh : (stripOf s (24 * n + i)).held = true)
    (hc : returnedCheck r ≠ (stripOf s (24 * n + i)).crcSent) : Drives (24 * n + i) (readback f n i x r s) := by
  unfold readback
  extract_lets pos st crc inj u bad hdr t fr fr'
  have hbad : bad = true := by
    have hinj : inj.1 = false := by
      unfold inj
      rw [takeInj_plain hi, ite_self]
    have hcrc : crc ≠ st.crcSent := hc
    simp [bad, hinj, hcrc, st, pos, hh]
  rw [if_pos hbad]
  exact raiseInj_drives

theorem readbacks_strip : stripOf (readbacks f n x rets j s) k = if 24 * n ≤ k ∧ k < 24 * n + j
    then stripRead x (k - 24 * n) (rets.getD (k - 24 * n) { header := 0, cells := [], check := 0 }) (stripOf s k) else stripOf s k :=
  stripOf_in_turn (F := readbacks f n x rets)
    (h := fun i => stripRead x i (rets.getD i { header := 0, cells := [], check := 0 })) (fun _ _ => rfl)
    (fun _ _ _ => readback_strip) j s k

theorem readbacks_inj (h : s.faults.inj = none) : (readbacks f n x rets j s).faults.inj = none := by
  induction j with
  | zero => exact h
  | succ j ih => exact readback_inj ih

/-- Each strip of a tile is compared with what was sent to it before (R234). -/
theorem readbacks_differs (hi : s.faults.inj = none) (hj : i < j) (hr : rets[i]? = some r)
    (hh : (stripOf s (24 * n + i)).held = true) (hc : returnedCheck r ≠ (stripOf s (24 * n + i)).crcSent) :
    Drives (24 * n + i) (readbacks f n x rets j s) := by
  induction j with
  | zero => exact absurd hj (Nat.not_lt_zero i)
  | succ j ih =>
    rcases Nat.lt_succ_iff_lt_or_eq.1 hj with hlt | rfl
    · exact readback_stays (ih hlt)
    · have hst : stripOf (readbacks f n x rets i s) (24 * n + i) = stripOf s (24 * n + i) := by
        rw [readbacks_strip, if_neg (by omega)]
      refine readback_differs (readbacks_inj hi) (by rw [hst, hh]) ?_
      rw [hst, List.getD_eq_getElem?_getD, hr]
      exact hc

/-- The verdicts that a shift returned, from the diagnosis of its tile (R306 R307). -/
def verdictsOf (n : Nat) (rets : List StripRet) (s : State) : Diag × Bool := applyVerdicts rets (tileOf s n).diag

/-- What is sent waits for the latch, the verdicts are recorded, and the Frond shifts no more (R230 R306). -/
def shiftRecorded (f n : Nat) (rets : List StripRet) (x : ShiftRec) (s : State) : State :=
  let t := putTile s n { tileOf s n with sent := some x, diag := (verdictsOf n rets s).1 }
  putFrond t f { frondOf t f with shifting := none }

/-- A shift has ended: its streams are read back and what is owed is recorded (R234). -/
def shiftEnded (f n : Nat) (rets : List StripRet) (x : ShiftRec) (s : State) : State :=
  shiftRecorded f n rets x (readbacks f n x rets 24 s)

theorem shiftRecorded_frame : SameBut [.strip, .tiles] s (shiftRecorded f n rets x s) :=
  putFrond_frame (by decide) (putTile_frame (by decide) .refl)

theorem shiftRecorded_strip : stripOf (shiftRecorded f n rets x s) k = stripOf s k := rfl

theorem shiftRecorded_shifting : (frondOf (shiftRecorded f n rets x s) f).shifting = none := by
  rw [shiftRecorded, frondOf_putFrond, if_pos rfl]

theorem shiftRecorded_sent : (tileOf (shiftRecorded f n rets x s) n).sent = some x := by
  rw [shiftRecorded, tileOf_putFrond, tileOf_putTile, if_pos rfl]

theorem shiftRecorded_other (h : m ≠ n) : tileOf (shiftRecorded f n rets x s) m = tileOf s m := by
  rw [shiftRecorded, tileOf_putFrond, tileOf_putTile, if_neg h]

theorem shiftEnd_ends {f : Fin 9} (hr : runs .frond s = true) (hn : servedBy s f.val = some n)
    (hx : (frondOf s f.val).shifting = some x) :
    exec (.shiftEnd f rets) s = .next (if (verdictsOf n rets (readbacks f.val n x rets 24 s)).2
      then raise (192 + n) (shiftEnded f.val n rets x s) else shiftEnded f.val n rets x s) := by
  refine (ifRuns_runs hr).trans ?_
  rw [hn, hx]
  rfl

theorem shiftEnd_yields {f : Fin 9} (hr : runs .frond s = true) (hn : servedBy s f.val = some n)
    (hx : (frondOf s f.val).shifting = some x) :
    Yields (.shiftEnd f rets) s fun t => (frondOf t f.val).shifting = none ∧ (tileOf t n).sent = some x
      ∧ (∀ i, i < 24 → (stripOf t (24 * n + i)).held = true ∧ (stripOf t (24 * n + i)).crcSent = streamCheck (headerOf x i) (cellsOf x i)
          ∧ (∀ r, rets[i]? = some r → (stripOf t (24 * n + i)).crcRet = streamCheck r.header.toNat (fitCells r.cells)))
      ∧ (s.faults.inj = none → ∀ i r, i < 24 → rets[i]? = some r → (stripOf s (24 * n + i)).held = true →
          streamCheck r.header.toNat (fitCells r.cells) ≠ (stripOf s (24 * n + i)).crcSent → Drives (24 * n + i) t)
      ∧ (∀ k, k / 24 ≠ n → stripOf t k = stripOf s k) ∧ (∀ m, m ≠ n → tileOf t m = tileOf s m)
      ∧ SameBut [.rings, .strip, .tiles, .faults] s t := by
  refine Yields.framed ⟨_, shiftEnd_ends hr hn hx, fun hframe => ?_⟩
  have htold {c : Prop} [Decidable c] {u : State} : SameBut [.faults] u (if c then raise (192 + n) u else u) :=
    .ite (fun _ => raise_frame (by decide) .refl) fun _ => .refl
  have hread : SameBut [.rings, .strip, .faults] s (readbacks f.val n x rets 24 s) := readbacks_frame (by decide) .refl
  have hstrip (k : Nat) : stripOf (shiftEnded f.val n rets x s) k = stripOf (readbacks f.val n x rets 24 s) k := shiftRecorded_strip
  have hlocal (i : Nat) (hi : i < 24) : stripOf (readbacks f.val n x rets 24 s) (24 * n + i)
      = stripRead x i (rets.getD i { header := 0, cells := [], check := 0 }) (stripOf s (24 * n + i)) := by
    rw [readbacks_strip, if_pos (by omega), Nat.add_sub_cancel_left]
  refine ⟨?_, ?_, fun i hi => ?_, fun hinj i r hi hret hheld hdiff => ?_, fun k hk => ?_, fun m hm => ?_, hframe⟩
  · rw [htold.frondOf_eq]
    exact shiftRecorded_shifting
  · rw [htold.tileOf_eq]
    exact shiftRecorded_sent
  · rw [htold.stripOf_eq, hstrip, hlocal i hi]
    refine ⟨rfl, rfl, fun r hret => ?_⟩
    rw [List.getD_eq_getElem?_getD, hret]
    rfl
  · exact Drives.after_raise_if
      ((readbacks_differs (f := f.val) (x := x) hinj hi hret hheld hdiff).of_frame shiftRecorded_frame)
  · rw [htold.stripOf_eq, hstrip, readbacks_strip, if_neg fun h => hk (by omega)]
  · rw [htold.tileOf_eq, shiftEnded, shiftRecorded_other hm, hread.tileOf_eq]

end Readback

/-! ### The latch of a tile's streams -/

/-- Finding an entry of a table after one is set. -/
theorem Tab.find_put {α : Type} (t : Tab α) (i j : Nat) (v : α) : Tab.find (Tab.put t i v) j = if j = i then some v else Tab.find t j := by
  induction t with
  | nil => simp only [Tab.put, Tab.find, eq_comm]
  | cons e r ih =>
    obtain ⟨k, w⟩ := e
    unfold Tab.put
    split
    · simp only [Tab.find, eq_comm]
    · split
      · next hk =>
        subst hk
        simp only [Tab.find, eq_comm (a := j)]
        split
        · rfl
        · rfl
      · next hk =>
        simp only [Tab.find, ih]
        split
        · next hj => rw [if_neg (by omega)]
        · rfl

/-- A table after the same entry is set for each index of a list. -/
theorem Tab.find_puts {α : Type} (l : List Nat) (t : Tab α) (v : α) (i : Nat) :
    Tab.find (l.foldl (fun t k => Tab.put t k v) t) i = if i ∈ l then some v else Tab.find t i := by
  induction l generalizing t with
  | nil => simp
  | cons k l ih =>
    rw [List.foldl_cons, ih, Tab.find_put]
    by_cases hi : i = k <;> simp [hi]

section LatchTile
variable {s : State} {f n i k m g : Nat} {x : ShiftRec} {refused : List Nat}

/-- The diagnosis of a tile that latches: the latch before and this one; a refusal undoes its probes and its flag (R306). -/
def latchDiag (refused : List Nat) (x : ShiftRec) (g : Diag) : Diag :=
  let l := { g with prev := g.last, last := some { seq := x.seq, diag := x.diag, probes := x.probes, nak := !refused.isEmpty } }
  if !refused.isEmpty then { undoProbes x.probes l with diagDue := (undoProbes x.probes l).diagDue || x.diag } else l

/-- The local strips that do not refuse a latch (R231). -/
def latching (refused : List Nat) : List Nat := (List.range 24).filter fun i => !refused.contains i

/-- The latch pulse has gone out, and the strips that do not refuse it hold what was shifted (R230 R231). -/
def streamsLatched (n : Nat) (refused : List Nat) (x : ShiftRec) (s : State) : State :=
  emit (.tlat n x.seq) (putTile s n { tileOf s n with
    sent := none, diag := latchDiag refused x (tileOf s n).diag
    latched := (latching refused).foldl (fun l i => Tab.put l i x) (tileOf s n).latched
    latchedNow := (tileOf s n).latchedNow ||| maskOf (fun i => (latching refused).contains i) 24 })

/-- A refused latch is counted and reported besides (R231). -/
theorem latchTile_eq : latchTile f n refused x s = if refused = [] then streamsLatched n refused x s
    else raise 457 (putFrond (streamsLatched n refused x s) f
      { frondOf s f with nakCnt := satAdd (2 ^ 32 - 1) (frondOf s f).nakCnt 1 }) := by
  cases refused with
  | nil => rfl
  | cons a l => rfl

theorem latchTile_tile : tileOf (latchTile f n refused x s) m = tileOf (streamsLatched n refused x s) m := by
  rw [latchTile_eq]
  split
  · rfl
  · rw [raise_tileOf, tileOf_putFrond]

theorem latchTile_other (h : m ≠ n) : tileOf (latchTile f n refused x s) m = tileOf s m := by
  rw [latchTile_tile, streamsLatched, emit_tileOf, tileOf_putTile, if_neg h]

theorem latchTile_sent : (tileOf (latchTile f n refused x s) n).sent = none := by
  rw [latchTile_tile, streamsLatched, emit_tileOf, tileOf_putTile, if_pos rfl]

/-- The strips that do not refuse latch what was shifted; the others keep what they latched before (R230 R231). -/
theorem latchTile_latched (hi : i < 24) : Tab.find (tileOf (latchTile f n refused x s) n).latched i
    = if i ∈ refused then Tab.find (tileOf s n).latched i else some x := by
  have hmem : i ∈ latching refused ↔ i ∉ refused := by simp [latching, hi]
  rw [latchTile_tile, streamsLatched, emit_tileOf, tileOf_putTile, if_pos rfl]
  dsimp only
  rw [Tab.find_puts]
  by_cases hr : i ∈ refused
  · rw [if_neg fun h => hmem.1 h hr, if_pos hr]
  · rw [if_pos (hmem.2 hr), if_neg hr]

theorem latchTile_outputs : (latchTile f n refused x s).outputs = .tlat n x.seq :: s.outputs := by
  rw [latchTile_eq]
  split
  · rfl
  · rw [raise_outputs]
    rfl

theorem latchTile_frond : frondOf (latchTile f n refused x s) f = { frondOf s f with
    nakCnt := if refused = [] then (frondOf s f).nakCnt else satAdd (2 ^ 32 - 1) (frondOf s f).nakCnt 1 } := by
  rw [latchTile_eq]
  split
  · rfl
  · rw [raise_frondOf, frondOf_putFrond, if_pos rfl]

theorem latchTile_strip : stripOf (latchTile f n refused x s) k = stripOf s k := by
  rw [latchTile_eq]
  split
  · rfl
  · rw [raise_stripOf]
    rfl

theorem latchTile_globalIref : (latchTile f n refused x s).strip.globalIref = s.strip.globalIref := by
  rw [latchTile_eq]
  split
  · rfl
  · rw [raise_strip]
    rfl

theorem latchTile_refused (h : refused ≠ []) : Drives 457 (latchTile f n refused x s) := by
  rw [latchTile_eq, if_neg h]
  exact raise_drives _ _

end LatchTile

/-! ### The settings of the sinks -/

section Sinks
variable {s : State} {n j k f : Nat}

/-- A strip whose sink carries the settings of the duty side (R240). -/
def sinkSet (x : Strip) : Strip := { x with aEn := x.en, aChIref := x.chIref, aTrim := x.trim }

theorem applyAnalog_strip : stripOf (applyAnalog n j s) k
    = if 24 * n ≤ k ∧ k < 24 * n + j then sinkSet (stripOf s k) else stripOf s k :=
  stripOf_in_turn (F := applyAnalog n) (h := fun _ => sinkSet) (fun _ _ => rfl)
    (fun i s k => by
      rw [applyAnalog, stripOf_putStrip]
      split
      · next hk => rw [hk]; rfl
      · rfl) j s k

theorem applyAnalog_frond : frondOf (applyAnalog n j s) f = frondOf s f := by
  induction j with
  | zero => rfl
  | succ j ih => exact ih

theorem applyAnalog_globalIref : (applyAnalog n j s).strip.aGlobalIref = s.strip.globalIref := by
  induction j with
  | zero => rfl
  | succ j ih => exact ih

end Sinks

/-! ### The tests of the pins -/

section Pins
variable {s t u : State} {n k a b : Nat} {kind : Bool} {bad moved : List Nat}

/-- A test of the pins records what it finds, and leaves the strips, the Fronds, the settings of the sinks and what drives. -/
structure PinsTested (s t : State) : Prop where
  boot : t.boot = s.boot
  strips : t.strip.strips = s.strip.strips
  fronds : t.strip.fronds = s.strip.fronds
  sinks : t.strip.aGlobalIref = s.strip.aGlobalIref
  drives : ∀ n, Drives n s → Drives n t

theorem PinsTested.refl : PinsTested s s := ⟨rfl, rfl, rfl, rfl, fun _ h => h⟩

theorem PinsTested.after (k : PinsTested t u) (h : PinsTested s t) : PinsTested s u :=
  ⟨k.boot.trans h.boot, k.strips.trans h.strips, k.fronds.trans h.fronds, k.sinks.trans h.sinks,
    fun n hn => k.drives n (h.drives n hn)⟩

theorem PinsTested.ite {c : Prop} [Decidable c] (h : PinsTested s t) (k : PinsTested s u) : PinsTested s (if c then t else u) := by
  split
  · exact h
  · exact k

theorem PinsTested.stripOf_eq (h : PinsTested s t) : stripOf t k = stripOf s k := by
  unfold stripOf
  rw [h.strips, h.boot]

theorem PinsTested.frondOf_eq (h : PinsTested s t) : frondOf t k = frondOf s k := by
  unfold frondOf
  rw [h.fronds, h.boot]

theorem raise_pinsTested : PinsTested s (raise n s) :=
  ⟨raise_boot n s, by rw [raise_strip], by rw [raise_strip], by rw [raise_strip], fun _ h => h.after_raise⟩

theorem pinShort_tested : PinsTested s (pinShort kind a b s) :=
  raise_pinsTested.after (.ite .refl ⟨rfl, rfl, rfl, rfl, fun _ h => h⟩)

theorem pinShorts_tested {l : List Nat} : PinsTested s (pinShorts bad l s) := by
  induction l generalizing s with
  | nil => exact .refl
  | cons p l ih => exact ih.after (.ite pinShort_tested (.ite .refl pinShort_tested))

theorem srefTest_tested : PinsTested s (srefTest n moved s) := by
  unfold srefTest
  extract_lets p strips u v
  have hu : PinsTested s u := ⟨rfl, rfl, rfl, rfl, fun _ h => h⟩
  have hv : PinsTested s v := (PinsTested.ite pinShort_tested .refl).after hu
  exact .ite .refl (.ite .refl ((PinsTested.ite pinShort_tested .refl).after hv))

end Pins

/-! ### The calibration step of a gap -/

section Gap
variable {s : State} {n k f c : Nat} {b : Bool}

/-- Before the turn of a channel a calibration step works outside the strips (R410 R411). -/
theorem calGap_cases : SameBut [.rings, .safety, .cal, .therm, .nvm] s (calGap n s)
    ∨ ∃ c b u, c / 24 = n ∧ SameBut [.rings, .safety, .cal, .therm, .nvm] s u ∧ calGap n s = calBegin c b u := by
  unfold calGap
  extract_lets u
  have hu : SameBut [.rings, .safety, .cal, .therm, .nvm] s u := calAdvance_frame (by decide) .refl
  clear_value u
  split
  · exact .inl .refl
  · split
    · next c r _ =>
      split
      · next hc => exact .inr ⟨c, true, _, hc, onCal_frame (by decide) hu, rfl⟩
      · exact .inl hu
    · next c r _ _ =>
      split
      · next hc => exact .inr ⟨c, false, _, hc, onCal_frame (by decide) hu, rfl⟩
      · exact .inl hu
    · exact .inl hu

/-- The turn of a channel holds its telemetry (R412). -/
theorem calBegin_strip : stripOf (calBegin c b s) k = if k = c then { stripOf s k with stale := true } else stripOf s k := by
  rw [calBegin, stripOf_putStrip]
  split
  · next hk => rw [hk]
  · rfl

theorem calGap_strip : stripOf (calGap n s) k = { stripOf s k with stale := (stripOf (calGap n s) k).stale }
    ∧ ((stripOf s k).stale = true → (stripOf (calGap n s) k).stale = true) := by
  rcases calGap_cases (s := s) (n := n) with h | ⟨c, b, u, -, hu, he⟩
  · rw [h.stripOf_eq]
    exact ⟨rfl, id⟩
  · rw [he, calBegin_strip, hu.stripOf_eq]
    split
    · exact ⟨rfl, fun _ => rfl⟩
    · exact ⟨rfl, id⟩

theorem calGap_other (h : k / 24 ≠ n) : stripOf (calGap n s) k = stripOf s k := by
  rcases calGap_cases (s := s) (n := n) with hs | ⟨c, b, u, hc, hu, he⟩
  · exact hs.stripOf_eq k
  · rw [he, calBegin_strip, if_neg (by rintro rfl; exact h hc), hu.stripOf_eq]

theorem calGap_frond : frondOf (calGap n s) f = frondOf s f := by
  rcases calGap_cases (s := s) (n := n) with h | ⟨c, b, u, -, hu, he⟩
  · exact h.frondOf_eq f
  · rw [he, ← hu.frondOf_eq f]
    rfl

theorem calGap_sinks : (calGap n s).strip.aGlobalIref = s.strip.aGlobalIref := by
  rcases calGap_cases (s := s) (n := n) with h | ⟨c, b, u, -, hu, he⟩
  · rw [h.strip_eq]
  · rw [he, ← hu.strip_eq]
    rfl

end Gap

/-! ### LATCH -/

section Latch
variable {s : State} {f : Fin 9} {seen : LatchSeen} {n : Nat} {x : ShiftRec}

/-- The work of a gap has begun in a Frond, whose tile latches what was shifted (R230 R232). -/
def gapLatched (f n : Nat) (refused : List Nat) (x : ShiftRec) (s : State) : State :=
  latchTile f n refused x (putFrond s f { frondOf s f with gapDone := true })

/-- The pins of a Frond's tile are tested in a gap (R243 R244). -/
def pinsTested (n : Nat) (test : Bool) (seen : LatchSeen) (s : State) : State :=
  srefTest n seen.srefMoved (if test then pinShorts seen.sdBad (seen.sdBad.filter fun p => decide (p / 24 = n)) s else s)

theorem pinsTested_tested {test : Bool} : PinsTested s (pinsTested n test seen s) :=
  srefTest_tested.after (.ite pinShorts_tested .refl)

theorem pinsTested_frame {test : Bool} : SameBut [.strip, .faults] s (pinsTested n test seen s) :=
  srefTest_frame (by decide) (.ite (fun _ => pinShorts_frame (by decide) .refl) fun _ => .refl)

/-- The gap's work but for calibration: the latch, the settings of the sinks, the tests of the pins (R232). -/
def gapServed (f n : Nat) (seen : LatchSeen) (x : ShiftRec) (s : State) : State :=
  pinsTested n (frondOf s f).shortEn seen (applyAnalog n 24 (gapLatched f n seen.refused x s))

theorem gapServed_frame {f : Nat} : SameBut [.strip, .faults] (gapLatched f n seen.refused x s) (gapServed f n seen x s) :=
  pinsTested_frame.step (by decide) (applyAnalog_frame (by decide) .refl)

theorem gapServed_frond {f : Nat} : frondOf (gapServed f n seen x s) f = { frondOf s f with
    gapDone := true
    nakCnt := if seen.refused = [] then (frondOf s f).nakCnt else satAdd (2 ^ 32 - 1) (frondOf s f).nakCnt 1 } := by
  rw [gapServed, pinsTested_tested.frondOf_eq, applyAnalog_frond, gapLatched, latchTile_frond, frondOf_putFrond, if_pos rfl]

/-- The strips of the tile have their sinks set, the others are as they were (R240). -/
theorem gapServed_strip {f k : Nat} : stripOf (gapServed f n seen x s) k
    = if 24 * n ≤ k ∧ k < 24 * n + 24 then sinkSet (stripOf s k) else stripOf s k := by
  rw [gapServed, pinsTested_tested.stripOf_eq, applyAnalog_strip, gapLatched, latchTile_strip, stripOf_putFrond]

theorem gapServed_sinks {f : Nat} : (gapServed f n seen x s).strip.aGlobalIref = s.strip.globalIref := by
  rw [gapServed, pinsTested_tested.sinks, applyAnalog_globalIref, gapLatched, latchTile_globalIref]
  rfl

theorem gapServed_refused {f : Nat} (h : seen.refused ≠ []) : Drives 457 (gapServed f n seen x s) :=
  pinsTested_tested.drives 457 ((latchTile_refused h).of_frame (applyAnalog_frame (l := [.strip]) (by decide) .refl))

/-- LATCH in a period with a shift: the work of the gap, then the calibration step (R232 R411). -/
theorem latch_latches (hr : runs .frond s = true) (hn : servedBy s f.val = some n) (hg : s.frm.inGap = true)
    (hd : (frondOf s f.val).gapDone = false) (hs : (frondOf s f.val).shifting = none)
    (hw : (frondOf s f.val).shiftedNow = true) (hx : (tileOf s n).sent = some x) :
    exec (.latch f seen) s = .next (calGap n (gapServed f.val n seen x s)) := by
  refine (ifRuns_runs hr).trans ?_
  rw [hn]
  refine (if_neg (by simp [hg, hd, hs])).trans ?_
  refine congrArg (fun u => Host.Outcome.next (calGap n (pinsTested n (frondOf s f.val).shortEn seen (applyAnalog n 24 u)))) ?_
  split
  · next y hy =>
    cases hx.symm.trans hy
    rfl
  · next h => exact absurd hx (h x hw)

theorem latch_yields (hr : runs .frond s = true) (hn : servedBy s f.val = some n) (hg : s.frm.inGap = true)
    (hd : (frondOf s f.val).gapDone = false) (hs : (frondOf s f.val).shifting = none)
    (hw : (frondOf s f.val).shiftedNow = true) (hx : (tileOf s n).sent = some x) :
    Yields (.latch f seen) s fun t =>
      (∀ i < 24, Tab.find (tileOf t n).latched i = if i ∈ seen.refused then Tab.find (tileOf s n).latched i else some x)
      ∧ (tileOf t n).sent = none ∧ t.outputs = .tlat n x.seq :: s.outputs
      ∧ (frondOf t f.val).gapDone = true ∧ (seen.refused ≠ [] → Drives 457 t)
      ∧ (frondOf t f.val).nakCnt = (if seen.refused = [] then (frondOf s f.val).nakCnt else satAdd (2 ^ 32 - 1) (frondOf s f.val).nakCnt 1)
      ∧ t.strip.aGlobalIref = s.strip.globalIref
      ∧ (∀ k, k < 24 → stripOf t (24 * n + k) = { stripOf s (24 * n + k) with
          aEn := (stripOf s (24 * n + k)).en, aChIref := (stripOf s (24 * n + k)).chIref, aTrim := (stripOf s (24 * n + k)).trim
          stale := (stripOf t (24 * n + k)).stale } ∧ ((stripOf s (24 * n + k)).stale = true → (stripOf t (24 * n + k)).stale = true))
      ∧ (∀ k, k / 24 ≠ n → stripOf t k = stripOf s k) ∧ (∀ m, m ≠ n → tileOf t m = tileOf s m)
      ∧ SameBut [.outputs, .rings, .strip, .tiles, .safety, .faults, .cal, .therm, .nvm] s t := by
  refine Yields.framed ⟨_, latch_latches hr hn hg hd hs hw hx, fun hframe => ?_⟩
  have hcal : SameBut [.rings, .strip, .safety, .cal, .therm, .nvm] (gapServed f.val n seen x s) (calGap n (gapServed f.val n seen x s)) :=
    calGap_frame (by decide) .refl
  have hrest : SameBut [.rings, .strip, .safety, .faults, .cal, .therm, .nvm] (gapLatched f.val n seen.refused x s)
      (calGap n (gapServed f.val n seen x s)) := hcal.step (by decide) (gapServed_frame.mono (by decide))
  refine ⟨fun i hi => ?_, ?_, ?_, ?_, fun h => (gapServed_refused h).of_frame hcal, ?_, ?_, fun k hk => ?_, fun k hk => ?_,
    fun m hm => ?_, hframe⟩
  · rw [hrest.tileOf_eq, gapLatched, latchTile_latched hi, tileOf_putFrond]
  · rw [hrest.tileOf_eq, gapLatched, latchTile_sent]
  · rw [hrest.outputs_eq, gapLatched, latchTile_outputs, putFrond_outputs]
  · rw [calGap_frond, gapServed_frond]
  · rw [calGap_frond, gapServed_frond]
  · rw [calGap_sinks, gapServed_sinks]
  · obtain ⟨heq, hstale⟩ := calGap_strip (s := gapServed f.val n seen x s) (n := n) (k := 24 * n + k)
    rw [gapServed_strip, if_pos (by omega)] at heq hstale
    exact ⟨heq, hstale⟩
  · rw [calGap_other hk, gapServed_strip, if_neg fun h => hk (by omega)]
  · rw [hrest.tileOf_eq, gapLatched, latchTile_other hm, tileOf_putFrond]

end Latch

/-- Settles O22: a readback writes each strip of its tile once, with what came back beside what is sent next; a latch writes the
tile and the strips once, and what follows it in the gap only tests the pins and may hold one strip's telemetry. -/
theorem readbackAndLatch : Obligations.ReadbackAndLatch :=
  ⟨fun _ _ _ _ _ => shiftEnd_yields, fun _ _ _ _ _ => latch_yields⟩

end Sys2Proof.Machine
end

section
/-! The spare Frond: heartbeats, takeover, quarantine, reinstatement (R224 R316 R317 R318 R319 R320 R321). -/

set_option autoImplicit false
-- One declaration after the other: the text as one file holds many.
set_option Elab.async false

namespace Sys2Proof.Machine

/-! ### Who holds a position, and who is the spare -/

section Holding
variable {s t : State} {f n g : Nat} {l : List Part}

theorem heldBy_lt (h : heldBy s f = some n) : n < 8 := List.mem_range.1 (List.mem_of_find?_eq_some h)

theorem SameBut.heldBy_eq (h : SameBut l s t) (ht : .tiles ∉ l := by decide) : heldBy t f = heldBy s f := by
  unfold heldBy
  simp only [h.serving_eq _ ht]

theorem spareOf_role (h : spareOf s = some g) : (frondOf s g).role = .spare := by simpa using List.find?_some h

/-- Which Frond is the spare is a matter of who has that role (R315). -/
theorem spareOf_congr (h : ∀ g, (frondOf t g).role = .spare ↔ (frondOf s g).role = .spare) : spareOf t = spareOf s := by
  have hrole (g : Nat) : ((frondOf t g).role == .spare) = ((frondOf s g).role == .spare) := by
    rw [Bool.eq_iff_iff, beq_iff_eq, beq_iff_eq, h]
  simp only [spareOf, hrole]

theorem SameBut.spareOf_eq (h : SameBut l s t) (hs : .strip ∉ l := by decide) (hb : .boot ∉ l := by decide) : spareOf t = spareOf s :=
  spareOf_congr fun g => by rw [h.frondOf_eq g hs hb]

end Holding

/-! ### A token that arrives -/

section Token
variable {s : State} {f n g k : Nat} {inj seen : Bool}

/-- The check of a token falls 1.0 µs after the start of its slice (R316). -/
def tokenJudged (k : Nat) (s : State) : State := atSlice k 65536000 s

theorem tokenJudged_frame : SameBut [.time] s (tokenJudged k s) := atSlice_frame (by decide) .refl

/-- With no injection under way no token is suppressed (R385). -/
theorem tokenJudged_plain {c : Nat} (h : s.faults.inj = none) : takeInj c 4 (tokenJudged k s) = (false, tokenJudged k s) :=
  takeInj_plain (by rw [tokenJudged_frame.faults_eq, h])

/-- A token makes a suspect Frond active again and changes no other (R316). -/
theorem tokenSeen_frond : frondOf (tokenSeen f s) g = if g = f then { frondOf s f with
    misses := 0, role := if (frondOf s f).role = .suspect then .active else (frondOf s f).role } else frondOf s g := by
  unfold tokenSeen
  extract_lets x u
  have hu : frondOf u g = if g = f then _ else frondOf s g := frondOf_putFrond s f g _
  clear_value u
  split
  · rw [(updTile_frame (l := [.tiles]) (by decide) .refl).frondOf_eq, hu]
  · exact hu

/-- The position's start pulse goes back to its Frond (R316). -/
theorem tokenSeen_sync (h : heldBy s f = some n) : (tileOf (tokenSeen f s) n).tsyncBy = none := by
  unfold tokenSeen
  extract_lets x u
  have hu : heldBy u f = some n := h
  clear_value u
  rw [hu, tileOf_updTile, if_pos rfl]

theorem heartbeat_seen {f : Fin 9} {k : Fin 16} (hr : runs .ring s = true)
    (hrole : (frondOf s f.val).role = .active ∨ (frondOf s f.val).role = .suspect) (hi : s.faults.inj = none) :
    exec (.heartbeatCheck f true seen k) s = .next (tokenSeen f.val (tokenJudged k.val s)) := by
  refine (ifRuns_runs hr).trans ((if_neg ?_).trans ?_)
  · rcases hrole with h | h
    · simp [h]
    · simp [h]
  · rw [← tokenJudged, tokenJudged_plain hi]
    rfl

theorem heartbeat_active {f : Fin 9} {k : Fin 16} (hr : runs .ring s = true)
    (hrole : (frondOf s f.val).role = .active ∨ (frondOf s f.val).role = .suspect) (hi : s.faults.inj = none) :
    Yields (.heartbeatCheck f true seen k) s fun t => frondOf t f.val = { frondOf s f.val with misses := 0, role := .active }
      ∧ (∀ g, g ≠ f.val → frondOf t g = frondOf s g) ∧ (∀ n, heldBy s f.val = some n → (tileOf t n).tsyncBy = none)
      ∧ SameBut [.strip, .tiles, .time] s t := by
  have hjudged (g : Nat) : frondOf (tokenJudged k.val s) g = frondOf s g := tokenJudged_frame.frondOf_eq g
  have hrole' : (if (frondOf s f.val).role = .suspect then Role.active else (frondOf s f.val).role) = .active := by
    rcases hrole with h | h
    · rw [h]; rfl
    · rw [if_pos h]
  refine ⟨_, heartbeat_seen hr hrole hi, ?_, fun g hg => ?_, fun n hn => tokenSeen_sync ?_, ?_⟩
  · rw [tokenSeen_frond, if_pos rfl, hjudged, hrole']
  · rw [tokenSeen_frond, if_neg hg, hjudged]
  · rw [tokenJudged_frame.heldBy_eq, hn]
  · exact tokenSeen_frame (by decide) (tokenJudged_frame.mono (by decide))

end Token

/-! ### A token that is missing -/

section Missing
variable {s : State} {f n g k : Nat} {inj seen : Bool}

/-- The token of slice k is missing: counted and reported (R316 R327). -/
def tokenLost (f k : Nat) (s : State) : State := tokenMissed f false (tokenJudged k s)

theorem tokenLost_frame : SameBut [.strip, .faults, .time] s (tokenLost f k s) :=
  tokenMissed_frame (by decide) (tokenJudged_frame.mono (by decide))

theorem tokenLost_frond : frondOf (tokenLost f k s) g
    = if g = f then { frondOf s f with hbMiss := satAdd (2 ^ 32 - 1) (frondOf s f).hbMiss 1 } else frondOf s g := by
  unfold tokenLost tokenMissed
  dsimp only
  rw [(raiseInj_frame (l := [.faults]) (by decide) .refl).frondOf_eq, frondOf_putFrond, tokenJudged_frame.frondOf_eq,
    tokenJudged_frame.frondOf_eq]

theorem tokenLost_drives : Drives 211 (tokenLost f k s) := raiseInj_drives

theorem heartbeat_first {f : Fin 9} {k : Fin 16} (hr : runs .ring s = true) (hrole : (frondOf s f.val).role = .active)
    (hi : s.faults.inj = none) :
    exec (.heartbeatCheck f false seen k) s = .next (suspect f.val k.val seen (tokenLost f.val k.val s)) := by
  refine (ifRuns_runs hr).trans ((if_neg (by simp [hrole])).trans ?_)
  rw [← tokenJudged, tokenJudged_plain hi, hrole]
  rfl

theorem heartbeat_second {f : Fin 9} {k : Fin 16} (hr : runs .ring s = true) (hrole : (frondOf s f.val).role = .suspect)
    (hi : s.faults.inj = none) :
    exec (.heartbeatCheck f false seen k) s = .next (declareDead f.val false (tokenLost f.val k.val s)) := by
  refine (ifRuns_runs hr).trans ((if_neg (by simp [hrole])).trans ?_)
  rw [← tokenJudged, tokenJudged_plain hi, hrole]
  rfl

/-- The spare is not made suspect: its second missing token finds it dead (R316). -/
theorem heartbeat_spare {f : Fin 9} {k : Fin 16} (hr : runs .ring s = true) (hrole : (frondOf s f.val).role = .spare)
    (hi : s.faults.inj = none) : exec (.heartbeatCheck f false seen k) s
      = .next (if 1 ≤ (frondOf (tokenLost f.val k.val s) f.val).misses then declareDead f.val false (tokenLost f.val k.val s)
          else putFrond (tokenLost f.val k.val s) f.val { frondOf (tokenLost f.val k.val s) f.val with misses := 1 }) := by
  refine (ifRuns_runs hr).trans ((if_neg (by simp [hrole])).trans ?_)
  rw [← tokenJudged, tokenJudged_plain hi, hrole]
  rfl

/-- The Frond is suspect with one token missed, and no other changes (R316). -/
theorem suspect_frond : frondOf (suspect f k seen s) g
    = if g = f then { frondOf s f with role := .suspect, misses := 1 } else frondOf s g := by
  unfold suspect
  extract_lets x u
  have hu : frondOf u g = if g = f then { frondOf s f with role := .suspect, misses := 1 } else frondOf s g :=
    frondOf_putFrond s f g _
  clear_value u
  split
  · dsimp only
    split
    · rw [(startSlice_frame (l := [.outputs, .tiles]) (by decide) (updTile_frame (by decide) .refl)).frondOf_eq, hu]
    · rw [(updTile_frame (l := [.tiles]) (by decide) .refl).frondOf_eq, hu]
  · exact hu

theorem heartbeat_suspects {f : Fin 9} {k : Fin 16} (hr : runs .ring s = true) (hrole : (frondOf s f.val).role = .active)
    (hi : s.faults.inj = none) :
    Yields (.heartbeatCheck f false seen k) s fun t => frondOf t f.val = { frondOf s f.val with
        role := .suspect, misses := 1, hbMiss := satAdd (2 ^ 32 - 1) (frondOf s f.val).hbMiss 1 }
      ∧ Drives 211 t ∧ (∀ g, g ≠ f.val → frondOf t g = frondOf s g) ∧ SameBut [.outputs, .strip, .tiles, .faults, .time] s t := by
  have hsuspect : SameBut [.outputs, .strip, .tiles] (tokenLost f.val k.val s) (suspect f.val k.val seen (tokenLost f.val k.val s)) :=
    suspect_frame (by decide) .refl
  refine ⟨_, heartbeat_first hr hrole hi, ?_, tokenLost_drives.of_frame hsuspect, fun g hg => ?_,
    hsuspect.step (by decide) (tokenLost_frame.mono (by decide))⟩
  · rw [suspect_frond, if_pos rfl, tokenLost_frond, if_pos rfl]
  · rw [suspect_frond, if_neg hg, tokenLost_frond, if_neg hg]

end Missing

/-! ### A Frond that is dead -/

section Dead
variable {s : State} {f n g j k m : Nat} {inj : Bool} {old : Frond}

/-- A tile whose start pulse Frond f drives no more (R316). -/
def syncReturned (f : Nat) (t : Tile) : Tile := { t with tsyncBy := if t.tsyncBy = some f then none else t.tsyncBy }

theorem returnSync_tile : tileOf (returnSync f j s) m = if m < j then syncReturned f (tileOf s m) else tileOf s m := by
  induction j with
  | zero => rw [if_neg (Nat.not_lt_zero m)]; rfl
  | succ j ih =>
    rw [returnSync, tileOf_updTile]
    by_cases hm : m = j
    · subst hm
      rw [if_pos rfl, ih, if_neg (lt_irrefl m), if_pos m.lt_succ_self]
      rfl
    · rw [if_neg hm, ih]
      exact if_congr (by omega) rfl rfl

/-- A dead Frond is quarantined and reported, and drives no start pulse (R316 R317). -/
def quarantine (f : Nat) (inj : Bool) (s : State) : State :=
  returnSync f 8 (raiseInj (200 + f) inj (putFrond s f { frondOf s f with
    role := .quarantined, misses := 0, staleSeen := false, shifting := none, decide := false, shiftedNow := false, item := false }))

theorem quarantine_frame : SameBut [.strip, .tiles, .faults] s (quarantine f inj s) :=
  returnSync_frame (by decide) (raiseInj_frame (by decide) (putFrond_frame (by decide) .refl))

theorem quarantine_frond : frondOf (quarantine f inj s) g = if g = f then { frondOf s f with
    role := .quarantined, misses := 0, staleSeen := false, shifting := none, decide := false, shiftedNow := false, item := false }
    else frondOf s g := by
  rw [quarantine, (returnSync_frame (l := [.tiles]) (by decide) .refl).frondOf_eq,
    (raiseInj_frame (l := [.faults]) (by decide) .refl).frondOf_eq, frondOf_putFrond]

theorem quarantine_role : (frondOf (quarantine f inj s) f).role = .quarantined := by rw [quarantine_frond, if_pos rfl]

theorem quarantine_tile (h : m < 8) : tileOf (quarantine f inj s) m = syncReturned f (tileOf s m) := by
  rw [quarantine, returnSync_tile, if_pos h, (raiseInj_frame (l := [.faults]) (by decide) .refl).tileOf_eq, tileOf_putFrond]

theorem quarantine_drives : Drives (200 + f) (quarantine f inj s) :=
  Drives.of_frame (s := raiseInj (200 + f) inj _) raiseInj_drives (returnSync_frame (l := [.tiles]) (by decide) .refl)

theorem quarantine_stays (h : Drives k s) : Drives k (quarantine f inj s) :=
  Drives.of_frame (Drives.after_raiseInj (s := putFrond s f _) h) (returnSync_frame (l := [.tiles]) (by decide) .refl)

/-- A Frond that was no spare is none in quarantine. -/
theorem quarantine_spare (h : (frondOf s f).role ≠ .spare) : spareOf (quarantine f inj s) = spareOf s :=
  spareOf_congr fun g => by
    rw [quarantine_frond]
    split
    · next hg =>
      subst hg
      exact ⟨nofun, fun hs => absurd hs h⟩
    · rfl

/-- The position of a dead Frond has its epoch raised, so that the dead one's writes are fenced (R317). -/
def epochRaised (f n : Nat) (inj : Bool) (s : State) : State :=
  updTile n (fun t => { t with epoch := (t.epoch + 1) % 65536 }) (quarantine f inj s)

theorem epochRaised_tile (h : m < 8) : tileOf (epochRaised f n inj s) m = if m = n
    then { syncReturned f (tileOf s n) with epoch := ((tileOf s n).epoch + 1) % 65536 } else syncReturned f (tileOf s m) := by
  rw [epochRaised, tileOf_updTile]
  split
  · next hm => rw [← hm, quarantine_tile h]; rfl
  · exact quarantine_tile h

theorem epochRaised_frame : SameBut [.tiles] (quarantine f inj s) (epochRaised f n inj s) := updTile_frame (by decide) .refl

/-- A Frond without a position is quarantined, and that is all. -/
theorem declareDead_unheld (h : heldBy s f = none) : declareDead f inj s = quarantine f inj s := by
  unfold declareDead
  rw [h]
  rfl

theorem declareDead_replaced (h : heldBy s f = some n) (hf : (frondOf s f).role ≠ .spare) (hg : spareOf s = some g) :
    declareDead f inj s = takeOver n g (frondOf s f) (epochRaised f n inj s) := by
  have hspare : spareOf (epochRaised f n inj s) = some g :=
    epochRaised_frame.spareOf_eq.trans ((quarantine_spare hf).trans hg)
  unfold declareDead
  rw [h]
  dsimp only
  split
  · next g' hg' =>
    cases hspare.symm.trans hg'
    rfl
  · next hnone => exact absurd (hspare.symm.trans hnone) nofun

theorem declareDead_unreplaced (h : heldBy s f = some n) (hf : (frondOf s f).role ≠ .spare) (hg : spareOf s = none) :
    declareDead f inj s = noOwner n (epochRaised f n inj s) := by
  have hspare : spareOf (epochRaised f n inj s) = none :=
    epochRaised_frame.spareOf_eq.trans ((quarantine_spare hf).trans hg)
  unfold declareDead
  rw [h]
  dsimp only
  split
  · next g' hg' => exact absurd (hspare.symm.trans hg') nofun
  · rfl

end Dead

/-! ### A position that is taken over, or left dark -/

section Position
variable {s : State} {n g m k : Nat} {old : Frond}

/-- The spare that takes a position over is granted the position's epoch (R317). -/
theorem takeOver_granted : (frondOf (takeOver n g old s) g).role = .active ∧ (frondOf (takeOver n g old s) g).epoch = (tileOf s n).epoch := by
  unfold takeOver
  dsimp only
  rw [(putTile_frame (l := [.tiles]) (by decide) .refl).frondOf_eq, frondOf_putFrond, if_pos rfl]
  exact ⟨rfl, rfl⟩

theorem takeOver_otherFrond (h : m ≠ g) : frondOf (takeOver n g old s) m = frondOf s m := by
  unfold takeOver
  dsimp only
  rw [(putTile_frame (l := [.tiles]) (by decide) .refl).frondOf_eq, frondOf_putFrond, if_neg h]

theorem takeOver_tile : tileOf (takeOver n g old s) n = { tileOf s n with
    owner := some g, noOwner := false, takeover := true, mapPending := true, map := []
    diag := { freshMap (tileOf s n).diag with last := none, prev := none } } := by
  rw [takeOver, tileOf_putTile, if_pos rfl]

theorem takeOver_epoch : (tileOf (takeOver n g old s) n).epoch = (tileOf s n).epoch := by rw [takeOver_tile]

theorem takeOver_other (h : m ≠ n) : tileOf (takeOver n g old s) m = tileOf s m := by
  rw [takeOver, tileOf_putTile, if_neg h, tileOf_putFrond]

/-- Going dark counts at most cancelled repayments in a Frond, and changes no role (R313). -/
theorem darken_role : (frondOf (darken n s) g).role = (frondOf s g).role := by
  have hcancel {u : State} : (frondOf (cancelRepay n u) g).role = (frondOf u g).role := by
    unfold cancelRepay
    extract_lets t k _ v
    split
    · rfl
    · split
      · rfl
      · rw [frondOf_putFrond]
        split
        · next hg => rw [hg]; rfl
        · rfl
  have hlight : frondOf (lightEnds n s) g = frondOf s g := (lightEnds_frame (l := [.tiles]) (by decide) .refl).frondOf_eq g
  rw [darken, (putTile_frame (l := [.tiles]) (by decide) .refl).frondOf_eq, hcancel, hlight]

theorem noOwner_role : (frondOf (noOwner n s) g).role = (frondOf s g).role := by
  rw [noOwner, raise_frondOf, (updTile_frame (l := [.tiles]) (by decide) .refl).frondOf_eq, darken_role]

/-- A position without an owner is dark, at the epoch it had (R319). -/
theorem noOwner_tile : (tileOf (noOwner n s) n).noOwner = true ∧ (tileOf (noOwner n s) n).enabled = false
    ∧ (tileOf (noOwner n s) n).epoch = (tileOf s n).epoch := by
  rw [noOwner, raise_tileOf, tileOf_updTile, if_pos rfl]
  refine ⟨rfl, darken_disables (s := s) (n := n), ?_⟩
  rw [darken_tile]

theorem noOwner_drives : Drives 209 (noOwner n s) := raise_drives _ _

theorem noOwner_stays (h : Drives k s) : Drives k (noOwner n s) :=
  (h.of_frame (updTile_frame (l := [.strip, .tiles]) (by decide) (darken_frame (by decide) .refl))).after_raise

end Position

/-! ### The second missing token -/

section Second
variable {s : State} {f : Fin 9} {k : Fin 16} {seen : Bool} {n g : Nat}

theorem tokenLost_role {f k : Nat} : (frondOf (tokenLost f k s) g).role = (frondOf s g).role := by
  rw [tokenLost_frond]
  split
  · next h => rw [h]
  · rfl

theorem tokenLost_spare {f k : Nat} : spareOf (tokenLost f k s) = spareOf s := spareOf_congr fun g => by rw [tokenLost_role]

/-- The Frond of a dead one's position is told of its death and of its missing token. -/
theorem epochRaised_drives {f k : Nat} : Drives (200 + f) (epochRaised f n false (tokenLost f k s))
    ∧ Drives 211 (epochRaised f n false (tokenLost f k s)) :=
  ⟨quarantine_drives.of_frame epochRaised_frame, (quarantine_stays tokenLost_drives).of_frame epochRaised_frame⟩

theorem epochRaised_frondRole {f k : Nat} : (frondOf (epochRaised f n false (tokenLost f k s)) f).role = .quarantined := by
  rw [epochRaised_frame.frondOf_eq, quarantine_role]

theorem epochRaised_position {f k : Nat} (h : n < 8) : (tileOf (epochRaised f n false (tokenLost f k s)) n).epoch
    = ((tileOf s n).epoch + 1) % 65536 := by
  rw [epochRaised_tile h, if_pos rfl, tokenLost_frame.tileOf_eq]

theorem epochRaised_wide {f k : Nat} : SameBut [.strip, .tiles, .faults, .time] s (epochRaised f n false (tokenLost f k s)) :=
  epochRaised_frame.step (by decide) (quarantine_frame.step (by decide) (tokenLost_frame.mono (by decide)))

theorem heartbeat_replaces (hr : runs .ring s = true) (hrole : (frondOf s f.val).role = .suspect) (hi : s.faults.inj = none)
    (hh : heldBy s f.val = some n) (hg : spareOf s = some g) :
    Yields (.heartbeatCheck f false seen k) s fun t => (frondOf t f.val).role = .quarantined ∧ (frondOf t g).role = .active
      ∧ (frondOf t g).epoch = ((tileOf s n).epoch + 1) % 65536 ∧ (tileOf t n).epoch = ((tileOf s n).epoch + 1) % 65536
      ∧ (tileOf t n).owner = some g ∧ (tileOf t n).takeover = true ∧ (tileOf t n).map = [] ∧ Drives (200 + f.val) t ∧ Drives 211 t
      ∧ (∀ m, m < 8 → m ≠ n → tileOf t m = { tileOf s m with
          tsyncBy := if (tileOf s m).tsyncBy = some f.val then none else (tileOf s m).tsyncBy })
      ∧ SameBut [.strip, .tiles, .faults, .time] s t := by
  have hheld : heldBy (tokenLost f.val k.val s) f.val = some n := by rw [tokenLost_frame.heldBy_eq, hh]
  have hdead := declareDead_replaced (inj := false) hheld (by rw [tokenLost_role, hrole]; decide) (tokenLost_spare.trans hg)
  have hne : f.val ≠ g := by
    rintro rfl
    exact absurd (hrole.symm.trans (spareOf_role hg)) nofun
  have hn : n < 8 := heldBy_lt hh
  have htake {old : Frond} {u : State} : SameBut [.strip, .tiles] u (takeOver n g old u) := takeOver_frame (by decide) .refl
  obtain ⟨hdrives, hmissing⟩ := epochRaised_drives (s := s) (n := n) (f := f.val) (k := k.val)
  refine ⟨_, (heartbeat_second hr hrole hi).trans (congrArg _ hdead), ?_, takeOver_granted.1, ?_, ?_, ?_, ?_, ?_,
    hdrives.of_frame htake, hmissing.of_frame htake, fun m hm hmn => ?_, htake.step (by decide) epochRaised_wide⟩
  · rw [takeOver_otherFrond hne, epochRaised_frondRole]
  · rw [takeOver_granted.2, epochRaised_position hn]
  · rw [takeOver_epoch, epochRaised_position hn]
  · rw [takeOver_tile]
  · rw [takeOver_tile]
  · rw [takeOver_tile]
  · rw [takeOver_other hmn, epochRaised_tile hm, if_neg hmn, tokenLost_frame.tileOf_eq, syncReturned]

theorem heartbeat_darkens (hr : runs .ring s = true) (hrole : (frondOf s f.val).role = .suspect) (hi : s.faults.inj = none)
    (hh : heldBy s f.val = some n) (hg : spareOf s = none) :
    Yields (.heartbeatCheck f false seen k) s fun t => (frondOf t f.val).role = .quarantined ∧ (tileOf t n).noOwner = true
      ∧ (tileOf t n).enabled = false ∧ (tileOf t n).epoch = ((tileOf s n).epoch + 1) % 65536 ∧ Drives 209 t ∧ Drives (200 + f.val) t
      ∧ Drives 211 t ∧ SameBut [.strip, .tiles, .faults, .time] s t := by
  have hheld : heldBy (tokenLost f.val k.val s) f.val = some n := by rw [tokenLost_frame.heldBy_eq, hh]
  have hdead := declareDead_unreplaced (inj := false) hheld (by rw [tokenLost_role, hrole]; decide) (tokenLost_spare.trans hg)
  obtain ⟨hdrives, hmissing⟩ := epochRaised_drives (s := s) (n := n) (f := f.val) (k := k.val)
  obtain ⟨hnone, hoff, hepoch⟩ := noOwner_tile (s := epochRaised f.val n false (tokenLost f.val k.val s)) (n := n)
  refine ⟨_, (heartbeat_second hr hrole hi).trans (congrArg _ hdead), ?_, hnone, hoff, ?_, noOwner_drives,
    noOwner_stays hdrives, noOwner_stays hmissing, noOwner_frame (by decide) epochRaised_wide⟩
  · rw [noOwner_role, epochRaised_frondRole]
  · rw [hepoch, epochRaised_position (heldBy_lt hh)]

theorem heartbeat_losesSpare (hr : runs .ring s = true) (hrole : (frondOf s f.val).role = .spare) (hh : heldBy s f.val = none)
    (hi : s.faults.inj = none) :
    Yields (.heartbeatCheck f false seen k) s fun t => Drives 211 t
      ∧ (frondOf t f.val).hbMiss = satAdd (2 ^ 32 - 1) (frondOf s f.val).hbMiss 1
      ∧ (if (frondOf s f.val).misses = 0 then (frondOf t f.val).role = .spare ∧ (frondOf t f.val).misses = 1
          else (frondOf t f.val).role = .quarantined ∧ Drives (200 + f.val) t)
      ∧ (∀ g, g ≠ f.val → frondOf t g = frondOf s g) ∧ SameBut [.strip, .tiles, .faults, .time] s t := by
  have hmisses : (frondOf (tokenLost f.val k.val s) f.val).misses = (frondOf s f.val).misses := by rw [tokenLost_frond, if_pos rfl]
  have hheld : heldBy (tokenLost f.val k.val s) f.val = none := by rw [tokenLost_frame.heldBy_eq, hh]
  by_cases h0 : (frondOf s f.val).misses = 0
  · refine ⟨_, (heartbeat_spare hr hrole hi).trans (congrArg _ (if_neg (by omega))), tokenLost_drives, ?_, ?_, fun g hg => ?_, ?_⟩
    · rw [frondOf_putFrond, if_pos rfl, tokenLost_frond, if_pos rfl]
    · rw [if_pos h0, frondOf_putFrond, if_pos rfl]
      exact ⟨tokenLost_role.trans hrole, rfl⟩
    · rw [frondOf_putFrond, if_neg hg, tokenLost_frond, if_neg hg]
    · exact putFrond_frame (by decide) (tokenLost_frame.mono (by decide))
  · refine ⟨_, (heartbeat_spare hr hrole hi).trans (congrArg _ ((if_pos (by omega)).trans (declareDead_unheld hheld))),
      quarantine_stays tokenLost_drives, ?_, ?_, fun g hg => ?_, ?_⟩
    · rw [quarantine_frond, if_pos rfl, tokenLost_frond, if_pos rfl]
    · rw [if_neg h0]
      exact ⟨quarantine_role, quarantine_drives⟩
    · rw [quarantine_frond, if_neg hg, tokenLost_frond, if_neg hg]
    · exact quarantine_frame.step (by decide) (tokenLost_frame.mono (by decide))

end Second

/-! ### The end of a takeover -/

section Takeover
variable {s t : State} {n m k : Nat} {l : List Part}

theorem SameBut.slicesDue_eq (h : SameBut l s t) (hf : .frm ∉ l := by decide) (ht : .time ∉ l := by decide)
    (hb : .boot ∉ l := by decide) : slicesDue t = slicesDue s := by
  refine congrArg List.length (List.filter_congr fun i _ => ?_)
  rw [decide_eq_decide, sliceAt, sliceAt, h.frm_eq hf, h.outTime_eq ht hb]

/-- No pulse is late in a gap, before the first boundary, or once every due slice has started (R224). -/
theorem latePulse_none (h : s.frm.inGap = true ∨ s.frm.started = false ∨ slicesDue s ≤ (tileOf s n).started) : latePulse n s = s :=
  if_pos (by rcases h with h | h | h <;> simp [h])

theorem latePulse_late (hg : s.frm.inGap = false) (hs : s.frm.started = true) (h : (tileOf s n).started < slicesDue s) :
    latePulse n s = startSlice n (slicesDue s - 1) s :=
  if_neg (by simp [hg, hs, h])

/-- A late pulse starts a slice or is none (R224). -/
theorem latePulse_cases : latePulse n s = s
    ∨ ((tileOf s n).started ≤ slicesDue s - 1 ∧ latePulse n s = startSlice n (slicesDue s - 1) s) := by
  by_cases h : s.frm.inGap = true ∨ s.frm.started = false ∨ slicesDue s ≤ (tileOf s n).started
  · exact .inl (latePulse_none h)
  · simp only [not_or, Bool.not_eq_true, Bool.not_eq_false, not_le] at h
    obtain ⟨hg, hs, hlate⟩ := h
    exact .inr ⟨by omega, latePulse_late hg hs hlate⟩

theorem latePulse_other (h : m ≠ n) : tileOf (latePulse n s) m = tileOf s m := by
  rcases latePulse_cases (s := s) (n := n) with he | ⟨-, he⟩
  · rw [he]
  · rw [he, startSlice_other h]

theorem latePulse_owned : (tileOf (latePulse n s) n).takeover = (tileOf s n).takeover
    ∧ (tileOf (latePulse n s) n).tsyncBy = (tileOf s n).tsyncBy := by
  rcases latePulse_cases (s := s) (n := n) with he | ⟨hk, he⟩
  · rw [he]
    exact ⟨rfl, rfl⟩
  · rw [he, startSlice_tile hk]
    exact ⟨rfl, rfl⟩

/-- The new owner drives the pins of the position and reads the tile's map again (R317). -/
def takenOver (n : Nat) (s : State) : State :=
  emit (.tileBusRead n 0x52 0x1000 147456) (putTile s n { tileOf s n with takeover := false, tsyncBy := none })

theorem takenOver_frame : SameBut [.outputs, .tiles] s (takenOver n s) := emit_frame (by decide) (putTile_frame (by decide) .refl)

theorem takenOver_tile : tileOf (takenOver n s) m
    = if m = n then { tileOf s n with takeover := false, tsyncBy := none } else tileOf s m := by
  rw [takenOver, emit_tileOf, tileOf_putTile]

theorem takeover_completes {n : Fin 8} {g : Nat} (hr : runs .frond s = true) (ht : (tileOf s n.val).takeover = true)
    (ho : (tileOf s n.val).owner = some g) (hs : (frondOf s g).shifting = none) :
    exec (.takeoverComplete n) s = .next (latePulse n.val (takenOver n.val s)) := by
  have hnone : (frondOf (latePulse n.val (takenOver n.val s)) g).shifting = none := by
    rw [SameBut.frondOf_eq (l := [.outputs, .tiles]) (latePulse_frame (by decide) takenOver_frame), hs]
  refine (ifRuns_runs hr).trans ?_
  dsimp only
  split
  · next g' _ ho' =>
    cases ho.symm.trans ho'
    split
    · rfl
    · next r hsome => exact absurd (hnone.symm.trans hsome) nofun
  · next h => exact absurd ho (h g ht)

theorem takeover_yields {n : Fin 8} {g : Nat} (hr : runs .frond s = true) (ht : (tileOf s n.val).takeover = true)
    (ho : (tileOf s n.val).owner = some g) (hs : (frondOf s g).shifting = none) :
    Yields (.takeoverComplete n) s fun t => (tileOf t n.val).takeover = false ∧ (tileOf t n.val).tsyncBy = none
      ∧ (s.frm.inGap = true ∨ s.frm.started = false ∨ slicesDue s ≤ (tileOf s n.val).started →
          tileOf t n.val = { tileOf s n.val with takeover := false, tsyncBy := none }
            ∧ t.outputs = .tileBusRead n.val 0x52 0x1000 147456 :: s.outputs)
      ∧ (s.frm.inGap = false → s.frm.started = true → (tileOf s n.val).started < slicesDue s → (tileOf s n.val).enabled = true →
          (tileOf t n.val).slice = slicesDue s - 1 ∧ (tileOf t n.val).started = slicesDue s
            ∧ ∃ c, t.outputs = .tsync n.val c :: .tileBusRead n.val 0x52 0x1000 147456 :: s.outputs)
      ∧ (∀ m, m ≠ n.val → tileOf t m = tileOf s m) ∧ SameBut [.outputs, .tiles] s t := by
  have htile : tileOf (takenOver n.val s) n.val = { tileOf s n.val with takeover := false, tsyncBy := none } := by
    rw [takenOver_tile, if_pos rfl]
  have hdue : slicesDue (takenOver n.val s) = slicesDue s := takenOver_frame.slicesDue_eq
  have hfrm : (takenOver n.val s).frm = s.frm := takenOver_frame.frm_eq
  have houtputs : (takenOver n.val s).outputs = .tileBusRead n.val 0x52 0x1000 147456 :: s.outputs := rfl
  obtain ⟨htake, hsync⟩ := latePulse_owned (s := takenOver n.val s) (n := n.val)
  refine ⟨_, takeover_completes hr ht ho hs, htake.trans (by rw [htile]), hsync.trans (by rw [htile]), fun h => ?_,
    fun hg hst hlate hen => ?_, fun m hm => ?_, latePulse_frame (by decide) takenOver_frame⟩
  · rw [latePulse_none (by rw [hfrm, hdue, htile]; exact h)]
    exact ⟨htile, houtputs⟩
  · have hstarted : (tileOf (takenOver n.val s) n.val).started ≤ slicesDue s - 1 := by
      rw [htile]
      exact Nat.le_sub_one_of_lt hlate
    rw [latePulse_late (by rw [hfrm, hg]) (by rw [hfrm, hst]) (by rw [hdue, htile]; exact hlate), hdue]
    refine ⟨?_, ?_, _, (startSlice_outputs (by rw [htile]; exact hen) hstarted).trans (congrArg _ houtputs)⟩
    · rw [startSlice_tile hstarted]
    · rw [startSlice_tile hstarted]
      exact Nat.sub_add_cancel (Nat.one_le_of_lt hlate)
  · rw [latePulse_other hm, takenOver_tile, if_neg hm]

end Takeover

/-! ### Quarantine and reinstatement -/

section Quarantine
variable {s : State} {f g id code st : Nat} {d : Desc} {r : Role}

theorem fencedWrite_frond : frondOf (fencedWrite f s) g = if g = f then { frondOf s f with staleSeen := true } else frondOf s g := by
  unfold fencedWrite
  split
  · next h =>
    split
    · next hg => rw [hg, ← h]
    · rfl
  · rw [raise_frondOf, frondOf_putFrond]

/-- The first write fenced in a quarantine raises `FROND_STALE` (R320). -/
theorem fencedWrite_first (h : (frondOf s f).staleSeen = false) : Drives 210 (fencedWrite f s) := by
  rw [fencedWrite, if_neg (by simp [h])]
  exact raise_drives _ _

/-- A write of a quarantined Frond is counted and fenced (R320). -/
theorem frondStale_fences {f : Fin 9} {w : StaleWrite} (hr : runs .ring s = true) (hq : (frondOf s f.val).role = .quarantined) :
    exec (.frondStale f w) s = .next (fencedWrite f.val (putFrond s f.val { frondOf s f.val with
      staleCnt := satAdd (2 ^ 32 - 1) (frondOf s f.val).staleCnt 1 })) := by
  refine (ifRuns_runs hr).trans ?_
  dsimp only
  rw [when_, if_pos (decide_eq_true hq)]

theorem frondStale_yields {f : Fin 9} {w : StaleWrite} (hr : runs .ring s = true) (hq : (frondOf s f.val).role = .quarantined) :
    Yields (.frondStale f w) s fun t => frondOf t f.val = { frondOf s f.val with
        staleCnt := satAdd (2 ^ 32 - 1) (frondOf s f.val).staleCnt 1, staleSeen := true }
      ∧ ((frondOf s f.val).staleSeen = false → Drives 210 t) ∧ (∀ g, g ≠ f.val → frondOf t g = frondOf s g)
      ∧ SameBut [.strip, .faults] s t := by
  refine ⟨_, frondStale_fences hr hq, ?_, fun h => fencedWrite_first ?_, fun g hg => ?_,
    fencedWrite_frame (by decide) (putFrond_frame (by decide) .refl)⟩
  · rw [fencedWrite_frond, if_pos rfl, frondOf_putFrond, if_pos rfl]
  · rw [frondOf_putFrond, if_pos rfl]
    exact h
  · rw [fencedWrite_frond, if_neg hg, frondOf_putFrond, if_neg hg]

theorem frondReinstate_yields (hr : Runs s id 0x70 d) (hq : (frondOf s (le d.bytes 16 1)).role = .quarantined) :
    Yields (.frondReinstate id) s fun t =>
      frondOf t (le d.bytes 16 1) = { frondOf s (le d.bytes 16 1) with role := .selftest, reinstate := some id }
      ∧ descOf t id = some { d with taken := true } ∧ (∀ g, g ≠ le d.bytes 16 1 → frondOf t g = frondOf s g)
      ∧ SameBut [.rings, .strip] s t := by
  refine ⟨_, (runOp_runs hr).trans (congrArg _ (if_pos hq)), ?_, descOf_taken hr.desc, fun g hg => ?_,
    updDesc_frame (by decide) (putFrond_frame (by decide) .refl)⟩
  · exact (frondOf_putFrond s _ _ _).trans (if_pos rfl)
  · exact (frondOf_putFrond s _ _ _).trans (if_neg hg)

/-- A self-test that ends for a descriptor completes it (R321). -/
theorem endSelftest_eq (h : (frondOf s f).reinstate = some id) : endSelftest f code st r s = complete id st (toLe 4 code)
    (putFrond s f { frondOf s f with role := r, reinstate := none, selftest := code, misses := 0 }) := by
  unfold endSelftest
  dsimp only
  rw [h]

theorem endSelftest_frond (h : (frondOf s f).reinstate = some id) : frondOf (endSelftest f code st r s) g
    = if g = f then { frondOf s f with role := r, reinstate := none, selftest := code, misses := 0 } else frondOf s g := by
  rw [endSelftest_eq h, complete_frondOf, frondOf_putFrond]

theorem endSelftest_completed (h : (frondOf s f).reinstate = some id) (hd : descOf s id = some d) :
    Completed id d st (toLe 4 code) s (endSelftest f code st r s) := by
  rw [endSelftest_eq h]
  exact complete_completed hd rfl rfl

/-- A Frond that passes while every position has an owner becomes the spare (R321). -/
theorem selftestEnd_passes {f : Fin 9} (hr : runs .frond s = true) (hrole : (frondOf s f.val).role = .selftest)
    (hown : ∀ n, n < 8 → (tileOf s n).noOwner = false) : exec (.frondSelftestEnd f 1) s
      = .next (putFrond (endSelftest f.val 1 stOK .spare s) f.val { frondOf (endSelftest f.val 1 stOK .spare s) f.val with epoch := 0 }) := by
  have htile (m : Nat) : tileOf (endSelftest f.val 1 stOK .spare s) m = tileOf s m :=
    (endSelftest_frame (l := [.rings, .strip]) (by decide) .refl).tileOf_eq m
  refine (ifRuns_runs hr).trans ((if_neg (by simp [hrole])).trans ((if_pos rfl).trans ?_))
  dsimp only
  split
  · next n hn =>
    have hlt : n < 8 := List.mem_range.1 (List.mem_of_find?_eq_some hn)
    have hnone := List.find?_some hn
    rw [tileOf_putFrond, htile, hown n hlt] at hnone
    exact absurd hnone nofun
  · rfl

theorem selftestEnd_spare {f : Fin 9} (hr : runs .frond s = true) (hrole : (frondOf s f.val).role = .selftest)
    (hre : (frondOf s f.val).reinstate = some id) (hd : descOf s id = some d) (hown : ∀ n, n < 8 → (tileOf s n).noOwner = false) :
    Yields (.frondSelftestEnd f 1) s fun t => frondOf t f.val = { frondOf s f.val with
        role := .spare, epoch := 0, reinstate := none, selftest := 1, misses := 0 }
      ∧ Completed id d stOK (toLe 4 1) s t ∧ (∀ g, g ≠ f.val → frondOf t g = frondOf s g) ∧ SameBut [.rings, .strip] s t := by
  refine ⟨_, selftestEnd_passes hr hrole hown, ?_, endSelftest_completed hre hd, fun g hg => ?_,
    putFrond_frame (by decide) (endSelftest_frame (by decide) .refl)⟩
  · rw [frondOf_putFrond, if_pos rfl, endSelftest_frond hre, if_pos rfl]
  · rw [frondOf_putFrond, if_neg hg, endSelftest_frond hre, if_neg hg]

/-- A Frond that fails its self-test stays quarantined and is reported (R321 R330). -/
theorem selftestEnd_fails {f : Fin 9} (hr : runs .frond s = true) (hrole : (frondOf s f.val).role = .selftest) (h2 : 2 ≤ code)
    (h5 : code ≤ 5) :
    exec (.frondSelftestEnd f code) s = .next (raise (200 + f.val) (endSelftest f.val code stQUARANTINE .quarantined s)) := by
  refine (ifRuns_runs hr).trans ((if_neg ?_).trans (if_neg (by omega)))
  rintro (h | h | h)
  · exact h hrole
  · omega
  · omega

theorem selftestEnd_quarantine {f : Fin 9} (hr : runs .frond s = true) (hrole : (frondOf s f.val).role = .selftest)
    (hre : (frondOf s f.val).reinstate = some id) (hd : descOf s id = some d) (h2 : 2 ≤ code) (h5 : code ≤ 5) :
    Yields (.frondSelftestEnd f code) s fun t => frondOf t f.val = { frondOf s f.val with
        role := .quarantined, reinstate := none, selftest := code, misses := 0 }
      ∧ Completed id d stQUARANTINE (toLe 4 code) s t ∧ Drives (200 + f.val) t ∧ (∀ g, g ≠ f.val → frondOf t g = frondOf s g)
      ∧ SameBut [.rings, .strip, .faults] s t := by
  obtain ⟨hdone, hinflight⟩ := endSelftest_completed (code := code) (st := stQUARANTINE) (r := .quarantined) hre hd
  refine ⟨_, selftestEnd_fails hr hrole h2 h5, ?_, ⟨?_, ?_⟩, raise_drives _ _, fun g hg => ?_,
    raise_frame (by decide) (endSelftest_frame (by decide) .refl)⟩
  · rw [raise_frondOf, endSelftest_frond hre, if_pos rfl]
  · rw [raise_rings, hdone]
  · rw [raise_rings, hinflight]
  · rw [raise_frondOf, endSelftest_frond hre, if_neg hg]

end Quarantine

/-- Settles O29: a missing token is counted first, and then the role decides; a dead Frond is quarantined, and its position, at the
next epoch, goes to the spare or is left dark. -/
theorem spareFronds : Obligations.SpareFronds :=
  ⟨fun _ _ _ _ => heartbeat_active, fun _ _ _ _ => heartbeat_suspects, fun _ _ _ _ _ _ => heartbeat_replaces,
    fun _ _ _ _ _ => heartbeat_darkens, fun _ _ _ _ => heartbeat_losesSpare, fun _ _ _ => takeover_yields,
    fun _ _ _ => frondStale_yields, fun _ _ _ => frondReinstate_yields, fun _ _ _ _ => selftestEnd_spare,
    fun _ _ _ _ _ => selftestEnd_quarantine⟩

end Sys2Proof.Machine
end

section
/-! Division by largest remainders (R281 R283): the parts that gain one more unit are those whose remainder ranks below the number of
units left over, and each rank below the number of parts is that of exactly one part. -/

set_option autoImplicit false
-- One declaration after the other: the text as one file holds many.
set_option Elab.async false

namespace Sys2Proof.Machine

/-! ### The rank of a remainder -/

section Rank
variable {rem : List Nat} {left : Nat}

/-- The part of index j is served before that of index i: its remainder is the larger, or the same at a lower index (R283). -/
abbrev Precedes (rem : List Nat) (j i : Nat) : Prop := rem.getD i 0 < rem.getD j 0 ∨ (rem.getD j 0 = rem.getD i 0 ∧ j < i)

/-- How many parts are served before that of index i (R283). -/
def rankOf (rem : List Nat) (i : Nat) : Nat :=
  ((rem.mapIdx fun j x => (j, x)).filter fun e =>
    decide (rem.getD i 0 < e.2) || (decide (e.2 = rem.getD i 0) && decide (e.1 < i))).length

theorem rankOf_eq_card (i : Nat) : rankOf rem i = (Finset.univ.filter fun j : Fin rem.length => Precedes rem j i).card := by
  rw [rankOf, ← List.countP_eq_length_filter, List.mapIdx_eq_ofFn, List.ofFn_eq_map, List.countP_map]
  trans ((List.finRange rem.length).countP fun j : Fin rem.length => decide (Precedes rem j i))
  · refine List.countP_congr fun j _ => ?_
    simp
  · rw [List.countP_eq_length_filter]
    rfl

/-- Of two parts one is served before the other. -/
theorem Precedes.trichotomy (i j : Nat) : Precedes rem i j ∨ i = j ∨ Precedes rem j i := by
  unfold Precedes
  omega

theorem Precedes.trans {i j k : Nat} (h : Precedes rem i j) (h' : Precedes rem j k) : Precedes rem i k := by
  unfold Precedes at *
  omega

theorem Precedes.irrefl (i : Nat) : ¬ Precedes rem i i := by
  unfold Precedes
  omega

/-- Who is served before another ranks below it. -/
theorem rankOf_lt {i j : Fin rem.length} (h : Precedes rem i j) : rankOf rem i < rankOf rem j := by
  rw [rankOf_eq_card, rankOf_eq_card]
  refine Finset.card_lt_card ⟨fun k hk => ?_, fun hsub => ?_⟩
  · simp only [Finset.mem_filter, Finset.mem_univ, true_and] at hk ⊢
    exact hk.trans h
  · have hi := hsub (Finset.mem_filter.2 ⟨Finset.mem_univ i, h⟩)
    exact Precedes.irrefl _ (Finset.mem_filter.1 hi).2

theorem rankOf_lt_length (i : Fin rem.length) : rankOf rem i < rem.length := by
  rw [rankOf_eq_card]
  refine (Finset.card_lt_univ_of_notMem (x := i) fun hi => ?_).trans_eq (Fintype.card_fin _)
  exact Precedes.irrefl _ (Finset.mem_filter.1 hi).2

/-- The rank of a part, as one of the indices. -/
def rankFin (rem : List Nat) (i : Fin rem.length) : Fin rem.length := ⟨rankOf rem i, rankOf_lt_length i⟩

theorem rankFin_injective : Function.Injective (rankFin rem) := by
  intro i j h
  have heq : rankOf rem i = rankOf rem j := congrArg Fin.val h
  rcases Precedes.trichotomy (rem := rem) i j with hlt | hij | hlt
  · exact absurd (rankOf_lt hlt) (by omega)
  · exact Fin.ext hij
  · exact absurd (rankOf_lt hlt) (by omega)

/-- Every rank is taken by exactly one part, so that `left` parts rank below `left`. -/
theorem card_rankOf_lt {n : Nat} (hn : rem.length = n) (h : left ≤ n) :
    (Finset.univ.filter fun i : Fin n => rankOf rem i < left).card = left := by
  subst hn
  have hperm : Function.Bijective (rankFin rem) := Finite.injective_iff_bijective.1 rankFin_injective
  calc (Finset.univ.filter fun i : Fin rem.length => rankOf rem i < left).card
      = (Finset.univ.filter fun r : Fin rem.length => r.val < left).card :=
        Finset.card_equiv (Equiv.ofBijective _ hperm) fun i => by simp [rankFin]
    _ = left := by rw [Fin.card_filter_val_lt, min_eq_right h]

end Rank

/-! ### Shares rounded down -/

section Shares
variable {total sum : Nat} {ws : List Nat}

/-- The shares rounded down and the remainders make up the total times the sum of the weights. -/
theorem shares_sum : sum * (ws.map fun w => total * w / sum).sum + (ws.map fun w => total * w % sum).sum = total * ws.sum := by
  induction ws with
  | nil => simp
  | cons w ws ih =>
    have hw := Nat.div_add_mod (total * w) sum
    simp only [List.map_cons, List.sum_cons, Nat.mul_add]
    omega

/-- Units that the shares rounded down leave over. -/
def leftOf (total : Nat) (ws : List Nat) : Nat := total - (ws.map fun w => total * w / ws.sum).sum

/-- No more units are left over than there are parts (R283). -/
theorem shares_left (h : 0 < ws.sum) : leftOf total ws ≤ ws.length
    ∧ (ws.map fun w => total * w / ws.sum).sum + leftOf total ws = total := by
  have hshares := shares_sum (total := total) (sum := ws.sum) (ws := ws)
  have hrem : (ws.map fun w => total * w % ws.sum).sum ≤ ws.length * ws.sum := by
    have hcard := List.sum_le_card_nsmul (ws.map fun w => total * w % ws.sum) ws.sum fun x hx => by
      obtain ⟨w, -, rfl⟩ := List.mem_map.1 hx
      exact (Nat.mod_lt _ h).le
    rwa [List.length_map, smul_eq_mul] at hcard
  have hle : (ws.map fun w => total * w / ws.sum).sum ≤ total :=
    Nat.le_of_mul_le_mul_left (by rw [Nat.mul_comm ws.sum total]; omega) h
  refine ⟨Nat.le_of_mul_le_mul_left ?_ h, Nat.add_sub_cancel' hle⟩
  rw [leftOf, Nat.mul_sub, Nat.mul_comm ws.sum total, Nat.mul_comm ws.sum ws.length]
  omega

end Shares

/-! ### The parts -/

section Parts
variable {total i : Nat} {ws : List Nat}

/-- Equal weights where every weight is 0 (R283). -/
def weightsOf (ws : List Nat) : List Nat := if ws.sum = 0 then ws.map fun _ => 1 else ws

/-- The remainders of the shares. -/
def remsOf (total : Nat) (ws : List Nat) : List Nat := ws.map fun w => total * w % ws.sum

/-- Each part is its share rounded down, and one unit more if it ranks below the units left over (R283). -/
theorem divide_eq : divide total ws = ((weightsOf ws).map fun w => total * w / (weightsOf ws).sum).mapIdx fun i v =>
    if rankOf (remsOf total (weightsOf ws)) i < leftOf total (weightsOf ws) then v + 1 else v := rfl

theorem weightsOf_length : (weightsOf ws).length = ws.length := by
  unfold weightsOf
  split
  · exact List.length_map _
  · rfl

theorem weightsOf_pos (h : ws ≠ []) : 0 < (weightsOf ws).sum := by
  unfold weightsOf
  split
  · simpa using List.length_pos_of_ne_nil h
  · omega

theorem divide_length : (divide total ws).length = ws.length := by
  rw [divide_eq, List.length_mapIdx, List.length_map, weightsOf_length]

/-- A list some of whose entries are raised by one sums to as much more as there are such entries. -/
theorem sum_mapIdx_succ {l : List Nat} {p : Nat → Prop} [DecidablePred p] :
    (l.mapIdx fun i v => if p i then v + 1 else v).sum = l.sum + (Finset.univ.filter fun i : Fin l.length => p i).card := by
  have hsplit (i v : Nat) : (if p i then v + 1 else v) = v + if p i then 1 else 0 := by
    split <;> rfl
  rw [funext₂ hsplit, List.mapIdx_eq_ofFn, List.sum_ofFn, Finset.sum_add_distrib, Finset.card_filter, ← Fin.sum_univ_getElem]
  rfl

theorem divide_sum (h : ws ≠ []) : (divide total ws).sum = total := by
  obtain ⟨hle, hsum⟩ := shares_left (total := total) (weightsOf_pos h)
  have hlen : ((weightsOf ws).map fun w => total * w / (weightsOf ws).sum).length = (weightsOf ws).length := List.length_map _
  rw [divide_eq, sum_mapIdx_succ, card_rankOf_lt (by simp [remsOf]) (hle.trans_eq hlen.symm), hsum]

/-- Each part is its exact share rounded down or up (R283). -/
theorem divide_rounds (h : i < ws.length) :
    total * (weightsOf ws).getD i 0 / (weightsOf ws).sum ≤ (divide total ws).getD i 0
      ∧ (divide total ws).getD i 0 ≤ total * (weightsOf ws).getD i 0 / (weightsOf ws).sum + 1 := by
  have hw : i < (weightsOf ws).length := by rwa [weightsOf_length]
  rw [divide_eq, List.getD_eq_getElem _ _ hw, List.getD_eq_getElem _ _ (by simpa using hw), List.getElem_mapIdx, List.getElem_map]
  split
  · exact ⟨Nat.le_succ _, Nat.le_refl _⟩
  · exact ⟨Nat.le_refl _, Nat.le_succ _⟩

end Parts

/-- Settles O59: the shares rounded down fall short by no more units than there are parts, and as many parts as there are units left
over rank below that number. -/
theorem divisionIsExact : Obligations.DivisionIsExact := by
  intro total ws h
  refine ⟨divide_sum h, divide_length, fun i hi => ⟨fun hs => ?_, fun hs => ?_⟩⟩
  · have hrounds := divide_rounds (total := total) hi
    rwa [weightsOf, if_neg hs] at hrounds
  · have hrounds := divide_rounds (total := total) hi
    have hone : (ws.map fun _ => 1).getD i 0 = 1 := by simp [hi]
    have hsum : (ws.map fun _ => 1).sum = ws.length := by simp
    rwa [weightsOf, if_pos hs, hone, hsum, Nat.mul_one] at hrounds

end Sys2Proof.Machine
end

section
/-! Tile positions: what the shared operations on tiles write of one position and leave of the others; tiles that come, go, alert and
are retried (R261 R262 R264 R269 R281 R286). -/

set_option autoImplicit false
-- One declaration after the other: the text as one file holds many.
set_option Elab.async false

namespace Sys2Proof.Machine

/-! ### The table of tiles -/

section Table
variable {s t : State} {n m : Nat} {ok all : Bool} {f : Tiles → Tiles}

/-- What is read of a tile is a matter of the table of tiles alone. -/
theorem tileOf_congr (h : t.tiles.tiles = s.tiles.tiles) : tileOf t m = tileOf s m := by
  unfold tileOf
  rw [h]

theorem tileOf_onTiles (h : ∀ k, (f k).tiles = k.tiles) : tileOf (onTiles f s) m = tileOf s m := tileOf_congr (h s.tiles)

theorem tileOf_completeAll {st : Nat} {l : List Nat} : tileOf (completeAll st l s) m = tileOf s m :=
  (completeAll_frame (l := [.rings]) (by decide) .refl).tileOf_eq m

/-- The reports that go out write of the tiles only whether a periodic commit is under way (R279 R487). -/
theorem flushReport_tiles : (flushReport s).tiles = { s.tiles with periodic := (flushReport s).tiles.periodic } := by
  unfold flushReport
  extract_lets _ u
  rw [(sendReports_frame (l := [.chain]) (by decide) .refl).tiles_eq, onChain_tiles]
  unfold u
  split
  · rfl
  · rfl

theorem flushReport_tileOf : tileOf (flushReport s) m = tileOf s m := tileOf_congr (by rw [flushReport_tiles])

/-- The `LEDGER_COMMIT`s that end write of the tiles only who still waits (R288). -/
theorem finishWaits_tiles {l : List CommitWait} :
    (finishWaits l s).tiles = { s.tiles with waits := (finishWaits l s).tiles.waits } := by
  induction l generalizing s with
  | nil => rfl
  | cons w l ih =>
    rw [finishWaits, ih]
    split
    · rw [complete_tiles]
      rfl
    · rfl

theorem endWaits_tiles : (endWaits n ok all s).tiles = { s.tiles with waits := (endWaits n ok all s).tiles.waits } := by
  unfold endWaits
  extract_lets u
  rw [finishWaits_tiles]
  rfl

theorem endWaits_tileOf : tileOf (endWaits n ok all s) m = tileOf s m := tileOf_congr (by rw [endWaits_tiles])

end Table

/-! ### Strips and Fronds of a position -/

section Strips
variable {s : State} {n j k g f : Nat}

/-- The strips of a tile whose comparison is dropped await none (R235). -/
theorem dropChecks_strip : stripOf (dropChecks n j s) k
    = if 24 * n ≤ k ∧ k < 24 * n + j then { stripOf s k with held := false } else stripOf s k :=
  stripOf_in_turn (F := dropChecks n) (h := fun _ st => { st with held := false }) (fun _ _ => rfl)
    (fun i s k => by
      rw [dropChecks, stripOf_putStrip]
      split
      · next hk => rw [hk]
      · rfl) j s k

theorem dropChecks_frond : frondOf (dropChecks n j s) g = frondOf s g := by
  induction j with
  | zero => rfl
  | succ j ih => exact ih

/-- A Frond that serves a position does no more there (R264). -/
theorem stopShift_stops (h : serving s n = some f) :
    (frondOf (stopShift n s) f).shifting = none ∧ (frondOf (stopShift n s) f).decide = false := by
  unfold stopShift
  rw [h, frondOf_putFrond, if_pos rfl]
  exact ⟨rfl, rfl⟩

theorem cancelRepay_serving : serving (cancelRepay n s) k = serving s k := by
  unfold serving
  rw [cancelRepay_tile]

end Strips

/-! ### What the identity steps write of a tile -/

section Steps
variable {s : State} {n m k : Nat} {ok rescan : Bool} {h : Header} {l : List Event}

/-- The presence of a tile is told of behind the events that wait (R289). -/
theorem postPresence_told {kind serial : Nat} :
    ∃ e : Event, (postPresence n kind serial s).rings.events = s.rings.events ++ [e] ∧ e.typ = 4 ∧ e.arg0 = kind * 256 + n :=
  ⟨_, rfl, rfl, rfl⟩

theorem completeAll_events {st : Nat} {ids : List Nat} : (completeAll st ids s).rings.events = s.rings.events := by
  induction ids generalizing s with
  | nil => rfl
  | cons id ids ih =>
    rw [completeAll, ih]
    unfold complete
    split
    · rfl
    · rfl

/-- A tile that is read again from its header on (R269 R290). -/
def readAfresh (rescan : Bool) (t : Tile) : Tile :=
  { t with phase := .header, rescan, mapOk := false, curveOk := false, cert := .pending, orphan := rescan && t.orphan, composed := false
           baseKnown := false, attempts := 0 }

theorem startRead1_tile : tileOf (startRead1 n rescan s) m = if m = n then readAfresh rescan (tileOf s n) else tileOf s m := by
  rw [startRead1, emit_tileOf, tileOf_updTile]
  rfl

theorem startRead1_outputs : (startRead1 n rescan s).outputs = .tileBusRead n 0x52 0 256 :: s.outputs := rfl

/-- A header has failed: the tile is dark, with neither a header nor a step awaited, which is reported (R264 R265 R269). -/
def headerDropped (n : Nat) (s : State) : State :=
  raise (424 + n) (updTile n (fun t => { t with header := none, phase := .none }) (darken n s))

/-- What follows a failed header stays in the ring engine (R269 R289). -/
theorem headerBad_rest : SameBut [.rings] (headerDropped n s) (headerBad n s) :=
  completeAll_frame (by decide) (postPresence_frame (by decide) .refl)

theorem headerBad_tile : tileOf (headerBad n s) n = { tileOf (darken n s) n with header := none, phase := .none } := by
  rw [headerBad_rest.tileOf_eq, headerDropped, raise_tileOf, tileOf_updTile, if_pos rfl]

theorem headerBad_other (hm : m ≠ n) : tileOf (headerBad n s) m = tileOf s m := by
  rw [headerBad_rest.tileOf_eq, headerDropped, raise_tileOf, tileOf_updTile, if_neg hm, darken_other hm]

/-- A tile whose header has failed is told of as one that cannot be identified (R289). -/
theorem headerBad_told (hs : s.rings.events = l) :
    ∃ e : Event, (headerBad n s).rings.events = l ++ [e] ∧ e.typ = 4 ∧ e.arg0 = 4 * 256 + n := by
  have hdark : (headerDropped n s).rings.events = l := by
    rw [headerDropped, raise_rings, (updTile_frame (l := [.strip, .tiles]) (by decide) (darken_frame (by decide) .refl)).rings_eq, hs]
  obtain ⟨e, hevents, htyp, harg⟩ := postPresence_told (n := n) (kind := 4) (serial := readSerial (tileOf (headerDropped n s) n))
    (s := headerDropped n s)
  exact ⟨e, completeAll_events.trans (hevents.trans (by rw [hdark])), htyp, harg⟩

theorem headerBad_drives : Drives (424 + n) (headerBad n s) :=
  Drives.of_frame (s := headerDropped n s) (raise_drives _ _) headerBad_rest

theorem Drives.after_headerBad (hk : Drives k s) : Drives k (headerBad n s) :=
  Drives.of_frame (s := headerDropped n s)
    (hk.of_frame (updTile_frame (l := [.strip, .tiles]) (by decide) (darken_frame (by decide) .refl))).after_raise headerBad_rest

theorem readHeads_tile : tileOf (readHeads n s) m = if m = n then { tileOf s n with phase := .heads } else tileOf s m := by
  rw [readHeads, emit_tileOf, emit_tileOf, tileOf_updTile]

/-- The certificate of a tile is judged, and its map is read next (R269 R271). -/
def certJudged (n : Nat) (ok : Bool) (s : State) : State :=
  emit (.tileBusRead n 0x52 0x1000 147456)
    (updTile n (fun t => { t with cert := if ok then .verified else .failed, phase := .map }) s)

theorem endCert_eq : endCert n ok s = if ok then certJudged n ok s else raise (416 + n) (certJudged n ok s) := rfl

theorem endCert_tile : tileOf (endCert n ok s) m
    = if m = n then { tileOf s n with cert := if ok then .verified else .failed, phase := .map } else tileOf s m := by
  have hjudged : tileOf (certJudged n ok s) m = _ := (emit_tileOf _ _ m).trans (tileOf_updTile s n m _)
  rw [endCert_eq, apply_ite (tileOf · m), raise_tileOf, ite_self, hjudged]

theorem endCert_outputs : (endCert n ok s).outputs = .tileBusRead n 0x52 0x1000 147456 :: s.outputs := by
  rw [endCert_eq, apply_ite State.outputs, raise_outputs, ite_self]
  rfl

/-- A tile whose certificate or challenge fails is reported (R271). -/
theorem endCert_drives : Drives (416 + n) (endCert n false s) := raise_drives _ _

theorem Drives.after_endCert (hk : Drives k s) : Drives k (endCert n ok s) := by
  have hjudged : Drives k (certJudged n ok s) := hk
  rw [endCert_eq]
  split
  · exact hjudged
  · exact hjudged.after_raise

theorem postEol_tiles {serial reason block : Nat} :
    (postEol n serial reason block s).tiles = { s.tiles with eolPosted := (postEol n serial reason block s).tiles.eolPosted } := by
  unfold postEol
  split
  · rfl
  · dsimp only
    rw [raise_tiles, postEvent_tiles]
    rfl

theorem Drives.after_postEol {serial reason block : Nat} (hk : Drives k s) : Drives k (postEol n serial reason block s) := by
  unfold postEol
  split
  · exact hk
  · exact Drives.after_raise (s := postEvent 5 _ _ _ _) hk

theorem postEol_tileOf {serial reason block : Nat} : tileOf (postEol n serial reason block s) m = tileOf s m :=
  tileOf_congr (by rw [postEol_tiles])

end Steps

end Sys2Proof.Machine
end

section
/-! Gains and commits of a tile's ledger: what each of the shared operations writes (R273 R274 R275 R276 R278 R286 R288). -/

set_option autoImplicit false
-- One declaration after the other: the text as one file holds many.
set_option Elab.async false

namespace Sys2Proof.Machine

/-! ### Gains -/

section Gains
variable {s : State} {n m k : Nat} {h : Header}

/-- The gains of a tile's blocks (R273). -/
def gainsDue (t : Tile) : List Nat :=
  (List.range blocks_).map fun b => if t.curveOk then (gainOf t.curve (charge t b / 2 ^ 32)).1 else 32768

/-- Gain and end of life of each block (R273 R275). -/
def blockGains (t : Tile) : List (Nat × Bool) :=
  if t.curveOk then (List.range blocks_).map fun b => gainOf t.curve (charge t b / 2 ^ 32) else List.replicate blocks_ (32768, false)

/-- A tile with its two counts of blocks at their end of life (R275). -/
def blocksCounted (eol rated : List Nat) (t : Tile) : Tile := { t with eolBlocks := eol.length, ratedBlocks := rated.length }

/-- Gains wait for the flip gate (R274). -/
def gainsSent (n : Nat) (gs : List Nat) (s : State) : State :=
  { s with cmp := { s.cmp with gate := s.cmp.gate ++ [(true, .gains n gs)] } }

/-- Without a curve every gain is 1.0 (R269). -/
theorem blockGains_fst {t : Tile} : (blockGains t).map (fun g => g.1) = gainsDue t := by
  unfold blockGains gainsDue
  generalize blocks_ = j
  split
  · rw [List.map_map]
    rfl
  · rw [List.map_replicate, List.map_const', List.length_range]

theorem postEol_cmp {serial reason block : Nat} : (postEol n serial reason block s).cmp = s.cmp :=
  (postEol_frame (l := [.rings, .tiles, .faults, .chain]) (by decide) .refl).cmp_eq

/-- The gains of a tile are sent, and its blocks at their end of life have been counted and told of (R273 R274 R275). -/
theorem computeGains_eq (hh : (tileOf s n).header = some h) : ∃ (eol rated : List Nat) (u : State),
    computeGains n s = gainsSent n (gainsDue (tileOf s n)) u ∧ u.cmp = s.cmp
      ∧ (∀ k, Drives k s → Drives k u) ∧ ∀ m, tileOf u m = if m = n then blocksCounted eol rated (tileOf s n) else tileOf s m := by
  rw [← blockGains_fst]
  unfold computeGains blockGains
  generalize blocks_ = j
  -- A lemma of its own for every number of blocks: with the number fixed the check would evaluate the lists of all blocks.
  as_aux_lemma =>
    extract_lets t
    split
    · next hnone => exact absurd (hh.symm.trans hnone) nofun
    · next q gs eol _ h' hsome =>
      extract_lets rated u v w
      have hu (m : Nat) : tileOf u m = if m = n then blocksCounted eol rated t else tileOf s m := tileOf_putTile s n m _
      have hv : v.cmp = u.cmp ∧ (∀ k, Drives k u → Drives k v) ∧ ∀ m, tileOf v m = tileOf u m := by
        unfold v
        split
        · exact ⟨postEol_cmp, fun _ => .after_postEol, fun _ => postEol_tileOf⟩
        · exact ⟨rfl, fun _ => id, fun _ => rfl⟩
      have hw : w.cmp = v.cmp ∧ (∀ k, Drives k v → Drives k w) ∧ ∀ m, tileOf w m = tileOf v m := by
        unfold w
        split
        · exact ⟨postEol_cmp, fun _ => .after_postEol, fun _ => postEol_tileOf⟩
        · exact ⟨rfl, fun _ => id, fun _ => rfl⟩
      obtain ⟨hvcmp, hvdrives, hvtile⟩ := hv
      obtain ⟨hwcmp, hwdrives, hwtile⟩ := hw
      exact ⟨eol, rated, w, rfl, hwcmp.trans hvcmp, fun k hk => hwdrives k (hvdrives k hk),
        fun m => (hwtile m).trans ((hvtile m).trans (hu m))⟩

theorem computeGains_headerless (hh : (tileOf s n).header = none) : computeGains n s = s := by
  simp only [computeGains, hh]

theorem computeGains_counted (hh : (tileOf s n).header = some h) : ∃ eol rated : List Nat,
    ∀ m, tileOf (computeGains n s) m = if m = n then blocksCounted eol rated (tileOf s n) else tileOf s m := by
  obtain ⟨eol, rated, u, heq, -, -, htile⟩ := computeGains_eq hh
  exact ⟨eol, rated, fun m => (congrArg (tileOf · m) heq).trans (htile m)⟩

/-- The gains of a tile write of it only its counts of blocks at their end of life (R275). -/
theorem computeGains_tile : tileOf (computeGains n s) m = { tileOf s m with
    eolBlocks := (tileOf (computeGains n s) m).eolBlocks, ratedBlocks := (tileOf (computeGains n s) m).ratedBlocks } := by
  cases hh : (tileOf s n).header with
  | none => rw [computeGains_headerless hh]
  | some h =>
    obtain ⟨eol, rated, htile⟩ := computeGains_counted hh
    rw [htile]
    split
    · next hm => rw [hm]; rfl
    · rfl

theorem computeGains_other (hm : m ≠ n) : tileOf (computeGains n s) m = tileOf s m := by
  cases hh : (tileOf s n).header with
  | none => rw [computeGains_headerless hh]
  | some h =>
    obtain ⟨eol, rated, htile⟩ := computeGains_counted hh
    rw [htile, if_neg hm]

theorem computeGains_gate (hh : (tileOf s n).header = some h) :
    (computeGains n s).cmp.gate = s.cmp.gate ++ [(true, .gains n (gainsDue (tileOf s n)))] := by
  obtain ⟨eol, rated, u, heq, hcmp, -, -⟩ := computeGains_eq hh
  rw [heq, gainsSent, hcmp]

theorem Drives.after_computeGains (hk : Drives k s) : Drives k (computeGains n s) := by
  cases hh : (tileOf s n).header with
  | none => rwa [computeGains_headerless hh]
  | some h =>
    obtain ⟨eol, rated, u, heq, -, hdrives, -⟩ := computeGains_eq hh
    rw [heq]
    exact hdrives k hk

/-- What waits at the flip gate goes on waiting (R274). -/
theorem computeGains_waits {g : Bool × GateItem} (hg : g ∈ s.cmp.gate) : g ∈ (computeGains n s).cmp.gate := by
  cases hh : (tileOf s n).header with
  | none => rwa [computeGains_headerless hh]
  | some h =>
    rw [computeGains_gate hh]
    exact List.mem_append_left _ hg

end Gains

/-! ### A tile that becomes ready -/

section Ready
variable {s : State} {n m : Nat}

/-- What a tile's map says to the flip gate: it is in force, or it is off (R270). -/
def mapItem (n : Nat) (t : Tile) : GateItem := if t.mapOk then .map n t.mapRead else .mapOff n

/-- The tile's map waits at the flip gate (R270). -/
def mapSent (n : Nat) (s : State) : State :=
  { s with
    tiles := { s.tiles with tiles := Tab.put s.tiles.tiles n { tileOf s n with phase := .ready } }
    cmp := { s.cmp with gate := s.cmp.gate ++ [(true, mapItem n (tileOf s n))] } }

theorem mapSent_tile : tileOf (mapSent n s) m = if m = n then { tileOf s n with phase := .ready } else tileOf s m :=
  tileOf_putTile s n m _

/-- What follows the gains of a tile that becomes ready stays in the ring engine (R270). -/
theorem tileReady_frame_gains : SameBut [.rings] (computeGains n (mapSent n s)) (tileReady n s) :=
  completeAll_frame (by decide) (postPresence_frame (by decide) .refl)

/-- A tile becomes ready: but for the counts of its blocks nothing else of it changes (R270 R275). -/
theorem tileReady_tile : tileOf (tileReady n s) n = { tileOf s n with
    phase := .ready, eolBlocks := (tileOf (tileReady n s) n).eolBlocks, ratedBlocks := (tileOf (tileReady n s) n).ratedBlocks } := by
  rw [tileReady_frame_gains.tileOf_eq, computeGains_tile, mapSent_tile, if_pos rfl]

theorem tileReady_other (hm : m ≠ n) : tileOf (tileReady n s) m = tileOf s m := by
  rw [tileReady_frame_gains.tileOf_eq, computeGains_other hm, mapSent_tile, if_neg hm]

theorem Drives.after_tileReady {k : Nat} (hk : Drives k s) : Drives k (tileReady n s) :=
  Drives.of_frame (Drives.after_computeGains (s := mapSent n s) hk) tileReady_frame_gains

/-- The map of a tile that becomes ready waits at the flip gate (R270). -/
theorem tileReady_gate : (true, mapItem n (tileOf s n)) ∈ (tileReady n s).cmp.gate := by
  rw [tileReady_frame_gains.cmp_eq]
  exact computeGains_waits (List.mem_append_right _ (List.mem_singleton_self _))

end Ready

/-! ### The end of a commit -/

section Commits
variable {s : State} {n m k : Nat} {ok good : Bool} {c : Commit}

/-- The commit that runs is the final one of a release (R286). -/
def commitFinal (t : Tile) : Bool := match t.commit with | some c => c.final | none => false

/-- A tile whose release ends (R286). -/
def releaseDone (t : Tile) : Tile := { t with released := t.released || t.releasing, releasing := false }

theorem endRelease_tile : tileOf (endRelease n ok s) m = if m = n then releaseDone (tileOf s n) else tileOf s m := by
  rw [endRelease, tileOf_completeAll, tileOf_updTile]
  rfl

/-- How the commit of a tile went is recorded, and none runs (R278). -/
def commitRecorded (n : Nat) (ok : Bool) (s : State) : State :=
  onTiles (fun k => { k with committing := none, failed := putBit k.failed n (!ok) })
    (putTile s n { tileOf s n with commit := none, commitFailed := !ok })

/-- A commit is over: a failure is reported, and who waited for it has it (R278 R288). -/
def commitOver (n : Nat) (ok : Bool) (s : State) : State :=
  endWaits n ok false (if ok then commitRecorded n ok s else raise 461 (commitRecorded n ok s))

theorem endCommit_eq : endCommit n ok s
    = if commitFinal (tileOf s n) then endRelease n ok (commitOver n ok s) else commitOver n ok s := rfl

theorem commitRecorded_tile : tileOf (commitRecorded n ok s) m
    = if m = n then { tileOf s n with commit := none, commitFailed := !ok } else tileOf s m :=
  (tileOf_onTiles fun _ => rfl).trans (tileOf_putTile s n m _)

theorem commitOver_tile : tileOf (commitOver n ok s) m
    = if m = n then { tileOf s n with commit := none, commitFailed := !ok } else tileOf s m := by
  rw [commitOver, endWaits_tileOf, ← commitRecorded_tile]
  split
  · rfl
  · rw [raise_tileOf]

theorem commitOver_committing : (commitOver n ok s).tiles.committing = none := by
  rw [commitOver, endWaits_tiles]
  split
  · rfl
  · rw [raise_tiles]
    rfl

/-- A commit that fails is reported (R278). -/
theorem commitOver_drives : Drives 461 (commitOver n false s) :=
  Drives.of_frame (s := raise 461 (commitRecorded n false s)) (raise_drives _ _)
    (endWaits_frame (l := [.rings, .tiles]) (by decide) .refl)

/-- A tile whose commit has ended (R278 R286). -/
def commitEnded (ok : Bool) (t : Tile) : Tile :=
  if commitFinal t then releaseDone { t with commit := none, commitFailed := !ok } else { t with commit := none, commitFailed := !ok }

theorem endCommit_tile : tileOf (endCommit n ok s) m = if m = n then commitEnded ok (tileOf s n) else tileOf s m := by
  rw [endCommit_eq, commitEnded]
  split
  · rw [endRelease_tile, commitOver_tile, commitOver_tile, if_pos rfl]
    split
    · rfl
    · rfl
  · exact commitOver_tile

theorem endCommit_committing : (endCommit n ok s).tiles.committing = none := by
  rw [endCommit_eq]
  split
  · rw [endRelease, (completeAll_frame (l := [.rings]) (by decide) .refl).tiles_eq]
    exact commitOver_committing
  · exact commitOver_committing

theorem endCommit_drives : Drives 461 (endCommit n false s) := by
  rw [endCommit_eq]
  split
  · exact commitOver_drives.of_frame (endRelease_frame (l := [.rings, .tiles]) (by decide) .refl)
  · exact commitOver_drives

theorem Drives.after_commitOver (hk : Drives k s) : Drives k (commitOver n ok s) := by
  have hrecorded : Drives k (commitRecorded n ok s) := hk
  refine Drives.of_frame ?_ (endWaits_frame (l := [.rings, .tiles]) (by decide) .refl)
  split
  · exact hrecorded
  · exact hrecorded.after_raise

theorem Drives.after_endCommit (hk : Drives k s) : Drives k (endCommit n ok s) := by
  rw [endCommit_eq]
  split
  · exact hk.after_commitOver.of_frame (endRelease_frame (l := [.rings, .tiles]) (by decide) .refl)
  · exact hk.after_commitOver

/-- A tile that holds what a good copy carries: T_b is the copy's, and the snapshot has left P_b (R278). -/
def committed (c : Commit) (t : Tile) : Tile :=
  { t with
    t := c.entries, p := (t.p.map fun e => (e.1, e.2 - Tab.get 0 c.snap e.1)).filter fun e => e.2 != 0
    gen := c.gen, time := c.time
    copyA := if c.toA then some { gen := c.gen, time := c.time, entries := c.entries } else t.copyA
    copyB := if c.toA then t.copyB else some { gen := c.gen, time := c.time, entries := c.entries } }

theorem judgeCommit_good (hc : (tileOf s n).commit = some c) :
    judgeCommit n true s = endCommit n true (putTile s n (committed c (tileOf s n))) := by
  unfold judgeCommit
  extract_lets t
  split
  · next c' hsome =>
    cases hc.symm.trans hsome
    rfl
  · next hnone => exact absurd (hc.symm.trans hnone) nofun

/-- A bad read-back repeats the commit once, and then fails it (R278). -/
theorem judgeCommit_bad (hc : (tileOf s n).commit = some c) : judgeCommit n false s
    = if c.repeated then endCommit n false s
      else writeCopy n c (putTile s n { tileOf s n with commit := some { c with repeated := true } }) := by
  unfold judgeCommit
  extract_lets t
  split
  · next c' hsome =>
    cases hc.symm.trans hsome
    rfl
  · next hnone => exact absurd (hc.symm.trans hnone) nofun

theorem judgeCommit_none {good : Bool} (hc : (tileOf s n).commit = none) : judgeCommit n good s = s := by
  simp only [judgeCommit, hc]

/-- What a commit takes from P_b: the entries of the snapshot, and those that are 0 then are dropped (R278). -/
theorem mem_committed_p {t : Tile} {x v : Nat} :
    (x, v) ∈ (committed c t).p ↔ v ≠ 0 ∧ ∃ w, (x, w) ∈ t.p ∧ v = w - Tab.get 0 c.snap x := by
  simp only [committed, List.mem_filter, List.mem_map, Prod.exists, Prod.mk.injEq, bne_iff_ne]
  constructor
  · rintro ⟨⟨y, w, hw, rfl, rfl⟩, hv⟩
    exact ⟨hv, w, hw, rfl⟩
  · rintro ⟨hv, w, hw, rfl⟩
    exact ⟨⟨x, w, hw, rfl, rfl⟩, hv⟩

end Commits

/-! ### Commits that are requested, and that start -/

section Requests
variable {s : State} {n m j k : Nat}

/-- A tile whose commit is requested (R278). -/
abbrev commitAsked (t : Tile) : Tile := { t with commitReq := true }

/-- The positions of a mask whose commit can be requested (R279 R288). -/
abbrev Askable (s : State) (m j : Nat) : Prop := m.testBit j ∧ (tileOf s j).present ∧ (tileOf s j).phase = .ready

theorem requestCommits_tile : tileOf (requestCommits m k s).1 j
    = if j < k ∧ Askable s m j then commitAsked (tileOf s j) else tileOf s j := by
  induction k generalizing j with
  | zero => rw [if_neg fun h => Nat.not_lt_zero j h.1]; rfl
  | succ k ih =>
    have hk : tileOf (requestCommits m k s).1 k = tileOf s k := ih.trans (if_neg fun h => lt_irrefl k h.1)
    unfold requestCommits
    dsimp only
    rw [hk]
    by_cases hj : j = k
    · subst hj
      split
      · next h => rw [tileOf_updTile, if_pos rfl, hk, if_pos ⟨j.lt_succ_self, h⟩]
      · next h => rw [hk, if_neg fun ha => h ha.2]
    · have hlt : j < k + 1 ∧ Askable s m j ↔ j < k ∧ Askable s m j := and_congr_left fun _ => by omega
      rw [if_congr hlt rfl rfl, ← ih]
      split
      · rw [tileOf_updTile, if_neg hj]
      · rfl

/-- The mask of the commits requested (R288). -/
theorem requestCommits_mask : (requestCommits m k s).2.testBit j = decide (j < k ∧ Askable s m j) := by
  induction k with
  | zero => simp [requestCommits]
  | succ k ih =>
    have hk : tileOf (requestCommits m k s).1 k = tileOf s k := requestCommits_tile.trans (if_neg fun h => lt_irrefl k h.1)
    have hor : (j < k + 1 ∧ Askable s m j) ↔ (j < k ∧ Askable s m j) ∨ (k = j ∧ Askable s m k) := by
      constructor
      · rintro ⟨hlt, ha⟩
        rcases Nat.lt_succ_iff_lt_or_eq.1 hlt with h | rfl
        · exact .inl ⟨h, ha⟩
        · exact .inr ⟨rfl, ha⟩
      · rintro (⟨hlt, ha⟩ | ⟨rfl, ha⟩)
        · exact ⟨by omega, ha⟩
        · exact ⟨k.lt_succ_self, ha⟩
    unfold requestCommits
    dsimp only
    rw [hk, decide_eq_decide.2 hor, Bool.decide_or, ← ih]
    split
    · next h => rw [Nat.testBit_or, Nat.testBit_two_pow, decide_eq_decide.2 (and_iff_left h)]
    · next h => rw [decide_eq_false fun ha => h ha.2, Bool.or_false]

/-- The commit of a tile has begun: its copy goes out, and those who wait for it are armed (R278 R288). -/
def commitBegun (n : Nat) (c : Commit) (s : State) : State :=
  writeCopy n c (onTiles (fun k => { k with
    committing := some n
    waits := k.waits.map fun w => if w.tiles.testBit n then { w with armed := w.armed ||| 2 ^ n } else w })
      (putTile s n { tileOf s n with commit := some c, commitReq := false }))

theorem startCommit_cases : startCommit n s = s ∨ ∃ c, startCommit n s = commitBegun n c s := by
  unfold startCommit
  extract_lets t
  split
  · exact .inl rfl
  · exact .inr ⟨_, rfl⟩

theorem commitBegun_tile {c : Commit} : tileOf (commitBegun n c s) m
    = if m = n then { tileOf s n with commit := some c, commitReq := false } else tileOf s m :=
  (tileOf_onTiles fun _ => rfl).trans (tileOf_putTile s n m _)

/-- A commit that starts writes of a tile only that it runs (R278). -/
theorem startCommit_leaves : tileOf (startCommit n s) m = { tileOf s m with
    commit := (tileOf (startCommit n s) m).commit, commitReq := (tileOf (startCommit n s) m).commitReq } := by
  rcases startCommit_cases (n := n) (s := s) with heq | ⟨c, heq⟩
  · rw [heq]
  · rw [heq, commitBegun_tile]
    split
    · next hm => rw [hm]
    · rfl

theorem nextCommit_leaves : tileOf (nextCommit s) m = { tileOf s m with
    commit := (tileOf (nextCommit s) m).commit, commitReq := (tileOf (nextCommit s) m).commitReq } := by
  unfold nextCommit
  split
  · rfl
  · split
    · rfl
    · split
      · rfl
      · exact startCommit_leaves

end Requests

end Sys2Proof.Machine
end

section
/-! Tiles that come, go, alert and are retried on the tile bus (R261 R262 R264 R269 R281 R286). -/

set_option autoImplicit false
-- One declaration after the other: the text as one file holds many.
set_option Elab.async false

namespace Sys2Proof.Machine

/-! ### A tile that is inserted -/

section Insertion
variable {s : State} {n : Fin 8}

/-- A tile is there, its diagnostic map fresh and its strips not yet to be compared (R235 R264). -/
def tileInserted (n : Nat) (s : State) : State :=
  updTile n (fun t => { t with present := true, diag := freshMap t.diag }) (dropChecks n 24 s)

theorem tileInserted_tile {n m : Nat} : tileOf (tileInserted n s) m
    = if m = n then { tileOf s n with present := true, diag := freshMap (tileOf s n).diag } else tileOf s m := by
  have hdrop (k : Nat) : tileOf (dropChecks n 24 s) k = tileOf s k := (dropChecks_frame (l := [.strip]) (by decide) .refl).tileOf_eq k
  rw [tileInserted, tileOf_updTile, hdrop, hdrop]

theorem tileInserted_frame {n : Nat} : SameBut [.tiles] (dropChecks n 24 s) (tileInserted n s) := updTile_frame (by decide) .refl

theorem tileInsertion_inserts (hr : runs .frond s = true) (hp : (tileOf s n.val).present = false) :
    exec (.tileInsertion n) s = .next (startRead1 n.val false (tileInserted n.val s)) :=
  (ifRuns_runs hr).trans (congrArg Host.Outcome.next (if_pos (by rw [hp]; rfl)))

theorem tileInsertion_yields (hr : runs .frond s = true) (hp : (tileOf s n.val).present = false) :
    Yields (.tileInsertion n) s fun t => tileOf t n.val = { tileOf s n.val with
        present := true, diag := freshMap (tileOf s n.val).diag, phase := .header, rescan := false, mapOk := false, curveOk := false
        cert := .pending, orphan := false, composed := false, baseKnown := false, attempts := 0 }
      ∧ t.outputs = .tileBusRead n.val 0x52 0 256 :: s.outputs ∧ (∀ m, m ≠ n.val → tileOf t m = tileOf s m)
      ∧ (∀ k, k < 24 → (stripOf t (24 * n.val + k)).held = false) ∧ (∀ k, k / 24 ≠ n.val → stripOf t k = stripOf s k)
      ∧ (∀ g, frondOf t g = frondOf s g) ∧ SameBut [.outputs, .strip, .tiles] s t := by
  have hdrop : SameBut [.strip] s (dropChecks n.val 24 s) := dropChecks_frame (by decide) .refl
  have hread : SameBut [.outputs, .tiles] (dropChecks n.val 24 s) (startRead1 n.val false (tileInserted n.val s)) :=
    startRead1_frame (by decide) (tileInserted_frame.mono (by decide))
  refine .framed ⟨_, tileInsertion_inserts hr hp, fun hframe => ⟨?_, ?_, fun m hm => ?_, fun k hk => ?_, fun k hk => ?_,
    fun g => ?_, hframe⟩⟩
  · rw [startRead1_tile, if_pos rfl, tileInserted_tile, if_pos rfl]
    rfl
  · rw [startRead1_outputs, tileInserted_frame.outputs_eq, hdrop.outputs_eq]
  · rw [startRead1_tile, if_neg hm, tileInserted_tile, if_neg hm]
  · rw [hread.stripOf_eq, dropChecks_strip, if_pos (by omega)]
  · rw [hread.stripOf_eq, dropChecks_strip, if_neg fun h => hk (by omega)]
  · rw [hread.frondOf_eq, dropChecks_frond]

end Insertion

/-! ### A tile that is removed -/

section Removal
variable {s : State} {n : Fin 8}

/-- The light of a position is no longer worked on: nothing is owed to it, shifted to it or held for it at the flip gate (R264 R295). -/
def tileStopped (n : Nat) (s : State) : State := dropTileItems n (stopShift n (cancelRepay n s))

/-- What a position keeps of the tile that leaves it (R264 R307). -/
def vacated (t : Tile) : Tile :=
  { present := false, busErr := t.busErr, cause := t.cause, skipN := t.skipN, skipCnt := t.skipCnt
    epoch := t.epoch, owner := t.owner, noOwner := t.noOwner, tsyncBy := t.tsyncBy, takeover := t.takeover
    diag := { freshMap t.diag with last := none, prev := none } }

/-- A position without its tile: its strips are not compared, and no commit of it runs (R264). -/
def tileVacated (n : Nat) (s : State) : State :=
  onTiles (fun k => { k with committing := if k.committing = some n then none else k.committing })
    (dropChecks n 24 (putTile s n (vacated (tileOf s n))))

/-- What the removal of a tile leaves to be told: its charge, its presence, and its fault without a release (R264 R281 R286 R289). -/
def removalTold (n : Nat) (t : Tile) (s : State) : State :=
  if t.released then postPresence n 2 (readSerial t) (orphanRemoved t s)
  else postPresence n 3 (readSerial t) (raise (440 + n) (orphanRemoved t s))

/-- What waited for a tile has it end with the tile (R264 R288). -/
def removalEnds (n : Nat) (s : State) : State :=
  let s := endWaits n false true s
  flushReport (completeAll stCHECK (tileWaits s n 1 ++ tileWaits s n 2 ++ tileWaits s n 6) s)

/-- A tile leaves its position (R264). -/
def tileRemoved (n : Nat) (s : State) : State :=
  removalEnds n (removalTold n (tileOf (tileStopped n s) n) (tileVacated n (tileStopped n s)))

theorem tileStopped_tile {n m : Nat} : tileOf (tileStopped n s) m = tileOf (cancelRepay n s) m :=
  (dropTileItems_frame (l := [.cmp]) (by decide) .refl).tileOf_eq m |>.trans
    ((stopShift_frame (l := [.strip]) (by decide) .refl).tileOf_eq m)

theorem tileVacated_tile {n m : Nat} : tileOf (tileVacated n s) m = if m = n then vacated (tileOf s n) else tileOf s m := by
  rw [tileVacated, tileOf_onTiles, (dropChecks_frame (l := [.strip]) (by decide) .refl).tileOf_eq, tileOf_putTile]
  exact fun _ => rfl

theorem tileVacated_frond {n g : Nat} : frondOf (tileVacated n s) g = frondOf s g := by
  rw [tileVacated, (onTiles_frame (l := [.tiles]) (by decide) .refl).frondOf_eq, dropChecks_frond,
    (putTile_frame (l := [.tiles]) (by decide) .refl).frondOf_eq]

theorem removalTold_frame {n : Nat} {t : Tile} : SameBut [.rings, .journal, .faults, .nvm] s (removalTold n t s) :=
  .ite (fun _ => postPresence_frame (by decide) (orphanRemoved_frame (by decide) .refl))
    fun _ => postPresence_frame (by decide) (raise_frame (by decide) (orphanRemoved_frame (by decide) .refl))

/-- The removal of a tile that was not released is a fault (R286). -/
theorem removalTold_drives {n : Nat} {t : Tile} (h : t.released = false) : Drives (440 + n) (removalTold n t s) := by
  rw [removalTold, if_neg (by simp [h])]
  exact Drives.of_frame (s := raise (440 + n) _) (raise_drives _ _) (postPresence_frame (l := [.rings]) (by decide) .refl)

/-- A released tile whose final commit has not failed leaves no orphan set (R281 R286). -/
theorem removalTold_journal {n : Nat} {t : Tile} (h : t.released = true) (hf : t.commitFailed = false) :
    (removalTold n t s).journal = s.journal := by
  have horphan : orphanRemoved t s = s := by
    unfold orphanRemoved
    split
    · exact if_pos (.inr ⟨h, by simp [hf]⟩)
    · rfl
  rw [removalTold, if_pos h, horphan]
  exact (postPresence_frame (l := [.rings]) (by decide) .refl).journal_eq

theorem removalEnds_tileOf {n m : Nat} : tileOf (removalEnds n s) m = tileOf s m := by
  unfold removalEnds
  dsimp only
  rw [flushReport_tileOf, tileOf_completeAll, endWaits_tileOf]

theorem removalEnds_frame {n : Nat} : SameBut [.rings, .tiles, .chain] s (removalEnds n s) :=
  flushReport_frame (by decide) (completeAll_frame (by decide) (endWaits_frame (by decide) .refl))

theorem tileRemoved_tile {n m : Nat} : tileOf (tileRemoved n s) m
    = if m = n then vacated (tileOf (tileStopped n s) n) else tileOf (tileStopped n s) m := by
  rw [tileRemoved, removalEnds_tileOf, removalTold_frame.tileOf_eq, tileVacated_tile]

/-- A Frond that served the position of a removed tile does no more there (R264). -/
theorem tileRemoved_stops {n f : Nat} (h : serving s n = some f) :
    (frondOf (tileRemoved n s) f).shifting = none ∧ (frondOf (tileRemoved n s) f).decide = false := by
  rw [tileRemoved, removalEnds_frame.frondOf_eq, removalTold_frame.frondOf_eq, tileVacated_frond, tileStopped,
    (dropTileItems_frame (l := [.cmp]) (by decide) .refl).frondOf_eq]
  exact stopShift_stops (cancelRepay_serving.trans h)

theorem tileRemoval_removes (hr : runs .frond s = true) (hp : (tileOf s n.val).present = true) :
    exec (.tileRemoval n) s = .next (tileRemoved n.val s) := by
  refine (ifRuns_runs hr).trans (congrArg Host.Outcome.next ((if_pos hp).trans ?_))
  rfl

theorem tileRemoval_yields (hr : runs .frond s = true) (hp : (tileOf s n.val).present = true) :
    Yields (.tileRemoval n) s fun t => (tileOf t n.val).present = false ∧ (tileOf t n.val).enabled = false
      ∧ (tileOf t n.val).header = none ∧ (tileOf t n.val).phase = .none ∧ (tileOf t n.val).p = []
      ∧ ((tileOf s n.val).released = false → Drives (440 + n.val) t) ∧ ((tileOf s n.val).released = true →
          (tileOf s n.val).commitFailed = false → t.journal = s.journal)
      ∧ (∀ f, serving s n.val = some f → (frondOf t f).shifting = none ∧ (frondOf t f).decide = false)
      ∧ (∀ m, m ≠ n.val → tileOf t m = tileOf s m) ∧ SameBut [.rings, .cmp, .strip, .tiles, .journal, .faults, .chain, .nvm] s t := by
  have htile : tileOf (tileRemoved n.val s) n.val = vacated (tileOf (tileStopped n.val s) n.val) := by
    rw [tileRemoved_tile, if_pos rfl]
  have hstopped : tileOf (tileStopped n.val s) n.val = { tileOf s n.val with diag := (tileOf (cancelRepay n.val s) n.val).diag } := by
    rw [tileStopped_tile, cancelRepay_tile]
  have hbefore : SameBut [.cmp, .strip, .tiles] s (tileVacated n.val (tileStopped n.val s)) :=
    onTiles_frame (by decide) <| dropChecks_frame (by decide) <| putTile_frame (by decide) <| dropTileItems_frame (by decide) <|
      stopShift_frame (by decide) (cancelRepay_frame (by decide) .refl)
  refine .framed ⟨_, tileRemoval_removes hr hp, fun hframe => ⟨?_, ?_, ?_, ?_, ?_, fun h => ?_, fun h hf => ?_,
    fun f => tileRemoved_stops, fun m hm => ?_, hframe⟩⟩
  · rw [htile]; rfl
  · rw [htile]; rfl
  · rw [htile]; rfl
  · rw [htile]; rfl
  · rw [htile]; rfl
  · exact Drives.of_frame (removalTold_drives (by rw [hstopped]; exact h)) removalEnds_frame
  · rw [tileRemoved, removalEnds_frame.journal_eq, removalTold_journal (by rw [hstopped]; exact h) (by rw [hstopped]; exact hf),
      hbefore.journal_eq]
  · rw [tileRemoved_tile, if_neg hm, tileStopped_tile, cancelRepay_other hm]

end Removal

/-! ### Alerts and retries -/

section Retry
variable {s : State} {n : Fin 8} {k : Nat}

theorem tileAlert_yields {b : Byte} (hr : runs .frond s = true) (hp : (tileOf s n.val).present = true) :
    Yields (.tileAlert n b) s fun t => tileOf t n.val = { tileOf s n.val with cause := b.toNat } ∧ Drives (432 + n.val) t
      ∧ (∀ m, m ≠ n.val → tileOf t m = tileOf s m) ∧ SameBut [.tiles, .faults] s t := by
  refine ifRuns_when_yields hr hp ⟨?_, raise_drives _ _, fun m hm => ?_, raise_frame (by decide) (updTile_frame (by decide) .refl)⟩
  · rw [raise_tileOf, tileOf_updTile, if_pos rfl]
  · rw [raise_tileOf, tileOf_updTile, if_neg hm]

/-- A change keeps the counts that the tile bus has of a position (R261). -/
structure CountsKept (k : Nat) (s t : State) : Prop where
  busErr : (tileOf t k).busErr = (tileOf s k).busErr
  attempts : (tileOf t k).attempts = (tileOf s k).attempts

theorem CountsKept.refl : CountsKept k s s := ⟨rfl, rfl⟩

theorem CountsKept.after {t u : State} (h' : CountsKept k t u) (h : CountsKept k s t) : CountsKept k s u :=
  ⟨h'.busErr.trans h.busErr, h'.attempts.trans h.attempts⟩

/-- The tile after the change is one with the same counts. -/
theorem CountsKept.of_tile {t : State} {x : Tile} (h : tileOf t k = x) (hb : x.busErr = (tileOf s k).busErr)
    (ha : x.attempts = (tileOf s k).attempts) : CountsKept k s t :=
  ⟨(congrArg Tile.busErr h).trans hb, (congrArg Tile.attempts h).trans ha⟩

theorem updTile_counts {f : Tile → Tile} (hb : ∀ t, (f t).busErr = t.busErr) (ha : ∀ t, (f t).attempts = t.attempts) :
    CountsKept k s (updTile k f s) :=
  .of_tile ((tileOf_updTile s k k f).trans (if_pos rfl)) (hb _) (ha _)

theorem raise_counts {n : Nat} : CountsKept k s (raise n s) := .of_tile (raise_tileOf n s k) rfl rfl

theorem headerBad_counts : CountsKept k s (headerBad k s) :=
  .of_tile headerBad_tile (by rw [darken_tile]) (by rw [darken_tile])

theorem readHeads_counts : CountsKept k s (readHeads k s) := .of_tile (readHeads_tile.trans (if_pos rfl)) rfl rfl

theorem endCert_counts {ok : Bool} : CountsKept k s (endCert k ok s) := .of_tile (endCert_tile.trans (if_pos rfl)) rfl rfl

theorem tileReady_counts : CountsKept k s (tileReady k s) := .of_tile tileReady_tile rfl rfl

/-- An identity step that fails leaves the counts of the tile bus (R261 R269). -/
theorem busFail_counts : CountsKept k s (busFail k s) := by
  have hkept {f : Tile → Tile} (hb : ∀ t, (f t).busErr = t.busErr) (ha : ∀ t, (f t).attempts = t.attempts) :
      CountsKept k s (raise (424 + k) (updTile k f s)) := raise_counts.after (updTile_counts hb ha)
  unfold busFail
  split
  · exact headerBad_counts.after (updTile_counts (fun _ => rfl) fun _ => rfl)
  · exact readHeads_counts.after (hkept (fun _ => rfl) fun _ => rfl)
  · exact hkept (fun _ => rfl) fun _ => rfl
  · exact hkept (fun _ => rfl) fun _ => rfl
  · exact endCert_counts
  · exact endCert_counts
  · exact tileReady_counts.after (hkept (fun _ => rfl) fun _ => rfl)
  · exact .refl

theorem judgeCommit_counts : CountsKept k s (judgeCommit k false s) := by
  cases hc : (tileOf s k).commit with
  | none =>
    rw [judgeCommit_none hc]
    exact .refl
  | some c =>
    rw [judgeCommit_bad hc]
    split
    · refine .of_tile (endCommit_tile.trans (if_pos rfl)) ?_ ?_ <;> (unfold commitEnded; split <;> rfl)
    · exact .of_tile (((writeCopy_frame (l := [.outputs]) (by decide) .refl).tileOf_eq k).trans
        ((tileOf_putTile s k k _).trans (if_pos rfl))) rfl rfl

/-- The operation that fails leaves the counts of the tile bus (R261). -/
theorem opFails_counts {op : BusOp} : CountsKept k s (opFails k op s) := by
  cases op with
  | identity => exact busFail_counts
  | commit => exact judgeCommit_counts
  | mapReread => exact updTile_counts (f := fun t => { t with mapPending := false }) (fun _ => rfl) fun _ => rfl
  | status => exact .refl
  | temp => exact .refl

/-- A failed attempt on the tile bus is counted (R261). -/
def attemptFailed (k : Nat) (s : State) : State :=
  putTile s k { tileOf s k with busErr := satAdd 65535 (tileOf s k).busErr 1, attempts := (tileOf s k).attempts + 1 }

/-- The fourth failed attempt in a row is reported, and the next is the first of its transaction (R261). -/
def busGivenUp (k : Nat) (s : State) : State := raise (432 + k) (updTile k (fun t => { t with attempts := 0 }) (attemptFailed k s))

theorem busGivenUp_tile : tileOf (busGivenUp k s) k
    = { tileOf s k with busErr := satAdd 65535 (tileOf s k).busErr 1, attempts := 0 } := by
  rw [busGivenUp, raise_tileOf, tileOf_updTile, if_pos rfl, attemptFailed, tileOf_putTile, if_pos rfl]

theorem Drives.after_busFail {j : Nat} (h : Drives j s) : Drives j (busFail k s) := by
  have hkept {n : Nat} {f : Tile → Tile} : Drives j (raise n (updTile k f s)) := Drives.after_raise (s := updTile k f s) h
  unfold busFail
  split
  · exact Drives.after_headerBad (s := updTile k _ s) h
  · exact hkept.of_frame (readHeads_frame (l := [.outputs, .tiles]) (by decide) .refl)
  · exact hkept
  · exact hkept
  · exact h.after_endCert
  · exact h.after_endCert
  · exact hkept.after_tileReady
  · exact h

/-- What drives goes on driving while an operation fails (R371). -/
theorem Drives.after_opFails {op : BusOp} {j : Nat} (h : Drives j s) : Drives j (opFails k op s) := by
  cases op with
  | identity => exact h.after_busFail
  | commit =>
    cases hc : (tileOf s k).commit with
    | none => rwa [opFails, judgeCommit_none hc]
    | some c =>
      rw [opFails, judgeCommit_bad hc]
      split
      · exact h.after_endCommit
      · exact h
  | mapReread => exact h
  | status => exact h
  | temp => exact h

theorem busRetry_acked {op : BusOp} (hr : runs .frond s = true) :
    Yields (.tileBusRetry n true op) s fun t => tileOf t n.val = { tileOf s n.val with attempts := 0 }
      ∧ (∀ m, m ≠ n.val → tileOf t m = tileOf s m) ∧ SameBut [.tiles] s t := by
  refine ⟨_, (ifRuns_runs hr).trans (if_pos rfl), ?_, fun m hm => ?_, updTile_frame (by decide) .refl⟩
  · rw [tileOf_updTile, if_pos rfl]
  · rw [tileOf_updTile, if_neg hm]

theorem busRetry_again {op : BusOp} (hr : runs .frond s = true) (ha : (tileOf s n.val).attempts < 3) :
    Yields (.tileBusRetry n false op) s fun t => tileOf t n.val = { tileOf s n.val with
        busErr := satAdd 65535 (tileOf s n.val).busErr 1, attempts := (tileOf s n.val).attempts + 1 }
      ∧ (∀ m, m ≠ n.val → tileOf t m = tileOf s m) ∧ SameBut [.tiles] s t := by
  refine ⟨attemptFailed n.val s, (ifRuns_runs hr).trans ((if_neg Bool.false_ne_true).trans (if_pos (by omega))), ?_, fun m hm => ?_,
    putTile_frame (by decide) .refl⟩
  · rw [attemptFailed, tileOf_putTile, if_pos rfl]
  · rw [attemptFailed, tileOf_putTile, if_neg hm]

theorem busRetry_fails {op : BusOp} (hr : runs .frond s = true) (ha : 3 ≤ (tileOf s n.val).attempts) :
    Yields (.tileBusRetry n false op) s fun t => Drives (432 + n.val) t ∧ (tileOf t n.val).attempts = 0
      ∧ (tileOf t n.val).busErr = satAdd 65535 (tileOf s n.val).busErr 1
      ∧ SameBut [.outputs, .rings, .cmp, .strip, .tiles, .faults, .chain] s t := by
  have hcounts : CountsKept n.val (busGivenUp n.val s) (opFails n.val op (busGivenUp n.val s)) := opFails_counts
  refine .framed ⟨flushReport (opFails n.val op (busGivenUp n.val s)),
    (ifRuns_runs hr).trans ((if_neg Bool.false_ne_true).trans (if_neg (by omega))), fun hframe => ⟨?_, ?_, ?_, hframe⟩⟩
  · exact Drives.of_frame (Drives.after_opFails (raise_drives _ _)) (flushReport_frame (l := [.tiles, .chain]) (by decide) .refl)
  · rw [flushReport_tileOf, hcounts.attempts, busGivenUp_tile]
  · rw [flushReport_tileOf, hcounts.busErr, busGivenUp_tile]

end Retry

/-- Settles O24: an insertion begins the read of the header, a removal empties the position before what waited for its tile ends, and
the operation given up after the fourth attempt leaves the counts of the tile bus. -/
theorem tilePresence : Obligations.TilePresence :=
  ⟨fun _ _ => tileInsertion_yields, fun _ _ => tileRemoval_yields, fun _ _ _ => tileAlert_yields, fun _ _ _ => busRetry_acked,
    fun _ _ _ => busRetry_again, fun _ _ _ => busRetry_fails⟩

end Sys2Proof.Machine
end

section
/-! The identity steps of a tile: header, curve, trailer heads, ledger copies, certificate, challenge and map (R263 R267 R268 R269 R270
R271 R272 R277). -/

set_option autoImplicit false
-- One declaration after the other: the text as one file holds many.
set_option Elab.async false

namespace Sys2Proof.Machine

/-! ### The header -/

section Header
variable {s : State} {n : Fin 8} {b : Bytes} {h : Header}

/-- A header that passes is the tile's, and the curve is the next step (R268 R269). -/
def headerTaken (k : Nat) (b : Bytes) (h : Header) (s : State) : State :=
  updTile k (fun t => { t with header := some h, ledSerial := some h.serial, phase := .curve })
    (updTile k (fun t => { t with headerBytes := b }) s)

theorem headerTaken_tile {k m : Nat} : tileOf (headerTaken k b h s) m = if m = k then { tileOf s k with
    headerBytes := b, header := some h, ledSerial := some h.serial, phase := .curve } else tileOf s m := by
  rw [headerTaken, tileOf_updTile, tileOf_updTile, tileOf_updTile, if_pos rfl]
  split
  · rfl
  · rfl

/-- The curve of a tile whose header has passed is read once firmware runs (R269). -/
theorem readCurve_taken {k : Nat} : readCurve k (headerTaken k b h s)
    = if s.nvm.running then emit (.tileBusRead k 0x52 0x100 132) (headerTaken k b h s) else headerTaken k b h s := by
  have hphase : (tileOf (headerTaken k b h s) k).phase = .curve := by rw [headerTaken_tile, if_pos rfl]
  rw [readCurve, hphase]
  exact if_congr (by simp [headerTaken, updTile]) rfl rfl

theorem readCurve_tileOf {k m : Nat} : tileOf (readCurve k s) m = tileOf s m :=
  (readCurve_frame (l := [.outputs]) (by decide) .refl).tileOf_eq m

/-- A new tile is told of; one that is read again is not (R264 R289). -/
def headerTold (k : Nat) (h : Header) (rescan : Bool) (s : State) : State := if rescan then s else postPresence k 5 h.serial s

theorem headerTold_frame {k : Nat} {rescan : Bool} : SameBut [.rings] s (headerTold k h rescan s) :=
  .ite (fun _ => .refl) fun _ => postPresence_frame (by decide) .refl

theorem headerCheck_passes (hr : runs .frond s = true) (hp : (tileOf s n.val).phase = .header) (hh : parseHeader b = some h) :
    exec (.tileHeaderCheck n b) s
      = .next (headerTold n.val h (tileOf s n.val).rescan (readCurve n.val (headerTaken n.val b h s))) := by
  refine (ifRuns_runs hr).trans ((if_neg (not_not.2 hp)).trans ?_)
  dsimp only
  rw [hh]
  rfl

theorem headerCheck_fails (hr : runs .frond s = true) (hp : (tileOf s n.val).phase = .header) (hh : parseHeader b = none) :
    exec (.tileHeaderCheck n b) s = .next (headerBad n.val (updTile n.val (fun t => { t with headerBytes := b }) s)) := by
  refine (ifRuns_runs hr).trans ((if_neg (not_not.2 hp)).trans ?_)
  dsimp only
  rw [hh]

theorem tileHeader_passes (hr : runs .frond s = true) (hp : (tileOf s n.val).phase = .header) (hh : parseHeader b = some h) :
    Yields (.tileHeaderCheck n b) s fun t => tileOf t n.val = { tileOf s n.val with
        headerBytes := b, header := some h, ledSerial := some h.serial, phase := .curve }
      ∧ t.outputs = (if s.nvm.running then .tileBusRead n.val 0x52 0x100 132 :: s.outputs else s.outputs)
      ∧ (∀ m, m ≠ n.val → tileOf t m = tileOf s m)
      ∧ ((tileOf s n.val).rescan = false → ∃ e : Event, t.rings.events = s.rings.events ++ [e] ∧ e.typ = 4 ∧ e.arg0 = 5 * 256 + n.val)
      ∧ SameBut [.outputs, .rings, .tiles] s t := by
  have htile (m : Nat) : tileOf (headerTold n.val h (tileOf s n.val).rescan (readCurve n.val (headerTaken n.val b h s))) m
      = tileOf (headerTaken n.val b h s) m := by rw [headerTold_frame.tileOf_eq, readCurve_tileOf]
  refine ⟨_, headerCheck_passes hr hp hh, ?_, ?_, fun m hm => ?_, fun hres => ?_, ?_⟩
  · rw [htile, headerTaken_tile, if_pos rfl]
  · rw [headerTold_frame.outputs_eq, readCurve_taken, apply_ite State.outputs]
    rfl
  · rw [htile, headerTaken_tile, if_neg hm]
  · rw [headerTold, hres, if_neg Bool.false_ne_true]
    have hrings : (readCurve n.val (headerTaken n.val b h s)).rings = s.rings :=
      (readCurve_frame (l := [.outputs]) (by decide) .refl).rings_eq
    rw [← hrings]
    exact postPresence_told
  · exact headerTold_frame.step (by decide) (readCurve_frame (by decide) (updTile_frame (by decide) (updTile_frame (by decide) .refl)))

theorem tileHeader_fails (hr : runs .frond s = true) (hp : (tileOf s n.val).phase = .header) (hh : parseHeader b = none) :
    Yields (.tileHeaderCheck n b) s fun t => (tileOf t n.val).header = none ∧ (tileOf t n.val).phase = .none
      ∧ (tileOf t n.val).enabled = false ∧ (tileOf t n.val).headerBytes = b
      ∧ (∃ e : Event, t.rings.events = s.rings.events ++ [e] ∧ e.typ = 4 ∧ e.arg0 = 4 * 256 + n.val)
      ∧ Drives (424 + n.val) t ∧ (∀ m, m ≠ n.val → tileOf t m = tileOf s m) ∧ SameBut [.rings, .strip, .tiles, .faults] s t := by
  refine ⟨_, headerCheck_fails hr hp hh, ?_, ?_, ?_, ?_, ?_, headerBad_drives, fun m hm => ?_,
    headerBad_frame (by decide) (updTile_frame (by decide) .refl)⟩
  · rw [headerBad_tile]
  · rw [headerBad_tile]
  · rw [headerBad_tile]
    exact darken_disables
  · rw [headerBad_tile, darken_tile, tileOf_updTile, if_pos rfl]
  · exact headerBad_told rfl
  · rw [headerBad_other hm, tileOf_updTile, if_neg hm]

end Header

/-! ### The steps of firmware -/

section Firmware
variable {s : State} {n : Fin 8} {a b : Bytes} {h : Header}

/-- The curve of a tile is judged (R269 R272). -/
def curveJudged (k : Nat) (h : Header) (b : Bytes) (s : State) : State :=
  if curveOk h b then updTile k (fun t => { t with curveOk := true, curve := parseCurve b }) s
  else raise (424 + k) (updTile k (fun t => { t with curveOk := false, curve := [] }) s)

theorem curveJudged_tile {k m : Nat} : tileOf (curveJudged k h b s) m = if m = k then { tileOf s k with
    curveOk := curveOk h b, curve := if curveOk h b then parseCurve b else [] } else tileOf s m := by
  unfold curveJudged
  cases hok : curveOk h b with
  | true => simp only [if_true, tileOf_updTile]
  | false => simp only [Bool.false_eq_true, if_false, raise_tileOf, tileOf_updTile]

theorem curveJudged_frame {k : Nat} : SameBut [.tiles, .faults] s (curveJudged k h b s) :=
  .ite (fun _ => updTile_frame (by decide) .refl) fun _ => raise_frame (by decide) (updTile_frame (by decide) .refl)

theorem readHeads_outputs {k : Nat} : (readHeads k s).outputs
    = .tileBusRead k 0x52 0x132000 64 :: .tileBusRead k 0x52 0x112000 64 :: s.outputs := rfl

theorem identity_curve (hr : runs .frond s = true) (hn : s.nvm.running = true) (hh : (tileOf s n.val).header = some h)
    (hp : (tileOf s n.val).phase = .curve) :
    exec (.tileIdentityStep n (.curve b)) s = .next (readHeads n.val (curveJudged n.val h b s)) := by
  refine (ifRuns_runs hr).trans ?_
  dsimp only
  rw [hn, hh, hp]
  rfl

theorem tileCurve_yields (hr : runs .frond s = true) (hn : s.nvm.running = true) (hh : (tileOf s n.val).header = some h)
    (hp : (tileOf s n.val).phase = .curve) :
    Yields (.tileIdentityStep n (.curve b)) s fun t => tileOf t n.val = { tileOf s n.val with
        curveOk := curveOk h b, curve := if curveOk h b then parseCurve b else [], phase := .heads }
      ∧ t.outputs = .tileBusRead n.val 0x52 0x132000 64 :: .tileBusRead n.val 0x52 0x112000 64 :: s.outputs
      ∧ (curveOk h b = false → Drives (424 + n.val) t) ∧ (∀ m, m ≠ n.val → tileOf t m = tileOf s m)
      ∧ SameBut [.outputs, .tiles, .faults] s t := by
  refine ⟨_, identity_curve hr hn hh hp, ?_, ?_, fun hbad => ?_, fun m hm => ?_,
    readHeads_frame (by decide) (curveJudged_frame.mono (by decide))⟩
  · rw [readHeads_tile, if_pos rfl, curveJudged_tile, if_pos rfl]
  · rw [readHeads_outputs, curveJudged_frame.outputs_eq]
  · refine Drives.of_frame ?_ (readHeads_frame (l := [.outputs, .tiles]) (by decide) .refl)
    rw [curveJudged, hbad, if_neg Bool.false_ne_true]
    exact raise_drives _ _
  · rw [readHeads_tile, if_neg hm, curveJudged_tile, if_neg hm]

theorem identity_heads (hr : runs .frond s = true) (hn : s.nvm.running = true) (hh : (tileOf s n.val).header = some h)
    (hp : (tileOf s n.val).phase = .heads) :
    exec (.tileIdentityStep n (.heads a b)) s = .next (readCopies n.val h.serial a b s) := by
  refine (ifRuns_runs hr).trans ?_
  dsimp only
  rw [hn, hh, hp]

theorem readCopies_tile {k m serial : Nat} : tileOf (readCopies k serial a b s) m
    = if m = k then { tileOf s k with phase := .ledger } else tileOf s m := by
  unfold readCopies
  extract_lets ra rb first u
  have hu : tileOf u m = if m = k then { tileOf s k with phase := .ledger } else tileOf s m := tileOf_updTile s k m _
  split
  · exact hu
  · exact hu

/-- Both copies are read, in one order or the other (R269). -/
theorem readCopies_outputs {k serial : Nat} : (readCopies k serial a b s).outputs
      = .tileBusRead k 0x52 0x120000 73792 :: .tileBusRead k 0x52 0x100000 73792 :: s.outputs
    ∨ (readCopies k serial a b s).outputs
      = .tileBusRead k 0x52 0x100000 73792 :: .tileBusRead k 0x52 0x120000 73792 :: s.outputs := by
  unfold readCopies
  extract_lets ra rb first u
  split
  · exact .inr rfl
  · exact .inl rfl

/-- The one newer by its header is read first (R269 R277). -/
theorem readCopies_newer {k serial x y : Nat} (ha : headGen serial a = some x) (hb : headGen serial b = some y) :
    (readCopies k serial a b s).outputs.head?
      = some (if x < y then .tileBusRead k 0x52 0x100000 73792 else .tileBusRead k 0x52 0x120000 73792) := by
  unfold readCopies
  rw [ha, hb]
  extract_lets ra rb first u
  by_cases hlt : x < y
  · rw [if_pos (decide_eq_true hlt), if_pos hlt]
    rfl
  · rw [if_neg fun h => hlt (of_decide_eq_true h), if_neg hlt]
    rfl

theorem tileHeads_yields (hr : runs .frond s = true) (hn : s.nvm.running = true) (hh : (tileOf s n.val).header = some h)
    (hp : (tileOf s n.val).phase = .heads) :
    Yields (.tileIdentityStep n (.heads a b)) s fun t => tileOf t n.val = { tileOf s n.val with phase := .ledger }
      ∧ (t.outputs = .tileBusRead n.val 0x52 0x120000 73792 :: .tileBusRead n.val 0x52 0x100000 73792 :: s.outputs
        ∨ t.outputs = .tileBusRead n.val 0x52 0x100000 73792 :: .tileBusRead n.val 0x52 0x120000 73792 :: s.outputs)
      ∧ (∀ x y, headGen h.serial a = some x → headGen h.serial b = some y → t.outputs.head? =
          some (if x < y then .tileBusRead n.val 0x52 0x100000 73792 else .tileBusRead n.val 0x52 0x120000 73792))
      ∧ (∀ m, m ≠ n.val → tileOf t m = tileOf s m) ∧ SameBut [.outputs, .tiles] s t := by
  refine ⟨_, identity_heads hr hn hh hp, ?_, readCopies_outputs, fun x y => readCopies_newer, fun m hm => ?_,
    readCopies_frame (by decide) .refl⟩
  · rw [readCopies_tile, if_pos rfl]
  · rw [readCopies_tile, if_neg hm]

end Firmware

/-! ### The ledger copies -/

section Ledger
variable {s : State} {n : Fin 8} {k : Nat} {a b : Bytes} {h : Header} {c : Copy}

/-- With no charge kept for a position nothing of it is applied (R280). -/
theorem applyRetained_none {bad : List Nat} (hj : s.journal.retained = []) : applyRetained k bad s = s := by
  unfold applyRetained
  rw [hj]
  exact congrArg (fun r => { s with journal := { s.journal with retained := r } }) hj.symm

theorem applySaved_none (hj : s.journal.saved = []) : applySaved k s = s := by
  unfold applySaved
  rw [hj]
  exact congrArg (fun r => { s with journal := { s.journal with saved := r } }) hj.symm

theorem applyOrphan_none (hj : s.journal.orphans = []) : applyOrphan k s = s := by
  unfold applyOrphan
  dsimp only
  split
  · rfl
  · split
    · rfl
    · next o ho =>
      rw [hj] at ho
      exact absurd ho nofun

/-- The tile with its two copies, and the newest of them as the base of its charge (R273 R277). -/
def basedOn (serial : Nat) (a b : Bytes) (c : Copy) (t : Tile) : Tile :=
  { t with copyA := parseCopy serial a, copyB := parseCopy serial b, baseKnown := true, t := c.entries, gen := c.gen, time := c.time }

/-- The words of the retained ledger have been read, with no error (R11 R280). -/
def wordsClean (s : State) : State := eccUncorrected blocks_ 0 (eccCorrected 0 s)

theorem wordsClean_frame (hi : s.faults.inj = none) : SameBut [.faults] s (wordsClean s) := by
  have hinj : (eccCorrected 0 s).faults.inj = none := hi
  rw [wordsClean, eccUncorrected_plain hinj]
  exact eccCounted_frame.step (by decide) (eccCorrected_frame (by decide) .refl)

/-- With nothing kept for the tile its base is the newest copy, and the certificate is read next (R269 R277). -/
theorem endLedger_based (hi : s.faults.inj = none) (hret : s.journal.retained = []) (hsav : s.journal.saved = [])
    (horp : s.journal.orphans = [])
    (hc : newest { tileOf s k with copyA := parseCopy h.serial a, copyB := parseCopy h.serial b } = some c) :
    endLedger k h a b {} s = readCert k h (wordsClean (putTile s k (basedOn h.serial a b c (tileOf s k)))) := by
  have hjournal : (wordsClean (putTile s k (basedOn h.serial a b c (tileOf s k)))).journal = s.journal :=
    (wordsClean_frame (s := putTile s k _) hi).journal_eq
  unfold endLedger
  extract_lets old t u v
  have hnewest : newest t = some c := hc
  have hu : u = putTile s k (basedOn h.serial a b c (tileOf s k)) := by
    unfold u
    rw [hnewest]
    rfl
  have hv : v = wordsClean (putTile s k (basedOn h.serial a b c (tileOf s k))) := congrArg wordsClean hu
  rw [hv, applyRetained_none (by rw [hjournal, hret]), applySaved_none (by rw [hjournal, hsav]),
    applyOrphan_none (by rw [hjournal, horp])]

theorem readCert_tile {m : Nat} : tileOf (readCert k h s) m = if m = k then { tileOf s k with phase := .cert } else tileOf s m := by
  rw [readCert, emit_tileOf, tileOf_updTile]

theorem readCert_outputs : (readCert k h s).outputs = .tileBusRead k 0x52 0x400 h.certLen :: s.outputs := rfl

theorem identity_ledger (hr : runs .frond s = true) (hn : s.nvm.running = true) (hh : (tileOf s n.val).header = some h)
    (hp : (tileOf s n.val).phase = .ledger) :
    exec (.tileIdentityStep n (.ledger a b {})) s = .next (endLedger n.val h a b {} s) := by
  refine (ifRuns_runs hr).trans ?_
  dsimp only
  rw [hn, hh, hp]

theorem tileLedger_yields (hr : runs .frond s = true) (hn : s.nvm.running = true) (hh : (tileOf s n.val).header = some h)
    (hp : (tileOf s n.val).phase = .ledger) (hret : s.journal.retained = []) (hsav : s.journal.saved = [])
    (horp : s.journal.orphans = []) (hi : s.faults.inj = none)
    (hc : newest { tileOf s n.val with copyA := parseCopy h.serial a, copyB := parseCopy h.serial b } = some c) :
    Yields (.tileIdentityStep n (.ledger a b {})) s fun t => tileOf t n.val = { tileOf s n.val with
        copyA := parseCopy h.serial a, copyB := parseCopy h.serial b, baseKnown := true, phase := .cert
        t := c.entries, gen := c.gen, time := c.time }
      ∧ t.outputs = .tileBusRead n.val 0x52 0x400 h.certLen :: s.outputs
      ∧ (∀ m, m ≠ n.val → tileOf t m = tileOf s m) ∧ SameBut [.outputs, .tiles, .faults] s t := by
  have hclean : SameBut [.faults] (putTile s n.val (basedOn h.serial a b c (tileOf s n.val)))
      (wordsClean (putTile s n.val (basedOn h.serial a b c (tileOf s n.val)))) := wordsClean_frame hi
  refine ⟨_, (identity_ledger hr hn hh hp).trans (congrArg _ (endLedger_based hi hret hsav horp hc)), ?_, ?_, fun m hm => ?_,
    readCert_frame (by decide) (hclean.step (by decide) (putTile_frame (by decide) .refl))⟩
  · rw [readCert_tile, if_pos rfl, hclean.tileOf_eq, tileOf_putTile, if_pos rfl]
    rfl
  · rw [readCert_outputs, hclean.outputs_eq, putTile_outputs]
  · rw [readCert_tile, if_neg hm, hclean.tileOf_eq, tileOf_putTile, if_neg hm]

end Ledger

/-! ### The certificate and the challenge -/

section Challenge
variable {s : State} {n : Fin 8} {b r : Bytes} {h : Header} {auth : Byte}

/-- A certificate that holds has the tile challenged with a nonce that no challenge before has used (R271). -/
def challenged (k : Nat) (s : State) : State :=
  emit (.tileBusRead k 0x5A 0x30 1) (emit (.tileBusWrite k 0x5A 0x10 (Config.nonce s.tiles.nextNonce))
    (onTiles (fun x => { x with nextNonce := s.tiles.nextNonce + 1 })
      (updTile k (fun t => { t with phase := .challenge, nonceNo := s.tiles.nextNonce }) s)))

theorem challenged_tile {k m : Nat} : tileOf (challenged k s) m
    = if m = k then { tileOf s k with phase := .challenge, nonceNo := s.tiles.nextNonce } else tileOf s m := by
  rw [challenged, emit_tileOf, emit_tileOf, tileOf_onTiles, tileOf_updTile]
  exact fun _ => rfl

/-- The certificate as read stays with the tile (R271). -/
def certKept (k : Nat) (b : Bytes) (s : State) : State := updTile k (fun t => { t with certBytes := b }) s

theorem certKept_tile {k m : Nat} : tileOf (certKept k b s) m = if m = k then { tileOf s k with certBytes := b } else tileOf s m :=
  tileOf_updTile s k m _

theorem certKept_frame {k : Nat} : SameBut [.tiles] s (certKept k b s) := updTile_frame (by decide) .refl

theorem endCert_nonce {k : Nat} {ok : Bool} : (endCert k ok s).tiles.nextNonce = s.tiles.nextNonce := by
  rw [endCert_eq, apply_ite State.tiles, raise_tiles, ite_self]
  rfl

theorem identity_cert (hr : runs .frond s = true) (hn : s.nvm.running = true) (hh : (tileOf s n.val).header = some h)
    (hp : (tileOf s n.val).phase = .cert) : exec (.tileIdentityStep n (.cert b)) s
      = .next (if certOk s h b then challenged n.val (certKept n.val b s) else endCert n.val false (certKept n.val b s)) := by
  have hok : certOk (certKept n.val b s) h b = certOk s h b := rfl
  refine (ifRuns_runs hr).trans ?_
  dsimp only
  rw [hn, hh, hp]
  dsimp only
  rw [← hok, apply_ite Host.Outcome.next]
  rfl

theorem tileCert_yields (hr : runs .frond s = true) (hn : s.nvm.running = true) (hh : (tileOf s n.val).header = some h)
    (hp : (tileOf s n.val).phase = .cert) :
    Yields (.tileIdentityStep n (.cert b)) s fun t => tileOf t n.val = (if certOk s h b
        then { tileOf s n.val with certBytes := b, phase := .challenge, nonceNo := s.tiles.nextNonce }
        else { tileOf s n.val with certBytes := b, phase := .map, cert := .failed })
      ∧ t.tiles.nextNonce = (if certOk s h b then s.tiles.nextNonce + 1 else s.tiles.nextNonce)
      ∧ t.outputs = (if certOk s h b
          then .tileBusRead n.val 0x5A 0x30 1 :: .tileBusWrite n.val 0x5A 0x10 (Config.nonce s.tiles.nextNonce) :: s.outputs
          else .tileBusRead n.val 0x52 0x1000 147456 :: s.outputs)
      ∧ (certOk s h b = false → Drives (416 + n.val) t)
      ∧ (∀ m, m ≠ n.val → tileOf t m = tileOf s m) ∧ SameBut [.outputs, .tiles, .faults] s t := by
  cases hok : certOk s h b with
  | true =>
    refine ⟨challenged n.val (certKept n.val b s), (identity_cert hr hn hh hp).trans (by rw [hok, if_pos rfl]), ?_, rfl, rfl, nofun,
      fun m hm => ?_, emit_frame (by decide) (emit_frame (by decide) (onTiles_frame (by decide)
        (updTile_frame (by decide) (certKept_frame.mono (by decide)))))⟩
    · rw [challenged_tile, if_pos rfl, certKept_tile, if_pos rfl]
      rfl
    · rw [challenged_tile, if_neg hm, certKept_tile, if_neg hm]
  | false =>
    refine ⟨endCert n.val false (certKept n.val b s), (identity_cert hr hn hh hp).trans (by rw [hok, if_neg Bool.false_ne_true]), ?_,
      endCert_nonce, endCert_outputs, fun _ => endCert_drives, fun m hm => ?_, endCert_frame (by decide) (certKept_frame.mono (by decide))⟩
    · rw [endCert_tile, if_pos rfl, certKept_tile, if_pos rfl]
      rfl
    · rw [endCert_tile, if_neg hm, certKept_tile, if_neg hm]

/-- What the response to a challenge proves (R271). -/
def responseOk (k : Nat) (h : Header) (r : Bytes) (s : State) : Bool :=
  Config.ecdsaVerify (Config.certKey (tileOf s k).certBytes)
    (Config.sha256 (Config.nonce (tileOf s k).nonceNo ++ toLe 16 h.serial)) r

theorem poll_done (hr : runs .frond s = true) (hh : (tileOf s n.val).header = some h) (hp : (tileOf s n.val).phase = .challenge)
    (h2 : auth.toNat.testBit 2 = false) (h1 : auth.toNat.testBit 1 = true) : exec (.challengePoll n auth r) s
      = .next (endCert n.val (responseOk n.val h r s) (emit (.tileBusRead n.val 0x5A 0x40 64) s)) := by
  refine (ifRuns_runs hr).trans ?_
  dsimp only
  rw [hp, hh]
  exact (if_neg (by simp [h2])).trans (if_pos h1)

theorem challengePoll_done (hr : runs .frond s = true) (hh : (tileOf s n.val).header = some h)
    (hp : (tileOf s n.val).phase = .challenge) (h2 : auth.toNat.testBit 2 = false) (h1 : auth.toNat.testBit 1 = true) :
    Yields (.challengePoll n auth r) s fun t => tileOf t n.val = { tileOf s n.val with
        phase := .map
        cert := if Config.ecdsaVerify (Config.certKey (tileOf s n.val).certBytes)
          (Config.sha256 (Config.nonce (tileOf s n.val).nonceNo ++ toLe 16 h.serial)) r then .verified else .failed }
      ∧ t.outputs = .tileBusRead n.val 0x52 0x1000 147456 :: .tileBusRead n.val 0x5A 0x40 64 :: s.outputs
      ∧ ((tileOf t n.val).cert = .failed → Drives (416 + n.val) t)
      ∧ (∀ m, m ≠ n.val → tileOf t m = tileOf s m) ∧ SameBut [.outputs, .tiles, .faults] s t := by
  refine ⟨_, poll_done hr hh hp h2 h1, ?_, endCert_outputs, fun hf => ?_, fun m hm => ?_,
    endCert_frame (by decide) (emit_frame (by decide) .refl)⟩
  · rw [endCert_tile, if_pos rfl]
    rfl
  · cases hok : responseOk n.val h r s with
    | true =>
      rw [endCert_tile, if_pos rfl, hok] at hf
      exact absurd hf nofun
    | false => exact endCert_drives
  · rw [endCert_tile, if_neg hm, emit_tileOf]

theorem challengePoll_waits (hr : runs .frond s = true) (hh : (tileOf s n.val).header = some h)
    (hp : (tileOf s n.val).phase = .challenge) (h2 : auth.toNat.testBit 2 = false) (h1 : auth.toNat.testBit 1 = false) :
    Yields (.challengePoll n auth r) s fun t => t = { s with outputs := .tileBusRead n.val 0x5A 0x30 1 :: s.outputs } := by
  refine ⟨emit (.tileBusRead n.val 0x5A 0x30 1) s, (ifRuns_runs hr).trans ?_, rfl⟩
  dsimp only
  rw [hp, hh]
  exact (if_neg (by simp [h2])).trans (if_neg (by simp [h1]))

/-- A challenge that times out or that the tile refuses has failed (R271). -/
theorem challenge_fails {c : Instr} (hr : runs .frond s = true) (hp : (tileOf s n.val).phase = .challenge)
    (hc : c = .challengeTimeout n
      ∨ ∃ auth r, c = .challengePoll n auth r ∧ auth.toNat.testBit 2 = true ∧ (tileOf s n.val).header.isSome = true) :
    exec c s = .next (endCert n.val false s) := by
  rcases hc with rfl | ⟨auth, r, rfl, h2, hh⟩
  · exact (ifRuns_runs hr).trans (congrArg Host.Outcome.next (if_pos (decide_eq_true hp)))
  · obtain ⟨h, hh⟩ := Option.isSome_iff_exists.1 hh
    refine (ifRuns_runs hr).trans ?_
    dsimp only
    rw [hp, hh]
    exact if_pos h2

theorem challengeFails_yields {c : Instr} (hr : runs .frond s = true) (hp : (tileOf s n.val).phase = .challenge)
    (hc : c = .challengeTimeout n
      ∨ ∃ auth r, c = .challengePoll n auth r ∧ auth.toNat.testBit 2 = true ∧ (tileOf s n.val).header.isSome = true) :
    Yields c s fun t => tileOf t n.val = { tileOf s n.val with phase := .map, cert := .failed }
      ∧ t.outputs = .tileBusRead n.val 0x52 0x1000 147456 :: s.outputs ∧ Drives (416 + n.val) t
      ∧ (∀ m, m ≠ n.val → tileOf t m = tileOf s m) ∧ SameBut [.outputs, .tiles, .faults] s t := by
  refine ⟨_, challenge_fails hr hp hc, ?_, endCert_outputs, endCert_drives, fun m hm => ?_, endCert_frame (by decide) .refl⟩
  · rw [endCert_tile, if_pos rfl]
    rfl
  · rw [endCert_tile, if_neg hm]

end Challenge

/-! ### The map -/

section Map
variable {s : State} {n : Fin 8} {b : Bytes} {h : Header}

/-- A map as read passes with its length and its check (R269 R272). -/
def mapGood (h : Header) (b : Bytes) : Bool := decide (b.length = 147456) && decide (crc32c b = h.mapCrc)

/-- The map of a tile is judged (R269 R272). -/
def mapJudged (k : Nat) (h : Header) (b : Bytes) (s : State) : State :=
  let s := updTile k (fun t => { t with mapOk := mapGood h b, mapRead := if mapGood h b then b else [] }) s
  if mapGood h b then s else raise (424 + k) s

theorem mapJudged_tile {k m : Nat} : tileOf (mapJudged k h b s) m = if m = k then { tileOf s k with
    mapOk := mapGood h b, mapRead := if mapGood h b then b else [] } else tileOf s m := by
  unfold mapJudged
  dsimp only
  rw [apply_ite (tileOf · m), raise_tileOf, ite_self, tileOf_updTile]

theorem identity_map (hr : runs .frond s = true) (hn : s.nvm.running = true) (hh : (tileOf s n.val).header = some h)
    (hp : (tileOf s n.val).phase = .map) :
    exec (.tileIdentityStep n (.map b)) s = .next (flushReport (tileReady n.val (mapJudged n.val h b s))) := by
  refine (ifRuns_runs hr).trans ?_
  dsimp only
  rw [hn, hh, hp]
  rfl

theorem tileMap_yields (hr : runs .frond s = true) (hn : s.nvm.running = true) (hh : (tileOf s n.val).header = some h)
    (hp : (tileOf s n.val).phase = .map) :
    Yields (.tileIdentityStep n (.map b)) s fun t => (tileOf t n.val).phase = .ready
      ∧ (tileOf t n.val).mapOk = decide (b.length = 147456 ∧ crc32c b = h.mapCrc)
      ∧ ((tileOf t n.val).mapOk = false → Drives (424 + n.val) t)
      ∧ (true, if (tileOf t n.val).mapOk then GateItem.map n.val b else .mapOff n.val) ∈ t.cmp.gate
      ∧ (∀ m, m ≠ n.val → tileOf t m = tileOf s m) ∧ SameBut [.rings, .cmp, .tiles, .faults, .chain] s t := by
  have hjudged : tileOf (mapJudged n.val h b s) n.val = _ := mapJudged_tile.trans (if_pos rfl)
  have hreport : SameBut [.tiles, .chain] (tileReady n.val (mapJudged n.val h b s))
      (flushReport (tileReady n.val (mapJudged n.val h b s))) := flushReport_frame (by decide) .refl
  have hok : (tileOf (flushReport (tileReady n.val (mapJudged n.val h b s))) n.val).mapOk = mapGood h b := by
    rw [flushReport_tileOf, tileReady_tile, hjudged]
  refine ⟨_, identity_map hr hn hh hp, ?_, ?_, fun hbad => ?_, ?_, fun m hm => ?_, ?_⟩
  · rw [flushReport_tileOf, tileReady_tile]
  · rw [hok, mapGood, Bool.decide_and]
  · rw [hok] at hbad
    refine Drives.of_frame (Drives.after_tileReady ?_) hreport
    unfold mapJudged
    dsimp only
    rw [hbad, if_neg Bool.false_ne_true]
    exact raise_drives _ _
  · have hitem : mapItem n.val (tileOf (mapJudged n.val h b s) n.val) = if mapGood h b then .map n.val b else .mapOff n.val := by
      rw [hjudged, mapItem]
      cases mapGood h b <;> rfl
    rw [hok, ← hitem, hreport.cmp_eq]
    exact tileReady_gate
  · rw [flushReport_tileOf, tileReady_other hm, mapJudged_tile, if_neg hm]
  · exact hreport.step (by decide) (tileReady_frame (by decide) (.ite (fun _ => updTile_frame (by decide) .refl)
      fun _ => raise_frame (by decide) (updTile_frame (by decide) .refl)))

end Map

/-- Settles O25: each step that passes records what it has read and asks for the next; a certificate or a challenge that fails goes on
to the map, and the map, good or not, makes the tile ready. -/
theorem tileIdentity : Obligations.TileIdentity :=
  ⟨fun _ _ _ _ => tileHeader_passes, fun _ _ _ => tileHeader_fails, fun _ _ _ _ => tileCurve_yields, fun _ _ _ _ _ => tileHeads_yields,
    fun _ _ _ _ _ _ => tileLedger_yields, fun _ _ _ _ => tileCert_yields, fun _ _ _ _ _ => challengePoll_done,
    fun _ _ _ _ _ => challengePoll_waits, fun _ _ _ => challengeFails_yields, fun _ _ _ _ => tileMap_yields⟩

end Sys2Proof.Machine
end

section
/-! The charge ledger: gains recomputed, taps, periodic commits and read-backs (R11 R19 R273 R274 R276 R278 R279 R286 R320). -/

set_option autoImplicit false
-- One declaration after the other: the text as one file holds many.
set_option Elab.async false

namespace Sys2Proof.Machine

/-! ### GAIN_RECOMPUTE -/

section Recompute
variable {s : State} {n m k : Nat} {h : Header}

/-- The gains of a tile, if it is ready (R274). -/
def gainsIfReady (n : Nat) (s : State) : State := if (tileOf s n).phase = .ready then computeGains n s else s

theorem gainsAll_succ : gainsAll (k + 1) s = gainsIfReady k (gainsAll k s) := rfl

theorem gainsIfReady_tile : tileOf (gainsIfReady n s) m = { tileOf s m with
    eolBlocks := (tileOf (gainsIfReady n s) m).eolBlocks, ratedBlocks := (tileOf (gainsIfReady n s) m).ratedBlocks } := by
  unfold gainsIfReady
  split
  · exact computeGains_tile
  · rfl

/-- Gains that are recomputed write of a tile only its counts of blocks at their end of life (R274 R275). -/
theorem gainsAll_tile : tileOf (gainsAll k s) m = { tileOf s m with
    eolBlocks := (tileOf (gainsAll k s) m).eolBlocks, ratedBlocks := (tileOf (gainsAll k s) m).ratedBlocks } := by
  induction k with
  | zero => rfl
  | succ k ih => rw [gainsAll_succ, gainsIfReady_tile, ih]

theorem gainsIfReady_waits {g : Bool × GateItem} (hg : g ∈ s.cmp.gate) : g ∈ (gainsIfReady n s).cmp.gate := by
  unfold gainsIfReady
  split
  · exact computeGains_waits hg
  · exact hg

/-- The gains of a tile with a header wait at the flip gate, if it is ready (R274). -/
theorem gainsIfReady_gate (hp : (tileOf s n).phase = .ready) (hh : (tileOf s n).header = some h) :
    (true, GateItem.gains n (gainsDue (tileOf s n))) ∈ (gainsIfReady n s).cmp.gate := by
  rw [gainsIfReady, if_pos hp, computeGains_gate hh]
  exact List.mem_append_right _ (List.mem_singleton_self _)

theorem gainsAll_gate (hn : n < k) (hp : (tileOf s n).phase = .ready) (hh : (tileOf s n).header = some h) :
    (true, GateItem.gains n (gainsDue (tileOf s n))) ∈ (gainsAll k s).cmp.gate := by
  induction k with
  | zero => exact absurd hn (Nat.not_lt_zero n)
  | succ k ih =>
    rw [gainsAll_succ]
    rcases Nat.lt_succ_iff_lt_or_eq.1 hn with hlt | rfl
    · exact gainsIfReady_waits (ih hlt)
    · have hsame : gainsDue (tileOf (gainsAll n s) n) = gainsDue (tileOf s n) := by
        rw [gainsAll_tile]
        rfl
      rw [← hsame]
      exact gainsIfReady_gate (by rw [gainsAll_tile]; exact hp) (by rw [gainsAll_tile]; exact hh)

theorem gainRecompute_yields (hr : runs .mp s = true) (hn : s.nvm.running = true) :
    Yields .gainRecompute s fun t => (∀ n, n < 8 → ∀ h, (tileOf s n).phase = .ready → (tileOf s n).header = some h →
        ((true, GateItem.gains n ((List.range 9216).map fun b =>
          if (tileOf s n).curveOk then (gainOf (tileOf s n).curve (charge (tileOf s n) b / 2 ^ 32)).1 else 32768)) ∈ t.cmp.gate))
      ∧ (∀ n, (tileOf t n).t = (tileOf s n).t ∧ (tileOf t n).p = (tileOf s n).p ∧ (tileOf t n).gains = (tileOf s n).gains)
      ∧ SameBut [.rings, .cmp, .tiles, .faults, .chain] s t := by
  have hreport : SameBut [.tiles, .chain] (gainsAll 8 s) (flushReport (gainsAll 8 s)) := flushReport_frame (by decide) .refl
  refine .framed (ifRuns_when_yields hr hn fun hframe => ⟨fun n hlt h hp hh => ?_, fun n => ?_, hframe⟩)
  · rw [hreport.cmp_eq]
    exact gainsAll_gate hlt hp hh
  · rw [flushReport_tileOf, gainsAll_tile]
    exact ⟨rfl, rfl, rfl⟩

end Recompute

/-! ### LEDGER_TAP -/

section Tap
variable {s t : State} {n m k : Nat} {f : Fin 9} {ecc : EccSeen} {u : Tile}

theorem addPending_tile {b v : Nat} : addPending u b v = { u with p := (addPending u b v).p } := by
  unfold addPending
  split
  · rfl
  · rfl

theorem addPending_get {b v : Nat} : Tab.get 0 (addPending u b v).p k = Tab.get 0 u.p k + if k = b then v else 0 := by
  unfold addPending
  split
  · next hv => rw [hv, ite_self, Nat.add_zero]
  · rw [Tab.get_put]
    split
    · next hk => rw [hk]
    · rfl

/-- The charge that one tap adds to a block (R276). -/
def tapCharge (s : State) (t : Tile) (b : Nat) : Nat :=
  match Tab.find t.shown (b / 96 * 4 / 16) with
  | some x => blockUnits t x b * ledgerWeight s (x.strips.getD (b / 96 * 4 / 16) (false, 0)).2
  | none => 0

/-- The charge of the first blocks has been added (R276). -/
def tapAdded (s : State) (t : Tile) (j : Nat) : Tile := (List.range j).foldl (fun u b => addPending u b (tapCharge s t b)) t

theorem tapCharge_some {b : Nat} {x : ShiftRec} (hx : Tab.find u.shown (b / 96 * 4 / 16) = some x) :
    tapCharge s u b = blockUnits u x b * ledgerWeight s (x.strips.getD (b / 96 * 4 / 16) (false, 0)).2 := by
  rw [tapCharge, hx]

theorem tapCharge_none {b : Nat} (hx : Tab.find u.shown (b / 96 * 4 / 16) = none) : tapCharge s u b = 0 := by
  rw [tapCharge, hx]

theorem addTap_eq {v : Tile} : addTap s v = tapAdded s v blocks_ := by
  refine congrArg (fun g => (List.range blocks_).foldl g v) (funext₂ fun w b => ?_)
  dsimp only
  split
  · next x hx => rw [tapCharge_some hx]
  · next hx => rw [tapCharge_none hx, addPending, if_pos rfl]

theorem tapAdded_succ {v : Tile} {j : Nat} : tapAdded s v (j + 1) = addPending (tapAdded s v j) j (tapCharge s v j) := by
  rw [tapAdded, List.range_succ, List.foldl_append]
  rfl

theorem tapAdded_tile {v : Tile} {j : Nat} : tapAdded s v j = { v with p := (tapAdded s v j).p } := by
  induction j with
  | zero => rfl
  | succ j ih => rw [tapAdded_succ, addPending_tile, ih]

theorem tapAdded_get {v : Tile} {j : Nat} :
    Tab.get 0 (tapAdded s v j).p k = Tab.get 0 v.p k + if k < j then tapCharge s v k else 0 := by
  induction j with
  | zero => rw [if_neg (Nat.not_lt_zero k)]; rfl
  | succ j ih =>
    rw [tapAdded_succ, addPending_get, ih, Nat.add_assoc]
    rcases Nat.lt_trichotomy k j with h | rfl | h
    · rw [if_pos h, if_neg (Nat.ne_of_lt h), if_pos (by omega)]
      rfl
    · rw [if_neg (lt_irrefl k), if_pos rfl, if_pos k.lt_succ_self, Nat.zero_add]
    · rw [if_neg (by omega), if_neg (by omega), if_neg (by omega)]

/-- The words of P_b have been read, the charge of the frame is added, and no tap is due (R11 R276). -/
def tapTaken (n : Nat) (ecc : EccSeen) (s : State) : State :=
  let s := losePending n ecc.bad (eccUncorrected blocks_ ecc.bad.length (eccCorrected ecc.corrected s))
  putTile s n { addTap s (tileOf s n) with tapPend := false }

theorem ledgerTap_taps (hr : runs .mp s = true) (hs : servedBy s f.val = some n) (hp : (tileOf s n).tapPend = true) :
    exec (.ledgerTap f ecc) s = .next (nextCommit (tapTaken n ecc s)) := by
  refine (ifRuns_runs hr).trans ?_
  rw [hs]
  exact if_neg (by simp [hp])

/-- The weight of a strip is a matter of the frame rate and its current (R276). -/
theorem tapCharge_congr {v : Tile} {b : Nat} (h : t.frm = s.frm) : tapCharge t v b = tapCharge s v b := by
  unfold tapCharge ledgerWeight unitNum unitDen
  rw [h]

theorem tapAdded_congr {v : Tile} {j : Nat} (h : t.frm = s.frm) : tapAdded t v j = tapAdded s v j := by
  unfold tapAdded
  simp only [tapCharge_congr h]

/-- With no error and no injection a tap changes its tile and the counts of the collector (R11 R276). -/
theorem tapTaken_frame (hi : s.faults.inj = none) : SameBut [.tiles, .faults] s (tapTaken n {} s) :=
  putTile_frame (by decide) (putTile_frame (by decide) ((wordsClean_frame hi).mono (by decide)))

/-- The state a tap without errors adds its charge in (R11). -/
def tapRead (n : Nat) (s : State) : State := putTile (wordsClean s) n (tileOf (wordsClean s) n)

theorem tapTaken_clean : tapTaken n {} s
    = putTile (tapRead n s) n { addTap (tapRead n s) (tileOf (tapRead n s) n) with tapPend := false } := rfl

theorem tapRead_tile (hi : s.faults.inj = none) : tileOf (tapRead n s) m = tileOf s m := by
  have hclean : SameBut [.faults] s (wordsClean s) := wordsClean_frame hi
  rw [tapRead, tileOf_putTile, hclean.tileOf_eq, hclean.tileOf_eq]
  split
  · next hm => rw [hm]
  · rfl

theorem tapTaken_tile (hi : s.faults.inj = none) : tileOf (tapTaken n {} s) m
    = if m = n then { tapAdded s (tileOf s n) blocks_ with tapPend := false } else tileOf s m := by
  have hclean : SameBut [.faults] s (wordsClean s) := wordsClean_frame hi
  have hfrm : (tapRead n s).frm = s.frm := hclean.frm_eq
  rw [tapTaken_clean, tileOf_putTile, tapRead_tile hi, tapRead_tile hi, addTap_eq, tapAdded_congr hfrm]

/-- The words of a match over the shown record are the charge of the tap (R276). -/
theorem tapCharge_eq {b : Nat} : tapCharge s u b = (match Tab.find u.shown (b / 96 * 4 / 16) with
    | some x => blockUnits u x b * ledgerWeight s (x.strips.getD (b / 96 * 4 / 16) (false, 0)).2
    | none => 0) := by
  split
  · next x hx => exact tapCharge_some hx
  · next hx => exact tapCharge_none hx

theorem tapAdded_done_p {v : Tile} {j : Nat} : ({ tapAdded s v j with tapPend := false } : Tile).p = (tapAdded s v j).p := rfl

theorem tapAdded_done_t {v : Tile} {j : Nat} : ({ tapAdded s v j with tapPend := false } : Tile).t = v.t := by
  show (tapAdded s v j).t = v.t
  rw [tapAdded_tile]

theorem blocks_eq : blocks_ = 9216 := rfl

theorem ledgerTap_yields (hr : runs .mp s = true) (hs : servedBy s f.val = some n) (hp : (tileOf s n).tapPend = true)
    (hi : s.faults.inj = none) :
    Yields (.ledgerTap f {}) s fun t => (∀ b, Tab.get 0 (tileOf t n).p b = Tab.get 0 (tileOf s n).p b
          + (if b < 9216 then match Tab.find (tileOf s n).shown (b / 96 * 4 / 16) with
              | some x => blockUnits (tileOf s n) x b * ledgerWeight s (x.strips.getD (b / 96 * 4 / 16) (false, 0)).2
              | none => 0
            else 0))
      ∧ (tileOf t n).t = (tileOf s n).t ∧ (tileOf t n).tapPend = false
      ∧ (∀ m, m ≠ n → (tileOf t m).p = (tileOf s m).p ∧ (tileOf t m).t = (tileOf s m).t) ∧ SameBut [.outputs, .tiles, .faults] s t := by
  have htile (m : Nat) : (tileOf (nextCommit (tapTaken n {} s)) m).p = (tileOf (tapTaken n {} s) m).p
      ∧ (tileOf (nextCommit (tapTaken n {} s)) m).t = (tileOf (tapTaken n {} s) m).t
      ∧ (tileOf (nextCommit (tapTaken n {} s)) m).tapPend = (tileOf (tapTaken n {} s) m).tapPend := by
    rw [nextCommit_leaves]
    exact ⟨rfl, rfl, rfl⟩
  obtain ⟨hnp, hnt, hntap⟩ := htile n
  have hn : tileOf (tapTaken n {} s) n = { tapAdded s (tileOf s n) blocks_ with tapPend := false } :=
    (tapTaken_tile hi).trans (if_pos rfl)
  refine ⟨_, ledgerTap_taps hr hs hp, fun b => ?_, ?_, ?_, fun m hm => ?_,
    nextCommit_frame (by decide) ((tapTaken_frame hi).mono (by decide))⟩
  · rw [hnp, hn, tapAdded_done_p, tapAdded_get, blocks_eq]
    exact congrArg (Tab.get 0 (tileOf s n).p b + ·) (if_congr Iff.rfl tapCharge_eq rfl)
  · rw [hnt, hn, tapAdded_done_t]
  · rw [hntap, hn]
  · obtain ⟨hmp, hmt, -⟩ := htile m
    rw [hmp, hmt, tapTaken_tile hi, if_neg hm]
    exact ⟨rfl, rfl⟩

theorem tapTaken_drives (h : ecc.bad ≠ []) : Drives 500 (tapTaken n ecc s) := by
  have hecc : Drives 500 (eccUncorrected blocks_ ecc.bad.length (eccCorrected ecc.corrected s)) :=
    eccUncorrected_drives fun h0 => h (List.length_eq_zero_iff.1 h0)
  exact hecc.of_frame (putTile_frame (l := [.freeCtr, .tiles, .journal]) (by decide) (losePending_frame (by decide) .refl))

theorem ledgerTap_errors (hr : runs .mp s = true) (hs : servedBy s f.val = some n) (hp : (tileOf s n).tapPend = true)
    (h : ecc.bad ≠ []) : Yields (.ledgerTap f ecc) s fun t => Drives 500 t ∧ (tileOf t n).tapPend = false := by
  refine ⟨_, ledgerTap_taps hr hs hp, (tapTaken_drives h).of_frame (nextCommit_frame (l := [.outputs, .tiles]) (by decide) .refl), ?_⟩
  rw [nextCommit_leaves]
  show (tileOf (putTile _ n _) n).tapPend = false
  rw [tileOf_putTile, if_pos rfl]

theorem ledgerTap_discards (hr : runs .mp s = true) (hs : servedBy s f.val = none) (hq : (frondOf s f.val).role = .quarantined) :
    Yields (.ledgerTap f ecc) s fun t => t.tiles = { s.tiles with discard := min (2 ^ 32 - 1) (s.tiles.discard + 1) } := by
  refine ⟨fencedWrite f.val (onTiles (fun k => { k with discard := satAdd (2 ^ 32 - 1) k.discard 1 }) s), (ifRuns_runs hr).trans ?_,
    (fencedWrite_frame (l := [.strip, .faults]) (by decide) .refl).tiles_eq⟩
  rw [hs]
  exact congrArg Host.Outcome.next (if_pos (decide_eq_true hq))

end Tap

/-! ### PERIODIC_LEDGER_COMMIT -/

section Periodic
variable {s : State} {n : Nat}

theorem periodicCommit_yields (hr : runs .mp s = true) (hn : s.nvm.running = true) :
    Yields .periodicLedgerCommit s fun t => (∀ n, n < 8 → tileOf t n =
        (if (tileOf s n).present = true ∧ (tileOf s n).phase = .ready then { tileOf s n with commitReq := true } else tileOf s n))
      ∧ SameBut [.tiles, .chain] s t := by
  refine .framed (ifRuns_when_yields hr hn fun hframe => ⟨fun n hlt => ?_, hframe⟩)
  have hbit : Nat.testBit 255 n = true := (Nat.testBit_two_pow_sub_one 8 n).trans (decide_eq_true hlt)
  rw [flushReport_tileOf, tileOf_onTiles, requestCommits_tile]
  · exact if_congr (by simp [hlt, hbit, Askable]) rfl rfl
  · exact fun _ => rfl

end Periodic

/-! ### COMMIT_READBACK -/

section Readback
variable {s : State} {n : Fin 8} {b : Bytes} {c : Commit} {k : Copy}

/-- A read-back judges the commit that runs (R278). -/
theorem commitReadback_judges (hr : runs .mp s = true) (hv : s.power.saving = false) (hc : (tileOf s n.val).commit = some c) :
    exec (.commitReadback n b) s = .next (flushReport (judgeCommit n.val (parseCopy c.serial b).isSome s)) := by
  refine (ifRuns_runs hr).trans ?_
  rw [hc]
  exact congrArg Host.Outcome.next (if_pos (by rw [hv]; rfl))

/-- What the end of a commit writes of its tile; the final one of a release also ends the release (R278 R286). -/
theorem commitEnded_eq {ok : Bool} {t : Tile} : commitEnded ok t = { t with
    commit := none, commitFailed := !ok, released := t.released || (commitFinal t && t.releasing)
    releasing := !commitFinal t && t.releasing } := by
  unfold commitEnded
  cases commitFinal t with
  | true => rfl
  | false =>
    rw [Bool.false_and, Bool.or_false]
    rfl

theorem commitFinal_committed {t : Tile} (hc : t.commit = some c) : commitFinal (committed c t) = c.final := by
  show commitFinal t = c.final
  rw [commitFinal, hc]

theorem commitReadback_good (hr : runs .mp s = true) (hv : s.power.saving = false) (hc : (tileOf s n.val).commit = some c)
    (hk : parseCopy c.serial b = some k) :
    Yields (.commitReadback n b) s fun t => (tileOf t n.val).commit = none ∧ (tileOf t n.val).commitFailed = false
      ∧ (tileOf t n.val).gen = c.gen ∧ (tileOf t n.val).time = c.time ∧ t.tiles.committing = none ∧ (tileOf t n.val).t = c.entries
      ∧ (∀ x v, (x, v) ∈ (tileOf t n.val).p ↔ v ≠ 0 ∧ ∃ w, (x, w) ∈ (tileOf s n.val).p ∧ v = w - Tab.get 0 c.snap x)
      ∧ (tileOf t n.val).released = ((tileOf s n.val).released || (c.final && (tileOf s n.val).releasing))
      ∧ (∀ m, m ≠ n.val → tileOf t m = tileOf s m) ∧ SameBut [.outputs, .rings, .tiles, .faults, .chain] s t := by
  have hexec : exec (.commitReadback n b) s
      = .next (flushReport (endCommit n.val true (putTile s n.val (committed c (tileOf s n.val))))) := by
    rw [commitReadback_judges hr hv hc, hk]
    exact congrArg (fun u => Host.Outcome.next (flushReport u)) (judgeCommit_good hc)
  have htile (m : Nat) : tileOf (flushReport (endCommit n.val true (putTile s n.val (committed c (tileOf s n.val))))) m
      = if m = n.val then commitEnded true (committed c (tileOf s n.val)) else tileOf s m := by
    rw [flushReport_tileOf, endCommit_tile, tileOf_putTile, if_pos rfl]
    split
    · rfl
    · next hm => exact (tileOf_putTile ..).trans (if_neg hm)
  refine .framed ⟨_, hexec, fun hframe => ?_⟩
  have hn := (htile n.val).trans (if_pos rfl)
  rw [commitEnded_eq, commitFinal_committed hc] at hn
  rw [hn]
  exact ⟨rfl, rfl, rfl, rfl, (congrArg _ flushReport_tiles).trans endCommit_committing, rfl, fun _ _ => mem_committed_p, rfl,
    fun m hm => (htile m).trans (if_neg hm), hframe⟩

theorem commitReadback_repeats (hr : runs .mp s = true) (hv : s.power.saving = false) (hc : (tileOf s n.val).commit = some c)
    (hk : parseCopy c.serial b = none) (hrep : c.repeated = false) :
    Yields (.commitReadback n b) s fun t => tileOf t n.val = { tileOf s n.val with commit := some { c with repeated := true } }
      ∧ (∀ m, m ≠ n.val → tileOf t m = tileOf s m) ∧ SameBut [.outputs, .rings, .tiles, .faults, .chain] s t := by
  have hexec : exec (.commitReadback n b) s
      = .next (flushReport (writeCopy n.val c (putTile s n.val { tileOf s n.val with commit := some { c with repeated := true } }))) := by
    rw [commitReadback_judges hr hv hc, hk]
    exact congrArg (fun u => Host.Outcome.next (flushReport u)) ((judgeCommit_bad hc).trans (if_neg (by simp [hrep])))
  have htile (m : Nat) : tileOf (flushReport (writeCopy n.val c
      (putTile s n.val { tileOf s n.val with commit := some { c with repeated := true } }))) m
      = if m = n.val then { tileOf s n.val with commit := some { c with repeated := true } } else tileOf s m := by
    rw [flushReport_tileOf]
    exact tileOf_putTile ..
  exact .framed ⟨_, hexec, fun hframe => ⟨(htile n.val).trans (if_pos rfl), fun m hm => (htile m).trans (if_neg hm), hframe⟩⟩

theorem commitReadback_fails (hr : runs .mp s = true) (hv : s.power.saving = false) (hc : (tileOf s n.val).commit = some c)
    (hk : parseCopy c.serial b = none) (hrep : c.repeated = true) (hf : c.final = false) :
    Yields (.commitReadback n b) s fun t => tileOf t n.val = { tileOf s n.val with commit := none, commitFailed := true }
      ∧ Drives 461 t ∧ t.tiles.committing = none ∧ (∀ m, m ≠ n.val → tileOf t m = tileOf s m)
      ∧ SameBut [.outputs, .rings, .tiles, .faults, .chain] s t := by
  have hexec : exec (.commitReadback n b) s = .next (flushReport (endCommit n.val false s)) := by
    rw [commitReadback_judges hr hv hc, hk]
    exact congrArg (fun u => Host.Outcome.next (flushReport u)) ((judgeCommit_bad hc).trans (if_pos hrep))
  have hplain : commitFinal (tileOf s n.val) = false := by
    rw [commitFinal, hc]
    exact hf
  have htile (m : Nat) : tileOf (flushReport (endCommit n.val false s)) m
      = if m = n.val then { tileOf s n.val with commit := none, commitFailed := true } else tileOf s m := by
    have hended : commitEnded false (tileOf s n.val) = { tileOf s n.val with commit := none, commitFailed := true } :=
      if_neg (by rw [hplain]; decide)
    rw [flushReport_tileOf, endCommit_tile, hended]
  exact .framed ⟨_, hexec, fun hframe => ⟨(htile n.val).trans (if_pos rfl),
    endCommit_drives.of_frame (flushReport_frame (l := [.tiles, .chain]) (by decide) .refl),
    (congrArg _ flushReport_tiles).trans endCommit_committing, fun m hm => (htile m).trans (if_neg hm), hframe⟩⟩

end Readback

/-- Settles O26: the gains and the tap follow the folds over their tiles and blocks; a read-back judges the commit that runs, and
what it writes of the tile is the end of that commit. -/
theorem ledgerCharge : Obligations.LedgerCharge :=
  ⟨fun _ => gainRecompute_yields, fun _ _ _ => ledgerTap_yields, fun _ _ _ _ => ledgerTap_errors, fun _ _ _ => ledgerTap_discards,
    fun _ => periodicCommit_yields, fun _ _ _ _ _ => commitReadback_good, fun _ _ _ _ => commitReadback_repeats,
    fun _ _ _ _ => commitReadback_fails⟩

end Sys2Proof.Machine
end

section
/-! The commands about tiles and their ledger: `TILE_CMD`, `LEDGER_READ` and `LEDGER_COMMIT` (R269 R279 R284 R285 R286 R287 R288). -/

set_option autoImplicit false
-- One declaration after the other: the text as one file holds many.
set_option Elab.async false

namespace Sys2Proof.Machine

/-! ### How a command of this family ends -/

section Ends
variable {s : State} {c : Instr} {id e op cmd a st : Nat} {d : Desc} {b r : Bytes} {f : Desc → Nat → State} {l : List Nat}

/-- A command that is a dispatched descriptor's operation ends as that does. -/
theorem exec_of_runOp {t : State} {g : Desc → State} (hr : Runs s id op d) (hexec : exec c s = runOp s id op g) (ht : g d = t) :
    exec c s = .next t := by
  rw [hexec, runOp_runs hr, ht]

/-- A command that does nothing but complete. -/
theorem Yields.of_complete (hr : Runs s id op d) (hc : exec c s = .next (complete id st r s)) :
    Yields c s fun t => Completed id d st r s t ∧ SameBut [.rings] s t :=
  ⟨_, hc, hr.completed, complete_frame (by decide) .refl⟩

/-- A command that writes bytes to host memory and completes. -/
theorem Yields.of_hostWrite (hr : Runs s id op d) (hc : exec c s = .next (complete id st r (hostWrite a b s))) :
    Yields c s fun t => t.outputs = (writePieces s.link.mps a b).reverse ++ s.outputs ∧ Completed id d st r s t
      ∧ SameBut [.outputs, .rings] s t :=
  ⟨_, hc, complete_outputs .., complete_completed hr.desc rfl rfl, complete_frame (by decide) (hostWrite_frame (by decide) .refl)⟩

/-- A completion leaves the descriptors of other numbers in flight. -/
theorem descOf_complete_other (he : e ≠ id) : descOf (complete id st r s) e = descOf s e := by
  unfold complete
  split
  · rfl
  · refine (List.find?_filter ..).trans (congrArg (fun p => s.rings.inflight.find? p) (funext fun x => ?_))
    by_cases hx : x.id = e
    · simp [hx, he]
    · simp [hx]

theorem descOf_completeAll_other (he : e ∉ l) : descOf (completeAll st l s) e = descOf s e := by
  induction l generalizing s with
  | nil => rfl
  | cons id l ih =>
    obtain ⟨hne, hl⟩ := not_or.1 (mt List.mem_cons.2 he)
    exact (ih hl).trans (descOf_complete_other hne)

end Ends

/-! ### TILE_CMD -/

section Tile
variable {s : State} {id n m : Nat} {d : Desc} {rescan : Bool}

theorem status_yields (hr : Runs s id 0x20 d) (hc : le d.bytes 17 1 = 0) (hd : dmaOk s = true) :
    Yields (.status id) s fun t => t.outputs = (writePieces s.link.mps (le d.bytes 24 8) (statusRecord s (descTile d))).reverse ++ s.outputs
      ∧ Completed id d stOK [] s t ∧ SameBut [.outputs, .rings] s t :=
  .of_hostWrite hr (exec_of_runOp hr rfl ((if_pos hc).trans (if_pos hd)))

theorem release_waits (hr : Runs s id 0x20 d) (hc : le d.bytes 17 1 = 1) (hp : (tileOf s (descTile d)).present = true)
    (hn : (tileOf s (descTile d)).released = false) :
    Yields (.release id) s fun t => tileOf t (descTile d) = { tileOf s (descTile d) with releaseTaken := !(tileOf s (descTile d)).releasing }
      ∧ descOf t id = some { d with taken := true } ∧ t.rings.done = s.rings.done
      ∧ (∀ m, m ≠ descTile d → tileOf t m = tileOf s m) ∧ SameBut [.rings, .tiles] s t := by
  refine ⟨updTile (descTile d) (fun t => { t with releaseTaken := !t.releasing }) (updDesc id (fun d => { d with taken := true }) s),
    exec_of_runOp hr rfl ((if_pos hc).trans (if_neg (by rw [hp, hn]; decide))), ?_, descOf_taken hr.desc, rfl, fun m hm => ?_,
    updTile_frame (by decide) (updDesc_frame (by decide) .refl)⟩
  · rw [tileOf_updTile, if_pos rfl]
    rfl
  · exact (tileOf_updTile ..).trans (if_neg hm)

theorem release_done (hr : Runs s id 0x20 d) (hc : le d.bytes 17 1 = 1)
    (h : (tileOf s (descTile d)).present = false ∨ (tileOf s (descTile d)).released = true) :
    Yields (.release id) s fun t => Completed id d stOK [] s t ∧ SameBut [.rings] s t := by
  refine .of_complete hr (exec_of_runOp hr rfl ((if_pos hc).trans (if_pos ?_)))
  rcases h with h | h
  · rw [h]; rfl
  · rw [h]; exact Bool.or_true _

/-- A tile whose release is over or given up (R284). -/
def unreleased (t : Tile) : Tile := { t with released := false, releasing := false, releaseTaken := false }

theorem endsRelease_eq : endsRelease n s = if commitFinal (tileOf s n) then putTile s n (unreleased (tileOf s n))
    else completeAll stCHECK (tileWaits (putTile s n (unreleased (tileOf s n))) n 1) (putTile s n (unreleased (tileOf s n))) := rfl

theorem endsRelease_tile : tileOf (endsRelease n s) m = if m = n then unreleased (tileOf s n) else tileOf s m := by
  rw [endsRelease_eq]
  split
  · exact tileOf_putTile ..
  · exact tileOf_completeAll.trans (tileOf_putTile ..)

theorem endsRelease_descOf (h : id ∉ tileWaits s n 1) : descOf (endsRelease n s) id = descOf s id := by
  rw [endsRelease_eq]
  split
  · rfl
  · exact descOf_completeAll_other h

/-- A taken `TILE_CMD` waits for its own command only (R284). -/
theorem taken_not_waits (hc : le d.bytes 17 1 ≠ m) (hu : ∀ e ∈ s.rings.inflight, e.id = id → e = d) :
    id ∉ tileWaits (updDesc id (fun d => { d with taken := true }) s) n m := by
  intro hw
  obtain ⟨e', hmem, hid⟩ := List.mem_map.1 hw
  obtain ⟨hin, hcond⟩ := List.mem_filter.1 hmem
  obtain ⟨e, he, rfl⟩ := List.mem_map.1 hin
  by_cases h : e.id = id
  · cases hu e he h
    simp [h, hc] at hcond
  · rw [if_neg h] at hid
    exact h hid

theorem rescan_reads (hr : Runs s id 0x20 d) (hc : le d.bytes 17 1 = 2) (hp : (tileOf s (descTile d)).present = true) :
    exec (.rescan id) s = .next (startRead1 (descTile d) true (updDesc id (fun d => { d with taken := true }) s)) :=
  exec_of_runOp hr rfl ((if_pos hc).trans (if_pos hp))

theorem returnTile_reads (hr : Runs s id 0x20 d) (hc : le d.bytes 17 1 = 6) (hp : (tileOf s (descTile d)).present = true) :
    exec (.returnTile id) s
      = .next (startRead1 (descTile d) true (endsRelease (descTile d) (updDesc id (fun d => { d with taken := true }) s))) :=
  exec_of_runOp hr rfl ((if_pos hc).trans (if_pos hp))

theorem rescan_yields (hr : Runs s id 0x20 d) (hc : le d.bytes 17 1 = 2) (hp : (tileOf s (descTile d)).present = true) :
    Yields (.rescan id) s fun t => tileOf t (descTile d) = readAfresh true (tileOf s (descTile d))
      ∧ t.outputs = .tileBusRead (descTile d) 0x52 0 256 :: s.outputs ∧ descOf t id = some { d with taken := true }
      ∧ (∀ m, m ≠ descTile d → tileOf t m = tileOf s m) ∧ SameBut [.outputs, .rings, .tiles] s t :=
  ⟨_, rescan_reads hr hc hp, startRead1_tile.trans (if_pos rfl), rfl, descOf_taken hr.desc,
    fun _ hm => startRead1_tile.trans (if_neg hm), startRead1_frame (by decide) (updDesc_frame (by decide) .refl)⟩

theorem returnTile_yields (hr : Runs s id 0x20 d) (hc : le d.bytes 17 1 = 6) (hp : (tileOf s (descTile d)).present = true)
    (hu : ∀ e ∈ s.rings.inflight, e.id = id → e = d) :
    Yields (.returnTile id) s fun t => tileOf t (descTile d) = readAfresh true (unreleased (tileOf s (descTile d)))
      ∧ t.outputs = .tileBusRead (descTile d) 0x52 0 256 :: s.outputs ∧ descOf t id = some { d with taken := true }
      ∧ (∀ m, m ≠ descTile d → tileOf t m = tileOf s m) ∧ SameBut [.outputs, .rings, .tiles] s t := by
  have hends : SameBut [.rings, .tiles] s (endsRelease (descTile d) (updDesc id (fun d => { d with taken := true }) s)) :=
    endsRelease_frame (by decide) (updDesc_frame (by decide) .refl)
  refine ⟨_, returnTile_reads hr hc hp, ?_, ?_, ?_, fun m hm => ?_, startRead1_frame (by decide) (hends.mono (by decide))⟩
  · rw [startRead1_tile, if_pos rfl, endsRelease_tile, if_pos rfl]
    rfl
  · rw [startRead1_outputs, hends.outputs_eq]
  · exact (endsRelease_descOf (taken_not_waits (by rw [hc]; decide) hu)).trans (descOf_taken hr.desc)
  · rw [startRead1_tile, if_neg hm, endsRelease_tile, if_neg hm]
    rfl

theorem idRead_yields (hr : Runs s id 0x20 d) (hc : le d.bytes 17 1 = 3) (hd : dmaOk s = true)
    (hb : (tileOf s (descTile d)).headerBytes ≠ []) :
    Yields (.idRead id) s fun t => t.outputs = (writePieces s.link.mps (le d.bytes 24 8) (tileOf s (descTile d)).headerBytes).reverse
        ++ s.outputs ∧ Completed id d stOK [] s t ∧ SameBut [.outputs, .rings] s t :=
  .of_hostWrite hr (exec_of_runOp hr rfl ((if_pos hc).trans ((if_neg (mt List.isEmpty_iff.1 hb)).trans (if_pos hd))))

theorem idRead_unread (hr : Runs s id 0x20 d) (hc : le d.bytes 17 1 = 3) (hb : (tileOf s (descTile d)).headerBytes = []) :
    Yields (.idRead id) s fun t => Completed id d stCHECK [] s t ∧ SameBut [.rings] s t :=
  .of_complete hr (exec_of_runOp hr rfl ((if_pos hc).trans (if_pos (List.isEmpty_iff.2 hb))))

theorem orphanInfo_yields (hr : Runs s id 0x20 d) (hc : le d.bytes 17 1 = 4) (hd : dmaOk s = true) :
    Yields (.orphanInfo id) s fun t =>
      t.outputs = (writePieces s.link.mps (le d.bytes 24 8) (fit 256 (s.journal.orphans.flatMap orphanEntry))).reverse ++ s.outputs
      ∧ Completed id d stOK [] s t ∧ SameBut [.outputs, .rings] s t :=
  .of_hostWrite hr (exec_of_runOp hr rfl ((if_pos hc).trans (if_pos hd)))

theorem orphanClear_yields (hr : Runs s id 0x20 d) (hc : le d.bytes 17 1 = 5) :
    Yields (.orphanClear id) s fun t => t.journal = { s.journal with orphans := s.journal.orphans.eraseIdx (descTile d) }
      ∧ Completed id d stOK [] s t ∧ SameBut [.rings, .journal] s t :=
  .framed ⟨_, exec_of_runOp hr rfl (if_pos hc), fun hframe => ⟨complete_journal .., complete_completed hr.desc rfl rfl, hframe⟩⟩

end Tile

/-! ### LEDGER_READ and LEDGER_COMMIT -/

section Ledger
variable {s : State} {id n k : Nat} {d : Desc}

theorem ledgerRead_yields (hr : Runs s id 0x21 d) (hd : dmaOk s = true) (hp : (tileOf s (descTile d)).present = true)
    (hb : (tileOf s (descTile d)).baseKnown = true) :
    Yields (.ledgerRead id) s fun t => t.outputs = (writePieces s.link.mps (le d.bytes 32 8)
        ((List.range (le d.bytes 24 4)).flatMap fun k => toLe 8 (chargeEntry (tileOf s (descTile d)) (le d.bytes 20 4 + k)))).reverse ++ s.outputs
      ∧ Completed id d stOK (toLe 4 (8 * le d.bytes 24 4)) s t ∧ SameBut [.outputs, .rings] s t :=
  .of_hostWrite hr (exec_of_runOp hr rfl
    ((if_neg (by rw [hp]; decide)).trans ((if_neg (by rw [hb]; decide)).trans (if_pos hd))))

/-- Requested commits write nothing of the table but the tiles (R279). -/
theorem requestCommits_waits {m : Nat} : (requestCommits m k s).1.tiles.waits = s.tiles.waits := by
  induction k with
  | zero => rfl
  | succ k ih =>
    unfold requestCommits
    dsimp only
    split
    · exact ih
    · exact ih

/-- A `LEDGER_COMMIT` that some tile answers waits for those tiles (R288). -/
def commitAwaited (id : Nat) (d : Desc) (s : State) : State :=
  onTiles (fun k => { k with waits := k.waits ++ [{ id, tiles := (requestCommits (le d.bytes 16 1) 8 s).2 }] })
    (updDesc id (fun d => { d with taken := true }) (requestCommits (le d.bytes 16 1) 8 s).1)

theorem ledgerCommit_waits (hr : Runs s id 0x22 d) (h : (requestCommits (le d.bytes 16 1) 8 s).2 ≠ 0) :
    exec (.ledgerCommit id) s = .next (commitAwaited id d s) := exec_of_runOp hr rfl (if_neg h)

theorem ledgerCommit_yields (hr : Runs s id 0x22 d) (hn : n < 8) (hb : (le d.bytes 16 1).testBit n = true)
    (hp : (tileOf s n).present = true) (hq : (tileOf s n).phase = .ready) :
    Yields (.ledgerCommit id) s fun t => (tileOf t n).commitReq = true ∧ descOf t id = some { d with taken := true }
      ∧ (∃ w : CommitWait, t.tiles.waits = s.tiles.waits ++ [w] ∧ w.id = id ∧ w.tiles.testBit n = true)
      ∧ t.rings.done = s.rings.done ∧ SameBut [.rings, .tiles] s t := by
  have hasked : n < 8 ∧ Askable s (le d.bytes 16 1) n := ⟨hn, hb, hp, hq⟩
  have hmask : (requestCommits (le d.bytes 16 1) 8 s).2.testBit n = true := requestCommits_mask.trans (decide_eq_true hasked)
  have hsome : (requestCommits (le d.bytes 16 1) 8 s).2 ≠ 0 := fun h => by
    rw [h, Nat.zero_testBit] at hmask
    exact Bool.false_ne_true hmask
  have hreq : SameBut [.tiles] s (requestCommits (le d.bytes 16 1) 8 s).1 := requestCommits_frame (by decide) .refl
  have htile : tileOf (commitAwaited id d s) n = commitAsked (tileOf s n) :=
    (tileOf_onTiles fun _ => rfl).trans (requestCommits_tile.trans (if_pos hasked))
  refine .framed ⟨_, ledgerCommit_waits hr hsome, fun hframe => ⟨?_, ?_,
    ⟨{ id, tiles := (requestCommits (le d.bytes 16 1) 8 s).2 }, ?_, rfl, hmask⟩, ?_, hframe⟩⟩
  · exact congrArg Tile.commitReq htile
  · exact descOf_taken ((hreq.descOf_eq id).trans hr.desc)
  · exact congrArg (· ++ [_]) requestCommits_waits
  · show (requestCommits (le d.bytes 16 1) 8 s).1.rings.done = _
    rw [hreq.rings_eq]

end Ledger

/-- Settles O27: each command runs once dispatched; those that read end in one write to host memory and their completion, those
that begin something on a tile stay in flight as taken. -/
theorem tileCommands : Obligations.TileCommands := by
  refine ⟨fun _ _ _ => status_yields, fun _ _ _ => release_waits, fun _ _ _ => release_done, fun c s id d hc hr hp hu => ?_,
    fun _ _ _ => idRead_yields, fun _ _ _ => idRead_unread, fun _ _ _ => orphanInfo_yields, fun _ _ _ => orphanClear_yields,
    fun _ _ _ => ledgerRead_yields, fun _ _ _ _ => ledgerCommit_yields⟩
  rcases hc with ⟨rfl, hcmd⟩ | ⟨rfl, hcmd⟩
  · obtain ⟨t, hexec, htile, hout, hdesc, hother, hframe⟩ := rescan_yields hr hcmd hp
    rw [if_pos rfl]
    refine ⟨t, hexec, ?_⟩
    dsimp only
    rw [htile]
    exact ⟨rfl, rfl, rfl, rfl, hout, hdesc, hother, hframe⟩
  · obtain ⟨t, hexec, htile, hout, hdesc, hother, hframe⟩ := returnTile_yields hr hcmd hp hu
    rw [if_neg nofun]
    refine ⟨t, hexec, ?_⟩
    dsimp only
    rw [htile]
    exact ⟨rfl, rfl, rfl, rfl, hout, hdesc, hother, hframe⟩

end Sys2Proof.Machine
end

section
/-! Verdict maps and the tile map: reads of the verdicts, probe periods, a map that was read again (R272 R301 R308 R314 R317). -/

set_option autoImplicit false
-- One declaration after the other: the text as one file holds many.
set_option Elab.async false

namespace Sys2Proof.Machine

/-! ### DIAG_READ -/

section Read
variable {s : State} {id : Nat} {d : Desc}

/-- The completion of a `DIAG_READ` from a map (R314). -/
def diagTold (id : Nat) (d : Desc) (g : Diag) (s : State) : State :=
  complete id (if countVerdict g (le d.bytes 20 4) (le d.bytes 24 4) 0 = 0 then stOK else stUNTESTED)
    (toLe 4 (countVerdict g (le d.bytes 20 4) (le d.bytes 24 4) 2) ++ toLe 4 (countVerdict g (le d.bytes 20 4) (le d.bytes 24 4) 3)
      ++ toLe 4 (countVerdict g (le d.bytes 20 4) (le d.bytes 24 4) 0))
    (hostWrite (le d.bytes 32 8) (diagRows g (le d.bytes 20 4) (le d.bytes 24 4)) s)

theorem diagRead_tells (hr : Runs s id 0x23 d) (hd : dmaOk s = true) (ho : (tileOf s (le d.bytes 16 1)).noOwner = false)
    (hp : (tileOf s (le d.bytes 16 1)).present = true) :
    exec (.diagRead id) s = .next (diagTold id d (tileOf s (le d.bytes 16 1)).diag s) :=
  exec_of_runOp hr rfl ((if_neg (by rw [ho]; decide)).trans ((if_pos hd).trans
    (congrArg (fun g => diagTold id d g s) (if_pos hp))))

theorem diagRead_unowned (hr : Runs s id 0x23 d) (ho : (tileOf s (le d.bytes 16 1)).noOwner = true) :
    exec (.diagRead id) s = .next (complete id stQUARANTINE [] s) := exec_of_runOp hr rfl (if_pos ho)

end Read

/-! ### PROBE_PERIOD -/

section Probe
variable {s : State} {k m ix : Nat} {g : Diag}

theorem probeEnds_tile : tileOf (probeEnds k s) m
    = if m < k then { tileOf s m with diag := probeEnd (tileOf s m).diag } else tileOf s m := by
  induction k generalizing m with
  | zero => rw [if_neg (Nat.not_lt_zero m)]; rfl
  | succ k ih =>
    have hk : tileOf (probeEnds k s) k = tileOf s k := ih.trans (if_neg (lt_irrefl k))
    rw [probeEnds, tileOf_updTile, hk, ih]
    rcases Nat.lt_trichotomy m k with h | rfl | h
    · rw [if_neg (Nat.ne_of_lt h), if_pos h, if_pos (by omega)]
    · rw [if_pos rfl, if_pos m.lt_succ_self]
    · rw [if_neg (by omega), if_neg (by omega), if_neg (by omega)]

theorem testBit_allPixels (h : ix < 147456) : allPixels.testBit ix = true := by
  rw [allPixels, Nat.testBit_two_pow_sub_one]
  exact decide_eq_true h

/-- A pixel is untested if both bits of its verdict are 0 (R301). -/
theorem verdictOf_eq_zero : verdictOf g ix = 0 ↔ (g.vLo ||| g.vHi).testBit ix = false := by
  rw [verdictOf, Nat.testBit_or]
  cases g.vLo.testBit ix <;> cases g.vHi.testBit ix <;> decide

/-- At the end of a probe period the untested pixels whose tested bit is 0 become due (R308). -/
theorem probeEnd_due (h : ix < 147456) : (probeEnd g).due.testBit ix = true
    ↔ g.due.testBit ix = true ∨ (g.tested.testBit ix = false ∧ verdictOf g ix = 0) := by
  rw [verdictOf_eq_zero]
  show (g.due ||| ((allPixels ^^^ g.tested) &&& (allPixels ^^^ (g.vLo ||| g.vHi)))).testBit ix = true ↔ _
  rw [Nat.testBit_or, Nat.testBit_and, Nat.testBit_xor, Nat.testBit_xor, testBit_allPixels h]
  simp only [Bool.true_xor, Bool.or_eq_true, Bool.and_eq_true, Bool.not_eq_true']

theorem probePeriod_yields (hr : runs .frond s = true) (hn : s.nvm.running = true) :
    Yields .probePeriod s fun t => (∀ n, n < 8 → tileOf t n = { tileOf s n with diag := probeEnd (tileOf s n).diag })
      ∧ (∀ n ix, n < 8 → ix < 147456 → ((tileOf t n).diag.due.testBit ix = true ↔ (tileOf s n).diag.due.testBit ix = true
          ∨ ((tileOf s n).diag.tested.testBit ix = false ∧ verdictOf (tileOf s n).diag ix = 0)))
      ∧ SameBut [.tiles] s t := by
  have htile (n : Nat) (h : n < 8) : tileOf (probeEnds 8 s) n = { tileOf s n with diag := probeEnd (tileOf s n).diag } :=
    probeEnds_tile.trans (if_pos h)
  refine .framed (ifRuns_when_yields hr hn fun hframe => ⟨htile, fun n ix h hix => ?_, hframe⟩)
  rw [htile n h]
  exact probeEnd_due hix

end Probe

/-! ### MAP_REREAD_COMPLETE -/

section Reread
variable {s : State} {n : Fin 8} {m : Bytes} {h : Header}

/-- The map of a position that was read again, judged by its check (R272 R317). -/
def rereadJudged (n : Nat) (m : Bytes) (h : Header) (s : State) : State :=
  if m.length = 147456 ∧ crc32c m = h.mapCrc then { s with cmp := { s.cmp with gate := s.cmp.gate ++ [(true, .map n m)] } } else s

theorem mapReread_judges (hr : runs .frond s = true) (hm : (tileOf s n.val).mapPending = true) (hh : (tileOf s n.val).header = some h) :
    exec (.mapRereadComplete n m) s
      = .next (rereadJudged n.val m h (putTile s n.val { tileOf s n.val with mapPending := false })) := by
  refine (ifRuns_runs hr).trans ((if_neg (by rw [hm]; decide)).trans ?_)
  split
  · next x hx => cases hh.symm.trans hx; rfl
  · next hx => cases hh.symm.trans hx

theorem rereadJudged_frame : SameBut [.cmp] s (rereadJudged n.val m h s) := .ite (fun _ => setCmp_frame rfl (by decide) .refl) fun _ => .refl

theorem rereadJudged_cmp : (rereadJudged n.val m h s).cmp = { s.cmp with gate := s.cmp.gate
    ++ (if m.length = 147456 ∧ crc32c m = h.mapCrc then [(true, .map n.val m)] else []) } := by
  unfold rereadJudged
  split
  · rfl
  · rw [List.append_nil]

theorem mapReread_yields (hr : runs .frond s = true) (hm : (tileOf s n.val).mapPending = true) (hh : (tileOf s n.val).header = some h) :
    Yields (.mapRereadComplete n m) s fun t => tileOf t n.val = { tileOf s n.val with mapPending := false }
      ∧ t.cmp = { s.cmp with gate := s.cmp.gate ++ (if m.length = 147456 ∧ crc32c m = h.mapCrc then [(true, .map n.val m)] else []) }
      ∧ (∀ k, k ≠ n.val → tileOf t k = tileOf s k) ∧ SameBut [.cmp, .tiles] s t := by
  have htile (k : Nat) : tileOf (rereadJudged n.val m h (putTile s n.val { tileOf s n.val with mapPending := false })) k
      = if k = n.val then { tileOf s n.val with mapPending := false } else tileOf s k :=
    (rereadJudged_frame.tileOf_eq k).trans (tileOf_putTile ..)
  exact .framed ⟨_, mapReread_judges hr hm hh, fun hframe =>
    ⟨(htile n.val).trans (if_pos rfl), rereadJudged_cmp, fun k hk => (htile k).trans (if_neg hk), hframe⟩⟩

end Reread

/-- Settles O28: a read tells the map that stands at its position; a probe period acts on each map alone, bit by bit; a map that was
read again goes to the flip gate if its check holds. -/
theorem verdictMaps : Obligations.VerdictMaps :=
  ⟨fun _ _ _ hr hd ho hp => .of_hostWrite hr (diagRead_tells hr hd ho hp), fun _ _ _ hr ho => .of_complete hr (diagRead_unowned hr ho),
    fun _ => probePeriod_yields, fun _ _ _ _ => mapReread_yields⟩

end Sys2Proof.Machine
end

section
/-! The operations of the safety channels, channel by channel: an output taken low, a demand learnt and signalled, and what they leave of the
set in force, the restart condition and the fault conditions (R333 R335 R336 R337). -/

set_option autoImplicit false
-- One declaration after the other: the text as one file holds many.
set_option Elab.async false

namespace Sys2Proof.Machine

/-! ### The two channels -/

section Channels
variable {s t : State} {c d : Chan} {f g : Channel → Channel} {k : Safety → Safety} {l : List Part} {p : Pair}

@[simp] theorem otherChan_ne (c : Chan) : otherChan c ≠ c := by cases c <;> decide

@[simp] theorem ne_otherChan (c : Chan) : c ≠ otherChan c := (otherChan_ne c).symm

/-- What holds of a channel and of the other one holds of both. -/
theorem forall_chan_of {P : Chan → Prop} (c : Chan) (h : P c) (ho : P (otherChan c)) (d : Chan) : P d := by
  cases c <;> cases d <;> assumption

theorem chanOf_updChan_self : chanOf (updChan c f s) c = f (chanOf s c) := by rw [chanOf_updChan, if_pos rfl]

theorem chanOf_updChan_other : chanOf (updChan c f s) (otherChan c) = chanOf s (otherChan c) := by
  rw [chanOf_updChan, if_neg (otherChan_ne c)]

/-- Both channels are changed alike. -/
theorem chanOf_onSaf (ha : (k s.safety).a = g s.safety.a) (hb : (k s.safety).b = g s.safety.b) : chanOf (onSaf k s) d = g (chanOf s d) := by
  cases d
  · exact ha
  · exact hb

/-- A channel whose output has been taken low; a test of it that is under way loses its verdict (R333 R342). -/
def lowered (x : Channel) : Channel := { x with slo := false, outDiscard := x.outDiscard || x.outTest }

/-- The supply's going off leaves the channels as they are with the output low. -/
theorem chanOf_sloOff : chanOf (sloOff c s) d = chanOf (updChan c lowered s) d :=
  SameBut.chanOf_eq (l := [.strip, .tiles]) (.ite (fun _ => .ite (fun _ => stopFronds_frame (by decide) (supplyGone_frame (by decide) .refl)) fun _ =>
    supplyGone_frame (by decide) .refl) fun _ => .refl) d

theorem chanOf_sloOff_self : chanOf (sloOff c s) c = lowered (chanOf s c) := chanOf_sloOff.trans chanOf_updChan_self

theorem chanOf_lightOff : chanOf (lightOff s) d = lowered (chanOf s d) := by
  cases d
  · exact (sloOff_other .b _).trans chanOf_sloOff_self
  · exact chanOf_sloOff_self.trans (congrArg lowered (sloOff_other .a s))

/-- The enable of a pair lies in the set in force (R354). -/
theorem SameBut.pairOn_eq (h : SameBut l s t) (p : Pair) (hs : .safeSet ∉ l := by decide) : pairOn t p = pairOn s p := by
  obtain ⟨hset, -, -⟩ := h.parts .safeSet hs
  simp only [pairOn, hset]

theorem SameBut.fbOn_eq (h : SameBut l s t) (c : Chan) (hs : .safeSet ∉ l := by decide) : fbOn t c = fbOn s c := by
  obtain ⟨hset, -, -⟩ := h.parts .safeSet hs
  simp only [fbOn, hset]

theorem SameBut.src_eq (h : SameBut l s t) (hs : .safeSet ∉ l := by decide) : t.safety.src = s.safety.src := (h.parts .safeSet hs).2.1

theorem SameBut.awaited_eq (h : SameBut l s t) (hs : .safety ∉ l := by decide) : t.safety.awaited = s.safety.awaited :=
  (congrArg Safety.awaited (h.parts .safety hs) :)

theorem SameBut.hatchSince_eq (h : SameBut l s t) (hs : .safety ∉ l := by decide) : t.safety.hatchSince = s.safety.hatchSince :=
  (congrArg Safety.hatchSince (h.parts .safety hs) :)

/-- The restart code that applies is a matter of the set in force and of what is awaited (R337 R361). -/
theorem SameBut.restartCode_eq (h : SameBut l s t) (hi : .safeSet ∉ l := by decide) (hs : .safety ∉ l := by decide) :
    restartCode t = restartCode s := by
  obtain ⟨hset, -, -⟩ := h.parts .safeSet hi
  simp only [restartCode, setCode, h.pairOn_eq .hatch hi, h.awaited_eq hs, hset]

end Channels

/-! ### Fault conditions -/

section Conditions
variable {s t : State} {m n : Nat} {l : List Part}

theorem condOn_lasts_iff : Lasts m (condOn n s) ↔ Lasts m s ∨ m = n := by
  unfold Lasts condOn
  split
  · next h => exact ⟨.inl, fun hm => hm.elim id fun e => e ▸ h⟩
  · rw [raise_cond]
    simp [Nat.testBit_or, Nat.testBit_two_pow, eq_comm (a := n)]

theorem condOff_lasts_iff : Lasts m (condOff n s) ↔ Lasts m s ∧ m ≠ n := by
  unfold Lasts condOff
  split
  · simp only [putBit_testBit]
    split <;> simp_all
  · next h => exact ⟨fun hm => ⟨hm, fun e => h (e ▸ hm)⟩, And.left⟩

theorem SameBut.lasts_iff (h : SameBut l s t) (hf : .faults ∉ l := by decide) : Lasts m t ↔ Lasts m s := by
  have hcond : t.faults.cond = s.faults.cond := (congrArg Faults.cond (h.parts .faults hf) :)
  simp only [Lasts, hcond]

end Conditions

/-! ### Demands (R335 R336) -/

section Demands
variable {s t : State} {c d : Chan} {p q : Pair}

/-- The level of an input as its channel holds it (R362). -/
def setInput (p : Pair) (v : Bool) (x : Channel) : Channel := match p with | .hatch => { x with hatch := v } | .estop => { x with estop := v }

/-- A channel that learns of a pair in demand; a stop pressed again is not released (R335 R337). -/
def demanded (p : Pair) (x : Channel) : Channel :=
  match p with | .hatch => { x with demHatch := true } | .estop => { x with demEstop := true, released := false }

/-- A channel to which the signal of a pair is on its way, or has come (R335). -/
def setSignal (p : Pair) (v : Bool) (x : Channel) : Channel := match p with | .hatch => { x with sigHatch := v } | .estop => { x with sigEstop := v }

/-- A channel with the latch of a pair's discrepancy (R336). -/
def setDisc (p : Pair) (v : Bool) (x : Channel) : Channel := match p with | .hatch => { x with discHatch := v } | .estop => { x with discEstop := v }

theorem pairDisc_eq : pairDisc s p = (discHeld (chanOf s .a) p || discHeld (chanOf s .b) p) := by cases p <;> rfl

/-- A pair is in demand while either channel knows of it or holds its discrepancy. -/
theorem pairDemand_eq : pairDemand s p
    = (discHeld (chanOf s .a) p || discHeld (chanOf s .b) p || (demandKnown (chanOf s .a) p || demandKnown (chanOf s .b) p)) := by
  cases p <;> rfl

theorem pairDisc_congr (h : ∀ c, discHeld (chanOf t c) p = discHeld (chanOf s c) p) : pairDisc t p = pairDisc s p := by
  simp only [pairDisc_eq, h]

theorem pairDemand_congr (hd : ∀ c, discHeld (chanOf t c) p = discHeld (chanOf s c) p)
    (hk : ∀ c, demandKnown (chanOf t c) p = demandKnown (chanOf s c) p) : pairDemand t p = pairDemand s p := by
  simp only [pairDemand_eq, hd, hk]

theorem pairDemand_of_discHeld (h : discHeld (chanOf s c) p = true) : pairDemand s p = true := by
  rw [pairDemand_eq]
  cases c <;> simp [h]

/-- A demand that begins is a condition of the pair's slot (R370). -/
theorem demandBegins_lasts (h : pairDemand s p = false) : Lasts (pairSlot p) (demandBegins p s) := by
  rw [demandBegins, if_neg (by simp [h])]
  exact condOn_cond _ _

theorem chanOf_demandBegins : chanOf (stopAgain p (demandBegins p s)) d = chanOf s d :=
  SameBut.chanOf_eq (l := [.safety, .faults]) (stopAgain_frame (by decide) (demandBegins_frame (by decide) .refl)) d

theorem chanOf_setDemand_self : chanOf (setDemand c p s) c = lowered (demanded p (chanOf s c)) := by
  rw [setDemand, chanOf_sloOff_self, chanOf_updChan_self, chanOf_demandBegins]
  rfl

theorem chanOf_setDemand_other : chanOf (setDemand c p s) (otherChan c) = chanOf s (otherChan c) := by
  rw [setDemand, sloOff_other, chanOf_updChan_other, chanOf_demandBegins]

/-- Learning of a demand begins it, if it has not begun. -/
theorem setDemand_lasts (h : pairDemand s p = false) : Lasts (pairSlot p) (setDemand c p s) :=
  (SameBut.lasts_iff (l := [.strip, .tiles, .chans, .safety])
    (sloOff_frame (by decide) (updChan_frame (by decide) (stopAgain_frame (by decide) .refl)))).2 (demandBegins_lasts h)

theorem chanOf_sendSignal : chanOf (sendSignal c p s) d = if d = c then setSignal p true (chanOf s c) else chanOf s d := chanOf_updChan

end Demands

/-! ### What the changes of a channel leave -/

section Fields
variable {x : Channel} {p q : Pair} {v : Bool}

@[simp] theorem lowered_slo : (lowered x).slo = false := rfl
@[simp] theorem demandKnown_lowered : demandKnown (lowered x) p = demandKnown x p := by cases p <;> rfl
@[simp] theorem signalled_lowered : signalled (lowered x) p = signalled x p := by cases p <;> rfl

@[simp] theorem demandKnown_demanded : demandKnown (demanded p x) p = true := by cases p <;> rfl
@[simp] theorem signalled_demanded : signalled (demanded p x) q = signalled x q := by cases p <;> cases q <;> rfl

@[simp] theorem setInput_slo : (setInput p v x).slo = x.slo := by cases p <;> rfl
@[simp] theorem demandKnown_setInput : demandKnown (setInput p v x) q = demandKnown x q := by cases p <;> cases q <;> rfl
@[simp] theorem discHeld_setInput : discHeld (setInput p v x) q = discHeld x q := by cases p <;> cases q <;> rfl

@[simp] theorem setSignal_slo : (setSignal p v x).slo = x.slo := by cases p <;> rfl
@[simp] theorem demandKnown_setSignal : demandKnown (setSignal p v x) q = demandKnown x q := by cases p <;> cases q <;> rfl
@[simp] theorem discHeld_setSignal : discHeld (setSignal p v x) q = discHeld x q := by cases p <;> cases q <;> rfl
@[simp] theorem signalled_setSignal : signalled (setSignal p v x) p = v := by cases p <;> rfl

@[simp] theorem setDisc_slo : (setDisc p v x).slo = x.slo := by cases p <;> rfl
@[simp] theorem demandKnown_setDisc : demandKnown (setDisc p v x) q = demandKnown x q := by cases p <;> cases q <;> rfl
@[simp] theorem discHeld_setDisc : discHeld (setDisc p v x) q = if q = p then v else discHeld x q := by cases p <;> cases q <;> rfl

end Fields

end Sys2Proof.Machine
end


section
/-! The safe direction of the outputs: what no command but the cross-link exchange does is to permit an output high (R332 R333). -/

set_option autoImplicit false
-- One declaration after the other: the text as one file holds many.
set_option Elab.async false

namespace Sys2Proof.Machine

/-! ### No output rises -/

/-- No output rises over a change: one that is permitted high was so before. -/
def NoRise (s t : State) : Prop := ∀ c, (chanOf t c).slo = true → (chanOf s c).slo = true

/-- Every part but the two channels. -/
abbrev partsButChans : List Part :=
  [.outputs, .freeCtr, .boot, .power, .link, .prot, .rings, .cache, .cmp, .frm, .strip, .tiles, .journal, .safeSet, .safety, .slots, .faults, .cal,
    .therm, .chain, .time, .pages, .nvm]

section Rules
variable {b s t : State} {l : List Part} {c : Chan} {p : Pair} {o : Out}

theorem NoRise.refl : NoRise s s := fun _ => id

theorem NoRise.trans (h : NoRise b s) (k : NoRise s t) : NoRise b t := fun c hc => h c (k c hc)

/-- The channels are as they were. -/
theorem NoRise.kept (ha : t.safety.a = s.safety.a) (hb : t.safety.b = s.safety.b) : NoRise s t := by
  intro c hc
  cases c
  · exact (congrArg Channel.slo ha).symm.trans hc
  · exact (congrArg Channel.slo hb).symm.trans hc

/-- A chip reset leaves both outputs low (R53). -/
theorem NoRise.dark (h : t.safety = {}) : NoRise s t := by
  intro c hc
  cases c <;> simp [chanOf, h] at hc

/-- What does not write the channels comes after any change. -/
theorem NoRise.quiet (k : SameBut partsButChans s t) (h : NoRise b s) : NoRise b t := fun c hc => h c (k.chanOf_eq c ▸ hc)

theorem NoRise.ite {q : Prop} [Decidable q] (h1 : q → NoRise b s) (h2 : ¬q → NoRise b t) : NoRise b (if q then s else t) := by
  split
  · exact h1 ‹_›
  · exact h2 ‹_›

/-- A meaning that does not write the channels. -/
theorem Goes.noRise (h : Goes l s o) (hc : .chans ∉ l := by decide) : EndsIn (NoRise s) o := by
  obtain ⟨t, rfl, ht⟩ := h
  exact .next (.kept (ht.chans_eq hc).1 (ht.chans_eq hc).2)

theorem updChan_noRise {f : Channel → Channel} (hf : ∀ x, (f x).slo = true → x.slo = true) (h : NoRise b s) : NoRise b (updChan c f s) := by
  refine h.trans fun d hd => ?_
  rw [chanOf_updChan] at hd
  split at hd
  · next e => exact e ▸ hf _ hd
  · exact hd

theorem onSaf_noRise {f : Safety → Safety} (ha : ∀ k, (f k).a.slo = true → k.a.slo = true) (hb : ∀ k, (f k).b.slo = true → k.b.slo = true)
    (h : NoRise b s) : NoRise b (onSaf f s) := by
  refine h.trans fun d hd => ?_
  cases d
  · exact ha _ hd
  · exact hb _ hd

theorem sloOff_noRise (h : NoRise b s) : NoRise b (sloOff c s) := by
  refine h.trans fun d hd => ?_
  rw [chanOf_sloOff] at hd
  exact updChan_noRise (fun _ => Bool.noConfusion) .refl d hd

theorem lightOff_noRise (h : NoRise b s) : NoRise b (lightOff s) := sloOff_noRise (sloOff_noRise h)

theorem setDemand_noRise (h : NoRise b s) : NoRise b (setDemand c p s) := by
  have hb : NoRise b (stopAgain p (demandBegins p s)) := h.quiet (stopAgain_frame (by decide) (demandBegins_frame (by decide) .refl))
  exact sloOff_noRise (updChan_noRise (fun _ => by cases p <;> exact id) hb)

theorem sendSignal_noRise (h : NoRise b s) : NoRise b (sendSignal c p s) := updChan_noRise (fun _ => by cases p <;> exact id) h

theorem endEstop_noRise (h : NoRise b s) : NoRise b (endEstop s) :=
  NoRise.quiet (condOff_frame (by decide) .refl) (onSaf_noRise (fun _ => id) (fun _ => id) h)

theorem tpFollows_noRise (h : NoRise b s) : NoRise b (tpFollows s) := onSaf_noRise (fun _ => id) (fun _ => id) h

end Rules

/-! ### Resets and supplies -/

section Resets
variable {b s : State} {c : Cause}

theorem requestReset_noRise (h : NoRise b s) : NoRise b (requestReset c s) := .ite (fun _ => h) fun _ => .dark rfl

theorem gotBlock_noRise {i : Nat} (h : NoRise b s) : NoRise b (gotBlock i s) := by
  unfold gotBlock
  refine .ite (fun _ => h) fun _ => ?_
  extract_lets u all x v
  have hv : NoRise b v := h.quiet <| .ite
    (fun _ => queueRecs_frame (by decide) <| openPage_frame (by decide) <| onXfer_frame (by decide) (onXfer_frame (by decide) .refl))
    fun _ => onXfer_frame (by decide) .refl
  exact .ite (fun _ => requestReset_noRise hv) fun _ => hv

theorem gotPage_noRise {p : Nat} (h : NoRise b s) : NoRise b (gotPage p s) :=
  have hx := h.quiet (onXfer_frame (by decide) .refl)
  .ite (fun _ => gotBlock_noRise hx) fun _ => hx

/-- A record's marker confirms a set, but raises no output; the reset of a whole image takes both low (R360 R539). -/
theorem recordEffect_noRise {r : Rec} (h : NoRise b s) : NoRise b (recordEffect r s) := by
  have hcommit : NoRise b (commitPage r.page r.bytes s) := h.quiet (commitPage_frame (by decide) .refl)
  unfold recordEffect
  split
  case h_1 =>
    exact .ite (fun _ => NoRise.quiet (complete_frame (by decide) .refl) (.ite (fun _ => gotPage_noRise hcommit) fun _ => hcommit))
      fun _ => .ite (fun _ => gotPage_noRise hcommit) fun _ => hcommit
  case h_2 => exact .ite (fun _ => onSaf_noRise (fun _ => id) (fun _ => id) hcommit) fun _ => hcommit
  case h_3 => exact hcommit
  case h_4 => exact h.quiet (commitPage_frame (by decide) (onNvm_frame (fun _ => rfl) (fun _ => rfl) (by decide) .refl))
  case h_5 i last => exact .ite (fun _ => gotBlock_noRise hcommit) fun _ => hcommit
  case h_6 n x => exact h.quiet (setPower_frame (by decide) (saveHalf_frame (by decide) .refl))
  case h_7 => exact .ite (fun _ => .dark rfl) fun _ => h.quiet (setPower_frame (by decide) (copyLog_frame (by decide) .refl))
  case h_8 => exact .dark rfl
  case h_9 => exact h.quiet (copyLog_frame (by decide) .refl)

theorem recordDone_noRise : NoRise s (recordDone s) := by
  unfold recordDone
  split
  · exact .refl
  · exact .ite (fun _ => recordEffect_noRise (.kept rfl rfl)) fun _ => .refl

theorem execNvmRecordComplete_noRise {v : VholdSeen} : EndsIn (NoRise s) (execNvmRecordComplete s v) := by
  have hd : NoRise s (recordDone s) := recordDone_noRise
  unfold execNvmRecordComplete
  split
  · exact .next .refl
  · refine .ite (fun _ => .next .refl) fun _ => .ite (fun _ => .next ?_) fun _ => .ite (fun _ => .next hd) fun _ => ?_
    · exact hd.quiet (vholdLevel_frame (by decide) (setPower_frame (by decide) .refl))
    · split
      · exact .next (.dark rfl)
      · exact .next hd

theorem execVinRisePor_noRise : EndsIn (NoRise s) (execVinRisePor s) := when_endsIn .refl (.dark rfl)

theorem execResetNLow_noRise : EndsIn (NoRise s) (execResetNLow s) :=
  .ite (fun _ => .next .refl) fun _ => when_endsIn (.kept rfl rfl) (requestReset_noRise (.kept rfl rfl))

theorem execSwrstKey_noRise {l : Bool} {v : BitVec 32} : EndsIn (NoRise s) (execSwrstKey l v s) :=
  when_endsIn .refl (requestReset_noRise .refl)

theorem execScheduledBoot_noRise : EndsIn (NoRise s) (execScheduledBoot s) := ifRuns_endsIn .refl (when_endsIn .refl (requestReset_noRise .refl))

theorem execArmReset_noRise {id : Nat} : EndsIn (NoRise s) (execArmReset id s) :=
  runOp_endsIn .refl fun _ => .ite (fun _ => .ite (fun _ => requestReset_noRise <| NoRise.refl.quiet <|
      complete_frame (by decide) (onNvm_frame (fun _ => rfl) (fun _ => rfl) (by decide) .refl)) fun _ =>
    NoRise.refl.quiet (complete_frame (by decide) .refl)) fun _ => .refl

theorem execVinRemoval_noRise : EndsIn (NoRise s) (execVinRemoval s) := .next (.dark rfl)

theorem execRailUndervoltage_noRise {r : Rail} : EndsIn (NoRise s) (execRailUndervoltage r s) :=
  .next <| NoRise.quiet (setPower_frame (by decide) .refl) (.ite (fun _ => .refl) fun _ => .dark rfl)

theorem execVinStop_noRise : EndsIn (NoRise s) (execVinStop s) :=
  .next <| NoRise.quiet (tensOff_frame (by decide) .refl) (lightOff_noRise (.kept rfl rfl))

theorem execThermalShutdown_noRise : EndsIn (NoRise s) (execThermalShutdown s) :=
  when_endsIn .refl <| NoRise.quiet (tensOff_frame (by decide) .refl) (lightOff_noRise (.kept rfl rfl))

end Resets

/-! ### The safety channels -/

section Channels
variable {s : State} {ch : Chan} {p : Pair}

theorem execSafetySelftest_noRise {r : SelftestResult} : EndsIn (NoRise s) (execSafetySelftest ch r s) := by
  have hq : NoRise s (selftestPulse ch (loadSet s)) := NoRise.refl.quiet (selftestPulse_frame (by decide) (loadSet_frame (by decide) .refl))
  refine ifRuns_endsIn .refl <| when_endsIn .refl ?_
  exact NoRise.quiet (.ite (fun _ => .refl) fun _ => raise_frame (by decide) .refl) (updChan_noRise (fun _ => id) hq)

theorem execSafetyInputDemand_noRise : EndsIn (NoRise s) (execSafetyInputDemand ch p s) :=
  have hx := updChan_noRise (fun _ => by cases p <;> exact id) .refl
  ifRuns_endsIn .refl <| when_endsIn hx (sendSignal_noRise (setDemand_noRise hx))

theorem execDemandSignal_noRise : EndsIn (NoRise s) (execDemandSignal ch p s) :=
  ifRuns_endsIn .refl <| when_endsIn .refl (setDemand_noRise (updChan_noRise (fun _ => by cases p <;> exact id) .refl))

theorem execSafDisc_noRise : EndsIn (NoRise s) (execSafDisc ch p s) :=
  ifRuns_endsIn .refl <| when_endsIn .refl <| NoRise.quiet (condOn_frame (by decide) .refl) <|
    updChan_noRise (fun _ => by cases p <;> exact id) (sendSignal_noRise (setDemand_noRise .refl))

theorem execDiscrepancyClear_noRise : EndsIn (NoRise s) (execDiscrepancyClear ch p s) :=
  ifRuns_endsIn .refl <| .next <| NoRise.quiet (.ite (fun _ => condOff_frame (by decide) .refl) fun _ => .refl) <|
    updChan_noRise (fun _ => by cases p <;> exact id) (onSaf_noRise (fun _ => by cases p <;> exact id) (fun _ => by cases p <;> exact id) .refl)

theorem execDemandEnd_noRise : EndsIn (NoRise s) (execDemandEnd ch p s) := by
  unfold execDemandEnd
  refine ifRuns_endsIn .refl ?_
  extract_lets u x
  have hu : NoRise s u := onSaf_noRise (fun _ => by cases p <;> exact id) (fun _ => by cases p <;> exact id) .refl
  have hx : ∀ {f : Channel → Channel}, (∀ x, (f x).slo = true → x.slo = true) → NoRise s (updChan ch f u) := fun hf => updChan_noRise hf hu
  cases p
  case hatch =>
    have hc := (hx (f := fun x => { x with demHatch := false }) fun _ => id).quiet (condOff_frame (slot := 488) (by decide) .refl)
    exact .ite (fun _ => .next hu) fun _ => .ite (fun _ => .next (hx fun _ => id)) fun _ => .next (.ite (fun _ => endEstop_noRise hc) fun _ => hc)
  case estop =>
    have hr := hx (f := fun x => { x with released := true }) fun _ => id
    exact .ite (fun _ => .next hu) fun _ => .next (.ite (fun _ => .ite (fun _ => endEstop_noRise hr) fun _ =>
      hr.quiet (awaitRestart_frame (by decide) .refl)) fun _ => hr)

theorem execCrossLinkLoss_noRise : EndsIn (NoRise s) (execCrossLinkLoss ch s) :=
  ifRuns_endsIn .refl <| .next <| NoRise.quiet (raise_frame (by decide) .refl) (sloOff_noRise (updChan_noRise (fun _ => id) .refl))

theorem execCrossLinkDisagree_noRise : EndsIn (NoRise s) (execCrossLinkDisagree ch s) :=
  ifRuns_endsIn .refl <| .next <| NoRise.quiet (raise_frame (by decide) .refl) (sloOff_noRise (updChan_noRise (fun _ => id) .refl))

theorem execInputTestPulse_noRise : EndsIn (NoRise s) (execInputTestPulse ch s) :=
  ifRuns_endsIn .refl <| when_endsIn .refl <| NoRise.quiet (emit_frame (by decide) .refl) (updChan_noRise (fun _ => id) .refl)

theorem execSafTpi_noRise {e : EchoSeen} : EndsIn (NoRise s) (execSafTpi ch e s) := by
  refine ifRuns_endsIn .refl <| when_endsIn .refl ?_
  have hx := updChan_noRise (c := ch) (f := fun x => { x with inTest := false, tp := pairOn s .estop, estop := x.estop && e.returned })
    (fun _ => id) (.refl (s := s))
  exact .ite (fun _ => onSaf_noRise (fun _ => id) (fun _ => id) hx) fun _ =>
    .ite (fun _ => NoRise.quiet (raise_frame (by decide) .refl) (onSaf_noRise (fun _ => id) (fun _ => id) hx)) fun _ => hx

theorem execOutputTestPulse_noRise : EndsIn (NoRise s) (execOutputTestPulse ch s) :=
  ifRuns_endsIn .refl <| when_endsIn .refl <| NoRise.quiet (emit_frame (by decide) .refl) (updChan_noRise (fun _ => id) .refl)

theorem execOutputTestVerdict_noRise {low high : Bool} : EndsIn (NoRise s) (execOutputTestVerdict ch low high s) := by
  refine ifRuns_endsIn .refl <| when_endsIn .refl ?_
  have hx := updChan_noRise (c := ch) (f := fun x => { x with outTest := false, outDiscard := false }) (fun _ => id) (.refl (s := s))
  exact .ite (fun _ => onSaf_noRise (fun _ => id) (fun _ => id) hx) fun _ => .ite (fun _ => updChan_noRise (fun _ => id) hx) fun _ =>
    NoRise.quiet (raise_frame (by decide) .refl) (onSaf_noRise (fun _ => id) (fun _ => id) (updChan_noRise (fun _ => id) hx))

theorem execFeedbackCheck_noRise {level : Bool} : EndsIn (NoRise s) (execFeedbackCheck ch level s) :=
  ifRuns_endsIn .refl <| .ite (fun _ => .next .refl) fun _ => .next <| NoRise.quiet
    (.ite (fun _ => .ite (fun _ => condOff_frame (by decide) .refl) fun _ => condOn_frame (by decide) .refl) fun _ => .refl)
    (updChan_noRise (fun _ => id) .refl)

theorem egTrip_noRise {n : Nat} {w : Option (Nat × Nat × Nat × Nat)} {b : State} (h : NoRise b s) : NoRise b (egTrip ch n w s) := by
  cases w with
  | none => exact h
  | some w => exact NoRise.quiet (raise_frame (by decide) .refl) (sloOff_noRise (h.quiet (egRecord_frame (by decide) .refl)))

theorem execEgDiverse_noRise {n : Fin 8} {r : List StripRet} : EndsIn (NoRise s) (execEgDiverse ch n r s) :=
  ifRuns_endsIn .refl <| .next <| egTrip_noRise <| NoRise.refl.quiet (egKeep_frame (by decide) .refl)

theorem execSafetySetInForce_noRise : EndsIn (NoRise s) (execSafetySetInForce s) := by
  unfold execSafetySetInForce
  refine ifRuns_endsIn .refl ?_
  split
  · dsimp only
    split
    · exact .next .refl
    · exact .next <| NoRise.quiet (complete_frame (by decide) .refl) (tpFollows_noRise (onSaf_noRise (fun _ => id) (fun _ => id) .refl))
  · exact .next .refl

theorem execSevereLineBroken_noRise {broken : Bool} : EndsIn (NoRise s) (execSevereLineBroken s broken) := by
  have hx := updChan_noRise (c := .b) (f := fun x => { x with severeLine := broken }) (fun _ => id) (.refl (s := s))
  exact ifRuns_endsIn .refl <| .next (.ite (fun _ => sloOff_noRise hx) fun _ => hx)

end Channels

/-! ### The fault collector -/

section Slots
variable {b s : State} {n : Nat}

theorem promote_noRise {p : Nat} {wire inj : Bool} (h : NoRise b s) : NoRise b (promote n p wire inj s) := by
  unfold promote
  extract_lets e old t x w u v
  have hv : NoRise b v := h.quiet <| .ite
    (fun _ => faultIrq_frame (by decide) <| postEvent_frame (by decide) <| logEntry_frame (by decide) (putSlot_frame (by decide) .refl))
    fun _ => logEntry_frame (by decide) (putSlot_frame (by decide) .refl)
  exact .ite (fun _ => lightOff_noRise hv) fun _ => hv

theorem countEvent_noRise {wire inj : Bool} (h : NoRise b s) : NoRise b (countEvent n wire inj s) :=
  .ite (fun _ => promote_noRise h) fun _ => h

theorem acceptLine_noRise (h : NoRise b s) : NoRise b (acceptLine n s) :=
  .ite (fun _ => h) fun _ => .ite (fun _ => h) fun _ => countEvent_noRise h

theorem acceptLines_noRise (ns : List Nat) : ∀ {s : State}, NoRise b s → NoRise b (acceptLines ns s) := by
  induction ns with
  | nil => exact id
  | cons n r ih => exact fun h => ih (acceptLine_noRise h)

theorem execFaultSourceEvent_noRise {ns : List (Fin 512)} : EndsIn (NoRise s) (execFaultSourceEvent ns s) :=
  ifRuns_endsIn .refl (when_endsIn .refl (acceptLines_noRise _ .refl))

theorem execFltWire_noRise {k : Fin 512} {code : Bool} : EndsIn (NoRise s) (execFltWire k code s) := by
  refine ifRuns_endsIn .refl <| when_endsIn .refl ?_
  extract_lets inj u old v w new x y
  have hv : NoRise s v := NoRise.refl.quiet (putSlot_frame (by decide) (takeInj_frame (by decide) .refl))
  have hx : NoRise s x := hv.quiet <| logEntry_frame (by decide) <| raiseInj_frame (by decide) <|
    .ite (fun _ => .refl) fun _ => onFlt_frame (fun _ => rfl) (by decide) .refl
  have hy : NoRise s y := countEvent_noRise hx
  exact .ite (fun _ => hy) fun _ => hy

theorem execFaultAck_noRise {id : Nat} : EndsIn (NoRise s) (execFaultAck id s) := by
  refine runOp_endsIn .refl fun d => ?_
  have hc : ∀ ns st, NoRise s (complete id st [] (ackSlots ns s).2) := fun _ _ =>
    NoRise.refl.quiet (complete_frame (by decide) (ackSlots_frame (by decide) .refl))
  exact .ite (fun _ => endEstop_noRise (hc _ _)) fun _ => hc _ _

end Slots

/-! ### Register writes: only the key of a soft reset reaches the channels (R65) -/

section Registers
variable {s : State} {l : Bool} {o v : Nat}

theorem writeSq_noRise {n : Fin 32} : EndsIn (NoRise s) (writeSq l n o v s) := by
  unfold writeSq
  dsimp only
  split
  case h_3 => exact .ite (fun _ => execSqEnable_goes.noRise) fun _ => execSqDrain_goes.noRise
  all_goals (repeat' split) <;> exact .next (.kept rfl rfl)

theorem writeCq_noRise {n : Fin 32} : EndsIn (NoRise s) (writeCq l n o v s) := by
  unfold writeCq
  dsimp only
  split
  case h_3 => exact .ite (fun _ => execCqEnable_goes.noRise) fun _ => execCqDisable_goes.noRise
  all_goals (repeat' split) <;> exact .next (.kept rfl rfl)

theorem writeHif_noRise : EndsIn (NoRise s) (writeHif l o v s) := by
  unfold writeHif
  refine .ite (fun _ => writeSq_noRise) fun _ => .ite (fun _ => writeCq_noRise) fun _ => ?_
  (repeat' split)
  case h_1 => exact execApply_goes.noRise
  all_goals exact .next (.kept rfl rfl)

theorem writeCmp_noRise : EndsIn (NoRise s) (writeCmp l o v s) := by
  unfold writeCmp
  dsimp only
  (repeat' split) <;> exact .next (.kept rfl rfl)

theorem writeFrm_noRise : EndsIn (NoRise s) (writeFrm o v s) := by
  unfold writeFrm
  dsimp only
  split <;> exact .next (.kept rfl rfl)

theorem writeFrd_noRise {f : Nat} : EndsIn (NoRise s) (writeFrd l f o v s) := by
  unfold writeFrd
  dsimp only
  split
  case h_5 => exact .next (.ite (fun _ => NoRise.refl.quiet (writeDiagCfg_frame (by decide) .refl)) fun _ => .refl)
  all_goals (repeat' split) <;> exact .next (.kept rfl rfl)

theorem writeStr_noRise : EndsIn (NoRise s) (writeStr o v s) := .next (.ite (fun _ => .kept rfl rfl) fun _ => .refl)

theorem writeTil_noRise {n : Nat} : EndsIn (NoRise s) (writeTil n o v s) := .next (.ite (fun _ => .kept rfl rfl) fun _ => .refl)

theorem writeLdg_noRise : EndsIn (NoRise s) (writeLdg l o v s) := by
  unfold writeLdg
  split
  case h_1 => exact .next (.ite (fun _ => NoRise.refl.quiet (writeLdgCtrl_frame (by decide) .refl)) fun _ => .refl)
  all_goals exact .next (.kept rfl rfl)

/-- The window of safety writes its lock, its counters and its valid flags only (R363 R365 R366 R367). -/
theorem writeSaf_noRise : EndsIn (NoRise s) (writeSaf l o v s) := by
  unfold writeSaf
  split
  case h_1 => exact execSafeLock_goes.noRise
  all_goals exact .next (.kept rfl rfl)

theorem writeFlt_noRise : EndsIn (NoRise s) (writeFlt l o v s) := by
  unfold writeFlt
  refine .ite (fun _ => .ite (fun _ => .next .refl) fun _ => ?_) fun _ => ?_
  · (repeat' split) <;> exact .next (.kept rfl rfl)
  · split
    case h_1 => exact execRearm_goes.noRise
    all_goals exact .next (.kept rfl rfl)

theorem writeCal_noRise : EndsIn (NoRise s) (writeCal l o v s) := by
  unfold writeCal
  dsimp only
  split <;> exact .next (.kept rfl rfl)

theorem writeThm_noRise : EndsIn (NoRise s) (writeThm l o v s) := by
  unfold writeThm
  refine .ite (fun _ => .next (.ite (fun _ => .kept rfl rfl) fun _ => .refl)) fun _ => ?_
  split
  case h_2 => exact execUnfreeze_goes.noRise
  all_goals exact .next (.kept rfl rfl)

theorem writePort_noRise {p : Fin 2} : EndsIn (NoRise s) (writePort l p o v s) := by
  unfold writePort
  refine .ite (fun _ => .next (.ite (fun _ => .kept rfl rfl) fun _ => .refl)) fun _ => ?_
  split
  case h_1 => exact .ite (fun _ => execRetrain_goes.noRise) fun _ => .ite (fun _ => execPortEnable_goes.noRise) fun _ => execPortDisable_goes.noRise
  all_goals exact .next (.kept rfl rfl)

theorem writeChn_noRise : EndsIn (NoRise s) (writeChn l o v s) := by
  have hif : ∀ {p : Prop} [Decidable p] {f}, EndsIn (NoRise s) (.next (if p then onChain f s else s)) := fun {_} _ _ =>
    .next (.ite (fun _ => .kept rfl rfl) fun _ => .refl)
  unfold writeChn
  refine .ite (fun _ => writePort_noRise) fun _ => .ite (fun _ => hif) fun _ => .ite (fun _ => hif) fun _ =>
    .ite (fun _ => .next (.kept rfl rfl)) fun _ => ?_
  split
  case h_2 | h_3 => exact hif
  all_goals exact .next (.kept rfl rfl)

theorem writeTim_noRise : EndsIn (NoRise s) (writeTim l o v s) := by
  unfold writeTim
  split
  case h_2 | h_3 => exact execDomainEnWrite_goes.noRise
  all_goals (repeat' split) <;> exact .next (.kept rfl rfl)

theorem writeNvm_noRise : EndsIn (NoRise s) (writeNvm l o v s) := by
  unfold writeNvm
  split <;> exact .next (.kept rfl rfl)

theorem writeCrc_noRise : EndsIn (NoRise s) (writeCrc l o v s) := .next (.ite (fun _ => .kept rfl rfl) fun _ => .refl)

theorem writePwr_noRise : EndsIn (NoRise s) (writePwr l o v s) := by
  unfold writePwr
  dsimp only
  split
  case h_3 => exact execSwrstKey_noRise
  all_goals exact .next (.kept rfl rfl)

theorem writeReg_noRise : EndsIn (NoRise s) (writeReg l o v s) :=
  .ite (fun _ => .next .refl) fun _ => .ite (fun _ => writeHif_noRise) fun _ => .ite (fun _ => .next .refl) fun _ =>
    .ite (fun _ => writeCmp_noRise) fun _ => .ite (fun _ => writeFrm_noRise) fun _ => .ite (fun _ => writeFrd_noRise) fun _ =>
    .ite (fun _ => .next .refl) fun _ => .ite (fun _ => writeStr_noRise) fun _ => .ite (fun _ => writeTil_noRise) fun _ =>
    .ite (fun _ => .next .refl) fun _ => .ite (fun _ => writeLdg_noRise) fun _ => .ite (fun _ => writeSaf_noRise) fun _ =>
    .ite (fun _ => writeFlt_noRise) fun _ => .ite (fun _ => writeCal_noRise) fun _ => .ite (fun _ => writeThm_noRise) fun _ =>
    .ite (fun _ => writeChn_noRise) fun _ => .ite (fun _ => writeTim_noRise) fun _ => .ite (fun _ => writeNvm_noRise) fun _ =>
    .ite (fun _ => writeCrc_noRise) fun _ => .ite (fun _ => writePwr_noRise) fun _ => .next .refl

theorem writeWord_noRise {w : BitVec 32} {e : BitVec 4} : EndsIn (NoRise s) (writeWord o w e s) :=
  .ite (fun _ => writeReg_noRise) fun _ => .next .refl

theorem execRegisterWrite_noRise {w : BitVec 32} {e : BitVec 4} {hi : Option (BitVec 32 × BitVec 4)} :
    EndsIn (NoRise s) (execRegisterWrite o w s e hi) :=
  execRegisterWrite_endsIn .refl writeWord_noRise fun _ _ _ _ ht u hu => ht.trans (writeWord_noRise u hu)

end Registers

/-! ### All commands -/

section Steps
variable {c : Instr} {s t : State} {agree : Bool}

/-- No command but the exchange lets an output rise (R333). -/
theorem exec_noRise (hx : ∀ agree, c ≠ .crossLinkExchange agree) : EndsIn (NoRise s) (exec c s) := by
  by_cases hq : (touches c).contains .chans = false
  · exact (exec_goes c s).noRise (by simpa using hq)
  cases c
  case vinRisePor => exact execVinRisePor_noRise
  case resetNLow => exact execResetNLow_noRise
  case swrstKey => exact execSwrstKey_noRise
  case armReset => exact execArmReset_noRise
  case scheduledBoot => exact execScheduledBoot_noRise
  case vinStop => exact execVinStop_noRise
  case vinRemoval => exact execVinRemoval_noRise
  case railUndervoltage => exact execRailUndervoltage_noRise
  case nvmRecordComplete => exact execNvmRecordComplete_noRise
  case thermalShutdown => exact execThermalShutdown_noRise
  case safetySelftest => exact execSafetySelftest_noRise
  case safetyInputDemand => exact execSafetyInputDemand_noRise
  case demandSignal => exact execDemandSignal_noRise
  case safDisc => exact execSafDisc_noRise
  case discrepancyClear => exact execDiscrepancyClear_noRise
  case demandEnd => exact execDemandEnd_noRise
  case crossLinkExchange agree => exact absurd rfl (hx agree)
  case crossLinkLoss => exact execCrossLinkLoss_noRise
  case crossLinkDisagree => exact execCrossLinkDisagree_noRise
  case inputTestPulse => exact execInputTestPulse_noRise
  case safTpi => exact execSafTpi_noRise
  case outputTestPulse => exact execOutputTestPulse_noRise
  case outputTestVerdict => exact execOutputTestVerdict_noRise
  case feedbackCheck => exact execFeedbackCheck_noRise
  case egDiverse => exact execEgDiverse_noRise
  case safetySetInForce => exact execSafetySetInForce_noRise
  case severeLineBroken => exact execSevereLineBroken_noRise
  case faultSourceEvent => exact execFaultSourceEvent_noRise
  case fltWire => exact execFltWire_noRise
  case faultAck => exact execFaultAck_noRise
  case registerWrite => exact execRegisterWrite_noRise
  all_goals exact absurd rfl hq

/-- An exchange takes both outputs low, or both channels permit and both outputs are high (R332 R333). -/
theorem exchange_cases (agree : Bool) (s : State) :
    NoRise s (exchange agree s) ∨ ∀ d, (chanOf (exchange agree s) d).slo = true ∧ ownPermit (exchange agree s) d = true := by
  unfold exchange
  extract_lets u
  split
  · next hp =>
    rw [Bool.and_eq_true] at hp
    refine .inr fun d => ?_
    cases d
    · exact ⟨rfl, hp.1⟩
    · exact ⟨rfl, hp.2⟩
  · exact .inl (lightOff_noRise (onSaf_noRise (fun _ => id) (fun _ => id) .refl))

theorem execCrossLinkExchange_cases (h : exec (.crossLinkExchange agree) s = .next t) :
    NoRise s t ∨ ∀ d, (chanOf t d).slo = true ∧ ownPermit t d = true := by
  by_cases hr : runs .safety s = true
  · obtain rfl : exchange agree s = t := Host.Outcome.next.inj ((ifRuns_runs hr).symm.trans h)
    exact exchange_cases agree s
  · obtain rfl : s = t := Host.Outcome.next.inj ((ifRuns_still (eq_false_of_ne_true hr)).symm.trans h)
    exact .inl .refl

end Steps

/-- Settles O56: a clock and every other command leave a low output low, and an exchange raises it only with the other, both permitting. -/
theorem outputsRiseTogether : Obligations.OutputsRiseTogether := by
  intro s t ch hstep hlow hhigh
  have hrise : ¬ NoRise s t := fun h => Bool.false_ne_true (hlow.symm.trans (h ch hhigh))
  cases hp : s.pending with
  | nil =>
    rw [step_idle hp] at hstep
    exact absurd (EndsIn.next (NoRise.refl.quiet (idle_frame (by decide) .refl)) t hstep) hrise
  | cons c r =>
    rw [step_front hp] at hstep
    by_cases hx : ∀ agree, c ≠ .crossLinkExchange agree
    · exact absurd (exec_noRise hx t hstep) hrise
    · obtain ⟨agree, rfl⟩ : ∃ agree, c = .crossLinkExchange agree := not_forall_not.1 hx
      exact ⟨⟨agree, r, rfl⟩, (execCrossLinkExchange_cases hstep).resolve_left hrise⟩

end Sys2Proof.Machine
end

section
/-! Demands and discrepancies: an input that goes low, the signal between the channels, the latch, and the ends of both (R335 R336 R337 R379). -/

set_option autoImplicit false
-- One declaration after the other: the text as one file holds many.
set_option Elab.async false

namespace Sys2Proof.Machine

/-! ### A demand begins -/

section Begin
variable {s : State} {ch : Chan} {p : Pair}

/-- A channel learns of a demand at its own input and tells the other one (R335). -/
def learn (ch : Chan) (p : Pair) (s : State) : State := sendSignal (otherChan ch) p (setDemand ch p s)

theorem chanOf_learn_self : chanOf (learn ch p s) ch = lowered (demanded p (chanOf s ch)) := by
  rw [learn, chanOf_sendSignal, if_neg (ne_otherChan ch), chanOf_setDemand_self]

theorem chanOf_learn_other : chanOf (learn ch p s) (otherChan ch) = setSignal p true (chanOf s (otherChan ch)) := by
  rw [learn, chanOf_sendSignal, if_pos rfl, chanOf_setDemand_other]

theorem learn_lasts (h : pairDemand s p = false) : Lasts (pairSlot p) (learn ch p s) :=
  (SameBut.lasts_iff (l := [.chans]) (sendSignal_frame (by decide) .refl)).2 (setDemand_lasts h)

/-- A change of one channel that neither takes nor gives it a demand. -/
theorem pairDemand_updChan {f : Channel → Channel} (hd : ∀ x, discHeld (f x) p = discHeld x p) (hk : ∀ x, demandKnown (f x) p = demandKnown x p) :
    pairDemand (updChan ch f s) p = pairDemand s p := by
  refine pairDemand_congr (fun c => ?_) fun c => ?_ <;> rw [chanOf_updChan] <;> split
  · next e => rw [hd, e]
  · rfl
  · next e => rw [hk, e]
  · rfl

theorem safetyInputDemand_yields (hr : runs .safety s = true) (hp : pairOn s p = true) :
    Yields (.safetyInputDemand ch p) s fun t => (chanOf t ch).slo = false ∧ demandKnown (chanOf t ch) p = true
      ∧ signalled (chanOf t (otherChan ch)) p = true ∧ (chanOf t (otherChan ch)).slo = (chanOf s (otherChan ch)).slo
      ∧ (pairDemand s p = false → Lasts (pairSlot p) t) ∧ SameBut [.strip, .tiles, .chans, .safety, .faults] s t := by
  have hon : pairOn (updChan ch (setInput p false) s) p = true :=
    ((updChan_frame (l := [.chans]) (by decide) .refl).pairOn_eq p).trans hp
  have hexec : exec (.safetyInputDemand ch p) s = .next (learn ch p (updChan ch (setInput p false) s)) :=
    (ifRuns_runs hr).trans (when_holds hon)
  refine .framed ⟨_, hexec, fun hframe => ⟨?_, ?_, ?_, ?_, fun hd => learn_lasts ?_, hframe⟩⟩
  · rw [chanOf_learn_self, lowered_slo]
  · rw [chanOf_learn_self, demandKnown_lowered, demandKnown_demanded]
  · rw [chanOf_learn_other, signalled_setSignal]
  · rw [chanOf_learn_other, setSignal_slo, chanOf_updChan_other]
  · rwa [pairDemand_updChan (fun _ => discHeld_setInput) fun _ => demandKnown_setInput]

theorem demandSignal_yields (hr : runs .safety s = true) (hs : signalled (chanOf s ch) p = true) :
    Yields (.demandSignal ch p) s fun t => (chanOf t ch).slo = false ∧ demandKnown (chanOf t ch) p = true
      ∧ signalled (chanOf t ch) p = false ∧ chanOf t (otherChan ch) = chanOf s (otherChan ch)
      ∧ (pairDemand s p = false → Lasts (pairSlot p) t) ∧ SameBut [.strip, .tiles, .chans, .safety, .faults] s t := by
  have hexec : exec (.demandSignal ch p) s = .next (setDemand ch p (updChan ch (setSignal p false) s)) :=
    (ifRuns_runs hr).trans (when_holds hs)
  refine .framed ⟨_, hexec, fun hframe => ⟨?_, ?_, ?_, ?_, fun hd => setDemand_lasts ?_, hframe⟩⟩
  · rw [chanOf_setDemand_self, lowered_slo]
  · rw [chanOf_setDemand_self, demandKnown_lowered, demandKnown_demanded]
  · rw [chanOf_setDemand_self, signalled_lowered, signalled_demanded, chanOf_updChan_self, signalled_setSignal]
  · rw [chanOf_setDemand_other, chanOf_updChan_other]
  · rwa [pairDemand_updChan (fun _ => discHeld_setSignal) fun _ => demandKnown_setSignal]

end Begin

/-! ### Discrepancies -/

section Discrepancies
variable {s : State} {ch : Chan} {p : Pair}

/-- The level of an input that a channel holds (R362). -/
def inputOf (x : Channel) (p : Pair) : Bool := match p with | .hatch => x.hatch | .estop => x.estop

/-- A channel that latches a discrepancy, its input not as the other's (R336). -/
def latched (p : Pair) (level : Bool) (x : Channel) : Channel := setDisc p true (setInput p level x)

theorem safDisc_latches (hr : runs .safety s = true) (hp : pairOn s p = true) : exec (.safDisc ch p) s
    = .next (condOn 490 (updChan ch (latched p !inputOf (chanOf s (otherChan ch)) p) (learn ch p s))) := by
  cases p <;> exact (ifRuns_runs hr).trans (when_holds hp)

theorem safDisc_yields (hr : runs .safety s = true) (hp : pairOn s p = true) :
    Yields (.safDisc ch p) s fun t => (chanOf t ch).slo = false ∧ discHeld (chanOf t ch) p = true ∧ Lasts 490 t
      ∧ demandKnown (chanOf t ch) p = true ∧ pairDemand t p = true ∧ signalled (chanOf t (otherChan ch)) p = true
      ∧ (chanOf t (otherChan ch)).slo = (chanOf s (otherChan ch)).slo
      ∧ (pairDemand s p = false → Lasts (pairSlot p) t) ∧ SameBut [.strip, .tiles, .chans, .safety, .faults] s t := by
  refine .framed ⟨_, safDisc_latches hr hp, fun hframe => ?_⟩
  generalize inputOf (chanOf s (otherChan ch)) p = level at hframe ⊢
  generalize ht : condOn 490 (updChan ch (latched p !level) (learn ch p s)) = t at hframe ⊢
  have hself : chanOf t ch = latched p (!level) (lowered (demanded p (chanOf s ch))) := by
    rw [← ht, condOn_chanOf, chanOf_updChan_self, chanOf_learn_self]
  have hother : chanOf t (otherChan ch) = setSignal p true (chanOf s (otherChan ch)) := by
    rw [← ht, condOn_chanOf, chanOf_updChan_other, chanOf_learn_other]
  have hdisc : discHeld (chanOf t ch) p = true := by rw [hself, latched, discHeld_setDisc, if_pos rfl]
  have hlasts (n : Nat) (h : Lasts n (learn ch p s) ∨ n = 490) : Lasts n t := by
    rw [← ht, condOn_lasts_iff, (updChan_frame (l := [.chans]) (by decide) .refl).lasts_iff]
    exact h
  refine ⟨?_, hdisc, hlasts 490 (.inr rfl), ?_, pairDemand_of_discHeld hdisc, ?_, ?_, fun hd => hlasts _ (.inl (learn_lasts hd)), hframe⟩
  · rw [hself, latched, setDisc_slo, setInput_slo, lowered_slo]
  · rw [hself, latched, demandKnown_setDisc, demandKnown_setInput, demandKnown_lowered, demandKnown_demanded]
  · rw [hother, signalled_setSignal]
  · rw [hother, setSignal_slo]

/-- Both channels hold an input of theirs at one level (R336 R337). -/
def setInputs (p : Pair) (v : Bool) (s : State) : State := onSaf (fun f => { f with a := setInput p v f.a, b := setInput p v f.b }) s

theorem chanOf_setInputs {v : Bool} {c : Chan} : chanOf (setInputs p v s) c = setInput p v (chanOf s c) := chanOf_onSaf rfl rfl

theorem setInputs_frame {v : Bool} : SameBut [.chans] s (setInputs p v s) :=
  onSaf_frame_only_chans (fun _ => rfl) (fun _ => rfl) (fun _ => rfl) (fun _ => rfl) (by decide) .refl

/-- The latch of a channel released, both inputs low (R336). -/
def unlatched (ch : Chan) (p : Pair) (s : State) : State := updChan ch (setDisc p false) (setInputs p false s)

theorem chanOf_unlatched {c : Chan} :
    chanOf (unlatched ch p s) c = if c = ch then setDisc p false (setInput p false (chanOf s c)) else setInput p false (chanOf s c) := by
  rw [unlatched, chanOf_updChan]
  split
  · next e => rw [e, chanOf_setInputs]
  · rw [chanOf_setInputs]

theorem discrepancyClear_unlatches (hr : runs .safety s = true) : exec (.discrepancyClear ch p) s
    = .next (if noDisc (unlatched ch p s) then condOff 490 (unlatched ch p s) else unlatched ch p s) := by
  cases p <;> exact ifRuns_runs hr

theorem noDisc_iff : noDisc s = true ↔ ∀ c q, discHeld (chanOf s c) q = false := by
  simp only [noDisc, pairDisc_eq, Bool.not_eq_true', Bool.or_eq_false_iff]
  refine ⟨fun ⟨⟨ha, hb⟩, ha', hb'⟩ c q => ?_, fun h => ⟨⟨h .a _, h .b _⟩, h .a _, h .b _⟩⟩
  cases c <;> cases q <;> assumption

theorem discrepancyClear_yields (hr : runs .safety s = true) :
    Yields (.discrepancyClear ch p) s fun t => discHeld (chanOf t ch) p = false ∧ (∀ c, (chanOf t c).slo = (chanOf s c).slo)
      ∧ (∀ c q, (c, q) ≠ (ch, p) → discHeld (chanOf t c) q = discHeld (chanOf s c) q)
      ∧ (∀ c q, demandKnown (chanOf t c) q = demandKnown (chanOf s c) q)
      ∧ ((∀ c q, discHeld (chanOf t c) q = false) → ¬ Lasts 490 t) ∧ SameBut [.chans, .faults] s t := by
  refine .framed ⟨_, discrepancyClear_unlatches hr, fun hframe => ?_⟩
  generalize ht : (if noDisc (unlatched ch p s) then condOff 490 (unlatched ch p s) else unlatched ch p s) = t at hframe ⊢
  have hchan (c : Chan) : chanOf t c = chanOf (unlatched ch p s) c := by
    rw [← ht]
    split
    · exact condOff_chanOf ..
    · rfl
  refine ⟨?_, fun c => ?_, fun c q hne => ?_, fun c q => ?_, fun hall => ?_, hframe⟩
  · rw [hchan, chanOf_unlatched, if_pos rfl, discHeld_setDisc, if_pos rfl]
  · rw [hchan, chanOf_unlatched]
    split <;> simp
  · rw [hchan, chanOf_unlatched]
    split
    · next e => rw [discHeld_setDisc, if_neg fun hq => hne (by rw [e, hq]), discHeld_setInput]
    · exact discHeld_setInput
  · rw [hchan, chanOf_unlatched]
    split <;> simp
  · rw [← ht, if_pos (noDisc_iff.2 fun c q => hchan c ▸ hall c q), condOff_lasts_iff]
    exact fun h => h.2 rfl

end Discrepancies

/-! ### Demands end -/

section Ends
variable {s t : State} {ch c : Chan}

theorem chanOf_endEstop : chanOf (endEstop s) c = { chanOf s c with demEstop := false, released := false } :=
  (condOff_chanOf ..).trans (chanOf_onSaf (g := fun x => { x with demEstop := false, released := false }) rfl rfl)

theorem endEstop_awaited : (endEstop s).safety.awaited = none := congrArg Safety.awaited (condOff_safety ..)

theorem endEstop_lasts_iff {n : Nat} : Lasts n (endEstop s) ↔ Lasts n s ∧ n ≠ 489 := condOff_lasts_iff

theorem estopReleased_eq : estopReleased s
    = ((!(chanOf s .a).demEstop || (chanOf s .a).released) && (!(chanOf s .b).demEstop || (chanOf s .b).released)) := rfl

/-- What is awaited is a matter of the emergency stop alone (R337). -/
theorem restartWait_congr (hk : ∀ c, (chanOf t c).demEstop = (chanOf s c).demEstop) (hd : ∀ c, (chanOf t c).discEstop = (chanOf s c).discEstop)
    (hr : ∀ c, (chanOf t c).released = (chanOf s c).released) : restartWait t = restartWait s := by
  simp only [restartWait, pairDemand_congr (p := .estop) hd hk, pairDisc_congr (p := .estop) hd, estopReleased_eq, hk, hr]

/-- The hatch demand ended in one channel, its inputs high (R337). -/
def hatchKnownNoMore (ch : Chan) (s : State) : State := updChan ch (fun x => { x with demHatch := false }) (setInputs .hatch true s)

theorem hatchKnownNoMore_frame : SameBut [.chans] s (hatchKnownNoMore ch s) := updChan_frame (by decide) setInputs_frame

theorem chanOf_hatchKnownNoMore : chanOf (hatchKnownNoMore ch s) c
    = { chanOf s c with hatch := true, demHatch := !decide (c = ch) && (chanOf s c).demHatch } := by
  rw [hatchKnownNoMore, chanOf_updChan]
  split
  · next e => subst e; rw [chanOf_setInputs]; simp [setInput]
  · next e => rw [chanOf_setInputs]; simp [setInput, e]

/-- Without a discrepancy the pair stays in demand only for the other channel. -/
theorem pairDemand_hatchKnownNoMore (hdisc : pairDisc s .hatch = false) :
    pairDemand (hatchKnownNoMore ch s) .hatch = (chanOf s (otherChan ch)).demHatch := by
  have hd : ∀ c, discHeld (chanOf (hatchKnownNoMore ch s) c) .hatch = discHeld (chanOf s c) .hatch := fun _ => by
    rw [chanOf_hatchKnownNoMore]; rfl
  have hdisc' := pairDisc_eq.symm.trans hdisc
  rw [pairDemand_eq, hd, hd, hdisc', Bool.false_or]
  cases ch <;> simp [chanOf_hatchKnownNoMore, demandKnown, otherChan]

/-- The hatch demand over in both channels: that can be what the emergency stop awaits (R337). -/
def hatchOver (s : State) : State := if restartCode s = 1 ∧ s.safety.hatchSince ∧ restartWait s then endEstop s else s

theorem chanOf_hatchOver : chanOf (hatchOver s) c
    = { chanOf s c with demEstop := (chanOf (hatchOver s) c).demEstop, released := (chanOf (hatchOver s) c).released } := by
  unfold hatchOver
  split
  · rw [chanOf_endEstop]
  · rfl

theorem hatchOver_lasts {n : Nat} (h : Lasts n (hatchOver s)) : Lasts n s := by
  unfold hatchOver at h
  split at h
  · exact (endEstop_lasts_iff.1 h).1
  · exact h

theorem hatchOver_ends (hc : restartCode s = 1) (hs : s.safety.hatchSince = true) (hw : restartWait s = true) : hatchOver s = endEstop s :=
  if_pos ⟨hc, hs, hw⟩

theorem hatchOver_stays (hc : restartCode s ≠ 1) : hatchOver s = s := if_neg fun h => hc h.1

theorem demandEnd_hatch (hr : runs .safety s = true) (hdisc : pairDisc s .hatch = false) (hdem : (chanOf s ch).demHatch = true) :
    exec (.demandEnd ch .hatch) s = .next (if (chanOf s (otherChan ch)).demHatch then hatchKnownNoMore ch s
      else hatchOver (condOff 488 (hatchKnownNoMore ch s))) := by
  have hexec : exec (.demandEnd ch .hatch) s
      = if pairDisc (setInputs .hatch true s) .hatch || !(chanOf (setInputs .hatch true s) ch).demHatch then .next (setInputs .hatch true s)
        else if pairDemand (hatchKnownNoMore ch s) .hatch then .next (hatchKnownNoMore ch s)
        else .next (hatchOver (condOff 488 (hatchKnownNoMore ch s))) := ifRuns_runs hr
  have hdisc' : pairDisc (setInputs .hatch true s) .hatch = false :=
    (pairDisc_congr fun c => by rw [chanOf_setInputs, discHeld_setInput]).trans hdisc
  have hdem' : (chanOf (setInputs .hatch true s) ch).demHatch = true := by rw [chanOf_setInputs]; exact hdem
  rw [hexec, if_neg (by simp [hdisc', hdem']), pairDemand_hatchKnownNoMore hdisc]
  split <;> rfl

theorem demandEnd_hatch_yields (hr : runs .safety s = true) (hdisc : pairDisc s .hatch = false) (hdem : (chanOf s ch).demHatch = true) :
    Yields (.demandEnd ch .hatch) s fun t => (chanOf t ch).demHatch = false
      ∧ (chanOf t (otherChan ch)).demHatch = (chanOf s (otherChan ch)).demHatch
      ∧ ((chanOf s (otherChan ch)).demHatch = false → ¬ Lasts 488 t)
      ∧ ((chanOf s (otherChan ch)).demHatch = false → restartCode s = 1 → s.safety.hatchSince = true → restartWait s = true →
          (∀ c, (chanOf t c).demEstop = false) ∧ ¬ Lasts 489 t)
      ∧ (restartCode s ≠ 1 → ∀ c, (chanOf t c).demEstop = (chanOf s c).demEstop)
      ∧ (∀ c, (chanOf t c).slo = (chanOf s c).slo) ∧ SameBut [.chans, .safety, .faults] s t := by
  refine .framed ⟨_, demandEnd_hatch hr hdisc hdem, fun hframe => ?_⟩
  generalize ht : (if (chanOf s (otherChan ch)).demHatch then hatchKnownNoMore ch s
      else hatchOver (condOff 488 (hatchKnownNoMore ch s))) = t at hframe ⊢
  generalize hw : condOff 488 (hatchKnownNoMore ch s) = w at ht
  have hwframe : SameBut [.chans, .faults] s w := hw ▸ condOff_frame (by decide) (hatchKnownNoMore_frame.mono (by decide))
  have hwchan (c : Chan) : chanOf w c = chanOf (hatchKnownNoMore ch s) c := hw ▸ condOff_chanOf ..
  have hcode : restartCode w = restartCode s := hwframe.restartCode_eq
  have hwait : restartWait w = restartWait s := restartWait_congr (fun c => by rw [hwchan, chanOf_hatchKnownNoMore])
    (fun c => by rw [hwchan, chanOf_hatchKnownNoMore]) fun c => by rw [hwchan, chanOf_hatchKnownNoMore]
  have hlast (ho : (chanOf s (otherChan ch)).demHatch = false) : t = hatchOver w := ht.symm.trans (if_neg (by simp [ho]))
  have hkept (c : Chan) : chanOf t c
      = { chanOf (hatchKnownNoMore ch s) c with demEstop := (chanOf t c).demEstop, released := (chanOf t c).released } := by
    rw [← ht, ← hwchan]
    split
    · rw [hwchan]
    · exact chanOf_hatchOver
  refine ⟨?_, ?_, fun ho h => ?_, fun ho hc hs hrw => ?_, fun hc c => ?_, fun c => ?_, hframe⟩
  · rw [hkept, chanOf_hatchKnownNoMore]
    simp
  · rw [hkept, chanOf_hatchKnownNoMore]
    simp
  · rw [hlast ho] at h
    exact (condOff_lasts_iff.1 (hw.symm ▸ hatchOver_lasts h)).2 rfl
  · rw [hlast ho, hatchOver_ends (hcode.trans hc) (hwframe.hatchSince_eq.trans hs) (hwait.trans hrw)]
    exact ⟨fun c => by rw [chanOf_endEstop], fun h => (endEstop_lasts_iff.1 h).2 rfl⟩
  · have hdone : chanOf t c = chanOf (hatchKnownNoMore ch s) c := by
      rw [← ht, hatchOver_stays (hcode ▸ hc), ← hwchan]
      split
      · rw [hwchan]
      · rfl
    rw [hdone, chanOf_hatchKnownNoMore]
  · rw [hkept, chanOf_hatchKnownNoMore]

/-- The release of the emergency stop seen in one channel, its inputs high (R337). -/
def stopReleased (ch : Chan) (s : State) : State := updChan ch (fun x => { x with released := true }) (setInputs .estop true s)

theorem stopReleased_frame : SameBut [.chans] s (stopReleased ch s) := updChan_frame (by decide) setInputs_frame

theorem chanOf_stopReleased_self : chanOf (stopReleased ch s) ch = { chanOf s ch with estop := true, released := true } := by
  rw [stopReleased, chanOf_updChan_self, chanOf_setInputs]
  rfl

theorem chanOf_stopReleased_other : chanOf (stopReleased ch s) (otherChan ch) = { chanOf s (otherChan ch) with estop := true } := by
  rw [stopReleased, chanOf_updChan_other, chanOf_setInputs]
  rfl

/-- Released in one channel, the stop is released if the other does not know it in demand or has seen the release. -/
theorem estopReleased_stopReleased_iff : estopReleased (stopReleased ch s) = true
    ↔ (chanOf s (otherChan ch)).demEstop = false ∨ (chanOf s (otherChan ch)).released = true := by
  have hself := chanOf_stopReleased_self (ch := ch) (s := s)
  have hother := chanOf_stopReleased_other (ch := ch) (s := s)
  rw [estopReleased_eq]
  cases ch <;> simp only [otherChan] at hself hother ⊢ <;> simp [hself, hother]

theorem demandEnd_estop (hr : runs .safety s = true) (hdisc : pairDisc s .estop = false) (hdem : (chanOf s ch).demEstop = true) :
    exec (.demandEnd ch .estop) s = .next (if estopReleased (stopReleased ch s) then
      (if restartCode (stopReleased ch s) = 0 then endEstop (stopReleased ch s) else awaitRestart (stopReleased ch s)) else stopReleased ch s) := by
  have hdisc' : pairDisc (setInputs .estop true s) .estop = false :=
    (pairDisc_congr fun c => by rw [chanOf_setInputs, discHeld_setInput]).trans hdisc
  have hdem' : (chanOf (setInputs .estop true s) ch).demEstop = true := by rw [chanOf_setInputs]; exact hdem
  have hcond : ¬ (pairDisc (setInputs .estop true s) .estop || !(chanOf (setInputs .estop true s) ch).demEstop) = true := by
    simp [hdisc', hdem']
  exact (ifRuns_runs hr).trans (if_neg hcond)

theorem demandEnd_estop_yields (hr : runs .safety s = true) (hdisc : pairDisc s .estop = false) (hdem : (chanOf s ch).demEstop = true) :
    Yields (.demandEnd ch .estop) s fun t =>
      (if restartCode s = 0 ∧ ((chanOf s (otherChan ch)).demEstop = false ∨ (chanOf s (otherChan ch)).released = true)
        then (∀ c, (chanOf t c).demEstop = false) ∧ ¬ Lasts 489 t ∧ t.safety.awaited = none
        else (chanOf t ch).demEstop = true ∧ (chanOf t ch).released = true
          ∧ chanOf t (otherChan ch) = { chanOf s (otherChan ch) with estop := true }
          ∧ t.safety.awaited = (if (chanOf s (otherChan ch)).demEstop = false ∨ (chanOf s (otherChan ch)).released = true
              then some (restartCode s) else s.safety.awaited))
      ∧ (∀ c, (chanOf t c).slo = (chanOf s c).slo) ∧ SameBut [.chans, .safety, .faults] s t := by
  refine .framed ⟨_, demandEnd_estop hr hdisc hdem, fun hframe => ?_⟩
  have hrel := estopReleased_stopReleased_iff (ch := ch) (s := s)
  have hself := chanOf_stopReleased_self (ch := ch) (s := s)
  have hother := chanOf_stopReleased_other (ch := ch) (s := s)
  have hcode : restartCode (stopReleased ch s) = restartCode s := stopReleased_frame.restartCode_eq
  have hawaited : (stopReleased ch s).safety.awaited = s.safety.awaited := stopReleased_frame.awaited_eq
  generalize stopReleased ch s = v at *
  have hslo : ∀ c, (chanOf v c).slo = (chanOf s c).slo := forall_chan_of ch (by rw [hself]) (by rw [hother])
  have hwait (c : Chan) : chanOf (awaitRestart v) c = chanOf v c := (awaitRestart_frame (l := [.safety]) (by decide) .refl).chanOf_eq c
  refine ⟨?_, fun c => ?_, hframe⟩
  · by_cases hfree : (chanOf s (otherChan ch)).demEstop = false ∨ (chanOf s (otherChan ch)).released = true
    · by_cases hzero : restartCode s = 0
      · rw [if_pos ⟨hzero, hfree⟩, if_pos (hrel.2 hfree), if_pos (hcode.trans hzero)]
        exact ⟨fun c => by rw [chanOf_endEstop], fun h => (endEstop_lasts_iff.1 h).2 rfl, endEstop_awaited⟩
      · rw [if_neg fun h => hzero h.1, if_pos (hrel.2 hfree), if_neg (hcode ▸ hzero), hwait, hwait, hself, if_pos hfree]
        exact ⟨hdem, rfl, hother, congrArg some hcode⟩
    · rw [if_neg fun h => hfree h.2, if_neg (mt hrel.1 hfree), hself, if_neg hfree]
      exact ⟨hdem, rfl, hother, hawaited⟩
  · rw [← hslo]
    split
    · split
      · rw [chanOf_endEstop]
      · rw [hwait]
    · rfl

/-! ### The SEVERE line -/

/-- Channel B as it holds the SEVERE line broken or whole (R379). -/
def severeLineAt (broken : Bool) (s : State) : State := updChan .b (fun x => { x with severeLine := broken }) s

theorem severeLine_breaks (hr : runs .safety s = true) :
    Yields (.severeLineBroken true) s fun t => (chanOf t .b).slo = false ∧ (chanOf t .b).severeLine = true
      ∧ chanOf t .a = chanOf s .a ∧ SameBut [.strip, .tiles, .chans] s t := by
  have hexec : exec (.severeLineBroken true) s = .next (sloOff .b (severeLineAt true s)) := ifRuns_runs hr
  have hb : chanOf (severeLineAt true s) .b = { chanOf s .b with severeLine := true } := chanOf_updChan_self
  refine .framed ⟨_, hexec, fun hframe => ⟨sloOff_self _ _, ?_, (sloOff_other .b _).trans chanOf_updChan_other, hframe⟩⟩
  rw [chanOf_sloOff_self, hb]
  rfl

theorem severeLine_mends (hr : runs .safety s = true) :
    Yields (.severeLineBroken false) s fun t => chanOf t .b = { chanOf s .b with severeLine := false }
      ∧ chanOf t .a = chanOf s .a ∧ SameBut [.chans] s t := by
  have hexec : exec (.severeLineBroken false) s = .next (severeLineAt false s) := ifRuns_runs hr
  exact ⟨_, hexec, chanOf_updChan_self, chanOf_updChan_other (c := .b), updChan_frame (by decide) .refl⟩

end Ends

/-- Settles O30: each clause by what its command leaves in the channel judged and in the other one. -/
theorem demandsAndDiscrepancies : Obligations.DemandsAndDiscrepancies :=
  ⟨fun _ _ _ => safetyInputDemand_yields, fun _ _ _ => demandSignal_yields, fun _ _ _ => safDisc_yields, fun _ _ _ => discrepancyClear_yields,
    fun _ _ => demandEnd_hatch_yields, fun _ _ => demandEnd_estop_yields, fun _ hr => ⟨severeLine_breaks hr, severeLine_mends hr⟩⟩

end Sys2Proof.Machine
end

section
/-! The cross-link and the checks of the channels: the self-test, the exchange, test pulses with their verdicts, the feedback and the diverse
check (R332 R333 R338 R340 R341 R342 R345 R350). -/

set_option autoImplicit false
-- One declaration after the other: the text as one file holds many.
set_option Elab.async false

namespace Sys2Proof.Machine

/-! ### The self-test -/

section Selftest
variable {s : State} {ch : Chan} {r : SelftestResult}

/-- A set that is in force is not loaded again (R345). -/
theorem loadSet_loaded (h : s.safety.src ≠ 0) : loadSet s = s := if_pos h

/-- The set loaded and the pulse of step 5 sent (R345). -/
def testReady (ch : Chan) (s : State) : State := selftestPulse ch (loadSet s)

theorem testReady_outputs : (testReady ch s).outputs
    = if pairOn (testReady ch s) .estop then .testPulse (ch == .b) true :: s.outputs else s.outputs := by
  have hload : (loadSet s).outputs = s.outputs := (loadSet_frame (l := [.safeSet, .safety, .faults]) (by decide) .refl).outputs_eq
  have hon : pairOn (testReady ch s) .estop = pairOn (loadSet s) .estop := (selftestPulse_frame (l := [.outputs]) (by decide) .refl).pairOn_eq _
  rw [hon, testReady, selftestPulse, ← hload]
  split <;> rfl

/-- The verdict of the self-test: its parts, a set in force and a feedback that is low (R345). -/
def testPassed (ch : Chan) (r : SelftestResult) (s : State) : Bool := r.ok && decide (s.safety.src ≠ 0) && !(fbOn s ch && r.fbHigh)

theorem testPassed_congr {t : State} {l : List Part} (h : SameBut l s t) (hs : .safeSet ∉ l := by decide) :
    testPassed ch r t = testPassed ch r s := by
  simp only [testPassed, h.src_eq hs, h.fbOn_eq ch hs]

/-- A channel whose self-test has ended, with the levels that it then holds (R345 R362). -/
def selftested (r : SelftestResult) (ok tp : Bool) (x : Channel) : Channel :=
  { x with selftestDone := true, selftestOk := ok, hatch := r.hatchHigh, estop := r.estopHigh, fb := r.fbHigh, fbOk := ok, tp }

/-- The end of the self-test (R345). -/
def selftestEnd (ch : Chan) (r : SelftestResult) (s : State) : State := updChan ch (selftested r (testPassed ch r s) (pairOn s .estop)) s

theorem safetySelftest_ends (hr : runs .safety s = true) (hh : s.power.held = false) (hd : (chanOf s ch).selftestDone = false) :
    exec (.safetySelftest ch r) s = .next (if testPassed ch r (testReady ch s) then selftestEnd ch r (testReady ch s)
      else raise 497 (selftestEnd ch r (testReady ch s))) :=
  (ifRuns_runs hr).trans (when_holds (by simp [hh, hd]))

theorem safetySelftest_yields (hr : runs .safety s = true) (hh : s.power.held = false) (hd : (chanOf s ch).selftestDone = false) :
    Yields (.safetySelftest ch r) s fun t => (chanOf t ch).selftestDone = true
      ∧ (chanOf t ch).selftestOk = (r.ok && decide (t.safety.src ≠ 0) && !(fbOn t ch && r.fbHigh))
      ∧ ((chanOf t ch).selftestOk = false → Drives 497 t) ∧ (chanOf t ch).tp = pairOn t .estop
      ∧ t.outputs = (if pairOn t .estop then .testPulse (ch == .b) true :: s.outputs else s.outputs)
      ∧ (s.safety.src ≠ 0 → SameBut [.outputs, .chans, .faults] s t)
      ∧ (chanOf t ch).slo = (chanOf s ch).slo ∧ chanOf t (otherChan ch) = chanOf s (otherChan ch)
      ∧ SameBut [.outputs, .chans, .safeSet, .safety, .faults] s t := by
  refine .framed ⟨_, safetySelftest_ends hr hh hd, fun hframe => ?_⟩
  have hready (c : Chan) : chanOf (testReady ch s) c = chanOf s c :=
    SameBut.chanOf_eq (l := [.outputs, .safeSet, .safety, .faults]) (selftestPulse_frame (by decide) (loadSet_frame (by decide) .refl)) c
  have hloaded (h : s.safety.src ≠ 0) : SameBut [.outputs, .chans, .faults] s (testReady ch s) := by
    rw [testReady, loadSet_loaded h]
    exact selftestPulse_frame (by decide) .refl
  have houts := testReady_outputs (ch := ch) (s := s)
  generalize testReady ch s = u at *
  generalize ht : (if testPassed ch r u then selftestEnd ch r u else raise 497 (selftestEnd ch r u)) = t at hframe ⊢
  have hk : SameBut [.chans, .faults] u t := ht ▸ .ite (fun _ => updChan_frame (by decide) .refl) fun _ =>
    raise_frame (by decide) (updChan_frame (by decide) .refl)
  have hchan (c : Chan) : chanOf t c = chanOf (selftestEnd ch r u) c := by
    rw [← ht]
    split
    · rfl
    · exact raise_chanOf ..
  have hself : chanOf t ch = selftested r (testPassed ch r t) (pairOn t .estop) (chanOf s ch) := by
    rw [hchan, selftestEnd, chanOf_updChan_self, hready, testPassed_congr hk, hk.pairOn_eq]
  rw [hself]
  refine ⟨rfl, rfl, fun hf => ?_, rfl, ?_, fun h => hk.step (by decide) (hloaded h), rfl, ?_, hframe⟩
  · rw [← ht, if_neg (by rw [← testPassed_congr hk, show testPassed ch r t = false from hf]; decide)]
    exact raise_drives _ _
  · rw [hk.outputs_eq, houts, hk.pairOn_eq]
  · rw [hchan, selftestEnd, chanOf_updChan_other, hready]

end Selftest

/-! ### The cross-link -/

section Link
variable {s : State} {ch c : Chan} {agree : Bool}

/-- Both channels have received the other's message (R332). -/
def linkHeard (agree : Bool) (s : State) : State := onSaf (fun f => { f with a := linkSeen agree f.a, b := linkSeen agree f.b }) s

theorem chanOf_linkHeard : chanOf (linkHeard agree s) c = linkSeen agree (chanOf s c) := chanOf_onSaf rfl rfl

theorem exchange_permitted (h : (ownPermit (linkHeard agree s) .a && ownPermit (linkHeard agree s) .b) = true) :
    chanOf (exchange agree s) c = { linkSeen agree (chanOf s c) with slo := true } := by
  rw [exchange]
  refine (congrArg (chanOf · c) (if_pos h)).trans ?_
  exact (chanOf_onSaf (g := fun x => { x with slo := true }) rfl rfl).trans (congrArg (fun x => { x with slo := true }) chanOf_linkHeard)

theorem exchange_refused (h : (ownPermit (linkHeard agree s) .a && ownPermit (linkHeard agree s) .b) = false) :
    chanOf (exchange agree s) c = lowered (linkSeen agree (chanOf s c)) := by
  rw [exchange]
  refine (congrArg (chanOf · c) (if_neg (ne_true_of_eq_false h))).trans ?_
  exact chanOf_lightOff.trans (congrArg lowered chanOf_linkHeard)

theorem crossLinkExchange_yields (hr : runs .safety s = true) :
    Yields (.crossLinkExchange agree) s fun t =>
      (∀ c, (chanOf t c).slo = (ownPermit (linkHeard agree s) .a && ownPermit (linkHeard agree s) .b))
        ∧ (∀ c, (chanOf t c).xcmp = false ∧ (chanOf t c).differs = ((chanOf s c).differs && !agree))
        ∧ SameBut [.strip, .tiles, .chans] s t := by
  refine .framed ⟨_, ifRuns_runs hr, fun hframe => ?_⟩
  cases hp : ownPermit (linkHeard agree s) .a && ownPermit (linkHeard agree s) .b with
  | true => exact ⟨fun c => by rw [exchange_permitted hp], fun c => by rw [exchange_permitted hp]; exact ⟨rfl, rfl⟩, hframe⟩
  | false => exact ⟨fun c => by rw [exchange_refused hp]; rfl, fun c => by rw [exchange_refused hp]; exact ⟨rfl, rfl⟩, hframe⟩

/-- A channel that finds the cross-link at fault goes low and raises `XCMP`; the other one goes on (R332). -/
theorem raise_sloOff_updChan {f : Channel → Channel} {n : Nat} : chanOf (raise n (sloOff ch (updChan ch f s))) ch = lowered (f (chanOf s ch))
    ∧ Drives n (raise n (sloOff ch (updChan ch f s)))
    ∧ chanOf (raise n (sloOff ch (updChan ch f s))) (otherChan ch) = chanOf s (otherChan ch) := by
  rw [raise_chanOf, raise_chanOf, chanOf_sloOff_self, chanOf_updChan_self, sloOff_other, chanOf_updChan_other]
  exact ⟨rfl, raise_drives _ _, rfl⟩

theorem crossLinkLoss_yields (hr : runs .safety s = true) :
    Yields (.crossLinkLoss ch) s fun t => (chanOf t ch).slo = false ∧ (chanOf t ch).xcmp = true ∧ Drives 494 t
      ∧ chanOf t (otherChan ch) = chanOf s (otherChan ch) ∧ SameBut [.strip, .tiles, .chans, .faults] s t := by
  refine .framed ⟨_, ifRuns_runs hr, fun hframe => ?_⟩
  obtain ⟨hself, hdrives, hother⟩ := raise_sloOff_updChan (s := s) (ch := ch) (f := fun x => { x with xcmp := true }) (n := 494)
  exact ⟨congrArg Channel.slo hself, congrArg Channel.xcmp hself, hdrives, hother, hframe⟩

theorem crossLinkDisagree_yields (hr : runs .safety s = true) :
    Yields (.crossLinkDisagree ch) s fun t => (chanOf t ch).slo = false ∧ (chanOf t ch).differs = true ∧ Drives 494 t
      ∧ chanOf t (otherChan ch) = chanOf s (otherChan ch) ∧ SameBut [.strip, .tiles, .chans, .faults] s t := by
  refine .framed ⟨_, ifRuns_runs hr, fun hframe => ?_⟩
  obtain ⟨hself, hdrives, hother⟩ := raise_sloOff_updChan (s := s) (ch := ch) (f := fun x => { x with differs := true }) (n := 494)
  exact ⟨congrArg Channel.slo hself, congrArg Channel.differs hself, hdrives, hother, hframe⟩

end Link

/-! ### Test pulses and their verdicts -/

section Tests
variable {s : State} {ch : Chan}

/-- A command that changes one channel and sends a pulse. -/
theorem Yields.of_pulse {c : Instr} {f : Channel → Channel} {o : Output} (h : exec c s = .next (emit o (updChan ch f s))) :
    Yields c s fun t => chanOf t ch = f (chanOf s ch) ∧ t.outputs = o :: s.outputs ∧ chanOf t (otherChan ch) = chanOf s (otherChan ch)
      ∧ SameBut [.outputs, .chans] s t :=
  ⟨_, h, chanOf_updChan_self, congrArg (o :: ·) (putChan_outputs ..), chanOf_updChan_other, emit_frame (by decide) (updChan_frame (by decide) .refl)⟩

theorem inputTestPulse_yields (hr : runs .safety s = true) (hon : pairOn s .estop = true) (hok : (chanOf s ch).selftestOk = true)
    (hin : (chanOf s ch).inTest = false) :
    Yields (.inputTestPulse ch) s fun t => chanOf t ch = { chanOf s ch with inTest := true, tp := false }
      ∧ t.outputs = .testPulse (ch == .b) true :: s.outputs ∧ chanOf t (otherChan ch) = chanOf s (otherChan ch) ∧ SameBut [.outputs, .chans] s t := by
  have hexec : exec (.inputTestPulse ch) s
      = .next (emit (.testPulse (ch == .b) true) (updChan ch (fun x => { x with inTest := true, tp := false }) s)) :=
    (ifRuns_runs hr).trans (when_holds (by simp [hon, hok, hin]))
  exact .of_pulse hexec

theorem outputTestPulse_yields (hr : runs .safety s = true) (hfb : fbOn s ch = true) (hs : (chanOf s ch).slo = true)
    (hout : (chanOf s ch).outTest = false) :
    Yields (.outputTestPulse ch) s fun t => chanOf t ch = { chanOf s ch with outTest := true, outDiscard := false }
      ∧ t.outputs = .testPulse (ch == .b) false :: s.outputs ∧ chanOf t (otherChan ch) = chanOf s (otherChan ch) ∧ SameBut [.outputs, .chans] s t := by
  have hexec : exec (.outputTestPulse ch) s
      = .next (emit (.testPulse (ch == .b) false) (updChan ch (fun x => { x with outTest := true, outDiscard := false }) s)) :=
    (ifRuns_runs hr).trans (when_holds (by simp [hfb, hs, hout]))
  exact .of_pulse hexec

/-- What changes the channels alone leaves the two counts of tests (R366). -/
theorem SameBut.tests_eq {t : State} {l : List Part} (h : SameBut l s t) (hs : .safety ∉ l := by decide) :
    t.safety.tpDiscarded = s.safety.tpDiscarded ∧ t.safety.tpFailed = s.safety.tpFailed :=
  ⟨(congrArg Safety.tpDiscarded (h.parts .safety hs) :), (congrArg Safety.tpFailed (h.parts .safety hs) :)⟩

/-- A test without a verdict is counted (R339 R342 R366). -/
def testDiscarded (s : State) : State := onSaf (fun f => { f with tpDiscarded := satAdd 65535 f.tpDiscarded 1 }) s

/-- A test that fails is counted and raises its source (R339 R341 R366). -/
def testFailed (n : Nat) (s : State) : State := raise n (onSaf (fun f => { f with tpFailed := satAdd 65535 f.tpFailed 1 }) s)

theorem chanOf_testDiscarded {c : Chan} : chanOf (testDiscarded s) c = chanOf s c := chanOf_onSaf (g := id) rfl rfl

theorem chanOf_testFailed {n : Nat} {c : Chan} : chanOf (testFailed n s) c = chanOf s c :=
  (raise_chanOf ..).trans (chanOf_onSaf (g := id) rfl rfl)

theorem testFailed_drives {n : Nat} : Drives n (testFailed n s) := raise_drives _ _

theorem testFailed_counts {n : Nat} : (testFailed n s).safety.tpFailed = satAdd 65535 s.safety.tpFailed 1 :=
  congrArg Safety.tpFailed (raise_safety ..)

theorem testDiscarded_frame : SameBut [.safety] s (testDiscarded s) :=
  onSaf_frame (fun _ => rfl) (fun _ => rfl) (fun _ => rfl) (fun _ => rfl) (fun _ => rfl) (by decide) .refl

/-- The channel after the window of an input test (R338). -/
def echoHeard (ch : Chan) (e : EchoSeen) (s : State) : State :=
  updChan ch (fun x => { x with inTest := false, tp := pairOn s .estop, estop := x.estop && e.returned }) s

theorem safTpi_judges {e : EchoSeen} (hr : runs .safety s = true) (hin : (chanOf s ch).inTest = true) : exec (.safTpi ch e) s
    = .next (if !e.returned then testDiscarded (echoHeard ch e s)
      else if e.otherFell || !e.fell then testFailed 491 (echoHeard ch e s) else echoHeard ch e s) :=
  (ifRuns_runs hr).trans (when_holds hin)

theorem safTpi_yields {e : EchoSeen} (hr : runs .safety s = true) (hin : (chanOf s ch).inTest = true) :
    Yields (.safTpi ch e) s fun t =>
      chanOf t ch = { chanOf s ch with inTest := false, tp := pairOn s .estop, estop := (chanOf s ch).estop && e.returned }
      ∧ (e.returned = false → t.safety.tpDiscarded = satAdd 65535 s.safety.tpDiscarded 1 ∧ t.safety.tpFailed = s.safety.tpFailed
          ∧ SameBut [.chans, .safety] s t)
      ∧ (e.returned = true → (e.otherFell = true ∨ e.fell = false) →
          Drives 491 t ∧ t.safety.tpFailed = satAdd 65535 s.safety.tpFailed 1)
      ∧ (e.returned = true → e.otherFell = false → e.fell = true → SameBut [.chans] s t)
      ∧ chanOf t (otherChan ch) = chanOf s (otherChan ch) ∧ SameBut [.chans, .safety, .faults] s t := by
  refine .framed ⟨_, safTpi_judges hr hin, fun hframe => ?_⟩
  have hself : chanOf (echoHeard ch e s) ch
      = { chanOf s ch with inTest := false, tp := pairOn s .estop, estop := (chanOf s ch).estop && e.returned } := chanOf_updChan_self
  have hother : chanOf (echoHeard ch e s) (otherChan ch) = chanOf s (otherChan ch) := chanOf_updChan_other
  have hkept : SameBut [.chans] s (echoHeard ch e s) := updChan_frame (by decide) .refl
  have hcounts : (echoHeard ch e s).safety.tpDiscarded = s.safety.tpDiscarded ∧ (echoHeard ch e s).safety.tpFailed = s.safety.tpFailed :=
    hkept.tests_eq
  generalize echoHeard ch e s = v at *
  generalize ht : (if !e.returned then testDiscarded v else if e.otherFell || !e.fell then testFailed 491 v else v) = t at hframe ⊢
  have hchan (c : Chan) : chanOf t c = chanOf v c := by
    rw [← ht]
    split
    · exact chanOf_testDiscarded
    · split
      · exact chanOf_testFailed
      · rfl
  refine ⟨(hchan ch).trans hself, fun hret => ?_, fun hret hbad => ?_, fun hret ho hf => ?_, (hchan _).trans hother, hframe⟩
  · obtain rfl : testDiscarded v = t := (if_pos (by simp [hret])).symm.trans ht
    exact ⟨congrArg (satAdd 65535 · 1) hcounts.1, hcounts.2, testDiscarded_frame.step (by decide) (hkept.mono (by decide))⟩
  · obtain rfl : testFailed 491 v = t := ((if_neg (by simp [hret])).trans (if_pos (by simpa using hbad))).symm.trans ht
    exact ⟨testFailed_drives, testFailed_counts.trans (congrArg (satAdd 65535 · 1) hcounts.2)⟩
  · obtain rfl : v = t := ((if_neg (by simp [hret])).trans (if_neg (by simp [ho, hf]))).symm.trans ht
    exact hkept

/-- The channel after the window of an output test (R341). -/
def outTestOver (ch : Chan) (s : State) : State := updChan ch (fun x => { x with outTest := false, outDiscard := false }) s

theorem outputTestVerdict_judges {low high : Bool} (hr : runs .safety s = true) (ho : (chanOf s ch).outTest = true) :
    exec (.outputTestVerdict ch low high) s
      = .next (if (chanOf s ch).outDiscard then testDiscarded (outTestOver ch s)
        else if low && high then updChan ch (fun x => { x with fbOk := true, fb := true }) (outTestOver ch s)
        else testFailed (sloSlot ch) (updChan ch (fun x => { x with fbOk := false, fb := high }) (outTestOver ch s))) :=
  (ifRuns_runs hr).trans (when_holds ho)

/-- The window ends in one of three ways: no verdict, a good one, a bad one (R341 R342). -/
theorem outputTestVerdict_yields {low high : Bool} (hr : runs .safety s = true) (ho : (chanOf s ch).outTest = true) :
    Yields (.outputTestVerdict ch low high) s fun t => (chanOf t ch).outTest = false
      ∧ ((chanOf s ch).outDiscard = true → t.safety.tpDiscarded = satAdd 65535 s.safety.tpDiscarded 1 ∧ SameBut [.chans, .safety] s t)
      ∧ ((chanOf s ch).outDiscard = false → low = true → high = true → (chanOf t ch).fbOk = true ∧ (chanOf t ch).fb = true ∧ SameBut [.chans] s t)
      ∧ ((chanOf s ch).outDiscard = false → (low = false ∨ high = false) →
          Drives (sloSlot ch) t ∧ (chanOf t ch).fbOk = false ∧ (chanOf t ch).fb = high ∧ t.safety.tpFailed = satAdd 65535 s.safety.tpFailed 1)
      ∧ (chanOf t ch).slo = (chanOf s ch).slo ∧ chanOf t (otherChan ch) = chanOf s (otherChan ch) ∧ SameBut [.chans, .safety, .faults] s t := by
  refine .framed ⟨_, outputTestVerdict_judges hr ho, fun hframe => ?_⟩
  have hself : chanOf (outTestOver ch s) ch = { chanOf s ch with outTest := false, outDiscard := false } := chanOf_updChan_self
  have hother : chanOf (outTestOver ch s) (otherChan ch) = chanOf s (otherChan ch) := chanOf_updChan_other
  have hkept : SameBut [.chans] s (outTestOver ch s) := updChan_frame (by decide) .refl
  generalize outTestOver ch s = v at *
  by_cases hdis : (chanOf s ch).outDiscard = true
  · rw [if_pos hdis] at hframe ⊢
    rw [chanOf_testDiscarded, chanOf_testDiscarded, hself]
    exact ⟨rfl, fun _ => ⟨congrArg (satAdd 65535 · 1) hkept.tests_eq.1, testDiscarded_frame.step (by decide) (hkept.mono (by decide))⟩,
      fun h => absurd hdis (ne_true_of_eq_false h), fun h => absurd hdis (ne_true_of_eq_false h), rfl, hother, hframe⟩
  rw [if_neg hdis] at hframe ⊢
  by_cases hok : (low && high) = true
  · obtain ⟨rfl, rfl⟩ := Bool.and_eq_true_iff.1 hok
    rw [if_pos hok] at hframe ⊢
    rw [chanOf_updChan_self, chanOf_updChan_other, hself]
    exact ⟨rfl, fun h => absurd h hdis, fun _ _ _ => ⟨rfl, rfl, updChan_frame (by decide) hkept⟩, fun _ h => absurd h (by decide), rfl, hother, hframe⟩
  · rw [if_neg hok] at hframe ⊢
    have hcount : (updChan ch (fun x => { x with fbOk := false, fb := high }) v).safety.tpFailed = s.safety.tpFailed :=
      (updChan_frame (l := [.chans]) (by decide) hkept).tests_eq.2
    rw [chanOf_testFailed, chanOf_testFailed, chanOf_updChan_self, chanOf_updChan_other, hself]
    exact ⟨rfl, fun h => absurd h hdis, fun _ hl hh => absurd (Bool.and_eq_true_iff.2 ⟨hl, hh⟩) hok,
      fun _ _ => ⟨testFailed_drives, rfl, rfl, testFailed_counts.trans (congrArg (satAdd 65535 · 1) hcount)⟩, rfl, hother, hframe⟩

end Tests

/-! ### The feedback of an output -/

section Feedback
variable {s : State} {ch : Chan} {level : Bool}

/-- A channel's feedback as two samples show it (R340). -/
def fbSeen (ch : Chan) (level : Bool) (s : State) : State :=
  updChan ch (fun x => { x with fb := level, fbOk := !fbOn s ch || level == (chanOf s ch).slo }) s

theorem feedbackCheck_judges (hr : runs .safety s = true) (ho : (chanOf s ch).outTest = false) : exec (.feedbackCheck ch level) s
    = .next (if fbOn (fbSeen ch level s) ch then
        (if level == (chanOf s ch).slo then condOff (sloSlot ch) (fbSeen ch level s) else condOn (sloSlot ch) (fbSeen ch level s))
      else fbSeen ch level s) :=
  (ifRuns_runs hr).trans (if_neg (by simp [ho]))

theorem feedbackCheck_yields (hr : runs .safety s = true) (ho : (chanOf s ch).outTest = false) :
    Yields (.feedbackCheck ch level) s fun t => chanOf t ch = { chanOf s ch with fb := level, fbOk := !fbOn s ch || level == (chanOf s ch).slo }
      ∧ (fbOn s ch = true → (Lasts (sloSlot ch) t ↔ level ≠ (chanOf s ch).slo)) ∧ chanOf t (otherChan ch) = chanOf s (otherChan ch)
      ∧ SameBut [.chans, .faults] s t := by
  refine .framed ⟨_, feedbackCheck_judges hr ho, fun hframe => ?_⟩
  have hself : chanOf (fbSeen ch level s) ch = { chanOf s ch with fb := level, fbOk := !fbOn s ch || level == (chanOf s ch).slo } :=
    chanOf_updChan_self
  have hother : chanOf (fbSeen ch level s) (otherChan ch) = chanOf s (otherChan ch) := chanOf_updChan_other
  have hon : fbOn (fbSeen ch level s) ch = fbOn s ch := (updChan_frame (l := [.chans]) (by decide) .refl).fbOn_eq ch
  rw [hon] at hframe ⊢
  generalize fbSeen ch level s = v at *
  generalize ht : (if fbOn s ch then (if level == (chanOf s ch).slo then condOff (sloSlot ch) v else condOn (sloSlot ch) v) else v) = t at hframe ⊢
  have hchan (c : Chan) : chanOf t c = chanOf v c := by
    rw [← ht]
    split
    · split
      · exact condOff_chanOf ..
      · exact condOn_chanOf ..
    · rfl
  refine ⟨(hchan ch).trans hself, fun hfb => ?_, (hchan _).trans hother, hframe⟩
  rw [← ht, if_pos hfb]
  by_cases hl : level = (chanOf s ch).slo
  · rw [if_pos (beq_iff_eq.2 hl), condOff_lasts_iff]
    simp [hl]
  · rw [if_neg (mt beq_iff_eq.1 hl), condOn_lasts_iff]
    simp [hl]

end Feedback

/-! ### The diverse check -/

section Diverse
variable {s : State} {ch : Chan} {n : Nat} {w : Nat × Nat × Nat × Nat}

theorem chanOf_egKeep {m : Nat × Nat × Nat} {c : Chan} : chanOf (egKeep ch n m s) c = chanOf s c :=
  (egKeep_frame (l := [.safety]) (by decide) .refl).chanOf_eq c

theorem egKeep_trip {m : Nat × Nat × Nat} : (egKeep ch n m s).safety.tripValid = s.safety.tripValid
    ∧ (egKeep ch n m s).safety.tripTile = s.safety.tripTile := by
  cases ch <;> exact ⟨rfl, rfl⟩

/-- Without a window above its limit nothing but the largest ratio is kept (R350 R368). -/
theorem egDiverse_passes {m : Fin 8} {st : List StripRet} (hr : runs .safety s = true)
    (h : ∀ w ∈ divWindows s m.val st, divTrips (w.2.2.1, w.2.2.2) = false) :
    exec (.egDiverse ch m st) s = .next (egKeep ch m.val (divMax (divWindows s m.val st)) s) := by
  have hnone : egFirst (divWindows s m.val st) = none := List.find?_eq_none.2 fun w hw => by rw [h w hw]; decide
  refine (ifRuns_runs hr).trans ?_
  rw [hnone]
  rfl

theorem egDiverse_passes_yields {m : Fin 8} {st : List StripRet} (hr : runs .safety s = true)
    (h : ∀ w ∈ divWindows s m.val st, divTrips (w.2.2.1, w.2.2.2) = false) :
    Yields (.egDiverse ch m st) s fun t => (∀ c, chanOf t c = chanOf s c)
      ∧ (ch = .a → t.safety.egRatio = min 65535 (divMax (divWindows s m.val st)).1) ∧ SameBut [.safety] s t :=
  ⟨_, egDiverse_passes hr h, fun _ => chanOf_egKeep, fun e => by rw [e]; rfl, egKeep_frame (by decide) .refl⟩

/-- The first window above its limit trips the channel (R350 R369). -/
theorem egDiverse_trips {m : Fin 8} {st : List StripRet} (hr : runs .safety s = true) (hw : w ∈ divWindows s m.val st)
    (ht : divTrips (w.2.2.1, w.2.2.2) = true) : ∃ v, exec (.egDiverse ch m st) s
      = .next (raise 495 (sloOff ch (egRecord ch m.val v (egKeep ch m.val (divMax (divWindows s m.val st)) s)))) := by
  obtain ⟨v, hv⟩ : ∃ v, egFirst (divWindows s m.val st) = some v :=
    Option.isSome_iff_exists.1 (List.find?_isSome.2 ⟨w, hw, ht⟩)
  refine ⟨v, (ifRuns_runs hr).trans ?_⟩
  rw [hv]
  rfl

theorem chanOf_egRecord {c : Chan} : chanOf (egRecord ch n w s) c = chanOf s c :=
  (egRecord_frame (l := [.safety]) (by decide) .refl).chanOf_eq c

/-- Only the first trip is recorded (R369). -/
theorem egRecord_trip : (egRecord ch n w s).safety.tripValid = true
    ∧ (s.safety.tripValid = true → (egRecord ch n w s).safety.tripTile = s.safety.tripTile)
    ∧ (s.safety.tripValid = false → (egRecord ch n w s).safety.tripTile = n) := by
  unfold egRecord
  split
  · next h => exact ⟨h, fun _ => rfl, fun hf => absurd h (ne_true_of_eq_false hf)⟩
  · next h => exact ⟨rfl, fun hf => absurd hf h, fun _ => rfl⟩

theorem raise_sloOff_trip {k : Nat} : (raise k (sloOff ch s)).safety.tripValid = s.safety.tripValid
    ∧ (raise k (sloOff ch s)).safety.tripTile = s.safety.tripTile := by
  have hf : SameBut [.strip, .tiles, .chans, .faults] s (raise k (sloOff ch s)) := raise_frame (by decide) (sloOff_frame (by decide) .refl)
  exact ⟨(congrArg Safety.tripValid (hf.parts .safety (by decide)) :), (congrArg Safety.tripTile (hf.parts .safety (by decide)) :)⟩

theorem egDiverse_trips_yields {m : Fin 8} {st : List StripRet} (hr : runs .safety s = true) (hw : w ∈ divWindows s m.val st)
    (ht : divTrips (w.2.2.1, w.2.2.2) = true) :
    Yields (.egDiverse ch m st) s fun t => (chanOf t ch).slo = false ∧ Drives 495 t ∧ t.safety.tripValid = true
      ∧ (s.safety.tripValid = true → t.safety.tripTile = s.safety.tripTile) ∧ (s.safety.tripValid = false → t.safety.tripTile = m.val)
      ∧ chanOf t (otherChan ch) = chanOf s (otherChan ch) ∧ SameBut [.strip, .tiles, .chans, .safety, .faults] s t := by
  obtain ⟨v, hexec⟩ := egDiverse_trips (ch := ch) hr hw ht
  refine .framed ⟨_, hexec, fun hframe => ?_⟩
  have hkeep := egKeep_trip (ch := ch) (n := m.val) (m := divMax (divWindows s m.val st)) (s := s)
  have hchan : chanOf (egKeep ch m.val (divMax (divWindows s m.val st)) s) (otherChan ch) = chanOf s (otherChan ch) := chanOf_egKeep
  generalize egKeep ch m.val (divMax (divWindows s m.val st)) s = u at *
  obtain ⟨hvalid, hold, hnew⟩ := egRecord_trip (ch := ch) (n := m.val) (w := v) (s := u)
  rw [hkeep.1, hkeep.2] at hold
  rw [hkeep.1] at hnew
  rw [raise_sloOff_trip.1, raise_sloOff_trip.2, raise_chanOf, raise_chanOf, sloOff_other, chanOf_egRecord]
  exact ⟨sloOff_self _ _, raise_drives _ _, hvalid, hold, hnew, hchan, hframe⟩

end Diverse

/-- Settles O31: the self-test, the cross-link, the tests and the checks, each by what it leaves in the channel judged and in the other one. -/
theorem exchangesAndChecks : Obligations.ExchangesAndChecks :=
  ⟨fun _ _ _ => safetySelftest_yields, fun _ _ => crossLinkExchange_yields, fun _ _ hr => ⟨crossLinkLoss_yields hr, crossLinkDisagree_yields hr⟩,
    fun _ _ => inputTestPulse_yields, fun _ _ _ => safTpi_yields, fun _ _ => outputTestPulse_yields, fun _ _ _ _ => outputTestVerdict_yields,
    fun _ _ _ => feedbackCheck_yields, fun _ _ _ _ => egDiverse_passes_yields, fun _ _ _ _ _ => egDiverse_trips_yields⟩

end Sys2Proof.Machine
end

section
/-! The safety set: an image staged and refused, read, confirmed and taken into force, and the lock of its confirmation (R355 R358 R359 R360 R361
R363 R365). -/

set_option autoImplicit false
-- One declaration after the other: the text as one file holds many.
set_option Elab.async false

namespace Sys2Proof.Machine

/-! ### SAFE_WRITE and SAFE_READ -/

section Stage
variable {s : State} {id : Nat} {d : Desc} {b : Bytes} {e : Nat × Nat}

/-- The image that a write makes of its bytes and of the set in force (R355 R358). -/
def imageOf (s : State) (d : Desc) (b : Bytes) : Bytes := withCheck (b ++ s.safety.inForce.drop (le d.bytes 20 4))

/-- Only the first refusal is recorded (R365). -/
theorem stageError_safety {cause off : Nat} : (stageError cause off s).safety
    = if s.safety.errValid then s.safety else { s.safety with errValid := true, errCause := cause, errOffset := off } := by
  unfold stageError
  split <;> rfl

theorem stageError_keeps {cause off : Nat} : SameBut [.safety] s (stageError cause off s) := stageError_frame (by decide) .refl

/-- A descriptor of which an argument is refused completes `CHECK`, the refusal recorded (R365). -/
theorem Yields.of_stageError {c : Instr} {op cause off : Nat} (hr : Runs s id op d)
    (hc : exec c s = .next (complete id stCHECK [] (stageError cause off s))) :
    Yields c s fun t => t.safety = (if s.safety.errValid then s.safety
        else { s.safety with errValid := true, errCause := cause, errOffset := off })
      ∧ Completed id d stCHECK [] s t ∧ SameBut [.rings, .safety] s t := by
  have hrings : (stageError cause off s).rings = s.rings := stageError_keeps.rings_eq
  refine ⟨_, hc, (complete_safety ..).trans stageError_safety, complete_completed ?_ (by rw [hrings]) (by rw [hrings]),
    complete_frame (by decide) (stageError_frame (by decide) .refl)⟩
  rw [stageError_keeps.descOf_eq]
  exact hr.desc

/-- An image without a field out of range is staged (R358). -/
theorem safeWrite_stages (hr : Runs s id 0x31 d) (hl : le d.bytes 20 4 ≤ 512) (hf : d.failed = false) (hd : d.data = some b)
    (he : setError (imageOf s d b) = none) :
    exec (.safeWrite id) s = .next (complete id stOK [] (onSaf (fun f => { f with staged := imageOf s d b }) s)) := by
  refine exec_of_runOp hr rfl ((if_neg (not_lt.2 hl)).trans ((if_neg (by simp [hf])).trans ?_))
  rw [hd]
  dsimp only
  rw [← imageOf, he]

/-- An image with one is not (R355). -/
theorem safeWrite_refuses (hr : Runs s id 0x31 d) (hl : le d.bytes 20 4 ≤ 512) (hf : d.failed = false) (hd : d.data = some b)
    (he : setError (imageOf s d b) = some e) : exec (.safeWrite id) s = .next (complete id stCHECK [] (stageError e.1 e.2 s)) := by
  refine exec_of_runOp hr rfl ((if_neg (not_lt.2 hl)).trans ((if_neg (by simp [hf])).trans ?_))
  rw [hd]
  dsimp only
  rw [← imageOf, he]

theorem safeWrite_stages_yields (hr : Runs s id 0x31 d) (hl : le d.bytes 20 4 ≤ 512) (hf : d.failed = false) (hd : d.data = some b)
    (he : setError (imageOf s d b) = none) :
    Yields (.safeWrite id) s fun t => t.safety = { s.safety with staged := imageOf s d b } ∧ Completed id d stOK [] s t
      ∧ SameBut [.rings, .safety] s t :=
  .framed ⟨_, safeWrite_stages hr hl hf hd he, fun hframe => ⟨complete_safety .., complete_completed hr.desc rfl rfl, hframe⟩⟩

theorem safeRead_yields (hr : Runs s id 0x30 d) (hd : dmaOk s = true)
    (hb : ((setByNo s (le d.bytes 16 1)).take (min (le d.bytes 20 4) 512)).isEmpty = false) :
    Yields (.safeRead id) s fun t =>
      t.outputs = (writePieces s.link.mps (le d.bytes 32 8) ((setByNo s (le d.bytes 16 1)).take (min (le d.bytes 20 4) 512))).reverse
          ++ s.outputs
        ∧ Completed id d stOK (toLe 4 ((setByNo s (le d.bytes 16 1)).take (min (le d.bytes 20 4) 512)).length
            ++ toLe 4 (setCheck (setByNo s (le d.bytes 16 1)))) s t ∧ SameBut [.outputs, .rings] s t :=
  .of_hostWrite hr (exec_of_runOp hr rfl ((if_neg (by rw [hb]; decide)).trans (if_pos hd)))

end Stage

/-! ### SAFE_CONFIRM -/

section Confirm
variable {s : State} {id : Nat} {d : Desc}

/-- The record of a confirmation: the staged set, for the copy that does not hold the set in force (R360). -/
def confirmRec (id : Nat) (s : State) : Rec := { page := if s.safety.copy = 1 then 7298 else 7297, bytes := s.safety.staged, why := .confirm id }

theorem safeConfirm_writes (hr : Runs s id 0x32 d) (hc : s.safety.confirm = none) (hen : s.safety.confirmEn = true)
    (hs : s.safety.staged.isEmpty = false) (hk : le d.bytes 16 4 = setCheck s.safety.staged) (hi : s.power.inhibit = false) :
    exec (.safeConfirm id) s = .next (onNvm (fun n => { n with queue := n.queue ++ [confirmRec id s] })
      (onSaf (fun f => { f with confirm := some (id, false) }) (updDesc id (fun d => { d with taken := true }) s))) := by
  refine exec_of_runOp hr rfl ?_
  refine (if_neg (by rw [hc]; decide)).trans <| (if_neg (by rw [hen]; decide)).trans <| (if_neg (by rw [hs]; decide)).trans <|
    (if_neg (not_not.2 hk)).trans <| (if_neg (by rw [hi]; decide)).trans ?_
  exact queueRecs_open hi

theorem safeConfirm_yields (hr : Runs s id 0x32 d) (hc : s.safety.confirm = none) (hen : s.safety.confirmEn = true)
    (hs : s.safety.staged.isEmpty = false) (hk : le d.bytes 16 4 = setCheck s.safety.staged) (hi : s.power.inhibit = false) :
    Yields (.safeConfirm id) s fun t => t.safety = { s.safety with confirm := some (id, false) }
      ∧ t.nvm = { s.nvm with queue := s.nvm.queue ++
          [{ page := if s.safety.copy = 1 then 7298 else 7297, bytes := s.safety.staged, why := .confirm id }] }
      ∧ descOf t id = some { d with taken := true } ∧ t.rings.done = s.rings.done ∧ SameBut [.rings, .safety, .nvm] s t :=
  ⟨_, safeConfirm_writes hr hc hen hs hk hi, rfl, rfl, descOf_taken hr.desc, rfl, onNvm_frame (fun _ => rfl) (fun _ => rfl) (by decide) <|
    onSaf_frame (fun _ => rfl) (fun _ => rfl) (fun _ => rfl) (fun _ => rfl) (fun _ => rfl) (by decide) (updDesc_frame (by decide) .refl)⟩

/-- While confirmation is not enabled nothing is confirmed (R363). -/
theorem safeConfirm_disabled (hr : Runs s id 0x32 d) (hc : s.safety.confirm = none) (hen : s.safety.confirmEn = false) :
    exec (.safeConfirm id) s = .next (complete id stCHECK [] (stageError 7 0 s)) :=
  exec_of_runOp hr rfl ((if_neg (by rw [hc]; decide)).trans (if_pos (by rw [hen]; decide)))

end Confirm

/-! ### SAFETY_SET_IN_FORCE -/

section InForce
variable {s : State} {id : Nat} {d : Desc} {p : Page} {c : Chan}

/-- The set of a page taken into force from the copy that did not hold the last one (R360 R361). -/
def takeSet (p : Page) (s : State) : State := onSaf (fun f => { f with
  inForce := p.bytes, src := 1, copy := if s.safety.copy = 1 then 2 else 1, staged := [], confirm := none }) s

theorem setInForce_takes (hr : runs .safety s = true) (hc : s.safety.confirm = some (id, true))
    (hp : pageOf s (if s.safety.copy = 1 then 7298 else 7297) = some p) :
    exec .safetySetInForce s = .next (complete id stOK [] (tpFollows (takeSet p s))) := by
  have hpage : pageOf s (if (if s.safety.copy = 1 then 2 else 1) = 2 then 7298 else 7297) = some p := by
    rw [← hp]
    split <;> rfl
  refine (ifRuns_runs hr).trans ?_
  rw [hc]
  dsimp only
  rw [hpage]
  rfl

/-- `TPx` follows the enable in both channels (R338 R361). -/
theorem chanOf_tpFollows : chanOf (tpFollows s) c
    = { chanOf s c with tp := pairOn s .estop && !(chanOf s c).inTest && (chanOf s c).selftestDone } :=
  chanOf_onSaf (g := fun x => { x with tp := pairOn s .estop && !x.inTest && x.selftestDone }) rfl rfl

theorem setInForce_yields (hr : runs .safety s = true) (hc : s.safety.confirm = some (id, true)) (hd : descOf s id = some d)
    (hp : pageOf s (if s.safety.copy = 1 then 7298 else 7297) = some p) :
    Yields .safetySetInForce s fun t => t.safety = { s.safety with
        inForce := p.bytes, src := 1, copy := if s.safety.copy = 1 then 2 else 1, staged := [], confirm := none
        a := t.safety.a, b := t.safety.b }
      ∧ (∀ c, chanOf t c = { chanOf s c with tp := pairOn t .estop && !(chanOf s c).inTest && (chanOf s c).selftestDone })
      ∧ Completed id d stOK [] s t ∧ SameBut [.rings, .chans, .safeSet, .safety] s t := by
  refine .framed ⟨_, setInForce_takes hr hc hp, fun hframe => ⟨?_, fun c => ?_, complete_completed hd rfl rfl, hframe⟩⟩
  · rw [complete_safety]
    rfl
  · have hon : pairOn (complete id stOK [] (tpFollows (takeSet p s))) .estop = pairOn (takeSet p s) .estop :=
      (complete_frame (l := [.rings, .chans]) (by decide) (tpFollows_frame (by decide) .refl)).pairOn_eq _
    have hsame : chanOf (takeSet p s) c = chanOf s c := chanOf_onSaf (g := fun x => x) rfl rfl
    rw [complete_chanOf, chanOf_tpFollows, hon, hsame]

end InForce

/-! ### SAFE_LOCK -/

theorem safeLock_yields {s : State} {level0 : Bool} {v : BitVec 32} (hb : barOpen s = true) :
    Yields (.safeLock level0 v) s fun t => t.safety = { s.safety with
        confirmEn := if s.safety.safeLock then s.safety.confirmEn else v.toNat.testBit 0
        safeLock := s.safety.safeLock || (level0 && v.toNat.testBit 31) }
      ∧ SameBut [.safety] s t :=
  .framed ⟨_, when_holds hb, fun hframe => ⟨rfl, hframe⟩⟩

/-- Settles O32: an image is staged or refused, read, confirmed or not, and taken into force, each by the one way its command then has. -/
theorem safetySet : Obligations.SafetySet :=
  ⟨fun _ _ _ _ => safeWrite_stages_yields, fun _ _ _ _ _ hr hl hf hd he => .of_stageError hr (safeWrite_refuses hr hl hf hd he),
    fun _ _ _ => safeRead_yields, fun _ _ _ => safeConfirm_yields, fun _ _ _ hr hc hen => .of_stageError hr (safeConfirm_disabled hr hc hen),
    fun _ _ _ _ => setInForce_yields, fun _ _ _ => safeLock_yields⟩

end Sys2Proof.Machine
end

section
/-! The fault collector: slots, the log and promotions; what an accepted event, a broken line and the end of a window do (R374 R375 R377 R379 R385
R388 R389). -/

set_option autoImplicit false
-- One declaration after the other: the text as one file holds many.
set_option Elab.async false

namespace Sys2Proof.Machine

/-! ### The slots -/

section CollectorSlots
variable {s : State} {m n p : Nat} {x : Slot}

@[simp] theorem slotOf_putSlot : slotOf (putSlot s n x) m = if m = n then x else slotOf s m := by simp [slotOf, putSlot]

/-- An entry written with what the table read there leaves whether any entry has a property that the default has not. -/
theorem Tab.any_put {α : Type} {g : α → Bool} {d v : α} (hd : g d = false) (i : Nat) :
    ∀ t : Tab α, g v = g (Tab.get d t i) → ((Tab.put t i v).any fun e => g e.2) = t.any fun e => g e.2
  | [], hv => by simpa [Tab.put, Tab.get, hd] using hv
  | (k, w) :: r, hv => by
    unfold Tab.get at hv
    unfold Tab.put
    by_cases hk : k = i
    · subst hk
      simp_all
    · rw [if_neg hk] at hv
      split
      · rw [List.any_cons, hv]
        cases hg : g (Tab.get d r i) with
        | false => rfl
        | true =>
          have hm : (i, Tab.get d r i) ∈ r := (Tab.get_mem_or_default d r i).resolve_left fun e => by simp [e, hd] at hg
          have hr : (r.any fun e => g e.2) = true := List.any_eq_true.2 ⟨_, hm, hg⟩
          simp [hr]
      · rw [if_neg (Ne.symm hk), List.any_cons, Tab.any_put hd i r hv, List.any_cons]

/-- A slot with the same unacknowledged faults does not change the class at which a fault is promoted (R377). -/
theorem effClass_putSlot (h : x.unack = (slotOf s n).unack) : effClass (putSlot s n x) p = effClass s p := by
  have hany : ((putSlot s n x).faults.slots.any fun e => e.2.unack.testBit p) = s.faults.slots.any fun e => e.2.unack.testBit p :=
    Tab.any_put (g := fun y : Slot => y.unack.testBit p) (Nat.zero_testBit p) n _ (congrArg (Nat.testBit · p) h)
  simp only [effClass, hany]

end CollectorSlots

/-! ### What recording leaves -/

/-- The collector knows the same of the armed injection and of the first broken line, and what drove goes on driving (R374 R385 R400). -/
structure Recorded (s t : State) : Prop where
  inj : t.faults.inj = s.faults.inj
  wire : t.faults.wireValid = s.faults.wireValid ∧ t.faults.wireSlot = s.faults.wireSlot
  drives : ∀ n, Drives n s → Drives n t

section Recording
variable {b s t : State} {k n w : Nat} {f : Bool}

theorem Recorded.refl : Recorded s s := ⟨rfl, ⟨rfl, rfl⟩, fun _ => id⟩

/-- What does not write the collector records nothing. -/
theorem Recorded.framed {l : List Part} (h : Recorded b s) (hk : SameBut l s t) (hf : .faults ∉ l := by decide) : Recorded b t := by
  have hp : { t.faults with slots := [] } = { s.faults with slots := [] } := hk.parts .faults hf
  obtain ⟨hi, ⟨hv, hw⟩, hd⟩ := h
  exact ⟨(congrArg Faults.inj hp).trans hi, ⟨(congrArg Faults.wireValid hp).trans hv, (congrArg Faults.wireSlot hp).trans hw⟩,
    fun n hn => (congrArg (fun f : Faults => f.drive.testBit n) hp).trans (hd n hn)⟩

theorem Recorded.raise (h : Recorded b s) : Recorded b (raise n s) := by
  refine ⟨raise_inj.trans h.inj, ?_, fun k hk => (h.drives k hk).after_raise⟩
  unfold Machine.raise
  split
  · exact h.wire
  · exact h.wire

theorem Recorded.raiseInj (h : Recorded b s) : Recorded b (raiseInj n f s) := by
  have hr : Recorded b (Machine.raise n s) := h.raise
  unfold Machine.raiseInj
  split
  · exact ⟨hr.inj, hr.wire, hr.drives⟩
  · exact hr

theorem Recorded.condOn (h : Recorded b s) : Recorded b (condOn n s) := by
  unfold Machine.condOn
  split
  · exact h
  · exact Recorded.raise ⟨h.inj, h.wire, h.drives⟩

theorem Recorded.logEntry (h : Recorded b s) : Recorded b (logEntry k w s) := by
  unfold Machine.logEntry
  extract_lets _ _ _ _ _ u
  have hu : Recorded b u := ⟨h.inj, h.wire, h.drives⟩
  split
  · exact hu.condOn
  · exact hu

theorem Recorded.faultIrq (h : Recorded b s) : Recorded b (faultIrq s) := by
  unfold Machine.faultIrq
  split
  · exact Recorded.framed (s := onFlt (fun f => { f with irqArmed := false }) s) (l := [.outputs, .link]) ⟨h.inj, h.wire, h.drives⟩
      (signal_frame (by decide) .refl)
  · exact ⟨h.inj, h.wire, h.drives⟩

end Recording

/-! ### The log -/

section CollectorLog
variable {s : State} {k n w : Nat}

/-- An entry moves the head (R389 R397). -/
theorem logEntry_head : (logEntry k w s).faults.head = (s.faults.head + 1) % 256 := by
  unfold logEntry condOn raise
  extract_lets _ _ _ _ _ u
  split
  · split
    · rfl
    · split
      · rfl
      · rfl
  · rfl

/-- An entry that overwrites none that waits for its copy drives no line (R390). -/
theorem logEntry_drive (h : s.faults.uncopied < 256) : (logEntry k w s).faults.drive = s.faults.drive := by
  unfold logEntry
  extract_lets _ _ full
  have hfull : full = false := decide_eq_false (not_le.2 h)
  rw [hfull]
  rfl

/-- At a promotion vector 32 is signalled and disarmed, or the promotion is kept as missed (R387). -/
theorem faultIrq_faults : (faultIrq s).faults = { s.faults with
    irqArmed := false, irqMissed := s.faults.irqMissed || !s.faults.irqArmed } := by
  unfold faultIrq
  split
  · next ha =>
    rw [(signal_frame (l := [.outputs, .link]) (by decide) .refl).faults_eq, onFlt_faults]
    simp [ha]
  · next ha =>
    rw [onFlt_faults]
    simp [ha]

end CollectorLog

/-! ### Promotions -/

section Promotion
variable {b s : State} {m n p : Nat} {wire inj : Bool} {c : Chan}

/-- A slot at its promotion for programmed class `p` (R377 R388 R393). -/
def promotedSlot (s : State) (p : Nat) (inj : Bool) (x : Slot) : Slot :=
  { x with
    eff := effClass s p, esc := decide (effClass s p ≠ p), inj, promotions := satAdd 65535 x.promotions 1
    unack := if effClass s p = 0 then x.unack else x.unack ||| 2 ^ effClass s p
    sec := (stampOf (outTime s)).sec % 2 ^ 22, ms := (stampOf (outTime s)).ns / 1000000 }

/-- The promotion recorded in its slot and in the log (R389). -/
def promotionLogged (n p : Nat) (wire inj : Bool) (s : State) : State :=
  let x := promotedSlot s p inj (slotOf s n)
  logEntry 0 (slotWord n x p wire) (putSlot s n x)

/-- A promotion of class 1 and above is also told to the host (R379 R387 R388). -/
def promotionTold (n p : Nat) (wire inj : Bool) (s : State) : State :=
  let x := promotedSlot s p inj (slotOf s n)
  let t := promotionLogged n p wire inj s
  if 1 ≤ effClass s p then
    faultIrq (postEvent 1 (slotWord n x p wire) (unsigned 32 t.frm.num) (at_ 16 x.promotions + x.events) t)
  else t

/-- A promotion of class 3 then darkens both outputs (R379). -/
theorem promote_eq : promote n p wire inj s
    = if 3 ≤ effClass s p then lightOff (promotionTold n p wire inj s) else promotionTold n p wire inj s := rfl

theorem promotionTold_frame : SameBut [.outputs, .link, .rings, .faults] (putSlot s n (promotedSlot s p inj (slotOf s n)))
    (promotionTold n p wire inj s) :=
  .ite (fun _ => faultIrq_frame (by decide) (postEvent_frame (by decide) (logEntry_frame (by decide) .refl)))
    fun _ => logEntry_frame (by decide) .refl

/-- The light goes off without a change of what was recorded. -/
theorem promote_frame_told : SameBut [.strip, .tiles, .chans] (promotionTold n p wire inj s) (promote n p wire inj s) := by
  rw [promote_eq]
  exact .ite (fun _ => lightOff_frame (by decide) .refl) fun _ => .refl

/-- A promotion changes its one slot. -/
theorem slotOf_promote : slotOf (promote n p wire inj s) m = if m = n then promotedSlot s p inj (slotOf s n) else slotOf s m := by
  rw [promote_frame_told.slotOf_eq, promotionTold_frame.slotOf_eq, slotOf_putSlot]

/-- Severity darkens both channels, and nothing less changes one (R379). -/
theorem chanOf_promote : chanOf (promote n p wire inj s) c = if 3 ≤ effClass s p then lowered (chanOf s c) else chanOf s c := by
  have htold : chanOf (promotionTold n p wire inj s) c = chanOf s c := promotionTold_frame.chanOf_eq c
  rw [promote_eq]
  split
  · rw [chanOf_lightOff, htold]
  · exact htold

/-- A promotion of class 1 and above posts one `FAULT` event (R388). -/
theorem promote_event (h : 1 ≤ effClass s p) : ∃ e : Event, (promote n p wire inj s).rings.events = s.rings.events ++ [e] ∧ e.typ = 1 := by
  rw [promote_frame_told.rings_eq, promotionTold, if_pos h, (faultIrq_frame (l := [.outputs, .link, .faults]) (by decide) .refl).rings_eq]
  have hlog : (promotionLogged n p wire inj s).rings = s.rings := (logEntry_frame (l := [.faults]) (by decide) .refl).rings_eq
  exact ⟨_, congrArg (fun r : Rings => r.events ++ _) hlog, rfl⟩

/-- Beside its log entry a promotion writes of the collector only vector 32's record. -/
theorem promote_faults : (promote n p wire inj s).faults = { (promotionLogged n p wire inj s).faults with
    irqArmed := (promote n p wire inj s).faults.irqArmed, irqMissed := (promote n p wire inj s).faults.irqMissed } := by
  rw [promote_frame_told.faults_eq, promotionTold]
  split
  · rw [faultIrq_faults, postEvent_faults]
  · rfl

theorem promote_head : (promote n p wire inj s).faults.head = (s.faults.head + 1) % 256 := by
  rw [promote_faults]
  exact logEntry_head

theorem promote_drive (h : s.faults.uncopied < 256) : (promote n p wire inj s).faults.drive = s.faults.drive := by
  rw [promote_faults]
  exact logEntry_drive h

theorem Recorded.promote (h : Recorded b s) : Recorded b (promote n p wire inj s) := by
  have hlog : Recorded b (promotionLogged n p wire inj s) := Recorded.logEntry (h.framed (l := [.slots]) (putSlot_frame (by decide) .refl))
  have htold : Recorded b (promotionTold n p wire inj s) := by
    unfold promotionTold
    extract_lets
    split
    · exact (hlog.framed (l := [.rings]) (postEvent_frame (by decide) .refl)).faultIrq
    · exact hlog
  exact htold.framed promote_frame_told

end Promotion

/-! ### Counting -/

section Counting
variable {b s : State} {m n : Nat} {x : Slot} {wire inj : Bool}

/-- A slot with one event more in its window; the first one opens it (R375 R382). -/
def counted (n : Nat) (x : Slot) : Slot :=
  let fixed := match slotInfo n with | some i => i.2 | none => false
  let x := { x with events := satAdd 65535 x.events 1 }
  if x.wcount = 0 then { x with winCls := x.cls, winN := if fixed then 1 else x.n, wcount := 1 } else { x with wcount := x.wcount + 1 }

/-- A slot whose window an event has filled: the window is closed again (R375). -/
def filled (n : Nat) (x : Slot) : Slot := { counted n x with wcount := 0 }

/-- A window that is full closes with a promotion (R375). -/
theorem countEvent_eq : countEvent n wire inj s = if (counted n (slotOf s n)).winN ≤ (counted n (slotOf s n)).wcount then
      promote n (counted n (slotOf s n)).winCls wire inj (putSlot s n (filled n (slotOf s n)))
    else putSlot s n (counted n (slotOf s n)) := rfl

/-- Counting writes the count and the window alone. -/
theorem counted_eq : counted n x = { x with
    events := satAdd 65535 x.events 1, winCls := (counted n x).winCls, winN := (counted n x).winN, wcount := (counted n x).wcount } := by
  unfold counted
  extract_lets
  split
  · rfl
  · rfl

theorem filled_eq : filled n x
    = { x with events := satAdd 65535 x.events 1, winCls := (filled n x).winCls, winN := (filled n x).winN, wcount := 0 } := by
  unfold filled
  rw [counted_eq]

/-- The event that opens a window of a fixed class or of one event fills it (R375). -/
theorem countEvent_fills (hw : (slotOf s n).wcount = 0) (hn : (slotInfo n).map Prod.snd = some true ∨ (slotOf s n).n ≤ 1) :
    countEvent n wire inj s = promote n (slotOf s n).cls wire inj (putSlot s n (filled n (slotOf s n))) := by
  have hcls : (counted n (slotOf s n)).winCls = (slotOf s n).cls := by simp [counted, hw]
  have hfull : (counted n (slotOf s n)).winN ≤ (counted n (slotOf s n)).wcount := by
    simp only [counted, hw, if_true]
    rcases hn with hf | hn
    · obtain ⟨i, hi, hfix⟩ := Option.map_eq_some_iff.1 hf
      simp [hi, hfix]
    · split_ifs
      · exact le_rfl
      · exact hn
  rw [countEvent_eq, if_pos hfull, hcls]

/-- The event that opens a larger window is only counted (R375). -/
theorem countEvent_opens {c : Nat} (hi : slotInfo n = some (c, false)) (hw : (slotOf s n).wcount = 0) (hn : 1 < (slotOf s n).n) :
    countEvent n wire inj s = putSlot s n { slotOf s n with
      events := satAdd 65535 (slotOf s n).events 1, winCls := (slotOf s n).cls, winN := (slotOf s n).n, wcount := 1 } := by
  have hc : counted n (slotOf s n) = { slotOf s n with
      events := satAdd 65535 (slotOf s n).events 1, winCls := (slotOf s n).cls, winN := (slotOf s n).n, wcount := 1 } := by
    simp [counted, hi, hw]
  rw [countEvent_eq, hc]
  exact if_neg (not_le.2 hn)

/-- An event is counted once in its slot, whose line and broken code stay, and in no other slot. -/
theorem slotOf_countEvent : (slotOf (countEvent n wire inj s) n).events = satAdd 65535 (slotOf s n).events 1
    ∧ (slotOf (countEvent n wire inj s) n).wire = (slotOf s n).wire ∧ (slotOf (countEvent n wire inj s) n).code = (slotOf s n).code
    ∧ ∀ m, m ≠ n → slotOf (countEvent n wire inj s) m = slotOf s m := by
  rw [countEvent_eq]
  split
  · refine ⟨?_, ?_, ?_, fun m hm => by rw [slotOf_promote, if_neg hm, slotOf_putSlot, if_neg hm]⟩
    all_goals
      rw [slotOf_promote, if_pos rfl, slotOf_putSlot, if_pos rfl, filled_eq]
      rfl
  · refine ⟨?_, ?_, ?_, fun m hm => by rw [slotOf_putSlot, if_neg hm]⟩
    all_goals rw [slotOf_putSlot, if_pos rfl, counted_eq]

theorem Recorded.countEvent (h : Recorded b s) : Recorded b (countEvent n wire inj s) := by
  have hput : ∀ {x : Slot}, Recorded b (putSlot s n x) := h.framed (l := [.slots]) (putSlot_frame (by decide) .refl)
  rw [countEvent_eq]
  split
  · exact hput.promote
  · exact hput

end Counting

/-! ### FAULT_SOURCE_EVENT -/

section Accept
variable {s : State} {k : Fin 512} {n : Nat}

/-- The line of a slot after its change to fault has been accepted (R374). -/
def lineTaken (n : Nat) (s : State) : State := onFlt (fun f =>
  let f := { f with injected := putBit f.injected n false }
  if f.cond.testBit n then { f with accepted := putBit f.accepted n true }
  else { f with drive := putBit f.drive n (f.pend.testBit n), pend := putBit f.pend n false }) s

/-- A line that shows fault for the first time counts one event (R374). -/
theorem acceptLine_counts (hi : (slotInfo n).isSome = true) (hd : s.faults.drive.testBit n = true) (ha : s.faults.accepted.testBit n = false)
    (hw : (slotOf s n).wire = false) : acceptLine n s = countEvent n false (s.faults.injected.testBit n) (lineTaken n s) :=
  (if_neg (by simp [hw])).trans (if_neg (by simp [Option.isSome_iff_ne_none.1 hi, hd, ha]))

theorem lineTaken_frame : SameBut [.faults] s (lineTaken n s) := onFlt_frame (fun _ => by dsimp only; split <;> rfl) (by decide) .refl

theorem slotOf_lineTaken {m : Nat} : slotOf (lineTaken n s) m = slotOf s m := lineTaken_frame.slotOf_eq m

theorem effClass_lineTaken {p : Nat} : effClass (lineTaken n s) p = effClass s p := by
  have hslots : (lineTaken n s).faults.slots = s.faults.slots := lineTaken_frame.slots_eq
  simp only [effClass, hslots]

/-- A source without a lasting condition goes good, with its pending event behind it (R374). -/
theorem lineTaken_event (hc : s.faults.cond.testBit n = false) : (lineTaken n s).faults = { s.faults with
    injected := putBit s.faults.injected n false
    drive := putBit s.faults.drive n (s.faults.pend.testBit n), pend := putBit s.faults.pend n false } := if_neg (by simp [hc])

theorem lineTaken_log : (lineTaken n s).faults.head = s.faults.head ∧ (lineTaken n s).faults.uncopied = s.faults.uncopied := by
  unfold lineTaken
  rw [onFlt_faults]
  dsimp only
  split
  · exact ⟨rfl, rfl⟩
  · exact ⟨rfl, rfl⟩

/-- One line accepted in a clock is that slot's alone (R378). -/
theorem faultSourceEvent_one (hr : runs .safety s = true) (hs : s.faults.started = true) :
    exec (.faultSourceEvent [k]) s = .next (acceptLine k.val s) := by
  have hone : ((List.range 512).filter fun n => [k].any fun j => j.val == n) = [k.val] := by
    have hcount : (List.range 512).count k.val = 1 := List.count_eq_one_of_mem List.nodup_range (List.mem_range.2 k.isLt)
    simp only [List.any_cons, List.any_nil, Bool.or_false, Bool.beq_comm (a := k.val)]
    rw [List.filter_beq, hcount]
    rfl
  refine (ifRuns_runs hr).trans ((when_holds hs).trans ?_)
  rw [hone]
  rfl

end Accept

section Promotes
variable {s : State} {k : Fin 512}

/-- A line taken whose event has filled its slot's window (R374 R375). -/
def lineFilled (n : Nat) (s : State) : State := putSlot (lineTaken n s) n (filled n (slotOf s n))

theorem acceptLine_fills {n : Nat} (hi : (slotInfo n).isSome = true) (hd : s.faults.drive.testBit n = true)
    (ha : s.faults.accepted.testBit n = false) (hw : (slotOf s n).wire = false) (h0 : (slotOf s n).wcount = 0)
    (hn : (slotInfo n).map Prod.snd = some true ∨ (slotOf s n).n ≤ 1) :
    acceptLine n s = promote n (slotOf s n).cls false (s.faults.injected.testBit n) (lineFilled n s) := by
  have hslot : slotOf (lineTaken n s) n = slotOf s n := slotOf_lineTaken
  rw [acceptLine_counts hi hd ha hw, countEvent_fills (by rwa [hslot]) (by rwa [hslot]), hslot, lineFilled]

theorem lineFilled_frame {n : Nat} : SameBut [.slots, .faults] s (lineFilled n s) :=
  putSlot_frame (by decide) (lineTaken_frame.mono (by decide))

theorem slotOf_lineFilled {m n : Nat} : slotOf (lineFilled n s) m = if m = n then filled n (slotOf s n) else slotOf s m := by
  rw [lineFilled, slotOf_putSlot, slotOf_lineTaken]

/-- Counting an event does not change the class at which it is promoted. -/
theorem effClass_lineFilled {n p : Nat} : effClass (lineFilled n s) p = effClass s p := by
  have hunack : (filled n (slotOf s n)).unack = (slotOf (lineTaken n s) n).unack := by rw [filled_eq, slotOf_lineTaken]
  rw [lineFilled, effClass_putSlot hunack, effClass_lineTaken]

theorem lineFilled_log {n : Nat} : (lineFilled n s).faults.head = s.faults.head ∧ (lineFilled n s).faults.uncopied = s.faults.uncopied :=
  lineTaken_log (n := n)

theorem lineFilled_drive {n : Nat} (hc : s.faults.cond.testBit n = false) :
    (lineFilled n s).faults.drive = putBit s.faults.drive n (s.faults.pend.testBit n) := congrArg Faults.drive (lineTaken_event hc)

/-- An accepted event that fills its window promotes its slot (R374 R375 R377 R379 R388 R389). -/
theorem faultSourceEvent_promotes (hr : runs .safety s = true) (hs : s.faults.started = true) (hi : (slotInfo k.val).isSome = true)
    (hd : s.faults.drive.testBit k.val = true) (ha : s.faults.accepted.testBit k.val = false) (hc : s.faults.cond.testBit k.val = false)
    (hw : (slotOf s k.val).wire = false) (h0 : (slotOf s k.val).wcount = 0)
    (hn : (slotInfo k.val).map Prod.snd = some true ∨ (slotOf s k.val).n ≤ 1) :
    Yields (.faultSourceEvent [k]) s fun t => (slotOf t k.val).eff = effClass s (slotOf s k.val).cls
      ∧ (slotOf t k.val).esc = decide (effClass s (slotOf s k.val).cls ≠ (slotOf s k.val).cls) ∧ (slotOf t k.val).wcount = 0
      ∧ (slotOf t k.val).promotions = satAdd 65535 (slotOf s k.val).promotions 1
      ∧ (slotOf t k.val).events = satAdd 65535 (slotOf s k.val).events 1
      ∧ (1 ≤ effClass s (slotOf s k.val).cls → (slotOf t k.val).unack.testBit (effClass s (slotOf s k.val).cls) = true
          ∧ ∃ e : Event, t.rings.events = s.rings.events ++ [e] ∧ e.typ = 1)
      ∧ (3 ≤ effClass s (slotOf s k.val).cls → ∀ c, (chanOf t c).slo = false)
      ∧ (effClass s (slotOf s k.val).cls < 3 → ∀ c, chanOf t c = chanOf s c)
      ∧ t.faults.head = (s.faults.head + 1) % 256 ∧ (s.faults.uncopied < 256 → (Drives k.val t ↔ s.faults.pend.testBit k.val = true))
      ∧ (∀ m, m ≠ k.val → slotOf t m = slotOf s m) ∧ SameBut [.outputs, .link, .rings, .strip, .tiles, .chans, .slots, .faults] s t := by
  have hfills := acceptLine_fills hi hd ha hw h0 hn
  refine .framed ⟨_, (faultSourceEvent_one hr hs).trans (congrArg _ hfills), fun hframe => ?_⟩
  have hk : slotOf (promote k.val (slotOf s k.val).cls false (s.faults.injected.testBit k.val) (lineFilled k.val s)) k.val
      = promotedSlot (lineFilled k.val s) (slotOf s k.val).cls (s.faults.injected.testBit k.val) (filled k.val (slotOf s k.val)) := by
    rw [slotOf_promote, if_pos rfl, slotOf_lineFilled, if_pos rfl]
  rw [filled_eq] at hk
  rw [hk, promote_head, lineFilled_log.1]
  refine ⟨effClass_lineFilled, by simp only [promotedSlot, effClass_lineFilled], rfl, rfl, rfl, fun h1 => ⟨?_, ?_⟩, fun h3 c => ?_,
    fun h3 c => ?_, rfl, fun hlog => ?_, fun m hm => ?_, hframe⟩
  · have hne : ¬effClass s (slotOf s k.val).cls = 0 := by omega
    simp only [promotedSlot, effClass_lineFilled, if_neg hne, Nat.testBit_or, Nat.testBit_two_pow_self, Bool.or_true]
  · have he := promote_event (n := k.val) (wire := false) (inj := s.faults.injected.testBit k.val)
      (by rwa [← effClass_lineFilled (n := k.val)] at h1)
    rwa [lineFilled_frame.rings_eq] at he
  · rw [chanOf_promote, if_pos (by rwa [effClass_lineFilled])]
    rfl
  · rw [chanOf_promote, if_neg (by rw [effClass_lineFilled]; omega), lineFilled_frame.chanOf_eq]
  · rw [Drives, promote_drive (by rwa [lineFilled_log.2]), lineFilled_drive hc, putBit_testBit, if_pos rfl]
  · rw [slotOf_promote, if_neg hm, slotOf_lineFilled, if_neg hm]

/-- An event that opens a window of several is counted there (R375 R382). -/
theorem faultSourceEvent_counts {c : Nat} (hr : runs .safety s = true) (hs : s.faults.started = true) (hi : slotInfo k.val = some (c, false))
    (hd : s.faults.drive.testBit k.val = true) (ha : s.faults.accepted.testBit k.val = false) (hw : (slotOf s k.val).wire = false)
    (h0 : (slotOf s k.val).wcount = 0) (hn : 1 < (slotOf s k.val).n) :
    Yields (.faultSourceEvent [k]) s fun t => slotOf t k.val = { slotOf s k.val with
        events := satAdd 65535 (slotOf s k.val).events 1, winCls := (slotOf s k.val).cls, winN := (slotOf s k.val).n, wcount := 1 }
      ∧ t.faults.head = s.faults.head ∧ (∀ m, m ≠ k.val → slotOf t m = slotOf s m) ∧ SameBut [.slots, .faults] s t := by
  have hslot : slotOf (lineTaken k.val s) k.val = slotOf s k.val := slotOf_lineTaken
  refine ⟨_, faultSourceEvent_one hr hs, ?_⟩
  rw [acceptLine_counts (by rw [hi]; rfl) hd ha hw, countEvent_opens hi (by rw [hslot]; exact h0) (by rw [hslot]; exact hn), hslot]
  exact ⟨by rw [slotOf_putSlot, if_pos rfl], lineTaken_log.1, fun m hm => by rw [slotOf_putSlot, if_neg hm, slotOf_lineTaken],
    putSlot_frame (by decide) (lineTaken_frame.mono (by decide))⟩

end Promotes

/-! ### FLT_WIRE and WINDOW_EXPIRY -/

section Wire
variable {s : State} {k : Fin 512} {n : Nat} {code inj : Bool}

/-- A slot whose line shows a broken code (R374). -/
def broken (code : Bool) (x : Slot) : Slot := { x with wire := true, code }

/-- A line is seen broken, and the first slot of which one is broken is kept (R374 R400). -/
def wireSeen (n : Nat) (code : Bool) (s : State) : State :=
  if s.faults.wireValid then putSlot s n (broken code (slotOf s n))
  else onFlt (fun f => { f with wireValid := true, wireSlot := n }) (putSlot s n (broken code (slotOf s n)))

/-- A broken line is raised, logged and counted as an event of its slot (R374 R389). -/
def wireCounted (n : Nat) (code inj : Bool) (s : State) : State :=
  let u := wireSeen n code s
  countEvent n true inj (logEntry 2 (slotWord n { slotOf u n with inj } (slotOf u n).cls true) (raiseInj 498 inj u))

/-- The break of an injection ends (R385). -/
def wireMended (n : Nat) (s : State) : State := putSlot s n { slotOf s n with wire := false }

theorem slotOf_wireMended {m : Nat} :
    slotOf (wireMended n s) m = if m = n then { slotOf s n with wire := false } else slotOf s m := slotOf_putSlot

theorem wireMended_recorded : Recorded s (wireMended n s) := Recorded.refl.framed (l := [.slots]) (putSlot_frame (by decide) .refl)

theorem fltWire_exec (hr : runs .safety s = true) (hs : s.faults.started = true) (hi : (slotInfo k.val).isSome = true)
    (hw : (slotOf s k.val).wire = false) : exec (.fltWire k code) s = .next
      (if (takeInj k.val 3 s).1 then wireMended k.val (wireCounted k.val code (takeInj k.val 3 s).1 (takeInj k.val 3 s).2)
        else wireCounted k.val code (takeInj k.val 3 s).1 (takeInj k.val 3 s).2) :=
  (ifRuns_runs hr).trans (when_holds (by simp [hs, hi, hw]))

theorem slotOf_wireSeen {m : Nat} : slotOf (wireSeen n code s) m = if m = n then broken code (slotOf s n) else slotOf s m := by
  have hput := slotOf_putSlot (s := s) (m := m) (n := n) (x := broken code (slotOf s n))
  unfold wireSeen
  split
  · exact hput
  · exact hput

/-- The first broken line stays on record (R400). -/
theorem wireSeen_faults : (wireSeen n code s).faults.inj = s.faults.inj ∧ (wireSeen n code s).faults.wireValid = true
    ∧ (wireSeen n code s).faults.wireSlot = if s.faults.wireValid then s.faults.wireSlot else n := by
  unfold wireSeen
  split
  · next h => exact ⟨rfl, h, rfl⟩
  · exact ⟨rfl, rfl, rfl⟩

/-- What a broken line leaves in the collector (R374 R389 R400). -/
theorem wireCounted_faults : Drives 498 (wireCounted n code inj s) ∧ (wireCounted n code inj s).faults.inj = s.faults.inj
    ∧ (wireCounted n code inj s).faults.wireValid = true
    ∧ (wireCounted n code inj s).faults.wireSlot = if s.faults.wireValid then s.faults.wireSlot else n := by
  obtain ⟨hinj, hvalid, hslot⟩ := wireSeen_faults (s := s) (n := n) (code := code)
  have hraised : Recorded (raiseInj 498 inj (wireSeen n code s)) (wireCounted n code inj s) := Recorded.refl.logEntry.countEvent
  have hseen : Recorded (wireSeen n code s) (wireCounted n code inj s) := Recorded.refl.raiseInj.logEntry.countEvent
  exact ⟨hraised.drives 498 raiseInj_drives, hseen.inj.trans hinj, hseen.wire.1.trans hvalid, hseen.wire.2.trans hslot⟩

/-- What a broken line leaves in the slots: one event more in its own. -/
theorem slotOf_wireCounted : (slotOf (wireCounted n code inj s) n).wire = true ∧ (slotOf (wireCounted n code inj s) n).code = code
    ∧ (slotOf (wireCounted n code inj s) n).events = satAdd 65535 (slotOf s n).events 1
    ∧ ∀ m, m ≠ n → slotOf (wireCounted n code inj s) m = slotOf s m := by
  have hlog : ∀ {w m : Nat}, slotOf (logEntry 2 w (raiseInj 498 inj (wireSeen n code s))) m
      = if m = n then broken code (slotOf s n) else slotOf s m := fun {_ m} =>
    ((logEntry_frame (l := [.faults]) (by decide) (raiseInj_frame (by decide) .refl)).slotOf_eq m).trans slotOf_wireSeen
  obtain ⟨hevents, hwire, hcode, hother⟩ := slotOf_countEvent (n := n) (wire := true) (inj := inj)
    (s := logEntry 2 (slotWord n { slotOf (wireSeen n code s) n with inj } (slotOf (wireSeen n code s) n).cls true)
      (raiseInj 498 inj (wireSeen n code s)))
  rw [hlog, if_pos rfl] at hevents hwire hcode
  exact ⟨hwire, hcode, hevents, fun m hm => (hother m hm).trans (hlog.trans (if_neg hm))⟩

/-- A check of another slot or checker than the armed one is not injected (R386). -/
theorem takeInj_other {slot checker : Nat} (h : ∀ j, s.faults.inj = some j → j.slot ≠ slot ∨ j.checker ≠ checker) :
    takeInj slot checker s = (false, s) := by
  unfold takeInj
  split
  · next j hj => exact if_neg fun hm => (h j hj).elim (· hm.1) (· hm.2)
  · rfl

/-- A check of the armed slot and checker is injected, and the last one ends the injection (R386). -/
theorem takeInj_armed {slot checker : Nat} {j : Inject} (h : s.faults.inj = some j) (hs : j.slot = slot) (hc : j.checker = checker) :
    (takeInj slot checker s).1 = true ∧ (j.left ≤ 1 → (takeInj slot checker s).2.faults.inj = none) := by
  unfold takeInj
  rw [h]
  dsimp only
  rw [if_pos ⟨hs, hc⟩]
  split
  · exact ⟨rfl, fun _ => by rw [complete_faults]⟩
  · next hl => exact ⟨rfl, fun h1 => absurd h1 hl⟩

theorem slotOf_takeInj {slot checker m : Nat} : slotOf (takeInj slot checker s).2 m = slotOf s m :=
  (takeInj_frame (l := [.rings, .faults]) (by decide) .refl).slotOf_eq m

/-- A line that breaks is raised and counts as an event (R374 R389 R400). -/
theorem fltWire_yields (hr : runs .safety s = true) (hs : s.faults.started = true) (hi : (slotInfo k.val).isSome = true)
    (hw : (slotOf s k.val).wire = false) (hj : ∀ j, s.faults.inj = some j → j.slot ≠ k.val ∨ j.checker ≠ 3) :
    Yields (.fltWire k code) s fun t => (slotOf t k.val).wire = true ∧ (slotOf t k.val).code = code ∧ Drives 498 t
      ∧ (slotOf t k.val).events = satAdd 65535 (slotOf s k.val).events 1
      ∧ t.faults.wireValid = true ∧ t.faults.wireSlot = (if s.faults.wireValid then s.faults.wireSlot else k.val)
      ∧ (∀ m, m ≠ k.val → slotOf t m = slotOf s m) ∧ SameBut [.outputs, .link, .rings, .strip, .tiles, .chans, .slots, .faults] s t := by
  have hexec := fltWire_exec (code := code) hr hs hi hw
  rw [takeInj_other hj, if_neg Bool.false_ne_true] at hexec
  refine .framed ⟨_, hexec, fun hframe => ?_⟩
  obtain ⟨hdrives, -, hvalid, hfirst⟩ := wireCounted_faults (s := s) (n := k.val) (code := code) (inj := false)
  obtain ⟨hwire, hcode, hevents, hother⟩ := slotOf_wireCounted (s := s) (n := k.val) (code := code) (inj := false)
  exact ⟨hwire, hcode, hdrives, hevents, hvalid, hfirst, hother, hframe⟩

/-- The break of an armed injection is over with its event (R385 R386). -/
theorem fltWire_injected_yields {j : Inject} (hr : runs .safety s = true) (hs : s.faults.started = true)
    (hi : (slotInfo k.val).isSome = true) (hw : (slotOf s k.val).wire = false) (hj : s.faults.inj = some j) (hk : j.slot = k.val)
    (hc : j.checker = 3) :
    Yields (.fltWire k code) s fun t => (slotOf t k.val).wire = false ∧ Drives 498 t
      ∧ (slotOf t k.val).events = satAdd 65535 (slotOf s k.val).events 1 ∧ (j.left ≤ 1 → t.faults.inj = none)
      ∧ (∀ m, m ≠ k.val → slotOf t m = slotOf s m) ∧ SameBut [.outputs, .link, .rings, .strip, .tiles, .chans, .slots, .faults] s t := by
  obtain ⟨htaken, hend⟩ := takeInj_armed hj hk hc
  have hexec := fltWire_exec (code := code) hr hs hi hw
  rw [htaken, if_pos rfl] at hexec
  refine .framed ⟨_, hexec, fun hframe => ?_⟩
  obtain ⟨hdrives, hinj, -, -⟩ := wireCounted_faults (s := (takeInj k.val 3 s).2) (n := k.val) (code := code) (inj := true)
  obtain ⟨-, -, hevents, hother⟩ := slotOf_wireCounted (s := (takeInj k.val 3 s).2) (n := k.val) (code := code) (inj := true)
  rw [slotOf_takeInj] at hevents
  have hmended : Recorded (wireCounted k.val code true (takeInj k.val 3 s).2) _ := wireMended_recorded (n := k.val)
  refine ⟨?_, hmended.drives 498 hdrives, ?_, fun h1 => hmended.inj.trans (hinj.trans (hend h1)), fun m hm => ?_, hframe⟩
  · rw [slotOf_wireMended, if_pos rfl]
  · rw [slotOf_wireMended, if_pos rfl, hevents]
  · rw [slotOf_wireMended, if_neg hm, hother m hm, slotOf_takeInj]

/-- A window that ends is empty (R375). -/
theorem windowExpiry_yields (hr : runs .safety s = true) (hc : 0 < (slotOf s k.val).wcount) :
    Yields (.windowExpiry k) s fun t => slotOf t k.val = { slotOf s k.val with wcount := 0 }
      ∧ (∀ m, m ≠ k.val → slotOf t m = slotOf s m) ∧ SameBut [.slots] s t :=
  .framed ⟨_, (ifRuns_runs hr).trans (when_holds (decide_eq_true hc)), fun hframe =>
    ⟨by rw [slotOf_putSlot, if_pos rfl], fun m hm => by rw [slotOf_putSlot, if_neg hm], hframe⟩⟩

end Wire

/-- Settles O33: an accepted event is a promotion or one more in its window, a broken line is seen, raised and counted, and a window that
ends is empty. -/
theorem faultPromotion : Obligations.FaultPromotion :=
  ⟨fun _ _ => faultSourceEvent_promotes, fun _ _ _ => faultSourceEvent_counts, fun _ _ _ => fltWire_yields,
    fun _ _ _ _ => fltWire_injected_yields, fun _ _ => windowExpiry_yields⟩

end Sys2Proof.Machine
end

section
/-! The fault collector's commands: acknowledgement, injection, vector 32, the log's copy, the current reference and the collector's start (R380
R381 R385 R386 R387 R390 R394 R409 R568). -/

set_option autoImplicit false
-- One declaration after the other: the text as one file holds many.
set_option Elab.async false

namespace Sys2Proof.Machine

/-! ### FAULT_ACK -/

section Acknowledge
variable {s : State} {id n : Nat} {d : Desc} {c : Chan}

/-- A condition that ends leaves the head of the log. -/
theorem condOff_head {k : Nat} : (condOff k s).faults.head = s.faults.head := by
  unfold condOff
  split
  · rfl
  · rfl

/-- The slot of a fault that is acknowledged (R380). -/
def slotAcked (n : Nat) (s : State) : State :=
  let x := slotOf s n
  logEntry 1 (slotWord n x x.cls x.wire) (putSlot s n { x with unack := 0 })

theorem ackSlots_good (hu : (slotOf s n).unack ≠ 0) (hg : lineGood s n = true) : ackSlots [n] s = (false, slotAcked n s) :=
  (if_neg hu).trans (if_pos hg)

/-- A fault whose line still shows fault is not acknowledged (R380). -/
theorem ackSlots_bad (hu : (slotOf s n).unack ≠ 0) (hg : lineGood s n = false) : ackSlots [n] s = (true, s) :=
  (if_neg hu).trans (if_neg (by simp [hg]))

theorem slotOf_slotAcked {m : Nat} : slotOf (slotAcked n s) m = if m = n then { slotOf s n with unack := 0 } else slotOf s m :=
  ((logEntry_frame (l := [.faults]) (by decide) .refl).slotOf_eq m).trans slotOf_putSlot

theorem slotAcked_frame : SameBut [.slots, .faults] s (slotAcked n s) := logEntry_frame (by decide) (putSlot_frame (by decide) .refl)

/-- An acknowledgement that names slot 489 or all slots serves the restart condition of code 2 (R337). -/
def ackRestart (n : Nat) (s : State) : State :=
  if (n = 0xFFFF ∨ n = 489) ∧ restartCode s = 2 ∧ restartWait s then endEstop s else s

theorem ackRestart_frame : SameBut [.chans, .safety, .faults] s (ackRestart n s) :=
  .ite (fun _ => endEstop_frame (by decide) .refl) fun _ => .refl

/-- The end of the emergency stop leaves the outputs, which rise at an exchange only (R333). -/
theorem ackRestart_slo : (chanOf (ackRestart n s) c).slo = (chanOf s c).slo := by
  unfold ackRestart
  split
  · rw [chanOf_endEstop]
  · rfl

theorem ackRestart_head : (ackRestart n s).faults.head = s.faults.head := by
  unfold ackRestart
  split
  · exact condOff_head
  · rfl

theorem faultAck_exec (hr : Runs s id 0x38 d) (hn : le d.bytes 16 2 ≠ 0xFFFF) {left : Bool} {t : State}
    (ht : ackSlots [le d.bytes 16 2] s = (left, t)) :
    exec (.faultAck id) s = .next (ackRestart (le d.bytes 16 2) (complete id (if left then stBUSY else stOK) [] t)) := by
  refine exec_of_runOp hr rfl ?_
  dsimp only
  rw [if_neg hn, ht]
  rfl

/-- The completion of an acknowledgement stands behind what was to be posted before. -/
theorem ackRestart_completed {t : State} {st : Nat} (hr : Runs s id 0x38 d) (ht : t.rings = s.rings) :
    Completed id d st [] s (ackRestart n (complete id st [] t)) := by
  have hd : descOf t id = some d := by unfold descOf; rw [ht]; exact hr.desc
  have hrings : (ackRestart n (complete id st [] t)).rings = (complete id st [] t).rings := ackRestart_frame.rings_eq
  unfold Completed
  rw [hrings]
  exact complete_completed hd (by rw [ht]) (by rw [ht])

/-- A fault whose line shows good is acknowledged and its acknowledgement logged (R380 R389). -/
theorem faultAck_good_yields (hr : Runs s id 0x38 d) (hn : le d.bytes 16 2 ≠ 0xFFFF) (hu : (slotOf s (le d.bytes 16 2)).unack ≠ 0)
    (hg : lineGood s (le d.bytes 16 2) = true) :
    Yields (.faultAck id) s fun t => slotOf t (le d.bytes 16 2) = { slotOf s (le d.bytes 16 2) with unack := 0 }
      ∧ t.faults.head = (s.faults.head + 1) % 256 ∧ Completed id d stOK [] s t
      ∧ (∀ m, m ≠ le d.bytes 16 2 → slotOf t m = slotOf s m) ∧ (∀ c, (chanOf t c).slo = (chanOf s c).slo)
      ∧ SameBut [.rings, .chans, .safety, .slots, .faults] s t := by
  refine .framed ⟨_, faultAck_exec hr hn (ackSlots_good hu hg), fun hframe => ?_⟩
  generalize le d.bytes 16 2 = n at hframe ⊢
  have hslots : ∀ m, slotOf (ackRestart n (complete id stOK [] (slotAcked n s))) m
      = if m = n then { slotOf s n with unack := 0 } else slotOf s m := fun m => by
    rw [ackRestart_frame.slotOf_eq, complete_slotOf, slotOf_slotAcked]
  refine ⟨(hslots n).trans (if_pos rfl), ?_, ackRestart_completed hr slotAcked_frame.rings_eq, fun m hm => (hslots m).trans (if_neg hm),
    fun c => ?_, hframe⟩
  · rw [ackRestart_head, complete_faults]
    exact logEntry_head
  · rw [ackRestart_slo, complete_chanOf, slotAcked_frame.chanOf_eq]

/-- A fault whose line still shows fault stays, and the descriptor completes `BUSY` (R380 R381). -/
theorem faultAck_bad_yields (hr : Runs s id 0x38 d) (hn : le d.bytes 16 2 ≠ 0xFFFF) (hu : (slotOf s (le d.bytes 16 2)).unack ≠ 0)
    (hg : lineGood s (le d.bytes 16 2) = false) :
    Yields (.faultAck id) s fun t => Completed id d stBUSY [] s t ∧ (∀ m, slotOf t m = slotOf s m)
      ∧ SameBut [.rings, .chans, .safety, .faults] s t := by
  have hframe : SameBut [.rings, .chans, .safety, .faults] s (ackRestart (le d.bytes 16 2) (complete id stBUSY [] s)) :=
    ackRestart_frame.step (by decide) (complete_frame (by decide) .refl)
  exact ⟨_, faultAck_exec hr hn (ackSlots_bad hu hg), ackRestart_completed hr rfl, fun m => hframe.slotOf_eq m, hframe⟩

end Acknowledge

/-! ### FAULT_INJECT and INJECTION_TIMEOUT -/

section Injection
variable {s : State} {id : Nat} {d : Desc} {j : Inject}

/-- With none armed an injection is armed, and its descriptor waits for the injected verdicts (R385). -/
theorem faultInject_arms (hr : Runs s id 0x39 d) (hj : s.faults.inj = none) :
    Yields (.faultInject id) s fun t => t.faults = { s.faults with
        inj := some { id, slot := le d.bytes 16 2, checker := le d.bytes 18 1, left := le d.bytes 19 1 } }
      ∧ descOf t id = some { d with taken := true } ∧ t.rings.done = s.rings.done ∧ SameBut [.rings, .faults] s t :=
  .framed ⟨_, exec_of_runOp hr rfl (if_neg (by simp [hj])), fun hframe => ⟨rfl, descOf_taken hr.desc, rfl, hframe⟩⟩

/-- One injection in the chip at a time (R385). -/
theorem faultInject_busy (hr : Runs s id 0x39 d) (hj : s.faults.inj.isSome = true) :
    Yields (.faultInject id) s fun t => Completed id d stBUSY [] s t ∧ SameBut [.rings] s t :=
  .of_complete hr (exec_of_runOp hr rfl (if_pos hj))

/-- An injection that is not used up in time ends `UNTESTED` (R386). -/
theorem injectionTimeout_yields (hr : runs .ring s = true) (hj : s.faults.inj = some j) (hd : descOf s j.id = some d) :
    Yields .injectionTimeout s fun t => t.faults = { s.faults with inj := none } ∧ Completed j.id d stUNTESTED [] s t
      ∧ SameBut [.rings, .faults] s t := by
  have hexec : exec .injectionTimeout s = .next (complete j.id stUNTESTED [] (onFlt (fun f => { f with inj := none }) s)) := by
    refine (ifRuns_runs hr).trans ?_
    rw [hj]
  exact .framed ⟨_, hexec, fun hframe => ⟨complete_faults .., complete_completed hd rfl rfl, hframe⟩⟩

end Injection

/-! ### REARM -/

section Rearm
variable {s : State} {v : Nat} {w : BitVec 32}

theorem signal_sends (h : canSignal s v = true) : signal v s = emit (.msix v (Tab.get {} s.link.msix v).addr (Tab.get {} s.link.msix v).data) s :=
  if_pos h

/-- A vector that cannot be sent stays pending (R71 R127). -/
theorem signal_pends (h : canSignal s v = false) : signal v s = { s with link := { s.link with pba := s.link.pba ||| 2 ^ v } } :=
  if_neg (by simp [h])

/-- A missed promotion is about to be signalled, which disarms the vector (R387). -/
def signalTaken (s : State) : State := onFlt (fun f => { f with irqMissed := false, irqArmed := false }) s

/-- What arming vector 32 again does (R387 R394). -/
def rearmed (s : State) : State :=
  if s.faults.irqMissed then signal 32 (signalTaken s) else onFlt (fun f => { f with irqArmed := true }) s

/-- Vector 32 is armed again, or signalled at once for the promotion that was missed (R387 R394). -/
theorem rearm_yields (hb : barOpen s = true) (hw : w.toNat.testBit 0 = true) :
    Yields (.rearm w) s fun t => t.faults = { s.faults with irqMissed := false, irqArmed := !s.faults.irqMissed }
      ∧ (s.faults.irqMissed = true → canSignal s 32 = true →
          t.outputs = .msix 32 (Tab.get {} s.link.msix 32).addr (Tab.get {} s.link.msix 32).data :: s.outputs ∧ t.link = s.link)
      ∧ (s.faults.irqMissed = true → canSignal s 32 = false →
          t.link = { s.link with pba := s.link.pba ||| 2 ^ 32 } ∧ t.outputs = s.outputs)
      ∧ SameBut [.outputs, .link, .faults] s t := by
  refine .framed ⟨rearmed s, when_holds (b := barOpen s && w.toNat.testBit 0) (f := rearmed) (by rw [hb, hw]; rfl), fun hframe => ?_⟩
  cases hm : s.faults.irqMissed with
  | false =>
    have ht : rearmed s = onFlt (fun f => { f with irqArmed := true }) s := if_neg (by simp [hm])
    rw [ht] at hframe ⊢
    exact ⟨by simp [onFlt, hm], fun h => absurd h Bool.false_ne_true, fun h => absurd h Bool.false_ne_true, hframe⟩
  | true =>
    have ht : rearmed s = signal 32 (signalTaken s) := if_pos hm
    rw [ht] at hframe ⊢
    have hcan : canSignal (signalTaken s) 32 = canSignal s 32 := rfl
    refine ⟨(signal_frame (l := [.outputs, .link]) (by decide) .refl).faults_eq, fun _ hc => ?_, fun _ hc => ?_, hframe⟩
    · rw [signal_sends (hcan.trans hc)]
      exact ⟨rfl, rfl⟩
    · rw [signal_pends (hcan.trans hc)]
      exact ⟨rfl, rfl⟩

end Rearm

/-! ### LOG_COPY and REF_RREF -/

section Copy
variable {s : State} {base : Nat}

/-- The oldest entries not yet copied go to the journal in one record, unless one is on its way (R390). -/
theorem logCopy_yields (hr : runs .mp s = true) (hu : 0 < s.faults.uncopied)
    (hq : (s.nvm.queue.any fun r => match r.why with | .logCopy _ => true | _ => false) = false) (hi : s.power.inhibit = false) :
    Yields .logCopy s fun t => t.nvm = { s.nvm with queue := s.nvm.queue ++
        [{ page := 0, bytes := [], why := .logCopy (min logPerRec s.faults.uncopied) }] } ∧ SameBut [.nvm] s t := by
  have hcond : (decide (0 < s.faults.uncopied) && !(s.nvm.queue.any fun r => match r.why with | .logCopy _ => true | _ => false)) = true := by
    rw [decide_eq_true hu, hq]
    rfl
  exact ⟨_, (ifRuns_runs hr).trans ((when_holds hcond).trans (congrArg _ (queueRecs_open hi))), rfl,
    onNvm_frame (fun _ => rfl) (fun _ => rfl) (by decide) .refl⟩

/-- The current reference is good within its range, and a failed one is a condition that lasts (R409). -/
theorem refRref_yields (hr : runs .frond s = true) : Yields (.refRref base) s fun t =>
    t.cal = { s.cal with rrefOk := decide (9500 ≤ base) && decide (base ≤ 10500), iBase := min 65535 base }
      ∧ (Lasts 215 t ↔ ¬ (9500 ≤ base ∧ base ≤ 10500)) ∧ SameBut [.faults, .cal] s t := by
  refine .framed ⟨_, ifRuns_runs hr, fun hframe => ?_⟩
  by_cases hb : 9500 ≤ base ∧ base ≤ 10500
  · have hok : (decide (9500 ≤ base) && decide (base ≤ 10500)) = true := by simpa using hb
    rw [hok, if_pos rfl] at hframe ⊢
    exact ⟨condOff_cal .., ⟨fun h => absurd rfl (condOff_lasts_iff.1 h).2, fun h => absurd hb h⟩, hframe⟩
  · have hok : (decide (9500 ≤ base) && decide (base ≤ 10500)) = false := by simpa using hb
    rw [hok, if_neg Bool.false_ne_true] at hframe ⊢
    exact ⟨condOn_cal .., ⟨fun _ => hb, fun _ => condOn_lasts_iff.2 (.inr rfl)⟩, hframe⟩

end Copy

/-! ### FAULT_COLLECTOR_START -/

section Start
variable {s : State} {p : Nat}

/-- A condition that begins leaves the collector started or not. -/
theorem condOn_started {n : Nat} : (condOn n s).faults.started = s.faults.started := by
  unfold condOn raise
  split
  · rfl
  · split
    · rfl
    · rfl

theorem clockConds_started : (clockConds s).faults.started = s.faults.started := by
  have hcond : ∀ {b : Bool} {n : Nat} {u : State}, (if b then condOn n u else u).faults.started = u.faults.started := fun {b _ _} => by
    cases b with
    | false => rfl
    | true => exact condOn_started
  unfold clockConds
  extract_lets c u v
  rw [hcond, hcond, hcond]

/-- An enabled port that has not started enters Lock once `CREFCLK` is good (R457). -/
theorem startPort_locks (he : (portOf s p).en = true) (hs : (portOf s p).started = false) (hd : (portOf s p).st = .disabled)
    (hc : s.power.crefOk = true) : (portOf (startPort p s) p).st = .lock := by
  unfold startPort
  rw [if_pos ⟨he, by simp [hs], hd, hc⟩, enterLock_st, if_pos rfl]

theorem startPort_others : OtherPorts p s (startPort p s) := by
  unfold startPort
  extract_lets x
  split
  · exact enterLock_others
  · exact fun _ _ => rfl

/-- Both ports start alike. -/
theorem portsRestart_locks (hp : p < 2) (he : (portOf s p).en = true) (hs : (portOf s p).started = false) (hd : (portOf s p).st = .disabled)
    (hc : s.power.crefOk = true) : (portOf (portsRestart s) p).st = .lock := by
  obtain rfl | rfl : p = 0 ∨ p = 1 := by omega
  · rw [portsRestart, startPort_others 0 (by decide)]
    exact startPort_locks he hs hd hc
  · have hother : portOf (startPort 0 s) 1 = portOf s 1 := startPort_others 1 (by decide)
    have hpower : (startPort 0 s).power = s.power := (startPort_frame (l := [.chain]) (by decide) .refl).power_eq
    exact startPort_locks (by rwa [hother]) (by rwa [hother]) (by rwa [hother]) (by rwa [hpower])

/-- The rails are up and the clocks are good but for those that have failed (R39 R59 R568). -/
def railsUp (s : State) : State :=
  { s with power := { s.power with
      vcoreOk := true, vdd18Ok := true, vserOk := true, xinOk := !s.power.clkFailed.testBit 0, crefOk := !s.power.clkFailed.testBit 1
      perefOk := !s.power.clkFailed.testBit 2, clkBackup := s.power.clkFailed.testBit 0 } }

/-- With the collector the enabled ports start (R457 R568). -/
theorem faultCollectorStart_yields (hr : runs .safety s = true) (hh : s.power.held = false) (hs : s.faults.started = false) :
    Yields .faultCollectorStart s fun t => t.faults.started = true
      ∧ t.power = { s.power with vcoreOk := true, vdd18Ok := true, vserOk := true, xinOk := !s.power.clkFailed.testBit 0
                                 crefOk := !s.power.clkFailed.testBit 1, perefOk := !s.power.clkFailed.testBit 2
                                 clkBackup := s.power.clkFailed.testBit 0 }
      ∧ (∀ p, p < 2 → (portOf s p).en = true → (portOf s p).started = false → (portOf s p).st = .disabled →
          s.power.clkFailed.testBit 1 = false → (portOf t p).st = .lock)
      ∧ SameBut [.power, .faults, .chain] s t := by
  have hexec : exec .faultCollectorStart s
      = .next (clockConds (portsRestart (onFlt (fun f => { f with started := true }) (railsUp s)))) :=
    (ifRuns_runs hr).trans (when_holds (by rw [hh, hs]; rfl))
  have hconds : ∀ {u : State}, SameBut [.faults] u (clockConds u) := clockConds_frame (by decide) .refl
  have hports : ∀ {u : State}, SameBut [.chain] u (portsRestart u) := portsRestart_frame (by decide) .refl
  refine .framed ⟨_, hexec, fun hframe => ⟨?_, ?_, fun p hp he hst hd hc => ?_, hframe⟩⟩
  · rw [clockConds_started, hports.faults_eq]
    rfl
  · rw [hconds.power_eq, hports.power_eq]
    rfl
  · rw [hconds.portOf_eq]
    exact portsRestart_locks hp he hst hd (by simp [railsUp, hc])

end Start

/-- Settles O34: an acknowledgement is made or refused, an injection armed, refused or timed out, and vector 32, the log's copy, the current
reference and the collector's start each by the one way the command then has. -/
theorem faultHandling : Obligations.FaultHandling :=
  ⟨fun _ _ _ => faultAck_good_yields, fun _ _ _ => faultAck_bad_yields, fun _ _ _ => faultInject_arms, fun _ _ _ => faultInject_busy,
    fun _ _ _ => injectionTimeout_yields, fun _ _ => rearm_yields, fun _ => logCopy_yields, fun _ _ => refRref_yields,
    fun _ => faultCollectorStart_yields⟩

end Sys2Proof.Machine
end

section
/-! The numbering of the frame pool: every frame of the pool keeps a number below the next one to be given out (R465, notes/assumptions/67). -/

set_option autoImplicit false
-- One declaration after the other: the text as one file holds many.
set_option Elab.async false

namespace Sys2Proof.Machine

/-! ### Rules -/

section Rules
variable {s t : State} {l : List Part} {f : PoolFrame}

/-- A state with the same frames, or some of them, under the same next number. -/
theorem PoolInv.sub (h : PoolInv s) (hf : ∀ f ∈ t.chain.frames, f ∈ s.chain.frames) (hn : t.chain.nextFrame = s.chain.nextFrame) :
    PoolInv t := fun f hm => hn ▸ h f (hf f hm)

/-- A change that leaves the chain. -/
theorem PoolInv.quiet (h : PoolInv s) (k : SameBut l s t) (hc : .chain ∉ l := by decide) : PoolInv t := by
  rwa [PoolInv, k.chain_eq hc]

theorem PoolInv.empty (h : t.chain.frames = []) : PoolInv t := by simp [PoolInv, h]

theorem PoolInv.ite {p : Prop} [Decidable p] (h : p → PoolInv s) (k : ¬p → PoolInv t) : PoolInv (if p then s else t) := by
  split
  · exact h ‹_›
  · exact k ‹_›

theorem Goes.pool {o : Out} (k : Goes l s o) (h : PoolInv s) (hc : .chain ∉ l := by decide) : EndsIn PoolInv o := by
  obtain ⟨t, rfl, ht⟩ := k
  exact .next (h.quiet ht hc)

end Rules

/-! ### Writes of the chain that leave the pool -/

section Writes
variable {s : State} {p k id : Nat}

/-- A change of the chain island that writes neither the frames nor the next number. -/
theorem onChain_pool {f : Chain → Chain} (h : PoolInv s) (hf : ∀ c, (f c).frames = c.frames := by intro; rfl)
    (hn : ∀ c, (f c).nextFrame = c.nextFrame := by intro; rfl) : PoolInv (onChain f s) :=
  h.sub (fun _ hg => hf s.chain ▸ hg) (hn _)

theorem putPort_pool {x : Port} (h : PoolInv s) : PoolInv (putPort s p x) := h

theorem updPort_pool {f : Port → Port} (h : PoolInv s) : PoolInv (updPort p f s) := h

theorem putCred_pool {c : Cred} (h : PoolInv s) : PoolInv (putCred s p k c) := h

theorem enterLock_pool (h : PoolInv s) : PoolInv (enterLock p s) := h

theorem enqueue_pool (h : PoolInv s) : PoolInv (enqueue p id s) := h

theorem readQueue_pool (h : PoolInv s) : PoolInv (readQueue k s) := h

theorem clearStale_pool (h : PoolInv s) : PoolInv (clearStale s) := h

theorem countDrop_pool (h : PoolInv s) : PoolInv (countDrop k s) := h

theorem raise_pool (h : PoolInv s) : PoolInv (raise k s) := h.quiet (raise_frame (l := [.faults]) (by decide) .refl)

theorem sendOs_pool {fields : Nat} (h : PoolInv s) : PoolInv (sendOs p k fields s) :=
  h.quiet (sendOs_frame (l := [.outputs]) (by decide) .refl)

end Writes

/-! ### Frames that join, change and leave (R474) -/

section Frame
variable {s : State} {f : PoolFrame}

theorem addFrame_pool (hf : f.id = s.chain.nextFrame) (h : PoolInv s) : PoolInv (addFrame f s) := by
  intro g hg
  change g ∈ s.chain.frames ++ [f] at hg
  change g.id < f.id + 1
  rcases List.mem_append.1 hg with hg | hg
  · have := h g hg
    omega
  · obtain rfl := List.mem_singleton.1 hg
    exact Nat.lt_succ_self _

theorem updFrame_pool {id : Nat} {g : PoolFrame → PoolFrame} (h : PoolInv s) (hg : ∀ x, (g x).id = x.id := by intro; rfl) :
    PoolInv (updFrame id g s) := by
  intro x hx
  obtain ⟨y, hy, rfl⟩ := List.mem_map.1 hx
  have := h y hy
  split
  · rwa [hg]
  · exact this

theorem countFreed_pool (h : PoolInv s) : PoolInv (countFreed f s) := by
  unfold countFreed
  split
  · exact .ite (fun _ => putCred_pool h) fun _ => h
  · exact h

theorem dropFrame_pool (h : PoolInv s) : PoolInv (dropFrame f s) := by
  have hcount : PoolInv (if f.shared then s else countFreed f s) := .ite (fun _ => h) fun _ => countFreed_pool h
  exact hcount.sub (fun _ hg => (List.mem_filter.1 hg).1) rfl

theorem settle_pool {id : Nat} (h : PoolInv s) : PoolInv (settle id s) := by
  unfold settle
  split
  · exact h
  · exact .ite (fun _ => h) fun _ => .ite (fun _ => dropFrame_pool h) fun _ => .ite (fun _ => h) fun _ =>
      .ite (fun _ => updFrame_pool (countFreed_pool h)) fun _ => dropFrame_pool h

theorem doneWith_pool {id : Nat} {c : Consumer} (h : PoolInv s) : PoolInv (doneWith id c s) := settle_pool (updFrame_pool h)


end Frame

/-! ### The ports (R457 R459 R461 R469) -/

section Ports
variable {s : State} {p n : Nat}

theorem finishTx_pool (ws : List TxWait) : ∀ {s : State}, PoolInv s → PoolInv (finishTx ws s) := by
  induction ws with
  | nil => exact id
  | cons w r ih =>
    intro s h
    refine ih (.ite (fun _ => ?_) fun _ => h)
    dsimp only
    have hw : PoolInv (onChain (fun c => { c with txWaits := c.txWaits.filter fun x => x.id != w.id }) s) := onChain_pool h
    split <;> exact hw.quiet (complete_frame (l := [.rings]) (by decide) .refl)

theorem txEnds_pool {f : PoolFrame} {sent : Option Stamps} (h : PoolInv s) : PoolInv (txEnds f p sent s) := by
  unfold txEnds
  split
  · exact finishTx_pool _ (onChain_pool h)
  · exact h

theorem cutRx_pool (h : PoolInv s) : PoolInv (cutRx p n s) := by
  unfold cutRx
  split
  · exact h
  · extract_lets c u v w
    have hfreed : PoolInv w := clearStale_pool (onChain_pool (updPort_pool (putCred_pool h)))
    split
    · exact settle_pool (updFrame_pool hfreed)
    · exact hfreed

theorem cutTx_pool (h : PoolInv s) : PoolInv (cutTx p s) := by
  unfold cutTx
  split
  · exact h
  · extract_lets +onlyGivenNames u
    have hcut : PoolInv u := updPort_pool h
    split
    · exact txEnds_pool (doneWith_pool (putCred_pool (hcut.quiet (freshFree_frame (l := [.freeCtr]) (by decide) .refl))))
    · exact hcut

theorem discardQueue_pool (ids : List Nat) : ∀ {s : State}, PoolInv s → PoolInv (discardQueue p ids s) := by
  induction ids with
  | nil => exact id
  | cons i r ih =>
    intro s h
    unfold discardQueue
    extract_lets u
    have hu : PoolInv u := updPort_pool h
    refine ih ?_
    split
    · exact txEnds_pool (doneWith_pool hu)
    · exact hu

theorem leaveLink_pool {report : Bool} (h : PoolInv s) : PoolInv (leaveLink p report s) := by
  have hcut : ∀ ids k, PoolInv (discardQueue p ids (cutTx p (cutRx p k s))) := fun ids _ => discardQueue_pool ids (cutTx_pool (cutRx_pool h))
  refine .ite (fun _ => ?_) fun _ => h
  have hleft : ∀ ids k f, PoolInv (clearStale (updPort p f (discardQueue p ids (cutTx p (cutRx p k s))))) := fun _ _ _ =>
    clearStale_pool (updPort_pool (hcut _ _))
  exact .ite (fun _ => raise_pool (hleft _ _ _)) fun _ => hleft _ _ _

theorem portDown_pool {report : Bool} (h : PoolInv s) : PoolInv (portDown p report s) :=
  .ite (fun _ => enterLock_pool (leaveLink_pool h)) fun _ => h

theorem portLose_pool (h : PoolInv s) : PoolInv (portLose p s) :=
  .ite (fun _ => portDown_pool h) fun _ => .ite (fun _ => h) fun _ => enterLock_pool h

theorem startPort_pool (h : PoolInv s) : PoolInv (startPort p s) := .ite (fun _ => enterLock_pool h) fun _ => h

theorem portsRestart_pool (h : PoolInv s) : PoolInv (portsRestart s) := startPort_pool (startPort_pool h)

theorem enterCapability_pool (h : PoolInv s) : PoolInv (enterCapability p s) := .ite (fun _ => raise_pool (putPort_pool h)) fun _ => putPort_pool h

theorem tryUp_pool (h : PoolInv s) : PoolInv (tryUp p s) := .ite (fun _ => putPort_pool h) fun _ => h

theorem sendIdles_pool (h : PoolInv s) : PoolInv (sendIdles p s) := h.quiet (sendIdles_frame (l := [.outputs]) (by decide) .refl)

theorem enterSwitch_pool (h : PoolInv s) : PoolInv (enterSwitch p n s) := updPort_pool (sendIdles_pool (cutTx_pool h))

theorem enterFallback_pool (h : PoolInv s) : PoolInv (enterFallback p s) := raise_pool (updPort_pool (sendIdles_pool (cutTx_pool h)))

theorem trialError_pool (h : PoolInv s) : PoolInv (trialError p s) := .ite (fun _ => enterFallback_pool (sendOs_pool h)) fun _ => h

theorem keepStep_pool (h : PoolInv s) : PoolInv (keepStep p s) := .ite (fun _ => putPort_pool h) fun _ => h

theorem acceptStep_pool (h : PoolInv s) : PoolInv (acceptStep p n s) := enterSwitch_pool (sendOs_pool h)

theorem badBlock_pool (h : PoolInv s) : PoolInv (badBlock p s) := .ite (fun _ => h) fun _ => trialError_pool (updPort_pool h)

theorem enablePort_pool (h : PoolInv s) : PoolInv (enablePort p s) := .ite (fun _ => enterLock_pool (updPort_pool h)) fun _ => updPort_pool h

theorem disablePort_pool (h : PoolInv s) : PoolInv (disablePort p s) :=
  .ite (fun _ => updPort_pool h) fun _ => updPort_pool <| enterLock_pool <| leaveLink_pool <|
    (sendOs_pool h).quiet (emit_frame (l := [.outputs]) (by decide) .refl)

theorem retrainPort_pool (h : PoolInv s) : PoolInv (retrainPort p s) :=
  .ite (fun _ => h) fun _ => enterLock_pool (leaveLink_pool h)

theorem onOs_pool {kind : Nat} {v : BitVec 24} {f : State → State} (h : PoolInv s) (hf : PoolInv (f s)) : EndsIn PoolInv (onOs p kind v f s) :=
  .ite (fun _ => .next h) fun _ => .ite (fun _ => .next (badBlock_pool h)) fun _ => .ite (fun _ => .next h) fun _ => .next hf

end Ports

/-! ### Frames received, queued for the host and originated (R466 R474 R481 R484) -/

section Frames
variable {s : State} {p n : Nat} {b : Bytes} {via : Option Nat}

theorem readParity_pool {f : PoolFrame} (h : PoolInv s) : PoolInv (readParity f s) :=
  h.quiet (readParity_frame (l := [.rings, .faults]) (by decide) .refl)

theorem fillHost1_pool (h : PoolInv s) : PoolInv (fillHost1 n s) := by
  unfold fillHost1
  split
  · split
    · exact h
    · refine .ite (fun _ => ?_) fun _ => h
      refine PoolInv.quiet (l := [.rings]) (doneWith_pool ?_) (complete_frame (by decide) .refl)
      exact onChain_pool <| (readParity_pool (readQueue_pool h)).quiet (hostWrite_frame (l := [.outputs]) (by decide) .refl)
  · exact h

theorem fillHost_pool (k : Nat) : ∀ {s : State}, PoolInv s → PoolInv (fillHost n k s) := by
  induction k with
  | zero => exact id
  | succ k ih => exact fun h => ih (fillHost1_pool h)

theorem fillAllHost_pool (k : Nat) (h : PoolInv s) : PoolInv (fillAllHost k s) := by
  induction k with
  | zero => exact h
  | succ k ih => exact fillHost_pool _ ih

theorem frameBad_pool {r : RxFrame} (h : PoolInv s) : PoolInv (frameBad p r b s) := by
  unfold frameBad
  dsimp only
  split
  · exact settle_pool (updFrame_pool (onChain_pool h))
  · exact putCred_pool h

theorem frameGood_pool {r : RxFrame} {poison : Bool} (h : PoolInv s) : PoolInv (frameGood p r b poison s) := by
  unfold frameGood
  extract_lets cells w host more u q id joined x v
  have hu : PoolInv u := .ite (fun _ => countDrop_pool h) fun _ => h
  have hjoined : PoolInv joined := addFrame_pool rfl hu
  have hx : PoolInv x.2 := by
    dsimp only [x]
    cases r.cut with
    | some id => exact updFrame_pool (onChain_pool hu)
    | none => exact .ite (fun _ => enqueue_pool hjoined) fun _ => hjoined
  exact fillHost_pool _ (settle_pool (onChain_pool hx))

theorem sendMgmt_pool {prio : Nat} (h : PoolInv s) : PoolInv (sendMgmt p prio b s) :=
  .ite (fun _ => enqueue_pool (addFrame_pool rfl h)) fun _ => h

theorem sendBoth_pool {typ hops flags : Nat} (h : PoolInv s) : PoolInv (sendBoth typ hops flags b s) :=
  sendMgmt_pool (sendMgmt_pool (onChain_pool h))

theorem sendOne_pool {typ hops flags : Nat} (h : PoolInv s) : PoolInv (sendOne p typ hops flags b s) := sendMgmt_pool (onChain_pool h)

theorem helloOn_pool (h : PoolInv s) : PoolInv (helloOn p s) := .ite (fun _ => sendOne_pool h) fun _ => h

theorem sendReports_pool (k : Nat) : ∀ {s : State}, PoolInv s → PoolInv (sendReports k s) := by
  induction k with
  | zero => exact id
  | succ k ih => exact fun h => ih (sendBoth_pool h)

theorem flushReport_pool (h : PoolInv s) : PoolInv (flushReport s) := by
  unfold flushReport
  extract_lets +onlyGivenNames open_ u
  have hu : PoolInv u := .ite (fun _ => (onChain_pool h).quiet (onTiles_frame (l := [.tiles]) (by decide) .refl)) fun _ => h
  exact sendReports_pool _ (onChain_pool hu)

theorem sendVia_pool {typ hops flags : Nat} (h : PoolInv s) : PoolInv (sendVia via typ hops flags b s) := by
  cases via with
  | some p => exact sendOne_pool h
  | none => exact (onChain_pool h).quiet (emit_frame (l := [.outputs]) (by decide) .refl)

theorem fwOffer_pool (h : PoolInv s) : PoolInv (fwOffer via b s) :=
  have hseen : PoolInv (onNvm (fun n => { n with offerSeen := true }) s) :=
    h.quiet (onNvm_frame (l := [.nvm]) (fun _ => rfl) (fun _ => rfl) (by decide) .refl)
  .ite (fun _ => hseen) fun _ => .ite (fun _ => sendVia_pool hseen) fun _ => .ite (fun _ => hseen) fun _ =>
    hseen.quiet (onXfer_frame (l := [.nvm]) (by decide) .refl)

theorem storeBlock_pool {image i : Nat} (h : PoolInv s) : PoolInv (storeBlock via image i b s) := by
  unfold storeBlock
  refine .ite (fun _ => h) fun _ => ?_
  extract_lets u fresh x v k
  have hu : PoolInv u := h.quiet (beginWriting_frame (l := [.time, .nvm]) (by decide) .refl)
  have hv : PoolInv v := hu.quiet (l := [.freeCtr, .rings, .safety, .cal, .nvm]) <| queueRecs_frame (by decide) <|
    .ite (fun _ => .refl) fun _ => openPage_frame (by decide) .refl
  exact .ite (fun _ => sendVia_pool hv) fun _ => hv

theorem fwBlock_pool (h : PoolInv s) : PoolInv (fwBlock via b s) := by
  unfold fwBlock
  extract_lets image i k x data got want v
  refine .ite (fun _ => h) fun _ => ?_
  have hx : PoolInv x.2 := h.quiet (takeInj_frame (l := [.rings, .faults]) (by decide) .refl)
  have hv : PoolInv v := .ite (fun _ => hx) fun _ => hx.quiet (raiseInj_frame (l := [.faults]) (by decide) .refl)
  exact .ite (fun _ => storeBlock_pool hv) fun _ => hv.quiet (onXfer_frame (l := [.nvm]) (by decide) .refl)

theorem sendBlocks_pool {image hops first : Nat} (k : Nat) (h : PoolInv s) : PoolInv (sendBlocks via image hops first k s) := by
  induction k with
  | zero => exact h
  | succ k ih => exact sendVia_pool ih

theorem fwRequest_pool {hops : Nat} (h : PoolInv s) : PoolInv (fwRequest via hops b s).2 := by
  unfold fwRequest
  dsimp only
  split
  · exact sendBlocks_pool _ (h.quiet (readNvmWords_frame (l := [.rings, .faults]) (by decide) .refl))
  · exact h

theorem processSvc_pool (h : PoolInv s) : PoolInv (processSvc via b s).2 := by
  unfold processSvc
  dsimp only
  split
  · cases via with
    | some p => exact updPort_pool h
    | none => exact h
  · exact fwOffer_pool h
  · exact fwBlock_pool h
  · exact fwRequest_pool h
  · exact .ite (fun _ => sendBoth_pool h) fun _ => h
  · exact h

theorem relay_pool (h : PoolInv s) : PoolInv (relay p b s) :=
  .ite (fun _ => sendMgmt_pool h) fun _ => onChain_pool (sendMgmt_pool h)

theorem handleSvc_pool (h : PoolInv s) : PoolInv (handleSvc via b s) := by
  unfold handleSvc
  refine .ite (fun _ => onChain_pool h) fun _ => .ite (fun _ => h) fun _ => ?_
  extract_lets x
  have hx : PoolInv x.2 := processSvc_pool (onChain_pool h)
  split
  · exact .ite (fun _ => relay_pool hx) fun _ => hx
  · exact hx

end Frames

/-! ### Reports of the tiles, descriptors flushed, resets -/

section Others
variable {s : State} {n : Nat}

theorem postEol_pool {serial reason block : Nat} (h : PoolInv s) : PoolInv (postEol n serial reason block s) := by
  unfold postEol
  refine .ite (fun _ => h) fun _ => ?_
  extract_lets u c v
  have hu : PoolInv u := h.quiet (onTiles_frame (l := [.tiles]) (by decide) .refl)
  have hv : PoolInv v := onChain_pool (f := fun c => { c with report := c.report + 1 }) hu
  exact raise_pool (hv.quiet (postEvent_frame (l := [.rings]) (by decide) .refl))

/-- The report of the first block at its end of life, if there is one (R275). -/
theorem postEol_head_pool {h : Header} {reason : Nat} {blocks : List Nat} (hs : PoolInv s) :
    PoolInv (match blocks.head? with | some b => postEol n h.serial reason b s | none => s) := by
  split
  · exact postEol_pool hs
  · exact hs

theorem gateSent_pool {c : Cmp} (h : PoolInv s) (hc : c.cache = s.cmp.cache) : PoolInv { s with cmp := c } :=
  h.quiet (setCmp_frame (l := [.cmp]) hc (by decide) .refl)

theorem computeGains_pool (h : PoolInv s) : PoolInv (computeGains n s) := by
  unfold computeGains
  generalize blocks_ = j
  -- A lemma of its own for every number of blocks: with the number fixed the check would evaluate the lists of all blocks.
  as_aux_lemma =>
    extract_lets t
    split
    · exact h
    · have hput : ∀ x, PoolInv (putTile s n x) := fun _ => h.quiet (putTile_frame (l := [.tiles]) (by decide) .refl)
      exact gateSent_pool (postEol_head_pool (postEol_head_pool (hput _))) rfl

theorem gainsAll_pool (k : Nat) (h : PoolInv s) : PoolInv (gainsAll k s) := by
  induction k with
  | zero => exact h
  | succ k ih => exact .ite (fun _ => computeGains_pool ih) fun _ => ih

theorem tileReady_pool (h : PoolInv s) : PoolInv (tileReady n s) := by
  have hmap : PoolInv (mapSent n s) := h
  exact (computeGains_pool hmap).quiet tileReady_frame_gains

theorem updTile_pool {f : Tile → Tile} (h : PoolInv s) : PoolInv (updTile n f s) :=
  h.quiet (updTile_frame (l := [.tiles]) (by decide) .refl)

theorem busFail_pool (h : PoolInv s) : PoolInv (busFail n s) := by
  unfold busFail
  split
  case h_7 => exact tileReady_pool (raise_pool (updTile_pool h))
  · exact h.quiet (l := [.rings, .strip, .tiles, .faults]) (headerBad_frame (by decide) (updTile_frame (by decide) .refl))
  · exact h.quiet (l := [.outputs, .tiles, .faults]) <| readHeads_frame (by decide) <| raise_frame (by decide) <| updTile_frame (by decide) .refl
  · exact raise_pool (updTile_pool h)
  · exact raise_pool (updTile_pool h)
  · exact h.quiet (endCert_frame (l := [.outputs, .tiles, .faults]) (by decide) .refl)
  · exact h.quiet (endCert_frame (l := [.outputs, .tiles, .faults]) (by decide) .refl)
  · exact h

theorem opFails_pool {op : BusOp} (h : PoolInv s) : PoolInv (opFails n op s) := by
  cases op with
  | identity => exact busFail_pool h
  | commit => exact h.quiet (judgeCommit_frame (l := [.outputs, .rings, .tiles, .faults]) (by decide) .refl)
  | mapReread => exact updTile_pool h
  | status => exact h
  | temp => exact h

/-- Of the chain island a flush takes no more than the posted buffers (R131). -/
theorem flushOne_pool {d : Desc} (h : PoolInv s) : PoolInv (flushOne d s) :=
  have hbufs : PoolInv (onChain (fun c => { c with rxBufs := c.rxBufs.filter fun b => b.id != d.id }) s) := onChain_pool h
  .ite (fun _ => h) fun _ => .ite (fun _ => h.quiet (complete_frame (l := [.rings]) (by decide) .refl)) fun _ =>
    .ite (fun _ => hbufs.quiet (l := [.rings]) (complete_frame (by decide) .refl)) fun _ => h

theorem flushAll_pool (ds : List Desc) : ∀ {s : State}, PoolInv s → PoolInv (flushAll ds s) := by
  induction ds with
  | nil => exact id
  | cons d r ih => exact fun h => ih (flushOne_pool h)

end Others

/-! ### Resets, and what ends in one (R53) -/

section Resets
variable {s : State} {c : Cause}

theorem chipReset_pool : PoolInv (chipReset c s) := .empty rfl

theorem requestReset_pool (h : PoolInv s) : PoolInv (requestReset c s) :=
  .ite (fun _ => h.quiet (setPower_frame (l := [.power]) (by decide) .refl)) fun _ => chipReset_pool

theorem gotBlock_pool {i : Nat} (h : PoolInv s) : PoolInv (gotBlock i s) := by
  unfold gotBlock
  refine .ite (fun _ => h) fun _ => ?_
  extract_lets u all x v
  have hv : PoolInv v := h.quiet (l := [.freeCtr, .rings, .safety, .cal, .nvm]) <| .ite
    (fun _ => queueRecs_frame (by decide) <| openPage_frame (by decide) <| onXfer_frame (by decide) (onXfer_frame (by decide) .refl))
    fun _ => onXfer_frame (by decide) .refl
  exact .ite (fun _ => requestReset_pool hv) fun _ => hv

theorem gotPage_pool {p : Nat} (h : PoolInv s) : PoolInv (gotPage p s) :=
  have hx : ∀ f, PoolInv (onXfer f s) := fun _ => h.quiet (onXfer_frame (l := [.nvm]) (by decide) .refl)
  .ite (fun _ => gotBlock_pool (hx _)) fun _ => hx _

theorem commitPage_pool {page : Nat} {b : Bytes} (h : PoolInv s) : PoolInv (commitPage page b s) :=
  h.quiet (commitPage_frame (l := [.pages, .nvm]) (by decide) .refl)

/-- What a record's marker brings about leaves the chain, or ends in a reset (R531 R539). -/
theorem recordEffect_pool {r : Rec} (h : PoolInv s) : PoolInv (recordEffect r s) := by
  have hcommit : PoolInv (commitPage r.page r.bytes s) := commitPage_pool h
  unfold recordEffect
  split
  case h_1 id last done =>
    exact PoolInv.quiet (l := [.rings]) (.ite (fun _ => gotPage_pool hcommit) fun _ => hcommit)
      (.ite (fun _ => complete_frame (by decide) .refl) fun _ => .refl)
  case h_2 id =>
    refine hcommit.quiet (l := [.safety]) (.ite (fun _ => ?_) fun _ => .refl)
    exact onSaf_frame (fun _ => rfl) (fun _ => rfl) (fun _ => rfl) (fun _ => rfl) (fun _ => rfl) (by decide) .refl
  case h_3 => exact hcommit.quiet (setCal_frame (l := [.cal]) (by decide) .refl)
  case h_4 => exact commitPage_pool (h.quiet (onNvm_frame (l := [.nvm]) (fun _ => rfl) (fun _ => rfl) (by decide) .refl))
  case h_5 i last => exact .ite (fun _ => gotBlock_pool hcommit) fun _ => hcommit
  case h_6 => exact h.quiet (l := [.power, .tiles, .journal, .nvm]) (setPower_frame (by decide) (saveHalf_frame (by decide) .refl))
  case h_7 =>
    exact .ite (fun _ => .empty rfl) fun _ => h.quiet (l := [.power, .faults, .nvm]) (setPower_frame (by decide) (copyLog_frame (by decide) .refl))
  case h_8 => exact chipReset_pool
  case h_9 => exact h.quiet (copyLog_frame (l := [.faults, .nvm]) (by decide) .refl)

theorem recordDone_pool (h : PoolInv s) : PoolInv (recordDone s) := by
  unfold recordDone
  split
  · exact h
  · refine .ite (fun _ => recordEffect_pool ?_) fun _ => h
    exact h.quiet (onNvm_frame_pages (l := [.pages, .nvm]) (by decide) .refl)

end Resets

end Sys2Proof.Machine
end

section
/-! Every command keeps the numbering of the frame pool: those of the chain and those that reset the chip by their own rules, all
others because they leave the chain (R465 R466). -/

set_option autoImplicit false
-- One declaration after the other: the text as one file holds many.
set_option Elab.async false

namespace Sys2Proof.Machine

/-! ### Resets, clocks, descriptors and tiles -/

section Islands
variable {s : State}

theorem execVinRisePor_pool (h : PoolInv s) : EndsIn PoolInv (execVinRisePor s) := when_endsIn h (.empty rfl)

theorem execResetNLow_pool (h : PoolInv s) : EndsIn PoolInv (execResetNLow s) :=
  have hpin := h.quiet (setPower_frame (x := { s.power with pinLow := true }) (l := [.power]) (by decide) .refl)
  .ite (fun _ => .next h) fun _ => when_endsIn hpin (requestReset_pool hpin)

theorem execSwrstKey_pool {l : Bool} {v : BitVec 32} (h : PoolInv s) : EndsIn PoolInv (execSwrstKey l v s) :=
  when_endsIn h (requestReset_pool h)

theorem execScheduledBoot_pool (h : PoolInv s) : EndsIn PoolInv (execScheduledBoot s) :=
  ifRuns_endsIn h (when_endsIn h (requestReset_pool h))

theorem execArmReset_pool {id : Nat} (h : PoolInv s) : EndsIn PoolInv (execArmReset id s) := by
  refine runOp_endsIn h fun d => .ite (fun _ => .ite (fun _ => requestReset_pool ?_) fun _ => ?_) fun _ => h
  · exact h.quiet (l := [.rings, .nvm]) (complete_frame (by decide) (onNvm_frame (fun _ => rfl) (fun _ => rfl) (by decide) .refl))
  · exact h.quiet (complete_frame (l := [.rings]) (by decide) .refl)

theorem execVinRemoval_pool : EndsIn PoolInv (execVinRemoval s) := .next (.empty rfl)

theorem execRailUndervoltage_pool {r : Rail} (h : PoolInv s) : EndsIn PoolInv (execRailUndervoltage r s) :=
  .next <| PoolInv.quiet (l := [.power]) (.ite (fun _ => h) fun _ => chipReset_pool) (setPower_frame (by decide) .refl)

theorem execNvmRecordComplete_pool {v : VholdSeen} (h : PoolInv s) : EndsIn PoolInv (execNvmRecordComplete s v) := by
  have hd : PoolInv (recordDone s) := recordDone_pool h
  unfold execNvmRecordComplete
  split
  · exact .next h
  · refine .ite (fun _ => .next h) fun _ => .ite (fun _ => .next ?_) fun _ => .ite (fun _ => .next hd) fun _ => ?_
    · exact hd.quiet (l := [.power, .faults]) (vholdLevel_frame (by decide) (setPower_frame (by decide) .refl))
    · split
      · exact .next chipReset_pool
      · exact .next hd

theorem execClockReferenceFail_pool {r : Ref} (h : PoolInv s) : EndsIn PoolInv (execClockReferenceFail r s) := by
  cases r with
  | xin => exact .next (h.quiet (l := [.power, .faults]) (condOn_frame (by decide) (markRef_frame (by decide) (setPower_frame (by decide) .refl))))
  | cref =>
    exact .next <| PoolInv.quiet (l := [.faults]) (portLose_pool (portLose_pool
      (h.quiet (l := [.power]) (markRef_frame (by decide) (setPower_frame (by decide) .refl))))) (condOn_frame (by decide) .refl)
  | peref =>
    exact .next <| h.quiet (l := [.power, .link, .rings, .cmp, .faults]) <| .after
      (.ite (fun _ => hostReset_frame (by decide) .refl) fun _ => .refl)
      (condOn_frame (by decide) (markRef_frame (by decide) (setPower_frame (by decide) .refl)))

theorem execClockReferenceReturn_pool {r : Ref} (h : PoolInv s) : EndsIn PoolInv (execClockReferenceReturn r s) := by
  cases r with
  | xin | peref =>
    exact .next (h.quiet (l := [.power, .faults]) (condOff_frame (by decide) (markRef_frame (by decide) (setPower_frame (by decide) .refl))))
  | cref =>
    exact .next <| PoolInv.quiet (l := [.faults]) (portsRestart_pool
      (h.quiet (l := [.power]) (markRef_frame (by decide) (setPower_frame (by decide) .refl)))) (condOff_frame (by decide) .refl)

theorem execFaultCollectorStart_pool (h : PoolInv s) : EndsIn PoolInv (execFaultCollectorStart s) :=
  have hup : PoolInv (onFlt (fun f => { f with started := true }) (railsUp s)) :=
    h.quiet (l := [.power, .faults]) (onFlt_frame (fun _ => rfl) (by decide) (setPower_frame (by decide) .refl))
  ifRuns_endsIn h <| when_endsIn h <| (portsRestart_pool hup).quiet (l := [.faults]) (clockConds_frame (by decide) .refl)

theorem execDmaResume_pool (h : PoolInv s) : EndsIn PoolInv (execDmaResume s) := by
  refine ifRuns_endsIn h <| when_endsIn h <| PoolInv.quiet (l := [.outputs, .link, .rings, .faults]) (fillAllHost_pool 8 ?_)
    (postHeldEvents_frame (by decide) (postLost_frame (by decide) (postAllDone_frame (by decide) .refl)))
  exact h.quiet (l := [.outputs, .link]) (sendPending_frame (by decide) (pump_frame (by decide) (setLink_frame (by decide) .refl)))

theorem execSqDrain_pool {n : Fin 32} {l : Bool} {v : BitVec 32} (h : PoolInv s) : EndsIn PoolInv (execSqDrain n l v s) := by
  have hcfg : PoolInv (storeSqCfg n.val v.toNat s) := h.quiet (storeSqCfg_frame (l := [.prot, .rings]) (by decide) .refl)
  refine when_endsIn h (.ite (fun _ => ?_) fun _ => hcfg)
  exact PoolInv.quiet (l := [.rings]) (flushAll_pool _ (hcfg.quiet (l := [.link, .rings])
    (dropFetches_frame (by decide) (putSq_frame (by decide) .refl)))) (drainEnd_frame (by decide) .refl)

theorem execTileRemoval_pool {n : Fin 8} (h : PoolInv s) : EndsIn PoolInv (execTileRemoval n s) := by
  refine ifRuns_endsIn h <| when_endsIn h <| flushReport_pool <| h.quiet (l := [.rings, .cmp, .strip, .tiles, .journal, .faults, .nvm]) ?_
  exact completeAll_frame (by decide) <| endWaits_frame (by decide) <|
    .after (.ite (fun _ => postPresence_frame (by decide) .refl) fun _ => postPresence_frame (by decide) (raise_frame (by decide) .refl)) <|
    orphanRemoved_frame (by decide) <| onTiles_frame (by decide) <| dropChecks_frame (by decide) <| putTile_frame (by decide) <|
    dropTileItems_frame (by decide) <| stopShift_frame (by decide) (cancelRepay_frame (by decide) .refl)

theorem execTileBusRetry_pool {n : Fin 8} {ack : Bool} {op : BusOp} (h : PoolInv s) : EndsIn PoolInv (execTileBusRetry n ack s op) := by
  have hput : ∀ x, PoolInv (putTile s n.val x) := fun _ => h.quiet (putTile_frame (l := [.tiles]) (by decide) .refl)
  refine ifRuns_endsIn h <| .ite (fun _ => .next (hput _)) fun _ => .ite (fun _ => .next (hput _)) fun _ => .next ?_
  exact flushReport_pool <| opFails_pool <| raise_pool <| updTile_pool (hput _)

theorem execTileIdentityStep_pool {n : Fin 8} {d : IdStep} (h : PoolInv s) : EndsIn PoolInv (execTileIdentityStep n d s) := by
  have hupd : ∀ f, PoolInv (updTile n.val f s) := fun _ => updTile_pool h
  unfold execTileIdentityStep
  refine ifRuns_endsIn h ?_
  dsimp only
  split
  · split
    · exact .next <| h.quiet (l := [.outputs, .tiles, .faults]) <| readHeads_frame (by decide) <|
        .ite (fun _ => updTile_frame (by decide) .refl) fun _ => raise_frame (by decide) (updTile_frame (by decide) .refl)
    · exact .next (h.quiet (l := [.outputs, .tiles]) (readCopies_frame (by decide) .refl))
    · exact .next (h.quiet (l := [.outputs, .freeCtr, .rings, .tiles, .journal, .faults, .nvm]) (endLedger_frame (by decide) .refl))
    · exact .ite (fun _ => .next <| (hupd _).quiet (l := [.outputs, .tiles]) <| emit_frame (by decide) <|
        emit_frame (by decide) (onTiles_frame (by decide) (updTile_frame (by decide) .refl))) fun _ =>
        .next ((hupd _).quiet (l := [.outputs, .tiles, .faults]) (endCert_frame (by decide) .refl))
    · exact .next <| flushReport_pool <| tileReady_pool <| .ite (fun _ => hupd _) fun _ => raise_pool (hupd _)
    · exact .next h
  · exact .next h

theorem execGainRecompute_pool (h : PoolInv s) : EndsIn PoolInv (execGainRecompute s) :=
  ifRuns_endsIn h <| when_endsIn h <| flushReport_pool (gainsAll_pool 8 h)

theorem execPeriodicLedgerCommit_pool (h : PoolInv s) : EndsIn PoolInv (execPeriodicLedgerCommit s) :=
  ifRuns_endsIn h <| when_endsIn h <| flushReport_pool <|
    h.quiet (l := [.tiles]) (onTiles_frame (by decide) (requestCommits_frame (by decide) .refl))

theorem execCommitReadback_pool {n : Fin 8} {b : Bytes} (h : PoolInv s) : EndsIn PoolInv (execCommitReadback n b s) :=
  ifRuns_endsIn h <| when_endsIn h <| flushReport_pool <|
    h.quiet (l := [.outputs, .rings, .tiles, .faults]) (judgeCommit_frame (by decide) .refl)

end Islands

/-! ### The chain's ports -/

section PortCommands
variable {s : State} {p : Fin 2} {l : Bool} {v : BitVec 32} {w : BitVec 24}

theorem execPortEnable_pool (h : PoolInv s) : EndsIn PoolInv (execPortEnable p l v s) :=
  when_endsIn h (enablePort_pool (updPort_pool h))

theorem execPortDisable_pool (h : PoolInv s) : EndsIn PoolInv (execPortDisable p l v s) :=
  when_endsIn h (disablePort_pool (updPort_pool h))

theorem execRetrain_pool (h : PoolInv s) : EndsIn PoolInv (execRetrain p l v s) :=
  have hstore : PoolInv (storePortCtrl p.val v.toNat s) := updPort_pool h
  when_endsIn h <| .ite (fun _ => .ite (fun _ => enablePort_pool hstore) fun _ => retrainPort_pool hstore) fun _ => disablePort_pool hstore

theorem execBlockLock_pool (h : PoolInv s) : EndsIn PoolInv (execBlockLock p s) :=
  ifRuns_endsIn h (when_endsIn h (updPort_pool h))

theorem execBlockLockLoss_pool (h : PoolInv s) : EndsIn PoolInv (execBlockLockLoss p s) :=
  ifRuns_endsIn h <| .ite (fun _ => .next h) fun _ => .next <| portDown_pool <|
    .ite (fun _ => raise_pool (sendOs_pool (updPort_pool h))) fun _ => updPort_pool h

theorem execLossOfSignal_pool (h : PoolInv s) : EndsIn PoolInv (execLossOfSignal p s) :=
  ifRuns_endsIn h <| .ite (fun _ => .next (updPort_pool (updPort_pool h))) fun _ =>
    .next (portDown_pool (updPort_pool (updPort_pool h)))

theorem execSignalDetect_pool (h : PoolInv s) : EndsIn PoolInv (execSignalDetect p s) :=
  ifRuns_endsIn h <| .next <| .ite (fun _ => enterLock_pool (updPort_pool h)) fun _ => updPort_pool h

theorem execCap_pool (h : PoolInv s) : EndsIn PoolInv (execCap p w s) := by
  have hupd : ∀ f, PoolInv (updPort p.val f s) := fun _ => updPort_pool h
  unfold execCap
  refine ifRuns_endsIn h <| onOs_pool h <| .ite (fun _ => h) fun _ => .ite (fun _ => hupd _) fun _ => ?_
  split
  · exact tryUp_pool (enterCapability_pool (hupd _))
  · exact tryUp_pool (hupd _)
  · exact .ite (fun _ => putPort_pool (hupd _)) fun _ => hupd _
  · exact putPort_pool (hupd _)
  · exact hupd _

theorem execCreditInit_pool (h : PoolInv s) : EndsIn PoolInv (execCreditInit p w s) :=
  ifRuns_endsIn h <| onOs_pool h <| .ite (fun _ => h) fun _ => tryUp_pool (putCred_pool h)

theorem execCredit_pool (h : PoolInv s) : EndsIn PoolInv (execCredit p w s) :=
  ifRuns_endsIn h <| onOs_pool h <| .ite (fun _ => h) fun _ => .ite (fun _ => portDown_pool (raise_pool h)) fun _ => putCred_pool h

theorem execStepRequest_pool (h : PoolInv s) : EndsIn PoolInv (execStepRequest p w s) :=
  ifRuns_endsIn h <| onOs_pool h <| .ite (fun _ => h) fun _ => .ite (fun _ => sendOs_pool h) fun _ =>
    .ite (fun _ => putPort_pool h) fun _ => acceptStep_pool h

theorem execStepAccept_pool (h : PoolInv s) : EndsIn PoolInv (execStepAccept p w s) :=
  ifRuns_endsIn h <| onOs_pool h <| .ite (fun _ => enterSwitch_pool h) fun _ => h

theorem execStepRefuse_pool (h : PoolInv s) : EndsIn PoolInv (execStepRefuse p w s) :=
  ifRuns_endsIn h <| onOs_pool h <| .ite (fun _ => updPort_pool h) fun _ => h

theorem execStepResult_pool (h : PoolInv s) : EndsIn PoolInv (execStepResult p w s) :=
  ifRuns_endsIn h <| onOs_pool h <| .ite (fun _ => h) fun _ => .ite (fun _ => keepStep_pool (updPort_pool h)) fun _ => enterFallback_pool h

theorem execStepUpStart_pool (h : PoolInv s) : EndsIn PoolInv (execStepUpStart p s) :=
  ifRuns_endsIn h <| when_endsIn h (sendOs_pool (putPort_pool h))

theorem execStepAcceptTimeout_pool (h : PoolInv s) : EndsIn PoolInv (execStepAcceptTimeout p s) :=
  ifRuns_endsIn h <| when_endsIn h (updPort_pool h)

theorem execStepSwitchTimeout_pool (h : PoolInv s) : EndsIn PoolInv (execStepSwitchTimeout p s) := by
  unfold execStepSwitchTimeout
  refine ifRuns_endsIn h ?_
  split
  · exact .next (enterFallback_pool h)
  · exact .next (portDown_pool h)
  · exact .next h

theorem execStepTrialEnd_pool (h : PoolInv s) : EndsIn PoolInv (execStepTrialEnd p s) :=
  ifRuns_endsIn h <| when_endsIn h <| keepStep_pool (sendOs_pool (putPort_pool h))

theorem execSleep_pool (h : PoolInv s) : EndsIn PoolInv (execSleep p w s) :=
  ifRuns_endsIn h <| onOs_pool h <| .ite (fun _ => updPort_pool h) fun _ => h

theorem execWake_pool (h : PoolInv s) : EndsIn PoolInv (execWake p w s) :=
  ifRuns_endsIn h <| onOs_pool h <| .ite (fun _ => putPort_pool h) fun _ => h

theorem execDown_pool (h : PoolInv s) : EndsIn PoolInv (execDown p w s) := ifRuns_endsIn h <| onOs_pool h (portDown_pool h)

theorem execChnTrain_pool (h : PoolInv s) : EndsIn PoolInv (execChnTrain p s) :=
  ifRuns_endsIn h <| when_endsIn h (raise_pool (putPort_pool h))

theorem execBackoffEnd_pool (h : PoolInv s) : EndsIn PoolInv (execBackoffEnd p s) :=
  ifRuns_endsIn h <| when_endsIn h (enterLock_pool h)

theorem execSleepEntry_pool (h : PoolInv s) : EndsIn PoolInv (execSleepEntry p s) :=
  ifRuns_endsIn h <| when_endsIn h <|
    PoolInv.quiet (l := [.outputs]) (putPort_pool h) (emit_frame (by decide) (sendOsN_frame (by decide) .refl))

theorem execWakeStart_pool (h : PoolInv s) : EndsIn PoolInv (execWakeStart p s) :=
  ifRuns_endsIn h <| when_endsIn h <| PoolInv.quiet (l := [.outputs]) (putPort_pool h) (sendOsN_frame (by decide) .refl)

theorem execWakeLockTimeout_pool (h : PoolInv s) : EndsIn PoolInv (execWakeLockTimeout p s) :=
  ifRuns_endsIn h <| when_endsIn h (portDown_pool h)

theorem execChnNeigh_pool (h : PoolInv s) : EndsIn PoolInv (execChnNeigh p s) :=
  ifRuns_endsIn h <| when_endsIn h <|
    .ite (fun _ => portDown_pool (raise_pool (putPort_pool h))) fun _ => raise_pool (putPort_pool h)

theorem execInvalidSyncHeader_pool {b : Bool} (h : PoolInv s) : EndsIn PoolInv (execInvalidSyncHeader p b s) :=
  ifRuns_endsIn h (.next (badBlock_pool h))

end PortCommands

/-! ### Frames and messages -/

section FrameCommands
variable {s : State} {p : Fin 2} {b : Bytes} {id : Nat}

theorem countSkipped_pool {f : PoolFrame} (h : PoolInv s) : PoolInv (countSkipped f s) :=
  h.quiet (countSkipped_frame (l := [.time]) (by decide) .refl)

theorem execFrameHeaderParsed_pool (h : PoolInv s) : EndsIn PoolInv (execFrameHeaderParsed p b s) := by
  refine ifRuns_endsIn h <| when_endsIn h ?_
  have hheld : PoolInv (onChain (fun c => { c with free := c.free - 2 }) s) := onChain_pool h
  refine .ite (fun _ => updPort_pool (countSkipped_pool ?_)) fun _ => updPort_pool hheld
  exact addFrame_pool rfl (updPort_pool hheld)

theorem execFrameReceived_pool {e m : Bool} (h : PoolInv s) : EndsIn PoolInv (execFrameReceived p b e m s) := by
  unfold execFrameReceived
  refine ifRuns_endsIn h ?_
  split
  · exact .next h
  · refine .ite (fun _ => .next (cutRx_pool h)) fun _ => ?_
    extract_lets crc u v
    have hv : PoolInv v := clearStale_pool (onChain_pool (updPort_pool h))
    exact .ite (fun _ => .next (trialError_pool (frameBad_pool (updPort_pool hv)))) fun _ =>
      .ite (fun _ => .next (frameBad_pool hv)) fun _ => .next (frameGood_pool (updPort_pool hv))

theorem execFrameCut_pool {n : Nat} (h : PoolInv s) : EndsIn PoolInv (execFrameCut p n s) := ifRuns_endsIn h (.next (cutRx_pool h))

theorem execEgressStart_pool (h : PoolInv s) : EndsIn PoolInv (execEgressStart p s) := by
  unfold execEgressStart
  refine ifRuns_endsIn h <| .ite (fun _ => .next h) fun _ => ?_
  split
  · exact .next h
  · exact .next (updPort_pool (countSkipped_pool (readParity_pool (readQueue_pool h))))

theorem execFrameSent_pool (h : PoolInv s) : EndsIn PoolInv (execFrameSent p s) := by
  unfold execFrameSent
  refine ifRuns_endsIn h ?_
  split
  · exact .next h
  · split
    · exact .next (updPort_pool h)
    · refine .ite (fun _ => .next h) fun _ => ?_
      extract_lets c u v bytes w x y
      have hv : PoolInv v := updPort_pool (putCred_pool h)
      have hw : PoolInv w := hv.quiet (l := [.outputs]) (laneSend_frame (by decide) (emit_frame (by decide) .refl))
      have hx : PoolInv x := txEnds_pool (doneWith_pool hw)
      exact .next (.ite (fun _ => acceptStep_pool hx) fun _ => hx)

theorem execChnPoolAudit_pool (h : PoolInv s) : EndsIn PoolInv (execChnPoolAudit s) :=
  ifRuns_endsIn h <| when_endsIn h <| raise_pool <| .ite (fun _ => h) fun _ => onChain_pool h

theorem execChnStale_pool {q : Fin 64} (h : PoolInv s) : EndsIn PoolInv (execChnStale q s) :=
  ifRuns_endsIn h <| when_endsIn h <| raise_pool (onChain_pool h)

theorem enqueueAll_pool (ps : List Nat) : ∀ {s : State}, PoolInv s → PoolInv (enqueueAll id ps s) := by
  induction ps with
  | nil => exact fun h => h
  | cons p r ih => exact fun h => ih (enqueue_pool h)

theorem execNetTx_pool (h : PoolInv s) : EndsIn PoolInv (execNetTx id s) := by
  have hend : ∀ {u st r}, PoolInv u → PoolInv (complete id st r u) := fun hu => hu.quiet (complete_frame (l := [.rings]) (by decide) .refl)
  unfold execNetTx
  refine runOp_endsIn h fun d => ?_
  extract_lets up
  split
  · refine .ite (fun _ => hend h) fun _ => .ite (fun _ => h) fun _ => ?_
    exact PoolInv.quiet (l := [.outputs, .link, .rings]) (addFrame_pool rfl h) (startRead_frame (by decide) .refl)
  · refine .ite (fun _ => hend (dropFrame_pool h)) fun _ => ?_
    split
    · exact h
    · refine .ite (fun _ => hend (dropFrame_pool h)) fun _ => clearStale_pool ?_
      exact PoolInv.quiet (l := [.rings]) (onChain_pool (enqueueAll_pool _ (updFrame_pool h))) (updDesc_frame (by decide) .refl)

theorem execNetRxPost_pool (h : PoolInv s) : EndsIn PoolInv (execNetRxPost id s) := by
  refine runOp_endsIn h fun d => .ite (fun _ => h.quiet (complete_frame (l := [.rings]) (by decide) .refl)) fun _ => fillHost_pool _ ?_
  exact onChain_pool (h.quiet (updDesc_frame (l := [.rings]) (by decide) .refl))

theorem execServiceMessage_pool {m : Option Bytes} (h : PoolInv s) : EndsIn PoolInv (execServiceMessage m s) := by
  unfold execServiceMessage
  refine ifRuns_endsIn h <| .ite (fun _ => .next h) fun _ => ?_
  split
  · exact .next (.ite (fun _ => handleSvc_pool h) fun _ => h)
  · split
    · exact .next h
    · split
      · exact .next (onChain_pool h)
      · extract_lets u v
        have hv : PoolInv v := doneWith_pool (onChain_pool (readParity_pool (readQueue_pool h)))
        exact .ite (fun _ => .next hv) fun _ => .ite (fun _ => .next (onChain_pool hv)) fun _ => .next (handleSvc_pool hv)

theorem execHelloTransmit_pool (h : PoolInv s) : EndsIn PoolInv (execHelloTransmit s) :=
  ifRuns_endsIn h <| when_endsIn h (helloOn_pool (helloOn_pool h))

theorem execFwRequestTimer_pool (h : PoolInv s) : EndsIn PoolInv (execFwRequestTimer s) := by
  unfold execFwRequestTimer
  refine ifRuns_endsIn h ?_
  split
  · exact .next h
  · exact when_endsIn h (sendBoth_pool h)

theorem execBootFailStatusTimer_pool (h : PoolInv s) : EndsIn PoolInv (execBootFailStatusTimer s) :=
  ifRuns_endsIn h <| when_endsIn h <| sendBoth_pool (h.quiet (freshFree_frame (l := [.freeCtr]) (by decide) .refl))

theorem execPtpSync_pool {d : Fin 2} {m : SyncSeen} (h : PoolInv s) : EndsIn PoolInv (execPtpSync d m s) :=
  ifRuns_endsIn h <| when_endsIn h <| sendMgmt_pool (h.quiet (putDom_frame (l := [.time]) (by decide) .refl))

end FrameCommands

/-! ### Register writes -/

section Registers
variable {s : State} {l : Bool} {o v : Nat}

theorem writeSq_pool {n : Fin 32} (h : PoolInv s) : EndsIn PoolInv (writeSq l n o v s) := by
  unfold writeSq
  dsimp only
  split
  case h_3 => exact .ite (fun _ => execSqEnable_goes.pool h) fun _ => execSqDrain_pool h
  all_goals (repeat' split) <;> exact .next h

theorem writeCq_pool {n : Fin 32} (h : PoolInv s) : EndsIn PoolInv (writeCq l n o v s) := by
  unfold writeCq
  dsimp only
  split
  case h_3 => exact .ite (fun _ => execCqEnable_goes.pool h) fun _ => execCqDisable_goes.pool h
  all_goals (repeat' split) <;> exact .next h

theorem writeHif_pool (h : PoolInv s) : EndsIn PoolInv (writeHif l o v s) := by
  unfold writeHif
  refine .ite (fun _ => writeSq_pool h) fun _ => .ite (fun _ => writeCq_pool h) fun _ => ?_
  (repeat' split)
  case h_1 => exact execApply_goes.pool h
  all_goals exact .next h

theorem writeCmp_pool (h : PoolInv s) : EndsIn PoolInv (writeCmp l o v s) := by
  unfold writeCmp
  dsimp only
  (repeat' split) <;> exact .next h

theorem writeFrm_pool (h : PoolInv s) : EndsIn PoolInv (writeFrm o v s) := by
  unfold writeFrm
  dsimp only
  split <;> exact .next h

theorem writeFrd_pool {f : Nat} (h : PoolInv s) : EndsIn PoolInv (writeFrd l f o v s) := by
  unfold writeFrd
  dsimp only
  split
  case h_5 => exact .next (.ite (fun _ => h.quiet (writeDiagCfg_frame (l := [.outputs, .cal, .time]) (by decide) .refl)) fun _ => h)
  all_goals (repeat' split) <;> exact .next h

theorem writeStr_pool (h : PoolInv s) : EndsIn PoolInv (writeStr o v s) := .next (.ite (fun _ => h) fun _ => h)

theorem writeTil_pool {n : Nat} (h : PoolInv s) : EndsIn PoolInv (writeTil n o v s) := .next (.ite (fun _ => h) fun _ => h)

theorem writeLdg_pool (h : PoolInv s) : EndsIn PoolInv (writeLdg l o v s) := by
  unfold writeLdg
  split
  case h_1 => exact .next (.ite (fun _ => h.quiet (writeLdgCtrl_frame (l := [.outputs, .tiles, .time]) (by decide) .refl)) fun _ => h)
  all_goals exact .next h

theorem writeSaf_pool (h : PoolInv s) : EndsIn PoolInv (writeSaf l o v s) := by
  unfold writeSaf
  split
  case h_1 => exact execSafeLock_goes.pool h
  all_goals exact .next h

theorem writeFlt_pool (h : PoolInv s) : EndsIn PoolInv (writeFlt l o v s) := by
  unfold writeFlt
  refine .ite (fun _ => .ite (fun _ => .next h) fun _ => ?_) fun _ => ?_
  · (repeat' split) <;> exact .next h
  · split
    case h_1 => exact execRearm_goes.pool h
    all_goals exact .next h

theorem writeCal_pool (h : PoolInv s) : EndsIn PoolInv (writeCal l o v s) := by
  unfold writeCal
  dsimp only
  split <;> exact .next h

theorem writeThm_pool (h : PoolInv s) : EndsIn PoolInv (writeThm l o v s) := by
  unfold writeThm
  refine .ite (fun _ => .next (.ite (fun _ => h) fun _ => h)) fun _ => ?_
  split
  case h_2 => exact execUnfreeze_goes.pool h
  all_goals exact .next h

theorem writePort_pool {p : Fin 2} (h : PoolInv s) : EndsIn PoolInv (writePort l p o v s) := by
  unfold writePort
  dsimp only
  refine .ite (fun _ => .next (.ite (fun _ => putCred_pool h) fun _ => h)) fun _ => ?_
  split
  case h_1 =>
    exact .ite (fun _ => execRetrain_pool h) fun _ => .ite (fun _ => execPortEnable_pool h) fun _ => execPortDisable_pool h
  all_goals exact .next h

theorem writeChn_pool (h : PoolInv s) : EndsIn PoolInv (writeChn l o v s) := by
  unfold writeChn
  refine .ite (fun _ => writePort_pool h) fun _ => .ite (fun _ => .next (.ite (fun _ => onChain_pool h) fun _ => h)) fun _ =>
    .ite (fun _ => .next (.ite (fun _ => onChain_pool h) fun _ => h)) fun _ => .ite (fun _ => .next h) fun _ => ?_
  split
  case h_2 | h_3 => exact .next (.ite (fun _ => onChain_pool h) fun _ => h)
  case h_7 => exact .next h
  all_goals exact .next (onChain_pool h)

theorem writeTim_pool (h : PoolInv s) : EndsIn PoolInv (writeTim l o v s) := by
  unfold writeTim
  split
  case h_2 | h_3 => exact execDomainEnWrite_goes.pool h
  all_goals (repeat' split) <;> exact .next h

theorem writeNvm_pool (h : PoolInv s) : EndsIn PoolInv (writeNvm l o v s) := by
  unfold writeNvm
  split <;> exact .next h

theorem writeCrc_pool (h : PoolInv s) : EndsIn PoolInv (writeCrc l o v s) := .next (.ite (fun _ => h) fun _ => h)

theorem writePwr_pool (h : PoolInv s) : EndsIn PoolInv (writePwr l o v s) := by
  unfold writePwr
  dsimp only
  split
  case h_3 => exact execSwrstKey_pool h
  all_goals exact .next h

theorem writeReg_pool (h : PoolInv s) : EndsIn PoolInv (writeReg l o v s) :=
  .ite (fun _ => .next h) fun _ => .ite (fun _ => writeHif_pool h) fun _ => .ite (fun _ => .next h) fun _ =>
    .ite (fun _ => writeCmp_pool h) fun _ => .ite (fun _ => writeFrm_pool h) fun _ => .ite (fun _ => writeFrd_pool h) fun _ =>
    .ite (fun _ => .next h) fun _ => .ite (fun _ => writeStr_pool h) fun _ => .ite (fun _ => writeTil_pool h) fun _ =>
    .ite (fun _ => .next h) fun _ => .ite (fun _ => writeLdg_pool h) fun _ => .ite (fun _ => writeSaf_pool h) fun _ =>
    .ite (fun _ => writeFlt_pool h) fun _ => .ite (fun _ => writeCal_pool h) fun _ => .ite (fun _ => writeThm_pool h) fun _ =>
    .ite (fun _ => writeChn_pool h) fun _ => .ite (fun _ => writeTim_pool h) fun _ => .ite (fun _ => writeNvm_pool h) fun _ =>
    .ite (fun _ => writeCrc_pool h) fun _ => .ite (fun _ => writePwr_pool h) fun _ => .next h

theorem writeWord_pool {w : BitVec 32} {e : BitVec 4} (h : PoolInv s) : EndsIn PoolInv (writeWord o w e s) :=
  .ite (fun _ => writeReg_pool h) fun _ => .next h

theorem execRegisterWrite_pool {w : BitVec 32} {e : BitVec 4} {hi : Option (BitVec 32 × BitVec 4)} (h : PoolInv s) :
    EndsIn PoolInv (execRegisterWrite o w s e hi) :=
  execRegisterWrite_endsIn h (writeWord_pool h) fun _ _ _ _ ht => writeWord_pool ht

end Registers

/-! ### All commands -/

/-- Every command keeps the numbering of the pool. -/
theorem exec_pool (c : Instr) {s : State} (h : PoolInv s) : EndsIn PoolInv (exec c s) := by
  by_cases hq : (touches c).contains .chain = false
  · exact (exec_goes c s).pool h (by simpa using hq)
  cases c
  case vinRisePor => exact execVinRisePor_pool h
  case resetNLow => exact execResetNLow_pool h
  case swrstKey => exact execSwrstKey_pool h
  case armReset => exact execArmReset_pool h
  case scheduledBoot => exact execScheduledBoot_pool h
  case vinRemoval => exact execVinRemoval_pool
  case railUndervoltage => exact execRailUndervoltage_pool h
  case nvmRecordComplete => exact execNvmRecordComplete_pool h
  case clockReferenceFail => exact execClockReferenceFail_pool h
  case clockReferenceReturn => exact execClockReferenceReturn_pool h
  case faultCollectorStart => exact execFaultCollectorStart_pool h
  case dmaResume => exact execDmaResume_pool h
  case registerWrite => exact execRegisterWrite_pool h
  case sqDrain => exact execSqDrain_pool h
  case tileRemoval => exact execTileRemoval_pool h
  case tileBusRetry => exact execTileBusRetry_pool h
  case tileIdentityStep => exact execTileIdentityStep_pool h
  case gainRecompute => exact execGainRecompute_pool h
  case periodicLedgerCommit => exact execPeriodicLedgerCommit_pool h
  case commitReadback => exact execCommitReadback_pool h
  case portEnable => exact execPortEnable_pool h
  case portDisable => exact execPortDisable_pool h
  case retrain => exact execRetrain_pool h
  case blockLock => exact execBlockLock_pool h
  case blockLockLoss => exact execBlockLockLoss_pool h
  case lossOfSignal => exact execLossOfSignal_pool h
  case signalDetect => exact execSignalDetect_pool h
  case cap => exact execCap_pool h
  case creditInit => exact execCreditInit_pool h
  case credit => exact execCredit_pool h
  case stepRequest => exact execStepRequest_pool h
  case stepAccept => exact execStepAccept_pool h
  case stepRefuse => exact execStepRefuse_pool h
  case stepResult => exact execStepResult_pool h
  case stepUpStart => exact execStepUpStart_pool h
  case stepAcceptTimeout => exact execStepAcceptTimeout_pool h
  case stepSwitchTimeout => exact execStepSwitchTimeout_pool h
  case stepTrialEnd => exact execStepTrialEnd_pool h
  case sleep => exact execSleep_pool h
  case wake => exact execWake_pool h
  case down => exact execDown_pool h
  case chnTrain => exact execChnTrain_pool h
  case backoffEnd => exact execBackoffEnd_pool h
  case sleepEntry => exact execSleepEntry_pool h
  case wakeStart => exact execWakeStart_pool h
  case wakeLockTimeout => exact execWakeLockTimeout_pool h
  case chnNeigh => exact execChnNeigh_pool h
  case invalidSyncHeader p b => exact execInvalidSyncHeader_pool (b := b) h
  case frameHeaderParsed => exact execFrameHeaderParsed_pool h
  case frameReceived => exact execFrameReceived_pool h
  case frameCut => exact execFrameCut_pool h
  case egressStart => exact execEgressStart_pool h
  case frameSent => exact execFrameSent_pool h
  case chnPoolAudit => exact execChnPoolAudit_pool h
  case chnStale => exact execChnStale_pool h
  case netTx => exact execNetTx_pool h
  case netRxPost => exact execNetRxPost_pool h
  case serviceMessage => exact execServiceMessage_pool h
  case helloTransmit => exact execHelloTransmit_pool h
  case fwRequestTimer => exact execFwRequestTimer_pool h
  case bootFailStatusTimer => exact execBootFailStatusTimer_pool h
  case ptpSync => exact execPtpSync_pool h
  all_goals exact absurd rfl hq

/-- Settles O55: the front command keeps the numbering, and a clock on an empty queue leaves the chain. -/
theorem poolInvKept : Obligations.PoolInvKept := by
  intro s t hs hstep
  cases hp : s.pending with
  | nil =>
    rw [step_idle hp] at hstep
    cases hstep
    exact hs.quiet (idle_frame (l := [.time]) (by decide) .refl)
  | cons c r =>
    rw [step_front hp] at hstep
    exact exec_pool c (s := { s with pending := r }) hs t hstep

end Sys2Proof.Machine
end
section
/-! PROOF. The write inhibit and the thermal shutdown: what waits for the NVM, the events, the darkened chip (12). -/

set_option autoImplicit false
set_option Elab.async false

namespace Sys2Proof.Machine

/-! ### A thermal event -/

section Inhibit
variable {s : State}

/-- A thermal event is one event of type 3 behind those to be posted (R430). -/
theorem thermEvent_posts {kind : Nat} {dom sensor : Option Nat} :
    ∃ e : Event, (thermEvent kind dom sensor s).rings.events = s.rings.events ++ [e] ∧ e.typ = 3 := ⟨_, rfl, rfl⟩

/-- While the management processor runs it posts the event of the inhibit comparator (R430 R432). -/
theorem inhibitEvent_posts {kind : Nat} (hr : runs .mp s = true) :
    ∃ e : Event, (inhibitEvent kind s).rings.events = s.rings.events ++ [e] ∧ e.typ = 3 := by
  rw [inhibitEvent, if_pos hr]
  exact thermEvent_posts

theorem inhibitEvent_power {kind : Nat} : (inhibitEvent kind s).power = s.power :=
  SameBut.power_eq (l := [.freeCtr, .rings]) (inhibitEvent_frame (by decide) .refl)

theorem inhibitEvent_nvm {kind : Nat} : (inhibitEvent kind s).nvm = s.nvm :=
  SameBut.nvm_eq (l := [.freeCtr, .rings]) (inhibitEvent_frame (by decide) .refl)

theorem inhibitEvent_drives {kind n : Nat} (h : Drives n s) : Drives n (inhibitEvent kind s) :=
  h.of_frame (l := [.freeCtr, .rings]) (inhibitEvent_frame (by decide) .refl)

/-! ### Refused records -/

theorem complete_events {id st : Nat} {b : Bytes} : (complete id st b s).rings.events = s.rings.events := by
  unfold complete
  split
  · rfl
  · rfl

theorem complete_nvm_queue {id st : Nat} {b : Bytes} : (complete id st b s).nvm.queue = s.nvm.queue := by rw [complete_nvm]

/-- A refusal takes no other record from the queue and posts no event (R432). -/
theorem refuseRec_keeps {r : Rec} :
    (refuseRec r s).nvm.queue = s.nvm.queue ∧ (refuseRec r s).rings.events = s.rings.events := by
  unfold refuseRec
  split
  · exact ⟨complete_nvm_queue, complete_events⟩
  · exact ⟨complete_nvm_queue, complete_events⟩
  · exact ⟨rfl, rfl⟩
  · exact ⟨rfl, rfl⟩
  · exact ⟨rfl, rfl⟩

theorem refuseAll_keeps {l : List Rec} :
    (refuseAll l s).nvm.queue = s.nvm.queue ∧ (refuseAll l s).rings.events = s.rings.events := by
  induction l generalizing s with
  | nil => exact ⟨rfl, rfl⟩
  | cons r rs ih =>
    obtain ⟨hq, he⟩ := ih (s := refuseRec r s)
    exact ⟨hq.trans refuseRec_keeps.1, he.trans refuseRec_keeps.2⟩

/-- The trip leaves the record in progress and the exempt ones (R432). -/
theorem inhibitQueue_queue :
    (inhibitQueue s).nvm.queue = s.nvm.queue.take 1 ++ (s.nvm.queue.drop 1).filter exemptRec := refuseAll_keeps.1

theorem inhibitQueue_events : (inhibitQueue s).rings.events = s.rings.events := refuseAll_keeps.2

theorem inhibitQueue_power : (inhibitQueue s).power = s.power :=
  SameBut.power_eq (l := [.rings, .safety, .cal, .nvm]) (inhibitQueue_frame (by decide) .refl)

/-! ### The comparator -/

/-- The management processor runs whatever the inhibit comparator says (R48). -/
theorem runs_mp_of_inhibit {t : State} {b c : Bool} (hp : t.power = { s.power with inhibit := b, inhibitSeen := c }) :
    runs .mp t = runs .mp s := by
  simp only [runs, hp]

theorem nvmInhibitTrip_yields (hi : s.power.inhibit = false) :
    Yields .nvmInhibitTrip s fun t => t.power = { s.power with inhibit := true, inhibitSeen := true }
      ∧ t.nvm.queue = s.nvm.queue.take 1 ++ (s.nvm.queue.drop 1).filter exemptRec ∧ Drives 219 t
      ∧ (runs .mp s = true → ∃ e : Event, t.rings.events = s.rings.events ++ [e] ∧ e.typ = 3)
      ∧ SameBut [.freeCtr, .power, .rings, .safety, .faults, .cal, .nvm] s t := by
  have htrip : (raise 219 (inhibitQueue { s with power := { s.power with inhibit := true, inhibitSeen := true } })).power
      = { s.power with inhibit := true, inhibitSeen := true } := (raise_power _ _).trans inhibitQueue_power
  refine .framed <| show ∃ t, execNvmInhibitTrip s = .next t ∧ _ from
    when_yields (by simp [hi]) fun hf => ⟨?_, ?_, inhibitEvent_drives (raise_drives _ _), fun hr => ?_, hf⟩
  · rw [inhibitEvent_power, htrip]
  · rw [inhibitEvent_nvm, raise_nvm, inhibitQueue_queue]
  · obtain ⟨e, he, ht⟩ := inhibitEvent_posts (kind := 6) ((runs_mp_of_inhibit htrip).trans hr)
    exact ⟨e, he.trans (by rw [raise_rings, inhibitQueue_events]), ht⟩

theorem nvmInhibitRelease_yields (hi : s.power.inhibit = true) :
    Yields .nvmInhibitRelease s fun t => t.power = { s.power with inhibit := false } ∧ Drives 219 t
      ∧ (runs .mp s = true → ∃ e : Event, t.rings.events = s.rings.events ++ [e] ∧ e.typ = 3)
      ∧ SameBut [.freeCtr, .power, .rings, .faults] s t := by
  have hlift : (raise 219 { s with power := { s.power with inhibit := false } }).power = { s.power with inhibit := false } :=
    raise_power _ _
  refine .framed <| show ∃ t, execNvmInhibitRelease s = .next t ∧ _ from
    when_yields hi fun hf => ⟨?_, inhibitEvent_drives (raise_drives _ _), fun hr => ?_, hf⟩
  · rw [inhibitEvent_power, hlift]
  · obtain ⟨e, he, ht⟩ := inhibitEvent_posts (kind := 7) ((runs_mp_of_inhibit hlift).trans hr)
    exact ⟨e, he.trans (by rw [raise_rings]), ht⟩

/-! ### The shutdown -/

theorem lightOff_nvm : (lightOff s).nvm = s.nvm :=
  SameBut.nvm_eq (l := [.strip, .tiles, .chans]) (lightOff_frame (by decide) .refl)

theorem tensOff_nvm {n : Nat} : (tensOff n s).nvm = s.nvm :=
  SameBut.nvm_eq (l := [.strip, .tiles]) (tensOff_frame (by decide) .refl)

/-- With the light taken off and the tiles' enables low both outputs are low (R434). -/
theorem tensOff_lightOff_slo {n : Nat} {c : Chan} : (chanOf (tensOff n (lightOff s)) c).slo = false := by
  rw [SameBut.chanOf_eq (l := [.strip, .tiles]) (tensOff_frame (by decide) .refl), chanOf_lightOff, lowered]

theorem thermalShutdown_yields (hl : s.power.thermLatch = false) :
    Yields .thermalShutdown s fun t => t.power = { s.power with thermLatch := true } ∧ (∀ c, (chanOf t c).slo = false)
      ∧ (∀ n, n < 8 → (tileOf t n).enabled = false)
      ∧ t.nvm = { s.nvm with queue := s.nvm.queue.take (begun s) ++ [{ page := 0, bytes := shutdownBytes s, why := .shutdown }] }
      ∧ SameBut [.power, .strip, .tiles, .chans, .nvm] s t := by
  refine .framed <| show ∃ t, execThermalShutdown s = .next t ∧ _ from
    when_yields (by simp [hl]) fun hf => ⟨?_, fun _ => tensOff_lightOff_slo, fun n => tensOff_enabled 8 n _, ?_, hf⟩
  · rw [tensOff_power, lightOff_power, onNvm_power]
  · rw [tensOff_nvm, lightOff_nvm, onNvm_nvm]

end Inhibit

/-- Settles O37: a trip refuses what waits and is not exempt, a shutdown takes the light off and leaves the shutdown record. -/
theorem inhibitAndShutdown : Obligations.InhibitAndShutdown :=
  ⟨fun _ => nvmInhibitTrip_yields, fun _ => nvmInhibitRelease_yields, fun _ => thermalShutdown_yields⟩

end Sys2Proof.Machine
end
section
/-! PROOF. Calibration: what a `CAL_RUN` starts, and what the ratios of a channel set (12). -/

set_option autoImplicit false
set_option Elab.async false

namespace Sys2Proof.Machine

/-! ### `CAL_RUN` -/

section Start
variable {s : State} {id : Nat} {d : Desc}

/-- A descriptor is taken by its unit whatever calibration and thermal management then do. -/
theorem descOf_taken_of {t : State} (h : descOf s id = some d)
    (hk : SameBut [.cal, .therm] (updDesc id (fun d => { d with taken := true }) s) t) : descOf t id = some { d with taken := true } := by
  rw [descOf, hk.rings_eq]
  exact descOf_taken h

theorem calRun_full_starts (hr : Runs s id 0x40 d) (hc : le d.bytes 16 2 = 0xFFFF) (hn : s.cal.running = false) :
    Yields (.calRun id) s fun t => t.cal.running = true ∧ t.cal.todo = List.range 192 ∧ t.cal.retry = [] ∧ t.cal.second = false
      ∧ t.cal.tCal = s.cal.tC ∧ (∃ w ∈ t.cal.waits, w.id = id ∧ w.channel = none ∧ w.queued = false)
      ∧ t.therm.demands = s.therm.demands ++ [{ mask := 15 }] ∧ descOf t id = some { d with taken := true }
      ∧ SameBut [.rings, .cal, .therm] s t := by
  refine .framed ⟨_, (runOp_runs hr).trans (congrArg _ ((if_pos hc).trans (if_neg (ne_true_of_eq_false hn)))), fun hf =>
    ⟨rfl, rfl, rfl, rfl, rfl, ⟨_, List.mem_append_right _ (List.mem_singleton_self _), rfl, rfl, rfl⟩, rfl, ?_, hf⟩⟩
  exact descOf_taken_of hr.desc (onCal_frame (by decide) (startFull_frame (by decide) .refl))

theorem calRun_full_waits (hr : Runs s id 0x40 d) (hc : le d.bytes 16 2 = 0xFFFF) (hn : s.cal.running = true) :
    Yields (.calRun id) s fun t => t.cal = { s.cal with queued := true, waits := s.cal.waits ++ [{ id, channel := none, queued := true }] }
      ∧ descOf t id = some { d with taken := true } ∧ SameBut [.rings, .cal] s t :=
  ⟨_, (runOp_runs hr).trans (congrArg _ ((if_pos hc).trans (if_pos hn))), rfl,
    descOf_taken_of hr.desc (onCal_frame (by decide) .refl), onCal_frame (by decide) (updDesc_frame (by decide) .refl)⟩

/-- A single channel is measured at once: with no run in progress it demands the temperatures itself (R410 R419). -/
theorem calRun_single (hr : Runs s id 0x40 d) (hc : le d.bytes 16 2 ≠ 0xFFFF) :
    Yields (.calRun id) s fun t => t.cal = { s.cal with
        singles := s.cal.singles ++ [le d.bytes 16 2], waits := s.cal.waits ++ [{ id, channel := some (le d.bytes 16 2) }] }
      ∧ descOf t id = some { d with taken := true } ∧ SameBut [.rings, .cal, .therm] s t := by
  refine .framed ⟨_, (runOp_runs hr).trans (congrArg _ (if_neg hc)), fun hf => ⟨?_, ?_, hf⟩⟩
  · dsimp only
    split
    · rfl
    · rfl
  · exact descOf_taken_of hr.desc (.after (.ite (fun _ => .refl) fun _ => demandCal_frame (by decide) .refl) (onCal_frame (by decide) .refl))

end Start

/-! ### The ratios of a channel -/

section Ratios
variable {s : State} {c hi lo k : Nat} {single : Bool} {v : Int}

/-- The channel with its `ERR` written (R442). -/
def errWritten (c hi : Nat) (s : State) : State := putCal (calErr hi s).2 c { calOf (calErr hi s).2 c with err := (calErr hi s).1 }

/-- The channel with a drift offset. -/
def drifted (c : Nat) (x : Int) (s : State) : State := putCal s c { calOf s c with delta := x }

theorem errWritten_calOf : calOf (errWritten c hi s) k = if k = c then { calOf s c with err := (calErr hi s).1 } else calOf s k :=
  calOf_putCal _ _ _ _

theorem errWritten_tInterp : tInterp (errWritten c hi s) k = tInterp s k := rfl

theorem drifted_calOf {x : Int} : calOf (drifted c x s) k = if k = c then { calOf s c with delta := x } else calOf s k :=
  calOf_putCal _ _ _ _

theorem setTrim_calOf {x : Nat} : calOf (setTrim c x s) k = if k = c then { calOf s c with trim := x } else calOf s k := by
  unfold setTrim
  split
  · next h =>
    split
    · next hk => subst hk; rw [← h]
    · rfl
  · exact calOf_putCal _ _ _ _

/-- A trim is a channel's alone: the run and its counts go on (R408). -/
theorem setTrim_run {x : Nat} : (setTrim c x s).cal.todo = s.cal.todo ∧ (setTrim c x s).cal.ranges = s.cal.ranges := by
  unfold setTrim
  split
  · exact ⟨rfl, rfl⟩
  · exact ⟨rfl, rfl⟩

/-- So is a drift offset with the `ERR` that led to it. -/
theorem drifted_run {x : Int} : (drifted c x (errWritten c hi s)).cal.todo = s.cal.todo
    ∧ (drifted c x (errWritten c hi s)).cal.ranges = s.cal.ranges := ⟨rfl, rfl⟩

theorem clampI_of_mem {lo hi x : Int} (hl : lo ≤ x) (hh : x ≤ hi) : clampI lo hi x = x := by
  unfold clampI
  omega

theorem judgeRatios_bad (hb : hi < 900000 ∨ 1100000 < hi ∨ 5000 < max hi lo - min hi lo) :
    judgeRatios c single hi lo s = calRange c single (errWritten c hi s) := if_pos hb

/-- Ratios in range give the channel its drift offset and its trim (R413). -/
theorem judgeRatios_good (hl : 900000 ≤ hi) (hh : hi ≤ 1100000) (hd : max hi lo - min hi lo ≤ 5000)
    (hv : v = 64 + roundAway ((936 + ((calOf s c).trim : Int)) * 1000000 - 1000 * hi) hi) (h0 : 0 ≤ v) (h1 : v ≤ 127)
    (h24 : (v - tInterp s c).natAbs ≤ 24) :
    judgeRatios c single hi lo s = setTrim c v.toNat (drifted c (v - tInterp s c) (errWritten c hi s)) := by
  have hin : ¬ (hi < 900000 ∨ 1100000 < hi ∨ 5000 < max hi lo - min hi lo) := by omega
  have htrim : (calOf (errWritten c hi s) c).trim = (calOf s c).trim := by rw [errWritten_calOf, if_pos rfl]
  have hdrift : clampI (-24) 24 (v - tInterp s c) = v - tInterp s c := clampI_of_mem (by omega) (by omega)
  have hsum : tInterp s c + (v - tInterp s c) = v := by omega
  have hset : trimOf (drifted c (v - tInterp s c) (errWritten c hi s)) c = v.toNat := by
    rw [trimOf, drifted_calOf, if_pos rfl]
    show (clampI 0 127 (tInterp s c + (v - tInterp s c))).toNat = v.toNat
    rw [hsum, clampI_of_mem h0 h1]
  refine (if_neg hin).trans ?_
  dsimp only
  rw [← errWritten, htrim, ← hv, if_neg (by omega : ¬ (v < 0 ∨ 127 < v)), clampI_of_mem h0 h1, errWritten_tInterp,
    if_neg (by omega : ¬ 24 < (v - tInterp s c).natAbs), hdrift, ← drifted, hset]

/-- A full run with a channel still to measure does not end (R410). -/
theorem calEnd_goesOn (h : s.cal.todo ≠ []) : calEnd s = s := by
  have hopen : s.cal.todo.isEmpty = false := List.isEmpty_eq_false_iff.mpr h
  unfold calEnd
  simp only [hopen, Bool.and_false, Bool.false_and, Bool.false_eq_true, if_false]

/-- What follows the judgement of a full run's channel: its hold, and the gap's end (R412 R414). -/
def ratiosTaken (c old : Nat) (s : State) : State :=
  onCal (fun k => { k with now := if s.frm.inGap then some (c, false, false) else none })
    (putCal s c { calOf s c with hold := if (calOf s c).trim ≠ old then 2 else if s.frm.inGap then 1 else 0 })

theorem ratiosTaken_calOf {old : Nat} : calOf (ratiosTaken c old s) k
    = if k = c then { calOf s c with hold := if (calOf s c).trim ≠ old then 2 else if s.frm.inGap then 1 else 0 } else calOf s k :=
  calOf_putCal _ _ _ _

theorem ratiosTaken_ranges {old : Nat} : (ratiosTaken c old s).cal.ranges = s.cal.ranges := rfl

theorem ratiosTaken_delta {old : Nat} : (calOf (ratiosTaken c old s) c).delta = (calOf s c).delta := by
  rw [ratiosTaken_calOf, if_pos rfl]

theorem ratiosTaken_trim {old : Nat} : (calOf (ratiosTaken c old s) c).trim = (calOf s c).trim := by
  rw [ratiosTaken_calOf, if_pos rfl]

theorem ratiosTaken_other {old : Nat} (h : k ≠ c) : calOf (ratiosTaken c old s) k = calOf s k := by
  rw [ratiosTaken_calOf, if_neg h]

/-- The result of a channel of a full run that goes on: its ratios are judged, nothing ends (R412 R416). -/
theorem calResult_goesOn {c : Fin 192} {u : State} (hr : runs .mp s = true) (hn : s.cal.now = some (c.val, false, true))
    (hj : judgeRatios c.val false hi lo s = u) (ht : u.cal.todo ≠ []) :
    exec (.calResult c [hi, lo]) s = .next (ratiosTaken c.val (calOf s c.val).trim u) := by
  have hexec : exec (.calResult c [hi, lo]) s
      = .next (calEnd (ratiosTaken c.val (calOf s c.val).trim (judgeRatios c.val false hi lo s))) := by
    refine (ifRuns_runs hr).trans ?_
    rw [hn]
    exact if_neg (fun h => h rfl)
  rw [hexec, hj, calEnd_goesOn (s := ratiosTaken c.val (calOf s c.val).trim u) ht]

theorem calResult_good {c : Fin 192} (hr : runs .mp s = true) (hn : s.cal.now = some (c.val, false, true)) (ht : s.cal.todo ≠ [])
    (hl : 900000 ≤ hi) (hh : hi ≤ 1100000) (hd : max hi lo - min hi lo ≤ 5000)
    (hv : v = 64 + roundAway ((936 + ((calOf s c.val).trim : Int)) * 1000000 - 1000 * hi) hi) (h0 : 0 ≤ v) (h1 : v ≤ 127)
    (h24 : (v - tInterp s c.val).natAbs ≤ 24) :
    Yields (.calResult c [hi, lo]) s fun t => (calOf t c.val).delta = v - tInterp s c.val ∧ ((calOf t c.val).trim : Int) = v
      ∧ t.cal.ranges = s.cal.ranges ∧ (∀ k, k ≠ c.val → calOf t k = calOf s k)
      ∧ SameBut [.freeCtr, .rings, .cmp, .safety, .faults, .cal, .therm, .nvm] s t := by
  have hj := judgeRatios_good (single := false) hl hh hd hv h0 h1 h24
  have htodo : (setTrim c.val v.toNat (drifted c.val (v - tInterp s c.val) (errWritten c.val hi s))).cal.todo = s.cal.todo := by
    rw [setTrim_run.1, drifted_run.1]
  refine .framed ⟨_, calResult_goesOn hr hn hj (htodo.trans_ne ht), fun hf => ⟨?_, ?_, ?_, fun k hk => ?_, hf⟩⟩
  · rw [ratiosTaken_delta, setTrim_calOf, if_pos rfl, drifted_calOf, if_pos rfl]
  · rw [ratiosTaken_trim, setTrim_calOf, if_pos rfl]
    exact Int.toNat_of_nonneg h0
  · rw [ratiosTaken_ranges, setTrim_run.2, drifted_run.2]
  · rw [ratiosTaken_other hk, setTrim_calOf, if_neg hk, drifted_calOf, if_neg hk, errWritten_calOf, if_neg hk]

theorem calResult_bad {c : Fin 192} (hr : runs .mp s = true) (hn : s.cal.now = some (c.val, false, true)) (ht : s.cal.todo ≠ [])
    (hb : hi < 900000 ∨ 1100000 < hi ∨ 5000 < max hi lo - min hi lo) :
    Yields (.calResult c [hi, lo]) s fun t =>
      (calOf t c.val).delta = (calOf s c.val).delta ∧ (calOf t c.val).trim = (calOf s c.val).trim
        ∧ t.cal.ranges = satAdd 65535 s.cal.ranges 1 ∧ Drives 213 t ∧ (∀ k, k ≠ c.val → calOf t k = calOf s k)
        ∧ SameBut [.freeCtr, .rings, .cmp, .safety, .faults, .cal, .therm, .nvm] s t := by
  have hrange {k : Nat} : calOf (calRange c.val false (errWritten c.val hi s)) k = calOf (errWritten c.val hi s) k :=
    raise_calOf _ _ _
  refine .framed ⟨_, calResult_goesOn hr hn (judgeRatios_bad hb) (by rw [calRange, raise_cal]; exact ht), fun hf =>
    ⟨?_, ?_, ?_, raise_drives _ _, fun k hk => ?_, hf⟩⟩
  · rw [ratiosTaken_delta, hrange, errWritten_calOf, if_pos rfl]
  · rw [ratiosTaken_trim, hrange, errWritten_calOf, if_pos rfl]
  · rw [ratiosTaken_ranges, calRange, raise_cal]
    rfl
  · rw [ratiosTaken_other hk, hrange, errWritten_calOf, if_neg hk]

end Ratios

/-- Settles O35: a full run takes all channels, a single one goes first; ratios in range set drift and trim, others raise
`CAL_RANGE`. The comparisons in 10^-6 and the `TRIM` in the formula are the model's (notes/assumptions/21, /62). -/
theorem calibrationRuns : Obligations.CalibrationRuns :=
  ⟨fun _ _ _ => calRun_full_starts, fun _ _ _ => calRun_full_waits, fun _ _ _ => calRun_single,
    fun _ _ _ _ _ => calResult_good, fun _ _ _ _ => calResult_bad⟩

end Sys2Proof.Machine
end
section
/-! PROOF. The domains' clocks and the timed events: steps, rates, switches, armings, edges (14). -/

set_option autoImplicit false
set_option Elab.async false

namespace Sys2Proof.Machine

/-! ### What the output time rests on -/

/-- The domains and the output time of two states are the same: so are the instants they show. -/
structure SameClocks (s t : State) : Prop where
  doms : ∀ k, domOf t k = domOf s k
  now : t.time.now = s.time.now
  active : t.time.active = s.time.active
  slewTerm : t.time.slewTerm = s.time.slewTerm

section Clocks
variable {s t u : State} {d k id : Nat} {v x : Int}

theorem SameClocks.refl : SameClocks s s := ⟨fun _ => rfl, rfl, rfl, rfl⟩

theorem SameClocks.trans (a : SameClocks s t) (b : SameClocks t u) : SameClocks s u :=
  ⟨fun k => (b.doms k).trans (a.doms k), b.now.trans a.now, b.active.trans a.active, b.slewTerm.trans a.slewTerm⟩

theorem SameClocks.domTime_eq (h : SameClocks s t) : domTime t k = domTime s k := domTime_congr (h.doms k) h.now

theorem SameClocks.outTime_eq (h : SameClocks s t) : outTime t = outTime s := by
  rw [outTime, outTime, h.active, h.slewTerm, h.domTime_eq]

theorem TK.sameClocks (h : TK s t) : SameClocks s t := ⟨domOf_congr h.doms h.boot, h.now, h.active, h.slewTerm⟩

theorem SameBut.sameClocks {l : List Part} (h : SameBut l s t) (ht : .time ∉ l := by decide) (hb : .boot ∉ l := by decide) :
    SameClocks s t := by
  have htime := h.time_eq ht
  exact ⟨fun k => h.domOf_eq k ht hb, by rw [htime], by rw [htime], by rw [htime]⟩

theorem complete_sameClocks {st : Nat} {r : Bytes} : SameClocks s (complete id st r s) :=
  SameBut.sameClocks (l := [.rings]) (complete_frame (by decide) .refl)

/-- A domain set at this instant shows its base. -/
theorem domTime_at_now (h : (domOf s k).at_ = s.time.now) : domTime s k = (domOf s k).base := by
  simp [domTime, h]

/-! ### Steps (R511 R512) -/

/-- A domain whose time is moved. -/
def moved (d : Nat) (v : Int) (s : State) : State := remap d (fun x => { x with base := x.base + v, everSet := true }) s

theorem moved_self : domOf (moved d v s) d = { domOf s d with base := domTime s d + v, at_ := s.time.now, everSet := true } := by
  simp [moved, remap]

theorem moved_other (h : k ≠ d) : domOf (moved d v s) k = domOf s k := by
  simp [moved, remap, h]

theorem moved_domTime : domTime (moved d v s) d = domTime s d + v := by
  rw [domTime_at_now (by rw [moved_self]; rfl), moved_self]

theorem moved_outTime : outTime (moved d v s) = outTime s + if d = s.time.active then v else 0 := by
  show domTime (moved d v s) s.time.active + s.time.slewTerm = _
  split
  · next h => rw [← h, moved_domTime, outTime, h]; omega
  · next h => rw [domTime_congr (moved_other (Ne.symm h)) rfl, outTime]; omega

theorem outputStepped_sameClocks : SameClocks s (outputStepped v s) := by
  obtain ⟨u, hu, htime, -, hboot, -, -, -⟩ := stepped_all v s
  have hstep : SameClocks s u := ⟨domOf_congr (by rw [htime]) hboot, by rw [htime], by rw [htime], by rw [htime]⟩
  exact hstep.trans hu.sameClocks

/-- A step of the output time is counted, reported, and goes into the frame grid (R191 R512). -/
theorem outputStepped_told : Drives 324 (outputStepped v s) ∧ (outputStepped v s).time.steps = satAdd 65535 s.time.steps 1
    ∧ (outputStepped v s).frm.steps = s.frm.steps + v := by
  obtain ⟨u, hu, htime, hfrm, -, -, hdrive, -⟩ := stepped_all v s
  exact ⟨hu.drv 324 hdrive, by rw [hu.steps, htime], by rw [hu.frm, hfrm]⟩

theorem outputStepped_drives {m : Nat} (h : Drives m s) : Drives m (outputStepped v s) := by
  obtain ⟨u, hu, -, -, -, -, -, hkeep⟩ := stepped_all v s
  exact hu.drv m (hkeep m h)

theorem stepDomain_active (h : d = s.time.active) (hv : v ≠ 0) : stepDomain d v s = outputStepped v (moved d v s) := if_pos ⟨h, hv⟩

theorem stepDomain_other (h : d ≠ s.time.active) : stepDomain d v s = moved d v s := if_neg fun hc => h hc.1

theorem stepDomain_sameClocks : SameClocks (moved d v s) (stepDomain d v s) := by
  unfold stepDomain
  rw [← moved]
  dsimp only
  split
  · exact outputStepped_sameClocks
  · exact .refl

theorem stepDomain_domTime : domTime (stepDomain d v s) d = domTime s d + v := stepDomain_sameClocks.domTime_eq.trans moved_domTime

theorem stepDomain_self :
    domOf (stepDomain d v s) d = { domOf s d with base := domTime s d + v, at_ := s.time.now, everSet := true } :=
  (stepDomain_sameClocks.doms d).trans moved_self

theorem stepDomain_rings : (stepDomain d v s).rings = s.rings :=
  SameBut.rings_eq (l := [.outputs, .frm, .faults, .time]) (stepDomain_frame (by decide) .refl)

/-- A step of the active domain is one of the output time (R512). -/
theorem stepDomain_told (h : d = s.time.active) (hv : v ≠ 0) : Drives 324 (stepDomain d v s)
    ∧ (stepDomain d v s).time.steps = satAdd 65535 s.time.steps 1 ∧ (stepDomain d v s).frm.steps = s.frm.steps + v := by
  rw [stepDomain_active h hv]
  exact outputStepped_told

/-! ### `TIME_ADJ` (R516 R517) -/

/-- A `TIME_ADJ` of a mode, on a domain that no servo runs, has that mode's effect. -/
theorem runTimeAdj_runs {mode : Nat} {D : Desc} {f : Nat → Int → State → State} (hr : Runs s id 0x50 D) (hm : le D.bytes 17 1 = mode)
    (he : mode < 3 → (domOf s (le D.bytes 16 1)).en = false) :
    runTimeAdj id mode f s = .next (f (le D.bytes 16 1) (signed 64 (le D.bytes 24 8)) s) := by
  refine (runOp_runs hr).trans (congrArg _ ((if_neg (not_not_intro hm)).trans (if_neg fun h => ?_)))
  rw [he h.1] at h
  exact Bool.false_ne_true h.2

/-- While a servo runs the domain modes 0 to 2 complete `BUSY` (R517). -/
theorem runTimeAdj_busy {mode : Nat} {D : Desc} {f : Nat → Int → State → State} (hr : Runs s id 0x50 D) (hm : le D.bytes 17 1 = mode)
    (h3 : mode < 3) (he : (domOf s (le D.bytes 16 1)).en = true) : runTimeAdj id mode f s = .next (complete id stBUSY [] s) :=
  (runOp_runs hr).trans (congrArg _ ((if_neg (not_not_intro hm)).trans (if_pos ⟨h3, he⟩)))

/-- A completion behind an effect that leaves the rings alone. -/
theorem completed_after {D : Desc} {st : Nat} {r : Bytes} (hr : descOf s id = some D) (ht : t.rings = s.rings) :
    Completed id D st r s (complete id st r t) :=
  complete_completed (by rw [descOf, ht]; exact hr) (by rw [ht]) (by rw [ht])

end Clocks

section Adjust
variable {s : State} {id x : Nat} {D : Desc} {v : Int}

theorem exec_step : exec (.step id) s = runTimeAdj id 0 (fun d v s => complete id stOK [] (stepDomain d (nsTu v) s)) s := rfl

theorem exec_frequency :
    exec (.frequency id) s = runTimeAdj id 1 (fun d v s => complete id stOK [] (remap d (fun x => { x with ratio := v }) s)) s := rfl

theorem exec_slew : exec (.slew id) s
    = runTimeAdj id 2 (fun d v s => complete id stOK [] (putDom s d { domOf s d with slewLeft := nsTu v, everSet := true })) s := rfl

theorem exec_select : exec (.select id) s
    = runTimeAdj id 3 (fun d _ s => sendSwitch d (some id) (updDesc id (fun x => { x with taken := true }) s)) s := rfl

theorem timeAdj_busy {c : Instr} (hr : Runs s id 0x50 D) (hx : le D.bytes 16 1 = x)
    (hc : (c = .step id ∧ le D.bytes 17 1 = 0) ∨ (c = .frequency id ∧ le D.bytes 17 1 = 1) ∨ (c = .slew id ∧ le D.bytes 17 1 = 2))
    (he : (domOf s x).en = true) : Yields c s fun t => Completed id D stBUSY [] s t ∧ SameBut [.rings] s t := by
  rw [← hx] at he
  rcases hc with ⟨rfl, hm⟩ | ⟨rfl, hm⟩ | ⟨rfl, hm⟩
  · exact .of_complete hr (exec_step.trans (runTimeAdj_busy hr hm (by decide) he))
  · exact .of_complete hr (exec_frequency.trans (runTimeAdj_busy hr hm (by decide) he))
  · exact .of_complete hr (exec_slew.trans (runTimeAdj_busy hr hm (by decide) he))

/-- A step moves its domain; the output time moves with the active one alone (R512 R516). -/
theorem step_yields (hr : Runs s id 0x50 D) (hx : le D.bytes 16 1 = x) (hv : v = signed 64 (le D.bytes 24 8))
    (hm : le D.bytes 17 1 = 0) (he : (domOf s x).en = false) :
    Yields (.step id) s fun t => domTime t x = domTime s x + v * 65536 ∧ (domOf t x).everSet = true ∧ Completed id D stOK [] s t
      ∧ (x = s.time.active → v ≠ 0 → outTime t = outTime s + v * 65536 ∧ Drives 324 t ∧ t.time.steps = satAdd 65535 s.time.steps 1
          ∧ t.frm.steps = s.frm.steps + v * 65536)
      ∧ (x ≠ s.time.active → outTime t = outTime s ∧ t.time.steps = s.time.steps ∧ t.faults = s.faults ∧ t.outputs = s.outputs)
      ∧ SameBut [.outputs, .rings, .frm, .faults, .time] s t := by
  subst hx hv
  have hcl := complete_sameClocks (s := stepDomain (le D.bytes 16 1) (nsTu (signed 64 (le D.bytes 24 8))) s) (id := id) (st := stOK) (r := [])
  refine .framed ⟨_, exec_step.trans (runTimeAdj_runs hr hm fun _ => he), fun hf =>
    ⟨?_, ?_, completed_after hr.desc stepDomain_rings, fun ha h0 => ?_, fun ha => ?_, hf⟩⟩
  · exact hcl.domTime_eq.trans stepDomain_domTime
  · rw [hcl.doms, stepDomain_self]
  · have hv : nsTu (signed 64 (le D.bytes 24 8)) ≠ 0 := Int.mul_ne_zero h0 (by decide)
    obtain ⟨hdrive, hsteps, hfrm⟩ := stepDomain_told ha hv
    refine ⟨?_, ?_, ?_, ?_⟩
    · rw [hcl.outTime_eq, stepDomain_sameClocks.outTime_eq, moved_outTime, if_pos ha, nsTu]
    · exact hdrive.of_frame (l := [.rings]) (complete_frame (by decide) .refl)
    · rw [complete_time, hsteps]
    · rw [complete_frm, hfrm, nsTu]
  · rw [stepDomain_other ha, complete_outTime, moved_outTime, if_neg ha, complete_time, complete_faults, complete_outputs]
    exact ⟨Int.add_zero _, rfl, rfl, rfl⟩

/-- A frequency is set afresh at this instant: the domain's time goes on from where it is (R503 R516). -/
theorem frequency_yields (hr : Runs s id 0x50 D) (hx : le D.bytes 16 1 = x) (hv : v = signed 64 (le D.bytes 24 8))
    (hm : le D.bytes 17 1 = 1) (he : (domOf s x).en = false) :
    Yields (.frequency id) s fun t => (domOf t x).ratio = v ∧ domTime t x = domTime s x ∧ Completed id D stOK [] s t
      ∧ (∀ e, e ≠ x → domOf t e = domOf s e) ∧ SameBut [.rings, .time] s t := by
  subst hx hv
  refine .framed ⟨_, exec_frequency.trans (runTimeAdj_runs hr hm fun _ => he), fun hf => ⟨?_, ?_, completed_after hr.desc rfl, fun e hne => ?_, hf⟩⟩
  · simp [remap]
  · exact complete_sameClocks.domTime_eq.trans (remap_time _ _ _ fun _ => ⟨rfl, rfl⟩)
  · simp [remap, hne]

theorem slew_yields (hr : Runs s id 0x50 D) (hx : le D.bytes 16 1 = x) (hv : v = signed 64 (le D.bytes 24 8))
    (hm : le D.bytes 17 1 = 2) (he : (domOf s x).en = false) :
    Yields (.slew id) s fun t => domOf t x = { domOf s x with slewLeft := v * 65536, everSet := true } ∧ Completed id D stOK [] s t
      ∧ (∀ e, e ≠ x → domOf t e = domOf s e) ∧ SameBut [.rings, .time] s t := by
  subst hx hv
  refine .framed ⟨_, exec_slew.trans (runTimeAdj_runs hr hm fun _ => he), fun hf => ⟨?_, completed_after hr.desc rfl, fun e hne => ?_, hf⟩⟩
  · simp [nsTu]
  · simp [hne]

/-- A select waits in the time island for its handshake (R513 R517). -/
theorem select_yields (hr : Runs s id 0x50 D) (hx : le D.bytes 16 1 = x) (hm : le D.bytes 17 1 = 3) :
    Yields (.select id) s fun t => t.time = { s.time with switchTo := s.time.switchTo ++ [(x, some id)] }
      ∧ descOf t id = some { D with taken := true } ∧ SameBut [.rings, .time] s t := by
  subst hx
  exact ⟨_, exec_select.trans (runTimeAdj_runs hr hm fun h => absurd h (by decide)), rfl, descOf_taken hr.desc,
    sendSwitch_frame (by decide) (updDesc_frame (by decide) .refl)⟩

end Adjust

/-! ### Timed event channels (R518 to R521) -/

section Events
variable {s : State} {k : Nat}

theorem setTevPin_outputs {b : Bool} (h : k < 8) (hl : (tevOf s k).level ≠ b) :
    (setTevPin k b s).outputs = .tevPin k b :: s.outputs :=
  congrArg State.outputs (if_neg fun hc => hc.elim (Nat.not_le.mpr h) hl)

/-- A channel without a pin causes what it triggers by commands of its own (R518). -/
theorem tevFire_internal (h : 8 ≤ k) : tevFire k s = s := if_pos (.inl h)

theorem tevFire_next : (tevOf (tevFire k s) k).next = (tevOf s k).next ∧ (tevOf (tevFire k s) k).fired = (tevOf s k).fired := by
  rw [(tevFire_tev k s).2]
  split
  · exact ⟨rfl, rfl⟩
  · exact ⟨rfl, rfl⟩

/-- A firing output has its pulse, and drives its active level unless it was in one before (R519 R520). -/
theorem tevFire_pulse (h : k < 8) : (tevOf (tevFire k s) k).pulse = true
    ∧ ((tevOf s k).pulse = false → (tevOf (tevFire k s) k).level = !(tevOf s k).mode.testBit 2) := by
  rw [(tevFire_tev k s).2]
  split
  · next hc =>
    have hp := hc.resolve_left (Nat.not_le.mpr h)
    exact ⟨hp, fun hn => absurd hp (ne_true_of_eq_false hn)⟩
  · exact ⟨rfl, fun _ => rfl⟩

/-- An arming of a mode that is off leaves no edge to come (R519). -/
theorem tevArmNow_off {m : Nat} {a p w : Int} (h : m % 4 = 0) : tevLive (tevOf (tevArmNow k m a p w s) k) = false := by
  rw [tevLive, (tevArmNow_tev k m a p w s).2.1]
  simp [h]

theorem tevArm_yields {id m : Nat} {D : Desc} {a : Int} (hr : Runs s id 0x51 D) (hk : k = le D.bytes 16 1) (hm : m = le D.bytes 17 1)
    (ha : a = startOf s (le D.bytes 24 8) (le D.bytes 32 4)) :
    Yields (.tevArm id) s fun t =>
      ((tevOf s k).pulse = true → descOf t id = some { D with taken := true } ∧ t.outputs = s.outputs
        ∧ tevOf t k = { tevOf s k with wait := (tevOf s k).wait ++ [(m, a, nsTu (down4 (le D.bytes 40 8)), nsTu (down4 (le D.bytes 36 4)), id)] })
      ∧ ((tevOf s k).pulse = false → Completed id D stOK [] s t ∧ (tevOf t k).mode = m
        ∧ (m % 4 = 0 → tevLive (tevOf t k) = false)
        ∧ (m % 4 ≠ 0 → outTime s ≤ a → tevLive (tevOf t k) = true ∧ (tevOf t k).next = a ∧ (tevOf t k).pulse = false)
        ∧ (m % 4 = 1 → a < outTime s → tevLive (tevOf t k) = false ∧ (k < 8 → (tevOf t k).pulse = true ∧ (tevOf t k).level = !m.testBit 2))
        ∧ (m % 4 ≠ 1 ∨ outTime s ≤ a → k < 8 → (tevOf t k).level = m.testBit 2))
      ∧ (∀ j, j ≠ k → tevOf t j = tevOf s j) ∧ SameBut [.outputs, .rings, .time] s t := by
  subst hk hm ha
  cases hp : (tevOf s (le D.bytes 16 1)).pulse
  case true =>
    refine .framed ⟨_, (runOp_runs hr).trans (congrArg _ (if_pos hp)), fun hf =>
      ⟨fun _ => ⟨descOf_taken hr.desc, rfl, ?_⟩, fun h => absurd h (by decide), fun j hj => ?_, hf⟩⟩
    · exact (tevOf_putTev ..).trans (if_pos rfl)
    · exact (tevOf_putTev ..).trans (if_neg hj)
  case false =>
    refine .framed ⟨_, (runOp_runs hr).trans (congrArg _ (if_neg (ne_true_of_eq_false hp))), fun hf => ?_⟩
    obtain ⟨hother, hmode, hahead, hpast, hlevel⟩ := tevArmNow_tev (le D.bytes 16 1) (le D.bytes 17 1)
      (startOf s (le D.bytes 24 8) (le D.bytes 32 4)) (nsTu (down4 (le D.bytes 40 8))) (nsTu (down4 (le D.bytes 36 4))) s
    simp only [complete_tevOf]
    refine ⟨fun h => absurd h (by decide), fun _ => ⟨completed_after hr.desc tevArmNow_TK.rings, hmode, tevArmNow_off, fun h0 hle => ?_,
      fun h1 hlt => ?_, hlevel⟩, hother, hf⟩
    · obtain ⟨hlive, hnext, hpulse, -⟩ := hahead h0 hle
      exact ⟨hlive, hnext, hpulse.trans hp⟩
    · exact ⟨(hpast h1 hlt).1, fun h8 => (hpast h1 hlt).2 h8 hp⟩

/-- The channel at its edge: a periodic one has its next on the grid, another has fired (R521). -/
def atEdge (t : Tev) : Tev := if t.mode % 4 = 2 then { t with next := t.next + t.period } else { t with fired := true }

theorem atEdge_keeps {t : Tev} : (atEdge t).pulse = t.pulse ∧ (atEdge t).mode = t.mode := by
  unfold atEdge
  split
  · exact ⟨rfl, rfl⟩
  · exact ⟨rfl, rfl⟩

theorem tevEdge_yields {k : Fin 16} (hr : runs .time s = true) (hl : tevLive (tevOf s k.val) = true) :
    Yields (.tevEdge k) s fun t => outTime t = max (tevOf s k.val).next (outTime s)
      ∧ ((tevOf s k.val).mode % 4 = 2 → (tevOf t k.val).next = (tevOf s k.val).next + (tevOf s k.val).period
          ∧ (tevOf t k.val).fired = (tevOf s k.val).fired)
      ∧ ((tevOf s k.val).mode % 4 = 1 → (tevOf t k.val).fired = true ∧ (tevOf t k.val).next = (tevOf s k.val).next)
      ∧ (k.val < 8 → (tevOf t k.val).pulse = true)
      ∧ (k.val < 8 → (tevOf s k.val).pulse = false → (tevOf t k.val).level = !(tevOf s k.val).mode.testBit 2)
      ∧ (8 ≤ k.val → t.outputs = s.outputs) ∧ (∀ j, j ≠ k.val → tevOf t j = tevOf s j) ∧ SameBut [.outputs, .time] s t := by
  have hexec : exec (.tevEdge k) s = .next (tevFire k.val (putTev (advanceTo (tevOf s k.val).next s) k.val (atEdge (tevOf s k.val)))) := by
    refine (ifRuns_runs hr).trans ((when_holds hl).trans ?_)
    dsimp only
    rw [tevOf_advance, ← atEdge]
  refine .framed ⟨_, hexec, fun hf => ?_⟩
  have hself : tevOf (putTev (advanceTo (tevOf s k.val).next s) k.val (atEdge (tevOf s k.val))) k.val = atEdge (tevOf s k.val) :=
    (tevOf_putTev ..).trans (if_pos rfl)
  obtain ⟨hnext, hfired⟩ := tevFire_next (k := k.val) (s := putTev (advanceTo (tevOf s k.val).next s) k.val (atEdge (tevOf s k.val)))
  rw [hself] at hnext hfired
  refine ⟨?_, fun h2 => ?_, fun h1 => ?_, fun h8 => (tevFire_pulse h8).1, fun h8 hp => ?_, fun h8 => ?_, fun j hj => ?_, hf⟩
  · rw [outTime_TK (tevFire_TK ..), outTime_TK (putTev_TK ..), advanceTo_out]
  · rw [hnext, hfired, atEdge, if_pos h2]
    exact ⟨rfl, rfl⟩
  · rw [hnext, hfired, atEdge, if_neg (by omega)]
    exact ⟨rfl, rfl⟩
  · rw [(tevFire_pulse h8).2 (by rw [hself, atEdge_keeps.1, hp]), hself, atEdge_keeps.2]
  · rw [tevFire_internal h8]
    exact SameBut.outputs_eq (l := [.time]) (putTev_frame (by decide) (advanceTo_frame (by decide) .refl))
  · rw [(tevFire_tev ..).1 j hj, tevOf_putTev, if_neg hj, tevOf_advance]

/-- The end of a pulse with no arming waiting: the output goes back to its idle level (R520). -/
theorem tevPulseEnd_yields {k : Fin 8} (hr : runs .time s = true) (hp : (tevOf s k.val).pulse = true) (hw : (tevOf s k.val).wait = []) :
    Yields (.tevPulseEnd k) s fun t => tevOf t k.val = { tevOf s k.val with pulse := false, level := (tevOf s k.val).mode.testBit 2 }
      ∧ ((tevOf s k.val).level ≠ (tevOf s k.val).mode.testBit 2 → t.outputs = .tevPin k.val ((tevOf s k.val).mode.testBit 2) :: s.outputs)
      ∧ (∀ j, j ≠ k.val → tevOf t j = tevOf s j) ∧ SameBut [.outputs, .time] s t := by
  have hexec : exec (.tevPulseEnd k) s
      = .next (setTevPin k.val (tevIdle (tevOf s k.val)) (putTev s k.val { tevOf s k.val with pulse := false, wait := [] })) := by
    refine (ifRuns_runs hr).trans ((when_holds hp).trans ?_)
    rw [hw, tevWaiting]
  have hself : tevOf (putTev s k.val { tevOf s k.val with pulse := false, wait := [] }) k.val
      = { tevOf s k.val with pulse := false, wait := [] } := (tevOf_putTev ..).trans (if_pos rfl)
  refine ⟨_, hexec, ?_, fun hl => setTevPin_outputs k.isLt (by rw [hself]; exact hl), fun j hj => ?_,
    setTevPin_frame (by decide) (putTev_frame (by decide) .refl)⟩
  · rw [(setTevPin_tev ..).2, if_neg (Nat.not_le.mpr k.isLt), hself, ← hw, tevIdle]
  · rw [(setTevPin_tev ..).1 j hj, tevOf_putTev, if_neg hj]

/-! ### Triggers of the management processor (R518) -/

/-- A trigger that is armed as a periodic channel is live on its grid. -/
theorem armTrigger_live {p : Int} (hp : 0 ≤ p) : tevLive (tevOf (armTrigger k p s) k) = true ∧ (tevOf (armTrigger k p s) k).period = p := by
  obtain ⟨-, -, hahead, -, -⟩ := tevArmNow_tev k 2 (outTime s + p) p 0 s
  obtain ⟨hlive, -, -, hperiod⟩ := hahead (by decide) (by omega)
  exact ⟨hlive, hperiod⟩

theorem writeLdgCtrl_yields {v : BitVec 32} (hb : barOpen s = true) (hn : s.nvm.running = true) (h1 : 1 ≤ bits v.toNat 0 11)
    (h2 : bits v.toNat 0 11 ≤ 1440) :
    Yields (.triggerSettingWrite true true v) s fun t => t.tiles.commitMin = bits v.toNat 0 11 ∧ (tevOf t 9).mode = 2
      ∧ (tevOf t 9).next = outTime s + bits v.toNat 0 11 * 60 * tuSec ∧ (tevOf t 9).period = bits v.toNat 0 11 * 60 * tuSec
      ∧ tevLive (tevOf t 9) = true ∧ (∀ j, j ≠ 9 → tevOf t j = tevOf s j) ∧ SameBut [.outputs, .tiles, .time] s t := by
  have hwrite : writeLdgCtrl v.toNat s = armTrigger 9 (bits v.toNat 0 11 * 60 * tuSec)
      { s with tiles := { s.tiles with
          gainS := if 10 ≤ bits v.toNat 16 8 then bits v.toNat 16 8 else s.tiles.gainS, commitMin := bits v.toNat 0 11 } } := by
    simp only [writeLdgCtrl, hn, h1, h2, and_self, if_true]
  have hpos : 0 ≤ (bits v.toNat 0 11 : Int) * 60 * tuSec := by unfold tuSec; omega
  refine ⟨_, (when_holds (by rw [hb]; rfl)).trans (congrArg _ hwrite), ?_, (armTrigger_self hpos).1, (armTrigger_self hpos).2, (armTrigger_live hpos).2,
    (armTrigger_live hpos).1, fun j hj => armTrigger_other hj, hwrite ▸ writeLdgCtrl_frame (by decide) .refl⟩
  rw [armTrigger_leaves.tiles_eq]

theorem writeDiagCfg_yields {v : BitVec 32} (hb : barOpen s = true) (hn : s.nvm.running = true) (h1 : 1 ≤ bits v.toNat 16 12)
    (h2 : bits v.toNat 16 12 ≤ 3600) :
    Yields (.triggerSettingWrite false true v) s fun t => t.cal.probeEn = v.toNat.testBit 28 ∧ t.cal.probeAfter = bits v.toNat 16 12
      ∧ t.cal.diagEvery = bits v.toNat 0 16 ∧ (tevOf t 10).mode = 2 ∧ (tevOf t 10).next = outTime s + bits v.toNat 16 12 * tuSec
      ∧ tevLive (tevOf t 10) = true ∧ (∀ j, j ≠ 10 → tevOf t j = tevOf s j) ∧ SameBut [.outputs, .cal, .time] s t := by
  have hwrite : writeDiagCfg v.toNat s = armTrigger 10 (bits v.toNat 16 12 * tuSec)
      { s with cal := { s.cal with probeEn := v.toNat.testBit 28, probeAfter := bits v.toNat 16 12, diagEvery := bits v.toNat 0 16 } } := by
    simp only [writeDiagCfg, hn, h1, h2, and_self, if_true]
  have hpos : 0 ≤ (bits v.toNat 16 12 : Int) * tuSec := by unfold tuSec; omega
  refine ⟨_, (when_holds (by rw [hb]; rfl)).trans (congrArg _ hwrite), ?_, ?_, ?_, (armTrigger_self hpos).1, (armTrigger_self hpos).2, (armTrigger_live hpos).1,
    fun j hj => armTrigger_other hj, hwrite ▸ writeDiagCfg_frame (by decide) .refl⟩
  · rw [armTrigger_leaves.cal_eq]
  · rw [armTrigger_leaves.cal_eq]
  · rw [armTrigger_leaves.cal_eq]

end Events

/-- Settles O46: each mode of `TIME_ADJ`, the arming, the edge, the end of a pulse and the triggers' settings. That a disarmed or
fired channel keeps its next edge and idle level is the model's (notes/assumptions/38). -/
theorem adjustmentsAndEvents : Obligations.AdjustmentsAndEvents :=
  ⟨fun _ _ _ _ _ hr hx hv => ⟨fun _ => timeAdj_busy hr hx, step_yields hr hx hv, frequency_yields hr hx hv, slew_yields hr hx hv,
      select_yields hr hx⟩,
    fun _ _ _ _ _ _ => tevArm_yields, fun _ _ => tevEdge_yields, fun _ _ => tevPulseEnd_yields, fun _ _ => writeLdgCtrl_yields,
    fun _ _ => writeDiagCfg_yields⟩

end Sys2Proof.Machine
end
section
/-! PROOF. The servos of the domains and the switches between them (14). -/

set_option autoImplicit false
set_option Elab.async false

namespace Sys2Proof.Machine

/-! ### What the management processor sends -/

section Send
variable {s : State} {p prio : Nat} {b : Bytes}

/-- The frame that the management processor sends on a port (R474). -/
def mgmtFrame (p prio : Nat) (b : Bytes) (s : State) : PoolFrame :=
  { id := s.chain.nextFrame, bytes := b, cells := cellsOf_ b.length, prio, origin := .mgmt, shared := true, wants := [.egress p] }

/-- On a port in Up, with the cells free, it joins the pool and the port's queue (R468 R474). -/
theorem sendMgmt_sends (hu : (portOf s p).st = .up) (hc : cellsOf_ b.length ≤ sharedFree s) :
    sendMgmt p prio b s = enqueue p s.chain.nextFrame (addFrame (mgmtFrame p prio b s) s) := if_pos ⟨.inl hu, hc⟩

theorem enqueue_queue {id : Nat} : (portOf (enqueue p id s) p).queue = (portOf s p).queue ++ [id] := by
  rw [enqueue, portOf_updPort, if_pos rfl]

end Send

/-! ### Servos (R510 R511) -/

section Servo
variable {s : State} {d : Fin 2}

theorem timNowCapture_yields (hb : barOpen s = true) :
    Yields .timNowCapture s fun t => t.time = { s.time with cap := outTime s }
      ∧ t.outputs = .regRead 0x58008 ((outTime s / tuSec).toNat % 2 ^ 32) :: s.outputs ∧ SameBut [.outputs, .time] s t :=
  show ∃ t, execTimNowCapture s = .next t ∧ _ from
    when_yields hb ⟨rfl, rfl, emit_frame (by decide) (onTim_frame (by decide) .refl)⟩

/-- A servo runs for an enabled domain while firmware does (R510). -/
theorem servoRuns_of (he : (domOf s d.val).en = true) (hn : s.nvm.running = true) : servoRuns d.val s = true := by
  rw [servoRuns, he, hn]
  rfl

/-- The domain with a Sync in use (R510). -/
def syncKept (d : Nat) (m : SyncSeen) (s : State) : State :=
  putDom s d { domOf s d with port := m.port.val, sync := some (m.seq, domAt s d m.ingress, m.origin) }

theorem syncKept_domOf {d k : Nat} {m : SyncSeen} : domOf (syncKept d m s) k
    = if k = d then { domOf s d with port := m.port.val, sync := some (m.seq, domAt s d m.ingress, m.origin) } else domOf s k :=
  domOf_putDom ..

/-- A Sync is kept with its ingress in the domain, and answered by a Delay_Req on its port (R510). -/
theorem ptpSync_yields {m : SyncSeen} {b : Bytes} (hr : runs .mp s = true) (he : (domOf s d.val).en = true) (hn : s.nvm.running = true)
    (hb : b = delayReqFrame s (domOf s d.val).ptpDomain m.port.val m.seq) :
    Yields (.ptpSync d m) s fun t =>
      domOf t d.val = { domOf s d.val with port := m.port.val, sync := some (m.seq, domAt s d.val m.ingress, m.origin) }
      ∧ (∀ e, e ≠ d.val → domOf t e = domOf s e)
      ∧ ((portOf s m.port.val).st = .up → cellsOf_ b.length ≤ sharedFree s →
          (portOf t m.port.val).queue = (portOf s m.port.val).queue ++ [s.chain.nextFrame]
          ∧ ∃ f, t.chain.frames = s.chain.frames ++ [f] ∧ f.id = s.chain.nextFrame ∧ f.prio = 7 ∧ f.shared = true
              ∧ f.wants = [.egress m.port.val] ∧ f.bytes = b)
      ∧ SameBut [.chain, .time] s t := by
  have hsent : SameBut [.chain] (syncKept d.val m s) (sendMgmt m.port.val 7 b (syncKept d.val m s)) := sendMgmt_frame (by decide) .refl
  have hexec : exec (.ptpSync d m) s = .next (sendMgmt m.port.val 7 b (syncKept d.val m s)) := by
    rw [hb]
    exact (ifRuns_runs hr).trans (when_holds (servoRuns_of he hn))
  refine .framed ⟨_, hexec, fun hf => ⟨?_, fun e hne => ?_, fun hu hc => ?_, hf⟩⟩
  · exact (hsent.domOf_eq _).trans (syncKept_domOf.trans (if_pos rfl))
  · exact (hsent.domOf_eq _).trans (syncKept_domOf.trans (if_neg hne))
  · rw [sendMgmt_sends (s := syncKept d.val m s) (prio := 7) hu hc]
    exact ⟨enqueue_queue, _, rfl, rfl, rfl, rfl, rfl, rfl⟩

/-! ### Offsets (R511 R512) -/

/-- The domain with the offset of a Delay_Resp (R510 R511). -/
def offsetTaken (d : Nat) (off : Int) (s : State) : State :=
  putDom s d { domOf s d with sync := none, offset := off, good := if off.natAbs ≤ 100 * 65536 then (domOf s d).good + 1 else 0 }

theorem offsetTaken_self {d : Nat} {off : Int} : domOf (offsetTaken d off s) d
    = { domOf s d with sync := none, offset := off, good := if off.natAbs ≤ 100 * 65536 then (domOf s d).good + 1 else 0 } :=
  (domOf_putDom ..).trans (if_pos rfl)

theorem offsetTaken_domTime {d : Nat} {off : Int} : domTime (offsetTaken d off s) d = domTime s d := by
  unfold domTime
  rw [offsetTaken_self]
  rfl

theorem steer_domTime {d : Nat} : domTime (steer d s) d = domTime s d :=
  (remap_time d (fun y => { y with ratio := signed 64 (freshFree s).1.toNat }) (freshFree s).2 fun _ => ⟨rfl, rfl⟩).trans
    (domTime_congr rfl rfl)

/-- Steering sets a domain's rate at this instant and leaves the rest (R510). -/
theorem steer_self {d : Nat} : domOf (steer d s) d
    = { domOf s d with base := domTime s d, at_ := s.time.now, ratio := (domOf (steer d s) d).ratio } := by
  simp only [steer, remap, domOf_putDom, if_true]
  rfl

/-- The loss of lock moves no clock. -/
theorem loseLock_domTime {d : Nat} : domTime (loseLock d s) d = domTime s d := by
  obtain ⟨-, hself, hnow, -⟩ := loseLock_all d s
  rw [domTime, domTime, hself, hnow]

theorem loseLock_self {d : Nat} : domOf (loseLock d s) d
    = { domOf s d with locked := false, good := 0, holdover := (domOf s d).holdover || (domOf s d).locked } := (loseLock_all d s).2.1

theorem loseLock_drives {d : Nat} (h : (domOf s d).locked = true) : Drives (320 + d) (loseLock d s) := by
  obtain ⟨-, -, -, -, -, -, -, -, hdrive, -⟩ := loseLock_all d s
  exact hdrive h

theorem loseLock_keeps_drives {d m : Nat} (h : Drives m s) : Drives m (loseLock d s) := by
  obtain ⟨-, -, -, -, -, -, -, -, -, hkeep, -⟩ := loseLock_all d s
  exact hkeep m h

theorem loseLock_steps {d : Nat} : (loseLock d s).time.steps = s.time.steps ∧ (loseLock d s).frm = s.frm := by
  obtain ⟨-, -, -, -, hsteps, -, -, hfrm, -⟩ := loseLock_all d s
  exact ⟨hsteps, hfrm⟩

theorem judgeHoldover_domOf {k : Nat} : domOf (judgeHoldover s) k = domOf s k := (judge_all s).1 k

theorem judgeHoldover_time : (judgeHoldover s).time
    = { s.time with holdover := (domOf s s.time.active).holdover && !(domOf s (1 - s.time.active)).locked } := (judge_all s).2.1

theorem judgeHoldover_sameClocks : SameClocks s (judgeHoldover s) :=
  ⟨fun _ => judgeHoldover_domOf, by rw [judgeHoldover_time], by rw [judgeHoldover_time], by rw [judgeHoldover_time]⟩

theorem judgeHoldover_keeps_drives {m : Nat} (h : Drives m s) : Drives m (judgeHoldover s) := by
  obtain ⟨-, -, -, -, -, hkeep, -⟩ := judge_all s
  exact hkeep m h

/-- Judging holdover raises one source alone (R514). -/
theorem judgeHoldover_other {m : Nat} (h : m ≠ 323) : (judgeHoldover s).faults.drive.testBit m = s.faults.drive.testBit m := by
  obtain ⟨-, -, -, -, -, -, hother, -⟩ := judge_all s
  exact hother m h

/-- Sixteen good offsets in a row lock a domain; before, its lock is as it was (R511). -/
theorem judgeLock_keeps {d : Nat} (h : (domOf s d).good < 16) : judgeLock d s = s := if_neg fun hc => absurd hc.1 (by omega)

theorem judgeLock_locks {d : Nat} (h : 16 ≤ (domOf s d).good) : (domOf (judgeLock d s) d).locked = true := by
  unfold judgeLock
  dsimp only
  split
  · rw [judgeHoldover_domOf, domOf_putDom, if_pos rfl]
  · next hn => exact Classical.not_not.mp fun hl => hn ⟨h, hl⟩

/-- What judging the lock leaves of its domain. -/
theorem judgeLock_self {d : Nat} : domOf (judgeLock d s) d = { domOf s d with
    locked := (domOf (judgeLock d s) d).locked, everSet := (domOf (judgeLock d s) d).everSet
    everLocked := (domOf (judgeLock d s) d).everLocked, holdover := (domOf (judgeLock d s) d).holdover } := by
  unfold judgeLock
  dsimp only
  split
  · simp only [judgeHoldover_domOf, domOf_putDom, if_true]
  · rfl

theorem judgeLock_time {d : Nat} : (judgeLock d s).time.now = s.time.now ∧ (judgeLock d s).time.steps = s.time.steps := by
  unfold judgeLock
  dsimp only
  split
  · rw [judgeHoldover_time]
    exact ⟨rfl, rfl⟩
  · exact ⟨rfl, rfl⟩

theorem judgeLock_domTime {d : Nat} : domTime (judgeLock d s) d = domTime s d := by
  rw [domTime, domTime, judgeLock_self, judgeLock_time.1]

/-- What a Delay_Resp does with its offset: a step, or the loss of lock, or a judgement of it (R511). -/
def offsetJudged (d : Nat) (off : Int) (s : State) : State :=
  if 100000 * 65536 < off.natAbs then loseLock d (stepDomain d (0 - off) (offsetTaken d off s))
  else if 1000 * 65536 ≤ off.natAbs then loseLock d (steer d (offsetTaken d off s))
  else judgeLock d (steer d (offsetTaken d off s))

theorem delayResp_exec {m : DelaySeen} {i o : Int} (hr : runs .mp s = true) (he : (domOf s d.val).en = true) (hn : s.nvm.running = true)
    (hs : (domOf s d.val).sync = some (m.seq, i, o)) :
    exec (.delayResp d m) s = .next (offsetJudged d.val (ptpOffset s d.val i o m) s) := by
  refine (ifRuns_runs hr).trans ?_
  have hgo : (!servoRuns d.val s || decide (m.seq ≠ m.seq)) = false := by simp [servoRuns_of he hn]
  dsimp only
  rw [hs]
  dsimp only
  rw [if_neg (ne_true_of_eq_false hgo), offsetJudged]
  split
  · rfl
  · split
    · rfl
    · rfl

/-- An offset above 100 µs steps the domain back by it (R511 R512). -/
theorem offsetJudged_steps {d : Nat} {off : Int} (h : 100000 * 65536 < off.natAbs) :
    domTime (offsetJudged d off s) d = domTime s d - off ∧ (domOf (offsetJudged d off s) d).everSet = true
      ∧ (domOf (offsetJudged d off s) d).locked = false
      ∧ ((domOf s d).locked = true → Drives (320 + d) (offsetJudged d off s))
      ∧ (d = s.time.active → Drives 324 (offsetJudged d off s) ∧ (offsetJudged d off s).time.steps = satAdd 65535 s.time.steps 1
        ∧ (offsetJudged d off s).frm.steps = s.frm.steps - off) := by
  rw [offsetJudged, if_pos h]
  refine ⟨?_, ?_, ?_, fun hl => loseLock_drives ?_, fun ha => ?_⟩
  · rw [loseLock_domTime, stepDomain_domTime, offsetTaken_domTime]
    omega
  · rw [loseLock_self, stepDomain_self]
  · rw [loseLock_self]
  · rw [stepDomain_self, offsetTaken_self]
    exact hl
  · have hoff : 0 - off ≠ 0 := by omega
    obtain ⟨hdrive, hsteps, hfrm⟩ := stepDomain_told (s := offsetTaken d off s) ha hoff
    refine ⟨loseLock_keeps_drives hdrive, loseLock_steps.1.trans hsteps, ?_⟩
    rw [loseLock_steps.2, hfrm]
    show s.frm.steps + (0 - off) = _
    omega

/-- An offset of 1 µs or more ends the lock and steers (R511). -/
theorem offsetJudged_loses {d : Nat} {off : Int} (h1 : 1000 * 65536 ≤ off.natAbs) (h2 : off.natAbs ≤ 100000 * 65536) :
    domTime (offsetJudged d off s) d = domTime s d ∧ (domOf (offsetJudged d off s) d).locked = false
      ∧ ((domOf s d).locked = true → Drives (320 + d) (offsetJudged d off s)) ∧ (offsetJudged d off s).time.steps = s.time.steps := by
  rw [offsetJudged, if_neg (Nat.not_lt.mpr h2), if_pos h1]
  refine ⟨?_, ?_, fun hl => loseLock_drives ?_, loseLock_steps.1⟩
  · rw [loseLock_domTime, steer_domTime, offsetTaken_domTime]
  · rw [loseLock_self]
  · rw [steer_self, offsetTaken_self]
    exact hl

/-- A smaller offset steers, and counts towards the lock if it is good (R511). -/
theorem offsetJudged_small {d : Nat} {off : Int} (h : off.natAbs < 1000 * 65536) :
    offsetJudged d off s = judgeLock d (steer d (offsetTaken d off s)) := by
  rw [offsetJudged, if_neg (by omega), if_neg (by omega)]

theorem steered_good {d : Nat} {off : Int} : (domOf (steer d (offsetTaken d off s)) d).good
    = if off.natAbs ≤ 100 * 65536 then (domOf s d).good + 1 else 0 := by
  rw [steer_self, offsetTaken_self]

theorem steered_locked {d : Nat} {off : Int} : (domOf (steer d (offsetTaken d off s)) d).locked = (domOf s d).locked := by
  rw [steer_self, offsetTaken_self]

theorem offsetJudged_judges {d : Nat} {off : Int} (h : off.natAbs < 1000 * 65536) :
    domTime (offsetJudged d off s) d = domTime s d
      ∧ (domOf (offsetJudged d off s) d).good = (if off.natAbs ≤ 100 * 65536 then (domOf s d).good + 1 else 0)
      ∧ (off.natAbs ≤ 100 * 65536 → 15 ≤ (domOf s d).good → (domOf (offsetJudged d off s) d).locked = true)
      ∧ ((domOf s d).good < 15 → (domOf (offsetJudged d off s) d).locked = (domOf s d).locked)
      ∧ (offsetJudged d off s).time.steps = s.time.steps := by
  rw [offsetJudged_small h]
  refine ⟨?_, ?_, fun hg h15 => judgeLock_locks ?_, fun h15 => ?_, judgeLock_time.2⟩
  · rw [judgeLock_domTime, steer_domTime, offsetTaken_domTime]
  · rw [judgeLock_self]
    exact steered_good
  · rw [steered_good, if_pos hg]
    omega
  · rw [judgeLock_keeps (by rw [steered_good]; split <;> omega), steered_locked]

/-- Whatever the offset, the Sync is used up and the offset shows (R510 R525). -/
theorem offsetJudged_shows {d : Nat} {off : Int} :
    (domOf (offsetJudged d off s) d).sync = none ∧ (domOf (offsetJudged d off s) d).offset = off := by
  unfold offsetJudged
  split
  · rw [loseLock_self, stepDomain_self, offsetTaken_self]
    exact ⟨rfl, rfl⟩
  · split
    · rw [loseLock_self, steer_self, offsetTaken_self]
      exact ⟨rfl, rfl⟩
    · rw [judgeLock_self, steer_self, offsetTaken_self]
      exact ⟨rfl, rfl⟩

theorem delayResp_yields {m : DelaySeen} {i o off : Int} (hr : runs .mp s = true) (he : (domOf s d.val).en = true)
    (hn : s.nvm.running = true) (hs : (domOf s d.val).sync = some (m.seq, i, o)) (ho : off = ptpOffset s d.val i o m) :
    Yields (.delayResp d m) s fun t => (domOf t d.val).sync = none ∧ (domOf t d.val).offset = off
      ∧ (100000 * 65536 < off.natAbs → domTime t d.val = domTime s d.val - off ∧ (domOf t d.val).everSet = true
          ∧ (domOf t d.val).locked = false ∧ ((domOf s d.val).locked = true → Drives (320 + d.val) t)
          ∧ (d.val = s.time.active → Drives 324 t ∧ t.time.steps = satAdd 65535 s.time.steps 1 ∧ t.frm.steps = s.frm.steps - off))
      ∧ (1000 * 65536 ≤ off.natAbs → off.natAbs ≤ 100000 * 65536 → domTime t d.val = domTime s d.val ∧ (domOf t d.val).locked = false
          ∧ ((domOf s d.val).locked = true → Drives (320 + d.val) t) ∧ t.time.steps = s.time.steps)
      ∧ (off.natAbs < 1000 * 65536 → domTime t d.val = domTime s d.val
          ∧ (domOf t d.val).good = (if off.natAbs ≤ 100 * 65536 then (domOf s d.val).good + 1 else 0)
          ∧ (off.natAbs ≤ 100 * 65536 → 15 ≤ (domOf s d.val).good → (domOf t d.val).locked = true)
          ∧ ((domOf s d.val).good < 15 → (domOf t d.val).locked = (domOf s d.val).locked) ∧ t.time.steps = s.time.steps)
      ∧ SameBut [.outputs, .freeCtr, .frm, .faults, .time] s t := by
  have hexec : exec (.delayResp d m) s = .next (offsetJudged d.val off s) := by rw [ho, delayResp_exec hr he hn hs]
  exact .framed ⟨_, hexec, fun hf =>
    ⟨offsetJudged_shows.1, offsetJudged_shows.2, offsetJudged_steps, offsetJudged_loses, offsetJudged_judges, hf⟩⟩

/-! ### Loss of lock, switches (R513 R514) -/

theorem syncLoss_yields (hr : runs .mp s = true) (he : (domOf s d.val).en = true) (hn : s.nvm.running = true)
    (hl : (domOf s d.val).locked = true) :
    Yields (.syncLoss d) s fun t => (domOf t d.val).locked = false ∧ (domOf t d.val).holdover = true ∧ Drives (320 + d.val) t
      ∧ (∀ e, e ≠ d.val → domOf t e = domOf s e)
      ∧ t.time.switchTo = s.time.switchTo ++ (if s.time.autoSw = true ∧ d.val = s.time.active ∧ (domOf s (1 - d.val)).locked = true
          then [(1 - d.val, none)] else [])
      ∧ (d.val = s.time.active → (domOf s (1 - d.val)).locked = false → t.time.holdover = true ∧ (s.time.holdover = false → Drives 323 t))
      ∧ SameBut [.faults, .time] s t := by
  have hself : domOf (putDom s d.val { domOf s d.val with sync := none }) d.val = { domOf s d.val with sync := none } :=
    (domOf_putDom ..).trans (if_pos rfl)
  have hother {e : Nat} (hne : e ≠ d.val) : domOf (putDom s d.val { domOf s d.val with sync := none }) e = domOf s e :=
    (domOf_putDom ..).trans (if_neg hne)
  have hlock : (domOf (putDom s d.val { domOf s d.val with sync := none }) d.val).locked = true := by rw [hself, ← hl]
  have hsecond : 1 - d.val ≠ d.val := by omega
  obtain ⟨hkeep, -, -, -, -, -, -, -, -, -, hswitch, hhold⟩ := loseLock_all d.val (putDom s d.val { domOf s d.val with sync := none })
  refine .framed ⟨_, (ifRuns_runs hr).trans (when_holds (servoRuns_of he hn)), fun hf =>
    ⟨?_, ?_, loseLock_drives hlock, fun e hne => (hkeep e hne).trans (hother hne), ?_, fun ha h1 => hhold hlock ha ?_, hf⟩⟩
  · rw [loseLock_self]
  · rw [loseLock_self, hself, hl]
    exact Bool.or_true _
  · rw [hswitch hlock, hother hsecond]
    rfl
  · rw [hother hsecond]
    exact h1

theorem revert_yields (hr : runs .mp s = true) (ha : s.time.autoSw = true) (hp : s.time.active ≠ s.time.prefer) (hz : s.time.revertS ≠ 0)
    (hl : (domOf s s.time.prefer).locked = true) (hn : s.nvm.running = true) :
    Yields .revert s fun t => t.time = { s.time with switchTo := s.time.switchTo ++ [(s.time.prefer, none)] } ∧ SameBut [.time] s t := by
  have hcond : (s.time.autoSw && decide (s.time.active ≠ s.time.prefer) && decide (s.time.revertS ≠ 0)
      && (domOf s s.time.prefer).locked && s.nvm.running) = true := by simp [ha, hp, hz, hl, hn]
  exact ⟨_, (ifRuns_runs hr).trans (when_holds hcond), rfl, sendSwitch_frame (by decide) .refl⟩

/-- The switch has been made, its slew term not yet (R513). -/
def switched (e : Nat) (s : State) : State := raise 322 (onTim (fun x => { x with active := e, switches := satAdd 65535 x.switches 1 }) s)

/-- A switch within 1 ms goes through a slew term, one beyond it is a step (R513). -/
def switchTaken (e : Nat) (x : Int) (s : State) : State :=
  if nsTu 1000000 < (x.natAbs : Int) then outputStepped (0 - x) (onTim (fun y => { y with slewTerm := 0 }) (switched e s))
  else onTim (fun y => { y with slewTerm := x }) (switched e s)

theorem applySwitch_other {e : Nat} (h : e ≠ s.time.active) :
    applySwitch e s = judgeHoldover (switchTaken e (outTime s - domTime s e) s) := if_neg h

theorem switched_time {e : Nat} : (switched e s).time = { s.time with active := e, switches := satAdd 65535 s.time.switches 1 } :=
  raise_time _ _

theorem switched_domOf {e k : Nat} : domOf (switched e s) k = domOf s k := raise_domOf _ _ _

theorem switched_domTime {e k : Nat} : domTime (switched e s) k = domTime s k :=
  domTime_congr switched_domOf (by rw [switched_time])

/-- With the slew term set, the output time is the new domain's with it (R513). -/
theorem setSlew_outTime {x : Int} : outTime (onTim (fun y => { y with slewTerm := x }) s) = domTime s s.time.active + x :=
  congrArg (· + x) (domTime_congr rfl rfl)

theorem outputStepped_counts {v : Int} : (outputStepped v s).time.switches = s.time.switches
    ∧ (outputStepped v s).time.switchTo = s.time.switchTo := by
  obtain ⟨u, hu, htime, -⟩ := stepped_all v s
  obtain ⟨hsw, hcount, -⟩ := hu.sw
  exact ⟨by rw [hcount, htime], by rw [hsw, htime]⟩

theorem switchTaken_domOf {e k : Nat} {x : Int} : domOf (switchTaken e x s) k = domOf s k := by
  unfold switchTaken
  split
  · exact (outputStepped_sameClocks.doms k).trans (switched_domOf (s := s))
  · exact switched_domOf (s := s)

/-- What a switch writes whichever way it goes (R513 R527). -/
theorem switchTaken_counts {e : Nat} {x : Int} : (switchTaken e x s).time.active = e
    ∧ (switchTaken e x s).time.switches = satAdd 65535 s.time.switches 1 ∧ (switchTaken e x s).time.switchTo = s.time.switchTo := by
  unfold switchTaken
  split
  · rw [outputStepped_sameClocks.active, outputStepped_counts.1, outputStepped_counts.2, onTim, switched_time]
    exact ⟨rfl, rfl, rfl⟩
  · rw [onTim, switched_time]
    exact ⟨rfl, rfl, rfl⟩

theorem switchTaken_drives {e : Nat} {x : Int} : Drives 322 (switchTaken e x s) := by
  unfold switchTaken
  split
  · exact outputStepped_drives (raise_drives _ _)
  · exact raise_drives _ _

theorem switchTaken_slews {e : Nat} {x : Int} (h : (x.natAbs : Int) ≤ 1000000 * 65536) :
    outTime (switchTaken e x s) = domTime s e + x ∧ (switchTaken e x s).time.slewTerm = x
      ∧ (switchTaken e x s).time.steps = s.time.steps := by
  rw [switchTaken, if_neg (by unfold nsTu; omega)]
  refine ⟨?_, rfl, ?_⟩
  · rw [setSlew_outTime, switched_domTime, switched_time]
  · rw [onTim, switched_time]

theorem switchTaken_steps {e : Nat} {x : Int} (h : 1000000 * 65536 < (x.natAbs : Int)) :
    outTime (switchTaken e x s) = domTime s e ∧ (switchTaken e x s).time.slewTerm = 0 ∧ Drives 324 (switchTaken e x s)
      ∧ (switchTaken e x s).time.steps = satAdd 65535 s.time.steps 1 := by
  rw [switchTaken, if_pos (by unfold nsTu; omega)]
  refine ⟨?_, ?_, outputStepped_told.1, ?_⟩
  · rw [outputStepped_sameClocks.outTime_eq, setSlew_outTime, switched_domTime, switched_time, Int.add_zero]
  · rw [outputStepped_sameClocks.slewTerm]
    rfl
  · rw [outputStepped_told.2.1, onTim, switched_time]

/-- The oldest switch leaves its queue. -/
def switchGone (r : List (Nat × Option Nat)) (s : State) : State := onTim (fun x => { x with switchTo := r }) s

theorem switchGone_sameClocks {r : List (Nat × Option Nat)} : SameClocks s (switchGone r s) := ⟨fun _ => rfl, rfl, rfl, rfl⟩

/-- The select that asked for a switch completes with it (R517). -/
def selectEnds (id : Option Nat) (s : State) : State := match id with | some id => complete id stOK [] s | none => s

theorem selectEnds_frame {id : Option Nat} : SameBut [.rings] s (selectEnds id s) := by
  cases id with
  | none => exact .refl
  | some id => exact complete_frame (by decide) .refl

theorem selectEnds_completes {id : Option Nat} {i : Nat} {D : Desc} {u : State} (hi : id = some i) (hd : descOf s i = some D)
    (hu : u.rings = s.rings) : Completed i D stOK [] s (selectEnds id u) := by
  subst hi
  exact completed_after hd hu

theorem domainSwitch_exec {e : Nat} {id : Option Nat} {r : List (Nat × Option Nat)} (hr : runs .time s = true)
    (hs : s.time.switchTo = (e, id) :: r) : exec .domainSwitch s = .next (selectEnds id (applySwitch e (switchGone r s))) := by
  refine (ifRuns_runs hr).trans ?_
  rw [hs]
  cases id <;> rfl

theorem applySwitch_rings {e : Nat} : (applySwitch e s).rings = s.rings :=
  SameBut.rings_eq (l := [.outputs, .frm, .faults, .time]) (applySwitch_frame (by decide) .refl)

theorem domainSwitch_yields {e : Nat} {id : Option Nat} {r : List (Nat × Option Nat)} {x : Int} (hr : runs .time s = true)
    (hs : s.time.switchTo = (e, id) :: r) (ha : e ≠ s.time.active) (hx : x = outTime s - domTime s e) :
    Yields .domainSwitch s fun t => t.time.active = e ∧ t.time.switches = satAdd 65535 s.time.switches 1 ∧ t.time.switchTo = r
      ∧ Drives 322 t ∧ (∀ k, domOf t k = domOf s k)
      ∧ ((x.natAbs : Int) ≤ 1000000 * 65536 → outTime t = outTime s ∧ t.time.slewTerm = x ∧ t.time.steps = s.time.steps)
      ∧ (1000000 * 65536 < (x.natAbs : Int) → outTime t = domTime s e ∧ t.time.slewTerm = 0 ∧ Drives 324 t
          ∧ t.time.steps = satAdd 65535 s.time.steps 1)
      ∧ (∀ i d, id = some i → descOf s i = some d → Completed i d stOK [] s t) ∧ SameBut [.outputs, .rings, .frm, .faults, .time] s t := by
  have happ : applySwitch e (switchGone r s) = judgeHoldover (switchTaken e x (switchGone r s)) := by
    rw [applySwitch_other (s := switchGone r s) ha, switchGone_sameClocks.outTime_eq, switchGone_sameClocks.domTime_eq, ← hx]
  have hend := selectEnds_frame (s := applySwitch e (switchGone r s)) (id := id)
  have hclk : SameClocks (switchTaken e x (switchGone r s)) (selectEnds id (applySwitch e (switchGone r s))) :=
    .trans (happ ▸ judgeHoldover_sameClocks) hend.sameClocks
  have htime : (selectEnds id (applySwitch e (switchGone r s))).time = { (switchTaken e x (switchGone r s)).time with
      holdover := (selectEnds id (applySwitch e (switchGone r s))).time.holdover } := by
    rw [hend.time_eq, happ, judgeHoldover_time]
  have hdrive {m : Nat} (h : Drives m (switchTaken e x (switchGone r s))) : Drives m (selectEnds id (applySwitch e (switchGone r s))) := by
    refine Drives.of_frame ?_ hend
    rw [happ]
    exact judgeHoldover_keeps_drives h
  obtain ⟨hactive, hcount, hqueue⟩ := switchTaken_counts (e := e) (x := x) (s := switchGone r s)
  refine .framed ⟨_, domainSwitch_exec hr hs, fun hf => ⟨?_, ?_, ?_, hdrive switchTaken_drives, fun k => ?_, fun h => ?_, fun h => ?_,
    fun i d hi hd => ?_, hf⟩⟩
  · rw [htime, hactive]
  · rw [htime, hcount]
    rfl
  · rw [htime, hqueue]
    rfl
  · rw [hclk.doms, switchTaken_domOf]
    rfl
  · obtain ⟨hout, hterm, hsteps⟩ := switchTaken_slews (e := e) (s := switchGone r s) h
    refine ⟨?_, ?_, ?_⟩
    · rw [hclk.outTime_eq, hout, switchGone_sameClocks.domTime_eq]
      omega
    · rw [hclk.slewTerm, hterm]
    · rw [htime, hsteps]
      rfl
  · obtain ⟨hout, hterm, hstep, hsteps⟩ := switchTaken_steps (e := e) (s := switchGone r s) h
    refine ⟨?_, ?_, hdrive hstep, ?_⟩
    · rw [hclk.outTime_eq, hout, switchGone_sameClocks.domTime_eq]
    · rw [hclk.slewTerm, hterm]
    · rw [htime, hsteps]
      rfl
  · exact selectEnds_completes hi hd applySwitch_rings

/-! ### The end of a slew, a write of a domain's setting (R510 R513 R525) -/

/-- A slew term is gone once local time has run on by what it takes at the rate (R513). -/
theorem slewDown_gone {k : Nat} {n x : Int} (h : (x.natAbs : Int) * 10000000 ≤ n * k) : slewDown k n x = 0 := by
  have hge : (x.natAbs : Int) ≤ n * k / 10000000 := (Int.le_ediv_iff_mul_le (by decide)).mpr h
  unfold slewDown
  dsimp only
  split
  · omega
  · omega

/-- A quotient rounded up times its divisor covers the dividend. -/
theorem le_ceil_mul {a k : Int} (hk : 0 < k) : a ≤ (0 - (0 - a) / k) * k := by
  have hle : (0 - a) / k * k ≤ 0 - a := Int.ediv_mul_le _ (by omega)
  rw [Int.sub_mul]
  omega

theorem slewComplete_yields (hr : runs .time s = true) (hx : s.time.slewTerm ≠ 0) (hk : 0 < s.time.slew) :
    Yields .slewComplete s fun t => t.time.slewTerm = 0 ∧ s.time.now < t.time.now ∧ SameBut [.time] s t := by
  have hrate : 0 < (s.time.slew : Int) := by omega
  have hcond : (decide (s.time.slewTerm ≠ 0) && decide (0 < (s.time.slew : Int))) = true := by simp [hx, hk]
  have hcover := le_ceil_mul (a := (s.time.slewTerm.natAbs : Int) * 10000000) hrate
  have hlater : 0 < 0 - (0 - (s.time.slewTerm.natAbs : Int) * 10000000) / (s.time.slew : Int) := by
    refine Int.lt_of_mul_lt_mul_right (a := (s.time.slew : Int)) ?_ hrate.le
    omega
  refine ⟨_, (ifRuns_runs hr).trans (when_holds hcond), slewDown_gone hcover, ?_, runLocal_frame (by decide) .refl⟩
  exact Int.lt_add_of_pos_right _ hlater

/-- A domain with the setting of a written value (R525). -/
def cfgTaken (v : Nat) (x : Dom) : Dom := { x with lossT := if bits v 24 8 = 0 then x.lossT else bits v 24 8, ptpDomain := bits v 8 8 }

/-- A domain whose servo starts, or stays off (R510). -/
def servoAfresh (b : Bool) (x : Dom) : Dom :=
  { x with en := b, locked := false, holdover := false, everLocked := false, good := 0, sync := none }

/-- A write of `TIM_DOMx_CFG` starts a servo afresh, unless it runs and is written as running (R510 R525). -/
def cfgWritten (d v : Nat) (s : State) : State :=
  putDom s d (if v.testBit 0 = true ∧ (domOf s d).en = true then cfgTaken v (domOf s d)
    else servoAfresh (v.testBit 0) (cfgTaken v (domOf s d)))

theorem cfgWritten_other {d v e : Nat} (h : e ≠ d) : domOf (cfgWritten d v s) e = domOf s e := (domOf_putDom ..).trans (if_neg h)

theorem cfgWritten_self {d v : Nat} : domOf (cfgWritten d v s) d
    = if v.testBit 0 = true ∧ (domOf s d).en = true then cfgTaken v (domOf s d)
      else servoAfresh (v.testBit 0) (cfgTaken v (domOf s d)) := (domOf_putDom ..).trans (if_pos rfl)

/-- Whatever the servo does, the setting stands and the domain's time goes on. -/
theorem cfgWritten_setting {d v : Nat} : (domOf (cfgWritten d v s) d).en = v.testBit 0 ∧ (domOf (cfgWritten d v s) d).ptpDomain = bits v 8 8
    ∧ (domOf (cfgWritten d v s) d).lossT = (if bits v 24 8 = 0 then (domOf s d).lossT else bits v 24 8)
    ∧ domTime (cfgWritten d v s) d = domTime s d := by
  unfold domTime
  rw [cfgWritten_self]
  by_cases h : v.testBit 0 = true ∧ (domOf s d).en = true
  · rw [if_pos h]
    exact ⟨h.2.trans h.1.symm, rfl, rfl, rfl⟩
  · rw [if_neg h]
    exact ⟨rfl, rfl, rfl, rfl⟩

theorem cfgWritten_off {d v : Nat} (h : v.testBit 0 = false) :
    (domOf (cfgWritten d v s) d).locked = false ∧ (domOf (cfgWritten d v s) d).holdover = false := by
  rw [cfgWritten_self, if_neg fun hc => Bool.false_ne_true (h.symm.trans hc.1)]
  exact ⟨rfl, rfl⟩

theorem cfgWritten_on {d v : Nat} (h : v.testBit 0 = true) (he : (domOf s d).en = true) :
    (domOf (cfgWritten d v s) d).locked = (domOf s d).locked := by
  rw [cfgWritten_self, if_pos ⟨h, he⟩]
  rfl

theorem domainEnWrite_yields {v : BitVec 32} (hb : barOpen s = true) :
    Yields (.domainEnWrite d true v) s fun t => (domOf t d.val).en = v.toNat.testBit 0 ∧ (domOf t d.val).ptpDomain = bits v.toNat 8 8
      ∧ (domOf t d.val).lossT = (if bits v.toNat 24 8 = 0 then (domOf s d.val).lossT else bits v.toNat 24 8)
      ∧ (v.toNat.testBit 0 = false → (domOf t d.val).locked = false ∧ (domOf t d.val).holdover = false)
      ∧ (v.toNat.testBit 0 = true → (domOf s d.val).en = true → (domOf t d.val).locked = (domOf s d.val).locked)
      ∧ t.faults.drive.testBit (320 + d.val) = s.faults.drive.testBit (320 + d.val) ∧ t.time.switchTo = s.time.switchTo
      ∧ domTime t d.val = domTime s d.val ∧ (∀ e, e ≠ d.val → domOf t e = domOf s e) ∧ SameBut [.faults, .time] s t := by
  have hexec : exec (.domainEnWrite d true v) s = .next (judgeHoldover (cfgWritten d.val v.toNat s)) := by
    have hopen : (barOpen s && true) = true := by rw [hb]; rfl
    show execDomainEnWrite d true v s = _
    rw [execDomainEnWrite, when_holds hopen]
    rfl
  obtain ⟨hen, hdomain, hloss, htime⟩ := cfgWritten_setting (d := d.val) (v := v.toNat) (s := s)
  refine .framed ⟨_, hexec, fun hf => ?_⟩
  simp only [judgeHoldover_domOf, judgeHoldover_sameClocks.domTime_eq]
  refine ⟨hen, hdomain, hloss, cfgWritten_off, cfgWritten_on, ?_, ?_, htime, fun e => cfgWritten_other, hf⟩
  · exact judgeHoldover_other (by omega)
  · rw [judgeHoldover_time]
    rfl

end Servo

/-- Settles O45: what a Sync, an offset, a loss, a switch, the end of a slew and a write of the setting do. That `EN` written 1 over 1
keeps the lock and the layout of the Delay_Req are the model's (notes/assumptions/39, /79). -/
theorem servosAndSwitches : Obligations.ServosAndSwitches :=
  ⟨fun _ => timNowCapture_yields, fun _ _ _ _ => ptpSync_yields, fun _ _ _ _ _ _ => delayResp_yields, fun _ _ => syncLoss_yields,
    fun _ => revert_yields, fun _ _ _ _ _ => domainSwitch_yields, fun _ => slewComplete_yields, fun _ _ _ => domainEnWrite_yields⟩

end Sys2Proof.Machine
end
section
/-! PROOF. The training of the Umio ports: from Disabled to Up, and to Back-off (13). -/

set_option autoImplicit false
set_option Elab.async false

namespace Sys2Proof.Machine

/-! ### One port -/

section OnePort
variable {s t u : State} {p k : Nat} {x : Port} {c : Cred} {f : Port → Port}

theorem updPort_self : portOf (updPort p f s) p = f (portOf s p) := portOf_updPort.trans (if_pos rfl)

theorem putPort_self : portOf (putPort s p x) p = x := (portOf_putPort ..).trans (if_pos rfl)

theorem OtherPorts.refl : OtherPorts p s s := fun _ _ => rfl

theorem OtherPorts.trans (a : OtherPorts p s t) (b : OtherPorts p t u) : OtherPorts p s u := fun q hq => (b q hq).trans (a q hq)

theorem OtherPorts.of_frame {l : List Part} (h : SameBut l s t) (hc : .chain ∉ l := by decide) (hb : .boot ∉ l := by decide) :
    OtherPorts p s t := fun q _ => h.portOf_eq q hc hb

theorem putPort_others : OtherPorts p s (putPort s p x) := fun _ hq => (portOf_putPort ..).trans (if_neg hq)

theorem updPort_others : OtherPorts p s (updPort p f s) := putPort_others

theorem putCred_others : OtherPorts p s (putCred s p k c) := putPort_others

/-- Entering Lock keeps of a port what is not of its training (R457). -/
theorem enterLock_keeps : (portOf (enterLock p s) p).en = (portOf s p).en ∧ (portOf (enterLock p s) p).maxStep = (portOf s p).maxStep
    ∧ (portOf (enterLock p s) p).sleepEn = (portOf s p).sleepEn ∧ (portOf (enterLock p s) p).signal = (portOf s p).signal := by
  rw [enterLock, updPort_self]
  exact ⟨rfl, rfl, rfl, rfl⟩

/-- The fields of a priority's credits in its range. -/
theorem bits_lt {v a n : Nat} : bits v a n < 2 ^ n := Nat.mod_lt _ (Nat.two_pow_pos n)

end OnePort

/-! ### Enabling, lock, signal (R457 R458 R464) -/

section Train
variable {s : State} {p : Fin 2} {v : BitVec 32}

/-- The port with the fields of a written `CHN_PORTp_CTRL`, enabled (R497). -/
def portEnabled (p v : Nat) (s : State) : State := updPort p (fun x => { x with en := true }) (storePortCtrl p v s)

theorem portEnabled_self {p v : Nat} : (portOf (portEnabled p v s) p).st = (portOf s p).st ∧ (portOf (portEnabled p v s) p).en = true
    ∧ (portOf (portEnabled p v s) p).maxStep = bits v 2 2 ∧ (portOf (portEnabled p v s) p).sleepEn = v.testBit 4 := by
  rw [portEnabled, updPort_self, storePortCtrl, updPort_self]
  exact ⟨rfl, rfl, rfl, rfl⟩

theorem portEnabled_others {p v : Nat} : OtherPorts p s (portEnabled p v s) := updPort_others.trans updPort_others

/-- With `CREFCLK` good a port in Disabled that is enabled trains (R457). -/
theorem enablePort_locks {p v : Nat} (hd : (portOf s p).st = .disabled) (hc : s.power.crefOk = true) :
    enablePort p (storePortCtrl p v s) = enterLock p (portEnabled p v s) := if_pos ⟨portEnabled_self.1.trans hd, hc⟩

theorem portEnable_yields (hb : barOpen s = true) (hv : v.toNat.testBit 0 = true) (hd : (portOf s p.val).st = .disabled)
    (hc : s.power.crefOk = true) :
    Yields (.portEnable p true v) s fun t => Restarts p.val t ∧ (portOf t p.val).en = true ∧ (portOf t p.val).maxStep = bits v.toNat 2 2
      ∧ (portOf t p.val).sleepEn = v.toNat.testBit 4 ∧ OtherPorts p.val s t ∧ SameBut [.chain] s t := by
  have hgo : (barOpen s && true && v.toNat.testBit 0) = true := by rw [hb, hv]; rfl
  have hexec : exec (.portEnable p true v) s = .next (enterLock p.val (portEnabled p.val v.toNat s)) := by
    show execPortEnable p true v s = _
    rw [execPortEnable, when_holds hgo, enablePort_locks hd hc]
  obtain ⟨-, hen, hmax, hsleep⟩ := portEnabled_self (p := p.val) (v := v.toNat) (s := s)
  obtain ⟨ken, kmax, ksleep, -⟩ := enterLock_keeps (p := p.val) (s := portEnabled p.val v.toNat s)
  exact .framed ⟨_, hexec, fun hf => ⟨enterLock_restarts, ken.trans hen, kmax.trans hmax, ksleep.trans hsleep,
    portEnabled_others.trans enterLock_others, hf⟩⟩

theorem blockLock_yields (hr : runs .chain s = true) (hd : (portOf s p.val).st ≠ .disabled) :
    Yields (.blockLock p) s fun t => portOf t p.val = { portOf s p.val with
        lock := true, signal := true, rxSleep := (portOf s p.val).rxSleep && !(portOf s p.val).waking, waking := false }
      ∧ OtherPorts p.val s t ∧ SameBut [.chain] s t :=
  ⟨_, (ifRuns_runs hr).trans (when_holds (decide_eq_true hd)), updPort_self, updPort_others, updPort_frame (by decide) .refl⟩

/-- A port at which energy appears: a sleeping receiver wakes (R464). -/
def signalSeen (p : Nat) (s : State) : State := updPort p (fun x => { x with signal := true, waking := x.waking || x.rxSleep }) s

theorem signalSeen_self {p : Nat} : portOf (signalSeen p s) p
    = { portOf s p with signal := true, waking := (portOf s p).waking || (portOf s p).rxSleep } := updPort_self

theorem signalDetect_exec (hr : runs .chain s = true) : exec (.signalDetect p) s
    = .next (if (portOf s p.val).st = .backoff then enterLock p.val (signalSeen p.val s) else signalSeen p.val s) := by
  have hst : (portOf (signalSeen p.val s) p.val).st = (portOf s p.val).st := by rw [signalSeen_self]
  refine (ifRuns_runs hr).trans ?_
  rw [← hst]
  rfl

/-- Energy ends the back-off, and so does its time (R458). -/
theorem backoff_ends (hr : runs .chain s = true) (hb : (portOf s p.val).st = .backoff) :
    Yields (.signalDetect p) s (fun t => Restarts p.val t ∧ (portOf t p.val).signal = true ∧ OtherPorts p.val s t ∧ SameBut [.chain] s t)
    ∧ Yields (.backoffEnd p) s (fun t => Restarts p.val t ∧ (portOf t p.val).signal = (portOf s p.val).signal ∧ OtherPorts p.val s t
      ∧ SameBut [.chain] s t) := by
  have hsig : (portOf (signalSeen p.val s) p.val).signal = true := by rw [signalSeen_self]
  have hcond : ((portOf s p.val).st == .backoff) = true := by rw [hb]; rfl
  refine ⟨⟨_, (signalDetect_exec hr).trans (congrArg _ (if_pos hb)), enterLock_restarts, enterLock_keeps.2.2.2.trans hsig,
      updPort_others.trans enterLock_others, enterLock_frame (by decide) (updPort_frame (by decide) .refl)⟩,
    ⟨_, (ifRuns_runs hr).trans (when_holds hcond), enterLock_restarts, enterLock_keeps.2.2.2, enterLock_others,
      enterLock_frame (by decide) .refl⟩⟩

theorem signalDetect_wakes (hr : runs .chain s = true) (hb : (portOf s p.val).st ≠ .backoff) (hs : (portOf s p.val).rxSleep = true) :
    Yields (.signalDetect p) s fun t => portOf t p.val = { portOf s p.val with signal := true, waking := true } ∧ OtherPorts p.val s t
      ∧ SameBut [.chain] s t := by
  refine ⟨_, (signalDetect_exec hr).trans (congrArg _ (if_neg hb)), ?_, updPort_others, updPort_frame (by decide) .refl⟩
  have hwake : ((portOf s p.val).waking || (portOf s p.val).rxSleep) = true := by rw [hs, Bool.or_true]
  rw [signalSeen_self, hwake]

/-! ### Capability and its credits (R457 R460 R472) -/

/-- The port that has heard a `CAP` (R456). -/
def capHeard (p v : Nat) (s : State) : State :=
  updPort p (fun x => { x with
    partnerMax := bits v 18 2, partnerWest := v.testBit 11, partnerSleep := v.testBit 9
    capSeen := true, ackSeen := x.ackSeen || v.testBit 10 }) s

theorem credOf_eq_of_cred {t : State} {p q k : Nat} (h : (portOf t p).cred = (portOf s q).cred) (hb : t.boot = s.boot) :
    credOf t p k = credOf s q k := by
  unfold credOf
  rw [h, hb]

theorem capHeard_credOf {p v k : Nat} : credOf (capHeard p v s) p k = credOf s p k :=
  credOf_eq_of_cred (by rw [capHeard, updPort_self]) rfl

/-- The credit counters that a port advertises anew (R470). -/
def advertised (c : Cred) : Cred := { c with advUsed := c.adv, freed := 0, lastInit := none, initOk := false }

/-- The port in Capability with the counters it advertises. -/
def capable (p : Nat) (s : State) : State :=
  putPort s p { portOf s p with
    st := .capability, cred := (List.range 8).foldl (fun t k => Tab.put t k (advertised (credOf s p k))) (portOf s p).cred }

theorem enterCapability_eq {p : Nat} :
    enterCapability p s = if (portOf s p).partnerWest = (p == 1) then raise 267 (capable p s) else capable p s := rfl

theorem enterCapability_portOf {p q : Nat} : portOf (enterCapability p s) q = portOf (capable p s) q := by
  rw [enterCapability_eq]
  split
  · exact raise_portOf ..
  · rfl

theorem enterCapability_credOf {p k : Nat} (h : k < 8) : credOf (enterCapability p s) p k = advertised (credOf s p k) := by
  have hboot : (enterCapability p s).boot = (capable p s).boot :=
    SameBut.boot_eq (s := s) (l := [.faults, .chain]) (enterCapability_frame (by decide) .refl)
  refine (credOf_eq_of_cred (congrArg Port.cred enterCapability_portOf) hboot).trans ?_
  rw [capable, credOf_putPort, if_pos rfl, fold_put, if_pos (List.mem_range.mpr h)]

theorem enterCapability_role {p : Nat} (h : (portOf s p).partnerWest = (p == 1)) : Drives 267 (enterCapability p s) := by
  rw [enterCapability_eq, if_pos h]
  exact raise_drives _ _

/-- A priority whose credits are not settled keeps the port in Capability (R457). -/
theorem tryUp_waits {p k : Nat} (hk : k < 8) (h : (credOf s p k).initOk = false) : tryUp p s = s :=
  if_neg fun hc => Bool.false_ne_true (h.symm.trans (List.all_eq_true.mp hc.2.2 k (List.mem_range.mpr hk)))

/-- With an `ACK` heard and all credits settled the port is Up (R457). -/
theorem tryUp_goes {p : Nat} (hs : (portOf s p).st = .capability) (ha : (portOf s p).ackSeen = true)
    (h : ∀ k, k < 8 → (credOf s p k).initOk = true) :
    tryUp p s = putPort s p { portOf s p with st := .up, backoff := 0, period := (portOf s p).period + 1 } :=
  if_pos ⟨hs, ha, List.all_eq_true.mpr fun k hk => h k (List.mem_range.mp hk)⟩

theorem tryUp_credOf {p q k : Nat} : credOf (tryUp p s) q k = credOf s q k := by
  unfold tryUp
  dsimp only
  split
  · rw [credOf_putPort]
    split
    · next h => rw [h]; rfl
    · rfl
  · rfl

theorem tryUp_others {p : Nat} : OtherPorts p s (tryUp p s) := by
  unfold tryUp
  dsimp only
  split
  · exact putPort_others
  · exact .refl

theorem cap_yields {w : BitVec 24} (hh : Hears s p.val 1 w) (h1 : bits w.toNat 12 4 = 1) (hl : (portOf s p.val).lock = true)
    (hs : (portOf s p.val).st = .lock) :
    Yields (.cap p w) s fun t => (portOf t p.val).st = .capability ∧ (portOf t p.val).partnerMax = bits w.toNat 18 2
      ∧ (portOf t p.val).partnerWest = w.toNat.testBit 11 ∧ (portOf t p.val).partnerSleep = w.toNat.testBit 9
      ∧ (∀ k, k < 8 → credOf t p.val k = { credOf s p.val k with
          advUsed := (credOf s p.val k).adv, freed := 0, lastInit := none, initOk := false })
      ∧ (w.toNat.testBit 11 = (p.val == 1) → Drives 267 t) ∧ OtherPorts p.val s t ∧ SameBut [.faults, .chain] s t := by
  have hself : portOf (capHeard p.val w.toNat s) p.val = { portOf s p.val with
      partnerMax := bits w.toNat 18 2, partnerWest := w.toNat.testBit 11, partnerSleep := w.toNat.testBit 9
      capSeen := true, ackSeen := (portOf s p.val).ackSeen || w.toNat.testBit 10 } := updPort_self
  have hcred {k : Nat} (hk : k < 8) : credOf (enterCapability p.val (capHeard p.val w.toNat s)) p.val k = advertised (credOf s p.val k) := by
    rw [enterCapability_credOf hk, capHeard_credOf]
  have hwait : tryUp p.val (enterCapability p.val (capHeard p.val w.toNat s)) = enterCapability p.val (capHeard p.val w.toNat s) :=
    tryUp_waits (k := 0) (by decide) (by rw [hcred (by decide)]; rfl)
  have hexec : exec (.cap p w) s = .next (enterCapability p.val (capHeard p.val w.toNat s)) := by
    refine (ifRuns_runs hh.1).trans ((onOs_hears hh).trans (congrArg _ ?_))
    dsimp only
    rw [if_neg (not_not_intro h1), ← capHeard, hself, hl, hs]
    exact hwait
  have hport : portOf (enterCapability p.val (capHeard p.val w.toNat s)) p.val = _ := enterCapability_portOf.trans putPort_self
  refine ⟨_, hexec, ?_, ?_, ?_, ?_, fun k hk => hcred hk, fun hw => enterCapability_role ?_, fun q hq => ?_,
    enterCapability_frame (by decide) (updPort_frame (by decide) .refl)⟩
  · rw [hport]
  · rw [hport, hself]
  · rw [hport, hself]
  · rw [hport, hself]
  · rw [hself]
    exact hw
  · exact enterCapability_portOf.trans ((putPort_others q hq).trans (updPort_others q hq))

/-- A priority's credits as a `CREDIT_INIT` sets them: settled once the value has come twice in a row (R472). -/
def initTaken (n : Nat) (c : Cred) : Cred :=
  { c with init := n, sent := 0, returned := 0, seen := 0, lastInit := some n, initOk := c.lastInit == some n }

theorem creditInit_yields {w : BitVec 24} {k n : Nat} (hh : Hears s p.val 2 w) (hs : (portOf s p.val).st = .capability)
    (hk : k = bits w.toNat 17 3) (hn : n = bits w.toNat 4 11) (hrange : n = 0 ∨ (33 ≤ n ∧ n ≤ 1024)) :
    Yields (.creditInit p w) s fun t => credOf t p.val k = { credOf s p.val k with
        init := n, sent := 0, returned := 0, seen := 0, lastInit := some n, initOk := (credOf s p.val k).lastInit == some n }
      ∧ ((portOf s p.val).ackSeen = true → (∀ j, j < 8 → j ≠ k → (credOf s p.val j).initOk = true) → (credOf s p.val k).lastInit = some n →
          (portOf t p.val).st = .up ∧ (portOf t p.val).backoff = 0 ∧ (portOf t p.val).period = (portOf s p.val).period + 1)
      ∧ ((credOf s p.val k).lastInit ≠ some n → (portOf t p.val).st = .capability)
      ∧ (∀ j, j ≠ k → credOf t p.val j = credOf s p.val j) ∧ OtherPorts p.val s t ∧ SameBut [.chain] s t := by
  have hexec : exec (.creditInit p w) s = .next (tryUp p.val (putCred s p.val k (initTaken n (credOf s p.val k)))) := by
    rw [hk, hn]
    refine (ifRuns_runs hh.1).trans ((onOs_hears hh).trans (congrArg _ (if_neg ?_)))
    rw [← hn]
    exact fun hc => hc.elim (fun h => h hs) fun h => h hrange
  have hself : credOf (putCred s p.val k (initTaken n (credOf s p.val k))) p.val k = initTaken n (credOf s p.val k) :=
    credOf_putCred.trans (if_pos ⟨rfl, rfl⟩)
  have hother {j : Nat} (hj : j ≠ k) : credOf (putCred s p.val k (initTaken n (credOf s p.val k))) p.val j = credOf s p.val j :=
    credOf_putCred.trans (if_neg fun h => hj h.2)
  have hport : portOf (putCred s p.val k (initTaken n (credOf s p.val k))) p.val = { portOf s p.val with
      cred := Tab.put (portOf s p.val).cred k (initTaken n (credOf s p.val k)) } := putPort_self
  refine ⟨_, hexec, tryUp_credOf.trans hself, fun ha hall hlast => ?_, fun hlast => ?_, fun j hj => tryUp_credOf.trans (hother hj),
    putCred_others.trans tryUp_others, tryUp_frame (by decide) (putCred_frame (by decide) .refl)⟩
  · have hok (j : Nat) (hj : j < 8) : (credOf (putCred s p.val k (initTaken n (credOf s p.val k))) p.val j).initOk = true := by
      by_cases hjk : j = k
      · rw [hjk, hself, initTaken, hlast, beq_self_eq_true]
      · rw [hother hjk]
        exact hall j hj hjk
    rw [tryUp_goes (by rw [hport]; exact hs) (by rw [hport]; exact ha) hok, putPort_self, hport]
    exact ⟨rfl, rfl, rfl⟩
  · have hk8 : k < 8 := hk ▸ bits_lt
    rw [tryUp_waits hk8 (by rw [hself]; exact beq_eq_false_iff_ne.mpr hlast), hport]
    exact hs

/-- A training that has taken too long ends in a back-off that doubles (R458). -/
theorem chnTrain_yields (hr : runs .chain s = true) (hs : (portOf s p.val).st = .lock ∨ (portOf s p.val).st = .capability) :
    Yields (.chnTrain p) s fun t => portOf t p.val = { portOf s p.val with st := .backoff, backoff := min 6 ((portOf s p.val).backoff + 1) }
      ∧ Drives (258 + p.val) t ∧ OtherPorts p.val s t ∧ SameBut [.faults, .chain] s t := by
  have hcond : ((portOf s p.val).st == .lock || (portOf s p.val).st == .capability) = true := by
    rcases hs with h | h
    · rw [h]; rfl
    · rw [h]; rfl
  exact ⟨_, (ifRuns_runs hr).trans (when_holds hcond), (raise_portOf ..).trans putPort_self, raise_drives _ _,
    fun q hq => (raise_portOf ..).trans (putPort_others q hq), raise_frame (by decide) (putPort_frame (by decide) .refl)⟩

end Train

/-- Settles O38: each command of the training takes the port to its next state. -/
theorem portTraining : Obligations.PortTraining :=
  ⟨fun _ _ _ => portEnable_yields, fun _ _ => blockLock_yields, fun _ _ => backoff_ends, fun _ _ => signalDetect_wakes,
    fun _ _ _ => cap_yields, fun _ _ _ _ _ => creditInit_yields, fun _ _ => chnTrain_yields⟩

end Sys2Proof.Machine
end
section
/-! PROOF. How a link-up period ends: by command, by the line, by the partner, by a violation (13). -/

set_option autoImplicit false
set_option Elab.async false

namespace Sys2Proof.Machine

/-! ### What going down leaves -/

section Ends
variable {s t u : State} {p k : Nat} {x : Port} {f : Port → Port}

theorem OthersStay.trans (a : OthersStay p s t) (b : OthersStay p t u) : OthersStay p s u := fun q hq => by
  obtain ⟨a1, a2, a3, a4, a5, a6⟩ := a q hq
  obtain ⟨b1, b2, b3, b4, b5, b6⟩ := b q hq
  exact ⟨b1.trans a1, b2.trans a2, b3.trans a3, b4.trans a4, b5.trans a5, b6.trans a6⟩

/-- A link-up period that ends from a state with the same number ends from the one before. -/
theorem LinkEnds.of_period (h : LinkEnds p u t) (e : (portOf u p).period = (portOf s p).period) : LinkEnds p s t := by
  unfold LinkEnds at h ⊢
  rw [← e]
  exact h

/-- The port is what it was before in what its going down rests on. -/
structure PortLike (p : Nat) (s u : State) : Prop where
  up : linkUp (portOf u p) = linkUp (portOf s p)
  period : (portOf u p).period = (portOf s p).period
  others : OtherPorts p s u

theorem PortLike.of_upd (hst : ∀ x, (f x).st = x.st) (hper : ∀ x, (f x).period = x.period) : PortLike p s (updPort p f s) where
  up := by rw [updPort_self, linkUp, linkUp, hst]
  period := by rw [updPort_self, hper]
  others := updPort_others

theorem PortLike.of_frame {l : List Part} (h : SameBut l s u) (hc : .chain ∉ l := by decide) (hb : .boot ∉ l := by decide) :
    PortLike p s u where
  up := by rw [h.portOf_eq p hc hb]
  period := by rw [h.portOf_eq p hc hb]
  others := .of_frame h hc hb

theorem PortLike.refl : PortLike p s s := ⟨rfl, rfl, .refl⟩

theorem PortLike.trans (a : PortLike p s t) (b : PortLike p t u) : PortLike p s u :=
  ⟨b.up.trans a.up, b.period.trans a.period, a.others.trans b.others⟩

/-- From such a state on, a port in its link-up period goes down with `CHN_DOWN` (R459). -/
theorem PortLike.goes_down (h : PortLike p s u) (hl : linkUp (portOf s p) = true) :
    Restarts p (portDown p true u) ∧ LinkEnds p s (portDown p true u) ∧ Drives (256 + p) (portDown p true u)
      ∧ OthersStay p s (portDown p true u) := by
  obtain ⟨hlock, hend, hothers, hdrive, -⟩ := portDown_all (h.up.trans hl)
  exact ⟨hlock, hend.of_period h.period, hdrive, (othersStay_of h.others).trans hothers⟩

/-- A source that drove before the port went down drives on. -/
theorem portDown_keeps_drives {m : Nat} (hl : linkUp (portOf s p) = true) (h : Drives m s) : Drives m (portDown p true s) := by
  obtain ⟨-, -, -, -, hkeep, -⟩ := portDown_all hl
  exact hkeep m h

/-- A commanded end trains afresh and raises nothing (R459). -/
theorem PortLike.retrains (h : PortLike p s u) (hl : linkUp (portOf s p) = true) (hf : u.faults = s.faults) :
    Restarts p (enterLock p (leaveLink p false u)) ∧ LinkEnds p s (enterLock p (leaveLink p false u))
      ∧ (enterLock p (leaveLink p false u)).faults = s.faults ∧ OthersStay p s (enterLock p (leaveLink p false u)) := by
  obtain ⟨hlock, hend, hothers, -, hquiet, -⟩ := down_all (r := false) (h.up.trans hl)
  exact ⟨hlock, hend.of_period h.period, (hquiet rfl).trans hf, (othersStay_of h.others).trans hothers⟩

theorem linkUp_of_flows (h : flows x = true) : linkUp x = true := by
  unfold flows at h
  unfold linkUp
  rcases Bool.or_eq_true_iff.mp h with h | h
  · rw [h]; rfl
  · rw [h]; simp

theorem linkUp_of_up (h : x.st = .up) : linkUp x = true := by
  rw [linkUp, h]
  rfl

theorem linkUp_enabled (h : linkUp x = true) : x.st ≠ .disabled := fun hd => by
  rw [linkUp, hd] at h
  exact absurd h (by decide)

theorem storePortCtrl_like {v : Nat} : PortLike p s (storePortCtrl p v s) := .of_upd (fun _ => rfl) fun _ => rfl

theorem sendOs_frame_like {kind fields : Nat} : PortLike p s (sendOs p kind fields s) :=
  .of_frame (l := [.outputs]) (sendOs_frame (by decide) .refl)

theorem raise_like {n : Nat} : PortLike p s (raise n s) := .of_frame (l := [.faults]) (raise_frame (by decide) .refl)

end Ends

section Down
variable {s : State} {p : Fin 2} {v : BitVec 32} {w : BitVec 24}

/-! ### By command (R459 R497) -/

/-- A port that is told to go says so on the line and leaves it idle (R459). -/
def downSaid (p v : Nat) (s : State) : State := emit (.electricalIdle p) (sendOs p 7 0 (storePortCtrl p v s))

theorem downSaid_like {p v : Nat} : PortLike p s (downSaid p v s) :=
  storePortCtrl_like.trans (.of_frame (l := [.outputs]) (emit_frame (by decide) (sendOs_frame (by decide) .refl)))

theorem portDisable_yields (hb : barOpen s = true) (hv : v.toNat.testBit 0 = false) (hl : linkUp (portOf s p.val) = true) :
    Yields (.portDisable p true v) s fun t => (portOf t p.val).st = .disabled ∧ (portOf t p.val).en = false ∧ LinkEnds p.val s t
      ∧ t.outputs = .electricalIdle p.val :: .orderedSet p.val 7 (osPayload 7 0) :: s.outputs ∧ t.faults = s.faults ∧ OthersStay p.val s t
      ∧ SameBut [.outputs, .freeCtr, .rings, .faults, .chain] s t := by
  have hgo : (barOpen s && true && !v.toNat.testBit 0) = true := by rw [hb, hv]; rfl
  have hon : (portOf (storePortCtrl p.val v.toNat s) p.val).st ≠ .disabled := linkUp_enabled (storePortCtrl_like.up.trans hl)
  have hexec : exec (.portDisable p true v) s = .next (updPort p.val (fun x => { x with en := false, st := .disabled })
      (enterLock p.val (leaveLink p.val false (downSaid p.val v.toNat s)))) := by
    show execPortDisable p true v s = _
    rw [execPortDisable, when_holds hgo, disablePort, if_neg hon]
    rfl
  obtain ⟨-, hend, hquiet, hothers⟩ := (downSaid_like (p := p.val) (v := v.toNat) (s := s)).retrains hl rfl
  refine .framed ⟨_, hexec, fun hf => ⟨?_, ?_, ?_, ?_, hquiet, hothers.trans (othersStay_of updPort_others), hf⟩⟩
  · rw [updPort_self]
  · rw [updPort_self]
  · unfold LinkEnds at hend ⊢
    rw [updPort_self]
    exact hend
  · exact SameBut.outputs_eq (l := [.freeCtr, .rings, .faults, .chain]) (s := downSaid p.val v.toNat s)
      (updPort_frame (by decide) (enterLock_frame (by decide) (leaveLink_frame (by decide) .refl)))

theorem retrain_yields (hb : barOpen s = true) (h0 : v.toNat.testBit 0 = true) (h16 : v.toNat.testBit 16 = true)
    (hl : linkUp (portOf s p.val) = true) :
    Yields (.retrain p true v) s fun t => Restarts p.val t ∧ LinkEnds p.val s t ∧ t.faults = s.faults ∧ OthersStay p.val s t
      ∧ SameBut [.outputs, .freeCtr, .rings, .faults, .chain] s t := by
  have hgo : (barOpen s && true && v.toNat.testBit 16) = true := by rw [hb, h16]; rfl
  have hon : (portOf (storePortCtrl p.val v.toNat s) p.val).st ≠ .disabled := linkUp_enabled (storePortCtrl_like.up.trans hl)
  have hexec : exec (.retrain p true v) s = .next (enterLock p.val (leaveLink p.val false (storePortCtrl p.val v.toNat s))) := by
    show execRetrain p true v s = _
    rw [execRetrain, when_holds hgo]
    dsimp only
    rw [if_pos h0, if_neg hon, retrainPort, if_neg hon]
  obtain ⟨hlock, hend, hquiet, hothers⟩ := (storePortCtrl_like (p := p.val) (v := v.toNat) (s := s)).retrains hl rfl
  exact .framed ⟨_, hexec, fun hf => ⟨hlock, hend, hquiet, hothers, hf⟩⟩

/-! ### By the line (R454 R461 R463 R464) -/

/-- The port without block lock; in a trial of a step it says so (R461). -/
def lockLost (p : Nat) (s : State) : State :=
  let u := updPort p (fun x => { x with lock := false }) s
  if (portOf s p).st = .stepTrial then raise (260 + p) (sendOs p 4 (at_ 18 (portOf s p).step + at_ 16 3) u) else u

theorem lockLost_like {p : Nat} : PortLike p s (lockLost p s) := by
  have hlock : PortLike p s (updPort p (fun x => { x with lock := false }) s) := .of_upd (fun _ => rfl) fun _ => rfl
  unfold lockLost
  dsimp only
  split
  · exact (hlock.trans sendOs_frame_like).trans raise_like
  · exact hlock

theorem lockLost_told {p : Nat} (h : (portOf s p).st = .stepTrial) : Drives (260 + p) (lockLost p s) := by
  rw [lockLost, if_pos h]
  exact raise_drives _ _

/-- The port without signal and without block lock. -/
def signalLost (p : Nat) (s : State) : State := updPort p (fun x => { x with lock := false }) (updPort p (fun x => { x with signal := false }) s)

theorem signalLost_like {p : Nat} : PortLike p s (signalLost p s) :=
  .trans (.of_upd (f := fun x => { x with signal := false }) (fun _ => rfl) fun _ => rfl) (.of_upd (fun _ => rfl) fun _ => rfl)

theorem line_lost (hr : runs .chain s = true) (hl : linkUp (portOf s p.val) = true) (hs : (portOf s p.val).rxSleep = false) :
    Yields (.blockLockLoss p) s (fun t => Restarts p.val t ∧ LinkEnds p.val s t ∧ Drives (256 + p.val) t
      ∧ ((portOf s p.val).st = .stepTrial → Drives (260 + p.val) t) ∧ OthersStay p.val s t ∧ SameBut [.outputs, .freeCtr, .rings, .faults,
          .chain] s t)
    ∧ Yields (.lossOfSignal p) s (fun t => Restarts p.val t ∧ LinkEnds p.val s t ∧ Drives (256 + p.val) t ∧ (portOf t p.val).signal = false
      ∧ OthersStay p.val s t ∧ SameBut [.freeCtr, .rings, .faults, .chain] s t) := by
  have hawake : ¬ (portOf s p.val).rxSleep = true := ne_true_of_eq_false hs
  constructor
  · obtain ⟨hlock, hend, hdrive, hothers⟩ := (lockLost_like (p := p.val) (s := s)).goes_down hl
    exact .framed ⟨portDown p.val true (lockLost p.val s), (ifRuns_runs hr).trans (if_neg hawake), fun hf => ⟨hlock, hend, hdrive, fun ht =>
      portDown_keeps_drives (lockLost_like.up.trans hl) (lockLost_told ht), hothers, hf⟩⟩
  · obtain ⟨hlock, hend, hdrive, hothers⟩ := (signalLost_like (p := p.val) (s := s)).goes_down hl
    obtain ⟨-, -, -, -, -, hsig, -⟩ := portDown_all ((signalLost_like (p := p.val) (s := s)).up.trans hl)
    refine .framed ⟨portDown p.val true (signalLost p.val s), (ifRuns_runs hr).trans (if_neg hawake), fun hf =>
      ⟨hlock, hend, hdrive, hsig.trans ?_, hothers, hf⟩⟩
    rw [signalLost, updPort_self, updPort_self]

/-- A receive direction that sleeps does not miss the line (R463). -/
theorem line_asleep (hr : runs .chain s = true) (hs : (portOf s p.val).rxSleep = true) :
    Yields (.blockLockLoss p) s (fun t => t = s)
    ∧ Yields (.lossOfSignal p) s (fun t => portOf t p.val = { portOf s p.val with signal := false, waking := false } ∧ OtherPorts p.val s t
      ∧ SameBut [.chain] s t) := by
  refine ⟨⟨_, (ifRuns_runs hr).trans (if_pos hs), rfl⟩, _, (ifRuns_runs hr).trans (if_pos hs), ?_, updPort_others.trans updPort_others,
    updPort_frame (by decide) (updPort_frame (by decide) .refl)⟩
  rw [updPort_self, updPort_self]

theorem wakeLockTimeout_yields (hr : runs .chain s = true) (hs : (portOf s p.val).rxSleep = true) (hw : (portOf s p.val).waking = true)
    (hl : linkUp (portOf s p.val) = true) :
    Yields (.wakeLockTimeout p) s fun t => Restarts p.val t ∧ LinkEnds p.val s t ∧ Drives (256 + p.val) t ∧ OthersStay p.val s t
      ∧ SameBut [.freeCtr, .rings, .faults, .chain] s t := by
  have hcond : ((portOf s p.val).rxSleep && (portOf s p.val).waking) = true := by rw [hs, hw]; rfl
  obtain ⟨hlock, hend, hdrive, hothers⟩ := (PortLike.refl (p := p.val) (s := s)).goes_down hl
  exact .framed ⟨_, (ifRuns_runs hr).trans (when_holds hcond), fun hf => ⟨hlock, hend, hdrive, hothers, hf⟩⟩

/-! ### By the partner (R459 R472 R486) -/

theorem down_yields (hh : Hears s p.val 7 w) (hl : linkUp (portOf s p.val) = true) :
    Yields (.down p w) s fun t => Restarts p.val t ∧ LinkEnds p.val s t ∧ Drives (256 + p.val) t ∧ OthersStay p.val s t
      ∧ SameBut [.outputs, .freeCtr, .rings, .faults, .chain] s t := by
  obtain ⟨hlock, hend, hdrive, hothers⟩ := (PortLike.refl (p := p.val) (s := s)).goes_down hl
  exact .framed ⟨_, (ifRuns_runs hh.1).trans (onOs_hears hh), fun hf => ⟨hlock, hend, hdrive, hothers, hf⟩⟩

/-- The credits of a priority with the cells that a `CREDIT` returns (R472). -/
def creditTaken (d r : Nat) (c : Cred) : Cred := { c with returned := c.returned + d, seen := r }

/-- A `CREDIT` returns cells, unless it returns more than were sent (R472). -/
theorem credit_yields {k d : Nat} (hh : Hears s p.val 3 w) (hfl : flows (portOf s p.val) = true) (hk : k = bits w.toNat 17 3)
    (hd : d = (bits w.toNat 4 13 + 8192 - (credOf s p.val k).seen) % 8192) :
    Yields (.credit p w) s fun t =>
      (d ≤ (credOf s p.val k).sent - (credOf s p.val k).returned →
        credOf t p.val k = { credOf s p.val k with returned := (credOf s p.val k).returned + d, seen := bits w.toNat 4 13 }
          ∧ (∀ j, j ≠ k → credOf t p.val j = credOf s p.val j) ∧ OtherPorts p.val s t)
      ∧ ((credOf s p.val k).sent - (credOf s p.val k).returned < d →
        Restarts p.val t ∧ LinkEnds p.val s t ∧ Drives 268 t ∧ Drives (256 + p.val) t ∧ OthersStay p.val s t)
      ∧ SameBut [.outputs, .freeCtr, .rings, .faults, .chain] s t := by
  have hexec : exec (.credit p w) s = .next (if (credOf s p.val k).sent - (credOf s p.val k).returned < d
      then portDown p.val true (raise 268 s) else putCred s p.val k (creditTaken d (bits w.toNat 4 13) (credOf s p.val k))) := by
    have hflows : ¬ (!flows (portOf s p.val)) = true := by rw [hfl]; decide
    rw [hd, hk]
    exact (ifRuns_runs hh.1).trans ((onOs_hears hh).trans (congrArg _ (if_neg hflows)))
  by_cases hv : (credOf s p.val k).sent - (credOf s p.val k).returned < d
  · obtain ⟨hlock, hend, hdrive, hothers⟩ := (raise_like (n := 268)).goes_down (linkUp_of_flows hfl)
    exact .framed ⟨_, hexec.trans (congrArg _ (if_pos hv)), fun hf => ⟨fun h => absurd hv (Nat.not_lt.mpr h), fun _ => ⟨hlock, hend,
      portDown_keeps_drives (raise_like.up.trans (linkUp_of_flows hfl)) (raise_drives _ _), hdrive, hothers⟩, hf⟩⟩
  · exact .framed ⟨_, hexec.trans (congrArg _ (if_neg hv)), fun hf => ⟨fun _ => ⟨credOf_putCred.trans (if_pos ⟨rfl, rfl⟩),
      fun j hj => credOf_putCred.trans (if_neg fun h => hj h.2), putCred_others⟩, fun h => absurd h hv, hf⟩⟩

/-- The neighbour has not been heard of (R486). -/
def neighbourLost (p : Nat) (s : State) : State := raise (262 + p) (putPort s p { portOf s p with neighOk := false })

theorem neighbourLost_self {p : Nat} : portOf (neighbourLost p s) p = { portOf s p with neighOk := false } :=
  (raise_portOf ..).trans putPort_self

theorem neighbourLost_like {p : Nat} : PortLike p s (neighbourLost p s) where
  up := by rw [neighbourLost_self, linkUp, linkUp]
  period := by rw [neighbourLost_self]
  others := fun q hq => (raise_portOf ..).trans (putPort_others q hq)

theorem chnNeigh_yields (hr : runs .mp s = true) (hu : (portOf s p.val).st = .up) :
    Yields (.chnNeigh p) s fun t => Drives (262 + p.val) t ∧ (portOf t p.val).neighOk = false
      ∧ ((portOf s p.val).rxSleep = false → portOf t p.val = { portOf s p.val with neighOk := false })
      ∧ ((portOf s p.val).rxSleep = true → Restarts p.val t ∧ LinkEnds p.val s t ∧ Drives (256 + p.val) t)
      ∧ OthersStay p.val s t ∧ SameBut [.freeCtr, .rings, .faults, .chain] s t := by
  have hcond : ((portOf s p.val).st == .up) = true := by rw [hu]; rfl
  have hl := linkUp_of_up hu
  have hexec : exec (.chnNeigh p) s
      = .next (if (portOf s p.val).rxSleep = true then portDown p.val true (neighbourLost p.val s) else neighbourLost p.val s) :=
    (ifRuns_runs hr).trans (when_holds hcond)
  cases hs : (portOf s p.val).rxSleep
  case false =>
    refine .framed ⟨_, hexec.trans (congrArg _ (if_neg (ne_true_of_eq_false hs))), fun hf => ⟨raise_drives _ _, ?_, fun _ => neighbourLost_self,
      fun h => absurd h (by decide), othersStay_of neighbourLost_like.others, hf⟩⟩
    rw [neighbourLost_self]
  case true =>
    obtain ⟨hlock, hend, hdrive, hothers⟩ := (neighbourLost_like (p := p.val) (s := s)).goes_down hl
    obtain ⟨-, -, -, -, -, -, hneigh⟩ := portDown_all ((neighbourLost_like (p := p.val) (s := s)).up.trans hl)
    refine .framed ⟨_, hexec.trans (congrArg _ (if_pos hs)), fun hf =>
      ⟨portDown_keeps_drives (neighbourLost_like.up.trans hl) (raise_drives _ _), hneigh.trans ?_, fun h => absurd h (by decide),
        fun _ => ⟨hlock, hend, hdrive⟩, hothers, hf⟩⟩
    rw [neighbourLost_self]

end Down

/-- Settles O39: every way out of a link-up period cuts, discards and trains afresh. That one `DOWN` suffices, and that a lost block
lock in a trial also raises `CHN_STEP`, is the model's (notes/assumptions/79, /44). -/
theorem portDown_holds : Obligations.PortDown :=
  ⟨fun _ _ _ => portDisable_yields, fun _ _ _ => retrain_yields, fun _ _ => line_lost, fun _ _ => line_asleep, fun _ _ _ => down_yields,
    fun _ _ => wakeLockTimeout_yields, fun _ _ _ _ _ => credit_yields, fun _ _ => chnNeigh_yields⟩

end Sys2Proof.Machine
end
section
/-! PROOF. Steps of the Umio ports (13). -/

set_option autoImplicit false
set_option Elab.async false

namespace Sys2Proof.Machine

/-! ### Sets on the line, a frame cut -/

section Line
variable {s : State} {p k n : Nat}

theorem sendOs_outputs : (sendOs p k n s).outputs = .orderedSet p k (osPayload k n) :: s.outputs := rfl

theorem sendOs_portOf {q : Nat} : portOf (sendOs p k n s) q = portOf s q := SameBut.portOf_eq (l := [.outputs]) (sendOs_frame (by decide) .refl) q

theorem sendOs_others {q : Nat} : OtherPorts q s (sendOs p k n s) := fun _ _ => sendOs_portOf

theorem sendIdles_portOf {q : Nat} : portOf (sendIdles p s) q = portOf s q := SameBut.portOf_eq (l := [.outputs]) (sendIdles_frame (by decide) .refl) q

/-- With no frame being sent there is none to cut. -/
theorem cutTx_none (h : (portOf s p).tx = none) : cutTx p s = s := by
  unfold cutTx
  rw [h]

/-- The frame being sent is cut; of the port, the step and the counts of errors stay (R462 R469). -/
theorem cutTx_self : (portOf (cutTx p s) p).tx = none ∧ (portOf (cutTx p s) p).step = (portOf s p).step
    ∧ (portOf (cutTx p s) p).oldStep = (portOf s p).oldStep ∧ (portOf (cutTx p s) p).blockErr = (portOf s p).blockErr := by
  obtain ⟨⟨c, d, e, h⟩, -, -⟩ := cutTx_cut p s
  rw [h]
  exact ⟨rfl, rfl, rfl, rfl⟩

theorem cutTx_othersStay : OthersStay p s (cutTx p s) := fun q hq => by
  rw [eqcred ((cutTx_cut p s).others q hq)]
  exact ⟨rfl, rfl, rfl, rfl, rfl, rfl⟩

theorem cutTx_kept : (cutTx p s).faults = s.faults ∧ (cutTx p s).outputs = s.outputs :=
  have h : SameBut [.freeCtr, .rings, .chain] s (cutTx p s) := cutTx_frame (by decide) .refl
  ⟨h.faults_eq, h.outputs_eq⟩

/-! ### A switch and a fallback (R461) -/

theorem enterSwitch_self : (portOf (enterSwitch p n s) p).st = .stepSwitch ∧ (portOf (enterSwitch p n s) p).step = n
    ∧ (portOf (enterSwitch p n s) p).oldStep = (portOf s p).step ∧ (portOf (enterSwitch p n s) p).lock = false
    ∧ (portOf (enterSwitch p n s) p).asking = false ∧ (portOf (enterSwitch p n s) p).tx = none := by
  obtain ⟨htx, hstep, -, -⟩ := cutTx_self (s := s) (p := p)
  rw [enterSwitch, updPort_self, sendIdles_portOf]
  exact ⟨rfl, rfl, hstep, rfl, rfl, htx⟩

theorem enterSwitch_othersStay : OthersStay p s (enterSwitch p n s) :=
  (cutTx_othersStay.trans (othersStay_of fun _ _ => sendIdles_portOf)).trans (othersStay_of updPort_others)

theorem enterSwitch_others (h : (portOf s p).tx = none) : OtherPorts p s (enterSwitch p n s) := fun q hq => by
  rw [enterSwitch, updPort_others q hq, sendIdles_portOf, cutTx_none h]

theorem enterSwitch_kept : (enterSwitch p n s).faults = s.faults ∧ (enterSwitch p n s).outputs = s.outputs := cutTx_kept

theorem enterFallback_self : (portOf (enterFallback p s) p).st = .fallback ∧ (portOf (enterFallback p s) p).step = (portOf s p).oldStep
    ∧ (portOf (enterFallback p s) p).noStep = true ∧ (portOf (enterFallback p s) p).tx = none
    ∧ (portOf (enterFallback p s) p).blockErr = (portOf s p).blockErr := by
  obtain ⟨htx, -, hold, herr⟩ := cutTx_self (s := s) (p := p)
  rw [enterFallback, raise_portOf, updPort_self, sendIdles_portOf]
  exact ⟨rfl, hold, rfl, htx, herr⟩

theorem enterFallback_told : Drives (260 + p) (enterFallback p s) := raise_drives _ _

theorem enterFallback_othersStay : OthersStay p s (enterFallback p s) :=
  ((cutTx_othersStay.trans (othersStay_of fun _ _ => sendIdles_portOf)).trans (othersStay_of updPort_others)).trans
    (othersStay_of fun _ _ => raise_portOf ..)

theorem enterFallback_outputs : (enterFallback p s).outputs = s.outputs := (raise_outputs ..).trans cutTx_kept.2

/-- A trial that both sides have found good is kept (R461). -/
theorem keepStep_self (h : (portOf s p).st = .stepTrial) : portOf (keepStep p s) p = { portOf s p with
    st := if (portOf s p).goodSent = true ∧ (portOf s p).goodSeen = true then .up else .stepTrial } := by
  unfold keepStep
  dsimp only
  by_cases hg : (portOf s p).goodSent = true ∧ (portOf s p).goodSeen = true
  · rw [if_pos ⟨h, hg⟩, if_pos hg, putPort_self]
  · rw [if_neg fun hc => hg hc.2, if_neg hg, ← h]

theorem keepStep_others : OtherPorts p s (keepStep p s) := by
  unfold keepStep
  dsimp only
  split
  · exact putPort_others
  · exact .refl

theorem keepStep_kept : (keepStep p s).faults = s.faults ∧ (keepStep p s).outputs = s.outputs := by
  unfold keepStep
  dsimp only
  split
  · exact ⟨rfl, rfl⟩
  · exact ⟨rfl, rfl⟩

end Line

/-! ### Steps (R460 R461) -/

section Steps
variable {s : State} {p : Fin 2} {w : BitVec 24} {x : Port}

theorem stepUpStart_yields (hr : runs .chain s = true) (hx : x = portOf s 1) (hu : x.st = .up) (ha : x.asking = false)
    (hno : x.noStep = false) (hw : x.partnerWest = false) (ht : x.tx = none) (hs : x.txSleep = false)
    (hlt : x.step < min x.maxStep x.partnerMax) :
    Yields (.stepUpStart 1) s fun t => portOf t 1 = { x with asking := true, target := x.step + 1 } ∧ OtherPorts 1 s t
      ∧ t.outputs = .orderedSet 1 4 (osPayload 4 (at_ 18 (x.step + 1))) :: s.outputs ∧ SameBut [.outputs, .chain] s t := by
  subst hx
  have hcond : (decide ((1 : Fin 2).val = 1) && (portOf s 1).st == .up && !(portOf s 1).asking && !(portOf s 1).noStep
      && !(portOf s 1).partnerWest && (portOf s 1).tx.isNone && !(portOf s 1).txSleep
      && decide ((portOf s 1).step < min (portOf s 1).maxStep (portOf s 1).partnerMax)) = true := by
    rw [hu, ha, hno, hw, ht, hs, decide_eq_true hlt]
    rfl
  exact ⟨_, (ifRuns_runs hr).trans (when_holds hcond), sendOs_portOf.trans putPort_self, putPort_others.trans sendOs_others,
    sendOs_outputs, sendOs_frame (by decide) (putPort_frame (by decide) .refl)⟩

/-- What an East port in Up makes of a request (R461). -/
def requestTaken (n : Nat) (s : State) : State :=
  if (portOf s 0).maxStep < n then sendOs 0 4 (at_ 18 n + at_ 16 2) s
  else if (portOf s 0).tx.isSome then putPort s 0 { portOf s 0 with asking := true, target := n }
  else acceptStep 0 n s

theorem stepRequest_yields {n : Nat} (hh : Hears s 0 4 w) (hu : (portOf s 0).st = .up) (hc : stepCode w = 0) (hn : n = bits w.toNat 18 2)
    (hw : (portOf s 0).partnerWest = true) :
    Yields (.stepRequest 0 w) s fun t =>
      (n ≤ (portOf s 0).maxStep → (portOf s 0).tx ≠ none →
        portOf t 0 = { portOf s 0 with asking := true, target := n } ∧ t.outputs = s.outputs)
      ∧ (n ≤ (portOf s 0).maxStep → (portOf s 0).tx = none → (portOf t 0).st = .stepSwitch ∧ (portOf t 0).step = n
          ∧ (portOf t 0).oldStep = (portOf s 0).step
        ∧ (portOf t 0).lock = false ∧ t.outputs = .orderedSet 0 4 (osPayload 4 (at_ 18 n + at_ 16 1)) :: s.outputs)
      ∧ ((portOf s 0).maxStep < n → portOf t 0 = portOf s 0
        ∧ t.outputs = .orderedSet 0 4 (osPayload 4 (at_ 18 n + at_ 16 2)) :: s.outputs)
      ∧ OtherPorts 0 s t ∧ t.faults = s.faults ∧ SameBut [.outputs, .freeCtr, .rings, .faults, .chain] s t := by
  have hexec : exec (.stepRequest 0 w) s = .next (requestTaken n s) := by
    rw [hn]
    refine (ifRuns_runs hh.1).trans ((onOs_hears (p := 0) hh).trans (congrArg _ (if_neg ?_)))
    exact fun h => h.elim (fun h => h rfl) fun h => h.elim (fun h => h hu) fun h => h.elim (fun h => h hc) fun h => h hw
  by_cases hmax : (portOf s 0).maxStep < n
  · refine .framed ⟨_, hexec.trans (congrArg _ (if_pos hmax)), fun hf => ⟨fun h => absurd hmax (Nat.not_lt.mpr h),
      fun h => absurd hmax (Nat.not_lt.mpr h), fun _ => ⟨sendOs_portOf, sendOs_outputs⟩, sendOs_others, rfl, hf⟩⟩
  · cases ht : (portOf s 0).tx with
    | some y =>
      have hsome : (portOf s 0).tx.isSome = true := by rw [ht]; rfl
      exact .framed ⟨_, hexec.trans (congrArg _ ((if_neg hmax).trans (if_pos hsome))), fun hf => ⟨fun _ _ => ⟨putPort_self, rfl⟩,
        fun _ h => absurd h (Option.some_ne_none y), fun h => absurd h hmax, putPort_others, rfl, hf⟩⟩
    | none =>
      have hnone : ¬ (portOf s 0).tx.isSome = true := by rw [ht]; decide
      have htx : (portOf (sendOs 0 4 (at_ 18 n + at_ 16 1) s) 0).tx = none := by rw [sendOs_portOf, ht]
      obtain ⟨hst, hstep, hold, hlock, -, -⟩ := enterSwitch_self (s := sendOs 0 4 (at_ 18 n + at_ 16 1) s) (p := 0) (n := n)
      exact .framed ⟨_, hexec.trans (congrArg _ ((if_neg hmax).trans (if_neg hnone))), fun hf => ⟨fun _ h => absurd rfl h,
        fun _ _ => ⟨hst, hstep, hold.trans (congrArg Port.step sendOs_portOf), hlock, enterSwitch_kept.2⟩, fun h => absurd h hmax,
        sendOs_others.trans (enterSwitch_others htx), enterSwitch_kept.1, hf⟩⟩

theorem stepAccept_yields (hh : Hears s 1 4 w) (hu : (portOf s 1).st = .up) (ha : (portOf s 1).asking = true) (hc : stepCode w = 1)
    (ht : bits w.toNat 18 2 = (portOf s 1).target) :
    Yields (.stepAccept 1 w) s fun t => (portOf t 1).st = .stepSwitch ∧ (portOf t 1).step = (portOf s 1).target
      ∧ (portOf t 1).oldStep = (portOf s 1).step ∧ (portOf t 1).asking = false ∧ (portOf t 1).tx = none ∧ OthersStay 1 s t
      ∧ t.faults = s.faults ∧ SameBut [.outputs, .freeCtr, .rings, .faults, .chain] s t := by
  obtain ⟨hst, hstep, hold, -, hask, htx⟩ := enterSwitch_self (s := s) (p := 1) (n := (portOf s 1).target)
  exact .framed ⟨_, (ifRuns_runs hh.1).trans ((onOs_hears (p := 1) hh).trans (congrArg _ (if_pos ⟨rfl, hu, ha, hc, ht⟩))), fun hf =>
    ⟨hst, hstep, hold, hask, htx, enterSwitch_othersStay, enterSwitch_kept.1, hf⟩⟩

theorem giveUpStep_leaves {p : Nat} : portOf (giveUpStep p s) p = { portOf s p with asking := false, target := 0, noStep := true }
    ∧ OtherPorts p s (giveUpStep p s) ∧ SameBut [.chain] s (giveUpStep p s) :=
  ⟨updPort_self, updPort_others, updPort_frame (by decide) .refl⟩

/-- A refusal, or no answer, leaves the West port at its step for the period (R461). -/
theorem step_given_up (hr : runs .chain s = true) (hu : (portOf s 1).st = .up) (ha : (portOf s 1).asking = true) :
    (Hears s 1 4 w → stepCode w = 2 →
      Yields (.stepRefuse 1 w) s fun t => portOf t 1 = { portOf s 1 with asking := false, target := 0, noStep := true } ∧ OtherPorts 1 s t
        ∧ SameBut [.chain] s t)
    ∧ Yields (.stepAcceptTimeout 1) s fun t => portOf t 1 = { portOf s 1 with asking := false, target := 0, noStep := true }
      ∧ OtherPorts 1 s t ∧ SameBut [.chain] s t := by
  have hcond : (decide ((1 : Fin 2).val = 1) && (portOf s 1).st == .up && (portOf s 1).asking) = true := by
    rw [hu, ha]
    rfl
  exact ⟨fun hh hc => ⟨_, (ifRuns_runs hr).trans ((onOs_hears (p := 1) hh).trans (congrArg _ (if_pos ⟨rfl, hu, ha, hc⟩))), giveUpStep_leaves⟩,
    ⟨_, (ifRuns_runs hr).trans (when_holds hcond), giveUpStep_leaves⟩⟩

theorem stepResult_yields (hh : Hears s p.val 4 w) (hs : (portOf s p.val).st = .stepTrial) (hc : stepCode w = 3) :
    Yields (.stepResult p w) s fun t =>
      (w.toNat.testBit 15 = true → portOf t p.val = { portOf s p.val with
          goodSeen := true, st := if (portOf s p.val).goodSent then .up else .stepTrial } ∧ OtherPorts p.val s t ∧ t.faults = s.faults)
      ∧ (w.toNat.testBit 15 = false → (portOf t p.val).st = .fallback ∧ (portOf t p.val).step = (portOf s p.val).oldStep
          ∧ (portOf t p.val).noStep = true ∧ (portOf t p.val).tx = none ∧ Drives (260 + p.val) t ∧ OthersStay p.val s t)
      ∧ SameBut [.outputs, .freeCtr, .rings, .faults, .chain] s t := by
  have hexec : exec (.stepResult p w) s = .next (if w.toNat.testBit 15 = true
      then keepStep p.val (updPort p.val (fun x => { x with goodSeen := true }) s) else enterFallback p.val s) :=
    (ifRuns_runs hh.1).trans ((onOs_hears hh).trans (congrArg _ (if_neg fun h => h.elim (fun h => h hs) fun h => h hc)))
  cases hgood : w.toNat.testBit 15
  case true =>
    have hself : portOf (updPort p.val (fun x => { x with goodSeen := true }) s) p.val = { portOf s p.val with goodSeen := true } := updPort_self
    refine .framed ⟨_, hexec.trans (congrArg _ (if_pos hgood)), fun hf => ⟨fun _ => ⟨?_, updPort_others.trans keepStep_others, keepStep_kept.1⟩,
      fun h => absurd h (by decide), hf⟩⟩
    rw [keepStep_self (by rw [hself]; exact hs), hself]
    simp only [and_true]
  case false =>
    obtain ⟨hst, hstep, hno, htx, -⟩ := enterFallback_self (s := s) (p := p.val)
    exact .framed ⟨_, hexec.trans (congrArg _ (if_neg (ne_true_of_eq_false hgood))), fun hf => ⟨fun h => absurd h (by decide),
      fun _ => ⟨hst, hstep, hno, htx, enterFallback_told, enterFallback_othersStay⟩, hf⟩⟩

theorem stepTrialEnd_yields (hr : runs .chain s = true) (hs : (portOf s p.val).st = .stepTrial) (hg : (portOf s p.val).goodSent = false) :
    Yields (.stepTrialEnd p) s fun t => portOf t p.val = { portOf s p.val with
        goodSent := true, st := if (portOf s p.val).goodSeen then .up else .stepTrial }
      ∧ t.outputs = .orderedSet p.val 4 (osPayload 4 (at_ 18 (portOf s p.val).step + at_ 16 3 + at_ 15 1)) :: s.outputs
      ∧ OtherPorts p.val s t ∧ SameBut [.outputs, .chain] s t := by
  have hcond : ((portOf s p.val).st == .stepTrial && !(portOf s p.val).goodSent) = true := by
    rw [hs, hg]
    rfl
  have hself : portOf (sendOs p.val 4 (at_ 18 (portOf s p.val).step + at_ 16 3 + at_ 15 1) (putPort s p.val { portOf s p.val with goodSent := true }))
      p.val = { portOf s p.val with goodSent := true } := sendOs_portOf.trans putPort_self
  refine .framed ⟨_, (ifRuns_runs hr).trans (when_holds hcond), fun hf => ⟨?_, keepStep_kept.2, (putPort_others.trans sendOs_others).trans
    keepStep_others, hf⟩⟩
  rw [keepStep_self (by rw [hself]; exact hs), hself]
  simp only [true_and]

theorem stepSwitchTimeout_yields (hr : runs .chain s = true) :
    ((portOf s p.val).st = .stepSwitch → Yields (.stepSwitchTimeout p) s fun t => (portOf t p.val).st = .fallback
      ∧ (portOf t p.val).step = (portOf s p.val).oldStep ∧ (portOf t p.val).noStep = true ∧ Drives (260 + p.val) t ∧ OthersStay p.val s t
      ∧ t.outputs = s.outputs ∧ SameBut [.outputs, .freeCtr, .rings, .faults, .chain] s t)
    ∧ ((portOf s p.val).st = .fallback → Yields (.stepSwitchTimeout p) s fun t => Restarts p.val t ∧ LinkEnds p.val s t
      ∧ Drives (256 + p.val) t ∧ OthersStay p.val s t ∧ SameBut [.freeCtr, .rings, .faults, .chain] s t) := by
  constructor
  · intro hs
    have hexec : exec (.stepSwitchTimeout p) s = .next (enterFallback p.val s) := by
      refine (ifRuns_runs hr).trans ?_
      rw [hs]
    obtain ⟨hst, hstep, hno, -, -⟩ := enterFallback_self (s := s) (p := p.val)
    exact .framed ⟨_, hexec, fun hf => ⟨hst, hstep, hno, enterFallback_told, enterFallback_othersStay, enterFallback_outputs, hf⟩⟩
  · intro hs
    have hexec : exec (.stepSwitchTimeout p) s = .next (portDown p.val true s) := by
      refine (ifRuns_runs hr).trans ?_
      rw [hs]
    have hl : linkUp (portOf s p.val) = true := by rw [linkUp, hs]; rfl
    obtain ⟨hlock, hend, hdrive, hothers⟩ := (PortLike.refl (p := p.val) (s := s)).goes_down hl
    exact ⟨_, hexec, hlock, hend, hdrive, hothers, portDown_frame (by decide) .refl⟩

end Steps

/-- Settles O40: request, answer, switch, trial and result of a step, on either side. -/
theorem portSteps : Obligations.PortSteps :=
  ⟨fun _ _ => stepUpStart_yields, fun _ _ _ => stepRequest_yields, fun _ _ => stepAccept_yields, fun _ _ => step_given_up,
    fun _ _ _ => stepResult_yields, fun _ _ => stepTrialEnd_yields, fun _ _ => stepSwitchTimeout_yields⟩

end Sys2Proof.Machine
end
section
/-! PROOF. Sleep of the Umio ports, invalid blocks, and the sets that a port sends of itself (13). -/

set_option autoImplicit false
set_option Elab.async false

namespace Sys2Proof.Machine

/-! ### Sets sent several times -/

section Sets
variable {s : State} {p k n m : Nat}

theorem sendOsN_outputs : (sendOsN p k m n s).outputs = List.replicate n (.orderedSet p k (osPayload k m)) ++ s.outputs := by
  induction n generalizing s with
  | zero => rfl
  | succ n ih =>
    rw [sendOsN, ih, sendOs_outputs, List.append_cons, ← List.replicate_succ']

theorem sendOsN_portOf {q : Nat} : portOf (sendOsN p k m n s) q = portOf s q :=
  SameBut.portOf_eq (l := [.outputs]) (sendOsN_frame (by decide) .refl) q

theorem sendOs_credOf {q j : Nat} : credOf (sendOs p k n s) q j = credOf s q j :=
  credOf_eq_of_cred (congrArg Port.cred sendOs_portOf) rfl

/-- The sets of a list of priorities, the newest first. -/
def setsOf (p k n : Nat) (f : Nat → Nat) : List Output :=
  (List.range n).reverse.map fun i => .orderedSet p k (osPayload k (at_ 17 i + at_ 4 (f i)))

theorem setsOf_succ {f : Nat → Nat} :
    setsOf p k (n + 1) f = .orderedSet p k (osPayload k (at_ 17 n + at_ 4 (f n))) :: setsOf p k n f := by
  simp [setsOf, List.range_succ]

theorem sendInits_credOf {q j : Nat} : credOf (sendInits p n s) q j = credOf s q j := by
  induction n with
  | zero => rfl
  | succ n ih => exact sendOs_credOf.trans ih

theorem sendInits_outputs : (sendInits p n s).outputs = setsOf p 2 n (fun i => (credOf s p i).advUsed) ++ s.outputs := by
  induction n with
  | zero => rfl
  | succ n ih =>
    refine sendOs_outputs.trans ?_
    rw [ih, sendInits_credOf, setsOf_succ, List.cons_append]

theorem sendCredits_credOf {q j : Nat} : credOf (sendCredits p n s) q j = credOf s q j := by
  induction n with
  | zero => rfl
  | succ n ih => exact sendOs_credOf.trans ih

theorem sendCredits_outputs : (sendCredits p n s).outputs = setsOf p 3 n (fun i => (credOf s p i).freed) ++ s.outputs := by
  induction n with
  | zero => rfl
  | succ n ih =>
    refine sendOs_outputs.trans ?_
    rw [ih, sendCredits_credOf, setsOf_succ, List.cons_append]

end Sets

/-! ### Sleep and wake (R463 R464) -/

section Sleep
variable {s : State} {p : Fin 2} {w : BitVec 24} {x : Port}

theorem sleep_yields (hh : Hears s p.val 5 w) (hfl : flows (portOf s p.val) = true) :
    Yields (.sleep p w) s fun t => portOf t p.val = { portOf s p.val with rxSleep := true, waking := false } ∧ OtherPorts p.val s t
      ∧ SameBut [.chain] s t :=
  ⟨_, (ifRuns_runs hh.1).trans ((onOs_hears hh).trans (congrArg _ (if_pos hfl))), updPort_self, updPort_others, updPort_frame (by decide) .refl⟩

theorem wake_yields (hh : Hears s p.val 6 w) (hs : (portOf s p.val).rxSleep = true) (hw : (portOf s p.val).waking = true)
    (hl : (portOf s p.val).lock = true) :
    Yields (.wake p w) s fun t => portOf t p.val = { portOf s p.val with rxSleep := false, waking := false } ∧ OtherPorts p.val s t
      ∧ SameBut [.chain] s t :=
  ⟨_, (ifRuns_runs hh.1).trans ((onOs_hears hh).trans (congrArg _ (if_pos ⟨hs, hw, hl⟩))), putPort_self, putPort_others,
    putPort_frame (by decide) .refl⟩

theorem sleepEntry_yields (hr : runs .chain s = true) (hx : x = portOf s p.val) (he : x.sleepEn = true) (hp : x.partnerSleep = true)
    (hu : x.st = .up) (ha : x.asking = false) (hq : x.queue = []) (ht : x.tx = none) (hs : x.txSleep = false) :
    Yields (.sleepEntry p) s fun t => portOf t p.val = { x with txSleep := true } ∧ OtherPorts p.val s t
      ∧ t.outputs = .electricalIdle p.val :: (List.replicate 4 (.orderedSet p.val 5 (osPayload 5 0)) ++ s.outputs)
      ∧ SameBut [.outputs, .chain] s t := by
  subst hx
  have hcond : ((portOf s p.val).sleepEn && (portOf s p.val).partnerSleep && (portOf s p.val).st == .up && !(portOf s p.val).asking
      && (portOf s p.val).queue.isEmpty && (portOf s p.val).tx.isNone && !(portOf s p.val).txSleep) = true := by
    rw [he, hp, hu, ha, hq, ht, hs]
    rfl
  exact ⟨_, (ifRuns_runs hr).trans (when_holds hcond), (emit_portOf ..).trans (sendOsN_portOf.trans putPort_self),
    fun q hq => (emit_portOf ..).trans (sendOsN_portOf.trans (putPort_others q hq)), congrArg (List.cons _) sendOsN_outputs,
    emit_frame (by decide) (sendOsN_frame (by decide) (putPort_frame (by decide) .refl))⟩

theorem wakeStart_yields (hr : runs .chain s = true) (hs : (portOf s p.val).txSleep = true) :
    Yields (.wakeStart p) s fun t => portOf t p.val = { portOf s p.val with txSleep := false } ∧ OtherPorts p.val s t
      ∧ t.outputs = List.replicate 20 (.orderedSet p.val 6 (osPayload 6 0)) ++ s.outputs ∧ SameBut [.outputs, .chain] s t :=
  ⟨_, (ifRuns_runs hr).trans (when_holds hs), sendOsN_portOf.trans putPort_self, fun q hq => sendOsN_portOf.trans (putPort_others q hq),
    sendOsN_outputs, sendOsN_frame (by decide) (putPort_frame (by decide) .refl)⟩

/-! ### Invalid blocks (R455 R461 R501) -/

/-- The port with one more invalid block. -/
def blockCounted (p : Nat) (s : State) : State := updPort p (fun x => { x with blockErr := satAdd 65535 x.blockErr 1 }) s

theorem blockCounted_self {p : Nat} :
    portOf (blockCounted p s) p = { portOf s p with blockErr := satAdd 65535 (portOf s p).blockErr 1 } := updPort_self

theorem blockCounted_others {p : Nat} : OtherPorts p s (blockCounted p s) := updPort_others

/-- An error in a trial is told to the partner, and the side falls back (R461). -/
theorem trialError_falls {p : Nat} (h : (portOf s p).st = .stepTrial) :
    trialError p s = enterFallback p (sendOs p 4 (at_ 18 (portOf s p).step + at_ 16 3) s) := if_pos h

theorem trialError_else {p : Nat} (h : (portOf s p).st ≠ .stepTrial) : trialError p s = s := if_neg h

theorem invalidSyncHeader_yields {b : Bool} (hr : runs .chain s = true) (hd : (portOf s p.val).st ≠ .disabled)
    (hs : (portOf s p.val).rxSleep = false) :
    Yields (.invalidSyncHeader p b) s fun t => (portOf t p.val).blockErr = satAdd 65535 (portOf s p.val).blockErr 1
      ∧ ((portOf s p.val).st ≠ .stepTrial →
          portOf t p.val = { portOf s p.val with blockErr := satAdd 65535 (portOf s p.val).blockErr 1 } ∧ OtherPorts p.val s t)
      ∧ ((portOf s p.val).st = .stepTrial → (portOf t p.val).st = .fallback ∧ (portOf t p.val).step = (portOf s p.val).oldStep
          ∧ Drives (260 + p.val) t
          ∧ .orderedSet p.val 4 (osPayload 4 (at_ 18 (portOf s p.val).step + at_ 16 3)) ∈ t.outputs ∧ OthersStay p.val s t)
      ∧ SameBut [.outputs, .freeCtr, .rings, .faults, .chain] s t := by
  have hexec : exec (.invalidSyncHeader p b) s = .next (trialError p.val (blockCounted p.val s)) :=
    (ifRuns_runs hr).trans (congrArg _ (if_neg fun h => h.elim hd (ne_true_of_eq_false hs)))
  have hst : (portOf (blockCounted p.val s) p.val).st = (portOf s p.val).st := by rw [blockCounted_self]
  by_cases ht : (portOf s p.val).st = .stepTrial
  · obtain ⟨hfall, hstep, -, -, herr⟩ := enterFallback_self (p := p.val)
      (s := sendOs p.val 4 (at_ 18 (portOf (blockCounted p.val s) p.val).step + at_ 16 3) (blockCounted p.val s))
    rw [sendOs_portOf, blockCounted_self] at hstep herr
    refine .framed ⟨_, hexec.trans (congrArg _ (trialError_falls (hst.trans ht))), fun hf => ⟨?_, fun h => absurd ht h,
      fun _ => ⟨hfall, ?_, enterFallback_told, ?_, ?_⟩, hf⟩⟩
    · rw [blockCounted_self]
      exact herr
    · rw [blockCounted_self]
      exact hstep
    · rw [enterFallback_outputs, sendOs_outputs, blockCounted_self]
      exact List.mem_cons_self
    · exact ((othersStay_of blockCounted_others).trans (othersStay_of sendOs_others)).trans enterFallback_othersStay
  · refine .framed ⟨_, hexec.trans (congrArg _ (trialError_else fun h => ht (hst.symm.trans h))), fun hf => ⟨?_,
      fun _ => ⟨blockCounted_self, blockCounted_others⟩, fun h => absurd h ht, hf⟩⟩
    rw [blockCounted_self]

/-! ### What a port sends every 10 µs (R457 R472) -/

/-- The `CAP` of a port. -/
def capSent (p : Nat) (s : State) : State := sendOs p 1 (capFields p (portOf s p) (portOf s p).capSeen) s

theorem orderedSetTransmit_cap (hr : runs .chain s = true) (hs : (portOf s p.val).st = .lock ∨ (portOf s p.val).st = .backoff
      ∨ (portOf s p.val).st = .stepSwitch ∨ (portOf s p.val).st = .fallback) :
    exec (.orderedSetTransmit p) s = .next (capSent p.val s) := by
  refine (ifRuns_runs hr).trans ?_
  rcases hs with h | h | h | h
  · rw [h]; rfl
  · rw [h]; rfl
  · rw [h]; rfl
  · rw [h]; rfl

theorem training_sends (hr : runs .chain s = true) (hs : (portOf s p.val).st = .lock ∨ (portOf s p.val).st = .backoff
      ∨ (portOf s p.val).st = .stepSwitch ∨ (portOf s p.val).st = .fallback) :
    Yields (.orderedSetTransmit p) s fun t =>
      t.outputs = .orderedSet p.val 1 (osPayload 1 (capFields p.val (portOf s p.val) (portOf s p.val).capSeen)) :: s.outputs
      ∧ SameBut [.outputs] s t :=
  ⟨_, orderedSetTransmit_cap hr hs, sendOs_outputs, sendOs_frame (by decide) .refl⟩

theorem up_sends (hr : runs .chain s = true) (hfl : flows (portOf s p.val) = true) (hs : (portOf s p.val).txSleep = false) :
    Yields (.orderedSetTransmit p) s fun t =>
      t.outputs = ((List.range 8).reverse.map fun k => .orderedSet p.val 3 (osPayload 3 (at_ 17 k + at_ 4 (credOf s p.val k).freed)))
        ++ s.outputs
      ∧ SameBut [.outputs] s t := by
  have hexec : exec (.orderedSetTransmit p) s = .next (sendCredits p.val 8 s) := by
    refine (ifRuns_runs hr).trans ?_
    rcases Bool.or_eq_true_iff.mp hfl with h | h
    · rw [beq_iff_eq.mp h]
      exact congrArg _ (if_neg (ne_true_of_eq_false hs))
    · rw [beq_iff_eq.mp h]
      exact congrArg _ (if_neg (ne_true_of_eq_false hs))
  exact ⟨_, hexec, sendCredits_outputs, sendCredits_frame (by decide) .refl⟩

theorem capability_sends (hr : runs .chain s = true) (hs : (portOf s p.val).st = .capability) :
    Yields (.orderedSetTransmit p) s fun t =>
      t.outputs = ((List.range 8).reverse.map fun k => .orderedSet p.val 2 (osPayload 2 (at_ 17 k + at_ 4 (credOf s p.val k).advUsed)))
        ++ .orderedSet p.val 1 (osPayload 1 (capFields p.val (portOf s p.val) (portOf s p.val).capSeen)) :: s.outputs
      ∧ SameBut [.outputs] s t := by
  have hexec : exec (.orderedSetTransmit p) s = .next (sendInits p.val 8 (capSent p.val s)) := by
    refine (ifRuns_runs hr).trans ?_
    rw [hs]
    rfl
  refine ⟨_, hexec, ?_, sendInits_frame (by decide) (sendOs_frame (by decide) .refl)⟩
  rw [sendInits_outputs, capSent, sendOs_outputs]
  simp only [sendOs_credOf]
  rfl

end Sleep

/-- Settles O41: both directions sleep and wake, an invalid block counts, and a port sends what its state asks for. -/
theorem portSleep : Obligations.PortSleep :=
  ⟨fun _ _ _ => sleep_yields, fun _ _ _ => wake_yields, fun _ _ _ => sleepEntry_yields, fun _ _ => wakeStart_yields,
    fun _ _ _ => invalidSyncHeader_yields, fun _ _ => training_sends, fun _ _ => up_sends, fun _ _ => capability_sends⟩

end Sys2Proof.Machine
end
section
/-! PROOF. The line coding of a lane: the scrambler and its inverse, the blocks of a frame and of an ordered set (13). -/

set_option autoImplicit false
set_option Elab.async false

namespace Sys2Proof.Machine

/-! ### The scrambler (R453) -/

section Scrambler
variable {st st' : BitVec 58} {b : Bool} {r v w i j k n : Nat}

/-- A bit put below a number, and taken off again. -/
theorem putBelow_testBit_zero : (b.toNat + 2 * r).testBit 0 = b := by
  cases b
  · simp
  · simp

theorem putBelow_div : (b.toNat + 2 * r) / 2 = r := by
  cases b
  · simp
  · simp only [Bool.toNat_true]
    omega

theorem putBelow_testBit_succ : (b.toNat + 2 * r).testBit (i + 1) = r.testBit i := by
  rw [Nat.testBit_succ, putBelow_div]

theorem mod_two_pow_succ_eq : v % 2 ^ (n + 1) = (v.testBit 0).toNat + 2 * (v / 2 % 2 ^ n) := by
  rw [Nat.pow_succ', Nat.mod_mul, Nat.testBit_zero]
  rcases Nat.mod_two_eq_zero_or_one v with h | h
  · rw [h]; rfl
  · rw [h]; rfl

/-- What the scrambler adds is taken off by what the receiver adds: both keep the same bits of the lane. -/
theorem descramble_scramble : descramble n st (scramble n st v).1 = (v % 2 ^ n, (scramble n st v).2) := by
  induction n generalizing st v with
  | zero => rw [Nat.pow_zero, Nat.mod_one]; rfl
  | succ n ih =>
    have htap : (v.testBit 0 ^^ scrTap st ^^ scrTap st) = v.testBit 0 := by rw [Bool.xor_assoc, Bool.xor_self, Bool.xor_false]
    rw [scramble, descramble]
    dsimp only
    rw [putBelow_testBit_zero, putBelow_div, ih, htap, mod_two_pow_succ_eq]

theorem scramble_lt : (scramble n st v).1 < 2 ^ n := by
  induction n generalizing st v with
  | zero => exact Nat.one_pos
  | succ n ih =>
    rw [scramble, Nat.pow_succ]
    dsimp only
    have hbit := Bool.toNat_lt (v.testBit 0 ^^ scrTap st)
    have hrest := ih (st := scrPush st (v.testBit 0 ^^ scrTap st)) (v := v / 2)
    omega

theorem scrPush_getLsbD (hj : j < 58) : (scrPush st b).getLsbD j = if j = 0 then b else st.getLsbD (j - 1) := by
  unfold scrPush
  rw [BitVec.getLsbD_or, BitVec.getLsbD_shiftLeft, BitVec.getLsbD_ofNat]
  rcases Nat.eq_zero_or_pos j with rfl | hpos
  · cases b <;> simp
  · have hb : b.toNat.testBit j = false := Nat.testBit_lt_two_pow (Nat.lt_of_lt_of_le (Bool.toNat_lt b) (Nat.le_self_pow (by omega) 2))
    have h1 : ¬ j < 1 := by omega
    simp [hb, hj, h1, Nat.pos_iff_ne_zero.mp hpos]

/-- After k bits of the lane the receiver holds the newest of them, and behind them what it held before. -/
theorem descramble_state (hj : j < 58) :
    (descramble k st w).2.getLsbD j = if j < k then w.testBit (k - 1 - j) else st.getLsbD (j - k) := by
  induction k generalizing st w with
  | zero => rfl
  | succ k ih =>
    rw [descramble]
    dsimp only
    rw [ih]
    by_cases hk : j < k
    · rw [if_pos hk, if_pos (by omega), ← Nat.testBit_succ]
      congr 1
      omega
    · rw [if_neg hk, scrPush_getLsbD (by omega)]
      by_cases he : j = k
      · rw [if_pos (by omega), if_pos (by omega)]
        congr 1
        omega
      · rw [if_neg (by omega), if_neg (by omega)]
        rfl

/-- Each bit that the receiver gives is the lane's with what its state adds. -/
theorem descramble_testBit (hi : i < n) :
    (descramble n st w).1.testBit i = (w.testBit i ^^ scrTap (descramble i st w).2) := by
  induction n generalizing i st w with
  | zero => exact absurd hi (Nat.not_lt_zero i)
  | succ n ih =>
    rw [descramble]
    dsimp only
    cases i with
    | zero => exact putBelow_testBit_zero
    | succ i =>
      rw [putBelow_testBit_succ, ih (by omega), ← Nat.testBit_succ]
      rfl

/-- After 58 bits the receiver's state no longer rests on where it began. -/
theorem scrTap_forgets (h : 58 ≤ i) : scrTap (descramble i st w).2 = scrTap (descramble i st' w).2 := by
  unfold scrTap
  rw [descramble_state (by decide), descramble_state (by decide), descramble_state (by decide), descramble_state (by decide),
    if_pos (by omega), if_pos (by omega), if_pos (by omega), if_pos (by omega)]

theorem descramble_synchronizes (h : 58 ≤ i) (hi : i < n) : (descramble n st' (scramble n st v).1).1.testBit i = v.testBit i := by
  rw [descramble_testBit hi, scrTap_forgets (st' := st) h, ← descramble_testBit hi, descramble_scramble, Nat.testBit_mod_two_pow,
    decide_eq_true hi, Bool.true_and]

end Scrambler

/-! ### Blocks on the lane (R453 R454 R455) -/

section Blocks
variable {x : Block} {l : Lane} {p n i : Nat} {b : Bytes} {bad : Bool}

theorem laneBlock_sends : ∃ y : BitVec 66, (laneBlock x l).sent = y :: l.sent ∧ y.toNat % 4 = (if x.ctrl then 1 else 2)
    ∧ descramble 64 l.scr (y.toNat / 4) = (x.payload % 2 ^ 64, (laneBlock x l).scr) := by
  have hscr := scramble_lt (n := 64) (st := l.scr) (v := x.payload)
  have hhead : syncHeader x.ctrl = (if x.ctrl then 1 else 2) := rfl
  have hlt : syncHeader x.ctrl < 4 := by
    rw [hhead]
    split
    · decide
    · decide
  have hval : (BitVec.ofNat 66 (syncHeader x.ctrl + 4 * (scramble 64 l.scr x.payload).1)).toNat
      = syncHeader x.ctrl + 4 * (scramble 64 l.scr x.payload).1 := by
    rw [BitVec.toNat_ofNat, Nat.mod_eq_of_lt]
    omega
  refine ⟨_, rfl, ?_, ?_⟩
  · rw [hval, ← hhead]
    omega
  · rw [hval, show (syncHeader x.ctrl + 4 * (scramble 64 l.scr x.payload).1) / 4 = (scramble 64 l.scr x.payload).1 by omega,
      descramble_scramble]
    rfl

theorem orderedBlock_codes (hp : p < 2 ^ 24) : (orderedBlock p).ctrl = true ∧ (orderedBlock p).payload < 2 ^ 64
    ∧ bits (orderedBlock p).payload 0 8 = 0x4B
    ∧ 65536 * bits (orderedBlock p).payload 8 8 + 256 * bits (orderedBlock p).payload 16 8 + bits (orderedBlock p).payload 24 8 = p
    ∧ bits (orderedBlock p).payload 32 4 = 0xF := by
  have h2 : bits p 16 8 < 256 := Nat.mod_lt _ (by decide)
  have h1 : bits p 8 8 < 256 := Nat.mod_lt _ (by decide)
  have h0 : bits p 0 8 < 256 := Nat.mod_lt _ (by decide)
  have hsum : 65536 * bits p 16 8 + 256 * bits p 8 8 + bits p 0 8 = p := by
    unfold bits
    omega
  have hpay : (orderedBlock p).payload = 0x4B + bits p 16 8 * 256 + bits p 8 8 * 65536 + bits p 0 8 * 16777216 + 0xF * 4294967296 := rfl
  generalize bits p 16 8 = b2 at *
  generalize bits p 8 8 = b1 at *
  generalize bits p 0 8 = b0 at *
  generalize (orderedBlock p).payload = pay at *
  have hlow {x y : Nat} (h : x < 256) : (x + 256 * y) % 2 ^ 8 = x := by omega
  have d1 : pay / 2 ^ 8 = b2 + 256 * (b1 + 256 * (b0 + 256 * 15)) := by omega
  have d2 : pay / 2 ^ 16 = b1 + 256 * (b0 + 256 * 15) := by omega
  have d3 : pay / 2 ^ 24 = b0 + 256 * 15 := by omega
  have d4 : pay / 2 ^ 32 = 15 := by omega
  refine ⟨rfl, ?_, ?_, ?_, ?_⟩
  · omega
  · unfold bits
    omega
  · rw [bits, bits, bits, d1, d2, d3, hlow h2, hlow h1, hlow h0, ← hsum]
  · rw [bits, d4]
    rfl

theorem dataBlocks_length : (dataBlocks n b).length = n := by
  induction n generalizing b with
  | zero => rfl
  | succ n ih => rw [dataBlocks, List.length_cons, ih]

theorem dataBlocks_get (h : i < n) :
    (dataBlocks n b)[i]? = some { ctrl := false, payload := leNat ((b.drop (8 * i)).take 8) } := by
  induction n generalizing b i with
  | zero => exact absurd h (Nat.not_lt_zero i)
  | succ n ih =>
    rw [dataBlocks]
    cases i with
    | zero => rfl
    | succ i =>
      rw [List.getElem?_cons_succ, ih (by omega), List.drop_drop]
      congr 5
      omega

/-- The blocks of a frame: one to start, one for each eight bytes, one to end (R468). -/
theorem frameBlocks_order : (frameBlocks b bad).length = b.length / 8 + 2 ∧ (frameBlocks b bad).head? = some startBlock
    ∧ (∀ i, i < b.length / 8 → (frameBlocks b bad)[i + 1]? = some { ctrl := false, payload := leNat ((b.drop (8 * i)).take 8) })
    ∧ (frameBlocks b bad).getLast? = some (termBlock (b.drop (b.length / 8 * 8)) bad) := by
  refine ⟨?_, rfl, fun i hi => ?_, List.getLast?_concat⟩
  · simp [frameBlocks, dataBlocks_length]
  · have hlen : i < (dataBlocks (b.length / 8) b).length := by rw [dataBlocks_length]; exact hi
    rw [frameBlocks, List.cons_append, List.getElem?_cons_succ, List.getElem?_append_left hlen, dataBlocks_get hi]

end Blocks

/-! ### The lane of a port -/

section Lanes
variable {s : State} {p q : Nat} {bs : List Block}

theorem laneSend_self : laneOf (laneSend p bs s) p = laneBlocks bs (laneOf s p) := by
  rw [laneOf, laneSend, Tab.get_put, if_pos rfl]

theorem laneSend_other (h : q ≠ p) : laneOf (laneSend p bs s) q = laneOf s q := by
  rw [laneOf, laneSend, Tab.get_put, if_neg h]
  rfl

theorem laneOf_congr {t : State} (h : t.lanes = s.lanes) : laneOf t q = laneOf s q := by
  rw [laneOf, laneOf, h]

/-! ### The end of a frame (R468 R471 R472 R477) -/

/-- The port's credits and counts with a frame sent (R471 R472). -/
def sentCounted (p : Nat) (f : PoolFrame) (s : State) : State :=
  updPort p (fun x => { x with
    tx := none, txFrames := satAdd (2 ^ 32 - 1) x.txFrames 1, discard := if f.poison then satAdd 65535 x.discard 1 else x.discard })
    (putCred s p f.prio { credOf s p f.prio with sent := (credOf s p f.prio).sent + cellsOf_ f.bytes.length })

/-- Its last block leaves (R468 R508). -/
def frameGone (p : Nat) (f : PoolFrame) (t : TxFrame) (s : State) : State :=
  laneSend p (frameBlocks (correctedBytes s f t.ts) (f.poison || f.bad))
    (emit (.frameOut p (correctedBytes s f t.ts) (f.poison || f.bad)) (sentCounted p f s))

/-- Its consumers and its `NET_TX` are done with it (R474 R480). -/
def frameReleased (p : Nat) (f : PoolFrame) (t : TxFrame) (s : State) : State :=
  txEnds f p (some t.ts) (doneWith f.id (.egress p) (frameGone p f t s))

theorem frameReleased_frame {f : PoolFrame} {t : TxFrame} : SameBut [.freeCtr, .rings, .chain] (frameGone p f t s) (frameReleased p f t s) :=
  txEnds_frame (by decide) (doneWith_frame (by decide) .refl)

theorem frameReleased_PK {f : PoolFrame} {t : TxFrame} : PK (sentCounted p f s) (frameReleased p f t s) :=
  .trans (.of rfl rfl) ((doneWith_PK _ _ (frameGone p f t s)).trans (txEnds_PK _ _ _ _))

/-- What credits and the counters do not touch, the release of a frame does not either. -/
theorem frameReleased_self {f : PoolFrame} {t : TxFrame} : { portOf (frameReleased p f t s) p with cred := [] }
    = { portOf s p with
        cred := [], tx := none, txFrames := satAdd (2 ^ 32 - 1) (portOf s p).txFrames 1
        discard := if f.poison then satAdd 65535 (portOf s p).discard 1 else (portOf s p).discard } := by
  refine (frameReleased_PK p).trans ?_
  rw [sentCounted, updPort_self, putCred, putPort_self]

theorem frameSent_exec {p : Fin 2} {t : TxFrame} {f : PoolFrame} (hr : runs .chain s = true) (ht : (portOf s p.val).tx = some t)
    (hf : frameOf s t.frame = some f) (hw : f.whole = true) (ha : (portOf s p.val).asking = false) :
    exec (.frameSent p) s = .next (frameReleased p.val f t s) := by
  have hask : (portOf (frameReleased p.val f t s) p.val).asking = false :=
    (congrArg Port.asking (frameReleased_self (s := s) (f := f) (t := t))).trans ha
  have hwhole : ¬ (!f.whole) = true := by rw [hw]; decide
  refine (ifRuns_runs hr).trans ?_
  rw [ht]
  dsimp only
  rw [hf]
  dsimp only
  rw [if_neg hwhole]
  exact congrArg _ (if_neg fun h => Bool.false_ne_true (hask.symm.trans h.2))

theorem frameSent_lane {p : Fin 2} {t : TxFrame} {f : PoolFrame} (hr : runs .chain s = true) (ht : (portOf s p.val).tx = some t)
    (hf : frameOf s t.frame = some f) (hw : f.whole = true) (ha : (portOf s p.val).asking = false) :
    Yields (.frameSent p) s fun u =>
      laneOf u p.val = laneBlocks (frameBlocks (correctedBytes s f t.ts) (f.poison || f.bad)) (laneOf s p.val)
      ∧ ∀ q, q ≠ p.val → laneOf u q = laneOf s q := by
  have hlanes (q : Nat) : laneOf (frameReleased p.val f t s) q = laneOf (frameGone p.val f t s) q := laneOf_congr frameReleased_frame.lanes_eq
  exact ⟨_, frameSent_exec hr ht hf hw ha, (hlanes _).trans laneSend_self, fun q hq => (hlanes q).trans (laneSend_other hq)⟩

theorem lock_lane {p : Fin 2} (hr : runs .chain s = true) (hs : (portOf s p.val).st = .lock) :
    Yields (.orderedSetTransmit p) s fun t =>
      laneOf t p.val = laneBlocks [orderedBlock (osPayload 1 (capFields p.val (portOf s p.val) (portOf s p.val).capSeen))] (laneOf s p.val)
      ∧ ∀ q, q ≠ p.val → laneOf t q = laneOf s q :=
  ⟨_, orderedSetTransmit_cap hr (.inl hs), laneSend_self, fun _ hq => laneSend_other hq⟩

end Lanes

/-- Settles O42: the scrambler's inverse and its synchronizing, the sync headers, the blocks of a set and of a frame, and both on the
lane. The block codes are the model's reading of Clause 49 (notes/assumptions/79). -/
theorem lineCoding : Obligations.LineCoding :=
  ⟨fun _ _ _ => descramble_scramble, fun _ _ _ _ _ => descramble_synchronizes, fun _ _ => laneBlock_sends, fun _ => orderedBlock_codes,
    fun _ _ => frameBlocks_order, fun _ _ _ _ => frameSent_lane, fun _ _ => lock_lane⟩

end Sys2Proof.Machine
end

section
/-! PROOF. Frames between the ports: reception, its end, cuts, the egress (13). -/

set_option autoImplicit false
set_option Elab.async false

namespace Sys2Proof.Machine

/-! ### Rules of the pool and the ports -/

section Rules
variable {s t u : State} {p q k id : Nat} {f : PoolFrame} {c : Cred}

/-- The two ports of a node. -/
theorem otherPort_ne (p : Fin 2) : otherPort p.val ≠ p.val := by
  unfold otherPort
  omega

/-- A write of a port that leaves the credits alone. -/
theorem credOf_updPort {g : Port → Port} (hg : ∀ x, (g x).cred = x.cred := by intro; rfl) : credOf (updPort p g s) q k = credOf s q k := by
  refine credOf_eq_of_cred ?_ rfl
  rw [portOf_updPort]
  split
  · next h => rw [hg, h]
  · rfl

theorem credOf_congr (h : t.chain.ports = s.chain.ports) (hb : t.boot = s.boot) : credOf t q k = credOf s q k :=
  credOf_eq_of_cred (by rw [portOf, portOf, h, hb]) hb

/-- A frame with a number of its own is found in the pool by it. -/
theorem frameOf_addFrame (hp : PoolInv s) (hf : f.id = s.chain.nextFrame) : frameOf (addFrame f s) f.id = some f := by
  have hnone : s.chain.frames.find? (fun g => g.id == f.id) = none := by
    refine List.find?_eq_none.mpr fun g hg => ?_
    have hlt := hp g hg
    simp only [beq_iff_eq]
    omega
  show (s.chain.frames ++ [f]).find? (fun g => g.id == f.id) = some f
  rw [List.find?_append, hnone]
  simp

theorem frameOf_id (h : frameOf s id = some f) : f.id = id := by
  simpa using List.find?_some h

/-- A whole frame that an egress still waits for keeps its cells where they are (R473 R474). -/
theorem settle_waits (h : frameOf s id = some f) (he : f.wants.any isEgress = true) : settle id s = s := by
  have hsome : ¬ f.wants.isEmpty = true := fun h => by
    rw [List.isEmpty_iff.mp h] at he
    exact absurd he (by decide)
  have hkeep : (f.shared || f.wants.any isEgress) = true := by rw [he, Bool.or_true]
  unfold settle
  rw [h]
  dsimp only
  rw [if_neg hsome, if_pos hkeep]
  split
  · rfl
  · rfl

/-- With no frame waiting for the host there is none to fill a buffer with. -/
theorem fillHost1_idle (h : s.chain.hostQ.find? (fun e => e.1 == k) = none) : fillHost1 k s = s := by
  unfold fillHost1
  rw [h]

end Rules

/-! ### The first bytes (R465 R466 R467 R506) -/

section Header
variable {s : State} {p : Fin 2} {b : Bytes}

/-- Two cells are taken for a frame whose first bytes have come (R471). -/
def cellsTaken (s : State) : State := onChain (fun c => { c with free := c.free - 2 }) s

/-- What the port holds of a frame in reception (R465 R506). -/
def headRx (p : Nat) (b : Bytes) (cut : Option Nat) (s : State) : RxFrame :=
  { cells := 2, prio := framePrio s b, cut, ts := rxStamp s p }

/-- The frame is received (R467). -/
def headTaken (p : Nat) (b : Bytes) (cut : Option Nat) (s : State) : State :=
  updPort p (fun x => { x with rx := some (headRx p b cut s) }) (cellsTaken s)

/-- The frame as it goes through to the other port (R467). -/
def cutFrame (p : Nat) (b : Bytes) (s : State) : PoolFrame :=
  { id := s.chain.nextFrame, bytes := b, cells := 0, prio := framePrio s b, origin := .ingress p, shared := false
    wants := [.egress (otherPort p)], ts := rxStamp s p, period := (portOf s p).period, whole := false }

/-- It is counted, and its egress starts (R467 R509). -/
def cutStarted (p : Nat) (b : Bytes) (s : State) : State :=
  countSkipped (cutFrame p b s) (addFrame (cutFrame p b s) (headTaken p b (some s.chain.nextFrame) s))

/-- What the other port then sends (R467). -/
def throughTx (p : Nat) (b : Bytes) (s : State) : TxFrame :=
  { frame := s.chain.nextFrame, ts := txStamp (cutStarted p b s) (otherPort p) }

/-- It leaves by the other port while it still comes (R467). -/
def throughSent (p : Nat) (b : Bytes) (s : State) : State :=
  updPort (otherPort p) (fun y => { y with tx := some (throughTx p b s) }) (cutStarted p b s)

/-- What the header makes of a frame: sent at once on the other port, or stored. -/
def headJudged (p : Nat) (b : Bytes) (s : State) : State :=
  if ((classify s b).1 && cutThrough s p (framePrio s b)) = true then throughSent p b s else headTaken p b none s

theorem frameHeaderParsed_exec (hr : runs .chain s = true) (hfl : flows (portOf s p.val) = true) (hl : (portOf s p.val).lock = true)
    (hs : (portOf s p.val).rxSleep = false) (hx : (portOf s p.val).rx = none) (hc : 2 ≤ s.chain.free) :
    exec (.frameHeaderParsed p b) s = .next (headJudged p.val b s) := by
  have hcond : (flows (portOf s p.val) && (portOf s p.val).lock && !(portOf s p.val).rxSleep && (portOf s p.val).rx.isNone
      && decide (2 ≤ s.chain.free)) = true := by
    rw [hfl, hl, hs, hx, decide_eq_true hc]
    rfl
  exact (ifRuns_runs hr).trans (when_holds hcond)

theorem cutStarted_portOf {p q : Nat} : portOf (cutStarted p b s) q = portOf (headTaken p b (some s.chain.nextFrame) s) q :=
  SameBut.portOf_eq (l := [.time]) (s := addFrame (cutFrame p b s) (headTaken p b (some s.chain.nextFrame) s))
    (countSkipped_frame (by decide) .refl) q

theorem cutStarted_free {p : Nat} : (cutStarted p b s).chain.free = s.chain.free - 2 :=
  (congrArg Chain.free (countSkipped_chain ..)).trans (Nat.sub_zero _)

theorem throughSent_free {p : Nat} : (throughSent p b s).chain.free = s.chain.free - 2 := by
  have hfree : (throughSent p b s).chain.free = (cutStarted p b s).chain.free := rfl
  rw [hfree, cutStarted_free]

theorem headTaken_rx {p : Nat} {cut : Option Nat} :
    (portOf (headTaken p b cut s) p).rx = some (headRx p b cut s) := by
  rw [headTaken, updPort_self]

theorem headTaken_others {p : Nat} {cut : Option Nat} : OtherPorts p s (headTaken p b cut s) := fun q hq => updPort_others q hq

theorem frameHeaderParsed_yields (hr : runs .chain s = true) (hfl : flows (portOf s p.val) = true)
    (hl : (portOf s p.val).lock = true) (hs : (portOf s p.val).rxSleep = false) (hx : (portOf s p.val).rx = none) (hc : 2 ≤ s.chain.free) :
    Yields (.frameHeaderParsed p b) s fun t => (∃ r, (portOf t p.val).rx = some r ∧ r.cells = 2 ∧ r.prio = framePrio s b
        ∧ r.ts = rxStamp s p.val ∧ r.cut = if (classify s b).1 && cutThrough s p.val (framePrio s b) then some s.chain.nextFrame else none)
      ∧ t.chain.free = s.chain.free - 2
      ∧ (((classify s b).1 && cutThrough s p.val (framePrio s b)) = true →
          ∃ x, (portOf t (otherPort p.val)).tx = some x ∧ x.frame = s.chain.nextFrame)
      ∧ (((classify s b).1 && cutThrough s p.val (framePrio s b)) = false → OtherPorts p.val s t ∧ t.chain.frames = s.chain.frames)
      ∧ SameBut [.chain, .time] s t := by
  have hexec := frameHeaderParsed_exec (b := b) hr hfl hl hs hx hc
  cases hcut : ((classify s b).1 && cutThrough s p.val (framePrio s b))
  case true =>
    have hsent : headJudged p.val b s = throughSent p.val b s := if_pos hcut
    rw [hsent] at hexec
    refine .framed ⟨_, hexec, fun hf => ⟨⟨headRx p.val b (some s.chain.nextFrame) s, ?_, rfl, rfl, rfl, rfl⟩, throughSent_free,
      fun _ => ⟨throughTx p.val b s, ?_, rfl⟩, fun h => absurd h (by decide), hf⟩⟩
    · rw [throughSent, updPort_others p.val (otherPort_ne p).symm, cutStarted_portOf, headTaken_rx]
    · rw [throughSent, updPort_self]
  case false =>
    have hstored : headJudged p.val b s = headTaken p.val b none s := if_neg (ne_true_of_eq_false hcut)
    rw [hstored] at hexec
    exact .framed ⟨_, hexec, fun hf => ⟨⟨headRx p.val b none s, headTaken_rx, rfl, rfl, rfl, rfl⟩, rfl, fun h => absurd h (by decide),
      fun _ => ⟨headTaken_others, rfl⟩, hf⟩⟩

end Header

/-! ### The end of a frame (R468 R469 R471 R472) -/

section Received
variable {s : State} {p : Fin 2} {b : Bytes} {e m : Bool} {r : RxFrame}

/-- Its cells are free again, its port receives nothing. -/
def rxEnded (p : Nat) (r : RxFrame) (s : State) : State :=
  clearStale (onChain (fun c => { c with free := c.free + r.cells }) (updPort p (fun x => { x with rx := none }) s))

theorem rxEnded_portOf {p q : Nat} : portOf (rxEnded p r s) q = portOf (updPort p (fun x => { x with rx := none }) s) q := rfl

theorem rxEnded_self {p : Nat} : portOf (rxEnded p r s) p = { portOf s p with rx := none } :=
  rxEnded_portOf.trans updPort_self

theorem rxEnded_others {p : Nat} : OtherPorts p s (rxEnded p r s) := fun q hq =>
  rxEnded_portOf.trans (updPort_others q hq)

theorem rxEnded_credOf {p q k : Nat} : credOf (rxEnded p r s) q k = credOf s q k := by
  refine credOf_eq_of_cred ?_ rfl
  rw [rxEnded_portOf, portOf_updPort]
  split
  · next h => rw [h]
  · rfl

/-- A frame that ends badly frees its cells for the credits of its priority (R472). -/
def cellsFreed (p k n : Nat) (s : State) : State := putCred s p k { credOf s p k with freed := ((credOf s p k).freed + n) % 8192 }

theorem frameBad_eq {p : Nat} (hc : r.cut = none) : frameBad p r b s = cellsFreed p r.prio (cellsOf_ b.length) s := by
  unfold frameBad
  rw [hc]
  rfl

theorem cellsFreed_self {p k n : Nat} : (credOf (cellsFreed p k n s) p k).freed = ((credOf s p k).freed + n) % 8192 := by
  rw [cellsFreed, credOf_putCred, if_pos ⟨rfl, rfl⟩]

theorem cellsFreed_port {p k n : Nat} : portOf (cellsFreed p k n s) p = { portOf s p with cred := (portOf (cellsFreed p k n s) p).cred } := by
  rw [cellsFreed, putCred, putPort_self]

/-- The port with one more frame error (R501). -/
def errCounted (p : Nat) (s : State) : State := updPort p (fun x => { x with fcsErr := satAdd 65535 x.fcsErr 1 }) s

theorem errCounted_self {p : Nat} : portOf (errCounted p s) p = { portOf s p with fcsErr := satAdd 65535 (portOf s p).fcsErr 1 } :=
  updPort_self

theorem frameReceived_bad (hr : runs .chain s = true) (hfl : flows (portOf s p.val) = true) (hx : (portOf s p.val).rx = some r)
    (hc : r.cut = none) (hs : (portOf s p.val).st ≠ .stepTrial) (he : e = true ∨ fcsGood b = false) :
    exec (.frameReceived p b e m) s
      = .next (cellsFreed p.val r.prio (cellsOf_ b.length) (errCounted p.val (rxEnded p.val r s))) := by
  have hflows : ¬ (!flows (portOf s p.val)) = true := by rw [hfl]; decide
  have hcrc : (e || !fcsGood b) = true := by
    rcases he with h | h
    · rw [h]; rfl
    · rw [h]; exact Bool.or_true _
  have hst : (portOf (cellsFreed p.val r.prio (cellsOf_ b.length) (errCounted p.val (rxEnded p.val r s))) p.val).st ≠ .stepTrial := by
    rw [cellsFreed_port, errCounted_self, rxEnded_self]
    exact hs
  refine (ifRuns_runs hr).trans ?_
  rw [hx]
  dsimp only
  rw [if_neg hflows, if_pos hcrc]
  refine congrArg _ ?_
  rw [frameBad_eq hc]
  exact trialError_else hst

theorem badFrame_yields (hr : runs .chain s = true) (hfl : flows (portOf s p.val) = true) (hx : (portOf s p.val).rx = some r)
    (hc : r.cut = none) (hs : (portOf s p.val).st ≠ .stepTrial) (he : e = true ∨ fcsGood b = false) :
    Yields (.frameReceived p b e m) s fun t => (portOf t p.val).rx = none ∧ (portOf t p.val).fcsErr = satAdd 65535 (portOf s p.val).fcsErr 1
      ∧ (portOf t p.val).rxFrames = (portOf s p.val).rxFrames ∧ t.chain.frames = s.chain.frames ∧ t.chain.hostQ = s.chain.hostQ
      ∧ t.chain.mgmtQ = s.chain.mgmtQ ∧ t.chain.free = s.chain.free + r.cells
      ∧ (credOf t p.val r.prio).freed = ((credOf s p.val r.prio).freed + cellsOf_ b.length) % 8192 ∧ OtherPorts p.val s t
      ∧ SameBut [.outputs, .freeCtr, .rings, .faults, .chain] s t := by
  have hport : portOf (cellsFreed p.val r.prio (cellsOf_ b.length) (errCounted p.val (rxEnded p.val r s))) p.val = _ := cellsFreed_port
  rw [errCounted_self, rxEnded_self] at hport
  refine .framed ⟨_, frameReceived_bad hr hfl hx hc hs he, fun hf => ⟨?_, ?_, ?_, rfl, rfl, rfl, rfl, ?_,
    (rxEnded_others.trans updPort_others).trans putCred_others, hf⟩⟩
  · rw [hport]
  · rw [hport]
  · rw [hport]
  · rw [cellsFreed_self, errCounted, credOf_updPort, rxEnded_credOf]

/-- The frame that joins the pool for the other port (R466 R467). -/
def goodFrame (p : Nat) (r : RxFrame) (b : Bytes) (m : Bool) (s : State) : PoolFrame :=
  { id := s.chain.nextFrame, bytes := b, cells := cellsOf_ b.length, prio := r.prio, origin := .ingress p, shared := false
    wants := [.egress (otherPort p)], poison := m, ts := r.ts, period := (portOf s p).period }

/-- A frame for the other port alone joins the pool and that port's queue (R466 R467 R468). -/
theorem frameGood_forwards {p : Nat} (hp : PoolInv s) (hc : r.cut = none) (hcl : classify s b = (true, false, false))
    (hq : s.chain.hostQ.find? (fun x => x.1 == r.prio) = none) :
    frameGood p r b m s = enqueue (otherPort p) s.chain.nextFrame (addFrame (goodFrame p r b m s) s) := by
  have hsettle : settle s.chain.nextFrame (enqueue (otherPort p) s.chain.nextFrame (addFrame (goodFrame p r b m s) s))
      = enqueue (otherPort p) s.chain.nextFrame (addFrame (goodFrame p r b m s) s) :=
    settle_waits (f := goodFrame p r b m s) (frameOf_addFrame (f := goodFrame p r b m s) hp rfl) rfl
  have hfill : fillHost r.prio 1 (enqueue (otherPort p) s.chain.nextFrame (addFrame (goodFrame p r b m s) s))
      = enqueue (otherPort p) s.chain.nextFrame (addFrame (goodFrame p r b m s) s) := fillHost1_idle hq
  refine Eq.trans ?_ ((congrArg (fillHost r.prio 1) hsettle).trans hfill)
  unfold frameGood
  rw [hcl, hc]
  rfl

/-- The port with one more frame received (R501). -/
def rxCounted (p : Nat) (s : State) : State := updPort p (fun x => { x with rxFrames := satAdd (2 ^ 32 - 1) x.rxFrames 1 }) s

theorem frameReceived_good (hr : runs .chain s = true) (hfl : flows (portOf s p.val) = true) (hx : (portOf s p.val).rx = some r)
    (hg : fcsGood b = true) (h64 : 64 ≤ b.length) (hmax : b.length ≤ 2052) :
    exec (.frameReceived p b false m) s = .next (frameGood p.val r b m (rxCounted p.val (rxEnded p.val r s))) := by
  have hflows : ¬ (!flows (portOf s p.val)) = true := by rw [hfl]; decide
  have hcrc : ¬ (false || !fcsGood b) = true := by rw [hg]; decide
  refine (ifRuns_runs hr).trans ?_
  rw [hx]
  dsimp only
  rw [if_neg hflows, if_neg hcrc, if_neg (by omega : ¬ (b.length < 64 ∨ 2052 < b.length))]
  rfl

theorem goodFrame_yields (hr : runs .chain s = true) (hfl : flows (portOf s p.val) = true) (hp : PoolInv s)
    (hx : (portOf s p.val).rx = some r) (hc : r.cut = none) (hg : fcsGood b = true) (h64 : 64 ≤ b.length) (hmax : b.length ≤ 2052)
    (hcl : classify s b = (true, false, false)) (hq : s.chain.hostQ.find? (fun x => x.1 == r.prio) = none) :
    Yields (.frameReceived p b false m) s fun t => (portOf t p.val).rx = none
      ∧ (portOf t p.val).rxFrames = satAdd (2 ^ 32 - 1) (portOf s p.val).rxFrames 1
      ∧ (portOf t (otherPort p.val)).queue = (portOf s (otherPort p.val)).queue ++ [s.chain.nextFrame]
      ∧ t.chain.frames = s.chain.frames ++ [{
          id := s.chain.nextFrame, bytes := b, cells := cellsOf_ b.length, prio := r.prio, origin := .ingress p.val, shared := false
          wants := [.egress (otherPort p.val)], poison := m, ts := r.ts, period := (portOf s p.val).period }]
      ∧ t.chain.free = s.chain.free + r.cells - cellsOf_ b.length ∧ t.chain.hostQ = s.chain.hostQ ∧ t.chain.mgmtQ = s.chain.mgmtQ
      ∧ SameBut [.outputs, .freeCtr, .rings, .faults, .chain] s t := by
  have hself : portOf (rxCounted p.val (rxEnded p.val r s)) p.val
      = { portOf s p.val with rx := none, rxFrames := satAdd (2 ^ 32 - 1) (portOf s p.val).rxFrames 1 } := by
    rw [rxCounted, updPort_self, rxEnded_self]
  have hother : portOf (rxCounted p.val (rxEnded p.val r s)) (otherPort p.val) = portOf s (otherPort p.val) :=
    (rxEnded_others.trans updPort_others) _ (otherPort_ne p)
  have hpool : PoolInv (rxCounted p.val (rxEnded p.val r s)) := fun g hg => hp g hg
  have hclass : classify (rxCounted p.val (rxEnded p.val r s)) b = (true, false, false) := hcl
  have hidle : (rxCounted p.val (rxEnded p.val r s)).chain.hostQ.find? (fun x => x.1 == r.prio) = none := hq
  have hgood := frameGood_forwards (p := p.val) (m := m) hpool hc hclass hidle
  have hport : portOf (enqueue (otherPort p.val) (rxCounted p.val (rxEnded p.val r s)).chain.nextFrame
      (addFrame (goodFrame p.val r b m (rxCounted p.val (rxEnded p.val r s))) (rxCounted p.val (rxEnded p.val r s)))) p.val
      = portOf (rxCounted p.val (rxEnded p.val r s)) p.val := updPort_others p.val (otherPort_ne p).symm
  have hexec := frameReceived_good (m := m) hr hfl hx hg h64 hmax
  rw [hgood] at hexec
  refine .framed ⟨_, hexec, fun hf => ⟨?_, ?_, ?_, ?_, rfl, rfl, rfl, hf⟩⟩
  · rw [hport, hself]
  · rw [hport, hself]
  · exact enqueue_queue.trans (congrArg (· ++ [s.chain.nextFrame]) (congrArg Port.queue hother))
  · show s.chain.frames ++ [goodFrame p.val r b m (rxCounted p.val (rxEnded p.val r s))] = _
    rw [goodFrame, hself]
    rfl

/-! ### Cuts (R469) -/

/-- The port with one more cut frame (R469). -/
def cutCounted (p : Nat) (s : State) : State := updPort p (fun x => { x with rx := none, cutCnt := satAdd 65535 x.cutCnt 1 }) s

theorem cutCounted_self {p : Nat} :
    portOf (cutCounted p s) p = { portOf s p with rx := none, cutCnt := satAdd 65535 (portOf s p).cutCnt 1 } := updPort_self

/-- The port whose reception has stopped before its end. -/
def rxStopped (p n : Nat) (r : RxFrame) (s : State) : State :=
  clearStale (onChain (fun c => { c with free := c.free + r.cells }) (cutCounted p (cellsFreed p r.prio n s)))

theorem rxStopped_portOf {p n q : Nat} : portOf (rxStopped p n r s) q = portOf (cutCounted p (cellsFreed p r.prio n s)) q := rfl

theorem rxStopped_credOf {p n q k : Nat} : credOf (rxStopped p n r s) q k = credOf (cellsFreed p r.prio n s) q k :=
  (credOf_eq_of_cred (congrArg Port.cred rxStopped_portOf) rfl).trans (credOf_updPort (s := cellsFreed p r.prio n s) (p := p))

theorem cutRx_stops {p n : Nat} (hx : (portOf s p).rx = some r) (hc : r.cut = none) : cutRx p n s = rxStopped p n r s := by
  unfold cutRx
  rw [hx]
  dsimp only
  rw [hc]
  rfl

theorem cut_exec {c : Instr} {n : Nat} (hr : runs .chain s = true)
    (hcmd : c = .frameCut p n ∨ ∃ b e m, c = .frameReceived p b e m ∧ n = b.length ∧ flows (portOf s p.val) = false)
    (hx : (portOf s p.val).rx = some r) : exec c s = .next (cutRx p.val (cellsOf_ n) s) := by
  rcases hcmd with rfl | ⟨b, e, m, rfl, rfl, hfl⟩
  · exact ifRuns_runs hr
  · have hflows : (!flows (portOf s p.val)) = true := by rw [hfl]; rfl
    refine (ifRuns_runs hr).trans ?_
    rw [hx]
    exact if_pos hflows

theorem cut_yields {c : Instr} {n : Nat} (hr : runs .chain s = true)
    (hcmd : c = .frameCut p n ∨ ∃ b e m, c = .frameReceived p b e m ∧ n = b.length ∧ flows (portOf s p.val) = false)
    (hx : (portOf s p.val).rx = some r) (hc : r.cut = none) :
    Yields c s fun t => (portOf t p.val).rx = none ∧ (portOf t p.val).cutCnt = satAdd 65535 (portOf s p.val).cutCnt 1
      ∧ (credOf t p.val r.prio).freed = ((credOf s p.val r.prio).freed + cellsOf_ n) % 8192
      ∧ t.chain.free = s.chain.free + r.cells ∧ t.chain.frames = s.chain.frames ∧ t.chain.hostQ = s.chain.hostQ
      ∧ t.chain.mgmtQ = s.chain.mgmtQ ∧ OtherPorts p.val s t ∧ SameBut [.chain] s t := by
  have hstop := cutRx_stops (n := cellsOf_ n) hx hc
  have hself := (rxStopped_portOf (r := r) (n := cellsOf_ n) (s := s) (p := p.val)).trans cutCounted_self
  rw [cellsFreed_port] at hself
  refine ⟨rxStopped p.val (cellsOf_ n) r s, (cut_exec hr hcmd hx).trans (congrArg _ hstop), ?_, ?_, ?_, rfl, rfl, rfl, rfl, ?_,
    hstop ▸ cutRx_frame (by decide) .refl⟩
  · rw [hself]
  · rw [hself]
  · rw [rxStopped_credOf, cellsFreed_self]
  · exact fun q hq => rxStopped_portOf.trans ((updPort_others q hq).trans (putCred_others q hq))

end Received

/-! ### The egress (R468 R471 R477) -/

section Egress
variable {s t : State} {p : Fin 2} {f : PoolFrame}

/-- A timestamp of an egress rests on the clocks, the latencies and the port's step (R506). -/
theorem txStamp_congr {p : Nat} (hc : SameClocks s t) (hp : portOf t p = portOf s p) (hl : t.time.lat = s.time.lat) (hb : t.boot = s.boot) :
    txStamp t p = txStamp s p := by
  simp only [txStamp, stampAt, latency, domAt, hc.now, hc.active, hc.slewTerm, hc.doms, hp, hl, hb]

/-- A frame is read from its cells for the egress (R477 R478 R509). -/
def egressRead (p : Nat) (f : PoolFrame) (s : State) : State := countSkipped f (readParity f (readQueue (8 * p + f.prio) s))

theorem readParity_frame_of {f : PoolFrame} : SameBut [.rings, .faults] s (readParity f s) := readParity_frame (by decide) .refl

theorem countSkipped_clocks {f : PoolFrame} : SameClocks s (countSkipped f s) ∧ (countSkipped f s).time.lat = s.time.lat := by
  unfold countSkipped
  split
  · split
    · exact ⟨⟨fun _ => rfl, rfl, rfl, rfl⟩, rfl⟩
    · exact ⟨.refl, rfl⟩
  · exact ⟨.refl, rfl⟩

theorem egressRead_portOf {p q : Nat} : portOf (egressRead p f s) q = portOf s q := by
  refine (SameBut.portOf_eq (l := [.time]) (countSkipped_frame (by decide) .refl) q).trans ?_
  exact (readParity_frame_of (s := readQueue (8 * p + f.prio) s)).portOf_eq q

theorem egressRead_frames {p : Nat} : (egressRead p f s).chain.frames = s.chain.frames := by
  rw [egressRead, countSkipped_chain, readParity_frame_of.chain_eq]
  rfl

theorem egressRead_txStamp {p q : Nat} : txStamp (egressRead p f s) q = txStamp s q := by
  have hread := readParity_frame_of (f := f) (s := readQueue (8 * p + f.prio) s)
  refine txStamp_congr ?_ egressRead_portOf ?_ ?_
  · have hqueue : SameClocks s (readQueue (8 * p + f.prio) s) := ⟨fun _ => rfl, rfl, rfl, rfl⟩
    exact (hqueue.trans hread.sameClocks).trans countSkipped_clocks.1
  · exact countSkipped_clocks.2.trans (congrArg TimeI.lat hread.time_eq)
  · exact (countSkipped_boot ..).trans hread.boot_eq

/-- A poisoned frame that is read raises the pool's parity fault (R477). -/
theorem readParity_drives (h : f.poison = true) : Drives 264 (readParity f s) := by
  unfold readParity
  dsimp only
  rw [if_pos h]
  split
  · exact raise_drives _ _
  · exact Drives.after_raiseInj (raise_drives _ _)

theorem egressStart_yields (hr : runs .chain s = true) (hfl : flows (portOf s p.val) = true) (ha : (portOf s p.val).asking = false)
    (hx : (portOf s p.val).tx = none) (hs : (portOf s p.val).txSleep = false) (hn : nextFrame s p.val 8 = some f) :
    Yields (.egressStart p) s fun t => portOf t p.val = { portOf s p.val with
        queue := (portOf s p.val).queue.filter (fun y => y != f.id), tx := some { frame := f.id, ts := txStamp s p.val } }
      ∧ t.chain.frames = s.chain.frames ∧ (f.poison = true → Drives 264 t) ∧ OtherPorts p.val s t
      ∧ SameBut [.rings, .faults, .chain, .time] s t := by
  have hgo : ¬ (!flows (portOf s p.val) || (portOf s p.val).asking || (portOf s p.val).tx.isSome || (portOf s p.val).txSleep) = true := by
    rw [hfl, ha, hx, hs]
    decide
  have hexec : exec (.egressStart p) s = .next (updPort p.val (fun x => { x with
      queue := x.queue.filter (fun y => y != f.id), tx := some { frame := f.id, ts := txStamp (egressRead p.val f s) p.val } })
      (egressRead p.val f s)) := by
    refine (ifRuns_runs hr).trans ((if_neg hgo).trans ?_)
    rw [hn]
    rfl
  refine .framed ⟨_, hexec, fun hf => ⟨?_, egressRead_frames, fun h => ?_, fun q hq => (updPort_others q hq).trans egressRead_portOf, hf⟩⟩
  · rw [updPort_self, egressRead_portOf, egressRead_txStamp]
  · exact (readParity_drives h).of_frame (l := [.chain, .time]) (updPort_frame (by decide) (countSkipped_frame (by decide) .refl))

/-! ### The end of an egress (R468 R471 R472 R474) -/

/-- What frees cells leaves the cells sent as they are (R472). -/
def SentKept (s t : State) : Prop := ∀ q k, (credOf t q k).sent = (credOf s q k).sent

theorem SentKept.trans {u : State} (a : SentKept s t) (b : SentKept t u) : SentKept s u := fun q k => (b q k).trans (a q k)

theorem SentKept.of_ports (h : t.chain.ports = s.chain.ports) (hb : t.boot = s.boot) : SentKept s t :=
  fun _ _ => congrArg Cred.sent (credOf_congr h hb)

theorem SentKept.of_frame {l : List Part} (h : SameBut l s t) (hc : .chain ∉ l := by decide) (hb : .boot ∉ l := by decide) : SentKept s t :=
  .of_ports (congrArg Chain.ports (h.chain_eq hc)) (h.boot_eq hb)

theorem countFreed_sent : SentKept s (countFreed f s) := by
  unfold countFreed
  split
  · split
    · intro q k
      rw [credOf_putCred]
      split
      · next h => rw [h.1, h.2]
      · rfl
    · exact fun _ _ => rfl
  · exact fun _ _ => rfl

theorem dropFrame_sent : SentKept s (dropFrame f s) := by
  have hcount : SentKept s (if f.shared then s else countFreed f s) := by
    split
    · exact fun _ _ => rfl
    · exact countFreed_sent
  exact hcount.trans (.of_ports rfl rfl)

theorem settle_sent {id : Nat} : SentKept s (settle id s) := by
  unfold settle
  split
  · exact fun _ _ => rfl
  · split
    · exact fun _ _ => rfl
    · split
      · exact dropFrame_sent
      · split
        · exact fun _ _ => rfl
        · split
          · exact countFreed_sent.trans (.of_ports rfl rfl)
          · exact SentKept.trans (.of_ports rfl rfl) dropFrame_sent

theorem doneWith_sent {id : Nat} {c : Consumer} : SentKept s (doneWith id c s) := SentKept.trans (.of_ports rfl rfl) settle_sent

/-- What ends the wait of a `NET_TX` writes no port and no frame. -/
theorem finishTx_chain (ws : List TxWait) :
    ∀ {s : State}, (finishTx ws s).chain.ports = s.chain.ports ∧ (finishTx ws s).chain.frames = s.chain.frames := by
  induction ws with
  | nil => exact ⟨rfl, rfl⟩
  | cons w r ih =>
    intro s
    unfold finishTx
    obtain ⟨hports, hframes⟩ := ih
    refine ⟨hports.trans ?_, hframes.trans ?_⟩ <;> (split; swap; · rfl) <;> dsimp only <;> split <;> rw [complete_chain] <;> rfl

theorem txEnds_chain {p : Nat} {sent : Option Stamps} :
    (txEnds f p sent s).chain.ports = s.chain.ports ∧ (txEnds f p sent s).chain.frames = s.chain.frames := by
  unfold txEnds
  split
  · exact finishTx_chain _
  · exact ⟨rfl, rfl⟩

theorem txEnds_sent {p : Nat} {sent : Option Stamps} : SentKept s (txEnds f p sent s) :=
  .of_ports txEnds_chain.1 (txEnds_frame (l := [.freeCtr, .rings, .chain]) (by decide) .refl).boot_eq

/-- What settles a frame takes frames from the pool or moves them to its shared cells: the consumers of those that stay are the same. -/
def WantsKept (s t : State) : Prop := ∀ g ∈ t.chain.frames, ∃ g' ∈ s.chain.frames, g'.id = g.id ∧ g'.wants = g.wants

theorem WantsKept.of_frames (h : t.chain.frames = s.chain.frames) : WantsKept s t := fun g hg => ⟨g, h ▸ hg, rfl, rfl⟩

theorem countFreed_frames : (countFreed f s).chain.frames = s.chain.frames := by
  unfold countFreed
  split
  · split
    · rfl
    · rfl
  · rfl

theorem dropFrame_wants : WantsKept s (dropFrame f s) := by
  intro g hg
  have hmem := (List.mem_filter.mp hg).1
  refine ⟨g, ?_, rfl, rfl⟩
  split at hmem
  · exact hmem
  · exact countFreed_frames ▸ hmem

theorem settle_wants {id : Nat} : WantsKept s (settle id s) := by
  unfold settle
  split
  · exact .of_frames rfl
  · split
    · exact .of_frames rfl
    · split
      · exact dropFrame_wants
      · split
        · exact .of_frames rfl
        · split
          · intro g hg
            obtain ⟨g', hg', rfl⟩ := List.mem_map.mp hg
            refine ⟨g', countFreed_frames ▸ hg', ?_⟩
            split
            · exact ⟨rfl, rfl⟩
            · exact ⟨rfl, rfl⟩
          · exact dropFrame_wants (s := countDrop _ s)

/-- A consumer that is done with a frame is no longer among those it waits for (R474). -/
theorem doneWith_gone {id : Nat} {c : Consumer} : ∀ g ∈ (doneWith id c s).chain.frames, g.id = id → c ∉ g.wants := by
  intro g hg hid
  obtain ⟨g', hg', hid', hwants⟩ := settle_wants g hg
  obtain ⟨x, -, rfl⟩ := List.mem_map.mp hg'
  rw [← hwants]
  by_cases h : x.id = id
  · rw [if_pos h]
    exact fun hc => absurd (List.mem_filter.mp hc).2 (by simp)
  · rw [if_neg h] at hid'
    exact absurd (hid'.trans hid) h

theorem sentCounted_sent : (credOf (sentCounted p.val f s) p.val f.prio).sent = (credOf s p.val f.prio).sent + cellsOf_ f.bytes.length := by
  rw [sentCounted, credOf_updPort, credOf_putCred, if_pos ⟨rfl, rfl⟩]

theorem sentCounted_others : OtherPorts p.val s (sentCounted p.val f s) := putCred_others.trans updPort_others

theorem PK.othersStay {p : Nat} (h : PK s t) : OthersStay p s t := fun q _ => by
  rw [eqcred (h q)]
  exact ⟨rfl, rfl, rfl, rfl, rfl, rfl⟩

theorem OtherPorts.stay {p : Nat} (h : OtherPorts p s t) : OthersStay p s t := fun q hq => by
  rw [h q hq]
  exact ⟨rfl, rfl, rfl, rfl, rfl, rfl⟩

theorem frameSent_yields {x : TxFrame} (hr : runs .chain s = true) (hx : (portOf s p.val).tx = some x)
    (hf : frameOf s x.frame = some f) (hw : f.whole = true) (ha : (portOf s p.val).asking = false) :
    Yields (.frameSent p) s fun t => (portOf t p.val).tx = none ∧ (portOf t p.val).txFrames = satAdd (2 ^ 32 - 1) (portOf s p.val).txFrames 1
      ∧ (credOf t p.val f.prio).sent = (credOf s p.val f.prio).sent + cellsOf_ f.bytes.length
      ∧ t.outputs = .frameOut p.val (correctedBytes s f x.ts) (f.poison || f.bad) :: s.outputs
      ∧ (∀ g ∈ t.chain.frames, g.id = f.id → Consumer.egress p.val ∉ g.wants) ∧ OthersStay p.val s t
      ∧ SameBut [.outputs, .freeCtr, .rings, .chain] s t := by
  have hself := frameReleased_self (p := p.val) (s := s) (f := f) (t := x)
  have hsent : SentKept (sentCounted p.val f s) (frameReleased p.val f x s) :=
    SentKept.trans (t := frameGone p.val f x s) (.of_ports rfl rfl) (doneWith_sent.trans txEnds_sent)
  refine .framed ⟨_, frameSent_exec hr hx hf hw ha, fun hframe => ⟨?_, ?_, ?_, ?_, ?_, ?_, hframe⟩⟩
  · exact congrArg Port.tx hself
  · exact congrArg Port.txFrames hself
  · rw [hsent, sentCounted_sent]
  · exact frameReleased_frame.outputs_eq
  · exact fun g hg => doneWith_gone g (txEnds_chain.2 ▸ hg)
  · exact sentCounted_others.stay.trans frameReleased_PK.othersStay

end Egress

/-- Settles O43: the header's rules, the bad, the good and the cut frame, the start and the end of an egress. The frames counted sent
are the model's reading of R501 (notes/assumptions/43), the places of the stamps that of R508 (notes/assumptions/41). -/
theorem framesForwarded : Obligations.FramesForwarded :=
  ⟨fun _ _ _ => frameHeaderParsed_yields, fun _ _ _ _ _ _ => badFrame_yields, fun _ _ _ _ _ => goodFrame_yields, fun _ _ _ _ _ => cut_yields,
    fun _ _ _ => egressStart_yields, fun _ _ _ _ => frameSent_yields⟩

end Sys2Proof.Machine
end

section
/-! PROOF. Host frames, the pool and service messages (13, 15). -/

set_option autoImplicit false
set_option Elab.async false

namespace Sys2Proof.Machine

/-! ### NET_TX (R480) -/

section NetTx
variable {s : State} {id : Nat} {d : Desc} {up : List Nat}

/-- The frame that a `NET_TX` begins to assemble (R474 R480). -/
def hostFrame (id : Nat) (d : Desc) (s : State) : PoolFrame :=
  { id := s.chain.nextFrame, bytes := [], cells := cellsOf_ (le d.bytes 20 4 + 4), prio := le d.bytes 17 1, origin := .host id
    shared := true, wants := [], whole := false }

/-- Its cells are taken and its bytes asked for. -/
def hostFetched (id : Nat) (d : Desc) (s : State) : State :=
  startRead (.desc id) [(le d.bytes 32 8, le d.bytes 20 4)] (addFrame (hostFrame id d s) s)

/-- A `NET_TX` without a frame yet. -/
def txBegun (id : Nat) (d : Desc) (up : List Nat) (s : State) : State :=
  if up.isEmpty then complete id stBUSY [] s
  else if sharedFree s < cellsOf_ (le d.bytes 20 4 + 4) then s
  else hostFetched id d s

theorem netTx_begins (hr : Runs s id 0x48 d) (hup : up = (egressPorts (le d.bytes 16 1)).filter (fun p => linkUp (portOf s p)))
    (ha : assembly s id = none) : exec (.netTx id) s = .next (txBegun id d up s) := by
  show execNetTx id s = _
  rw [execNetTx, runOp_runs hr, ha, hup]
  rfl

theorem hostFetched_frame : SameBut [.outputs, .link] (addFrame (hostFrame id d s) s) (hostFetched id d s) :=
  startRead_frame (by decide) .refl

theorem netTx_begun_yields (hr : Runs s id 0x48 d)
    (hup : up = (egressPorts (le d.bytes 16 1)).filter (fun p => linkUp (portOf s p))) (ha : assembly s id = none) :
    Yields (.netTx id) s fun t => (up = [] → Completed id d stBUSY [] s t)
      ∧ (up ≠ [] → cellsOf_ (le d.bytes 20 4 + 4) ≤ sharedFree s → ∃ f, t.chain.frames = s.chain.frames ++ [f] ∧ f.id = s.chain.nextFrame
          ∧ f.cells = cellsOf_ (le d.bytes 20 4 + 4) ∧ f.shared = true ∧ f.whole = false ∧ f.origin = .host id ∧ f.prio = le d.bytes 17 1
          ∧ t.chain.free = s.chain.free - cellsOf_ (le d.bytes 20 4 + 4) ∧ t.rings = s.rings)
      ∧ (up ≠ [] → sharedFree s < cellsOf_ (le d.bytes 20 4 + 4) → t = s) ∧ SameBut [.outputs, .link, .rings, .chain] s t := by
  have hexec := netTx_begins hr hup ha
  by_cases hnone : up = []
  · have hbusy : txBegun id d up s = complete id stBUSY [] s := if_pos (List.isEmpty_iff.mpr hnone)
    rw [hbusy] at hexec
    exact .framed ⟨_, hexec, fun hf => ⟨fun _ => hr.completed, fun h => absurd hnone h, fun h => absurd hnone h, hf⟩⟩
  · have hsome : ¬ up.isEmpty = true := fun h => hnone (List.isEmpty_iff.mp h)
    by_cases hroom : sharedFree s < cellsOf_ (le d.bytes 20 4 + 4)
    · have hwaits : txBegun id d up s = s := (if_neg hsome).trans (if_pos hroom)
      rw [hwaits] at hexec
      exact .framed ⟨_, hexec, fun hf => ⟨fun h => absurd h hnone, fun _ h => absurd hroom (Nat.not_lt.mpr h), fun _ _ => rfl, hf⟩⟩
    · have hfetch : txBegun id d up s = hostFetched id d s := (if_neg hsome).trans (if_neg hroom)
      have hchain : (hostFetched id d s).chain = (addFrame (hostFrame id d s) s).chain := hostFetched_frame.chain_eq
      rw [hfetch] at hexec
      refine .framed ⟨_, hexec, fun hf => ⟨fun h => absurd h hnone, fun _ _ => ⟨hostFrame id d s, ?_, rfl, rfl, rfl, rfl, rfl, rfl, ?_, ?_⟩,
        fun _ h => absurd h hroom, hf⟩⟩
      · rw [hchain]
        rfl
      · rw [hchain]
        rfl
      · exact hostFetched_frame.rings_eq

/-- A port whose link is up is the one that `EGRESS` names. -/
theorem egressPorts_single {p : Nat} (hp : p < 2) (hl : linkUp (portOf s p) = true) :
    (egressPorts p).filter (fun q => linkUp (portOf s q)) = [p] := by
  rw [egressPorts, if_neg (by omega)]
  exact List.filter_eq_self.mpr fun q hq => by rw [List.mem_singleton.mp hq]; exact hl

/-- The frame is whole: its bytes with their FCS, for one port (R480). -/
def madeWhole (b : Bytes) (p : Nat) (f : PoolFrame) : PoolFrame := { f with bytes := b ++ fcs b, whole := true, wants := [.egress p] }

/-- It is queued for the port, its descriptor waits (R480). -/
def txQueued (id p : Nat) (f : PoolFrame) (b : Bytes) (s : State) : State :=
  onChain (fun c => { c with txWaits := c.txWaits ++ [{ id, left := [p] }] }) (enqueue p f.id (updFrame f.id (madeWhole b p) s))

/-- Its descriptor is taken, and the stale bits of empty queues clear (R478). -/
def txTaken (id p : Nat) (f : PoolFrame) (b : Bytes) (s : State) : State :=
  clearStale (updDesc id (fun d => { d with taken := true }) (txQueued id p f b s))

theorem netTx_queues {p : Nat} {b : Bytes} {f : PoolFrame} (hr : Runs s id 0x48 d) (he : le d.bytes 16 1 = p) (hp : p < 2)
    (hl : linkUp (portOf s p) = true) (ha : assembly s id = some f) (hd : d.failed = false) (hb : d.data = some b) :
    exec (.netTx id) s = .next (txTaken id p f b s) := by
  show execNetTx id s = _
  rw [execNetTx, runOp_runs hr, he, egressPorts_single hp hl, ha]
  dsimp only
  rw [if_neg (ne_true_of_eq_false hd), hb]
  rfl

theorem txTaken_portOf {p q : Nat} {b : Bytes} {f : PoolFrame} :
    portOf (txTaken id p f b s) q = portOf (enqueue p f.id (updFrame f.id (madeWhole b p) s)) q := by
  rw [txTaken, clearStale_portOf]
  rfl

theorem netTx_queued_yields {p : Nat} {b : Bytes} {f : PoolFrame} (hr : Runs s id 0x48 d) (he : le d.bytes 16 1 = p) (hp : p < 2)
    (hl : linkUp (portOf s p) = true) (ha : assembly s id = some f) (hd : d.failed = false) (hb : d.data = some b) :
    Yields (.netTx id) s fun t => (portOf t p).queue = (portOf s p).queue ++ [f.id]
      ∧ t.chain.frames = s.chain.frames.map (fun x => if x.id = f.id then
          { x with bytes := b ++ fcs b, whole := true, wants := [.egress p] } else x)
      ∧ t.chain.txWaits = s.chain.txWaits ++ [{ id, left := [p] }] ∧ descOf t id = some { d with taken := true } ∧ OtherPorts p s t
      ∧ SameBut [.outputs, .link, .rings, .chain] s t := by
  have hdesc : descOf (txQueued id p f b s) id = some d := hr.1
  refine .framed ⟨_, netTx_queues hr he hp hl ha hd hb, fun hf => ⟨?_, rfl, rfl, ?_, fun q hq => ?_, hf⟩⟩
  · rw [txTaken_portOf, enqueue_queue]
    rfl
  · exact descOf_taken hdesc
  · exact txTaken_portOf.trans (updPort_others q hq)

end NetTx

/-! ### NET_RX_POST (R481) -/

section NetRx
variable {s : State} {id r : Nat} {d : Desc} {f : PoolFrame}

/-- The buffer that a `NET_RX_POST` brings. -/
def rxBuf (id : Nat) (d : Desc) : RxBuf := { id, rxq := le d.bytes 16 1, len := le d.bytes 20 4, addr := le d.bytes 32 8 }

/-- It waits for a frame. -/
def bufPosted (id : Nat) (d : Desc) (s : State) : State :=
  onChain (fun c => { c with rxBufs := c.rxBufs ++ [rxBuf id d] }) (updDesc id (fun d => { d with taken := true }) s)

theorem netRxPost_posts (hr : Runs s id 0x49 d) (he : r = le d.bytes 16 1) (hn : (s.chain.rxBufs.filter fun b => b.rxq == r).length < 256) :
    exec (.netRxPost id) s = .next (fillHost1 r (bufPosted id d s)) := by
  show execNetRxPost id s = _
  rw [execNetRxPost, runOp_runs hr, ← he]
  dsimp only
  rw [if_neg (Nat.not_le.mpr hn), he]
  rfl

theorem netRxPost_busy (hr : Runs s id 0x49 d) (he : r = le d.bytes 16 1) (hn : 256 ≤ (s.chain.rxBufs.filter fun b => b.rxq == r).length) :
    exec (.netRxPost id) s = .next (complete id stBUSY [] s) := by
  show execNetRxPost id s = _
  rw [execNetRxPost, runOp_runs hr, ← he]
  exact congrArg _ (if_pos hn)

theorem netRxPost_waits (hr : Runs s id 0x49 d) (he : r = le d.bytes 16 1) (hn : (s.chain.rxBufs.filter fun b => b.rxq == r).length < 256)
    (hq : s.chain.hostQ.find? (fun e => e.1 == r) = none) :
    Yields (.netRxPost id) s fun t =>
      t.chain = { s.chain with rxBufs := s.chain.rxBufs ++ [{ id, rxq := r, len := le d.bytes 20 4, addr := le d.bytes 32 8 }] }
      ∧ descOf t id = some { d with taken := true } ∧ SameBut [.rings, .chain] s t := by
  have hidle : (bufPosted id d s).chain.hostQ.find? (fun e => e.1 == r) = none := hq
  have hexec := netRxPost_posts hr he hn
  rw [fillHost1_idle hidle] at hexec
  refine ⟨_, hexec, ?_, descOf_taken (s := s) hr.1, onChain_frame (by decide) (updDesc_frame (by decide) .refl)⟩
  rw [he]
  rfl

/-- With no injection armed the parity of a good frame is as it stands (R385 R477). -/
theorem readParity_clean (hp : f.poison = false) (hi : s.faults.inj = none) : readParity f s = s := by
  have htake : takeInjs 264 0 (poolWords f).length s = (0, s) := by
    unfold takeInjs
    rw [hi]
  unfold readParity
  rw [htake]
  dsimp only
  rw [if_pos rfl, if_neg (ne_true_of_eq_false hp)]

theorem readQueue_clean {q : Nat} (hp : f.poison = false) (hi : s.faults.inj = none) : readParity f (readQueue q s) = readQueue q s :=
  readParity_clean hp hi

/-- The frame is read for the host (R478 R481). -/
def hostRead (r : Nat) (d : Desc) (f : PoolFrame) (s : State) : State :=
  hostWrite (le d.bytes 32 8) ((f.bytes.take (f.bytes.length - 4)).take (le d.bytes 20 4)) (readQueue (16 + r) s)

/-- Frame and buffer are taken from their queues. -/
def bufFilled (id : Nat) (e : Nat × Nat) (s : State) : State :=
  onChain (fun c => { c with hostQ := c.hostQ.filter (fun x => x != e), rxBufs := c.rxBufs.filter fun x => x.id != id }) s

/-- The buffer's descriptor completes (R481). -/
def hostFilled (id r : Nat) (d : Desc) (e : Nat × Nat) (f : PoolFrame) (s : State) : State :=
  complete id stOK (rxResult s f (le d.bytes 20 4)) (doneWith f.id (.host r) (bufFilled id e (hostRead r d f s)))

theorem rxBufs_first {l : List RxBuf} {b : RxBuf} (hl : l.filter (fun b => b.rxq == r) = []) (hb : b.rxq = r) :
    (l ++ [b]).find? (fun b => b.rxq == r) = some b := by
  have hnone : l.find? (fun b => b.rxq == r) = none := List.find?_eq_none.mpr fun x hx h => List.filter_eq_nil_iff.mp hl x hx h
  rw [List.find?_append, hnone]
  simp [hb]

theorem fillHost1_fills {e : Nat × Nat} {b : RxBuf} (hq : s.chain.hostQ.find? (fun e => e.1 == r) = some e)
    (hb : s.chain.rxBufs.find? (fun b => b.rxq == r) = some b) (hf : frameOf s e.2 = some f) (hd : dmaOk s = true) (hp : f.poison = false)
    (hi : s.faults.inj = none) (hid : b = rxBuf id d) : fillHost1 r s = hostFilled id r d e f s := by
  have hread : readParity f (readQueue (16 + r) s) = readQueue (16 + r) s := readQueue_clean hp hi
  unfold fillHost1
  rw [hq, hb]
  dsimp only
  rw [hf]
  dsimp only
  rw [if_pos hd, hread, if_neg (ne_true_of_eq_false hp), hid]
  rfl

/-- What counts freed cells writes the ports alone. -/
theorem countFreed_chain : (countFreed f s).chain = { s.chain with ports := (countFreed f s).chain.ports } := by
  unfold countFreed
  split
  · split
    · rfl
    · rfl
  · rfl

theorem countFreed_hostQ : (countFreed f s).chain.hostQ = s.chain.hostQ := by rw [countFreed_chain]

/-- A frame that leaves the pool leaves its queues, and its cells are free (R474). -/
theorem dropFrame_chain : (dropFrame f s).chain = { s.chain with
    ports := (dropFrame f s).chain.ports, frames := s.chain.frames.filter fun x => x.id != f.id, free := s.chain.free + f.cells
    hostQ := s.chain.hostQ.filter fun e => e.2 != f.id, mgmtQ := s.chain.mgmtQ.filter fun e => e != f.id } := by
  unfold dropFrame
  dsimp only
  split
  · rfl
  · rw [onChain, countFreed_chain]

/-- What settles a frame queues nothing for the host. -/
theorem settle_hostQ {k : Nat} {e : Nat × Nat} (h : e ∉ s.chain.hostQ) : e ∉ (settle k s).chain.hostQ := by
  have hdrop {g : PoolFrame} {u : State} (hu : u.chain.hostQ = s.chain.hostQ) : e ∉ (dropFrame g u).chain.hostQ := by
    rw [dropFrame_chain, hu]
    exact fun hm => h (List.mem_filter.mp hm).1
  unfold settle
  split
  · exact h
  · split
    · exact h
    · split
      · exact hdrop rfl
      · split
        · exact h
        · split
          · exact fun hm => h (countFreed_hostQ ▸ hm)
          · exact hdrop rfl

theorem hostFilled_outputs {e : Nat × Nat} : (hostFilled id r d e f s).outputs
    = (writePieces s.link.mps (le d.bytes 32 8) ((f.bytes.take (f.bytes.length - 4)).take (le d.bytes 20 4))).reverse ++ s.outputs := by
  have hdone : SameBut [.rings, .chain] (hostRead r d f s) (hostFilled id r d e f s) :=
    complete_frame (by decide) (doneWith_frame (by decide) (onChain_frame (by decide) .refl))
  exact hdone.outputs_eq

theorem netRxPost_fills {e : Nat × Nat} (hr : Runs s id 0x49 d) (he : r = le d.bytes 16 1)
    (hb : s.chain.rxBufs.filter (fun b => b.rxq == r) = []) (hq : s.chain.hostQ.find? (fun e => e.1 == r) = some e)
    (hf : frameOf s e.2 = some f) (hd : dmaOk s = true) (hp : f.poison = false) (hi : s.faults.inj = none) :
    Yields (.netRxPost id) s fun t =>
      t.outputs = (writePieces s.link.mps (le d.bytes 32 8) ((f.bytes.take (f.bytes.length - 4)).take (le d.bytes 20 4))).reverse
          ++ s.outputs
      ∧ t.rings.done = s.rings.done ++ [doneOf { d with taken := true } stOK (rxResult s f (le d.bytes 20 4))]
      ∧ e ∉ t.chain.hostQ ∧ t.faults = s.faults ∧ SameBut [.outputs, .rings, .faults, .chain] s t := by
  have hroom : (s.chain.rxBufs.filter fun b => b.rxq == r).length < 256 := by
    rw [hb]
    decide
  have hbuf : (bufPosted id d s).chain.rxBufs.find? (fun b => b.rxq == r) = some (rxBuf id d) := rxBufs_first hb he.symm
  have hqueue : (bufPosted id d s).chain.hostQ.find? (fun e => e.1 == r) = some e := hq
  have hframe : frameOf (bufPosted id d s) e.2 = some f := hf
  have hdma : dmaOk (bufPosted id d s) = true := hd
  have hinj : (bufPosted id d s).faults.inj = none := hi
  have hdesc : descOf (bufPosted id d s) id = some { d with taken := true } := descOf_taken (s := s) hr.1
  have hexec := netRxPost_posts hr he hroom
  rw [fillHost1_fills hqueue hbuf hframe hdma hp hinj rfl] at hexec
  have hdone : SameBut [.chain] (hostRead r d f (bufPosted id d s)) (doneWith f.id (.host r) (bufFilled id e (hostRead r d f (bufPosted id d s)))) :=
    doneWith_frame (by decide) (onChain_frame (by decide) .refl)
  obtain ⟨hcompleted, -⟩ := completed_after (st := stOK) (r := rxResult (bufPosted id d s) f (le d.bytes 20 4)) hdesc hdone.rings_eq
  refine .framed ⟨_, hexec, fun hfr => ⟨hostFilled_outputs, hcompleted, ?_, ?_, hfr⟩⟩
  · rw [hostFilled, complete_chain]
    exact settle_hostQ fun hm => absurd (List.mem_filter.mp hm).2 (by simp)
  · rw [hostFilled, complete_faults]
    exact hdone.faults_eq

end NetRx

/-! ### The pool's audit and its stale queues (R478 R479) -/

section Pool
variable {s : State}

/-- The first mismatch is kept (R479 R491). -/
def auditKept (s : State) : State :=
  if s.chain.auditValid then s
  else onChain (fun c => { c with auditValid := true, auditQueued := queuedCells s, auditFree := c.free }) s

theorem auditKept_first (h : s.chain.auditValid = false) :
    (auditKept s).chain = { s.chain with auditValid := true, auditQueued := queuedCells s, auditFree := s.chain.free } :=
  congrArg State.chain (if_neg (ne_true_of_eq_false h))

theorem auditKept_later (h : s.chain.auditValid = true) : auditKept s = s := if_pos h

theorem auditKept_valid : (auditKept s).chain.auditValid = true := by
  cases hv : s.chain.auditValid
  case true => rw [auditKept_later hv, hv]
  case false => rw [auditKept_first hv]

theorem chnPoolAudit_yields (hr : runs .chain s = true) (hc : s.chain.free + queuedCells s ≠ 16384) :
    Yields .chnPoolAudit s fun t => Drives 265 t ∧ t.chain.auditValid = true
      ∧ (s.chain.auditValid = false → t.chain.auditQueued = queuedCells s ∧ t.chain.auditFree = s.chain.free)
      ∧ (s.chain.auditValid = true → t.chain = s.chain) ∧ SameBut [.faults, .chain] s t := by
  have hexec : exec .chnPoolAudit s = .next (raise 265 (auditKept s)) := (ifRuns_runs hr).trans (when_holds (decide_eq_true hc))
  refine .framed ⟨_, hexec, fun hf => ⟨raise_drives _ _, ?_, fun h => ?_, fun h => ?_, hf⟩⟩
  · rw [raise_chain, auditKept_valid]
  · rw [raise_chain, auditKept_first h]
    exact ⟨rfl, rfl⟩
  · rw [raise_chain, auditKept_later h]

theorem chnStale_yields {q : Fin 64} (hr : runs .chain s = true) (hc : 0 < queueCells s q.val) (hs : s.chain.stale.testBit q.val = false) :
    Yields (.chnStale q) s fun t => Drives 266 t ∧ t.chain.stale.testBit q.val = true
      ∧ (∀ k, k ≠ q.val → t.chain.stale.testBit k = s.chain.stale.testBit k) ∧ SameBut [.faults, .chain] s t := by
  have hcond : (decide (0 < queueCells s q.val) && !s.chain.stale.testBit q.val) = true := by
    rw [decide_eq_true hc, hs]
    rfl
  refine .framed ⟨_, (ifRuns_runs hr).trans (when_holds hcond), fun hf => ⟨raise_drives _ _, ?_, fun k hk => ?_, hf⟩⟩
  · rw [raise_chain]
    exact (putBit_testBit ..).trans (if_pos rfl)
  · rw [raise_chain]
    exact (putBit_testBit ..).trans (if_neg hk)

end Pool

/-! ### Service messages (R484 R486) -/

section Service
variable {s : State} {m : Bytes} {f : PoolFrame} {id p : Nat}

theorem handleSvc_bad {via : Option Nat} (h : svcGood m = false) : handleSvc via m s = svcBadMsg s := if_pos (by rw [h]; rfl)

/-- A node's own message and one that it has seen are dropped (R484). -/
theorem handleSvc_again {via : Option Nat} (hg : svcGood m = true)
    (h : be m 8 8 = dieNo ∨ s.chain.seen.contains (be m 8 8, be m 4 4) = true) : handleSvc via m s = s :=
  (if_neg (by rw [hg]; decide)).trans (if_pos h)

theorem slipMessage_exec (hr : runs .mp s = true) (hh : s.power.held = false) (he : s.power.svcEn = true) :
    exec (.serviceMessage (some m)) s = .next (handleSvc none (unslip m) s) := by
  refine (ifRuns_runs hr).trans ((if_neg (ne_true_of_eq_false hh)).trans ?_)
  exact congrArg _ (if_pos he)

theorem slipMessage_yields (hr : runs .mp s = true) (hh : s.power.held = false) (he : s.power.svcEn = true) :
    (svcGood (unslip m) = false → Yields (.serviceMessage (some m)) s fun t =>
      t.chain = { s.chain with svcBad := satAdd 65535 s.chain.svcBad 1 } ∧ SameBut [.chain] s t)
    ∧ (svcGood (unslip m) = true → (be (unslip m) 8 8 = dieNo ∨ s.chain.seen.contains (be (unslip m) 8 8, be (unslip m) 4 4) = true) →
      Yields (.serviceMessage (some m)) s fun t => t = s) := by
  have hexec := slipMessage_exec (m := m) hr hh he
  refine ⟨fun hb => ?_, fun hg ha => ?_⟩
  · rw [handleSvc_bad hb] at hexec
    exact ⟨_, hexec, rfl, svcBadMsg_frame (by decide) .refl⟩
  · rw [handleSvc_again hg ha] at hexec
    exact ⟨_, hexec, rfl⟩

/-- The first frame of the management queue leaves it, and queue q counts as read (R477 R478). -/
def mgmtRead (q : Nat) (s : State) : State := onChain (fun c => { c with mgmtQ := c.mgmtQ.drop 1 }) (readQueue q s)

/-- The management processor is done with it (R474). -/
def mgmtTaken (id : Nat) (s : State) : State := doneWith id .mgmt (mgmtRead 24 s)

theorem mgmtMessage_exec {r : List Nat} (hr : runs .mp s = true) (hh : s.power.held = false) (hq : s.chain.mgmtQ = id :: r)
    (hf : frameOf s id = some f) (ho : f.origin = .ingress p) (hp : f.poison = false) (hi : s.faults.inj = none)
    (ht : etherType f.bytes = 0x88B5) : exec (.serviceMessage none) s
      = .next (handleSvc (some p) ((f.bytes.take (f.bytes.length - 4)).drop (payOff f.bytes)) (mgmtTaken id s)) := by
  have hread : readParity f (readQueue 24 s) = readQueue 24 s := readQueue_clean hp hi
  have htype : ¬ etherType f.bytes ≠ 0x88B5 := fun h => h ht
  show execServiceMessage none s = _
  rw [execServiceMessage, ifRuns_runs hr, if_neg (ne_true_of_eq_false hh), hq]
  dsimp only
  rw [hf]
  dsimp only
  rw [hread, if_neg htype, if_neg (ne_true_of_eq_false hp), ho]
  rfl

/-- A frame of the pool after a change of one. -/
theorem frameOf_updFrame {g : PoolFrame → PoolFrame} {k : Nat} (hg : ∀ x, (g x).id = x.id) :
    frameOf (updFrame id g s) k = (frameOf s k).map fun x => if x.id = id then g x else x := by
  unfold frameOf updFrame onChain
  dsimp only
  rw [List.find?_map]
  congr 2
  funext x
  dsimp only [Function.comp_apply]
  split
  · rw [hg]
  · rfl

/-- The frame as its last consumer leaves it. -/
def unwanted (f : PoolFrame) : PoolFrame := { f with wants := [] }

/-- What the management processor alone wanted is dropped once it is done (R474). -/
theorem doneWith_drops {c : Consumer} (hf : frameOf s id = some f) (hw : f.wants = [c]) (hwhole : f.whole = true) :
    doneWith id c s = dropFrame (unwanted f) (updFrame id (fun f => { f with wants := f.wants.filter fun w => w != c }) s) := by
  have hleft : (fun f : PoolFrame => { f with wants := f.wants.filter fun w => w != c }) f = unwanted f := by
    dsimp only
    rw [hw]
    simp [unwanted]
  have hfound : frameOf (updFrame id (fun f => { f with wants := f.wants.filter fun w => w != c }) s) id = some (unwanted f) := by
    rw [frameOf_updFrame (by intro; rfl), hf, Option.map_some, if_pos (frameOf_id hf)]
    exact congrArg some hleft
  have hdone : ¬ (!(unwanted f).whole) = true := by
    show ¬ (!f.whole) = true
    rw [hwhole]
    decide
  unfold doneWith settle
  rw [hfound]
  exact (if_neg hdone).trans (if_pos rfl)

/-- The message's number is remembered (R484). -/
def msgSeen (m : Bytes) (s : State) : State := onChain (fun c => { c with seen := ((be m 8 8, be m 4 4) :: c.seen).take 64 }) s

/-- A `HELLO` that is not to be relayed (R484 R486). -/
theorem handleSvc_hello (hg : svcGood m = true) (hd : be m 8 8 ≠ dieNo) (hn : s.chain.seen.contains (be m 8 8, be m 4 4) = false)
    (ht : le m 1 1 = 1) (hrelay : (le m 3 1).testBit 0 = false) :
    handleSvc (some p) m s = hello p (be m 8 8) (sub m 20 (be m 16 2)) (msgSeen m s) := by
  have hnew : ¬ (be m 8 8 = dieNo ∨ s.chain.seen.contains (be m 8 8, be m 4 4) = true) := fun h =>
    h.elim hd (ne_true_of_eq_false hn)
  have hproc : processSvc (some p) m (msgSeen m s) = (false, hello p (be m 8 8) (sub m 20 (be m 16 2)) (msgSeen m s)) := by
    unfold processSvc
    dsimp only
    rw [ht]
    rfl
  have hgood : ¬ (!svcGood m) = true := by rw [hg]; decide
  unfold handleSvc
  dsimp only
  rw [if_neg hgood, if_neg hnew, if_neg fun h => Bool.false_ne_true (hrelay.symm.trans h.1)]
  exact congrArg Prod.snd hproc

/-- The pool without the frame that the management processor alone wanted. -/
def mgmtDropped (q id : Nat) (f : PoolFrame) (s : State) : State :=
  dropFrame (unwanted f) (updFrame id (fun f => { f with wants := f.wants.filter fun w => w != Consumer.mgmt }) (mgmtRead q s))

theorem mgmtTaken_drops (hf : frameOf s id = some f) (hw : f.wants = [.mgmt]) (hwhole : f.whole = true) :
    mgmtTaken id s = mgmtDropped 24 id f s := by
  have hread {q : Nat} : frameOf (mgmtRead q s) id = some f := hf
  exact doneWith_drops hread hw hwhole

theorem mgmtDropped_chain {q : Nat} : (mgmtDropped q id f s).chain.free = s.chain.free + f.cells
    ∧ (∀ g ∈ (mgmtDropped q id f s).chain.frames, g.id ≠ f.id) ∧ (mgmtDropped q id f s).chain.seen = s.chain.seen := by
  rw [mgmtDropped, dropFrame_chain]
  exact ⟨rfl, fun g hg => by simpa [unwanted] using (List.mem_filter.mp hg).2, rfl⟩

theorem mgmtDropped_PK {q : Nat} : PK s (mgmtDropped q id f s) :=
  (PK.of (s := s) (t := updFrame id (fun f => { f with wants := f.wants.filter fun w => w != Consumer.mgmt }) (mgmtRead q s)) rfl rfl).trans
    (dropFrame_PK _ _)

theorem helloMessage_yields {r : List Nat} (hr : runs .mp s = true) (hh : s.power.held = false) (hq : s.chain.mgmtQ = id :: r)
    (hf : frameOf s id = some f) (ho : f.origin = .ingress p) (hw : f.wants = [.mgmt]) (hwhole : f.whole = true) (hp : f.poison = false)
    (hi : s.faults.inj = none) (ht : etherType f.bytes = 0x88B5)
    (hm : m = (f.bytes.take (f.bytes.length - 4)).drop (payOff f.bytes)) (hg : svcGood m = true) (hd : be m 8 8 ≠ dieNo)
    (hn : s.chain.seen.contains (be m 8 8, be m 4 4) = false) (htype : le m 1 1 = 1) (hrelay : (le m 3 1).testBit 0 = false) :
    Yields (.serviceMessage none) s fun t => (portOf t p).neighOk = true ∧ (portOf t p).partner = be m 8 8
      ∧ t.chain.seen = ((be m 8 8, be m 4 4) :: s.chain.seen).take 64 ∧ t.chain.free = s.chain.free + f.cells
      ∧ (∀ g ∈ t.chain.frames, g.id ≠ id) ∧ OthersStay p s t
      ∧ SameBut [.outputs, .freeCtr, .rings, .safety, .faults, .cal, .chain, .time, .nvm] s t := by
  obtain ⟨hfree, hframes, hseen⟩ := mgmtDropped_chain (q := 24) (id := id) (f := f) (s := s)
  have hpk := mgmtDropped_PK (q := 24) (id := id) (f := f) (s := s)
  have hexec := mgmtMessage_exec hr hh hq hf ho hp hi ht
  rw [mgmtTaken_drops hf hw hwhole, ← hm] at hexec
  generalize mgmtDropped 24 id f s = u at *
  rw [handleSvc_hello hg hd (by rw [hseen]; exact hn) htype hrelay] at hexec
  refine .framed ⟨_, hexec, fun hfr => ⟨?_, ?_, ?_, ?_, ?_, ?_, hfr⟩⟩
  · rw [hello, updPort_self]
  · rw [hello, updPort_self]
  · rw [← hseen]
    rfl
  · exact hfree
  · exact fun g hgm => frameOf_id hf ▸ hframes g hgm
  · exact hpk.othersStay.trans (OtherPorts.stay (OtherPorts.trans (t := msgSeen m u) (fun _ _ => rfl) updPort_others))

end Service

/-! ### What the node sends of itself (R486 R539 R544) -/

section Sends
variable {s t : State} {m : Bytes}

/-- The node's message with its own number, on port 0 (R465 R474 R483). -/
def ownSent (m : Bytes) (s : State) : State :=
  enqueue 0 s.chain.nextFrame (addFrame (mgmtFrame 0 6 (svcFrame s m) s) (onChain (fun c => { c with seq := c.seq + 1 }) s))

theorem ownSent_queue : (portOf (ownSent m s) 0).queue = (portOf s 0).queue ++ [s.chain.nextFrame] := enqueue_queue

theorem ownSent_frames : (ownSent m s).chain.frames = s.chain.frames ++ [mgmtFrame 0 6 (svcFrame s m) s] := rfl

theorem svcFrame_congr (h : t.chain.mac = s.chain.mac) : svcFrame t m = svcFrame s m := by rw [svcFrame, svcFrame, h]

theorem sharedFree_congr (hp : t.chain.ports = s.chain.ports) (hf : t.chain.frames = s.chain.frames) (hb : t.boot = s.boot) :
    sharedFree t = sharedFree s := by
  simp only [sharedFree, reservedCells, credOf_congr hp hb, hf]

/-- The count of messages goes on (R483). -/
def seqTaken (s : State) : State := onChain (fun c => { c with seq := c.seq + 1 }) s

theorem sendSvc_own (hu : (portOf s 0).st = .up) (hc : cellsOf_ (svcFrame s m).length ≤ sharedFree s) :
    sendSvc 0 m (seqTaken s) = ownSent m s := by
  have hframe : svcFrame (seqTaken s) m = svcFrame s m := svcFrame_congr rfl
  have hfree : sharedFree (seqTaken s) = sharedFree s := sharedFree_congr rfl rfl rfl
  have hup : (portOf (seqTaken s) 0).st = .up := hu
  rw [sendSvc, hframe]
  exact sendMgmt_sends hup (by rw [hfree]; exact hc)

/-- A disabled port sends nothing (R484). -/
theorem sendSvc_disabled {p : Nat} (h : (portOf s p).st = .disabled) : sendSvc p m s = s := by
  refine if_neg fun hc => ?_
  rw [h] at hc
  rcases hc.1 with h | h
  · exact absurd h (by decide)
  · exact absurd h (by decide)

theorem ownSent_portOf_one : portOf (ownSent m s) 1 = portOf s 1 := updPort_others 1 (by decide)

/-- With port 1 disabled a message for both ports goes out on port 0. -/
theorem sendBoth_own {typ hops flags : Nat} {pay : Bytes} (hu : (portOf s 0).st = .up) (hd : (portOf s 1).st = .disabled)
    (hc : cellsOf_ (svcFrame s (svcBytes typ hops flags (s.chain.seq % 2 ^ 32) dieNo pay)).length ≤ sharedFree s) :
    sendBoth typ hops flags pay s = ownSent (svcBytes typ hops flags (s.chain.seq % 2 ^ 32) dieNo pay) s := by
  refine (congrArg (sendSvc 1 _) (sendSvc_own hu hc)).trans (sendSvc_disabled ?_)
  rw [ownSent_portOf_one, hd]

theorem helloTransmit_yields (hr : runs .mp s = true) (hh : s.power.held = false) (hu : (portOf s 0).st = .up)
    (hd : (portOf s 1).st = .disabled)
    (hc : cellsOf_ (svcFrame s (svcBytes 1 1 0 (s.chain.seq % 2 ^ 32) dieNo (helloPay 0 s))).length ≤ sharedFree s) :
    Yields .helloTransmit s fun t => t.chain.seq = s.chain.seq + 1 ∧ (portOf t 0).queue = (portOf s 0).queue ++ [s.chain.nextFrame]
      ∧ (∃ f, t.chain.frames = s.chain.frames ++ [f] ∧ f.id = s.chain.nextFrame ∧ f.prio = 6 ∧ f.shared = true ∧ f.wants = [.egress 0]
          ∧ f.bytes = svcFrame s (svcBytes 1 1 0 (s.chain.seq % 2 ^ 32) dieNo (helloPay 0 s))) ∧ SameBut [.chain] s t := by
  have hone : (portOf (ownSent (svcBytes 1 1 0 (s.chain.seq % 2 ^ 32) dieNo (helloPay 0 s)) s) 1).st ≠ .up := by
    rw [ownSent_portOf_one, hd]
    decide
  have hheld : (!s.power.held) = true := by rw [hh]; rfl
  have hexec : exec .helloTransmit s = .next (ownSent (svcBytes 1 1 0 (s.chain.seq % 2 ^ 32) dieNo (helloPay 0 s)) s) := by
    show execHelloTransmit s = _
    rw [execHelloTransmit, ifRuns_runs hr, when_holds hheld]
    have hzero : helloOn 0 s = ownSent (svcBytes 1 1 0 (s.chain.seq % 2 ^ 32) dieNo (helloPay 0 s)) s := (if_pos hu).trans (sendSvc_own hu hc)
    rw [hzero, helloOn, if_neg hone]
  exact .framed ⟨_, hexec, fun hf => ⟨rfl, ownSent_queue, ⟨_, ownSent_frames, rfl, rfl, rfl, rfl, rfl⟩, hf⟩⟩

theorem fwRequestTimer_yields {image : Nat} (hr : runs .mp s = true) (hn : namedImage s = some image)
    (hm : firstMissing s < neededBlocks s) (hf : s.nvm.noFw = true) (hu : (portOf s 0).st = .up) (hd : (portOf s 1).st = .disabled)
    (hc : cellsOf_ (svcFrame s (svcBytes 4 64 1 (s.chain.seq % 2 ^ 32) dieNo
      (toLe 8 image ++ toBe 4 (firstMissing s) ++ toBe 4 (missingRun s (firstMissing s) 64)))).length ≤ sharedFree s) :
    Yields .fwRequestTimer s fun t => t.chain.seq = s.chain.seq + 1 ∧ (portOf t 0).queue = (portOf s 0).queue ++ [s.chain.nextFrame]
      ∧ (∃ f, t.chain.frames = s.chain.frames ++ [f] ∧ f.id = s.chain.nextFrame ∧ f.wants = [.egress 0]
          ∧ f.bytes = svcFrame s (svcBytes 4 64 1 (s.chain.seq % 2 ^ 32) dieNo
              (toLe 8 image ++ toBe 4 (firstMissing s) ++ toBe 4 (missingRun s (firstMissing s) 64)))) ∧ SameBut [.chain] s t := by
  have hcond : (decide (firstMissing s < neededBlocks s)
      && (s.nvm.noFw || (s.nvm.running && s.nvm.fwState == 1 && s.nvm.source != 1))) = true := by
    rw [decide_eq_true hm, hf]
    rfl
  have hexec : exec .fwRequestTimer s = .next (ownSent (svcBytes 4 64 1 (s.chain.seq % 2 ^ 32) dieNo
      (toLe 8 image ++ toBe 4 (firstMissing s) ++ toBe 4 (missingRun s (firstMissing s) 64))) s) := by
    show execFwRequestTimer s = _
    rw [execFwRequestTimer, ifRuns_runs hr, hn]
    dsimp only
    rw [when_holds hcond, sendBoth_own hu hd hc]
  exact .framed ⟨_, hexec, fun hfr => ⟨rfl, ownSent_queue, ⟨_, ownSent_frames, rfl, rfl, rfl⟩, hfr⟩⟩

theorem length_toLe {n v : Nat} : (toLe n v).length = n := by
  induction n generalizing v with
  | zero => rfl
  | succ n ih => rw [toLe, List.length_cons, ih]

theorem length_toBe {n v : Nat} : (toBe n v).length = n := List.length_reverse.trans length_toLe

theorem length_fwStatusPay {image state : Nat} : (fwStatusPay image state t).length = 20 := by
  simp only [fwStatusPay, List.length_append, length_toLe, length_toBe]

theorem length_svcBytes {typ hops flags seq origin : Nat} {pay : Bytes} :
    (svcBytes typ hops flags seq origin pay).length = 24 + pay.length := by
  simp only [svcBytes, List.length_append, length_toBe]
  omega

/-- A short message is padded to the least length of a frame (R483). -/
theorem length_svcFrame (h : m.length ≤ 46) : (svcFrame s m).length = 64 := by
  simp only [svcFrame, fcs, List.length_append, List.length_replicate, length_toLe, length_toBe]
  omega

/-- A `FW_STATUS` takes two cells (R471 R542). -/
theorem fwStatus_cells {image state seq : Nat} :
    cellsOf_ (svcFrame s (svcBytes 5 64 1 seq dieNo (fwStatusPay image state t))).length = 2 := by
  have hshort : (svcBytes 5 64 1 seq dieNo (fwStatusPay image state t)).length ≤ 46 := by
    rw [length_svcBytes, length_fwStatusPay]
    decide
  rw [length_svcFrame hshort]
  rfl

/-- A page being written shows no header, whatever its bytes are (R532 R539). -/
theorem imageHeader_eq : imageHeader s = match pageWritten s ((partPages 1).1 + 0) with
    | some _ => []
    | none => if (Tab.get { bytes := List.replicate 512 0#8, seq := 0 } s.nvm.pages ((partPages 1).1 + 0)).seq = 0 then []
        else (Tab.get { bytes := List.replicate 512 0#8, seq := 0 } s.nvm.pages ((partPages 1).1 + 0)).bytes := by
  unfold imageHeader partPage
  dsimp only
  cases pageWritten s ((partPages 1).1 + 0) with
  | some r => rfl
  | none =>
    dsimp only
    generalize Tab.get _ s.nvm.pages _ = old
    by_cases h : old.seq = 0
    · rw [if_pos h, h]
      rfl
    · rw [if_neg h, decide_eq_true h]
      rfl

theorem imageHeader_fresh : imageHeader (freshFree s).2 = imageHeader s := by
  rw [imageHeader_eq, imageHeader_eq]
  rfl

theorem fwStatusPay_fresh {image state : Nat} : fwStatusPay image state (freshFree s).2 = fwStatusPay image state s := by
  have hneeded : neededBlocks (freshFree s).2 = neededBlocks s := by
    rw [neededBlocks, neededBlocks, partBlocks, partBlocks, imageHeader_fresh]
    rfl
  rw [fwStatusPay, fwStatusPay, firstMissing, firstMissing, hneeded]
  rfl

/-- The number of the image is a value of its own: there is none to name (R539). -/
theorem bootFailStatusTimer_yields (hr : runs .mp s = true) (hf : s.nvm.noFw = true) (hh : headerOk (imageHeader s) = false)
    (ho : s.nvm.offerSeen = false) (hu : (portOf s 0).st = .up) (hd : (portOf s 1).st = .disabled) (hc : 2 ≤ sharedFree s) :
    Yields .bootFailStatusTimer s fun t => t.chain.seq = s.chain.seq + 1 ∧ (portOf t 0).queue = (portOf s 0).queue ++ [s.chain.nextFrame]
      ∧ (∃ f v, t.chain.frames = s.chain.frames ++ [f] ∧ f.id = s.chain.nextFrame ∧ f.wants = [.egress 0]
          ∧ f.bytes = svcFrame s (svcBytes 5 64 1 (s.chain.seq % 2 ^ 32) dieNo (fwStatusPay v 5 s))) ∧ SameBut [.freeCtr, .chain] s t := by
  have hcond : (s.nvm.noFw && !headerOk (imageHeader s) && !s.nvm.offerSeen) = true := by
    rw [hf, hh, ho]
    rfl
  have hfree : sharedFree (freshFree s).2 = sharedFree s := sharedFree_congr rfl rfl rfl
  have hsent := sendBoth_own (s := (freshFree s).2) (typ := 5) (hops := 64) (flags := 1) (pay := fwStatusPay (freshFree s).1.toNat 5 s) hu hd
    (by rw [fwStatus_cells, hfree]; exact hc)
  have hexec : exec .bootFailStatusTimer s = .next (sendBoth 5 64 1 (fwStatusPay (freshFree s).1.toNat 5 (freshFree s).2) (freshFree s).2) := by
    show execBootFailStatusTimer s = _
    rw [execBootFailStatusTimer, ifRuns_runs hr, when_holds hcond]
  have hmac : (freshFree s).2.chain.mac = s.chain.mac := rfl
  rw [fwStatusPay_fresh, hsent] at hexec
  exact .framed ⟨_, hexec, fun hfr => ⟨rfl, ownSent_queue, ⟨_, (freshFree s).1.toNat, ownSent_frames, rfl, rfl, svcFrame_congr hmac⟩, hfr⟩⟩

end Sends

/-- Settles O44: `NET_TX` and `NET_RX_POST`, the audit and the stale check, messages of the service port and of the chain, and the
messages that the node sends of itself. The service port's framing is PRESUMED (notes/assumptions/79), and that a message counts as
relayed only where it goes out is the model's reading (notes/assumptions/45). -/
theorem hostFramesAndMessages : Obligations.HostFramesAndMessages :=
  ⟨fun _ _ _ _ => netTx_begun_yields, fun _ _ _ _ _ _ => netTx_queued_yields,
    fun _ _ _ _ hr he => ⟨fun hn => .of_complete hr (netRxPost_busy hr he hn), netRxPost_waits hr he, fun _ _ => netRxPost_fills hr he⟩,
    fun _ => chnPoolAudit_yields, fun _ _ => chnStale_yields, fun _ _ => slipMessage_yields, fun _ _ _ _ _ _ => helloMessage_yields,
    fun _ => helloTransmit_yields, fun _ _ => fwRequestTimer_yields, fun _ => bootFailStatusTimer_yields⟩

end Sys2Proof.Machine
end
